-- ==== Sys2Proof/Word.lean ====
section
/-! DEFINITION. The words of the NKA-2100: 32-bit registers, bytes, and the indices that name its blocks (R4, R5, Table 1-1). -/

namespace Sys2Proof

/-- A register word: registers take 32-bit accesses (R37). -/
abbrev Word := BitVec 32

/-- One byte of the device address space. -/
abbrev Byte := BitVec 8

/-- A register view: BAR0 is privileged, BAR2 unprivileged (R32, R33). -/
inductive View where
  | bar0
  | bar2
deriving DecidableEq, Repr

/-- What a register access addresses: a register view, or BAR4 with the MSI-X table, the pending bits and the CXL component registers
(R32, Table 2-3). -/
inductive Bar where
  | regs (view : View)
  | bar4
deriving DecidableEq, Repr

/-- Array die or memory-side die `2q + d`: quadrant `q`, `d` 0 for die A and 1 for die B. -/
abbrev Die8 := Fin 8

/-- Gradient die of quadrant `q`. -/
abbrev Quad := Fin 4

/-- Core of a gradient die (gradient or vector). -/
abbrev Core := Fin 16

/-- Update engine `2q + u`. -/
abbrev Engine := Fin 8

/-- Physical panel of an array die. -/
abbrev PanelNo := Fin 68

/-- Seam port S0-S15. -/
abbrev PortNo := Fin 16

/-- Graph queue. -/
abbrev QueueNo := Fin 64

/-- Monitor converter MC0-MC3. -/
abbrev McNo := Fin 4

/-- DMA channel of a memory-side die. -/
abbrev ChanNo := Fin 32

end Sys2Proof
end

