-- ==== Sys2Proof/Syntax.lean ====
section
/-! DEFINITION. The commands of the NKA-2100: one constructor per row of the opcode table, with the operands that the
command carries. A task command names a fetched task by its module-wide sequence number (R287). A register command
names the view it arrives in (R33). What only the physical world decides (a pulse fault, a converter's codes, the
outcome of a field test) is an operand. -/

namespace Sys2Proof

/-- The protocols of the CXL port (R21). -/
inductive CxlProtocol where
  | io
  | cache
  | mem
deriving DecidableEq, Repr

/-- The state that a CXL link change leaves (R56): `LINK_STATUS` fields. -/
structure CxlLink where
  width : Fin 17
  rate  : Fin 5
  up    : Bool
  lopt  : Bool
  ideIo : Bool
  ideCm : Bool
deriving DecidableEq, Repr

/-- What a flit that fails its integrity check carries (R57): nothing that changes the module, a host write of Tier B, or a register
write. -/
inductive FlitData where
  | nothing
  | memWrite (off : Nat) (data : List Byte)
  | regWrite (bar : Bar) (off : Nat) (v : Word)
deriving DecidableEq, Repr

/-- A flit that fails its integrity check: its protocol, and what it carries. -/
structure FailedFlit where
  proto   : CxlProtocol
  carried : FlitData
deriving DecidableEq, Repr

/-- The messages through the DOE mailbox that the manual gives an answer to (R21, R23, R449, R451), and any other. -/
inductive SpdmRequest where
  | cdat
  | certificate (offset length : Nat)
  | measurement (index : Nat)
  | keyExchange (transcript : List Byte)
  | ideKey (proto : CxlProtocol) (start : Bool)
  | ideMode (skid : Bool)
  | other (code : Byte)
deriving DecidableEq, Repr

/-- A message through the DOE mailbox: whether it belongs to the session, and its request. -/
structure DoeMessage where
  secured : Bool
  req     : SpdmRequest
deriving DecidableEq, Repr

/-- What the cells do while a load writes them (R127, R128): nothing wrong, a pulse fault, or codes that converters give at the check of
the end; a converter not listed reads its offset. -/
inductive LoadPhysics where
  | good
  | pulseFault (array : Fin 32) (row : Fin 512)
  | checked (codes : List (Fin 32 × Fin 96 × BitVec 8))
deriving DecidableEq, Repr

/-- What the error correction of a DRAM line finds (R308). -/
inductive Ecc where
  | good
  | corrected
  | uncorrectable
deriving DecidableEq, Repr

/-- What forward error correction makes of the codeword that carries a flit (R348): symbols corrected, or lost. -/
inductive Fec where
  | corrected (symbols : Nat)
  | uncorrectable
deriving DecidableEq, Repr

/-- What a training flit of the neighbour says (R349), with the width and rate both sides reach. -/
structure TrainingFlit where
  peerValid : Bool
  peerStore : Bool
  peerId    : Fin 4096
  peerPort  : Fin 16
  level     : Fin 256
  lanes     : Fin 5
  halfRate  : Bool
  credits0  : Nat
  credits1  : Nat
  credits2  : Nat
  credits3  : Nat
deriving DecidableEq, Repr

/-- Whether a die's part of a replay run came out right (R388): the products, and the probe. -/
structure RunHealth where
  products : Bool
  probe    : Bool
deriving DecidableEq, Repr

/-- A core as `FT_CMD` names it (Table 15-10): quadrant, gradient or vector, core. -/
structure CoreName where
  quad   : Quad
  vector : Bool
  core   : Core
deriving DecidableEq, Repr


/-- The commands of the block: one constructor per row of the opcode table, in its order. -/
inductive Instr where
  /-- REGISTER_WRITE (R13). A write to a register that has no row of its own is applied at once, or posted until the running task completes at a crossing point. -/
  | registerWrite (bar : Bar) (off : Nat) (v : Word)
  /-- BAD_ACCESS (R37). An access of the wrong size or alignment, or to an unassigned offset, is not applied; it increments BAD_ACCESS_COUNT and logs event 0x0D01. -/
  | badAccess (view : View) (off size : Nat) (isWrite : Bool)
  /-- PAIR_LO_READ (R38). A read of the LO half of a 64-bit pair latches HI into a shadow for the next HI read. -/
  | pairLoRead (bar : Bar) (off : Nat)
  /-- PAIR_HI_WRITE (R38). A write of the HI half of a 64-bit pair commits both halves, the LO half having been held. -/
  | pairHiWrite (view : View) (off : Nat) (v : Word)
  /-- GRANT_WRITE (R36). A write to a BAR2 grant register takes effect for every BAR2 access accepted after the write completes. -/
  | grantWrite (view : View) (reg : Fin 7) (v : Word)
  /-- HOST_LEVEL_WRITE (R47). The driver writes HOST_LEVEL; the lower of it and DEV_LEVEL comes into force, or the write is ignored with event 0x0D02 while a queue is enabled. -/
  | hostLevelWrite (view : View) (v : Word)
  /-- QUIESCE (R15). Setting PAGE_CTL.QUIESCE makes the crossing point finish its running task and accept no more; clearing it resumes dispatch. -/
  | quiesce (view : View) (page : Nat) (on : Bool)
  /-- BLOCK_RESET (R16). PAGE_CTL.BLOCK_RESET stops the block's running task with ABORTED and resets the block, keeping pending tasks. -/
  | blockReset (view : View) (page : Nat)
  /-- BLOCK_RESET_DONE (R41). A block reset ends when the running task or operation has stopped and the block is READY again, within 1 µs. -/
  | blockResetDone (page : Nat)
  /-- PAGE_ENABLE (R41). A write of PAGE_CTL.EN enables a block, or makes it behave as quiesced and gate its clocks once idle. -/
  | pageEnable (view : View) (page : Nat) (on : Bool)
  /-- INT_STATUS_CLEAR (R52). A W1C write to INT_STATUS clears causes, unless a cause sets the same bit in that clock, which raises the vector again. -/
  | intStatusClear (view : View) (page : Nat) (mask setNow : Word)
  /-- INT_ENABLE_WRITE (R51). A write to INT_ENABLE raises the page's vector when it enables a bit whose status is already 1. -/
  | intEnableWrite (view : View) (page : Nat) (v : Word)
  /-- INT_SET (R51). A W1S write to INT_SET raises the named defined causes for test and raises the vector where enabled. -/
  | intSet (view : View) (page : Nat) (mask : Word)
  /-- MODERATION_EXPIRY (R53). At the end of a vector's moderation interval, the merged raises are sent as one MSI-X message. -/
  | moderationExpiry (vec : Fin 2048)
  /-- VECTOR_UNMASK (R53). Unmasking a vector with its pending bit set sends its message as CXL.io MSI-X defines. -/
  | vectorUnmask (vec : Fin 2048)
  /-- CONFIG_REQUEST (R471). A CXL configuration request is completed with Configuration Request Retry Status in DEV_STATE 0x1 and 0x2, and normally from 0x3. -/
  | configRequest (isWrite : Bool) (dword : Fin 1024)
  /-- HOST_MEM_WRITE (R29). A host CXL.mem write to Tier B writes the lines and, with HDM_SEAL.EN 1, recomputes the seal of each block touched. -/
  | hostMemWrite (off : Nat) (data : List Byte)
  /-- HOST_MEM_READ (R28). A host CXL.mem read of Tier B sets the line's host-held mark and returns poison with event 0x0D05 for an uncorrectable line. -/
  | hostMemRead (off : Nat)
  /-- BACK_INVALIDATE_RESPONSE (R28). The response to a back-invalidate snoop for a host-held line arrives; the die clears the mark and lets the waiting engine access proceed. -/
  | backInvalidateResponse (line : Nat)
  /-- CACHE_REQUEST_ISSUE (R26). A CXL.cache request waiting in the port issues once fewer than 512 requests are outstanding. -/
  | cacheRequestIssue
  /-- CXL_LINK_CHANGE (R56). The CXL link changes state; LINK_STATUS follows it, LINK_CHANGE is set and event 0x0D03 is logged. -/
  | cxlLinkChange (link : CxlLink)
  /-- IDE_INTEGRITY_FAILURE (R57). An IDE integrity failure is handled under the containment or skid mode in force and logs event 0x0D04. -/
  | ideIntegrityFailure (stream : Byte) (flit : FailedFlit)
  /-- SPDM_REQUEST (R23). An SPDM message through the DOE mailbox is answered, including certificate exchange, measurements and IDE key management. -/
  | spdmRequest (msg : DoeMessage)
  /-- ARRAY_FWD (R120). An ARRAY_FWD task is dispatched to its panels, checked against its placement descriptor, and drives its tokens through the sleeves. -/
  | arrayFwd (task : Nat)
  /-- ARRAY_REV (R113). An ARRAY_REV task is dispatched and drives dY on the columns, sensing the rows on the forward placement. -/
  | arrayRev (task : Nat)
  /-- CROSS_PANEL_PARTIAL (R156). A sender's group results for a token arrive at the receiving entry, are seal-checked and added in the fixed cross-panel order. -/
  | crossPanelPartial (task group token receiver : Nat) (sealOk : Bool)
  /-- ARRAY_LOAD (R132). An ARRAY_LOAD task checks the image header and programs the named panels from the code image, FULL or DIFF. -/
  | arrayLoad (task : Nat)
  /-- LOAD_BLOCK_ARRIVAL (R132). An image block arrives and is seal-checked, and rows whose blocks have arrived for all tiles are written. -/
  | loadBlockArrival (die : Die8) (panel : PanelNo) (phys : LoadPhysics)
  /-- PANEL_AGED (R136). CONTENT_AGE reaches REFRESH_AGE, so the panel becomes aged and its AGED cause is set. -/
  | panelAged (die : Die8) (panel : PanelNo)
  /-- PANEL_REFRESH (R136). An aged panel is refreshed by a FULL load from its recorded image at its next gap between tasks under AUTO 1. -/
  | panelRefresh (die : Die8) (panel : PanelNo)
  /-- REFRESH_COMPLETE (R136). A refresh ends; the panel is valid, or stays aged with REFRESH_DEFERRED on a tag mismatch or seal failure. -/
  | refreshComplete (die : Die8) (panel : PanelNo) (phys : LoadPhysics)
  /-- RETIRE_CTL_RETIRE (R142). RETIRE_CTL with OP 1 retires a panel with cause host between tasks. -/
  | retireCtlRetire (view : View) (die : Die8) (panel : BitVec 7)
  /-- RETIRE_CTL_REINSTATE (R145). RETIRE_CTL with OP 2 reinstates a host-retired panel below WEAR_LIMIT as a spare. -/
  | retireCtlReinstate (view : View) (die : Die8) (panel : BitVec 7)
  /-- SPARE_FILL_REQUEST (R143). The die controller requests a spare fill from the maintenance arbiter, repeating every 1,024 ticks on MAINT_BUSY. -/
  | spareFillRequest (die : Die8)
  /-- SPARE_FILL_COMPLETE (R143). A spare fill's FULL load ends, or the spare fails and the fill restarts on the next spare. -/
  | spareFillComplete (die : Die8) (phys : LoadPhysics)
  /-- CASTLING_REMAP (R143). Between tasks the spare takes logical panel L, the source becomes retired and pending tasks dispatch to the spare. -/
  | castlingRemap (die : Die8)
  /-- GRAD_MM (R189). A GRAD_MM task is checked at dispatch and its work items are handed to the die's gradient cores. -/
  | gradMm (task : Nat)
  /-- WORK_ITEM_DONE (R183). A gradient core finishes a work item or tree level and takes the next item in (ot, sh) order. -/
  | workItemDone (quad : Quad) (core : Core)
  /-- VEC_PATTERN (R213). A VEC_PATTERN task is checked, reloads the pattern stores when needed, and hands row groups to the vector cores. -/
  | vecPattern (task : Nat)
  /-- CONVERT (R214). A CONVERT task converts a tensor in memory between formats on the vector cores. -/
  | convert (task : Nat)
  /-- ROW_GROUP_DONE (R212). A vector core finishes a row group and takes the next one in ascending order. -/
  | rowGroupDone (quad : Quad) (core : Core)
  /-- PAT_FLUSH (R219). A write of PAT_FLUSH invalidates the core's pattern store between tasks. -/
  | patFlush (view : View) (quad : Quad) (core : Core)
  /-- FLAGS_CLEAR (R219). A W1C write to the vector core's sticky FLAGS applies between tasks. -/
  | flagsClear (view : View) (quad : Quad) (core : Core) (mask : Word)
  /-- UPDATE_NORMAL (R223). An UPDATE in mode NORMAL is dispatched and waits in the tag-wait state until STEP_TAG equals its step. -/
  | updateNormal (task : Nat)
  /-- UPDATE_COMMIT (R235). An UPDATE in mode COMMIT replays passes 1 and 2 of a held layer with the held step and η and commits. -/
  | updateCommit (task : Nat)
  /-- UPDATE_DISCARD (R235). An UPDATE in mode DISCARD clears a hold, losing the step's update of the layer. -/
  | updateDiscard (task : Nat)
  /-- UPDATE_PROBE (R235). An UPDATE in mode PROBE runs pass 1 of a held layer and writes only a result record with its digest. -/
  | updateProbe (task : Nat)
  /-- UPDATE_DERIVE (R237). An UPDATE in mode DERIVE writes a code image from W with the other slot's scales. -/
  | updateDerive (task : Nat)
  /-- UPDATE_DERIVE_SCALES (R237). An UPDATE in mode DERIVE_SCALES forms new column scales from W, writes them to both slots and writes an image with them. -/
  | updateDeriveScales (task : Nat)
  /-- TAG_WAIT_END (R231). STEP_TAG comes to equal the task's step; the engine latches η and starts pass 1. -/
  | tagWaitEnd (eng : Engine)
  /-- STEP_TAG_STALE (R231). The tag wait reaches UPDATE_WAIT_MAX ticks; the task completes STEP_TAG_STALE and logs event 0x0402. -/
  | stepTagStale (eng : Engine)
  /-- PASS1_DONE (R224). Pass 1 has read all of G and M; the engine decides whether the layer is suspect and holds it or goes on. -/
  | pass1Done (eng : Engine)
  /-- CHECKPOINT_INTERLOCK_CLEAR (R239). LS_CKPT_MARK clears and a waiting update engine makes its first write within 1 µs. -/
  | checkpointInterlockClear (eng : Engine)
  /-- CHECKPOINT_INTERLOCK_TIMEOUT (R239). The checkpoint wait exceeds UPDATE_WAIT_MAX; the task completes TIMEOUT and logs event 0x0403. -/
  | checkpointInterlockTimeout (eng : Engine)
  /-- PASS2_DONE (R228). Pass 2 ends and the engine commits the state header, or records a PARTIAL layer on a seal failure. -/
  | pass2Done (eng : Engine)
  /-- HOLD_REQ (R232). A write of HOLD_REQ arms a host replay request for the layer named on that update engine. -/
  | holdReq (view : View) (eng : Engine) (arm : Bool) (layer : BitVec 16)
  /-- MEASURING_PREPASS_DONE (R254). A measuring pre-pass ends, sets AMAX and the task then runs in full under the resulting exponent. -/
  | measuringPrepassDone (task : Nat)
  /-- WT_LOAD (R264). A write of WT_CTL.LOAD reads and seal-checks the watch table and puts it in force. -/
  | wtLoad (view : View) (quad : Quad)
  /-- EST_SAVE (R265). EST_CTL.OP SAVE writes the watch's estimator table as eight sealed blocks. -/
  | estSave (view : View) (quad : Quad)
  /-- EST_LOAD (R265). EST_CTL.OP LOAD reads and seal-checks the estimator table into every slot, clearing windows and REPLAYS. -/
  | estLoad (view : View) (quad : Quad)
  /-- EST_CLEAR (R265). EST_CTL.OP CLEAR makes every estimator slot invalid. -/
  | estClear (view : View) (quad : Quad)
  /-- TAIL_WRITE (R269). The host writes a queue's TAIL, clamped while enabled, posting descriptors for fetch. -/
  | tailWrite (view : View) (q : QueueNo) (v : Word)
  /-- QUEUE_ENABLE (R268). Setting Q_CTL.EN sets HEAD, CONSUMED and COMPLETED to TAIL and starts fetching. -/
  | queueEnable (view : View) (q : QueueNo)
  /-- QUEUE_DISABLE (R299). Clearing Q_CTL.EN stops fetching, aborts fetched undispatched tasks and closes the queue's window. -/
  | queueDisable (view : View) (q : QueueNo)
  /-- QUEUE_PAUSE (R299). Q_CTL.PAUSE stops the queue fetching and dispatching without discarding anything. -/
  | queuePause (view : View) (q : QueueNo) (on : Bool)
  /-- SCHED_HOLD (R299). SCHED_CTL.HOLD stops dispatch of every queue while fetch continues. -/
  | schedHold (view : View) (on : Bool)
  /-- DESCRIPTOR_FETCH (R270). A queue fetches an aligned burst of descriptors and checks each at fetch, refusing failures. -/
  | descriptorFetch (q : QueueNo)
  /-- BUTTON_REGISTER_WRITE (R276). A register write to a button's VALUE or BASE re-evaluates every wait and condition on it. -/
  | buttonRegisterWrite (view : View) (btn : Fin 16384) (isBase : Bool) (v : Word)
  /-- TASK_WAIT_TIMEOUT (R282). A task's waits have not passed within WAIT_MAX ticks of fetch; it completes TIMEOUT with event 0x0606. -/
  | taskWaitTimeout (task : Nat)
  /-- NOP (R281). A NOP, or a reserved type 0x00–0xEF, completes DONE when ready. -/
  | nop (task : Nat)
  /-- STEP_OPEN (R293). STEP_OPEN snapshots its button range, opens the replay window for its queue and reports s to the watches. -/
  | stepOpen (task : Nat)
  /-- HEM (R290). A HEM whose queue has drained asks the watch, or closes at once, and rebases its layer range on CLOSE. -/
  | hem (task : Nat)
  /-- WAIT_TEMPO (R281). A WAIT_TEMPO task becomes ready and sets its absolute or relative target count. -/
  | waitTempo (task : Nat)
  /-- WAIT_TEMPO_EXPIRY (R281). The tempo count reaches a WAIT_TEMPO target and the task completes DONE. -/
  | waitTempoExpiry (task : Nat)
  /-- BUTTON_OP (R280). A BUTTON_OP task applies its four operations in one scheduler cycle, then signals. -/
  | buttonOp (task : Nat)
  /-- TASK_COMPLETION (R285). A task that has run completes: outputs and records, its completion record, its signals, then queue causes and COMPLETED. -/
  | taskCompletion (task : Nat)
  /-- DMA_COPY (R317). A DMA_COPY is checked and loaded into the shadow of the die's lowest free graph channel. -/
  | dmaCopy (task : Nat)
  /-- CH_ARM (R312). Setting CH_CTL.ARM on a direct channel arms its shadow set, which an idle channel starts at once. -/
  | chArm (view : View) (die : Die8) (ch : ChanNo)
  /-- CH_ABORT (R315). CH_CTL.ABORT on a running direct channel stops issue, completes issued bursts and ends the transfer ABORTED. -/
  | chAbort (view : View) (die : Die8) (ch : ChanNo)
  /-- CH_OWNER_WRITE (R309). A write of CH_CTL.OWNER assigns the channel to the graph or to direct use, applied only while idle. -/
  | chOwnerWrite (view : View) (die : Die8) (ch : ChanNo) (direct : Bool)
  /-- SHADOW_WRITE (R312). A write to a direct channel's shadow field is applied, or while ARM is 1 is refused with event 0x0708. -/
  | shadowWrite (view : View) (die : Die8) (ch : ChanNo) (reg : Fin 8) (v : Word)
  /-- SW_REQ (R310). A write to SW_REQ pulses a request line, adding one credit to each channel paced by it. -/
  | swReq (view : View) (die : Die8) (line : Byte)
  /-- REQUEST_LINE_PULSE (R310). A hardware source pulses a request line, adding a credit to each channel it paces. -/
  | requestLinePulse (die : Die8) (line : Fin 118)
  /-- DMA_BURST_ISSUE (R311). A channel issues its next burst once it holds a tag and, when paced, a credit. -/
  | dmaBurstIssue (die : Die8) (ch : ChanNo)
  /-- DMA_TRANSFER_END (R313). A transfer ends: RESIDUE and LAST are set, the status record written, DONE_COUNT raised and an armed shadow started. -/
  | dmaTransferEnd (die : Die8) (ch : ChanNo)
  /-- DRAM_READ_COMPLETE (R308). A controller read completes, correcting single-symbol errors or reporting an uncorrectable line with event 0x0701. -/
  | dramReadComplete (addr : Nat) (ecc : Ecc)
  /-- GATHER_ROWS (R319). A GATHER in row mode copies indexed table rows to output rows, zeroing out-of-range indices. -/
  | gatherRows (task : Nat)
  /-- GATHER_EXPERTS (R321). A GATHER in expert mode groups tokens per expert into main and spill lists, writes route records and adds to buttons. -/
  | gatherExperts (task : Nat)
  /-- SCATTER_ADD (R320). A SCATTER_ADD adds input rows into the indexed rows of a binary32 table in ascending position order. -/
  | scatterAdd (task : Nat)
  /-- TEMPO_TICK (R331). A tick from the selected source advances the tempo count unless it is stalled. -/
  | tempoTick
  /-- TEMPO_MARK (R333). A TEMPO_MARK pulse is checked against the count, applying an armed epoch, correcting the count or counting a mark error. -/
  | tempoMark
  /-- TEMPO_SOURCE_LOST (R333). No tick edge for 3 periods puts the unit in holdover with the LOST cause and event 0x0801. -/
  | tempoSourceLost
  /-- EPOCH_ARM (R334). Setting TEMPO_CTL.EPOCH_ARM arms EPOCH_SET for the next mark or 2^20 boundary. -/
  | epochArm (view : View)
  /-- BEACON_SEND (R336). Every 1,024 ticks a BEACON carrying the count is sent on each port with BEACON_TX set. -/
  | beaconSend
  /-- BEACON_DELAY_MEASURE (R336). At link training and every 2^20 ticks the unit sends an ECHO_REQ to measure the beacon port's delay. -/
  | beaconDelayMeasure (timer : BitVec 64)
  /-- BEACON_LOSS (R337). The beacon port is down or silent for 4,096 ticks; the unit enters holdover and may switch ports. -/
  | beaconLoss
  /-- EVT_ARM (R342). EVT_CMD ARM checks the staged entry and arms it, or refuses with RESULT and event 0x0804. -/
  | evtArm (view : View)
  /-- EVT_DISARM (R342). EVT_CMD DISARM disarms the selected entry after the index check. -/
  | evtDisarm (view : View)
  /-- EVT_READ (R342). EVT_CMD READ copies the selected entry into the staging window. -/
  | evtRead (view : View)
  /-- EVENT_FIRE (R340). The tempo count reaches an armed entry's COUNT; its action goes to every die controller and the scheduler. -/
  | eventFire
  /-- SNAPSHOT_POINT_DRAINED (R341). No task outside the checkpoint class runs any longer, so the scheduler adds 1 to the snapshot-point button. -/
  | snapshotPointDrained
  /-- SNAPSHOT_POINT_END (R341). At COUNT + PARAM the snapshot point ends and dispatch resumes. -/
  | snapshotPointEnd
  /-- PORT_TRAINING_DONE (R349). A Seam port completes training; UP becomes 1 with the width, rate and level and event 0x0901. -/
  | portTrainingDone (port : PortNo) (peer : TrainingFlit)
  /-- PORT_TRAINING_RETRY (R349). A port not trained within 1 s reports down and retries training every 1 s. -/
  | portTrainingRetry (port : PortNo)
  /-- PORT_CTL_RETRAIN (R349). A write of PORT_CTL.RETRAIN retrains the port. -/
  | portCtlRetrain (view : View) (port : PortNo)
  /-- FLIT_RECEIVE (R351). A flit arrives; a good in-order data flit is accepted, otherwise NAK is sent, and ACK, NAK and credits are taken. -/
  | flitReceive (port : PortNo) (flit : List Byte) (fec : Fec)
  /-- ACK_TIMEOUT (R351). ACK has not advanced for 2 µs with flits unacknowledged, so the sender replays. -/
  | ackTimeout (port : PortNo)
  /-- LINK_DOWN (R351). A retrain fails; UP becomes 0, the replay buffer and queued messages are discarded and event 0x0902 is logged. -/
  | linkDown (port : PortNo)
  /-- MESSAGE_FORWARD (R354). A message for another node is forwarded on its routing entry's port, or dropped as unroutable or at the hop limit. -/
  | messageForward (port : PortNo)
  /-- WRITE (R358). A received WRITE writes its data into a receive window and answers WRITE_ACK. -/
  | write (port : PortNo)
  /-- WRITE_ACK (R365). A received WRITE_ACK acknowledges a WRITE or BUTTON_ADD of a SEAM_PUT. -/
  | writeAck (port : PortNo)
  /-- READ (R358). A received READ returns the data of a receive window in READ_DATA with its seal. -/
  | read (port : PortNo)
  /-- READ_DATA (R365). A received READ_DATA is written into the local range of a SEAM_GET. -/
  | readData (port : PortNo)
  /-- BUTTON_ADD (R359). A received BUTTON_ADD adds ARG to a graph button once earlier WRITEs from the same source are written. -/
  | buttonAdd (port : PortNo)
  /-- CONTRIB (R367). A received collective segment is added in the fixed reduction order for its instance. -/
  | contrib (port : PortNo)
  /-- RESULT_SEG (R367). A received all-gather segment is written into the result. -/
  | resultSeg (port : PortNo)
  /-- LATE_SEG (R370). A received late contribution segment is kept by its owner within LATE_CLOSE and LATE_MAX, or dropped. -/
  | lateSeg (port : PortNo)
  /-- LEDGER_SEG (R370). A received ledger segment is written into the ledger of the step's parity. -/
  | ledgerSeg (port : PortNo)
  /-- BEACON (R336). A received BEACON on the beacon port corrects the count to the sent count plus the delay. -/
  | beacon (port : PortNo)
  /-- ECHO_REQ (R360). A received ECHO_REQ is answered with ECHO_RESP carrying the hold time. -/
  | echoReq (port : PortNo) (heldNs : Word)
  /-- ECHO_RESP (R360). A received ECHO_RESP gives the one-way delay into BEACON_DELAY. -/
  | echoResp (port : PortNo) (timer : BitVec 64)
  /-- SCHEDULE (R361). A received SCHEDULE arms its event entry under the arm checks and is forwarded down the broadcast tree. -/
  | schedule (port : PortNo)
  /-- STORE_ACK (R365). A received STORE_ACK acknowledges a block sent to a shared store. -/
  | storeAck (port : PortNo)
  /-- STORE_DATA (R365). A received STORE_DATA writes a block fetched from a shared store. -/
  | storeData (port : PortNo)
  /-- STORE_STAT_RESP (R362). A received STORE_STAT_RESP gives an object's size in blocks. -/
  | storeStatResp (port : PortNo)
  /-- SCHED_CMD_SEND (R361). SCHED_CMD.SEND arms the staged event entry locally and broadcasts it as SCHEDULE. -/
  | schedCmdSend (view : View)
  /-- SEAM_PUT (R363). A SEAM_PUT sends a local range to a remote module or store and optionally a BUTTON_ADD after all acknowledgements. -/
  | seamPut (task : Nat)
  /-- SEAM_GET (R363). A SEAM_GET fetches a remote range or store blocks into local memory. -/
  | seamGet (task : Nat)
  /-- TRANSACTION_TIMEOUT (R365). No response arrives for TXN_TIMEOUT ticks; the task completes TIMEOUT with event 0x090D. -/
  | transactionTimeout (task : Nat)
  /-- COLL_LOAD (R366). COLL_CTL.LOAD reads and seal-checks the collective table and starts every instance at COLL_STEP. -/
  | collLoad (view : View)
  /-- COLLECTIVE (R368). A COLLECTIVE binds its contribution to the instance of its step, waits for a later step, or acts late. -/
  | collective (task : Nat)
  /-- COLLECTIVE_ABANDON (R369). WAIT_MAX after the deadline a waiting member abandons the instance, completes TIMEOUT and writes a zero ledger head. -/
  | collectiveAbandon (entry : Fin 4096)
  /-- LEDGER_CLOSE (R370). At the ledger close each owner folds its kept late ranks and sends LEDGER_SEG, or adds LEDGER_BTN without a ledger. -/
  | ledgerClose (entry : Fin 4096)
  /-- LEDGER_SEG_TIMEOUT (R371). A member still missing a LEDGER_SEG writes a zero head, adds LEDGER_BTN and logs event 0x090B. -/
  | ledgerSegTimeout (entry : Fin 4096)
  /-- RESEAL (R385). SEAL OP RESEAL computes and writes the seal of each block of the range. -/
  | reseal (view : View) (die : Die8)
  /-- CHECK (R385). SEAL OP CHECK checks each block of the range, counting failures and logging event 0x0A01 once. -/
  | check (view : View) (die : Die8)
  /-- ZERO (R385). SEAL OP ZERO writes each block of the range as zeros with its seal. -/
  | zero (view : View) (die : Die8)
  /-- SEAL_OP_DONE (R385). A SEAL page operation ends with LAST done, fault or reset and sets OP_DONE. -/
  | sealOpDone (die : Die8)
  /-- ENTRY_DATA_WRITE (R401). A write of ENTRY_DATA stores a seal entry directly and logs event 0x0A0B. -/
  | entryDataWrite (view : View) (die : Die8) (v : Word)
  /-- REPLAY_START (R387). REPLAY_CMD.START checks the replay record, chooses dies B and C and requests the REPLAY grant. -/
  | replayStart (view : View)
  /-- REPLAY_RUNS_AB_DONE (R389). Runs A and B and their digests are formed; agreement commits G_A, otherwise run C starts. -/
  | replayRunsAbDone (a b : RunHealth)
  /-- REPLAY_RUN_C_DONE (R389). Run C and its digests are formed and Table 15-3 decides the outcome. -/
  | replayRunCDone (c : RunHealth)
  /-- REPLAY_END (R390). The replay writes its result record, logs event 0x0A04, sets REPLAY and releases its grant. -/
  | replayEnd
  /-- MINORITY_FIELD_TEST_RETRY (R390). A refused field-test request for a minority die's core is repeated every 1,024 ticks. -/
  | minorityFieldTestRetry
  /-- DIGEST_EXCHANGE (R391). A DIGEST_EXCHANGE forms the model digest and binds it to an all-gather collective entry. -/
  | digestExchange (task : Nat)
  /-- DIGEST_VERDICT (R392). Once the gathered digests are in place each member reaches a verdict and writes its result record. -/
  | digestVerdict (task : Nat)
  /-- FT_CMD_TEST (R395). FT_CMD OP 1 requests a field test of the named core. -/
  | ftCmdTest (view : View) (core : CoreName)
  /-- FT_CMD_REINSTATE (R397). FT_CMD OP 2 tests a retired core twice and reinstates it when both pass. -/
  | ftCmdReinstate (view : View) (core : CoreName)
  /-- FIELD_TEST_RUN (R395). The granted core goes idle within FT_WAIT and its known-answer test runs. -/
  | fieldTestRun
  /-- FIELD_TEST_SKIP (R395). The core does not go idle within FT_WAIT; it is returned, FT_SKIPPED counted and event 0x0A09 logged. -/
  | fieldTestSkip
  /-- FIELD_TEST_DONE (R396). A field test ends; a failure is retested at once and a second failure retires the core. -/
  | fieldTestDone (pass : Bool)
  /-- SNAPSHOT (R408). A SNAPSHOT reads and checks its manifest and requests the CKPT grant. -/
  | snapshot (task : Nat)
  /-- SNAPSHOT_MARK (R409). After running UPDATEs on listed records complete, SNAPSHOT sets the checkpoint marks, saves estimators and copies the key table. -/
  | snapshotMark (task : Nat)
  /-- SNAPSHOT_LAYER_STREAMED (R410). Every block of a layer's sections has been read and checked, so the layer's LS_CKPT_MARK is cleared. -/
  | snapshotLayerStreamed (task : Nat)
  /-- SNAPSHOT_HEADER_WRITE (R406). Every body block of a target is written or acknowledged, so the checkpoint header is written to it. -/
  | snapshotHeaderWrite (task : Nat)
  /-- EVALUATION_SNAPSHOT (R419). A SNAPSHOT of kind 1–3 exports the listed masters and signs its header. -/
  | evaluationSnapshot (task : Nat)
  /-- RESTORE (R417). A RESTORE checks the checkpoint and step, then writes the state and commits it when the body digest matches. -/
  | restore (task : Nat)
  /-- SEQ_START (R431). SEQ_CTL.START starts the monitor sequence, or is ignored as an overrun. -/
  | seqStart (view : View) (mc : McNo)
  /-- SEQ_STOP (R431). SEQ_CTL.STOP discards the running entry and leaves the sequence idle. -/
  | seqStop (view : View) (mc : McNo)
  /-- URGENT (R432). A write of URGENT.REQ queues an urgent conversion, or refuses it when the queue is full. -/
  | urgent (view : View) (mc : McNo) (channel : BitVec 5) (avg : BitVec 4)
  /-- URGENT_START (R432). The head of the urgent queue starts at the next sample boundary, pre-empting the sequence entry. -/
  | urgentStart (mc : McNo)
  /-- MONITOR_CONVERSION_DONE (R430). A monitor conversion ends and writes RESULT and RESULT_TEMPO of its channel. -/
  | monitorConversionDone (mc : McNo) (sum : Nat)
  /-- PAIR_CHECK_DUE (R433). A pair check falls due at a multiple of PAIR_PERIOD and starts at the first common free boundary. -/
  | pairCheckDue (pair : Fin 2)
  /-- PAIR_CHECK_DONE (R434). A pair check ends; the pair is trusted or becomes untrusted with event 0x0C05 or 0x0C06. -/
  | pairCheckDone (pair : Fin 2) (sumEven sumOdd : Nat)
  /-- FIRST_SWEEP_RETRY (R435). 10 ms after a failed first pair check both converters repeat the first sweep and check. -/
  | firstSweepRetry (pair : Fin 2)
  /-- ARRAY_DIE_REFERRAL (R428). With records loaded and a trusted first sweep, the die controller forms k, refers its gain fields and readies its panels. -/
  | arrayDieReferral (die : Die8)
  /-- STAGE (R443). FW_CMD STAGE requests FW_STAGE, checks the header and writes the image into the free slot. -/
  | stage (view : View)
  /-- STAGE_COMPLETE (R443). Staging ends after write and read-back digests; the slot is staged or invalid and the grant is released. -/
  | stageComplete (flashGood : Bool)
  /-- ACTIVATE (R444). FW_CMD ACTIVATE names the staged slot as pending in boot control. -/
  | activate (view : View)
  /-- CONFIRM (R447). FW_CMD CONFIRM during a trial makes the trial slot active and advances the anti-rollback fuses. -/
  | confirm (view : View)
  /-- CANCEL (R444). FW_CMD CANCEL clears a pending slot that has not yet booted. -/
  | cancel (view : View)
  /-- TRIAL_EXPIRED (R446). TRIAL_LEFT reaches 0; TRIAL_EXPIRED is set and event 0x0E07 logged while the trial runs on. -/
  | trialExpired
  /-- ATT_START (R451). ATT_CMD.START forms and signs an attestation report over the nonce. -/
  | attStart (view : View)
  /-- REPORT_DONE (R451). The attestation report is formed, written to ATT_ADDR when set, and event 0x0E08 logged. -/
  | reportDone
  /-- EVENT_COMMIT (R453). A queued event-record entry is programmed and read back with a good CRC, releasing a waiting reporter. -/
  | eventCommit
  /-- COMPACTION (R454). With 16 free blocks compaction requests RF_COMPACT, retried every 100 µs, then copies state entries and erases the oldest block. -/
  | compaction
  /-- REC_SEL_WRITE (R456). A write of REC_SEL shows the selected event-record entry in REC_DATA within 2 µs. -/
  | recSelWrite (view : View) (seq : BitVec 64)
  /-- DUMP_START (R456). DUMP_CMD.START copies entries in SEQ order to DUMP_ADDR, sealed. -/
  | dumpStart (view : View)
  /-- DUMP_DONE (R456). A dump ends, setting DUMP_CMD.LAST and the DUMP_DONE cause. -/
  | dumpDone
  /-- POWER_ON (R464). The input reaches 40 V; the module raises its rails in order and holds power-on reset. -/
  | powerOn
  /-- POWER_ON_RESET_RELEASE (R464). Power-on reset is released at 30 ms and DEV_STATE becomes firmware boot. -/
  | powerOnResetRelease (straps : BitVec 2)
  /-- FIRMWARE_BOOT_DONE (R471). The boot ROM has chosen and started an image, the record start is logged and DEV_STATE becomes 0x2. -/
  | firmwareBootDone
  /-- RESET_N (R467). RESET_N held low for 10 µs resets all dies and restarts the device manager. -/
  | resetN
  /-- PERST (R467). CXL PERST# resets the module as RESET_N does. -/
  | perst
  /-- RESET_CTL_MODULE (R469). RESET_CTL.MODULE runs the stop sequence and then resets the module. -/
  | resetCtlModule (view : View)
  /-- RESET_CTL_ENGINES (R470). RESET_CTL.ENGINES commits wear entries, clears checkpoint marks and resets the engines scope. -/
  | resetCtlEngines (view : View)
  /-- STOP_CTL_START (R469). STOP_CTL.START makes DEV_STATE stopping and disables every graph queue. -/
  | stopCtlStart (view : View)
  /-- STOP_SEQUENCE_DONE (R469). Running tasks complete or 100 ms pass; wear and clean-stop entries are committed and STOP_DONE set. -/
  | stopSequenceDone
  /-- PLL_LOCK_LOST (R466). A PLL loses lock or REFCLK is lost; its CLOCK cause is set and event 0x0F03 logged. -/
  | pllLockLost (bit : Fin 25)
  /-- GOVERNOR_LIMITING (R463). The governor starts or stops delaying dispatch to hold the 100 ms draw below CAP.W, logging event 0x0F06. -/
  | governorLimiting (on : Bool)
  /-- PANEL_COUNT_CLEAR (R122). PANEL COUNT_CLEAR clears the panel counters between tasks. -/
  | panelCountClear (view : View) (die : Die8) (panel : PanelNo)
  /-- GRAD_CORE_COUNT_CLEAR (R193). GRAD_CORE COUNT_CLEAR clears the core counters between tasks. -/
  | gradCoreCountClear (view : View) (quad : Quad) (core : Core)
  /-- VEC_CORE_COUNT_CLEAR (R219). VEC_CORE COUNT_CLEAR clears the core counters between tasks. -/
  | vecCoreCountClear (view : View) (quad : Quad) (core : Core)
  /-- UPDATE_COUNT_CLEAR (R247). UPDATE COUNT_CLEAR clears the engine's counters. -/
  | updateCountClear (view : View) (eng : Engine)
  /-- NUMWATCH_COUNT_CLEAR (R262). NUMWATCH COUNT_CLEAR clears the decision counters and the watch totals, keeping L_RUNG. -/
  | numwatchCountClear (view : View) (quad : Quad)
  /-- GRAPH_SCHED_COUNT_CLEAR (R300). GRAPH_SCHED COUNT_CLEAR clears the scheduler counters. -/
  | graphSchedCountClear (view : View)
  /-- MEM_DIE_COUNT_CLEAR (R326). MEM_DIE COUNT_CLEAR clears ACCESS_FAULTS. -/
  | memDieCountClear (view : View) (die : Die8)
  /-- CONTROLLER_COUNT_CLEAR (R327). STACK_CTL or TIERB_CTL COUNT_CLEAR clears the controller's counters and peak. -/
  | controllerCountClear (view : View) (die : Die8) (tierB : Bool) (index : Fin 4)
  /-- GATHER_COUNT_CLEAR (R329). GATHER COUNT_CLEAR clears the gather unit's counters between tasks. -/
  | gatherCountClear (view : View) (die : Die8)
  /-- SEAM_PORT_COUNT_CLEAR (R374). SEAM_PORT COUNT_CLEAR clears the port's FEC, CRC, replay and flit counters. -/
  | seamPortCountClear (view : View) (port : PortNo)
  /-- COLLECTIVE_COUNT_CLEAR (R375). COLLECTIVE COUNT_CLEAR clears the collective counters. -/
  | collectiveCountClear (view : View)
  /-- SEAM_MGMT_COUNT_CLEAR (R376). SEAM_MGMT COUNT_CLEAR clears the drop and refusal counters. -/
  | seamMgmtCountClear (view : View)
  /-- MAINT_COUNT_CLEAR (R400). MAINT COUNT_CLEAR clears the arbiter, field-test and replay counters. -/
  | maintCountClear (view : View)
  /-- SEAL_COUNT_CLEAR (R401). SEAL COUNT_CLEAR clears the check, mismatch and merge counters. -/
  | sealCountClear (view : View) (die : Die8)
  /-- MONITOR_COUNT_CLEAR (R438). MONITOR COUNT_CLEAR clears the converter's counters. -/
  | monitorCountClear (view : View) (mc : McNo)
  /-- POWER_COUNT_CLEAR (R473). POWER COUNT_CLEAR clears INPUT_W.PEAK and LIMIT_MS. -/
  | powerCountClear (view : View)
  /-- SMBUS_READ_WORD (R482). An SMBus Read Word returns the word of the sideband command, with optional PEC. -/
  | smbusReadWord (addr : BitVec 7) (cmd : Byte) (pec : Bool)
  /-- IDCODE (R484). The test access port's IDCODE instruction returns 0x2100_0A3F. -/
  | idcode
  /-- BYPASS (R484). BYPASS, or any other instruction code, selects the bypass register. -/
  | bypass (code : Byte)
  /-- SAMPLE_PRELOAD (R484). SAMPLE/PRELOAD samples or preloads the boundary-scan register over J3 and REFCLK. -/
  | samplePreload (preload : List Bool)
  /-- EXTEST (R484). EXTEST drives the boundary-scan cells and disables every graph queue when graphs run. -/
  | extest
  /-- EXTEST_EXIT (R484). The port leaves EXTEST and the module resets with boundary-scan scope, without the stop sequence. -/
  | extestExit
  /-- SUPPLY_REMOVED (R455). The 48 V input is removed or lost, so every rail, SRAM, DRAM, seal entry and the tempo count are lost and only the two flashes keep their content. -/
  | supplyRemoved
  /-- PLL_LOCK_REGAINED (R474). A PLL regains lock or REFCLK returns, and its PLL_LOCK bit reads 1 again. -/
  | pllLockRegained (bit : Fin 25)
  /-- RESERVED_OPCODE_MESSAGE (R357). A message delivered locally with a reserved opcode, an opcode above the Seam level in force, or BCAST set on an opcode other than SCHEDULE is dropped and counted in BAD_OPCODE. -/
  | reservedOpcodeMessage (port : PortNo)
  /-- COLLECTIVE_STEP_WAIT_TIMEOUT (R373). A COLLECTIVE waiting under R368 for its instance to reach its step waits longer than WAIT_MAX and completes TIMEOUT. -/
  | collectiveStepWaitTimeout (task : Nat)
deriving DecidableEq, Repr

end Sys2Proof
end

