-- ==== Sys2Proof/Decode.lean ====
section
/-! DEFINITION. The command that a word spells. The opcode table gives no row any bits: the commands are register accesses, messages,
pin events and engine steps, none of which has an encoding of its own. -/

namespace Sys2Proof

/-- The command spelled by the `nbits` bits `w` of an opcode-table row: no row has bits, so no word spells one. -/
def decodeTableWord (_nbits _w : Nat) : Option Instr := none

end Sys2Proof
end

