-- ==== Sys2Proof/Config.lean ====
section
/-! DEFINITION. What the manual leaves open or to one unit: free values, which nothing in Lean can evaluate, and the analogue and
factory constants of one module. A claim about the machine holds whatever these are. -/

namespace Sys2Proof.Config

/-- What the seal entry of a block reads that nothing has written since the seal table last became undefined (R380): by the
count of such events and the block number. -/
opaque freeSeal (age block : Nat) : BitVec 32

/-- A free word: the `n`-th draw, for the place that `k` names. -/
opaque freeWord (n k : Nat) : BitVec 32

/-- The write spread ε of one cell pair, in units of g_u (R91): by the programming that wrote it, the PANEL page, and the pair's
array, row and column. -/
opaque cellSpread (draw page array row col : Nat) : Rat

/-- What a conversion sees beside the exact sum of its cells, in units (R100, R116): read noise and the converter's own error. -/
opaque conversionError (n : Nat) (which : List Nat) : Rat

/-- The factory gain field `G` (Table 17-2): array die, physical panel, array, logical converter (0-63 column, 64-95 row),
`LSB_SEL`, temperature set. -/
opaque gainField (die panel array conv lsb set : Nat) : BitVec 16

/-- The factory offset field `O` (Table 17-2), in the same order. -/
opaque offsetField (die panel array conv lsb set : Nat) : BitVec 16

/-- What a mask register of a vector core holds when a row group starts (R209 carries nothing over and sets none): one bit a lane, by what
R211 lets a result depend on: the pattern table, the operand record, the row group and the register's number. -/
opaque freeMask (table opnd : List (BitVec 8)) (group m : Nat) : Nat

/-- Byte `i` of a message of the SPDM session under SM4-GCM, its tag last, by the message's number and content (R23, log 58). -/
opaque sm4Gcm (n : Nat) (plain : List (BitVec 8)) (i : Nat) : BitVec 8

/-- The width, rate and flit kind that the CXL link trains to (R56, log 56), as a number. -/
opaque cxlTrained : Nat

/-- Byte `i` of an SM2 signature with the module's identity key over a digest; SM2 draws a fresh number for each signature (log 19). -/
opaque sm2Sign (n : Nat) (digest : List (BitVec 8)) (i : Nat) : BitVec 8

/-- The check of R425 that the factory's calibration store fails: 0 none, 1 header, 2 part or serial, 3 digest (log 15). -/
opaque storeFault : Nat

/-- Word `i` of the digest of the store's body as the device computes it (R425, log 15). -/
opaque calDigest (i : Nat) : BitVec 32

/-- The factory coefficient a of a monitor channel, binary32 (R427). -/
opaque monitorA (mc channel : Nat) : BitVec 32

/-- The factory coefficient b of a monitor channel, binary32 (R427). -/
opaque monitorB (mc channel : Nat) : BitVec 32

/-- The factory reference ratio of an array die, binary32 (R428). -/
opaque factoryRatio (die : Nat) : BitVec 32

/-- The unselected weight columns of an array, ascending (Table 17-2). -/
opaque unselectedColumn (die panel array i : Nat) : BitVec 10

/-- The unselected column converters of an array, ascending (Table 17-2). -/
opaque unselectedConverter (die panel array i : Nat) : BitVec 8

/-- The unselected row converters of an array, ascending (Table 17-2). -/
opaque unselectedRowConverter (die panel array i : Nat) : BitVec 8

/-- The nominal reading of a rail's monitor channel, in mV (R465): the manual gives none. -/
opaque railNominal (channel : Nat) : Nat

/-- The number of the signer whose digest this is among the four of the boot ROM; 4 and above for none (R442). -/
opaque signerOf (digest : List (BitVec 8)) : Nat

/-- Whether an SM2 signature over a digest verifies under a public key (R442). -/
opaque sm2Verify (key digest signature : List (BitVec 8)) : Bool

/-- Whether the GCM tag of a body is good under the firmware key, with the header's IV and tag (R441). -/
opaque gcmGood (header body : List (BitVec 8)) : Bool

/-- A setting's value converted by the firmware from one settings format to another (R448). -/
opaque convertSetting (from_ to_ key : Nat) (value : List (BitVec 8)) : List (BitVec 8)

/-- Byte `i` of the certificate chain (R449). -/
opaque certByte (i : Nat) : BitVec 8

/-- Byte `i` of the SM3 digest of the device certificate (Table 18-5). -/
opaque idDigest (i : Nat) : BitVec 8

end Sys2Proof.Config
end

