-- ==== Sys2Proof/Machine/Num.lean ====
section
/-! DEFINITION. Number formats and conversion (chapter 03): exact values, the formats of Table 3-1, the rounding modes of
Table 3-5 and the conversion outcomes of Table 3-7. Every value is formed exactly and rounded once. -/

namespace Sys2Proof.Machine

/-- An exact value: not a number, an infinity, or a finite number (with the sign of a zero). -/
inductive FVal where
  | nan
  | inf (neg : Bool)
  | fin (q : Rat) (negZero : Bool)
deriving DecidableEq, Repr

/-- Rounding modes of Table 3-5; stochastic rounding carries its draw (R78). -/
inductive Rnd where
  | rne
  | rz
  | sr (u : Nat)
deriving DecidableEq, Repr

/-- The format codes of Table 3-1. -/
inductive Fmt where
  | kt2 | kw2 | ka8 | ka12 | ka16 | kf8 | kf16 | kf24 | kf8b | b32 | b64 | i32 | i16 | i8
deriving DecidableEq, Repr

/-- A format code of Table 3-1; `none` for code 0 and the reserved codes (R58). -/
def Fmt.ofCode (c : Nat) : Option Fmt :=
  match c with
  | 0x01 => some .kt2
  | 0x02 => some .kw2
  | 0x08 => some .ka8
  | 0x09 => some .ka12
  | 0x0A => some .ka16
  | 0x10 => some .kf8
  | 0x11 => some .kf16
  | 0x12 => some .kf24
  | 0x14 => some .kf8b
  | 0x20 => some .b32
  | 0x21 => some .b64
  | 0x30 => some .i32
  | 0x31 => some .i16
  | 0x32 => some .i8
  | _ => none

/-- The code of a format. -/
def Fmt.code (f : Fmt) : Nat :=
  match f with
  | .kt2 => 0x01
  | .kw2 => 0x02
  | .ka8 => 0x08
  | .ka12 => 0x09
  | .ka16 => 0x0A
  | .kf8 => 0x10
  | .kf16 => 0x11
  | .kf24 => 0x12
  | .kf8b => 0x14
  | .b32 => 0x20
  | .b64 => 0x21
  | .i32 => 0x30
  | .i16 => 0x31
  | .i8 => 0x32

/-- The KA formats (R65). -/
def Fmt.isKA (f : Fmt) : Bool := f == .ka8 || f == .ka12 || f == .ka16

/-- The weight codes (R60). -/
def Fmt.isCode (f : Fmt) : Bool := f == .kt2 || f == .kw2

/-- The plain integers (R76). -/
def Fmt.isInt (f : Fmt) : Bool := f == .i8 || f == .i16 || f == .i32

/-- Formats with an exponent plane: KA blocks of 512 or KF8B groups of 32 (R67, R73). -/
def Fmt.block (f : Fmt) : Nat := if f.isKA then 512 else if f == .kf8b then 32 else 0

/-- Bytes of one stored element; 0 for the packed weight codes (Table 3-1). -/
def Fmt.bytes (f : Fmt) : Nat :=
  match f with
  | .kt2 | .kw2 => 0
  | .ka8 | .kf8 | .kf8b | .i8 => 1
  | .ka12 | .ka16 | .kf16 | .i16 => 2
  | .kf24 => 3
  | .b32 | .i32 => 4
  | .b64 => 8

/-- Width class of Table 3-8: 0 for 8 bits, 1 for 16, 2 for 32, 3 for 64. -/
def Fmt.width (f : Fmt) : Nat :=
  match f with
  | .kt2 | .kw2 | .ka8 | .kf8 | .kf8b | .i8 => 0
  | .ka12 | .ka16 | .kf16 | .i16 => 1
  | .kf24 | .b32 | .i32 => 2
  | .b64 => 3

/-- The power `2^e` for any integer `e`. -/
def pow2 (e : Int) : Rat :=
  match e with
  | .ofNat n => ((2 ^ n : Nat) : Rat)
  | .negSucc n => 1 / ((2 ^ (n + 1) : Nat) : Rat)

/-- Magnitude of a rational. -/
def rabs (q : Rat) : Rat := if q < 0 then -q else q

/-- `floor (log2 q)` for `q > 0`; 0 otherwise. -/
def ilog2 (q : Rat) : Int :=
  if q ≤ 0 then 0 else
    let e : Int := (Nat.log2 q.num.natAbs : Int) - (Nat.log2 q.den : Int)
    if q < pow2 e then e - 1 else e

/-- The integer below or at a rational that is not negative. -/
def floorNat (q : Rat) : Nat := q.num.natAbs / q.den

/-- Round a magnitude `n` in units of the grid to a whole number of units (Table 3-5, R78). -/
def roundUnits (mode : Rnd) (n : Rat) : Nat :=
  let k := floorNat n
  let d := n - (k : Rat)
  match mode with
  | .rne => if (1 / 2 : Rat) < d then k + 1 else if d < (1 / 2 : Rat) then k else if k % 2 == 1 then k + 1 else k
  | .rz => k
  | .sr u => if d == 0 then k else if u < floorNat (d * ((2 ^ 24 : Nat) : Rat)) then k + 1 else k

/-- A minifloat or IEEE layout: exponent bits, fraction bits, bias, and whether the all-ones exponent is special (R71, R75). -/
structure Mini where
  eb   : Nat
  fb   : Nat
  bias : Int
  ieee : Bool
deriving DecidableEq, Repr

/-- KF8: minifloat 1-4-3, bias 8, no infinity, one zero, NaN 0x80 only (Table 3-3). -/
def mKF8 : Mini := ⟨4, 3, 8, false⟩
/-- KF16: minifloat 1-6-9, bias 31. -/
def mKF16 : Mini := ⟨6, 9, 31, true⟩
/-- KF24: minifloat 1-8-15, bias 127. -/
def mKF24 : Mini := ⟨8, 15, 127, true⟩
/-- binary32. -/
def mB32 : Mini := ⟨8, 23, 127, true⟩
/-- binary64. -/
def mB64 : Mini := ⟨11, 52, 1023, true⟩

/-- Largest exponent field that encodes finite values. -/
def Mini.topField (m : Mini) : Nat := if m.ieee then 2 ^ m.eb - 2 else 2 ^ m.eb - 1

/-- Largest finite magnitude. -/
def Mini.maxFin (m : Mini) : Rat :=
  ((2 ^ (m.fb + 1) - 1 : Nat) : Rat) * pow2 ((m.topField : Int) - m.bias - (m.fb : Int))

/-- The canonical NaN (Table 3-3, R75). -/
def Mini.nanBits (m : Mini) : Nat :=
  if m.ieee then (2 ^ m.eb - 1) * 2 ^ m.fb + 2 ^ (m.fb - 1) else 2 ^ (m.eb + m.fb)

/-- The sign bit's place value. -/
def Mini.signBit (m : Mini) : Nat := 2 ^ (m.eb + m.fb)

/-- The value of an encoding (R71). -/
def Mini.decode (m : Mini) (bits : Nat) : FVal :=
  let neg := bits / m.signBit % 2 == 1
  let e := bits / 2 ^ m.fb % 2 ^ m.eb
  let f := bits % 2 ^ m.fb
  if m.ieee && e == 2 ^ m.eb - 1 then (if f == 0 then .inf neg else .nan)
  else if !m.ieee && neg && e == 0 && f == 0 then .nan
  else
    let mag : Rat := if e == 0 then (f : Rat) * pow2 (1 - m.bias - (m.fb : Int))
      else ((2 ^ m.fb + f : Nat) : Rat) * pow2 ((e : Int) - m.bias - (m.fb : Int))
    .fin (if neg then -mag else mag) neg

/-- The encoding of a whole number of units `k` at exponent `e` (unbiased, of the unit's binade), rounded already. -/
def Mini.pack (m : Mini) (neg : Bool) (k : Nat) (e : Int) : Nat :=
  let s := if neg then m.signBit else 0
  if k == 0 then (if m.ieee then s else 0)
  else if k < 2 ^ m.fb then s + k
  else if k == 2 ^ (m.fb + 1) then s + ((e + 1 + m.bias).toNat) * 2 ^ m.fb
  else s + ((e + m.bias).toNat) * 2 ^ m.fb + (k - 2 ^ m.fb)

/-- What a target is given beyond its largest finite value (Table 3-7). -/
def Mini.overflow (m : Mini) (mode : Rnd) (neg : Bool) : Nat :=
  let s := if neg then m.signBit else 0
  let big := m.topField * 2 ^ m.fb + (2 ^ m.fb - 1)
  if m.ieee && mode != .rz then s + (2 ^ m.eb - 1) * 2 ^ m.fb else s + big

/-- Round an exact value into a layout: encoding, and whether the element is saturated (R78, R81, R82, Table 3-7). -/
def Mini.encode (m : Mini) (mode : Rnd) (v : FVal) : Nat × Bool :=
  match v with
  | .nan => (m.nanBits, false)
  | .inf neg => ((if m.ieee then (if neg then m.signBit else 0) + (2 ^ m.eb - 1) * 2 ^ m.fb
      else (if neg then m.signBit else 0) + m.topField * 2 ^ m.fb + (2 ^ m.fb - 1)), false)
  | .fin q nz =>
    if q == 0 then ((if m.ieee && nz then m.signBit else 0), false)
    else
      let neg := q < 0
      let a := rabs q
      let emin : Int := 1 - m.bias
      let e := max (ilog2 a) emin
      let unit := pow2 (e - (m.fb : Int))
      let k := roundUnits mode (a / unit)
      if m.maxFin < (k : Rat) * unit then (m.overflow mode neg, true)
      else (m.pack neg k e, false)

/-- The sign of a value. -/
def FVal.isNeg (v : FVal) : Bool :=
  match v with
  | .nan => false
  | .inf n => n
  | .fin q nz => if q == 0 then nz else q < 0

/-- A finite value. -/
def FVal.isFin (v : FVal) : Bool := match v with | .fin _ _ => true | _ => false

/-- A zero of either sign. -/
def FVal.isZero (v : FVal) : Bool := match v with | .fin q _ => q == 0 | _ => false

/-- The rational of a finite value; 0 otherwise. -/
def FVal.q (v : FVal) : Rat := match v with | .fin q _ => q | _ => 0

/-- A rational as a value, zero positive. -/
def FVal.of (q : Rat) : FVal := .fin q false

/-- Sign inverted. -/
def FVal.neg (v : FVal) : FVal :=
  match v with
  | .nan => .nan
  | .inf n => .inf (!n)
  | .fin q nz => if q == 0 then .fin 0 (!nz) else .fin (-q) false

/-- Sign cleared. -/
def FVal.abs (v : FVal) : FVal :=
  match v with
  | .nan => .nan
  | .inf _ => .inf false
  | .fin q _ => .fin (rabs q) false

/-- Exact sum with the IEEE 754 rules for infinities and zeros under a rounding to nearest (R75). -/
def FVal.add (a b : FVal) : FVal :=
  match a, b with
  | .nan, _ => .nan
  | _, .nan => .nan
  | .inf x, .inf y => if x == y then .inf x else .nan
  | .inf x, _ => .inf x
  | _, .inf y => .inf y
  | .fin p x, .fin q y => if p == 0 && q == 0 then .fin 0 (x && y) else .fin (p + q) false

/-- Exact product with the IEEE 754 rules (R75). -/
def FVal.mul (a b : FVal) : FVal :=
  match a, b with
  | .nan, _ => .nan
  | _, .nan => .nan
  | .inf x, .inf y => .inf (x != y)
  | .inf x, .fin q n => if q == 0 then .nan else .inf (x != (FVal.fin q n).isNeg)
  | .fin q n, .inf y => if q == 0 then .nan else .inf ((FVal.fin q n).isNeg != y)
  | .fin p x, .fin q y => .fin (p * q) ((FVal.fin p x).isNeg != (FVal.fin q y).isNeg)

/-- Exact quotient with the IEEE 754 rules (R75). -/
def FVal.div (a b : FVal) : FVal :=
  match a, b with
  | .nan, _ => .nan
  | _, .nan => .nan
  | .inf _, .inf _ => .nan
  | .inf x, .fin q n => .inf (x != (FVal.fin q n).isNeg)
  | .fin p x, .inf y => .fin 0 ((FVal.fin p x).isNeg != y)
  | .fin p x, .fin q y =>
    if q == 0 then (if p == 0 then .nan else .inf ((FVal.fin p x).isNeg != (FVal.fin q y).isNeg))
    else .fin (p / q) ((FVal.fin p x).isNeg != (FVal.fin q y).isNeg)

/-- Correctly rounded square root into a layout, RNE (R222). The root is cut at two bits below the last place, with a sticky
bit, which no tie can survive. -/
def Mini.sqrt (m : Mini) (v : FVal) : Nat :=
  match v with
  | .nan => m.nanBits
  | .inf n => if n then m.nanBits else (m.encode .rne (.inf false)).1
  | .fin q nz =>
    if q == 0 then (m.encode .rne (.fin 0 nz)).1
    else if q < 0 then m.nanBits
    else
      let e := (ilog2 q) / 2
      let sh : Int := (m.fb : Int) + 4 - e
      let n := floorNat (q * pow2 (2 * sh))
      let r := Nat.sqrt n
      let exact := ((r * r : Nat) : Rat) == q * pow2 (2 * sh)
      let r2 : Rat := ((2 * r : Nat) : Rat) + (if exact then 0 else 1)
      (m.encode .rne (.of (r2 * pow2 (-sh - 1)))).1

/-! binary32 and binary64 on encodings, RNE (R75). -/

/-- Value of a binary32 encoding. -/
def d32 (b : Nat) : FVal := mB32.decode b
/-- binary32 encoding of a value, RNE. -/
def e32 (v : FVal) : Nat := (mB32.encode .rne v).1
/-- binary32 sum. -/
def add32 (a b : Nat) : Nat := e32 ((d32 a).add (d32 b))
/-- binary32 difference. -/
def sub32 (a b : Nat) : Nat := e32 ((d32 a).add (d32 b).neg)
/-- binary32 product. -/
def mul32 (a b : Nat) : Nat := e32 ((d32 a).mul (d32 b))
/-- binary32 quotient. -/
def div32 (a b : Nat) : Nat := e32 ((d32 a).div (d32 b))
/-- binary32 fused multiply-add, one rounding. -/
def fma32 (a b c : Nat) : Nat := e32 (((d32 a).mul (d32 b)).add (d32 c))
/-- binary32 square root. -/
def sqrt32 (a : Nat) : Nat := mB32.sqrt (d32 a)
/-- Value of a binary64 encoding. -/
def d64 (b : Nat) : FVal := mB64.decode b
/-- binary64 encoding of a value, RNE. -/
def e64 (v : FVal) : Nat := (mB64.encode .rne v).1
/-- binary64 sum. -/
def add64 (a b : Nat) : Nat := e64 ((d64 a).add (d64 b))
/-- binary64 product. -/
def mul64 (a b : Nat) : Nat := e64 ((d64 a).mul (d64 b))
/-- binary64 quotient. -/
def div64 (a b : Nat) : Nat := e64 ((d64 a).div (d64 b))
/-- binary64 square root. -/
def sqrt64 (a : Nat) : Nat := mB64.sqrt (d64 a)

/-- Minimum and maximum of IEEE 754-2019: NaN when either operand is NaN, −0 below +0 (R200). -/
def FVal.less (a b : FVal) : Bool :=
  match a, b with
  | .nan, _ => false
  | _, .nan => false
  | .inf x, .inf y => x && !y
  | .inf x, _ => x
  | _, .inf y => !y
  | .fin p x, .fin q y => if p == q then (p == 0 && x && !y) else p < q

/-- The larger operand. -/
def FVal.max (a b : FVal) : FVal :=
  match a, b with
  | .nan, _ => .nan
  | _, .nan => .nan
  | a, b => if a.less b then b else a

/-- The smaller operand. -/
def FVal.min (a b : FVal) : FVal :=
  match a, b with
  | .nan, _ => .nan
  | _, .nan => .nan
  | a, b => if b.less a then b else a

/-- Two's complement value of the low `w` bits. -/
def sint (w n : Nat) : Int :=
  let r := n % 2 ^ w
  if 2 ^ (w - 1) ≤ r then (r : Int) - (2 ^ w : Nat) else (r : Int)

/-- The low `w` bits of an integer. -/
def ubits (w : Nat) (i : Int) : Nat := (i % ((2 ^ w : Nat) : Int)).toNat

/-! Elements. -/

/-- Level of a weight code (R60, R61), doubled for KW2 so that it is an integer: the differential of Table 4-1. -/
def codeDiff (f : Fmt) (c : Nat) : Int :=
  match f with
  | .kw2 => (match c % 4 with | 0 => 1 | 1 => 3 | 2 => -1 | _ => -3)
  | _ => (match c % 4 with | 0 => 0 | 1 => 1 | 2 => 0 | _ => -1)

/-- Level of a weight code (R60): half the differential for KW2 (R90). -/
def codeLevel (f : Fmt) (c : Nat) : Rat :=
  if f == .kw2 then (codeDiff f c : Rat) / 2 else (codeDiff f c : Rat)

/-- Bits of a KA or integer element (R65, R76). -/
def Fmt.intBits (f : Fmt) : Nat :=
  match f with
  | .ka8 | .i8 => 8
  | .ka12 => 12
  | .ka16 | .i16 => 16
  | _ => 32

/-- Largest positive KA value (R69). -/
def Fmt.maxInt (f : Fmt) : Nat := 2 ^ (f.intBits - 1) - 1

/-- The layout of a float format; binary32 for the others. -/
def Fmt.mini (f : Fmt) : Mini :=
  match f with
  | .kf8 | .kf8b => mKF8
  | .kf16 => mKF16
  | .kf24 => mKF24
  | .b64 => mB64
  | _ => mB32

/-- Scale a value by a power of two. -/
def FVal.scale (v : FVal) (e : Int) : FVal :=
  match v with
  | .fin q nz => .fin (q * pow2 e) nz
  | v => v

/-- The exact value of a stored element (R81): raw bits, block or group exponent `e`, KF16 column scale `s`. -/
def elemValue (f : Fmt) (raw e s : Nat) : FVal :=
  match f with
  | .kt2 | .kw2 => (FVal.of (codeLevel f raw)).mul (mKF16.decode s)
  | .ka8 | .ka12 | .ka16 => .of ((sint f.intBits raw : Rat) * pow2 ((e : Int) - 127))
  | .kf8b => (mKF8.decode raw).scale ((e : Int) - 127)
  | .i8 | .i16 | .i32 => .of ((sint f.intBits raw : Int) : Rat)
  | _ => f.mini.decode raw

/-- What one converted element is: its raw bits, and how it counts (R82, R83). -/
structure Elem where
  raw    : Nat
  sat    : Bool
  nonfin : Bool
  zero   : Bool
deriving DecidableEq, Repr

/-- Quantise a value to a weight code against a KF16 scale (R63, R64): code, clipped, non-finite. -/
def quantise (f : Fmt) (x : FVal) (scale : Nat) : Nat × Bool × Bool :=
  match mKF16.decode scale with
  | .fin s _ =>
    if s ≤ 0 then (0, false, true)
    else match x with
      | .fin q _ =>
        let v := q / s
        if f == .kw2 then
          let neg := v < 0
          let big := 1 ≤ rabs v
          ((if neg then 2 else 0) + (if big then 1 else 0), decide (2 < rabs v), false)
        else
          ((if (1 / 2 : Rat) ≤ v then 1 else if v ≤ -(1 / 2 : Rat) then 3 else 0), decide ((3 / 2 : Rat) < rabs v), false)
      | _ => (0, false, true)
  | _ => (0, false, true)

/-- Round an exact value to an integer with limits `lo` and `hi` (R78, R81): value and saturated. -/
def roundInt (mode : Rnd) (lo hi : Nat) (q : Rat) : Int × Bool :=
  let k := roundUnits mode (rabs q)
  if q < 0 then (if lo < k then (-(lo : Int), true) else (-(k : Int), false))
  else (if hi < k then ((hi : Int), true) else ((k : Int), false))

/-- Convert an exact value into a format with block exponent `e` or column scale `s` (R81, Table 3-7). A clipped
code is not saturated. No record and no watch field names the clipped codes of CONVERT, vector stores and CVT (Tables 8-14, 10-1): they
are counted nowhere (DESIGN CHOICE, log 166). -/
def convertElem (f : Fmt) (mode : Rnd) (e s : Nat) (v : FVal) : Elem :=
  match f with
  | .kt2 | .kw2 =>
    let r := quantise f v s
    ⟨r.1, false, r.2.2, decide (codeDiff f r.1 = 0)⟩
  | .ka8 | .ka12 | .ka16 =>
    let m := f.maxInt
    (match v with
    | .nan => ⟨0, false, true, true⟩
    | .inf n => ⟨ubits f.intBits (if n then -(m : Int) else m), false, true, false⟩
    | .fin q _ =>
      let r := roundInt mode m m (q * pow2 (127 - (e : Int)))
      ⟨ubits f.intBits r.1, r.2, false, decide (r.1 = 0)⟩)
  | .i8 | .i16 | .i32 =>
    let hi := f.maxInt
    (match v with
    | .nan => ⟨0, false, true, true⟩
    | .inf n => ⟨ubits f.intBits (if n then -((hi + 1 : Nat) : Int) else hi), false, true, false⟩
    | .fin q _ =>
      let r := roundInt mode (hi + 1) hi q
      ⟨ubits f.intBits r.1, r.2, false, decide (r.1 = 0)⟩)
  | .kf8b =>
    let r := mKF8.encode mode (v.scale (127 - (e : Int)))
    ⟨r.1, r.2, !v.isFin, decide ((mKF8.decode r.1).isZero = true)⟩
  | _ =>
    let r := f.mini.encode mode v
    ⟨r.1, r.2, !v.isFin, (f.mini.decode r.1).isZero⟩

/-- The fit exponent of a block (R69, R74): the smallest `E` for which `peak ≤ top × 2^(E − 127)`; 0 for a zero block, 255
when none qualifies. -/
def fitExponent (top : Nat) (peak : Rat) : Nat :=
  if peak ≤ 0 then 0
  else
    let e := 127 + ilog2 (peak / (top : Rat))
    let e' := if peak ≤ (top : Rat) * pow2 (e - 127) then e else e + 1
    if e' < 0 then 0 else if 255 < e' then 255 else e'.toNat

/-- The limit that a block's exponent is fitted against: maxint for KA (R69), 240 for KF8B (R74). -/
def Fmt.fitTop (f : Fmt) : Nat := if f == .kf8b then 240 else f.maxInt

/-- The container bits stored for an element: KA12 is sign-extended to 16 bits (R66). -/
def storeBits (f : Fmt) (raw : Nat) : Nat := if f == .ka12 then ubits 16 (sint 12 raw) else raw

/-- Round a magnitude up into KF16, the largest finite when it rounds beyond that (R253). -/
def peakKF16 (q : Rat) : Nat :=
  if q ≤ 0 then 0
  else if mKF16.maxFin ≤ q then 0x7DFF
  else
    let e := max (ilog2 q) (-30)
    let unit := pow2 (e - 9)
    let n := q / unit
    let k := floorNat n
    let k' := if (k : Rat) == n then k else k + 1
    mKF16.pack false k' e

end Sys2Proof.Machine
end

