-- ==== Sys2Proof/Machine/Registers.lean ====
section
/-! DEFINITION. The register fields of every page as the chapters list them: offset, bits, access, reset value, legal values
(R45), whether level 1.1 introduces the field (R49), and whether it is one half of a 64-bit pair (R38). Reset values that the
manual leaves to the factory are in Machine/RegMap.lean. -/

namespace Sys2Proof.Machine

/-- Access codes of R6. -/
inductive Acc where
  | ro
  | rw
  | rwp
  | w1c
  | w1s
  | wo
deriving DecidableEq, Repr

/-- The legal values of a field (R45). -/
inductive Legal where
  /-- Every value its width can hold. -/
  | any
  /-- A numeric range. -/
  | range (lo hi : Nat)
  /-- Zero, or a numeric range. -/
  | zeroOr (lo hi : Nat)
  /-- An enumeration up to `max`; an illegal value takes `dflt`. -/
  | enum (max dflt : Nat)
  /-- A binary32 learning rate (R247). -/
  | eta
  /-- A multiple of four. -/
  | mul4
deriving DecidableEq, Repr

/-- Whether a field is half of a 64-bit pair (R38). -/
inductive Part where
  | whole
  | lo
  | hi
deriving DecidableEq, Repr

/-- One field of a register, or of `count` registers `stride` bytes apart. -/
structure Fld where
  off    : Nat
  hi     : Nat
  lo     : Nat
  acc    : Acc
  rst    : Nat
  legal  : Legal
  l11    : Bool
  part   : Part
  stride : Nat
  count  : Nat
deriving DecidableEq, Repr

namespace R

/-! DEVICE registers (R55). -/
namespace DEVICE
def PART_ID_PART : Fld := ⟨0x100, 31, 16, .ro, 0x2100, .any, false, .whole, 0x0, 1⟩
def PART_ID_STEPPING : Fld := ⟨0x100, 15, 0, .ro, 0x0, .any, false, .whole, 0x0, 1⟩
def DEV_LEVEL_GEN : Fld := ⟨0x104, 31, 16, .ro, 0x1, .any, false, .whole, 0x0, 1⟩
def DEV_LEVEL_MAJOR : Fld := ⟨0x104, 15, 8, .ro, 0x1, .any, false, .whole, 0x0, 1⟩
def DEV_LEVEL_MINOR : Fld := ⟨0x104, 7, 0, .ro, 0x1, .any, false, .whole, 0x0, 1⟩
def HOST_LEVEL_MAJOR : Fld := ⟨0x108, 15, 8, .rwp, 0x1, .any, false, .whole, 0x0, 1⟩
def HOST_LEVEL_MINOR : Fld := ⟨0x108, 7, 0, .rwp, 0x0, .any, false, .whole, 0x0, 1⟩
def DEV_STATE_STATE : Fld := ⟨0x10C, 3, 0, .ro, 0x0, .any, false, .whole, 0x0, 1⟩
def SERIAL_LO : Fld := ⟨0x110, 31, 0, .ro, 0x0, .any, false, .lo, 0x0, 1⟩
def SERIAL_HI : Fld := ⟨0x114, 31, 0, .ro, 0x0, .any, false, .hi, 0x0, 1⟩
def FW_VERSION : Fld := ⟨0x118, 31, 0, .ro, 0x0, .any, false, .whole, 0x0, 1⟩
def GRANT_CLASS : Fld := ⟨0x11C, 31, 0, .rwp, 0x0, .any, false, .whole, 0x4, 4⟩
def GRANT_QUEUE_LO : Fld := ⟨0x12C, 31, 0, .rwp, 0x0, .any, false, .whole, 0x0, 1⟩
def GRANT_QUEUE_HI : Fld := ⟨0x130, 31, 0, .rwp, 0x0, .any, false, .whole, 0x0, 1⟩
def GRANT_BUTTONS : Fld := ⟨0x134, 31, 0, .rwp, 0x0, .any, false, .whole, 0x0, 1⟩
def BAD_ACCESS_COUNT : Fld := ⟨0x138, 31, 0, .ro, 0x0, .any, false, .whole, 0x0, 1⟩
def CLAMP_COUNT : Fld := ⟨0x13C, 31, 0, .ro, 0x0, .any, false, .whole, 0x0, 1⟩
def CLAMP_LAST_VIEW : Fld := ⟨0x140, 31, 31, .ro, 0x0, .any, true, .whole, 0x0, 1⟩
def CLAMP_LAST_OFFSET : Fld := ⟨0x140, 24, 0, .ro, 0x0, .any, true, .whole, 0x0, 1⟩
def tab0 : List Fld := [PART_ID_PART, PART_ID_STEPPING, DEV_LEVEL_GEN, DEV_LEVEL_MAJOR, DEV_LEVEL_MINOR, HOST_LEVEL_MAJOR, HOST_LEVEL_MINOR, DEV_STATE_STATE, SERIAL_LO, SERIAL_HI, FW_VERSION, GRANT_CLASS, GRANT_QUEUE_LO, GRANT_QUEUE_HI, GRANT_BUTTONS, BAD_ACCESS_COUNT, CLAMP_COUNT, CLAMP_LAST_VIEW, CLAMP_LAST_OFFSET]
def fields : List Fld := tab0
end DEVICE

/-! HOST registers (R56). -/
namespace HOST
def LINK_STATUS_IDE_CM : Fld := ⟨0x100, 11, 11, .ro, 0x0, .any, false, .whole, 0x0, 1⟩
def LINK_STATUS_IDE_IO : Fld := ⟨0x100, 10, 10, .ro, 0x0, .any, false, .whole, 0x0, 1⟩
def LINK_STATUS_LOPT : Fld := ⟨0x100, 9, 9, .ro, 0x0, .any, false, .whole, 0x0, 1⟩
def LINK_STATUS_UP : Fld := ⟨0x100, 8, 8, .ro, 0x0, .any, false, .whole, 0x0, 1⟩
def LINK_STATUS_RATE : Fld := ⟨0x100, 7, 5, .ro, 0x0, .any, false, .whole, 0x0, 1⟩
def LINK_STATUS_WIDTH : Fld := ⟨0x100, 4, 0, .ro, 0x0, .any, false, .whole, 0x0, 1⟩
def HDM_BASE_LO : Fld := ⟨0x104, 31, 0, .ro, 0x0, .any, false, .lo, 0x0, 1⟩
def HDM_BASE_HI : Fld := ⟨0x108, 31, 0, .ro, 0x0, .any, false, .hi, 0x0, 1⟩
def HDM_SEAL_EN : Fld := ⟨0x10C, 0, 0, .rwp, 0x1, .any, false, .whole, 0x0, 1⟩
def CACHE_INFLIGHT_COUNT : Fld := ⟨0x110, 9, 0, .ro, 0x0, .any, false, .whole, 0x0, 1⟩
def BI_SNP_LO : Fld := ⟨0x114, 31, 0, .ro, 0x0, .any, true, .lo, 0x0, 1⟩
def BI_SNP_HI : Fld := ⟨0x118, 31, 0, .ro, 0x0, .any, true, .hi, 0x0, 1⟩
def POISON_COUNT : Fld := ⟨0x11C, 31, 0, .ro, 0x0, .any, false, .whole, 0x0, 1⟩
def IDE_ERR_COUNT : Fld := ⟨0x120, 31, 0, .ro, 0x0, .any, false, .whole, 0x0, 1⟩
def tab0 : List Fld := [LINK_STATUS_IDE_CM, LINK_STATUS_IDE_IO, LINK_STATUS_LOPT, LINK_STATUS_UP, LINK_STATUS_RATE, LINK_STATUS_WIDTH, HDM_BASE_LO, HDM_BASE_HI, HDM_SEAL_EN, CACHE_INFLIGHT_COUNT, BI_SNP_LO, BI_SNP_HI, POISON_COUNT, IDE_ERR_COUNT]
def fields : List Fld := tab0
end HOST

/-! PANEL registers (R122). -/
namespace PANEL
def PANEL_INFO_SPARE : Fld := ⟨0x100, 24, 24, .ro, 0x0, .any, false, .whole, 0x0, 1⟩
def PANEL_INFO_ALIAS : Fld := ⟨0x100, 23, 16, .ro, 0x0, .any, false, .whole, 0x0, 1⟩
def PANEL_INFO_PHYS : Fld := ⟨0x100, 6, 0, .ro, 0x0, .any, false, .whole, 0x0, 1⟩
def CONTENT_STATE : Fld := ⟨0x104, 3, 0, .ro, 0x0, .any, false, .whole, 0x0, 1⟩
def CONTENT_TAG : Fld := ⟨0x108, 31, 0, .ro, 0x0, .any, false, .whole, 0x0, 1⟩
def CONTENT_AGE : Fld := ⟨0x10C, 31, 0, .ro, 0x0, .any, false, .whole, 0x0, 1⟩
def SLEEVE_CTL_CORR_BYPASS : Fld := ⟨0x110, 2, 2, .rwp, 0x0, .any, false, .whole, 0x0, 1⟩
def SLEEVE_CTL_OUTLIER_DIS : Fld := ⟨0x110, 1, 1, .rwp, 0x0, .any, false, .whole, 0x0, 1⟩
def SLEEVE_CTL_ZSKIP_DIS : Fld := ⟨0x110, 0, 0, .rwp, 0x0, .any, false, .whole, 0x0, 1⟩
def TEMP_USED_HOLD : Fld := ⟨0x114, 31, 31, .ro, 0x0, .any, false, .whole, 0x0, 1⟩
def TEMP_USED_SEG : Fld := ⟨0x114, 17, 16, .ro, 0x0, .any, false, .whole, 0x0, 1⟩
def TEMP_USED_TEMP : Fld := ⟨0x114, 15, 0, .ro, 0x0, .any, false, .whole, 0x0, 1⟩
def TABLE_STATE_PENDING : Fld := ⟨0x118, 1, 1, .ro, 0x0, .any, false, .whole, 0x0, 1⟩
def TABLE_STATE_BANK : Fld := ⟨0x118, 0, 0, .ro, 0x0, .any, false, .whole, 0x0, 1⟩
def CONV_LO : Fld := ⟨0x120, 31, 0, .ro, 0x0, .any, false, .lo, 0x0, 1⟩
def CONV_HI : Fld := ⟨0x124, 31, 0, .ro, 0x0, .any, false, .hi, 0x0, 1⟩
def SAT_CONV_LO : Fld := ⟨0x128, 31, 0, .ro, 0x0, .any, false, .lo, 0x0, 1⟩
def SAT_CONV_HI : Fld := ⟨0x12C, 31, 0, .ro, 0x0, .any, false, .hi, 0x0, 1⟩
def CLIP_CONV_LO : Fld := ⟨0x130, 31, 0, .ro, 0x0, .any, false, .lo, 0x0, 1⟩
def CLIP_CONV_HI : Fld := ⟨0x134, 31, 0, .ro, 0x0, .any, false, .hi, 0x0, 1⟩
def SLICES_SKIPPED : Fld := ⟨0x138, 31, 0, .ro, 0x0, .any, false, .whole, 0x0, 1⟩
def PLEATS_ADDED : Fld := ⟨0x13C, 31, 0, .ro, 0x0, .any, false, .whole, 0x0, 1⟩
def OUTLIERS : Fld := ⟨0x140, 31, 0, .ro, 0x0, .any, false, .whole, 0x0, 1⟩
def OUTLIER_OVF : Fld := ⟨0x144, 31, 0, .ro, 0x0, .any, false, .whole, 0x0, 1⟩
def REREADS : Fld := ⟨0x148, 31, 0, .ro, 0x0, .any, false, .whole, 0x0, 1⟩
def SEAL_ERRS : Fld := ⟨0x14C, 31, 0, .ro, 0x0, .any, false, .whole, 0x0, 1⟩
def COUNT_CLEAR_CLEAR : Fld := ⟨0x150, 0, 0, .wo, 0x0, .any, false, .whole, 0x0, 1⟩
def WRITES_LO : Fld := ⟨0x160, 31, 0, .ro, 0x0, .any, false, .lo, 0x0, 1⟩
def WRITES_HI : Fld := ⟨0x164, 31, 0, .ro, 0x0, .any, false, .hi, 0x0, 1⟩
def tab0 : List Fld := [PANEL_INFO_SPARE, PANEL_INFO_ALIAS, PANEL_INFO_PHYS, CONTENT_STATE, CONTENT_TAG, CONTENT_AGE, SLEEVE_CTL_CORR_BYPASS, SLEEVE_CTL_OUTLIER_DIS, SLEEVE_CTL_ZSKIP_DIS, TEMP_USED_HOLD, TEMP_USED_SEG, TEMP_USED_TEMP, TABLE_STATE_PENDING, TABLE_STATE_BANK, CONV_LO, CONV_HI, SAT_CONV_LO, SAT_CONV_HI, CLIP_CONV_LO, CLIP_CONV_HI, SLICES_SKIPPED, PLEATS_ADDED, OUTLIERS, OUTLIER_OVF, REREADS, SEAL_ERRS, COUNT_CLEAR_CLEAR, WRITES_LO, WRITES_HI]
def fields : List Fld := tab0
end PANEL

/-! ARRAY_DIE registers (R146). -/
namespace ARRAY_DIE
def DIE_INFO_SPARES_FREE : Fld := ⟨0x100, 23, 16, .ro, 0x0, .any, false, .whole, 0x0, 1⟩
def DIE_INFO_RETIRED : Fld := ⟨0x100, 15, 8, .ro, 0x0, .any, false, .whole, 0x0, 1⟩
def DIE_INFO_SERVED : Fld := ⟨0x100, 7, 0, .ro, 0x0, .any, false, .whole, 0x0, 1⟩
def REFRESH_AGE_AGE : Fld := ⟨0x104, 31, 0, .rw, 0x59682F, .range 586 5859375, false, .whole, 0x0, 1⟩
def REFRESH_CTL_AUTO : Fld := ⟨0x108, 0, 0, .rw, 0x1, .any, false, .whole, 0x0, 1⟩
def WEAR_LIMIT : Fld := ⟨0x10C, 31, 0, .ro, 0x3B9ACA00, .any, false, .whole, 0x0, 1⟩
def WEAR_WARN : Fld := ⟨0x110, 31, 0, .rw, 0x35A4E900, .range 1 1000000000, false, .whole, 0x0, 1⟩
def PERSIST_STEP : Fld := ⟨0x114, 31, 0, .ro, 0x10000, .any, false, .whole, 0x0, 1⟩
def RETIRE_CTL_OP : Fld := ⟨0x118, 31, 30, .rwp, 0x0, .enum 2 0, false, .whole, 0x0, 1⟩
def RETIRE_CTL_PANEL : Fld := ⟨0x118, 6, 0, .rwp, 0x0, .range 0 67, false, .whole, 0x0, 1⟩
def CASTLE_STATUS_STATE : Fld := ⟨0x11C, 31, 28, .ro, 0x0, .any, false, .whole, 0x0, 1⟩
def CASTLE_STATUS_QUEUED : Fld := ⟨0x11C, 27, 24, .ro, 0x0, .any, false, .whole, 0x0, 1⟩
def CASTLE_STATUS_SPARE : Fld := ⟨0x11C, 23, 16, .ro, 0xFF, .any, false, .whole, 0x0, 1⟩
def CASTLE_STATUS_SOURCE : Fld := ⟨0x11C, 15, 8, .ro, 0xFF, .any, false, .whole, 0x0, 1⟩
def CASTLE_STATUS_LOGICAL : Fld := ⟨0x11C, 7, 0, .ro, 0xFF, .any, false, .whole, 0x0, 1⟩
def CASTLE_COUNT : Fld := ⟨0x120, 31, 0, .ro, 0x0, .any, false, .whole, 0x0, 1⟩
def FAULT_COUNT : Fld := ⟨0x124, 31, 0, .ro, 0x0, .any, false, .whole, 0x0, 1⟩
def LOADS_LO : Fld := ⟨0x128, 31, 0, .ro, 0x0, .any, false, .lo, 0x0, 1⟩
def LOADS_HI : Fld := ⟨0x12C, 31, 0, .ro, 0x0, .any, false, .hi, 0x0, 1⟩
def ALIAS_MAP : Fld := ⟨0x140, 31, 0, .ro, 0x0, .any, false, .whole, 0x4, 16⟩
def PANEL_REC_CAUSE : Fld := ⟨0x200, 31, 30, .ro, 0x0, .any, false, .whole, 0x4, 68⟩
def PANEL_REC_FMT : Fld := ⟨0x200, 29, 29, .ro, 0x0, .any, false, .whole, 0x4, 68⟩
def PANEL_REC_LAST_CHANGED : Fld := ⟨0x200, 23, 0, .ro, 0x0, .any, false, .whole, 0x4, 68⟩
def IMG_ADDR_LO : Fld := ⟨0x400, 31, 0, .ro, 0x0, .any, false, .lo, 0x8, 68⟩
def IMG_ADDR_HI : Fld := ⟨0x404, 31, 0, .ro, 0x0, .any, false, .hi, 0x8, 68⟩
def TILE_BASE : Fld := ⟨0x700, 23, 0, .ro, 0x0, .any, false, .whole, 0x4, 68⟩
def tab0 : List Fld := [DIE_INFO_SPARES_FREE, DIE_INFO_RETIRED, DIE_INFO_SERVED, REFRESH_AGE_AGE, REFRESH_CTL_AUTO, WEAR_LIMIT, WEAR_WARN, PERSIST_STEP, RETIRE_CTL_OP, RETIRE_CTL_PANEL, CASTLE_STATUS_STATE, CASTLE_STATUS_QUEUED, CASTLE_STATUS_SPARE, CASTLE_STATUS_SOURCE, CASTLE_STATUS_LOGICAL, CASTLE_COUNT, FAULT_COUNT, LOADS_LO, LOADS_HI, ALIAS_MAP, PANEL_REC_CAUSE, PANEL_REC_FMT, PANEL_REC_LAST_CHANGED, IMG_ADDR_LO, IMG_ADDR_HI, TILE_BASE]
def fields : List Fld := tab0
end ARRAY_DIE

/-! GRAD_DIE registers (R192). -/
namespace GRAD_DIE
def DIE_INFO_CORES_READY : Fld := ⟨0x100, 4, 0, .ro, 0x0, .any, false, .whole, 0x0, 1⟩
def POOL_SIZE : Fld := ⟨0x104, 31, 0, .ro, 0x10000, .any, false, .whole, 0x0, 1⟩
def KEY_TABLE_LO_ADDR : Fld := ⟨0x108, 31, 12, .rwp, 0x0, .any, false, .lo, 0x0, 1⟩
def KEY_TABLE_HI_ADDR : Fld := ⟨0x10C, 19, 0, .rwp, 0x0, .any, false, .hi, 0x0, 1⟩
def LONGSUM_MIN : Fld := ⟨0x110, 31, 0, .ro, 0x10000, .any, false, .whole, 0x0, 1⟩
def LONGSUM_FORCED : Fld := ⟨0x114, 31, 0, .ro, 0x0, .any, false, .whole, 0x0, 1⟩
def TASKS_DONE : Fld := ⟨0x118, 31, 0, .ro, 0x0, .any, false, .whole, 0x0, 1⟩
def MAC_LO : Fld := ⟨0x120, 31, 0, .ro, 0x0, .any, false, .lo, 0x0, 1⟩
def MAC_HI : Fld := ⟨0x124, 31, 0, .ro, 0x0, .any, false, .hi, 0x0, 1⟩
def tab0 : List Fld := [DIE_INFO_CORES_READY, POOL_SIZE, KEY_TABLE_LO_ADDR, KEY_TABLE_HI_ADDR, LONGSUM_MIN, LONGSUM_FORCED, TASKS_DONE, MAC_LO, MAC_HI]
def fields : List Fld := tab0
end GRAD_DIE

/-! GRAD_CORE registers (R193). -/
namespace GRAD_CORE
def CORE_CTL_SKIP_DIS : Fld := ⟨0x100, 0, 0, .rwp, 0x0, .any, false, .whole, 0x0, 1⟩
def CUR_TASK : Fld := ⟨0x104, 31, 0, .ro, 0xFFFFFFFF, .any, false, .whole, 0x0, 1⟩
def CUR_TILE : Fld := ⟨0x108, 31, 0, .ro, 0x0, .any, false, .whole, 0x0, 1⟩
def CUR_SHARE_SHARE : Fld := ⟨0x10C, 3, 0, .ro, 0x0, .any, false, .whole, 0x0, 1⟩
def LS_USE_KIB : Fld := ⟨0x110, 14, 0, .ro, 0x0, .any, false, .whole, 0x0, 1⟩
def MAC_LO : Fld := ⟨0x120, 31, 0, .ro, 0x0, .any, false, .lo, 0x0, 1⟩
def MAC_HI : Fld := ⟨0x124, 31, 0, .ro, 0x0, .any, false, .hi, 0x0, 1⟩
def BUSY_LO : Fld := ⟨0x128, 31, 0, .ro, 0x0, .any, false, .lo, 0x0, 1⟩
def BUSY_HI : Fld := ⟨0x12C, 31, 0, .ro, 0x0, .any, false, .hi, 0x0, 1⟩
def ZERO_BLOCKS : Fld := ⟨0x130, 31, 0, .ro, 0x0, .any, false, .whole, 0x0, 1⟩
def QUIET_BLOCKS : Fld := ⟨0x134, 31, 0, .ro, 0x0, .any, false, .whole, 0x0, 1⟩
def ALIGN_LOST : Fld := ⟨0x138, 31, 0, .ro, 0x0, .any, false, .whole, 0x0, 1⟩
def ACC_NONFINITE : Fld := ⟨0x13C, 31, 0, .ro, 0x0, .any, false, .whole, 0x0, 1⟩
def SEAL_ERRS : Fld := ⟨0x140, 31, 0, .ro, 0x0, .any, false, .whole, 0x0, 1⟩
def COUNT_CLEAR_CLEAR : Fld := ⟨0x144, 0, 0, .wo, 0x0, .any, false, .whole, 0x0, 1⟩
def tab0 : List Fld := [CORE_CTL_SKIP_DIS, CUR_TASK, CUR_TILE, CUR_SHARE_SHARE, LS_USE_KIB, MAC_LO, MAC_HI, BUSY_LO, BUSY_HI, ZERO_BLOCKS, QUIET_BLOCKS, ALIGN_LOST, ACC_NONFINITE, SEAL_ERRS, COUNT_CLEAR_CLEAR]
def fields : List Fld := tab0
end GRAD_CORE

/-! VEC_CORE registers (R219). -/
namespace VEC_CORE
def PAT_FLUSH_FLUSH : Fld := ⟨0x100, 0, 0, .wo, 0x0, .any, false, .whole, 0x0, 1⟩
def CUR_TASK : Fld := ⟨0x104, 31, 0, .ro, 0xFFFFFFFF, .any, false, .whole, 0x0, 1⟩
def CUR_GROUP : Fld := ⟨0x108, 31, 0, .ro, 0x0, .any, false, .whole, 0x0, 1⟩
def CUR_PASS_PASS : Fld := ⟨0x10C, 1, 0, .ro, 0x0, .any, false, .whole, 0x0, 1⟩
def PAT_BASE_LO_ADDR : Fld := ⟨0x110, 31, 12, .ro, 0x0, .any, false, .lo, 0x0, 1⟩
def PAT_BASE_HI_VALID : Fld := ⟨0x114, 31, 31, .ro, 0x0, .any, false, .hi, 0x0, 1⟩
def PAT_BASE_HI_ADDR : Fld := ⟨0x114, 19, 0, .ro, 0x0, .any, false, .hi, 0x0, 1⟩
def PAT_SEAL : Fld := ⟨0x118, 31, 0, .ro, 0x0, .any, false, .whole, 0x0, 1⟩
def FLAGS_SATURATE : Fld := ⟨0x11C, 4, 4, .w1c, 0x0, .any, false, .whole, 0x0, 1⟩
def FLAGS_DIVZERO : Fld := ⟨0x11C, 3, 3, .w1c, 0x0, .any, false, .whole, 0x0, 1⟩
def FLAGS_OVERFLOW : Fld := ⟨0x11C, 2, 2, .w1c, 0x0, .any, false, .whole, 0x0, 1⟩
def FLAGS_INVALID : Fld := ⟨0x11C, 1, 1, .w1c, 0x0, .any, false, .whole, 0x0, 1⟩
def FLAGS_PERM_RANGE : Fld := ⟨0x11C, 0, 0, .w1c, 0x0, .any, false, .whole, 0x0, 1⟩
def INSTR_LO : Fld := ⟨0x120, 31, 0, .ro, 0x0, .any, false, .lo, 0x0, 1⟩
def INSTR_HI : Fld := ⟨0x124, 31, 0, .ro, 0x0, .any, false, .hi, 0x0, 1⟩
def BUSY_LO : Fld := ⟨0x128, 31, 0, .ro, 0x0, .any, false, .lo, 0x0, 1⟩
def BUSY_HI : Fld := ⟨0x12C, 31, 0, .ro, 0x0, .any, false, .hi, 0x0, 1⟩
def EXC_INVALID : Fld := ⟨0x130, 31, 0, .ro, 0x0, .any, false, .whole, 0x0, 1⟩
def EXC_OVERFLOW : Fld := ⟨0x134, 31, 0, .ro, 0x0, .any, false, .whole, 0x0, 1⟩
def EXC_DIVZERO : Fld := ⟨0x138, 31, 0, .ro, 0x0, .any, false, .whole, 0x0, 1⟩
def PERM_RANGE_LANES : Fld := ⟨0x13C, 31, 0, .ro, 0x0, .any, false, .whole, 0x0, 1⟩
def SEAL_ERRS : Fld := ⟨0x140, 31, 0, .ro, 0x0, .any, false, .whole, 0x0, 1⟩
def COUNT_CLEAR_CLEAR : Fld := ⟨0x144, 0, 0, .wo, 0x0, .any, false, .whole, 0x0, 1⟩
def tab0 : List Fld := [PAT_FLUSH_FLUSH, CUR_TASK, CUR_GROUP, CUR_PASS_PASS, PAT_BASE_LO_ADDR, PAT_BASE_HI_VALID, PAT_BASE_HI_ADDR, PAT_SEAL, FLAGS_SATURATE, FLAGS_DIVZERO, FLAGS_OVERFLOW, FLAGS_INVALID, FLAGS_PERM_RANGE, INSTR_LO, INSTR_HI, BUSY_LO, BUSY_HI, EXC_INVALID, EXC_OVERFLOW, EXC_DIVZERO, PERM_RANGE_LANES, SEAL_ERRS, COUNT_CLEAR_CLEAR]
def fields : List Fld := tab0
end VEC_CORE

/-! UPDATE registers (R247). -/
namespace UPDATE
def STEP_ETA : Fld := ⟨0x100, 31, 0, .rw, 0x0, .eta, false, .whole, 0x0, 1⟩
def STEP_TAG_LO : Fld := ⟨0x104, 31, 0, .rw, 0x0, .any, false, .lo, 0x0, 1⟩
def STEP_TAG_HI : Fld := ⟨0x108, 31, 0, .rw, 0x0, .any, false, .hi, 0x0, 1⟩
def UPDATE_WAIT_MAX : Fld := ⟨0x10C, 31, 0, .rw, 0x989680, .range 2000 0xFFFFFFFF, false, .whole, 0x0, 1⟩
def HOLD_REQ_ARM : Fld := ⟨0x110, 31, 31, .rw, 0x0, .any, false, .whole, 0x0, 1⟩
def HOLD_REQ_LAYER : Fld := ⟨0x110, 15, 0, .rw, 0x0, .any, false, .whole, 0x0, 1⟩
def CUR_TASK : Fld := ⟨0x114, 31, 0, .ro, 0xFFFFFFFF, .any, false, .whole, 0x0, 1⟩
def ENGINE_STATE_STATE : Fld := ⟨0x118, 19, 16, .ro, 0x0, .any, false, .whole, 0x0, 1⟩
def ENGINE_STATE_LAYER : Fld := ⟨0x118, 15, 0, .ro, 0x0, .any, false, .whole, 0x0, 1⟩
def WAIT_TICKS : Fld := ⟨0x11C, 31, 0, .ro, 0x0, .any, false, .whole, 0x0, 1⟩
def COMMITS : Fld := ⟨0x120, 31, 0, .ro, 0x0, .any, false, .whole, 0x0, 1⟩
def HELD_COUNT : Fld := ⟨0x124, 31, 0, .ro, 0x0, .any, false, .whole, 0x0, 1⟩
def STALE_COUNT : Fld := ⟨0x128, 31, 0, .ro, 0x0, .any, false, .whole, 0x0, 1⟩
def TIMEOUT_COUNT : Fld := ⟨0x12C, 31, 0, .ro, 0x0, .any, false, .whole, 0x0, 1⟩
def LAST_RATIO : Fld := ⟨0x130, 31, 0, .ro, 0x0, .any, false, .whole, 0x0, 1⟩
def LAST_HOLD_LAYER : Fld := ⟨0x134, 31, 16, .ro, 0x0, .any, false, .whole, 0x0, 1⟩
def LAST_HOLD_REASONS : Fld := ⟨0x134, 5, 0, .ro, 0x0, .any, false, .whole, 0x0, 1⟩
def ELEM_LO : Fld := ⟨0x138, 31, 0, .ro, 0x0, .any, false, .lo, 0x0, 1⟩
def ELEM_HI : Fld := ⟨0x13C, 31, 0, .ro, 0x0, .any, false, .hi, 0x0, 1⟩
def SEAL_ERRS : Fld := ⟨0x140, 31, 0, .ro, 0x0, .any, false, .whole, 0x0, 1⟩
def COUNT_CLEAR_CLEAR : Fld := ⟨0x144, 0, 0, .wo, 0x0, .any, false, .whole, 0x0, 1⟩
def tab0 : List Fld := [STEP_ETA, STEP_TAG_LO, STEP_TAG_HI, UPDATE_WAIT_MAX, HOLD_REQ_ARM, HOLD_REQ_LAYER, CUR_TASK, ENGINE_STATE_STATE, ENGINE_STATE_LAYER, WAIT_TICKS, COMMITS, HELD_COUNT, STALE_COUNT, TIMEOUT_COUNT, LAST_RATIO, LAST_HOLD_LAYER, LAST_HOLD_REASONS, ELEM_LO, ELEM_HI, SEAL_ERRS, COUNT_CLEAR_CLEAR]
def fields : List Fld := tab0
end UPDATE

/-! NUMWATCH registers (R266). -/
namespace NUMWATCH
def WT_ADDR_LO_ADDR : Fld := ⟨0x100, 31, 12, .rwp, 0x0, .any, false, .lo, 0x0, 1⟩
def WT_ADDR_HI_ADDR : Fld := ⟨0x104, 19, 0, .rwp, 0x0, .any, false, .hi, 0x0, 1⟩
def WT_CTL_LOADED : Fld := ⟨0x108, 1, 1, .ro, 0x0, .any, false, .whole, 0x0, 1⟩
def WT_CTL_LOAD : Fld := ⟨0x108, 0, 0, .wo, 0x0, .any, false, .whole, 0x0, 1⟩
def EST_ADDR_LO_ADDR : Fld := ⟨0x10C, 31, 12, .rwp, 0x0, .any, false, .lo, 0x0, 1⟩
def EST_ADDR_HI_ADDR : Fld := ⟨0x110, 19, 0, .rwp, 0x0, .any, false, .hi, 0x0, 1⟩
def EST_CTL_OP : Fld := ⟨0x114, 31, 30, .rwp, 0x0, .any, false, .whole, 0x0, 1⟩
def EST_CTL_BUSY : Fld := ⟨0x114, 0, 0, .ro, 0x0, .any, false, .whole, 0x0, 1⟩
def REPLAY_MAX_MAX : Fld := ⟨0x118, 2, 0, .rwp, 0x2, .any, false, .whole, 0x0, 1⟩
def REPLAY_STATE_WINDOW : Fld := ⟨0x11C, 8, 8, .ro, 0x0, .any, false, .whole, 0x0, 1⟩
def REPLAY_STATE_REPLAYS : Fld := ⟨0x11C, 2, 0, .ro, 0x0, .any, false, .whole, 0x0, 1⟩
def STEP_LO : Fld := ⟨0x120, 31, 0, .ro, 0x0, .any, false, .lo, 0x0, 1⟩
def STEP_HI : Fld := ⟨0x124, 31, 0, .ro, 0x0, .any, false, .hi, 0x0, 1⟩
def DECISIONS : Fld := ⟨0x128, 31, 0, .ro, 0x0, .any, false, .whole, 0x0, 1⟩
def SOFT_COUNT : Fld := ⟨0x12C, 31, 0, .ro, 0x0, .any, false, .whole, 0x0, 1⟩
def HARD_COUNT : Fld := ⟨0x130, 31, 0, .ro, 0x0, .any, false, .whole, 0x0, 1⟩
def PREPASS_COUNT : Fld := ⟨0x134, 31, 0, .ro, 0x0, .any, false, .whole, 0x0, 1⟩
def UNWATCHED_COUNT : Fld := ⟨0x138, 31, 0, .ro, 0x0, .any, false, .whole, 0x0, 1⟩
def COUNT_CLEAR_CLEAR : Fld := ⟨0x13C, 0, 0, .wo, 0x0, .any, false, .whole, 0x0, 1⟩
def WATCH_SEL_ROLE : Fld := ⟨0x140, 18, 16, .rw, 0x0, .any, false, .whole, 0x0, 1⟩
def WATCH_SEL_ENTRY : Fld := ⟨0x140, 9, 0, .rw, 0x0, .any, false, .whole, 0x0, 1⟩
def WATCH_SEL_P_ROLE : Fld := ⟨0x144, 18, 16, .rwp, 0x0, .any, false, .whole, 0x0, 1⟩
def WATCH_SEL_P_ENTRY : Fld := ⟨0x144, 9, 0, .rwp, 0x0, .any, false, .whole, 0x0, 1⟩
def W_ELEM_LO : Fld := ⟨0x200, 31, 0, .ro, 0x0, .any, false, .lo, 0x80, 2⟩
def W_ELEM_HI : Fld := ⟨0x204, 31, 0, .ro, 0x0, .any, false, .hi, 0x80, 2⟩
def W_ZERO : Fld := ⟨0x208, 31, 0, .ro, 0x0, .any, false, .whole, 0x80, 2⟩
def W_SAT : Fld := ⟨0x20C, 31, 0, .ro, 0x0, .any, false, .whole, 0x80, 2⟩
def W_NONFINITE : Fld := ⟨0x210, 31, 0, .ro, 0x0, .any, false, .whole, 0x80, 2⟩
def W_SAT_BLOCKS : Fld := ⟨0x214, 31, 0, .ro, 0x0, .any, false, .whole, 0x80, 2⟩
def W_VANISHED : Fld := ⟨0x218, 31, 0, .ro, 0x0, .any, false, .whole, 0x80, 2⟩
def W_SHARE_SAT : Fld := ⟨0x21C, 31, 16, .ro, 0x0, .any, false, .whole, 0x80, 2⟩
def W_SHARE_ZERO : Fld := ⟨0x21C, 15, 0, .ro, 0x0, .any, false, .whole, 0x80, 2⟩
def W_SHARE2_NONFINITE : Fld := ⟨0x220, 15, 0, .ro, 0x0, .any, false, .whole, 0x80, 2⟩
def W_EST : Fld := ⟨0x224, 31, 0, .ro, 0x0, .any, false, .whole, 0x80, 2⟩
def L_CONV_LO : Fld := ⟨0x228, 31, 0, .ro, 0x0, .any, false, .lo, 0x80, 2⟩
def L_CONV_HI : Fld := ⟨0x22C, 31, 0, .ro, 0x0, .any, false, .hi, 0x80, 2⟩
def L_CLIP_CONV : Fld := ⟨0x230, 31, 0, .ro, 0x0, .any, false, .whole, 0x80, 2⟩
def L_SAT_CONV : Fld := ⟨0x234, 31, 0, .ro, 0x0, .any, false, .whole, 0x80, 2⟩
def L_OUTLIER_OVF : Fld := ⟨0x238, 31, 0, .ro, 0x0, .any, false, .whole, 0x80, 2⟩
def L_RUNG_IN_FMT : Fld := ⟨0x23C, 29, 24, .ro, 0x0, .any, false, .whole, 0x80, 2⟩
def L_RUNG_OPND_FMT : Fld := ⟨0x23C, 21, 16, .ro, 0x0, .any, false, .whole, 0x80, 2⟩
def L_RUNG_ACC_WIDE : Fld := ⟨0x23C, 8, 8, .ro, 0x0, .any, false, .whole, 0x80, 2⟩
def L_RUNG_REPEATS : Fld := ⟨0x23C, 7, 6, .ro, 0x0, .any, false, .whole, 0x80, 2⟩
def L_RUNG_CAUSES : Fld := ⟨0x23C, 3, 0, .ro, 0x0, .any, false, .whole, 0x80, 2⟩
def L_RATIO : Fld := ⟨0x240, 31, 0, .ro, 0x0, .any, false, .whole, 0x80, 2⟩
def L_RATIO_MAX : Fld := ⟨0x244, 31, 0, .ro, 0x0, .any, false, .whole, 0x80, 2⟩
def L_ALARMS : Fld := ⟨0x248, 31, 0, .ro, 0x0, .any, false, .whole, 0x80, 2⟩
def tab0 : List Fld := [WT_ADDR_LO_ADDR, WT_ADDR_HI_ADDR, WT_CTL_LOADED, WT_CTL_LOAD, EST_ADDR_LO_ADDR, EST_ADDR_HI_ADDR, EST_CTL_OP, EST_CTL_BUSY, REPLAY_MAX_MAX, REPLAY_STATE_WINDOW, REPLAY_STATE_REPLAYS, STEP_LO, STEP_HI, DECISIONS, SOFT_COUNT, HARD_COUNT, PREPASS_COUNT, UNWATCHED_COUNT, COUNT_CLEAR_CLEAR, WATCH_SEL_ROLE, WATCH_SEL_ENTRY, WATCH_SEL_P_ROLE, WATCH_SEL_P_ENTRY, W_ELEM_LO, W_ELEM_HI, W_ZERO, W_SAT, W_NONFINITE, W_SAT_BLOCKS, W_VANISHED, W_SHARE_SAT, W_SHARE_ZERO, W_SHARE2_NONFINITE, W_EST, L_CONV_LO, L_CONV_HI, L_CLIP_CONV, L_SAT_CONV, L_OUTLIER_OVF, L_RUNG_IN_FMT]
def tab1 : List Fld := [L_RUNG_OPND_FMT, L_RUNG_ACC_WIDE, L_RUNG_REPEATS, L_RUNG_CAUSES, L_RATIO, L_RATIO_MAX, L_ALARMS]
def fields : List Fld := tab0 ++ tab1
end NUMWATCH

/-! GRAPH_SCHED registers (R300). -/
namespace GRAPH_SCHED
def BTN_INFO_COUNT : Fld := ⟨0x100, 15, 0, .ro, 0x4000, .any, false, .whole, 0x0, 1⟩
def BTN_LEVEL : Fld := ⟨0x104, 31, 0, .ro, 0x10101, .any, false, .whole, 0x0, 1⟩
def BTN_ERR_COUNT : Fld := ⟨0x108, 31, 0, .ro, 0x0, .any, false, .whole, 0x0, 1⟩
def BTN_ERR_LAST_EVENT : Fld := ⟨0x10C, 31, 16, .ro, 0x0, .any, false, .whole, 0x0, 1⟩
def BTN_ERR_LAST_BUTTON : Fld := ⟨0x10C, 15, 0, .ro, 0x0, .any, false, .whole, 0x0, 1⟩
def STEP_STATE_WINDOW : Fld := ⟨0x110, 31, 31, .ro, 0x0, .any, false, .whole, 0x0, 1⟩
def STEP_STATE_QUEUE : Fld := ⟨0x110, 21, 16, .ro, 0x0, .any, false, .whole, 0x0, 1⟩
def STEP_STATE_SNAP_COUNT : Fld := ⟨0x110, 12, 0, .ro, 0x0, .any, false, .whole, 0x0, 1⟩
def STEP_SNAP_BASE : Fld := ⟨0x114, 13, 0, .ro, 0x0, .any, false, .whole, 0x0, 1⟩
def STEP_LO : Fld := ⟨0x118, 31, 0, .ro, 0x0, .any, false, .lo, 0x0, 1⟩
def STEP_HI : Fld := ⟨0x11C, 31, 0, .ro, 0x0, .any, false, .hi, 0x0, 1⟩
def REPLAY_COUNT : Fld := ⟨0x120, 31, 0, .ro, 0x0, .any, false, .whole, 0x0, 1⟩
def REPEAT_COUNT : Fld := ⟨0x124, 31, 0, .ro, 0x0, .any, false, .whole, 0x0, 1⟩
def DISPATCH_LO : Fld := ⟨0x128, 31, 0, .ro, 0x0, .any, false, .lo, 0x0, 1⟩
def DISPATCH_HI : Fld := ⟨0x12C, 31, 0, .ro, 0x0, .any, false, .hi, 0x0, 1⟩
def IN_FLIGHT_COUNT : Fld := ⟨0x130, 15, 0, .ro, 0x0, .any, false, .whole, 0x0, 1⟩
def RETAIN_LOST : Fld := ⟨0x134, 31, 0, .ro, 0x0, .any, false, .whole, 0x0, 1⟩
def DESC_ERRS : Fld := ⟨0x138, 31, 0, .ro, 0x0, .any, false, .whole, 0x0, 1⟩
def SCHED_CTL_HOLD : Fld := ⟨0x13C, 0, 0, .rwp, 0x0, .any, false, .whole, 0x0, 1⟩
def COUNT_CLEAR_CLEAR : Fld := ⟨0x140, 0, 0, .wo, 0x0, .any, false, .whole, 0x0, 1⟩
def tab0 : List Fld := [BTN_INFO_COUNT, BTN_LEVEL, BTN_ERR_COUNT, BTN_ERR_LAST_EVENT, BTN_ERR_LAST_BUTTON, STEP_STATE_WINDOW, STEP_STATE_QUEUE, STEP_STATE_SNAP_COUNT, STEP_SNAP_BASE, STEP_LO, STEP_HI, REPLAY_COUNT, REPEAT_COUNT, DISPATCH_LO, DISPATCH_HI, IN_FLIGHT_COUNT, RETAIN_LOST, DESC_ERRS, SCHED_CTL_HOLD, COUNT_CLEAR_CLEAR]
def fields : List Fld := tab0
end GRAPH_SCHED

/-! GRAPH_QUEUE registers (R301). -/
namespace GRAPH_QUEUE
def RING_BASE_LO_ADDR : Fld := ⟨0x100, 31, 10, .rwp, 0x0, .any, false, .lo, 0x0, 1⟩
def RING_BASE_HI_ADDR : Fld := ⟨0x104, 19, 0, .rwp, 0x0, .any, false, .hi, 0x0, 1⟩
def RING_SIZE_LOG2 : Fld := ⟨0x108, 4, 0, .rwp, 0x6, .range 6 22, false, .whole, 0x0, 1⟩
def Q_CTL_PAUSE : Fld := ⟨0x10C, 2, 2, .rw, 0x0, .any, false, .whole, 0x0, 1⟩
def Q_CTL_RETAIN : Fld := ⟨0x10C, 1, 1, .rwp, 0x1, .any, false, .whole, 0x0, 1⟩
def Q_CTL_EN : Fld := ⟨0x10C, 0, 0, .rwp, 0x0, .any, false, .whole, 0x0, 1⟩
def TAIL : Fld := ⟨0x110, 31, 0, .rw, 0x0, .any, false, .whole, 0x0, 1⟩
def HEAD : Fld := ⟨0x114, 31, 0, .ro, 0x0, .any, false, .whole, 0x0, 1⟩
def CONSUMED : Fld := ⟨0x118, 31, 0, .ro, 0x0, .any, false, .whole, 0x0, 1⟩
def COMPLETED : Fld := ⟨0x11C, 31, 0, .ro, 0x0, .any, false, .whole, 0x0, 1⟩
def CMPL_BASE_LO_ADDR : Fld := ⟨0x120, 31, 12, .rwp, 0x0, .any, false, .lo, 0x0, 1⟩
def CMPL_BASE_HI_ADDR : Fld := ⟨0x124, 19, 0, .rwp, 0x0, .any, false, .hi, 0x0, 1⟩
def CMPL_SLOTS_COUNT : Fld := ⟨0x128, 24, 0, .rwp, 0x0, .range 0 0x1000000, false, .whole, 0x0, 1⟩
def WAIT_MAX : Fld := ⟨0x12C, 31, 0, .rw, 0x0, .zeroOr 2000 0xFFFFFFFF, false, .whole, 0x0, 1⟩
def Q_STATUS_STATE : Fld := ⟨0x130, 31, 28, .ro, 0x0, .any, false, .whole, 0x0, 1⟩
def Q_STATUS_IN_FLIGHT : Fld := ⟨0x130, 9, 0, .ro, 0x0, .any, false, .whole, 0x0, 1⟩
def STEP_LO : Fld := ⟨0x134, 31, 0, .ro, 0x0, .any, false, .lo, 0x0, 1⟩
def STEP_HI : Fld := ⟨0x138, 31, 0, .ro, 0x0, .any, false, .hi, 0x0, 1⟩
def SKIPPED : Fld := ⟨0x13C, 31, 0, .ro, 0x0, .any, false, .whole, 0x0, 1⟩
def tab0 : List Fld := [RING_BASE_LO_ADDR, RING_BASE_HI_ADDR, RING_SIZE_LOG2, Q_CTL_PAUSE, Q_CTL_RETAIN, Q_CTL_EN, TAIL, HEAD, CONSUMED, COMPLETED, CMPL_BASE_LO_ADDR, CMPL_BASE_HI_ADDR, CMPL_SLOTS_COUNT, WAIT_MAX, Q_STATUS_STATE, Q_STATUS_IN_FLIGHT, STEP_LO, STEP_HI, SKIPPED]
def fields : List Fld := tab0
end GRAPH_QUEUE

/-! MEM_DIE registers (R326). -/
namespace MEM_DIE
def SW_REQ_LINE : Fld := ⟨0x100, 7, 0, .wo, 0x0, .any, false, .whole, 0x0, 1⟩
def ACCESS_FAULTS : Fld := ⟨0x104, 31, 0, .ro, 0x0, .any, false, .whole, 0x0, 1⟩
def FAULT_ADDR_LO : Fld := ⟨0x108, 31, 0, .ro, 0x0, .any, false, .lo, 0x0, 1⟩
def FAULT_ADDR_HI_ADDR : Fld := ⟨0x10C, 19, 0, .ro, 0x0, .any, false, .hi, 0x0, 1⟩
def CHAN_BUSY : Fld := ⟨0x110, 31, 0, .ro, 0x0, .any, false, .whole, 0x0, 1⟩
def CHAN_OWNER : Fld := ⟨0x114, 31, 0, .ro, 0x0, .any, false, .whole, 0x0, 1⟩
def COUNT_CLEAR_CLEAR : Fld := ⟨0x118, 0, 0, .wo, 0x0, .any, false, .whole, 0x0, 1⟩
def tab0 : List Fld := [SW_REQ_LINE, ACCESS_FAULTS, FAULT_ADDR_LO, FAULT_ADDR_HI_ADDR, CHAN_BUSY, CHAN_OWNER, COUNT_CLEAR_CLEAR]
def fields : List Fld := tab0
end MEM_DIE

/-! STACK_CTL and TIERB_CTL registers (R327). -/
namespace CTL
def CTL_INFO_TAGS : Fld := ⟨0x100, 31, 16, .ro, 0x800, .any, false, .whole, 0x0, 1⟩
def CTL_INFO_TAG_BYTES : Fld := ⟨0x100, 15, 0, .ro, 0x200, .any, false, .whole, 0x0, 1⟩
def CAPACITY : Fld := ⟨0x104, 31, 0, .ro, 0x50, .any, false, .whole, 0x0, 1⟩
def TAGS_PEAK : Fld := ⟨0x108, 31, 16, .ro, 0x0, .any, false, .whole, 0x0, 1⟩
def TAGS_IN_USE : Fld := ⟨0x108, 15, 0, .ro, 0x0, .any, false, .whole, 0x0, 1⟩
def LATENCY_NS : Fld := ⟨0x10C, 15, 0, .ro, 0x0, .any, false, .whole, 0x0, 1⟩
def RD_BYTES_LO : Fld := ⟨0x110, 31, 0, .ro, 0x0, .any, false, .lo, 0x0, 1⟩
def RD_BYTES_HI : Fld := ⟨0x114, 31, 0, .ro, 0x0, .any, false, .hi, 0x0, 1⟩
def WR_BYTES_LO : Fld := ⟨0x118, 31, 0, .ro, 0x0, .any, false, .lo, 0x0, 1⟩
def WR_BYTES_HI : Fld := ⟨0x11C, 31, 0, .ro, 0x0, .any, false, .hi, 0x0, 1⟩
def CE_COUNT : Fld := ⟨0x120, 31, 0, .ro, 0x0, .any, false, .whole, 0x0, 1⟩
def UE_COUNT : Fld := ⟨0x124, 31, 0, .ro, 0x0, .any, false, .whole, 0x0, 1⟩
def UE_ADDR_LO : Fld := ⟨0x128, 31, 0, .ro, 0x0, .any, false, .lo, 0x0, 1⟩
def UE_ADDR_HI_ADDR : Fld := ⟨0x12C, 19, 0, .ro, 0x0, .any, false, .hi, 0x0, 1⟩
def COUNT_CLEAR_CLEAR : Fld := ⟨0x130, 0, 0, .wo, 0x0, .any, false, .whole, 0x0, 1⟩
def tab0 : List Fld := [CTL_INFO_TAGS, CTL_INFO_TAG_BYTES, CAPACITY, TAGS_PEAK, TAGS_IN_USE, LATENCY_NS, RD_BYTES_LO, RD_BYTES_HI, WR_BYTES_LO, WR_BYTES_HI, CE_COUNT, UE_COUNT, UE_ADDR_LO, UE_ADDR_HI_ADDR, COUNT_CLEAR_CLEAR]
def fields : List Fld := tab0
end CTL

/-! DMA registers (R328). -/
namespace DMA
def SRC_LO_ADDR : Fld := ⟨0x200, 31, 6, .rwp, 0x0, .any, false, .lo, 0x100, 8⟩
def SRC_HI_ADDR : Fld := ⟨0x204, 19, 0, .rwp, 0x0, .any, false, .hi, 0x100, 8⟩
def DST_LO_ADDR : Fld := ⟨0x208, 31, 6, .rwp, 0x0, .any, false, .lo, 0x100, 8⟩
def DST_HI_ADDR : Fld := ⟨0x20C, 19, 0, .rwp, 0x0, .any, false, .hi, 0x100, 8⟩
def LEN_BYTES : Fld := ⟨0x210, 31, 6, .rwp, 0x0, .any, false, .whole, 0x100, 8⟩
def CFG_REQ_LINE : Fld := ⟨0x214, 15, 8, .rwp, 0x0, .any, false, .whole, 0x100, 8⟩
def CFG_PACE : Fld := ⟨0x214, 7, 7, .rwp, 0x0, .any, false, .whole, 0x100, 8⟩
def CFG_BURST : Fld := ⟨0x214, 6, 5, .rwp, 0x3, .any, false, .whole, 0x100, 8⟩
def CFG_IRQ : Fld := ⟨0x214, 4, 4, .rwp, 0x0, .any, false, .whole, 0x100, 8⟩
def STAT_ADDR_LO_ADDR : Fld := ⟨0x218, 31, 4, .rwp, 0x0, .any, false, .lo, 0x100, 8⟩
def STAT_ADDR_HI_ADDR : Fld := ⟨0x21C, 19, 0, .rwp, 0x0, .any, false, .hi, 0x100, 8⟩
def CH_CTL_OWNER : Fld := ⟨0x220, 31, 31, .rwp, 0x0, .any, false, .whole, 0x100, 8⟩
def CH_CTL_ABORT : Fld := ⟨0x220, 2, 2, .wo, 0x0, .any, false, .whole, 0x100, 8⟩
def CH_CTL_ARM : Fld := ⟨0x220, 1, 1, .rwp, 0x0, .any, false, .whole, 0x100, 8⟩
def CH_STATUS_STATE : Fld := ⟨0x224, 31, 28, .ro, 0x0, .any, false, .whole, 0x100, 8⟩
def CH_STATUS_LAST : Fld := ⟨0x224, 27, 24, .ro, 0x0, .any, false, .whole, 0x100, 8⟩
def CH_STATUS_CREDITS : Fld := ⟨0x224, 7, 0, .ro, 0x0, .any, false, .whole, 0x100, 8⟩
def ACT_SRC_LO : Fld := ⟨0x228, 31, 0, .ro, 0x0, .any, false, .lo, 0x100, 8⟩
def ACT_SRC_HI : Fld := ⟨0x22C, 31, 0, .ro, 0x0, .any, false, .hi, 0x100, 8⟩
def ACT_DST_LO : Fld := ⟨0x230, 31, 0, .ro, 0x0, .any, false, .lo, 0x100, 8⟩
def ACT_DST_HI : Fld := ⟨0x234, 31, 0, .ro, 0x0, .any, false, .hi, 0x100, 8⟩
def RESIDUE : Fld := ⟨0x238, 31, 0, .ro, 0x0, .any, false, .whole, 0x100, 8⟩
def DONE_COUNT : Fld := ⟨0x23C, 31, 0, .ro, 0x0, .any, false, .whole, 0x100, 8⟩
def BYTES_LO : Fld := ⟨0x240, 31, 0, .ro, 0x0, .any, false, .lo, 0x100, 8⟩
def BYTES_HI : Fld := ⟨0x244, 31, 0, .ro, 0x0, .any, false, .hi, 0x100, 8⟩
def tab0 : List Fld := [SRC_LO_ADDR, SRC_HI_ADDR, DST_LO_ADDR, DST_HI_ADDR, LEN_BYTES, CFG_REQ_LINE, CFG_PACE, CFG_BURST, CFG_IRQ, STAT_ADDR_LO_ADDR, STAT_ADDR_HI_ADDR, CH_CTL_OWNER, CH_CTL_ABORT, CH_CTL_ARM, CH_STATUS_STATE, CH_STATUS_LAST, CH_STATUS_CREDITS, ACT_SRC_LO, ACT_SRC_HI, ACT_DST_LO, ACT_DST_HI, RESIDUE, DONE_COUNT, BYTES_LO, BYTES_HI]
def fields : List Fld := tab0
end DMA

/-! GATHER registers (R329). -/
namespace GATHER
def CUR_TASK : Fld := ⟨0x100, 31, 0, .ro, 0xFFFFFFFF, .any, false, .whole, 0x0, 1⟩
def ROWS_LO : Fld := ⟨0x104, 31, 0, .ro, 0x0, .any, false, .lo, 0x0, 1⟩
def ROWS_HI : Fld := ⟨0x108, 31, 0, .ro, 0x0, .any, false, .hi, 0x0, 1⟩
def OUT_OF_RANGE : Fld := ⟨0x10C, 31, 0, .ro, 0x0, .any, false, .whole, 0x0, 1⟩
def ROUTE_IGNORED : Fld := ⟨0x110, 31, 0, .ro, 0x0, .any, false, .whole, 0x0, 1⟩
def SEAL_ERRS : Fld := ⟨0x114, 31, 0, .ro, 0x0, .any, false, .whole, 0x0, 1⟩
def COUNT_CLEAR_CLEAR : Fld := ⟨0x118, 0, 0, .wo, 0x0, .any, false, .whole, 0x0, 1⟩
def tab0 : List Fld := [CUR_TASK, ROWS_LO, ROWS_HI, OUT_OF_RANGE, ROUTE_IGNORED, SEAL_ERRS, COUNT_CLEAR_CLEAR]
def fields : List Fld := tab0
end GATHER

/-! TEMPO registers (R345). -/
namespace TEMPO
def TEMPO_CTL_BEACON_TX : Fld := ⟨0x100, 31, 16, .rwp, 0x0, .any, false, .whole, 0x0, 1⟩
def TEMPO_CTL_BEACON_AUTO : Fld := ⟨0x100, 10, 10, .rwp, 0x1, .any, false, .whole, 0x0, 1⟩
def TEMPO_CTL_EPOCH_ARM : Fld := ⟨0x100, 9, 9, .rwp, 0x0, .any, false, .whole, 0x0, 1⟩
def TEMPO_CTL_BEACON_PORT : Fld := ⟨0x100, 7, 4, .rwp, 0x0, .any, false, .whole, 0x0, 1⟩
def TEMPO_CTL_SRC : Fld := ⟨0x100, 1, 0, .rwp, 0x2, .enum 2 2, false, .whole, 0x0, 1⟩
def TEMPO_STATUS_STATE : Fld := ⟨0x104, 31, 28, .ro, 0x0, .any, false, .whole, 0x0, 1⟩
def TEMPO_STATUS_PORT : Fld := ⟨0x104, 7, 4, .ro, 0x0, .any, false, .whole, 0x0, 1⟩
def TEMPO_STATUS_STALLED : Fld := ⟨0x104, 0, 0, .ro, 0x0, .any, false, .whole, 0x0, 1⟩
def COUNT_LO : Fld := ⟨0x108, 31, 0, .ro, 0x0, .any, false, .lo, 0x0, 1⟩
def COUNT_HI : Fld := ⟨0x10C, 31, 0, .ro, 0x0, .any, false, .hi, 0x0, 1⟩
def EPOCH_SET_LO_COUNT : Fld := ⟨0x110, 31, 20, .rwp, 0x0, .any, false, .lo, 0x0, 1⟩
def EPOCH_SET_HI : Fld := ⟨0x114, 31, 0, .rwp, 0x0, .any, false, .hi, 0x0, 1⟩
def BEACON_DELAY_NS : Fld := ⟨0x118, 15, 0, .ro, 0x0, .any, false, .whole, 0x0, 1⟩
def LAST_CORR_TICKS : Fld := ⟨0x11C, 15, 0, .ro, 0x0, .any, false, .whole, 0x0, 1⟩
def MARK_ERRS : Fld := ⟨0x120, 31, 0, .ro, 0x0, .any, false, .whole, 0x0, 1⟩
def LOST_COUNT : Fld := ⟨0x124, 31, 0, .ro, 0x0, .any, false, .whole, 0x0, 1⟩
def STEP_COUNT : Fld := ⟨0x128, 31, 0, .ro, 0x0, .any, false, .whole, 0x0, 1⟩
def EVT_SEL_INDEX : Fld := ⟨0x140, 7, 0, .rwp, 0x0, .any, false, .whole, 0x0, 1⟩
def EVT_COUNT_LO : Fld := ⟨0x144, 31, 0, .rwp, 0x0, .any, false, .lo, 0x0, 1⟩
def EVT_COUNT_HI : Fld := ⟨0x148, 31, 0, .rwp, 0x0, .any, false, .hi, 0x0, 1⟩
def EVT_ACTION_ACTION : Fld := ⟨0x14C, 31, 24, .rwp, 0x0, .any, false, .whole, 0x0, 1⟩
def EVT_ACTION_IRQ : Fld := ⟨0x14C, 17, 17, .rwp, 0x0, .any, false, .whole, 0x0, 1⟩
def EVT_ACTION_REPEAT : Fld := ⟨0x14C, 16, 16, .rwp, 0x0, .any, false, .whole, 0x0, 1⟩
def EVT_ACTION_ARG : Fld := ⟨0x14C, 15, 0, .rwp, 0x0, .any, false, .whole, 0x0, 1⟩
def EVT_PARAM : Fld := ⟨0x150, 31, 0, .rwp, 0x0, .any, false, .whole, 0x0, 1⟩
def EVT_CMD_OP : Fld := ⟨0x154, 1, 0, .wo, 0x0, .any, false, .whole, 0x0, 1⟩
def EVT_STATUS_RESULT : Fld := ⟨0x158, 31, 28, .ro, 0x0, .any, false, .whole, 0x0, 1⟩
def EVT_STATUS_ARMED : Fld := ⟨0x158, 8, 8, .ro, 0x0, .any, false, .whole, 0x0, 1⟩
def EVT_STATUS_INDEX : Fld := ⟨0x158, 7, 0, .ro, 0x0, .any, false, .whole, 0x0, 1⟩
def FIRED : Fld := ⟨0x15C, 31, 0, .ro, 0x0, .any, false, .whole, 0x0, 1⟩
def tab0 : List Fld := [TEMPO_CTL_BEACON_TX, TEMPO_CTL_BEACON_AUTO, TEMPO_CTL_EPOCH_ARM, TEMPO_CTL_BEACON_PORT, TEMPO_CTL_SRC, TEMPO_STATUS_STATE, TEMPO_STATUS_PORT, TEMPO_STATUS_STALLED, COUNT_LO, COUNT_HI, EPOCH_SET_LO_COUNT, EPOCH_SET_HI, BEACON_DELAY_NS, LAST_CORR_TICKS, MARK_ERRS, LOST_COUNT, STEP_COUNT, EVT_SEL_INDEX, EVT_COUNT_LO, EVT_COUNT_HI, EVT_ACTION_ACTION, EVT_ACTION_IRQ, EVT_ACTION_REPEAT, EVT_ACTION_ARG, EVT_PARAM, EVT_CMD_OP, EVT_STATUS_RESULT, EVT_STATUS_ARMED, EVT_STATUS_INDEX, FIRED]
def fields : List Fld := tab0
end TEMPO

/-! SEAM_PORT registers (R374). -/
namespace SEAM_PORT
def LINK_STATUS_PEER_ID : Fld := ⟨0x100, 31, 20, .ro, 0x0, .any, false, .whole, 0x0, 1⟩
def LINK_STATUS_PEER_PORT : Fld := ⟨0x100, 19, 16, .ro, 0x0, .any, false, .whole, 0x0, 1⟩
def LINK_STATUS_LEVEL : Fld := ⟨0x100, 15, 8, .ro, 0x0, .any, false, .whole, 0x0, 1⟩
def LINK_STATUS_UP : Fld := ⟨0x100, 7, 7, .ro, 0x0, .any, false, .whole, 0x0, 1⟩
def LINK_STATUS_RATE : Fld := ⟨0x100, 6, 6, .ro, 0x0, .any, false, .whole, 0x0, 1⟩
def LINK_STATUS_PEER_STORE : Fld := ⟨0x100, 5, 5, .ro, 0x0, .any, false, .whole, 0x0, 1⟩
def LINK_STATUS_PEER_VALID : Fld := ⟨0x100, 4, 4, .ro, 0x0, .any, false, .whole, 0x0, 1⟩
def LINK_STATUS_WIDTH : Fld := ⟨0x100, 2, 0, .ro, 0x0, .any, false, .whole, 0x0, 1⟩
def PORT_CTL_RETRAIN : Fld := ⟨0x104, 3, 3, .wo, 0x0, .any, false, .whole, 0x0, 1⟩
def PORT_CTL_RATE_MAX : Fld := ⟨0x104, 2, 2, .rwp, 0x0, .any, false, .whole, 0x0, 1⟩
def PORT_CTL_WIDTH_MAX : Fld := ⟨0x104, 1, 0, .rwp, 0x0, .enum 2 0, false, .whole, 0x0, 1⟩
def FEC_CORR_LO : Fld := ⟨0x108, 31, 0, .ro, 0x0, .any, false, .lo, 0x0, 1⟩
def FEC_CORR_HI : Fld := ⟨0x10C, 31, 0, .ro, 0x0, .any, false, .hi, 0x0, 1⟩
def FEC_UNCORR : Fld := ⟨0x110, 31, 0, .ro, 0x0, .any, false, .whole, 0x0, 1⟩
def CRC_ERRS : Fld := ⟨0x114, 31, 0, .ro, 0x0, .any, false, .whole, 0x0, 1⟩
def REPLAYS : Fld := ⟨0x118, 31, 0, .ro, 0x0, .any, false, .whole, 0x0, 1⟩
def RETRAINS : Fld := ⟨0x11C, 31, 0, .ro, 0x0, .any, false, .whole, 0x0, 1⟩
def TX_FLITS_LO : Fld := ⟨0x120, 31, 0, .ro, 0x0, .any, false, .lo, 0x0, 1⟩
def TX_FLITS_HI : Fld := ⟨0x124, 31, 0, .ro, 0x0, .any, false, .hi, 0x0, 1⟩
def RX_FLITS_LO : Fld := ⟨0x128, 31, 0, .ro, 0x0, .any, false, .lo, 0x0, 1⟩
def RX_FLITS_HI : Fld := ⟨0x12C, 31, 0, .ro, 0x0, .any, false, .hi, 0x0, 1⟩
def CREDITS_VC3 : Fld := ⟨0x130, 31, 24, .ro, 0x0, .any, false, .whole, 0x0, 1⟩
def CREDITS_VC2 : Fld := ⟨0x130, 23, 16, .ro, 0x0, .any, false, .whole, 0x0, 1⟩
def CREDITS_VC1 : Fld := ⟨0x130, 15, 8, .ro, 0x0, .any, false, .whole, 0x0, 1⟩
def CREDITS_VC0 : Fld := ⟨0x130, 7, 0, .ro, 0x0, .any, false, .whole, 0x0, 1⟩
def COUNT_CLEAR_CLEAR : Fld := ⟨0x134, 0, 0, .wo, 0x0, .any, false, .whole, 0x0, 1⟩
def tab0 : List Fld := [LINK_STATUS_PEER_ID, LINK_STATUS_PEER_PORT, LINK_STATUS_LEVEL, LINK_STATUS_UP, LINK_STATUS_RATE, LINK_STATUS_PEER_STORE, LINK_STATUS_PEER_VALID, LINK_STATUS_WIDTH, PORT_CTL_RETRAIN, PORT_CTL_RATE_MAX, PORT_CTL_WIDTH_MAX, FEC_CORR_LO, FEC_CORR_HI, FEC_UNCORR, CRC_ERRS, REPLAYS, RETRAINS, TX_FLITS_LO, TX_FLITS_HI, RX_FLITS_LO, RX_FLITS_HI, CREDITS_VC3, CREDITS_VC2, CREDITS_VC1, CREDITS_VC0, COUNT_CLEAR_CLEAR]
def fields : List Fld := tab0
end SEAM_PORT

/-! COLLECTIVE registers (R375). -/
namespace COLLECTIVE
def COLL_TABLE_LO_ADDR : Fld := ⟨0x100, 31, 12, .rwp, 0x0, .any, false, .lo, 0x0, 1⟩
def COLL_TABLE_HI_ADDR : Fld := ⟨0x104, 19, 0, .rwp, 0x0, .any, false, .hi, 0x0, 1⟩
def COLL_STEP_LO : Fld := ⟨0x108, 31, 0, .rwp, 0x0, .any, false, .lo, 0x0, 1⟩
def COLL_STEP_HI : Fld := ⟨0x10C, 31, 0, .rwp, 0x0, .any, false, .hi, 0x0, 1⟩
def COLL_CTL_LOADED : Fld := ⟨0x110, 1, 1, .ro, 0x0, .any, false, .whole, 0x0, 1⟩
def COLL_CTL_LOAD : Fld := ⟨0x110, 0, 0, .wo, 0x0, .any, false, .whole, 0x0, 1⟩
def DONE_COUNT : Fld := ⟨0x114, 31, 0, .ro, 0x0, .any, false, .whole, 0x0, 1⟩
def PARTIAL_COUNT : Fld := ⟨0x118, 31, 0, .ro, 0x0, .any, false, .whole, 0x0, 1⟩
def TIMEOUT_COUNT : Fld := ⟨0x11C, 31, 0, .ro, 0x0, .any, false, .whole, 0x0, 1⟩
def LATE_SENT : Fld := ⟨0x120, 31, 0, .ro, 0x0, .any, false, .whole, 0x0, 1⟩
def LATE_DROPPED : Fld := ⟨0x124, 31, 0, .ro, 0x0, .any, false, .whole, 0x0, 1⟩
def STALE_MSGS : Fld := ⟨0x128, 31, 0, .ro, 0x0, .any, false, .whole, 0x0, 1⟩
def COLL_SEL_ENTRY : Fld := ⟨0x12C, 11, 0, .rw, 0x0, .any, false, .whole, 0x0, 1⟩
def SEL_STEP_LO : Fld := ⟨0x130, 31, 0, .ro, 0x0, .any, false, .lo, 0x0, 1⟩
def SEL_STEP_HI : Fld := ⟨0x134, 31, 0, .ro, 0x0, .any, false, .hi, 0x0, 1⟩
def SEL_STATE_STATE : Fld := ⟨0x138, 31, 28, .ro, 0x0, .any, false, .whole, 0x0, 1⟩
def SEL_STATE_PRESENT : Fld := ⟨0x138, 12, 0, .ro, 0x0, .any, false, .whole, 0x0, 1⟩
def COUNT_CLEAR_CLEAR : Fld := ⟨0x13C, 0, 0, .wo, 0x0, .any, false, .whole, 0x0, 1⟩
def tab0 : List Fld := [COLL_TABLE_LO_ADDR, COLL_TABLE_HI_ADDR, COLL_STEP_LO, COLL_STEP_HI, COLL_CTL_LOADED, COLL_CTL_LOAD, DONE_COUNT, PARTIAL_COUNT, TIMEOUT_COUNT, LATE_SENT, LATE_DROPPED, STALE_MSGS, COLL_SEL_ENTRY, SEL_STEP_LO, SEL_STEP_HI, SEL_STATE_STATE, SEL_STATE_PRESENT, COUNT_CLEAR_CLEAR]
def fields : List Fld := tab0
end COLLECTIVE

/-! SEAM_MGMT registers (R376). -/
namespace SEAM_MGMT
def MY_ID_VALID : Fld := ⟨0x100, 31, 31, .rwp, 0x0, .any, false, .whole, 0x0, 1⟩
def MY_ID_ID : Fld := ⟨0x100, 11, 0, .rwp, 0x0, .any, false, .whole, 0x0, 1⟩
def RX_BASE0_LO : Fld := ⟨0x104, 31, 12, .rwp, 0x0, .any, false, .lo, 0x0, 1⟩
def RX_BASE0_HI : Fld := ⟨0x108, 19, 0, .rwp, 0x0, .any, false, .hi, 0x0, 1⟩
def RX_LIMIT0_LO : Fld := ⟨0x10C, 31, 12, .rwp, 0x0, .any, false, .lo, 0x0, 1⟩
def RX_LIMIT0_HI : Fld := ⟨0x110, 31, 0, .rwp, 0x0, .any, false, .hi, 0x0, 1⟩
def RX_BASE1_LO : Fld := ⟨0x114, 31, 12, .rwp, 0x0, .any, false, .lo, 0x0, 1⟩
def RX_BASE1_HI : Fld := ⟨0x118, 19, 0, .rwp, 0x0, .any, false, .hi, 0x0, 1⟩
def RX_LIMIT1_LO : Fld := ⟨0x11C, 31, 12, .rwp, 0x0, .any, false, .lo, 0x0, 1⟩
def RX_LIMIT1_HI : Fld := ⟨0x120, 31, 0, .rwp, 0x0, .any, false, .hi, 0x0, 1⟩
def BCAST_DOWN_PORTS : Fld := ⟨0x124, 15, 0, .rwp, 0x0, .any, false, .whole, 0x0, 1⟩
def ROUTE_SEL_STORE : Fld := ⟨0x128, 12, 12, .rwp, 0x0, .any, false, .whole, 0x0, 1⟩
def ROUTE_SEL_ID : Fld := ⟨0x128, 11, 0, .rwp, 0x0, .any, false, .whole, 0x0, 1⟩
def ROUTE_DATA_ALT_VALID : Fld := ⟨0x12C, 9, 9, .rwp, 0x0, .any, false, .whole, 0x0, 1⟩
def ROUTE_DATA_VALID : Fld := ⟨0x12C, 8, 8, .rwp, 0x0, .any, false, .whole, 0x0, 1⟩
def ROUTE_DATA_ALT : Fld := ⟨0x12C, 7, 4, .rwp, 0x0, .any, false, .whole, 0x0, 1⟩
def ROUTE_DATA_PRIMARY : Fld := ⟨0x12C, 3, 0, .rwp, 0x0, .any, false, .whole, 0x0, 1⟩
def TXN_TIMEOUT : Fld := ⟨0x130, 31, 0, .rwp, 0x2710, .range 2000 0xFFFFFFFF, false, .whole, 0x0, 1⟩
def SCHED_CMD_SEND : Fld := ⟨0x134, 0, 0, .wo, 0x0, .any, false, .whole, 0x0, 1⟩
def UNROUTABLE : Fld := ⟨0x138, 31, 0, .ro, 0x0, .any, false, .whole, 0x0, 1⟩
def HOP_DROPS : Fld := ⟨0x13C, 31, 0, .ro, 0x0, .any, false, .whole, 0x0, 1⟩
def BAD_OPCODE : Fld := ⟨0x140, 31, 0, .ro, 0x0, .any, false, .whole, 0x0, 1⟩
def REFUSED : Fld := ⟨0x144, 31, 0, .ro, 0x0, .any, false, .whole, 0x0, 1⟩
def COUNT_CLEAR_CLEAR : Fld := ⟨0x148, 0, 0, .wo, 0x0, .any, false, .whole, 0x0, 1⟩
def tab0 : List Fld := [MY_ID_VALID, MY_ID_ID, RX_BASE0_LO, RX_BASE0_HI, RX_LIMIT0_LO, RX_LIMIT0_HI, RX_BASE1_LO, RX_BASE1_HI, RX_LIMIT1_LO, RX_LIMIT1_HI, BCAST_DOWN_PORTS, ROUTE_SEL_STORE, ROUTE_SEL_ID, ROUTE_DATA_ALT_VALID, ROUTE_DATA_VALID, ROUTE_DATA_ALT, ROUTE_DATA_PRIMARY, TXN_TIMEOUT, SCHED_CMD_SEND, UNROUTABLE, HOP_DROPS, BAD_OPCODE, REFUSED, COUNT_CLEAR_CLEAR]
def fields : List Fld := tab0
end SEAM_MGMT

/-! MAINT registers (R400). -/
namespace MAINT
def MAINT_RUN_CLASSES : Fld := ⟨0x100, 8, 0, .ro, 0x0, .any, false, .whole, 0x0, 1⟩
def BUSY_COUNT : Fld := ⟨0x104, 31, 0, .ro, 0x0, .any, false, .whole, 0x0, 1⟩
def BUSY_LAST_CLASS : Fld := ⟨0x108, 31, 28, .ro, 0x0, .any, false, .whole, 0x0, 1⟩
def BUSY_LAST_HOLDER : Fld := ⟨0x108, 27, 24, .ro, 0x0, .any, false, .whole, 0x0, 1⟩
def REPLAY_ADDR_LO_ADDR : Fld := ⟨0x10C, 31, 12, .rwp, 0x0, .any, false, .lo, 0x0, 1⟩
def REPLAY_ADDR_HI_ADDR : Fld := ⟨0x110, 19, 0, .rwp, 0x0, .any, false, .hi, 0x0, 1⟩
def REPLAY_CMD_START : Fld := ⟨0x114, 0, 0, .wo, 0x0, .any, false, .whole, 0x0, 1⟩
def REPLAY_STATUS_STATE : Fld := ⟨0x118, 31, 28, .ro, 0x0, .any, false, .whole, 0x0, 1⟩
def REPLAY_STATUS_OUTCOME : Fld := ⟨0x118, 15, 8, .ro, 0x0, .any, false, .whole, 0x0, 1⟩
def REPLAY_STATUS_STATUS : Fld := ⟨0x118, 7, 0, .ro, 0x0, .any, false, .whole, 0x0, 1⟩
def FT_WAIT : Fld := ⟨0x11C, 31, 0, .rw, 0x2710, .range 2000 0xFFFFFFFF, false, .whole, 0x0, 1⟩
def FT_CMD_OP : Fld := ⟨0x120, 31, 30, .rwp, 0x0, .enum 2 0, false, .whole, 0x0, 1⟩
def FT_CMD_QUAD : Fld := ⟨0x120, 7, 6, .rwp, 0x0, .any, false, .whole, 0x0, 1⟩
def FT_CMD_KIND : Fld := ⟨0x120, 5, 5, .rwp, 0x0, .any, false, .whole, 0x0, 1⟩
def FT_CMD_CORE : Fld := ⟨0x120, 3, 0, .rwp, 0x0, .any, false, .whole, 0x0, 1⟩
def FT_STATUS_STATE : Fld := ⟨0x124, 31, 28, .ro, 0x0, .any, false, .whole, 0x0, 1⟩
def FT_STATUS_LAST : Fld := ⟨0x124, 27, 24, .ro, 0x0, .any, false, .whole, 0x0, 1⟩
def FT_STATUS_CORE : Fld := ⟨0x124, 7, 0, .ro, 0x0, .any, false, .whole, 0x0, 1⟩
def FT_COUNT : Fld := ⟨0x128, 31, 0, .ro, 0x0, .any, false, .whole, 0x0, 1⟩
def FT_TRANSIENT : Fld := ⟨0x12C, 31, 0, .ro, 0x0, .any, false, .whole, 0x0, 1⟩
def FT_SKIPPED : Fld := ⟨0x130, 31, 0, .ro, 0x0, .any, false, .whole, 0x0, 1⟩
def REPLAY_COUNT : Fld := ⟨0x134, 31, 0, .ro, 0x0, .any, false, .whole, 0x0, 1⟩
def DISAGREE_COUNT : Fld := ⟨0x138, 31, 0, .ro, 0x0, .any, false, .whole, 0x0, 1⟩
def COUNT_CLEAR_CLEAR : Fld := ⟨0x13C, 0, 0, .wo, 0x0, .any, false, .whole, 0x0, 1⟩
def CORE_RETIRED_VEC : Fld := ⟨0x140, 31, 16, .ro, 0x0, .any, false, .whole, 0x4, 4⟩
def CORE_RETIRED_GRAD : Fld := ⟨0x140, 15, 0, .ro, 0x0, .any, false, .whole, 0x4, 4⟩
def tab0 : List Fld := [MAINT_RUN_CLASSES, BUSY_COUNT, BUSY_LAST_CLASS, BUSY_LAST_HOLDER, REPLAY_ADDR_LO_ADDR, REPLAY_ADDR_HI_ADDR, REPLAY_CMD_START, REPLAY_STATUS_STATE, REPLAY_STATUS_OUTCOME, REPLAY_STATUS_STATUS, FT_WAIT, FT_CMD_OP, FT_CMD_QUAD, FT_CMD_KIND, FT_CMD_CORE, FT_STATUS_STATE, FT_STATUS_LAST, FT_STATUS_CORE, FT_COUNT, FT_TRANSIENT, FT_SKIPPED, REPLAY_COUNT, DISAGREE_COUNT, COUNT_CLEAR_CLEAR, CORE_RETIRED_VEC, CORE_RETIRED_GRAD]
def fields : List Fld := tab0
end MAINT

/-! SEAL registers (R401). -/
namespace SEAL
def OP_ADDR_LO_ADDR : Fld := ⟨0x100, 31, 12, .rwp, 0x0, .any, false, .lo, 0x0, 1⟩
def OP_ADDR_HI_ADDR : Fld := ⟨0x104, 19, 0, .rwp, 0x0, .any, false, .hi, 0x0, 1⟩
def OP_LEN_BLOCKS : Fld := ⟨0x108, 31, 0, .rwp, 0x0, .any, false, .whole, 0x0, 1⟩
def OP_CMD_OP : Fld := ⟨0x10C, 31, 30, .rwp, 0x0, .any, false, .whole, 0x0, 1⟩
def OP_CMD_BUSY : Fld := ⟨0x10C, 0, 0, .ro, 0x0, .any, false, .whole, 0x0, 1⟩
def OP_STATUS_LAST : Fld := ⟨0x110, 31, 28, .ro, 0x0, .any, false, .whole, 0x0, 1⟩
def OP_DONE_BLOCKS : Fld := ⟨0x114, 31, 0, .ro, 0x0, .any, false, .whole, 0x0, 1⟩
def OP_MISMATCH : Fld := ⟨0x118, 31, 0, .ro, 0x0, .any, false, .whole, 0x0, 1⟩
def FIRST_BAD_LO : Fld := ⟨0x11C, 31, 0, .ro, 0x0, .any, false, .lo, 0x0, 1⟩
def FIRST_BAD_HI_ADDR : Fld := ⟨0x120, 19, 0, .ro, 0x0, .any, false, .hi, 0x0, 1⟩
def ENTRY_SEL_LO_ADDR : Fld := ⟨0x124, 31, 12, .rwp, 0x0, .any, false, .lo, 0x0, 1⟩
def ENTRY_SEL_HI_ADDR : Fld := ⟨0x128, 19, 0, .rwp, 0x0, .any, false, .hi, 0x0, 1⟩
def ENTRY_DATA : Fld := ⟨0x12C, 31, 0, .rwp, 0x0, .any, false, .whole, 0x0, 1⟩
def CHECKS_LO : Fld := ⟨0x130, 31, 0, .ro, 0x0, .any, false, .lo, 0x0, 1⟩
def CHECKS_HI : Fld := ⟨0x134, 31, 0, .ro, 0x0, .any, false, .hi, 0x0, 1⟩
def MISMATCHES : Fld := ⟨0x138, 31, 0, .ro, 0x0, .any, false, .whole, 0x0, 1⟩
def MERGES_LO : Fld := ⟨0x13C, 31, 0, .ro, 0x0, .any, false, .lo, 0x0, 1⟩
def MERGES_HI : Fld := ⟨0x140, 31, 0, .ro, 0x0, .any, false, .hi, 0x0, 1⟩
def COUNT_CLEAR_CLEAR : Fld := ⟨0x144, 0, 0, .wo, 0x0, .any, false, .whole, 0x0, 1⟩
def tab0 : List Fld := [OP_ADDR_LO_ADDR, OP_ADDR_HI_ADDR, OP_LEN_BLOCKS, OP_CMD_OP, OP_CMD_BUSY, OP_STATUS_LAST, OP_DONE_BLOCKS, OP_MISMATCH, FIRST_BAD_LO, FIRST_BAD_HI_ADDR, ENTRY_SEL_LO_ADDR, ENTRY_SEL_HI_ADDR, ENTRY_DATA, CHECKS_LO, CHECKS_HI, MISMATCHES, MERGES_LO, MERGES_HI, COUNT_CLEAR_CLEAR]
def fields : List Fld := tab0
end SEAL

/-! CALIB registers (R437). -/
namespace CALIB
def CAL_STATUS_STATE : Fld := ⟨0x100, 31, 28, .ro, 0x0, .any, false, .whole, 0x0, 1⟩
def CAL_STATUS_DIES : Fld := ⟨0x100, 15, 0, .ro, 0x0, .any, false, .whole, 0x0, 1⟩
def CAL_SETS_VERSION : Fld := ⟨0x104, 31, 24, .ro, 0x0, .any, false, .whole, 0x0, 1⟩
def CAL_SETS_T2 : Fld := ⟨0x104, 23, 16, .ro, 0x69, .any, false, .whole, 0x0, 1⟩
def CAL_SETS_T1 : Fld := ⟨0x104, 15, 8, .ro, 0x46, .any, false, .whole, 0x0, 1⟩
def CAL_SETS_T0 : Fld := ⟨0x104, 7, 0, .ro, 0x23, .any, false, .whole, 0x0, 1⟩
def CAL_DIGEST : Fld := ⟨0x108, 31, 0, .ro, 0x0, .any, false, .whole, 0x4, 8⟩
def REF_WINDOW_PPM : Fld := ⟨0x128, 15, 0, .ro, 0x2710, .any, false, .whole, 0x0, 1⟩
def REF_RATIO : Fld := ⟨0x12C, 31, 0, .ro, 0x0, .any, false, .whole, 0x4, 8⟩
def TBL_SEL_SET : Fld := ⟨0x14C, 31, 30, .rwp, 0x0, .enum 2 0, false, .whole, 0x0, 1⟩
def TBL_SEL_LSB : Fld := ⟨0x14C, 29, 28, .rwp, 0x0, .any, false, .whole, 0x0, 1⟩
def TBL_SEL_QUAD : Fld := ⟨0x14C, 27, 26, .rwp, 0x0, .any, false, .whole, 0x0, 1⟩
def TBL_SEL_DIE : Fld := ⟨0x14C, 25, 25, .rwp, 0x0, .any, false, .whole, 0x0, 1⟩
def TBL_SEL_PANEL : Fld := ⟨0x14C, 24, 18, .rwp, 0x0, .range 0 67, false, .whole, 0x0, 1⟩
def TBL_SEL_ARRAY : Fld := ⟨0x14C, 17, 13, .rwp, 0x0, .any, false, .whole, 0x0, 1⟩
def TBL_SEL_CONV : Fld := ⟨0x14C, 6, 0, .rwp, 0x0, .range 0 95, false, .whole, 0x0, 1⟩
def TBL_DATA_G : Fld := ⟨0x150, 31, 16, .ro, 0x0, .any, false, .whole, 0x0, 1⟩
def TBL_DATA_O : Fld := ⟨0x150, 15, 0, .ro, 0x0, .any, false, .whole, 0x0, 1⟩
def SEL_COL_HI : Fld := ⟨0x154, 25, 16, .ro, 0x0, .any, false, .whole, 0x4, 8⟩
def SEL_COL_LO : Fld := ⟨0x154, 9, 0, .ro, 0x0, .any, false, .whole, 0x4, 8⟩
def SEL_CONV : Fld := ⟨0x174, 31, 0, .ro, 0x0, .any, false, .whole, 0x0, 1⟩
def SEL_RCONV_R1 : Fld := ⟨0x178, 15, 8, .ro, 0x0, .any, false, .whole, 0x0, 1⟩
def SEL_RCONV_R0 : Fld := ⟨0x178, 7, 0, .ro, 0x0, .any, false, .whole, 0x0, 1⟩
def tab0 : List Fld := [CAL_STATUS_STATE, CAL_STATUS_DIES, CAL_SETS_VERSION, CAL_SETS_T2, CAL_SETS_T1, CAL_SETS_T0, CAL_DIGEST, REF_WINDOW_PPM, REF_RATIO, TBL_SEL_SET, TBL_SEL_LSB, TBL_SEL_QUAD, TBL_SEL_DIE, TBL_SEL_PANEL, TBL_SEL_ARRAY, TBL_SEL_CONV, TBL_DATA_G, TBL_DATA_O, SEL_COL_HI, SEL_COL_LO, SEL_CONV, SEL_RCONV_R1, SEL_RCONV_R0]
def fields : List Fld := tab0
end CALIB

/-! MONITOR registers (R438). -/
namespace MONITOR
def SEQ_CTL_STOP : Fld := ⟨0x100, 9, 9, .rwp, 0x0, .any, false, .whole, 0x0, 1⟩
def SEQ_CTL_START : Fld := ⟨0x100, 8, 8, .rwp, 0x0, .any, false, .whole, 0x0, 1⟩
def SEQ_CTL_MODE : Fld := ⟨0x100, 0, 0, .rwp, 0x1, .any, false, .whole, 0x0, 1⟩
def SEQ_LEN_LEN : Fld := ⟨0x104, 5, 0, .rwp, 0x14, .range 1 32, false, .whole, 0x0, 1⟩
def SEQ_STATUS_STATE : Fld := ⟨0x108, 31, 28, .ro, 0x0, .any, false, .whole, 0x0, 1⟩
def SEQ_STATUS_ENTRY : Fld := ⟨0x108, 4, 0, .ro, 0x0, .any, false, .whole, 0x0, 1⟩
def URGENT_REQ : Fld := ⟨0x10C, 31, 31, .rwp, 0x0, .any, false, .whole, 0x0, 1⟩
def URGENT_AVG : Fld := ⟨0x10C, 11, 8, .rwp, 0x0, .range 0 8, false, .whole, 0x0, 1⟩
def URGENT_CHANNEL : Fld := ⟨0x10C, 4, 0, .rwp, 0x10, .enum 19 16, false, .whole, 0x0, 1⟩
def URG_STATUS_BUSY : Fld := ⟨0x110, 31, 31, .ro, 0x0, .any, false, .whole, 0x0, 1⟩
def URG_STATUS_QUEUED : Fld := ⟨0x110, 26, 24, .ro, 0x0, .any, false, .whole, 0x0, 1⟩
def URG_STATUS_VALID : Fld := ⟨0x110, 16, 16, .ro, 0x0, .any, false, .whole, 0x0, 1⟩
def URG_STATUS_CODE : Fld := ⟨0x110, 11, 0, .ro, 0x0, .any, false, .whole, 0x0, 1⟩
def PAIR_CTL_CHAN : Fld := ⟨0x114, 18, 17, .rwp, 0x0, .any, false, .whole, 0x0, 1⟩
def PAIR_CTL_AVG : Fld := ⟨0x114, 15, 12, .rwp, 0x4, .range 0 8, false, .whole, 0x0, 1⟩
def PAIR_CTL_WIN : Fld := ⟨0x114, 7, 0, .rwp, 0x6, .range 1 255, false, .whole, 0x0, 1⟩
def PAIR_PERIOD : Fld := ⟨0x118, 31, 0, .rwp, 0x2710, .range 2000 0xFFFFFFFF, false, .whole, 0x0, 1⟩
def PAIR_STATUS_TRUSTED : Fld := ⟨0x11C, 31, 31, .ro, 0x0, .any, false, .whole, 0x0, 1⟩
def PAIR_STATUS_CODE_ODD : Fld := ⟨0x11C, 27, 16, .ro, 0x0, .any, false, .whole, 0x0, 1⟩
def PAIR_STATUS_CODE_EVEN : Fld := ⟨0x11C, 11, 0, .ro, 0x0, .any, false, .whole, 0x0, 1⟩
def MISMATCHES : Fld := ⟨0x120, 31, 0, .ro, 0x0, .any, false, .whole, 0x0, 1⟩
def SWEEPS : Fld := ⟨0x124, 31, 0, .ro, 0x0, .any, false, .whole, 0x0, 1⟩
def PREEMPTS : Fld := ⟨0x128, 31, 0, .ro, 0x0, .any, false, .whole, 0x0, 1⟩
def OVERRUNS : Fld := ⟨0x12C, 31, 0, .ro, 0x0, .any, false, .whole, 0x0, 1⟩
def URG_REFUSED : Fld := ⟨0x130, 31, 0, .ro, 0x0, .any, false, .whole, 0x0, 1⟩
def COUNT_CLEAR_CLEAR : Fld := ⟨0x134, 0, 0, .wo, 0x0, .any, false, .whole, 0x0, 1⟩
def SEQ_ENTRY_AVG : Fld := ⟨0x200, 11, 8, .rwp, 0x4, .range 0 8, false, .whole, 0x4, 32⟩
def SEQ_ENTRY_CHANNEL : Fld := ⟨0x200, 4, 0, .rwp, 0x0, .enum 19 16, false, .whole, 0x4, 32⟩
def RESULT_VALID : Fld := ⟨0x300, 31, 31, .ro, 0x0, .any, false, .whole, 0x4, 20⟩
def RESULT_UNTRUSTED : Fld := ⟨0x300, 30, 30, .ro, 0x0, .any, false, .whole, 0x4, 20⟩
def RESULT_CODE : Fld := ⟨0x300, 27, 16, .ro, 0x0, .any, false, .whole, 0x4, 20⟩
def RESULT_VALUE : Fld := ⟨0x300, 15, 0, .ro, 0x0, .any, false, .whole, 0x4, 20⟩
def RESULT_TEMPO : Fld := ⟨0x350, 31, 0, .ro, 0x0, .any, false, .whole, 0x4, 20⟩
def tab0 : List Fld := [SEQ_CTL_STOP, SEQ_CTL_START, SEQ_CTL_MODE, SEQ_LEN_LEN, SEQ_STATUS_STATE, SEQ_STATUS_ENTRY, URGENT_REQ, URGENT_AVG, URGENT_CHANNEL, URG_STATUS_BUSY, URG_STATUS_QUEUED, URG_STATUS_VALID, URG_STATUS_CODE, PAIR_CTL_CHAN, PAIR_CTL_AVG, PAIR_CTL_WIN, PAIR_PERIOD, PAIR_STATUS_TRUSTED, PAIR_STATUS_CODE_ODD, PAIR_STATUS_CODE_EVEN, MISMATCHES, SWEEPS, PREEMPTS, OVERRUNS, URG_REFUSED, COUNT_CLEAR_CLEAR, SEQ_ENTRY_AVG, SEQ_ENTRY_CHANNEL, RESULT_VALID, RESULT_UNTRUSTED, RESULT_CODE, RESULT_VALUE, RESULT_TEMPO]
def fields : List Fld := tab0
end MONITOR

/-! FIRMWARE registers (R457). -/
namespace FIRMWARE
def FW_SLOT_PENDING : Fld := ⟨0x100, 9, 8, .ro, 0x0, .any, false, .whole, 0x0, 1⟩
def FW_SLOT_TRIAL : Fld := ⟨0x100, 4, 4, .ro, 0x0, .any, false, .whole, 0x0, 1⟩
def FW_SLOT_ACTIVE : Fld := ⟨0x100, 1, 1, .ro, 0x0, .any, false, .whole, 0x0, 1⟩
def FW_SLOT_RUNNING : Fld := ⟨0x100, 0, 0, .ro, 0x0, .any, false, .whole, 0x0, 1⟩
def SLOT0_VERSION : Fld := ⟨0x104, 31, 0, .ro, 0x0, .any, false, .whole, 0x0, 1⟩
def SLOT1_VERSION : Fld := ⟨0x108, 31, 0, .ro, 0x0, .any, false, .whole, 0x0, 1⟩
def SLOT_STATE_S1 : Fld := ⟨0x10C, 7, 4, .ro, 0x0, .any, false, .whole, 0x0, 1⟩
def SLOT_STATE_S0 : Fld := ⟨0x10C, 3, 0, .ro, 0x0, .any, false, .whole, 0x0, 1⟩
def STAGE_ADDR_LO_ADDR : Fld := ⟨0x110, 31, 12, .rwp, 0x0, .any, false, .lo, 0x0, 1⟩
def STAGE_ADDR_HI_ADDR : Fld := ⟨0x114, 31, 0, .rwp, 0x0, .any, false, .hi, 0x0, 1⟩
def STAGE_LEN : Fld := ⟨0x118, 31, 0, .rwp, 0x0, .any, false, .whole, 0x0, 1⟩
def FW_CMD_OP : Fld := ⟨0x11C, 2, 0, .wo, 0x0, .any, false, .whole, 0x0, 1⟩
def FW_STATUS_STATE : Fld := ⟨0x120, 31, 28, .ro, 0x0, .any, false, .whole, 0x0, 1⟩
def FW_STATUS_LAST : Fld := ⟨0x120, 15, 8, .ro, 0x0, .any, false, .whole, 0x0, 1⟩
def FW_STATUS_REASON : Fld := ⟨0x120, 7, 0, .ro, 0x0, .any, false, .whole, 0x0, 1⟩
def TRIAL_MAX : Fld := ⟨0x124, 31, 0, .rwp, 0x258, .range 60 86400, false, .whole, 0x0, 1⟩
def TRIAL_LEFT : Fld := ⟨0x128, 31, 0, .ro, 0x0, .any, false, .whole, 0x0, 1⟩
def SET_FMT_RUNNING : Fld := ⟨0x12C, 31, 16, .ro, 0x0, .any, false, .whole, 0x0, 1⟩
def SET_FMT_OTHER : Fld := ⟨0x12C, 15, 0, .ro, 0x0, .any, false, .whole, 0x0, 1⟩
def BOOT_COUNT : Fld := ⟨0x130, 31, 0, .ro, 0x0, .any, false, .whole, 0x0, 1⟩
def FALLBACKS : Fld := ⟨0x134, 31, 0, .ro, 0x0, .any, false, .whole, 0x0, 1⟩
def REFUSED : Fld := ⟨0x138, 31, 0, .ro, 0x0, .any, false, .whole, 0x0, 1⟩
def tab0 : List Fld := [FW_SLOT_PENDING, FW_SLOT_TRIAL, FW_SLOT_ACTIVE, FW_SLOT_RUNNING, SLOT0_VERSION, SLOT1_VERSION, SLOT_STATE_S1, SLOT_STATE_S0, STAGE_ADDR_LO_ADDR, STAGE_ADDR_HI_ADDR, STAGE_LEN, FW_CMD_OP, FW_STATUS_STATE, FW_STATUS_LAST, FW_STATUS_REASON, TRIAL_MAX, TRIAL_LEFT, SET_FMT_RUNNING, SET_FMT_OTHER, BOOT_COUNT, FALLBACKS, REFUSED]
def fields : List Fld := tab0
end FIRMWARE

/-! SECURITY registers (R458). -/
namespace SECURITY
def SEC_STATUS_STATE : Fld := ⟨0x100, 31, 28, .ro, 0x0, .any, false, .whole, 0x0, 1⟩
def SEC_STATUS_ARB : Fld := ⟨0x100, 15, 8, .ro, 0x0, .any, false, .whole, 0x0, 1⟩
def SEC_STATUS_REVOKED : Fld := ⟨0x100, 3, 0, .ro, 0x0, .any, false, .whole, 0x0, 1⟩
def CERT_LEN : Fld := ⟨0x104, 31, 0, .ro, 0x0, .any, false, .whole, 0x0, 1⟩
def CERT_SEL : Fld := ⟨0x108, 31, 0, .rw, 0x0, .mul4, false, .whole, 0x0, 1⟩
def CERT_DATA : Fld := ⟨0x10C, 31, 0, .ro, 0x0, .any, false, .whole, 0x0, 1⟩
def NONCE : Fld := ⟨0x110, 31, 0, .rwp, 0x0, .any, false, .whole, 0x4, 8⟩
def ATT_CMD_BUSY : Fld := ⟨0x130, 1, 1, .ro, 0x0, .any, false, .whole, 0x0, 1⟩
def ATT_CMD_START : Fld := ⟨0x130, 0, 0, .wo, 0x0, .any, false, .whole, 0x0, 1⟩
def ATT_ADDR_LO_ADDR : Fld := ⟨0x134, 31, 6, .rwp, 0x0, .any, false, .lo, 0x0, 1⟩
def ATT_ADDR_HI_ADDR : Fld := ⟨0x138, 31, 0, .rwp, 0x0, .any, false, .hi, 0x0, 1⟩
def RPT_SEL : Fld := ⟨0x13C, 31, 0, .rw, 0x0, .mul4, false, .whole, 0x0, 1⟩
def RPT_DATA : Fld := ⟨0x140, 31, 0, .ro, 0x0, .any, false, .whole, 0x0, 1⟩
def SIGN_COUNT : Fld := ⟨0x144, 31, 0, .ro, 0x0, .any, false, .whole, 0x0, 1⟩
def tab0 : List Fld := [SEC_STATUS_STATE, SEC_STATUS_ARB, SEC_STATUS_REVOKED, CERT_LEN, CERT_SEL, CERT_DATA, NONCE, ATT_CMD_BUSY, ATT_CMD_START, ATT_ADDR_LO_ADDR, ATT_ADDR_HI_ADDR, RPT_SEL, RPT_DATA, SIGN_COUNT]
def fields : List Fld := tab0
end SECURITY

/-! RECORD registers (R459). -/
namespace RECORD
def REC_FIRST_LO : Fld := ⟨0x100, 31, 0, .ro, 0x0, .any, false, .lo, 0x0, 1⟩
def REC_FIRST_HI : Fld := ⟨0x104, 31, 0, .ro, 0x0, .any, false, .hi, 0x0, 1⟩
def REC_LAST_LO : Fld := ⟨0x108, 31, 0, .ro, 0x0, .any, false, .lo, 0x0, 1⟩
def REC_LAST_HI : Fld := ⟨0x10C, 31, 0, .ro, 0x0, .any, false, .hi, 0x0, 1⟩
def REC_SEL_LO : Fld := ⟨0x110, 31, 0, .rw, 0x0, .any, false, .lo, 0x0, 1⟩
def REC_SEL_HI : Fld := ⟨0x114, 31, 0, .rw, 0x0, .any, false, .hi, 0x0, 1⟩
def REC_SEL_STATUS_CRC_OK : Fld := ⟨0x118, 1, 1, .ro, 0x0, .any, false, .whole, 0x0, 1⟩
def REC_SEL_STATUS_FOUND : Fld := ⟨0x118, 0, 0, .ro, 0x0, .any, false, .whole, 0x0, 1⟩
def REC_DATA : Fld := ⟨0x120, 31, 0, .ro, 0x0, .any, false, .whole, 0x4, 16⟩
def DUMP_ADDR_LO : Fld := ⟨0x160, 31, 6, .rwp, 0x0, .any, false, .lo, 0x0, 1⟩
def DUMP_ADDR_HI : Fld := ⟨0x164, 31, 0, .rwp, 0x0, .any, false, .hi, 0x0, 1⟩
def DUMP_FIRST_LO : Fld := ⟨0x168, 31, 0, .rwp, 0x0, .any, false, .lo, 0x0, 1⟩
def DUMP_FIRST_HI : Fld := ⟨0x16C, 31, 0, .rwp, 0x0, .any, false, .hi, 0x0, 1⟩
def DUMP_COUNT : Fld := ⟨0x170, 31, 0, .rwp, 0x0, .range 0 1048576, false, .whole, 0x0, 1⟩
def DUMP_CMD_LAST : Fld := ⟨0x174, 31, 28, .ro, 0x0, .any, false, .whole, 0x0, 1⟩
def DUMP_CMD_BUSY : Fld := ⟨0x174, 1, 1, .ro, 0x0, .any, false, .whole, 0x0, 1⟩
def DUMP_CMD_START : Fld := ⟨0x174, 0, 0, .wo, 0x0, .any, false, .whole, 0x0, 1⟩
def REC_FREE_BLOCKS : Fld := ⟨0x178, 10, 0, .ro, 0x0, .any, false, .whole, 0x0, 1⟩
def REC_QUEUE_PEAK : Fld := ⟨0x17C, 31, 16, .ro, 0x0, .any, false, .whole, 0x0, 1⟩
def REC_QUEUE_WAITING : Fld := ⟨0x17C, 15, 0, .ro, 0x0, .any, false, .whole, 0x0, 1⟩
def REC_DROPPED : Fld := ⟨0x180, 31, 0, .ro, 0x0, .any, false, .whole, 0x0, 1⟩
def TORN : Fld := ⟨0x184, 31, 0, .ro, 0x0, .any, false, .whole, 0x0, 1⟩
def LAST_STOP_CLEAN : Fld := ⟨0x188, 0, 0, .ro, 0x0, .any, false, .whole, 0x0, 1⟩
def COMPACTIONS : Fld := ⟨0x18C, 31, 0, .ro, 0x0, .any, false, .whole, 0x0, 1⟩
def tab0 : List Fld := [REC_FIRST_LO, REC_FIRST_HI, REC_LAST_LO, REC_LAST_HI, REC_SEL_LO, REC_SEL_HI, REC_SEL_STATUS_CRC_OK, REC_SEL_STATUS_FOUND, REC_DATA, DUMP_ADDR_LO, DUMP_ADDR_HI, DUMP_FIRST_LO, DUMP_FIRST_HI, DUMP_COUNT, DUMP_CMD_LAST, DUMP_CMD_BUSY, DUMP_CMD_START, REC_FREE_BLOCKS, REC_QUEUE_PEAK, REC_QUEUE_WAITING, REC_DROPPED, TORN, LAST_STOP_CLEAN, COMPACTIONS]
def fields : List Fld := tab0
end RECORD

/-! POWER registers (R473). -/
namespace POWER
def INPUT_MV : Fld := ⟨0x100, 15, 0, .ro, 0x0, .any, false, .whole, 0x0, 1⟩
def INPUT_CUR : Fld := ⟨0x104, 15, 0, .ro, 0x0, .any, false, .whole, 0x0, 1⟩
def INPUT_W_PEAK : Fld := ⟨0x108, 31, 16, .ro, 0x0, .any, false, .whole, 0x0, 1⟩
def INPUT_W_AVG : Fld := ⟨0x108, 15, 0, .ro, 0x0, .any, false, .whole, 0x0, 1⟩
def CAP_W : Fld := ⟨0x10C, 15, 0, .rwp, 0xAF0, .range 1000 2800, false, .whole, 0x0, 1⟩
def CAP_STATUS_LIMITING : Fld := ⟨0x110, 0, 0, .ro, 0x0, .any, false, .whole, 0x0, 1⟩
def ALERT_LOW_MV : Fld := ⟨0x114, 31, 0, .rw, 0xA410, .range 40000 60000, false, .whole, 0x0, 1⟩
def ALERT_HIGH_MV : Fld := ⟨0x118, 31, 0, .rw, 0xE290, .range 40000 60000, false, .whole, 0x0, 1⟩
def ALERT_W : Fld := ⟨0x11C, 31, 0, .rw, 0xAF0, .range 1000 3100, false, .whole, 0x0, 1⟩
def ALERT_MASK : Fld := ⟨0x120, 5, 0, .rw, 0xF, .any, false, .whole, 0x0, 1⟩
def STOP_CTL_START : Fld := ⟨0x124, 0, 0, .wo, 0x0, .any, false, .whole, 0x0, 1⟩
def STOP_STATUS_DONE : Fld := ⟨0x128, 0, 0, .ro, 0x0, .any, false, .whole, 0x0, 1⟩
def RESET_CTL_MODULE : Fld := ⟨0x12C, 1, 1, .wo, 0x0, .any, false, .whole, 0x0, 1⟩
def RESET_CTL_ENGINES : Fld := ⟨0x12C, 0, 0, .wo, 0x0, .any, false, .whole, 0x0, 1⟩
def RESET_CAUSE_CAUSE : Fld := ⟨0x130, 3, 0, .ro, 0x0, .any, false, .whole, 0x0, 1⟩
def ENERGY_LO : Fld := ⟨0x134, 31, 0, .ro, 0x0, .any, false, .lo, 0x0, 1⟩
def ENERGY_HI : Fld := ⟨0x138, 31, 0, .ro, 0x0, .any, false, .hi, 0x0, 1⟩
def LIMIT_MS : Fld := ⟨0x13C, 31, 0, .ro, 0x0, .any, false, .whole, 0x0, 1⟩
def COUNT_CLEAR_CLEAR : Fld := ⟨0x140, 0, 0, .wo, 0x0, .any, false, .whole, 0x0, 1⟩
def tab0 : List Fld := [INPUT_MV, INPUT_CUR, INPUT_W_PEAK, INPUT_W_AVG, CAP_W, CAP_STATUS_LIMITING, ALERT_LOW_MV, ALERT_HIGH_MV, ALERT_W, ALERT_MASK, STOP_CTL_START, STOP_STATUS_DONE, RESET_CTL_MODULE, RESET_CTL_ENGINES, RESET_CAUSE_CAUSE, ENERGY_LO, ENERGY_HI, LIMIT_MS, COUNT_CLEAR_CLEAR]
def fields : List Fld := tab0
end POWER

/-! CLOCK registers (R474). -/
namespace CLOCK
def PLL_LOCK_MEM : Fld := ⟨0x100, 24, 17, .ro, 0x0, .any, false, .whole, 0x0, 1⟩
def PLL_LOCK_GRAD : Fld := ⟨0x100, 16, 13, .ro, 0x0, .any, false, .whole, 0x0, 1⟩
def PLL_LOCK_ARRAY : Fld := ⟨0x100, 12, 5, .ro, 0x0, .any, false, .whole, 0x0, 1⟩
def PLL_LOCK_TEMPO : Fld := ⟨0x100, 4, 4, .ro, 0x0, .any, false, .whole, 0x0, 1⟩
def PLL_LOCK_SEAM : Fld := ⟨0x100, 3, 3, .ro, 0x0, .any, false, .whole, 0x0, 1⟩
def PLL_LOCK_CXL : Fld := ⟨0x100, 2, 2, .ro, 0x0, .any, false, .whole, 0x0, 1⟩
def PLL_LOCK_IO_CORE : Fld := ⟨0x100, 1, 1, .ro, 0x0, .any, false, .whole, 0x0, 1⟩
def PLL_LOCK_REFCLK : Fld := ⟨0x100, 0, 0, .ro, 0x0, .any, false, .whole, 0x0, 1⟩
def LOCK_LOSSES : Fld := ⟨0x104, 31, 0, .ro, 0x0, .any, false, .whole, 0x0, 1⟩
def REFCLK_PPM : Fld := ⟨0x108, 15, 0, .ro, 0x0, .any, false, .whole, 0x0, 1⟩
def tab0 : List Fld := [PLL_LOCK_MEM, PLL_LOCK_GRAD, PLL_LOCK_ARRAY, PLL_LOCK_TEMPO, PLL_LOCK_SEAM, PLL_LOCK_CXL, PLL_LOCK_IO_CORE, PLL_LOCK_REFCLK, LOCK_LOSSES, REFCLK_PPM]
def fields : List Fld := tab0
end CLOCK


end R

end Sys2Proof.Machine
end

