-- ==== Sys2Proof/Machine/RegMap.lean ====
section
/-! DEFINITION. The page map (R40 to R46): which page a BAR0 offset belongs to, its identity, the causes of its class, and the
reset value of every register. A page is named by the offset of its first register. -/

namespace Sys2Proof.Machine

/-- The block classes of Table 2-6. -/
inductive Cls where
  | device | power | clock | tempo | maint | introute | security | firmware | record | monitor | calib
  | graphSched | graphQueue | buttons
  | arrayDie | panel
  | gradDie | gradCore | vecCore | update | numwatch
  | memDie | stackCtl | tierbCtl | dma | gather | seal
  | seamPort | collective | seamMgmt
  | host
deriving DecidableEq, Repr

/-- The class code of Table 2-6. -/
def Cls.code (c : Cls) : Nat :=
  match c with
  | .device => 0x01
  | .power => 0x02
  | .clock => 0x03
  | .tempo => 0x04
  | .maint => 0x05
  | .introute => 0x06
  | .security => 0x07
  | .firmware => 0x08
  | .record => 0x09
  | .monitor => 0x0A
  | .calib => 0x0B
  | .graphSched => 0x10
  | .graphQueue => 0x11
  | .buttons => 0x12
  | .arrayDie => 0x20
  | .panel => 0x21
  | .gradDie => 0x30
  | .gradCore => 0x31
  | .vecCore => 0x32
  | .update => 0x33
  | .numwatch => 0x34
  | .memDie => 0x40
  | .stackCtl => 0x41
  | .tierbCtl => 0x42
  | .dma => 0x43
  | .gather => 0x44
  | .seal => 0x45
  | .seamPort => 0x50
  | .collective => 0x51
  | .seamMgmt => 0x52
  | .host => 0x60

/-- A page: class, quadrant and die as `PAGE_ID` gives them (0xF for the I/O die), and instance (Table 2-5). -/
structure PageRef where
  cls  : Cls
  quad : Nat
  die  : Nat
  inst : Nat
deriving DecidableEq, Repr

/-- The page at a page number of a quadrant: `o` counts pages from the quadrant's base (Table 2-7). -/
def quadPage (q o : Nat) : Option PageRef :=
  let d := o / 0x80
  let k := o % 0x80
  match d with
  | 0 | 1 =>
    if k == 0 then some ⟨.arrayDie, q, d, 0⟩ else if k ≤ 68 then some ⟨.panel, q, d, k - 1⟩ else none
  | 2 =>
    if k == 0 then some ⟨.gradDie, q, 2, 0⟩
    else if k ≤ 16 then some ⟨.gradCore, q, 2, k - 1⟩
    else if k ≤ 32 then some ⟨.vecCore, q, 2, k - 17⟩
    else if k ≤ 34 then some ⟨.update, q, 2, k - 33⟩
    else if k == 35 then some ⟨.numwatch, q, 2, 0⟩ else none
  | 3 | 4 =>
    if k == 0 then some ⟨.memDie, q, d, 0⟩
    else if k ≤ 4 then some ⟨.stackCtl, q, d, k - 1⟩
    else if k ≤ 8 then some ⟨.tierbCtl, q, d, k - 5⟩
    else if k ≤ 12 then some ⟨.dma, q, d, k - 9⟩
    else if k == 13 then some ⟨.gather, q, d, 0⟩
    else if k == 14 then some ⟨.seal, q, d, 0⟩ else none
  | _ => none

/-- The page at a page number of BAR0 or BAR2 (Table 2-7). -/
def pageNo (n : Nat) : Option PageRef :=
  if 0x400 ≤ n && n < 0x1400 then quadPage ((n - 0x400) / 0x400) ((n - 0x400) % 0x400)
  else
    match n with
    | 0x0 => some ⟨.device, 0xF, 0xF, 0⟩
    | 0x1 => some ⟨.power, 0xF, 0xF, 0⟩
    | 0x2 => some ⟨.clock, 0xF, 0xF, 0⟩
    | 0x3 => some ⟨.tempo, 0xF, 0xF, 0⟩
    | 0x4 => some ⟨.maint, 0xF, 0xF, 0⟩
    | 0x5 => some ⟨.security, 0xF, 0xF, 0⟩
    | 0x6 => some ⟨.firmware, 0xF, 0xF, 0⟩
    | 0x7 => some ⟨.record, 0xF, 0xF, 0⟩
    | 0xC => some ⟨.calib, 0xF, 0xF, 0⟩
    | 0x100 => some ⟨.graphSched, 0xF, 0xF, 0⟩
    | 0x1410 => some ⟨.collective, 0xF, 0xF, 0⟩
    | 0x1411 => some ⟨.seamMgmt, 0xF, 0xF, 0⟩
    | 0x1500 => some ⟨.host, 0xF, 0xF, 0⟩
    | n =>
      if 0x8 ≤ n && n < 0xC then some ⟨.monitor, 0xF, 0xF, n - 8⟩
      else if 0x10 ≤ n && n < 0x18 then some ⟨.introute, 0xF, 0xF, n - 0x10⟩
      else if 0x101 ≤ n && n < 0x141 then some ⟨.graphQueue, 0xF, 0xF, n - 0x101⟩
      else if 0x200 ≤ n && n < 0x220 then some ⟨.buttons, 0xF, 0xF, n - 0x200⟩
      else if 0x1400 ≤ n && n < 0x1410 then some ⟨.seamPort, 0xF, 0xF, n - 0x1400⟩ else none

/-- The page that holds a BAR offset. -/
def pageAt (off : Nat) : Option PageRef := pageNo (off / 0x1000)

/-- `PAGE_ID` (Table 2-5). -/
def PageRef.id (p : PageRef) : Nat := p.cls.code * 2 ^ 24 + p.quad * 2 ^ 20 + p.die * 2 ^ 16 + p.inst

/-! Page bases (Table 2-7). -/

/-- Base of quadrant `q`. -/
def quadBase (q : Nat) : Nat := 0x400000 + 0x400000 * q
def pgDevice : Nat := 0
def pgPower : Nat := 0x1000
def pgClock : Nat := 0x2000
def pgTempo : Nat := 0x3000
def pgMaint : Nat := 0x4000
def pgSecurity : Nat := 0x5000
def pgFirmware : Nat := 0x6000
def pgRecord : Nat := 0x7000
def pgMonitor (n : Nat) : Nat := 0x8000 + 0x1000 * n
def pgCalib : Nat := 0xC000
def pgIntroute (n : Nat) : Nat := 0x10000 + 0x1000 * n
def pgSched : Nat := 0x100000
def pgQueue (q : Nat) : Nat := 0x101000 + 0x1000 * q
/-- Offset of button `b`'s `VALUE`; its `BASE` is four bytes on (R276). -/
def offButton (b : Nat) : Nat := 0x200000 + b * 8
/-- Array die `2q + d`. -/
def pgArrayDie (n : Nat) : Nat := 0x80000 * (n % 2) + quadBase (n / 2)
def pgPanel (n p : Nat) : Nat := pgArrayDie n + 0x1000 * (1 + p)
def pgGradDie (q : Nat) : Nat := 0x100000 + quadBase q
def pgGradCore (q c : Nat) : Nat := pgGradDie q + 0x1000 * (1 + c)
def pgVecCore (q v : Nat) : Nat := pgGradDie q + 0x1000 * (17 + v)
/-- Update engine `2q + u`. -/
def pgUpdate (e : Nat) : Nat := pgGradDie (e / 2) + 0x1000 * (33 + e % 2)
def pgWatch (q : Nat) : Nat := 0x1000 * 35 + pgGradDie q
/-- Memory-side die `2q + d`. -/
def pgMemDie (n : Nat) : Nat := 0x180000 + 0x80000 * (n % 2) + quadBase (n / 2)
def pgStack (n s : Nat) : Nat := pgMemDie n + 0x1000 * (1 + s)
def pgTierB (n t : Nat) : Nat := pgMemDie n + 0x1000 * (5 + t)
/-- The DMA page of channel `c` of memory-side die `n`. -/
def pgDma (n c : Nat) : Nat := pgMemDie n + 0x1000 * (9 + c / 8)
def pgGather (n : Nat) : Nat := 0x1000 * 13 + pgMemDie n
def pgSeal (n : Nat) : Nat := 0x1000 * 14 + pgMemDie n
def pgPort (n : Nat) : Nat := 0x1400000 + 0x1000 * n
def pgColl : Nat := 0x1410000
def pgSeam : Nat := 0x1411000
def pgHost : Nat := 0x1500000

/-- The module's pages with a header, in ascending order of offset (Table 2-7). -/
def headerPages : List Nat :=
  ((List.range 0x1501).filter fun n => match pageNo n with | some p => p.cls != .buttons | none => false).map (· * 0x1000)

/-- The block-specific fields of a class. -/
def Cls.fields (c : Cls) : List Fld :=
  match c with
  | .device => R.DEVICE.fields
  | .power => R.POWER.fields
  | .clock => R.CLOCK.fields
  | .tempo => R.TEMPO.fields
  | .maint => R.MAINT.fields
  | .introute => []
  | .security => R.SECURITY.fields
  | .firmware => R.FIRMWARE.fields
  | .record => R.RECORD.fields
  | .monitor => R.MONITOR.fields
  | .calib => R.CALIB.fields
  | .graphSched => R.GRAPH_SCHED.fields
  | .graphQueue => R.GRAPH_QUEUE.fields
  | .buttons => []
  | .arrayDie => R.ARRAY_DIE.fields
  | .panel => R.PANEL.fields
  | .gradDie => R.GRAD_DIE.fields
  | .gradCore => R.GRAD_CORE.fields
  | .vecCore => R.VEC_CORE.fields
  | .update => R.UPDATE.fields
  | .numwatch => R.NUMWATCH.fields
  | .memDie => R.MEM_DIE.fields
  | .stackCtl => R.CTL.fields
  | .tierbCtl => R.CTL.fields
  | .dma => R.DMA.fields
  | .gather => R.GATHER.fields
  | .seal => R.SEAL.fields
  | .seamPort => R.SEAM_PORT.fields
  | .collective => R.COLLECTIVE.fields
  | .seamMgmt => R.SEAM_MGMT.fields
  | .host => R.HOST.fields

/-- `PAGE_CAP` of a class, as its chapter gives it; 0 where no chapter gives capabilities. -/
def Cls.cap (c : Cls) : Nat :=
  match c with
  | .panel => 0xFF
  | .arrayDie => 0x444
  | .gradDie => 0x10
  | .gradCore => 0x1F
  | .vecCore => 0x2020
  | .update => 0x20
  | .numwatch => 0x80400
  | .graphSched => 0x400200
  | .graphQueue => 0x16
  | .memDie => 0x20000404
  | .stackCtl => 1
  | .tierbCtl => 3
  | .dma => 8
  | .gather => 3
  | .tempo => 0x10100
  | .seamPort => 0x304
  | .collective => 0x10001000
  | .seamMgmt => 0x10
  | .maint => 9
  | .seal => 0xF
  | .calib => 0x803
  | .monitor => 0x20140C
  | .firmware => 2
  | .security => 7
  | .record => 0x400
  | .power => 0xAF0
  | .clock => 0x15
  | .device => 0
  | .introute => 0
  | .buttons => 0
  | .host => 0

/-- The `INT_STATUS` bits for which a class defines a cause (R51). -/
def Cls.causes (c : Cls) : Nat :=
  match c with
  | .device => 0x7
  | .power => 0x3F
  | .clock => 0x3
  | .tempo => 0x3F
  | .maint => 0xF
  | .introute => 0
  | .security => 0x1
  | .firmware => 0x1F
  | .record => 0x7
  | .monitor => 0x1F
  | .calib => 0x3
  | .graphSched => 0x1F
  | .graphQueue => 0xF
  | .buttons => 0
  | .arrayDie => 0x1F
  | .panel => 0xFF
  | .gradDie => 0x7
  | .gradCore => 0x7
  | .vecCore => 0x7
  | .update => 0x3F
  | .numwatch => 0x3F
  | .memDie => 0x1
  | .stackCtl => 0x3
  | .tierbCtl => 0x3
  | .dma => 0xFFFFFF
  | .gather => 0x7
  | .seal => 0x3
  | .seamPort => 0x7
  | .collective => 0xF
  | .seamMgmt => 0x7
  | .host => 0x7

/-- The classes whose blocks are crossing points that apply register writes between tasks (R13, R192): panels, gradient dies, cores,
update engines and gather units. The channel registers of a DMA page take effect at once (R14). -/
def Cls.crossing (c : Cls) : Bool :=
  c == .panel || c == .gradDie || c == .gradCore || c == .vecCore || c == .update || c == .gather

/-! Header offsets (Table 2-4). -/

def oPAGE_ID : Nat := 0x000
def oPAGE_LEVEL : Nat := 0x004
def oPAGE_CAP : Nat := 0x008
def oPAGE_CTL : Nat := 0x00C
def oPAGE_STATUS : Nat := 0x010
def oINT_STATUS : Nat := 0x014
def oINT_ENABLE : Nat := 0x018
def oINT_SET : Nat := 0x01C
def oINT_VECTOR : Nat := 0x020
def oERR_COUNT : Nat := 0x024
def oERR_LAST : Nat := 0x028

/-! Bits of words. -/

/-- The bits `[hi:lo]` of a word. -/
def getBits (w : Word) (hi lo : Nat) : Nat := w.toNat / 2 ^ lo % 2 ^ (hi + 1 - lo)

/-- A word with its bits `[hi:lo]` replaced by the low bits of `v`. -/
def setBits (w : Word) (hi lo v : Nat) : Word :=
  BitVec.ofNat 32 (2 ^ (hi + 1) * (w.toNat / 2 ^ (hi + 1)) + (2 ^ lo * (v % 2 ^ (hi + 1 - lo)) + w.toNat % 2 ^ lo))

/-- Whether a field lies in the register at page offset `o`, and which of its repeats it is. -/
def Fld.at? (f : Fld) (o : Nat) : Option Nat :=
  if o < f.off then none
  else if f.stride == 0 then (if o == f.off then some 0 else none)
  else if (o - f.off) % f.stride == 0 && (o - f.off) / f.stride < f.count then some ((o - f.off) / f.stride) else none

/-- The fields of the register at page offset `o` of a class. -/
def Cls.fieldsAt (c : Cls) (o : Nat) : List Fld := c.fields.filter fun f => (f.at? o).isSome

/-- The word that the Reset column gives for the register at page offset `o`. -/
def Cls.tableReset (c : Cls) (o : Nat) : Nat := ((c.fieldsAt o).map fun f => f.rst * 2 ^ f.lo).sum

/-- Reset values that the tables leave to the factory, to the unit or to the image (DESIGN CHOICE, logs 9, 15, 16, 22, 24), or
that they give in words. -/
def unitReset (p : PageRef) (o : Nat) : Option Nat :=
  match p.cls with
  | .device => if o == 0x110 then some 1 else if o == 0x118 then some 1 else none
  | .panel => if o == 0x100 then some (if p.inst < 64 then p.inst * 0x10000 + p.inst else 0x1FF0000 + p.inst) else none
  | .arrayDie =>
    if o == R.ARRAY_DIE.DIE_INFO_SERVED.off then some (4 * 2 ^ R.ARRAY_DIE.DIE_INFO_SPARES_FREE.lo + 64)
    else match R.ARRAY_DIE.ALIAS_MAP.at? o with
      | some i => some (4 * i + (4 * i + 1) * 2 ^ 8 + (4 * i + 2) * 2 ^ 16 + (4 * i + 3) * 2 ^ 24)
      | none => none
  | .tierbCtl =>
    if o == R.CTL.CTL_INFO_TAGS.off then some (0x200 * 2 ^ R.CTL.CTL_INFO_TAGS.lo + 0x100)
    else if o == R.CTL.CAPACITY.off then some 256 else none
  | .monitor =>
    match R.MONITOR.SEQ_ENTRY_CHANNEL.at? o with
    | some i => some (4 * 2 ^ R.MONITOR.SEQ_ENTRY_AVG.lo + (if i < 20 then i else 16) * 2 ^ R.MONITOR.SEQ_ENTRY_CHANNEL.lo)
    | none => none
  | .calib => if o == R.CALIB.CAL_SETS_VERSION.off then some (p.cls.tableReset o + 2 ^ R.CALIB.CAL_SETS_VERSION.lo) else none
  | .firmware =>
    if o == R.FIRMWARE.SLOT0_VERSION.off then some 1
    else if o == R.FIRMWARE.SLOT_STATE_S0.off then some (2 ^ R.FIRMWARE.SLOT_STATE_S0.lo)
    else if o == R.FIRMWARE.SET_FMT_RUNNING.off then some (2 ^ R.FIRMWARE.SET_FMT_RUNNING.lo) else none
  | .security => if o == R.SECURITY.CERT_LEN.off then some 4096 else none
  | .record =>
    if o == R.RECORD.REC_FIRST_LO.off then some 1
    else if o == R.RECORD.REC_LAST_LO.off then some 1
    else if o == R.RECORD.REC_FREE_BLOCKS.off then some (1023 * 2 ^ R.RECORD.REC_FREE_BLOCKS.lo) else none
  | _ => none

/-- The reset value of the register at a BAR0 offset (R41, and the table of each page). -/
def resetWord (off : Nat) : Word :=
  match pageAt off with
  | none => 0
  | some p =>
    let o := off % 0x1000
    if p.cls == .buttons then 0
    else if o < 0x100 then
      BitVec.ofNat 32 (if o == oPAGE_ID then p.id else if o == oPAGE_LEVEL then 0x00010101 else if o == oPAGE_CAP then p.cls.cap else 0)
    else match unitReset p o with
      | some n => BitVec.ofNat 32 n
      | none => BitVec.ofNat 32 (p.cls.tableReset o)

/-- Whether a BAR offset is occupied by a page (R37, R44). -/
def occupied (off : Nat) : Bool := (pageAt off).isSome

/-! Legal values (R45). -/

/-- A binary32 learning rate clamped to 0 to 1.0; NaN takes 0 (Table 9-9). -/
def clampEta (v : Nat) : Nat :=
  let mag := v % 2 ^ 31
  if 0x7F800000 < mag then 0
  else if 2 ^ 31 ≤ v then (if mag == 0 then v else 0)
  else if 0x3F800000 < v then 0x3F800000 else v

/-- The value that a field takes for a written value. -/
def Legal.clamp (l : Legal) (v : Nat) : Nat :=
  match l with
  | .any => v
  | .range lo hi => if v < lo then lo else if hi < v then hi else v
  | .zeroOr lo hi => if v == 0 then 0 else if v < lo then (if lo ≤ 2 * v then lo else 0) else if hi < v then hi else v
  | .enum max dflt => if v ≤ max then v else dflt
  | .eta => clampEta v
  | .mul4 => if v % 4 == 0 then v else if v % 4 == 1 then v - 1 else if v + 4 - v % 4 < 2 ^ 32 then v + 4 - v % 4 else v - v % 4

end Sys2Proof.Machine
end

