-- ==== Sys2Proof/Machine/State.lean ====
section
/-! DEFINITION. The state of the NKA-2100 as plain data, and the machine right after reset.

Registers: one list of (BAR0 offset, word) in canonical form holds every register of every page (Table 2-7), BUTTONS pages
included; a register that the list does not name holds its reset value (Machine/RegMap.lean). Memory: one canonical list of
bytes over the 52-bit device address space of Table 12-1, host window included (R25, R303). Everything else the manual gives
the machine is a field of its own. -/

namespace Sys2Proof.Machine

/-- Why the machine stops with a fault. -/
inductive Fault where
  /-- Raised by a command of an engine on a die whose PLL has lost lock: the manual defines no further behaviour of such a die
  (R466). Safe: the model stops where the hardware may do anything. -/
  | dieUnclocked (bit : Nat)
deriving DecidableEq, Repr

/-- Why a command has no meaning here. -/
inductive Refusal where
  /-- Raised by an arm of `exec` that has no meaning yet. Safe. -/
  | notModelled (mnemonic : String)
  /-- Raised by `SPDM_REQUEST` for a message whose answer only the SPDM and CXL standards give, not the manual (R21, R23).
  Safe. -/
  | spdmOutsideManual (code : Nat)
deriving DecidableEq, Repr

/-- What the last command that answers something answered. -/
inductive Reply where
  | none
  | word (w : Word)
  | bytes (b : List Byte)
  | poison
  | retryStatus
  | configDone (w : Word)
  | notAcknowledged
  | spdmDone
  | secured (b : List Byte)
deriving DecidableEq, Repr

/-- One posted register write (R13): it waits until the running task of its crossing point completes. -/
structure Posted where
  view : View
  off  : Nat
  val  : Word
deriving DecidableEq, Repr

/-- One event-record entry (Table 18-6), its CRC computed when it is read. -/
structure Entry where
  seq    : Nat
  tempo  : Nat
  code   : Nat
  source : Nat
  flags  : Nat
  boot   : Nat
  detail : List Nat
deriving DecidableEq, Repr

/-- Counts of one task for the watch that owns its layer (R250). -/
structure Counts where
  elems     : Nat
  zeros     : Nat
  sat       : Nat
  nonfin    : Nat
  satBlocks : Nat
  vanished  : Nat
  conv      : Nat
  satConv   : Nat
  clipConv  : Nat
  ovf       : Nat
  rereads   : Nat
  accNonfin : Nat
  invalid   : Nat
  overflow  : Nat
  divzero   : Nat
  clipped   : Nat
deriving DecidableEq, Repr

/-! Arrays, panels and castling (chapters 4 to 6). -/

/-- Which cell pairs one programming wrote; a pair is `(array * 512 + row) * 512 + column`. -/
inductive Programmed where
  | all (draw : Nat)
  | rowsBelow (row draw : Nat)
  | pairs (l : List Nat) (draw : Nat)
deriving DecidableEq, Repr

/-- One physical panel (R129, R91, R109, R140). The registers of its PANEL page are in the register list. -/
structure Panel where
  hasCopy  : Bool
  copy     : List Host.Cell
  scales   : List (Nat × Nat)
  erased   : List Nat
  prog     : List Programmed
  bankT    : Option Int
  pendingT : Option Int
  lastWear : Nat
  warned   : Bool
  retireAs : Option Nat
  deferred : Bool
  due      : Bool
deriving DecidableEq, Repr

/-- Who a load of a panel serves (R132, R136, R143). -/
inductive LoadKind where
  | task (seq : Nat)
  | refresh
  | fill
deriving DecidableEq, Repr

/-- A load of one panel in progress (R132); `scales` are the column scales that have arrived, the zero ones unlisted. -/
structure Load where
  page    : Nat
  kind    : LoadKind
  image   : Nat
  tile    : Nat
  fmt     : Nat
  tag     : Nat
  tiles   : Nat
  diff    : Bool
  next    : Nat
  rows    : Nat
  pairs   : Nat
  changed : List Nat
  rose    : Bool
  scales  : List (Nat × Nat)
deriving DecidableEq, Repr

/-- An ARRAY_LOAD between its dispatch and its end (R134, R135, R152, R158): its placement descriptor and the format, tag and tiles of
its image as they were at dispatch, the entries whose panels have not started it, whether an entry had no panel, an image block failed
and where, a spare was missing, and its counts. -/
structure LoadRun where
  task    : Nat
  place   : List Byte
  image   : Nat × Nat × Nat
  todo    : List Nat
  retired : Bool
  badSeal : Option (Nat × Nat)
  fault   : Bool
  noSpare : Option Nat
  written : Nat
  rows    : Nat
  pairs   : Nat
  faults  : Nat
  castled : Nat
deriving DecidableEq, Repr

/-- The step a castling has reached (R143, Table 5-9 `CASTLE_STATUS.STATE`). -/
inductive CastlePhase where
  | idle
  | arbitrating
  | filling
  | remapping
deriving DecidableEq, Repr

/-- The castling of one array die (R143, R144). Panels are physical numbers. -/
structure Castle where
  phase   : CastlePhase
  logical : Nat
  source  : Nat
  spare   : Nat
  retryAt : Nat
  queue   : List (Nat × Nat)
deriving DecidableEq, Repr

/-- One group result of a token that waits for the cross-panel additions (R156): one per entry of a column group. -/
structure Partial where
  task  : Nat
  group : Nat
  token : Nat
  slab  : Nat
  vals  : List Nat
deriving DecidableEq, Repr

/-- One ARRAY_FWD or ARRAY_REV between its dispatch and its end (R120, R152, R156, R158, R254): its placement descriptor as it was at
dispatch and its operand record once read, the entries whose panels have not started it, the tokens that will be written, the tokens
written, how it ends when a check fails, and its counts (Table 4-10). `firsts` names the panels of the events 0x0102 to 0x0104. -/
structure ArrayRun where
  task     : Nat
  place    : List Byte
  opnd     : List Byte
  todo     : List Nat
  rev      : Bool
  prepass  : Bool
  expo     : Nat
  slot     : Option Word
  tokens   : Nat
  written  : Nat
  ending   : Option (Nat × Nat × Nat)
  counts   : Counts
  kept     : Nat
  skipped  : Nat
  added    : Nat
  outliers : Nat
  slots    : Nat
  peak     : Nat
  firsts   : List (Option Nat)
  blocks   : List Nat
deriving DecidableEq, Repr

/-! Tasks and the graph scheduler (chapter 11). -/

/-- What an engine leaves to be done when its task completes (R285): records, counts for the watch, the estimator's
correction, events once per task, the blocks to read back, additions to buttons, registers. -/
inductive Post where
  | store (addr : Nat) (bytes : List Byte)
  | watch (layer role : Nat) (c : Counts)
  | estimate (layer role peak lastE vanished : Nat) (held : Option Word)
  | restoreSlot (layer role : Nat) (slot : Word)
  | ratio (layer : Nat) (r : Nat)
  | log (page code : Nat) (detail : List Nat)
  | cause (page bit : Nat)
  | readBack (page : Nat) (blocks : List Nat)
  | button (b n : Nat)
  | set (off v : Nat)
deriving DecidableEq, Repr

/-- Where a fetched task stands (R277, R285, R287). -/
inductive Phase where
  | waiting
  | ready (tempo : Nat)
  | running
  | finished (status detail event errDetail : Nat)
deriving DecidableEq, Repr

/-- A fetched task. -/
structure Task where
  seq      : Nat
  queue    : Nat
  index    : Nat
  alt      : Bool
  desc     : List Byte
  step     : Nat
  repeats  : Nat
  replays  : Nat
  widened  : Bool
  fetchAt  : Nat
  startAt  : Nat
  condDone : Bool
  phase    : Phase
  unit     : Nat
  pages    : List Nat
  post     : List Post
  target   : Nat
deriving DecidableEq, Repr

/-- What the scheduler keeps of one queue beside its page (R285, R289, R291, R295, R296): `again` lists what a repeat has still to fetch, as
ring index, alternate and address, and `rungs` the formats in force for it. -/
structure QueueSt where
  stepNow   : Nat
  lastOpen  : Option Nat
  retained  : Nat
  done      : List Nat
  repeats   : Nat
  replayEnd : Option Nat
  replayNo  : Nat
  openWait  : Bool
  gaveUp    : Bool
  again     : List (Nat × Bool × Nat)
  rungs     : Nat × Nat × Bool
deriving DecidableEq, Repr

/-- The open replay window, its button snapshot, and the replays that its step has had (R293, R295). -/
structure Window where
  queue : Nat
  step  : Nat
  first : Nat
  snap  : List (Nat × Word × Word)
  replays : Nat
deriving DecidableEq, Repr

/-- A snapshot point that holds dispatch (R341). -/
structure SnapPoint where
  button : Nat
  ends   : Nat
  added  : Bool
deriving DecidableEq, Repr

/-! Gradient dies (chapters 7 to 9). -/

/-- One GRAD_MM on its die (R181, R184); `errCore` is the core of its last error. -/
structure GradRun where
  task     : Nat
  opnd     : List Byte
  key      : List Byte
  longsum  : Bool
  expo     : Nat
  slot     : Option Word
  prepass  : Bool
  next     : Nat
  assigned : List (Nat × Nat)
  done     : List Nat
  homes    : List (Nat × Nat)
  failed   : List Nat
  blocks   : List Nat
  counts   : Counts
  macs     : Nat
  cycles   : Nat
  alignL   : Nat
  peak     : Nat
  zeroB    : Nat
  quietB   : Nat
  errCore  : Nat
deriving DecidableEq, Repr

/-- Counts of a vector task beside its streams' (Table 8-14). -/
structure LaneCounts where
  instr : Nat
  inv   : Nat
  ovf   : Nat
  dz    : Nat
  sat   : Nat
  perm  : Nat
  cvt   : Counts
deriving DecidableEq, Repr

/-- One vector task on its die (R208, R212): `assigned` pairs a core with its row group; `failed` lists the row groups that read a
failing block. -/
structure VecRun where
  task     : Nat
  convert  : Bool
  opnd     : List Byte
  pats     : List Byte
  keys     : List Byte
  expo     : List Nat
  slots    : List (Nat × Word)
  prepass  : Bool
  next     : Nat
  assigned : List (Nat × Nat)
  done     : List Nat
  failed   : List Nat
  blocks   : List Nat
  counts   : List Counts
  peaks    : List Nat
  lanes    : LaneCounts
  errCore  : Nat
deriving DecidableEq, Repr

/-- A vector core's pattern store and registers (R195, R208), as its last row group left them. Tiles and masks are lists of 64 by 64
lanes, rank by rank. -/
structure VecRegs where
  store : List Byte
  t     : List (List Word)
  m     : List (List Bool)
  s     : List Word
  vr    : Nat
  vf    : Nat
deriving DecidableEq, Repr

/-- Where an update engine stands (`ENGINE_STATE.STATE`). -/
inductive UpdPhase where
  | idle
  | tagWait
  | pass1
  | ckptWait
  | pass2
deriving DecidableEq, Repr

/-- An update engine's task (R223, R231, R239), with its operand record and state header as read at dispatch and what pass 1
found; `kappa` is 0 while no ledger is used. -/
structure Upd where
  phase    : UpdPhase
  task     : Nat
  mode     : Nat
  opnd     : List Byte
  head     : List Byte
  keyW     : List Byte
  keyM     : List Byte
  step     : Nat
  eta      : Nat
  waitFrom : Nat
  tau      : Nat
  pred     : Nat
  rNew     : List Nat
  cNew     : List Nat
  reasons  : Nat
  nonfin   : Nat
  lateUsed : Nat
  lateDrop : Nat
  kappa    : Nat
deriving DecidableEq, Repr

/-! Numerics watches (chapter 10). -/

/-- One layer's entry at its watch: the hem window, the totals, the ratio records and the rungs (R255, R259, R262, R263). -/
structure LayerWatch where
  window  : List Counts
  totals  : List Counts
  repeats : Nat
  causes  : Nat
  inFmt   : Nat
  opndFmt : Nat
  accWide : Bool
  lRung   : Word
  ratio   : Nat
  ratioMx : Nat
  alarms  : Nat
deriving DecidableEq, Repr

/-! Memory-side dies (chapter 12). -/

/-- A DMA channel beside its registers: the active set's configuration, the task it serves with its segments left, the task and
segments in its shadow, why its transfer has ended, source blocks checked and blocks written, and the transfer's first destination byte (R311 to R314, R317). -/
structure Chan where
  busy    : Bool
  task    : Option Nat
  segs    : List (Nat × Nat × Nat)
  shadow  : Option Nat
  next    : List (Nat × Nat × Nat)
  burst   : Nat
  pace    : Bool
  line    : Nat
  irq     : Bool
  stat    : Nat
  ended   : Nat
  checked : List Nat
  wrote   : List Nat
  first   : Nat
deriving DecidableEq, Repr

/-! Tempo (chapter 13). -/

/-- The tempo unit beside its registers (R331, R333, R335 to R337). `ticks` counts every tick, of a stall too; `heard` names for each
port the tick at which it last brought a beacon; `beaconIn` and `echoIn` are the ticks until the next beacon and the next measurement of
the delay are due. -/
structure Tempo where
  count      : BitVec 64
  stall      : Nat
  adjust     : Int
  goodMarks  : Nat
  lastMark   : Option Nat
  beaconGap  : Nat
  locked     : Bool
  ticks      : Nat
  heard      : List (Nat × Nat)
  beaconIn   : Nat
  echoIn     : Nat
deriving DecidableEq, Repr

/-- One entry of the event table (Table 13-3). -/
structure Event where
  armed  : Bool
  count  : BitVec 64
  action : Byte
  flags  : Byte
  arg    : BitVec 16
  param  : BitVec 32
deriving DecidableEq, Repr

/-! Seam (chapter 14). -/

/-- The state of a port's link (R349, R351). -/
inductive LinkPhase where
  | down
  | training
  | retraining
  | up
deriving DecidableEq, Repr

/-- A Seam port (R350 to R352): next sequence numbers, flits not acknowledged, replays without progress, credits held and owed per
channel, messages in part received, received, and waiting to be sent (channel and bytes), and the channel whose turn is next. Two
codewords carry five flits (R348): `fecPos` is the place of the next flit among the five, `fecLost` says that the codeword it begins in,
or lies in, was uncorrectable. -/
structure Port where
  phase    : LinkPhase
  txNext   : Nat
  rxNext   : Nat
  replay   : List (Nat × List Byte)
  stuck    : Nat
  credits  : List Nat
  freed    : List Nat
  partials : List (List Byte)
  rx       : List (Nat × List Byte)
  tx       : List (Nat × List Byte)
  turn     : Nat
  fecPos   : Nat
  fecLost  : Bool
deriving DecidableEq, Repr

/-- A SEAM_PUT or SEAM_GET in progress (R363, R365): `pending` pairs a tag with the offset of its piece; `failed` is the status that
it will end with. -/
structure Txn where
  task    : Nat
  isPut   : Bool
  store   : Bool
  node    : Nat
  remote  : Nat
  home    : Nat
  len     : Nat
  block   : Nat
  next    : Nat
  pending : List (Nat × Nat)
  button  : Nat
  btnSent : Bool
  btnTag  : Option Nat
  failed  : Option Nat
  quietAt : Nat
  wrote   : List Nat
deriving DecidableEq, Repr

/-- A routing entry (R354, Table 14-12 `ROUTE_DATA`), kept as its word. -/
abbrev Route := Nat × Word

/-- Elements of a collective received from a rank, as words of the entry's format: contribution or result, the ranks summed in
them, and how many elements they stand for when they are empty (R367 to R369). -/
structure Segment where
  result  : Bool
  rank    : Nat
  first   : Nat
  len     : Nat
  vals    : List Nat
  present : Nat
deriving DecidableEq, Repr

/-- A collective instance (R367 to R371): its step, the task bound to it and the repeat tasks, the time of the deadline once it has
passed, whether its contribution stands, the running sum with its first element and the ranks in it, the
exchanges done and sent, what has arrived, and the result once formed. `later` holds the times of the deadlines of later steps that have
passed while this one is stalled. -/
structure Inst where
  step     : Nat
  task     : Option Nat
  repeats  : List Nat
  boundAt  : Nat
  deadline : Option Nat
  ready    : Bool
  first    : Nat
  acc      : List Nat
  sum      : Nat
  stage    : Nat
  sent     : Nat
  segs     : List Segment
  done     : Bool
  present  : Nat
  later    : List Nat
deriving DecidableEq, Repr

/-- The ledger of a step of an entry (R370, R371): late values kept by rank and first element, elements had from each owner, and the
largest count of ranks folded. -/
structure LedgerRun where
  entry    : Nat
  step     : Nat
  deadline : Option Nat
  kept     : List (Nat × Nat × List Nat)
  got      : List (Nat × Nat)
  most     : Nat
  closed   : Bool
deriving DecidableEq, Repr

/-- How a closed step of an entry ended at this member (R368): the status of its task, if it had one, and the ranks present. -/
structure CollPast where
  entry   : Nat
  step    : Nat
  status  : Option Nat
  present : Nat
deriving DecidableEq, Repr

/-! Integrity and maintenance (chapter 15). -/

/-- An operation of a SEAL page: its code, first address and blocks (R385). -/
structure SealOp where
  op     : Nat
  addr   : Nat
  blocks : Nat
deriving DecidableEq, Repr

/-- A grant of the maintenance arbiter: class 1 to 9 of Table 15-8, the dies it concerns, and its holder (a task number, or
what the class says). -/
structure Grant where
  cls   : Nat
  dies  : List Nat
  owner : Nat
deriving DecidableEq, Repr

/-- A cross-die replay (R386 to R390). -/
structure Replay where
  state    : Nat
  recBytes : List Byte
  dies     : List Nat
  startAt  : Nat
  digests  : List (List Byte)
  runs     : Nat
  outcome  : Nat
  status   : Nat
  minority : Nat
  owed     : List CoreName
  retryAt  : Nat
deriving DecidableEq, Repr

/-- Who asked for a field test (R395). -/
inductive FtOrigin where
  | slot
  | command
  | afterReplay
  | reinstate
deriving DecidableEq, Repr

/-- The field test in progress (R395 to R397). -/
structure FieldTest where
  core     : CoreName
  origin   : FtOrigin
  state    : Nat
  waitFrom : Nat
  passes   : Nat
deriving DecidableEq, Repr

/-- A SNAPSHOT or RESTORE in progress (R408 to R413, R417, R419). `stage` counts what is done: of a snapshot 0 granted, 1 marked, of
a restore 0 header, 1 directory, 2 body. `marked` lists the state records whose mark stands; `body` holds the body blocks formed
or taken so far, `early` those that came out of order; `issued` counts blocks written, sent or asked for; `pending` pairs a tag
with `2 b` for body block b or `2 k + 1` for the header of target k; `headers` lists the targets that have their header. -/
structure Snap where
  task     : Nat
  restore  : Bool
  kind     : Nat
  step     : Nat
  tempo    : Nat
  manifest : List Byte
  header   : List Byte
  stage    : Nat
  marked   : List Nat
  flags    : List Bool
  layer    : Nat
  body     : List (List Byte)
  early    : List (Nat × List Byte)
  issued   : Nat
  pending  : List (Nat × Nat)
  headers  : List Nat
  quietAt  : Nat
deriving DecidableEq, Repr

/-- A DIGEST_EXCHANGE in progress (R391 to R393). -/
structure DigestRun where
  task   : Nat
  entry  : Nat
  step   : Nat
  rank   : Nat
  digest : List Byte
  closed : Option Nat
deriving DecidableEq, Repr

/-! Monitor converters, firmware, security, record, power, test port (chapters 17 to 20). -/

/-- A monitor converter (R429 to R435): the latched entries as channel and averaging, the entry that runs or is interrupted; the queue
of urgent requests, its head the one that runs while `urgentOn`; the REFIN code in use and the sums of the first sweep. -/
structure Mon where
  entries  : List (Nat × Nat)
  entry    : Nat
  running  : Bool
  preempt  : Bool
  discard  : Bool
  sweep    : Bool
  urgent   : List (Nat × Nat)
  urgentOn : Bool
  refCode  : Nat
  sumRef   : Nat
  sumInt   : List Nat
  swept    : Bool
deriving DecidableEq, Repr

/-- A pair of monitor converters (R433 to R435): a check that waits or runs, a check passed after both first sweeps, a check failed
since the pair was last trusted, a reset that makes the next check fail. -/
structure Pair where
  due      : Bool
  running  : Bool
  passed   : Bool
  failed   : Bool
  spoiled  : Bool
  sweepBad : Nat
  retryAt  : Option Nat
deriving DecidableEq, Repr

/-- The records of an array die at its controller (R428, R435). -/
structure DieCal where
  loaded  : Bool
  refused : Bool
  ready   : Bool
  k       : Nat
deriving DecidableEq, Repr

/-- A firmware slot: header (its first 224 bytes, empty for none), encrypted body, and whether checks 1, 2, 4 and 5 of its header and
the GCM tag of its body are good (R445). -/
structure FwSlot where
  header : List Byte
  body   : List Byte
  good   : Bool
deriving DecidableEq, Repr

/-- One copy of boot control (R440). -/
structure BootCopy where
  gen     : Nat
  active  : Nat
  pending : Option Nat
  trial   : Bool
deriving DecidableEq, Repr

/-- A settings record (R448). -/
structure Setting where
  key   : Nat
  fmt   : Nat
  value : List Byte
deriving DecidableEq, Repr

/-- The firmware side of the device manager (R440 to R448): flash and fuses, the header that staging writes last with its slot, and
the boot number. -/
structure Fw where
  slots    : List FwSlot
  boot     : List BootCopy
  fuses    : Nat
  revoked  : Nat
  settings : List Setting
  staging  : Option (List Byte)
  stageTo  : Nat
  starts   : Nat
deriving DecidableEq, Repr

/-- The security engine (R451) and the CXL side of it (R21, R23): the SPDM session and the number of its next message, the IDE streams and
the mode of their integrity. -/
structure Sec where
  report  : List Byte
  nonce   : List Byte
  forming : Bool
  session : Bool
  msgNo   : Nat
  ideIo   : Bool
  ideCm   : Bool
  skid    : Bool
deriving DecidableEq, Repr

/-- The event record (R452 to R456): committed entries by erase block, oldest block first, the queue, and the address, first number
and count of the dump that runs. -/
structure Rec where
  blocks   : List (List Entry)
  queue    : List Entry
  nextSeq  : Nat
  compact  : Bool
  dumping  : Option (Nat × Nat × Nat)
deriving DecidableEq, Repr

/-- Supply, stop sequence and pins (R464, R469, R482). -/
structure Power where
  supply   : Bool
  held     : Bool
  stopping : Bool
  forReset : Bool
  stopAt   : Nat
  stopped  : Bool
  straps   : BitVec 2
deriving DecidableEq, Repr

/-- The test access port (R484). -/
inductive TapInstr where
  | idcode
  | bypass
  | sample
  | extest
deriving DecidableEq, Repr

/-- The test access port: its instruction and boundary-scan cells. -/
structure Tap where
  instr : TapInstr
  cells : List Bool
deriving DecidableEq, Repr

/-- An MSI-X message that has left the module: its vector, and the address and data of its table entry (R50, R53). -/
structure MsixMsg where
  vec  : Nat
  addr : Nat
  data : Word
deriving DecidableEq, Repr

/-- The host port beside the HOST page (R26, R28, R32, R53): requests waiting, snoops outstanding, host-held marks, uncorrectable lines,
messages sent, the vectors within their moderation interval, and the words of BAR4 that differ from their reset values, by offset. -/
structure Port0 where
  waiting    : Nat
  snoops     : List Nat
  marks      : List Nat
  badLines   : List Nat
  msix       : List MsixMsg
  moderating : List (Nat × Bool)
  bar4       : List (Nat × Word)
deriving DecidableEq, Repr

/-- The whole machine. -/
structure State where
  /-- The commands waiting, first in, first out (the model's own). -/
  pending  : List Instr
  /-- The answer of the last command that answers something (the model's own). -/
  reply    : Reply
  /-- A counter that numbers the draws of free values (the model's own). -/
  fresh    : Nat
  /-- Every register that differs from its reset value, by BAR0 offset, ascending. -/
  regs     : List (Nat × Word)
  /-- Every byte of memory that differs from zero, by device address, ascending. -/
  mem      : List Host.Cell
  /-- Seal entries written since the reset, by block number, ascending (R379). -/
  seals    : List (Nat × Word)
  /-- How often the seal table has become undefined (R380): the argument of the free value an unwritten entry reads. -/
  sealAge  : Nat
  /-- Bytes read and written at each DRAM controller since its counters were cleared, by page (Table 12-14). -/
  traffic  : List (Nat × Nat × Nat)
  posted   : List Posted
  pairHold : List (Nat × Word)
  pairRead : List (Nat × Word)
  host     : Port0
  panels   : List (Nat × Panel)
  loads    : List Load
  loadRuns : List LoadRun
  castles  : List (Nat × Castle)
  partials : List Partial
  arrRuns  : List ArrayRun
  /-- Array tasks in the order they were handed over (R158). -/
  arrOrder : List Nat
  tasks    : List Task
  nextSeq  : Nat
  queues   : List (Nat × QueueSt)
  window   : Option Window
  snapAt   : Option SnapPoint
  gradRuns : List (Nat × GradRun)
  /-- The gradient cores that ran an item of the products in a plane (R390): four times its address plus the quadrant, and the cores. -/
  ran      : List (Nat × List Nat)
  vecRuns  : List (Nat × VecRun)
  vecRegs  : List (Nat × VecRegs)
  upds     : List (Nat × Upd)
  layers   : List (Nat × LayerWatch)
  wtable   : List (Nat × List Byte)
  slots    : List (Nat × Word)
  chans    : List (Nat × Chan)
  /-- The DMA_COPY tasks that wait in their die's dispatcher for a shadow: die, task and segments (R287, R312). -/
  dmaQueue : List (Nat × Nat × List (Nat × Nat × Nat))
  tempo    : Tempo
  events   : List (Nat × Event)
  ports    : List (Nat × Port)
  routes   : List Route
  txns     : List Txn
  sent     : List (Nat × List Byte)
  /-- The training flits sent, with their ports (R349). -/
  trainSent : List (Nat × TrainingFlit)
  /-- The WRITEs and BUTTON_ADDs that wait to be taken, with their ports, in the order they were received (R359). -/
  arrived  : List (Nat × List Byte)
  nextTag  : Nat
  ctable   : List (Nat × List Byte)
  insts    : List (Nat × Inst)
  ledgers  : List LedgerRun
  collPast : List CollPast
  held     : List (Nat × List Byte)
  sealOps  : List (Nat × SealOp)
  grants   : List Grant
  replay   : Option Replay
  field    : Option FieldTest
  notReady : List Nat
  snaps    : List Snap
  digests  : List DigestRun
  mons     : List (Nat × Mon)
  pairs    : List (Nat × Pair)
  dieCals  : List (Nat × DieCal)
  fw       : Fw
  sec      : Sec
  record   : Rec
  power    : Power
  tap      : Tap
deriving DecidableEq, Repr

/-- The first 224 bytes of the header of the firmware image that the factory put into slot 0: version 1, settings format 1, and
nothing else that the model reads (DESIGN CHOICE, log 16). -/
def factoryHeader : List Byte :=
  [0x4E, 0x4B, 0x46, 0x57, 1, 0, 0x00, 0x21, 1, 0, 0, 0, 1, 0, 1, 0, 16, 0, 0, 0] ++ List.replicate 204 0

/-- The clean-stop entry of the factory, the one entry of a new event record (R455; DESIGN CHOICE, log 24). -/
def factoryEntry : Entry := ⟨1, 0, 0x0E11, 0, 0, 0, []⟩

/-- The machine right after reset: `DEV_STATE` 0x0, every register at the Reset column of its table, power-on reset still held
(R464), both flashes with the factory's content, and nothing else in progress. -/
def State.reset : State where
  pending  := []
  reply    := .none
  fresh    := 0
  regs     := []
  mem      := []
  seals    := []
  sealAge  := 0
  traffic  := []
  posted   := []
  pairHold := []
  pairRead := []
  host     := ⟨0, [], [], [], [], [], []⟩
  panels   := []
  loads    := []
  loadRuns := []
  castles  := []
  partials := []
  arrRuns  := []
  arrOrder := []
  tasks    := []
  nextSeq  := 0
  queues   := []
  window   := none
  snapAt   := none
  gradRuns := []
  ran      := []
  vecRuns  := []
  vecRegs  := []
  upds     := []
  layers   := []
  wtable   := []
  slots    := []
  chans    := []
  dmaQueue := []
  tempo    := ⟨0, 0, 0, 0, none, 0, false, 0, [], 0, 0⟩
  events   := []
  ports    := []
  routes   := []
  txns     := []
  sent     := []
  trainSent := []
  arrived  := []
  nextTag  := 0
  ctable   := []
  insts    := []
  ledgers  := []
  collPast := []
  held     := []
  sealOps  := []
  grants   := []
  replay   := none
  field    := none
  notReady := []
  snaps    := []
  digests  := []
  mons     := []
  pairs    := []
  dieCals  := []
  fw       := ⟨[⟨factoryHeader, [], true⟩, ⟨[], [], false⟩], [⟨1, 0, none, false⟩, ⟨0, 0, none, false⟩], 0, 0, [], none, 0, 0⟩
  sec      := ⟨List.replicate 264 0, List.replicate 32 0, false, false, 0, false, false, false⟩
  record   := ⟨[[factoryEntry]], [], 2, false, none⟩
  power    := ⟨true, true, false, false, 0, false, 3⟩
  tap      := ⟨.idcode, []⟩

end Sys2Proof.Machine
end

