-- ==== Sys2Proof/Machine/Ops.lean ====
section
/-! DEFINITION. The named operations over keyed lists, registers, memory and seals. -/

namespace Sys2Proof.Machine

/-! Lists keyed by ascending numbers. -/

/-- The value at a key. -/
def aget? {α : Type} (l : List (Nat × α)) (k : Nat) : Option α :=
  match l with
  | [] => none
  | (j, v) :: t => if j = k then some v else aget? t k

/-- The value at a key, or a default. -/
def aget {α : Type} (l : List (Nat × α)) (k : Nat) (d : α) : α := (aget? l k).getD d

/-- The list without a key. -/
def aerase {α : Type} (l : List (Nat × α)) (k : Nat) : List (Nat × α) := l.filter fun p => p.1 != k

/-- The list with a key's value replaced, in ascending order of keys. -/
def aput {α : Type} (l : List (Nat × α)) (k : Nat) (v : α) : List (Nat × α) :=
  (l.filter fun p => decide (p.1 < k)) ++ (k, v) :: l.filter fun p => decide (k < p.1)

/-- As `aput`, in a list that lists no value equal to the default `d`. -/
def acanon {α : Type} [DecidableEq α] (l : List (Nat × α)) (k : Nat) (v d : α) : List (Nat × α) :=
  if v = d then (l.filter fun p => decide (p.1 < k)) ++ l.filter fun p => decide (k < p.1) else aput l k v

/-- The element at an index, or a default. -/
def nth {α : Type} (l : List α) (i : Nat) (d : α) : α := (l[i]?).getD d

/-- The list with one index replaced. -/
def setNth {α : Type} (l : List α) (i : Nat) (v : α) : List α := l.set i v

/-! Bytes. -/

/-- The little-endian number of a run of bytes (R5). -/
def leNat (b : List Byte) : Nat :=
  match b with
  | [] => 0
  | x :: t => x.toNat + 256 * leNat t

/-- The low `n` bytes of a number, little-endian. -/
def leBytes (n v : Nat) : List Byte :=
  match n with
  | 0 => []
  | n + 1 => BitVec.ofNat 8 v :: leBytes n (v / 256)

/-- `n` bytes of a list from `at`, little-endian; bytes beyond the end read 0. -/
def fieldAt (b : List Byte) (at_ n : Nat) : Nat := leNat ((b.drop at_).take n)

/-- One bit of a number. -/
def bit (v i : Nat) : Bool := v / 2 ^ i % 2 == 1

/-- The bits `[hi:lo]` of a number. -/
def bitsOf (v hi lo : Nat) : Nat := v / 2 ^ lo % 2 ^ (hi + 1 - lo)

/-- 1 or 0. -/
def b2n (b : Bool) : Nat := if b then 1 else 0

/-! Registers. -/

/-- The word of the register at a BAR0 offset. -/
def State.reg (s : State) (off : Nat) : Word := (aget? s.regs off).getD (resetWord off)

/-- The state with the register at a BAR0 offset holding a word. -/
def State.setReg (s : State) (off : Nat) (w : Word) : State :=
  { s with regs := acanon s.regs off w (resetWord off) }

/-- The BAR0 offset of a field's register, repeat `i`. -/
def Fld.addr (f : Fld) (page i : Nat) : Nat := page + f.off + f.stride * i

/-- A field of a page. -/
def State.rf (s : State) (page : Nat) (f : Fld) (i : Nat := 0) : Nat := getBits (s.reg (f.addr page i)) f.hi f.lo

/-- The state with a field of a page replaced. -/
def State.wf (s : State) (page : Nat) (f : Fld) (v : Nat) (i : Nat := 0) : State :=
  s.setReg (f.addr page i) (setBits (s.reg (f.addr page i)) f.hi f.lo v)

/-- A 64-bit pair: the LO field counted from its own low bit up. -/
def State.rf64 (s : State) (page : Nat) (lo hi : Fld) (i : Nat := 0) : Nat := 2 ^ lo.lo * s.rf page lo i + 2 ^ 32 * s.rf page hi i

/-- The state with a 64-bit pair replaced. -/
def State.wf64 (s : State) (page : Nat) (lo hi : Fld) (v : Nat) (i : Nat := 0) : State :=
  (s.wf page lo (v / 2 ^ lo.lo) i).wf page hi (v / 2 ^ 32) i

/-- A saturating count of a 32-bit field raised by `n`. -/
def State.incBy (s : State) (page : Nat) (f : Fld) (n : Nat) (i : Nat := 0) : State :=
  s.wf page f (Nat.min (s.rf page f i + n) (2 ^ (f.hi + 1 - f.lo) - 1)) i

/-- A saturating count raised by one. -/
def State.inc (s : State) (page : Nat) (f : Fld) (i : Nat := 0) : State := s.incBy page f 1 i

/-- A 64-bit count raised by `n`. -/
def State.inc64 (s : State) (page : Nat) (lo hi : Fld) (n : Nat) (i : Nat := 0) : State :=
  s.wf64 page lo hi (Nat.min (s.rf64 page lo hi i + n) (2 ^ 64 - 1)) i

/-- The header word of a page at an offset of Table 2-4. -/
def State.hdr (s : State) (page o : Nat) : Nat := (s.reg (page + o)).toNat

/-- Whether a page's block is enabled and not quiesced: it accepts tasks (R15, R41). -/
def State.accepts (s : State) (page : Nat) : Bool :=
  let c := s.hdr page oPAGE_CTL
  bit c 0 && !bit c 1 && !bit c 31

/-- The `RETIRED` bit of `PAGE_STATUS` (R41). -/
def State.retired (s : State) (page : Nat) : Bool := bit (s.hdr page oPAGE_STATUS) 3

/-- Set one bit of a page's header word. -/
def State.setHdrBit (s : State) (page o b : Nat) (v : Bool) : State :=
  s.setReg (page + o) (setBits (s.reg (page + o)) b b (b2n v))

/-- A register set to several fields of one page at once. -/
def State.wfs (s : State) (page : Nat) (l : List (Fld × Nat)) : State := l.foldl (fun t p => t.wf page p.1 p.2) s

/-- The tempo count. -/
def State.now (s : State) : Nat := s.tempo.count.toNat

/-! The device address map (Table 12-1). -/

/-- Installed bytes of Tier A. -/
def tierAEnd : Nat := 0x254_0BE40000
/-- Base of Tier B. -/
def tierBBase : Nat := 0x400_00000000
/-- End of the installed part of Tier B. -/
def tierBEnd : Nat := 0xB73_59400000
/-- Base of the SRAM windows. -/
def sramBase : Nat := 0xC00_00000000
/-- Base of the host window (R25). -/
def hostBase : Nat := 0x80000_00000000
/-- The end of the device address space. -/
def addrEnd : Nat := 2 ^ 52

/-- An address of the host window. -/
def inHost (a : Nat) : Bool := decide (hostBase ≤ a) && decide (a < addrEnd)
/-- An installed address of Tier A. -/
def inTierA (a : Nat) : Bool := decide (a < tierAEnd)
/-- An installed address of Tier B. -/
def inTierB (a : Nat) : Bool := decide (tierBBase ≤ a) && decide (a < tierBEnd)
/-- An installed SRAM address: local stores and die pools. -/
def inSram (a : Nat) : Bool :=
  decide (sramBase ≤ a) && decide (a < sramBase + 0x80000000) && decide ((a - sramBase) % 0x20000000 < 0x14000000)
/-- An address in an installed range (R304). -/
def installed (a : Nat) : Bool := inTierA a || inTierB a || inSram a || inHost a

/-- The installed range an address lies in ends here. -/
def rangeEnd (a : Nat) : Nat :=
  if inTierA a then tierAEnd else if inTierB a then tierBEnd
  else if inSram a then sramBase + 0x14000000 + 0x20000000 * ((a - sramBase) / 0x20000000)
  else if inHost a then addrEnd else a

/-- Whether a whole range is installed. -/
def rangeOk (a len : Nat) : Bool := len == 0 || (installed a && decide (a + len ≤ rangeEnd a))

/-- The first address of a range that no installed range holds. -/
def faultIn (a len : Nat) : Option Nat :=
  if len == 0 then none else if !installed a then some a else if a + len ≤ rangeEnd a then none else some (rangeEnd a)

/-- The memory-side die `2q + d` that owns a block (R305), and its controller: 0-3 stacks, 4-7 channels. -/
def blockOwner (a : Nat) : Nat × Nat :=
  if a < tierBBase then
    let q := a / 0x95_02F90000
    let i := a % 0x95_02F90000 / 4096 % 8
    (2 * q + i % 2, i / 2)
  else if a < sramBase then
    let q := (a - tierBBase) / 0x1DC_D6500000
    let i := (a - tierBBase) % 0x1DC_D6500000 / 4096 % 8
    (2 * q + i % 2, 4 + i / 2)
  else (2 * ((a - sramBase) / 0x20000000), 0)

/-- The page of a block's controller. -/
def ctlPage (a : Nat) : Nat :=
  let o := blockOwner a
  if o.2 < 4 then pgStack o.1 o.2 else pgTierB o.1 (o.2 - 4)

/-! Memory: one canonical list of bytes; an unlisted byte reads 0 (DESIGN CHOICE, log 20). -/

/-- The cells that a run of bytes at an address lists. -/
def cells (a : Nat) (b : List Byte) : List Host.Cell :=
  match b with
  | [] => []
  | x :: t => if x = 0 then cells (a + 1) t else (a, x) :: cells (a + 1) t

/-- The list with the bytes at `a` replaced. -/
def memPut (m : List Host.Cell) (a : Nat) (b : List Byte) : List Host.Cell :=
  (m.filter fun c => decide (c.1 < a)) ++ cells a b ++ m.filter fun c => decide (a + b.length ≤ c.1)

/-- One byte. -/
def memByte (m : List Host.Cell) (a : Nat) : Byte := (aget? m a).getD 0

/-- `n` bytes from `a`, of cells none of which lies below `a`. -/
def runBytes (n a : Nat) (m : List Host.Cell) : List Byte :=
  match n with
  | 0 => []
  | n + 1 =>
    match m with
    | [] => 0 :: runBytes n (a + 1) []
    | c :: t => if c.1 = a then c.2 :: runBytes n (a + 1) t else 0 :: runBytes n (a + 1) (c :: t)

/-- Each address lies below the next. -/
def ascending (m : List Host.Cell) : Bool :=
  match m with
  | c :: d :: t => decide (c.1 < d.1) && ascending (d :: t)
  | _ => true

/-- `n` bytes from `a`: byte `i` is the byte at `a + i` (`memGet_eq`), of cells in ascending order read in one pass. -/
def memGet (m : List Host.Cell) (a n : Nat) : List Byte :=
  let w := m.filter fun c => decide (a ≤ c.1)
  if ascending w then runBytes n a w else (List.range n).map fun i => memByte w (a + i)

/-- The canonical form: addresses strictly rising, no listed zero. -/
def Memory.wf (m : List Host.Cell) : Bool :=
  match m with
  | [] => true
  | c :: t => decide (c.2 ≠ 0) && t.all (fun d => decide (c.1 < d.1)) && Memory.wf t

/-- Bytes of device memory. -/
def State.bytes (s : State) (a n : Nat) : List Byte := memGet s.mem a n

/-- A little-endian number in device memory. -/
def State.num (s : State) (a n : Nat) : Nat := leNat (s.bytes a n)

/-- One byte of device memory. -/
def State.byte (s : State) (a : Nat) : Byte := memByte s.mem a

/-- An access of the host window is a request of each line to the port, where it waits to be issued (R24, R26). -/
def State.cacheUse (s : State) (a len : Nat) : State :=
  if inHost a && len != 0 then
    { s with host := { s.host with waiting := s.host.waiting + ((a + len - 1) / 64 - a / 64 + 1) } }
  else s

/-- The parts of several ranges that lie in blocks of the host window, read by an engine once for each block (R24). -/
def State.cacheReads (s : State) (rs : List (Nat × Nat)) (ks : List Nat) : State :=
  (ks.filter fun k => inHost (4096 * k)).foldl (fun t k => rs.foldl (fun u r =>
    let lo := Nat.max r.1 (4096 * k)
    u.cacheUse lo (Nat.min (r.1 + r.2) (4096 * k + 4096) - lo)) t) s

/-- The block numbers that a range of bytes touches. -/
def blocksOf (a len : Nat) : List Nat :=
  if len == 0 then [] else (List.range ((a + len - 1) / 4096 - a / 4096 + 1)).map (a / 4096 + ·)

/-- Bytes read and written at the controller of a block (Table 12-14); the SRAM and the host window have none. -/
def tally (l : List (Nat × Nat × Nat)) (k rd wr : Nat) : List (Nat × Nat × Nat) :=
  if inTierA (4096 * k) || inTierB (4096 * k) then
    let t := aget l (ctlPage (4096 * k)) (0, 0)
    aput l (ctlPage (4096 * k)) (t.1 + rd, t.2 + wr)
  else l

/-- The bytes of a write counted at the controllers of its blocks. -/
def tallyWrite (l : List (Nat × Nat × Nat)) (a len : Nat) : List (Nat × Nat × Nat) :=
  (blocksOf a len).foldl (fun t k => tally t k 0 (Nat.min (a + len) (4096 * k + 4096) - Nat.max a (4096 * k))) l

/-- A block read whole by an engine that checks it. -/
def State.countRead (s : State) (k : Nat) : State := { s with traffic := tally s.traffic k 4096 0 }

/-- Bytes written without any change of the seal table. A line that is wholly rewritten is no longer uncorrectable. -/
def State.put (s : State) (a : Nat) (b : List Byte) : State :=
  ({ s with
    mem := memPut s.mem a b
    traffic := tallyWrite s.traffic a b.length
    host := { s.host with badLines := s.host.badLines.filter fun l => !(decide (a ≤ 64 * l) && decide (64 * l + 64 ≤ a + b.length)) } }).cacheUse
    a b.length

/-! Checksums. -/

/-- One step of a reflected CRC by a bit. -/
def crcBit (poly c : Nat) : Nat := if c % 2 == 1 then (c / 2) ^^^ poly else c / 2

/-- One byte of a reflected CRC. -/
def crcByte (poly c x : Nat) : Nat :=
  let a := c ^^^ x
  crcBit poly (crcBit poly (crcBit poly (crcBit poly (crcBit poly (crcBit poly (crcBit poly (crcBit poly a)))))))

/-- CRC-32C (R378). -/
def crc32c (b : List Byte) : Nat := (b.foldl (fun c x => crcByte 0x82F63B78 c x.toNat) 0xFFFFFFFF) ^^^ 0xFFFFFFFF

/-! Seals (R378 to R383). -/

/-- The seal entry of block `k` (device address `4096 k`). -/
def State.sealEntry (s : State) (k : Nat) : Word := (aget? s.seals k).getD (Config.freeSeal s.sealAge k)

/-- The state with a seal entry stored. -/
def State.setSeal (s : State) (k : Nat) (w : Word) : State := { s with seals := aput s.seals k w }

/-- The seal of a block's content. -/
def State.sealOf (s : State) (k : Nat) : Word := BitVec.ofNat 32 (crc32c (s.bytes (4096 * k) 4096))

/-- Whether a block holds a line with an uncorrectable error (R308). -/
def State.badBlock (s : State) (k : Nat) : Bool := s.host.badLines.any fun l => l * 64 / 4096 == k

/-- A block passes its check: its entry equals the seal of its content and no line of it is uncorrectable (R308, R381). Host
blocks carry no seal (R379). -/
def State.blockOk (s : State) (k : Nat) : Bool :=
  if inHost (4096 * k) then true else !s.badBlock k && s.sealEntry k == s.sealOf k

/-- The block numbers of several ranges, each block once. -/
def blocksOfAll (rs : List (Nat × Nat)) : List Nat := (rs.flatMap fun r => blocksOf r.1 r.2).eraseDups

/-- The first block of a list that fails its check. -/
def State.firstBad (s : State) (ks : List Nat) : Option Nat := ks.find? fun k => !s.blockOk k

/-- A whole block or range of whole blocks sealed from its content; host blocks carry no seal. -/
def State.reseal (s : State) (a len : Nat) : State :=
  (blocksOf a len).foldl (fun t k => if inHost (4096 * k) then t else t.setSeal k (t.sealOf k)) s

/-- Bytes written with new seals, the old blocks not checked. -/
def State.putSealed (s : State) (a : Nat) (b : List Byte) : State := (s.put a b).reseal a b.length

/-- The blocks of a range that a write of it changes only in part (R382). -/
def partBlocks (a len : Nat) : List Nat :=
  (blocksOf a len).filter fun k => decide (4096 * k < a) || decide (a + len < 4096 * k + 4096)

/-- One block's share of a write: its old content is checked when the write merges into it (R382). -/
def State.putPart (s : State) (a : Nat) (b : List Byte) (k : Nat) : State × Bool :=
  let lo := Nat.max a (4096 * k)
  let hi := Nat.min (a + b.length) (4096 * k + 4096)
  let part := (b.drop (lo - a)).take (hi - lo)
  if inHost (4096 * k) then (s.put lo part, true)
  else if hi - lo == 4096 then (s.putSealed lo part, true)
  else if s.blockOk k then
    let t := s.putSealed lo part
    let p := pgSeal (blockOwner (4096 * k)).1
    ((t.inc64 p R.SEAL.CHECKS_LO R.SEAL.CHECKS_HI 1).inc64 p R.SEAL.MERGES_LO R.SEAL.MERGES_HI 1, true)
  else (s, false)

/-- A sealed write of any range, block by block in ascending order, with the blocks whose merge failed (R382). -/
def State.store (s : State) (a : Nat) (b : List Byte) : State × List Nat :=
  (blocksOf a b.length).foldl (fun acc k =>
    let r := acc.1.putPart a b k
    (r.1, if r.2 then acc.2 else acc.2 ++ [k])) (s, [])

/-! Host-held marks (R28). -/

/-- The marked lines in ranges. -/
def State.markedIn (s : State) (rs : List (Nat × Nat)) : List Nat :=
  s.host.marks.filter fun l => rs.any fun r => decide (r.1 < 64 * l + 64) && decide (64 * l < r.1 + r.2)

/-- Back-invalidate snoops for the marked lines of ranges that have none outstanding. -/
def State.snoop (s : State) (rs : List (Nat × Nat)) : State :=
  let new := (s.markedIn rs).filter fun l => !s.host.snoops.contains l
  ({ s with host := { s.host with snoops := s.host.snoops ++ new } }).inc64 pgHost R.HOST.BI_SNP_LO R.HOST.BI_SNP_HI new.length

/-- An engine's access waits while a line of its ranges is marked: the snoops go out, and the command, given again once they are
answered, does its work (R28; DESIGN CHOICE, log 26). -/
def State.whenFree (s : State) (rs : List (Nat × Nat)) (k : State → State) : State :=
  if (s.markedIn rs).isEmpty then k s else s.snoop rs

/-- A change that depends on something that may be absent. -/
def State.whenSome {α : Type} (s : State) (o : Option α) (f : State → α → State) : State :=
  match o with
  | some x => f s x
  | none => s

/-! Free values. -/

/-- The next free word, for the place `k`, and the state that has drawn it. -/
def State.draw (s : State) (k : Nat) : Word × State := (Config.freeWord s.fresh k, { s with fresh := s.fresh + 1 })

end Sys2Proof.Machine
end

