-- ==== Sys2Proof/Machine/Flags.lean ====
section
/-! DEFINITION. Causes and interrupts (R50 to R54), error counts (R486) and the event record's queue (R452, R453). -/

namespace Sys2Proof.Machine

/-! Interrupts. -/

/-- The BAR0 offset of `VEC_CTL` of a vector (R54). -/
def offVecCtl (v : Nat) : Nat := pgIntroute (v / 256) + 0x100 + 4 * (v % 256)

/-- The BAR0 offset of `VEC_LAST_SRC` of a vector (R54). -/
def offVecSrc (v : Nat) : Nat := pgIntroute (v / 256) + 0x500 + 4 * (v % 256)

/-- The moderation interval of a vector in µs. -/
def State.modUs (s : State) (v : Nat) : Nat := getBits (s.reg (offVecCtl v)) 15 0

/-- `VEC_CTL.PENDING` of a vector. -/
def State.vecPending (s : State) (v : Nat) : Bool := getBits (s.reg (offVecCtl v)) 31 31 == 1

/-- Set `VEC_CTL.PENDING`. -/
def State.setVecPending (s : State) (v : Nat) (p : Bool) : State :=
  s.setReg (offVecCtl v) (setBits (s.reg (offVecCtl v)) 31 31 (b2n p))

/-- What a word of BAR4 holds after reset: a vector of the MSI-X table is masked (PRESUMED, log 60), the size of the HDM decoder is that of
R27; all else is 0. -/
def bar4Reset (o : Nat) : Word :=
  if o < 0x8000 && o % 16 == 12 then 1#32
  else if o == 0x11218 then 0x50000000#32
  else if o == 0x1121C then 0x773#32 else 0#32

/-- A word that BAR4 holds. -/
def State.bar4Word (s : State) (o : Nat) : Word := (aget? s.host.bar4 o).getD (bar4Reset o)

/-- The state with a word of BAR4 replaced. -/
def State.setBar4 (s : State) (o : Nat) (w : Word) : State :=
  { s with host := { s.host with bar4 := acanon s.host.bar4 o w (bar4Reset o) } }

/-- The mask bit of a vector's entry of the MSI-X table. -/
def State.masked (s : State) (v : Nat) : Bool := getBits (s.bar4Word (16 * v + 12)) 0 0 == 1

/-- The message of a vector's entry. -/
def State.msixMsg (s : State) (v : Nat) : MsixMsg :=
  ⟨v, (s.bar4Word (16 * v)).toNat + 2 ^ 32 * (s.bar4Word (16 * v + 4)).toNat, s.bar4Word (16 * v + 8)⟩

/-- An MSI-X message of a vector leaves the module; with an interval set, the interval begins (R53). -/
def State.sendVector (s : State) (v : Nat) : State :=
  let h := s.host
  let m := if s.modUs v == 0 then aerase h.moderating v else aput h.moderating v false
  ({ s with host := { h with msix := h.msix ++ [s.msixMsg v], moderating := m } }).setVecPending v false

/-- A page raises a vector (R51, R53): sent, merged within the moderation interval, or pending while masked. -/
def State.raiseVector (s : State) (page : Nat) : State :=
  let v := getBits (s.reg (page + oINT_VECTOR)) 10 0
  let s := s.setReg (offVecSrc v) (s.reg (page + oPAGE_ID))
  if s.masked v then s.setVecPending v true
  else if (aget? s.host.moderating v).isSome then
    ({ s with host := { s.host with moderating := aput s.host.moderating v true } }).setVecPending v true
  else s.sendVector v

/-- A cause sets its bit of `INT_STATUS`; the vector is raised when the bit becomes 1 in `INT_STATUS` and `INT_ENABLE` (R51). -/
def State.cause (s : State) (page b : Nat) : State :=
  if bit (s.hdr page oINT_STATUS) b then s
  else
    let t := s.setHdrBit page oINT_STATUS b true
    if bit (s.hdr page oINT_ENABLE) b then t.raiseVector page else t

/-- `DEV_STATE` changes: the cause `STATE_CHANGE` is set (R55). -/
def State.setDevState (s : State) (v : Nat) : State :=
  if s.rf pgDevice R.DEVICE.DEV_STATE_STATE == v then s
  else (s.wf pgDevice R.DEVICE.DEV_STATE_STATE v).cause pgDevice 0

/-! Views (R33 to R35). -/

/-- The bit of `GRANT_CLASSn` that grants a class, where it may be set (R34, R35). -/
def grantableClass (c : Cls) : Bool :=
  match c with
  | .device | .power | .clock | .maint | .introute | .security | .firmware | .record | .calib | .host | .graphQueue | .buttons => false
  | _ => true

/-- Whether BAR2 is granted a page by the grant registers (R33, R34). -/
def State.grantedPage (s : State) (p : PageRef) : Bool :=
  match p.cls with
  | .graphQueue => s.rf pgDevice (if p.inst < 32 then R.DEVICE.GRANT_QUEUE_LO else R.DEVICE.GRANT_QUEUE_HI) / 2 ^ (p.inst % 32) % 2 == 1
  | .buttons => bit (s.rf pgDevice R.DEVICE.GRANT_BUTTONS) p.inst
  | c => grantableClass c && bit (s.rf pgDevice R.DEVICE.GRANT_CLASS (c.code / 32)) (c.code % 32)

/-- Whether a view may write to a page: BAR0 always, BAR2 where it is granted (R33). -/
def State.granted (s : State) (view : View) (page : Nat) : Bool :=
  match view with
  | .bar0 => true
  | .bar2 => match pageAt page with
    | some p => s.grantedPage p
    | none => false

/-- A write in a view takes its effect: the page is granted, an RWP field is written in BAR0 only (R33), and the module is neither
without power nor stopped (R464, R469). -/
def State.onWrite (s : State) (view : View) (page : Nat) (rwp : Bool) (k : State → State) : State :=
  if s.granted view page && (view == .bar0 || !rwp) && s.power.supply && !s.power.stopped then k s else s

/-! Errors (R486). -/

/-- A page counts an error: `ERR_COUNT` saturates, `ERR_LAST` holds the event and the detail. -/
def State.err (s : State) (page event detail : Nat) : State :=
  (s.setReg (page + oERR_COUNT) (BitVec.ofNat 32 (Nat.min (s.hdr page oERR_COUNT + 1) (2 ^ 32 - 1)))).setReg
    (page + oERR_LAST) (BitVec.ofNat 32 (event * 2 ^ 16 + detail % 2 ^ 16))

/-- `ERR_LAST.DETAIL` written by a happening that is no error of R486: `ERR_COUNT` and `ERR_LAST.EVENT` stay (DEDUCED, log 107). -/
def State.errDetail (s : State) (page detail : Nat) : State :=
  s.setReg (page + oERR_LAST) (BitVec.ofNat 32 (s.hdr page oERR_LAST / 2 ^ 16 * 2 ^ 16 + detail % 2 ^ 16))

/-! The event record. -/

/-- The number of entries in an erase block (R452). -/
def recBlockLen : Nat := 1024

/-- The entry at the head of the queue is programmed and read back (R453): it joins the newest erase block, or opens a free one. -/
def State.commitEntry (s : State) : State :=
  match s.record.queue with
  | [] => s
  | e :: q =>
    let bs := s.record.blocks
    let last := bs.getLastD []
    let full := decide (recBlockLen ≤ last.length) || bs.isEmpty
    if full && s.rf pgRecord R.RECORD.REC_FREE_BLOCKS == 0 then s
    else
      let bs' := if full then bs ++ [[e]] else bs.dropLast ++ [last ++ [e]]
      let s := if full then s.wf pgRecord R.RECORD.REC_FREE_BLOCKS (s.rf pgRecord R.RECORD.REC_FREE_BLOCKS - 1) else s
      let low := decide (s.rf pgRecord R.RECORD.REC_FREE_BLOCKS ≤ 16)
      let s := { s with record := { s.record with blocks := bs', queue := q, compact := s.record.compact || low } }
      (s.wf64 pgRecord R.RECORD.REC_LAST_LO R.RECORD.REC_LAST_HI (Nat.max e.seq (s.rf64 pgRecord R.RECORD.REC_LAST_LO R.RECORD.REC_LAST_HI))).wf
        pgRecord R.RECORD.REC_QUEUE_WAITING q.length

/-- Every queued entry is committed in order (R453). -/
def State.commitAll (s : State) : State := s.record.queue.foldl (fun t _ => t.commitEntry) s

/-- `SOURCE` of an entry: quadrant and die of the reporting block (Table 18-6). -/
def sourceOf (page : Nat) : Nat :=
  match pageAt page with
  | some p => p.quad * 16 + p.die
  | none => 0xFF

/-- A block logs an event: the entry takes the next sequence number and waits for programming. With the queue full the block waits
until its head has been programmed (R453). -/
def State.logAs (s : State) (rom : Bool) (page code : Nat) (detail : List Nat) : State :=
  let e : Entry := ⟨s.record.nextSeq, s.now, code, sourceOf page, b2n s.tempo.locked + 2 * b2n rom,
    s.rf pgFirmware R.FIRMWARE.BOOT_COUNT, detail⟩
  let s := if decide (1024 ≤ s.record.queue.length) then (s.cause pgRecord 2).commitEntry else s
  let q := s.record.queue ++ [e]
  let s := { s with record := { s.record with queue := q, nextSeq := s.record.nextSeq + 1 } }
  (s.wf pgRecord R.RECORD.REC_QUEUE_WAITING q.length).wf pgRecord R.RECORD.REC_QUEUE_PEAK
    (Nat.max (s.rf pgRecord R.RECORD.REC_QUEUE_PEAK) q.length)

/-- A block logs an event. -/
def State.log (s : State) (page code : Nat) (detail : List Nat) : State := s.logAs false page code detail

/-- An event committed before what it reports becomes visible (R453): the entry and all ahead of it are programmed now. -/
def State.logFirm (s : State) (page code : Nat) (detail : List Nat) : State := (s.log page code detail).commitAll

/-- The bytes of an entry, its CRC last (Table 18-6). -/
def Entry.bytes (e : Entry) : List Byte :=
  let d := (e.detail ++ List.replicate 4 0).take 4
  let b := leBytes 8 e.seq ++ leBytes 8 e.tempo ++ leBytes 2 e.code ++ leBytes 1 e.source ++ leBytes 1 e.flags ++ leBytes 4 e.boot ++
    d.flatMap (leBytes 8) ++ leBytes 4 0
  b ++ leBytes 4 (crc32c b)

/-! Seal checks by engines (R381). -/

/-- An engine's check of a block fails: the owning seal unit counts it, with the code that the checking engine logs (R381,
R486). -/
def State.sealFail (s : State) (k code : Nat) : State :=
  let p := pgSeal (blockOwner (4096 * k)).1
  ((s.inc p R.SEAL.MISMATCHES).cause p 1).err p code k

/-- An engine checks blocks: `CHECKS` of the owning seal units rise, and each failed block is counted (R381, R401). -/
def State.check (s : State) (ks : List Nat) (code : Nat) : State :=
  ks.foldl (fun t k =>
    if inHost (4096 * k) then t
    else
      let u := (t.countRead k).inc64 (pgSeal (blockOwner (4096 * k)).1) R.SEAL.CHECKS_LO R.SEAL.CHECKS_HI 1
      if s.blockOk k then u else u.sealFail k code) s

/-- An engine reads ranges and checks their blocks (R24, R381). -/
def State.readChecked (s : State) (rs : List (Nat × Nat)) (code : Nat) : State := (s.cacheReads rs (blocksOfAll rs)).check (blocksOfAll rs) code

/-- A sealed write whose merges are checked and counted (R381, R382), with the blocks whose merge failed. -/
def State.merge (s : State) (a : Nat) (b : List Byte) (code : Nat) : State × List Nat := (s.check (partBlocks a b.length) code).store a b

/-- An access to no installed address (R304): the memory-side die's `ACCESS_FAULTS` counts it, `FAULT_ADDR` records it and event
0x0702 is logged with die, task type and the low half of the address. For an engine of a gradient or array die the count is at
die A of the engine's quadrant (DEDUCED, log 27). -/
def State.accessFault (s : State) (die addr type : Nat) : State :=
  let p := pgMemDie die
  (((((s.inc p R.MEM_DIE.ACCESS_FAULTS).wf p R.MEM_DIE.FAULT_ADDR_LO addr).wf p R.MEM_DIE.FAULT_ADDR_HI_ADDR (addr / 2 ^ 32)).err p
    0x0702 addr).log p 0x0702 [die, type, addr % 2 ^ 32]).cause p 0

end Sys2Proof.Machine
end

