-- ==== Sys2Proof/Machine/Buttons.lean ====
section
/-! DEFINITION. Buttons (R275, R276): two words each, their level, and the changes that signals, operations, atomics, watch
additions and the device manager make. The waits on a button are evaluated again by Machine/Tasks.lean. -/

namespace Sys2Proof.Machine

/-- `VALUE` of a button. -/
def State.btnValue (s : State) (b : Nat) : Word := s.reg (offButton b)

/-- `BASE` of a button. -/
def State.btnBase (s : State) (b : Nat) : Word := s.reg (offButton b + 4)

/-- The level of a button: `VALUE` less `BASE`, a signed word (R275). -/
def State.level (s : State) (b : Nat) : Int := (s.btnValue b - s.btnBase b).toInt

/-- A button with a new `VALUE`. -/
def State.setValue (s : State) (b : Nat) (w : Word) : State := s.setReg (offButton b) w

/-- A button with a new `BASE`. -/
def State.setBase (s : State) (b : Nat) (w : Word) : State := s.setReg (offButton b + 4) w

/-- An addition to a button, wrapping. -/
def State.addButton (s : State) (b : Nat) (n : Nat) : State := s.setValue b (s.btnValue b + BitVec.ofNat 32 n)

/-- The level of a button becomes 0 (R280 operation 3). -/
def State.rebase (s : State) (b : Nat) : State := s.setBase b (s.btnValue b)

/-- A range of buttons rebased (R280 operation 5, R290). -/
def State.rebaseRange (s : State) (b n : Nat) : State := (List.range n).foldl (fun t i => t.rebase (b + i)) s

/-- A graph button: one that a graph task may signal (R275). -/
def graphButton (b : Nat) : Bool := decide (256 ≤ b) && decide (b < 16384)

/-- A signal or operation on a device-manager button is not made: it is counted, and event 0x0604 is logged (R275, R302). -/
def State.refuseButton (s : State) (queue index b : Nat) : State :=
  let t := s.inc pgSched R.GRAPH_SCHED.BTN_ERR_COUNT
  let t := (t.wf pgSched R.GRAPH_SCHED.BTN_ERR_LAST_EVENT 0x0604).wf pgSched R.GRAPH_SCHED.BTN_ERR_LAST_BUTTON b
  (t.log pgSched 0x0604 [queue, index, b]).cause pgSched 3

/-- A refusal that logs no event (R35, R359): counted, with event code 0. -/
def State.refuseButtonQuiet (s : State) (b : Nat) : State :=
  let t := s.inc pgSched R.GRAPH_SCHED.BTN_ERR_COUNT
  ((t.wf pgSched R.GRAPH_SCHED.BTN_ERR_LAST_EVENT 0).wf pgSched R.GRAPH_SCHED.BTN_ERR_LAST_BUTTON b).cause pgSched 3

/-- A graph task adds to a button (R275, R278). -/
def State.signal (s : State) (queue index b : Nat) : State :=
  if graphButton b then s.addButton b 1 else s.refuseButton queue index b

end Sys2Proof.Machine
end

