-- ==== Sys2Proof/Machine/Watch.lean ====
section
/-! DEFINITION. The numerics watches (chapter 10): counts of layers, running estimates, decisions at hems, watch table. -/

namespace Sys2Proof.Machine

/-! Counts. -/

/-- No counts. -/
def Counts.none : Counts := ⟨0, 0, 0, 0, 0, 0, 0, 0, 0, 0, 0, 0, 0, 0, 0, 0⟩

/-- Two counts added. -/
def Counts.add (a b : Counts) : Counts where
  elems     := a.elems + b.elems
  zeros     := a.zeros + b.zeros
  sat       := a.sat + b.sat
  nonfin    := a.nonfin + b.nonfin
  satBlocks := a.satBlocks + b.satBlocks
  vanished  := a.vanished + b.vanished
  conv      := a.conv + b.conv
  satConv   := a.satConv + b.satConv
  clipConv  := a.clipConv + b.clipConv
  ovf       := a.ovf + b.ovf
  rereads   := a.rereads + b.rereads
  accNonfin := a.accNonfin + b.accNonfin
  invalid   := a.invalid + b.invalid
  overflow  := a.overflow + b.overflow
  divzero   := a.divzero + b.divzero
  clipped   := a.clipped + b.clipped

/-- A layer entry that nothing has reached. -/
def LayerWatch.fresh : LayerWatch :=
  ⟨List.replicate 8 Counts.none, List.replicate 8 Counts.none, 0, 0, 0, 0, false, 0, 0, 0, 0⟩

/-- The entry of a layer. -/
def State.layer (s : State) (l : Nat) : LayerWatch := aget s.layers l LayerWatch.fresh

/-- The state with the entry of a layer replaced. -/
def State.setLayer (s : State) (l : Nat) (w : LayerWatch) : State := { s with layers := aput s.layers l w }

/-- Counts of one task reach the hem window and the totals of their layer and role (R249, R255, R262). -/
def State.watchAdd (s : State) (l role : Nat) (c : Counts) : State :=
  if 4096 ≤ l then s
  else
    let w := s.layer l
    s.setLayer l { w with
      window := setNth w.window role ((nth w.window role Counts.none).add c)
      totals := setNth w.totals role ((nth w.totals role Counts.none).add c) }

/-- A task of an unwatched layer (R249): counted once, with event 0x0509. -/
def State.unwatched (s : State) (l type : Nat) : State :=
  let p := pgWatch (l % 4)
  ((s.inc p R.NUMWATCH.UNWATCHED_COUNT).log p 0x0509 [l, type]).cause p 5

/-! The watch table (R264, Table 10-4). -/

/-- The entry of a layer in force; zeros before the first load. -/
def State.watchEntry (s : State) (l : Nat) : List Byte := aget s.wtable l (List.replicate 16 0)

/-- `WE_CLIP_MAX`. -/
def weClipMax (e : List Byte) : Nat := fieldAt e 0 2
/-- `WE_SAT_MAX`. -/
def weSatMax (e : List Byte) : Nat := fieldAt e 2 2
/-- `WE_RESCALE_BTN`, when it names a graph button. -/
def weRescale (e : List Byte) : Option Nat := if graphButton (fieldAt e 4 2) then some (fieldAt e 4 2) else none
/-- `WE_IN_SLOT` as (layer, role), unless 0xFFFF names none. -/
def weInSlot (e : List Byte) : Option (Nat × Nat) :=
  if fieldAt e 6 2 == 0xFFFF then none else some (fieldAt e 6 2 / 8, fieldAt e 6 2 % 8)
/-- `WE_IN_FMT`. -/
def weInFmt (e : List Byte) : Nat := fieldAt e 8 1 % 64
/-- `WE_OPND_FMT`. -/
def weOpndFmt (e : List Byte) : Nat := fieldAt e 9 1 % 64
/-- A bit of `WE_FLAGS`: 0 `NO_WIDEN`, 1 `NO_REPLAY`, 2 `ACC_WIDE`, 3 `ACC_LADDER`. -/
def weFlag (e : List Byte) (i : Nat) : Bool := bit (fieldAt e 10 1) i
/-- `WE_WIDEN_MAX`; 0 acts as 3. -/
def weWidenMax (e : List Byte) : Nat := if fieldAt e 11 1 % 4 == 0 then 3 else fieldAt e 11 1 % 4
/-- `WE_RATIO_ALARM`. -/
def weRatioAlarm (e : List Byte) : Nat := fieldAt e 12 4

/-! Ladders (Table 3-9). -/

/-- The next array-input rung; the gradient-core rung is KF16. -/
def nextIn (f : Nat) : Option Nat :=
  match f with
  | 0x08 => some 0x09
  | 0x09 => some 0x0A
  | 0x0A => some 0x11
  | _ => none

/-- The next digital-operand rung. -/
def nextOpnd (f : Nat) : Option Nat :=
  match f with
  | 0x10 | 0x14 | 0x08 => some 0x11
  | 0x11 | 0x09 | 0x0A | 0x12 => some 0x20
  | _ => none

/-- The rungs of a layer: array input, digital operand, wide accumulator. -/
structure Rungs where
  inFmt   : Nat
  opndFmt : Nat
  accWide : Bool
deriving DecidableEq, Repr

/-- The base rungs of an entry (R259). -/
def baseRungs (e : List Byte) : Rungs := ⟨weInFmt e, weOpndFmt e, weFlag e 2⟩

/-- The climb that the causes name (Table 10-2, R259), and whether a ladder moved. A ladder exists only when its base names a
format of its role; `b` holds the base. -/
def climb (e : List Byte) (causes : Nat) (r : Rungs) : Rungs × Bool :=
  let hasIn := (nextIn (weInFmt e)).isSome
  let i := if !hasIn then r.inFmt
    else if bit causes 0 then 0x11
    else if bit causes 1 then (nextIn r.inFmt).getD r.inFmt else r.inFmt
  let o := if bit causes 1 then (nextOpnd r.opndFmt).getD r.opndFmt else r.opndFmt
  let a := r.accWide || (bit causes 2 && weFlag e 3)
  (⟨i, o, a⟩, i != r.inFmt || o != r.opndFmt || a != r.accWide)

/-- The hard causes of a hem window (Table 10-2), bit n − 1 for cause n. -/
def hardCauses (w : List Counts) : Nat :=
  let r i := nth w i Counts.none
  b2n ((r 0).ovf + (r 1).ovf != 0) + 2 * b2n ((List.range 6).any fun i => (r i).satBlocks != 0) + 4 * b2n ((r 2).accNonfin != 0) +
    8 * b2n ((r 3).overflow != 0)

/-- Conversions, saturated and clipped, of the array roles. -/
def arrayConv (w : List Counts) : Nat × Nat × Nat :=
  let c := (nth w 0 Counts.none).add (nth w 1 Counts.none)
  (c.conv, c.satConv, c.clipConv)

/-- Soft trouble of a hem window (R255). -/
def softTrouble (e : List Byte) (w : List Counts) : Bool :=
  let c := arrayConv w
  c.1 != 0 && ((weClipMax e != 0 && decide (weClipMax e * c.1 < c.2.2 * 65536)) ||
    (weSatMax e != 0 && decide (weSatMax e * c.1 < c.2.1 * 65536)))

/-- A share in units of 2^−16, 0xFFFF where it would reach 65,536, 0 of nothing (R262). -/
def share (n total : Nat) : Nat := if total == 0 then 0 else Nat.min (n * 65536 / total) 0xFFFF

/-! The running estimate (R251 to R254). -/

/-- The estimator slot of a layer and role. -/
def State.slot (s : State) (l role : Nat) : Word := aget s.slots (l * 8 + role) 0

/-- The state with an estimator slot replaced. -/
def State.setSlot (s : State) (l role : Nat) (w : Word) : State := { s with slots := aput s.slots (l * 8 + role) w }

/-- `AMAX` of a slot as a magnitude; infinity is the largest finite KF16 value (R251). -/
def slotAmax (w : Word) : Nat := if w.toNat % 65536 == 0x7E00 then 0x7DFF else w.toNat % 65536

/-- The slot acts as `VALID` 0: NaN or a set sign bit (R251). -/
def slotBad (w : Word) : Bool := decide (0x7E00 < w.toNat % 65536)

/-- A conversion that uses the slot runs a measuring pre-pass (R254). -/
def slotPrepass (w : Word) : Bool := !bit w.toNat 16 || bit w.toNat 17 || slotBad w || w.toNat % 65536 == 0

/-- The one exponent of a conversion into a KA format or KF8B under `EXP_SRC` 0 (R251). -/
def slotExponent (f : Fmt) (amax : Nat) : Nat := fitExponent f.fitTop (4 * (mKF16.decode amax).q)

/-- The format takes an exponent, so that a conversion under `EXP_SRC` 0 uses a slot (R251). -/
def Fmt.scaled (f : Fmt) : Bool := f.isKA || f == .kf8b

/-- `AMAX` after a conversion with largest source `p` (KF16) and vanished blocks (R253). -/
def nextAmax (amax p vanished : Nat) : Nat :=
  let a := (mKF16.decode amax).q
  let v := (mKF16.decode p).q
  if a ≤ v then p
  else
    let f : Rat := if 0 < vanished then 1 / 2 else 7 / 8
    let r := (mKF16.encode .rne (.of (a * f))).1
    if (mKF16.decode r).q ≤ v then p else r

/-- A slot word. -/
def mkSlot (lastE : Nat) (measure valid : Bool) (amax : Nat) : Word :=
  BitVec.ofNat 32 (lastE % 256 * 2 ^ 24 + b2n measure * 2 ^ 17 + b2n valid * 2 ^ 16 + amax % 2 ^ 16)

/-- The correction of a slot when its conversion completes (R253): `VALID` 1, `LAST_E` the exponent used; a `MEASURE` that a decision has
set while the task ran stays. -/
def State.estimate (s : State) (l role p lastE vanished : Nat) : State :=
  if 4096 ≤ l then s
  else s.setSlot l role (mkSlot lastE (bit (s.slot l role).toNat 17) true (nextAmax (slotAmax (s.slot l role)) p vanished))

/-- A pre-pass sets `AMAX` of a slot; the full run that starts sets `VALID` and clears `MEASURE` (R254). -/
def State.measureSlot (s : State) (l role p : Nat) : State :=
  s.setSlot l role (mkSlot ((s.slot l role).toNat / 2 ^ 24) false true p)

/-- A task runs a pre-pass: counted once, with event 0x0507 for each slot it measures that is marked `MEASURE` (R254, R267). -/
def State.notePrepass (s : State) (l : Nat) (roles : List Nat) : State :=
  let p := pgWatch (l % 4)
  (roles.filter fun r => bit (s.slot l r).toNat 17).foldl (fun u r => u.log p 0x0507 [l, r]) (s.inc p R.NUMWATCH.PREPASS_COUNT)

/-! The decision at a hem (R260). -/

/-- What a watch answers a HEM. -/
inductive Answer where
  | close
  | repeatIt (r : Rungs)
  | replay (clip sat : Nat)
deriving DecidableEq, Repr

/-- Formats in force as an event's detail item: input, operand, accumulator in the bytes 3, 2 and 1, as `L_RUNG` has them. -/
def Rungs.code (r : Rungs) : Nat := r.inFmt * 2 ^ 24 + r.opndFmt * 2 ^ 16 + b2n r.accWide * 2 ^ 8

/-- `L_RUNG` of a hem (Table 10-6). -/
def rungWord (r : Rungs) (repeats causes : Nat) : Word :=
  BitVec.ofNat 32 (r.inFmt % 64 * 2 ^ 24 + r.opndFmt % 64 * 2 ^ 16 + b2n r.accWide * 2 ^ 8 + repeats % 4 * 2 ^ 6 + causes % 16)

/-- The rungs in force for a layer in its present hem. -/
def State.rungs (s : State) (l : Nat) : Rungs :=
  let w := s.layer l
  if w.repeats == 0 then baseRungs (s.watchEntry l) else ⟨w.inFmt, w.opndFmt, w.accWide⟩

/-- The state of a layer after its hard causes were judged: causes and rungs noted, and shown in `L_RUNG`. -/
def LayerWatch.noteHem (w : LayerWatch) (causes repeats : Nat) (r : Rungs) : LayerWatch :=
  { w with causes := causes, repeats := repeats, inFmt := r.inFmt, opndFmt := r.opndFmt, accWide := r.accWide
           lRung := rungWord r repeats causes }

/-- The end of a hem for a layer: the next starts from the base (R259); with `clear` its window is cleared (R255). -/
def State.endHem (s : State) (l : Nat) (clear : Bool) : State :=
  let w := s.layer l
  s.setLayer l { w with repeats := 0, causes := 0, window := if clear then List.replicate 8 Counts.none else w.window }

/-- Hard overflow at a hem (R258 to R260): the causes, the climb and the events; `true` when the answer is REPEAT. -/
def State.judgeHard (s : State) (l : Nat) : State × Bool :=
  let p := pgWatch (l % 4)
  let e := s.watchEntry l
  let w := s.layer l
  let causes := hardCauses w.window
  let all := w.causes ||| causes
  let r0 := s.rungs l
  if causes == 0 then (s.setLayer l (w.noteHem all w.repeats r0), false)
  else
    let s := if w.causes == 0 then s.inc p R.NUMWATCH.HARD_COUNT else s
    let c := climb e causes r0
    let s := (s.cause p 1).log p 0x0504 [l, causes, c.1.code]
    if c.2 && !weFlag e 0 && decide (w.repeats < weWidenMax e) then
      (s.setLayer l { w.noteHem all (w.repeats + 1) c.1 with window := List.replicate 8 Counts.none }, true)
    else
      let s := s.setLayer l (w.noteHem all w.repeats c.1)
      let s := if !c.2 then s.log p 0x0505 [l, causes]
        else if !weFlag e 0 then s.log p 0x0506 [l, weWidenMax e] else s
      (s, false)

/-- Soft trouble at a hem (R255, R256): `MEASURE` in the input slot; the answer REPLAY, or the rescale button at once. -/
def State.judgeSoft (s : State) (l : Nat) (mine : Bool) : State × Answer :=
  let p := pgWatch (l % 4)
  let e := s.watchEntry l
  let w := s.layer l
  if softTrouble e w.window then
    let c := arrayConv w.window
    let clip := share c.2.2 c.1
    let sat := share c.2.1 c.1
    let s := (s.inc p R.NUMWATCH.SOFT_COUNT).cause p 0
    let s := s.whenSome (weInSlot e) fun s (il, ir) => if il < 4096 then s.setSlot il ir (setBits (s.slot il ir) 17 17 1) else s
    let reps := s.rf p R.NUMWATCH.REPLAY_STATE_REPLAYS
    let max := s.rf p R.NUMWATCH.REPLAY_MAX_MAX
    if mine && decide (reps < max) && !weFlag e 1 then (s.endHem l false, .replay clip sat)
    else
      let s := s.whenSome (weRescale e) fun s b => s.addButton b 1
      let s := if mine && !weFlag e 1 then (s.log p 0x0502 [l, reps]).cause p 2 else s.log p 0x0503 [l, clip, sat]
      (s.endHem l true, .close)
  else (s.endHem l true, .close)

/-- The decision of the owning watch (R260). `mine`: the replay window is open and held by the HEM's queue for its step. -/
def State.askWatch (s : State) (l : Nat) (mine : Bool) : State × Answer :=
  let p := pgWatch (l % 4)
  let s := s.inc p R.NUMWATCH.DECISIONS
  let h := s.judgeHard l
  if h.2 then (h.1, .repeatIt (h.1.rungs l)) else h.1.judgeSoft l mine

/-- The scheduler reports the start of a replay to all four watches (R257). `own` is the layer whose watch asked, with its
shares. -/
def State.replayStarted (s : State) (own : Nat) (clip sat : Nat) : State :=
  let s := (List.range 4).foldl (fun t q =>
    t.wf (pgWatch q) R.NUMWATCH.REPLAY_STATE_REPLAYS (Nat.min 7 (t.rf (pgWatch q) R.NUMWATCH.REPLAY_STATE_REPLAYS + 1))) s
  let s := { s with layers := s.layers.map fun (p : Nat × LayerWatch) => (p.1, { p.2 with window := List.replicate 8 Counts.none }) }
  let s := s.log (pgWatch (own % 4)) 0x0501 [own, clip, sat]
  match weRescale (s.watchEntry own) with
  | some b => s.addButton b 1
  | none => s

/-- A STEP_OPEN reports its step to all four watches (R257, R293). -/
def State.watchStep (s : State) (step : Nat) : State :=
  (List.range 4).foldl (fun t q =>
    let p := pgWatch q
    let t := if t.rf64 p R.NUMWATCH.STEP_LO R.NUMWATCH.STEP_HI == step then t else t.wf p R.NUMWATCH.REPLAY_STATE_REPLAYS 0
    (t.wf64 p R.NUMWATCH.STEP_LO R.NUMWATCH.STEP_HI step).wf p R.NUMWATCH.REPLAY_STATE_WINDOW 1) s

/-- The replay window closes: `REPLAY_STATE.WINDOW` of every watch reads 0. -/
def State.watchWindowShut (s : State) : State :=
  (List.range 4).foldl (fun t q => t.wf (pgWatch q) R.NUMWATCH.REPLAY_STATE_WINDOW 0) s

/-- Whether binary32 `r` exceeds a positive, finite alarm limit (R263). -/
def ratioAlarm (r limit : Nat) : Bool :=
  decide (0 < limit) && decide (limit < 0x7F800000) && (d32 limit).less (d32 r)

/-- The ratio of a commit reaches the watch (R228, R263). -/
def State.watchRatio (s : State) (l r : Nat) : State :=
  if 4096 ≤ l then s
  else
    let w := s.layer l
    let a := ratioAlarm r (weRatioAlarm (s.watchEntry l))
    let mx := if (d32 w.ratioMx).less (d32 r) then r else w.ratioMx
    let s := s.setLayer l { w with ratio := r, ratioMx := mx, alarms := if a then Nat.min (w.alarms + 1) (2 ^ 32 - 1) else w.alarms }
    if a then (s.log (pgWatch (l % 4)) 0x0508 [l, r]).cause (pgWatch (l % 4)) 3 else s

/-! The estimator and watch tables (R264, R265). -/

/-- A range wholly in the installed part of one of Tier A, Tier B and the SRAM window (R264, R265). -/
def deviceRange (a len : Nat) : Bool := rangeOk a len && !inHost a

/-- A watch's table or estimator operation fails: `TABLE_ERR`, event 0x050A and the page's error count (R264, R486). -/
def State.tableErr (s : State) (q addr : Nat) : State :=
  ((s.err (pgWatch q) 0x050A 0).log (pgWatch q) 0x050A [q, addr % 2 ^ 32]).cause (pgWatch q) 4

/-- `WT_CTL.LOAD` (R264). -/
def State.loadWatchTable (s : State) (q : Nat) : State :=
  let p := pgWatch q
  let a := s.rf64 p R.NUMWATCH.WT_ADDR_LO_ADDR R.NUMWATCH.WT_ADDR_HI_ADDR
  if !deviceRange a 16384 then s.tableErr q a
  else
    let ks := blocksOf a 16384
    let t := s.check ks 0x050A
    if (s.firstBad ks).isSome then t.tableErr q a
    else
      let rows := (List.range 1024).map fun i => (4 * i + q, s.bytes (a + 16 * i) 16)
      let kept := s.wtable.filter fun r => r.1 % 4 != q
      ({ t with wtable := rows.foldl (fun (l : List (Nat × List Byte)) (r : Nat × List Byte) => if r.2.all (· == 0) then l else aput l r.1 r.2) kept }).wf p R.NUMWATCH.WT_CTL_LOADED 1

/-- The estimator table of a watch in index order (R265). -/
def State.estBytes (s : State) (q : Nat) : List Byte :=
  (List.range 8192).flatMap fun i => leBytes 4 (s.slot (4 * (i / 8) + q) (i % 8)).toNat

/-- The slots of a watch taken from 32 KiB of table, reserved bits as 0 (R46, R265). -/
def State.takeEst (s : State) (q : Nat) (b : List Byte) : State :=
  let kept := s.slots.filter fun r => r.1 / 8 % 4 != q
  let words := (List.range 8192).map fun i => ((4 * (i / 8) + q) * 8 + i % 8, setBits (BitVec.ofNat 32 (fieldAt b (4 * i) 4)) 23 18 0)
  { s with slots := words.foldl (fun (l : List (Nat × Word)) (r : Nat × Word) => if r.2 = 0 then l else aput l r.1 r.2) kept }

/-- A restore has loaded the estimator of a watch: its windows are cleared, and `REPLAYS` is 0 (R255, R257, Table 10-3). -/
def State.freshWatch (s : State) (q : Nat) : State :=
  ({ s with layers := s.layers.map fun (p : Nat × LayerWatch) =>
      if p.1 % 4 == q then (p.1, { p.2 with window := List.replicate 8 Counts.none }) else p }).wf (pgWatch q) R.NUMWATCH.REPLAY_STATE_REPLAYS 0

/-- `EST_CTL.OP` SAVE at an address (R265). -/
def State.saveEst (s : State) (q a : Nat) : State :=
  if !deviceRange a 32768 then s.tableErr q a else s.putSealed a (s.estBytes q)

/-- `EST_CTL.OP` LOAD from an address (R265), by the host or, with `restore`, by a restore. -/
def State.loadEst (s : State) (q a : Nat) (restore : Bool) : State :=
  if !deviceRange a 32768 then s.tableErr q a
  else
    let ks := blocksOf a 32768
    let t := s.check ks 0x050A
    if (s.firstBad ks).isSome then t.tableErr q a
    else if restore then (t.takeEst q (s.bytes a 32768)).freshWatch q else t.takeEst q (s.bytes a 32768)

/-- `EST_CTL.OP` CLEAR: every slot of the watch becomes invalid (R265). -/
def State.clearEst (s : State) (q : Nat) : State :=
  { s with slots := s.slots.map fun (r : Nat × Word) => if r.1 / 8 % 4 == q then (r.1, setBits r.2 16 16 0) else r }

/-- The address of `EST_ADDR`. -/
def State.estAddr (s : State) (q : Nat) : Nat :=
  s.rf64 (pgWatch q) R.NUMWATCH.EST_ADDR_LO_ADDR R.NUMWATCH.EST_ADDR_HI_ADDR

/-- WT_LOAD (R264). -/
def execWtLoad (view : View) (q : Quad) (s : State) : Host.Outcome State Fault Refusal :=
  .next (s.onWrite view (pgWatch q) false fun s =>
    s.whenFree [(s.rf64 (pgWatch q) R.NUMWATCH.WT_ADDR_LO_ADDR R.NUMWATCH.WT_ADDR_HI_ADDR, 16384)] fun s => s.loadWatchTable q)

/-- EST_SAVE (R265). -/
def execEstSave (view : View) (q : Quad) (s : State) : Host.Outcome State Fault Refusal :=
  .next (s.onWrite view (pgWatch q) true fun s => s.whenFree [(s.estAddr q, 32768)] fun s => s.saveEst q (s.estAddr q))

/-- EST_LOAD (R265). -/
def execEstLoad (view : View) (q : Quad) (s : State) : Host.Outcome State Fault Refusal :=
  .next (s.onWrite view (pgWatch q) true fun s => s.whenFree [(s.estAddr q, 32768)] fun s => s.loadEst q (s.estAddr q) false)

/-- EST_CLEAR (R265). -/
def execEstClear (view : View) (q : Quad) (s : State) : Host.Outcome State Fault Refusal :=
  .next (s.onWrite view (pgWatch q) true fun s => s.clearEst q)

end Sys2Proof.Machine
end

