-- ==== Sys2Proof/Machine/Operands.lean ====
section
/-! DEFINITION. Operand forms: the descriptor header (R272), the engine hint (R286), and tensors in memory as chapter 03 lays them
out: element planes, exponent planes, packed codes. -/

namespace Sys2Proof.Machine

/-! Descriptors. -/

/-- `n` bytes of a task's descriptor from byte `o`, little-endian. -/
def Task.fld (t : Task) (o n : Nat) : Nat := fieldAt t.desc o n

/-- `TYPE`. -/
def Task.type (t : Task) : Nat := t.fld 0 1

/-- A bit of the flags byte: 0 `FENCE`, 1 `COND`, 2 `LONGSUM`, 3 `SEALCHK`, 4 `REPLAYABLE`, 5 `IRQ`. -/
def descFlag (d : List Byte) (i : Nat) : Bool := bit (fieldAt d 2 1) i

/-- A bit of a task's flags byte. -/
def Task.flag (t : Task) (i : Nat) : Bool := descFlag t.desc i

/-- `HINT`. -/
def Task.hint (t : Task) : Nat := t.fld 3 1

/-- `WAITn`: button and threshold, when used. -/
def descWait (d : List Byte) (n : Nat) : Option (Nat × Nat) :=
  if fieldAt d (4 + 4 * n) 2 == 0xFFFF then none else some (fieldAt d (4 + 4 * n) 2, fieldAt d (6 + 4 * n) 2)

/-- The used waits in ascending order. -/
def descWaits (d : List Byte) : List (Nat × Nat) := (List.range 4).filterMap (descWait d)

/-- The used signals: button, and whether only a success makes it. -/
def descSignals (d : List Byte) : List (Nat × Bool) :=
  [fieldAt d 20 2, fieldAt d 22 2].filterMap fun w => if bit w 15 then some (w % 2 ^ 14, bit w 14) else none

/-- `CMPL_INDEX`. -/
def Task.cmplIndex (t : Task) : Nat := t.fld 28 4

/-- `LAYER` of a task's body, for the types whose body begins with it. -/
def Task.layer (t : Task) : Nat := t.fld 32 2

/-- The engine classes of Table 11-2. -/
inductive EngineClass where
  | scheduler
  | array
  | gradient
  | vector
  | memory
  | update
  | fabric
  | checkpoint
deriving DecidableEq, Repr

/-- The class of a task type; reserved types run as NOP (R273). -/
def typeClass (t : Nat) : EngineClass :=
  match t with
  | 0x10 | 0x11 | 0x12 => .array
  | 0x20 => .gradient
  | 0x30 | 0x31 => .vector
  | 0x40 | 0x41 | 0x42 => .memory
  | 0x50 => .update
  | 0x51 | 0x60 | 0x61 | 0x62 => .fabric
  | 0x70 | 0x71 => .checkpoint
  | _ => .scheduler

/-- An address field of an operand record: its upper 12 bits are reserved. -/
def recAddr (o : List Byte) (i : Nat) : Nat := fieldAt o i 8 % 2 ^ 52

/-- `n` numbers of `w` bytes. -/
def State.nums (s : State) (a n w : Nat) : List Nat := (List.range n).map fun i => s.num (a + w * i) w

/-- A success status (Table 11-6). -/
def success (st : Nat) : Bool := decide (st ≤ 5)

/-! Status codes (Table 11-6). -/

def stDone : Nat := 0x00
def stWidened : Nat := 0x01
def stClipped : Nat := 0x02
def stReplayed : Nat := 0x03
def stSkipped : Nat := 0x04
def stPartial : Nat := 0x05
def stHeld : Nat := 0x08
def stAborted : Nat := 0x09
def stSeal : Nat := 0x10
def stDisagree : Nat := 0x11
def stNonfinite : Nat := 0x12
def stStale : Nat := 0x13
def stSkew : Nat := 0x14
def stTimeout : Nat := 0x18
def stMaintBusy : Nat := 0x19
def stSpares : Nat := 0x1A
def stRetired : Nat := 0x1B
def stDigest : Nat := 0x1C
def stHeader : Nat := 0x1D

/-! Tensors in memory (chapter 03). -/

/-- Element `i` of a run of stored elements: its raw bits (Table 3-1); packed weight codes lie four to a byte (R62). -/
def rawAt (f : Fmt) (b : List Byte) (i : Nat) : Nat :=
  if f.isCode then fieldAt b (i / 4) 1 / 2 ^ (2 * (i % 4)) % 4
  else
    let w := fieldAt b (i * f.bytes) f.bytes
    if f == .ka12 then w % 2 ^ 12 else w

/-- The stored bytes of elements; weight codes are packed four to a byte. -/
def packRaws (f : Fmt) (raws : List Nat) : List Byte :=
  if f.isCode then
    (List.range ((raws.length + 3) / 4)).map fun i =>
      BitVec.ofNat 8 (((List.range 4).map fun j => nth raws (4 * i + j) 0 % 4 * 4 ^ j).sum)
  else raws.flatMap fun r => leBytes f.bytes (storeBits f r)

/-- A row-major tensor in memory: format, element plane, exponent plane (or the column scales of a weight-code tensor), stored rows
and columns. -/
structure Tensor where
  fmt  : Fmt
  elem : Nat
  exp  : Nat
  rows : Nat
  cols : Nat
deriving DecidableEq, Repr

/-- Elements of a stored row with its padding: whole blocks, whole groups, whole bytes of codes (R188). -/
def Tensor.stride (x : Tensor) : Nat :=
  let up (n : Nat) := (x.cols + n - 1) / n * n
  if x.fmt.isCode then up 4 else if x.fmt.block == 0 then x.cols else up x.fmt.block

/-- Bytes of a stored row. -/
def Tensor.rowBytes (x : Tensor) : Nat := if x.fmt.isCode then x.stride / 4 else x.stride * x.fmt.bytes

/-- Exponent bytes of a stored row. -/
def Tensor.rowExps (x : Tensor) : Nat := if x.fmt.block == 0 then 0 else x.stride / x.fmt.block

/-- The ranges of memory that a tensor takes: elements, then exponents or scales. -/
def Tensor.ranges (x : Tensor) : List (Nat × Nat) :=
  [(x.elem, x.rows * x.rowBytes)] ++
    (if x.fmt.isCode then [(x.exp, 2 * x.cols)] else if x.fmt.block == 0 then [] else [(x.exp, x.rows * x.rowExps)])

/-- The raw bits of an element. -/
def State.rawElem (s : State) (x : Tensor) (r c : Nat) : Nat :=
  if x.fmt.isCode then s.num (x.elem + r * x.rowBytes + c / 4) 1 / 4 ^ (c % 4) % 4
  else
    let w := s.num (x.elem + r * x.rowBytes + c * x.fmt.bytes) x.fmt.bytes
    if x.fmt == .ka12 then w % 2 ^ 12 else w

/-- The block exponent of an element; 127 for a format without one. -/
def State.elemExp (s : State) (x : Tensor) (r c : Nat) : Nat :=
  if x.fmt.block == 0 then 127 else (s.byte (x.exp + r * x.rowExps + c / x.fmt.block)).toNat

/-- The column scale of a weight-code tensor, KF16. -/
def State.colScale (s : State) (x : Tensor) (c : Nat) : Nat := s.num (x.exp + 2 * c) 2

/-- The exact value of an element (R81). -/
def State.elemAt (s : State) (x : Tensor) (r c : Nat) : FVal :=
  elemValue x.fmt (s.rawElem x r c) (s.elemExp x r c) (if x.fmt.isCode then s.colScale x c else 0)

/-- What a block of conversions counts for the watch (R82, R83, R250): elements, zeros, saturated, non-finite, and whether the block
is all-saturated or vanished, which only a target with block exponents counts. -/
def blockCounts (f : Fmt) (src : List FVal) (els : List Elem) : Counts :=
  let sat := (els.filter (·.sat)).length
  let zeros := (els.filter (·.zero)).length
  { Counts.none with
    elems := els.length
    zeros := zeros
    sat := sat
    nonfin := (els.filter (·.nonfin)).length
    satBlocks := b2n (f.scaled && !els.isEmpty && sat == els.length)
    vanished := b2n (f.scaled && zeros == els.length && src.any fun v => v.isFin && !v.isZero) }

/-- What the elements that were written count (R250): each is given with its address, its source and its outcome, and the blocks are left
to `blocks`, which lists the addresses of each with what it counts. -/
def writtenCounts (f : Fmt) (els : List (Nat × FVal × Elem)) (blocks : List (List Nat × Counts)) (ok : Nat → Bool) : Counts :=
  let w := els.filter fun e => ok e.1
  let whole := (blocks.filter fun b => b.1.all ok).map (·.2)
  { blockCounts f (w.map (·.2.1)) (w.map (·.2.2)) with
    satBlocks := (whole.map (·.satBlocks)).sum, vanished := (whole.map (·.vanished)).sum }

/-- An address lies in one of the runs of bytes written, in a block whose merge did not fail. -/
def wroteAt (ws : List (Nat × List Byte)) (bad : List Nat) (a : Nat) : Bool :=
  !bad.contains (a / 4096) && ws.any fun w => decide (w.1 ≤ a) && decide (a < w.1 + w.2.length)

/-- The largest finite magnitude of values (R69, R253). -/
def finitePeak (src : List FVal) : Rat := src.foldl (fun m v => if v.isFin && decide (m < rabs v.q) then rabs v.q else m) 0

/-- `EXP_SRC` as it acts: 3 acts as 0, and 0 as 1 for an unwatched layer (R110, R249). -/
def expSrc (code layer : Nat) : Nat :=
  let e := if code % 4 == 3 then 0 else code % 4
  if e == 0 && decide (4096 ≤ layer) then 1 else e

/-- The exponent of a block under an exponent source (R110, R251): 1 the fit exponent, 2 the given one, else the estimate's. -/
def blockExponent (f : Fmt) (src expo : Nat) (vals : List FVal) : Nat :=
  if !f.scaled then 0 else if src == 1 then fitExponent f.fitTop (finitePeak vals) else expo

end Sys2Proof.Machine
end

