-- ==== Sys2Proof/Machine/Fields.lean ====
section
/-! DEFINITION. What a register write does to the fields of its register (R33, R38, R45, R46, R49), and the commands that are bits
of registers of crossing points: `COUNT_CLEAR`, `PAT_FLUSH`, the sticky `FLAGS`. -/

namespace Sys2Proof.Machine

/-- The level in force is 1.1 or above (R47). -/
def State.level11 (s : State) : Bool :=
  let w := s.reg (pgDevice + R.DEVICE.HOST_LEVEL_MAJOR.off)
  decide (0x101 ≤ getBits w 15 0)

/-- A clamp is counted and its register recorded (R45). -/
def State.noteClamp (s : State) (view : View) (off : Nat) : State :=
  ((s.inc pgDevice R.DEVICE.CLAMP_COUNT).wf pgDevice R.DEVICE.CLAMP_LAST_VIEW (b2n (view == .bar2))).wf pgDevice
    R.DEVICE.CLAMP_LAST_OFFSET off

/-- One field of the register at `off` takes the written bits of its own range (R33, R45, R46, R49). -/
def State.writeFld (s : State) (view : View) (off : Nat) (w : Word) (f : Fld) : State :=
  if f.l11 && !s.level11 then s
  else
    let v := getBits w f.hi f.lo
    match f.acc with
    | .rw | .rwp =>
      if f.acc == .rwp && view == .bar2 then s
      else
        let c := f.legal.clamp v
        let t := s.setReg off (setBits (s.reg off) f.hi f.lo c)
        if c == v then t else t.noteClamp view off
    | .w1c => s.setReg off (setBits (s.reg off) f.hi f.lo (getBits (s.reg off) f.hi f.lo - (getBits (s.reg off) f.hi f.lo &&& v)))
    | _ => s

/-- Every field of the register at `off`. -/
def State.writeFlds (s : State) (view : View) (off : Nat) (w : Word) (fs : List Fld) : State :=
  fs.foldl (fun t f => t.writeFld view off w f) s

/-- A field that a write in a view may change. -/
def Fld.writable (f : Fld) (view : View) : Bool := f.acc == .rw || (f.acc == .rwp && view == .bar0)

/-- The fields of a page's register that no command row and no chapter treats otherwise take a written word; a LO half is held
until its HI half is written, which commits both (R38). -/
def State.plainWrite (s : State) (view : View) (off : Nat) (w : Word) : State :=
  match pageAt off with
  | none => s
  | some p =>
    let fs := p.cls.fieldsAt (off % 0x1000)
    if fs.any fun f => f.part == .lo && f.writable view then { s with pairHold := aput s.pairHold (off + 4) w }
    else if fs.any fun f => f.part == .hi && f.writable view then
      let lo := p.cls.fieldsAt (off % 0x1000 - 4)
      match aget? s.pairHold off with
      | some h => ({ s with pairHold := aerase s.pairHold off }).writeFlds view (off - 4) h lo |>.writeFlds view off w fs
      | none => s.writeFlds view off w fs
    else s.writeFlds view off w fs

/-! Counters. -/

/-- Every word of a page from `lo` to `hi` becomes 0. -/
def State.clearWords (s : State) (page lo hi : Nat) : State :=
  (List.range ((hi - lo) / 4 + 1)).foldl (fun t i => t.setReg (page + lo + 4 * i) 0) s

/-- What `COUNT_CLEAR` of a class clears. -/
def State.clearCounts (s : State) (c : Cls) (page : Nat) : State :=
  match c with
  | .panel => s.clearWords page 0x120 0x14C
  | .gradCore => s.clearWords page 0x120 0x140
  | .vecCore => s.clearWords page 0x120 0x140
  | .update => (s.clearWords page 0x120 0x12C).clearWords page 0x138 0x140
  | .numwatch => s.clearWords page 0x128 0x138
  | .graphSched => (((s.clearWords page 0x108 0x108).clearWords page 0x120 0x12C).clearWords page 0x134 0x134).clearWords page 0x138 0x138
  | .memDie => s.wf page R.MEM_DIE.ACCESS_FAULTS 0
  | .stackCtl | .tierbCtl => ({ s with traffic := aput s.traffic page (0, 0) }).clearWords page 0x120 0x124
  | .gather => s.clearWords page 0x104 0x114
  | .seamPort => s.clearWords page 0x108 0x12C
  | .collective => s.clearWords page 0x114 0x128
  | .seamMgmt => s.clearWords page 0x138 0x144
  | .maint => (s.clearWords page 0x104 0x104).clearWords page 0x128 0x138
  | .seal => s.clearWords page 0x130 0x140
  | .monitor => s.clearWords page 0x120 0x130
  | .power => (s.wf page R.POWER.INPUT_W_PEAK 0).wf page R.POWER.LIMIT_MS 0
  | _ => s

/-- The page offset of `COUNT_CLEAR` of a class. -/
def Cls.clearOff (c : Cls) : Option Nat :=
  match c with
  | .panel => some R.PANEL.COUNT_CLEAR_CLEAR.off
  | .gradCore => some R.GRAD_CORE.COUNT_CLEAR_CLEAR.off
  | .vecCore => some R.VEC_CORE.COUNT_CLEAR_CLEAR.off
  | .update => some R.UPDATE.COUNT_CLEAR_CLEAR.off
  | .numwatch => some R.NUMWATCH.COUNT_CLEAR_CLEAR.off
  | .graphSched => some R.GRAPH_SCHED.COUNT_CLEAR_CLEAR.off
  | .memDie => some R.MEM_DIE.COUNT_CLEAR_CLEAR.off
  | .stackCtl | .tierbCtl => some R.CTL.COUNT_CLEAR_CLEAR.off
  | .gather => some R.GATHER.COUNT_CLEAR_CLEAR.off
  | .seamPort => some R.SEAM_PORT.COUNT_CLEAR_CLEAR.off
  | .collective => some R.COLLECTIVE.COUNT_CLEAR_CLEAR.off
  | .seamMgmt => some R.SEAM_MGMT.COUNT_CLEAR_CLEAR.off
  | .maint => some R.MAINT.COUNT_CLEAR_CLEAR.off
  | .seal => some R.SEAL.COUNT_CLEAR_CLEAR.off
  | .monitor => some R.MONITOR.COUNT_CLEAR_CLEAR.off
  | .power => some R.POWER.COUNT_CLEAR_CLEAR.off
  | _ => none

/-- The totals that NUMWATCH `COUNT_CLEAR` clears beside the page's counters (R262). -/
def State.clearTotals (s : State) (q : Nat) : State :=
  { s with layers := s.layers.map fun (p : Nat × LayerWatch) =>
      if p.1 % 4 == q then (p.1, { p.2 with totals := List.replicate 8 Counts.none, ratio := 0, ratioMx := 0, alarms := 0 }) else p }

/-- The pattern store of a vector core becomes invalid (R208, R219). -/
def State.flushStore (s : State) (page : Nat) : State := s.wf page R.VEC_CORE.PAT_BASE_HI_VALID 0

/-- A write that applies between tasks to a page of a crossing point: fields and command bits (R13, R122, R193, R219). -/
def State.crossWrite (s : State) (view : View) (off : Nat) (w : Word) : State :=
  match pageAt off with
  | none => s
  | some p =>
    let page := 0x1000 * (off / 0x1000)
    let o := off % 0x1000
    if p.cls.clearOff == some o then (if bit w.toNat 0 then s.clearCounts p.cls page else s)
    else if p.cls == .vecCore && o == R.VEC_CORE.PAT_FLUSH_FLUSH.off then (if bit w.toNat 0 then s.flushStore page else s)
    else s.plainWrite view off w

/-- A crossing point is between tasks: no running task holds its page (R13). -/
def State.betweenTasks (s : State) (page : Nat) : Bool :=
  !s.tasks.any fun t => t.pages.contains page

/-- A register write to a crossing point applies now or is posted until its running task completes (R13). -/
def State.crossOrPost (s : State) (view : View) (off : Nat) (w : Word) : State :=
  if s.betweenTasks (0x1000 * (off / 0x1000)) then s.crossWrite view off w
  else { s with posted := s.posted ++ [⟨view, off, w⟩] }

/-- The posted writes of pages that have become free apply in order (R13). -/
def State.applyPosted (s : State) : State :=
  let due := s.posted.filter fun p => s.betweenTasks (0x1000 * (p.off / 0x1000))
  let rest := s.posted.filter fun p => !s.betweenTasks (0x1000 * (p.off / 0x1000))
  due.foldl (fun t p => t.crossWrite p.view p.off p.val) { s with posted := rest }

/-- The posted writes of one page apply at its next dispatch, whatever tasks of the die still run (R192). -/
def State.applyPage (s : State) (page : Nat) : State :=
  let mine (p : Posted) : Bool := 0x1000 * (p.off / 0x1000) == page
  (s.posted.filter mine).foldl (fun t p => t.crossWrite p.view p.off p.val) { s with posted := s.posted.filter fun p => !mine p }

end Sys2Proof.Machine
end

