-- ==== Sys2Proof/Machine/Tasks.lean ====
section
/-! DEFINITION. Tasks and their queues (chapter 11): readiness, conditions, the order of dispatch, the choice of unit, and
completion in the order of R285. -/

namespace Sys2Proof.Machine

/-! Ring indices: 32-bit, free-running (R268). -/

/-- How far index `b` lies after index `a`. -/
def idxGap (a b : Nat) : Nat := (b + 2 ^ 32 - a % 2 ^ 32) % 2 ^ 32

/-- Index `a` precedes index `b` in ring order. -/
def idxBefore (a b : Nat) : Bool := idxGap a b != 0 && decide (idxGap a b < 2 ^ 31)

/-- The index after `i`. -/
def idxNext (i : Nat) : Nat := (i + 1) % 2 ^ 32

/-! Queues. -/

/-- A queue of which the scheduler keeps nothing yet. -/
def QueueSt.fresh : QueueSt := ⟨0, none, 0, [], 0, none, 0, false, false, [], (0, 0, false)⟩

/-- What the scheduler keeps of a queue. -/
def State.queueSt (s : State) (q : Nat) : QueueSt := aget s.queues q QueueSt.fresh

/-- The state with that replaced. -/
def State.setQueue (s : State) (q : Nat) (v : QueueSt) : State := { s with queues := aput s.queues q v }

/-- `Q_CTL.EN`. -/
def State.queueOn (s : State) (q : Nat) : Bool := s.rf (pgQueue q) R.GRAPH_QUEUE.Q_CTL_EN == 1

/-- `HEAD`. -/
def State.head (s : State) (q : Nat) : Nat := s.rf (pgQueue q) R.GRAPH_QUEUE.HEAD
/-- `TAIL`. -/
def State.tail (s : State) (q : Nat) : Nat := s.rf (pgQueue q) R.GRAPH_QUEUE.TAIL
/-- `CONSUMED`. -/
def State.consumed (s : State) (q : Nat) : Nat := s.rf (pgQueue q) R.GRAPH_QUEUE.CONSUMED
/-- Slots of the ring. -/
def State.ringSize (s : State) (q : Nat) : Nat := 2 ^ s.rf (pgQueue q) R.GRAPH_QUEUE.RING_SIZE_LOG2
/-- The device address of the slot of an index (R268). -/
def State.slotAddr (s : State) (q i : Nat) : Nat :=
  s.rf64 (pgQueue q) R.GRAPH_QUEUE.RING_BASE_LO_ADDR R.GRAPH_QUEUE.RING_BASE_HI_ADDR + 64 * (i % s.ringSize q)

/-! Tasks. -/

/-- The fetched task of a sequence number. -/
def State.task? (s : State) (n : Nat) : Option Task := s.tasks.find? fun t => t.seq == n

/-- The state with a task replaced. -/
def State.setTask (s : State) (t : Task) : State := { s with tasks := s.tasks.map fun u => if u.seq == t.seq then t else u }

/-- The state without a task. -/
def State.dropTask (s : State) (n : Nat) : State :=
  { s with tasks := s.tasks.filter fun t => t.seq != n, arrOrder := s.arrOrder.filter (· != n) }

/-- The task has become ready and has not been dispatched. -/
def Task.isReady (t : Task) : Bool := match t.phase with | .ready _ => true | _ => false
/-- The task waits on its buttons. -/
def Task.isWaiting (t : Task) : Bool := match t.phase with | .waiting => true | _ => false
/-- The task has been handed over and has not completed. -/
def Task.isHanded (t : Task) : Bool := match t.phase with | .running => true | .finished _ _ _ _ => true | _ => false
/-- The task runs. -/
def Task.isRunning (t : Task) : Bool := match t.phase with | .running => true | _ => false

/-- A task was handed over after another, which counts as earlier where the tempo count does not tell them apart and it was fetched earlier;
one not handed over yet is later than all that are. -/
def Task.isLater (t u : Task) : Bool :=
  !t.isHanded || decide (u.startAt < t.startAt) || (u.startAt == t.startAt && decide (u.seq < t.seq))

/-- A task of its queue precedes a HEM: earlier in ring order, or an alternate task of it (R289, R298). -/
def Task.precedes (t h : Task) : Bool :=
  t.queue == h.queue && t.seq != h.seq && (idxBefore t.index h.index || (t.alt && t.index == h.index))

/-- All used waits pass at this moment (R277). -/
def State.waitsPass (s : State) (t : Task) : Bool := (descWaits t.desc).all fun w => decide ((w.2 : Int) ≤ s.level w.1)

/-- Every task of its queue that precedes a HEM has completed, those of a repeat among them (R289). -/
def State.drained (s : State) (h : Task) : Bool := (s.queueSt h.queue).again.isEmpty && !s.tasks.any fun t => t.precedes h

/-- The task becomes ready at this moment (R277, R289). -/
def State.becomesReady (s : State) (t : Task) : Bool :=
  t.isWaiting && s.waitsPass t && (t.type != 0x02 || s.drained t)

/-- A HEM of its queue holds the task back (R289). -/
def State.behindHem (s : State) (t : Task) : Bool :=
  s.tasks.any fun h => h.type == 0x02 && !h.alt && h.queue == t.queue && h.seq != t.seq && !t.precedes h

/-- The task is held back by a HEM, by `SCHED_CTL.HOLD` or `Q_CTL.PAUSE`, or by a snapshot point (R279, R287). -/
def State.heldBack (s : State) (t : Task) : Bool :=
  s.behindHem t || s.rf pgSched R.GRAPH_SCHED.SCHED_CTL_HOLD == 1 || s.rf (pgQueue t.queue) R.GRAPH_QUEUE.Q_CTL_PAUSE == 1 ||
    (s.snapAt.isSome && typeClass t.type != .checkpoint)

/-- The condition of a task skips it (Table 11-7). -/
def State.skips (s : State) (t : Task) : Bool :=
  let l := s.level (t.fld 24 2)
  let a : Int := (t.fld 27 1 : Nat)
  match t.fld 26 1 % 8 with
  | 0 => decide (l = 0)
  | 1 => decide (l ≠ 0)
  | 2 => decide (l < a)
  | _ => decide (a ≤ l)

/-! Interlocks of the classes (R236, R252, R287). -/

/-- A conversion under `EXP_SRC` into a format uses the estimator (R251); source 3 acts as 0. -/
def usesSlot (fmt src : Nat) : Bool :=
  (src % 4 == 0 || src % 4 == 3) && (match Fmt.ofCode (fmt % 64) with | some f => f.scaled | none => false)

/-- The `LAYER` field of a task's body. -/
def Task.layerOf (t : Task) : Nat :=
  match t.type with
  | 0x11 | 0x12 => t.fld 58 2
  | 0x20 | 0x30 => t.fld 54 2
  | 0x31 => t.fld 46 2
  | 0x50 => t.fld 60 2
  | _ => t.fld 32 2

/-- The address in an 8-byte field of the body: its upper 12 bits are reserved. -/
def Task.addr (t : Task) (o : Nat) : Nat := t.fld o 8 % 2 ^ 52

/-- The roles of the estimator slots that a task uses (Table 10-1). -/
def State.slotRoles (s : State) (t : Task) : List Nat :=
  match t.type with
  | 0x11 => if usesSlot (t.fld 53 1) (t.fld 56 1 / 16) then [0] else []
  | 0x12 => if usesSlot (t.fld 53 1) (t.fld 56 1 / 16) then [1] else []
  | 0x20 => if usesSlot (t.fld 50 1) (t.fld 51 1 / 16) then [2] else []
  | 0x30 =>
    [0, 1].filterMap fun i =>
      let e := s.bytes (t.addr 40 + 192 + 24 * i) 24
      if fieldAt e 0 8 % 2 ^ 52 != 0 && usesSlot (fieldAt e 16 1) (fieldAt e 17 1 / 16) && !bit (fieldAt e 17 1) 0 then some (3 + i) else none
  | 0x31 => if usesSlot (t.fld 41 1) (t.fld 42 1 / 16) then [5] else []
  | _ => []

/-- The estimator slots that a task uses, as (layer, role); none for an unwatched layer (R249). -/
def State.slotsUsed (s : State) (t : Task) : List (Nat × Nat) :=
  if 4096 ≤ t.layerOf then [] else (s.slotRoles t).map fun r => (t.layerOf, r)

/-- The state records that a task counts as a user of (R236, R391, R409, R414); a SNAPSHOT only until its marks are set, since an
UPDATE that follows meets the interlock of R239. -/
def State.recordsUsed (s : State) (t : Task) : List Nat :=
  let listed (a : Nat) : List Nat :=
    let m := a / 4096 * 4096
    (List.range (s.num m 2)).map fun i => s.num (m + 512 + 64 * i) 8 % 2 ^ 52
  match t.type with
  | 0x50 => [t.addr 40]
  | 0x51 => (List.range (t.fld 34 2)).map fun i => s.num (t.addr 40 / 64 * 64 + 8 * i) 8 % 2 ^ 52
  | 0x70 => if s.snaps.any fun x => x.task == t.seq && x.stage != 0 then [] else listed (t.addr 32)
  | 0x71 => listed (t.addr 32)
  | _ => []

/-- An UPDATE of the same state record that was fetched earlier and has not completed holds a later one back (R236). -/
def Task.afterUpdate (t u : Task) : Bool := t.type == 0x50 && u.type == 0x50 && decide (u.seq < t.seq) && t.addr 40 == u.addr 40

/-- An interlock of its class holds the task back: a task handed over uses one of its slots (R252) or a state record of it, or an earlier
UPDATE of its state record has not completed (R236). A SNAPSHOT waits for UPDATEs after its grant instead (R409). -/
def State.interlocked (s : State) (t : Task) : Bool :=
  s.tasks.any fun u => t.afterUpdate u || (u.isHanded && u.seq != t.seq &&
    ((s.slotsUsed t).any (fun x => (s.slotsUsed u).contains x) ||
      (t.type != 0x70 && (s.recordsUsed t).any fun r => (s.recordsUsed u).contains r)))

/-- A STEP_OPEN waits while another queue holds the replay window (R287, R293). -/
def State.windowHeld (s : State) (t : Task) : Bool :=
  t.type == 0x01 && (match s.window with | some w => w.queue != t.queue | none => false)

/-- The governor delays the task's dispatch (R463). -/
def State.governed (s : State) (t : Task) : Bool :=
  s.rf pgPower R.POWER.CAP_STATUS_LIMITING == 1 &&
    (match typeClass t.type with | .array | .gradient | .vector | .update => true | _ => false)

/-- The task may be dispatched now: ready, its condition evaluated, and held back by nothing (R287). -/
def State.free (s : State) (t : Task) : Bool :=
  t.isReady && (!t.flag 1 || t.condDone) && !s.heldBack t && !s.governed t && !s.interlocked t && !s.windowHeld t && (t.type != 0x02 || s.drained t)

/-- The task is the oldest of its class that may be dispatched (R287). -/
def State.oldest (s : State) (t : Task) : Bool :=
  s.free t && !s.tasks.any fun u => decide (u.seq < t.seq) && typeClass u.type == typeClass t.type && s.free u

/-- The task that a dispatch command names, when the scheduler may dispatch it now and its type is one of those given. -/
def State.dispatchable (s : State) (n : Nat) (types : List Nat) : Option Task :=
  match s.task? n with
  | some t => if types.contains t.type && s.oldest t then some t else none
  | none => none

/-! Units (R286). -/

/-- A core can take work: enabled, not quiesced or resetting, not retired, not taken for a field test (R41, R286, R395). -/
def State.coreReady (s : State) (page : Nat) : Bool := s.accepts page && !s.retired page && !s.notReady.contains page

/-- The page whose block makes a unit of a class ready: the pages of the cores of a die, or of the engine. -/
def unitPages (type u : Nat) : List Nat :=
  match type with
  | 0x20 => (List.range 16).map (pgGradCore u)
  | 0x30 | 0x31 => (List.range 16).map (pgVecCore u)
  | 0x40 => (List.range 4).map fun k => pgDma u (8 * k)
  | 0x41 | 0x42 => [pgGather u]
  | _ => [pgUpdate u]

/-- The units of a class, by index: quadrants, memory-side dies, update engines. -/
def unitCount (type : Nat) : Nat := if type == 0x20 || type == 0x30 || type == 0x31 then 4 else 8

/-- A unit has a ready core or engine. -/
def State.unitReady (s : State) (type u : Nat) : Bool := (unitPages type u).any s.coreReady

/-- Tasks handed to a unit and not yet completed. -/
def State.handed (s : State) (type u : Nat) : Nat :=
  (s.tasks.filter fun t => t.isHanded && typeClass t.type == typeClass type && t.target == u).length

/-- The unit with the fewest tasks handed over among those listed, ties to the first. -/
def State.fewest (s : State) (type : Nat) (us : List Nat) : Option Nat :=
  us.foldl (fun best u => match best with
    | none => some u
    | some b => if s.handed type u < s.handed type b then some u else some b) none

/-- The unit that a hint names, if it names one (Table 11-3). -/
def hintUnit (type hint : Nat) : Option Nat :=
  let q := hint % 16
  if 4 ≤ q then none else if unitCount type == 4 then some q else some (2 * q + hint / 16 % 2)

/-- The unit chosen for a task (R286); none while no unit is ready. -/
def State.pickUnit (s : State) (type hint : Nat) : Option Nat :=
  let ready := (List.range (unitCount type)).filter (s.unitReady type)
  match hintUnit type hint with
  | some u => if ready.contains u then some u else s.fewest type ready
  | none => s.fewest type ready

/-! Consumption of ring slots (R291). -/

/-- `CONSUMED` stops where the queue's replay window or its retained segment begins. -/
def State.consumedStops (s : State) (q : Nat) : Bool :=
  let c := s.consumed q
  let k := s.queueSt q
  (match s.window with | some w => w.queue == q && idxNext c == w.first | none => false) ||
    (s.rf (pgQueue q) R.GRAPH_QUEUE.Q_CTL_RETAIN == 1 && !k.gaveUp && c == k.retained)

/-- `CONSUMED` moves over one completed index, if it may. -/
def State.consumeOne (s : State) (q : Nat) : State :=
  let k := s.queueSt q
  let c := s.consumed q
  if k.done.contains c && !s.consumedStops q then
    (s.setQueue q { k with done := k.done.filter (· != c) }).wf (pgQueue q) R.GRAPH_QUEUE.CONSUMED (idxNext c)
  else s

/-- `CONSUMED` moves over every completed index it may. -/
def State.consume (s : State) (q : Nat) : State := (s.queueSt q).done.foldl (fun t _ => t.consumeOne q) s

/-! Completion (R283 to R285). -/

/-- One thing that an engine left to be done at completion, its stores apart; the slot of a conversion that does not complete is as it was
before (R253). -/
def State.runPost (failed : Bool) (s : State) (p : Post) : State :=
  match p with
  | .store _ _ => s
  | .watch l r c => s.watchAdd l r c
  | .estimate l r p e v held => if failed then s.whenSome held fun s w => s.setSlot l r w else s.estimate l r p e v
  | .restoreSlot l r w => s.setSlot l r w
  | .ratio l r => s.watchRatio l r
  | .log page code d => s.log page code d
  | .cause page b => s.cause page b
  | .readBack _ _ => s
  | .button b n => if failed then s else s.addButton b n
  | .set off v => s.setReg off (BitVec.ofNat 32 v)

/-- The records that a task stores at its completion. -/
def storePosts (ps : List Post) : List (Nat × List Byte) := ps.filterMap fun p => match p with | .store a b => some (a, b) | _ => none

/-- Those of them that lie in installed memory are written (R304). -/
def State.putRecords (s : State) (ps : List Post) : State :=
  (storePosts ps).foldl (fun u w => if rangeOk w.1 w.2.length then u.put w.1 w.2 else u) s

/-- The memory-side die that counts the faults of the engines of a page (R304; DEDUCED, log 27): its own, or die A of its quadrant, or
die A of quadrant 0 for the I/O die. -/
def faultDie (page : Nat) : Nat :=
  match pageAt page with
  | some p => if p.quad < 4 then 2 * p.quad + (if p.die == 4 then 1 else 0) else 0
  | none => 0

/-- The task types that convert or update for a layer (Table 10-1). -/
def watchedType (type : Nat) : Bool := [0x11, 0x12, 0x20, 0x30, 0x31, 0x50].contains type

/-- The blocks that a task reads back before its record, with the page of the unit that reads each (R383). -/
def readBackBlocks (ps : List Post) : List (Nat × Nat) :=
  ps.flatMap fun p => match p with | .readBack page ks => ks.map fun k => (page, k) | _ => []

/-- The read-back of a task's blocks (R383): each is checked, and the first that fails is logged, and counted at the unit that finds it
(R486). -/
def State.readBack (s : State) (t : Task) (ks : List (Nat × Nat)) : State × Option (Nat × Nat) :=
  let bad := ks.find? fun k => !s.blockOk k.2
  ((s.check (ks.map (·.2)) 0x0A02).whenSome bad fun s k => (s.err k.1 0x0A02 k.2).log k.1 0x0A02 [t.type, k.2 * 4096], bad)

/-- The completion record (Table 11-8). -/
def recordBytes (t : Task) (st detail unitId now : Nat) : List Byte :=
  leBytes 1 st ++ leBytes 1 t.type ++ leBytes 1 (Nat.min t.repeats 15 * 16 + Nat.min t.replays 15) ++ leBytes 1 t.queue ++
    leBytes 4 t.index ++ leBytes 8 t.step ++ leBytes 8 now ++ leBytes 4 unitId ++ leBytes 4 detail

/-- Where a task's completion record lies. -/
def State.recordAddr (s : State) (t : Task) : Nat :=
  s.rf64 (pgQueue t.queue) R.GRAPH_QUEUE.CMPL_BASE_LO_ADDR R.GRAPH_QUEUE.CMPL_BASE_HI_ADDR + 32 * t.cmplIndex

/-- The first address that a task's records would write in no installed range: a count or result record, else the completion record
(R304). -/
def State.recordFault (s : State) (t : Task) (record : Bool) : Option Nat :=
  match (storePosts t.post).findSome? fun w => faultIn w.1 w.2.length with
  | some a => some a
  | none => if record && t.cmplIndex != 0xFFFFFFFF then faultIn (s.recordAddr t) 32 else none

/-- The completion record is written, in one write and unsealed (R283); none for `CMPL_INDEX` of all ones, and none outside the installed
memory. -/
def State.writeRecord (s : State) (t : Task) (st detail : Nat) : State :=
  if t.cmplIndex == 0xFFFFFFFF || !rangeOk (s.recordAddr t) 32 then s
  else s.put (s.recordAddr t) (recordBytes t st detail (s.hdr t.unit oPAGE_ID) s.now)

/-- The signals of a task (R275, R278). -/
def State.makeSignals (s : State) (t : Task) (st : Nat) : State :=
  (descSignals t.desc).foldl (fun u g => if !g.2 || success st then u.signal t.queue t.index g.1 else u) s

/-- An index completes for the first time: `COMPLETED` rises, and `IDLE` is set when it reaches `TAIL` (R285). -/
def State.countIndex (s : State) (t : Task) : State :=
  let k := s.queueSt t.queue
  if t.alt || k.done.contains t.index || idxBefore t.index (s.consumed t.queue) then s
  else
    let p := pgQueue t.queue
    let s := s.setQueue t.queue { k with done := k.done ++ [t.index] }
    let s := s.wf p R.GRAPH_QUEUE.COMPLETED (s.rf p R.GRAPH_QUEUE.COMPLETED + 1)
    if s.rf p R.GRAPH_QUEUE.COMPLETED == s.tail t.queue then s.cause p 2 else s

/-- The status that a task above its base rung completes with (R259). -/
def widenStatus (t : Task) (st : Nat) : Nat := if t.widened && (st == stDone || st == stClipped) then stWidened else st

/-- `ERR_LAST.DETAIL` of a failed task at its `UNIT` page: a MEM_DIE page gives the low half of the last faulting address (R326). -/
def State.unitDetail (s : State) (unit errDetail : Nat) : Nat :=
  match pageAt unit with
  | some p => if p.cls == .memDie then s.rf unit R.MEM_DIE.FAULT_ADDR_LO else errDetail
  | none => errDetail

/-- The errors that a failed task counts (R486): once at its `UNIT` page, once at its queue's page. -/
def State.failErrs (s : State) (t : Task) (st event errDetail : Nat) : State :=
  if stAborted ≤ st then (s.err t.unit event (s.unitDetail t.unit errDetail)).err (pgQueue t.queue) event t.index else s

/-- The queue's causes for a completion (R285). -/
def State.queueCauses (s : State) (t : Task) (st : Nat) : State :=
  let s := if t.flag 5 then s.cause (pgQueue t.queue) 0 else s
  if stHeld ≤ st then s.cause (pgQueue t.queue) 1 else s

/-- A HEM that completes, with whatever status, is its queue's most recently completed one: the retained segment begins after it (R291). -/
def State.hemDone (s : State) (t : Task) : State :=
  if t.type == 0x02 && !t.alt then
    s.setQueue t.queue { s.queueSt t.queue with retained := idxNext t.index, gaveUp := false, repeats := 0, again := [] }
  else s

/-- A GRAD_MM that reached its die is counted there when it completes, with whatever status (R192, `TASKS_DONE`). -/
def State.countGrad (s : State) (t : Task) : State :=
  if t.type == 0x20 then
    match (List.range 4).find? fun q => t.unit == pgGradDie q with
    | some q => s.inc (pgGradDie q) R.GRAD_DIE.TASKS_DONE
    | none => s
  else s

/-- A task completes, in the order of R285: records, counts for the watch, completion record, signals, causes and `COMPLETED`. A record
that lies in no installed range ends it ABORTED (R304); a block that does not read back ends it SEAL_MISMATCH (R383). Its pages are then
between tasks, and their posted writes apply (R13). `record` is false for a descriptor that fails check 5 (R274). -/
def State.complete (s : State) (t : Task) (record : Bool) (st detail event errDetail : Nat) : State :=
  let bad := s.recordFault t record
  let s := s.putRecords t.post
  let s := s.whenSome bad fun s a => s.accessFault (faultDie t.unit) a t.type
  let aborts := bad.isSome && decide (st < stAborted)
  let st := if aborts then stAborted else st
  let event := if aborts then 0x0702 else event
  let ks := if t.flag 3 then readBackBlocks t.post else []
  let back := s.readBack t ks
  let s := back.1
  let spoils := back.2.isSome && st != stAborted
  let st := if spoils then stSeal else widenStatus t st
  let event := if spoils then 0x0A02 else event
  let s := t.post.foldl (State.runPost (decide (st == stAborted) || st == stSeal)) s
  let s := if t.isHanded && watchedType t.type && decide (4096 ≤ t.layerOf) then s.unwatched t.layerOf t.type else s
  let s := (s.failErrs t st event errDetail).commitAll
  let s := if record then s.writeRecord t st detail else s
  let s := s.makeSignals t st
  let s := s.queueCauses t st
  let s := if st == stSkipped then s.inc (pgQueue t.queue) R.GRAPH_QUEUE.SKIPPED else s
  let s := (((s.countGrad t).hemDone t).countIndex t).dropTask t.seq
  (s.applyPosted).consume t.queue

/-- A task that completes without reaching a unit: its `UNIT` is GRAPH_SCHED (R284). -/
def State.completeAtSched (s : State) (t : Task) (st detail event : Nat) : State :=
  s.complete { t with unit := pgSched } true st detail event t.queue

/-! Readiness and conditions, evaluated again whenever a button or a task changes (R276, R277, R279). -/

/-- One task that becomes ready, or whose condition is due. -/
def State.settleOne (s : State) : Option State :=
  match s.tasks.find? s.becomesReady with
  | some t => some (s.setTask { t with phase := .ready s.now })
  | none =>
    match s.tasks.find? fun t => t.isReady && t.flag 1 && !t.condDone && !s.heldBack t with
    | some t => some (if s.skips t then s.completeAtSched t stSkipped 0 0 else s.setTask { t with condDone := true })
    | none => none

/-- Every wait and condition evaluated, within a number of evaluations. -/
def State.settleFor (fuel : Nat) (s : State) : State :=
  match fuel with
  | 0 => s
  | n + 1 => match s.settleOne with
    | some t => t.settleFor n
    | none => s

/-- Every wait and condition evaluated: each task can become ready once and have its condition evaluated once. -/
def State.settle (s : State) : State := s.settleFor (2 * s.tasks.length + 1)

/-- A task completes, and the waits on what it changed are evaluated. -/
def State.finish (s : State) (t : Task) (st detail event errDetail : Nat) : State :=
  (s.complete t true st detail event errDetail).settle

/-- A task leaves the ready set for its unit: counted as dispatched (Table 11-12), once. -/
def State.handOver (s : State) (t : Task) (phase : Phase) (unit : Nat) (pages : List Nat) (target : Nat) : State :=
  (s.setTask { t with phase := phase, unit := unit, pages := pages, target := target, startAt := s.now }).inc64 pgSched
    R.GRAPH_SCHED.DISPATCH_LO R.GRAPH_SCHED.DISPATCH_HI (b2n !t.isHanded)

/-- A task that an engine has run to its end waits for its completion (TASK_COMPLETION). -/
def State.endTask (s : State) (t : Task) (st detail event errDetail : Nat) (post : List Post) : State :=
  s.setTask { t with phase := .finished st detail event errDetail, post := t.post ++ post }

/-- The PLL behind a bit of `PLL_LOCK` serves its die: the manual defines nothing for a die whose PLL has lost lock (R466); before
`DEV_STATE` 0x1 the PLLs still lock and no engine has work (R474). -/
def State.clocked (s : State) (b : Nat) : Bool :=
  s.rf pgDevice R.DEVICE.DEV_STATE_STATE == 0 || bit (s.reg (pgClock + R.CLOCK.PLL_LOCK_REFCLK.off)).toNat b

/-- `PLL_LOCK` bit of array die `2q + d`. -/
def pllArray (n : Nat) : Nat := 5 + n
/-- `PLL_LOCK` bit of a gradient die. -/
def pllGrad (q : Nat) : Nat := 13 + q
/-- `PLL_LOCK` bit of memory-side die `2q + d`. -/
def pllMem (n : Nat) : Nat := 17 + n

/-- An engine of a die does its work, or the machine stops because the die has no clock (R466). -/
def State.onDie (s : State) (b : Nat) (k : State → State) : Host.Outcome State Fault Refusal :=
  if s.clocked b then .next (k s) else .fault (.dieUnclocked b)

/-- A task refused at dispatch, or that completes without running: its event is logged, and it waits for its completion with the
check code in `DETAIL` (R283); it counts at the unit that it was to run on (R286). -/
def State.refuseTask (s : State) (t : Task) (unit st detail event errDetail : Nat) (ev : List Nat) : State :=
  let s := if event == 0 then s else s.log unit event ev
  s.handOver t (.finished st detail event errDetail) unit [] t.target

/-- A task refused because an address of it lies in no installed range (R304); `die` is the memory-side die that counts it. -/
def State.faultTask (s : State) (t : Task) (unit die addr : Nat) : State :=
  (s.accessFault die addr t.type).handOver t (.finished stAborted 0 0x0702 0) unit [] t.target

end Sys2Proof.Machine
end

