-- ==== Sys2Proof/Machine/Arbiter.lean ====
section
/-! DEFINITION. The maintenance arbiter (R398, R399): grants, their compatibility, and refusals. -/

namespace Sys2Proof.Machine

/-- Classes of Table 15-8, in its order. -/
def mFtG : Nat := 1
def mFtV : Nat := 2
def mReplay : Nat := 3
def mFill : Nat := 4
def mCkpt : Nat := 5
def mRestore : Nat := 6
def mDigest : Nat := 7
def mStage : Nat := 8
def mCompact : Nat := 9

/-- Table 15-8: 0 compatible, 1 conflict, 2 conflict on the same die. -/
def compatTable : List (List Nat) :=
  [[1, 1, 2, 0, 0, 0, 0, 0, 0],
   [1, 1, 0, 0, 0, 0, 0, 0, 0],
   [2, 0, 1, 0, 0, 1, 1, 0, 0],
   [0, 0, 0, 2, 0, 0, 0, 0, 0],
   [0, 0, 0, 0, 1, 1, 0, 0, 0],
   [0, 0, 1, 0, 1, 1, 1, 0, 0],
   [0, 0, 1, 0, 0, 1, 1, 0, 0],
   [0, 0, 0, 0, 0, 0, 0, 1, 1],
   [0, 0, 0, 0, 0, 0, 0, 1, 1]]

/-- A request of a class for dies conflicts with a grant. -/
def conflicts (cls : Nat) (dies : List Nat) (g : Grant) : Bool :=
  match nth (nth compatTable (cls - 1) []) (g.cls - 1) 0 with
  | 0 => false
  | 1 => true
  | _ => dies.any g.dies.contains

/-- `MAINT_RUN` shows the classes that hold a grant. -/
def State.showGrants (s : State) : State :=
  s.wf pgMaint R.MAINT.MAINT_RUN_CLASSES (((List.range 9).map fun i => b2n (s.grants.any fun g => g.cls == i + 1) * 2 ^ i).sum)

/-- A request for a grant (R398): given, or refused at once, counted and logged. -/
def State.askGrant (s : State) (cls : Nat) (dies : List Nat) (owner : Nat) : State × Bool :=
  match s.grants.find? (conflicts cls dies) with
  | none => (({ s with grants := s.grants ++ [Grant.mk cls dies owner] }).showGrants, true)
  | some g =>
    let s := s.inc pgMaint R.MAINT.BUSY_COUNT
    let s := (s.wf pgMaint R.MAINT.BUSY_LAST_CLASS cls).wf pgMaint R.MAINT.BUSY_LAST_HOLDER g.cls
    ((s.log pgMaint 0x0A08 [cls, g.cls]).cause pgMaint 3, false)

/-- The grant of a class and owner is released. -/
def State.release (s : State) (cls owner : Nat) : State :=
  ({ s with grants := s.grants.filter fun g => !(g.cls == cls && g.owner == owner) }).showGrants

/-- A class is held by an owner. -/
def State.holds (s : State) (cls owner : Nat) : Bool := s.grants.any fun g => g.cls == cls && g.owner == owner

end Sys2Proof.Machine
end

