-- ==== Sys2Proof/Machine/Arrays.lean ====
section
/-! DEFINITION. Panels and placement (chapters 05 and 06): the panel's copy and cells, alias maps, placement descriptors and their
checks, and the calibration tables that a sleeve applies (R107 to R109, R428). -/

namespace Sys2Proof.Machine

/-! Panels. -/

/-- A panel without content. -/
def Panel.fresh : Panel := ⟨false, [], [], [], [], none, none, 0, false, none, false, false⟩

/-- The panel of a PANEL page. -/
def State.panel (s : State) (page : Nat) : Panel := aget s.panels page Panel.fresh

/-- The state with a panel replaced. -/
def State.setPanel (s : State) (page : Nat) (p : Panel) : State := { s with panels := aput s.panels page p }

/-- The array die `2q + d` of a PANEL page. -/
def panelDie (page : Nat) : Nat := 2 * ((page - 0x400000) / 0x400000) + (page - 0x400000) % 0x400000 / 0x80000
/-- The physical number of a PANEL page. -/
def panelPhys (page : Nat) : Nat := (page - 0x400000) % 0x80000 / 0x1000 - 1

/-- `CONTENT.STATE` of a panel (Table 4-12): 0 invalid, 1 loading, 2 valid, 3 aged, 4 castling source, 5 retired. -/
def State.content (s : State) (page : Nat) : Nat := s.rf page R.PANEL.CONTENT_STATE

/-- The state with `CONTENT.STATE` replaced. -/
def State.setContent (s : State) (page v : Nat) : State := s.wf page R.PANEL.CONTENT_STATE v

/-- The panel serves tasks: valid or aged (R120). -/
def State.serves (s : State) (page : Nat) : Bool := s.content page == 2 || s.content page == 3

/-- The content of a panel becomes invalid (R138, R487). -/
def State.invalidate (s : State) (page : Nat) : State :=
  let s := ((s.setContent page 0).wf page R.PANEL.CONTENT_TAG 0).wf page R.PANEL.CONTENT_AGE 0
  s.setPanel page { s.panel page with hasCopy := false, copy := [], scales := [], erased := [], prog := [] }

/-- The format of a panel's load: `PANEL_REC.FMT`. -/
def State.panelFmt (s : State) (page : Nat) : Fmt :=
  if s.rf (pgArrayDie (panelDie page)) R.ARRAY_DIE.PANEL_REC_FMT (panelPhys page) == 1 then .kw2 else .kt2

/-- The write count of a panel. -/
def State.writes (s : State) (page : Nat) : Nat := s.rf64 page R.PANEL.WRITES_LO R.PANEL.WRITES_HI

/-! The code copy (R129). -/

/-- The byte of the code copy that holds a pair's code. -/
def copyAt (arr row col : Nat) : Nat := 65536 * arr + 128 * row + col / 4

/-- The code of a pair in the code copy. -/
def Panel.code (p : Panel) (arr row col : Nat) : Nat := (memByte p.copy (copyAt arr row col)).toNat / 4 ^ (col % 4) % 4

/-- The differential of a pair, in units (Table 4-1); an erased array holds (0, 0) throughout (R130). -/
def Panel.diff (p : Panel) (f : Fmt) (arr row col : Nat) : Int :=
  if p.erased.contains arr then 0 else codeDiff f (p.code arr row col)

/-- The level of a pair's code (R60, R90). -/
def Panel.level (p : Panel) (f : Fmt) (arr row col : Nat) : Rat :=
  if p.erased.contains arr then 0 else codeLevel f (p.code arr row col)

/-- The KF16 scale of a column. -/
def Panel.scale (p : Panel) (arr col : Nat) : Nat := aget p.scales (arr * 512 + col) 0

/-- A pair's number. -/
def pairNo (arr row col : Nat) : Nat := (arr * 512 + row) * 512 + col

/-- Whether a programming wrote a pair, and its draw. -/
def Programmed.draw? (g : Programmed) (arr row col : Nat) : Option Nat :=
  match g with
  | .all d => some d
  | .rowsBelow r d => if row < r then some d else none
  | .pairs l d => if l.contains (pairNo arr row col) then some d else none

/-- The draw of the last programming that wrote a pair (R91, R128). -/
def Panel.drawOf (p : Panel) (arr row col : Nat) : Nat := (p.prog.findSome? fun g => g.draw? arr row col).getD 0

/-- What a pair conducts, in units of g_u: its differential, with the spread of the cell that is not erased (R91). -/
def Panel.cell (p : Panel) (f : Fmt) (page arr row col : Nat) : Rat :=
  let d := p.diff f arr row col
  if d = 0 then 0 else (d : Rat) + Config.cellSpread (p.drawOf arr row col) page arr row col

/-! Logical panels (R143, R160). -/

/-- `ALIAS_MAP` of a die: the physical panel that serves logical panel `L`; 0xFE castling, 0xFF none. -/
def State.aliasOf (s : State) (n l : Nat) : Nat := s.rf (pgArrayDie n) R.ARRAY_DIE.ALIAS_MAP (l / 4) / 256 ^ (l % 4) % 256

/-- The state with an entry of `ALIAS_MAP` replaced. -/
def State.setAlias (s : State) (n l v : Nat) : State :=
  let w := BitVec.ofNat 32 (s.rf (pgArrayDie n) R.ARRAY_DIE.ALIAS_MAP (l / 4))
  s.wf (pgArrayDie n) R.ARRAY_DIE.ALIAS_MAP (setBits w (8 * (l % 4) + 7) (8 * (l % 4)) v).toNat (l / 4)

/-- The logical panel that a panel serves; 0xFF none. -/
def State.servesLogical (s : State) (page : Nat) : Nat := s.rf page R.PANEL.PANEL_INFO_ALIAS

/-- A spare of its die: neither retired nor serving (R143). -/
def State.isSpare (s : State) (page : Nat) : Bool := !s.retired page && s.servesLogical page == 0xFF && s.content page != 4

/-- `DIE_INFO` counts the die's panels and logical panels again (Table 5-9). -/
def State.countDie (s : State) (n : Nat) : State :=
  let ps := (List.range 68).map (pgPanel n)
  let served := ((List.range 64).filter fun l => decide (s.aliasOf n l < 0xFE)).length
  s.wfs (pgArrayDie n) [(R.ARRAY_DIE.DIE_INFO_SPARES_FREE, (ps.filter s.isSpare).length),
    (R.ARRAY_DIE.DIE_INFO_RETIRED, (ps.filter s.retired).length), (R.ARRAY_DIE.DIE_INFO_SERVED, served)]

/-! Placement descriptors (R152 to R155). -/

/-- A placement descriptor. -/
structure Place where
  tag    : Nat
  fmt    : Nat
  krLog  : Nat
  layer  : Nat
  k      : Nat
  n      : Nat
  slabs  : Nat
  groups : Nat
  count  : Nat
  ents   : List Nat
deriving DecidableEq, Repr

/-- The descriptor in a block (Tables 6-2 and 6-3). -/
def placeOf (b : List Byte) : Place where
  tag    := fieldAt b 0 4
  fmt    := fieldAt b 4 1 % 64
  krLog  := fieldAt b 5 1 % 8
  layer  := fieldAt b 6 2
  k      := fieldAt b 8 4
  n      := fieldAt b 12 4
  slabs  := fieldAt b 16 2
  groups := fieldAt b 18 2
  count  := fieldAt b 20 2
  ents   := (List.range (Nat.min (fieldAt b 20 2) 1008)).map fun e => fieldAt b (64 + 4 * e) 4

/-- Arrays along the contraction axis (Table 6-1). -/
def Place.kr (p : Place) : Nat := 2 ^ p.krLog
/-- Arrays along the output axis. -/
def Place.nr (p : Place) : Nat := 32 / p.kr

/-- The array die of an entry. -/
def entryDie (e : Nat) : Nat := 2 * bitsOf e 9 8 + bitsOf e 7 7
/-- The logical panel of an entry. -/
def entryPanel (e : Nat) : Nat := bitsOf e 5 0
/-- `CLIP_INTOL` of an entry. -/
def entryIntol (e : Nat) : Bool := bit e 16

/-- Die and logical panel of an entry as one number. -/
def entryKey (e : Nat) : Nat := entryDie e * 64 + entryPanel e

/-- The first placement check that fails (Table 6-4); 0 when all pass. -/
def Place.check (p : Place) : Nat :=
  let c := p.kr * 512
  let w := p.nr * 512
  if p.fmt != 0x01 && p.fmt != 0x02 then 1
  else if 5 < p.krLog then 2
  else if p.count != p.slabs * p.groups || p.count < 1 || 512 < p.count then 3
  else if !((p.slabs - 1) * c < p.k && p.k ≤ p.slabs * c) then 4
  else if !((p.groups - 1) * w < p.n && p.n ≤ p.groups * w) then 5
  else if (p.ents.map entryKey).eraseDups.length != p.ents.length then 6 else 0

/-- The physical PANEL page that serves an entry, with 0xFE or 0xFF where none does. -/
def State.entryPage (s : State) (e : Nat) : Nat := pgPanel (entryDie e) (s.aliasOf (entryDie e) (entryPanel e))

/-- The alias of an entry. -/
def State.entryAlias (s : State) (e : Nat) : Nat := s.aliasOf (entryDie e) (entryPanel e)

/-- The panels of a die report READY (R121, R435). -/
def State.dieReady (s : State) (n : Nat) : Bool :=
  match aget? s.dieCals n with
  | some d => d.ready
  | none => false

/-- A load of a panel is in progress, or a spare fill writes it. -/
def State.loadingPanel (s : State) (page : Nat) : Bool := s.loads.any fun l => l.page == page

/-- A panel is free for its next task: READY, accepting, between tasks and not being loaded (R120, R136). -/
def State.panelFree (s : State) (page : Nat) : Bool :=
  s.dieReady (panelDie page) && s.accepts page && s.betweenTasks page && !s.loadingPanel page

/-- The ARRAY_DIE page that R284 names for a task: of the die of an entry of its descriptor, or GRAPH_SCHED where the descriptor
cannot be read. -/
def State.arrayUnit (s : State) (place e : Nat) : Nat :=
  if rangeOk place 4096 then pgArrayDie (entryDie (s.num (place + 64 + 4 * e) 4)) else pgSched

/-! Calibration (R107 to R109, R428). -/

/-- A gain field referred to the die's reference ratio `k`, a binary32 word (R428). -/
def referredGain (g k : Nat) : Nat :=
  let gain : Rat := 1 + (((g : Int) - 32768 : Int) : Rat) / ((2 ^ 18 : Nat) : Rat)
  let x := 32768 + (gain * (d32 k).q - 1) * ((2 ^ 18 : Nat) : Rat)
  let r := (roundInt .rne 0 65535 x).1
  r.toNat

/-- A field interpolated to a temperature in 1/16 °C (R108): the three sets in order, in binary32, rounded RNE. -/
def interpolate (t : Int) (a b c : Int) : Int :=
  if t ≤ 560 then a
  else if 1680 ≤ t then c
  else
    let lo := if t < 1120 then a else b
    let hi := if t < 1120 then b else c
    let t0 : Int := if t < 1120 then 560 else 1120
    let f := div32 (e32 (.of (((t - t0 : Int) : Rat) / 16))) (e32 (.of 35))
    let x := add32 (e32 (.of (lo : Rat))) (mul32 (sub32 (e32 (.of (hi : Rat))) (e32 (.of (lo : Rat)))) f)
    (roundInt .rne (2 ^ 20) (2 ^ 20) (d32 x).q).1

/-- The gain of a converter as the active bank has it, binary32 (R106, R108). -/
def State.gain (s : State) (page arr conv lsb : Nat) : Nat :=
  let n := panelDie page
  let p := panelPhys page
  let k := match aget? s.dieCals n with | some d => d.k | none => 0x3F800000
  let g (set : Nat) : Int := (referredGain (Config.gainField n p arr conv lsb set).toNat k : Nat)
  let v := interpolate ((s.panel page).bankT.getD 560) (g 0) (g 1) (g 2)
  e32 (.of (1 + (((v - 32768 : Int)) : Rat) / ((2 ^ 18 : Nat) : Rat)))

/-- The offset of a converter as the active bank has it, in 1/256 LSB (R104, R108). -/
def State.offset (s : State) (page arr conv lsb : Nat) : Int :=
  let o (set : Nat) : Int := (Config.offsetField (panelDie page) (panelPhys page) arr conv lsb set).toInt
  interpolate ((s.panel page).bankT.getD 560) (o 0) (o 1) (o 2)

/-- `TEMP_USED` of an active bank. -/
def State.showBank (s : State) (page : Nat) (t : Int) : State :=
  let seg := if t < 560 then 0 else if t < 1120 then 1 else if t ≤ 1680 then 2 else 3
  (s.wf page R.PANEL.TEMP_USED_TEMP (ubits 16 t)).wf page R.PANEL.TEMP_USED_SEG seg

/-- The banks swap at the start of a panel's task (R109). -/
def State.swapBank (s : State) (page : Nat) : State :=
  let p := s.panel page
  match p.pendingT with
  | none => s
  | some t =>
    let s := s.setPanel page { p with bankT := some t, pendingT := none }
    let s := (s.wf page R.PANEL.TABLE_STATE_PENDING 0).wf page R.PANEL.TABLE_STATE_BANK (1 - s.rf page R.PANEL.TABLE_STATE_BANK)
    s.showBank page t

/-- A trusted temperature of a die reaches its controller (R109): every panel whose active bank was formed 0.5 °C or more away takes
a pending bank; a hold ends, with event 0x0107. -/
def State.newTemperature (s : State) (n : Nat) (t : Int) : State :=
  let pages := (List.range 68).map (pgPanel n)
  let held := pages.any fun p => s.rf p R.PANEL.TEMP_USED_HOLD == 1
  let s := pages.foldl (fun u p =>
    let u := u.wf p R.PANEL.TEMP_USED_HOLD 0
    let old := (u.panel p).bankT.getD t
    if (u.panel p).bankT.isSome && decide (8 ≤ (t - old).natAbs) then
      (u.setPanel p { u.panel p with pendingT := some t }).wf p R.PANEL.TABLE_STATE_PENDING 1
    else u) s
  if held then s.log (pgArrayDie n) 0x0107 [n, ubits 16 t] else s

/-- The monitor pair of a die's channel is untrusted (R109, R434): no bank is computed, `HOLD` reads 1, and event 0x0106 gives the
last good temperature. -/
def State.holdTables (s : State) (n : Nat) (last : Int) : State :=
  let pages := (List.range 68).map (pgPanel n)
  let s := pages.foldl (fun u p => (u.wf p R.PANEL.TEMP_USED_HOLD 1).cause p 4) s
  s.log (pgArrayDie n) 0x0106 [n, ubits 16 last]

end Sys2Proof.Machine
end

