-- ==== Sys2Proof/Machine/ArrayRead.lean ====
section
/-! DEFINITION. The analogue products (chapter 04): the sleeve stages of one token on one panel, the panel tree, the additions across
panels (R156), output formatting, and the commands ARRAY_FWD, ARRAY_REV and CROSS_PANEL_PARTIAL. Every value a conversion gives beside
the exact sum of its cells is free (`Config.cellSpread`, `Config.conversionError`). -/

namespace Sys2Proof.Machine

/-! The fields of a task body (Table 4-8). -/

/-- `IN_FMT`, when it is a KA format (Table 4-8). -/
def arrIn (t : Task) : Option Fmt := match Fmt.ofCode (t.fld 52 1 % 64) with
  | some f => if f.isKA then some f else none
  | none => none
/-- `OUT_FMT`, when it is one that the arrays write. -/
def arrOut (t : Task) : Option Fmt := match Fmt.ofCode (t.fld 53 1 % 64) with
  | some f => if f.isKA || f == .kf16 then some f else none
  | none => none
/-- `OUT_RZ`. -/
def arrRnd (t : Task) : Rnd := if bit (t.fld 53 1) 6 then .rz else .rne
/-- `TOKENS`. -/
def arrTokens (t : Task) : Nat := Nat.min (t.fld 48 4) (2 ^ 24)
/-- `LSB_SEL`. -/
def arrLsbSel (t : Task) : Nat := t.fld 54 1 % 4
/-- The LSB in units (Table 4-5). -/
def arrLsb (t : Task) : Nat := 2 ^ arrLsbSel t
/-- `STAT`. -/
def arrStat (t : Task) : Bool := bit (t.fld 54 1) 2
/-- `CLIP_INTOL`. -/
def arrIntol (t : Task) : Bool := bit (t.fld 54 1) 3
/-- `PRESCALE`, which ARRAY_FWD ignores. -/
def arrPrescale (t : Task) (rev : Bool) : Bool := rev && bit (t.fld 54 1) 4
/-- `OUT_THRESH`. -/
def arrThresh (t : Task) : Nat := t.fld 55 1
/-- `AVG_LOG2`. -/
def arrAvg (t : Task) : Nat := Nat.min (t.fld 56 1 % 16) 8

/-! Input stage (R96 to R99, R114). -/

/-- What the input stage of one array leaves: the 512 inputs after extraction, the extracted elements as (index, KF16), whether more
than eight were candidates, and the block exponent. -/
structure Drive where
  ints : List Int
  outl : List (Nat × Nat)
  spill : Bool
  expo : Nat
deriving DecidableEq, Repr

/-- Outlier extraction (R97). -/
def extract (f : Fmt) (thresh : Nat) (m : List Int) (expo : Nat) : Drive :=
  let cand := (List.range m.length).filter fun i =>
    thresh != 0 && decide (thresh * (f.maxInt + 1) < (nth m i 0).natAbs * 256)
  let larger (i j : Nat) : Bool :=
    decide ((nth m i 0).natAbs < (nth m j 0).natAbs) || ((nth m i 0).natAbs == (nth m j 0).natAbs && decide (j < i))
  let taken := cand.filter fun i => decide ((cand.filter (larger i)).length < 8)
  ⟨(List.range m.length).map fun i => if taken.contains i then 0 else nth m i 0,
    taken.map fun i => (i, (mKF16.encode .rne (.of ((nth m i 0 : Int) : Rat))).1), decide (8 < cand.length), expo⟩

/-- The prescale of a reverse input block (R114): each element times its column's scale in binary32, and the block converted again
under its fit exponent. -/
def prescale (f : Fmt) (p : Panel) (arr : Nat) (m : List Int) (expo : Nat) : List Int × Nat :=
  let vals := (List.range m.length).map fun i =>
    let x := e32 (.of (((nth m i 0 : Int) : Rat) * pow2 ((expo : Int) - 127)))
    d32 (e32 ((d32 x).mul (mKF16.decode (p.scale arr i))))
  let e := fitExponent f.maxInt (finitePeak vals)
  (vals.map fun v => sint f.intBits (convertElem f .rne e 0 v).raw, e)

/-- The zero map of a block: bit `g` is 1 when the 32 elements of group `g` are zero (R99). -/
def zeroMap (m : List Int) : Nat :=
  ((List.range 16).map fun g => b2n ((List.range 32).all fun i => decide (nth m (32 * g + i) 0 = 0)) * 2 ^ g).sum

/-! Range, drive and conversion (R98, R100 to R104). -/

/-- The active rows of a slice, ascending (R98). -/
def activeRows (f : Fmt) (d : Drive) (k : Nat) : List Nat :=
  (List.range 512).filter fun i => bit (ubits f.intBits (nth d.ints i 0)) k

/-- The weight of slice `k` (R93). -/
def sliceWeight (f : Fmt) (k : Nat) : Int := if k + 1 == f.intBits then -((2 ^ k : Nat) : Int) else ((2 ^ k : Nat) : Int)

/-- `L_max` of a weight format (R90). -/
def lMax (f : Fmt) : Nat := if f == .kw2 then 3 else 1

/-- Rows per pleat (R101); `k` is 1 for strict and 4 for statistical policy. -/
def rowsPerPleat (k lsb : Nat) (w : Fmt) : Nat := Nat.min 512 (k * 127 * lsb / lMax w)

/-- The pleats of a slice: its active rows in order, `r` to a pleat; at least one pleat under `ZSKIP_DIS`. -/
def pleats (r : Nat) (rows : List Nat) (force : Bool) : List (List Nat) :=
  if rows.isEmpty then (if force then [[]] else [])
  else (List.range ((rows.length + r - 1) / r)).map fun q => (rows.drop (q * r)).take r

/-- The code of a conversion of a held sum (R100). -/
def convCode (lsb : Nat) (sum : Rat) : Int := (roundInt .rne 127 127 (sum / (lsb : Rat))).1

/-- What the conversions of one read count (R102). -/
structure ConvCount where
  conv : Nat
  sat  : Nat
  clip : Nat
deriving DecidableEq, Repr

/-- Two counts added. -/
def ConvCount.add (a b : ConvCount) : ConvCount := ⟨a.conv + b.conv, a.sat + b.sat, a.clip + b.clip⟩

/-- One line (a column of a forward read, a row of a reverse read) over all reads, slices and pleats: the accumulator of R104, before
averaging, with the counts of its conversions. `plan` holds the pleats of each slice; `cell i` is what input `i` finds on the line. -/
def lineRead (f w : Fmt) (lsb reads : Nat) (plan : List (List (List Nat))) (off : Int) (cell : Nat → Rat)
    (err : List Nat → Rat) : Int × ConvCount :=
  (List.range reads).foldl (fun acc r =>
    (List.range plan.length).foldl (fun acc k =>
      let ps := nth plan k []
      (List.range ps.length).foldl (fun (acc : Int × ConvCount) q =>
        let rows := nth ps q []
        let c := convCode lsb ((rows.map cell).sum + err [r, k, q])
        let sat := decide (c = 127) || decide (c = -127)
        let clip := sat && decide (127 * lsb < rows.length * lMax w)
        (acc.1 + sliceWeight f k * (256 * c - off), acc.2.add ⟨1, b2n sat, b2n clip⟩)) acc) acc) (0, ⟨0, 0, 0⟩)

/-- The mean over `2^a` reads, half toward +∞ (R105). -/
def average (a : Nat) (acc : Int) : Int := if a == 0 then acc else (acc + 2 ^ (a - 1)) / 2 ^ a

/-- The binary32 partial of an accumulator (R106). -/
def partialOf (acc : Int) (lsb gain : Nat) (w : Fmt) (scale : Option Nat) (expo : Nat) : Nat :=
  let y := e32 (.of (acc : Rat))
  let y := e32 (.of ((d32 y).q * ((lsb : Rat) / 256)))
  let y := mul32 y gain
  let y := if w == .kw2 then e32 ((d32 y).mul (.of (1 / 2))) else y
  let y := match scale with
    | some s => e32 ((d32 y).mul (mKF16.decode s))
    | none => y
  e32 ((d32 y).scale ((expo : Int) - 127))

/-- The outlier product of a line (R111): `level i` is the level of the line's code at input `i`. -/
def outlierOf (d : Drive) (level : Nat → Rat) (scale : Option Nat) : Nat :=
  let o := d.outl.foldl (fun o x => add32 o (e32 ((mKF16.decode x.2).mul (.of (level x.1))))) 0
  let o := match scale with
    | some s => e32 ((d32 o).mul (mKF16.decode s))
    | none => o
  e32 ((d32 o).scale ((d.expo : Int) - 127))

/-! One token on one panel (R94, R95, R103, R112, R149). -/

/-- The reads of one token on one panel under one policy. -/
structure TokenRead where
  lines   : List (List Nat)
  conv    : ConvCount
  skipped : Nat
  added   : Nat
  slots   : Nat
deriving DecidableEq, Repr

/-- The inputs of the 32 arrays of a panel for one token: `blocks` holds the input blocks of the entry, by their position along the
axis that carries them. -/
def State.drives (s : State) (t : Task) (page : Nat) (pl : Place) (rev : Bool) (f : Fmt) (blocks : List (List Int × Nat)) : List Drive :=
  let p := s.panel page
  (List.range 32).map fun i =>
    let b := nth blocks (if rev then i / pl.kr else i % pl.kr) ([], 0)
    let b := if arrPrescale t rev then prescale f p i b.1 b.2 else b
    extract f (if s.rf page R.PANEL.SLEEVE_CTL_OUTLIER_DIS == 1 then 0 else arrThresh t) b.1 b.2

/-- All reads of one token on a panel under a policy (`k` of R101). -/
def State.tokenPass (s : State) (t : Task) (page : Nat) (rev : Bool) (f : Fmt) (ds : List Drive) (k : Nat) (tag : List Nat) :
    TokenRead :=
  let p := s.panel page
  let w := s.panelFmt page
  let lsb := arrLsb t
  let reads := 2 ^ arrAvg t
  let force := s.rf page R.PANEL.SLEEVE_CTL_ZSKIP_DIS == 1
  let bypass := s.rf page R.PANEL.SLEEVE_CTL_CORR_BYPASS == 1
  let r := rowsPerPleat k lsb w
  let fired := (List.range f.intBits).filter fun sl => force || ds.any fun d => !(activeRows f d sl).isEmpty
  let plans := ds.map fun d => (List.range f.intBits).map fun sl => if fired.contains sl then pleats r (activeRows f d sl) force else []
  let slots := fired.map fun sl => plans.foldl (fun m pn => Nat.max m (nth pn sl []).length) 0
  let conv0 (j : Nat) : Nat := if rev then 64 + j / 16 else j / 8
  let res := (List.range 32).map fun i =>
    let d := nth ds i ⟨[], [], false, 0⟩
    (List.range 512).map fun j =>
      let cell (x : Nat) : Rat := if rev then p.cell w page i j x else p.cell w page i x j
      let level (x : Nat) : Rat := if rev then p.level w i j x else p.level w i x j
      let off := if bypass then 0 else s.offset page i (conv0 j) (arrLsbSel t)
      let gain := if bypass then 0x3F800000 else s.gain page i (conv0 j) (arrLsbSel t)
      let scale := if rev then none else some (p.scale i j)
      let a := lineRead f w lsb reads (nth plans i []) off cell fun x => Config.conversionError s.fresh (tag ++ [page, k, i, j] ++ x)
      let y := if p.erased.contains i then 0 else partialOf (average (arrAvg t) a.1) lsb gain w scale d.expo
      (add32 y (outlierOf d level scale), a.2)
  ⟨res.map fun l => l.map (·.1), (res.flatMap id).foldl (fun c x => c.add x.2) ⟨0, 0, 0⟩, (f.intBits - fired.length) * 32 * reads,
    (slots.map fun n => n - 1).sum * reads, slots.sum * reads⟩

/-- The panel tree over one reduction group (R150). -/
def treeAdd (fuel : Nat) (l : List Nat) : Nat :=
  match fuel with
  | 0 => nth l 0 0
  | n + 1 => match l with
    | [] => 0
    | [x] => x
    | _ => treeAdd n ((List.range (l.length / 2)).map fun a => add32 (nth l (2 * a) 0) (nth l (2 * a + 1) 0))

/-- The group results of an entry: 512 values of each reduction group, groups in order (R150, R159). -/
def groupResults (pl : Place) (rev : Bool) (lines : List (List Nat)) : List Nat :=
  (List.range (if rev then pl.kr else pl.nr)).flatMap fun g =>
    (List.range 512).map fun j =>
      treeAdd 6 ((List.range (if rev then pl.nr else pl.kr)).map fun a =>
        nth (nth lines (if rev then a * pl.kr + g else g * pl.kr + a) []) j 0)

/-- The PANEL page's counters rise (Table 4-12), and its causes for overflows and re-reads. -/
def State.panelCounts (s : State) (page : Nat) (c : ConvCount) (skipped added outl ovf reread : Nat) : State :=
  let s := s.inc64 page R.PANEL.CONV_LO R.PANEL.CONV_HI c.conv
  let s := s.inc64 page R.PANEL.SAT_CONV_LO R.PANEL.SAT_CONV_HI c.sat
  let s := s.inc64 page R.PANEL.CLIP_CONV_LO R.PANEL.CLIP_CONV_HI c.clip
  let s := ((s.incBy page R.PANEL.SLICES_SKIPPED skipped).incBy page R.PANEL.PLEATS_ADDED added).incBy page R.PANEL.OUTLIERS outl
  let s := (s.incBy page R.PANEL.OUTLIER_OVF ovf).incBy page R.PANEL.REREADS reread
  let s := if ovf == 0 then s else s.cause page 2
  if reread == 0 then s else s.cause page 3

/-- The first panel of a kind is kept. -/
def firstOf (o : Option Nat) (page : Nat) (hit : Bool) : Option Nat := if o.isSome || !hit then o else some page

/-- The run of a task. -/
def State.arrayRun? (s : State) (n : Nat) : Option ArrayRun := s.arrRuns.find? fun r => r.task == n

/-- The state with a run replaced. -/
def State.setArrayRun (s : State) (r : ArrayRun) : State :=
  { s with arrRuns := s.arrRuns.map fun x => if x.task == r.task then r else x }

/-- One token on one entry's panel: its reads, the re-read of R103, the counts, and the group results as a partial. -/
def State.readToken (s : State) (t : Task) (r : ArrayRun) (pl : Place) (f : Fmt) (e : Nat) (token : Nat) (blocks : List (List Int × Nat)) :
    State × ArrayRun :=
  let w := nth pl.ents e 0
  let page := s.entryPage w
  let ds := s.drives t page pl r.rev f blocks
  let outl := (ds.map fun d => d.outl.length).sum
  let ovf := ((List.range (if r.rev then pl.nr else pl.kr)).filter fun b => (List.range 32).any fun i =>
    (if r.rev then i / pl.kr else i % pl.kr) == b && (nth ds i ⟨[], [], false, 0⟩).spill).length
  let a := s.tokenPass t page r.rev f ds (if arrStat t then 4 else 1) [token, e]
  let again := (arrIntol t || entryIntol w) && a.conv.clip != 0
  let b := if again then s.tokenPass t page r.rev f ds 1 [token, e, 1] else a
  let cnt := if again then a.conv.add b.conv else a.conv
  let skipped := if again then a.skipped + b.skipped else a.skipped
  let added := if again then a.added + b.added else a.added
  let slots := if again then a.slots + b.slots else a.slots
  let slots := Nat.max slots ((512 * outl + (if r.rev then 32767 else 16383)) / (if r.rev then 32768 else 16384))
  let s := s.panelCounts page cnt skipped added outl ovf (b2n again)
  let g := groupResults pl r.rev b.lines
  let part : Partial := if r.rev then ⟨t.seq, e % pl.slabs, token, e / pl.slabs, g⟩ else ⟨t.seq, e / pl.slabs, token, e % pl.slabs, g⟩
  let c := r.counts
  ({ s with partials := s.partials ++ [part] },
    { r with
      counts := { c with conv := c.conv + cnt.conv, satConv := c.satConv + cnt.sat, clipConv := c.clipConv + cnt.clip, ovf := c.ovf + ovf,
                         rereads := c.rereads + b2n again }
      kept := r.kept + b.conv.clip, skipped := r.skipped + skipped, added := r.added + added, outliers := r.outliers + outl
      slots := r.slots + slots
      firsts := [firstOf (nth r.firsts 0 none) page (ovf != 0), firstOf (nth r.firsts 1 none) page again,
        firstOf (nth r.firsts 2 none) page (b.conv.clip != 0)] })

/-! Operands (Table 4-9). -/

/-- The placement descriptor that governs a run (R152). -/
def ArrayRun.placement (r : ArrayRun) : Place := placeOf r.place

/-- An address of the operand record of a run. -/
def ArrayRun.addr (r : ArrayRun) (o : Nat) : Nat := recAddr r.opnd o

/-- Blocks of 512 along an axis. -/
def blocks512 (n : Nat) : Nat := (n + 511) / 512

/-- Length of the input and of the output axis. -/
def inLen (pl : Place) (rev : Bool) : Nat := if rev then pl.n else pl.k
/-- The output length. -/
def outLen (pl : Place) (rev : Bool) : Nat := if rev then pl.k else pl.n

/-- Bytes of one token of a tensor: KA blocks padded to 512 elements, KF16 unpadded (R67, R68). -/
def tokenBytes (f : Fmt) (len : Nat) : Nat := if f.isKA then blocks512 len * 512 * f.bytes else len * f.bytes

/-- The input blocks of an entry (R154, R159). -/
def entryBlockNos (pl : Place) (rev : Bool) (e : Nat) : List Nat :=
  if rev then (List.range pl.nr).map fun b => e / pl.slabs * pl.nr + b else (List.range pl.kr).map fun a => e % pl.slabs * pl.kr + a

/-- The ranges that an entry reads for one token: the elements and exponents of its blocks within the input. -/
def ArrayRun.entryIn (r : ArrayRun) (pl : Place) (f : Fmt) (e token : Nat) : List (Nat × Nat) :=
  let n := inLen pl r.rev
  ((entryBlockNos pl r.rev e).filter fun b => decide (512 * b < n)).flatMap fun b =>
    [(r.addr 0 + token * tokenBytes f n + b * 512 * f.bytes, 512 * f.bytes), (r.addr 8 + token * blocks512 n + b, 1)]

/-- Input block `b` of a token, padding read as zero (R68, R154). -/
def State.inputBlock (s : State) (r : ArrayRun) (pl : Place) (f : Fmt) (token b : Nat) : List Int × Nat :=
  let n := inLen pl r.rev
  if n ≤ 512 * b then (List.replicate 512 0, 0)
  else
    let raw := s.bytes (r.addr 0 + token * tokenBytes f n + b * 512 * f.bytes) (512 * f.bytes)
    ((List.range 512).map fun i => if 512 * b + i < n then sint f.intBits (rawAt f raw i) else 0,
      (s.byte (r.addr 8 + token * blocks512 n + b)).toNat)

/-- The input blocks of an entry for a token. -/
def State.entryBlocks (s : State) (r : ArrayRun) (pl : Place) (f : Fmt) (token e : Nat) : List (List Int × Nat) :=
  (entryBlockNos pl r.rev e).map fun b => s.inputBlock r pl f token b

/-! How a run ends early (R120, R304). -/

/-- What stops a token: an address in no installed range, or a block that fails its seal. -/
inductive Stop where
  | fault (addr : Nat)
  | seal (block : Nat)
deriving DecidableEq, Repr

/-- What stops an entry at a token, if anything. -/
def State.entryStop (s : State) (r : ArrayRun) (pl : Place) (f : Fmt) (e token : Nat) : Option Stop :=
  let ins := r.entryIn pl f e token
  match ins.findSome? fun x => faultIn x.1 x.2 with
  | some a => some (.fault a)
  | none => (s.firstBad (blocksOfAll ins)).map .seal

/-- A run will write no token from `token` on, and ends with a status, an event and a detail; an ABORTED end stands before any other
(Table 4-11). -/
def ArrayRun.stopAt (r : ArrayRun) (token : Nat) (en : Nat × Nat × Nat) : ArrayRun :=
  let keeps := match r.ending with | some o => o.1 == stAborted && en.1 != stAborted | none => false
  { r with tokens := Nat.min r.tokens token, ending := if keeps then r.ending else some en }

/-- A run ends before any token, and starts on no further panel. -/
def ArrayRun.halt (r : ArrayRun) (en : Nat × Nat × Nat) : ArrayRun := { r.stopAt 0 en with todo := [] }

/-- What ends a run early is counted at the panel of an entry, where it was found (R304, R486). `TASK_ABORTED` is set for an address
fault, `SEAL_ERR` for a seal (DESIGN CHOICE, log 154). -/
def State.noteStop (s : State) (t : Task) (r : ArrayRun) (pl : Place) (e token : Nat) (stop : Stop) : State × ArrayRun :=
  let page := s.entryPage (nth pl.ents e 0)
  match stop with
  | .fault addr =>
    (((s.accessFault (faultDie page) addr t.type).err page 0x0702 token).cause page 0, r.stopAt token (stAborted, 0x0702, panelPhys page))
  | .seal k =>
    ((((s.inc page R.PANEL.SEAL_ERRS).err page 0x0101 token).log page 0x0101 [panelPhys page, k * 4096]).cause page 1,
      r.stopAt token (stSeal, 0x0101, panelPhys page))

/-! Output formatting (R110, R151). -/

/-- One output block: its bytes, its exponent and what it counts. `valid` elements of it lie within the output. -/
def formatBlock (f : Fmt) (rnd : Rnd) (src expo : Nat) (vals : List Nat) (valid : Nat) : List Byte × Nat × Counts × Rat :=
  let vs := (vals.take valid).map d32
  let e := blockExponent f src expo vs
  let els := vs.map (convertElem f rnd e 0)
  let raws := els.map (·.raw)
  let pad := if f.isKA then List.replicate (512 - valid) 0 else []
  (packRaws f (raws ++ pad), e, blockCounts f vs els, finitePeak vs)

/-- One part of a token's outputs: the entry that writes it, its runs of bytes, what it counts and the largest source magnitude. -/
structure OutPart where
  entry  : Nat
  writes : List (Nat × List Byte)
  counts : Counts
  peak   : Rat
deriving DecidableEq, Repr

/-- The output blocks of one token, formatted at their roots (R151, R159); `roots` are the group results of the root entries by group. -/
def ArrayRun.formatToken (r : ArrayRun) (t : Task) (pl : Place) (f : Fmt) (token : Nat) (roots : List (Nat × List Nat)) : List OutPart :=
  let n := outLen pl r.rev
  let per := if r.rev then pl.kr else pl.nr
  let src := expSrc (t.fld 56 1 / 16) t.layerOf
  let expo := if src == 2 then t.fld 57 1 else r.expo
  let elems := r.addr 16 + token * tokenBytes f n
  let exps := r.addr 24 + token * blocks512 n
  roots.flatMap fun g => (List.range per).filterMap fun b =>
    let ob := g.1 * per + b
    if n ≤ 512 * ob then none
    else
      let o := formatBlock f (arrRnd t) src expo ((g.2.drop (512 * b)).take 512) (Nat.min 512 (n - 512 * ob))
      some ⟨if r.rev then g.1 else g.1 * pl.slabs,
        [(elems + ob * 512 * f.bytes, o.1)] ++ (if f.isKA then [(exps + ob, [BitVec.ofNat 8 o.2.1])] else []), o.2.2.1, o.2.2.2⟩

/-- The zero map bytes of one token, written by the entries of column group 0 (R99, R149). -/
def State.zmapToken (s : State) (r : ArrayRun) (pl : Place) (f : Fmt) (token : Nat) : List OutPart :=
  let z := r.addr 32
  if r.rev || z == 0 then []
  else (List.range (blocks512 pl.k)).map fun b =>
    ⟨b / pl.kr, [(z + (token * blocks512 pl.k + b) * 2, leBytes 2 (zeroMap (s.inputBlock r pl f token b).1))], Counts.none, 0⟩

/-- Runs of bytes stored with their seals, and the blocks whose merge failed. -/
def State.putRanges (s : State) (ws : List (Nat × List Byte)) : State × List Nat :=
  ws.foldl (fun acc w => let r := acc.1.store w.1 w.2; (r.1, acc.2 ++ r.2)) (s, [])

/-- What writing parts in order leaves: the state, what the written ones count, the blocks written, and the entry and the cause of the
first that could not be written, after which none is. -/
structure PutAcc where
  state  : State
  counts : Counts
  blocks : List Nat
  stop   : Option (Nat × Stop)

/-- One part is written: nothing of it where an address of it is in no installed range (R304). A block of it whose merge fails keeps its
content (R382). -/
def PutAcc.put (a : PutAcc) (p : OutPart) : PutAcc :=
  if a.stop.isSome then a
  else match p.writes.findSome? fun w => faultIn w.1 w.2.length with
    | some x => { a with stop := some (p.entry, .fault x) }
    | none =>
      let r := a.state.putRanges p.writes
      match r.2 with
      | [] => { a with state := r.1, counts := a.counts.add p.counts, blocks := a.blocks ++ p.writes.flatMap fun w => blocksOf w.1 w.2.length }
      | k :: _ => { a with state := r.2.foldl (fun u b => u.sealFail b 0x0101) r.1, stop := some (p.entry, .seal k) }

/-! The additions across panels (R156). -/

/-- The slabs of a group and token whose partials have not been added yet. -/
def State.slabsLeft (s : State) (task group token : Nat) : List Nat :=
  (s.partials.filter fun p => p.task == task && p.group == group && p.token == token).map (·.slab)

/-- The slab whose partial the entry at slab `k` adds next, if any is still to come. -/
def nextSender (left : List Nat) (k : Nat) : Option Nat :=
  ((List.range 10).map fun i => 2 ^ i).findSome? fun st =>
    if k % (2 * st) == 0 && left.contains (k + st) then some (k + st) else none

/-- Every group of a token is merged into its root. -/
def State.tokenMerged (s : State) (task token : Nat) : Bool :=
  s.partials.all fun p => !(p.task == task && p.token == token) || p.slab == 0

/-- The partials of one token leave the list. -/
def State.dropToken (s : State) (task token : Nat) : State :=
  { s with partials := s.partials.filter fun p => !(p.task == task && p.token == token) }

/-- The count record (Table 4-10). -/
def countRecord (r : ArrayRun) : List Byte :=
  let sat (n v : Nat) := leBytes n (Nat.min v (256 ^ n - 1))
  let c := r.counts
  sat 8 c.conv ++ sat 8 c.satConv ++ sat 8 c.clipConv ++ sat 4 r.skipped ++ sat 4 r.added ++ sat 4 r.outliers ++ sat 4 c.ovf ++
    sat 4 c.rereads ++ sat 4 c.sat ++ sat 4 c.satBlocks ++ sat 4 c.vanished ++ sat 4 r.slots ++ leBytes 4 0

/-- The role of an array read (Table 10-1). -/
def ArrayRun.role (r : ArrayRun) : Nat := if r.rev then 1 else 0

/-- What an array task leaves for its completion: the count record (R119), its counts for the watch, its slot, and the events once per
task (R124). -/
def State.arrayPost (s : State) (t : Task) (r : ArrayRun) (st : Nat) : List Post :=
  let l := t.layerOf
  let whole := st != stAborted && st != stSeal
  (if r.addr 40 == 0 || r.prepass then [] else [Post.store (r.addr 40) (countRecord r)]) ++
    (if r.prepass then [] else [Post.watch l r.role r.counts]) ++
    (if !(usesSlot (t.fld 53 1) (t.fld 56 1 / 16)) || decide (4096 ≤ l) then []
     else if whole && !r.prepass then [Post.estimate l r.role r.peak r.expo r.counts.vanished r.slot]
     else match r.slot with | some w => [Post.restoreSlot l r.role w] | none => []) ++
    ([0, 1, 2].filterMap fun i => (nth r.firsts i none).map fun page =>
      Post.log page (0x0102 + i) [panelPhys page, nth [r.counts.ovf, r.counts.rereads, r.counts.clipConv % 2 ^ 32] i 0]) ++
    [Post.readBack (s.entryPage (nth r.placement.ents 0 0)) r.blocks]

/-- An array task ends (Table 4-11). -/
def State.endArray (s : State) (t : Task) (r : ArrayRun) : State :=
  let s := { s with arrRuns := s.arrRuns.filter fun x => x.task != r.task }
  match r.ending with
  | some (st, event, detail) => s.endTask t st 0 event detail (s.arrayPost t r st)
  | none =>
    let st := if r.kept == 0 then stDone else stClipped
    s.endTask t st 0 0 0 (s.arrayPost t r st)

/-- The oldest token still to be written has every group merged: it is formatted and written, or, in a pre-pass, only measured
(R151, R254). A part that could not be written ends the run at this token: a failed merge as an input block that fails its seal would,
counted at the panel of the root that writes it (DESIGN CHOICE, log 155). -/
def State.tokenDone (s : State) (t : Task) (pl : Place) (fi fo : Fmt) (r : ArrayRun) : State × ArrayRun :=
  let token := r.written
  let roots := (s.partials.filter fun p => p.task == t.seq && p.token == token).map fun p => (p.group, p.vals)
  let out := r.formatToken t pl fo token roots
  let s := s.dropToken t.seq token
  let peak := peakKF16 (out.foldl (fun m o => if m < o.peak then o.peak else m) 0)
  let r := { r with written := token + 1, peak := if (mKF16.decode r.peak).q < (mKF16.decode peak).q then peak else r.peak }
  if r.prepass then (s, r)
  else
    let a := (s.zmapToken r pl fi token ++ out).foldl PutAcc.put ⟨s, Counts.none, [], none⟩
    let r := { r with counts := r.counts.add a.counts, blocks := (r.blocks ++ a.blocks).eraseDups }
    match a.stop with
    | none => (a.state, r)
    | some (e, x) => a.state.noteStop t r pl e token x

/-- Tokens whose groups are all merged are formatted in order; the run ends when every token it will write is written. -/
def State.advanceFor (fuel : Nat) (s : State) (t : Task) (pl : Place) (fi fo : Fmt) (r : ArrayRun) : State :=
  match fuel with
  | 0 => s.setArrayRun r
  | n + 1 =>
    if r.tokens ≤ r.written then
      let s := { s with partials := s.partials.filter fun p => p.task != t.seq }
      if r.prepass && r.ending.isNone then s.setArrayRun r else (s.setArrayRun r).endArray t r
    else if s.tokenMerged t.seq r.written then
      let d := s.tokenDone t pl fi fo r
      d.1.advanceFor n t pl fi fo d.2
    else s.setArrayRun r

/-- The run goes on as far as its partials allow, once every panel has started it. -/
def State.advance (s : State) (t : Task) (r : ArrayRun) : State :=
  match arrIn t, arrOut t with
  | some fi, some fo => if r.todo.isEmpty then s.advanceFor (r.tokens - r.written + 2) t r.placement fi fo r else s.setArrayRun r
  | _, _ => s

/-! Starting on the panels (R158). -/

/-- The reads of one entry on its panel: tokens in ascending order, up to the first that fails. -/
def State.readEntry (s : State) (t : Task) (pl : Place) (fi : Fmt) (r : ArrayRun) (e : Nat) : State × ArrayRun :=
  let stop := (List.range r.tokens).findSome? fun k => (s.entryStop r pl fi e k).map fun x => (k, x)
  let ins := (List.range (match stop with | some (k, .seal _) => k + 1 | some (k, .fault _) => k | none => r.tokens)).flatMap (r.entryIn pl fi e)
  let s := s.readChecked ins 0x0101
  let n := match stop with | some (k, x) => s.noteStop t r pl e k x | none => (s, r)
  let out := (List.range n.2.tokens).foldl (fun (acc : State × ArrayRun) token =>
    acc.1.readToken t acc.2 pl fi e token (s.entryBlocks r pl fi token e)) n
  ({ out.1 with fresh := out.1.fresh + 1 }, out.2)

/-- A panel is held by a task that has started on it. -/
def State.holdPage (s : State) (n page : Nat) : State :=
  { s with tasks := s.tasks.map fun t => if t.seq == n then { t with pages := t.pages ++ [page] } else t }

/-- The state, tag or format of a panel refuses a task (R120). -/
def State.panelRefuses (s : State) (pl : Place) (page : Nat) : Bool :=
  !s.serves page || s.rf page R.PANEL.CONTENT_TAG != pl.tag || (s.panelFmt page).code != pl.fmt

/-- The operand record is read by the first panel that starts (R118): refused where it lies in no installed range or fails its seal. -/
def State.readOperands (s : State) (t : Task) (r : ArrayRun) (pl : Place) (e : Nat) : State × ArrayRun :=
  if !r.opnd.isEmpty then (s, r)
  else match faultIn (t.addr 40) 64 with
    | some a => let n := s.noteStop t r pl e 0 (.fault a); (n.1, n.2.halt (n.2.ending.getD (stAborted, 0, 0)))
    | none =>
      let ks := blocksOf (t.addr 40) 64
      let s := (s.cacheUse (t.addr 40) 64).check ks 0x0101
      match s.firstBad ks with
      | some k => let n := s.noteStop t r pl e 0 (.seal k); (n.1, n.2.halt (n.2.ending.getD (stSeal, 0, 0)))
      | none => (s, { r with opnd := s.bytes (t.addr 40) 64 })

/-- A task starts on the panel of an entry (R109, R120): its banks swap, and its reads run. -/
def State.startEntry (s : State) (t : Task) (fi : Fmt) (r : ArrayRun) (e : Nat) : State × ArrayRun :=
  let pl := r.placement
  let page := s.entryPage (nth pl.ents e 0)
  let r := { r with todo := r.todo.filter (· != e) }
  if s.entryAlias (nth pl.ents e 0) == 0xFF then (s, r.halt (stRetired, 0, 0))
  else if s.panelRefuses pl page then
    ((s.log t.unit 0x0105 [panelPhys page, s.content page, s.rf page R.PANEL.CONTENT_TAG, b2n (s.panelFmt page == .kw2)]).cause page 0,
      r.halt (stAborted, 0x0105, panelPhys page))
  else
    let o := s.readOperands t r pl e
    if o.2.opnd.isEmpty then o
    else ((o.1.holdPage t.seq page).swapBank page).readEntry t pl fi o.2 e

/-- The entries that a handed-over array task has still to start on, with its placement descriptor. -/
def State.waits (s : State) (n : Nat) : List Nat :=
  match s.arrayRun? n, s.loadRuns.find? fun r => r.task == n with
  | some r, _ => r.todo.map fun e => nth r.placement.ents e 0
  | none, some r => r.todo.map fun e => nth (placeOf r.place).ents e 0
  | none, none => []

/-- An array task may start on the panel of an entry: an earlier one in the order of hand-over waits for it no more, and it is free, or its
logical panel has none (R143, R158, R160). -/
def State.mayStart (s : State) (n w : Nat) : Bool :=
  let first := (s.arrOrder.takeWhile (· != n)).all fun m => !(s.waits m).any fun x => entryKey x == entryKey w
  let a := s.entryAlias w
  first && (a == 0xFF || (a != 0xFE && s.panelFree (s.entryPage w) && s.clocked (pllArray (entryDie w))))

/-- An array read starts on the panel of one entry, if it may. -/
def State.tryEntry (n : Nat) (s : State) (e : Nat) : State :=
  match s.task? n, s.arrayRun? n with
  | some t, some r => match arrIn t with
    | some fi =>
      if r.todo.contains e && s.mayStart n (nth r.placement.ents e 0) then
        let x := s.startEntry t fi r e
        x.1.setArrayRun x.2
      else s
    | none => s
  | _, _ => s

/-- An array read starts on every panel that is free for it, and goes on as far as it can (R158). -/
def State.startArray (s : State) (n : Nat) : State :=
  match s.arrayRun? n with
  | some r =>
    let s := r.todo.foldl (State.tryEntry n) s
    match s.task? n, s.arrayRun? n with
    | some t, some r => s.advance t r
    | _, _ => s
  | none => s

/-- A run before its first token. -/
def ArrayRun.start (t : Task) (place : List Byte) (rev prepass : Bool) (expo : Nat) (slot : Option Word) : ArrayRun :=
  ⟨t.seq, place, [], List.range (placeOf place).count, rev, prepass, expo, slot, arrTokens t, 0, none, Counts.none, 0, 0, 0, 0, 0, 0,
    [none, none, none], []⟩

/-- A task that passed its checks is handed over: its slot is read (R251, R254), and it starts on its free panels. -/
def State.handArray (s : State) (t : Task) (unit : Nat) (place : List Byte) (rev : Bool) (fo : Fmt) : State :=
  let s := s.handOver t .running unit [] 0
  let l := t.layerOf
  let role := if rev then 1 else 0
  let uses := usesSlot (t.fld 53 1) (t.fld 56 1 / 16) && decide (l < 4096)
  let slot := s.slot l role
  let pre := uses && slotPrepass slot
  let s := if pre then s.notePrepass l [role] else s
  let r := ArrayRun.start t place rev pre (if uses && !pre then slotExponent fo (slotAmax slot) else 0) (if pre then some slot else none)
  ({ s with arrRuns := s.arrRuns ++ [r], arrOrder := s.arrOrder ++ [t.seq] }).startArray t.seq

/-- ARRAY_FWD and ARRAY_REV at dispatch, in the order of R120, R155 and R160. Where several refusals apply, `TOKENS` 0 comes first, then
the descriptor's address, its seal, the formats, its checks, a panel that does not exist (DESIGN CHOICE, log 156). -/
def State.dispatchArray (s : State) (t : Task) (rev : Bool) : State :=
  let pa := t.addr 32
  let unit := s.arrayUnit pa 0
  if t.fld 48 4 == 0 then s.refuseTask t unit stDone 0 0 0 []
  else match faultIn pa 4096 with
  | some a => s.faultTask t unit 0 a
  | none =>
    let k := pa / 4096
    let place := s.bytes pa 4096
    let pl := placeOf place
    let s := (s.cacheUse (4096 * k) 4096).check [k] 0
    if !s.blockOk k then s.refuseTask t unit stSeal 0 0 0 []
    else match arrIn t, arrOut t with
      | some _, some fo =>
        let c := pl.check
        if c != 0 then s.refuseTask t unit stAborted c 0x0120 0 [c, pl.layer, pa % 2 ^ 32]
        else if (pl.ents.map s.entryAlias).contains 0xFF then s.refuseTask t unit stRetired 0 0 0 []
        else s.handArray t unit place rev fo
      | _, _ => s.refuseTask t unit stAborted 0 0x0108 0 [s.entryAlias (nth pl.ents 0 0), t.fld 52 1 % 64, t.fld 53 1 % 64]

/-- The ranges of memory that an array read touches (R28). -/
def arrayRanges (t : Task) (pl : Place) (o : List Byte) (rev : Bool) : List (Nat × Nat) :=
  let n := arrTokens t
  let i := inLen pl rev
  let k := outLen pl rev
  [(t.addr 32, 4096), (t.addr 40, 64), (recAddr o 0, n * blocks512 i * 1024), (recAddr o 8, n * blocks512 i),
    (recAddr o 16, n * blocks512 k * 1024), (recAddr o 24, n * blocks512 k), (recAddr o 32, n * 2 * blocks512 i)]

/-- The same for a run, whose operand record may still lie in memory. -/
def State.runRanges (s : State) (t : Task) (r : ArrayRun) : List (Nat × Nat) :=
  arrayRanges t r.placement (if r.opnd.isEmpty then s.bytes (t.addr 40) 64 else r.opnd) r.rev

/-- An array task runs where every array die that its descriptor names is clocked (R466). -/
def State.onArrayDies (s : State) (pl : Place) (k : State → State) : Host.Outcome State Fault Refusal :=
  match (pl.ents.map fun e => pllArray (entryDie e)).find? fun b => !s.clocked b with
  | some b => .fault (.dieUnclocked b)
  | none => .next (k s)

/-- ARRAY_FWD and ARRAY_REV: the dispatch of a task that may be dispatched, or the start of one handed over on panels that have become free
since (R158, R287; DESIGN CHOICE, log 157). -/
def State.runArray (s : State) (n type : Nat) (rev : Bool) : Host.Outcome State Fault Refusal :=
  match s.dispatchable n [type] with
  | some t =>
    let pl := placeOf (s.bytes (t.addr 32) 4096)
    s.onArrayDies pl fun s => s.whenFree (arrayRanges t pl (s.bytes (t.addr 40) 64) rev) fun s => s.dispatchArray t rev
  | none => match s.task? n, s.arrayRun? n with
    | some t, some r => if r.rev == rev then s.onArrayDies r.placement fun s => s.whenFree (s.runRanges t r) fun s => s.startArray n else .next s
    | _, _ => .next s

/-- ARRAY_FWD (R120). -/
def execArrayFwd (n : Nat) (s : State) : Host.Outcome State Fault Refusal := s.runArray n 0x11 false

/-- ARRAY_REV (R113, R159). -/
def execArrayRev (n : Nat) (s : State) : Host.Outcome State Fault Refusal := s.runArray n 0x12 true

/-- One transfer of R156: the receiver adds its next sender's group results for the token, or finds that their seal fails (R157). -/
def State.addPartial (s : State) (t : Task) (r : ArrayRun) (group token receiver : Nat) (sealOk : Bool) : State :=
  let pl := r.placement
  let left := s.slabsLeft t.seq group token
  let get (k : Nat) : List Nat :=
    match s.partials.find? fun p => p.task == t.seq && p.group == group && p.token == token && p.slab == k with
    | some p => p.vals
    | none => []
  match nextSender left receiver with
  | none => s
  | some k =>
    if !r.todo.isEmpty || token != r.written || (nextSender left k).isSome || !left.contains receiver then s
    else if sealOk then
      let a := get receiver
      let b := get k
      let sum := (List.range a.length).map fun i => add32 (nth a i 0) (nth b i 0)
      let kept := s.partials.filter fun (p : Partial) =>
        !(p.task == t.seq && p.group == group && p.token == token && (p.slab == k || p.slab == receiver))
      let s : State := { s with partials := kept ++ [⟨t.seq, group, token, receiver, sum⟩] }
      s.advance t r
    else
      let ent (slab : Nat) : Nat := if r.rev then slab * pl.slabs + group else group * pl.slabs + slab
      let page := s.entryPage (nth pl.ents (ent receiver) 0)
      let s := (((s.err page 0x0122 token).log page 0x0122 [ent k, ent receiver, token % 65536])).cause page 1
      s.advance t (r.stopAt token (stSeal, 0x0122, panelPhys page))

/-- CROSS_PANEL_PARTIAL (R156, R157): groups of a token in any order, the additions of each in the fixed order, tokens ascending. -/
def execCrossPanelPartial (n group token receiver : Nat) (sealOk : Bool) (s : State) : Host.Outcome State Fault Refusal :=
  .next (match s.task? n, s.arrayRun? n with
    | some t, some r => s.addPartial t r group token receiver sealOk
    | _, _ => s)

/-- A measuring pre-pass of an array task has ended (R254): `AMAX` becomes what it met, and the task runs in full on the panels that it
holds, under the exponent that results. -/
def State.arrayMeasured (s : State) (t : Task) (r : ArrayRun) : State :=
  match arrIn t, arrOut t with
  | some fi, some fo =>
    if r.prepass && r.todo.isEmpty && decide (r.tokens ≤ r.written) then
      let s := s.measureSlot t.layerOf r.role r.peak
      let r := { ArrayRun.start t r.place r.rev false (slotExponent fo (slotAmax (s.slot t.layerOf r.role))) r.slot with opnd := r.opnd, todo := [] }
      let x := (List.range r.placement.count).foldl (fun (acc : State × ArrayRun) e => acc.1.readEntry t r.placement fi acc.2 e) (s, r)
      (x.1.setArrayRun x.2).advance t x.2
    else s
  | _, _ => s

end Sys2Proof.Machine
end

