-- ==== Sys2Proof/Machine/Bar4.lean ====
section
/-! DEFINITION. BAR4 (R32, Table 2-3): the MSI-X table, the pending-bit array and the CXL component registers, as offsets of BAR4. Where
the capabilities stand in the component registers, and their bits, are taken from the PCI Express and CXL standards (PRESUMED, log
60). -/

namespace Sys2Proof.Machine

/-! The MSI-X table (R50, R53). -/

/-- A raise that was pending while its vector was masked is sent, or merges into the message of the interval that runs (R53). -/
def State.flushVector (s : State) (v : Nat) : State :=
  if !s.vecPending v then s
  else if (aget? s.host.moderating v).isSome then { s with host := { s.host with moderating := aput s.host.moderating v true } }
  else s.sendVector v

/-- The vector-control word of a table entry is written: bit 0 masks the vector. -/
def State.writeMask (s : State) (v : Nat) (on : Bool) : State :=
  let t := s.setBar4 (16 * v + 12) (BitVec.ofNat 32 (b2n on))
  if s.masked v && !on then t.flushVector v else t

/-- A vector is unmasked. -/
def State.unmask (s : State) (v : Nat) : State := s.writeMask v false

/-- A word of the table is written: address, data, or vector control. -/
def State.writeMsix (s : State) (o : Nat) (w : Word) : State :=
  if o % 16 == 12 then s.writeMask (o / 16) (bit w.toNat 0)
  else s.setBar4 o (if o % 16 == 0 then setBits w 1 0 0 else w)

/-- A word of the pending-bit array: a vector that waits for unmasking. -/
def State.pbaWord (s : State) (k : Nat) : Nat :=
  ((List.range 32).map fun i => if s.masked (32 * k + i) && s.vecPending (32 * k + i) then 2 ^ i else 0).sum

/-! The component registers. -/

/-- How a word of the component registers takes a write. -/
inductive CompAcc where
  | rw (mask : Nat)
  | w1c
  | hdmBase (high : Bool)
  | hdmCtl

/-- The words of the component registers that software writes, by offset of BAR4: RAS at 0x1_1080, link at 0x1_1100, HDM decoder at
0x1_1200, IDE at 0x1_1300. -/
def compAcc (o : Nat) : Option CompAcc :=
  match o with
  | 0x11080 | 0x1108C | 0x1130C => some .w1c
  | 0x11084 | 0x11088 | 0x11090 | 0x11094 | 0x11108 | 0x11304 => some (.rw (2 ^ 32 - 1))
  | 0x11204 => some (.rw 3)
  | 0x11210 => some (.hdmBase false)
  | 0x11214 => some (.hdmBase true)
  | 0x11218 => some (.rw 0xF0000000)
  | 0x1121C => some (.rw (2 ^ 32 - 1))
  | 0x11220 => some .hdmCtl
  | _ => none

/-- The capability header of the component registers: the array's own word, then RAS, link, HDM decoder and IDE. -/
def compHeader (o : Nat) : Option Nat :=
  match o with
  | 0x11000 => some 0x04110001
  | 0x11004 => some 0x08030002
  | 0x11008 => some 0x10020004
  | 0x1100C => some 0x20030005
  | 0x11010 => some 0x30010009
  | _ => none

/-- A word of the component registers is written. `HOST.HDM_BASE_LO` and `HDM_BASE_HI` mirror the decoder's base (R56); a decoder
that is committed says so. -/
def State.writeComp (s : State) (o : Nat) (w : Word) : State :=
  match compAcc o with
  | some (.rw m) => s.setBar4 o (BitVec.ofNat 32 (w.toNat &&& m))
  | some .w1c => s.setBar4 o (BitVec.ofNat 32 ((s.bar4Word o).toNat - ((s.bar4Word o).toNat &&& w.toNat)))
  | some (.hdmBase high) =>
    let v := if high then w.toNat else w.toNat &&& 0xF0000000
    (s.setBar4 o (BitVec.ofNat 32 v)).wf pgHost (if high then R.HOST.HDM_BASE_HI else R.HOST.HDM_BASE_LO) v
  | some .hdmCtl => s.setBar4 o (setBits w 10 10 (getBits w 9 9))
  | none => s

/-- Data that a failed flit had already brought into use are reported in the RAS capability (R57): its uncorrectable error status shows
an IDE receive error. -/
def State.rasIde (s : State) : State := s.setBar4 0x11080 (setBits (s.bar4Word 0x11080) 16 16 1)

/-! Accesses. -/

/-- The first offset past the MSI-X table. -/
def pbaBase : Nat := 0x8000

/-- The base of the component registers. -/
def compBase : Nat := 0x10000

/-- A write of a word of BAR4; the pending bits are read-only. -/
def State.writeBar4 (s : State) (o : Nat) (w : Word) : State :=
  if o % 4 != 0 then s else if o < pbaBase then s.writeMsix o w else if o < compBase then s else s.writeComp o w

/-- A read of a word of BAR4, with the state that has drawn what only the CXL standard gives. -/
def State.readBar4 (s : State) (o : Nat) : Nat × State :=
  if o % 4 != 0 || 0x20000 ≤ o then (0, s)
  else if o < pbaBase then ((s.bar4Word o).toNat, s)
  else if o < compBase then (if o < pbaBase + 256 then s.pbaWord ((o - pbaBase) / 4) else 0, s)
  else match compHeader o, compAcc o with
    | some h, _ => (h, s)
    | none, some _ => ((s.bar4Word o).toNat, s)
    | none, none => ((s.draw o).1.toNat, (s.draw o).2)

end Sys2Proof.Machine
end

