-- ==== Sys2Proof/Machine/Dma.lean ====
section
/-! DEFINITION. Memory controllers and DMA (R306 to R318, R326 to R328): bursts with their seals, channels, DMA_COPY, request lines,
and the errors of DRAM lines. A burst reads and writes at once. -/

namespace Sys2Proof.Machine

/-! Moving bytes with their seals (R314). -/

/-- What a move of bytes leaves: the source blocks checked so far, the blocks written, and the block that failed, with the state. -/
structure Moved where
  s       : State
  checked : List Nat
  wrote   : List Nat
  bad     : Option Nat

/-- A piece within one destination block (Table 12-5). A block that is copied whole from device to device, in one piece or in several,
carries its seal: the entry is written with its last byte. An uncorrectable line of it ends the move (R308). -/
def Moved.piece (m : Moved) (whole : Bool) (src dst n : Nat) : Moved :=
  let s := m.s
  let sk := src / 4096
  let dk := dst / 4096
  let done := { m with wrote := if m.wrote.contains dk then m.wrote else m.wrote ++ [dk] }
  if whole then
    if s.badBlock sk then { m with s := s.sealFail sk 0x0703, bad := some sk }
    else
      let t := { s with traffic := tally s.traffic sk n 0 }.put dst (s.bytes src n)
      { done with s := if (dst + n) % 4096 == 0 then t.setSeal dk (s.sealEntry sk) else t }
  else
    let ks := (blocksOf src n).filter fun k => !inHost (4096 * k) && !m.checked.contains k
    let c := s.check ks 0x0703
    match s.firstBad ks with
    | some k => { m with s := c, bad := some k }
    | none =>
      let w := c.store dst (s.bytes src n)
      match w.2 with
      | k :: _ => { m with s := w.1.sealFail k 0x0703, checked := m.checked ++ ks, bad := some k }
      | [] => { done with s := w.1, checked := m.checked ++ ks }

/-- A destination block lies wholly in a transfer from `lo` up to `hi` of bytes that lie as far into their blocks at `src` as at `dst`, both in
the device. -/
def carried (src dst lo hi : Nat) : Bool :=
  src % 4096 == dst % 4096 && !inHost src && !inHost dst && decide (lo ≤ dst / 4096 * 4096) && decide (dst / 4096 * 4096 + 4096 ≤ hi)

/-- The pieces of a range by destination block: (offset, length). -/
def pieces (dst len : Nat) : List (Nat × Nat) :=
  (blocksOf dst len).map fun k =>
    let lo := Nat.max dst (4096 * k)
    let hi := Nat.min (dst + len) (4096 * k + 4096)
    (lo - dst, hi - lo)

/-- A run of bytes of a transfer to the range from `lo` up to `hi`, moved piece by piece until a block fails. -/
def Moved.run (m : Moved) (src dst len lo hi : Nat) : Moved :=
  (pieces dst len).foldl (fun u p =>
    if u.bad.isSome then u else u.piece (carried (src + p.1) (dst + p.1) lo hi) (src + p.1) (dst + p.1) p.2) m

/-- A transfer of its own. -/
def Moved.copy (m : Moved) (src dst len : Nat) : Moved := { m with s := m.s.cacheUse src len }.run src dst len dst (dst + len)

/-- A run of bytes written with seals. -/
def Moved.fill (m : Moved) (dst : Nat) (b : List Byte) : Moved :=
  if m.bad.isSome then m
  else
    let w := m.s.store dst b
    match w.2 with
    | k :: _ => { m with s := w.1.sealFail k 0x0703, bad := some k }
    | [] => { m with s := w.1, wrote := (m.wrote ++ blocksOf dst b.length).eraseDups }

/-! Channels (R309 to R313). -/

/-- A channel that has run nothing. -/
def Chan.idle : Chan := ⟨false, none, [], none, [], 3, false, 0, false, 0, 0, [], [], 0⟩

/-- A channel of a memory-side die. -/
def State.chan (s : State) (n c : Nat) : Chan := aget s.chans (32 * n + c) Chan.idle

/-- The state with a channel replaced. -/
def State.setChan (s : State) (n c : Nat) (v : Chan) : State := { s with chans := aput s.chans (32 * n + c) v }

/-- A field of a channel. -/
def State.cf (s : State) (n c : Nat) (f : Fld) : Nat := s.rf (pgDma n c) f (c % 8)

/-- A field of a channel replaced. -/
def State.setCf (s : State) (n c : Nat) (f : Fld) (v : Nat) : State := s.wf (pgDma n c) f v (c % 8)

/-- The channel is a direct one. -/
def State.isDirect (s : State) (n c : Nat) : Bool := s.cf n c R.DMA.CH_CTL_OWNER == 1

/-- `CH_STATUS.STATE` of a channel. -/
def State.chanState (s : State) (n c : Nat) : Nat :=
  let v := s.chan n c
  if !v.busy then 0 else if v.ended == 2 then 3
  else if v.ended == 0 && v.pace && s.cf n c R.DMA.CH_STATUS_CREDITS == 0 then 2 else 1

/-- The pages show a channel: its state, `CHAN_BUSY`, `CHAN_OWNER`. -/
def State.showChan (s : State) (n c : Nat) : State :=
  let p := pgMemDie n
  let mask (old : Nat) (b : Bool) : Nat := if b then old ||| 2 ^ c else old - (old &&& 2 ^ c)
  let s := s.setCf n c R.DMA.CH_STATUS_STATE (s.chanState n c)
  let s := s.wf p R.MEM_DIE.CHAN_BUSY (mask (s.rf p R.MEM_DIE.CHAN_BUSY) (s.chan n c).busy)
  s.wf p R.MEM_DIE.CHAN_OWNER (mask (s.rf p R.MEM_DIE.CHAN_OWNER) (s.isDirect n c))

/-- The active set takes a transfer (R310, R312). -/
def State.startXfer (s : State) (n c src dst len : Nat) (v : Chan) : State :=
  let page := pgDma n c
  let i := c % 8
  let s := if (s.chan n c).line == v.line then s else s.setCf n c R.DMA.CH_STATUS_CREDITS 0
  let s := s.setChan n c { v with busy := true, ended := if len == 0 then 1 else 0, first := dst }
  let s := (s.wf64 page R.DMA.ACT_SRC_LO R.DMA.ACT_SRC_HI src i).wf64 page R.DMA.ACT_DST_LO R.DMA.ACT_DST_HI dst i
  (s.setCf n c R.DMA.RESIDUE len).showChan n c

/-- An address without its low six bits, which are reserved. -/
def line64 (a : Nat) : Nat := a / 64 * 64

/-- The channel takes what its shadow holds, if it is idle and something is there (R312). -/
def State.takeShadow (s : State) (n c : Nat) : State :=
  let v := s.chan n c
  let page := pgDma n c
  let i := c % 8
  if v.busy then s
  else if s.isDirect n c then
    if s.cf n c R.DMA.CH_CTL_ARM == 1 then
      (s.setCf n c R.DMA.CH_CTL_ARM 0).startXfer n c (s.rf64 page R.DMA.SRC_LO_ADDR R.DMA.SRC_HI_ADDR i)
        (s.rf64 page R.DMA.DST_LO_ADDR R.DMA.DST_HI_ADDR i) (64 * s.cf n c R.DMA.LEN_BYTES)
        { Chan.idle with
          burst := s.cf n c R.DMA.CFG_BURST, pace := s.cf n c R.DMA.CFG_PACE == 1, line := s.cf n c R.DMA.CFG_REQ_LINE
          irq := s.cf n c R.DMA.CFG_IRQ == 1, stat := s.rf64 page R.DMA.STAT_ADDR_LO_ADDR R.DMA.STAT_ADDR_HI_ADDR i }
    else s
  else match v.shadow, v.next with
  | some t, x :: rest =>
    match s.task? t with
    | some k =>
      (s.setCf n c R.DMA.CH_CTL_ARM 0).startXfer n c x.1 x.2.1 x.2.2
        { Chan.idle with
          task := some t, segs := rest, burst := k.fld 52 1 / 32 % 4, pace := bit (k.fld 52 1) 4, line := k.fld 53 1 }
    | none => s.setChan n c { v with shadow := none, next := [] }
  | _, _ => s

/-- The lowest-numbered graph channel of a die whose shadow is free. -/
def State.freeChan (s : State) (n : Nat) : Option Nat :=
  (List.range 32).find? fun c => !s.isDirect n c && (s.chan n c).shadow.isNone && s.coreReady (pgDma n c)

/-- A DMA_COPY fills a channel's shadow, and an idle channel takes it at once. -/
def State.loadDma (s : State) (t : Task) (n c : Nat) (segs : List (Nat × Nat × Nat)) : State :=
  let page := pgDma n c
  let i := c % 8
  let x := segs.headD (0, 0, 0)
  let s := ((s.wf64 page R.DMA.SRC_LO_ADDR R.DMA.SRC_HI_ADDR x.1 i).wf64 page R.DMA.DST_LO_ADDR R.DMA.DST_HI_ADDR x.2.1 i).setCf n c
    R.DMA.LEN_BYTES (x.2.2 / 64)
  let s := (((s.setCf n c R.DMA.CFG_REQ_LINE (t.fld 53 1)).setCf n c R.DMA.CFG_PACE (b2n (bit (t.fld 52 1) 4))).setCf n c
    R.DMA.CFG_BURST (t.fld 52 1 / 32 % 4)).setCf n c R.DMA.CH_CTL_ARM 1
  (s.setChan n c { s.chan n c with shadow := some t.seq, next := segs }).takeShadow n c

/-- The die's next DMA_COPY goes to a free shadow, if there are both. -/
def State.feedDma (s : State) (n : Nat) : State :=
  match s.dmaQueue.find? (fun w => w.1 == n), s.freeChan n with
  | some w, some c =>
    let s : State := { s with dmaQueue := s.dmaQueue.filter fun x => x.2.1 != w.2.1 }
    s.whenSome (s.task? w.2.1) fun s t => s.loadDma t n c w.2.2
  | _, _ => s

/-- The DMA_COPY tasks of a die go to its free shadows in order (R312, R317). -/
def State.pumpDma (s : State) (n : Nat) : State := s.dmaQueue.foldl (fun u _ => u.feedDma n) s

/-- The length of the next burst of a channel (R311). -/
def State.burstLen (s : State) (n c : Nat) : Nat :=
  let size := 512 * 2 ^ (s.chan n c).burst
  let dst := s.rf64 (pgDma n c) R.DMA.ACT_DST_LO R.DMA.ACT_DST_HI (c % 8)
  Nat.min (size - dst % size) (s.cf n c R.DMA.RESIDUE)

/-- A channel meets a seal failure: logged and counted at its page (R314, R486). -/
def State.dmaSealErr (s : State) (n c k : Nat) : State :=
  let page := pgDma n c
  (s.err page 0x0703 c).log page 0x0703 [c, 4096 * k]

/-- A channel meets an address in no installed range (R304, R486). -/
def State.dmaFault (s : State) (n c a type : Nat) : State := (s.accessFault n a type).err (pgDma n c) 0x0702 c

/-- One burst is read and written (R311, R314). -/
def State.burst (s : State) (n c : Nat) : State :=
  let v := s.chan n c
  let page := pgDma n c
  let i := c % 8
  let src := s.rf64 page R.DMA.ACT_SRC_LO R.DMA.ACT_SRC_HI i
  let dst := s.rf64 page R.DMA.ACT_DST_LO R.DMA.ACT_DST_HI i
  let left := s.cf n c R.DMA.RESIDUE
  let len := s.burstLen n c
  let s := if v.pace then s.setCf n c R.DMA.CH_STATUS_CREDITS (s.cf n c R.DMA.CH_STATUS_CREDITS - 1) else s
  match faultIn src len <|> faultIn dst len with
  | some a => ((s.dmaFault n c a (if v.task.isSome then 0x40 else 0)).setChan n c { v with ended := 4 }).showChan n c
  | none =>
    let m := (Moved.mk (s.cacheUse src len) v.checked v.wrote none).run src dst len v.first (dst + left)
    match m.bad with
    | some k => ((m.s.dmaSealErr n c k).setChan n c { v with ended := 3 }).showChan n c
    | none =>
      let s := m.s.setChan n c { v with checked := m.checked, wrote := m.wrote, ended := if left ≤ len then 1 else 0 }
      let s := (s.wf64 page R.DMA.ACT_SRC_LO R.DMA.ACT_SRC_HI (src + len) i).wf64 page R.DMA.ACT_DST_LO R.DMA.ACT_DST_HI (dst + len) i
      ((s.setCf n c R.DMA.RESIDUE (left - len)).inc64 page R.DMA.BYTES_LO R.DMA.BYTES_HI len i).showChan n c

/-- DMA_BURST_ISSUE (R311): a running channel with bytes left, and a credit when it is paced, moves its next burst. -/
def execDmaBurstIssue (n : Die8) (c : ChanNo) (s : State) : Host.Outcome State Fault Refusal :=
  let v := s.chan n c
  if !v.busy || v.ended != 0 || (v.pace && s.cf n c R.DMA.CH_STATUS_CREDITS == 0) then .next s
  else
    let page := pgDma n c
    let i := (c : Nat) % 8
    s.onDie (pllMem n) fun s =>
      s.whenFree [(s.rf64 page R.DMA.ACT_SRC_LO R.DMA.ACT_SRC_HI i, s.burstLen n c), (s.rf64 page R.DMA.ACT_DST_LO R.DMA.ACT_DST_HI i, s.burstLen n c)]
        fun s => s.burst n c

/-- The status record of a transfer (Table 12-4); an address in no installed range is a fault, and the record is not written (R304). -/
def State.statRecord (s : State) (n c : Nat) (v : Chan) : State :=
  if v.stat == 0 then s
  else match faultIn v.stat 16 with
  | some a => s.dmaFault n c a 0
  | none => s.put v.stat (leBytes 4 (s.cf n c R.DMA.RESIDUE) ++ leBytes 1 v.ended ++ leBytes 1 c ++ leBytes 2 0 ++ leBytes 8 s.now)

/-- The task of a channel ends with its last transfer (Table 12-8). -/
def State.endDma (s : State) (c : Nat) (v : Chan) : State :=
  match v.task.bind s.task? with
  | some t =>
    let post := [Post.readBack (pgDma t.target c) v.wrote]
    match v.ended with
    | 1 => s.endTask t stDone 0 0 0 post
    | 3 => s.endTask t stSeal 0 0x0703 0 post
    | 4 => s.endTask t stAborted 0 0x0702 0 post
    | _ => s.endTask t stAborted 0 0 0 post
  | none => s

/-- A transfer ends (R313); the task's next segment or the shadow follows. -/
def State.endXfer (s : State) (n c : Nat) : State :=
  let v := s.chan n c
  let page := pgDma n c
  let j := c % 8
  let s := (s.setCf n c R.DMA.CH_STATUS_LAST v.ended).statRecord n c v
  let s := s.wf page R.DMA.DONE_COUNT (Nat.min (s.cf n c R.DMA.DONE_COUNT + 1) (2 ^ 32 - 1)) j
  let s := if v.irq then s.cause page j else s
  let s := if v.ended != 1 then s.cause page (16 + j) else s
  let s := if v.ended == 2 then (s.log page 0x0705 [n, c, s.cf n c R.DMA.RESIDUE]).cause page (8 + j) else s
  match v.ended, v.segs with
  | 1, x :: rest => s.startXfer n c x.1 x.2.1 x.2.2 { v with segs := rest }
  | _, _ =>
    let s := (s.setChan n c { v with busy := false, task := none, segs := [], ended := 0, checked := [], wrote := [] }).endDma c v
    ((s.showChan n c).takeShadow n c).pumpDma n

/-- DMA_TRANSFER_END (R313): a transfer that has moved its last byte, failed or been aborted ends. -/
def execDmaTransferEnd (n : Die8) (c : ChanNo) (s : State) : Host.Outcome State Fault Refusal :=
  if !(s.chan n c).busy || (s.chan n c).ended == 0 then .next s
  else s.onDie (pllMem n) fun s => s.endXfer n c

/-! Commands of the channel registers (R309, R312, R315). -/

/-- `CH_CTL.ARM` set on a direct channel. -/
def State.arm (s : State) (n c : Nat) : State :=
  if s.isDirect n c then (s.setCf n c R.DMA.CH_CTL_ARM 1).takeShadow n c else s

/-- CH_ARM (R312). -/
def execChArm (view : View) (n : Die8) (c : ChanNo) (s : State) : Host.Outcome State Fault Refusal :=
  .next (s.onWrite view (pgDma n c) true fun s => s.arm n c)

/-- `CH_CTL.ABORT` of a running direct channel (R315); a transfer that a failure has stopped keeps its `LAST` (DESIGN CHOICE, log 89). -/
def State.abortChan (s : State) (n c : Nat) : State :=
  let v := s.chan n c
  if !s.isDirect n c || !v.busy then s
  else ((s.setCf n c R.DMA.CH_CTL_ARM 0).setChan n c { v with ended := if v.ended ≤ 1 then 2 else v.ended }).showChan n c

/-- CH_ABORT (R315). -/
def execChAbort (view : View) (n : Die8) (c : ChanNo) (s : State) : Host.Outcome State Fault Refusal :=
  .next (s.onWrite view (pgDma n c) false fun s => s.abortChan n c)

/-- `CH_CTL.OWNER` written: applied while the channel is idle with `ARM` 0 (R309). -/
def State.setOwner (s : State) (n c : Nat) (direct : Bool) : State :=
  let v := s.chan n c
  if v.busy || v.shadow.isSome || s.cf n c R.DMA.CH_CTL_ARM == 1 then s
  else ((s.setCf n c R.DMA.CH_CTL_OWNER (b2n direct)).showChan n c).pumpDma n

/-- CH_OWNER_WRITE (R309). -/
def execChOwnerWrite (view : View) (n : Die8) (c : ChanNo) (direct : Bool) (s : State) : Host.Outcome State Fault Refusal :=
  .next (s.onWrite view (pgDma n c) true fun s => s.setOwner n c direct)

/-- A shadow register written (R312): `reg` counts its words from `SRC_LO`. -/
def State.writeShadow (s : State) (view : View) (n c reg : Nat) (w : Word) : State :=
  let page := pgDma n c
  if !s.isDirect n c then s
  else if s.cf n c R.DMA.CH_CTL_ARM == 1 then (s.err page 0x0708 c).log page 0x0708 [n, c, 4 * reg]
  else s.plainWrite view (page + 0x200 + 0x100 * (c % 8) + 4 * reg) w

/-- SHADOW_WRITE (R312). -/
def execShadowWrite (view : View) (n : Die8) (c : ChanNo) (reg : Fin 8) (w : Word) (s : State) : Host.Outcome State Fault Refusal :=
  .next (s.onWrite view (pgDma n c) true fun s => s.writeShadow view n c reg w)

/-- A write of `CH_CTL`: owner, abort and arm together. -/
def State.writeChCtl (s : State) (view : View) (n c : Nat) (w : Word) : State :=
  let s := if view == .bar0 then s.setOwner n c (bit w.toNat 31) else s
  let s := if bit w.toNat 2 then s.abortChan n c else s
  if view == .bar2 then s
  else if bit w.toNat 1 then s.arm n c
  else if s.isDirect n c then s.setCf n c R.DMA.CH_CTL_ARM 0 else s

/-! Request lines (R310). -/

/-- A pulse of a line adds a credit to every channel of the die whose active set is paced by it. -/
def State.pulse (s : State) (n line : Nat) : State :=
  (List.range 32).foldl (fun u c =>
    let v := u.chan n c
    if v.pace && v.line == line then
      (u.setCf n c R.DMA.CH_STATUS_CREDITS (Nat.min 255 (u.cf n c R.DMA.CH_STATUS_CREDITS + 1))).showChan n c
    else u) s

/-- SW_REQ (R310). -/
def execSwReq (view : View) (n : Die8) (line : Byte) (s : State) : Host.Outcome State Fault Refusal :=
  .next (s.onWrite view (pgMemDie n) false fun s => s.pulse n line.toNat)

/-- REQUEST_LINE_PULSE (R310). -/
def execRequestLinePulse (n : Die8) (line : Fin 118) (s : State) : Host.Outcome State Fault Refusal := .next (s.pulse n line)

/-! DMA_COPY (R316, R317). -/

/-- The segments of a DMA_COPY from its segment list's bytes. -/
def segList (b : List Byte) (n : Nat) : List (Nat × Nat × Nat) :=
  (List.range n).map fun i => (line64 (fieldAt b (32 * i) 8 % 2 ^ 52), line64 (fieldAt b (32 * i + 8) 8 % 2 ^ 52), line64 (fieldAt b (32 * i + 16) 4))

/-- `LIST`. -/
def dmaList (t : Task) : Bool := bit (t.fld 52 1) 7

/-- The range of the segment list. -/
def dmaListRange (t : Task) : Nat × Nat := if dmaList t then (line64 (t.addr 32), 32 * t.fld 54 2) else (0, 0)

/-- A DMA_COPY is refused: event 0x0704, check 1. -/
def State.refuseDma (s : State) (t : Task) (n : Nat) : State :=
  s.refuseTask t (pgMemDie n) stAborted 1 0x0704 0 [n, 1, t.addr 32 % 2 ^ 32]

/-- A DMA_COPY that passed its checks joins its die's dispatcher, which fills a shadow as soon as one is free. -/
def State.queueDma (s : State) (t : Task) (n : Nat) (segs : List (Nat × Nat × Nat)) : State :=
  let s := s.handOver t .running (pgMemDie n) [] n
  ({ s with dmaQueue := s.dmaQueue ++ [(n, t.seq, segs)] }).pumpDma n

/-- DMA_COPY at dispatch; the channel that the task would take counts a failing block of its list. -/
def State.dispatchDma (s : State) (t : Task) (n : Nat) : State :=
  let die := pgMemDie n
  let t := { t with target := n }
  let len := line64 (t.fld 48 4)
  let lr := dmaListRange t
  let empty := if dmaList t then t.fld 54 2 == 0 else len == 0
  if empty then s.handOver t (.finished stDone 0 0 0) die [] n
  else if !rangeOk lr.1 lr.2 then s.refuseDma t n
  else
    let ks := blocksOf lr.1 lr.2
    let s := (s.cacheUse lr.1 lr.2).check ks 0x0703
    match s.firstBad ks with
    | some k => (s.dmaSealErr n ((s.freeChan n).getD 0) k).handOver t (.finished stSeal 0 0x0703 0) die [] n
    | none =>
      let segs := if dmaList t then segList (s.bytes lr.1 lr.2) (t.fld 54 2) else [(line64 (t.addr 32), line64 (t.addr 40), len)]
      if segs.all fun x => rangeOk x.1 x.2.2 && rangeOk x.2.1 x.2.2 then s.queueDma t n segs else s.refuseDma t n

/-- DMA_COPY (R317). -/
def execDmaCopy (n : Nat) (s : State) : Host.Outcome State Fault Refusal :=
  match s.dispatchable n [0x40] with
  | some t => match s.pickUnit 0x40 t.hint with
    | some d => s.onDie (pllMem d) fun s => s.whenFree [dmaListRange t] fun s => s.dispatchDma t d
    | none => .next s
  | none => .next s

/-- A block reset stops the eight channels of a DMA page (R315). -/
def State.resetDma (s : State) (n k : Nat) : State :=
  (List.range 8).foldl (fun u j =>
    let c := 8 * k + j
    let v := u.chan n c
    let u := ((u.setCf n c R.DMA.CH_CTL_ARM 0).setCf n c R.DMA.CH_STATUS_LAST 5).setChan n c
      { v with busy := false, task := none, segs := [], shadow := none, next := [], ended := 0, checked := [], wrote := [] }
    let abort (w : State) (t : Option Nat) (ks : List Nat) : State :=
      match t.bind w.task? with | some x => w.endTask x stAborted 0 0 0 [Post.readBack (pgDma n c) ks] | none => w
    (abort (abort u v.task v.wrote) v.shadow []).showChan n c) s

/-! Controllers (R308, R327). -/

/-- The line of an address no longer uncorrectable, or uncorrectable now. -/
def State.markLine (s : State) (l : Nat) (bad : Bool) : State :=
  let ls := s.host.badLines.filter (· != l)
  { s with host := { s.host with badLines := if bad then ls ++ [l] else ls } }

/-- A controller's read of a line completes (R308). -/
def State.readLine (s : State) (a : Nat) (ecc : Ecc) : State :=
  let page := ctlPage a
  let o := blockOwner a
  let l := a / 64
  let s : State := { s with traffic := tally s.traffic (a / 4096) 64 0 }
  match ecc with
  | .good => s.markLine l false
  | .corrected => ((s.markLine l false).inc page R.CTL.CE_COUNT).cause page 1
  | .uncorrectable =>
    let s := (s.markLine l true).inc page R.CTL.UE_COUNT
    let s := (s.wf page R.CTL.UE_ADDR_LO (64 * l)).wf page R.CTL.UE_ADDR_HI_ADDR (64 * l / 2 ^ 32)
    ((s.err page 0x0701 (64 * l)).log page 0x0701 [o.2, 64 * l]).cause page 0

/-- DRAM_READ_COMPLETE (R308). -/
def execDramReadComplete (a : Nat) (ecc : Ecc) (s : State) : Host.Outcome State Fault Refusal :=
  if inTierA a || inTierB a then s.onDie (pllMem (blockOwner a).1) fun s => s.readLine a ecc else .next s

/-- MEM_DIE_COUNT_CLEAR (R326). -/
def execMemDieCountClear (view : View) (n : Die8) (s : State) : Host.Outcome State Fault Refusal :=
  .next (s.onWrite view (pgMemDie n) false fun s => s.clearCounts .memDie (pgMemDie n))

/-- CONTROLLER_COUNT_CLEAR (R327). -/
def execControllerCountClear (view : View) (n : Die8) (tierB : Bool) (i : Fin 4) (s : State) : Host.Outcome State Fault Refusal :=
  let page := if tierB then pgTierB n i else pgStack n i
  .next (s.onWrite view page false fun s => s.clearCounts .stackCtl page)

end Sys2Proof.Machine
end

