-- ==== Sys2Proof/Machine/Load.lean ====
section
/-! DEFINITION. Programming the arrays (chapter 05): code images, loads, refresh, wear, retirement and castling, and the commands that
carry them. A load is written block by block as its image arrives; a refresh and a spare fill take effect whole when they end (DESIGN
CHOICE, log 29). What the cells do is the command's operand (`LoadPhysics`). -/

namespace Sys2Proof.Machine

/-! Wear (R139 to R141). -/

/-- A wear entry of a panel is appended, and committed (R140, R453). -/
def State.wearEntry (s : State) (page : Nat) : State :=
  let s := s.setPanel page { s.panel page with lastWear := s.writes page }
  s.logFirm (pgArrayDie (panelDie page)) 0x011A [panelPhys page, s.writes page]

/-- A panel whose count has reached `WEAR_WARN` warns, once (R141). -/
def State.warnWear (s : State) (page : Nat) : State :=
  let d := pgArrayDie (panelDie page)
  let w := s.writes page
  if !(s.panel page).warned && decide (s.rf d R.ARRAY_DIE.WEAR_WARN ≤ w) then
    ((s.setPanel page { s.panel page with warned := true }).cause d 2).log d 0x0118 [panelPhys page, w]
  else s

/-- The write count of a panel rises (R139), with the warning and the wear entry that it brings. -/
def State.raiseWrites (s : State) (page : Nat) : State :=
  let d := pgArrayDie (panelDie page)
  let s := ((s.inc64 page R.PANEL.WRITES_LO R.PANEL.WRITES_HI 1).inc64 d R.ARRAY_DIE.LOADS_LO R.ARRAY_DIE.LOADS_HI 1).warnWear page
  if decide ((s.panel page).lastWear + s.rf d R.ARRAY_DIE.PERSIST_STEP ≤ s.writes page) then s.wearEntry page else s

/-- The run of an ARRAY_LOAD. -/
def State.loadRun? (s : State) (n : Nat) : Option LoadRun := s.loadRuns.find? fun r => r.task == n

/-- A run of an ARRAY_LOAD changed. -/
def State.mapLoadRun (s : State) (n : Nat) (f : LoadRun → LoadRun) : State :=
  { s with loadRuns := s.loadRuns.map fun r => if r.task == n then f r else r }

/-- The task whose ARRAY_LOAD holds a panel. -/
def State.loaderOf (s : State) (page : Nat) : Option Nat :=
  (s.loadRuns.find? fun r => match s.task? r.task with | some t => t.pages.contains page | none => false).map (·.task)

/-! Code images (Tables 5-1 and 5-2). -/

/-- The fields of a code image header: tag, format, tiles. -/
def State.imageHead (s : State) (a : Nat) : Nat × Nat × Nat := (s.num a 4, s.num (a + 4) 1 % 64, s.num (a + 8) 4)

/-- Tiles of a panel's range that the image holds. -/
def Load.tilesHere (l : Load) : Nat := Nat.min 32 (l.tiles - l.tile)

/-- Where the scales of a panel's tiles lie. -/
def Load.scaleBase (l : Load) : Nat := l.image + 4096 + 65536 * l.tiles + 1024 * l.tile

/-- The device address of the `i`-th block that a panel's load fetches, in the order of R132; none after the last. -/
def Load.blockAddr (l : Load) (i : Nat) : Option Nat :=
  let nt := l.tilesHere
  if i < 16 * nt then some (l.image + 4096 + 65536 * (l.tile + i % nt) + 4096 * (i / nt))
  else
    let j := i - 16 * nt
    if j < (1024 * nt + 4095) / 4096 then some (l.scaleBase + 4096 * j) else none

/-- Blocks that a panel's load fetches. -/
def Load.blockCount (l : Load) : Nat := 16 * l.tilesHere + (1024 * l.tilesHere + 4095) / 4096

/-- The state with a load replaced. -/
def State.setLoad (s : State) (l : Load) : State := { s with loads := s.loads.map fun x => if x.page == l.page then l else x }

/-- A panel's load ends, well or not: `LAST_CHANGED` holds the pairs that it wrote (Table 5-9). -/
def State.dropLoad (s : State) (page : Nat) : State :=
  match s.loads.find? fun x => x.page == page with
  | some l => ({ s with loads := s.loads.filter fun x => x.page != page }).wf (pgArrayDie (panelDie page)) R.ARRAY_DIE.PANEL_REC_LAST_CHANGED
      (Nat.min l.pairs 8388608) (panelPhys page)
  | none => s

/-- What a load records of its image (R132 step 2). -/
def State.recordImage (s : State) (page image tile : Nat) (f : Nat) : State :=
  let d := pgArrayDie (panelDie page)
  let p := panelPhys page
  let s := s.wf64 d R.ARRAY_DIE.IMG_ADDR_LO R.ARRAY_DIE.IMG_ADDR_HI image p
  (s.wf d R.ARRAY_DIE.TILE_BASE tile p).wf d R.ARRAY_DIE.PANEL_REC_FMT (if f == 0x02 then 1 else 0) p

/-- The recorded image address and first tile of a panel. -/
def State.recorded (s : State) (page : Nat) : Nat × Nat :=
  let d := pgArrayDie (panelDie page)
  (s.rf64 d R.ARRAY_DIE.IMG_ADDR_LO R.ARRAY_DIE.IMG_ADDR_HI (panelPhys page), s.rf d R.ARRAY_DIE.TILE_BASE (panelPhys page))

/-- Scale registers from `first` on, as `n` scales at an address give them, the zero ones unlisted. -/
def State.scalesAt (s : State) (a first n : Nat) : List (Nat × Nat) :=
  (List.range n).filterMap fun i => let v := s.num (a + 2 * i) 2; if v == 0 then none else some (first + i, v)

/-- The scale registers that an image gives a panel. -/
def State.imageScales (s : State) (l : Load) : List (Nat × Nat) := s.scalesAt l.scaleBase 0 (l.tilesHere * 512)

/-- The codes that an image gives a panel, as the cells of its copy. -/
def State.imageCodes (s : State) (l : Load) : List Host.Cell :=
  (s.mem.filter fun c => decide (l.image + 4096 + 65536 * l.tile ≤ c.1) &&
    decide (c.1 < l.image + 4096 + 65536 * (l.tile + l.tilesHere))).map fun c => (c.1 - (l.image + 4096 + 65536 * l.tile), c.2)

/-- A FULL load of a panel starts: loading, counted as a write, its image recorded (R132 steps 1 and 2). -/
def State.startFull (s : State) (l : Load) : State :=
  let s := (s.setContent l.page 1).raiseWrites l.page
  let s := s.recordImage l.page l.image l.tile l.fmt
  let s := s.setPanel l.page { s.panel l.page with hasCopy := true, deferred := false, due := false }
  { s with loads := s.loads ++ [{ l with rose := true }] }

/-! Castling (R142 to R144). -/

/-- A die that castles nothing. -/
def Castle.fresh : Castle := ⟨.idle, 0xFF, 0xFF, 0xFF, 0, []⟩

/-- The castling of a die. -/
def State.castle (s : State) (n : Nat) : Castle := aget s.castles n Castle.fresh

/-- `CASTLE_STATUS.STATE`. -/
def CastlePhase.code (p : CastlePhase) : Nat :=
  match p with
  | .idle => 0
  | .arbitrating => 1
  | .filling => 2
  | .remapping => 3

/-- The castling of a die replaced, and shown in `CASTLE_STATUS`. -/
def State.setCastle (s : State) (n : Nat) (c : Castle) : State :=
  ({ s with castles := aput s.castles n c }).wfs (pgArrayDie n) [(R.ARRAY_DIE.CASTLE_STATUS_STATE, c.phase.code),
    (R.ARRAY_DIE.CASTLE_STATUS_QUEUED, Nat.min c.queue.length 8), (R.ARRAY_DIE.CASTLE_STATUS_SPARE, c.spare),
    (R.ARRAY_DIE.CASTLE_STATUS_SOURCE, c.source), (R.ARRAY_DIE.CASTLE_STATUS_LOGICAL, c.logical)]

/-- The spare chosen (R143 step 3): the lowest-numbered, factory spares before reinstated panels. -/
def State.chooseSpare (s : State) (n : Nat) : Option Nat :=
  let spares := (List.range 68).filter fun p => s.isSpare (pgPanel n p) && s.content (pgPanel n p) != 5
  match spares.find? fun p => s.rf (pgPanel n p) R.PANEL.PANEL_INFO_SPARE == 1 with
  | some p => some p
  | none => spares.head?

/-- The load count record (Table 5-5). -/
def loadRecord (r : LoadRun) (ticks : Nat) : List Byte :=
  let sat (n v : Nat) := leBytes n (Nat.min v (256 ^ n - 1))
  sat 4 r.written ++ sat 4 r.rows ++ sat 8 r.pairs ++ sat 4 r.faults ++ sat 4 r.castled ++ sat 4 ticks ++ leBytes 4 0

/-- The count record that an ARRAY_LOAD leaves for its completion (R134). -/
def loadPost (t : Task) (r : LoadRun) (ticks : Nat) : List Post :=
  if t.addr 48 == 0 then [] else [Post.store (t.addr 48) (loadRecord r ticks)]

/-- An ARRAY_LOAD ends once every panel is settled and every castling it caused has finished (R135). -/
def State.tryEndLoad (s : State) (n : Nat) : State :=
  match s.task? n, s.loadRun? n with
  | some t, some r =>
    if !r.todo.isEmpty || (s.loads.any fun l => l.kind == .task n) || t.pages.any (fun p => s.content p == 4) then s
    else
      let s := { s with loadRuns := s.loadRuns.filter fun x => x.task != n }
      let post := loadPost t r (s.now - t.startAt)
      if r.fault then s.endTask t stAborted 0 0x0702 0 post
      else if r.retired then s.endTask t stRetired 0 0 0 post
      else match r.badSeal with
        | some (p, _) => s.endTask t stSeal 0 0x0110 p post
        | none => match r.noSpare with
          | some p => s.endTask t stSpares 0 0x0117 p post
          | none => s.endTask t stDone 0 0 0 post
  | _, _ => s

/-- Every ARRAY_LOAD that may end ends. -/
def State.endLoads (s : State) : State := (s.loadRuns.map (·.task)).foldl State.tryEndLoad s

/-- The entries of a placement descriptor that name a logical panel of a die. -/
def Place.naming (pl : Place) (es : List Nat) (key : Nat) : List Nat := es.filter fun e => entryKey (nth pl.ents e 0) == key

/-- A task that pends on a logical panel for which no spare is left (Table 5-8): a read completes SPARES_EXHAUSTED, a load goes on with
its other entries (R135). -/
def State.loseLogical (key source : Nat) (s : State) (n : Nat) : State :=
  match s.task? n, s.arrayRun? n, s.loadRun? n with
  | some t, some r, _ =>
    if (r.placement.naming r.todo key).isEmpty then s else s.advance t (r.halt (stSpares, 0x0117, source))
  | some _, none, some r =>
    let hit := (placeOf r.place).naming r.todo key
    if hit.isEmpty then s
    else (s.mapLoadRun n fun r => { r with todo := r.todo.filter fun e => !hit.contains e, noSpare := some source }).tryEndLoad n
  | _, _, _ => s

/-- No spare is left (Table 5-8): the logical panel has no physical one, and the tasks pending on it complete SPARES_EXHAUSTED. -/
def State.exhaust (s : State) (n l source : Nat) : State :=
  let d := pgArrayDie n
  let page := pgPanel n source
  let s := s.setAlias n l 0xFF
  let s := (s.setContent page 5).wf page R.PANEL.PANEL_INFO_ALIAS 0xFF
  let s := ((s.countDie n).cause d 1).log d 0x0117 [n, l, s.rf page R.PANEL.CONTENT_TAG]
  let s := s.whenSome (s.loaderOf page) fun s k => s.mapLoadRun k fun r => { r with noSpare := some source }
  (s.arrOrder.foldl (State.loseLogical (n * 64 + l) source) s).endLoads

/-- Castlings of a die start from its queue until one needs a fill or a remap, or none waits. -/
def State.nextCastle (fuel : Nat) (s : State) (n : Nat) : State :=
  match fuel with
  | 0 => s
  | k + 1 =>
    let c := s.castle n
    match c.queue with
    | [] => s.setCastle n Castle.fresh
    | (l, source) :: q =>
      let spare := s.chooseSpare n
      let s := s.log (pgArrayDie n) 0x0114 [source, spare.getD 0xFF, l]
      match spare with
      | none => ((s.exhaust n l source).setCastle n { Castle.fresh with queue := q }).nextCastle k n
      | some spare =>
        let phase := if (s.panel (pgPanel n source)).hasCopy then CastlePhase.arbitrating else CastlePhase.remapping
        s.setCastle n ⟨phase, l, source, spare, s.now, q⟩

/-- The spare of a die's castling starts to fill: a write is counted, and the source's image is recorded. -/
def State.startFill (s : State) (n : Nat) (c : Castle) : State :=
  let img := s.recorded (pgPanel n c.source)
  let hd := s.imageHead img.1
  s.startFull ⟨pgPanel n c.spare, .fill, img.1, img.2, hd.2.1, hd.1, hd.2.2, false, 0, 0, 8388608, [], true, []⟩

/-- The spare of a castling is retired before it serves (Table 5-8, R142): the castling restarts on the next spare, under the grant it
holds when it was filling. With no spare left the logical panel is lost. -/
def State.respare (s : State) (n : Nat) (c : Castle) : State :=
  match s.chooseSpare n with
  | some x =>
    let s := s.log (pgArrayDie n) 0x0116 [c.spare, x]
    let c := { c with spare := x }
    match c.phase with
    | .filling => (s.setCastle n c).startFill n c
    | _ => s.setCastle n { c with phase := if (s.panel (pgPanel n c.source)).hasCopy then .arbitrating else .remapping, retryAt := s.now }
  | none =>
    let s := (s.release mFill n).exhaust n c.logical c.source
    ((s.setCastle n { Castle.fresh with queue := c.queue }).nextCastle (c.queue.length + 1) n).endLoads

/-- A panel is retired (R142); one that serves is castled (R143), one that does not leaves the spares, and a castling that had chosen it
takes another. -/
def State.retire (s : State) (page cause : Nat) : State :=
  let n := panelDie page
  let d := pgArrayDie n
  let p := panelPhys page
  let l := s.servesLogical page
  let s := (s.setHdrBit page oPAGE_STATUS 3 true).wf d R.ARRAY_DIE.PANEL_REC_CAUSE cause p
  let s := (s.setPanel page { s.panel page with retireAs := none }).cause d 3
  let s := (s.log d 0x0113 [p, cause, s.writes page]).wearEntry page
  let c := s.castle n
  if l == 0xFF then
    let s := ((s.invalidate page).setContent page 5).countDie n
    if c.phase != .idle && c.spare == p then s.respare n c else s
  else
    let s := ((s.setContent page 4).setAlias n l 0xFE).countDie n
    let s := s.setCastle n { c with queue := c.queue ++ [(l, p)] }
    if c.phase == .idle then s.nextCastle (c.queue.length + 1) n else s

/-- What waits for the gap after a panel's task (R141, R142): a host's retirement, or a write count at its limit. -/
def State.dueRetirement (s : State) (page : Nat) : State :=
  if s.retired page || s.loadingPanel page || !s.betweenTasks page then s
  else match (s.panel page).retireAs with
    | some c => (s.wf (pgArrayDie (panelDie page)) R.ARRAY_DIE.RETIRE_CTL_OP 0).retire page c
    | none => if decide (s.rf (pgArrayDie (panelDie page)) R.ARRAY_DIE.WEAR_LIMIT ≤ s.writes page) then s.retire page 1 else s

/-! The end of a panel's load. -/

/-- A panel's load ends well (R132 steps 5 to 7): scale registers, programming, tag, state and age. What a deferred refresh left is
settled (R136). -/
def State.settleLoad (s : State) (l : Load) : State :=
  let p := s.panel l.page
  let erased := (List.range 32).filter fun i => decide (l.tilesHere ≤ i)
  let wrote := if l.diff then (if l.changed.isEmpty then p.prog else .pairs l.changed s.fresh :: p.prog) else [.all s.fresh]
  let s := s.setPanel l.page { p with hasCopy := true, scales := l.scales, erased := erased, prog := wrote, deferred := false }
  let s := { s with fresh := s.fresh + 1 }
  let s := (s.wf l.page R.PANEL.CONTENT_TAG l.tag).setContent l.page 2
  ((if l.diff then s else s.wf l.page R.PANEL.CONTENT_AGE 0).setLoad l).dropLoad l.page

/-- The offset that the read path subtracts at a converter, in 1/256 LSB (R104); the check of R128 is taken at `LSB_SEL` 0 (DESIGN CHOICE,
log 158). -/
def State.checkOffset (s : State) (page arr conv : Nat) : Int :=
  if s.rf page R.PANEL.SLEEVE_CTL_CORR_BYPASS == 1 then 0 else s.offset page arr conv 0

/-- The first conversion of a converter check that lies outside ±4 LSB once its offset is subtracted (R128). -/
def State.failsCheck (s : State) (page : Nat) (codes : List (Fin 32 × Fin 96 × BitVec 8)) : Option (Nat × Nat) :=
  (codes.find? fun x => decide (1024 < (256 * x.2.2.toInt - s.checkOffset page x.1 x.2.1).natAbs)).map fun x => (x.1.val, x.2.1.val)

/-- What ends a load of a panel, if anything: a pulse fault (event 0x0111) or a failed converter check (event 0x0112), with array and row or
converter. -/
def State.cellFault (s : State) (page : Nat) (phys : LoadPhysics) : Option (Nat × Nat × Nat) :=
  match phys with
  | .good => none
  | .pulseFault a r => some (0x0111, a.val, r.val)
  | .checked codes => (s.failsCheck page codes).map fun x => (0x0112, x.1, x.2)

/-- A panel fails while it is written (R127, R128): the fault is counted once, at the panel (R486), and logged, `ERR_LAST` of its die names
the panel (R146), and the panel is retired, cause fault. -/
def State.panelFails (s : State) (page : Nat) (f : Nat × Nat × Nat) : State :=
  let d := pgArrayDie (panelDie page)
  let s := ((s.inc d R.ARRAY_DIE.FAULT_COUNT).setReg (d + oERR_LAST) (BitVec.ofNat 32 (f.1 * 2 ^ 16 + panelPhys page))).err page f.1 0
  (((s.log page f.1 [panelPhys page, f.2.1, f.2.2]).cause page 6).dropLoad page).retire page 2

/-- An image block fails its seal while a panel reads it: counted at the panel and the seal unit, event 0x0110. -/
def State.imageSealFail (s : State) (page k : Nat) : State :=
  (((s.err page 0x0110 0).log page 0x0110 [panelPhys page, 4096 * k])).cause page 1

/-! ARRAY_LOAD (R130 to R135). -/

/-- DIFF acts as FULL on a panel that is not settled, of another format, or with an erased array (R131). -/
def State.diffActs (s : State) (page fmt : Nat) : Bool :=
  s.serves page && (s.panelFmt page).code == fmt && (s.panel page).erased.isEmpty

/-- A task's load of one panel starts (R132 steps 1 and 2); its banks swap as for every task (R109). -/
def State.startLoad (s : State) (t : Task) (r : LoadRun) (e page : Nat) : State :=
  let s := (s.holdPage t.seq page).swapBank page
  let image := t.addr 40 / 4096 * 4096
  let diff := t.fld 62 2 / 2 ^ 14 == 1 && s.diffActs page r.image.1
  let l : Load := ⟨page, .task t.seq, image, 32 * e, r.image.1, r.image.2.1, r.image.2.2, diff, 0, 0, 0, [], false, []⟩
  if diff then
    let s := (s.setContent page 1).recordImage page image (32 * e) l.fmt
    { s with loads := s.loads ++ [l] }
  else (s.startFull l).mapLoadRun t.seq fun r => { r with written := r.written + 1 }

/-- A task's load starts on the panel of one entry, if it may (R158); an entry whose logical panel has been lost is not loaded. -/
def State.tryLoad (n : Nat) (s : State) (e : Nat) : State :=
  match s.task? n, s.loadRun? n with
  | some t, some r =>
    let w := nth (placeOf r.place).ents e 0
    if r.todo.contains e && s.mayStart n w then
      let s := s.mapLoadRun n fun r => { r with todo := r.todo.filter (· != e) }
      if s.entryAlias w == 0xFF then s.mapLoadRun n fun r => { r with retired := true } else s.startLoad t r e (s.entryPage w)
    else s
  | _, _ => s

/-- An ARRAY_LOAD starts on every panel that is free for it. -/
def State.startLoads (s : State) (n : Nat) : State :=
  match s.loadRun? n with
  | some r => (r.todo.foldl (State.tryLoad n) s).tryEndLoad n
  | none => s

/-- A load refused by its image header (R135): its record counts nothing. -/
def State.refuseLoad (s : State) (t : Task) (unit st event errDetail : Nat) (ev : List Nat) : State :=
  s.refuseTask { t with post := t.post ++ loadPost t ⟨t.seq, [], (0, 0, 0), [], false, none, false, none, 0, 0, 0, 0, 0⟩ 0 } unit st 0 event errDetail ev

/-- ARRAY_LOAD at dispatch (R120, R132, R135, R155, R160). The first live entry's panel reads the image header; where the header fails its
seal every panel keeps what it held and no write is counted (DESIGN CHOICE, log 159). A refused tag or format stands before an entry
without a panel, and that before a failed seal (Table 5-6). -/
def State.dispatchLoad (s : State) (t : Task) : State :=
  let pa := t.addr 32
  let ia := t.addr 40 / 4096 * 4096
  let count := t.fld 62 2 % 1024
  let first := t.fld 60 2
  let unit := s.arrayUnit pa first
  if count == 0 then s.refuseLoad t unit stDone 0 0 []
  else match faultIn pa 4096 with
  | some a => s.faultTask t unit 0 a
  | none =>
    let k := pa / 4096
    let place := s.bytes pa 4096
    let pl := placeOf place
    let s := (s.cacheUse (4096 * k) 4096).check [k] 0
    if !s.blockOk k then s.refuseTask t unit stSeal 0 0 0 []
    else
      let c := pl.check
      if c != 0 then s.refuseTask t unit stAborted c 0x0120 0 [c, pl.layer, pa % 2 ^ 32]
      else
        let es := (List.range (Nat.min count 512)).filterMap fun i => if first + i < pl.count then some (first + i) else none
        let live := es.filter fun e => s.entryAlias (nth pl.ents e 0) != 0xFF
        let lost := decide (live.length < es.length)
        let reader := (live.map fun e => nth pl.ents e 0).find? fun w => s.entryAlias w != 0xFE
        match faultIn ia 4096 with
        | some a => s.faultTask t unit (faultDie unit) a
        | none =>
          let h := ia / 4096
          let s := (s.cacheUse (4096 * h) 4096).check [h] 0x0110
          if !s.blockOk h then
            let s := match reader with
              | some w => s.imageSealFail (s.entryPage w) h
              | none => s.log unit 0x0110 [0xFF, ia]
            if lost then s.refuseLoad t unit stRetired 0 0 []
            else s.refuseLoad t unit stSeal 0x0110 (match reader with | some w => panelPhys (s.entryPage w) | none => 0xFF) []
          else
            let hd := s.imageHead ia
            if hd.2.1 != pl.fmt || hd.1 == 0 || hd.1 != t.fld 56 4 then
              (s.log unit 0x011D [t.fld 56 4, hd.1, hd.2.1]).refuseLoad t unit stAborted 0x011D 0 []
            else
              let s := s.handOver t .running unit [] 0
              let r : LoadRun := ⟨t.seq, place, (hd.2.1, hd.1, Nat.min hd.2.2 (2 ^ 24)), live, lost, none, false, none, 0, 0, 0, 0, 0⟩
              ({ s with loadRuns := s.loadRuns ++ [r], arrOrder := s.arrOrder ++ [t.seq] }).startLoads t.seq

/-- The ranges of memory that an ARRAY_LOAD touches at its dispatch (R28). -/
def loadRanges (t : Task) : List (Nat × Nat) := [(t.addr 32, 4096), (t.addr 40 / 4096 * 4096, 4096)]

/-- ARRAY_LOAD (R132): the dispatch of a task that may be dispatched, or the start of one handed over on panels that have become free since
(R158, R287; DESIGN CHOICE, log 157). -/
def execArrayLoad (n : Nat) (s : State) : Host.Outcome State Fault Refusal :=
  match s.dispatchable n [0x10] with
  | some t => s.onArrayDies (placeOf (s.bytes (t.addr 32) 4096)) fun s => s.whenFree (loadRanges t) fun s => s.dispatchLoad t
  | none => match s.loadRun? n with
    | some r => s.onArrayDies (placeOf r.place) fun s => s.startLoads n
    | none => .next s

/-- The pairs of 32 rows that differ between a panel's copy and arriving bytes of one tile (R131). -/
def changedPairs (p : Panel) (arr j : Nat) (b : List Byte) : List Nat :=
  (List.range 32).flatMap fun r => (List.range 512).filterMap fun c =>
    if p.code arr (32 * j + r) c == rawAt .kt2 (b.drop (128 * r)) c then none else some (pairNo arr (32 * j + r) c)

/-- The pairs of 32 rows of an array that DIFF erases: those not at (0, 0) already (R131). -/
def erasedPairs (p : Panel) (f : Fmt) (arr j : Nat) : List Nat :=
  (List.range 32).flatMap fun r => (List.range 512).filterMap fun c =>
    if p.diff f arr (32 * j + r) c = 0 then none else some (pairNo arr (32 * j + r) c)

/-- The first `n` of rows 32j to 32j + 31 of every array are written (R126, R131): what the load counts of them. -/
def Load.writeRows (l : Load) (p : Panel) (f : Fmt) (j n : Nat) : Load :=
  if l.diff then
    let gone := ((List.range 32).filter fun i => decide (l.tilesHere ≤ i)).flatMap fun i => erasedPairs p f i j
    let all := l.changed ++ gone
    let here := all.filter fun q => q / 512 % 512 / 32 == j && decide (q / 512 % 32 < n)
    { l with changed := all, rows := l.rows + (here.map (· / 512)).eraseDups.length, pairs := l.pairs + here.length }
  else { l with rows := l.rows + 32 * n, pairs := l.pairs + 16384 * n }

/-- A panel written by a task counts in its record. -/
def State.countWritten (s : State) (l : Load) : State :=
  match l.kind with
  | .task n => s.mapLoadRun n fun r => { r with written := r.written + 1 }
  | _ => s

/-- A DIFF load that finds its first change counts its write (R132 step 1, R139). -/
def State.riseOnChange (s : State) (l : Load) : State × Load :=
  if l.rose || l.changed.isEmpty then (s, l)
  else ((s.raiseWrites l.page).countWritten l, { l with rose := true })

/-- The load of a panel ends; its counts join the task's, and the task ends with its last panel. -/
def State.joinLoad (s : State) (l : Load) (f : LoadRun → LoadRun) : State :=
  match l.kind with
  | .task n => (s.mapLoadRun n fun r => f { r with rows := r.rows + l.rows, pairs := r.pairs + l.pairs }).tryEndLoad n
  | _ => s

/-- A panel fails during a task's load. -/
def State.loadFails (s : State) (l : Load) (f : Nat × Nat × Nat) : State :=
  ((s.setLoad l).panelFails l.page f).joinLoad l fun r => { r with faults := r.faults + 1 }

/-- A task's load of a panel ends before its last row without retiring it: the panel is left as R487 gives. -/
def State.loadStops (s : State) (l : Load) (f : LoadRun → LoadRun) : State := (((s.setLoad l).invalidate l.page).dropLoad l.page).joinLoad l f

/-- A panel's load for a task is good: the code copy keeps what the image gives. -/
def State.loadEnds (s : State) (l : Load) : State :=
  let p := s.panel l.page
  let keep := p.copy.filter fun c => decide (c.1 < 65536 * l.tilesHere)
  ((s.setPanel l.page { p with copy := keep }).settleLoad l).joinLoad l id

/-- The last block has arrived: the converter check (R128), and the end of the panel's load. -/
def State.finishLoad (s : State) (l : Load) (phys : LoadPhysics) : State :=
  match phys with
  | .checked codes => match s.failsCheck l.page codes with
    | some x => s.loadFails l (0x0112, x.1, x.2)
    | none => s.loadEnds l
  | _ => s.loadEnds l

/-- Rows 32j to 32j + 31 of every array are written; a pulse fault at one of them ends the load at once, the row itself written and no
later one (R127). -/
def State.writeGroup32 (s : State) (l : Load) (j : Nat) (phys : LoadPhysics) : State × Load × Option (Nat × Nat × Nat) :=
  let p := s.panel l.page
  let f := s.panelFmt l.page
  match phys with
  | .pulseFault a r =>
    let x := s.riseOnChange (l.writeRows p f j (r.val % 32 + 1))
    (x.1, x.2, some (0x0111, a.val, 32 * j + r.val % 32))
  | _ =>
    let x := s.riseOnChange (l.writeRows p f j 32)
    (x.1, x.2, none)

/-- A panel of which every tile lies beyond the image is erased whole; nothing is fetched (R130). -/
def State.eraseAll (s : State) (l : Load) (phys : LoadPhysics) : State :=
  let stop := match phys with | .pulseFault _ r => r.val / 32 | _ => 16
  let x := (List.range 16).foldl (fun (a : State × Load × Option (Nat × Nat × Nat)) j =>
    if a.2.2.isSome then a else a.1.writeGroup32 a.2.1 j (if j == stop then phys else .good)) (s, l, none)
  match x.2.2 with
  | some f => x.1.loadFails x.2.1 f
  | none => x.1.finishLoad x.2.1 phys

/-- One image block arrives at its panel (R132 steps 3 and 4). Codes go to the code copy and scales to the scale registers as they were
when they were checked; a block at no installed address ends the panel's load as a failed seal does, and the task ABORTED (DESIGN CHOICE,
log 160). -/
def State.arrive (s : State) (l : Load) (phys : LoadPhysics) : State :=
  match l.blockAddr l.next with
  | none => s.eraseAll l phys
  | some a =>
    match faultIn a 4096 with
    | some x => (s.accessFault (faultDie l.page) x 0x10).loadStops l fun r => { r with fault := true }
    | none =>
      let k := a / 4096
      let s := (s.cacheUse (4096 * k) 4096).check [k] 0x0110
      if !s.blockOk k then (s.imageSealFail l.page k).loadStops l fun r => { r with badSeal := some (panelPhys l.page, k) }
      else
        let nt := l.tilesHere
        let i := l.next
        let p := s.panel l.page
        if i < 16 * nt then
          let b := s.bytes a 4096
          let l := { l with next := i + 1, changed := if l.diff then l.changed ++ changedPairs p (i % nt) (i / nt) b else l.changed }
          let s := s.setPanel l.page { p with copy := memPut p.copy (65536 * (i % nt) + 4096 * (i / nt)) b }
          if (i + 1) % nt == 0 then
            let x := s.writeGroup32 l (i / nt) phys
            match x.2.2 with
            | some f => x.1.loadFails x.2.1 f
            | none => x.1.setLoad x.2.1
          else s.setLoad l
        else
          let j := i - 16 * nt
          let l := { l with next := i + 1, scales := l.scales ++ s.scalesAt a (2048 * j) (Nat.min 2048 (512 * nt - 2048 * j)) }
          if l.next == l.blockCount then s.finishLoad l phys else s.setLoad l

/-- LOAD_BLOCK_ARRIVAL (R132). -/
def execLoadBlockArrival (n : Die8) (panel : PanelNo) (phys : LoadPhysics) (s : State) : Host.Outcome State Fault Refusal :=
  match s.loads.find? fun l => l.page == pgPanel n panel with
  | some l => match l.kind with
    | .task _ => s.onDie (pllArray n) fun s => s.whenFree [((l.blockAddr l.next).getD 0, 4096)] fun s => s.arrive l phys
    | _ => .next s
  | none => .next s

/-! Tasks that wait on panels. -/

/-- The array tasks that wait for panels start on those that have become free, in the order of hand-over (R158). A task one of whose lines
is marked waits for its own command (R28, log 26). -/
def State.pumpArrays (s : State) : State :=
  s.arrOrder.foldl (fun u n => match u.task? n, u.arrayRun? n, u.loadRun? n with
    | some t, some r, _ => if (u.markedIn (u.runRanges t r)).isEmpty then u.startArray n else u
    | some _, none, some _ => u.startLoads n
    | _, _, _ => u) s

/-! Refresh (R136). -/

/-- PANEL_AGED (R136). -/
def execPanelAged (n : Die8) (panel : PanelNo) (s : State) : Host.Outcome State Fault Refusal :=
  let page := pgPanel n panel
  .next (if s.content page == 2 && decide (s.rf (pgArrayDie n) R.ARRAY_DIE.REFRESH_AGE_AGE ≤ s.rf page R.PANEL.CONTENT_AGE) then
      (s.setContent page 3).cause page 5
    else s)

/-- An aged panel's refresh starts at a gap between tasks: under `AUTO`, or when a deadline for the die has fired (R136). -/
def State.startRefresh (s : State) (n page : Nat) : State :=
  let p := s.panel page
  if s.content page == 3 && !p.deferred && s.panelFree page && (s.rf (pgArrayDie n) R.ARRAY_DIE.REFRESH_CTL_AUTO == 1 || p.due) then
    let img := s.recorded page
    let hd := s.imageHead img.1
    s.startFull ⟨page, .refresh, img.1, img.2, (s.panelFmt page).code, s.rf page R.PANEL.CONTENT_TAG, hd.2.2, false, 0, 0, 8388608, [], true, []⟩
  else s

/-- PANEL_REFRESH (R136). -/
def execPanelRefresh (n : Die8) (panel : PanelNo) (s : State) : Host.Outcome State Fault Refusal :=
  .next (s.startRefresh n (pgPanel n panel))

/-- A refresh is deferred after `pairs` pairs were rewritten: the panel stays aged, and the refresh is not retried. The write that it
counted stands, with what it brings at the gap (R141). -/
def State.deferRefresh (s : State) (l : Load) (pairs : Nat) : State :=
  let page := l.page
  let s := ((s.setContent page 3).setLoad { l with pairs := pairs }).dropLoad page
  ((s.setPanel page { s.panel page with deferred := true, due := false }).cause (pgArrayDie (panelDie page)) 4).dueRetirement page

/-- The index of the first block of a load that lies at no installed address or fails its seal. -/
def State.firstBadBlock (s : State) (l : Load) : Option (Nat × Nat) :=
  (List.range l.blockCount).findSome? fun i =>
    match l.blockAddr i with
    | some a => if !rangeOk a 4096 || !s.blockOk (a / 4096) then some (i, a) else none
    | none => none

/-- The blocks that a whole load checks: up to the first bad one. -/
def Load.blocksUpto (l : Load) (n : Nat) : List Nat := (List.range n).filterMap fun i => (l.blockAddr i).map (· / 4096)

/-- A refresh ends (R136). An image address that is in no installed range counts as an access fault and defers the refresh as a failed seal
does (DESIGN CHOICE, log 161). -/
def State.endRefresh (s : State) (l : Load) (phys : LoadPhysics) : State :=
  let page := l.page
  let h := l.image / 4096
  if !rangeOk l.image 4096 then (s.accessFault (faultDie page) l.image 0x10).deferRefresh l 0
  else
    let s := (s.cacheUse (4096 * h) 4096).check [h] 0x0110
    if !s.blockOk h then (s.imageSealFail page h).deferRefresh l 0
    else
      let l := { l with tiles := (s.imageHead l.image).2.2 }
      let tag := (s.imageHead l.image).1
      if tag != l.tag then (s.log page 0x0119 [panelPhys page, l.tag, tag]).deferRefresh l 0
      else
        match s.firstBadBlock l with
        | some (i, a) =>
          let s := s.readChecked ((l.blocksUpto (i + 1)).map fun k => (4096 * k, 4096)) 0x0110
          let rows := if l.tilesHere == 0 then 512 else Nat.min 512 (i / l.tilesHere * 32)
          let s := s.setPanel page { s.panel page with prog := .rowsBelow rows s.fresh :: (s.panel page).prog }
          let s := { s with fresh := s.fresh + 1 }
          (if rangeOk a 4096 then s.imageSealFail page (a / 4096) else s.accessFault (faultDie page) a 0x10).deferRefresh l (rows * 16384)
        | none =>
          let s := s.readChecked ((l.blocksUpto l.blockCount).map fun k => (4096 * k, 4096)) 0x0110
          match s.cellFault page phys with
          | none =>
            let s := s.setPanel page { s.panel page with copy := s.imageCodes l }
            ((s.settleLoad { l with scales := s.imageScales l }).cause page 7).dueRetirement page
          | some f => s.panelFails page f

/-- REFRESH_COMPLETE (R136). -/
def execRefreshComplete (n : Die8) (panel : PanelNo) (phys : LoadPhysics) (s : State) : Host.Outcome State Fault Refusal :=
  match s.loads.find? fun l => l.page == pgPanel n panel && l.kind == .refresh with
  | some l => s.onDie (pllArray n) fun s => s.whenFree [(l.image, 4096 + 65536 * l.tiles + 1024 * l.tiles)] fun s => (s.endRefresh l phys).pumpArrays
  | none => .next s

/-! Retirement by the host (R142, R145). -/

/-- `RETIRE_CTL.PANEL` takes a written panel: beyond 67 it takes 67 (R45). -/
def State.retirePanelNo (s : State) (view : View) (n p : Nat) : State × Nat :=
  let off := pgArrayDie n + R.ARRAY_DIE.RETIRE_CTL_PANEL.off
  let s := s.wf (pgArrayDie n) R.ARRAY_DIE.RETIRE_CTL_PANEL (Nat.min p 67)
  (if p ≤ 67 then s else s.noteClamp view off, Nat.min p 67)

/-- RETIRE_CTL with OP 1 (R142): at once between tasks, else at the next gap. A panel that is already retired, or a castling source, is
left alone. -/
def execRetireCtlRetire (view : View) (n : Die8) (panel : BitVec 7) (s : State) : Host.Outcome State Fault Refusal :=
  .next (s.onWrite view (pgArrayDie n) true fun s =>
    let r := s.retirePanelNo view n panel.toNat
    let s := r.1
    let page := pgPanel n r.2
    if s.retired page then s
    else if s.betweenTasks page && !s.loadingPanel page then s.retire page 3
    else (s.setPanel page { s.panel page with retireAs := some 3 }).wf (pgArrayDie n) R.ARRAY_DIE.RETIRE_CTL_OP 1)

/-- RETIRE_CTL with OP 2 (R145): the panel becomes a spare, serving no logical panel. -/
def execRetireCtlReinstate (view : View) (n : Die8) (panel : BitVec 7) (s : State) : Host.Outcome State Fault Refusal :=
  .next (s.onWrite view (pgArrayDie n) true fun s =>
    let r := s.retirePanelNo view n panel.toNat
    let s := r.1
    let d := pgArrayDie n
    let page := pgPanel n r.2
    if s.retired page && s.rf d R.ARRAY_DIE.PANEL_REC_CAUSE r.2 == 3 && s.content page != 4 &&
        decide (s.writes page < s.rf d R.ARRAY_DIE.WEAR_LIMIT) then
      let s := ((s.setHdrBit page oPAGE_STATUS 3 false).invalidate page).wf d R.ARRAY_DIE.PANEL_REC_CAUSE 0 r.2
      ((s.wf page R.PANEL.PANEL_INFO_ALIAS 0xFF).log d 0x011C [r.2, s.writes page]).countDie n
    else s)

/-! Castling (R143, R144). -/

/-- SPARE_FILL_REQUEST (R143 step 4): the arbiter grants the fill or refuses it, and a refused request is repeated after 1,024
ticks. -/
def execSpareFillRequest (n : Die8) (s : State) : Host.Outcome State Fault Refusal :=
  let c := s.castle n
  .next (if c.phase == .arbitrating && decide (c.retryAt ≤ s.now) then
      let g := s.askGrant mFill [n] n
      if g.2 then (g.1.setCastle n { c with phase := .filling }).startFill n c
      else g.1.setCastle n { c with retryAt := s.now + 1024 }
    else s)

/-- A fill has ended, well or without content (R487): the grant is released, and the remap follows, unless the spare's retirement was
waiting for this gap. -/
def State.fillEnds (s : State) (n : Nat) (c : Castle) : State :=
  ((s.release mFill n).setCastle n { c with phase := .remapping }).dueRetirement (pgPanel n c.spare)

/-- A spare fill ends (R143 step 5). An image that is refused, lies at no installed address or fails a seal leaves the spare invalid
(R487). A spare that fails is retired, and the fill restarts on the next (Table 5-8). -/
def State.endFill (s : State) (n : Nat) (c : Castle) (l : Load) (phys : LoadPhysics) : State :=
  let page := l.page
  let h := l.image / 4096
  let bare (s : State) (pairs : Nat) : State := (((s.invalidate page).setLoad { l with pairs := pairs }).dropLoad page).fillEnds n c
  if !rangeOk l.image 4096 then bare (s.accessFault (faultDie page) l.image 0x10) 0
  else
    let s := (s.cacheUse (4096 * h) 4096).check [h] 0x0110
    if !s.blockOk h then bare (s.imageSealFail page h) 0
    else
      let hd := s.imageHead l.image
      let l := { l with fmt := hd.2.1, tag := hd.1, tiles := hd.2.2 }
      if (l.fmt != 0x01 && l.fmt != 0x02) || l.tag == 0 then bare (s.log page 0x011D [l.tag, hd.1, hd.2.1]) 0
      else
        match s.firstBadBlock l with
        | some (i, a) =>
          let s := s.readChecked ((l.blocksUpto (i + 1)).map fun k => (4096 * k, 4096)) 0x0110
          let rows := if l.tilesHere == 0 then 512 else Nat.min 512 (i / l.tilesHere * 32)
          bare (if rangeOk a 4096 then s.imageSealFail page (a / 4096) else s.accessFault (faultDie page) a 0x10) (rows * 16384)
        | none =>
          let s := s.readChecked ((l.blocksUpto l.blockCount).map fun k => (4096 * k, 4096)) 0x0110
          match s.cellFault page phys with
          | none =>
            let s := (s.setPanel page { s.panel page with copy := s.imageCodes l }).recordImage page l.image l.tile l.fmt
            (s.settleLoad { l with scales := s.imageScales l }).fillEnds n c
          | some f => s.panelFails page f

/-- SPARE_FILL_COMPLETE (R143). -/
def execSpareFillComplete (n : Die8) (phys : LoadPhysics) (s : State) : Host.Outcome State Fault Refusal :=
  let c := s.castle n
  match s.loads.find? fun l => l.page == pgPanel n c.spare && l.kind == .fill with
  | some l => if c.phase == .filling then
      s.onDie (pllArray n) fun s => s.whenFree [(l.image, 4096 + 65536 * l.tiles + 1024 * l.tiles)] fun s => s.endFill n c l phys
    else .next s
  | none => .next s

/-- The remap (R143 step 6): the spare takes the logical panel, the source becomes retired, and the tasks pending on it go to the spare. -/
def State.remap (s : State) (n : Nat) (c : Castle) : State :=
  let d := pgArrayDie n
  let src := pgPanel n c.source
  let spare := pgPanel n c.spare
  let s := (s.setAlias n c.logical c.spare).wf spare R.PANEL.PANEL_INFO_ALIAS c.logical
  let s := (s.setContent src 5).wf src R.PANEL.PANEL_INFO_ALIAS 0xFF
  let s := s.setPanel src { s.panel src with hasCopy := false, copy := [], scales := [], erased := [], prog := [] }
  let s := ((s.inc d R.ARRAY_DIE.CASTLE_COUNT).countDie n).cause d 0
  let s := s.log d 0x0115 [c.spare, c.logical, s.rf spare R.PANEL.CONTENT_TAG]
  let s := s.whenSome (s.loaderOf src) fun s k => s.mapLoadRun k fun r => { r with castled := r.castled + 1 }
  let s := s.setCastle n { Castle.fresh with queue := c.queue }
  (((s.nextCastle (c.queue.length + 1) n).endLoads).dueRetirement spare).pumpArrays

/-- CASTLING_REMAP (R143). -/
def execCastlingRemap (n : Die8) (s : State) : Host.Outcome State Fault Refusal :=
  let c := s.castle n
  .next (if c.phase == .remapping && s.betweenTasks (pgPanel n c.spare) then s.remap n c else s)

end Sys2Proof.Machine
end

