-- ==== Sys2Proof/Machine/Tempo.lean ====
section
/-! DEFINITION. The tempo unit (chapter 13): the count and its sources, corrections, epochs, the event table and its window, and
snapshot points. What fires at a count is in Machine/Events.lean; beacons are sent in Machine/Seam.lean. -/

namespace Sys2Proof.Machine

/-- `TEMPO_CTL.SRC` as it acts: 3 acts as 2. -/
def State.tempoSrc (s : State) : Nat := Nat.min (s.rf pgTempo R.TEMPO.TEMPO_CTL_SRC) 2

/-- The unit replaced. -/
def State.setTempo (s : State) (t : Tempo) : State := { s with tempo := t }

/-- `TEMPO_STATUS.STATE` replaced; the unit is locked in state 2. -/
def State.tempoState (s : State) (v : Nat) : State :=
  (s.setTempo { s.tempo with locked := v == 2 }).wf pgTempo R.TEMPO.TEMPO_STATUS_STATE v

/-- The low 20 bits of a count. -/
def low20 (c : Nat) : Nat := c % 2 ^ 20

/-! Corrections and epochs (R334, R335). -/

/-- Event 0x0803. -/
def State.logCorrection (s : State) (kind : Nat) (e : Int) : State := s.log pgTempo 0x0803 [kind, ubits 64 e]

/-- Armed entries that a step from a count to another jumps over. -/
def State.jumped (s : State) (a b : Nat) : Nat :=
  (s.events.filter fun p => p.2.armed && decide (a < p.2.count.toNat) && decide (p.2.count.toNat < b)).length

/-- The count moves forward by a step; entries jumped over are due at once (R343). -/
def State.jumpTo (s : State) (c : Nat) : State :=
  let n := s.jumped s.now c
  let s := s.setTempo { s.tempo with count := BitVec.ofNat 64 c }
  if n == 0 then s else s.log pgTempo 0x0805 [n]

/-- The count is found wrong by `e` ticks (R335). The new correction takes the place of what is left of an older one, since it is
measured on the count as it stands (DEDUCED, log 167). -/
def State.correct (s : State) (e : Int) : State :=
  let s := (s.setTempo { s.tempo with stall := 0, adjust := 0 }).wfs pgTempo
    [(R.TEMPO.LAST_CORR_TICKS, ubits 16 e), (R.TEMPO.TEMPO_STATUS_STALLED, 0)]
  if -1 ≤ e ∧ e ≤ 1 then s.setTempo { s.tempo with adjust := e }
  else if 1 < e then
    (((s.jumpTo (s.now + e.toNat)).inc pgTempo R.TEMPO.STEP_COUNT).cause pgTempo 2).logCorrection 1 e
  else
    ((s.setTempo { s.tempo with stall := e.natAbs }).wf pgTempo R.TEMPO.TEMPO_STATUS_STALLED 1).logCorrection 2 e

/-- `EPOCH_SET`. -/
def State.epochSet (s : State) : Nat := s.rf64 pgTempo R.TEMPO.EPOCH_SET_LO_COUNT R.TEMPO.EPOCH_SET_HI

/-- The armed epoch takes effect or is refused (R334). -/
def State.applyEpoch (s : State) : State :=
  let e := s.epochSet
  let s := s.wf pgTempo R.TEMPO.TEMPO_CTL_EPOCH_ARM 0
  if e < s.now then s.logCorrection 3 ((e : Int) - (s.now : Int)) else s.jumpTo e

/-- An epoch is armed. -/
def State.epochArmed (s : State) : Bool := s.rf pgTempo R.TEMPO.TEMPO_CTL_EPOCH_ARM == 1

/-- EPOCH_ARM (R334): ignored under the beacon source. -/
def execEpochArm (view : View) (s : State) : Host.Outcome State Fault Refusal :=
  .next (s.onWrite view pgTempo true fun s => if s.tempoSrc == 1 then s else s.wf pgTempo R.TEMPO.TEMPO_CTL_EPOCH_ARM 1)

/-! Ticks (R331). -/

/-- The ages of the contents of all panels rise by one unit of 1,024 ticks (Table 4-11). -/
def State.agePanels (s : State) : State :=
  (List.range 544).foldl (fun u i =>
    let page := pgPanel (i / 68) (i % 68)
    if 2 ≤ u.content page then u.inc page R.PANEL.CONTENT_AGE else u) s

/-- What a tick does whether or not the count stalls (R336, R337). -/
def Tempo.beat (t : Tempo) : Tempo :=
  { t with beaconGap := t.beaconGap + 1, ticks := t.ticks + 1, beaconIn := t.beaconIn - 1, echoIn := t.echoIn - 1 }

/-- The unit after a tick: the count is held while it stalls, adjusted by at most one (R335). -/
def Tempo.tick (t : Tempo) : Tempo :=
  if t.stall != 0 then { t with stall := t.stall - 1 }.beat
  else { t with count := t.count + BitVec.ofInt 64 (1 + t.adjust), adjust := 0 }.beat

/-- The device manager's counts of time: `LIMIT_MS` (R463), and `TRIAL_LEFT` down to its last second (R446). -/
def State.countTime (s : State) : State :=
  let s := if s.now % 10000 == 0 && s.rf pgPower R.POWER.CAP_STATUS_LIMITING == 1 then s.inc pgPower R.POWER.LIMIT_MS else s
  let left := s.rf pgFirmware R.FIRMWARE.TRIAL_LEFT
  if s.now % 10000000 == 0 && 1 < left then s.wf pgFirmware R.FIRMWARE.TRIAL_LEFT (left - 1) else s

/-- What happens at a new count: ages of panels, counts of time, and the epoch under the internal source. -/
def State.atCount (s : State) : State :=
  let s := (if s.now % 1024 == 0 then s.agePanels else s).countTime
  if low20 s.now == 0 && s.tempoSrc == 2 && s.epochArmed then s.applyEpoch else s

/-- The power-on reset is over and the module has power. -/
def State.alive (s : State) : Bool := s.power.supply && !s.power.held

/-- TEMPO_TICK (R331). The requests to host memory that are outstanding are answered by the next tick (DESIGN CHOICE, log 33). -/
def execTempoTick (s : State) : Host.Outcome State Fault Refusal :=
  if !s.alive then .next s
  else
    let old := s.tempo.count
    let t := (s.setTempo s.tempo.tick).wf pgHost R.HOST.CACHE_INFLIGHT_COUNT 0
    let t := if t.tempo.stall == 0 then t.wf pgTempo R.TEMPO.TEMPO_STATUS_STALLED 0 else t
    .next (if t.tempo.count == old then t else t.atCount)

/-! Marks and loss of the wire (R333). -/

/-- The nearest count whose low 20 bits are 0, less the count; a tie steps forward (DESIGN CHOICE, log 95). -/
def markError (c : Nat) : Int := if low20 c < 2 ^ 19 then -(low20 c : Int) else (2 ^ 20 - low20 c : Nat)

/-- The unit has locked: event 0x0802. -/
def State.lockTempo (s : State) : State :=
  ((s.tempoState 2).cause pgTempo 1).log pgTempo 0x0802 [s.tempoSrc, s.now % 2 ^ 32]

/-- A mark at an expected count: the second of two marks 2^20 apart locks the unit, and out of holdover the second good mark. -/
def State.goodMark (s : State) : State :=
  let two := s.tempo.lastMark == some ((s.now + 2 ^ 64 - 2 ^ 20) % 2 ^ 64)
  let good := s.tempo.goodMarks + 1
  let s := s.setTempo { s.tempo with lastMark := some s.now, goodMarks := good }
  let enough := if s.rf pgTempo R.TEMPO.TEMPO_STATUS_STATE == 3 then decide (2 ≤ good) else two
  if enough && !s.tempo.locked then s.lockTempo else s

/-- A mark at another count: counted and logged, and the next mark is measured from where this one should have been. It is no error
that a page counts (R486): `ERR_LAST.DETAIL` shows the mark error count (R345, log 107). -/
def State.badMark (s : State) : State :=
  let s := s.inc pgTempo R.TEMPO.MARK_ERRS
  let s := s.errDetail pgTempo (s.rf pgTempo R.TEMPO.MARK_ERRS)
  let s := (s.log pgTempo 0x0806 [s.now % 2 ^ 32]).cause pgTempo 4
  s.setTempo { s.tempo with lastMark := some ((s.now : Int) + markError s.now).toNat }

/-- TEMPO_MARK (R333, R334): only under the wire source. -/
def execTempoMark (s : State) : Host.Outcome State Fault Refusal :=
  if s.tempoSrc != 0 || !s.alive then .next s
  else
    let good := low20 s.now == 0
    let t := if good then s.goodMark else s.badMark
    .next (if s.epochArmed then
        let u := t.applyEpoch
        u.setTempo { u.tempo with lastMark := some u.now }
      else if good then t else t.correct (markError s.now))

/-- The unit goes into holdover (R333, R337): event 0x0801, once. -/
def State.loseTempo (s : State) : State :=
  if s.rf pgTempo R.TEMPO.TEMPO_STATUS_STATE == 3 then s
  else
    let s := s.tempoState 3
    let s := s.setTempo { s.tempo with lastMark := none, goodMarks := 0 }
    ((s.inc pgTempo R.TEMPO.LOST_COUNT).cause pgTempo 0).log pgTempo 0x0801 [s.tempoSrc, s.rf pgTempo R.TEMPO.TEMPO_STATUS_PORT]

/-- TEMPO_SOURCE_LOST (R333). -/
def execTempoSourceLost (s : State) : Host.Outcome State Fault Refusal :=
  .next (if s.tempoSrc == 0 && s.alive then s.loseTempo else s)

/-- A write of `TEMPO_CTL`: a new source starts acquiring, the internal one runs free; an epoch is not armed under the beacon
source (R332, R334). -/
def State.writeTempoCtl (s : State) (view : View) (w : Word) : State :=
  let off := pgTempo + R.TEMPO.TEMPO_CTL_SRC.off
  let src := s.tempoSrc
  let port := s.rf pgTempo R.TEMPO.TEMPO_CTL_BEACON_PORT
  let s := s.plainWrite view off w
  let s := if s.tempoSrc == 1 then s.wf pgTempo R.TEMPO.TEMPO_CTL_EPOCH_ARM 0 else s
  let s := if s.rf pgTempo R.TEMPO.TEMPO_CTL_BEACON_PORT == port then s
    else (s.setTempo { s.tempo with beaconGap := 0 }).wf pgTempo R.TEMPO.TEMPO_STATUS_PORT (s.rf pgTempo R.TEMPO.TEMPO_CTL_BEACON_PORT)
  if s.tempoSrc == src then s
  else
    let s := (s.setTempo { s.tempo with lastMark := none, goodMarks := 0, beaconGap := 0 }).tempoState (if s.tempoSrc == 2 then 0 else 1)
    s.wf pgTempo R.TEMPO.TEMPO_STATUS_PORT (s.rf pgTempo R.TEMPO.TEMPO_CTL_BEACON_PORT)

/-! Beacons received (R336, R337). -/

/-- A Seam port's link is up (Table 14-10). -/
def State.portUp (s : State) (n : Nat) : Bool := s.rf (pgPort n) R.SEAM_PORT.LINK_STATUS_UP == 1

/-- `BEACON_DELAY` in ticks, to the nearest tick. -/
def State.delayTicks (s : State) : Nat := (s.rf pgTempo R.TEMPO.BEACON_DELAY_NS + 50) / 100

/-- A beacon with a sent count arrives at a port (R336): the port carries beacons, and the one in use corrects the count. -/
def State.takeBeacon (s : State) (port sent : Nat) : State :=
  let s := s.setTempo { s.tempo with heard := aput s.tempo.heard port s.tempo.ticks }
  if s.tempoSrc != 1 || s.rf pgTempo R.TEMPO.TEMPO_STATUS_PORT != port then s
  else
    let s := s.setTempo { s.tempo with beaconGap := 0 }
    let s := s.correct ((sent : Int) + (s.delayTicks : Int) - (s.now : Int))
    if s.tempo.locked then s else s.lockTempo

/-- The lowest-numbered port that carries beacons: up, and one heard within 4,096 ticks. -/
def State.carrying (s : State) : Option Nat :=
  (List.range 16).find? fun n => s.portUp n && (match aget? s.tempo.heard n with | some c => decide (s.tempo.ticks - c < 4096) | none => false)

/-- The beacon port is down or silent (R337): holdover, and with `BEACON_AUTO` the lowest port that carries beacons instead. -/
def State.loseBeacons (s : State) : State :=
  let port := s.rf pgTempo R.TEMPO.TEMPO_STATUS_PORT
  if s.tempoSrc != 1 || (s.portUp port && decide (s.tempo.beaconGap < 4096)) then s
  else
    let t := s.loseTempo
    match t.carrying with
    | some p =>
      if t.rf pgTempo R.TEMPO.TEMPO_CTL_BEACON_AUTO == 1 && p != port then
        ((t.setTempo { t.tempo with beaconGap := 0 }).wf pgTempo R.TEMPO.TEMPO_STATUS_PORT p).log pgTempo 0x0807 [port, p]
      else t
    | none => t

/-- BEACON_LOSS (R337). -/
def execBeaconLoss (s : State) : Host.Outcome State Fault Refusal := .next s.loseBeacons

/-! The event table (R339 to R342). -/

/-- An entry that holds nothing. -/
def Event.empty : Event := ⟨false, 0, 0, 0, 0, 0⟩

/-- Entry `i`. -/
def State.event (s : State) (i : Nat) : Event := aget s.events i Event.empty

/-- The state with an entry replaced. -/
def State.setEvent (s : State) (i : Nat) (e : Event) : State := { s with events := aput s.events i e }

/-- `REPEAT` as it acts: SNAPSHOT_POINT and COORD_RESET ignore it (R340). -/
def Event.repeats (e : Event) : Bool := bit e.flags.toNat 0 && e.action.toNat != 9 && e.action.toNat != 10

/-- A button action. -/
def buttonAction (a : Nat) : Bool := (decide (1 ≤ a) && decide (a ≤ 4)) || a == 9

/-- The first check of Table 13-5 that an ARM fails after the index check; 0 when all pass. -/
def State.armCheck (s : State) (e : Event) : Nat :=
  if e.count.toNat < s.now + 2000 then 1
  else if 10 < e.action.toNat then 2
  else if buttonAction e.action.toNat && !graphButton e.arg.toNat then 4 else 0

/-- An entry as it is armed: a repeating entry's period is clamped to 2,000 (R340). -/
def Event.clamped (e : Event) : Event :=
  if e.repeats && e.param.toNat < 2000 then { e with armed := true, param := 2000 } else { e with armed := true }

/-- An entry is refused: event 0x0804 (R342). -/
def State.refuseEvent (s : State) (i r origin : Nat) : State :=
  ((s.err pgTempo 0x0804 i).log pgTempo 0x0804 [i, r, origin]).cause pgTempo 3

/-- A schedule for an entry is checked and armed (R342, R361): the `RESULT`; `origin` 0 local, 1 Seam. -/
def State.armEntry (s : State) (i : Nat) (e : Event) (origin : Nat) : State × Nat :=
  let r := if i < 16 then 3 else s.armCheck e
  if r == 0 then (s.setEvent i e.clamped, 0) else (s.refuseEvent i r origin, r)

/-- `EVT_SEL.INDEX`. -/
def State.evtSel (s : State) : Nat := s.rf pgTempo R.TEMPO.EVT_SEL_INDEX

/-- The staged entry. -/
def State.staged (s : State) : Event where
  armed := false
  count := BitVec.ofNat 64 (s.rf64 pgTempo R.TEMPO.EVT_COUNT_LO R.TEMPO.EVT_COUNT_HI)
  action := BitVec.ofNat 8 (s.rf pgTempo R.TEMPO.EVT_ACTION_ACTION)
  flags := BitVec.ofNat 8 (s.rf pgTempo R.TEMPO.EVT_ACTION_REPEAT + 2 * s.rf pgTempo R.TEMPO.EVT_ACTION_IRQ)
  arg := BitVec.ofNat 16 (s.rf pgTempo R.TEMPO.EVT_ACTION_ARG)
  param := BitVec.ofNat 32 (s.rf pgTempo R.TEMPO.EVT_PARAM)

/-- `EVT_STATUS` of a command. -/
def State.evtResult (s : State) (i r : Nat) : State :=
  s.wfs pgTempo [(R.TEMPO.EVT_STATUS_RESULT, r), (R.TEMPO.EVT_STATUS_INDEX, i), (R.TEMPO.EVT_STATUS_ARMED, b2n (s.event i).armed)]

/-- The clamp of a staged period is counted (R45). -/
def State.noteParam (s : State) (view : View) (e : Event) : State :=
  if e.repeats && e.param.toNat < 2000 then s.noteClamp view (pgTempo + R.TEMPO.EVT_PARAM.off) else s

/-- EVT_READ (R342): the entry is copied into the window. -/
def execEvtRead (view : View) (s : State) : Host.Outcome State Fault Refusal :=
  .next (s.onWrite view pgTempo false fun s =>
    let i := s.evtSel
    let e := s.event i
    let s := s.wf64 pgTempo R.TEMPO.EVT_COUNT_LO R.TEMPO.EVT_COUNT_HI e.count.toNat
    let s := s.wfs pgTempo [(R.TEMPO.EVT_ACTION_ACTION, e.action.toNat), (R.TEMPO.EVT_ACTION_IRQ, b2n (bit e.flags.toNat 1)),
      (R.TEMPO.EVT_ACTION_REPEAT, b2n (bit e.flags.toNat 0)), (R.TEMPO.EVT_ACTION_ARG, e.arg.toNat), (R.TEMPO.EVT_PARAM, e.param.toNat)]
    s.evtResult i 0)

/-! Snapshot points (R341). -/

/-- No task outside the checkpoint class runs. -/
def State.quiet (s : State) : Bool := !s.tasks.any fun t => t.isHanded && typeClass t.type != .checkpoint

/-- SNAPSHOT_POINT_DRAINED (R341). -/
def execSnapshotPointDrained (s : State) : Host.Outcome State Fault Refusal :=
  .next (match s.snapAt with
    | some p => if !p.added && s.quiet then (({ s with snapAt := some { p with added := true } }).addButton p.button 1).settle else s
    | none => s)

/-- SNAPSHOT_POINT_END (R341). -/
def execSnapshotPointEnd (s : State) : Host.Outcome State Fault Refusal :=
  .next (match s.snapAt with
    | some p => if p.ends ≤ s.now then ({ s with snapAt := none }).settle else s
    | none => s)

end Sys2Proof.Machine
end

