-- ==== Sys2Proof/Machine/Link.lean ====
section
/-! DEFINITION. The ports of Seam (R347 to R357): training, flits with their replay and credits, and messages as they enter and
leave. -/

namespace Sys2Proof.Machine

/-! Messages (Table 14-4a). -/

/-- `OPCODE`. -/
def mOp (m : List Byte) : Nat := fieldAt m 0 1
/-- `HOPS`. -/
def mHops (m : List Byte) : Nat := fieldAt m 1 1 % 16
/-- `DST`. -/
def mDst (m : List Byte) : Nat := fieldAt m 2 2 % 8192
/-- `SRC`. -/
def mSrc (m : List Byte) : Nat := fieldAt m 4 2 % 8192
/-- `DLEN`. -/
def mLen (m : List Byte) : Nat := fieldAt m 6 2
/-- `TAG`. -/
def mTag (m : List Byte) : Nat := fieldAt m 8 4
/-- `ARG`. -/
def mArg (m : List Byte) : Nat := fieldAt m 12 4
/-- `ADDR`. -/
def mAddr (m : List Byte) : Nat := fieldAt m 16 8
/-- `SEAL`. -/
def mSeal (m : List Byte) : Nat := fieldAt m 24 4
/-- `STATUS`. -/
def mStatus (m : List Byte) : Nat := fieldAt m 28 1
/-- A bit of `FLAGS`: 0 `SEALED`, 1 `EMPTY`, 2 `BCAST`. -/
def mFlag (m : List Byte) (i : Nat) : Bool := bit (fieldAt m 29 1) i
/-- `BTN`. -/
def mBtn (m : List Byte) : Nat := fieldAt m 30 2
/-- The data of a message. -/
def mData (m : List Byte) : List Byte := (m.drop 32).take (mLen m)

/-- A number rounded up to whole slots. -/
def up16 (n : Nat) : Nat := (n + 15) / 16 * 16

/-- A message of this module before it is addressed: what its opcode's row of Table 14-4 fills. -/
structure Msg where
  op     : Nat
  dst    : Nat
  tag    : Nat := 0
  arg    : Nat := 0
  addr   : Nat := 0
  sealW  : Nat := 0
  status : Nat := 0
  flags  : Nat := 0
  btn    : Nat := 0
  data   : List Byte := []
deriving DecidableEq, Repr

/-- The bytes of a message from a source; its data fills whole slots. -/
def Msg.bytes (m : Msg) (src : Nat) : List Byte :=
  leBytes 1 m.op ++ leBytes 1 0 ++ leBytes 2 m.dst ++ leBytes 2 src ++ leBytes 2 (up16 m.data.length) ++ leBytes 4 m.tag ++
    leBytes 4 m.arg ++ leBytes 8 m.addr ++ leBytes 4 m.sealW ++ leBytes 1 m.status ++ leBytes 1 m.flags ++ leBytes 2 m.btn ++ m.data ++
    List.replicate (up16 m.data.length - m.data.length) 0

/-- The virtual channel of an opcode (Table 14-4). -/
def opVc (op : Nat) : Nat :=
  match op with
  | 0x02 | 0x04 | 0x31 | 0x33 | 0x35 => 1
  | 0x10 | 0x11 | 0x12 | 0x13 => 2
  | 0x20 | 0x21 | 0x22 | 0x23 => 3
  | _ => 0

/-- The opcodes of Table 14-4 at a Seam level in force. -/
def seamKnown (op level : Nat) : Bool :=
  [0x01, 0x02, 0x03, 0x04, 0x05, 0x10, 0x11, 0x12, 0x13, 0x20, 0x21, 0x22, 0x23, 0x30, 0x31, 0x32, 0x33].contains op ||
    ((op == 0x34 || op == 0x35) && decide (0x11 ≤ level))

/-! Flits (Table 14-2). -/

/-- One bit of the CRC-64 of ECMA-182, most significant bit first. -/
def crc64Bit (c : Nat) : Nat := if bit c 63 then (2 * c % 2 ^ 64) ^^^ 0x42F0E1EBA9EA3693 else 2 * c % 2 ^ 64

/-- One byte of it. -/
def crc64Byte (c x : Nat) : Nat :=
  crc64Bit (crc64Bit (crc64Bit (crc64Bit (crc64Bit (crc64Bit (crc64Bit (crc64Bit (c ^^^ (x * 2 ^ 56)))))))))

/-- The CRC of a flit's first 248 bytes: initial value all ones, result inverted. -/
def crc64 (b : List Byte) : Nat := (b.foldl (fun c x => crc64Byte c x.toNat) (2 ^ 64 - 1)) ^^^ (2 ^ 64 - 1)

/-- A flit from its header fields and slots. -/
def flit (ftype : Nat) (nak : Bool) (vc ack seq : Nat) (credits : List Nat) (slots : List Byte) : List Byte :=
  let b := leBytes 1 (ftype * 16 + b2n nak * 8 + vc) ++ leBytes 3 (ack * 4096 + seq) ++ credits.flatMap (leBytes 1) ++ slots ++
    List.replicate (240 - slots.length) 0
  b ++ leBytes 8 (crc64 b)

/-- A received flit passes its CRC. -/
def flitGood (f : List Byte) : Bool := f.length == 256 && fieldAt f 248 8 == crc64 (f.take 248)

/-- `SEQ` of a flit. -/
def flitSeq (f : List Byte) : Nat := fieldAt f 1 3 % 4096

/-! Ports. -/

/-- A port that has carried nothing. -/
def Port.idle : Port := ⟨.training, 0, 0, [], 0, [0, 0, 0, 0], [0, 0, 0, 0], [[], [], [], []], [], [], 0, 0, false⟩

/-- Port `n`. -/
def State.port (s : State) (n : Nat) : Port := aget s.ports n Port.idle

/-- The state with a port replaced, and `CREDITS` showing what it holds. -/
def State.setPort (s : State) (n : Nat) (p : Port) : State :=
  ({ s with ports := aput s.ports n p }).wfs (pgPort n)
    [(R.SEAM_PORT.CREDITS_VC0, nth p.credits 0 0 / 8), (R.SEAM_PORT.CREDITS_VC1, nth p.credits 1 0 / 8),
      (R.SEAM_PORT.CREDITS_VC2, nth p.credits 2 0 / 16), (R.SEAM_PORT.CREDITS_VC3, nth p.credits 3 0 / 8)]

/-- A flit leaves a port. -/
def State.emit (s : State) (n : Nat) (f : List Byte) : State := { s with sent := s.sent ++ [(n, f)] }

/-- `MY_ID.VALID`. -/
def State.named (s : State) : Bool := s.rf pgSeam R.SEAM_MGMT.MY_ID_VALID == 1

/-- This module's node address (R353). -/
def State.myId (s : State) : Nat := s.rf pgSeam R.SEAM_MGMT.MY_ID_ID

/-- The last sequence number that a port has received in order. -/
def Port.lastRx (p : Port) : Nat := (p.rxNext + 4095) % 4096

/-- The credits that a flit returns: at most 255 slots a channel. -/
def Port.credit (p : Port) : List Nat := p.freed.map (Nat.min 255)

/-- The port after a flit has returned credits. -/
def Port.credited (p : Port) : Port := { p with freed := p.freed.map fun n => n - Nat.min 255 n }

/-- An idle flit leaves a port: `ACK`, `NAK` and credits (R350). -/
def State.sendIdle (s : State) (n : Nat) (nak : Bool) : State :=
  let p := s.port n
  (s.emit n (flit 0 nak 0 p.lastRx 0 p.credit [])).setPort n p.credited

/-- A port may place a slot of a channel. -/
def Port.canSend (p : Port) (vc : Nat) : Bool := (p.tx.any fun m => m.1 == vc) && decide (0 < nth p.credits vc 0)

/-- The channel whose data flit leaves next (R352): 3 first, 0 to 2 in turn. -/
def Port.pick (p : Port) : Option Nat :=
  if p.canSend 3 then some 3 else [p.turn % 3, (p.turn + 1) % 3, (p.turn + 2) % 3].find? p.canSend

/-- Messages without their first `n` bytes. -/
def dropBytes (n : Nat) (l : List (List Byte)) : List (List Byte) :=
  match l with
  | [] => []
  | m :: t => if m.length ≤ n then dropBytes (n - m.length) t else m.drop n :: t

/-- A beacon's count is stamped as its flit leaves (R360). -/
def stamp (now : Nat) (m : Nat × List Byte) : Nat × List Byte :=
  if m.2.length == 32 && mOp m.2 == 0x20 then (m.1, m.2.take 16 ++ leBytes 8 now ++ m.2.drop 24) else m

/-- One data flit of a channel leaves a port and is kept for replay (R350 to R352). -/
def State.sendData (s : State) (n vc : Nat) : State :=
  let p := s.port n
  let mine := ((p.tx.filter fun m => m.1 == vc).map (stamp s.now)).map Prod.snd
  let slots := Nat.min 15 (Nat.min (nth p.credits vc 0) ((mine.map List.length).sum / 16))
  let f := flit 1 false vc p.lastRx p.txNext p.credit (mine.flatten.take (16 * slots))
  let p := { p.credited with
    tx := (p.tx.filter fun m => m.1 != vc) ++ (dropBytes (16 * slots) mine).map fun m => (vc, m)
    credits := setNth p.credits vc (nth p.credits vc 0 - slots)
    replay := p.replay ++ [(p.txNext, f)]
    txNext := (p.txNext + 1) % 4096
    turn := if vc == 3 then p.turn else vc + 1 }
  ((s.emit n f).setPort n p).inc64 (pgPort n) R.SEAM_PORT.TX_FLITS_LO R.SEAM_PORT.TX_FLITS_HI 1

/-- Data flits leave a port while it may send: up, a free place in its replay buffer, a credit. -/
def State.pumpFor (fuel : Nat) (s : State) (n : Nat) : State :=
  match fuel with
  | 0 => s
  | k + 1 =>
    let p := s.port n
    if p.phase != .up || decide (512 ≤ p.replay.length) then s
    else match p.pick with
      | some vc => (s.sendData n vc).pumpFor k n
      | none => s

/-- Whatever a port can send leaves it; credits still owed leave in an idle flit. -/
def State.pump (s : State) (n : Nat) : State :=
  let s := s.pumpFor (((s.port n).tx.map fun m => m.2.length / 16).sum) n
  if (s.port n).phase == .up && (s.port n).freed.any (fun k => k != 0) then s.sendIdle n false else s

/-- A message is queued for a channel of a port. -/
def State.enqueueOn (s : State) (n vc : Nat) (m : List Byte) : State :=
  let p := s.port n
  (s.setPort n { p with tx := p.tx ++ [(vc, m)] }).pump n

/-- A message is queued for a port, on the channel of its opcode. -/
def State.enqueue (s : State) (n : Nat) (m : List Byte) : State := s.enqueueOn n (opVc (mOp m)) m

/-- Slots of a channel's receive buffer become free (R352). -/
def State.freeSlots (s : State) (n vc slots : Nat) : State :=
  let p := s.port n
  s.setPort n { p with freed := setNth p.freed vc (nth p.freed vc 0 + slots) }

/-! Routing (R353, R354). -/

/-- The port for a node address: the primary one when it is up, else the valid alternate one when that is up. -/
def State.route (s : State) (node : Nat) : Option Nat :=
  let w := (aget s.routes node 0).toNat
  if !bit w 8 then none
  else if s.portUp (w % 16) then some (w % 16)
  else if bit w 9 && s.portUp (w / 16 % 16) then some (w / 16 % 16) else none

/-- A message is dropped (R354): event 0x0904, kind 1 unroutable or 2 hop limit. It is no error that a page counts (R486, log 107). -/
def State.dropMsg (s : State) (kind : Nat) (m : List Byte) : State :=
  let s := s.inc pgSeam (if kind == 1 then R.SEAM_MGMT.UNROUTABLE else R.SEAM_MGMT.HOP_DROPS)
  ((s.errDetail pgSeam (mDst m)).log pgSeam 0x0904 [kind, mDst m, mSrc m]).cause pgSeam 0

/-- A message goes out on a channel of the port of its destination, or is dropped. -/
def State.dispatchOn (s : State) (vc : Nat) (m : List Byte) : State :=
  match s.route (mDst m) with
  | some n => s.enqueueOn n vc m
  | none => s.dropMsg 1 m

/-- As `dispatchOn`, on the channel of its opcode. -/
def State.dispatchMsg (s : State) (m : List Byte) : State := s.dispatchOn (opVc (mOp m)) m

/-- This module sends a message, if it has an ID (R353). -/
def State.sendMsg (s : State) (m : Msg) : State := if s.named then s.dispatchMsg (m.bytes s.myId) else s

/-- A message forwarded: `HOPS` raised by one. -/
def hopped (m : List Byte) : List Byte := setNth m 1 (BitVec.ofNat 8 (fieldAt m 1 1 + 1))

/-- A message is forwarded on the channel on which it arrived (R354). -/
def State.forward (s : State) (vc : Nat) (m : List Byte) : State := s.dispatchOn vc (hopped m)

/-- A broadcast is forwarded on every port of `BCAST_DOWN` but the one it arrived on (R355). -/
def State.broadcast (s : State) (from_ : Option Nat) (m : List Byte) : State :=
  ((List.range 16).filter fun n => bit (s.rf pgSeam R.SEAM_MGMT.BCAST_DOWN_PORTS) n && some n != from_).foldl (fun t n => t.enqueue n m) s

/-! Received messages. -/

/-- The oldest message of its channel at a port with a property, and the port's other messages. -/
def takeFirst (l : List (Nat × List Byte)) (ok : List Byte → Bool) (seen : List Nat) : Option ((Nat × List Byte) × List (Nat × List Byte)) :=
  match l with
  | [] => none
  | m :: t =>
    if !seen.contains m.1 && ok m.2 then some (m, t)
    else match takeFirst t ok (m.1 :: seen) with
      | some r => some (r.1, m :: r.2)
      | none => none

/-- A message is for this module (R354, R355, R360). -/
def State.isLocal (s : State) (m : List Byte) : Bool :=
  mFlag m 2 || mDst m == s.myId || [0x20, 0x21, 0x22].contains (mOp m)

/-- `LINK_STATUS.LEVEL` of a port. -/
def State.portLevel (s : State) (n : Nat) : Nat := s.rf (pgPort n) R.SEAM_PORT.LINK_STATUS_LEVEL

/-- A message that its destination drops under R355 or R357. -/
def State.badOpcode (s : State) (n : Nat) (m : List Byte) : Bool :=
  !seamKnown (mOp m) (s.portLevel n) || (mFlag m 2 && mOp m != 0x23)

/-- A list without the first element equal to a given one. -/
def dropOne {α : Type} [BEq α] (l : List α) (x : α) : List α :=
  match l with
  | [] => []
  | y :: t => if y == x then t else y :: dropOne t x

/-- A message that waits at the head of its channel is taken by a function of its channel and its bytes; its slots become free. One that
arrived with `HOPS` 15 is dropped instead, wherever it was going (R354). -/
def State.takeOn (s : State) (n : Nat) (ok : List Byte → Bool) (k : State → Nat → List Byte → State) : State :=
  match takeFirst (s.port n).rx ok [] with
  | some (m, rest) =>
    let s := { s with arrived := dropOne s.arrived (n, m.2) }.setPort n { s.port n with rx := rest }
    ((if mHops m.2 == 15 then s.dropMsg 2 m.2 else k s m.1 m.2).freeSlots n m.1 (m.2.length / 16)).pump n
  | none => s

/-- As `takeOn`, by a function of the bytes alone. -/
def State.takeMsg (s : State) (n : Nat) (ok : List Byte → Bool) (k : State → List Byte → State) : State :=
  s.takeOn n ok fun s _ m => k s m

/-- As `takeMsg`, for the local messages of an opcode. -/
def State.receive (s : State) (n op : Nat) (k : State → List Byte → State) : State :=
  s.takeMsg n (fun m => s.isLocal m && !s.badOpcode n m && mOp m == op) k

/-- The local message of an opcode that waits at a port. -/
def State.waitingMsg (s : State) (n op : Nat) : Option (List Byte) :=
  (takeFirst (s.port n).rx (fun m => s.isLocal m && !s.badOpcode n m && mOp m == op) []).map fun r => r.1.2

/-- What the slots of a flit add to the part of a message that a channel has: the part left and the whole messages. A slot that
begins with 0x00 between messages is a pad slot (R350). -/
def joinSlots (part : List Byte) (slots : List (List Byte)) : List Byte × List (List Byte) :=
  slots.foldl (fun (a : List Byte × List (List Byte)) x =>
    if a.1.isEmpty && x.headD 0 == 0 then a
    else
      let b := a.1 ++ x
      if decide (32 ≤ b.length) && decide (32 + up16 (mLen b) ≤ b.length) then ([], a.2 ++ [b]) else (b, a.2)) (part, [])

/-- The slots of a channel's receive buffer (Table 14-3). -/
def bufferSlots (vc : Nat) : Nat := match vc with | 2 => 2048 | 3 => 128 | _ => 1024

/-- The slots of a channel's receive buffer that messages fill. -/
def Port.filled (p : Port) (vc : Nat) : Nat :=
  ((nth p.partials vc []).length + ((p.rx.filter fun m => m.1 == vc).map fun m => m.2.length).sum) / 16

/-- What a data flit adds to the messages of its channel. -/
def Port.joined (p : Port) (vc : Nat) (f : List Byte) : List Byte × List (List Byte) :=
  joinSlots (nth p.partials vc []) ((List.range 15).map fun i => (f.drop (8 + 16 * i)).take 16)

/-- A port after the slots of a data flit have entered its receive buffer. -/
def Port.buffered (p : Port) (vc : Nat) (f : List Byte) : Port :=
  let j := p.joined vc f
  { p with partials := setNth p.partials vc j.1, rx := p.rx ++ j.2.map fun m => (vc, m) }

/-- A data flit fits into the receive buffer of its channel, as a neighbour's credits ensure (R352). -/
def Port.fits (p : Port) (vc : Nat) (f : List Byte) : Bool := decide ((p.buffered vc f).filled vc ≤ bufferSlots vc)

/-- The slots of a data flit are taken in. A module without an ID drops every message (R353). -/
def State.takeSlots (s : State) (n vc : Nat) (f : List Byte) : State :=
  let p := s.port n
  let ms := (p.joined vc f).2
  if s.named then
    { s with arrived := s.arrived ++ (ms.filter fun m => mOp m == 0x01 || mOp m == 0x05).map fun m => (n, m) }.setPort n (p.buffered vc f)
  else (s.setPort n { p.buffered vc f with rx := p.rx }).freeSlots n vc ((ms.map List.length).sum / 16)

/-! Replay (R351). -/

/-- A port trains again after 8 replays without progress: event 0x0903. -/
def State.retrain (s : State) (n : Nat) (logged : Bool) : State :=
  let p := s.port n
  let s := ((s.setPort n { p with phase := .retraining, stuck := 0 }).inc (pgPort n) R.SEAM_PORT.RETRAINS).cause (pgPort n) 1
  if logged then s.log (pgPort n) 0x0903 [n, p.stuck] else s

/-- The unacknowledged flits leave again in order. -/
def State.resend (s : State) (n : Nat) : State := (s.port n).replay.foldl (fun t f => t.emit n f.2) s

/-- A replay starts, or the port retrains. -/
def State.replayPort (s : State) (n : Nat) : State :=
  let p := s.port n
  if p.replay.isEmpty then s
  else if 8 ≤ p.stuck then s.retrain n true
  else ((s.setPort n { p with stuck := p.stuck + 1 }).inc (pgPort n) R.SEAM_PORT.REPLAYS).resend n

/-- An `ACK` covers the kept flits up to its sequence number. -/
def State.takeAck (s : State) (n ack : Nat) : State :=
  let p := s.port n
  if p.replay.any fun f => f.1 == ack then
    s.setPort n { p with replay := (p.replay.dropWhile fun f => f.1 != ack).drop 1, stuck := 0 }
  else s

/-- Credits that a flit returns. -/
def State.takeCredits (s : State) (n : Nat) (f : List Byte) : State :=
  let p := s.port n
  s.setPort n { p with credits := (List.range 4).map fun i => nth p.credits i 0 + fieldAt f (4 + i) 1 }

/-- A flit is discarded (R348, R351) and `NAK` goes out; `ERR_LAST.DETAIL` shows its `SEQ` (R374). A flit that fails its CRC counts as an
error of the port; one that is only out of sequence does not (R486, log 107). -/
def State.discardFlit (s : State) (n seq : Nat) (failed : Bool) : State :=
  (if failed then s.err (pgPort n) 0 seq else s.errDetail (pgPort n) seq).sendIdle n true

/-- A good data flit: accepted when it is the one expected. A flit of more slots than the neighbour has credits for cannot occur: it
leaves the state as it is (log 21). -/
def State.dataFlit (s : State) (n : Nat) (f : List Byte) : State :=
  let p := s.port n
  if flitSeq f == p.rxNext then
    if !p.fits (fieldAt f 0 1 % 4) f then s else
    let s := s.setPort n { p with rxNext := (p.rxNext + 1) % 4096 }
    let s := (s.inc64 (pgPort n) R.SEAM_PORT.RX_FLITS_LO R.SEAM_PORT.RX_FLITS_HI 1).takeCredits n f
    (s.takeSlots n (fieldAt f 0 1 % 4) f).sendIdle n false
  else s.discardFlit n (flitSeq f) false

/-- What forward error correction makes of a codeword: more than 15 wrong symbols are not corrected. -/
def codeLost (c : Fec) : Bool := match c with | .uncorrectable => true | .corrected k => decide (15 < k)

/-- A codeword begins with a flit, the first of five or in the middle of the third: its outcome is counted (R348, R374). -/
def State.codeword (s : State) (n : Nat) (c : Fec) : State :=
  let page := pgPort n
  if codeLost c then (s.inc page R.SEAM_PORT.FEC_UNCORR).cause page 2
  else match c with
    | .corrected k => s.inc64 page R.SEAM_PORT.FEC_CORR_LO R.SEAM_PORT.FEC_CORR_HI k
    | .uncorrectable => s

/-- The codewords that a flit lies in are decoded (R348): whether one of them was uncorrectable. The operand is the outcome of the
codeword that begins with the flit or in it. -/
def State.decodeFlit (s : State) (n : Nat) (c : Fec) : State × Bool :=
  let p := s.port n
  let begins := p.fecPos == 0 || p.fecPos == 2
  let lost := if begins then codeLost c else p.fecLost
  let s := if begins then s.codeword n c else s
  (s.setPort n { p with fecPos := (p.fecPos + 1) % 5, fecLost := lost }, lost || (p.fecPos == 2 && p.fecLost))

/-- A flit arrives at a port that is up. -/
def State.takeFlit (s : State) (n : Nat) (f : List Byte) (fec : Fec) : State :=
  let d := s.decodeFlit n fec
  let s := d.1
  if d.2 || !flitGood f then (s.inc (pgPort n) R.SEAM_PORT.CRC_ERRS).discardFlit n (flitSeq f) true
  else
    let ty := fieldAt f 0 1 / 16
    if ty == 0 || ty == 1 then
      let s := s.takeAck n (fieldAt f 1 3 / 4096)
      let s := if bit (fieldAt f 0 1) 3 then s.replayPort n else s
      (if ty == 0 then s.takeCredits n f else s.dataFlit n f).pump n
    else s

/-- FLIT_RECEIVE (R351). -/
def execFlitReceive (n : PortNo) (f : List Byte) (fec : Fec) (s : State) : Host.Outcome State Fault Refusal :=
  .next (if (s.port n).phase == .up then s.takeFlit n f fec else s)

/-- ACK_TIMEOUT (R351). -/
def execAckTimeout (n : PortNo) (s : State) : Host.Outcome State Fault Refusal :=
  .next (if (s.port n).phase == .up then s.replayPort n else s)

/-! Training (R349). -/

/-- The lanes that a port trains with: the largest of 4, 2 and 1 that adapted, capped by `WIDTH_MAX`. -/
def State.lanes (s : State) (n adapted : Nat) : Nat :=
  let cap := match s.rf (pgPort n) R.SEAM_PORT.PORT_CTL_WIDTH_MAX with | 1 => 2 | 2 => 1 | _ => 4
  let w := Nat.min adapted cap
  if 4 ≤ w then 4 else if 2 ≤ w then 2 else w

/-- The training flit that this module sends (R349): its node address, the port, the Seam level it speaks, the width and rate, and the free
slots of each channel's receive buffer as credits. -/
def State.ownTraining (s : State) (n width : Nat) (half : Bool) : TrainingFlit where
  peerValid := s.named
  peerStore := false
  peerId := ⟨s.myId % 4096, Nat.mod_lt _ (by decide)⟩
  peerPort := ⟨n % 16, Nat.mod_lt _ (by decide)⟩
  level := 0x11
  lanes := ⟨width % 5, Nat.mod_lt _ (by decide)⟩
  halfRate := half
  credits0 := bufferSlots 0 - (s.port n).filled 0
  credits1 := bufferSlots 1 - (s.port n).filled 1
  credits2 := bufferSlots 2 - (s.port n).filled 2
  credits3 := bufferSlots 3 - (s.port n).filled 3

/-- A port has trained: training flits are exchanged, then `UP` and event 0x0901. After a retrain it replays what is not acknowledged; after
link down or reset it starts its sequence numbers over. The delay of the beacon port is due to be measured (R336). -/
def State.trained (s : State) (n : Nat) (peer : TrainingFlit) (width : Nat) : State :=
  let page := pgPort n
  let p := s.port n
  let level := Nat.min 0x11 peer.level
  let half := peer.halfRate || s.rf page R.SEAM_PORT.PORT_CTL_RATE_MAX == 1
  let credits := [peer.credits0, peer.credits1, peer.credits2, peer.credits3]
  let fresh : Port := { Port.idle with tx := p.tx, rx := p.rx }
  let q := if p.phase == .retraining then p else fresh
  let s := s.setPort n { q with phase := .up, credits := credits, freed := [0, 0, 0, 0], fecPos := 0, fecLost := false }
  let s := { s with trainSent := s.trainSent ++ [(n, s.ownTraining n width half)] }
  let s := if s.rf pgTempo R.TEMPO.TEMPO_STATUS_PORT == n then s.setTempo { s.tempo with echoIn := 0 } else s
  let s := s.wfs page [(R.SEAM_PORT.LINK_STATUS_PEER_ID, peer.peerId), (R.SEAM_PORT.LINK_STATUS_PEER_PORT, peer.peerPort),
    (R.SEAM_PORT.LINK_STATUS_LEVEL, level), (R.SEAM_PORT.LINK_STATUS_UP, 1), (R.SEAM_PORT.LINK_STATUS_RATE, b2n half),
    (R.SEAM_PORT.LINK_STATUS_PEER_STORE, b2n peer.peerStore), (R.SEAM_PORT.LINK_STATUS_PEER_VALID, b2n peer.peerValid),
    (R.SEAM_PORT.LINK_STATUS_WIDTH, width)]
  (((s.cause page 0).log page 0x0901 [n, width, b2n half, level]).resend n).pump n

/-- PORT_TRAINING_DONE (R349). -/
def execPortTrainingDone (n : PortNo) (peer : TrainingFlit) (s : State) : Host.Outcome State Fault Refusal :=
  .next (if s.alive && ((s.port n).phase == .training || (s.port n).phase == .retraining) && s.lanes n peer.lanes != 0 then
      s.trained n peer (s.lanes n peer.lanes)
    else s)

/-- PORT_TRAINING_RETRY (R349): a port that is not up reports down and trains again. -/
def execPortTrainingRetry (n : PortNo) (s : State) : Host.Outcome State Fault Refusal :=
  .next (if s.alive && ((s.port n).phase == .training || (s.port n).phase == .down) then
      (s.setPort n { s.port n with phase := .training }).wf (pgPort n) R.SEAM_PORT.LINK_STATUS_UP 0
    else s)

/-- PORT_CTL_RETRAIN (R349). -/
def execPortCtlRetrain (view : View) (n : PortNo) (s : State) : Host.Outcome State Fault Refusal :=
  .next (s.onWrite view (pgPort n) false fun s =>
    if (s.port n).phase == .up then s.retrain n false
    else if (s.port n).phase == .down then s.setPort n { s.port n with phase := .training } else s)

/-- The link of a port goes down (R351): event 0x0902; its replay buffer and queued messages are discarded. The beacon port that is down
puts the tempo unit into holdover (R337). -/
def State.linkDown (s : State) (n : Nat) : State :=
  let p := s.port n
  let s := s.setPort n { p with phase := .down, replay := [], tx := [], partials := [[], [], [], []], stuck := 0 }
  let s := s.wf (pgPort n) R.SEAM_PORT.LINK_STATUS_UP 0
  let s := (s.cause (pgPort n) 0).log (pgPort n) 0x0902 [n, p.replay.length]
  if s.rf pgTempo R.TEMPO.TEMPO_STATUS_PORT == n then s.loseBeacons else s

/-- LINK_DOWN (R351): a retrain fails. -/
def execLinkDown (n : PortNo) (s : State) : Host.Outcome State Fault Refusal :=
  .next (if (s.port n).phase == .retraining then s.linkDown n else s)

/-! Forwarding and dropping. -/

/-- MESSAGE_FORWARD (R354). -/
def execMessageForward (n : PortNo) (s : State) : Host.Outcome State Fault Refusal :=
  .next (s.takeOn n (fun m => !s.isLocal m) fun s vc m => s.forward vc m)

/-- Requests that only a store node answers (R362); a module answers them with `STATUS` 4. -/
def storeAnswer (op : Nat) : Option Nat :=
  match op with
  | 0x30 => some 0x31
  | 0x32 => some 0x33
  | 0x34 => some 0x35
  | _ => none

/-- A message is dropped for its opcode (R355, R357). -/
def State.dropOpcode (s : State) (m : List Byte) : State :=
  ((s.inc pgSeam R.SEAM_MGMT.BAD_OPCODE).errDetail pgSeam (mSrc m)).cause pgSeam 2

/-- RESERVED_OPCODE_MESSAGE (R357). A store request that reaches a module is answered with `STATUS` 4, opcode not supported. -/
def execReservedOpcodeMessage (n : PortNo) (s : State) : Host.Outcome State Fault Refusal :=
  .next (s.takeMsg n (fun m => s.isLocal m && (s.badOpcode n m || (storeAnswer (mOp m)).isSome)) fun t m =>
    if s.badOpcode n m then t.dropOpcode m
    else t.sendMsg { op := (storeAnswer (mOp m)).getD 0, dst := mSrc m, tag := mTag m, status := 4 })

/-- SEAM_PORT_COUNT_CLEAR (R374). -/
def execSeamPortCountClear (view : View) (n : PortNo) (s : State) : Host.Outcome State Fault Refusal :=
  .next (s.onWrite view (pgPort n) false fun s => s.clearCounts .seamPort (pgPort n))

/-- SEAM_MGMT_COUNT_CLEAR (R376). -/
def execSeamMgmtCountClear (view : View) (s : State) : Host.Outcome State Fault Refusal :=
  .next (s.onWrite view pgSeam false fun s => s.clearCounts .seamMgmt pgSeam)

end Sys2Proof.Machine
end

