-- ==== Sys2Proof/Machine/Seam.lean ====
section
/-! DEFINITION. Messages of Seam (R357 to R365): what a module does for another one, beacons and schedules, and the tasks SEAM_PUT
and SEAM_GET. Responses of stores are taken in Machine/Snapshot.lean. -/

namespace Sys2Proof.Machine

/-! Requests from another node (R358, R359). -/

/-- The receive windows: base and limit. -/
def State.windows (s : State) : List (Nat × Nat) :=
  [(s.rf64 pgSeam R.SEAM_MGMT.RX_BASE0_LO R.SEAM_MGMT.RX_BASE0_HI, s.rf64 pgSeam R.SEAM_MGMT.RX_LIMIT0_LO R.SEAM_MGMT.RX_LIMIT0_HI),
    (s.rf64 pgSeam R.SEAM_MGMT.RX_BASE1_LO R.SEAM_MGMT.RX_BASE1_HI, s.rf64 pgSeam R.SEAM_MGMT.RX_LIMIT1_LO R.SEAM_MGMT.RX_LIMIT1_HI)]

/-- A range lies in a receive window, in installed memory, and not in the host window (R358). -/
def State.reachable (s : State) (a n : Nat) : Bool :=
  (s.windows.any fun w => decide (w.1 ≤ a) && decide (a + n ≤ w.2)) && !inHost a && rangeOk a n

/-- A remote access is refused: event 0x0905. It is no error that a page counts (R486, log 107). -/
def State.refuseRemote (s : State) (m : List Byte) (status : Nat) : State :=
  let s := s.inc pgSeam R.SEAM_MGMT.REFUSED
  ((s.errDetail pgSeam (mSrc m)).log pgSeam 0x0905 [mSrc m, status, mAddr m % 2 ^ 32]).cause pgSeam 1

/-- A block of Seam data fails its seal at a port (R381, R486): event 0x0906. -/
def State.seamSeal (s : State) (n src k : Nat) : State :=
  (s.err (pgPort n) 0x0906 (s.hdr (pgPort n) oERR_LAST)).log (pgPort n) 0x0906 [src, 4096 * k]

/-- A response to a message. -/
def State.answer (s : State) (m : List Byte) (op status : Nat) : State := s.sendMsg { op := op, dst := mSrc m, tag := mTag m, status := status }

/-- A received WRITE (R358): a whole aligned block with `SEALED` 1 carries its seal; a part is merged and resealed. -/
def State.seamWrite (s : State) (n : Nat) (m : List Byte) : State :=
  let a := mAddr m
  let b := mData m
  if !s.reachable a b.length then (s.refuseRemote m 1).answer m 0x02 1
  else if mFlag m 0 && b.length == 4096 && a % 4096 == 0 then
    ((s.put a b).setSeal (a / 4096) (BitVec.ofNat 32 (mSeal m))).answer m 0x02 0
  else
    let ks := partBlocks a b.length
    let s := s.check ks 0x0906
    match s.firstBad ks with
    | some k => (s.seamSeal n (mSrc m) k).answer m 0x02 2
    | none => (s.putSealed a b).answer m 0x02 0

/-- The message at the head answers once no line of the range it names is host-held (R28). -/
def State.receiveFree (s : State) (n op : Nat) (len : List Byte → Nat) (k : State → List Byte → State) : State :=
  match s.waitingMsg n op with
  | some m => if s.reachable (mAddr m) (len m) then s.whenFree [(mAddr m, len m)] fun s => s.receive n op k else s.receive n op k
  | none => s

/-- WRITE (R358). -/
def execWrite (n : PortNo) (s : State) : Host.Outcome State Fault Refusal :=
  .next (s.receiveFree n 0x01 mLen fun s m => s.seamWrite n m)

/-- A received READ (R358): a whole block returns its seal entry; a part is checked. A length outside 64 to 4,096 is refused. -/
def State.seamRead (s : State) (n : Nat) (m : List Byte) : State :=
  let a := mAddr m
  let len := mArg m
  if len < 64 || 4096 < len || !s.reachable a len then (s.refuseRemote m 1).answer m 0x04 1
  else
    let whole := len == 4096 && a % 4096 == 0
    let ks := if whole then (blocksOf a len).filter s.badBlock else blocksOf a len
    let s := s.check ks 0x0906
    match s.firstBad ks with
    | some k => (s.seamSeal n (mSrc m) k).answer m 0x04 2
    | none =>
      (s.cacheUse a len).sendMsg { op := 0x04, dst := mSrc m, tag := mTag m, data := s.bytes a len, flags := b2n whole, sealW :=
        if whole then (s.sealEntry (a / 4096)).toNat else 0 }

/-- READ (R358). -/
def execRead (n : PortNo) (s : State) : Host.Outcome State Fault Refusal :=
  .next (s.receiveFree n 0x03 mArg fun s m => s.seamRead n m)

/-- A received BUTTON_ADD (R359). -/
def State.seamButton (s : State) (m : List Byte) : State :=
  if graphButton (mBtn m) then ((s.addButton (mBtn m) (mArg m)).settle).answer m 0x02 0
  else (s.refuseButtonQuiet (mBtn m)).answer m 0x02 5

/-- A WRITE of the same source, received earlier than a message at any port, waits to be written (R359). -/
def State.writesAhead (s : State) (n : Nat) (m : List Byte) : Bool :=
  (s.arrived.takeWhile fun a => a != (n, m)).any fun a => mOp a.2 == 0x01 && mSrc a.2 == mSrc m

/-- BUTTON_ADD (R359): it is applied once every WRITE received earlier from its source has been written. -/
def execButtonAdd (n : PortNo) (s : State) : Host.Outcome State Fault Refusal :=
  .next (match s.waitingMsg n 0x05 with
    | some m => if s.writesAhead n m then s else s.receive n 0x05 State.seamButton
    | none => s)

/-! Beacons and echoes (R336, R360). -/

/-- The node address of the neighbour at a port. -/
def State.peer (s : State) (n : Nat) : Nat :=
  s.rf (pgPort n) R.SEAM_PORT.LINK_STATUS_PEER_STORE * 4096 + s.rf (pgPort n) R.SEAM_PORT.LINK_STATUS_PEER_ID

/-- A message to the neighbour at a port. -/
def State.sendPeer (s : State) (n : Nat) (m : Msg) : State :=
  if s.named && s.portUp n then s.enqueue n (({ m with dst := s.peer n } : Msg).bytes s.myId) else s

/-- BEACON_SEND (R336): every 1,024 ticks. -/
def execBeaconSend (s : State) : Host.Outcome State Fault Refusal :=
  .next (if s.tempo.beaconIn != 0 then s else ((List.range 16).filter fun n => bit (s.rf pgTempo R.TEMPO.TEMPO_CTL_BEACON_TX) n).foldl
    (fun t n => t.sendPeer n { op := 0x20, dst := 0, addr := t.now }) (s.setTempo { s.tempo with beaconIn := 1024 }))

/-- The beacon port in use. -/
def State.beaconPort (s : State) : Nat := s.rf pgTempo R.TEMPO.TEMPO_STATUS_PORT

/-- BEACON_DELAY_MEASURE (R336): under the beacon source, when the port has trained and every 2^20 ticks thereafter, an ECHO_REQ carries the
nanosecond timer. -/
def execBeaconDelayMeasure (timer : BitVec 64) (s : State) : Host.Outcome State Fault Refusal :=
  .next (if s.tempoSrc == 1 && s.named && s.portUp s.beaconPort && s.tempo.echoIn == 0 then
      (s.setTempo { s.tempo with echoIn := 2 ^ 20 }).sendPeer s.beaconPort { op := 0x21, dst := 0, addr := timer.toNat }
    else s)

/-- BEACON (R336, R360). -/
def execBeacon (n : PortNo) (s : State) : Host.Outcome State Fault Refusal :=
  .next (s.receive n 0x20 fun s m => s.takeBeacon n (mAddr m))

/-- ECHO_REQ (R360). -/
def execEchoReq (n : PortNo) (heldNs : Word) (s : State) : Host.Outcome State Fault Refusal :=
  .next (s.receive n 0x21 fun s m => s.sendPeer n { op := 0x22, dst := 0, tag := mTag m, addr := mAddr m, arg := heldNs.toNat })

/-- The one-way delay of an echo: ((t4 − t1) − `ARG`) / 2. -/
def echoDelay (t1 t4 held : Nat) : Nat := Nat.min (((t4 + 2 ^ 64 - t1) % 2 ^ 64 - held) / 2) 0xFFFF

/-- ECHO_RESP (R360), on the beacon port. -/
def execEchoResp (n : PortNo) (timer : BitVec 64) (s : State) : Host.Outcome State Fault Refusal :=
  .next (s.receive n 0x22 fun s m =>
    if s.tempoSrc == 1 && s.beaconPort == n.val then s.wf pgTempo R.TEMPO.BEACON_DELAY_NS (echoDelay (mAddr m) timer.toNat (mArg m)) else s)

/-! Schedules (R361); they are armed in Machine/Events.lean. -/

/-- The 16 bytes of an entry (Table 13-3). -/
def Event.bytes (e : Event) : List Byte := leBytes 8 e.count.toNat ++ [e.action] ++ [e.flags] ++ leBytes 2 e.arg.toNat ++ leBytes 4 e.param.toNat

/-- The entry that 16 bytes give. -/
def eventOf (b : List Byte) : Event :=
  ⟨false, BitVec.ofNat 64 (fieldAt b 0 8), BitVec.ofNat 8 (fieldAt b 8 1), BitVec.ofNat 8 (fieldAt b 9 1), BitVec.ofNat 16 (fieldAt b 10 2),
    BitVec.ofNat 32 (fieldAt b 12 4)⟩

/-! SEAM_PUT and SEAM_GET (R363 to R365). -/

/-- The pieces of a transfer: offset and length. They end at 4 KiB boundaries of the remote address, or are whole blocks of an
object. -/
def Txn.cuts (x : Txn) : List (Nat × Nat) :=
  if x.store then (List.range ((x.len + 4095) / 4096)).map fun i => (4096 * i, Nat.min 4096 (x.len - 4096 * i)) else pieces x.remote x.len

/-- The transfer of a task. -/
def State.txn? (s : State) (n : Nat) : Option Txn := s.txns.find? fun x => x.task == n

/-- The state with a transfer replaced. -/
def State.setTxn (s : State) (x : Txn) : State := { s with txns := s.txns.map fun y => if y.task == x.task then x else y }

/-- A tag for the next message. -/
def State.takeTag (s : State) : Nat × State := (s.nextTag, { s with nextTag := (s.nextTag + 1) % 2 ^ 32 })

/-- A transfer records a failure: ABORTED comes before SEAL_MISMATCH (Table 14-7). -/
def Txn.fail (x : Txn) (st : Nat) : Txn := { x with failed := if x.failed == some stAborted then x.failed else some st }

/-- The status that a response gives a task: 0 none (Table 14-7). A reserved status counts as a failure. -/
def responseStatus (st : Nat) : Nat := if st == 0 then stDone else if st == 2 then stSeal else stAborted

/-- The port that a transfer uses, for the page that counts its seal failures. -/
def State.txnPort (s : State) (node : Nat) : Nat := (s.route node).getD 0

/-- What a piece of local memory is sent with: the data, whether it is sealed, its seal, or the block that fails. A whole aligned
block carries its seal unchanged (R358, Table 12-5). -/
structure Outgoing where
  data : List Byte
  flag : Bool
  word : Nat

/-- A piece of local memory is read for sending; `whole` when the other side takes it as a whole block. -/
def State.readOut (s : State) (a n : Nat) (whole : Bool) : State × (Outgoing ⊕ Nat) :=
  let k := a / 4096
  if n == 4096 && a % 4096 == 0 && !inHost a && !s.badBlock k then (s.countRead k, .inl ⟨s.bytes a n, true, (s.sealEntry k).toNat⟩)
  else
    let ks := (blocksOf a n).filter fun k => !inHost (4096 * k)
    let s := (s.check ks 0x0906).cacheReads [(a, n)] (blocksOf a n)
    match s.firstBad ks with
    | some k => (s, .inr k)
    | none =>
      let b := s.bytes a n
      let d := if whole then b ++ List.replicate (4096 - n) 0 else b
      (s, .inl ⟨d, whole, if whole then crc32c d else 0⟩)

/-- One piece of a put is sent, or one of a get is asked for. -/
def State.issueTxn (s : State) (x : Txn) (off n : Nat) : State :=
  let t := s.takeTag
  let x' := { x with next := x.next + 1, pending := x.pending ++ [(t.1, off)] }
  if x.isPut then
    let r := s.readOut (x.home + off) n (x.store || n == 4096)
    match r.2 with
    | .inr k => (r.1.seamSeal (s.txnPort x.node) s.myId k).setTxn ({ x with next := x.next + 1 }.fail stSeal)
    | .inl o =>
      let u := { r.1 with nextTag := t.2.nextTag }.setTxn x'
      if x.store then
        u.sendMsg { op := 0x30, dst := x.node, tag := t.1, arg := x.block + off / 4096, addr := x.remote, sealW := o.word, flags := 1, data := o.data }
      else u.sendMsg { op := 0x01, dst := x.node, tag := t.1, addr := x.remote + off, sealW := o.word, flags := b2n o.flag, data := o.data }
  else
    let u := t.2.setTxn x'
    if x.store then u.sendMsg { op := 0x32, dst := x.node, tag := t.1, arg := x.block + off / 4096, addr := x.remote }
    else u.sendMsg { op := 0x03, dst := x.node, tag := t.1, arg := n, addr := x.remote + off }

/-- A transfer may issue its next piece: at most 64 unacknowledged, and a put stops at its first failure. -/
def Txn.more (x : Txn) : Bool := decide (x.pending.length < 64) && decide (x.next < x.cuts.length) && !(x.isPut && x.failed.isSome)

/-- The pieces that a transfer may issue now. -/
def State.issueFor (fuel : Nat) (s : State) (n : Nat) : State :=
  match fuel with
  | 0 => s
  | k + 1 =>
    match s.txn? n with
    | some x => if x.more then let c := nth x.cuts x.next (0, 0); (s.issueTxn x c.1 c.2).issueFor k n else s
    | none => s

/-- Every piece of a transfer has been answered, and no further one goes out. -/
def Txn.drained (x : Txn) : Bool := x.pending.isEmpty && (decide (x.cuts.length ≤ x.next) || (x.isPut && x.failed.isSome))

/-- A transfer has ended. -/
def State.endTxn (s : State) (x : Txn) (st event : Nat) : State :=
  let s := { s with txns := s.txns.filter fun y => y.task != x.task }
  match s.task? x.task with
  | some t => s.endTask t st 0 event 0 [.readBack (pgPort (s.txnPort x.node)) x.wrote]
  | none => s

/-- A transfer goes on: more pieces, then the button, then its end (R363, R365). -/
def State.goOn (s : State) (n : Nat) : State :=
  let s := s.issueFor 64 n
  match s.txn? n with
  | none => s
  | some x =>
    if !x.drained || x.btnTag.isSome then s
    else match x.failed with
      | some st => s.endTxn x st (if st == stSeal then 0x0906 else 0)
      | none =>
        if x.isPut && x.button != 0xFFFF && !x.btnSent then
          let t := s.takeTag
          (t.2.setTxn { x with btnSent := true, btnTag := some t.1 }).sendMsg
            { op := 0x05, dst := x.node, tag := t.1, arg := 1, btn := x.button }
        else s.endTxn x stDone 0

/-- The transfer that a tag belongs to. -/
def State.txnOf (s : State) (tag : Nat) : Option Txn := s.txns.find? fun x => x.btnTag == some tag || x.pending.any fun p => p.1 == tag

/-- A response acknowledges a message of a put. -/
def State.ackTxn (s : State) (m : List Byte) : State :=
  match s.txnOf (mTag m) with
  | none => s
  | some x =>
    let st := responseStatus (mStatus m)
    let x := { x with
      pending := x.pending.filter fun p => p.1 != mTag m
      btnTag := if x.btnTag == some (mTag m) then none else x.btnTag
      quietAt := s.now }
    let s := if st == stSeal then s.seamSeal (s.txnPort x.node) (mSrc m) (mAddr m / 4096) else s
    (s.setTxn (if st == stDone then x else x.fail st)).goOn x.task

/-- The local range that an acknowledged put goes on reading. -/
def State.putRange (s : State) (m : List Byte) : List (Nat × Nat) :=
  match s.txnOf (mTag m) with
  | some x => [(x.home, x.len)]
  | none => []

/-- WRITE_ACK (R365). -/
def execWriteAck (n : PortNo) (s : State) : Host.Outcome State Fault Refusal :=
  .next (match s.waitingMsg n 0x02 with
    | some m => s.whenFree (s.putRange m) fun s => s.receive n 0x02 State.ackTxn
    | none => s)

/-- Data that arrived is written at a local address: a whole aligned block keeps its seal unchanged; else it is checked against its
seal, when it has one, and merged. A merge that fails counts at the seal unit of its block (R381). -/
def State.storeIn (s : State) (a n : Nat) (m : List Byte) : State × Bool :=
  let d := mData m
  if mFlag m 0 && d.length == 4096 && n == 4096 && a % 4096 == 0 && !inHost a then
    ((s.put a d).setSeal (a / 4096) (BitVec.ofNat 32 (mSeal m)), true)
  else if mFlag m 0 && crc32c d != mSeal m then (s, false)
  else
    let w := s.merge a ((d ++ List.replicate (n - d.length) 0).take n) 0x0906
    (w.1, w.2.isEmpty)

/-- A response brings data of a get. -/
def State.dataTxn (s : State) (n : Nat) (m : List Byte) : State :=
  match s.txnOf (mTag m) with
  | none => s
  | some x =>
    let off := match x.pending.find? (fun p => p.1 == mTag m) with | some p => p.2 | none => 0
    let len := match x.cuts.find? (fun c => c.1 == off) with | some c => c.2 | none => 0
    let st := responseStatus (mStatus m)
    let x := { x with pending := x.pending.filter (fun p => p.1 != mTag m), quietAt := s.now }
    if st == stDone then
      let w := s.storeIn (x.home + off) len m
      if w.2 then (w.1.setTxn { x with wrote := x.wrote ++ blocksOf (x.home + off) len }).goOn x.task
      else ((w.1.seamSeal n (mSrc m) ((x.home + off) / 4096)).setTxn (x.fail stSeal)).goOn x.task
    else
      let s := if st == stSeal then s.seamSeal n (mSrc m) ((x.home + off) / 4096) else s
      (s.setTxn (x.fail st)).goOn x.task

/-- The local range that waits for a response with data, when it answers a get. -/
def State.homeRange (s : State) (m : List Byte) : List (Nat × Nat) :=
  match s.txnOf (mTag m) with
  | some x => match x.pending.find? (fun p => p.1 == mTag m) with | some p => [(x.home + p.2, 4096)] | none => []
  | none => []

/-- READ_DATA (R365). -/
def execReadData (n : PortNo) (s : State) : Host.Outcome State Fault Refusal :=
  .next (match s.waitingMsg n 0x04 with
    | some m => s.whenFree (s.homeRange m) fun s => s.receive n 0x04 fun s m => s.dataTxn n m
    | none => s)

/-- The transfer that a task describes (Table 14-6). -/
def txnOfTask (t : Task) (isPut : Bool) (now : Nat) : Txn where
  task := t.seq
  isPut := isPut
  store := bit (t.fld 52 2) 15
  node := t.fld 52 2 / 2 ^ 15 * 4096 + t.fld 52 2 % 4096
  remote := if bit (t.fld 52 2) 15 then t.fld 40 8 else t.addr 40
  home := t.addr 32
  len := t.fld 48 4
  block := t.fld 56 4
  next := 0
  pending := []
  button := t.fld 54 2
  btnSent := false
  btnTag := none
  failed := none
  quietAt := now
  wrote := []

/-- A transfer is refused at dispatch (R364). -/
def State.txnRefused (s : State) (x : Txn) : Bool :=
  x.len % 64 != 0 || !rangeOk x.home x.len || (!x.store && x.node == s.myId) || !s.named || (x.button != 0xFFFF && !graphButton x.button)

/-- SEAM_PUT and SEAM_GET at dispatch (R363, R364). -/
def State.takeSeam (s : State) (n type : Nat) (isPut : Bool) : State :=
  match s.dispatchable n [type] with
  | none => s
  | some t =>
    let x := txnOfTask t isPut s.now
    if s.txnRefused x then s.refuseTask t pgColl stAborted 0 0x0907 0 [x.node % 4096, x.len]
    else s.whenFree [(x.home, x.len)] fun s =>
      let s := s.handOver t .running pgColl [] 0
      ({ s with txns := s.txns ++ [x] }).goOn n

/-- SEAM_PUT (R363). -/
def execSeamPut (n : Nat) (s : State) : Host.Outcome State Fault Refusal := .next (s.takeSeam n 0x61 true)
/-- SEAM_GET (R363). -/
def execSeamGet (n : Nat) (s : State) : Host.Outcome State Fault Refusal := .next (s.takeSeam n 0x62 false)

end Sys2Proof.Machine
end

