-- ==== Sys2Proof/Machine/Collective.lean ====
section
/-! DEFINITION. The collective engine (R366 to R373, R375): the table, instances and their exchanges in the reference order, the
deadline, late contributions and ledgers. -/

namespace Sys2Proof.Machine

/-! Entries (Table 14-8). -/

/-- A collective entry: kind 0 reduce-scatter, 1 all-gather, 2 all-reduce, 3 reserved. -/
structure CollOp where
  src     : Nat
  res     : Nat
  ledger0 : Nat
  ledger1 : Nat
  group   : Nat
  n       : Nat
  kind    : Nat
  fmt     : Nat
  lateMax : Nat
  p       : Nat
  layer   : Nat
  close   : Nat
  wait    : Nat
  btn     : Nat
deriving DecidableEq, Repr

/-- The entry that 64 bytes give. -/
def collOp (b : List Byte) : CollOp where
  src := recAddr b 0
  res := recAddr b 8
  ledger0 := recAddr b 24
  ledger1 := recAddr b 32
  group := recAddr b 40
  n := fieldAt b 48 4
  kind := fieldAt b 52 1 / 64
  fmt := fieldAt b 52 1 % 64
  lateMax := fieldAt b 53 1
  p := fieldAt b 54 2
  layer := fieldAt b 56 2
  close := 1024 * fieldAt b 58 2
  wait := 1024 * fieldAt b 60 2
  btn := fieldAt b 62 2

/-- Entry `e` of the table in force. -/
def State.collOp (s : State) (e : Nat) : CollOp := Machine.collOp (aget s.ctable e [])

/-- A table is in force. -/
def State.collLoaded (s : State) : Bool := s.rf pgColl R.COLLECTIVE.COLL_CTL_LOADED == 1

/-- The entry's format. -/
def CollOp.format (c : CollOp) : Fmt := (Fmt.ofCode c.fmt).getD .b32

/-- Bytes of an element. -/
def CollOp.size (c : CollOp) : Nat := c.format.bytes

/-- `OP_FMT` names an allowed operation and format (R366). -/
def CollOp.legal (c : CollOp) : Bool :=
  match c.kind, Fmt.ofCode c.fmt with
  | 0, some f | 2, some f => f == .b32 || f == .b64 || f == .i32
  | 1, some f => [Fmt.kf8, .kf16, .kf24, .b32, .b64, .i8, .i16, .i32].contains f
  | _, _ => false

/-- The largest power of two not above P. -/
def CollOp.p2 (c : CollOp) : Nat := 2 ^ Nat.log2 c.p

/-- All-gather copies; the others reduce. -/
def CollOp.gathers (c : CollOp) : Bool := c.kind == 1

/-- Chunks of the vector. -/
def CollOp.chunks (c : CollOp) : Nat := if c.gathers then c.p else c.p2

/-- The first element of a chunk (R367). -/
def CollOp.lo (c : CollOp) (i : Nat) : Nat := i * c.n / c.chunks

/-- Elements from chunk `i` to before chunk `j`. -/
def CollOp.span (c : CollOp) (i j : Nat) : Nat := c.lo j - c.lo i

/-- The ledger of a step's parity (R370). -/
def CollOp.ledger (c : CollOp) (step : Nat) : Nat := if step % 2 == 0 then c.ledger0 else c.ledger1

/-- The entry keeps late contributions. -/
def CollOp.hasLedger (c : CollOp) : Bool := c.ledger0 != 0 && !c.gathers

/-- Member IDs in rank order. -/
def State.group (s : State) (c : CollOp) : List Nat := s.nums c.group c.p 2

/-- The rank of a node in a group: the position of its ID. -/
def rankOf (g : List Nat) (id : Nat) : Option Nat := g.findIdx? (· == id)

/-- add() of R367 on present values. -/
def CollOp.add (c : CollOp) (a b : Nat) : Nat :=
  match c.format with
  | .b64 => add64 a b
  | .i32 => (a + b) % 2 ^ 32
  | _ => add32 a b

/-- add() on runs of values, with the ranks in each: an empty side gives the other. -/
def CollOp.addRun (c : CollOp) (a : List Nat × Nat) (b : List Nat × Nat) : List Nat × Nat :=
  if a.2 == 0 then b else if b.2 == 0 then a else (List.zipWith c.add a.1 b.1, a.2 + b.2)

/-- The stored bytes of a run of values; an empty run is +0. -/
def CollOp.image (c : CollOp) (len : Nat) (r : List Nat × Nat) : List Byte :=
  if r.2 == 0 then List.replicate (len * c.size) 0 else r.1.flatMap (leBytes c.size)

/-! Instances. -/

/-- An instance that has just opened. -/
def Inst.fresh (step : Nat) : Inst := ⟨step, none, [], 0, none, false, 0, [], 0, 0, 0, [], false, 0, []⟩

/-- The instance of an entry. -/
def State.inst (s : State) (e : Nat) : Inst := aget s.insts e (Inst.fresh 0)

/-- The state with an instance replaced. -/
def State.setInst (s : State) (e : Nat) (i : Inst) : State := { s with insts := aput s.insts e i }

/-- `SEL_STATE.STATE` of an entry: 4 shows an open instance while the ledger of an earlier step is not final (DESIGN CHOICE, log 116). -/
def State.instState (s : State) (e : Nat) : Nat :=
  let i := s.inst e
  if i.done then 3 else if i.deadline.isSome then 2 else if i.task.isSome then 1
  else if s.ledgers.any fun l => l.entry == e && l.step != i.step then 4 else 0

/-- Collective messages of a segment: opcode, entry, step, elements from `first`, at most 4,096 bytes of data each. An empty or
zero-length segment is one message without data. The entry travels in `BTN` and the first element in `TAG` (DESIGN CHOICE, log 112). -/
def segMsgs (c : CollOp) (e op step dst first len : Nat) (r : List Nat × Nat) : List Msg :=
  let per := 4096 / c.size
  if r.2 == 0 || len == 0 then [{ op := op, dst := dst, tag := first, arg := r.2, addr := step, btn := e, flags := if r.2 == 0 then 2 else 0 }]
  else (List.range ((len + per - 1) / per)).map fun k =>
    { op := op, dst := dst, tag := first + k * per, arg := r.2, addr := step, btn := e
      data := (((r.1.drop (k * per)).take per).flatMap (leBytes c.size)) }

/-- A segment goes to a member. -/
def State.sendSeg (s : State) (c : CollOp) (e op step dst first len : Nat) (r : List Nat × Nat) : State :=
  (segMsgs c e op step dst first len r).foldl State.sendMsg s

/-- What a received segment message holds; `len` is what an empty one stands for. -/
def segOf (c : CollOp) (result : Bool) (rank len : Nat) (m : List Byte) : Segment :=
  let first := mTag m
  if mFlag m 1 then ⟨result, rank, first, len, [], 0⟩
  else
    let n := Nat.min (mLen m / c.size) (c.n - first)
    ⟨result, rank, first, n, (List.range n).map fun i => fieldAt (mData m) (i * c.size) c.size, mArg m⟩

/-- The pieces from a rank, of a kind, in ascending order of elements. -/
def Inst.from_ (i : Inst) (result : Bool) (rank : Nat) : List Segment :=
  (((i.segs.filter fun g => g.result == result && g.rank == rank).map fun g => (g.first, g)).foldl
    (fun (l : List (Nat × Segment)) p => aput l p.1 p.2) []).map Prod.snd

/-- What a rank has sent for a range, once all of it is there. -/
def Inst.whole (i : Inst) (result : Bool) (rank first len : Nat) : Option (List Nat × Nat) :=
  let l := (i.from_ result rank).filter fun g => decide (first ≤ g.first) && decide (g.first ≤ first + len)
  match l with
  | [] => none
  | g :: _ =>
    if g.present == 0 then some ([], 0)
    else if (l.map fun x => x.len).sum < len then none else some (l.flatMap fun x => x.vals, g.present)

/-- One exchange of a rank (R367): the peer; chunks kept from `keepLo` to before `keepHi`; chunks sent; whether the peer's
values stand on the right; `recv` is false for an extra rank, which only sends. -/
structure Xchg where
  peer   : Nat
  keepLo : Nat
  keepHi : Nat
  sendLo : Nat
  sendHi : Nat
  send   : Bool
  recv   : Bool
  left   : Bool
deriving DecidableEq, Repr

/-- Recursive halving from a distance on, over the chunks from `lo` to before `hi`. -/
def halving (r d lo hi : Nat) (fuel : Nat) : List Xchg :=
  match fuel with
  | 0 => []
  | k + 1 =>
    if d == 0 then []
    else
      let mid := (lo + hi) / 2
      if r / d % 2 == 0 then ⟨r + d, lo, mid, mid, hi, true, true, true⟩ :: halving r (d / 2) lo mid k
      else ⟨r - d, mid, hi, lo, mid, true, true, false⟩ :: halving r (d / 2) mid hi k

/-- The exchanges of a rank in order. -/
def CollOp.plan (c : CollOp) (r : Nat) : List Xchg :=
  let q := c.p2
  if c.gathers then []
  else if q ≤ r then [⟨r - q, 0, 0, 0, q, true, false, true⟩]
  else (if r + q < c.p then [⟨r + q, 0, q, 0, 0, false, true, true⟩] else []) ++ halving r (q / 2) 0 q 13

/-- One step of an instance: an exchange is sent, or received and added. -/
def State.exchange (s : State) (e : Nat) (c : CollOp) (g : List Nat) (x : Xchg) : State × Bool :=
  let i := s.inst e
  let part (lo hi : Nat) : List Nat × Nat := ((i.acc.drop (c.lo lo - i.first)).take (c.span lo hi), i.sum)
  let s := if x.send && i.sent ≤ i.stage then
      (s.setInst e { i with sent := i.stage + 1 }).sendSeg c e 0x10 i.step (nth g x.peer 0) (c.lo x.sendLo) (c.span x.sendLo x.sendHi)
        (part x.sendLo x.sendHi)
    else s
  let i := s.inst e
  if !x.recv then (s.setInst e { i with stage := i.stage + 1 }, true)
  else match i.whole false x.peer (c.lo x.keepLo) (c.span x.keepLo x.keepHi) with
    | none => (s, false)
    | some r =>
      let mine := part x.keepLo x.keepHi
      let sum := if x.left then c.addRun mine r else c.addRun r mine
      (s.setInst e { i with stage := i.stage + 1, first := c.lo x.keepLo, acc := sum.1, sum := sum.2 }, true)

/-- Exchanges go on while what they need is there. -/
def State.exchangeAll (s : State) (e : Nat) (c : CollOp) (g : List Nat) (xs : List Xchg) : State :=
  match xs with
  | [] => s
  | x :: t => let r := s.exchange e c g x; if r.2 then r.1.exchangeAll e c g t else r.1

/-- The ranks that send result segments to rank `r`, each with its chunks: an owner its own, rank r − p2 everything to an extra
rank. -/
def CollOp.sources (c : CollOp) (r : Nat) : List (Nat × Nat × Nat) :=
  if c.kind == 0 then []
  else if !c.gathers && c.p2 ≤ r then [(r - c.p2, 0, c.p2)]
  else ((List.range c.chunks).filter (· != r)).map fun i => (i, i, i + 1)

/-- The result so far: for each source its run, once all has come. -/
def Inst.results (i : Inst) (c : CollOp) (r : Nat) : Option (List (Nat × Nat × (List Nat × Nat))) :=
  (c.sources r).foldl (fun acc x => match acc, i.whole true x.1 (c.lo x.2.1) (c.span x.2.1 x.2.2) with
    | some l, some v => some (l ++ [(c.lo x.2.1, c.span x.2.1 x.2.2, v)])
    | _, _ => none) (some [])

/-- The chunks that a rank holds once its exchanges are done: its own. -/
def CollOp.ownRun (c : CollOp) (r : Nat) (i : Inst) : List (Nat × Nat × (List Nat × Nat)) :=
  if !c.gathers && c.p2 ≤ r then [] else [(c.lo r, c.span r (r + 1), (i.acc, i.sum))]

/-- An owner sends its chunk of the result to every other owner, or in an all-gather to every member. -/
def State.shareChunk (s : State) (e : Nat) (c : CollOp) (g : List Nat) (r : Nat) : State :=
  let i := s.inst e
  if c.kind == 0 || (!c.gathers && c.p2 ≤ r) then s
  else ((List.range c.chunks).filter (· != r)).foldl
    (fun t k => t.sendSeg c e 0x11 i.step (nth g k 0) (c.lo r) (c.span r (r + 1)) (i.acc, i.sum)) s

/-- The whole result passes on to the extra rank r + p2 of an all-reduce. -/
def State.shareAll (s : State) (e : Nat) (c : CollOp) (g : List Nat) (r : Nat) (run : List Nat × Nat) : State :=
  if c.kind == 2 && r + c.p2 < c.p && r < c.p2 then s.sendSeg c e 0x11 (s.inst e).step (nth g (r + c.p2) 0) 0 c.n run else s

/-! Tasks that end with an instance (R372, R373). -/

/-- The record of Table 14-9. -/
def collRecord (c : CollOp) (step present role now wait : Nat) : List Byte :=
  leBytes 8 step ++ leBytes 2 present ++ leBytes 2 c.p ++ leBytes 1 role ++ List.replicate 3 0 ++ leBytes 8 now ++ leBytes 4 wait ++
    List.replicate 4 0

/-- The record that a COLLECTIVE leaves, when it asks for one. -/
def collPost (t : Task) (c : CollOp) (step present role now wait : Nat) : List Post :=
  if t.addr 40 == 0 then [] else [Post.store (t.addr 40) (collRecord c step present role now wait)]

/-- A task's part in a collective ends: a COLLECTIVE completes, the blocks that it wrote left for the read-back (R383), and a
DIGEST_EXCHANGE goes on to its verdict (R392). -/
def State.collEnd (s : State) (n : Nat) (c : CollOp) (e step st event present role wait : Nat) (wrote : List Nat) : State :=
  match s.task? n with
  | none => s
  | some t =>
    if t.type == 0x51 then
      { s with digests := s.digests.map fun d => if d.task == n then { d with closed := some st } else d }
    else
      s.endTask t st 0 event e (collPost t c step present role s.now wait ++ [.readBack pgColl wrote])

/-- The present ranks of an instance as far as this member knows them (Table 14-11): those of the result once it is formed, else those
summed here or in a part of the result that has come. -/
def Inst.known (i : Inst) : Nat :=
  if i.done then i.present else ((i.segs.filter fun g => g.result).map fun g => g.present).foldl Nat.max i.sum

/-- A COLLECTIVE stops with a block reset (R373): its record shows the instance as it stands. -/
def State.stopColl (s : State) (t : Task) : State :=
  let i := s.inst t.target
  let bound := i.task == some t.seq
  s.endTask t stAborted 0 0 t.target (collPost t (s.collOp t.target) t.step i.known (if i.repeats.contains t.seq then 2 else 0) s.now
    (if bound then s.now - i.boundAt else 0))

/-- The tasks of a closed instance end (R368, R373). -/
def State.endInst (s : State) (e : Nat) (c : CollOp) (st event : Nat) (wrote : List Nat) : State :=
  let i := s.inst e
  let s := s.whenSome i.task fun s n => s.collEnd n c e i.step st event i.present 0 (s.now - i.boundAt) wrote
  let s := i.repeats.foldl (fun t n => t.collEnd n c e i.step st event i.present 2 0 []) s
  { s with collPast := s.collPast ++ [CollPast.mk e i.step (if i.task.isSome then some st else none) i.present] }

/-- The result is complete (R367): it is written, and the tasks end; a merge that fails gives SEAL_MISMATCH. Event 0x0909 is logged
once when members are absent. -/
def State.closeInst (s : State) (e : Nat) (c : CollOp) (runs : List (Nat × Nat × (List Nat × Nat))) : State :=
  let i := s.inst e
  let present := if c.gathers then (runs.map fun x => x.2.2.2).sum else (runs.map fun x => x.2.2.2).foldl Nat.max 0
  let w := runs.foldl (fun (a : State × List Nat) x =>
    let r := a.1.merge (c.res + x.1 * c.size) (c.image x.2.1 x.2.2) 0x0906
    (r.1, a.2 ++ r.2)) (s, [])
  let s := w.2.foldl (fun t k => (t.err pgColl 0x0906 e).log pgColl 0x0906 [t.myId, 4096 * k]) w.1
  let s := s.setInst e { i with done := true, present := present }
  let short := decide (present < c.p)
  let s := if short then
      ((s.inc pgColl R.COLLECTIVE.PARTIAL_COUNT).cause pgColl 0).log pgColl 0x0909 [e, i.step % 2 ^ 32, present]
    else s.inc pgColl R.COLLECTIVE.DONE_COUNT
  s.endInst e c (if w.2.isEmpty then (if short then stPartial else stDone) else stSeal) (if w.2.isEmpty then 0 else 0x0906)
    (runs.flatMap fun x => blocksOf (c.res + x.1 * c.size) (x.2.1 * c.size))

/-- An instance whose contribution stands goes as far as what has arrived allows. -/
def State.progress (s : State) (e : Nat) : State :=
  let c := s.collOp e
  let g := s.group c
  match rankOf g s.myId with
  | none => s
  | some r =>
    let i := s.inst e
    if !i.ready || i.done then s
    else
      let plan := c.plan r
      let s := s.exchangeAll e c g (plan.drop i.stage)
      let i := s.inst e
      if i.stage < plan.length then s
      else
        let s := if i.sent ≤ plan.length then (s.setInst e { i with sent := plan.length + 1 }).shareChunk e c g r else s
        match (s.inst e).results c r with
        | none => s
        | some rs =>
          let runs := rs ++ c.ownRun r (s.inst e)
          let flat := ((runs.map fun x => (x.1, x)).foldl (fun (l : List (Nat × _)) p => aput l p.1 p.2) []).map Prod.snd
          let whole := flat.flatMap fun x => if x.2.2.2 == 0 then List.replicate x.2.1 0 else x.2.2.1
          (s.shareAll e c g r (whole, (flat.map fun x => x.2.2.2).foldl Nat.max 0)).closeInst e c runs

/-! Binding (R368). -/

/-- The part of the source that a member contributes: all of it, or chunk r in an all-gather. -/
def CollOp.contribution (c : CollOp) (r : Nat) : Nat × Nat := if c.gathers then (c.lo r, c.span r (r + 1)) else (0, c.n)

/-- The source blocks of a member's contribution. -/
def CollOp.srcRange (c : CollOp) (r : Nat) : Nat × Nat :=
  let x := c.contribution r
  (c.src + x.1 * c.size, x.2 * c.size)

/-- The instance's contribution stands: the values, or nothing from an absent member. -/
def State.contribute (s : State) (e r : Nat) (present : Bool) : State :=
  let c := s.collOp e
  let x := c.contribution r
  let i := s.inst e
  let vals := if present then s.nums (c.src + x.1 * c.size) x.2 c.size else []
  (s.setInst e { i with ready := true, first := x.1, acc := vals, sum := b2n present }).progress e

/-- A task binds to the open instance (R368); one whose source block fails its seal leaves its member absent (R369). -/
def State.bind (s : State) (n e r : Nat) : State :=
  let c := s.collOp e
  let ks := (blocksOf (c.srcRange r).1 (c.srcRange r).2).filter fun k => !inHost (4096 * k)
  let s := (s.check ks 0x0906).cacheReads [c.srcRange r] (blocksOf (c.srcRange r).1 (c.srcRange r).2)
  match s.firstBad ks with
  | some k =>
    let s := ((s.err pgColl 0x0906 e).log pgColl 0x0906 [s.myId, 4096 * k])
    let s := s.collEnd n c e (s.inst e).step stSeal 0x0906 0 0 0 []
    let s := { s with collPast := s.collPast ++ [CollPast.mk e (s.inst e).step (some stSeal) 0] }
    s.contribute e r false
  | none => (s.setInst e { s.inst e with task := some n, boundAt := s.now }).contribute e r true

/-! Late contributions and ledgers (R370, R371). -/

/-- The ledger of a step. -/
def State.ledger? (s : State) (e step : Nat) : Option LedgerRun := s.ledgers.find? fun l => l.entry == e && l.step == step

/-- The state with a ledger replaced. -/
def State.setLedger (s : State) (l : LedgerRun) : State :=
  { s with ledgers := s.ledgers.map fun k => if k.entry == l.entry && k.step == l.step then l else k }

/-- The state without the ledger of a step. -/
def State.dropLedger (s : State) (e step : Nat) : State := { s with ledgers := s.ledgers.filter fun k => !(k.entry == e && k.step == step) }

/-- The ledger of a step exists: it is opened by the first late segment or by the deadline. -/
def State.openLedger (s : State) (e step : Nat) : State :=
  if (s.ledger? e step).isSome then s else { s with ledgers := s.ledgers ++ [LedgerRun.mk e step none [] [] 0 false] }

/-- Late ranks or elements are dropped: event 0x090B. -/
def State.dropLate (s : State) (e count ranks : Nat) : State :=
  ((s.incBy pgColl R.COLLECTIVE.LATE_DROPPED count).log pgColl 0x090B [e, ranks]).cause pgColl 2

/-- An owner keeps a late segment that comes in time, up to `LATE_MAX` ranks. -/
def State.keepLate (s : State) (e step rank first : Nat) (vals : List Nat) : State :=
  let c := s.collOp e
  match s.ledger? e step with
  | none => s.dropLate e 1 1
  | some l =>
    let late := match l.deadline with | some d => decide (d + c.close ≤ s.now) | none => false
    let ranks := (l.kept.map Prod.fst).eraseDups
    if l.closed || late || (!ranks.contains rank && decide (c.lateMax ≤ ranks.length)) then s.dropLate e 1 1
    else s.setLedger { l with kept := l.kept ++ [(rank, first, vals)] }

/-- A late task sends chunk c of its contribution to rank c (R370). -/
def State.sendLate (s : State) (e step r : Nat) : State :=
  let c := s.collOp e
  let g := s.group c
  (List.range c.p2).foldl (fun (t : State) k =>
    let vals := t.nums (c.src + c.lo k * c.size) (c.span k (k + 1)) c.size
    if k == r then t.keepLate e step r (c.lo k) vals
    else (t.inc pgColl R.COLLECTIVE.LATE_SENT).sendSeg c e 0x12 step (nth g k 0) (c.lo k) (c.span k (k + 1)) (vals, 1)) s

/-- The head of a ledger (R238), written last, and the button. -/
def State.finishLedger (s : State) (e step count : Nat) : State :=
  let c := s.collOp e
  let head := leBytes 8 step ++ leBytes 2 c.layer ++ leBytes 2 0 ++ leBytes 4 count
  let s := s.putSealed (c.ledger step) (head ++ List.replicate (4096 - head.length) 0)
  ((if c.btn == 0xFFFF then s else s.addButton c.btn 1).dropLedger e step).settle

/-- A chunk of the ledger arrives from an owner (R370): it is written, and the head follows the last. -/
def State.takeLedger (s : State) (e step owner first len : Nat) (r : List Nat × Nat) : State :=
  let c := s.collOp e
  match s.ledger? e step with
  | none => s.inc pgColl R.COLLECTIVE.STALE_MSGS
  | some l =>
    let full := c.span owner (owner + 1)
    let n := if r.2 == 0 then full else len
    let w := s.merge (c.ledger step + 4096 + first * c.size) (c.image n r) 0x0906
    let s := w.2.foldl (fun t k => (t.err pgColl 0x0906 e).log pgColl 0x0906 [t.myId, 4096 * k]) w.1
    let had := aget l.got owner 0
    let l := { l with got := aput l.got owner (had + n), most := Nat.max l.most r.2 }
    let s := s.setLedger l
    if (List.range c.p2).all fun k => match aget? l.got k with | some v => decide (c.span k (k + 1) ≤ v) | none => false then
      s.finishLedger e step l.most
    else s

/-- What a rank's kept pieces give for an element. -/
def LedgerRun.valueOf (l : LedgerRun) (rank i : Nat) : Option Nat :=
  l.kept.findSome? fun x => if x.1 == rank && decide (x.2.1 ≤ i) then x.2.2[i - x.2.1]? else none

/-- An owner's kept late ranks for its chunk, folded element by element in ascending order with add(); an element that no rank gave
stays +0 (R367). -/
def CollOp.foldKept (c : CollOp) (l : LedgerRun) (r : Nat) : List Nat × Nat :=
  let ranks := (l.kept.foldl (fun (a : List (Nat × Unit)) k => aput a k.1 ()) []).map Prod.fst
  if ranks.isEmpty then ([], 0)
  else ((List.range (c.span r (r + 1))).map fun j =>
    match ranks.filterMap fun k => l.valueOf k (c.lo r + j) with
    | [] => 0
    | v :: vs => vs.foldl c.add v, ranks.length)

/-- The ledger of a step closes at this member (R370, R371). -/
def State.closeLedger (s : State) (l : LedgerRun) : State :=
  let c := s.collOp l.entry
  let g := s.group c
  if !c.hasLedger then ((if c.btn == 0xFFFF then s else s.addButton c.btn 1).dropLedger l.entry l.step).settle
  else
    let s := s.setLedger { l with closed := true }
    match rankOf g s.myId with
    | some r =>
      if c.p2 ≤ r then s
      else
        let run := c.foldKept l r
        let s := ((List.range c.p).filter (· != r)).foldl
          (fun t k => t.sendSeg c l.entry 0x13 l.step (nth g k 0) (c.lo r) (c.span r (r + 1)) run) s
        s.takeLedger l.entry l.step r (c.lo r) (c.span r (r + 1)) run
    | none => s

/-- A ledger that will not be completed (R371): the head with `LG_COUNT` 0 when the entry has ledgers, and the button once. -/
def State.giveUpLedger (s : State) (l : LedgerRun) : State :=
  let c := s.collOp l.entry
  if c.hasLedger then
    (if l.kept.isEmpty then s else s.dropLate l.entry l.kept.length (l.kept.map Prod.fst).eraseDups.length).finishLedger l.entry l.step 0
  else s.closeLedger l

/-- Every step whose deadline has passed adds its button, whatever becomes of its instance (R371). -/
def State.settleLedgers (s : State) : State := (s.ledgers.filter fun l => l.deadline.isSome).foldl State.giveUpLedger s

/-- The first ledger of an entry with a property. -/
def State.findLedger (s : State) (e : Nat) (ok : LedgerRun → Bool) : Option LedgerRun := s.ledgers.find? fun l => l.entry == e && ok l

/-- A time after the deadline has come. -/
def LedgerRun.past (l : LedgerRun) (after now : Nat) : Bool := match l.deadline with | some d => decide (d + after ≤ now) | none => false

/-- The ledger of a step in memory: its head and its elements. -/
def CollOp.ledgerLines (c : CollOp) (step : Nat) : List (Nat × Nat) := if c.hasLedger then [(c.ledger step, 4096 + c.n * c.size)] else []

/-- LEDGER_CLOSE (R370). -/
def execLedgerClose (e : Fin 4096) (s : State) : Host.Outcome State Fault Refusal :=
  .next (match s.findLedger e fun l => !l.closed && l.past (s.collOp e).close s.now with
    | some l => s.whenFree ((s.collOp e).ledgerLines l.step) fun s => s.closeLedger l
    | none => s)

/-- LEDGER_SEG_TIMEOUT (R371). -/
def execLedgerSegTimeout (e : Fin 4096) (s : State) : Host.Outcome State Fault Refusal :=
  .next (match s.findLedger e fun l => l.closed && l.past ((s.collOp e).close + (s.collOp e).wait) s.now with
    | some l => s.whenFree ((s.collOp e).ledgerLines l.step) fun s =>
      (s.log pgColl 0x090B [e, (s.collOp e).p2 - l.got.length]).finishLedger e l.step 0
    | none => s)

/-! The COLLECTIVE task (R368, R370, R372). -/

/-- What the group says of this module: its rank, when its ID stands in it once. -/
def State.myRank (s : State) (c : CollOp) : Option Nat :=
  let g := s.group c
  if !s.named || (g.filter (· == s.myId)).length != 1 then none else rankOf g s.myId

/-- A collective task for an entry is refused (R372). -/
def State.collRefused (s : State) (e : Nat) : Bool :=
  let c := s.collOp e
  decide (4096 ≤ e) || !s.collLoaded || !c.legal || c.p == 0 || decide (4096 < c.p) || (c.kind == 0 && c.p2 != c.p) || (s.myRank c).isNone

/-- A late task (R370): it sends its contribution for the ledger, or drops it. -/
def State.late (s : State) (n e step r : Nat) : State :=
  let c := s.collOp e
  let ks := (blocksOf (c.srcRange r).1 (c.srcRange r).2).filter fun k => !inHost (4096 * k)
  let checked := s.check ks 0x0906
  match (if c.hasLedger then s.firstBad ks else none) with
  | some k =>
    let s := (checked.err pgColl 0x0906 e).log pgColl 0x0906 [s.myId, 4096 * k]
    ({ s with collPast := s.collPast ++ [CollPast.mk e step (some stSeal) 0] }).collEnd n c e step stSeal 0x0906 0 1 0 []
  | none =>
    let present := match s.collPast.find? (fun p => p.entry == e && p.step == step) with | some p => p.present | none => (s.inst e).present
    let s := if c.hasLedger then (checked.cacheReads [c.srcRange r] (blocksOf (c.srcRange r).1 (c.srcRange r).2)).sendLate e step r
      else (s.incBy pgColl R.COLLECTIVE.LATE_DROPPED (c.contribution r).2).cause pgColl 2
    ({ s with collPast := s.collPast ++ [CollPast.mk e step (some stPartial) present] }).collEnd n c e step stPartial 0 present 1 0 []

/-- A task meets the instance of its entry at its step (R368). -/
def State.meet (s : State) (n e step r : Nat) : State :=
  let c := s.collOp e
  let i := s.inst e
  match s.collPast.find? (fun p => p.entry == e && p.step == step && p.status.isSome) with
  | some p => s.collEnd n c e step (p.status.getD 0) 0 p.present 2 0 []
  | none =>
    if step < i.step then s.late n e step r
    else if i.step < step then s
    else if i.task.isSome then s.setInst e { i with repeats := i.repeats ++ [n] }
    else if i.deadline.isSome then s.late n e step r
    else s.bind n e r

/-- The tasks that wait for an entry's instance to reach their step, oldest first. -/
def State.collWaiting (s : State) (e step : Nat) : List Nat :=
  (s.tasks.filter fun t => t.isRunning && (t.type == 0x60 || t.type == 0x51) && t.target == e && t.step == step).map fun t => t.seq

/-- The entry of a collective task. The bits above [11:0] are read as well: a number of 4,096 or above is refused (R372; DEDUCED, log 168). -/
def collEntry (t : Task) : Nat := t.fld 32 2

/-- COLLECTIVE (R368, R372). -/
def State.takeColl (s : State) (t : Task) : State :=
  let e := collEntry t
  let c := s.collOp e
  let gr := (c.group, 2 * c.p)
  if s.collRefused e then s.refuseTask { t with post := collPost t c t.step 0 0 s.now 0 } pgColl stAborted 0 0x0908 e [e]
  else match [gr, (c.src, c.n * c.size), (c.res, c.n * c.size), (t.addr 40, if t.addr 40 == 0 then 0 else 32)].findSome? fun r => faultIn r.1 r.2 with
    | some a => s.faultTask t pgColl 0 a
    | none => s.whenFree [gr, (c.src, c.n * c.size), (c.res, c.n * c.size)] fun s =>
      let ks := blocksOf gr.1 gr.2
      let s := (s.check ks 0x0906).cacheReads [gr] ks
      match s.firstBad ks, s.myRank c with
      | some k, _ => s.refuseTask { t with post := collPost t c t.step 0 0 s.now 0 } pgColl stSeal 0 0x0906 e [s.myId, 4096 * k]
      | none, some r => (s.handOver t .running pgColl [] e).meet t.seq e t.step r
      | none, none => s

/-- COLLECTIVE (R368). -/
def execCollective (n : Nat) (s : State) : Host.Outcome State Fault Refusal :=
  .next (match s.dispatchable n [0x60] with
    | some t => s.takeColl t
    | none => s)

/-- COLLECTIVE_STEP_WAIT_TIMEOUT (R373): the task still waits for its step after `WAIT_MAX`. -/
def execCollectiveStepWaitTimeout (n : Nat) (s : State) : Host.Outcome State Fault Refusal :=
  .next (match s.task? n with
    | some t =>
      let c := s.collOp t.target
      if t.isRunning && (t.type == 0x60 || t.type == 0x51) && decide ((s.inst t.target).step < t.step) && decide (t.startAt + c.wait < s.now) then
        s.collEnd n c t.target t.step stTimeout 0 0 0 0 []
      else s
    | none => s)

/-! Messages of collectives. -/

/-- A collective message is taken in for the open instance. -/
def State.addSegment (s : State) (e : Nat) (m : List Byte) : State :=
  let c := s.collOp e
  match rankOf (s.group c) (mSrc m) with
  | none => s.inc pgColl R.COLLECTIVE.STALE_MSGS
  | some r =>
    let i := s.inst e
    let len := if mOp m == 0x11 then (match ((c.sources ((s.myRank c).getD 0)).find? fun x => x.1 == r) with | some x => c.span x.2.1 x.2.2 | none => 0)
      else match (c.plan ((s.myRank c).getD 0)).find? (fun x => x.peer == r && x.recv) with
        | some x => c.span x.keepLo x.keepHi
        | none => 0
    (s.setInst e { i with segs := i.segs ++ [segOf c (mOp m == 0x11) r len m] }).progress e

/-- LATE_SEG (R370). -/
def execLateSeg (n : PortNo) (s : State) : Host.Outcome State Fault Refusal :=
  .next (s.receive n 0x12 fun s m =>
    let e := mBtn m % 4096
    let c := s.collOp e
    match rankOf (s.group c) (mSrc m) with
    | some r =>
      let g := segOf c false r 0 m
      let s := if s.collLoaded && mAddr m == (s.inst e).step then s.openLedger e (mAddr m) else s
      s.keepLate e (mAddr m) r g.first g.vals
    | none => s.inc pgColl R.COLLECTIVE.STALE_MSGS)

/-- The ledger that a waiting segment is written into. -/
def State.ledgerRange (s : State) (n : Nat) : List (Nat × Nat) :=
  match s.waitingMsg n 0x13 with
  | some m => (s.collOp (mBtn m % 4096)).ledgerLines (mAddr m)
  | none => []

/-- LEDGER_SEG (R370). -/
def execLedgerSeg (n : PortNo) (s : State) : Host.Outcome State Fault Refusal :=
  .next (s.whenFree (s.ledgerRange n) fun s => s.receive n 0x13 fun s m =>
    let e := mBtn m % 4096
    let c := s.collOp e
    match rankOf (s.group c) (mSrc m) with
    | some r =>
      let g := segOf c false r 0 m
      s.takeLedger e (mAddr m) r g.first g.len (g.vals, g.present)
    | none => s.inc pgColl R.COLLECTIVE.STALE_MSGS)

/-! The deadline (R369). -/

/-- Held messages for the step that has opened are taken, and their slots become free. -/
def State.releaseHeld (s : State) (e : Nat) : State :=
  let step := (s.inst e).step
  let due := s.held.filter fun h => mBtn h.2 % 4096 == e && mAddr h.2 == step
  let s := { s with held := s.held.filter fun h => !(mBtn h.2 % 4096 == e && mAddr h.2 == step) }
  due.foldl (fun t h => ((t.addSegment e h.2).freeSlots h.1 2 (h.2.length / 16)).pump h.1) s

/-- The next step of an entry opens (R369): the tasks and the messages that waited for it are taken. When its own deadline has passed
already, a member not bound is absent at once and the tasks are late; an instance that this completes opens the step after it. -/
def State.openNext (fuel : Nat) (s : State) (e : Nat) : State :=
  match fuel with
  | 0 => s
  | k + 1 =>
    let i := s.inst e
    let c := s.collOp e
    let s := s.setInst e { Inst.fresh (i.step + 1) with deadline := i.later.head?, later := i.later.drop 1 }
    let s := (s.collWaiting e (i.step + 1)).foldl (fun t n => match t.myRank c with
      | some r => t.meet n e (i.step + 1) r
      | none => t) s
    let s := s.releaseHeld e
    if i.later.isEmpty then s
    else match s.myRank c with
      | none => s.openNext k e
      | some r =>
        let s := s.contribute e r false
        if (s.inst e).done then s.openNext k e else s

/-- The instance advances to the next step (R369). -/
def State.advanceInst (s : State) (e : Nat) : State := s.openNext ((s.inst e).later.length + 1) e

/-- Advance, when the deadline has passed and the result is complete. -/
def State.advanceIfDue (s : State) (e : Nat) : State := if (s.inst e).deadline.isSome && (s.inst e).done then s.advanceInst e else s

/-- A CONTRIB or RESULT_SEG (R368): for the open step it is taken, for the next it is held in the port buffer, else it is
dropped. -/
def State.takeSeg (s : State) (n : Nat) (m : List Byte) : State :=
  let e := mBtn m % 4096
  let i := s.inst e
  if !s.collLoaded || (mAddr m != i.step && mAddr m != i.step + 1) then (s.inc pgColl R.COLLECTIVE.STALE_MSGS).freeSlots n 2 (m.length / 16)
  else if mAddr m == i.step then ((s.addSegment e m).advanceIfDue e).freeSlots n 2 (m.length / 16)
  else { s with held := s.held ++ [(n, m)] }

/-- A collective segment at the head of a port; its slots stay taken while it is held. -/
def State.receiveSeg (s : State) (n op : Nat) : State :=
  match takeFirst (s.port n).rx (fun m => s.isLocal m && !s.badOpcode n m && mOp m == op) [] with
  | some (m, rest) =>
    let s := s.setPort n { s.port n with rx := rest }
    (if mHops m.2 == 15 then (s.dropMsg 2 m.2).freeSlots n 2 (m.2.length / 16) else s.takeSeg n m.2).pump n
  | none => s

/-- The result that a waiting segment may complete is written once no line of it is host-held (R28). -/
def State.segFree (s : State) (n op : Nat) : State :=
  match s.waitingMsg n op with
  | some m => let c := s.collOp (mBtn m % 4096); s.whenFree [(c.res, c.n * c.size)] fun s => s.receiveSeg n op
  | none => s

/-- CONTRIB (R367). -/
def execContrib (n : PortNo) (s : State) : Host.Outcome State Fault Refusal := .next (s.segFree n 0x10)
/-- RESULT_SEG (R367). -/
def execResultSeg (n : PortNo) (s : State) : Host.Outcome State Fault Refusal := .next (s.segFree n 0x11)

/-- The ledger of a step is timed from its deadline (R370, R371). -/
def State.timeLedger (s : State) (e step : Nat) : State :=
  let c := s.collOp e
  if c.gathers || !c.legal then s
  else
    let s := s.openLedger e step
    s.whenSome (s.ledger? e step) fun s l => s.setLedger { l with deadline := some s.now }

/-- The COLLECTIVE_DEADLINE event of an entry (R369): a member not bound becomes absent, and the step's ledger is timed. While the open
step is still stalled after its own deadline, the event is that of the next step (R369: one event for each step). -/
def State.collDeadline (s : State) (e : Nat) : State :=
  let c := s.collOp e
  let i := s.inst e
  if !s.collLoaded then s
  else if i.deadline.isSome then (s.setInst e { i with later := i.later ++ [s.now] }).timeLedger e (i.step + 1 + i.later.length)
  else
    let s := (s.setInst e { i with deadline := some s.now }).timeLedger e i.step
    match s.myRank c with
    | none => s.advanceInst e
    | some r => (if i.ready then s else s.contribute e r false).advanceIfDue e

/-- An instance is abandoned (R369, R371): TIMEOUT, event 0x090A, the head with `LG_COUNT` 0 and the button, if it is still owed. -/
def State.abandon (s : State) (e : Nat) : State :=
  let c := s.collOp e
  let i := s.inst e
  let s := ((s.inc pgColl R.COLLECTIVE.TIMEOUT_COUNT).cause pgColl 1).log pgColl 0x090A [e, i.step % 2 ^ 32]
  let s := s.endInst e c stTimeout 0x090A []
  let s := s.whenSome (s.ledger? e i.step) fun s l => if c.hasLedger then s.giveUpLedger l else s
  s.advanceInst e

/-- COLLECTIVE_ABANDON (R369). -/
def execCollectiveAbandon (e : Fin 4096) (s : State) : Host.Outcome State Fault Refusal :=
  .next (match (s.inst e).deadline with
    | some d =>
      if !(s.inst e).done && decide (d + (s.collOp e).wait ≤ s.now) then
        s.whenFree ((s.collOp e).ledgerLines (s.inst e).step) fun s => s.abandon e
      else s
    | none => s)

/-! The table (R366). -/

/-- `COLL_TABLE`. -/
def State.collTable (s : State) : Nat := s.rf64 pgColl R.COLLECTIVE.COLL_TABLE_LO_ADDR R.COLLECTIVE.COLL_TABLE_HI_ADDR

/-- The table is read, checked and put in force; a seal failure leaves the previous one. -/
def State.loadColl (s : State) : State :=
  let a := s.collTable
  let step := s.rf64 pgColl R.COLLECTIVE.COLL_STEP_LO R.COLLECTIVE.COLL_STEP_HI
  let ks := blocksOf a (64 * 4096)
  if !rangeOk a (64 * 4096) then (s.accessFault 0 a 0).cause pgColl 3
  else
    let s := (s.check ks 0x090C).cacheReads [(a, 64 * 4096)] ks
    if (s.firstBad ks).isSome then ((s.err pgColl 0x090C 0).log pgColl 0x090C [a % 2 ^ 32]).cause pgColl 3
    else
      let b := s.bytes a (64 * 4096)
      let s := s.held.foldl (fun t h => t.freeSlots h.1 2 (h.2.length / 16)) s.settleLedgers
      ({ s with
        ctable := (List.range 4096).map fun e => (e, (b.drop (64 * e)).take 64)
        insts := (List.range 4096).map fun e => (e, Inst.fresh step)
        ledgers := []
        collPast := []
        held := [] }).wf pgColl R.COLLECTIVE.COLL_CTL_LOADED 1

/-- COLL_LOAD (R366). -/
def execCollLoad (view : View) (s : State) : Host.Outcome State Fault Refusal :=
  .next (s.onWrite view pgColl false fun s => s.whenFree [(s.collTable, 64 * 4096)] State.loadColl)

/-- COLLECTIVE_COUNT_CLEAR (R375). -/
def execCollectiveCountClear (view : View) (s : State) : Host.Outcome State Fault Refusal :=
  .next (s.onWrite view pgColl false fun s => s.clearCounts .collective pgColl)

end Sys2Proof.Machine
end

