-- ==== Sys2Proof/Machine/Crypto.lean ====
section
/-! DEFINITION. The SM4 block cipher and the SM3 digest, from their standards, which the manual names without repeating (R79, R125;
PRESUMED, log 11), and the stochastic-rounding draws of R79. -/

namespace Sys2Proof.Machine

/-- A 32-bit word from four bytes, the first most significant. -/
def beWord (b : List Byte) : BitVec 32 :=
  BitVec.ofNat 32 ((nth b 0 0).toNat * 2 ^ 24 + (nth b 1 0).toNat * 2 ^ 16 + (nth b 2 0).toNat * 2 ^ 8 + (nth b 3 0).toNat)

/-- The bytes of a word, most significant first. -/
def beBytes (w : BitVec 32) : List Byte :=
  [BitVec.ofNat 8 (w.toNat / 2 ^ 24), BitVec.ofNat 8 (w.toNat / 2 ^ 16), BitVec.ofNat 8 (w.toNat / 2 ^ 8), BitVec.ofNat 8 w.toNat]

/-- The words of a run of bytes. -/
def beWords (n : Nat) (b : List Byte) : List (BitVec 32) := (List.range n).map fun i => beWord ((b.drop (4 * i)).take 4)

/-- A word of a list. -/
def wordAt (l : List (BitVec 32)) (i : Nat) : BitVec 32 := nth l i 0

/-! SM4. -/

/-- The S-box, first half. -/
def sboxLo : List Nat :=
  [0xd6, 0x90, 0xe9, 0xfe, 0xcc, 0xe1, 0x3d, 0xb7, 0x16, 0xb6, 0x14, 0xc2, 0x28, 0xfb, 0x2c, 0x05,
   0x2b, 0x67, 0x9a, 0x76, 0x2a, 0xbe, 0x04, 0xc3, 0xaa, 0x44, 0x13, 0x26, 0x49, 0x86, 0x06, 0x99,
   0x9c, 0x42, 0x50, 0xf4, 0x91, 0xef, 0x98, 0x7a, 0x33, 0x54, 0x0b, 0x43, 0xed, 0xcf, 0xac, 0x62,
   0xe4, 0xb3, 0x1c, 0xa9, 0xc9, 0x08, 0xe8, 0x95, 0x80, 0xdf, 0x94, 0xfa, 0x75, 0x8f, 0x3f, 0xa6,
   0x47, 0x07, 0xa7, 0xfc, 0xf3, 0x73, 0x17, 0xba, 0x83, 0x59, 0x3c, 0x19, 0xe6, 0x85, 0x4f, 0xa8,
   0x68, 0x6b, 0x81, 0xb2, 0x71, 0x64, 0xda, 0x8b, 0xf8, 0xeb, 0x0f, 0x4b, 0x70, 0x56, 0x9d, 0x35,
   0x1e, 0x24, 0x0e, 0x5e, 0x63, 0x58, 0xd1, 0xa2, 0x25, 0x22, 0x7c, 0x3b, 0x01, 0x21, 0x78, 0x87,
   0xd4, 0x00, 0x46, 0x57, 0x9f, 0xd3, 0x27, 0x52, 0x4c, 0x36, 0x02, 0xe7, 0xa0, 0xc4, 0xc8, 0x9e]

/-- The S-box, second half. -/
def sboxHi : List Nat :=
  [0xea, 0xbf, 0x8a, 0xd2, 0x40, 0xc7, 0x38, 0xb5, 0xa3, 0xf7, 0xf2, 0xce, 0xf9, 0x61, 0x15, 0xa1,
   0xe0, 0xae, 0x5d, 0xa4, 0x9b, 0x34, 0x1a, 0x55, 0xad, 0x93, 0x32, 0x30, 0xf5, 0x8c, 0xb1, 0xe3,
   0x1d, 0xf6, 0xe2, 0x2e, 0x82, 0x66, 0xca, 0x60, 0xc0, 0x29, 0x23, 0xab, 0x0d, 0x53, 0x4e, 0x6f,
   0xd5, 0xdb, 0x37, 0x45, 0xde, 0xfd, 0x8e, 0x2f, 0x03, 0xff, 0x6a, 0x72, 0x6d, 0x6c, 0x5b, 0x51,
   0x8d, 0x1b, 0xaf, 0x92, 0xbb, 0xdd, 0xbc, 0x7f, 0x11, 0xd9, 0x5c, 0x41, 0x1f, 0x10, 0x5a, 0xd8,
   0x0a, 0xc1, 0x31, 0x88, 0xa5, 0xcd, 0x7b, 0xbd, 0x2d, 0x74, 0xd0, 0x12, 0xb8, 0xe5, 0xb4, 0xb0,
   0x89, 0x69, 0x97, 0x4a, 0x0c, 0x96, 0x77, 0x7e, 0x65, 0xb9, 0xf1, 0x09, 0xc5, 0x6e, 0xc6, 0x84,
   0x18, 0xf0, 0x7d, 0xec, 0x3a, 0xdc, 0x4d, 0x20, 0x79, 0xee, 0x5f, 0x3e, 0xd7, 0xcb, 0x39, 0x48]

/-- The S-box. -/
def sbox (x : Nat) : Nat := if x < 128 then nth sboxLo x 0 else nth sboxHi (x - 128) 0

/-- The S-box on every byte of a word. -/
def tau (w : BitVec 32) : BitVec 32 := beWord ((beBytes w).map fun b => BitVec.ofNat 8 (sbox b.toNat))

/-- The linear map of a round. -/
def sm4L (b : BitVec 32) : BitVec 32 := b ^^^ b.rotateLeft 2 ^^^ b.rotateLeft 10 ^^^ b.rotateLeft 18 ^^^ b.rotateLeft 24

/-- The linear map of the key schedule. -/
def sm4L' (b : BitVec 32) : BitVec 32 := b ^^^ b.rotateLeft 13 ^^^ b.rotateLeft 23

/-- The fixed parameters CK. -/
def sm4CK (i : Nat) : BitVec 32 := beWord ((List.range 4).map fun j => BitVec.ofNat 8 ((4 * i + j) * 7))

/-- The round keys of a 16-byte key, and the last four words of the schedule. -/
def sm4Keys (key : List Byte) : List (BitVec 32) :=
  let mk := beWords 4 key
  let k0 := [wordAt mk 0 ^^^ 0xa3b1bac6#32, wordAt mk 1 ^^^ 0x56aa3350#32, wordAt mk 2 ^^^ 0x677d9197#32, wordAt mk 3 ^^^ 0xb27022dc#32]
  ((List.range 32).foldl (fun (acc : List (BitVec 32) × List (BitVec 32)) i =>
    let k := acc.1
    let n := wordAt k 0 ^^^ sm4L' (tau (wordAt k 1 ^^^ wordAt k 2 ^^^ wordAt k 3 ^^^ sm4CK i))
    ([wordAt k 1, wordAt k 2, wordAt k 3, n], acc.2 ++ [n])) (k0, [])).2

/-- One block enciphered under a 16-byte key. -/
def sm4 (key block : List Byte) : List Byte :=
  let x := (sm4Keys key).foldl (fun x rk =>
    [wordAt x 1, wordAt x 2, wordAt x 3, wordAt x 0 ^^^ sm4L (tau (wordAt x 1 ^^^ wordAt x 2 ^^^ wordAt x 3 ^^^ rk))]) (beWords 4 block)
  beBytes (wordAt x 3) ++ beBytes (wordAt x 2) ++ beBytes (wordAt x 1) ++ beBytes (wordAt x 0)

/-- The draw of R79: step, layer, tile and element under a key. -/
def drawSR (key : List Byte) (step layer tile e : Nat) : Nat :=
  fieldAt (sm4 key (leBytes 8 step ++ leBytes 2 layer ++ leBytes 4 tile ++ leBytes 2 (e / 4))) (4 * (e % 4)) 4 % 2 ^ 24

/-- A rounding mode of Table 3-5 with its draw; code 3 acts as 0 (R77). -/
def rndMode (code u : Nat) : Rnd :=
  match code % 4 with
  | 1 => .rz
  | 2 => .sr u
  | _ => .rne

/-! SM3. -/

/-- The permutation P0. -/
def sm3P0 (x : BitVec 32) : BitVec 32 := x ^^^ x.rotateLeft 9 ^^^ x.rotateLeft 17

/-- The permutation P1. -/
def sm3P1 (x : BitVec 32) : BitVec 32 := x ^^^ x.rotateLeft 15 ^^^ x.rotateLeft 23

/-- The 68 expanded words of a block. -/
def sm3Expand (b : List Byte) : List (BitVec 32) :=
  (List.range 52).foldl (fun w i =>
    w ++ [sm3P1 (wordAt w i ^^^ wordAt w (i + 7) ^^^ (wordAt w (i + 13)).rotateLeft 15) ^^^ (wordAt w (i + 3)).rotateLeft 7 ^^^
      wordAt w (i + 10)]) (beWords 16 b)

/-- One round. -/
def sm3Round (w : List (BitVec 32)) (v : List (BitVec 32)) (j : Nat) : List (BitVec 32) :=
  let a := wordAt v 0
  let b := wordAt v 1
  let c := wordAt v 2
  let d := wordAt v 3
  let e := wordAt v 4
  let f := wordAt v 5
  let g := wordAt v 6
  let h := wordAt v 7
  let t : BitVec 32 := if j < 16 then 0x79cc4519#32 else 0x7a879d8a#32
  let s1 := (a.rotateLeft 12 + e + t.rotateLeft (j % 32)).rotateLeft 7
  let s2 := s1 ^^^ a.rotateLeft 12
  let ff := if j < 16 then a ^^^ b ^^^ c else (a &&& b) ||| (a &&& c) ||| (b &&& c)
  let gg := if j < 16 then e ^^^ f ^^^ g else (e &&& f) ||| (~~~e &&& g)
  let t1 := ff + d + s2 + (wordAt w j ^^^ wordAt w (j + 4))
  let t2 := gg + h + s1 + wordAt w j
  [t1, a, b.rotateLeft 9, c, sm3P0 t2, e, f.rotateLeft 19, g]

/-- The compression of one block into a chaining value. -/
def sm3Block (v : List (BitVec 32)) (b : List Byte) : List (BitVec 32) :=
  let w := sm3Expand b
  let r := (List.range 64).foldl (sm3Round w) v
  (List.range 8).map fun i => wordAt r i ^^^ wordAt v i

/-- The initial value. -/
def sm3IV : List (BitVec 32) :=
  [0x7380166f#32, 0x4914b2b9#32, 0x172442d7#32, 0xda8a0600#32, 0xa96f30bc#32, 0x163138aa#32, 0xe38dee4d#32, 0xb0fb0e4e#32]

/-- The SM3 digest of a byte string. -/
def sm3 (m : List Byte) : List Byte :=
  let pad := m ++ [0x80] ++ List.replicate ((119 - m.length % 64) % 64) 0 ++ (leBytes 8 (8 * m.length)).reverse
  ((List.range (pad.length / 64)).foldl (fun v i => sm3Block v ((pad.drop (64 * i)).take 64)) sm3IV).flatMap beBytes

end Sys2Proof.Machine
end

