-- ==== Sys2Proof/Machine/Grad.lean ====
section
/-! DEFINITION. Gradient cores (chapter 07): the reference order of GRAD_MM, its work items, and the commands GRAD_MM and
WORK_ITEM_DONE. The levels of the tree of an output tile are taken with its last share (DESIGN CHOICE, log 30). -/

namespace Sys2Proof.Machine

/-! The body and operand record (Tables 7-4 and 7-5). -/

/-- A GRAD_MM as its body and operand record give it. -/
structure MatOp where
  a      : Tensor
  b      : Tensor
  c      : Tensor
  aT     : Bool
  bT     : Bool
  zmap   : Nat
  m      : Nat
  n      : Nat
  k      : Nat
  rnd    : Nat
  accum  : Bool
  wide   : Bool
  shares : Nat
  key    : Nat
  layer  : Nat
  quiet  : Nat
deriving DecidableEq, Repr

/-- A format that GRAD_MM takes for A or C; B also takes the weight codes (R171). -/
def matFmt (c : Nat) (out codes : Bool) : Option Fmt :=
  match Fmt.ofCode (c % 64) with
  | some f => if f == .i32 || (out && f.isInt) || (!codes && f.isCode) then none else some f
  | none => none

/-- The format of a code, binary32 for one that no check has passed. -/
def fmtOr (c : Nat) : Fmt := (Fmt.ofCode (c % 64)).getD .b32

/-- The operation of a task with its operand record. -/
def matOp (t : Task) (o : List Byte) : MatOp :=
  let m := fieldAt o 64 4
  let n := fieldAt o 68 4
  let k := fieldAt o 72 4
  let aT := bit (t.fld 48 1) 6
  let bT := bit (t.fld 49 1) 6
  { a := ⟨fmtOr (t.fld 48 1), recAddr o 0, recAddr o 8, if aT then k else m, if aT then m else k⟩
    b := ⟨fmtOr (t.fld 49 1), recAddr o 16, recAddr o 24, if bT then n else k, if bT then k else n⟩
    c := ⟨fmtOr (t.fld 50 1), recAddr o 32, recAddr o 40, m, n⟩
    aT := aT, bT := bT, zmap := recAddr o 48, m := m, n := n, k := k
    rnd := t.fld 50 1 / 64, accum := bit (t.fld 51 1) 6, wide := bit (t.fld 51 1) 3
    shares := 2 ^ Nat.min (t.fld 51 1 % 8) 4, key := t.fld 52 1, layer := t.fld 54 2, quiet := t.fld 56 2 }

/-- An integer operand (Table 7-3). -/
def intOperand (f : Fmt) : Bool := f.isCode || f.isKA || f == .i8 || f == .i16

/-- Indices of a contraction tile (Table 7-3). -/
def MatOp.tileLen (x : MatOp) : Nat :=
  if intOperand x.a.fmt && intOperand x.b.fmt then 1024
  else if 2 ≤ x.a.fmt.width || 2 ≤ x.b.fmt.width then 1 else 32

/-- The integer path. -/
def MatOp.isInt (x : MatOp) : Bool := intOperand x.a.fmt && intOperand x.b.fmt

/-- Contraction tiles. -/
def MatOp.ct (x : MatOp) : Nat := (x.k + x.tileLen - 1) / x.tileLen

/-- Output tiles along N, and of the whole output. -/
def MatOp.nTiles (x : MatOp) : Nat := (x.n + 255) / 256
/-- Output tiles. -/
def MatOp.tiles (x : MatOp) : Nat := (x.m + 255) / 256 * x.nTiles

/-- Long-sum mode (R179). -/
def longsumOn (t : Task) (x : MatOp) : Bool := t.flag 2 || decide (65536 < x.k)

/-- The first check of Table 7-6 that fails; 0 when all pass. -/
def matCheck (t : Task) (x : MatOp) : Nat :=
  if (matFmt (t.fld 48 1) false false).isNone || (matFmt (t.fld 49 1) false true).isNone then 1
  else if (matFmt (t.fld 50 1) true false).isNone then 2
  else if x.b.fmt.isCode && x.bT then 3
  else if 2 ^ 24 < x.m || 2 ^ 24 < x.n || 2 ^ 24 < x.k then 4
  else if (longsumOn t x || x.rnd == 2) && 2 ^ 32 < x.tiles * (x.ct + 1) then 5
  else if x.accum && !(x.c.fmt == .kf16 || x.c.fmt == .kf24 || x.c.fmt == .b32 || (x.c.fmt == .b64 && x.wide)) then 6 else 0

/-! Elements, zero and quiet blocks (R173, R175, R176). -/

/-- Stored position of op(A)'s element (m, k). -/
def MatOp.aPos (x : MatOp) (m k : Nat) : Nat × Nat := if x.aT then (k, m) else (m, k)
/-- Stored position of op(B)'s element (k, n). -/
def MatOp.bPos (x : MatOp) (k n : Nat) : Nat × Nat := if x.bT then (n, k) else (k, n)

/-- Bytes of the zero map for one stored row of A. -/
def MatOp.zmapRow (x : MatOp) : Nat := 2 * ((x.a.cols + 511) / 512)

/-- The map bit of a group of 32 of a stored row. -/
def State.zbit (s : State) (x : MatOp) (row group : Nat) : Bool :=
  bit (s.byte (x.zmap + row * x.zmapRow + group / 8)).toNat (group % 8)

/-- A zero block of op(A), by its block indices (R175). -/
def State.zeroBlock (s : State) (x : MatOp) (mb kb : Nat) : Bool :=
  x.zmap != 0 &&
    (if x.aT then (List.range (Nat.min 32 (x.k - 32 * kb))).all fun i => s.zbit x (32 * kb + i) mb
     else (List.range (Nat.min 32 (x.m - 32 * mb))).all fun i => s.zbit x (32 * mb + i) kb)

/-- The quiet threshold; a negative or NaN one acts as 0. -/
def quietAt (x : MatOp) : FVal :=
  match mKF16.decode x.quiet with
  | .nan => .fin 0 false
  | v => if v.isNeg then .fin 0 false else v

/-- A quiet block of op(B) (R176). -/
def State.quietBlock (s : State) (x : MatOp) (kb nb : Nat) : Bool :=
  (List.range (Nat.min 32 (x.k - 32 * kb))).all fun i => (List.range (Nat.min 32 (x.n - 32 * nb))).all fun j =>
    let p := x.bPos (32 * kb + i) (32 * nb + j)
    let v := (s.elemAt x.b p.1 p.2).abs
    v != .nan && !(quietAt x).less v

/-- The integer and exponent of an element on the integer path (R173). -/
def State.intElem (s : State) (x : Tensor) (r c : Nat) : Int × Nat :=
  let raw := s.rawElem x r c
  if x.fmt == .kw2 then (codeDiff .kw2 raw, 126)
  else if x.fmt == .kt2 then (codeDiff .kt2 raw, 127)
  else (sint x.fmt.intBits raw, if x.fmt.isKA then s.elemExp x r c else 127)

/-- An integer shifted right with RNE, and whether the shift discarded bits (R173). -/
def alignInt (i : Int) (sh : Nat) : Int × Bool :=
  let r := (roundInt .rne (2 ^ 62) (2 ^ 62) ((i : Rat) / ((2 ^ sh : Nat) : Rat))).1
  (r, decide (r * 2 ^ sh ≠ i))

/-- The indices of a contraction tile. -/
def MatOp.tileIdx (x : MatOp) (ct : Nat) : List Nat := (List.range (Nat.min x.tileLen (x.k - ct * x.tileLen))).map (ct * x.tileLen + ·)

/-- A row of op(A) over a contraction tile on the integer path: tile exponent, aligned integers by index, elements whose shift discarded
bits. Zero blocks enter as 0. -/
def State.alignA (s : State) (x : MatOp) (m ct : Nat) : Nat × List Int × Nat :=
  let es := (x.tileIdx ct).map fun k =>
    if s.zeroBlock x (m / 32) (k / 32) then none else let p := x.aPos m k; some (s.intElem x.a p.1 p.2)
  let top := es.foldl (fun e o => match o with | some v => Nat.max e v.2 | none => e) 0
  let al := es.map fun o => match o with | some v => alignInt v.1 (top - v.2) | none => (0, false)
  (top, al.map (·.1), (al.filter (·.2)).length)

/-- A column of op(B) over a contraction tile; quiet blocks enter as 0. -/
def State.alignB (s : State) (x : MatOp) (n ct : Nat) : Nat × List Int × Nat :=
  let es := (x.tileIdx ct).map fun k =>
    if s.quietBlock x (k / 32) (n / 32) then none else let p := x.bPos k n; some (s.intElem x.b p.1 p.2)
  let top := es.foldl (fun e o => match o with | some v => Nat.max e v.2 | none => e) 0
  let al := es.map fun o => match o with | some v => alignInt v.1 (top - v.2) | none => (0, false)
  (top, al.map (·.1), (al.filter (·.2)).length)

/-- The exact value of the run of (m, n) over a contraction tile (R172 to R176). -/
def State.runValue (s : State) (x : MatOp) (m n ct : Nat) : FVal :=
  if x.isInt then
    let a := s.alignA x m ct
    let b := s.alignB x n ct
    let run := ((List.range a.2.1.length).map fun i => nth a.2.1 i 0 * nth b.2.1 i 0).foldl (· + ·) (0 : Int)
    let v := FVal.of ((run : Rat) * pow2 ((a.1 : Int) + (b.1 : Int) - 254))
    if x.b.fmt.isCode then v.mul (mKF16.decode (s.colScale x.b n)) else v
  else
    (x.tileIdx ct).foldl (fun v k =>
      let pa := x.aPos m k
      let pb := x.bPos k n
      let va := if s.zeroBlock x (m / 32) (k / 32) then FVal.of 0 else s.elemAt x.a pa.1 pa.2
      let vb := if s.quietBlock x (k / 32) (n / 32) then FVal.of 0 else s.elemAt x.b pb.1 pb.2
      v.add (va.mul vb)) (FVal.of 0)

/-- The accumulator's layout. -/
def MatOp.acc (x : MatOp) : Mini := if x.wide then mB64 else mB32

/-- The output tile of an element. -/
def MatOp.tileOf (x : MatOp) (m n : Nat) : Nat := m / 256 * x.nTiles + n / 256

/-- The draw of an element for a contraction tile; `ct` itself for the output conversion (R180). -/
def MatOp.draw (x : MatOp) (key : List Byte) (step m n ct : Nat) : Nat :=
  drawSR key step x.layer (x.tileOf m n * (x.ct + 1) + ct) (m % 256 * 256 + n % 256)

/-- promote (R178). -/
def promote (acc : Mini) (mode : Rnd) (a : Nat) (v : FVal) : Nat :=
  if v.isZero then a else (acc.encode mode ((acc.decode a).add v)).1

/-- The fixed binary tree over shares (R177). -/
def shareTree (acc : Mini) (fuel : Nat) (l : List Nat) : Nat :=
  match fuel with
  | 0 => nth l 0 0
  | n + 1 => match l with
    | [] => 0
    | [a] => a
    | _ => shareTree acc n ((List.range (l.length / 2)).map fun j =>
        (acc.encode .rne ((acc.decode (nth l (2 * j) 0)).add (acc.decode (nth l (2 * j + 1) 0)))).1)

/-- The result r of an element before its output conversion, in the accumulator format (R177). -/
def State.matElem (s : State) (x : MatOp) (key : List Byte) (step : Nat) (longsum : Bool) (m n : Nat) : Nat :=
  let shares := (List.range x.shares).map fun sh =>
    let lo := sh * x.ct / x.shares
    let hi := (sh + 1) * x.ct / x.shares
    (List.range (hi - lo)).foldl (fun a i =>
      promote x.acc (if longsum then .sr (x.draw key step m n (lo + i)) else .rne) a (s.runValue x m n (lo + i))) 0
  let r := shareTree x.acc 5 shares
  if x.accum then (x.acc.encode .rne ((x.acc.decode (x.acc.encode .rne (s.elemAt x.c m n)).1).add (x.acc.decode r))).1 else r

/-! Operand checks (R175, R188, R191). -/

/-- A plane of a tensor in memory: rows of bytes, each `unit` bytes holding `span` elements of its row. -/
structure Plane where
  addr : Nat
  rowB : Nat
  rows : Nat
  unit : Nat
  span : Nat
deriving DecidableEq, Repr

/-- The planes of a tensor; the column scales of a weight-code tensor are one row of two-byte units. -/
def Tensor.planes (x : Tensor) : List Plane :=
  [⟨x.elem, x.rowBytes, x.rows, Nat.max 1 x.fmt.bytes, if x.fmt.isCode then 4 else 1⟩] ++
    (if x.fmt.isCode then [⟨x.exp, 2 * x.cols, 1, 2, 1⟩]
     else if x.fmt.block == 0 then [] else [⟨x.exp, x.rowExps, x.rows, 1, x.fmt.block⟩])

/-- The units of a plane that lie in a 4 KiB block, as (stored row, first element). -/
def Plane.unitsIn (p : Plane) (k : Nat) : List (Nat × Nat) :=
  let lo := Nat.max p.addr (4096 * k) - p.addr
  let hi := Nat.min (p.addr + p.rowB * p.rows) (4096 * k + 4096) - p.addr
  (List.range ((hi + p.unit - 1) / p.unit - lo / p.unit)).map fun i =>
    let at_ := (lo / p.unit + i) * p.unit
    (at_ / p.rowB, at_ % p.rowB / p.unit * p.span)

/-- The elements of op(A), as (m, k), that a unit of a plane of A holds. -/
def MatOp.unitA (x : MatOp) (span : Nat) (u : Nat × Nat) : List (Nat × Nat) :=
  (List.range (Nat.min span (x.a.cols - u.2))).map fun i => if x.aT then (u.2 + i, u.1) else (u.1, u.2 + i)

/-- The elements of op(B), as (k, n), that a unit of a plane of B holds. -/
def MatOp.unitB (x : MatOp) (span : Nat) (u : Nat × Nat) : List (Nat × Nat) :=
  (List.range (Nat.min span (x.b.cols - u.2))).map fun i => if x.bT then (u.2 + i, u.1) else (u.1, u.2 + i)

/-- The blocks of a plane. -/
def Plane.blocks (p : Plane) : List Nat := blocksOf p.addr (p.rowB * p.rows)

/-- The contraction indices of a work item: from the first up to the second. -/
def MatOp.itemRange (x : MatOp) (item : Nat) : Nat × Nat :=
  let sh := item % x.shares
  (sh * x.ct / x.shares * x.tileLen, Nat.min ((sh + 1) * x.ct / x.shares * x.tileLen) x.k)

/-- A row of op(A) or C lies in an output tile. -/
def MatOp.rowIn (x : MatOp) (ot m : Nat) : Bool := m / 256 == ot / x.nTiles
/-- A column of op(B) or C lies in an output tile. -/
def MatOp.colIn (x : MatOp) (ot n : Nat) : Bool := n / 256 == ot % x.nTiles

/-- The blocks of A that a work item uses, and whether it uses them in zero blocks alone (R175). -/
def State.itemA (s : State) (x : MatOp) (item : Nat) : List (Nat × Bool) :=
  let ot := item / x.shares
  let g := x.itemRange item
  x.a.planes.flatMap fun p => p.blocks.filterMap fun b =>
    let used := ((p.unitsIn b).flatMap (x.unitA p.span)).filter fun e => x.rowIn ot e.1 && decide (g.1 ≤ e.2) && decide (e.2 < g.2)
    if used.isEmpty then none else some (b, x.zmap != 0 && used.all fun e => s.zeroBlock x (e.1 / 32) (e.2 / 32))

/-- The blocks of B that a work item uses; the column scales of weight codes are used whatever the indices. -/
def MatOp.itemB (x : MatOp) (item : Nat) : List Nat :=
  let ot := item / x.shares
  let g := x.itemRange item
  x.b.planes.flatMap fun p => p.blocks.filter fun b =>
    if x.b.fmt.isCode && p.addr == x.b.exp && p.rows == 1 then
      decide (g.1 < g.2) && (p.unitsIn b).any fun u => x.colIn ot u.2
    else ((p.unitsIn b).flatMap (x.unitB p.span)).any fun e => x.colIn ot e.2 && decide (g.1 ≤ e.1) && decide (e.1 < g.2)

/-- The blocks of the zero map that a work item uses. -/
def MatOp.itemZ (x : MatOp) (item : Nat) : List Nat :=
  let ot := item / x.shares
  let g := x.itemRange item
  if x.zmap == 0 then []
  else
    let p : Plane := ⟨x.zmap, x.zmapRow, x.a.rows, 1, 256⟩
    p.blocks.filter fun b => ((p.unitsIn b).flatMap (x.unitA p.span)).any fun e => x.rowIn ot e.1 && decide (g.1 ≤ e.2) && decide (e.2 < g.2)

/-- The blocks of C that an output tile adds into, under `C_ACCUM` (R177). -/
def MatOp.tileC (x : MatOp) (ot : Nat) : List Nat :=
  if !x.accum then []
  else (x.c.planes.flatMap fun p => p.blocks.filter fun b => (p.unitsIn b).any fun u =>
    x.rowIn ot u.1 && (List.range (Nat.min p.span (x.c.cols - u.2))).any fun i => x.colIn ot (u.2 + i)).eraseDups

/-- The ranges that a GRAD_MM reads. -/
def MatOp.reads (x : MatOp) : List (Nat × Nat) :=
  x.a.ranges ++ x.b.ranges ++ (if x.zmap == 0 then [] else [(x.zmap, x.zmapRow * x.a.rows)]) ++ (if x.accum then x.c.ranges else [])

/-! Cores and work items (R183, R184). -/

/-- The runs of a die, in the order in which their tasks were handed over. -/
def State.gradOf (s : State) (q : Nat) : List GradRun := (s.gradRuns.filter fun p => p.1 == q).map (·.2)

/-- The state with a run replaced. -/
def State.setGrad (s : State) (r : GradRun) : State :=
  { s with gradRuns := s.gradRuns.map fun (p : Nat × GradRun) => if p.2.task == r.task then (p.1, r) else p }

/-- The state without the run of a task. -/
def State.dropGrad (s : State) (n : Nat) : State := { s with gradRuns := s.gradRuns.filter fun p => p.2.task != n }

/-- A core runs an item. -/
def State.coreBusy (s : State) (q c : Nat) : Bool := (s.gradOf q).any fun r => (aget? r.assigned c).isSome

/-- Work items of a run. -/
def MatOp.items (x : MatOp) : Nat := x.tiles * x.shares

/-- The page of a core joins a task, leaving the tasks whose items it ran before: their posted writes apply (R13). -/
def State.takeCore (s : State) (page n : Nat) : State :=
  let s : State := { s with tasks := s.tasks.map fun (t : Task) => if t.seq == n then t else { t with pages := t.pages.filter (· != page) } }
  let s := if s.betweenTasks page then s.applyPosted else s
  { s with tasks := s.tasks.map fun (t : Task) => if t.seq == n && !t.pages.contains page then { t with pages := t.pages ++ [page] } else t }

/-- A core takes the next item of a run: its page shows it (Table 7-10). What its local store then holds is open. -/
def State.assignItem (s : State) (q c : Nat) (r : GradRun) (x : MatOp) : State :=
  let page := pgGradCore q c
  let s := s.takeCore page r.task
  let idx := match s.task? r.task with | some t => t.cmplIndex | none => 0
  let homes := if r.next % x.shares == 0 then aput r.homes (r.next / x.shares) c else r.homes
  let s := s.setGrad { r with next := r.next + 1, assigned := aput r.assigned c r.next, homes := homes }
  let d := s.draw 1
  d.2.wfs page [(R.GRAD_CORE.CUR_TASK, idx), (R.GRAD_CORE.CUR_TILE, r.next / x.shares), (R.GRAD_CORE.CUR_SHARE_SHARE, r.next % x.shares),
    (R.GRAD_CORE.LS_USE_KIB, d.1.toNat % 16385)]

/-- The operation of a run. -/
def State.runOp (s : State) (r : GradRun) : Option MatOp := (s.task? r.task).map fun t => matOp t r.opnd

/-- An idle, ready core takes the next unassigned item of the earliest run that has one. -/
def State.feedCore (s : State) (q c : Nat) : State :=
  if s.coreBusy q c || !s.coreReady (pgGradCore q c) then s
  else match (s.gradOf q).find? fun r => match s.runOp r with | some x => decide (r.next < x.items) | none => false with
  | some r => match s.runOp r with
    | some x => s.assignItem q c r x
    | none => s
  | none => s

/-- Every idle core of a die is offered an item, lowest first. -/
def State.pumpGrad (s : State) (q : Nat) : State := (List.range 16).foldl (fun t c => t.feedCore q c) s

/-- Cycles for one contraction index (R85, R183). -/
def MatOp.rate (x : MatOp) : Nat :=
  match Nat.max (Nat.max x.a.fmt.width x.b.fmt.width) (if x.wide then 3 else 0) with
  | 0 => 1
  | 1 => 2
  | 2 => 8
  | _ => 32

/-- Products and cycles of a work item (R183). -/
def State.itemWork (s : State) (x : MatOp) (item : Nat) : Nat × Nat :=
  let ot := item / x.shares
  let sh := item % x.shares
  let m0 := ot / x.nTiles * 256
  let n0 := ot % x.nTiles * 256
  let rows := Nat.min 256 (x.m - m0)
  let cols := Nat.min 256 (x.n - n0)
  let lo := sh * x.ct / x.shares * x.tileLen
  let hi := Nat.min ((sh + 1) * x.ct / x.shares * x.tileLen) x.k
  (List.range ((hi + 31) / 32 - lo / 32)).foldl (fun (acc : Nat × Nat) i =>
    let kb := lo / 32 + i
    let len := Nat.min (32 * kb + 32) hi - Nat.max (32 * kb) lo
    let skip := (List.range ((rows + 31) / 32)).all (fun j => s.zeroBlock x (m0 / 32 + j) kb) ||
      (List.range ((cols + 31) / 32)).all (fun j => s.quietBlock x kb (n0 / 32 + j))
    if skip then acc else (acc.1 + rows * cols * len, acc.2 + x.rate * len)) (0, 64)

/-! Output (R177, R184). -/

/-- The exponent of a block or group of C: by the fit, or the one exponent of the run (R84, R251). -/
def State.cExponent (s : State) (t : Task) (x : MatOp) (r : GradRun) (m blk : Nat) : Nat :=
  let w := x.c.fmt.block
  let src := expSrc (t.fld 51 1 / 16) x.layer
  let vals := (List.range (Nat.min w (x.n - w * blk))).map fun i =>
    x.acc.decode (s.matElem x r.key t.step r.longsum m (w * blk + i))
  blockExponent x.c.fmt src (if src == 2 then t.fld 53 1 else r.expo) vals

/-- One row of an output tile: the runs of bytes to write, its elements with address, source and outcome, the blocks that end in it with
what they count, each with the addresses of its elements in this tile, and the largest finite source. -/
structure TileRow where
  writes : List (Nat × List Byte)
  elems  : List (Nat × FVal × Elem)
  blocks : List (List Nat × Counts)
  peak   : Rat

/-- A row of an output tile. Padding behind the last column is written as zero (R68). A block is counted by the tile that holds its last
element, unless an earlier tile left its part of it unwritten (R250). -/
def State.tileRow (s : State) (t : Task) (x : MatOp) (r : GradRun) (m n0 cols : Nat) : TileRow :=
  let f := x.c.fmt
  let at_ (n : Nat) : Nat := x.c.elem + m * x.c.rowBytes + n * f.bytes
  let srcOf (n : Nat) : FVal := x.acc.decode (s.matElem x r.key t.step r.longsum m n)
  let conv (n : Nat) (v : FVal) : Elem :=
    convertElem f (rndMode x.rnd (x.draw r.key t.step m n x.ct)) (if f.block == 0 then 0 else s.cExponent t x r m (n / f.block)) 0 v
  let ns := (List.range cols).map (n0 + ·)
  let els := ns.map fun n => let v := srcOf n; (at_ n, v, conv n v)
  let pad := if n0 + cols = x.n then x.c.stride - x.n else 0
  let bs := if f.block == 0 then [] else (ns.map (· / f.block)).eraseDups
  { writes := [(at_ n0, packRaws f (els.map (·.2.2.raw) ++ List.replicate pad 0))] ++
      bs.map fun b => (x.c.exp + m * x.c.rowExps + b, [BitVec.ofNat 8 (s.cExponent t x r m b)])
    elems := els
    blocks := (bs.filter fun b => decide (Nat.min (f.block * b + f.block) x.n ≤ n0 + cols) &&
        (decide (n0 ≤ f.block * b) || !r.failed.contains (x.tileOf m (f.block * b)))).map fun b =>
      let bn := (List.range (Nat.min f.block (x.n - f.block * b))).map (f.block * b + ·)
      ((bn.filter fun n => decide (n0 ≤ n)).map at_, blockCounts f (bn.map srcOf) (bn.map fun n => conv n (srcOf n)))
    peak := finitePeak (els.map (·.2.1)) }

/-- The rows of an output tile. -/
def State.tileRows (s : State) (t : Task) (x : MatOp) (r : GradRun) (ot : Nat) : List TileRow :=
  let m0 := ot / x.nTiles * 256
  let n0 := ot % x.nTiles * 256
  (List.range (Nat.min 256 (x.m - m0))).map fun i => s.tileRow t x r (m0 + i) n0 (Nat.min 256 (x.n - n0))

/-- A block that a core reads or writes fails its seal (R486): counted at the core and logged with its address. -/
def State.coreSealErr (s : State) (q c k tile : Nat) : State :=
  let page := pgGradCore q c
  (((s.inc page R.GRAD_CORE.SEAL_ERRS).err page 0x0201 tile).log page 0x0201 [c, 4096 * k]).cause page 1

/-- Several byte runs stored, with the blocks whose merge failed. -/
def State.storeAll (s : State) (ws : List (Nat × List Byte)) : State × List Nat :=
  ws.foldl (fun acc w => let r := acc.1.store w.1 w.2; (r.1, acc.2 ++ r.2)) (s, [])

/-- The larger of two KF16 magnitudes. -/
def maxPeak (a b : Nat) : Nat := if (mKF16.decode a).q < (mKF16.decode b).q then b else a

/-- The first address of a list of writes that no installed range holds (R304). -/
def writeFault (ws : List (Nat × List Byte)) : Option Nat := ws.findSome? fun w => faultIn w.1 w.2.length

/-- The writes made before the first that meets a fault (R304). -/
def goodWrites (ws : List (Nat × List Byte)) : List (Nat × List Byte) := ws.takeWhile fun w => (faultIn w.1 w.2.length).isNone

/-- Blocks that a core reads, each checked; those that fail are counted at the core (R486). -/
def State.coreReads (s : State) (q c tile : Nat) (ks : List Nat) : State × List Nat :=
  let bad := ks.filter fun k => !s.blockOk k
  (bad.foldl (fun u k => u.coreSealErr q c k tile) (s.check ks 0x0201), bad)

/-- The run has met a failing block: the output tile that read it is not written. -/
def GradRun.spoil (r : GradRun) (ot c : Nat) : GradRun := { r with failed := (r.failed ++ [ot]).eraseDups, errCore := c }

/-- A core fetches what its work item uses and checks the seals (R175, R191): a failing block spoils the output tile, an address in no
installed range is answered (R304). Zero blocks are fetched under the core's `SKIP_DIS` alone, and a failing one counts at the core and
nowhere else. -/
def State.readItem (s : State) (q c : Nat) (x : MatOp) (r : GradRun) (item : Nat) : State × GradRun × Option Nat :=
  let ot := item / x.shares
  let as := s.itemA x item
  let live := ((as.filter (!·.2)).map (·.1) ++ x.itemB item ++ x.itemZ item).eraseDups
  let dead := if s.rf (pgGradCore q c) R.GRAD_CORE.CORE_CTL_SKIP_DIS == 1 then (as.filter (·.2)).map (·.1) else []
  match live.find? fun k => !installed (4096 * k) with
  | some k => (s, { r with errCore := c }, some (4096 * k))
  | none =>
    let z := (s.cacheReads x.reads live).coreReads q c ot live
    let s := (dead.filter fun k => !s.blockOk k).foldl (fun u k => u.coreSealErr q c k ot) z.1
    (s, if z.2.isEmpty then r else r.spoil ot c, none)

/-- An output tile is finished on the core that holds its share 0: written, sealed, once its tree and conversion are done (R184); a pre-pass
writes nothing (R254). A write that meets a fault is not made, and its address answered (R304). Only what was written is counted for the
watch (R250). -/
def State.finishTile (s : State) (q c : Nat) (t : Task) (x : MatOp) (r : GradRun) (ot : Nat) : State × GradRun × Option Nat :=
  let old := (s.cacheReads x.c.ranges (x.tileC ot)).coreReads q c ot (x.tileC ot)
  let r := if old.2.isEmpty then r else r.spoil ot c
  let s := old.1
  if r.failed.contains ot then (s, r, none)
  else
    let rows := s.tileRows t x r ot
    let page := pgGradCore q c
    let nonfin := (rows.map fun (y : TileRow) => (y.elems.filter fun e => !e.2.1.isFin).length).sum
    let s := if nonfin == 0 then s else (s.incBy page R.GRAD_CORE.ACC_NONFINITE nonfin).cause page 2
    let r := { r with
      counts := { r.counts with accNonfin := r.counts.accNonfin + nonfin }
      peak := rows.foldl (fun m (y : TileRow) => maxPeak m (peakKF16 y.peak)) r.peak }
    if r.prepass then (s, r, none)
    else
      let ws := rows.flatMap TileRow.writes
      let good := goodWrites ws
      let w := s.storeAll good
      let ok := wroteAt good w.2
      let counts := rows.foldl (fun (k : Counts) (y : TileRow) => k.add (writtenCounts x.c.fmt y.elems y.blocks ok)) r.counts
      let r := { r with counts := counts, blocks := (r.blocks ++ good.flatMap fun y => blocksOf y.1 y.2.length).eraseDups }
      let s := w.2.foldl (fun u k => (u.sealFail k 0x0201).coreSealErr q c k ot) w.1
      (s, if w.2.isEmpty then r else r.spoil ot c, writeFault ws)

/-! The end of a run (R190, R191). -/

/-- The count record (Table 7-7). -/
def matRecord (r : GradRun) : List Byte :=
  let sat (n v : Nat) := leBytes n (Nat.min v (256 ^ n - 1))
  let c := r.counts
  sat 8 r.macs ++ sat 8 r.cycles ++ sat 4 r.zeroB ++ sat 4 r.quietB ++ sat 4 r.alignL ++ sat 4 c.accNonfin ++ sat 4 c.sat ++
    sat 4 c.satBlocks ++ sat 4 c.vanished ++ sat 4 c.nonfin ++ List.replicate 16 0

/-- What the conversion of a run leaves for the watch and the estimator (R249, R250, R253, R254). -/
def watchPost (l role : Nat) (uses whole prepass : Bool) (c : Counts) (peak expo : Nat) (slot : Option Word) : List Post :=
  (if prepass then [] else [Post.watch l role c]) ++
    (if !uses || decide (4096 ≤ l) then []
     else if whole && !prepass then [Post.estimate l role peak expo c.vanished slot]
     else match slot with | some w => [Post.restoreSlot l role w] | none => [])

/-- What a GRAD_MM leaves for its completion (R179, R190, R194): its count record, its counts, its slot, and its events once per task. -/
def gradPost (q : Nat) (t : Task) (x : MatOp) (r : GradRun) (whole : Bool) : List Post :=
  let die := pgGradDie q
  let nonfin := r.counts.accNonfin
  (if t.addr 40 == 0 || r.prepass then [] else [Post.store (t.addr 40) (matRecord r)]) ++
    watchPost x.layer 2 (usesSlot x.c.fmt.code (t.fld 51 1 / 16)) whole r.prepass r.counts r.peak r.expo r.slot ++
    (if r.longsum && !t.flag 2 then [Post.log die 0x0203 [x.layer, x.k]] else []) ++
    (if nonfin == 0 then [] else [Post.log die 0x0204 [x.layer, nonfin]]) ++
    (if r.alignL == 0 then [] else [Post.log die 0x0206 [x.layer, r.alignL]]) ++ [Post.readBack (pgGradCore q r.errCore) r.blocks]

/-- A GRAD_MM has run to its end (Table 7-8); `ERR_LAST.DETAIL` of the die names the core (R192). -/
def State.endGrad (s : State) (q : Nat) (t : Task) (x : MatOp) (r : GradRun) : State :=
  let s := s.dropGrad t.seq
  let bad := !r.failed.isEmpty
  let post := gradPost q t x r (!bad)
  if bad then s.endTask t stSeal 0 0x0201 r.errCore post
  else if r.counts.accNonfin != 0 then s.endTask t stNonfinite 0 0x0204 r.errCore post
  else s.endTask t stDone 0 0 r.errCore post

/-- The cores of a stopped task show no item, and note that their task was aborted. -/
def State.idleCores (s : State) (f : Fld) (pages : List Nat) : State :=
  pages.foldl (fun u p => (u.wf p f 0xFFFFFFFF).cause p 0) s

/-- A gradient core without an item has nothing staged (Table 7-10). -/
def State.emptyStores (s : State) (pages : List Nat) : State := pages.foldl (fun u p => u.wf p R.GRAD_CORE.LS_USE_KIB 0) s

/-- A GRAD_MM stops ABORTED with an event for its errors: output tiles already written remain (Table 7-8). -/
def State.haltGrad (s : State) (q : Nat) (t : Task) (x : MatOp) (r : GradRun) (event : Nat) : State :=
  let cores := r.assigned.map fun a => pgGradCore q a.1
  (((s.dropGrad t.seq).idleCores R.GRAD_CORE.CUR_TASK cores).emptyStores cores).endTask t stAborted 0 event r.errCore (gradPost q t x r false)

/-- A GRAD_MM meets a fault on a core (R304, R486). -/
def State.faultGrad (s : State) (q c : Nat) (t : Task) (x : MatOp) (r : GradRun) (a tile : Nat) : State :=
  (((s.accessFault (2 * q) a 0x20).err (pgGradCore q c) 0x0702 tile).cause (pgGradCore q c) 0).haltGrad q t x { r with errCore := c } 0x0702

/-- Whether a run has no item left to do. -/
def GradRun.over (r : GradRun) (x : MatOp) : Bool := decide (x.items ≤ r.done.length)

/-- A finished run ends, unless it was a pre-pass, which waits for its end to be noted (R254). -/
def State.settleGrad (s : State) (q : Nat) (t : Task) (x : MatOp) (r : GradRun) : State :=
  if r.over x && (!r.prepass || !r.failed.isEmpty) then s.endGrad q t x r else s

/-- The key of a plane of products in `ran`. -/
def MatOp.plane (x : MatOp) (q : Nat) : Nat := 4 * x.c.elem + q

/-- Cores of a die have run items of the products in a plane (R390). -/
def State.noteRan (s : State) (q : Nat) (x : MatOp) (cs : List Nat) : State :=
  { s with ran := aput s.ran (x.plane q) (aget s.ran (x.plane q) [] ++ cs).eraseDups }

/-- Products that do not add into a plane take the place of what stood there. -/
def State.freshPlane (s : State) (q : Nat) (x : MatOp) : State :=
  if x.accum then s else { s with ran := aerase s.ran (x.plane q) }

/-- A core finishes its work item (R183): products and cycles are counted, what it fetched is checked, and with the last share of an output
tile the tile is finished. -/
def State.itemDone (s : State) (q c : Nat) (t : Task) (x : MatOp) (r : GradRun) (item : Nat) : State :=
  let page := pgGradCore q c
  let ot := item / x.shares
  let w := s.itemWork x item
  let r := { r with done := r.done ++ [item], assigned := aerase r.assigned c, macs := r.macs + w.1, cycles := r.cycles + w.2 }
  let s := ((s.noteRan q x [c]).inc64 page R.GRAD_CORE.MAC_LO R.GRAD_CORE.MAC_HI w.1).inc64 page R.GRAD_CORE.BUSY_LO R.GRAD_CORE.BUSY_HI w.2
  let s := s.inc64 (pgGradDie q) R.GRAD_DIE.MAC_LO R.GRAD_DIE.MAC_HI w.1
  let s := if item == 0 then ((s.incBy page R.GRAD_CORE.ZERO_BLOCKS r.zeroB).incBy page R.GRAD_CORE.QUIET_BLOCKS r.quietB).incBy page
      R.GRAD_CORE.ALIGN_LOST r.alignL else s
  let s := s.wfs page [(R.GRAD_CORE.CUR_TASK, 0xFFFFFFFF), (R.GRAD_CORE.LS_USE_KIB, 0)]
  let last := (List.range x.shares).all fun sh => r.done.contains (ot * x.shares + sh)
  let hc := aget r.homes ot c
  let home := pgGradCore q hc
  let tree := 128 * Nat.log2 x.shares
  let s := if last then s.inc64 home R.GRAD_CORE.BUSY_LO R.GRAD_CORE.BUSY_HI tree else s
  let r := if last then { r with cycles := r.cycles + tree } else r
  let g := s.readItem q c x r item
  let f := if last && g.2.2.isNone then g.1.finishTile q hc t x g.2.1 ot else g
  match f.2.2 with
  | some a => (f.1.faultGrad q (if g.2.2.isSome then c else hc) t x f.2.1 a ot).pumpGrad q
  | none => ((f.1.setGrad f.2.1).settleGrad q t x f.2.1).pumpGrad q

/-- WORK_ITEM_DONE (R183, R184). -/
def execWorkItemDone (q : Quad) (c : Core) (s : State) : Host.Outcome State Fault Refusal :=
  match (s.gradOf q).find? fun r => (aget? r.assigned c).isSome with
  | some r => match s.task? r.task with
    | some t => s.onDie (pllGrad q) fun s => s.whenFree ((matOp t r.opnd).reads ++ (matOp t r.opnd).c.ranges) fun s =>
        s.itemDone q c t (matOp t r.opnd) r (aget r.assigned c 0)
    | none => .next s
  | none => .next s

/-! Dispatch (R181, R189). -/

/-- The address of a die's key table (R181). -/
def State.keyTable (s : State) (q : Nat) : Nat := s.rf64 (pgGradDie q) R.GRAD_DIE.KEY_TABLE_LO_ADDR R.GRAD_DIE.KEY_TABLE_HI_ADDR

/-- Key `i` of a die's table. -/
def State.keyAt (s : State) (q i : Nat) : List Byte := s.bytes (s.keyTable q + 16 * i) 16

/-- The key table fails its seal (R181). -/
def State.keyErr (s : State) (q : Nat) : State := (s.log (pgGradDie q) 0x0205 [q, s.keyTable q % 2 ^ 32]).cause (pgGradDie q) 1

/-- The lowest-numbered ready core of a die, which reads what the task reads at dispatch. -/
def State.leadCore (s : State) (q : Nat) : Nat := ((List.range 16).find? fun c => s.coreReady (pgGradCore q c)).getD 0

/-- The count of zero blocks of op(A) and of quiet blocks of op(B). -/
def State.blockTotals (s : State) (x : MatOp) : Nat × Nat :=
  let kb := (x.k + 31) / 32
  (((List.range ((x.m + 31) / 32)).map fun i => ((List.range kb).filter fun j => s.zeroBlock x i j).length).sum,
    ((List.range ((x.n + 31) / 32)).map fun i => ((List.range kb).filter fun j => s.quietBlock x j i).length).sum)

/-- Elements whose alignment discards bits (R173). -/
def State.alignLost (s : State) (x : MatOp) : Nat :=
  if x.isInt then ((List.range x.ct).map fun ct =>
    ((List.range x.m).map fun m => (s.alignA x m ct).2.2).sum + ((List.range x.n).map fun n => (s.alignB x n ct).2.2).sum).sum
  else 0

/-- A GRAD_MM meets a fault at dispatch (R304, R486). -/
def State.faultGradTask (s : State) (t : Task) (q a : Nat) : State :=
  let c := s.leadCore q
  ((s.accessFault (2 * q) a t.type).err (pgGradCore q c) 0x0702 0).handOver t (.finished stAborted 0 0x0702 c) (pgGradDie q) [] q

/-- A run before its first item. -/
def GradRun.start (task : Nat) (opnd key : List Byte) (longsum prepass : Bool) (expo : Nat) (slot : Option Word)
    (align zeroB quietB core : Nat) : GradRun :=
  ⟨task, opnd, key, longsum, expo, slot, prepass, 0, [], [], [], [], [], Counts.none, 0, 0, align, 0, zeroB, quietB, core⟩

/-- A GRAD_MM that passed its checks reads its key, and its items are handed out. -/
def State.startGrad (s : State) (t : Task) (q : Nat) (o : List Byte) (x : MatOp) : State :=
  let die := pgGradDie q
  let key := s.keyTable q
  let ls := longsumOn t x
  match faultIn key 4096 with
  | some a => s.faultGradTask t q a
  | none =>
    let s := (s.cacheUse key 4096).check [key / 4096] 0x0205
    if !s.blockOk (key / 4096) then (s.keyErr q).handOver t (.finished stSeal 0 0x0205 (s.leadCore q)) die [] q
    else
      let l := x.layer
      let uses := usesSlot x.c.fmt.code (t.fld 51 1 / 16) && decide (l < 4096)
      let slot := s.slot l 2
      let pre := uses && slotPrepass slot
      let tot := s.blockTotals x
      let lost := s.alignLost x
      let s := if ls && !t.flag 2 then (s.inc die R.GRAD_DIE.LONGSUM_FORCED).cause die 2 else s
      let s := (s.freshPlane q x).handOver t .running die [die] q
      let s := if pre then s.notePrepass l [2] else s
      let expo := if uses && !pre then slotExponent x.c.fmt (slotAmax slot) else 0
      let run := GradRun.start t.seq o (s.keyAt q x.key) ls pre expo (if pre then some slot else none) lost tot.1 tot.2 (s.leadCore q)
      ({ s with gradRuns := s.gradRuns ++ [(q, run)] }).pumpGrad q

/-- GRAD_MM at dispatch (R188, R189): the posted writes of the die page are in force (R192). -/
def State.dispatchGrad (s : State) (t : Task) (q : Nat) : State :=
  let oa := t.addr 32
  let die := pgGradDie q
  let s := s.applyPage die
  let t := { t with target := q }
  match faultIn oa 128 with
  | some a => s.faultGradTask t q a
  | none =>
    let ks := blocksOf oa 128
    let s := (s.cacheUse oa 128).check ks 0x0201
    match s.firstBad ks with
    | some k => (s.coreSealErr q (s.leadCore q) k 0).handOver t (.finished stSeal 0 0x0201 (s.leadCore q)) die [] q
    | none =>
      let o := s.bytes oa 128
      let x := matOp t o
      if x.m == 0 || x.n == 0 then s.handOver t (.finished stDone 0 0 0) die [] q
      else
        let c := matCheck t x
        if c != 0 then (s.log die 0x0202 [c, x.layer]).handOver t (.finished stAborted c 0x0202 (s.leadCore q)) die [] q
        else s.startGrad t q o x

/-- GRAD_MM (R189). -/
def execGradMm (n : Nat) (s : State) : Host.Outcome State Fault Refusal :=
  match s.dispatchable n [0x20] with
  | some t => match s.pickUnit 0x20 t.hint with
    | some q => s.onDie (pllGrad q) fun s =>
        s.whenFree ([(t.addr 32, 128), ((s.applyPage (pgGradDie q)).keyTable q, 4096)] ++ (matOp t (s.bytes (t.addr 32) 128)).reads) fun s => s.dispatchGrad t q
    | none => .next s
  | none => .next s

/-- A measuring pre-pass of a GRAD_MM has ended (R254). -/
def State.gradMeasured (s : State) (q : Nat) (t : Task) (r : GradRun) : State :=
  let x := matOp t r.opnd
  if r.prepass && r.over x then
    let s := s.measureSlot x.layer 2 r.peak
    let expo := slotExponent x.c.fmt (slotAmax (s.slot x.layer 2))
    (s.setGrad (GradRun.start t.seq r.opnd r.key r.longsum false expo r.slot r.alignL r.zeroB r.quietB r.errCore)).pumpGrad q
  else s

end Sys2Proof.Machine
end

