-- ==== Sys2Proof/Machine/VecCore.lean ====
section
/-! DEFINITION. The vector core (chapter 08): its registers, lanes and instructions, the approximations of R203, reductions, and the
run of a pattern slot. -/

namespace Sys2Proof.Machine

/-! Counts. -/

/-- No counts. -/
def LaneCounts.none : LaneCounts := ⟨0, 0, 0, 0, 0, 0, Counts.none⟩

/-- Two counts added. -/
def LaneCounts.add (a b : LaneCounts) : LaneCounts :=
  ⟨a.instr + b.instr, a.inv + b.inv, a.ovf + b.ovf, a.dz + b.dz, a.sat + b.sat, a.perm + b.perm, a.cvt.add b.cvt⟩

/-- One lane that is invalid. -/
def fxInv (b : Bool) : LaneCounts := { LaneCounts.none with inv := b2n b }
/-- One lane that saturates. -/
def fxSat (b : Bool) : LaneCounts := { LaneCounts.none with sat := b2n b }
/-- One lane that CVT converts (R206): saturated lanes have a place in the records (Table 8-14); for non-finite lanes and for the blocks of
R83 no table names one, and they are kept for the watch (DESIGN CHOICE, log 162). -/
def fxCvt (e : Elem) : LaneCounts :=
  { LaneCounts.none with sat := b2n e.sat, cvt := { Counts.none with sat := b2n e.sat, nonfin := b2n e.nonfin } }
/-- One lane under R202. -/
def fxPerm (b : Bool) : LaneCounts := { LaneCounts.none with perm := b2n b }

/-! Registers (R195, R196). -/

/-- A tile of zeros. -/
def tile0 : List Word := List.replicate 4096 0
/-- A mask of ones. -/
def mask1 : List Bool := List.replicate 4096 true

/-- A core that has run nothing: every register 0 (DESIGN CHOICE, log 10). -/
def VecRegs.fresh : VecRegs := ⟨[], List.replicate 16 tile0, List.replicate 8 (List.replicate 4096 false), List.replicate 32 0, 1, 1⟩

/-- A tile register. -/
def VecRegs.tile (v : VecRegs) (i : Nat) : List Word := nth v.t (i % 16) tile0
/-- A mask register; M0 reads all ones. -/
def VecRegs.mask (v : VecRegs) (i : Nat) : List Bool := if i % 8 == 0 then mask1 else nth v.m (i % 8) (List.replicate 4096 false)
/-- A scalar register. -/
def VecRegs.sreg (v : VecRegs) (i : Nat) : Word := nth v.s i 0
/-- A tile register replaced. -/
def VecRegs.setTile (v : VecRegs) (i : Nat) (l : List Word) : VecRegs := { v with t := setNth v.t (i % 16) l }
/-- A mask register replaced; M0 ignores writes. -/
def VecRegs.setMask (v : VecRegs) (i : Nat) (l : List Bool) : VecRegs := if i % 8 == 0 then v else { v with m := setNth v.m (i % 8) l }
/-- A scalar register replaced. -/
def VecRegs.setS (v : VecRegs) (i : Nat) (w : Word) : VecRegs := { v with s := setNth v.s i w }

/-- Lane `64 r + f` is active (R196). -/
def VecRegs.active (v : VecRegs) (i : Nat) : Bool := decide (i / 64 < v.vr) && decide (i % 64 < v.vf)

/-! Instruction fields (Table 8-2). -/

/-- `OP`. -/
def iOp (w : Word) : Nat := getBits w 31 26
/-- `TD`. -/
def iTD (w : Word) : Nat := getBits w 25 22
/-- `TA`. -/
def iTA (w : Word) : Nat := getBits w 21 18
/-- `B`. -/
def iB (w : Word) : Nat := getBits w 17 13
/-- `TC`. -/
def iTC (w : Word) : Nat := getBits w 12 9
/-- `MK`. -/
def iMK (w : Word) : Nat := getBits w 8 6
/-- `MZ`. -/
def iMZ (w : Word) : Bool := getBits w 5 5 == 1
/-- `BS`. -/
def iBS (w : Word) : Bool := getBits w 4 4 == 1
/-- `FN`. -/
def iFN (w : Word) : Nat := getBits w 3 0
/-- `SD`. -/
def iSD (w : Word) : Nat := getBits w 25 21
/-- `SA`. -/
def iSA (w : Word) : Nat := getBits w 20 16
/-- `IMM`. -/
def iIMM (w : Word) : Nat := getBits w 15 0

/-- The opcodes of Table 8-3. -/
def opKnown (o : Nat) : Bool :=
  decide (o ≤ 0x0E) || (decide (0x10 ≤ o) && decide (o ≤ 0x26)) || o == 0x28 || o == 0x29 || o == 0x2A || o == 0x2C || o == 0x2D ||
    o == 0x30 || o == 0x31

/-- The scalar format. -/
def opScalar (o : Nat) : Bool := decide (o ≤ 0x07)

/-- Cycles of an instruction on one tile (Table 8-3). -/
def opCycles (o : Nat) : Nat :=
  if o == 0 then 0 else if o ≤ 7 then 1
  else if (decide (0x20 ≤ o) && decide (o ≤ 0x23)) || o == 0x28 || o == 0x29 || o == 0x2A then 32
  else if o == 0x2C || o == 0x2D then 24 else 16

/-- An instruction decodes (check 1 of Table 8-14a). -/
def instrOk (w : Word) : Bool :=
  opKnown (iOp w) && (opScalar (iOp w) || ((iBS w || iB w < 16) && (iOp w != 0x30 || iBS w)))

/-- The width that `FN` selects (R199). -/
def intWidth (fn : Nat) : Nat := match fn % 4 with | 0 => 8 | 1 => 16 | _ => 32

/-! Integer lanes (R200). -/

/-- A result sign-extended from width `w`, wrapping. -/
def wrapInt (w : Nat) (i : Int) : Word := BitVec.ofNat 32 (ubits 32 (sint w (ubits w i)))

/-- A result clamped to width `w`, and whether it was clamped. -/
def satInt (w : Nat) (i : Int) : Word × LaneCounts :=
  let hi : Int := (2 ^ (w - 1) : Nat) - 1
  let lo : Int := -((2 ^ (w - 1) : Nat) : Int)
  if hi < i then (BitVec.ofNat 32 (ubits 32 hi), fxSat true)
  else if i < lo then (BitVec.ofNat 32 (ubits 32 lo), fxSat true) else (BitVec.ofNat 32 (ubits 32 i), LaneCounts.none)

/-! Float lanes (R75, R197). -/

/-- A signalling NaN encoding. -/
def isSNaN (b : Nat) : Bool := b / 2 ^ 23 % 256 == 255 && b % 2 ^ 23 != 0 && !bit b 22

/-- A NaN encoding. -/
def isNaN32 (b : Nat) : Bool := b / 2 ^ 23 % 256 == 255 && b % 2 ^ 23 != 0

/-- The result of a binary32 instruction on encodings `ops` with the exact value `v`, and its counted exceptions. -/
def fResult (ops : List Nat) (v : FVal) : Word × LaneCounts :=
  let r := mB32.encode .rne v
  (BitVec.ofNat 32 r.1,
    { LaneCounts.none with inv := b2n (ops.any isSNaN || (v == .nan && !ops.any isNaN32)), ovf := b2n (r.2 && v.isFin) })

/-! Approximations (R203, Table 8-5). -/

/-- A positive rational rounded to 12 significant bits, RNE. -/
def q12 (q : Rat) : Rat :=
  let u := pow2 (ilog2 q - 11)
  ((roundUnits .rne (q / u) : Nat) : Rat) * u

/-- `1 / sqrt q` for `1 ≤ q < 4`, cut at 30 bits with a sticky bit below. -/
def rsqrtCut (q : Rat) : Rat :=
  (((2 * Nat.sqrt (floorNat (((2 ^ 60 : Nat) : Rat) / q)) + 1 : Nat) : Rat)) / ((2 ^ 31 : Nat) : Rat)

/-- binary32 constants of R203. -/
def one32 : Nat := 0x3F800000
/-- `c1` to `c6` of EXP2. -/
def exp2C (k : Nat) : Nat := nth [0x3F800000, 0x3F317218, 0x3E75FDF0, 0x3D635847, 0x3C1D955B, 0x3AAEC3FF, 0x39218489] k 0
/-- `c1`, `c3`, `c5`, `c7`, `c9` of LOG2. -/
def log2C (k : Nat) : Nat := nth [0x4038AA3B, 0x3F76384F, 0x3F13BB63, 0x3ED30BB1, 0x3EA4258A] k 0

/-- Sign of an encoding inverted. -/
def neg32 (b : Nat) : Nat := if bit b 31 then b - 2 ^ 31 else b + 2 ^ 31

/-- The significand of a positive value as a binary32 encoding, and its exponent. -/
def split32 (q : Rat) : Nat × Int := (e32 (.of (q / pow2 (ilog2 q))), ilog2 q)

/-- rcp of a finite value other than zero. -/
def rcpCore (q : Rat) : FVal :=
  let me := split32 (rabs q)
  let m := me.1
  let i := floorNat (((d32 m).q - 1) * 256)
  let y0 := e32 (.of (q12 (1 / (1 + ((i : Rat) + 1 / 2) / 256))))
  let y1 := fma32 y0 (fma32 (neg32 m) y0 one32) y0
  let y2 := fma32 y1 (fma32 (neg32 m) y1 one32) y1
  let v := (d32 y2).q * pow2 (-me.2)
  .of (if q < 0 then -v else v)

/-- rsq of a positive value. -/
def rsqCore (q : Rat) : FVal :=
  let e0 := ilog2 q
  let e := if e0 % 2 = 0 then e0 else e0 - 1
  let m := e32 (.of (q / pow2 e))
  let i := floorNat (((d32 m).q - 1) * 64)
  let y0 := e32 (.of (q12 (rsqrtCut (1 + ((i : Rat) + 1 / 2) / 64))))
  let h := mul32 0x3F000000 m
  let step (y : Nat) : Nat := mul32 y (fma32 (neg32 h) (mul32 y y) 0x3FC00000)
  .of ((d32 (step (step y0))).q * pow2 (-(e / 2)))

/-- exp2 of a value in its range. -/
def exp2Core (q : Rat) : FVal :=
  let n := roundUnits .rne (rabs q)
  let n : Int := if q < 0 then -(n : Int) else n
  let r := e32 (.of (q - (n : Rat)))
  let p := [5, 4, 3, 2, 1, 0].foldl (fun p k => fma32 p r (exp2C k)) (exp2C 6)
  .of ((d32 p).q * pow2 n)

/-- log2 of a positive value. -/
def log2Core (q : Rat) : FVal :=
  let me := split32 q
  let big := decide ((d32 0x3FB504F3).q < (d32 me.1).q)
  let m := if big then mul32 me.1 0x3F000000 else me.1
  let e := if big then me.2 + 1 else me.2
  let s := mul32 (sub32 m one32) (e32 (rcpCore (d32 (add32 m one32)).q))
  let w := mul32 s s
  let p := [3, 2, 1, 0].foldl (fun p k => fma32 p w (log2C k)) (log2C 4)
  d32 (add32 (e32 (.of (e : Rat))) (mul32 p s))

/-- One divide-by-zero lane. -/
def fxDz : LaneCounts := { LaneCounts.none with dz := 1 }

/-- The encoding of an approximation's value, with overflow counted. -/
def approxOut (v : FVal) : Word × LaneCounts :=
  let r := mB32.encode .rne v
  (BitVec.ofNat 32 r.1, { LaneCounts.none with ovf := b2n r.2 })

/-- EXP2, LOG2, RCP, RSQ: opcodes 0x20 to 0x23. -/
def approx (o a : Nat) : Word × LaneCounts :=
  match o, d32 a with
  | _, .nan => (0x7FC00000#32, LaneCounts.none)
  | 0x20, .inf n => (if n then 0 else 0x7F800000#32, { LaneCounts.none with ovf := b2n (!n) })
  | 0x20, .fin q _ =>
    if 128 ≤ q then (0x7F800000#32, { LaneCounts.none with ovf := 1 }) else if q < -150 then (0, LaneCounts.none) else approxOut (exp2Core q)
  | 0x21, .inf n => if n then (0x7FC00000#32, fxInv true) else (0x7F800000#32, LaneCounts.none)
  | 0x21, .fin q _ =>
    if q == 0 then (0xFF800000#32, fxDz) else if q < 0 then (0x7FC00000#32, fxInv true) else approxOut (log2Core q)
  | 0x22, .inf n => (if n then 0x80000000#32 else 0, LaneCounts.none)
  | 0x22, .fin q n => if q == 0 then (if n then 0xFF800000#32 else 0x7F800000#32, fxDz) else approxOut (rcpCore q)
  | _, .inf n => if n then (0x7FC00000#32, fxInv true) else (0, LaneCounts.none)
  | _, .fin q n =>
    if q == 0 then (if n then 0xFF800000#32 else 0x7F800000#32, fxDz)
    else if q < 0 then (0x7FC00000#32, fxInv true) else approxOut (rsqCore q)

/-! Lane instructions. -/

/-- A lane of the opcodes whose result depends on a, b and c alone. -/
def laneOp (o fn : Nat) (a b c : Word) : Word × LaneCounts :=
  let none := LaneCounts.none
  let w := intWidth fn
  let x := sint w a.toNat
  let y := sint w b.toNat
  let fa := d32 a.toNat
  let fb := d32 b.toNat
  let ab := [a.toNat, b.toNat]
  match o with
  | 0x08 => (a &&& b, none)
  | 0x09 => (a ||| b, none)
  | 0x0A => (a ^^^ b, none)
  | 0x0B => (a &&& ~~~b, none)
  | 0x0C => (a <<< (b.toNat % 32), none)
  | 0x0D => (a >>> (b.toNat % 32), none)
  | 0x0E => (a.sshiftRight (b.toNat % 32), none)
  | 0x10 => (wrapInt w (x + y), none)
  | 0x11 => (wrapInt w (x - y), none)
  | 0x12 => satInt w (x + y)
  | 0x13 => satInt w (x - y)
  | 0x14 => satInt w (x * y)
  | 0x15 => (wrapInt w (if x ≤ y then x else y), none)
  | 0x16 => (wrapInt w (if x ≤ y then y else x), none)
  | 0x17 => satInt w (if x < 0 then -x else x)
  | 0x18 => fResult ab (fa.add fb)
  | 0x19 => fResult ab (fa.add fb.neg)
  | 0x1A => fResult ab (fa.mul fb)
  | 0x1B => fResult (ab ++ [c.toNat]) ((fa.mul fb).add (d32 c.toNat))
  | 0x1C => fResult ab (fa.min fb)
  | 0x1D => fResult ab (fa.max fb)
  | 0x1E => (a &&& 0x7FFFFFFF#32, none)
  | 0x1F => (a ^^^ 0x80000000#32, none)
  | 0x20 | 0x21 | 0x22 | 0x23 => approx o a.toNat
  | 0x31 => (b, none)
  | _ => (0, none)

/-- The predicate of CMP (R201). -/
def cmpLane (fn : Nat) (a b : Word) : Bool :=
  if bit fn 3 then
    let x := a.toInt
    let y := b.toInt
    match fn % 8 with
    | 0 => decide (x = y)
    | 1 => decide (x ≠ y)
    | 2 => decide (x < y)
    | 3 => decide (x ≤ y)
    | 4 => decide (y < x)
    | 5 => decide (y ≤ x)
    | 6 => false
    | _ => true
  else
    let nan := isNaN32 a.toNat || isNaN32 b.toNat
    let x := d32 a.toNat
    let y := d32 b.toNat
    let eq := (x.isZero && y.isZero) || a == b
    let lt := x.less y && !(x.isZero && y.isZero)
    let gt := y.less x && !(x.isZero && y.isZero)
    match fn % 8 with
    | 0 => !nan && eq
    | 1 => nan || !eq
    | 2 => !nan && lt
    | 3 => !nan && (lt || eq)
    | 4 => !nan && gt
    | 5 => !nan && (gt || eq)
    | 6 => nan
    | _ => !nan

/-- The second source of a tile instruction (R198). -/
def VecRegs.bSrc (v : VecRegs) (w : Word) (i : Nat) : Word :=
  if iBS w then v.sreg (iB w) else nth (v.tile (iB w)) i 0

/-- A tile instruction applied lane by lane (R197): `g` gives the result of a selected lane. -/
def VecRegs.lanes (v : VecRegs) (w : Word) (g : Nat → Word × LaneCounts) : VecRegs × LaneCounts :=
  let mk := v.mask (iMK w)
  let d := v.tile (iTD w)
  let out := (List.range 4096).map fun i =>
    if !v.active i then (nth d i 0, LaneCounts.none)
    else if nth mk i false then g i
    else (if iMZ w then 0 else nth d i 0, LaneCounts.none)
  (v.setTile (iTD w) (out.map (·.1)), out.foldl (fun c x => c.add x.2) LaneCounts.none)

/-- A mask result, lane by lane (R201). -/
def VecRegs.maskLanes (v : VecRegs) (w : Word) (g : Nat → Bool) : VecRegs :=
  let mk := v.mask (iMK w)
  let d := v.mask (iTD w)
  v.setMask (iTD w) ((List.range 4096).map fun i =>
    if !v.active i then nth d i false else if nth mk i false then g i else if iMZ w then false else nth d i false)

/-! Reductions (R204). -/

/-- The identity of a reduction. -/
def redId (fn : Nat) : Word :=
  match fn with
  | 1 => 0xFF800000#32
  | 2 => 0x7F800000#32
  | 3 => 0
  | 4 => 0x80000000#32
  | 5 => 0x7FFFFFFF#32
  | 6 => 0
  | _ => 0x80000000#32

/-- The operation of a reduction, with its counted exceptions (R197). -/
def redOp (fn : Nat) (a b : Word) : Word × LaneCounts :=
  let f (v : FVal) : Word × LaneCounts := fResult [a.toNat, b.toNat] v
  match fn with
  | 1 | 6 => f ((d32 a.toNat).max (d32 b.toNat))
  | 2 => f ((d32 a.toNat).min (d32 b.toNat))
  | 3 => (a + b, LaneCounts.none)
  | 4 => (if a.toInt ≤ b.toInt then b else a, LaneCounts.none)
  | 5 => (if a.toInt ≤ b.toInt then a else b, LaneCounts.none)
  | _ => f ((d32 a.toNat).add (d32 b.toNat))

/-- Counts of several lanes. -/
def laneSum {α : Type} (l : List (α × LaneCounts)) : LaneCounts := l.foldl (fun c x => c.add x.2) LaneCounts.none

/-- The fixed tree: each of its operations counts its own exceptions (DESIGN CHOICE, log 77). -/
def redTree (fn fuel : Nat) (l : List Word) : Word × LaneCounts :=
  match fuel with
  | 0 => (nth l 0 0, LaneCounts.none)
  | n + 1 => match l with
    | [] => (0, LaneCounts.none)
    | [a] => (a, LaneCounts.none)
    | _ =>
      let ops := (List.range (l.length / 2)).map fun j => redOp fn (nth l (2 * j) 0) (nth l (2 * j + 1) 0)
      let r := redTree fn n (ops.map (·.1))
      (r.1, (laneSum ops).add r.2)

/-- RRED and FRED: `byRank` folds ranks. -/
def VecRegs.reduce (v : VecRegs) (w : Word) (byRank : Bool) : VecRegs × LaneCounts :=
  let fn := iFN w
  let a := v.tile (iTA w)
  let mk := v.mask (iMK w)
  let leaf (i : Nat) : Word :=
    if v.active i && nth mk i false then (if fn == 6 then nth a i 0 &&& 0x7FFFFFFF#32 else nth a i 0) else redId fn
  let folds := if byRank then v.vr else v.vf
  let res := (List.range folds).map fun k => redTree fn 7 ((List.range 64).map fun p => leaf (if byRank then 64 * k + p else 64 * p + k))
  let d := v.tile (iTD w)
  (v.setTile (iTD w) ((List.range 4096).map fun i =>
    let k := if byRank then i / 64 else i % 64
    if folds ≤ k then nth d i 0
    else if nth mk i false then (nth res k (0, LaneCounts.none)).1 else if iMZ w then 0 else nth d i 0), laneSum res)

/-! CVT (R205, R206). -/

/-- Quantise a value against a scale that is itself a value (R63, R64); a clipped code is not saturated (Table 3-7). -/
def quantiseBy (f : Fmt) (x s : FVal) : Elem :=
  let bad : Elem := ⟨0, false, true, decide (codeDiff f 0 = 0)⟩
  match s with
  | .fin sc _ =>
    if sc ≤ 0 then bad
    else match x with
      | .fin q _ =>
        let v := q / sc
        if f == .kw2 then
          let c := (if v < 0 then 2 else 0) + (if 1 ≤ rabs v then 1 else 0)
          ⟨c, false, false, false⟩
        else
          let c := if (1 / 2 : Rat) ≤ v then 1 else if v ≤ -(1 / 2 : Rat) then 3 else 0
          ⟨c, false, false, c == 0⟩
      | _ => bad
  | _ => bad

/-- The value of a lane in a format (Table 8-6); `hi` is the odd lane of a binary64 pair, `sc` the scale lane. -/
def laneValue (f : Fmt) (w hi : Word) (e : Nat) (sc : Word) : FVal :=
  match f with
  | .kt2 | .kw2 => (FVal.of (codeLevel f w.toNat)).mul (d32 sc.toNat)
  | .b64 => d64 (w.toNat + hi.toNat * 2 ^ 32)
  | .ka8 | .ka12 | .ka16 => .of ((w.toInt : Rat) * pow2 ((e : Int) - 127))
  | .i8 | .i16 | .i32 => .of (w.toInt : Rat)
  | .kf8b => (mKF8.decode (w.toNat % 256)).scale ((e : Int) - 127)
  | .kf8 => mKF8.decode (w.toNat % 256)
  | .kf16 => mKF16.decode (w.toNat % 2 ^ 16)
  | .kf24 => mKF24.decode (w.toNat % 2 ^ 24)
  | .b32 => d32 w.toNat

/-- The lane form of raw bits (Table 8-6). -/
def laneForm (f : Fmt) (raw : Nat) : Word :=
  if f.isKA || f.isInt then BitVec.ofNat 32 (ubits 32 (sint f.intBits raw)) else BitVec.ofNat 32 raw

/-- What a pattern's instructions take from their task and chunk (R207). -/
structure VecEnv where
  step  : Nat
  layer : Nat
  keys  : List Byte
  tile  : Nat
deriving DecidableEq, Repr

/-- Key `i` of a key table. -/
def keyOf (keys : List Byte) (i : Nat) : List Byte := (keys.drop (16 * i)).take 16

/-- The conversion of a value in lane `i` under a control word. -/
def cvtConv (env : VecEnv) (cw : Word) (f : Fmt) (sc : Word) (i : Nat) (v : FVal) : Elem :=
  let u := drawSR (keyOf env.keys (getBits cw 31 24)) env.step env.layer env.tile i
  if f.isCode then quantiseBy f v (d32 sc.toNat) else convertElem f (rndMode (getBits cw 15 14) u) (getBits cw 23 16) 0 v

/-- The all-saturated and vanished blocks of a CVT: the selected lanes of each rank are a block (R83, R206). -/
def VecRegs.cvtBlocks (fd : Fmt) (sel : Nat → Bool) (src : Nat → FVal) (conv : Nat → Elem) : LaneCounts :=
  laneSum ((List.range 64).map fun r =>
    let ls := ((List.range 64).map fun f => 64 * r + f).filter sel
    let b := blockCounts fd (ls.map src) (ls.map conv)
    ((), { LaneCounts.none with cvt := { Counts.none with satBlocks := b.satBlocks, vanished := if ls.isEmpty then 0 else b.vanished } }))

/-- CVT (R206): selected lanes convert; with a binary64 format the even files do. A reserved code or none leaves the lane and counts it.
What R83 counts here has no field of a record and goes to the watch (DESIGN CHOICE, log 162). -/
def VecRegs.cvt (env : VecEnv) (v : VecRegs) (w : Word) : VecRegs × LaneCounts :=
  let cw := v.sreg (iB w)
  let a := v.tile (iTA w)
  let d := v.tile (iTD w)
  let sc := v.tile (iTC w)
  let mk := v.mask (iMK w)
  match Fmt.ofCode (getBits cw 5 0), Fmt.ofCode (getBits cw 13 8) with
  | some fs, some fd =>
    let pair := fs == .b64 || fd == .b64
    let src (i : Nat) : FVal := laneValue fs (nth a i 0) (nth a (i + 1) 0) (getBits cw 23 16) (nth sc i 0)
    let conv (i : Nat) : Elem := cvtConv env cw fd (nth sc i 0) i (src i)
    let sel (i : Nat) : Bool := v.active i && nth mk i false
    let out := (List.range 4096).map fun i =>
      if pair then
        let k := i / 2 * 2
        if sel k then
          let e := conv k
          if i % 2 == 0 then (BitVec.ofNat 32 (if fd == .b64 then e.raw % 2 ^ 32 else (laneForm fd e.raw).toNat), fxCvt e)
          else (if fd == .b64 then BitVec.ofNat 32 (e.raw / 2 ^ 32) else if fs == .b64 then 0 else nth d i 0, LaneCounts.none)
        else if v.active i && !nth mk i false && iMZ w then (0, LaneCounts.none) else (nth d i 0, LaneCounts.none)
      else if !v.active i then (nth d i 0, LaneCounts.none)
      else if nth mk i false then let e := conv i; (laneForm fd e.raw, fxCvt e)
      else (if iMZ w then 0 else nth d i 0, LaneCounts.none)
    (v.setTile (iTD w) (out.map (·.1)),
      (laneSum out).add (VecRegs.cvtBlocks fd (fun i => sel i && (!pair || i % 2 == 0)) src conv))
  | _, _ => v.lanes w fun i => (nth d i 0, { LaneCounts.none with cvt := { Counts.none with nonfin := 1 } })

/-! One instruction and one slot (R199, R208). -/

/-- SFOP. -/
def sfop (fn : Nat) (a b : Word) : Word :=
  let f (x : FVal) : Word := BitVec.ofNat 32 (e32 x)
  match fn % 4 with
  | 0 => f ((d32 a.toNat).add (d32 b.toNat))
  | 1 => f ((d32 a.toNat).mul (d32 b.toNat))
  | 2 => f ((d32 a.toNat).max (d32 b.toNat))
  | _ => f ((d32 a.toNat).min (d32 b.toNat))

/-- A scalar instruction. -/
def VecRegs.scalar (v : VecRegs) (w : Word) : VecRegs :=
  let imm := iIMM w
  let sd := iSD w
  let sa := iSA w
  match iOp w with
  | 0x02 =>
    let r := imm % 128
    let f := imm / 256 % 128
    { v with vr := if r == 0 then v.vr else Nat.min r 64, vf := if f == 0 then v.vf else Nat.min f 64 }
  | 0x03 => v.setS sd (wrapInt 16 imm)
  | 0x04 => v.setS sd (setBits (v.sreg sd) 31 16 imm)
  | 0x05 => v.setS sd (v.sreg sa + wrapInt 16 imm)
  | 0x06 => v.setS sd (nth (v.tile (sa % 16)) (imm / 64 % 64 * 64 + imm % 64) 0)
  | 0x07 => v.setS sd (sfop imm (v.sreg sd) (v.sreg sa))
  | _ => v

/-- A tile instruction. -/
def VecRegs.tileInstr (env : VecEnv) (v : VecRegs) (w : Word) : VecRegs × LaneCounts :=
  let a := v.tile (iTA w)
  let c := v.tile (iTC w)
  match iOp w with
  | 0x24 => (v.maskLanes w fun i => cmpLane (iFN w) (nth a i 0) (v.bSrc w i), LaneCounts.none)
  | 0x25 => v.lanes w fun i => (if nth (v.mask (iTC w)) i false then nth a i 0 else v.bSrc w i, LaneCounts.none)
  | 0x26 =>
    let x := v.mask (iTA w)
    let y := v.mask (iB w)
    (v.maskLanes w fun i =>
      let p := nth x i false
      let q := nth y i false
      match iFN w % 4 with
      | 0 => p && q
      | 1 => p || q
      | 2 => p != q
      | _ => p && !q, LaneCounts.none)
  | 0x28 => v.lanes w fun i =>
    let k := (v.bSrc w i).toNat
    if k < v.vf then (nth a (i / 64 * 64 + k) 0, LaneCounts.none) else (0, fxPerm true)
  | 0x29 => v.lanes w fun i =>
    let k := (v.bSrc w i).toNat
    if k < v.vr then (nth a (64 * k + i % 64) 0, LaneCounts.none) else (0, fxPerm true)
  | 0x2A => v.lanes w fun i =>
    let k := i % 64 * 64 + i / 64
    if v.active k then (nth a k 0, LaneCounts.none) else (0, fxPerm true)
  | 0x2C => v.reduce w true
  | 0x2D => v.reduce w false
  | 0x30 => v.cvt env w
  | o => v.lanes w fun i => laneOp o (iFN w) (nth a i 0) (v.bSrc w i) (nth c i 0)

/-- Instructions of a slot run until END or the 32nd (R208): the registers, the counts, and the cycles. -/
def runSlot (env : VecEnv) (is : List Word) (v : VecRegs) : VecRegs × LaneCounts × Nat :=
  match is with
  | [] => (v, LaneCounts.none, 0)
  | w :: rest =>
    if iOp w == 0 then (v, { LaneCounts.none with instr := 1 }, 0)
    else
      let x := if opScalar (iOp w) then (v.scalar w, LaneCounts.none) else v.tileInstr env w
      let r := runSlot env rest x.1
      (r.1, { x.2.add r.2.1 with instr := r.2.1.instr + 1 }, r.2.2 + opCycles (iOp w))

/-- The instructions of a slot of a pattern table. -/
def slotInstrs (table : List Byte) (slot : Nat) : List Word :=
  (List.range 32).map fun i => BitVec.ofNat 32 (fieldAt table (128 * slot + 4 * i) 4)

/-- The instructions of a slot that can run: those up to END. -/
def slotLive (table : List Byte) (slot : Nat) : List Word := (slotInstrs table slot).takeWhile fun w => iOp w != 0

end Sys2Proof.Machine
end

