-- ==== Sys2Proof/Machine/Vec.lean ====
section
/-! DEFINITION. The tasks of the vector cores (R208 to R220): VEC_PATTERN, CONVERT, ROW_GROUP_DONE and the commands of the VEC_CORE
page. A row group is run whole when it ends. -/

namespace Sys2Proof.Machine

/-! Bodies and operand records (Tables 8-9 to 8-13). -/

/-- A stream of a vector task (Table 8-11). -/
structure VStream where
  x     : Tensor
  raw   : Bool
  rnd   : Nat
  src   : Nat
  given : Nat
  key   : Nat
  mask  : Nat
deriving DecidableEq, Repr

/-- A vector task as its body and operand record give it; streams carry their index. A CONVERT has one stream each way. -/
structure VecOp where
  convert : Bool
  rows    : Nat
  cols    : Nat
  ins     : List (Nat × VStream)
  outs    : List (Nat × VStream)
  passes  : Nat
  slots   : List Nat
  params  : List Word
  layer   : Nat
  count   : Nat
deriving DecidableEq, Repr

/-- A stream entry at byte `i` of an operand record; `ELEM` 0 marks it unused. -/
def streamAt (o : List Byte) (i rows cols : Nat) : Option VStream :=
  if recAddr o i == 0 then none
  else
    let fl := fieldAt o (i + 17) 1
    some ⟨⟨fmtOr (fieldAt o (i + 16) 1), recAddr o i, recAddr o (i + 8), rows, cols⟩, bit fl 0, fl / 2 % 4, fl / 16 % 4,
      fieldAt o (i + 19) 1, fieldAt o (i + 20) 1, fieldAt o (i + 18) 1 % 16⟩

/-- The used streams among `n` entries from byte `i`. -/
def streams (o : List Byte) (i n rows cols : Nat) : List (Nat × VStream) :=
  (List.range n).filterMap fun j => (streamAt o (i + 24 * j) rows cols).map fun v => (j, v)

/-- `PASSES`: 0 acts as 1, 5 to 7 as 4. -/
def passesOf (v : Nat) : Nat := if v % 8 == 0 then 1 else Nat.min (v % 8) 4

/-- The operation of a VEC_PATTERN or CONVERT with its operand record. -/
def vecOp (t : Task) (o : List Byte) : VecOp :=
  if t.type == 0x31 then
    let rows := fieldAt o 40 4
    let cols := fieldAt o 44 4
    let fl := t.fld 42 1
    { convert := true, rows := rows, cols := cols
      ins := [(0, ⟨⟨fmtOr (t.fld 40 1), recAddr o 0, recAddr o 8, rows, cols⟩, false, 0, 1, 0, 0, 1⟩)]
      outs := [(0, ⟨⟨fmtOr (t.fld 41 1), recAddr o 16, recAddr o 24, rows, cols⟩, false, fl % 4, fl / 16 % 4, t.fld 43 1, t.fld 44 1, 1⟩)]
      passes := 1, slots := [], params := [], layer := t.fld 46 2, count := recAddr o 32 }
  else
    let rows := fieldAt o 0 4
    let cols := fieldAt o 4 4
    { convert := false, rows := rows, cols := cols, ins := streams o 96 4 rows cols, outs := streams o 192 2 rows cols
      passes := passesOf (t.fld 52 1), slots := (List.range 4).map fun p => t.fld (48 + p) 1 % 32
      params := (List.range 16).map fun i => BitVec.ofNat 32 (fieldAt o (32 + 4 * i) 4), layer := t.fld 54 2, count := recAddr o 8 }

/-- The address and length of a vector task's operand record. -/
def vecOpnd (t : Task) : Nat × Nat := if t.type == 0x31 then (t.addr 32, 64) else (t.addr 40, 256)

/-- Row groups and chunks per row. -/
def VecOp.groups (x : VecOp) : Nat := (x.rows + 63) / 64
/-- Chunks per row. -/
def VecOp.chunks (x : VecOp) : Nat := (x.cols + 63) / 64

/-- A stream is loaded or stored in some pass that runs. -/
def VecOp.live (x : VecOp) (v : VStream) : Bool := v.mask % 2 ^ x.passes != 0

/-- The role of an output stream (Table 10-1). -/
def VecOp.role (x : VecOp) (j : Nat) : Nat := if x.convert then 5 else 3 + j

/-- An output stream under `EXP_SRC` 0 that uses its estimator slot (R249, R251). -/
def VecOp.usesEst (x : VecOp) (v : VStream) : Bool := !v.raw && usesSlot v.x.fmt.code v.src && decide (x.layer < 4096)

/-! Checks (Table 8-14a). -/

/-- A format that takes an exponent or scale. -/
def Fmt.sided (f : Fmt) : Bool := f.scaled || f.isCode

/-- The format codes that a task names for its used streams. -/
def vecFormats (t : Task) (o : List Byte) (x : VecOp) : List Nat :=
  if x.convert then [t.fld 40 1, t.fld 41 1]
  else (x.ins.map fun v => fieldAt o (96 + 24 * v.1 + 16) 1) ++ x.outs.map fun v => fieldAt o (192 + 24 * v.1 + 16) 1

/-- The live instructions of every slot that the passes run. -/
def VecOp.code (x : VecOp) (pats : List Byte) : List Word := (x.slots.take x.passes).flatMap (slotLive pats)

/-- The first check of Table 8-14a that fails; 0 when all pass. -/
def vecCheck (t : Task) (o pats : List Byte) (x : VecOp) : Nat :=
  let side (v : Nat × VStream) : Bool := v.2.x.fmt.sided && v.2.x.exp == 0
  if !(x.code pats).all instrOk then 1
  else if !(vecFormats t o x).all (fun c => (Fmt.ofCode (c % 64)).isSome) then 2
  else if x.ins.any (fun v => v.2.raw && v.2.x.fmt == .b64) || x.outs.any (fun v => v.2.raw && !(v.2.x.fmt.isInt || v.2.x.fmt.isCode)) then 3
  else if x.ins.any side || x.outs.any side then 4
  else if 2 ^ 24 < x.rows || 2 ^ 24 < x.cols || 2 ^ 30 < x.groups * x.chunks then 5 else 0

/-- The task reads the key table (R181). -/
def VecOp.readsKeys (x : VecOp) (pats : List Byte) : Bool :=
  x.outs.any (fun v => v.2.rnd == 2) || (x.code pats).any fun w => iOp w == 0x30

/-! Blocks read and written. -/

/-- The planes that a load reads: elements, and under `RAW` 0 exponents or scales. -/
def VStream.planes (v : VStream) : List Plane := if v.raw then v.x.planes.take 1 else v.x.planes

/-- The column scales that a store into weight codes reads. -/
def VStream.scalePlane (v : VStream) : List Plane := if v.x.fmt.isCode && !v.raw then v.x.planes.drop 1 else []

/-- Every plane that the task reads, and whether each row reads its own part of it. -/
def VecOp.readPlanes (x : VecOp) : List (Plane × Bool) :=
  ((x.ins.filter fun v => x.live v.2).flatMap fun v => v.2.planes.map fun p => (p, decide (p.rows = v.2.x.rows) && (p.addr == v.2.x.elem || !v.2.x.fmt.isCode))) ++
    (x.outs.filter fun v => x.live v.2).flatMap fun v => v.2.scalePlane.map fun p => (p, false)

/-- The ranges that the task reads. -/
def VecOp.reads (x : VecOp) : List (Nat × Nat) := x.readPlanes.map fun p => (p.1.addr, p.1.rowB * p.1.rows)

/-- The blocks that a row group reads: those of its rows, and all column scales. -/
def VecOp.groupBlocks (x : VecOp) (g : Nat) : List Nat :=
  (x.readPlanes.flatMap fun p =>
    if p.2 then p.1.blocks.filter fun k => (p.1.unitsIn k).any fun u => u.1 / 64 == g else p.1.blocks).eraseDups

/-- The bytes of those blocks that the row group needs: its rows, and all column scales. -/
def VecOp.groupReads (x : VecOp) (g : Nat) : List (Nat × Nat) :=
  x.readPlanes.flatMap fun p =>
    if p.2 then (List.range 64).filterMap fun i => if 64 * g + i < p.1.rows then some (p.1.addr + (64 * g + i) * p.1.rowB, p.1.rowB) else none
    else [(p.1.addr, p.1.rowB * p.1.rows)]

/-- The ranges that the task writes. -/
def VecOp.writes (x : VecOp) : List (Nat × Nat) :=
  (x.outs.filter fun v => x.live v.2).flatMap fun v => if v.2.x.fmt.isCode then v.2.x.ranges.take 1 else v.2.x.ranges

/-! A row group (R209, R210). -/

/-- Rows of a group, columns of a chunk. -/
def VecOp.rowsOf (x : VecOp) (g : Nat) : Nat := Nat.min 64 (x.rows - 64 * g)
/-- Columns of a chunk. -/
def VecOp.colsOf (x : VecOp) (c : Nat) : Nat := Nat.min 64 (x.cols - 64 * c)

/-- A chunk of a stream loaded into a tile. -/
def State.loadTile (s : State) (x : VecOp) (v : VStream) (g c : Nat) : List Word :=
  (List.range 4096).map fun i =>
    if i / 64 < x.rowsOf g && i % 64 < x.colsOf c then
      let r := 64 * g + i / 64
      let k := 64 * c + i % 64
      if v.raw then laneForm v.x.fmt (s.rawElem v.x r k) else BitVec.ofNat 32 (e32 (s.elemAt v.x r k))
    else 0

/-- Bytes of a chunk of a stream: elements, and under `RAW` 0 exponents, group exponents or column scales (R212). -/
def chunkBytes (v : VStream) (rows cols : Nat) : Nat :=
  let f := v.x.fmt
  let elems := if f.isCode then (rows * cols + 3) / 4 else rows * cols * f.bytes
  elems + (if v.raw then 0 else if f.isCode then 2 * cols else if f == .kf8b then rows * ((cols + 31) / 32) else if f.isKA then rows else 0)

/-- What a row group has stored: (pass, output, chunk, tile). -/
abbrev Caps := List (Nat × Nat × Nat × List Word)

/-- A stream takes part in a pass. -/
def VStream.inPass (v : VStream) (p : Nat) : Bool := bit v.mask p

/-- One chunk of one pass: registers, counts, cycles, stored tiles. -/
def State.runChunk (s : State) (x : VecOp) (step : Nat) (pats keys : List Byte) (g p c : Nat) (v : VecRegs) : VecRegs × LaneCounts × Nat × Caps :=
  let v0 : VecRegs := { v with t := List.replicate 8 tile0 ++ v.t.drop 8, vr := x.rowsOf g, vf := x.colsOf c }
  let ins := x.ins.filter fun i => i.2.inPass p
  let outs := x.outs.filter fun o => o.2.inPass p
  let v1 := ins.foldl (fun w i => w.setTile i.1 (s.loadTile x i.2 g c)) v0
  let r := runSlot ⟨step, x.layer, keys, (g * x.chunks + c) * 4 + p⟩ (slotInstrs pats (nth x.slots p 0)) v1
  let bytes := ((ins ++ outs).map fun i => chunkBytes i.2 (x.rowsOf g) (x.colsOf c)).sum
  (r.1, r.2.1, Nat.max r.2.2 ((bytes + 255) / 256), outs.map fun o => (p, o.1, c, r.1.tile (4 + o.1)))

/-- The registers at the start of a row group: the mask registers are open (log 78). -/
def groupRegs (x : VecOp) (opnd store : List Byte) (g : Nat) : VecRegs :=
  { store := store
    t := List.replicate 8 tile0 ++ (List.range 8).map fun i => List.replicate 4096 (nth x.params (8 + i) 0)
    m := (List.range 8).map fun i => (List.range 4096).map fun l => bit (Config.freeMask store opnd g i) l
    s := x.params ++ List.replicate 16 0
    vr := 1
    vf := 1 }

/-- A whole row group of a VEC_PATTERN: its passes over its chunks. -/
def State.runGroup (s : State) (x : VecOp) (step : Nat) (opnd pats keys : List Byte) (g : Nat) : VecRegs × LaneCounts × Nat × Caps :=
  ((List.range x.passes).flatMap fun p => (List.range x.chunks).map fun c => (p, c)).foldl
    (fun (acc : VecRegs × LaneCounts × Nat × Caps) pc =>
      let r := s.runChunk x step pats keys g pc.1 pc.2 acc.1
      (r.1, acc.2.1.add r.2.1, acc.2.2.1 + r.2.2.1, acc.2.2.2 ++ r.2.2.2))
    (groupRegs x opnd pats g, LaneCounts.none, 0, [])

/-! Stores (R84, R207, R210). -/

/-- The rounding of a store: the draw is formed only under SR. -/
def storeMode (code : Nat) (u : Unit → Nat) : Rnd := if code % 4 == 2 then .sr (u ()) else rndMode code 0

/-- A row of a stream as stored: element bytes, exponent bytes, sources and outcomes, largest finite source. -/
structure RowOut where
  bytes : List Byte
  exps  : List Byte
  elems : List (FVal × Elem)
  peak  : Rat

/-- One row of values converted and laid out. `given` is the exponent source and the one exponent; `draw` the draw of a column. -/
def encodeRow (x : Tensor) (rnd src expo : Nat) (scale draw : Nat → Nat) (vals : List FVal) : RowOut :=
  let f := x.fmt
  let w := if f.block == 0 then vals.length else f.block
  let blk (b : Nat) : Nat × List (FVal × Elem) :=
    let part := (vals.drop (w * b)).take w
    let e := blockExponent f src expo part
    (e, (List.range part.length).map fun i =>
      let v := nth part i .nan
      (v, convertElem f (storeMode rnd fun _ => draw (w * b + i)) e (scale (w * b + i)) v))
  let bs := (List.range ((vals.length + w - 1) / w)).map blk
  let els := bs.flatMap (·.2)
  ⟨packRaws f (els.map (·.2.raw) ++ List.replicate (x.stride - x.cols) 0), if f.block == 0 then [] else bs.map fun b => BitVec.ofNat 8 b.1,
    els, finitePeak vals⟩

/-- The KF16 encoding of 1. -/
def one16 : Nat := 31 * 2 ^ 9

/-- The low bits of a lane that a `RAW` store writes (R210); KT2 code 10, which no engine writes (R61), is written 00, the code of the level
that it is read as (DESIGN CHOICE, log 163). -/
def rawBits (f : Fmt) (w : Word) : Nat :=
  let b := w.toNat % 2 ^ (if f.isCode then 2 else f.intBits)
  if f == .kt2 && b == 2 then 0 else b

/-- One row of lanes stored as their low bits. What it counts: elements, and those whose value is zero (R250). -/
def rawRow (x : Tensor) (ws : List Word) : RowOut :=
  let raws := ws.map (rawBits x.fmt)
  ⟨packRaws x.fmt (raws ++ List.replicate (x.stride - x.cols) 0), [],
    raws.map fun b => (FVal.of 0, ⟨b, false, false, (elemValue x.fmt b 127 one16).isZero⟩), 0⟩

/-- What the store of one row group to one stream gives: runs of bytes, elements with address, source and outcome, blocks with the
addresses of their elements and what they count. -/
structure Stored where
  fmt    : Fmt
  writes : List (Nat × List Byte)
  elems  : List (Nat × FVal × Elem)
  blocks : List (List Nat × Counts)
  peak   : Rat
deriving DecidableEq, Repr

/-- The rows of a row group laid out in a stream. -/
def storedRows (x : Tensor) (g : Nat) (rows : List RowOut) : Stored :=
  let f := x.fmt
  let at_ (r n : Nat) : Nat := x.elem + (64 * g + r) * x.rowBytes + (if f.isCode then n / 4 else n * f.bytes)
  let line (r : Nat) : RowOut := nth rows r ⟨[], [], [], 0⟩
  let els (r : Nat) : List (Nat × FVal × Elem) :=
    (List.range (line r).elems.length).map fun n => (at_ r n, nth (line r).elems n (.nan, ⟨0, false, false, false⟩))
  let rs := List.range rows.length
  { fmt := f
    writes := [(x.elem + 64 * g * x.rowBytes, rows.flatMap (·.bytes)), (x.exp + 64 * g * x.rowExps, rows.flatMap (·.exps))]
    elems := rs.flatMap els
    blocks := if f.block == 0 then [] else rs.flatMap fun r =>
      (List.range (((line r).elems.length + f.block - 1) / f.block)).map fun b =>
        let part := ((els r).drop (f.block * b)).take f.block
        (part.map (·.1), blockCounts f (part.map (·.2.1)) (part.map (·.2.2)))
    peak := rows.foldl (fun p y => if p < y.peak then y.peak else p) 0 }

/-- A row group's rows stored to a stream; `val` gives the value of a row's column, `draw` its draw. -/
def State.storeRows (s : State) (v : VStream) (x : VecOp) (expo g : Nat) (val : Nat → Nat → FVal) (draw : Nat → Nat → Nat) : Stored :=
  storedRows v.x g ((List.range (x.rowsOf g)).map fun r =>
    encodeRow v.x v.rnd (expSrc v.src x.layer) (if v.src == 2 then v.given else expo)
      (fun c => if v.x.fmt.isCode then s.colScale v.x c else 0) (draw r) ((List.range x.cols).map (val r)))

/-- The lane that a row group stored. -/
def capLane (caps : Caps) (p j r c : Nat) : Word :=
  match caps.find? fun k => k.1 == p && k.2.1 == j && k.2.2.1 == c / 64 with
  | some k => nth k.2.2.2 (64 * r + c % 64) 0
  | none => 0

/-- The stores of a row group of a VEC_PATTERN, pass by pass: (output, what it stores). -/
def State.patternStores (s : State) (x : VecOp) (run : VecRun) (step g : Nat) (caps : Caps) : List (Nat × Stored) :=
  (List.range x.passes).flatMap fun p => (x.outs.filter fun o => o.2.inPass p).map fun o =>
    let v := o.2
    if v.raw then
      (o.1, storedRows v.x g ((List.range (x.rowsOf g)).map fun r => rawRow v.x ((List.range x.cols).map fun c => capLane caps p o.1 r c)))
    else
      (o.1, s.storeRows v x (nth run.expo o.1 0) g (fun r c => d32 (capLane caps p o.1 r c).toNat) fun r c =>
        drawSR (keyOf run.keys v.key) step x.layer ((g * x.chunks + c / 64) * 4 + p) (64 * r + c % 64))

/-- The store of a row group of a CONVERT. -/
def State.convertStores (s : State) (x : VecOp) (run : VecRun) (step g : Nat) : List (Nat × Stored) :=
  x.outs.map fun o => (0, s.storeRows o.2 x (nth run.expo 0 0) g
    (fun r c => match x.ins with | i :: _ => s.elemAt i.2.x (64 * g + r) c | [] => .nan) fun r c =>
      drawSR (keyOf run.keys o.2.key) step x.layer (g * x.chunks + c / 64) (64 * r + c % 64))

/-- Cycles of a row group of a CONVERT (R212). -/
def VecOp.convertCycles (x : VecOp) (g : Nat) : Nat :=
  ((List.range x.chunks).map fun c =>
    ((((x.ins ++ x.outs).map fun i => chunkBytes i.2 (x.rowsOf g) (x.colsOf c)).sum) + 255) / 256).sum

/-! Cores and row groups (R212). -/

/-- The runs of a die, in the order in which their tasks were handed over. -/
def State.vecOf (s : State) (q : Nat) : List VecRun := (s.vecRuns.filter fun p => p.1 == q).map (·.2)

/-- The state with a run replaced. -/
def State.setVec (s : State) (r : VecRun) : State :=
  { s with vecRuns := s.vecRuns.map fun (p : Nat × VecRun) => if p.2.task == r.task then (p.1, r) else p }

/-- The state without the run of a task. -/
def State.dropVec (s : State) (n : Nat) : State := { s with vecRuns := s.vecRuns.filter fun p => p.2.task != n }

/-- A core runs a row group. -/
def State.vecBusy (s : State) (q c : Nat) : Bool := (s.vecOf q).any fun r => (aget? r.assigned c).isSome

/-- The operation of a run. -/
def State.vecRunOp (s : State) (r : VecRun) : Option VecOp := (s.task? r.task).map fun t => vecOp t r.opnd

/-- A core takes the next row group of a run: its page shows it. -/
def State.assignGroup (s : State) (q c : Nat) (r : VecRun) : State :=
  let page := pgVecCore q c
  let s := s.takeCore page r.task
  let idx := match s.task? r.task with | some t => t.cmplIndex | none => 0
  let s := s.setVec { r with next := r.next + 1, assigned := aput r.assigned c r.next }
  s.wfs page [(R.VEC_CORE.CUR_TASK, idx), (R.VEC_CORE.CUR_GROUP, r.next), (R.VEC_CORE.CUR_PASS_PASS, 0)]

/-- An idle, ready core takes the next unassigned row group of the earliest run that has one. -/
def State.feedVec (s : State) (q c : Nat) : State :=
  if s.vecBusy q c || !s.coreReady (pgVecCore q c) then s
  else match (s.vecOf q).find? fun r => match s.vecRunOp r with | some x => decide (r.next < x.groups) | none => false with
  | some r => s.assignGroup q c r
  | none => s

/-- Every idle core of a die is offered a row group, lowest first. -/
def State.pumpVec (s : State) (q : Nat) : State := (List.range 16).foldl (fun t c => t.feedVec q c) s

/-! The end of a run (R216, R217). -/

/-- The stores' counts of a run, over its streams. -/
def VecRun.total (r : VecRun) : Counts := r.counts.foldl Counts.add Counts.none

/-- The count record (Table 8-14). -/
def vecRecord (r : VecRun) : List Byte :=
  let sat (n v : Nat) := leBytes n (Nat.min v (256 ^ n - 1))
  let l := r.lanes
  let c := r.total
  sat 8 l.instr ++ sat 4 l.inv ++ sat 4 l.ovf ++ sat 4 l.dz ++ sat 4 l.sat ++ sat 4 l.perm ++ sat 4 c.sat ++ sat 4 c.satBlocks ++
    sat 4 c.vanished ++ sat 4 c.nonfin ++ List.replicate 20 0

/-- What a run leaves for the watch and the estimator, stream by stream (R250, R253). -/
def vecPosts (x : VecOp) (r : VecRun) (whole : Bool) : List Post :=
  x.outs.flatMap fun o =>
    let j := o.1
    watchPost x.layer (x.role j) (x.usesEst o.2) whole r.prepass (nth r.counts j Counts.none) (nth r.peaks j 0) (nth r.expo j 0)
      (aget? r.slots (x.role j))

/-- The lane exceptions of a VEC_PATTERN go to the watch under role 3 (R250), and with them what its CVTs count (R83; DESIGN CHOICE,
log 162). -/
def lanePosts (x : VecOp) (r : VecRun) : List Post :=
  if r.prepass || x.convert then []
  else [.watch x.layer 3 (r.lanes.cvt.add { Counts.none with invalid := r.lanes.inv, overflow := r.lanes.ovf, divzero := r.lanes.dz })]

/-- A vector task has run to its end (Table 8-15); `aborted` names the event for its errors when a block reset (0) or a fault ended it. -/
def State.endVec (s : State) (q : Nat) (t : Task) (x : VecOp) (r : VecRun) (aborted : Option Nat) : State :=
  let s := s.dropVec t.seq
  let bad := !r.failed.isEmpty
  let die := pgGradDie q
  let nf := r.total.nonfin
  let post := (if x.count == 0 || r.prepass then [] else [Post.store x.count (vecRecord r)]) ++
    vecPosts x r (!bad && aborted.isNone) ++ lanePosts x r ++
    (if r.lanes.perm == 0 then [] else [Post.log die 0x0304 [x.layer, r.lanes.perm]]) ++
    (if nf == 0 then [] else [Post.log die 0x0305 [x.layer, nf]]) ++ [Post.readBack (pgVecCore q r.errCore) r.blocks]
  match aborted with
  | some e => s.endTask t stAborted 0 e r.errCore post
  | none =>
    if bad then s.endTask t stSeal 0 0x0301 r.errCore post
    else if nf != 0 then s.endTask t stNonfinite 0 0x0305 r.errCore post
    else s.endTask t stDone 0 0 r.errCore post

/-- A vector task stops ABORTED with an event for its errors: row groups already completed remain (Table 8-15). -/
def State.haltVec (s : State) (q : Nat) (t : Task) (x : VecOp) (r : VecRun) (event : Nat) : State :=
  (s.idleCores R.VEC_CORE.CUR_TASK (r.assigned.map fun a => pgVecCore q a.1)).endVec q t x r (some event)

/-- A vector task meets a fault on a core (R304, R486). -/
def State.faultVec (s : State) (q c : Nat) (t : Task) (x : VecOp) (r : VecRun) (a group : Nat) : State :=
  (((s.accessFault (2 * q) a t.type).err (pgVecCore q c) 0x0702 group).cause (pgVecCore q c) 0).haltVec q t x { r with errCore := c } 0x0702

/-- A finished run ends, unless it was a pre-pass, which waits for its end to be noted (R254). -/
def State.settleVec (s : State) (q : Nat) (t : Task) (x : VecOp) (r : VecRun) : State :=
  if decide (x.groups ≤ r.done.length) && (!r.prepass || !r.failed.isEmpty) then s.endVec q t x r none else s

/-! ROW_GROUP_DONE. -/

/-- A block that a core reads or writes fails its seal (R219, R220). -/
def State.vecSealErr (s : State) (q c k group : Nat) : State :=
  let page := pgVecCore q c
  (((s.inc page R.VEC_CORE.SEAL_ERRS).err page 0x0301 group).log page 0x0301 [c, 4096 * k]).cause page 1

/-- A sticky flag. -/
def State.stick (s : State) (page : Nat) (f : Fld) (n : Nat) : State := if n == 0 then s else s.wf page f 1

/-- A core's counters and sticky flags take a row group's counts (Table 8-16). -/
def State.laneFlags (s : State) (page : Nat) (l : LaneCounts) (cycles : Nat) : State :=
  let s := (s.inc64 page R.VEC_CORE.INSTR_LO R.VEC_CORE.INSTR_HI l.instr).inc64 page R.VEC_CORE.BUSY_LO R.VEC_CORE.BUSY_HI cycles
  let s := ((s.incBy page R.VEC_CORE.EXC_INVALID l.inv).incBy page R.VEC_CORE.EXC_OVERFLOW l.ovf).incBy page R.VEC_CORE.EXC_DIVZERO l.dz
  let s := s.incBy page R.VEC_CORE.PERM_RANGE_LANES l.perm
  let s := if l.perm != 0 && s.rf page R.VEC_CORE.FLAGS_PERM_RANGE == 0 then s.cause page 2 else s
  ((((s.stick page R.VEC_CORE.FLAGS_PERM_RANGE l.perm).stick page R.VEC_CORE.FLAGS_INVALID l.inv).stick page R.VEC_CORE.FLAGS_OVERFLOW
    l.ovf).stick page R.VEC_CORE.FLAGS_DIVZERO l.dz).stick page R.VEC_CORE.FLAGS_SATURATE l.sat

/-- The stores of a row group reach the run's peaks, and its counts for the elements that were written (R250). -/
def VecRun.take (r : VecRun) (ws : List (Nat × Stored)) (ok : Nat → Bool) : VecRun :=
  ws.foldl (fun u w => { u with
    counts := setNth u.counts w.1 ((nth u.counts w.1 Counts.none).add (writtenCounts w.2.fmt w.2.elems w.2.blocks ok))
    peaks := setNth u.peaks w.1 (maxPeak (nth u.peaks w.1 0) (peakKF16 w.2.peak)) }) r

/-- The stores of a row group are written and sealed; a pre-pass writes nothing (R254). A store that meets a fault is not made, and its
address answered (R304). -/
def State.writeGroup (s : State) (q c g : Nat) (r : VecRun) (ws : List (Nat × Stored)) : State × VecRun × Option Nat :=
  let out := (ws.flatMap fun w => w.2.writes).filter fun y => !y.2.isEmpty
  if r.prepass then (s, r.take ws fun _ => false, none)
  else
    let good := goodWrites out
    let w := s.storeAll good
    let r := r.take ws (wroteAt good w.2)
    let r := { r with blocks := (r.blocks ++ good.flatMap fun y => blocksOf y.1 y.2.length).eraseDups }
    (w.2.foldl (fun u k => (u.sealFail k 0x0301).vecSealErr q c k g) w.1,
      if w.2.isEmpty then r else { r with failed := r.failed ++ [g], errCore := c }, writeFault out)

/-- A core fetches what its row group reads and checks the seals (R217, R486): a failing block keeps the row group from running, an address
in no installed range is answered (R304). -/
def State.readGroup (s : State) (q c : Nat) (x : VecOp) (r : VecRun) (g : Nat) : State × VecRun × Option Nat :=
  let ks := x.groupBlocks g
  match ks.find? fun k => !installed (4096 * k) with
  | some k => (s, r, some (4096 * k))
  | none =>
    let bad := ks.filter fun k => !s.blockOk k
    (bad.foldl (fun u k => u.vecSealErr q c k g) ((s.cacheReads (x.groupReads g) ks).check ks 0x0301),
      if bad.isEmpty then r else { r with failed := r.failed ++ [g], errCore := c }, none)

/-- The instructions of a row group have run: the core's registers, counters and flags, the run's counts, and what it stores. -/
def State.runRow (s : State) (q c : Nat) (t : Task) (x : VecOp) (r : VecRun) (g : Nat) : State × VecRun × List (Nat × Stored) :=
  let page := pgVecCore q c
  if x.convert then
    (s.laneFlags page LaneCounts.none (x.convertCycles g), r, s.convertStores x r t.step g)
  else
    let v := s.runGroup x t.step r.opnd r.pats r.keys g
    let ws := s.patternStores x r t.step g v.2.2.2
    let s := { s with vecRegs := aput s.vecRegs (16 * q + c) { v.1 with store := (aget s.vecRegs (16 * q + c) VecRegs.fresh).store } }
    ((s.laneFlags page v.2.1 v.2.2.1).wf page R.VEC_CORE.CUR_PASS_PASS (x.passes - 1), { r with lanes := r.lanes.add v.2.1 }, ws)

/-- A row group ends on its core (R212): run, stored, counted, and the core takes the next. -/
def State.groupDone (s : State) (q c : Nat) (t : Task) (x : VecOp) (r : VecRun) (g : Nat) : State :=
  let r := { r with done := r.done ++ [g], assigned := aerase r.assigned c }
  let s := s.wf (pgVecCore q c) R.VEC_CORE.CUR_TASK 0xFFFFFFFF
  let z := s.readGroup q c x r g
  let f := if z.2.2.isSome || z.2.1.failed.contains g then z
    else
      let y := z.1.runRow q c t x z.2.1 g
      y.1.writeGroup q c g y.2.1 y.2.2
  match f.2.2 with
  | some a => (f.1.faultVec q c t x f.2.1 a g).pumpVec q
  | none => ((f.1.setVec f.2.1).settleVec q t x f.2.1).pumpVec q

/-- ROW_GROUP_DONE (R212). -/
def execRowGroupDone (q : Quad) (c : Core) (s : State) : Host.Outcome State Fault Refusal :=
  match (s.vecOf q).find? fun r => (aget? r.assigned c).isSome with
  | some r => match s.task? r.task with
    | some t => s.onDie (pllGrad q) fun s => s.whenFree ((vecOp t r.opnd).reads ++ (vecOp t r.opnd).writes) fun s =>
        s.groupDone q c t (vecOp t r.opnd) r (aget r.assigned c 0)
    | none => .next s
  | none => .next s

/-! Dispatch (R208, R213 to R215). -/

/-- The pattern stores of a die hold the table at `a` as it is sealed now (R208). -/
def State.storesHold (s : State) (q a : Nat) : Bool :=
  (List.range 16).all fun c =>
    let p := pgVecCore q c
    s.rf p R.VEC_CORE.PAT_BASE_HI_VALID == 1 && s.rf p R.VEC_CORE.PAT_BASE_LO_ADDR == a / 4096 % 2 ^ 20 &&
      s.rf p R.VEC_CORE.PAT_BASE_HI_ADDR == a / 2 ^ 32 % 2 ^ 20 && s.rf p R.VEC_CORE.PAT_SEAL == (s.sealEntry (a / 4096)).toNat

/-- Every core of a die takes the table at `a` into its pattern store. -/
def State.reloadStores (s : State) (q a : Nat) : State :=
  let table := s.bytes (a / 4096 * 4096) 4096
  let entry := (s.sealEntry (a / 4096)).toNat
  (List.range 16).foldl (fun u c =>
    let p := pgVecCore q c
    let u := { u with vecRegs := aput u.vecRegs (16 * q + c) { aget u.vecRegs (16 * q + c) VecRegs.fresh with store := table } }
    u.wfs p [(R.VEC_CORE.PAT_BASE_LO_ADDR, a / 4096), (R.VEC_CORE.PAT_BASE_HI_ADDR, a / 2 ^ 32), (R.VEC_CORE.PAT_BASE_HI_VALID, 1),
      (R.VEC_CORE.PAT_SEAL, entry)]) s

/-- The lowest-numbered ready vector core of a die, which reads what a task reads at dispatch. -/
def State.leadVec (s : State) (q : Nat) : Nat := ((List.range 16).find? fun c => s.coreReady (pgVecCore q c)).getD 0

/-- A vector task meets a fault at dispatch (R304, R486). -/
def State.faultVecTask (s : State) (t : Task) (q a : Nat) : State :=
  let c := s.leadVec q
  ((s.accessFault (2 * q) a t.type).err (pgVecCore q c) 0x0702 0).handOver t (.finished stAborted 0 0x0702 c) (pgGradDie q) [] q

/-- A run before its first row group. -/
def VecRun.start (task : Nat) (x : VecOp) (opnd pats keys : List Byte) (expo : List Nat) (slots : List (Nat × Word)) (prepass : Bool)
    (core : Nat) : VecRun :=
  ⟨task, x.convert, opnd, pats, keys, expo, slots, prepass, 0, [], [], [], [], List.replicate 2 Counts.none, [0, 0], LaneCounts.none, core⟩

/-- The exponents that the estimator gives the output streams (R251). -/
def State.estExpos (s : State) (x : VecOp) : List Nat :=
  (List.range 2).map fun j => match x.outs.find? fun o => o.1 == j with
    | some o => if x.usesEst o.2 then slotExponent o.2.x.fmt (slotAmax (s.slot x.layer (x.role j))) else 0
    | none => 0

/-- A vector task that passed its checks: its slots are read, and its row groups handed out. -/
def State.startVec (s : State) (t : Task) (q : Nat) (o pats keys : List Byte) (x : VecOp) : State :=
  let die := pgGradDie q
  let used := x.outs.filter fun v => x.usesEst v.2
  let slots := used.map fun v => (x.role v.1, s.slot x.layer (x.role v.1))
  let pre := slots.any fun w => slotPrepass w.2
  let s := s.handOver t .running die [die] q
  let s := if pre then s.notePrepass x.layer (slots.map (·.1)) else s
  let run := VecRun.start t.seq x o pats keys (if pre then [0, 0] else s.estExpos x) (if pre then slots else []) pre (s.leadVec q)
  ({ s with vecRuns := s.vecRuns ++ [(q, run)] }).pumpVec q

/-- The key table is read where the task needs it (R181), and the task starts. -/
def State.keysVec (s : State) (t : Task) (q : Nat) (o pats : List Byte) (x : VecOp) : State :=
  let die := pgGradDie q
  let key := s.keyTable q
  if !x.readsKeys pats then s.startVec t q o pats [] x
  else match faultIn key 4096 with
  | some a => s.faultVecTask t q a
  | none =>
    let s := (s.cacheUse key 4096).check [key / 4096] 0x0205
    if !s.blockOk (key / 4096) then (s.keyErr q).handOver t (.finished stSeal 0 0x0205 (s.leadVec q)) die [] q
    else s.startVec t q o pats (s.bytes key 4096) x

/-- The checks of Table 8-14a. -/
def State.checkVec (s : State) (t : Task) (q : Nat) (o pats : List Byte) (x : VecOp) : State :=
  let die := pgGradDie q
  let c := vecCheck t o pats x
  if c != 0 then (s.log die 0x0302 [c, x.layer]).handOver t (.finished stAborted c 0x0302 (s.leadVec q)) die [] q
  else s.keysVec t q o pats x

/-- The pattern table of a VEC_PATTERN reaches the stores, where they do not hold it (R208). -/
def State.patternVec (s : State) (t : Task) (q : Nat) (o : List Byte) (x : VecOp) : State :=
  let die := pgGradDie q
  let a := t.addr 32
  let k := a / 4096
  match faultIn (4096 * k) 4096 with
  | some a => s.faultVecTask t q a
  | none =>
    if s.storesHold q a then
      s.checkVec t q o (aget s.vecRegs (16 * q) VecRegs.fresh).store x
    else
      let s := (s.cacheUse (4096 * k) 4096).check [k] 0x0303
      if s.blockOk k then (s.reloadStores q a).checkVec t q o (s.bytes (4096 * k) 4096) x
      else
        let c := s.leadVec q
        let page := pgVecCore q c
        let s := (((s.inc page R.VEC_CORE.SEAL_ERRS).err page 0x0303 0).cause page 1).log die 0x0303 [q, a % 2 ^ 32]
        s.handOver t (.finished stSeal 0 0x0303 c) die [] q

/-- VEC_PATTERN or CONVERT at dispatch: the posted writes of the die page are in force (R192). -/
def State.dispatchVec (s : State) (t : Task) (q : Nat) : State :=
  let a := vecOpnd t
  let die := pgGradDie q
  let s := s.applyPage die
  let t := { t with target := q }
  match faultIn a.1 a.2 with
  | some a => s.faultVecTask t q a
  | none =>
    let ks := blocksOf a.1 a.2
    let s := (s.cacheUse a.1 a.2).check ks 0x0301
    match s.firstBad ks with
    | some k => (s.vecSealErr q (s.leadVec q) k 0).handOver t (.finished stSeal 0 0x0301 (s.leadVec q)) die [] q
    | none =>
      let o := s.bytes a.1 a.2
      let x := vecOp t o
      if x.rows == 0 || x.cols == 0 then s.handOver t (.finished stDone 0 0 0) die [] q
      else if x.convert then s.checkVec t q o [] x
      else s.patternVec t q o x

/-- What a vector task reads at dispatch waits for host-held lines. -/
def State.vecRanges (s : State) (t : Task) (q : Nat) : List (Nat × Nat) :=
  let a := vecOpnd t
  [a, ((s.applyPage (pgGradDie q)).keyTable q, 4096)] ++ (if t.type == 0x31 then [] else [(t.addr 32, 4096)])

/-- A vector task is dispatched to a die with a ready core (R286). -/
def State.takeVec (s : State) (n type : Nat) : Host.Outcome State Fault Refusal :=
  match s.dispatchable n [type] with
  | some t => match s.pickUnit type t.hint with
    | some q => s.onDie (pllGrad q) fun s => s.whenFree (s.vecRanges t q) fun s => s.dispatchVec t q
    | none => .next s
  | none => .next s

/-- VEC_PATTERN (R213). -/
def execVecPattern (n : Nat) (s : State) : Host.Outcome State Fault Refusal := s.takeVec n 0x30

/-- CONVERT (R214). -/
def execConvert (n : Nat) (s : State) : Host.Outcome State Fault Refusal := s.takeVec n 0x31

/-- A measuring pre-pass of a vector task has ended (R254): both slots take their peaks, and the task runs in full. -/
def State.vecMeasured (s : State) (q : Nat) (t : Task) (r : VecRun) : State :=
  let x := vecOp t r.opnd
  if r.prepass && decide (x.groups ≤ r.done.length) then
    let s := (x.outs.filter fun v => x.usesEst v.2).foldl (fun u v => u.measureSlot x.layer (x.role v.1) (nth r.peaks v.1 0)) s
    (s.setVec (VecRun.start t.seq x r.opnd r.pats r.keys (s.estExpos x) r.slots false r.errCore)).pumpVec q
  else s

/-! Commands of the page (R219). -/

/-- PAT_FLUSH (R219). -/
def execPatFlush (view : View) (q : Quad) (c : Core) (s : State) : Host.Outcome State Fault Refusal :=
  let page := pgVecCore q c
  .next (s.onWrite view page false fun s => s.crossOrPost view (page + R.VEC_CORE.PAT_FLUSH_FLUSH.off) 1)

/-- FLAGS_CLEAR (R219). -/
def execFlagsClear (view : View) (q : Quad) (c : Core) (mask : Word) (s : State) : Host.Outcome State Fault Refusal :=
  let page := pgVecCore q c
  .next (s.onWrite view page false fun s => s.crossOrPost view (page + R.VEC_CORE.FLAGS_SATURATE.off) mask)

/-- VEC_CORE_COUNT_CLEAR (R219). -/
def execVecCoreCountClear (view : View) (q : Quad) (c : Core) (s : State) : Host.Outcome State Fault Refusal :=
  let page := pgVecCore q c
  .next (s.onWrite view page false fun s => s.crossOrPost view (page + R.VEC_CORE.COUNT_CLEAR_CLEAR.off) 1)

/-- GRAD_CORE_COUNT_CLEAR (R193). -/
def execGradCoreCountClear (view : View) (q : Quad) (c : Core) (s : State) : Host.Outcome State Fault Refusal :=
  let page := pgGradCore q c
  .next (s.onWrite view page false fun s => s.crossOrPost view (page + R.GRAD_CORE.COUNT_CLEAR_CLEAR.off) 1)

end Sys2Proof.Machine
end

