-- ==== Sys2Proof/Machine/Maint.lean ====
section
/-! DEFINITION. The SEAL pages (R385, R401) and field tests (R394 to R397, R400). -/

namespace Sys2Proof.Machine

/-! SEAL pages. -/

/-- The operation of a SEAL page, if one runs. -/
def State.sealOp? (s : State) (n : Nat) : Option SealOp := aget? s.sealOps n

/-- A SEAL operation ends after some blocks (Table 15-11): `LAST`, `OP_DONE_BLOCKS`, the cause `OP_DONE`. -/
def State.endSeal (s : State) (n last blocks : Nat) : State :=
  let page := pgSeal n
  ((({ s with sealOps := aerase s.sealOps n }).wfs page [(R.SEAL.OP_CMD_OP, 0), (R.SEAL.OP_CMD_BUSY, 0), (R.SEAL.OP_STATUS_LAST, last),
    (R.SEAL.OP_DONE_BLOCKS, blocks)])).cause page 0

/-- An operation is started (R385); none while one runs, and one of no blocks ends at once. -/
def State.startSeal (s : State) (n op : Nat) : State :=
  let page := pgSeal n
  if (s.sealOp? n).isSome then s
  else
    let len := s.rf page R.SEAL.OP_LEN_BLOCKS
    let s := s.wfs page [(R.SEAL.OP_CMD_OP, op), (R.SEAL.OP_CMD_BUSY, 1)]
    let s := { s with sealOps := aput s.sealOps n ⟨op, s.rf64 page R.SEAL.OP_ADDR_LO_ADDR R.SEAL.OP_ADDR_HI_ADDR, len⟩ }
    if len == 0 then s.endSeal n 1 0 else s

/-- RESEAL (R385). -/
def execReseal (view : View) (n : Die8) (s : State) : Host.Outcome State Fault Refusal :=
  .next (s.onWrite view (pgSeal n) true fun s => s.startSeal n 1)
/-- CHECK (R385). -/
def execCheck (view : View) (n : Die8) (s : State) : Host.Outcome State Fault Refusal :=
  .next (s.onWrite view (pgSeal n) true fun s => s.startSeal n 2)
/-- ZERO (R385). -/
def execZero (view : View) (n : Die8) (s : State) : Host.Outcome State Fault Refusal :=
  .next (s.onWrite view (pgSeal n) true fun s => s.startSeal n 3)

/-- CHECK over blocks: failures are counted here and at the owning units, and event 0x0A01 is logged once. -/
def State.sealCheck (s : State) (n addr blocks : Nat) : State :=
  let page := pgSeal n
  let ks := (List.range blocks).map (addr / 4096 + ·)
  let bad := ks.filter fun k => !s.blockOk k
  let s := (s.check ks 0x0A01).wf page R.SEAL.OP_MISMATCH bad.length
  match bad with
  | [] => s
  | k :: _ => (s.wf64 page R.SEAL.FIRST_BAD_LO R.SEAL.FIRST_BAD_HI_ADDR (4096 * k)).log page 0x0A01 [n, bad.length, 4096 * k % 2 ^ 32]

/-- An operation over the first blocks of its range. -/
def State.sealWork (s : State) (n : Nat) (o : SealOp) (blocks : Nat) : State :=
  match o.op with
  | 1 => s.reseal o.addr (4096 * blocks)
  | 2 => s.sealCheck n o.addr blocks
  | 3 => s.putSealed o.addr (List.replicate (4096 * blocks) 0)
  | _ => s

/-- The range of an operation lies in the installed part of one window that carries seals (R385). -/
def SealOp.inside (o : SealOp) : Bool := rangeOk o.addr (4096 * o.blocks) && !inHost o.addr

/-- SEAL_OP_DONE (R385). -/
def execSealOpDone (n : Die8) (s : State) : Host.Outcome State Fault Refusal :=
  match s.sealOp? n with
  | none => .next s
  | some o => s.onDie (pllMem n) fun s =>
      if o.inside then s.whenFree [(o.addr, 4096 * o.blocks)] fun s => (s.sealWork n o o.blocks).endSeal n 1 o.blocks
      else s.endSeal n 2 0

/-- A block reset stops a SEAL operation between blocks (R385); how many it has done is open. -/
def State.resetSeal (s : State) (n : Nat) : State :=
  match s.sealOp? n with
  | none => s
  | some o =>
    let d := s.draw 3
    let k := if o.inside then d.1.toNat % (o.blocks + 1) else 0
    (d.2.sealWork n o k).endSeal n 3 k

/-- The block that `ENTRY_SEL` names, when this die owns it (R401). -/
def State.selBlock (s : State) (n : Nat) : Option Nat :=
  let a := s.rf64 (pgSeal n) R.SEAL.ENTRY_SEL_LO_ADDR R.SEAL.ENTRY_SEL_HI_ADDR
  if installed a && !inHost a && (blockOwner a).1 == n then some (a / 4096) else none

/-- A seal entry is written directly (R401). -/
def State.writeEntry (s : State) (n : Nat) (w : Word) : State :=
  match s.selBlock n with
  | some k => (s.setSeal k w).log (pgSeal n) 0x0A0B [n, 4096 * k % 2 ^ 32]
  | none => s

/-- ENTRY_DATA_WRITE (R401). -/
def execEntryDataWrite (view : View) (n : Die8) (w : Word) (s : State) : Host.Outcome State Fault Refusal :=
  .next (s.onWrite view (pgSeal n) true fun s => s.writeEntry n w)

/-- SEAL_COUNT_CLEAR (R401). -/
def execSealCountClear (view : View) (n : Die8) (s : State) : Host.Outcome State Fault Refusal :=
  .next (s.onWrite view (pgSeal n) false fun s => s.clearCounts .seal (pgSeal n))

/-! Field tests. -/

/-- A core's page. -/
def corePage (c : CoreName) : Nat := if c.vector then pgVecCore c.quad c.core else pgGradCore c.quad c.core

/-- A core as `FT_STATUS.CORE` and events give it. -/
def coreCode (c : CoreName) : Nat := c.quad.val * 64 + b2n c.vector * 32 + c.core.val

/-- Details of the field-test events. -/
def coreDetail (c : CoreName) : List Nat := [c.quad.val, b2n c.vector, c.core.val]

/-- The arbiter's class of a core's test. -/
def coreClass (c : CoreName) : Nat := if c.vector then mFtV else mFtG

/-- `FT_STATUS` of a test. -/
def State.ftStatus (s : State) (state : Nat) (c : CoreName) : State :=
  s.wfs pgMaint [(R.MAINT.FT_STATUS_STATE, state), (R.MAINT.FT_STATUS_CORE, (coreCode c))]

/-- A granted test takes its core out of the ready set (R395). -/
def State.grantTest (s : State) (c : CoreName) (o : FtOrigin) : State :=
  ({ s with notReady := s.notReady ++ [(corePage c)], field := some ⟨c, o, 1, s.now, 0⟩ }).ftStatus 1 c

/-- A test is requested from the arbiter: whether it was granted. -/
def State.askTest (s : State) (c : CoreName) (o : FtOrigin) : State × Bool :=
  let r := s.askGrant (coreClass c) [c.quad.val] 0
  if r.2 then (r.1.grantTest c o, true) else (r.1, false)

/-- A refused `FT_CMD` (Table 15-9). -/
def State.ftBusy (s : State) : State := s.wf pgMaint R.MAINT.FT_STATUS_LAST 4

/-- `FT_CMD` as it is written; `OP` clears when taken. -/
def State.ftCmd (s : State) (view : View) (c : CoreName) (o : FtOrigin) : State :=
  s.onWrite view pgMaint true fun s =>
    let s := s.wfs pgMaint [(R.MAINT.FT_CMD_OP, 0), (R.MAINT.FT_CMD_QUAD, c.quad.val), (R.MAINT.FT_CMD_KIND, b2n c.vector),
      (R.MAINT.FT_CMD_CORE, c.core.val)]
    let r := s.askTest c o
    if o == .reinstate && !s.retired (corePage c) then s
    else if r.2 then r.1 else (r.1.err pgMaint 0x0A08 (coreClass c)).ftBusy

/-- FT_CMD_TEST (R395). -/
def execFtCmdTest (view : View) (c : CoreName) (s : State) : Host.Outcome State Fault Refusal := .next (s.ftCmd view c .command)

/-- FT_CMD_REINSTATE (R397): only a retired core is tested for it. -/
def execFtCmdReinstate (view : View) (c : CoreName) (s : State) : Host.Outcome State Fault Refusal :=
  .next (s.ftCmd view c .reinstate)

/-- A test slot is skipped: event 0x0A09 with reason 1 busy or 2 not idle. -/
def State.skipTest (s : State) (c : CoreName) (reason : Nat) : State :=
  (s.inc pgMaint R.MAINT.FT_SKIPPED).log pgMaint 0x0A09 ((coreDetail c) ++ [reason])

/-- The FIELD_TEST_SLOT action (R395, R396): a retired core is not tested. -/
def State.testSlot (s : State) (c : CoreName) : State :=
  if s.retired (corePage c) then s
  else
    let r := s.askTest c .slot
    if r.2 then r.1 else r.1.skipTest c 1

/-- A core runs no item. -/
def State.coreIdle (s : State) (c : CoreName) : Bool :=
  if c.vector then !s.vecBusy c.quad c.core else !s.coreBusy c.quad c.core

/-- Bytes that the manual leaves open, for the place `k`. -/
def State.freeBytes (s : State) (k n : Nat) : List Byte × State :=
  (((List.range ((n + 3) / 4)).flatMap fun i => leBytes 4 (Config.freeWord s.fresh (k + 16 * i)).toNat).take n, { s with fresh := s.fresh + 1 })

/-- Lanes that the manual leaves open. -/
def State.freeLanes (s : State) (k n : Nat) : List Word := (List.range n).map fun i => Config.freeWord s.fresh (k + 16 * i)

/-- The state that a test overwrites (R394): 4 MiB of the core's local store with its seal entries, or the registers and the
pattern store of a vector core. What it leaves there is open. -/
def State.testWreck (s : State) (c : CoreName) : State :=
  if c.vector then
    let v : VecRegs := ⟨[], (List.range 16).map fun i => s.freeLanes (4 + 1048576 * i) 4096,
      (List.range 8).map fun i => (s.freeLanes (5 + 1048576 * i) 4096).map fun w => bit w.toNat 0, s.freeLanes 6 32, 1, 1⟩
    ({ s with vecRegs := aput s.vecRegs (16 * c.quad.val + c.core.val) v, fresh := s.fresh + 1 }).flushStore (corePage c)
  else
    let a := sramBase + 0xC00000 + 0x20000000 * c.quad.val + 0x1000000 * c.core.val
    let b := s.freeBytes 4 0x400000
    let t := b.2.put a b.1
    (List.range 1024).foldl (fun u i => u.setSeal (a / 4096 + i) (Config.freeWord s.fresh (7 + 16 * i))) t

/-- A test run begins: `FT_COUNT`. -/
def State.runTest (s : State) (f : FieldTest) (state : Nat) : State :=
  (({ s.testWreck f.core with field := some { f with state := state } }).inc pgMaint R.MAINT.FT_COUNT).ftStatus state f.core

/-- The test that waits for its core: one that runs now, its core idle within `FT_WAIT`, or one that has waited too long. -/
def State.waitingTest (s : State) (idle : Bool) : Option FieldTest :=
  match s.field with
  | some f =>
    let late := decide (s.rf pgMaint R.MAINT.FT_WAIT < s.now - f.waitFrom)
    if f.state == 1 && (if idle then s.coreIdle f.core && !late else late) then some f else none
  | none => none

/-- FIELD_TEST_RUN (R395). -/
def execFieldTestRun (s : State) : Host.Outcome State Fault Refusal :=
  match s.waitingTest true with
  | some f => s.onDie (pllGrad f.core.quad) fun s => s.runTest f 2
  | none => .next s

/-- The core is returned, the grant released, and the die goes on with its items (R395). -/
def State.returnCore (s : State) (f : FieldTest) (last : Nat) : State :=
  let c := f.core
  let s := ({ s with notReady := s.notReady.filter (· != (corePage c)), field := none }).release (coreClass c) 0
  let s := (s.ftStatus 0 c).wf pgMaint R.MAINT.FT_STATUS_LAST last
  if c.vector then s.pumpVec c.quad else s.pumpGrad c.quad

/-- `RETIRED` of a core, at its page and in `CORE_RETIRED` (R396, R397); the retirement stands in record flash first. -/
def State.setRetired (s : State) (c : CoreName) (v : Bool) : State :=
  let s := s.setHdrBit (corePage c) oPAGE_STATUS 3 v
  let f := if c.vector then R.MAINT.CORE_RETIRED_VEC else R.MAINT.CORE_RETIRED_GRAD
  let old := s.rf pgMaint f c.quad.val
  s.wf pgMaint f (if v then old ||| 2 ^ c.core.val else old - (old &&& 2 ^ c.core.val)) c.quad.val

/-- A test has ended for good: `FT_DONE`. -/
def State.endTest (s : State) (f : FieldTest) (last : Nat) : State := (s.returnCore f last).cause pgMaint 1

/-- FIELD_TEST_DONE (R396, R397). -/
def State.testDone (s : State) (f : FieldTest) (pass : Bool) : State :=
  let c := f.core
  if f.origin == .reinstate then
    if f.state == 2 then s.runTest { f with passes := b2n pass } 3
    else if pass && f.passes == 1 then ((s.logFirm pgMaint 0x0A0A (coreDetail c)).setRetired c false).endTest f 6
    else s.endTest f 7
  else if f.state == 2 then (if pass then s.endTest f 1 else s.runTest f 3)
  else if pass then ((s.inc pgMaint R.MAINT.FT_TRANSIENT).log pgMaint 0x0A06 (coreDetail c)).endTest f 2
  else
    let s := ((s.logFirm pgMaint 0x0A07 (coreDetail c)).setRetired c true).cause pgMaint 2
    (if c.vector then s else s.cause (pgGradDie c.quad) 0).endTest f 3

/-- MAINT_COUNT_CLEAR (R400). -/
def execMaintCountClear (view : View) (s : State) : Host.Outcome State Fault Refusal :=
  .next (s.onWrite view pgMaint false fun s => s.clearCounts .maint pgMaint)

end Sys2Proof.Machine
end

