-- ==== Sys2Proof/Machine/Record.lean ====
section
/-! DEFINITION. The event record (R452 to R456): commits, compaction, the window and the dump. -/

namespace Sys2Proof.Machine

/-- Every committed entry, block by block. -/
def State.entries (s : State) : List Entry := s.record.blocks.flatMap id

/-- The committed entry of a sequence number. -/
def State.entry? (s : State) (seq : Nat) : Option Entry := s.entries.find? fun e => e.seq == seq

/-- EVENT_COMMIT (R453). -/
def execEventCommit (s : State) : Host.Outcome State Fault Refusal := .next s.commitEntry

/-! Compaction (R454). -/

/-- The kind and object of a state entry: panels by die and number, logical panels, cores; none for any other entry. -/
def Entry.object (e : Entry) : Option (Nat × Nat × List Nat) :=
  if e.code == 0x011A || e.code == 0x0113 then some (1, e.source, e.detail.take 1)
  else if e.code == 0x011C then some (2, e.source, e.detail.take 1)
  else if e.code == 0x0115 || e.code == 0x0117 then some (3, e.source, (e.detail.drop 1).take 1)
  else if e.code == 0x0A07 || e.code == 0x0A0A then some (4, e.source, e.detail) else none

/-- The entry is the newest of its kind and object. -/
def newestOf (all : List Entry) (e : Entry) : Bool := e.object.isSome && all.all fun x => x.object != e.object || decide (x.seq ≤ e.seq)

/-- An entry copied forward: it joins the newest erase block, or opens a new one. -/
def appendEntry (bs : List (List Entry)) (e : Entry) : List (List Entry) :=
  let last := bs.getLastD []
  if recBlockLen ≤ last.length || bs.isEmpty then bs ++ [[e]] else bs.dropLast ++ [last ++ [e]]

/-- `REC_FIRST`, `REC_LAST` and `REC_FREE` as flash has them. -/
def State.showRecord (s : State) : State :=
  let seqs := s.entries.map (·.seq)
  let s := s.wf64 pgRecord R.RECORD.REC_FIRST_LO R.RECORD.REC_FIRST_HI (seqs.foldl Nat.min (seqs.headD 0))
  let s := s.wf64 pgRecord R.RECORD.REC_LAST_LO R.RECORD.REC_LAST_HI (seqs.foldl Nat.max 0)
  s.wf pgRecord R.RECORD.REC_FREE_BLOCKS (1024 - s.record.blocks.length)

/-- One erase block is compacted. -/
def State.compactOne (s : State) : State :=
  let old := s.record.blocks.headD []
  let keep := old.filter (newestOf s.entries)
  let bs := keep.foldl appendEntry (s.record.blocks.drop 1)
  let s := ({ s with record := { s.record with blocks := bs } }).showRecord
  let s := (s.incBy pgRecord R.RECORD.REC_DROPPED (old.length - keep.length)).inc pgRecord R.RECORD.COMPACTIONS
  let s := { s with record := { s.record with compact := decide (s.rf pgRecord R.RECORD.REC_FREE_BLOCKS ≤ 16) } }
  s.log pgRecord 0x0E14 [1, old.length - keep.length]

/-- COMPACTION (R454): due once free blocks have fallen to 16; a refused request is made again by a later COMPACTION. -/
def execCompaction (s : State) : Host.Outcome State Fault Refusal :=
  .next (if !s.record.compact || s.record.blocks.isEmpty then s
    else
      let g := s.askGrant mCompact [] 0
      if g.2 then (g.1.compactOne).release mCompact 0 else g.1)

/-! Reading (R456). -/

/-- The entry that `REC_SEL` names is shown. -/
def State.showEntry (s : State) (seq : Nat) : State :=
  let b := match s.entry? seq with
    | some e => e.bytes
    | none => List.replicate 64 0
  let f := b2n (s.entry? seq).isSome
  let s := s.wfs pgRecord [(R.RECORD.REC_SEL_STATUS_FOUND, f), (R.RECORD.REC_SEL_STATUS_CRC_OK, f)]
  (List.range 16).foldl (fun u i => u.wf pgRecord R.RECORD.REC_DATA (fieldAt b (4 * i) 4) i) s

/-- REC_SEL_WRITE (R456). -/
def execRecSelWrite (view : View) (seq : BitVec 64) (s : State) : Host.Outcome State Fault Refusal :=
  .next (s.onWrite view pgRecord false fun s => (s.wf64 pgRecord R.RECORD.REC_SEL_LO R.RECORD.REC_SEL_HI seq.toNat).showEntry seq.toNat)

/-- DUMP_START (R456): ignored while a dump runs. -/
def execDumpStart (view : View) (s : State) : Host.Outcome State Fault Refusal :=
  .next (s.onWrite view pgRecord false fun s =>
    if s.record.dumping.isSome then s
    else
      let p := (s.rf64 pgRecord R.RECORD.DUMP_ADDR_LO R.RECORD.DUMP_ADDR_HI, s.rf64 pgRecord R.RECORD.DUMP_FIRST_LO R.RECORD.DUMP_FIRST_HI,
        s.rf pgRecord R.RECORD.DUMP_COUNT)
      ({ s with record := { s.record with dumping := some p } }).wf pgRecord R.RECORD.DUMP_CMD_BUSY 1)

/-- Entries in order of their numbers. -/
def insertEntry (e : Entry) (l : List Entry) : List Entry :=
  match l with
  | [] => [e]
  | x :: t => if e.seq ≤ x.seq then e :: x :: t else x :: insertEntry e t

/-- The bytes of a dump: the first `count` held entries from a number upward (DEDUCED, log 31). -/
def State.dumpBytes (s : State) (first count : Nat) : List Byte :=
  (((s.entries.foldr insertEntry []).filter fun e => decide (first ≤ e.seq)).take count).flatMap Entry.bytes

/-- A dump ends: 1 done, 2 fault, 3 seal mismatch of a merged block. -/
def State.endDump (s : State) (a first count : Nat) : State :=
  let b := s.dumpBytes first count
  let w := match faultIn a b.length with
    | some x => (s.accessFault 0 x 0, 2)
    | none =>
      let m := s.merge a b 0x0E10
      (m.1, if m.2.isEmpty then 1 else 3)
  let last := w.2
  let t := { w.1 with record := { w.1.record with dumping := none } }
  (t.wfs pgRecord [(R.RECORD.DUMP_CMD_BUSY, 0), (R.RECORD.DUMP_CMD_LAST, last)]).cause pgRecord 0

/-- DUMP_DONE (R456). -/
def execDumpDone (s : State) : Host.Outcome State Fault Refusal :=
  .next (match s.record.dumping with
    | some p => s.whenFree [(p.1, (s.dumpBytes p.2.1 p.2.2).length)] fun s => s.endDump p.1 p.2.1 p.2.2
    | none => s)

end Sys2Proof.Machine
end

