-- ==== Sys2Proof/Machine/Firmware.lean ====
section
/-! DEFINITION. Firmware slots, trial and confirmation (R440 to R448), attestation (R449 to R451), and what the boot ROM and the
firmware do at a start (R445, R455). -/

namespace Sys2Proof.Machine

/-! Headers (Table 18-2). -/

/-- `IMG_VERSION`. -/
def fhVersion (h : List Byte) : Nat := fieldAt h 8 4
/-- `SET_FMT`. -/
def fhSetFmt (h : List Byte) : Nat := fieldAt h 12 2
/-- `BODY_LEN`. -/
def fhBodyLen (h : List Byte) : Nat := fieldAt h 16 4
/-- `ARB`. -/
def fhArb (h : List Byte) : Nat := fieldAt h 20 2
/-- `BODY_DIGEST`. -/
def fhDigest (h : List Byte) : List Byte := (h.drop 64).take 32
/-- `SIGNER`. -/
def fhSigner (h : List Byte) : List Byte := (h.drop 96).take 64

/-- One check of Table 18-3 on a header. -/
def State.fwCheck (s : State) (h : List Byte) (code : Nat) : Bool :=
  match code with
  | 1 => h.take 4 == [0x4E, 0x4B, 0x46, 0x57] && fieldAt h 4 2 == 1
  | 2 => fieldAt h 6 2 == 0x2100
  | 3 => fhBodyLen h % 16 == 0 && decide (16 ≤ fhBodyLen h) && decide (fhBodyLen h ≤ 50331648) &&
      s.rf pgFirmware R.FIRMWARE.STAGE_LEN == 4096 + fhBodyLen h
  | 4 => decide (Config.signerOf (sm3 (fhSigner h)) < 4) && !bit s.fw.revoked (Config.signerOf (sm3 (fhSigner h)))
  | 5 => Config.sm2Verify (fhSigner h) (sm3 (h.take 160)) ((h.drop 160).take 64)
  | 6 => decide (s.fw.fuses ≤ fhArb h)
  | _ => decide (fieldAt h 14 2 ≤ s.rf pgFirmware R.FIRMWARE.SET_FMT_RUNNING) && decide (s.rf pgFirmware R.FIRMWARE.SET_FMT_RUNNING ≤ fhSetFmt h)

/-- The first check that a header fails (R442). -/
def State.fwRefusal (s : State) (h : List Byte) : Option Nat := [1, 2, 3, 4, 5, 6, 7].find? fun c => !s.fwCheck h c

/-- `IMG_VERSION` as events and registers give it: 0 for a header that fails check 1, 2, 4 or 5 (R461). -/
def State.fwVersion (s : State) (h : List Byte) : Nat := if [1, 2, 4, 5].all (s.fwCheck h) then fhVersion h else 0

/-! Slots and boot control. -/

/-- A slot. -/
def State.fwSlot (s : State) (k : Nat) : FwSlot := nth s.fw.slots k ⟨[], [], false⟩

/-- A slot replaced. -/
def State.setSlotFw (s : State) (k : Nat) (v : FwSlot) : State := { s with fw := { s.fw with slots := setNth s.fw.slots k v } }

/-- The version of a slot that holds a header; a header reaches flash only when it passes its checks (R442). -/
def State.slotVersion (s : State) (k : Nat) : Nat := if (s.fwSlot k).header.isEmpty then 0 else fhVersion (s.fwSlot k).header

/-- Boot control in force: the copy of the higher generation (R440). -/
def State.bootCtl (s : State) : BootCopy :=
  s.fw.boot.foldl (fun a b => if a.gen < b.gen then b else a) (s.fw.boot.headD ⟨0, 0, none, false⟩)

/-- Boot control written: the older copy takes the next generation (R440). -/
def State.writeBoot (s : State) (active : Nat) (pend : Option Nat) (trial : Bool) : State :=
  let n : BootCopy := ⟨s.bootCtl.gen + 1, active, pend, trial⟩
  { s with fw := { s.fw with boot := s.fw.boot.map fun b => if b.gen == s.bootCtl.gen then b else n } }

/-- `SLOT_STATE` of a slot: 0 empty, 1 valid, 2 staged, 3 invalid, 4 trial. -/
def State.slotState (s : State) (k : Nat) : Nat := s.rf pgFirmware (if k == 0 then R.FIRMWARE.SLOT_STATE_S0 else R.FIRMWARE.SLOT_STATE_S1)

/-- `SLOT_STATE` and the version of a slot shown: 0 when it is empty or invalid (Table 18-7). -/
def State.showSlot (s : State) (k st : Nat) : State :=
  (s.wf pgFirmware (if k == 0 then R.FIRMWARE.SLOT_STATE_S0 else R.FIRMWARE.SLOT_STATE_S1) st).wf pgFirmware
    (if k == 0 then R.FIRMWARE.SLOT0_VERSION else R.FIRMWARE.SLOT1_VERSION) (if st == 0 || st == 3 then 0 else s.slotVersion k)

/-- `FW_SLOT` shown from boot control. -/
def State.showBoot (s : State) : State :=
  let c := s.bootCtl
  s.wfs pgFirmware [(R.FIRMWARE.FW_SLOT_PENDING, match c.pending with | some k => k + 1 | none => 0), (R.FIRMWARE.FW_SLOT_ACTIVE, c.active)]

/-- A trial runs. -/
def State.onTrial (s : State) : Bool := s.rf pgFirmware R.FIRMWARE.FW_SLOT_TRIAL == 1

/-- The slot that runs. -/
def State.runningSlot (s : State) : Nat := s.rf pgFirmware R.FIRMWARE.FW_SLOT_RUNNING

/-- An operation ends: `LAST` and `REASON`. -/
def State.fwEnds (s : State) (last reason : Nat) : State :=
  s.wfs pgFirmware [(R.FIRMWARE.FW_STATUS_STATE, 0), (R.FIRMWARE.FW_STATUS_LAST, last), (R.FIRMWARE.FW_STATUS_REASON, reason)]

/-! Staging (R443). -/

/-- An image is refused by its header (R442, R486). -/
def State.refuseImage (s : State) (h : List Byte) (code : Nat) : State :=
  let s := s.logFirm pgFirmware 0x0E01 [code, s.fwVersion h]
  (((s.inc pgFirmware R.FIRMWARE.REFUSED).err pgFirmware 0x0E01 code).cause pgFirmware 1).fwEnds stHeader code

/-- Where a staged image lies: address and bytes. -/
def State.stageRange (s : State) : Nat × Nat :=
  (s.rf64 pgFirmware R.FIRMWARE.STAGE_ADDR_LO_ADDR R.FIRMWARE.STAGE_ADDR_HI_ADDR, s.rf pgFirmware R.FIRMWARE.STAGE_LEN)

/-- The slot that is neither active nor pending is erased, and takes a body or the part of one that could be read (R443 steps 3 and 4). -/
def State.eraseSlot (s : State) (body : List Byte) : State :=
  let k := 1 - s.bootCtl.active
  let s := s.setSlotFw k ⟨[], body, false⟩
  ({ s with fw := { s.fw with stageTo := k } }).showSlot k (if body.isEmpty then 0 else 3)

/-- The first block of the image that cannot be read: it lies at no installed address, or its seal fails. -/
def State.badStage (s : State) (a len : Nat) : Option Nat :=
  (List.range ((len + 4095) / 4096)).find? fun i => !rangeOk (a + 4096 * i) 4096 || !s.blockOk (a / 4096 + i)

/-- An image that cannot be read from a block on: a fault ends ABORTED (R304), a failed seal SEAL_MISMATCH. -/
def State.stageUnread (s : State) (a : Nat) : State :=
  if rangeOk a 4096 then ((s.check [a / 4096] 0x0E03).fwEnds stSeal 0).release mStage 0
  else (((s.accessFault 0 a 0).fwEnds stAborted 0)).release mStage 0

/-- The body is read, and written to the slot; one that cannot be read leaves the slot without a header (R443 steps 3 to 5). -/
def State.stageBody (s : State) (h : List Byte) (a len : Nat) : State :=
  let n := (s.badStage a len).getD ((len + 4095) / 4096)
  let s := (s.cacheUse a (Nat.min len (4096 * n))).check ((List.range n).map (a / 4096 + ·)) 0x0E03
  let s := s.eraseSlot (s.bytes a (Nat.min len (4096 * n)))
  match s.badStage a len with
  | some i => s.stageUnread (a + 4096 * i)
  | none => ({ s with fw := { s.fw with staging := some h } }).wf pgFirmware R.FIRMWARE.FW_STATUS_STATE 3

/-- STAGE (R443): the header is read and checked before the body. -/
def State.stage (s : State) : State :=
  let a := s.stageRange.1
  if s.onTrial || s.fw.staging.isSome || s.bootCtl.pending.isSome then s.fwEnds stAborted 8
  else
    let g := s.askGrant mStage [] 0
    if !g.2 then g.1.fwEnds stMaintBusy 0
    else if (g.1.badStage a 4096).isSome then g.1.stageUnread a
    else
      let s := (g.1.cacheUse a 4096).check [a / 4096] 0x0E03
      let h := s.bytes a 224
      match s.fwRefusal h with
      | some c => (s.refuseImage h c).release mStage 0
      | none => s.stageBody h (a + 4096) (fhBodyLen h)

/-- STAGE (R443). -/
def execStage (view : View) (s : State) : Host.Outcome State Fault Refusal :=
  .next (s.onWrite view pgFirmware false fun s => s.whenFree [s.stageRange] State.stage)

/-- STAGE_COMPLETE (R443 steps 5 to 7): `flashGood` says that the body read back as it was written. -/
def execStageComplete (flashGood : Bool) (s : State) : Host.Outcome State Fault Refusal :=
  .next (match s.fw.staging with
    | none => s
    | some h =>
      let k := s.fw.stageTo
      let body := (s.fwSlot k).body
      let s := { s with fw := { s.fw with staging := none } }
      let s := if flashGood && sm3 body == fhDigest h then
          (((s.logFirm pgFirmware 0x0E02 [k, fhVersion h]).setSlotFw k ⟨h, body, Config.gcmGood h body⟩).showSlot k 2).fwEnds stDone 0
        else ((s.logFirm pgFirmware 0x0E03 [k, 0]).showSlot k 3).fwEnds stSeal 0
      (s.cause pgFirmware 0).release mStage 0)

/-! Activation, cancellation, confirmation (R444, R446, R447). -/

/-- The staged slot. -/
def State.stagedSlot (s : State) : Option Nat := [0, 1].find? fun k => s.slotState k == 2

/-- ACTIVATE (R444): nothing to activate changes nothing. -/
def execActivate (view : View) (s : State) : Host.Outcome State Fault Refusal :=
  .next (s.onWrite view pgFirmware false fun s =>
    match s.stagedSlot with
    | some k => ((s.logFirm pgFirmware 0x0E04 [k, fhVersion (s.fwSlot k).header]).writeBoot s.bootCtl.active (some k) false).showBoot
    | none => s)

/-- CANCEL (R444): a pending slot that has not booted. -/
def execCancel (view : View) (s : State) : Host.Outcome State Fault Refusal :=
  .next (s.onWrite view pgFirmware false fun s =>
    if s.bootCtl.pending.isSome && !s.bootCtl.trial then (s.writeBoot s.bootCtl.active none false).showBoot else s)

/-- The fuse count advances to a value that is higher (R447), and is shown. -/
def State.raiseFuses (s : State) (n : Nat) : State :=
  let n := Nat.max s.fw.fuses n
  ({ s with fw := { s.fw with fuses := n } }).wf pgSecurity R.SECURITY.SEC_STATUS_ARB n

/-- A trial is confirmed (R447). -/
def State.confirm (s : State) : State :=
  let k := s.runningSlot
  let h := (s.fwSlot k).header
  let s := s.writeBoot k none false
  let s := s.raiseFuses (fhArb h)
  let s := { s with fw := { s.fw with settings := s.fw.settings.filter fun r => r.fmt == fhSetFmt h } }
  let s := s.logFirm pgFirmware 0x0E05 [k, fhVersion h, s.fw.fuses]
  let s := (s.wfs pgFirmware [(R.FIRMWARE.FW_SLOT_TRIAL, 0), (R.FIRMWARE.TRIAL_LEFT, 0), (R.FIRMWARE.SET_FMT_OTHER, 0)]).showBoot
  ((s.showSlot k 1).cause pgFirmware 2).fwEnds stDone 0

/-- CONFIRM (R447). -/
def execConfirm (view : View) (s : State) : Host.Outcome State Fault Refusal :=
  .next (s.onWrite view pgFirmware false fun s =>
    if !s.onTrial then s.fwEnds stAborted 8
    else
      let g := s.askGrant mStage [] 0
      if g.2 then (g.1.confirm).release mStage 0 else g.1.fwEnds stMaintBusy 0)

/-- TRIAL_EXPIRED (R446): once in a trial. -/
def execTrialExpired (s : State) : Host.Outcome State Fault Refusal :=
  .next (if s.onTrial && s.rf pgFirmware R.FIRMWARE.TRIAL_LEFT != 0 then
      let k := s.runningSlot
      (((s.wf pgFirmware R.FIRMWARE.TRIAL_LEFT 0).log pgFirmware 0x0E07 [k, s.slotVersion k]).cause pgFirmware 3)
    else s)

/-! Attestation (R451). -/

/-- A digest as the CALIB page shows it. -/
def State.calDigestBytes (s : State) : List Byte := (List.range 8).flatMap fun i => leBytes 4 (s.rf pgCalib R.CALIB.CAL_DIGEST i)

/-- Settings records in order of their keys. -/
def insertSetting (r : Setting) (l : List Setting) : List Setting :=
  match l with
  | [] => [r]
  | x :: t => if r.key ≤ x.key then r :: x :: t else x :: insertSetting r t

/-- The measurements `M_FW`, `M_SET`, `M_CAL`, `M_ID` (Table 18-5). -/
def State.measurement (s : State) (i : Nat) : List Byte :=
  match i with
  | 1 => sm3 (s.fwSlot s.runningSlot).header
  | 2 => sm3 (((s.fw.settings.filter fun r => r.fmt == s.rf pgFirmware R.FIRMWARE.SET_FMT_RUNNING).foldr insertSetting []).flatMap (·.value))
  | 3 => s.calDigestBytes
  | _ => (List.range 32).map Config.idDigest

/-- Bytes 0 to 199 of a report (Table 18-5). -/
def State.reportBody (s : State) : List Byte :=
  [0x4E, 0x4B, 0x41, 0x54] ++ leBytes 1 1 ++ leBytes 1 (s.runningSlot + 2 * b2n s.onTrial) ++ leBytes 2 0x2100 ++
    leBytes 8 (s.rf64 pgDevice R.DEVICE.SERIAL_LO R.DEVICE.SERIAL_HI) ++ leBytes 4 (s.slotVersion s.runningSlot) ++ leBytes 2 s.fw.fuses ++
    leBytes 1 (s.rf pgDevice R.DEVICE.HOST_LEVEL_MAJOR) ++ leBytes 1 (s.rf pgDevice R.DEVICE.HOST_LEVEL_MINOR) ++
    leBytes 4 (s.rf pgFirmware R.FIRMWARE.BOOT_COUNT) ++ List.replicate 4 0 ++ s.sec.nonce ++
    s.measurement 1 ++ s.measurement 2 ++ s.measurement 3 ++ s.measurement 4 ++ leBytes 8 s.now

/-- ATT_START (R451): ignored while a report is being formed. -/
def execAttStart (view : View) (s : State) : Host.Outcome State Fault Refusal :=
  .next (s.onWrite view pgSecurity false fun s =>
    if s.sec.forming then s
    else
      let n := (List.range 8).flatMap fun i => leBytes 4 (s.rf pgSecurity R.SECURITY.NONCE i)
      ({ s with sec := { s.sec with forming := true, nonce := n, report := List.replicate 264 0 } }).wf pgSecurity R.SECURITY.ATT_CMD_BUSY 1)

/-- Where a report is written; 0 for the window only. -/
def State.attAddr (s : State) : Nat := s.rf64 pgSecurity R.SECURITY.ATT_ADDR_LO_ADDR R.SECURITY.ATT_ADDR_HI_ADDR

/-- A report is signed and shown. -/
def State.endReport (s : State) : State :=
  let b := s.reportBody
  let sig := (List.range 64).map (Config.sm2Sign s.fresh (sm3 b))
  let a := s.attAddr
  let s := { s with fresh := s.fresh + 1, sec := { s.sec with forming := false, report := b ++ sig } }
  let s := (s.inc pgSecurity R.SECURITY.SIGN_COUNT).wf pgSecurity R.SECURITY.ATT_CMD_BUSY 0
  let s := if a == 0 then s
    else match faultIn a 264 with
      | some x => s.accessFault 0 x 0
      | none => (s.merge a (b ++ sig) 0x0E08).1
  (s.logFirm pgSecurity 0x0E08 [fieldAt s.sec.nonce 0 8]).cause pgSecurity 0

/-- REPORT_DONE (R451). -/
def execReportDone (s : State) : Host.Outcome State Fault Refusal :=
  .next (if s.sec.forming then s.whenFree (if s.attAddr == 0 then [] else [(s.attAddr, 264)]) State.endReport else s)

/-! The boot ROM (R445). -/

/-- What the boot ROM chose: the slot, whether it runs as a trial, and its fall-backs: failed slot, its version, reason. -/
structure Boot where
  slot  : Nat
  trial : Bool
  fell  : List (Nat × Nat × Nat)
deriving DecidableEq, Repr

/-- The boot of the active slot, or of the other one when the active one fails. -/
def State.bootActive (s : State) (fell : List (Nat × Nat × Nat)) : Option Boot :=
  let a := s.bootCtl.active
  if (s.fwSlot a).good then some ⟨a, false, fell⟩
  else if (s.fwSlot (1 - a)).good then some ⟨1 - a, false, fell ++ [(a, s.slotVersion a, 3)]⟩ else none

/-- The choice of R445, with boot control as it leaves it. -/
def State.chooseBoot (s : State) : State × Option Boot :=
  let c := s.bootCtl
  match c.pending, c.trial with
  | none, _ => (s, s.bootActive [])
  | some k, false =>
    let t := s.writeBoot c.active (some k) true
    if (s.fwSlot k).good then (t, some ⟨k, true, []⟩)
    else
      let u := s.writeBoot c.active none false
      (u, u.bootActive [(k, s.slotVersion k, 2)])
  | some k, true =>
    let u := s.writeBoot c.active none false
    (u, u.bootActive [(k, s.slotVersion k, 1)])

/-- The settings store at a start (R448): copies in the format of a trial image, or the erasure of the trial's records by a fall-back. -/
def State.bootSettings (s : State) (b : Boot) : State :=
  let f := fhSetFmt (s.fwSlot b.slot).header
  let force := fhSetFmt (s.fwSlot s.bootCtl.active).header
  let l := s.fw.settings
  let l := if b.trial && f != force && !l.any (fun r => r.fmt == f) then
      l ++ (l.filter fun r => r.fmt == force).map fun r => (Setting.mk r.key f (Config.convertSetting force f r.key r.value))
    else l.filter fun r => !b.fell.any fun x => x.2.2 != 3 && r.fmt != force && r.fmt == fhSetFmt (s.fwSlot x.1).header
  let s := { s with fw := { s.fw with settings := l } }
  s.wfs pgFirmware [(R.FIRMWARE.SET_FMT_RUNNING, f), (R.FIRMWARE.SET_FMT_OTHER, if b.trial && f != force then force else 0)]

/-- The states of the slots after a start. -/
def State.bootSlots (s : State) (b : Boot) : State :=
  [0, 1].foldl (fun u k =>
    let v := u.fwSlot k
    u.showSlot k (if v.header.isEmpty then (if v.body.isEmpty then 0 else 3) else if !v.good then 3
      else if b.slot == k then (if b.trial then 4 else 1)
      else if b.fell.any (fun f => f.1 == k) || s.slotState k == 2 then 2 else 1)) s

/-- The chosen image runs: FIRMWARE registers, fuses, settings. -/
def State.bootImage (s : State) (b : Boot) : State :=
  let h := (s.fwSlot b.slot).header
  let s := { s with fw := { s.fw with starts := s.fw.starts + 1, staging := none } }
  let s := s.raiseFuses (if b.trial then 0 else fhArb h)
  let s := s.wf pgSecurity R.SECURITY.SEC_STATUS_REVOKED s.fw.revoked
  let s := ((s.bootSettings b).bootSlots b).showBoot
  let s := s.wfs pgFirmware
    [(R.FIRMWARE.FW_SLOT_RUNNING, b.slot), (R.FIRMWARE.FW_SLOT_TRIAL, b2n b.trial), (R.FIRMWARE.BOOT_COUNT, s.fw.starts),
      (R.FIRMWARE.TRIAL_LEFT, if b.trial then s.rf pgFirmware R.FIRMWARE.TRIAL_MAX else 0)]
  let s := s.wf pgDevice R.DEVICE.FW_VERSION (fhVersion h)
  if b.fell.isEmpty then s else (s.incBy pgFirmware R.FIRMWARE.FALLBACKS b.fell.length).cause pgFirmware 4

/-! The record at a start (R455). -/

/-- The newest committed entry. -/
def State.newestEntry (s : State) : Option Entry :=
  s.entries.foldl (fun a e => match a with | some x => if x.seq < e.seq then some e else a | none => some e) none

/-- Write counts are raised after a loss of power (R140), with the warnings that the new counts bring (R141). -/
def State.raiseLost (s : State) : State :=
  (List.range 8).foldl (fun u n =>
    let v := (List.range 68).foldl (fun w p =>
      let pg := pgPanel n p
      (w.wf64 pg R.PANEL.WRITES_LO R.PANEL.WRITES_HI ((w.panel pg).lastWear + 65536)).warnWear pg) u
    v.log (pgArrayDie n) 0x011B [n, 68]) s

/-- Entries that blocks logged before the firmware ran follow the start entry with the next numbers (DEDUCED, log 170). -/
def State.queueEarly (s : State) (early : List Entry) : State :=
  let n := s.record.nextSeq
  let l := early.zipIdx.map fun p => { p.1 with seq := n + p.2 }
  { s with record := { s.record with queue := s.record.queue ++ l, nextSeq := n + early.length } }

/-- The record's entries of a start: start, loss of power, fall-back, reset cause (R445, R455, R484). -/
def State.startRecord (s : State) (b : Boot) : State :=
  let last := s.newestEntry
  let clean := match last with | some e => e.code == 0x0E11 | none => false
  let early := s.record.queue
  let s := { s with record := { s.record with queue := [], nextSeq := (match last with | some e => e.seq + 1 | none => 1), dumping := none } }
  let s := s.showRecord
  let s := s.log pgRecord 0x0E10 [s.fw.starts, b.slot, s.slotVersion b.slot]
  let s := s.queueEarly early
  let s := s.wf pgRecord R.RECORD.LAST_STOP_CLEAN (b2n clean)
  let s := if clean then s else ((s.log pgRecord 0x0E12 [match last with | some e => e.seq | none => 0]).cause pgRecord 1).raiseLost
  let s := b.fell.foldl (fun u f => u.logAs true pgFirmware 0x0E06 [f.1, f.2.1, f.2.2]) s
  s.log pgPower 0x0F01 [s.rf pgPower R.POWER.RESET_CAUSE_CAUSE, s.fw.starts]

end Sys2Proof.Machine
end

