-- ==== Sys2Proof/Machine/Monitor.lean ====
section
/-! DEFINITION. Calibration and the monitor converters (chapter 17): conversions, sequences, urgent requests, pair checks, first
sweeps, referral of array dies; the telemetry of R465 that rests on the readings. -/

namespace Sys2Proof.Machine

/-! Converters. -/

/-- A converter after reset; r is taken as 2,000 before the first trusted REFIN code (R427). -/
def Mon.idle : Mon := ⟨[], 0, false, false, false, false, [], false, 2000, 0, [0, 0], false⟩

/-- A converter. -/
def State.mon (s : State) (mc : Nat) : Mon := aget s.mons mc Mon.idle

/-- A converter replaced, and shown by its page. -/
def State.setMon (s : State) (mc : Nat) (m : Mon) : State :=
  let p := pgMonitor mc
  let st := if !m.running then 0 else if m.preempt then 2 else if m.sweep then 3 else 1
  ({ s with mons := aput s.mons mc m }).wfs p
    [(R.MONITOR.SEQ_STATUS_STATE, st), (R.MONITOR.SEQ_STATUS_ENTRY, m.entry), (R.MONITOR.URG_STATUS_BUSY, b2n m.urgentOn),
      (R.MONITOR.URG_STATUS_QUEUED, m.urgent.length - b2n m.urgentOn)]

/-- A pair after reset. -/
def Pair.idle : Pair := ⟨false, false, false, false, false, 0, none⟩

/-- A pair. -/
def State.pair (s : State) (p : Nat) : Pair := aget s.pairs p Pair.idle

/-- A pair replaced. -/
def State.setPair (s : State) (p : Nat) (v : Pair) : State := { s with pairs := aput s.pairs p v }

/-- `PAIR_STATUS.TRUSTED` of a converter's pair. -/
def State.trusted (s : State) (mc : Nat) : Bool := s.rf (pgMonitor mc) R.MONITOR.PAIR_STATUS_TRUSTED == 1

/-! Results (R427, R430). -/

/-- The result value of a code: a free value where the manual's sum has no value in 16 bits. -/
def State.monValue (s : State) (mc ch code : Nat) : Nat × State :=
  let r := (s.mon mc).refCode
  let a := d32 (Config.monitorA mc ch).toNat
  let b := d32 (Config.monitorB mc ch).toNat
  let i := (roundInt .rne (2 ^ 60) (2 ^ 60) (a.q * (code * 1200 / (r : Rat)) + b.q)).1
  if r == 0 || !a.isFin || !b.isFin || decide (i < -32768) || decide (65535 < i) then
    let d := s.draw 0x427
    (d.1.toNat % 65536, d.2)
  else (ubits 16 i, s)

/-! Telemetry (R465, Table 19-8). -/

/-- A trusted reading of a channel that `RESULT` shows, if any. -/
def State.reading (s : State) (mc ch : Nat) : Option Nat :=
  let p := pgMonitor mc
  if s.rf p R.MONITOR.RESULT_VALID ch == 1 && s.rf p R.MONITOR.RESULT_UNTRUSTED ch == 0 then some (s.rf p R.MONITOR.RESULT_VALUE ch) else none

/-- A crossing (R465): its cause, and event 0x0F02; `ERR_LAST.DETAIL` shows the channel (R473), and no error is counted (R486, log 135). -/
def State.crossing (s : State) (ch b reading : Nat) : State := ((s.errDetail pgPower ch).log pgPower 0x0F02 [b, reading]).cause pgPower b

/-- A trusted reading crosses into a region that the last one did not lie in. -/
def crosses (bad : Nat → Bool) (old : Option Nat) (new : Nat) : Bool := bad new && !(old.any bad)

/-- A rail reading more than 5 % from nominal. -/
def railBad (ch v : Nat) : Bool := decide (105 * Config.railNominal ch < 100 * v) || decide (100 * v < 95 * Config.railNominal ch)

/-- `INPUT_W` and the energy at a reading of the input current: the manual does not say how they are formed from samples (free
values, log 30). -/
def State.powerSample (s : State) : State :=
  let d := s.draw 0x465
  let w := d.1.toNat % 65536
  let e := d.2.draw 0x466
  let old := s.rf pgPower R.POWER.INPUT_W_AVG
  let lim := s.rf pgPower R.POWER.ALERT_W
  let s := (e.2.wf pgPower R.POWER.INPUT_W_AVG w).wf pgPower R.POWER.INPUT_W_PEAK (Nat.max w (s.rf pgPower R.POWER.INPUT_W_PEAK))
  let s := s.inc64 pgPower R.POWER.ENERGY_LO R.POWER.ENERGY_HI e.1.toNat
  if lim < w && old ≤ lim then s.crossing 15 2 w else s

/-- What a new reading of a channel means for the POWER page. -/
def State.telemetry (s : State) (mc ch : Nat) (old : Option Nat) (v : Nat) : State :=
  if ch == 18 && mc == 0 then
    let s := s.wf pgPower R.POWER.INPUT_MV v
    let s := if crosses (fun x => decide (x < s.rf pgPower R.POWER.ALERT_LOW_MV)) old v then s.crossing 18 0 v else s
    if crosses (fun x => decide (s.rf pgPower R.POWER.ALERT_HIGH_MV < x)) old v then s.crossing 18 1 v else s
  else if ch == 15 then
    (s.wf pgPower R.POWER.INPUT_CUR (((List.range 4).map fun m => s.rf (pgMonitor m) R.MONITOR.RESULT_VALUE 15).sum)).powerSample
  else if 9 ≤ ch && ch ≤ 14 then (if crosses (railBad ch) old v then s.crossing ch 3 v else s) else s

/-- A conversion writes `RESULT` and `RESULT_TEMPO` of its channel; a trusted result reaches its consumers (R108, R427, R434,
R465). -/
def State.writeResult (s : State) (mc ch code : Nat) : State :=
  let p := pgMonitor mc
  let t := s.trusted mc
  let old := s.reading mc ch
  let s := if t && ch == 16 then s.setMon mc { s.mon mc with refCode := code } else s
  let v := s.monValue mc ch code
  let s := (v.2.wf p R.MONITOR.RESULT_VALID 1 ch).wf p R.MONITOR.RESULT_UNTRUSTED (b2n !t) ch
  let s := (s.wf p R.MONITOR.RESULT_CODE code ch).wf p R.MONITOR.RESULT_VALUE v.1 ch
  let s := s.wf p R.MONITOR.RESULT_TEMPO s.now ch
  if !t then s
  else
    let s := s.telemetry mc ch old v.1
    if ch < 2 && s.dieReady (2 * mc + ch) then s.newTemperature (2 * mc + ch) (sint 16 v.1) else s

/-- The result code of a sum of 2^a samples (R430). -/
def resultCode (sum a : Nat) : Nat :=
  let x := Nat.min sum (4095 * 2 ^ a)
  if a == 0 then x else (x + 2 ^ (a - 1)) / 2 ^ a

/-! Sequences (R431). -/

/-- The entries as `SEQ_LEN` and `SEQ_ENTRY` give them; averaging beyond 8 takes 8. -/
def State.seqEntries (s : State) (mc : Nat) : List (Nat × Nat) :=
  let p := pgMonitor mc
  (List.range (s.rf p R.MONITOR.SEQ_LEN_LEN)).map fun i =>
    (s.rf p R.MONITOR.SEQ_ENTRY_CHANNEL i, Nat.min 8 (s.rf p R.MONITOR.SEQ_ENTRY_AVG i))

/-- A sequence starts at its first entry. -/
def State.beginSeq (s : State) (mc : Nat) : State :=
  s.setMon mc { s.mon mc with entries := s.seqEntries mc, entry := 0, running := true, preempt := false, discard := false, sweep := false }

/-- A start of the sequence: ignored while one runs or is pre-empted (Table 17-5). -/
def State.seqStart (s : State) (mc : Nat) : State :=
  if (s.mon mc).running then s.inc (pgMonitor mc) R.MONITOR.OVERRUNS else s.beginSeq mc

/-- SEQ_START (R431). -/
def execSeqStart (view : View) (mc : McNo) (s : State) : Host.Outcome State Fault Refusal :=
  .next (s.onWrite view (pgMonitor mc) true fun s => s.seqStart mc)

/-- The sequence stops: at once, or once the queue empties while it is pre-empted. -/
def State.seqStop (s : State) (mc : Nat) : State :=
  let m := s.mon mc
  if m.sweep then s else if m.preempt then s.setMon mc { m with discard := true } else s.setMon mc { m with running := false, entry := 0 }

/-- SEQ_STOP (R431, Table 17-5). -/
def execSeqStop (view : View) (mc : McNo) (s : State) : Host.Outcome State Fault Refusal :=
  .next (s.onWrite view (pgMonitor mc) true fun s => s.seqStop mc)

/-- The channels of the first sweep with their averaging (R435). -/
def sweepEntries : List (Nat × Nat) :=
  [(16, 8), (2, 8), (3, 8)] ++ ([0, 1, 4, 5, 6, 7, 8, 9, 10, 11, 12, 13, 14, 15, 17, 18, 19].map fun c => (c, 4))

/-- A first sweep starts. -/
def State.beginSweep (s : State) (mc : Nat) : State :=
  s.setMon mc { s.mon mc with entries := sweepEntries, entry := 0, running := true, preempt := false, discard := false, sweep := true, swept := false }

/-- The running sequence of a converter is pre-empted, and its entry discarded (R432). -/
def State.preempt (s : State) (mc : Nat) : State :=
  let m := s.mon mc
  if m.running && !m.preempt then (s.setMon mc { m with preempt := true }).inc (pgMonitor mc) R.MONITOR.PREEMPTS else s

/-- A pre-empted sequence resumes when nothing holds it, or is idle after a STOP. -/
def State.resume (s : State) (mc : Nat) : State :=
  let m := s.mon mc
  if m.preempt && m.urgent.isEmpty && !(s.pair (mc / 2)).running then
    s.setMon mc (if m.discard then { m with preempt := false, discard := false, running := false, entry := 0 } else { m with preempt := false })
  else s

/-! Pair checks (R433, R434). -/

/-- The channel of a pair's check. -/
def State.checkChannel (s : State) (p : Nat) : Nat := 16 + s.rf (pgMonitor (2 * p)) R.MONITOR.PAIR_CTL_CHAN

/-- A pair check that waits starts when neither converter runs an urgent conversion. -/
def State.tryCheck (s : State) (p : Nat) : State :=
  let v := s.pair p
  if v.due && !(s.mon (2 * p)).urgentOn && !(s.mon (2 * p + 1)).urgentOn then
    ((s.setPair p { v with due := false, running := true }).preempt (2 * p)).preempt (2 * p + 1)
  else s

/-- `PAIR_STATUS.TRUSTED` of both converters. -/
def State.setTrusted (s : State) (p : Nat) (t : Bool) : State :=
  (s.wf (pgMonitor (2 * p)) R.MONITOR.PAIR_STATUS_TRUSTED (b2n t)).wf (pgMonitor (2 * p + 1)) R.MONITOR.PAIR_STATUS_TRUSTED (b2n t)

/-- A cause of both converters' pages. -/
def State.pairCause (s : State) (p b : Nat) : State := (s.cause (pgMonitor (2 * p)) b).cause (pgMonitor (2 * p + 1)) b

/-- Both converters have completed their first sweep. -/
def State.bothSwept (s : State) (p : Nat) : Bool := (s.mon (2 * p)).swept && (s.mon (2 * p + 1)).swept

/-! Start-up (R425, R428, R435). -/

/-- The records of an array die. -/
def State.dieCal (s : State) (n : Nat) : DieCal := aget s.dieCals n ⟨false, false, false, 0x3F800000⟩

/-- `CAL_STATUS.DIES` of a die. -/
def State.setDies (s : State) (n v : Nat) : State :=
  s.wf pgCalib R.CALIB.CAL_STATUS_DIES (s.rf pgCalib R.CALIB.CAL_STATUS_DIES % 4 ^ n + v * 4 ^ n +
    s.rf pgCalib R.CALIB.CAL_STATUS_DIES / 4 ^ (n + 1) * 4 ^ (n + 1))

/-- `DEV_STATE` leaves 0x2 once every array die is ready or refused (R435). -/
def State.calDone (s : State) : State :=
  if (List.range 8).all fun n => (s.dieCal n).ready || (s.dieCal n).refused then
    let s := if s.rf pgCalib R.CALIB.CAL_STATUS_STATE == 1 then s.wf pgCalib R.CALIB.CAL_STATUS_STATE 2 else s
    let s := s.cause pgCalib 0
    if s.rf pgDevice R.DEVICE.DEV_STATE_STATE == 2 then s.setDevState 3 else s
  else s

/-- An array die is refused (R428, R435): reason 1 ratio outside the window, 2 no trusted sweep. It is no error of R486; `ERR_LAST.DETAIL`
shows the die (R437, log 107). -/
def State.refuseDie (s : State) (n reason k : Nat) : State :=
  let c := s.dieCal n
  if c.ready || c.refused then s
  else
    let s := ({ s with dieCals := aput s.dieCals n { c with refused := true } }).setDies n (reason + 1)
    (((s.errDetail pgCalib n).log pgCalib 0x0C03 [n, reason, k]).cause pgCalib 1).calDone

/-- A failed check in start-up (R435 step 4): another sweep after 10 ms, or no more after the hundredth. -/
def State.sweepFailed (s : State) (p : Nat) : State :=
  let v := s.pair p
  if v.passed || !s.bothSwept p then s
  else
    let s := (s.setMon (2 * p) { s.mon (2 * p) with swept := false }).setMon (2 * p + 1) { s.mon (2 * p + 1) with swept := false }
    if v.sweepBad + 1 < 100 then s.setPair p { v with sweepBad := v.sweepBad + 1, retryAt := some (s.now + 100000) }
    else
      let s := s.setPair p { v with sweepBad := v.sweepBad + 1, retryAt := none }
      let s := (List.range 4).foldl (fun u i => u.refuseDie (4 * p + i) 2 0) s
      (s.beginSeq (2 * p)).beginSeq (2 * p + 1)

/-- A check of a pair fails (R434). -/
def State.checkFails (s : State) (p : Nat) (detail : List Nat) : State :=
  let was := s.trusted (2 * p)
  let s := s.setTrusted p false
  let s := (s.inc (pgMonitor (2 * p)) R.MONITOR.MISMATCHES).inc (pgMonitor (2 * p + 1)) R.MONITOR.MISMATCHES
  let s := s.setPair p { s.pair p with failed := true }
  let s := if !was then s else
    (List.range 4).foldl (fun u i =>
      let n := 4 * p + i
      if u.dieReady n then u.holdTables n (sint 16 (u.rf (pgMonitor (n / 2)) R.MONITOR.RESULT_VALUE (n % 2))) else u)
      ((s.pairCause p 2).log (pgMonitor (2 * p)) 0x0C05 (p :: detail))
  s.sweepFailed p

/-- A check of a pair passes: trusted again, or for the first time. -/
def State.checkPasses (s : State) (p a b : Nat) : State :=
  let v := s.pair p
  let s := s.setTrusted p true
  let s := if v.failed then (s.pairCause p 3).log (pgMonitor (2 * p)) 0x0C06 [p, a, b] else s
  let s := s.setPair p { s.pair p with failed := false }
  if v.passed || !s.bothSwept p then s
  else ((s.setPair p { s.pair p with passed := true }).beginSeq (2 * p)).beginSeq (2 * p + 1)

/-- A converter takes part in checks: its page enabled and not resetting (R433). -/
def State.canCheck (s : State) (mc : Nat) : Bool :=
  let c := s.hdr (pgMonitor mc) oPAGE_CTL
  bit c 0 && !bit c 31

/-- A check falls due (R433, Table 17-5). -/
def State.checkDue (s : State) (p : Nat) : State :=
  let v := s.pair p
  if v.due || v.running then s
  else if !s.canCheck (2 * p) || !s.canCheck (2 * p + 1) then s.checkFails p [if s.canCheck (2 * p) then 2 * p + 1 else 2 * p]
  else if v.spoiled then (s.setPair p { v with spoiled := false }).checkFails p [0, 0]
  else (s.setPair p { v with due := true }).tryCheck p

/-- PAIR_CHECK_DUE (R433): at a tempo count that is a multiple of `PAIR_PERIOD`. -/
def execPairCheckDue (p : Fin 2) (s : State) : Host.Outcome State Fault Refusal :=
  .next (if s.now % s.rf (pgMonitor (2 * p)) R.MONITOR.PAIR_PERIOD == 0 then s.checkDue p else s)

/-- The end of a check: the check applies first, then both readings are written (R434, Table 17-5). -/
def State.endCheck (s : State) (p sumEven sumOdd : Nat) : State :=
  let pg := pgMonitor (2 * p)
  let avg := s.rf pg R.MONITOR.PAIR_CTL_AVG
  let ch := s.checkChannel p
  let a := resultCode sumEven avg
  let b := resultCode sumOdd avg
  let s := s.setPair p { s.pair p with running := false }
  let show_ (u : State) (mc : Nat) : State := (u.wf (pgMonitor mc) R.MONITOR.PAIR_STATUS_CODE_EVEN a).wf (pgMonitor mc) R.MONITOR.PAIR_STATUS_CODE_ODD b
  let s := show_ (show_ s (2 * p)) (2 * p + 1)
  let s := if (a - b) + (b - a) ≤ s.rf pg R.MONITOR.PAIR_CTL_WIN then s.checkPasses p a b else s.checkFails p [a, b]
  let s := (s.writeResult (2 * p) ch a).writeResult (2 * p + 1) ch b
  (s.resume (2 * p)).resume (2 * p + 1)

/-- PAIR_CHECK_DONE (R434). -/
def execPairCheckDone (p : Fin 2) (sumEven sumOdd : Nat) (s : State) : Host.Outcome State Fault Refusal :=
  .next (if (s.pair p).running then s.endCheck p sumEven sumOdd else s)

/-- FIRST_SWEEP_RETRY (R435 step 4). -/
def execFirstSweepRetry (p : Fin 2) (s : State) : Host.Outcome State Fault Refusal :=
  .next (match (s.pair p).retryAt with
    | some t =>
      if t ≤ s.now then ((s.setPair p { s.pair p with retryAt := none }).beginSweep (2 * p)).beginSweep (2 * p + 1) else s
    | none => s)

/-! Urgent conversions (R432). -/

/-- A request for an urgent conversion: queued, or refused with event 0x0C07. -/
def State.askUrgent (s : State) (mc ch avg : Nat) : State :=
  let m := s.mon mc
  let p := pgMonitor mc
  if 4 ≤ m.urgent.length - b2n m.urgentOn then
    (((s.inc p R.MONITOR.URG_REFUSED).err p 0x0C07 ch).log p 0x0C07 [mc, ch]).cause p 4
  else s.setMon mc { m with urgent := m.urgent ++ [(ch, avg)] }

/-- URGENT (R432): the written channel and averaging, clamped, are requested. -/
def execUrgent (view : View) (mc : McNo) (channel : BitVec 5) (avg : BitVec 4) (s : State) : Host.Outcome State Fault Refusal :=
  .next (s.onWrite view (pgMonitor mc) true fun s =>
    let p := pgMonitor mc
    let s := s.writeFlds view (p + R.MONITOR.URGENT_REQ.off) (BitVec.ofNat 32 (avg.toNat * 2 ^ 8 + channel.toNat)) [R.MONITOR.URGENT_AVG, R.MONITOR.URGENT_CHANNEL]
    s.askUrgent mc (s.rf p R.MONITOR.URGENT_CHANNEL) (s.rf p R.MONITOR.URGENT_AVG))

/-- URGENT_START (R432): the head of the queue starts, unless a pair check runs or goes first. -/
def execUrgentStart (mc : McNo) (s : State) : Host.Outcome State Fault Refusal :=
  .next (
    let m := s.mon mc
    let v := s.pair (mc / 2)
    if m.urgent.isEmpty || m.urgentOn || v.running || v.due then s
    else
      let t := s.preempt mc
      t.setMon mc { t.mon mc with urgentOn := true })

/-! Conversions (R430, R431). -/

/-- An urgent conversion ends. -/
def State.urgentDone (s : State) (mc sum : Nat) : State :=
  let m := s.mon mc
  let p := pgMonitor mc
  let q := m.urgent.headD (16, 0)
  let code := resultCode sum q.2
  let s := s.setMon mc { m with urgent := m.urgent.drop 1, urgentOn := false }
  let s := (s.writeResult mc q.1 code).wfs p [(R.MONITOR.URG_STATUS_VALID, 1), (R.MONITOR.URG_STATUS_CODE, code)]
  ((s.cause p 1).tryCheck (mc / 2)).resume mc

/-- A first sweep ends: event 0x0C04; the pair's check follows when both have swept (R435). -/
def State.endSweep (s : State) (mc : Nat) : State :=
  let m := s.mon mc
  let s := (s.setMon mc { m with running := false, sweep := false, swept := true, entry := 0 }).log (pgMonitor mc) 0x0C04 [mc, resultCode m.sumRef 8]
  if s.bothSwept (mc / 2) then s.checkDue (mc / 2) else s

/-- A run of the sequence ends (R431). -/
def State.endRun (s : State) (mc : Nat) : State :=
  let p := pgMonitor mc
  let s := (s.inc p R.MONITOR.SWEEPS).cause p 0
  if s.rf p R.MONITOR.SEQ_CTL_MODE == 1 then s.beginSeq mc else s.setMon mc { s.mon mc with running := false, entry := 0 }

/-- A conversion of the sequence or of the first sweep ends. -/
def State.entryDone (s : State) (mc sum : Nat) : State :=
  let m := s.mon mc
  let e := nth m.entries m.entry (16, 0)
  let x := Nat.min sum (4095 * 2 ^ e.2)
  let s := if !m.sweep then s
    else if e.1 == 16 then s.setMon mc { m with sumRef := x }
    else if e.1 == 2 || e.1 == 3 then s.setMon mc { m with sumInt := setNth m.sumInt (e.1 - 2) x } else s
  let s := s.writeResult mc e.1 (resultCode x e.2)
  if m.entry + 1 < m.entries.length then s.setMon mc { s.mon mc with entry := m.entry + 1 }
  else if m.sweep then s.endSweep mc else s.endRun mc

/-- MONITOR_CONVERSION_DONE (R430): of the urgent conversion that runs, else of the entry that runs. -/
def execMonitorConversionDone (mc : McNo) (sum : Nat) (s : State) : Host.Outcome State Fault Refusal :=
  .next (
    let m := s.mon mc
    if (s.pair (mc / 2)).running then s
    else if m.urgentOn then s.urgentDone mc sum
    else if m.running && !m.preempt then s.entryDone mc sum else s)

/-! Referral (R428, R435 step 5). -/

/-- k of a die, binary32. -/
def State.ratioOf (s : State) (n : Nat) : Nat :=
  let m := s.mon (n / 2)
  let rho := div32 (e32 (.of (nth m.sumInt (n % 2) 0 : Nat))) (e32 (.of (m.sumRef : Nat)))
  div32 rho (Config.factoryRatio n).toNat

/-- |k − 1| × 10^6 lies within `REF_WINDOW`; no number lies outside. -/
def State.ratioIn (s : State) (k : Nat) : Bool :=
  (d32 k).isFin && decide (rabs ((d32 k).q - 1) * ((1000000 : Nat) : Rat) ≤ (s.rf pgCalib R.CALIB.REF_WINDOW_PPM : Nat))

/-- The panels of a die take their first bank at a temperature. -/
def State.firstBanks (s : State) (n : Nat) (t : Int) : State :=
  (List.range 68).foldl (fun u p =>
    let pg := pgPanel n p
    (u.setPanel pg { u.panel pg with bankT := some t, pendingT := none }).showBank pg t) s

/-- A die controller refers its tables, and its panels report READY. -/
def State.referDie (s : State) (n : Nat) (t : Int) : State :=
  let k := s.ratioOf n
  let s := s.wf pgCalib R.CALIB.REF_RATIO k n
  if !s.ratioIn k then s.refuseDie n 1 k
  else
    let s := ({ s with dieCals := aput s.dieCals n { s.dieCal n with ready := true, k := k } }).setDies n 1
    ((s.firstBanks n t).log (pgArrayDie n) 0x0C02 [n, k]).calDone

/-- The trusted temperature of an array die's channel. -/
def State.dieTemp (s : State) (n : Nat) : Option Int := (s.reading (n / 2) (n % 2)).map (sint 16)

/-- ARRAY_DIE_REFERRAL (R428): records loaded, a first sweep with a passing check, a trusted temperature. After an engines-scope reset
k holds and only the bank is computed (R470). -/
def execArrayDieReferral (n : Die8) (s : State) : Host.Outcome State Fault Refusal :=
  .next (
    let c := s.dieCal n
    match s.dieTemp n with
    | some t => if c.loaded && !c.refused && !c.ready && (s.pair (n / 4)).passed then s.referDie n t else s
    | none => s)

/-! Resets and counts. -/

/-- A block reset of a MONITOR page (Table 17-5). -/
def State.resetMon (s : State) (mc : Nat) : State :=
  let m := s.mon mc
  let s := s.setMon mc { m with running := false, preempt := false, discard := false, sweep := false, urgent := [], urgentOn := false, entry := 0 }
  let s := (List.range 20).foldl (fun u ch => u.wf (pgMonitor mc) R.MONITOR.RESULT_VALID 0 ch) s
  s.setPair (mc / 2) { s.pair (mc / 2) with due := false, running := false, spoiled := true }

/-- The header and the digest of the calibration store are checked (R425), and each die controller loads its records. -/
def State.loadStore (s : State) : State :=
  let s := (List.range 8).foldl (fun u i => u.wf pgCalib R.CALIB.CAL_DIGEST (Config.calDigest i).toNat i) s
  if Config.storeFault == 0 then
    let s := s.wf pgCalib R.CALIB.CAL_STATUS_STATE 1
    { s with dieCals := (List.range 8).map fun n => (n, { s.dieCal n with loaded := true, refused := false, ready := false }) }
  else
    let s := (s.wf pgCalib R.CALIB.CAL_STATUS_STATE 3).log pgCalib 0x0C01 [Config.storeFault]
    let s := { s with dieCals := (List.range 8).map fun n => (n, { s.dieCal n with refused := true }) }
    s.cause pgCalib 1

/-- MONITOR_COUNT_CLEAR (R438). -/
def execMonitorCountClear (view : View) (mc : McNo) (s : State) : Host.Outcome State Fault Refusal :=
  .next (s.onWrite view (pgMonitor mc) false fun s => s.clearCounts .monitor (pgMonitor mc))

/-- What the CALIB page shows for `TBL_SEL` (R437): `TBL_DATA`, `SEL_COL`, `SEL_CONV`, `SEL_RCONV`. -/
def State.tableWord (s : State) (o : Nat) : Nat :=
  let n := 2 * s.rf pgCalib R.CALIB.TBL_SEL_QUAD + s.rf pgCalib R.CALIB.TBL_SEL_DIE
  let p := s.rf pgCalib R.CALIB.TBL_SEL_PANEL
  let a := s.rf pgCalib R.CALIB.TBL_SEL_ARRAY
  let c := s.dieCal n
  if !c.loaded then 0
  else if o == R.CALIB.TBL_DATA_G.off then
    let cv := s.rf pgCalib R.CALIB.TBL_SEL_CONV
    let l := s.rf pgCalib R.CALIB.TBL_SEL_LSB
    let set := s.rf pgCalib R.CALIB.TBL_SEL_SET % 3
    let g := (Config.gainField n p a cv l set).toNat
    (if c.ready then referredGain g c.k else g) * 2 ^ 16 + (Config.offsetField n p a cv l set).toNat
  else if o == R.CALIB.SEL_CONV.off then
    ((List.range 4).map fun i => (Config.unselectedConverter n p a i).toNat * 256 ^ i).sum
  else if o == R.CALIB.SEL_RCONV_R0.off then
    (Config.unselectedRowConverter n p a 1).toNat * 256 + (Config.unselectedRowConverter n p a 0).toNat
  else match R.CALIB.SEL_COL_LO.at? o with
    | some i => (Config.unselectedColumn n p a (2 * i + 1)).toNat * 2 ^ 16 + (Config.unselectedColumn n p a (2 * i)).toNat
    | none => 0

end Sys2Proof.Machine
end

