-- ==== Sys2Proof/Machine/Sched.lean ====
section
/-! DEFINITION. The graph scheduler's commands (chapter 11): rings, fetch, waits, steps, hems, repeats and replays. -/

namespace Sys2Proof.Machine

/-! Rings (R268, R269). -/

/-- The legal `TAIL` nearest to a written one while the queue is enabled (R45, R269); a tie takes the larger number. -/
def State.clampTail (s : State) (q v : Nat) : Nat :=
  let lo := s.head q
  let hi := (s.consumed q + s.ringSize q) % 2 ^ 32
  if idxGap lo v ≤ idxGap lo hi then v
  else
    let up := idxGap v lo
    let down := idxGap hi v
    if up < down then lo else if down < up then hi else Nat.max lo hi

/-- A write of `TAIL` (R269). -/
def State.writeTail (s : State) (view : View) (q : Nat) (w : Word) : State :=
  let off := pgQueue q + R.GRAPH_QUEUE.TAIL.off
  if s.queueOn q then
    let c := s.clampTail q w.toNat
    let t := s.setReg off (BitVec.ofNat 32 c)
    if c == w.toNat then t else t.noteClamp view off
  else s.setReg off w

/-- TAIL_WRITE (R269). -/
def execTailWrite (view : View) (q : QueueNo) (w : Word) (s : State) : Host.Outcome State Fault Refusal :=
  .next (s.onWrite view (pgQueue q) false fun s => s.writeTail view q w)

/-- `Q_CTL.EN` goes from 0 to 1 (R268); the first queue enabled in stage 0x3 makes `DEV_STATE` running graphs (R471). -/
def State.enableQueue (s : State) (q : Nat) : State :=
  if s.queueOn q then s
  else
    let p := pgQueue q
    let t := s.tail q
    let s := (((s.wf p R.GRAPH_QUEUE.Q_CTL_EN 1).wf p R.GRAPH_QUEUE.HEAD t).wf p R.GRAPH_QUEUE.CONSUMED t).wf p R.GRAPH_QUEUE.COMPLETED t
    let s := s.setQueue q { QueueSt.fresh with retained := t }
    if s.rf pgDevice R.DEVICE.DEV_STATE_STATE == 3 then s.setDevState 4 else s

/-- QUEUE_ENABLE (R268). -/
def execQueueEnable (view : View) (q : QueueNo) (s : State) : Host.Outcome State Fault Refusal :=
  .next (s.onWrite view (pgQueue q) true fun s => s.enableQueue q)

/-- The open replay window closes, with a reason of event 0x0609: the snapshot is discarded (R294). -/
def State.closeWindow (s : State) (reason : Nat) : State :=
  match s.window with
  | none => s
  | some w =>
    let s := { s with window := none }
    let s := (s.wf pgSched R.GRAPH_SCHED.STEP_STATE_WINDOW 0).watchWindowShut
    (s.log pgSched 0x0609 [w.queue, w.step, reason]).consume w.queue

/-- The window closes if a queue holds it. -/
def State.closeWindowOf (s : State) (q reason : Nat) : State :=
  match s.window with
  | some w => if w.queue == q then s.closeWindow reason else s
  | none => s

/-- A HEM that is dropped ends its hem: its layer starts again at its base formats (R259). -/
def State.dropHem (s : State) (t : Task) : State :=
  if t.type == 0x02 && !t.alt && (s.queueSt t.queue).repeats != 0 then s.endHem (t.fld 32 2) false else s

/-- `Q_CTL.EN` goes from 1 to 0 (R299): tasks not dispatched complete ABORTED with `DETAIL` [15:8] 2. -/
def State.disableQueue (s : State) (q : Nat) : State :=
  if !s.queueOn q then s
  else
    let s := s.wf (pgQueue q) R.GRAPH_QUEUE.Q_CTL_EN 0
    let due := s.tasks.filter fun t => t.queue == q && (t.isWaiting || t.isReady)
    let s := due.foldl (fun u t => (u.dropHem t).completeAtSched t stAborted 0x200 0) s
    (s.closeWindowOf q 3).settle

/-- QUEUE_DISABLE (R299). -/
def execQueueDisable (view : View) (q : QueueNo) (s : State) : Host.Outcome State Fault Refusal :=
  .next (s.onWrite view (pgQueue q) true fun s => s.disableQueue q)

/-- QUEUE_PAUSE (R299). -/
def execQueuePause (view : View) (q : QueueNo) (on : Bool) (s : State) : Host.Outcome State Fault Refusal :=
  .next (s.onWrite view (pgQueue q) false fun s => (s.wf (pgQueue q) R.GRAPH_QUEUE.Q_CTL_PAUSE (b2n on)).settle)

/-- SCHED_HOLD (R299). -/
def execSchedHold (view : View) (on : Bool) (s : State) : Host.Outcome State Fault Refusal :=
  .next (s.onWrite view pgSched true fun s => (s.wf pgSched R.GRAPH_SCHED.SCHED_CTL_HOLD (b2n on)).settle)

/-- GRAPH_SCHED_COUNT_CLEAR (R300). -/
def execGraphSchedCountClear (view : View) (s : State) : Host.Outcome State Fault Refusal :=
  .next (s.onWrite view pgSched false fun s => s.clearCounts .graphSched pgSched)

/-! Fetch (R270 to R274). -/

/-- The four operations of a BUTTON_OP: button, operation, argument. -/
def buttonOps (d : List Byte) : List (Nat × Nat × Nat) :=
  (List.range 4).map fun j => (fieldAt d (32 + 8 * j) 2, fieldAt d (34 + 8 * j) 1, fieldAt d (36 + 8 * j) 4)

/-- One operation passes R280. -/
def buttonOpOk (o : Nat × Nat × Nat) : Bool :=
  match o.2.1 with
  | 0 => true
  | 1 | 2 | 3 | 4 => decide (o.1 < 16384)
  | 5 => decide (1 ≤ o.2.2) && decide (o.2.2 ≤ 4096) && decide (o.1 + o.2.2 ≤ 16384)
  | _ => false

/-- The body of STEP_OPEN, HEM or BUTTON_OP passes its limits (R280, R288, R292). -/
def bodyOk (d : List Byte) : Bool :=
  match fieldAt d 0 1 with
  | 0x01 =>
    let b := fieldAt d 40 2
    let n := fieldAt d 42 2
    n == 0 || (decide (n ≤ 4096) && decide (256 ≤ b) && decide (b + n ≤ 16384))
  | 0x02 =>
    let b := fieldAt d 36 2
    let n := fieldAt d 38 2
    decide (256 ≤ b) && decide (b + n ≤ 16384) && decide (n ≤ 4096) && decide (fieldAt d 48 2 ≤ 64)
  | 0x04 => (buttonOps d).all buttonOpOk
  | _ => true

/-- The first fetch check that a descriptor fails (Table 11-4); 0 when it passes all. -/
def fetchCheck (d : List Byte) (slots : Nat) : Nat :=
  let cond := descFlag d 1
  if fieldAt d 1 1 != 1 then 1
  else if decide (0xF0 ≤ fieldAt d 0 1) then 2
  else if (descWaits d).any (fun w => decide (16384 ≤ w.1)) || (cond && decide (16384 ≤ fieldAt d 24 2)) then 3
  else if cond && decide (4 ≤ fieldAt d 26 1 % 8) then 4
  else if fieldAt d 28 4 != 0xFFFFFFFF && decide (slots ≤ fieldAt d 28 4) then 5
  else if !bodyOk d then 6 else 0

/-- A task as its descriptor is taken in. -/
def newTask (s : State) (q index : Nat) (d : List Byte) : Task where
  seq := s.nextSeq
  queue := q
  index := index
  alt := false
  desc := d
  step := (s.queueSt q).stepNow
  repeats := 0
  replays := (s.queueSt q).replayNo
  widened := false
  fetchAt := s.now
  startAt := s.now
  condDone := false
  phase := .waiting
  unit := pgSched
  pages := []
  post := []
  target := 0

/-- A descriptor is checked and taken in, or refused: it then completes ABORTED at once, and one that fails check 5 writes no
record (R274). -/
def State.enter (s : State) (t : Task) : State :=
  let c := fetchCheck t.desc (s.rf (pgQueue t.queue) R.GRAPH_QUEUE.CMPL_SLOTS_COUNT)
  let s := { s with nextSeq := s.nextSeq + 1 }
  if c == 0 then { s with tasks := s.tasks ++ [t] }
  else
    let s := (s.inc pgSched R.GRAPH_SCHED.DESC_ERRS).log pgSched 0x0602 [t.queue, t.index, c]
    (s.complete { t with unit := pgSched } (c != 5) stAborted (0x100 + c) 0x0602 t.queue).cause pgSched 4

/-- Whether a task whose FENCE flag is set holds the queue's fetch (R271). -/
def State.fenced (s : State) (q : Nat) : Bool := s.tasks.any fun t => t.queue == q && t.flag 0

/-- Tasks of a queue fetched and not completed. -/
def State.inFlight (s : State) (q : Nat) : Nat := (s.tasks.filter fun t => t.queue == q).length

/-- One descriptor of a burst is fetched, if the fetch may go on. In a step replay a task with `REPLAYABLE` 0 up to the HEM is
passed over (R295). A STEP_OPEN that passes its checks belongs to the step that it opens (R292; DEDUCED, log 35). -/
def State.fetchOne (s : State) (q : Nat) : State :=
  let h := s.head q
  let k := s.queueSt q
  if h == s.tail q || s.fenced q || decide (512 ≤ s.inFlight q) || idxGap (s.consumed q) h == s.ringSize q then s
  else
    let d := s.bytes (s.slotAddr q h) 64
    let past := k.replayEnd == some h
    let inReplay := k.replayEnd.isSome
    let s := (s.cacheUse (s.slotAddr q h) 64).wf (pgQueue q) R.GRAPH_QUEUE.HEAD (idxNext h)
    let s := if past then s.setQueue q { k with replayEnd := none } else s
    if inReplay && !descFlag d 4 then
      let k := s.queueSt q
      s.setQueue q { k with done := if k.done.contains h then k.done else k.done ++ [h] }
    else
      let opens := fieldAt d 0 1 == 0x01 && fetchCheck d (s.rf (pgQueue q) R.GRAPH_QUEUE.CMPL_SLOTS_COUNT) == 0
      let t := newTask s q h d
      let s := s.enter (if opens then { t with step := fieldAt d 32 8 } else t)
      if opens then s.setQueue q { s.queueSt q with stepNow := fieldAt d 32 8, replayNo := 0 } else s

/-- A queue's fetch stalls on a full ring while a hold, and no live task, stops `CONSUMED` (R270, R291). -/
def State.stalled (s : State) (q : Nat) : Bool :=
  s.queueOn q && s.rf (pgQueue q) R.GRAPH_QUEUE.Q_CTL_PAUSE == 0 && idxGap (s.consumed q) (s.head q) == s.ringSize q &&
    (s.queueSt q).done.contains (s.consumed q) && s.consumedStops q

/-- A window or a segment is lost: counted, event 0x0605 with `CONSUMED` as the stall met it, both causes (R291, R302). -/
def State.retainLost (s : State) (q kind : Nat) : State :=
  (((s.inc pgSched R.GRAPH_SCHED.RETAIN_LOST).log pgSched 0x0605 [q, kind, s.consumed q]).cause pgSched 2).cause (pgQueue q) 3

/-- The scheduler gives up one hold that stops `CONSUMED` while fetch stalls on a full ring (R291): a window before a segment. -/
def State.giveUpOne (s : State) (q : Nat) : State :=
  if s.stalled q then
    let byWindow := match s.window with
      | some w => w.queue == q && idxNext (s.consumed q) == w.first
      | none => false
    if byWindow then (s.retainLost q 1).closeWindow 4
    else
      let s := s.retainLost q 2
      (s.setQueue q { s.queueSt q with gaveUp := true }).consume q
  else s

/-- The scheduler gives up what stops `CONSUMED` (R291): the window first, then the segment. -/
def State.giveUp (s : State) (q : Nat) : State := (s.giveUpOne q).giveUpOne q

/-- Types that no repeat runs again (R296). -/
def neverRepeated (ty : Nat) : Bool := [0x01, 0x02, 0x03, 0x50, 0x51, 0x60, 0x61, 0x62, 0x70, 0x71].contains ty

/-- A byte of a descriptor replaced in its low six bits. -/
def setFmt (d : List Byte) (o fmt : Nat) : List Byte := setNth d o (BitVec.ofNat 8 (fieldAt d o 1 / 64 * 64 + fmt % 64))

/-- The `LAYER` of a descriptor. -/
def descLayer (d : List Byte) : Nat :=
  match fieldAt d 0 1 with
  | 0x11 | 0x12 => fieldAt d 58 2
  | 0x20 | 0x30 => fieldAt d 54 2
  | 0x31 => fieldAt d 46 2
  | 0x50 => fieldAt d 60 2
  | _ => fieldAt d 32 2

/-- The substitutions of Table 11-10 for a layer, with its base formats `e` and rungs `r`. -/
def substitute (e : List Byte) (layer : Nat) (r : Rungs) (d : List Byte) : List Byte :=
  let hasIn := (nextIn (weInFmt e)).isSome
  let hasOpnd := (nextOpnd (weOpndFmt e)).isSome
  if descLayer d != layer then d
  else
    match fieldAt d 0 1 with
    | 0x11 | 0x12 => if hasIn && r.inFmt != 0x11 then setFmt d 52 r.inFmt else d
    | 0x31 =>
      let f := fieldAt d 41 1 % 64
      if hasIn && f == weInFmt e then setFmt d 41 r.inFmt
      else if hasOpnd && f == weOpndFmt e then setFmt d 41 r.opndFmt else d
    | 0x20 =>
      let d1 := if hasOpnd && fieldAt d 48 1 % 64 == weOpndFmt e then setFmt d 48 r.opndFmt else d
      let d2 := if hasOpnd && fieldAt d 49 1 % 64 == weOpndFmt e then setFmt d1 49 r.opndFmt else d1
      if r.accWide && !bit (fieldAt d2 51 1) 3 then setNth d2 51 (BitVec.ofNat 8 (fieldAt d2 51 1 + 8)) else d2
    | _ => d

/-- The next descriptor of a repeat is fetched, unless a FENCE before it holds the fetch (R271, R296, R298): substituted, and entered. One that
meanwhile does not belong to a repeat is left out. -/
def State.issueOne (s : State) (q : Nat) : State :=
  let k := s.queueSt q
  match s.tasks.find? (fun t => t.queue == q && t.type == 0x02 && !t.alt), k.again with
  | some h, x :: rest =>
    if s.tasks.any fun t => t.precedes h && t.flag 0 then s
    else
      let d0 := s.bytes x.2.2 64
      let s := (s.cacheUse x.2.2 64).setQueue q { k with again := rest }
      if !x.2.1 && (!descFlag d0 4 || neverRepeated (fieldAt d0 0 1)) then s
      else
        let layer := h.fld 32 2
        let d := substitute (s.watchEntry layer) layer ⟨k.rungs.1, k.rungs.2.1, k.rungs.2.2⟩ d0
        s.enter { newTask s q x.1 d with
          alt := x.2.1, step := h.step, repeats := k.repeats, replays := h.replays, widened := x.2.1 || d != d0 }
  | _, _ => s

/-- The descriptors of a repeat that its fences let through. -/
def State.issueMore (s : State) (q : Nat) : State := (s.queueSt q).again.foldl (fun u _ => u.issueOne q) s

/-- What the next burst of a queue reads (R28): the rest of a repeat, and its 16 slots. -/
def State.fetchRanges (s : State) (q : Nat) : List (Nat × Nat) :=
  ((s.queueSt q).again.map fun x => (x.2.2, 64)) ++
    (if s.head q == s.tail q then [] else [(s.slotAddr q (s.head q / 16 * 16), 1024)])

/-- DESCRIPTOR_FETCH (R270): one aligned burst of 16 slots. A stall that meets a stopped `CONSUMED` gives up its hold first; what
a fence has held back of a repeat comes before the ring. -/
def State.fetchBurst (s : State) (q : Nat) : State :=
  if !s.queueOn q || s.rf (pgQueue q) R.GRAPH_QUEUE.Q_CTL_PAUSE == 1 then s
  else s.whenFree (s.fetchRanges q) fun s =>
    ((List.range (16 - s.head q % 16)).foldl (fun t _ => t.fetchOne q) ((s.giveUp q).issueMore q)).settle

/-- DESCRIPTOR_FETCH (R270). -/
def execDescriptorFetch (q : QueueNo) (s : State) : Host.Outcome State Fault Refusal := .next (s.fetchBurst q)

/-! Buttons. -/

/-- A register write to a button (R35, R276). -/
def State.buttonWrite (s : State) (view : View) (b : Nat) (isBase : Bool) (w : Word) : State :=
  if view == .bar2 && decide (b < 256) then s.refuseButtonQuiet b
  else (if isBase then s.setBase b w else s.setValue b w).settle

/-- BUTTON_REGISTER_WRITE (R276). -/
def execButtonRegisterWrite (view : View) (b : Fin 16384) (isBase : Bool) (w : Word) (s : State) : Host.Outcome State Fault Refusal :=
  .next (s.onWrite view (0x1000 * (offButton b / 0x1000)) false fun s => s.buttonWrite view b isBase w)

/-- TASK_WAIT_TIMEOUT (R282): the waits have not passed within `WAIT_MAX` ticks of the fetch. `DETAIL` is the lowest number among the
buttons that fail. -/
def State.waitTimeout (s : State) (t : Task) : State :=
  let max := s.rf (pgQueue t.queue) R.GRAPH_QUEUE.WAIT_MAX
  if t.isWaiting && max != 0 && decide (max ≤ s.now - t.fetchAt) && !s.waitsPass t then
    let l := ((descWaits t.desc).filter fun w => decide (s.level w.1 < (w.2 : Int))).map (·.1)
    let b := l.foldl Nat.min (l.headD 0)
    ((s.log pgSched 0x0606 [t.queue, t.index, b]).completeAtSched t stTimeout b 0x0606).settle
  else s

/-- TASK_WAIT_TIMEOUT (R282). -/
def execTaskWaitTimeout (n : Nat) (s : State) : Host.Outcome State Fault Refusal :=
  .next (match s.task? n with
    | some t => s.waitTimeout t
    | none => s)

/-! Scheduler tasks (R280, R281). -/

/-- A scheduler task is dispatched and completes at once. -/
def State.runSched (s : State) (t : Task) (st detail : Nat) : State :=
  (s.handOver t .running pgSched [] 0).finish { t with unit := pgSched, phase := .running } st detail 0 t.queue

/-- NOP, and the reserved types, complete DONE (R273, R281). -/
def execNop (n : Nat) (s : State) : Host.Outcome State Fault Refusal :=
  .next (match s.task? n with
    | some t =>
      if typeClass t.type == .scheduler && !([1, 2, 3, 4].contains t.type) && s.oldest t then s.runSched t stDone 0 else s
    | none => s)

/-- One operation of a BUTTON_OP (R280); on a device-manager button it is refused (R275). -/
def State.buttonOp1 (s : State) (t : Task) (o : Nat × Nat × Nat) : State :=
  let b := o.1
  if o.2.1 == 0 then s
  else if !graphButton b then s.refuseButton t.queue t.index b
  else
    match o.2.1 with
    | 1 => s.addButton b o.2.2
    | 2 => s.setValue b (s.btnBase b + BitVec.ofNat 32 o.2.2)
    | 3 => s.rebase b
    | 4 => (s.setValue b 0).setBase b 0
    | 5 => s.rebaseRange b o.2.2
    | _ => s

/-- BUTTON_OP (R280): its four operations in order, then its signals. -/
def execButtonOp (n : Nat) (s : State) : Host.Outcome State Fault Refusal :=
  .next (match s.dispatchable n [0x04] with
    | some t => ((buttonOps t.desc).foldl (fun u o => u.buttonOp1 t o) s).runSched t stDone 0
    | none => s)

/-- The target count of a WAIT_TEMPO (R281). -/
def tempoTarget (t : Task) : Nat :=
  let at_ := t.fld 32 8
  if bit (t.fld 40 1) 0 then (match t.phase with | .ready r => r + at_ | _ => at_) else at_

/-- WAIT_TEMPO (R281): a target that has passed completes it at once. -/
def execWaitTempo (n : Nat) (s : State) : Host.Outcome State Fault Refusal :=
  .next (match s.dispatchable n [0x03] with
    | some t =>
      let target := tempoTarget t
      if target ≤ s.now then s.runSched t stDone 0 else s.handOver t .running pgSched [] target
    | none => s)

/-- WAIT_TEMPO_EXPIRY (R281): the count has reached the target. -/
def execWaitTempoExpiry (n : Nat) (s : State) : Host.Outcome State Fault Refusal :=
  .next (match s.task? n with
    | some t => if t.type == 0x03 && t.isRunning && decide (t.target ≤ s.now) then s.finish t stDone 0 0 t.queue else s
    | none => s)

/-! Steps (R292 to R294). -/

/-- STEP_OPEN is dispatched (R293): it closes the queue's own window, copies its range, opens the window and reports the step. -/
def State.openStep (s : State) (t : Task) : State :=
  let step := t.fld 32 8
  let b := t.fld 40 2
  let n := t.fld 42 2
  let s := s.closeWindow 2
  let snap := (List.range n).map fun i => (b + i, s.btnValue (b + i), s.btnBase (b + i))
  let s := { s with window := some ⟨t.queue, step, idxNext t.index, snap, 0⟩ }
  let s := s.setQueue t.queue { s.queueSt t.queue with lastOpen := some t.index, openWait := false }
  let s := s.wfs pgSched [(R.GRAPH_SCHED.STEP_STATE_WINDOW, 1), (R.GRAPH_SCHED.STEP_STATE_QUEUE, t.queue),
    (R.GRAPH_SCHED.STEP_STATE_SNAP_COUNT, n), (R.GRAPH_SCHED.STEP_SNAP_BASE, b)]
  let s := s.wf64 pgSched R.GRAPH_SCHED.STEP_LO R.GRAPH_SCHED.STEP_HI step
  let s := s.wf64 (pgQueue t.queue) R.GRAPH_QUEUE.STEP_LO R.GRAPH_QUEUE.STEP_HI step
  (s.watchStep step).runSched t stDone 0

/-- STEP_OPEN (R293). One that is ready while another queue holds the window waits, with event 0x0608 once. -/
def execStepOpen (n : Nat) (s : State) : Host.Outcome State Fault Refusal :=
  .next (match s.dispatchable n [0x01] with
    | some t => s.openStep t
    | none =>
      match s.task? n with
      | some t =>
        if t.isReady && s.windowHeld t && !(s.queueSt t.queue).openWait then
          (s.setQueue t.queue { s.queueSt t.queue with openWait := true }).log pgSched 0x0608
            [t.queue, (match s.window with | some w => w.queue | none => 0)]
        else s
      | none => s)

/-! Hems (R288 to R298). -/

/-- The layer range of a HEM is rebased. -/
def State.rebaseLayer (s : State) (h : Task) : State := s.rebaseRange (h.fld 36 2) (h.fld 38 2)

/-- A HEM closes (R290): its range is rebased, and it completes. -/
def State.closeHem (s : State) (h : Task) : State :=
  let k := s.queueSt h.queue
  (s.rebaseLayer h).runSched h (if k.repeats == 0 then stDone else stWidened) (Nat.min k.repeats 255)

/-- Where the repeat set of a HEM begins: after the previous HEM, after the STEP_OPEN, or at the first retained task, whichever is latest
(R296). Every HEM counts that lies in the ring, one that a replay has passed over too. -/
def State.repeatStart (s : State) (h : Task) : Nat :=
  let k := s.queueSt h.queue
  let from_ := ((match k.lastOpen with | some a => [idxNext a] | none => []) ++ [k.retained]).filter fun a => !idxBefore h.index a
  let base := from_.foldl (fun a b => if idxBefore a b then b else a) (from_.headD k.retained)
  (List.range (idxGap base h.index)).foldl (fun a i =>
    if (s.byte (s.slotAddr h.queue ((base + i) % 2 ^ 32))).toNat == 0x02 then (base + i + 1) % 2 ^ 32 else a) base

/-- A slot of a repeat set holds an array read, as the ring stands. -/
def State.isArraySlot (s : State) (x : Nat × Bool × Nat) : Bool := let ty := (s.byte x.2.2).toNat; ty == 0x11 || ty == 0x12

/-- The tasks of the ring that a repeat runs again (R296). -/
def State.repeatRing (s : State) (h : Task) : List (Nat × Bool × Nat) :=
  let start := s.repeatStart h
  (((List.range (idxGap start h.index)).map fun i =>
    let n := (start + i) % 2 ^ 32
    (n, false, s.slotAddr h.queue n)).filter fun x =>
      let d := s.bytes x.2.2 64
      descFlag d 4 && !neverRepeated (fieldAt d 0 1))

/-- The descriptors that a repeat issues: (ring index, alternate, address) in ring order, the alternates in place of the array reads where the
array-input rung is that of the gradient cores (R296, R298). -/
def State.repeatSet (s : State) (h : Task) (r : Rungs) : List (Nat × Bool × Nat) :=
  let set := s.repeatRing h
  if r.inFmt == 0x11 && set.any s.isArraySlot then
    let alts := (List.range (h.fld 48 2)).map fun i => (h.index, true, h.addr 40 + 64 * i)
    let before := set.takeWhile fun x => !s.isArraySlot x
    before ++ alts ++ (set.drop before.length).filter fun x => !s.isArraySlot x
  else set

/-- What a decision to repeat reads: the ring from the start of the set, and the alternate list. -/
def State.repeatReads (s : State) (h : Task) : List (Nat × Nat) :=
  let start := s.repeatStart h
  ((List.range (idxGap start h.index)).map fun i => (s.slotAddr h.queue ((start + i) % 2 ^ 32), 64)) ++ [(h.addr 40, 64 * h.fld 48 2)]

/-- Why a repeat is not possible: 1 not retained, 2 no alternate list, 0 possible (R297, R298). -/
def State.repeatBar (s : State) (h : Task) (r : Rungs) : Nat :=
  if idxBefore (s.repeatStart h) (s.consumed h.queue) then 1
  else if r.inFmt == 0x11 && h.fld 48 2 == 0 && (s.repeatRing h).any s.isArraySlot then 2 else 0

/-- A repeat begins (R296): the layer range is rebased, and its set is fetched again. -/
def State.issueRepeat (s : State) (h : Task) (r : Rungs) : State :=
  let k := s.queueSt h.queue
  let set := s.repeatSet h r
  let s := (s.rebaseLayer h).setQueue h.queue { k with repeats := k.repeats + 1, again := set, rungs := (r.inFmt, r.opndFmt, r.accWide) }
  let s := ((s.issueMore h.queue).inc pgSched R.GRAPH_SCHED.REPEAT_COUNT).log pgSched 0x0603 [h.queue, h.fld 32 2, r.code]
  (s.cause pgSched 1).settle

/-- A step replay (R295). -/
def State.replayStep (s : State) (h : Task) (clip sat : Nat) : State :=
  match s.window with
  | none => s
  | some w =>
    let q := h.queue
    let s := { s with tasks := s.tasks.filter fun t => t.queue != q }
    let s := w.snap.foldl (fun u b => (u.setValue b.1 b.2.1).setBase b.1 b.2.2) s
    let s := s.replayStarted (h.fld 32 2) clip sat
    let k := s.queueSt q
    let n := w.replays + 1
    let s := { s with window := some { w with replays := n } }
    let s := s.setQueue q { k with stepNow := w.step, repeats := 0, again := [], replayEnd := some h.index, replayNo := n }
    let s := s.wf (pgQueue q) R.GRAPH_QUEUE.HEAD w.first
    let s := (s.inc pgSched R.GRAPH_SCHED.REPLAY_COUNT).log pgSched 0x0601 [q, w.step, n]
    (s.cause pgSched 0).settle

/-- The replay window is open, and the HEM's queue holds it for the HEM's step (R256). -/
def State.windowMine (s : State) (h : Task) : Bool :=
  match s.window with
  | some w => w.queue == h.queue && w.step == h.step
  | none => false

/-- A HEM acts on its watch's answer (R290). -/
def State.answerHem (s : State) (h : Task) (a : Answer) : State :=
  match a with
  | .close => s.closeHem h
  | .repeatIt r =>
    let bar := s.repeatBar h r
    if bar == 0 then s.issueRepeat h r
    else ((s.endHem (h.fld 32 2) true).log pgSched 0x0607 [h.queue, h.fld 32 2, bar]).closeHem h
  | .replay clip sat => s.replayStep h clip sat

/-- A HEM is ready and its queue drained (R290): it closes at once, or asks the watch of its layer. -/
def State.runHem (s : State) (h : Task) : State :=
  let layer := h.fld 32 2
  if bit (h.fld 34 1) 0 || decide (4096 ≤ layer) then s.closeHem h
  else
    let a := s.askWatch layer (s.windowMine h)
    match a.2 with
    | .repeatIt _ => s.whenFree (s.repeatReads h) fun _ => a.1.answerHem h a.2
    | _ => a.1.answerHem h a.2

/-- HEM (R290). -/
def execHem (n : Nat) (s : State) : Host.Outcome State Fault Refusal :=
  .next (match s.dispatchable n [0x02] with
    | some t => s.runHem t
    | none => s)

end Sys2Proof.Machine
end

