-- ==== Sys2Proof/Machine/Update.lean ====
section
/-! DEFINITION. The layer update (chapter 09): the two passes of the update rule, holds, derived images, and the commands of the
update engines. A pass is run whole when it ends. -/

namespace Sys2Proof.Machine

/-! Body and records (Tables 9-2 to 9-5). -/

/-- An UPDATE as its body and operand record give it; parameters are binary32 encodings. -/
structure UpdOp where
  mode   : Nat
  layer  : Nat
  gFmt   : Nat
  imgFmt : Nat
  krLog  : Nat
  state  : Nat
  result : Nat
  g      : Nat
  m      : Nat
  mExp   : Nat
  w      : Nat
  image  : Nat
  ledger : Nat
  tag    : Nat
  r      : Nat
  c      : Nat
  prm    : List Nat
deriving DecidableEq, Repr

/-- `MODE`: 6 and 7 act as PROBE. -/
def updMode (t : Task) : Nat := if 5 < t.fld 56 1 % 8 then 3 else t.fld 56 1 % 8

/-- The operation of an UPDATE with its operand record. -/
def updOp (t : Task) (o : List Byte) : UpdOp where
  mode := updMode t
  layer := t.fld 60 2
  gFmt := t.fld 59 1 % 64
  imgFmt := t.fld 62 1 % 64
  krLog := t.fld 56 1 / 8 % 8
  state := t.addr 40
  result := t.addr 48
  g := recAddr o 0
  m := recAddr o 8
  mExp := recAddr o 16
  w := recAddr o 24
  image := recAddr o 32
  ledger := recAddr o 40
  tag := fieldAt o 48 4
  r := fieldAt o 52 4
  c := fieldAt o 56 4
  prm := (List.range 9).map fun i => fieldAt o (64 + 4 * i) 4

/-- A parameter in the order of Table 9-3. -/
def UpdOp.p (x : UpdOp) (i : Nat) : Nat := nth x.prm i 0
def UpdOp.beta1 (x : UpdOp) : Nat := x.p 0
def UpdOp.beta2 (x : UpdOp) : Nat := x.p 1
def UpdOp.eps (x : UpdOp) : Nat := x.p 2
def UpdOp.lambda (x : UpdOp) : Nat := x.p 3
def UpdOp.tauMax (x : UpdOp) : Nat := x.p 4
def UpdOp.ratioLo (x : UpdOp) : Nat := x.p 5
def UpdOp.ratioHi (x : UpdOp) : Nat := x.p 6
def UpdOp.scaleK (x : UpdOp) : Nat := x.p 7
def UpdOp.late (x : UpdOp) : Nat := x.p 8

/-- The gradient. -/
def UpdOp.gT (x : UpdOp) : Tensor := ⟨fmtOr x.gFmt, x.g, 0, x.r, x.c⟩
/-- The first moment. -/
def UpdOp.mT (x : UpdOp) : Tensor := ⟨.kf8b, x.m, x.mExp, x.r, x.c⟩
/-- The master. -/
def UpdOp.wT (x : UpdOp) : Tensor := ⟨.kf24, x.w, 0, x.r, x.c⟩
/-- The ledger's values behind its head. -/
def UpdOp.lgT (x : UpdOp) : Tensor := ⟨.b32, x.ledger + 4096, 0, x.r, x.c⟩

/-- Up to a multiple of 4,096. -/
def up4k (n : Nat) : Nat := (n + 4095) / 4096 * 4096

/-- Bytes of a slot of the state record (R243). -/
def UpdOp.slotLen (x : UpdOp) : Nat := up4k (4 * x.r) + up4k (4 * x.c) + up4k (2 * x.c)
/-- Address of a slot. -/
def UpdOp.slotAt (x : UpdOp) (z : Nat) : Nat := x.state + 4096 + z * x.slotLen
/-- Address of a slot's column factor. -/
def UpdOp.colAt (x : UpdOp) (z : Nat) : Nat := x.slotAt z + up4k (4 * x.r)
/-- Address of a slot's scales. -/
def UpdOp.scaleAt (x : UpdOp) (z : Nat) : Nat := x.colAt z + up4k (4 * x.c)

/-! The state header (Table 9-4). -/

/-- `LS_SEL`. -/
def hdSel (h : List Byte) : Nat := fieldAt h 2 1 % 2
/-- `LS_HOLD.HELD`. -/
def hdHeld (h : List Byte) : Bool := bit (fieldAt h 3 1) 7
/-- The reasons of `LS_HOLD`. -/
def hdReasons (h : List Byte) : Nat := fieldAt h 3 1 % 64
/-- The layer is `PARTIAL`. -/
def hdPartial (h : List Byte) : Bool := hdHeld h && bit (hdReasons h) 5
/-- `LS_STEPS`. -/
def hdSteps (h : List Byte) : Nat := fieldAt h 16 8
/-- `LS_LAST_STEP`. -/
def hdLast (h : List Byte) : Nat := fieldAt h 24 8
/-- `LS_HOLD_STEP`. -/
def hdHoldStep (h : List Byte) : Nat := fieldAt h 32 8
/-- `LS_HOLD_ETA`. -/
def hdHoldEta (h : List Byte) : Nat := fieldAt h 40 4
/-- `LS_MED`. -/
def hdMed (h : List Byte) : Nat := fieldAt h 44 4
/-- `LS_NW2`. -/
def hdNw2 (h : List Byte) : Nat := fieldAt h 48 8
/-- `LS_ND2`. -/
def hdNd2 (h : List Byte) : Nat := fieldAt h 56 8

/-- Bytes of a list replaced from an offset. -/
def patch (b : List Byte) (at_ : Nat) (v : List Byte) : List Byte := b.take at_ ++ v ++ b.drop (at_ + v.length)

/-- The state header written with fields replaced, sealed. -/
def State.writeHead (s : State) (x : UpdOp) (ps : List (Nat × List Byte)) : State :=
  s.putSealed x.state (ps.foldl (fun b p => patch b p.1 p.2) (s.bytes x.state 4096))

/-- Bytes filled with zeros to whole blocks. -/
def fill4k (b : List Byte) : List Byte := b ++ List.replicate (up4k b.length - b.length) 0

/-- A vector written over whole blocks, its padding zero, sealed. -/
def State.putVec (s : State) (a : Nat) (b : List Byte) : State := s.putSealed a (fill4k b)

/-! Checks (Table 9-6). -/

/-- An image is written. -/
def UpdOp.writesImage (x : UpdOp) : Bool := x.image != 0 && [0, 1, 4, 5].contains x.mode

/-- Tile groups along the rows. -/
def UpdOp.ks (x : UpdOp) : Nat := (x.r + 512 * 2 ^ x.krLog - 1) / (512 * 2 ^ x.krLog)
/-- Tile groups along the columns. -/
def UpdOp.ng (x : UpdOp) : Nat := let w := 512 * (32 / 2 ^ x.krLog); (x.c + w - 1) / w
/-- `CI_TILES`. -/
def UpdOp.tiles (x : UpdOp) : Nat := 32 * x.ks * x.ng

/-- `a ≤ b` between binary32 encodings of numbers. -/
def le32 (a b : Nat) : Bool := decide ((d32 a).q ≤ (d32 b).q)
/-- `0 < a`. -/
def pos32 (a : Nat) : Bool := decide (0 < (d32 a).q)

/-- The parameters pass check 4. -/
def UpdOp.prmOk (x : UpdOp) : Bool :=
  x.prm.all (fun p => (d32 p).isFin) && le32 0 x.beta1 && !le32 one32 x.beta1 && le32 0 x.beta2 && !le32 one32 x.beta2 && pos32 x.eps &&
    le32 0 x.lambda && le32 one32 x.tauMax && pos32 x.ratioLo && le32 x.ratioLo one32 && le32 one32 x.ratioHi && pos32 x.scaleK && le32 0 x.late

/-- The first check of Table 9-6 that fails; 0 when all pass. -/
def updCheck (x : UpdOp) (h : List Byte) : Nat :=
  if !([0x11, 0x12, 0x20].contains x.gFmt || x.g == 0) then 1
  else if x.writesImage && (!(x.imgFmt == 1 || x.imgFmt == 2) || x.tag == 0) then 2
  else if x.r == 0 || x.c == 0 || 2 ^ 24 < x.r || 2 ^ 24 < x.c || x.r != fieldAt h 4 4 || x.c != fieldAt h 8 4 || x.layer != fieldAt h 0 2 then 3
  else if !x.prmOk then 4
  else if 5 < x.krLog || 2 ^ 24 < x.tiles then 5
  else if ([1, 2, 3].contains x.mode && (!hdHeld h || hdPartial h)) || ([0, 5].contains x.mode && hdPartial h) then 6 else 0

/-! The rule (R222, R223, R225). -/

/-- A binary32 value as binary64. -/
def widen64 (a : Nat) : Nat := e64 (d32 a)
/-- An exact sum. -/
def fsum (l : List FVal) : FVal := l.foldl FVal.add (FVal.of 0)
/-- A value divided by a count. -/
def FVal.over (v : FVal) (n : Nat) : FVal := v.mul (.of (1 / (n : Rat)))

/-- The gradient of an element with its late contributions, binary32. -/
def State.gg (s : State) (x : UpdOp) (kappa i j : Nat) : Nat :=
  let g := if x.g == 0 then 0 else e32 (s.elemAt x.gT i j)
  if kappa == 0 then g else fma32 kappa (e32 (s.elemAt x.lgT i j)) g

/-- The old moment, binary32. -/
def State.mOld (s : State) (x : UpdOp) (i j : Nat) : Nat := e32 (s.elemAt x.mT i j)

/-- `m_new`. -/
def State.mNew (s : State) (x : UpdOp) (kappa i j : Nat) : Nat :=
  fma32 x.beta1 (s.mOld x i j) (mul32 (sub32 one32 x.beta1) (s.gg x kappa i j))

/-- The second moment that the factors give. -/
def vOf (r c rbar : Nat) : Nat := if (d32 rbar).isZero then 0 else div32 (mul32 r c) rbar

/-- `m / (sqrt(v) + eps)`. -/
def direction (x : UpdOp) (m v : Nat) : Nat := div32 m (add32 (sqrt32 v) x.eps)

/-- The mean of a row factor. -/
def rbar (l : List Nat) (rows : Nat) : Nat := e32 ((fsum (l.map d32)).over rows)

/-- The trust factor. -/
def trust (x : UpdOp) (h : List Byte) : Nat :=
  let pos (v : Nat) : Bool := (FVal.of 0).less (d64 v)
  if hdSteps h != 0 && pos (hdNw2 h) && pos (hdNd2 h) then
    e32 ((d64 (widen64 x.tauMax)).min (d64 (div64 (sqrt64 (hdNw2 h)) (sqrt64 (hdNd2 h)))))
  else one32

/-- What pass 1 forms (R223): trust factor, predicted ratio, new factors, non-finite elements. -/
structure Pass1 where
  tau    : Nat
  pred   : Nat
  rNew   : List Nat
  cNew   : List Nat
  nonfin : Nat
deriving DecidableEq, Repr

/-- Pass 1. -/
def State.pass1 (s : State) (x : UpdOp) (h : List Byte) (eta kappa : Nat) : Pass1 :=
  let z := hdSel h
  let rOld := s.nums (x.slotAt z) x.r 4
  let cOld := s.nums (x.colAt z) x.c 4
  let tau := trust x h
  let rb := rbar rOld x.r
  let sq (i j : Nat) : FVal := let g := d32 (s.gg x kappa i j); g.mul g
  let rs := List.range x.r
  let cs := List.range x.c
  let u2 (i j : Nat) : FVal :=
    let u := d32 (direction x (s.mNew x kappa i j) (vOf (nth rOld i 0) (nth cOld j 0) rb))
    u.mul u
  let upsq := fsum (rs.flatMap fun i => cs.map fun j => u2 i j)
  let b2c := sub32 one32 x.beta2
  { tau := tau
    pred := if (d64 (hdNw2 h)).isZero then 0
      else div64 (mul64 (mul64 (widen64 eta) (widen64 tau)) (sqrt64 (e64 upsq))) (sqrt64 (hdNw2 h))
    rNew := rs.map fun i => fma32 x.beta2 (nth rOld i 0) (mul32 b2c (e32 ((fsum (cs.map fun j => sq i j)).over x.c)))
    cNew := cs.map fun j => fma32 x.beta2 (nth cOld j 0) (mul32 b2c (e32 ((fsum (rs.map fun i => sq i j)).over x.r)))
    nonfin := (rs.map fun i => (cs.map fun j =>
      b2n (!(d32 (s.gg x kappa i j)).isFin) + b2n (!(d32 (s.mOld x i j)).isFin)).sum).sum }

/-- The tests of Table 9-1 on the predicted ratio: bits 1 and 2. -/
def ratioReasons (x : UpdOp) (h : List Byte) (pred : Nat) : Nat :=
  if hdSteps h == 0 || (d32 (hdMed h)).isZero || (d64 (hdNw2 h)).isZero then 0
  else
    let med := widen64 (hdMed h)
    2 * b2n ((d64 pred).less (d64 (mul64 (widen64 x.ratioLo) med))) + 4 * b2n ((d64 (mul64 (widen64 x.ratioHi) med)).less (d64 pred))

/-- One element after pass 2: the master's KF24 encoding, `m_new`, `d`, the old master. -/
structure Elem2 where
  wNew : Nat
  mNew : Nat
  d    : Nat
  wOld : FVal
deriving DecidableEq, Repr

/-- The draw of an element in pass 2 (R226). -/
def UpdOp.drawAt (x : UpdOp) (key : List Byte) (step i j : Nat) : Nat :=
  drawSR key step x.layer (i / 512 * ((x.c + 511) / 512) + j / 512) (i % 512 * 512 + j % 512)

/-- Pass 2 on one element. -/
def State.elem2 (s : State) (x : UpdOp) (u : Upd) (rb i j : Nat) : Elem2 :=
  let m := s.mNew x u.kappa i j
  let w := s.elemAt x.wT i j
  let d := fma32 x.lambda (e32 w) (direction x m (vOf (nth u.rNew i 0) (nth u.cNew j 0) rb))
  let et := mul32 u.eta u.tau
  ⟨(mKF24.encode (.sr (x.drawAt u.keyW u.step i j)) (w.add ((d32 et).mul (d32 d)).neg)).1, m, d, w⟩

/-- Pass 2 on rows, row by row. -/
def State.rows2 (s : State) (x : UpdOp) (u : Upd) (rows : Nat) : List (List Elem2) :=
  let rb := rbar u.rNew x.r
  (List.range rows).map fun i => (List.range x.c).map fun j => s.elem2 x u rb i j

/-- The new moment of a row: element bytes and group exponents (R74, R226). -/
def momentRow (x : UpdOp) (u : Upd) (i : Nat) (row : List Elem2) : List Byte × List Byte :=
  let e := encodeRow x.mT 2 1 0 (fun _ => 0) (x.drawAt u.keyM u.step i) (row.map fun y => d32 y.mNew)
  (e.bytes, e.exps)

/-- The bytes of rows of the master, of the moment's elements, and of its group exponents. -/
def rowBytes2 (x : UpdOp) (u : Upd) (rows : List (List Elem2)) : List Byte × List Byte × List Byte :=
  let ms := (List.range rows.length).map fun i => momentRow x u i (nth rows i [])
  (rows.flatMap fun row => row.flatMap fun y => leBytes 3 y.wNew, ms.flatMap (·.1), ms.flatMap (·.2))

/-- The new column scale (R225). -/
def newScale (x : UpdOp) (abssum : FVal) : Nat :=
  let v := (mKF16.encode .rne (((d32 x.scaleK).mul abssum).over x.r)).1
  let lo := (mKF16.encode .rne (.of (pow2 (-30)))).1
  if (mKF16.decode v).less (mKF16.decode lo) then lo else if (mKF16.decode 0x7DFF).less (mKF16.decode v) then 0x7DFF else v

/-- `LS_MED` after a commit (R228). -/
def nextMed (med ratio : Nat) : Nat :=
  if (d32 med).isZero then e32 (d64 ratio)
  else if (d32 med).less (d64 ratio) then mul32 med 0x3F85AAC3
  else if (d64 ratio).less (d32 med) then mul32 med 0x3F75257D else med

/-! Code images (R125, R227). -/

/-- The element of the matrix at a position of a tile: tile `t`, row and column in it. -/
def UpdOp.at_ (x : UpdOp) (t row col : Nat) : Nat × Nat :=
  let kr := 2 ^ x.krLog
  let e := t / 32
  let a := t % 32 % kr
  let b := t % 32 / kr
  ((e % x.ks * kr + a) * 512 + row, (e / x.ks * (32 / kr) + b) * 512 + col)

/-- Block `k` of the code plane: 32 rows of a tile. -/
def UpdOp.codeBlock (x : UpdOp) (f : Fmt) (code : Nat → Nat → Nat) (k : Nat) : List Byte :=
  (List.range 32).flatMap fun i => packRaws f ((List.range 512).map fun j =>
    let p := x.at_ (k / 16) (k % 16 * 32 + i) j
    if p.1 < x.r && p.2 < x.c then code p.1 p.2 else 0)

/-- The scale plane without its padding. -/
def UpdOp.scalePlane (x : UpdOp) (scale : Nat → Nat) : List Byte :=
  (List.range x.tiles).flatMap fun t => (List.range 512).flatMap fun j =>
    let p := x.at_ t 0 j
    leBytes 2 (if p.2 < x.c then scale p.2 else 0)

/-- The last row of the matrix that a block of the code plane holds; none when it holds padding alone. -/
def UpdOp.lastRow (x : UpdOp) (k : Nat) : Option Nat :=
  let p := x.at_ (k / 16) (k % 16 * 32) 0
  if p.1 < x.r && p.2 < x.c then some (Nat.min (p.1 + 31) (x.r - 1)) else none

/-- A code image: header block, code plane, scale plane, the blocks filled with zeros. -/
def UpdOp.imageBytes (x : UpdOp) (code : Nat → Nat → Nat) (scale : Nat → Nat) (step : Nat) : List Byte :=
  let codes := (List.range (16 * x.tiles)).flatMap (x.codeBlock (fmtOr x.imgFmt) code)
  let scales := x.scalePlane scale
  let head := leBytes 4 x.tag ++ leBytes 4 x.imgFmt ++ leBytes 4 x.tiles ++ leBytes 2 x.layer ++ leBytes 2 0 ++ leBytes 8 step ++ leBytes 8 0
  fill4k (head ++ sm3 (codes ++ scales ++ head)) ++ codes ++ fill4k scales

/-- A whole code image is written. -/
def State.writeImage (s : State) (x : UpdOp) (code : Nat → Nat → Nat) (scale : Nat → Nat) (step : Nat) : State :=
  s.putSealed x.image (x.imageBytes code scale step)

/-- The blocks of the image written. -/
def UpdOp.imageRange (x : UpdOp) : Nat × Nat := (x.image, 4096 + 65536 * x.tiles + up4k (1024 * x.tiles))

/-- Code of an element, whether it was clipped, and whether R64 counts it as non-finite: a bad column scale, or a master element that is
not finite; `NONFINITE` of the record takes that count with those of gg and m (DESIGN CHOICE, log 165). -/
def codeOf (x : UpdOp) (w : FVal) (scale : Nat) : Nat × Bool × Bool := quantise (fmtOr x.imgFmt) w scale

/-- The clipped and the non-finite codes of the first rows of a matrix. -/
def UpdOp.codeTotals (x : UpdOp) (code : Nat → Nat → Nat × Bool × Bool) (rows : Nat) : Nat × Nat :=
  let sum (p : Nat × Bool × Bool → Bool) : Nat := ((List.range rows).map fun i => ((List.range x.c).filter fun j => p (code i j)).length).sum
  if x.writesImage then (sum (·.2.1), sum (·.2.2)) else (0, 0)

/-! Engines. -/

/-- The task of an engine. -/
def State.upd? (s : State) (e : Nat) : Option Upd := aget? s.upds e

/-- `ENGINE_STATE.STATE` of a phase. -/
def UpdPhase.code (p : UpdPhase) : Nat :=
  match p with
  | .idle => 0
  | .tagWait => 1
  | .pass1 => 2
  | .ckptWait => 3
  | .pass2 => 4

/-- An engine's task enters a phase: its page shows it; only a pass makes it a running task for R13 (R231). -/
def State.setUpd (s : State) (e : Nat) (layer : Nat) (u : Upd) : State :=
  let page := pgUpdate e
  let s := { s with upds := aput s.upds e u }
  let s := s.wfs page [(R.UPDATE.ENGINE_STATE_STATE, u.phase.code), (R.UPDATE.ENGINE_STATE_LAYER, layer)]
  let run := u.phase == .pass1 || u.phase == .pass2
  let s : State := { s with tasks := s.tasks.map fun (t : Task) => if t.seq == u.task then { t with pages := if run then [page] else [] } else t }
  if run then s else s.applyPosted

/-- A block that an engine reads fails its seal (R248). -/
def State.updSealErr (s : State) (e layer k : Nat) : State :=
  let page := pgUpdate e
  (((s.inc page R.UPDATE.SEAL_ERRS).err page 0x0404 layer).log page 0x0404 [layer, 4096 * k]).cause page 4

/-- Blocks checked in order up to the first that fails. -/
def State.checkTo (s : State) (ks : List Nat) (code : Nat) : State × Option Nat :=
  match s.firstBad ks with
  | some k => (s.check ((ks.takeWhile (· != k)) ++ [k]) code, some k)
  | none => (s.check ks code, none)

/-- Ranges read, their blocks checked in order up to the first that fails. -/
def State.readTo (s : State) (rs : List (Nat × Nat)) (code : Nat) : State × Option Nat :=
  (s.cacheReads rs (blocksOfAll rs)).checkTo (blocksOfAll rs) code

/-- The result record (Table 9-5). -/
def updResult (x : UpdOp) (u : Upd) (nonfin clipped ratio : Nat) (digest : List Byte) (elems : Nat) : List Byte :=
  let sat (v : Nat) := leBytes 4 (Nat.min v (2 ^ 32 - 1))
  leBytes 8 u.step ++ leBytes 2 x.layer ++ leBytes 1 x.mode ++ leBytes 1 u.reasons ++ sat nonfin ++ sat clipped ++ sat u.lateUsed ++
    sat u.lateDrop ++ leBytes 4 u.tau ++ leBytes 8 u.pred ++ leBytes 8 ratio ++ leBytes 4 u.eta ++ leBytes 4 0 ++ leBytes 8 elems ++
    digest ++ List.replicate 32 0

/-- How an UPDATE ends. -/
structure UpdEnd where
  status  : Nat
  event   : Nat
  code    : Nat
  clipped : Nat
  badCode : Nat
  ratio   : Option Nat
  digest  : List Byte
  blocks  : List Nat
deriving DecidableEq, Repr

/-- An end with nothing but a status and its event. -/
def UpdEnd.plain (st event : Nat) : UpdEnd := ⟨st, event, 0, 0, 0, none, List.replicate 32 0, []⟩

/-- What the end of an UPDATE leaves for completion: result record, watch, event of clipped codes (R244, R249, R250). The codes that R64
counts as non-finite go with the non-finite gg and m, the one such count of the record (DESIGN CHOICE, log 165). -/
def updPosts (x : UpdOp) (u : Upd) (f : UpdEnd) (e : Nat) : List Post :=
  let nonfin := u.nonfin + f.badCode
  (if x.result == 0 || f.status == stAborted then []
    else [Post.store x.result (updResult x u nonfin f.clipped (f.ratio.getD 0) f.digest (x.r * x.c))]) ++
    [Post.watch x.layer 6 { Counts.none with nonfin := nonfin, clipped := f.clipped }] ++
    (match f.ratio with | some r => [Post.ratio x.layer (e32 (d64 r))] | none => []) ++
    (if f.clipped == 0 then [] else [Post.log (pgUpdate e) 0x040A [x.layer, f.clipped]]) ++ [Post.readBack (pgUpdate e) f.blocks]

/-- An UPDATE has run to its end: its engine is idle again. -/
def State.endUpd (s : State) (e : Nat) (t : Task) (x : UpdOp) (u : Upd) (f : UpdEnd) : State :=
  let page := pgUpdate e
  let s := ({ s with upds := aerase s.upds e }).wfs page [(R.UPDATE.ENGINE_STATE_STATE, 0), (R.UPDATE.CUR_TASK, 0xFFFFFFFF)]
  let s := if f.status == stHeld then (s.inc page R.UPDATE.HELD_COUNT).cause page 1
    else if f.status == stAborted then s.cause page 0
    else if f.status == stStale then (s.inc page R.UPDATE.STALE_COUNT).cause page 2
    else if f.status == stTimeout then (s.inc page R.UPDATE.TIMEOUT_COUNT).cause page 3 else s
  s.endTask t f.status f.code f.event (e % 2) (updPosts x u f e)

/-- An address that an engine meets in no installed range ends its task ABORTED (R304, R486). -/
def State.faultUpd (s : State) (e : Nat) (t : Task) (x : UpdOp) (u : Upd) (a : Nat) : State :=
  ((s.accessFault (e / 2 * 2) a 0x50).err (pgUpdate e) 0x0702 x.layer).endUpd e t x u (UpdEnd.plain stAborted 0x0702)

/-- The first address of several ranges that no installed range holds. -/
def faultOf (rs : List (Nat × Nat)) : Option Nat := rs.findSome? fun r => faultIn r.1 r.2

/-! Writes of the state record. -/

/-- The hold of a layer (R233). -/
def State.holdLayer (s : State) (e : Nat) (t : Task) (x : UpdOp) (u : Upd) : State :=
  let page := pgUpdate e
  let s := s.writeHead x [(3, leBytes 1 (128 + u.reasons)), (32, leBytes 8 u.step), (40, leBytes 4 u.eta)]
  let s := s.wfs page [(R.UPDATE.LAST_HOLD_LAYER, x.layer), (R.UPDATE.LAST_HOLD_REASONS, u.reasons)]
  (s.log page 0x0401 [x.layer, u.reasons, u.step]).endUpd e t x u
    { UpdEnd.plain stHeld 0x0401 with blocks := [x.state / 4096] }

/-- DISCARD clears the hold (R235). -/
def State.discard (s : State) (e : Nat) (t : Task) (x : UpdOp) (u : Upd) : State :=
  let s := s.writeHead x [(3, leBytes 1 0), (32, leBytes 8 0), (40, leBytes 4 0)]
  (s.log (pgUpdate e) 0x0406 [x.layer, u.step]).endUpd e t x u { UpdEnd.plain stDone 0 with blocks := [x.state / 4096] }

/-- The ranges of the factors and scales of a slot. -/
def UpdOp.slotRanges (x : UpdOp) (z : Nat) : List (Nat × Nat) := [(x.slotAt z, 4 * x.r), (x.colAt z, 4 * x.c), (x.scaleAt z, 2 * x.c)]

/-- Pass 2 begins with pass 1's write of the other slot (R223, R239). What pass 2 accesses is tested here, before anything is written
(DESIGN CHOICE, log 164). -/
def State.enterPass2 (s : State) (e : Nat) (t : Task) (x : UpdOp) (u : Upd) : State :=
  let z := 1 - hdSel u.head
  match faultOf (x.slotRanges z ++ x.wT.ranges ++ (if x.writesImage then [x.imageRange] else [])) with
  | some a => s.faultUpd e t x u a
  | none =>
  let s := (s.putVec (x.slotAt z) (u.rNew.flatMap (leBytes 4))).putVec (x.colAt z) (u.cNew.flatMap (leBytes 4))
  s.setUpd e x.layer { u with phase := .pass2 }

/-! Derived images (R237). -/

/-- The code of an element of W. -/
def State.codeOfW (s : State) (x : UpdOp) (scales : List Nat) (i j : Nat) : Nat × Bool × Bool :=
  codeOf x (s.elemAt x.wT i j) (nth scales j 0)

/-- The image of W under scales, with the codes clipped and those non-finite. -/
def State.imageOfW (s : State) (x : UpdOp) (scales : List Nat) (step : Nat) : State × Nat × Nat :=
  let code := s.codeOfW x scales
  (if x.writesImage then s.writeImage x (fun i j => (code i j).1) (nth scales · 0) step else s, x.codeTotals code x.r)

/-- The end of a derivation. -/
def State.endDerive (s : State) (e : Nat) (t : Task) (x : UpdOp) (u : Upd) (scales : List Nat) (blocks : List Nat) : State :=
  let r := s.imageOfW x scales u.step
  let ks := blocks ++ (if x.writesImage then blocksOf x.imageRange.1 x.imageRange.2 else [])
  r.1.endUpd e t x u { UpdEnd.plain (if r.2.1 == 0 then stDone else stClipped) 0 with clipped := r.2.1, badCode := r.2.2, blocks := ks }

/-- DERIVE: W and the other slot's scales are read, and the image is written. -/
def State.derive (s : State) (e : Nat) (t : Task) (x : UpdOp) (u : Upd) : State :=
  let z := 1 - hdSel u.head
  let r := s.readTo (x.wT.ranges ++ [(x.scaleAt z, 2 * x.c)]) 0x0404
  match r.2 with
  | some k => (r.1.updSealErr e x.layer k).endUpd e t x u (UpdEnd.plain stSeal 0x0404)
  | none => r.1.endDerive e t x u (r.1.nums (x.scaleAt z) x.c 2) []

/-- The column scales that W gives (R225, R237). -/
def State.scalesOfW (s : State) (x : UpdOp) : List Nat :=
  (List.range x.c).map fun j => newScale x (fsum ((List.range x.r).map fun i => (s.elemAt x.wT i j).abs))

/-- DERIVE_SCALES makes its writes: both slots' scales, then the image (R237). -/
def State.deriveScales (s : State) (e : Nat) (t : Task) (x : UpdOp) (u : Upd) : State :=
  let scales := s.scalesOfW x
  let b := scales.flatMap (leBytes 2)
  let s := (s.putVec (x.scaleAt 0) b).putVec (x.scaleAt 1) b
  s.endDerive e t x u scales (blocksOfAll [(x.scaleAt 0, 2 * x.c), (x.scaleAt 1, 2 * x.c)])

/-! The checkpoint interlock (R239). -/

/-- `LS_CKPT_MARK` of the state header as it stands. -/
def State.ckptMark (s : State) (x : UpdOp) : Nat := s.num (x.state + 12) 4

/-- A task makes its first write: hold, discard, scales, or pass 2. -/
def State.firstWrite (s : State) (e : Nat) (t : Task) (x : UpdOp) (u : Upd) : State :=
  if x.mode == 2 then s.discard e t x u
  else if x.mode == 5 then s.deriveScales e t x u
  else if u.reasons != 0 then s.holdLayer e t x u else s.enterPass2 e t x u

/-- The task waits for the interlock, or writes at once. -/
def State.interlock (s : State) (e : Nat) (t : Task) (x : UpdOp) (u : Upd) : State :=
  if s.ckptMark x == 0 then s.firstWrite e t x u else s.setUpd e x.layer { u with phase := .ckptWait, waitFrom := s.now }

/-! Dispatch (R231, R242, R245). -/

/-- Every range that the task may read or write beyond its records. -/
def UpdOp.ranges (x : UpdOp) : List (Nat × Nat) :=
  [(x.state, 4096 + 2 * x.slotLen), (x.w, 3 * x.r * x.c)] ++ x.mT.ranges ++ (if x.g == 0 then [] else x.gT.ranges) ++
    (if x.ledger == 0 then [] else [(x.ledger, 4096 + 4 * x.r * x.c)]) ++ (if x.writesImage then [x.imageRange] else [])

/-- The ranges that a derivation accesses; the other modes meet theirs pass by pass. -/
def UpdOp.deriveRanges (x : UpdOp) (h : List Byte) : List (Nat × Nat) :=
  if x.mode == 4 || x.mode == 5 then
    x.wT.ranges ++ (if x.writesImage then [x.imageRange] else []) ++
      (if x.mode == 4 then [(x.scaleAt (1 - hdSel h), 2 * x.c)] else [(x.scaleAt 0, 2 * x.c), (x.scaleAt 1, 2 * x.c)])
  else []

/-- The phase that a checked task begins with, and its first work. -/
def State.beginUpd (s : State) (e : Nat) (t : Task) (x : UpdOp) (u : Upd) : State :=
  match x.mode with
  | 0 => s.setUpd e x.layer { u with phase := .tagWait, waitFrom := s.now }
  | 1 | 3 => s.setUpd e x.layer { u with phase := .pass1 }
  | 2 => s.interlock e t x u
  | 4 => s.derive e t x u
  | _ =>
    let r := s.readTo x.wT.ranges 0x0404
    match r.2 with
    | some k => (r.1.updSealErr e x.layer k).endUpd e t x u (UpdEnd.plain stSeal 0x0404)
    | none => r.1.interlock e t x u

/-- The keys of a NORMAL or COMMIT (R181). -/
def State.updKeys (s : State) (e : Nat) (t : Task) (x : UpdOp) (u : Upd) : State :=
  let q := e / 2
  let key := s.keyTable q
  if !(x.mode == 0 || x.mode == 1) then s.beginUpd e t x u
  else match faultIn key 4096 with
  | some a => s.faultUpd e t x u a
  | none =>
    let s := (s.cacheUse key 4096).check [key / 4096] 0x0205
    if !s.blockOk (key / 4096) then (s.keyErr q).endUpd e t x u (UpdEnd.plain stSeal 0x0205)
    else s.beginUpd e t x { u with keyW := s.keyAt q (t.fld 57 1), keyM := s.keyAt q (t.fld 58 1) }

/-- A task at its engine before anything of it is read. -/
def updStart (t : Task) (o h : List Byte) : Upd :=
  let m := updMode t
  let held := m == 1 || m == 2 || m == 3
  ⟨.idle, t.seq, m, o, h, [], [], if held then hdHoldStep h else if m == 4 then hdLast h else t.step, if held then hdHoldEta h else 0, 0, 0, 0,
    [], [], 0, 0, 0, 0, 0⟩

/-- An UPDATE of the step that the open window has, of any queue. -/
def State.endsWindow (s : State) (t : Task) : Bool := s.window.any fun w => w.step == t.step

/-- The engine takes a task: the operand record and the state header are read, and the checks of Table 9-6 made. The posted writes of the
die page are in force (R192). -/
def State.startUpd (s : State) (e : Nat) (t : Task) : State :=
  let s := (s.applyPage (pgGradDie (e / 2))).wf (pgUpdate e) R.UPDATE.CUR_TASK t.cmplIndex
  let oa := t.addr 32
  let sa := t.addr 40
  match faultIn oa 128 <|> faultIn sa 4096 with
  | some a => s.faultUpd e t (updOp t []) { updStart t [] [] with step := t.step } a
  | none =>
    let r := s.readTo [(oa, 128), (sa, 4096)] 0x0404
    match r.2 with
    | some k => (r.1.updSealErr e (t.fld 60 2) k).endUpd e t (updOp t []) { updStart t [] [] with step := t.step } (UpdEnd.plain stSeal 0x0404)
    | none =>
      let o := s.bytes oa 128
      let h := s.bytes sa 128
      let x := updOp t o
      let u := updStart t o h
      let c := updCheck x h
      if c != 0 then (r.1.log (pgUpdate e) 0x0407 [c, x.layer]).endUpd e t x u { UpdEnd.plain stAborted 0x0407 with code := c }
      else match faultOf (x.deriveRanges h) with
      | some a => r.1.faultUpd e t x u a
      | none => r.1.updKeys e t x u

/-- A task that waits in the dispatcher for its engine: handed over, and at no engine. -/
def State.updWaits (s : State) (t : Task) : Bool := t.type == 0x50 && t.isRunning && s.upds.all fun p => p.2.task != t.seq

/-- An engine can take a task: it has none, its last one has completed (R13), and no task handed over earlier waits for it (R15). -/
def State.updTakes (s : State) (e : Nat) (t : Task) : Bool :=
  (s.upd? e).isNone && s.betweenTasks (pgUpdate e) && s.coreReady (pgUpdate e) &&
    !s.tasks.any fun u => u.seq != t.seq && s.updWaits u && u.target == e && t.isLater u

/-- What an engine accesses when it takes a task waits for host-held lines (R28). -/
def State.updReads (s : State) (e : Nat) (t : Task) : List (Nat × Nat) :=
  [(t.addr 32, 128), (t.addr 40, 4096), ((s.applyPage (pgGradDie (e / 2))).keyTable (e / 2), 4096)] ++
    (updOp t (s.bytes (t.addr 32) 128)).deriveRanges (s.bytes (t.addr 40) 128)

/-- A task at its engine's dispatcher starts, if its engine takes it. -/
def State.tryUpd (s : State) (e : Nat) (t : Task) : State :=
  if s.updTakes e t then s.whenFree (s.updReads e t) fun s => s.startUpd e t else s

/-- An UPDATE reaches the dispatcher of its engine (R286, R287). The replay window of its step closes when an UPDATE is dispatched (R294). -/
def State.dispatchUpd (s : State) (e : Nat) (t : Task) : State :=
  let s := if s.endsWindow t then s.closeWindow 1 else s
  let s := s.handOver t .running (pgGradDie (e / 2)) [] e
  s.tryUpd e ((s.task? t.seq).getD t)

/-- An UPDATE of a mode is dispatched to an engine, or, where it waits there, started (DESIGN CHOICE, log 157). -/
def State.takeUpd (s : State) (n mode : Nat) : Host.Outcome State Fault Refusal :=
  match s.dispatchable n [0x50] with
  | some t =>
    match s.pickUnit 0x50 t.hint with
    | some e => if updMode t != mode then .next s else s.onDie (pllGrad (e / 2)) fun s => s.dispatchUpd e t
    | none => .next s
  | none =>
    match s.task? n with
    | some t => if s.updWaits t && updMode t == mode then s.onDie (pllGrad (t.target / 2)) fun s => s.tryUpd t.target t else .next s
    | none => .next s

/-- UPDATE_NORMAL (R223, R231). -/
def execUpdateNormal (n : Nat) (s : State) : Host.Outcome State Fault Refusal := s.takeUpd n 0
/-- UPDATE_COMMIT (R235). -/
def execUpdateCommit (n : Nat) (s : State) : Host.Outcome State Fault Refusal := s.takeUpd n 1
/-- UPDATE_DISCARD (R235). -/
def execUpdateDiscard (n : Nat) (s : State) : Host.Outcome State Fault Refusal := s.takeUpd n 2
/-- UPDATE_PROBE (R235). -/
def execUpdateProbe (n : Nat) (s : State) : Host.Outcome State Fault Refusal := s.takeUpd n 3
/-- UPDATE_DERIVE (R237). -/
def execUpdateDerive (n : Nat) (s : State) : Host.Outcome State Fault Refusal := s.takeUpd n 4
/-- UPDATE_DERIVE_SCALES (R237). -/
def execUpdateDeriveScales (n : Nat) (s : State) : Host.Outcome State Fault Refusal := s.takeUpd n 5

/-! Tag wait (R231, R234). -/

/-- What an engine's command does to its task in a phase. -/
def State.onUpd (s : State) (e : Nat) (phase : UpdPhase) (k : Task → UpdOp → Upd → Host.Outcome State Fault Refusal) :
    Host.Outcome State Fault Refusal :=
  match s.upd? e with
  | some u => match s.task? u.task with
    | some t => if u.phase == phase then k t (updOp t u.opnd) u else .next s
    | none => .next s
  | none => .next s

/-- `STEP_TAG` of an engine's page. -/
def State.stepTag (s : State) (e : Nat) : Nat := s.rf64 (pgUpdate e) R.UPDATE.STEP_TAG_LO R.UPDATE.STEP_TAG_HI

/-- TAG_WAIT_END (R231): η is latched; a layer that is held already completes HELD (R234). -/
def execTagWaitEnd (e : Engine) (s : State) : Host.Outcome State Fault Refusal :=
  s.onUpd e .tagWait fun t x u =>
    if s.stepTag e != u.step then .next s
    else
      let u := { u with eta := s.rf (pgUpdate e) R.UPDATE.STEP_ETA }
      if hdHeld u.head then
        .next ((s.log (pgUpdate e) 0x040B [x.layer, u.step]).endUpd e t x u (UpdEnd.plain stHeld 0x040B))
      else .next (s.setUpd e x.layer { u with phase := .pass1 })

/-- STEP_TAG_STALE (R231): the wait has reached `UPDATE_WAIT_MAX` ticks. -/
def execStepTagStale (e : Engine) (s : State) : Host.Outcome State Fault Refusal :=
  s.onUpd e .tagWait fun t x u =>
    if s.stepTag e == u.step || decide (s.now - u.waitFrom < s.rf (pgUpdate e) R.UPDATE.UPDATE_WAIT_MAX) then .next s
    else .next ((s.log (pgUpdate e) 0x0402 [x.layer, u.step, s.rf (pgUpdate e) R.UPDATE.STEP_TAG_LO]).endUpd e t x u
      (UpdEnd.plain stStale 0x0402))

/-! Pass 1 (R223, R224, R235, R238). -/

/-- Whether the ledger is used, by its head (R238): the factor κ, `LATE_USED`, `LATE_DROPPED`, and whether event 0x0409 is logged. -/
def State.ledgerUse (s : State) (x : UpdOp) (step : Nat) : Nat × Nat × Nat × Bool :=
  if x.ledger == 0 then (0, 0, 0, false)
  else
    let n := s.num (x.ledger + 12) 4
    let right := s.num x.ledger 8 == (step + 2 ^ 64 - 1) % 2 ^ 64 && s.num (x.ledger + 8) 2 == x.layer && pos32 x.late
    if !right then (0, 0, n, true) else if n == 0 then (0, 0, 0, false) else (x.late, n, 0, false)

/-- What pass 1 reads of G and of the ledger. -/
def UpdOp.lateRanges (x : UpdOp) (kappa : Nat) : List (Nat × Nat) :=
  (if x.g == 0 then [] else x.gT.ranges) ++ (if x.ledger == 0 then [] else [(x.ledger, 4096)]) ++ (if kappa == 0 then [] else x.lgT.ranges)

/-- The blocks of G and of the ledger, and those that fail. -/
def State.lateBad (s : State) (x : UpdOp) (kappa : Nat) : List Nat × List Nat :=
  let ks := blocksOfAll (x.lateRanges kappa)
  (ks, ks.filter fun k => !s.blockOk k)

/-- The digest of a PROBE: `m_new` row-major, `r_new`, `c_new` (R235). -/
def State.probeDigest (s : State) (x : UpdOp) (kappa : Nat) (p : Pass1) : List Byte :=
  sm3 (((List.range x.r).flatMap fun i => (List.range x.c).flatMap fun j => leBytes 4 (s.mNew x kappa i j)) ++
    p.rNew.flatMap (leBytes 4) ++ p.cNew.flatMap (leBytes 4))

/-- The reasons that hold a NORMAL update (Table 9-1), and `HOLD_REQ.ARM` cleared where it matches (R232). -/
def State.holdReasons (s : State) (e : Nat) (x : UpdOp) (u : Upd) (gBad : Bool) : State × Nat :=
  let page := pgUpdate e
  let host := s.rf page R.UPDATE.HOLD_REQ_ARM == 1 && s.rf page R.UPDATE.HOLD_REQ_LAYER == x.layer
  (if host then s.wf page R.UPDATE.HOLD_REQ_ARM 0 else s,
    b2n (u.nonfin != 0) + ratioReasons x u.head u.pred + 8 * b2n gBad + 16 * b2n host)

/-- Pass 1 has read everything: the decision of its mode. -/
def State.decide1 (s : State) (e : Nat) (t : Task) (x : UpdOp) (u : Upd) (p : Pass1) (gBad : Bool) : State :=
  if x.mode == 3 then s.endUpd e t x u { UpdEnd.plain stDone 0 with digest := s.probeDigest x u.kappa p }
  else if x.mode == 1 then
    if u.nonfin != 0 then s.endUpd e t x { u with reasons := 1 } (UpdEnd.plain stNonfinite 0)
    else s.interlock e t x u
  else
    let r := s.holdReasons e x u gBad
    r.1.interlock e t x { u with reasons := r.2 }

/-- The first address that pass 1 meets in no installed range (R304). -/
def State.pass1Fault (s : State) (x : UpdOp) (u : Upd) : Option Nat :=
  faultOf (x.slotRanges (hdSel u.head) ++ x.mT.ranges ++ (if x.g == 0 then [] else x.gT.ranges) ++
    (if x.ledger == 0 then [] else [(x.ledger, 4096)])) <|>
    (if (s.ledgerUse x u.step).1 == 0 then none else faultOf x.lgT.ranges)

/-- Pass 1 has read its blocks: a failing block of the current slot or of M ends the task, one of G or of the ledger is reason `G_SEAL`, which
holds a NORMAL update and ends the other modes (R224, R235, R240, R244). -/
def State.readPass1 (s : State) (e : Nat) (t : Task) (x : UpdOp) (u : Upd) : State :=
  let fail (s : State) (k reasons : Nat) : State :=
    (s.updSealErr e x.layer k).endUpd e t x { u with reasons := reasons } (UpdEnd.plain stSeal 0x0404)
  let c := s.readTo (x.slotRanges (hdSel u.head) ++ x.mT.ranges) 0x0404
  match c.2 with
  | some k => fail c.1 k 0
  | none =>
    let s := c.1
    let lg := s.ledgerUse x u.step
    let late := s.lateBad x lg.1
    let s := s.cacheReads (x.lateRanges lg.1) late.1
    match late.2, x.mode == 0 with
    | k :: _, false => fail (s.check ((late.1.takeWhile (· != k)) ++ [k]) 0x0404) k 8
    | _, _ =>
      let s := late.2.foldl (fun v k => v.updSealErr e x.layer k) (s.check late.1 0x0404)
      let s := if lg.2.2.2 then s.log (pgUpdate e) 0x0409 [x.layer, s.num (x.ledger + 12) 4, s.num x.ledger 4] else s
      let p := s.pass1 x u.head u.eta lg.1
      let u := { u with tau := p.tau, pred := p.pred, rNew := p.rNew, cNew := p.cNew, nonfin := p.nonfin
                        lateUsed := lg.2.1, lateDrop := lg.2.2.1, kappa := lg.1 }
      s.decide1 e t x u p (!late.2.isEmpty)

/-- Pass 1 ends (R224). -/
def State.endPass1 (s : State) (e : Nat) (t : Task) (x : UpdOp) (u : Upd) : State :=
  match s.pass1Fault x u with
  | some a => s.faultUpd e t x u a
  | none => s.readPass1 e t x u

/-- PASS1_DONE (R224). -/
def execPass1Done (e : Engine) (s : State) : Host.Outcome State Fault Refusal :=
  s.onUpd e .pass1 fun t x u => s.onDie (pllGrad (e / 2)) fun s => s.whenFree x.ranges fun s => s.endPass1 e t x u

/-- CHECKPOINT_INTERLOCK_CLEAR (R239). -/
def execCheckpointInterlockClear (e : Engine) (s : State) : Host.Outcome State Fault Refusal :=
  s.onUpd e .ckptWait fun t x u =>
    if s.ckptMark x != 0 then .next s
    else s.onDie (pllGrad (e / 2)) fun s => s.whenFree x.ranges fun s => s.firstWrite e t x u

/-- CHECKPOINT_INTERLOCK_TIMEOUT (R239). -/
def execCheckpointInterlockTimeout (e : Engine) (s : State) : Host.Outcome State Fault Refusal :=
  s.onUpd e .ckptWait fun t x u =>
    if s.ckptMark x == 0 || decide (s.now - u.waitFrom ≤ s.rf (pgUpdate e) R.UPDATE.UPDATE_WAIT_MAX) then .next s
    else .next ((s.log (pgUpdate e) 0x0403 [x.layer, s.ckptMark x]).endUpd e t x u
      (UpdEnd.plain stTimeout 0x0403))

/-! Pass 2 (R225 to R228, R240). -/

/-- Rows of the master, the moment and, in whole blocks, the codes are written. -/
def State.writeRows (s : State) (x : UpdOp) (u : Upd) (rows : List (List Elem2)) : State :=
  let b := rowBytes2 x u rows
  ((s.store x.w b.1).1.store x.m b.2.1).1.store x.mExp b.2.2 |>.1

/-- What a failed pass 2 has written and counted: clipped and non-finite codes of its rows, and its blocks. -/
structure PartEnd where
  clipped : Nat
  badCode : Nat
  blocks  : List Nat

/-- Pass 2 fails at a row (R240): the rows before it are written, and the layer becomes `PARTIAL`. -/
def State.partialUpd (s : State) (e : Nat) (x : UpdOp) (u : Upd) (row : Nat) : State × PartEnd :=
  let page := pgUpdate e
  let scales := s.nums (x.scaleAt (hdSel u.head)) x.c 2
  let rows := s.rows2 x u row
  let code (i j : Nat) : Nat × Bool × Bool := codeOf x (mKF24.decode (nth (nth rows i []) j ⟨0, 0, 0, .nan⟩).wNew) (nth scales j 0)
  let s := s.writeRows x u rows
  let whole := (List.range (16 * x.tiles)).filter fun k => match x.lastRow k with | some l => decide (l < row) | none => false
  let s := if !x.writesImage then s else
    (whole.foldl (fun v k => v.putSealed (x.image + 4096 + 4096 * k) (x.codeBlock (fmtOr x.imgFmt) (fun i j => (code i j).1) k)) s).putSealed
      x.image (List.replicate 4096 0)
  let s := s.writeHead x [(3, leBytes 1 (128 + 32)), (76, leBytes 4 row)]
  let s := s.inc64 page R.UPDATE.ELEM_LO R.UPDATE.ELEM_HI (row * x.c)
  let n := x.codeTotals code row
  let m : Tensor := { x.mT with rows := row }
  ((s.log page 0x0408 [x.layer, row]).cause page 5,
    ⟨n.1, n.2, blocksOfAll ([(x.w, 3 * row * x.c)] ++ m.ranges ++ [(x.state, 4096)]) ++
      (if x.writesImage then x.image / 4096 :: whole.map fun k => x.image / 4096 + 1 + k else [])⟩)

/-- The end of an UPDATE whose pass 2 failed: the reason found is `PARTIAL` (R240, R244). -/
def State.endPartial (s : State) (e : Nat) (t : Task) (x : UpdOp) (u : Upd) (p : PartEnd) (status event : Nat) : State :=
  s.endUpd e t x { u with reasons := 32 }
    { UpdEnd.plain status event with clipped := p.clipped, badCode := p.badCode, blocks := p.blocks }

/-- The blocks that pass 2 reads, each with the first row it holds. -/
def State.pass2Bad (s : State) (x : UpdOp) (kappa : Nat) : List (Nat × Nat) :=
  let ps := x.wT.planes ++ x.mT.planes ++ (if x.g == 0 then [] else x.gT.planes) ++ (if kappa == 0 then [] else x.lgT.planes)
  ps.flatMap fun p => p.blocks.filterMap fun k => if s.blockOk k then none else some (((p.unitsIn k).headD (0, 0)).1, k)

/-- The first failing block by row. -/
def firstRow (l : List (Nat × Nat)) : Option (Nat × Nat) :=
  l.foldl (fun best b => match best with | none => some b | some a => if b.1 < a.1 then some b else some a) none

/-- The commit (R228). -/
def State.commitUpd (s : State) (e : Nat) (t : Task) (x : UpdOp) (u : Upd) : State :=
  let page := pgUpdate e
  let z := hdSel u.head
  let scales := s.nums (x.scaleAt z) x.c 2
  let rows := s.rows2 x u x.r
  let flat := rows.flatMap id
  let wv (y : Elem2) : FVal := mKF24.decode y.wNew
  let sqs (f : Elem2 → FVal) : FVal := fsum (flat.map fun y => (f y).mul (f y))
  let nw2 := e64 (sqs wv)
  let nd2 := e64 (sqs fun y => d32 y.d)
  let w2 := sqs fun y => y.wOld
  let dw2 := sqs fun y => (wv y).add y.wOld.neg
  let ratio := if w2.isZero then 0 else div64 (sqrt64 (e64 dw2)) (sqrt64 (e64 w2))
  let at_ (i j : Nat) : FVal := wv (nth (nth rows i []) j ⟨0, 0, 0, .nan⟩)
  let code (i j : Nat) : Nat × Bool × Bool := codeOf x (at_ i j) (nth scales j 0)
  let n := x.codeTotals code x.r
  let b := rowBytes2 x u rows
  let digest := sm3 (b.1 ++ b.2.1 ++ b.2.2 ++ leBytes 2 x.layer ++ leBytes 8 u.step)
  let newScales := (List.range x.c).map fun j => newScale x (fsum ((List.range x.r).map fun i => (at_ i j).abs))
  let s := s.writeRows x u rows
  let s := if x.writesImage then s.writeImage x (fun i j => (code i j).1) (nth scales · 0) u.step else s
  let s := s.putVec (x.scaleAt (1 - z)) (newScales.flatMap (leBytes 2))
  let s := s.writeHead x [(2, leBytes 1 (fieldAt u.head 2 1 / 2 * 2 + (1 - z))), (3, leBytes 1 0), (16, leBytes 8 (hdSteps u.head + 1)),
    (24, leBytes 8 u.step), (32, leBytes 8 0), (40, leBytes 4 0), (44, leBytes 4 (nextMed (hdMed u.head) ratio)), (48, leBytes 8 nw2),
    (56, leBytes 8 nd2), (64, leBytes 8 ratio), (72, leBytes 4 u.tau), (80, digest)]
  let s := ((s.inc page R.UPDATE.COMMITS).wf page R.UPDATE.LAST_RATIO (e32 (d64 ratio))).inc64 page R.UPDATE.ELEM_LO R.UPDATE.ELEM_HI
    (x.r * x.c)
  let s := if x.mode == 1 then s.log page 0x0405 [x.layer, u.step] else s
  let st := if x.mode == 1 then stReplayed else if n.1 != 0 then stClipped else stDone
  let ks := blocksOfAll ([(x.w, 3 * x.r * x.c)] ++ x.mT.ranges ++ (if x.writesImage then [x.imageRange] else []) ++
    [(x.state, 4096), (x.slotAt (1 - z), x.slotLen)])
  s.endUpd e t x u ⟨st, 0, 0, n.1, n.2, some ratio, digest, ks⟩

/-- Pass 2 ends. -/
def State.endPass2 (s : State) (e : Nat) (t : Task) (x : UpdOp) (u : Upd) : State :=
  let bad := s.pass2Bad x u.kappa
  let rs := x.wT.ranges ++ x.mT.ranges ++ (if x.g == 0 then [] else x.gT.ranges) ++ (if u.kappa == 0 then [] else x.lgT.ranges)
  let ks := blocksOfAll rs
  let s := s.cacheReads rs ks
  match firstRow bad with
  | some b =>
    let s := s.check ((ks.filter fun k => s.blockOk k || k == b.2)) 0x0404
    let p := (s.updSealErr e x.layer b.2).partialUpd e x u b.1
    p.1.endPartial e t x u p.2 stSeal 0x0404
  | none => (s.check ks 0x0404).commitUpd e t x u

/-- PASS2_DONE (R228). -/
def execPass2Done (e : Engine) (s : State) : Host.Outcome State Fault Refusal :=
  s.onUpd e .pass2 fun t x u => s.onDie (pllGrad (e / 2)) fun s => s.whenFree x.ranges fun s => s.endPass2 e t x u

/-- A block reset stops an engine's task (R16, R246): in pass 2 the layer is left as a failure at some row leaves it. -/
def State.abortUpd (s : State) (e : Nat) : State :=
  match s.upd? e with
  | some u => match s.task? u.task with
    | some t =>
      let x := updOp t u.opnd
      if u.phase == .pass2 then
        let d := s.draw 2
        let p := d.2.partialUpd e x u (d.1.toNat % (x.r + 1))
        p.1.endPartial e t x u p.2 stAborted 0
      else s.endUpd e t x u (UpdEnd.plain stAborted 0)
    | none => s
  | none => s

/-! Commands of the page (R232, R247). -/

/-- HOLD_REQ (R232). -/
def execHoldReq (view : View) (e : Engine) (arm : Bool) (layer : BitVec 16) (s : State) : Host.Outcome State Fault Refusal :=
  let page := pgUpdate e
  .next (s.onWrite view page false fun s =>
    s.crossOrPost view (page + R.UPDATE.HOLD_REQ_ARM.off) (BitVec.ofNat 32 (b2n arm * 2 ^ 31 + layer.toNat)))

/-- UPDATE_COUNT_CLEAR (R247). -/
def execUpdateCountClear (view : View) (e : Engine) (s : State) : Host.Outcome State Fault Refusal :=
  let page := pgUpdate e
  .next (s.onWrite view page false fun s => s.crossOrPost view (page + R.UPDATE.COUNT_CLEAR_CLEAR.off) 1)

end Sys2Proof.Machine
end

