-- ==== Sys2Proof/Machine/Snapshot.lean ====
section
/-! DEFINITION. Checkpoints (R403 to R413, R419 to R422): manifests, the stored form, SNAPSHOT in its four kinds. -/

namespace Sys2Proof.Machine

/-! The manifest (R404). -/

/-- Address of a task's manifest. -/
def Task.manifestAt (t : Task) : Nat := t.addr 32 / 4096 * 4096
/-- `MF_LAYERS`. -/
def mfLayers (m : List Byte) : Nat := fieldAt m 0 2
/-- `MF_TARGETS`. -/
def mfTargets (m : List Byte) : Nat := fieldAt m 2 1
/-- `MF_DEST`: the shared store. -/
def mfStore (m : List Byte) : Bool := bit (fieldAt m 3 1) 0
/-- `MF_DATA_POS`. -/
def mfDataPos (m : List Byte) : List Byte := (m.drop 8).take 32
/-- Device address of target `k`. -/
def mfDevice (m : List Byte) (k : Nat) : Nat := fieldAt m (64 + 16 * k) 8 % 2 ^ 52 / 4096 * 4096
/-- Object of target `k`. -/
def mfObject (m : List Byte) (k : Nat) : Nat := fieldAt m (64 + 16 * k) 8
/-- Store node ID of target `k`. -/
def mfNode (m : List Byte) (k : Nat) : Nat := fieldAt m (72 + 16 * k) 2 % 4096
/-- Bytes of a manifest. -/
def mfLen (layers : Nat) : Nat := 512 + 64 * Nat.min layers 4096

/-- Layer entry `i` in the terms of an update (Table 16-3). -/
def mfEntry (m : List Byte) (i : Nat) : UpdOp :=
  let e := (m.drop (512 + 64 * i)).take 64
  { mode := 4, layer := fieldAt e 40 2, gFmt := 0, imgFmt := 0, krLog := 0, state := recAddr e 0, result := 0, g := 0, m := recAddr e 16
    mExp := recAddr e 24, w := recAddr e 8, image := 0, ledger := recAddr e 32, tag := 0, r := fieldAt e 44 4, c := fieldAt e 48 4, prm := [] }

/-- The layer entries in order. -/
def mfEntries (m : List Byte) : List UpdOp := (List.range (mfLayers m)).map (mfEntry m)

/-- Bytes of the moment's two planes. -/
def UpdOp.momentLens (x : UpdOp) : Nat × Nat := (x.r * (32 * ((x.c + 31) / 32)), x.r * ((x.c + 31) / 32))

/-- The ranges of a layer that a checkpoint holds, with its ledger's data when `data`. -/
def UpdOp.stateRanges (x : UpdOp) (data : Bool) : List (Nat × Nat) :=
  [(x.state, 4096 + 2 * x.slotLen), (x.w, up4k (3 * x.r * x.c)), (x.m, up4k x.momentLens.1), (x.mExp, up4k x.momentLens.2)] ++
    (if x.ledger == 0 then [] else [(x.ledger, 4096 + (if data then up4k (4 * x.r * x.c) else 0))])

/-- The ledger of a layer that the UPDATE of step `step` would read holds data (R405, R411). -/
def State.ledgerData (s : State) (step : Nat) (x : UpdOp) : Bool :=
  x.ledger != 0 && s.num x.ledger 8 == (step + 2 ^ 64 - 1) % 2 ^ 64 && s.num (x.ledger + 8) 2 == x.layer && s.num (x.ledger + 12) 4 != 0

/-! The stored form (R405). -/

/-- Bytes cut into 4 KiB blocks. -/
def blocks4k (b : List Byte) : List (List Byte) := (List.range ((b.length + 4095) / 4096)).map fun i => (b.drop (4096 * i)).take 4096

/-- The directory (R405). -/
def directory (es : List UpdOp) (flags : List Bool) : List Byte :=
  fill4k ((List.range es.length).flatMap fun i =>
    let x := nth es i (mfEntry [] 0)
    leBytes 2 x.layer ++ leBytes 1 (b2n (nth flags i false)) ++ leBytes 1 0 ++ leBytes 4 x.r ++ leBytes 4 x.c ++ leBytes 4 0)

/-- Body blocks of a checkpoint. -/
def bodyLen (es : List UpdOp) (flags : List Bool) : Nat :=
  up4k (16 * es.length) / 4096 + 33 + ((List.range es.length).map fun i =>
    let x := nth es i (mfEntry [] 0)
    (4096 + 2 * x.slotLen + up4k (3 * x.r * x.c) + up4k x.momentLens.1 + up4k x.momentLens.2 + 4096 +
      (if nth flags i false then up4k (4 * x.r * x.c) else 0)) / 4096).sum

/-- Bytes of a layer's data in an evaluation snapshot (R419). -/
def UpdOp.exportLen (x : UpdOp) (kind : Nat) : Nat :=
  if kind == 1 then up4k (2 * x.r * x.c) else if kind == 2 then up4k (4 * x.r * x.c) else x.imageRange.2

/-- Body blocks of an evaluation snapshot. -/
def exportBlocks (es : List UpdOp) (kind : Nat) : Nat := (es.map fun x => 1 + x.exportLen kind / 4096).sum

/-- Blocks of target `k` of `n`, its header among them, for a body of `len` blocks. -/
def targetBlocks (len n k : Nat) : Nat := 1 + (len + n - 1 - k) / n

/-- The device ranges of the targets of a manifest. -/
def deviceTargets (m : List Byte) (len : Nat) : List (Nat × Nat) :=
  if mfStore m then [] else (List.range (mfTargets m)).map fun k => (mfDevice m k, 4096 * targetBlocks len (mfTargets m) k)

/-- Two ranges share a byte. -/
def overlap (a b : Nat × Nat) : Bool := decide (a.1 < b.1 + b.2) && decide (b.1 < a.1 + a.2)

/-- `FAIL_ENTRY` for none. -/
def noEntry : Nat := 0xFFFF

/-! A SNAPSHOT or RESTORE in progress. -/

/-- That of a task. -/
def State.snap? (s : State) (n : Nat) : Option Snap := s.snaps.find? fun x => x.task == n
/-- The state with one replaced. -/
def State.setSnap (s : State) (x : Snap) : State := { s with snaps := s.snaps.map fun y => if y.task == x.task then x else y }
/-- Its layer entries; of kind 3 with the image that it writes. -/
def Snap.entries (x : Snap) (t : Task) : List UpdOp :=
  (mfEntries x.manifest).map fun e => { e with imgFmt := t.fld 49 1 % 64, krLog := t.fld 50 1 % 8 }
/-- Targets. -/
def Snap.targets (x : Snap) : Nat := mfTargets x.manifest

/-- The page that holds a checkpoint task's unit: the memory-side die that owns its manifest. -/
def Task.ckptPage (t : Task) : Nat := pgMemDie (blockOwner t.manifestAt).1

/-- The record of Table 16-8. -/
def Snap.record (x : Snap) (step blocks ticks : Nat) (pos digest : List Byte) : List Byte :=
  leBytes 8 step ++ leBytes 1 x.kind ++ leBytes 1 0 ++ leBytes 2 x.layer ++ leBytes 2 noEntry ++ leBytes 2 0 ++ leBytes 8 blocks ++
    leBytes 4 ticks ++ leBytes 4 0 ++ pos ++ digest

/-- What is left to be written when a task of chapter 16 ends (R421). -/
def snapPost (t : Task) (rec : List Byte) (fail : Nat) : List Post :=
  if t.addr 40 == 0 then [] else [.store (t.addr 40) (patch rec 12 (leBytes 2 fail))]

/-- The blocks that a SNAPSHOT has written to targets in device memory (R383). -/
def Snap.outputs (x : Snap) : List Nat :=
  if mfStore x.manifest then []
  else ((List.range x.issued).map fun b => mfDevice x.manifest (b % x.targets) / 4096 + b / x.targets + 1) ++
    x.headers.map fun k => mfDevice x.manifest k / 4096

/-- One mark of R409 is cleared, merging its header (R382). -/
def State.clearMark (s : State) (a : Nat) : State := (s.merge (a + 12) (leBytes 4 0) 0x0B03).1

/-- Marks that a SNAPSHOT still holds are cleared (R412, R413). -/
def State.clearMarks (s : State) (l : List Nat) : State := l.foldl State.clearMark s

/-- A SNAPSHOT ends: its grant is released. -/
def State.endSnap (s : State) (t : Task) (x : Snap) (st event fail : Nat) : State :=
  let ticks := (s.now - x.tempo) % 2 ^ 32
  let rec_ := x.record x.step x.issued ticks (mfDataPos x.manifest) (sm3 (x.body.flatMap id))
  let s := ({ s with snaps := s.snaps.filter fun y => y.task != x.task }).release mCkpt x.task
  s.endTask t st 0 event 0 (snapPost t rec_ fail ++ [.readBack t.ckptPage x.outputs])

/-- A SNAPSHOT fails after its grant (R412). -/
def State.failSnap (s : State) (t : Task) (x : Snap) (st fail : Nat) : State :=
  ((s.clearMarks x.marked).log t.ckptPage 0x0B03 [st, fail]).endSnap t x st 0x0B03 fail

/-! The checks of a manifest (R408, Table 16-6). -/

/-- Checks 1 and 2: the code that fails, 0 for none. `len` is the number of body blocks, `src` the source ranges. -/
def mfCheck (m : List Byte) (len : Nat) (src : List (Nat × Nat)) : Nat :=
  if mfLayers m == 0 || 4096 < mfLayers m || mfTargets m == 0 || 16 < mfTargets m then 1
  else if (deviceTargets m len).any fun r => !deviceRange r.1 r.2 || src.any (overlap r) then 2 else 0

/-- Check 3 of an entry: its state header as checked. -/
def State.headerOk (s : State) (x : UpdOp) : Bool :=
  let h := s.bytes x.state 4096
  s.blockOk (x.state / 4096) && fieldAt h 0 2 == x.layer && fieldAt h 4 4 == x.r && fieldAt h 8 4 == x.c

/-- Check 4 of an entry. -/
def State.stepOk (s : State) (step : Nat) (x : UpdOp) : Bool :=
  let h := s.bytes x.state 4096
  !hdHeld h && (decide (hdLast h < step) || hdSteps h == 0)

/-- The first entry whose state header does not pass check 3, or lies in no installed range. -/
def State.badHeader (s : State) (es : List UpdOp) : Option Nat := es.findIdx? fun x => !rangeOk x.state 4096 || !s.headerOk x

/-- Checks 3 to 5: the code that fails and the entry, or none. -/
def State.snapCheck (s : State) (t : Task) (kind : Nat) (es : List UpdOp) : Option (Nat × Nat) :=
  match s.badHeader es with
  | some i => some (3, i)
  | none =>
    match if kind == 0 then es.findIdx? fun x => !s.stepOk t.step x else none with
    | some i => some (4, i)
    | none =>
      if kind == 3 && !((t.fld 49 1 % 64 == 1 || t.fld 49 1 % 64 == 2) && decide (t.fld 50 1 % 8 ≤ 5)) then some (5, noEntry) else none

/-- The source ranges of a SNAPSHOT (Table 16-1): of an evaluation snapshot, the masters and the state records. -/
def State.snapSources (s : State) (t : Task) (kind : Nat) (es : List UpdOp) (flags : List Bool) : List (Nat × Nat) :=
  [(t.manifestAt, mfLen es.length)] ++
    (if kind == 0 then [(s.keyTable 0, 4096)] else []) ++
    (List.range es.length).flatMap fun i =>
      let x := nth es i (mfEntry [] 0)
      if kind == 0 then x.stateRanges (nth flags i false) else [(x.state, 4096 + 2 * x.slotLen), (x.w, up4k (3 * x.r * x.c))]

/-- A SNAPSHOT is refused before its grant (R408, R412): no record. -/
def State.refuseSnap (s : State) (t : Task) (st code event fail : Nat) : State :=
  (s.log t.ckptPage 0x0B03 [st, fail]).handOver t (.finished st code event 0) t.ckptPage [] 0

/-- The grant and the start of a SNAPSHOT. -/
def State.startSnap (s : State) (t : Task) (kind : Nat) (m : List Byte) (flags : List Bool) : State :=
  let g := s.askGrant mCkpt [] t.seq
  if !g.2 then g.1.refuseSnap t stMaintBusy 0 0x0A08 noEntry
  else
    let s := g.1.handOver t .running t.ckptPage [] 0
    { s with snaps := s.snaps ++
        [Snap.mk t.seq false kind t.step s.now m [] 0 [] flags 0 [] [] 0 [] [] s.now] }

/-- The entries of a SNAPSHOT task's manifest. -/
def snapEntries (t : Task) (m : List Byte) : List UpdOp :=
  (mfEntries m).map fun e => { e with imgFmt := t.fld 49 1 % 64, krLog := t.fld 50 1 % 8 }

/-- SNAPSHOT at dispatch (R408). -/
def State.takeSnap (s : State) (t : Task) : State :=
  let a := t.manifestAt
  let kind := t.fld 48 1 % 4
  let m := s.bytes a (mfLen (s.num a 2))
  let refuse (s : State) (code fail : Nat) : State := (s.log t.ckptPage 0x0B02 [code, fail]).refuseSnap t stAborted code 0x0B02 fail
  match faultIn a (mfLen (s.num a 2)) with
  | some b => ((s.accessFault (blockOwner a).1 b 0x70)).refuseSnap t stAborted 0 0x0702 noEntry
  | none =>
    let c := s.readTo [(a, mfLen (s.num a 2))] 0x0B03
    match c.2 with
    | some _ => c.1.refuseSnap t stSeal 0 0x0B03 noEntry
    | none =>
      let s := c.1
      if mfCheck m 0 [] == 1 then refuse s 1 noEntry
      else
        let es := snapEntries t m
        let flags := es.map (s.ledgerData t.step)
        let src := s.snapSources t kind es flags
        if mfCheck m (if kind == 0 then bodyLen es flags else exportBlocks es kind) src == 2 then refuse s 2 noEntry
        else
          let bad := s.badHeader es
          let s := s.readChecked ((es.take (bad.getD es.length + 1)).map fun x => (x.state, 4096)) 0x0B03
          match bad.bind fun i => faultIn (nth es i (mfEntry [] 0)).state 4096 with
          | some b => ((s.accessFault (blockOwner a).1 b 0x70)).refuseSnap t stAborted 0 0x0702 (bad.getD noEntry)
          | none =>
            match s.snapCheck t kind es with
            | some f => refuse s f.1 f.2
            | none => s.startSnap t kind m flags

/-- SNAPSHOT (R408). -/
def execSnapshot (n : Nat) (s : State) : Host.Outcome State Fault Refusal :=
  .next (match s.dispatchable n [0x70] with
    | some t =>
      let a := t.manifestAt
      s.whenFree ([(a, mfLen (s.num a 2))] ++ (mfEntries (s.bytes a (mfLen (s.num a 2)))).map fun x => (x.state, 4096)) fun s => s.takeSnap t
    | none => s)

/-! Blocks to the targets (R405, R406). -/

/-- A block goes to a target: written to device memory, or sent to its store under a tag that stands for `what`. -/
def State.toTarget (s : State) (x : Snap) (k j what : Nat) (b : List Byte) : State :=
  if mfStore x.manifest then
    let g := s.takeTag
    ((g.2.setSnap { x with pending := x.pending ++ [(g.1, what)] })).sendMsg
      { op := 0x30, dst := 4096 + mfNode x.manifest k, tag := g.1, arg := j, addr := mfObject x.manifest k, sealW := crc32c b, flags := 1, data := b }
  else (s.putSealed (mfDevice x.manifest k + 4096 * j) b).setSnap x

/-- The body blocks formed and not yet moved go to their targets, at most 64 unacknowledged (R363). -/
def State.moveBody (fuel : Nat) (s : State) (n : Nat) : State :=
  match fuel with
  | 0 => s
  | k + 1 =>
    match s.snap? n with
    | some x =>
      if decide (x.issued < x.body.length) && decide (x.pending.length < 64) then
        let b := x.issued
        (s.toTarget { x with issued := b + 1 } (b % x.targets) (b / x.targets + 1) (2 * b) (nth x.body b [])).moveBody k n
      else s
    | none => s

/-- As `moveBody`, for as many blocks as there are. -/
def State.move (s : State) (n : Nat) : State :=
  match s.snap? n with
  | some x => s.moveBody (x.body.length - x.issued) n
  | none => s

/-- The header of Table 16-4. -/
def State.ckptHeader (s : State) (x : Snap) (sig : List Byte) : List Byte :=
  fill4k ([0x4E, 0x4B, 0x43, 0x4B] ++ leBytes 1 1 ++ leBytes 1 x.kind ++ leBytes 2 (mfLayers x.manifest) ++ leBytes 8 x.step ++
    leBytes 8 x.body.length ++ leBytes 8 x.tempo ++ mfDataPos x.manifest ++ sm3 (x.body.flatMap id) ++ leBytes 2 s.myId ++
    leBytes 1 x.targets ++ List.replicate 13 0 ++ sig)

/-! Kind 0 (R409 to R411). -/

/-- An UPDATE uses a listed record. -/
def State.updRunning (s : State) (x : Snap) : Bool :=
  s.tasks.any fun u => u.type == 0x50 && u.isHanded && (mfEntries x.manifest).any fun e => e.state == u.addr 40

/-- `LS_CKPT_MARK` of step `step`. -/
def markOf (step : Nat) : Nat := if step % 2 ^ 32 == 0 then 1 else step % 2 ^ 32

/-- The operation of R409: marks, estimator saves, key table; the blocks ahead of the layers are formed. -/
def State.markSnap (s : State) (t : Task) (x : Snap) : State :=
  let es := mfEntries x.manifest
  let heads := if x.kind == 0 then es.map (·.state) else []
  let bad := heads.findIdx? fun a => !s.blockOk (a / 4096)
  let good := heads.filter fun a => s.blockOk (a / 4096)
  let s := heads.foldl (fun u a => (u.merge (a + 12) (leBytes 4 (markOf x.step)) 0x0B03).1) s
  let s := (List.range 4).foldl (fun u q => u.saveEst q (u.estAddr q)) s
  let x := { x with marked := good, stage := 1 }
  match bad with
  | some i => s.failSnap t x stSeal i
  | none =>
    if x.kind != 0 then s.setSnap x
    else
      let key := s.keyTable 0
      let c := s.readTo [(key, 4096)] 0x0B03
      if !rangeOk key 4096 then (s.accessFault (blockOwner t.manifestAt).1 key 0x70).failSnap t x stAborted noEntry
      else if c.2.isSome then c.1.failSnap t x stSeal noEntry
      else
        let body := blocks4k (directory es x.flags) ++ [s.bytes key 4096] ++ (List.range 4).flatMap fun q => blocks4k (s.estBytes q)
        (c.1.setSnap { x with body := body }).move x.task

/-- The lines that an operation of a snapshot may touch (R28). -/
def State.snapRanges (s : State) (t : Task) (x : Snap) : List (Nat × Nat) :=
  s.snapSources t x.kind (mfEntries x.manifest) x.flags ++ deviceTargets x.manifest (bodyLen (mfEntries x.manifest) x.flags) ++
    (List.range 4).map fun q => (s.estAddr q, 32768)

/-- A step of the SNAPSHOT of a task. -/
def State.onSnap (s : State) (n : Nat) (ok : Snap → Bool) (k : State → Task → Snap → State) : Host.Outcome State Fault Refusal :=
  .next (match s.snap? n, s.task? n with
    | some x, some t => if !x.restore && ok x then s.whenFree (s.snapRanges t x) fun s => k s t x else s
    | _, _ => s)

/-- SNAPSHOT_MARK (R409): once no UPDATE runs on a listed record. -/
def execSnapshotMark (n : Nat) (s : State) : Host.Outcome State Fault Refusal :=
  s.onSnap n (fun x => x.stage == 0 && !s.updRunning x) State.markSnap

/-- The bytes of a layer's sections (Table 16-1): the mark 0 in the header's copy, a ledger of another step or layer as its head
alone with `LG_COUNT` 0, and zeros where there is no ledger. -/
def State.layerBody (s : State) (x : UpdOp) (data : Bool) : List Byte :=
  let lg := if x.ledger == 0 then List.replicate 4096 0
    else if data then s.bytes x.ledger (4096 + up4k (4 * x.r * x.c)) else patch (s.bytes x.ledger 4096) 12 (leBytes 4 0)
  patch (s.bytes x.state (4096 + 2 * x.slotLen)) 12 (leBytes 4 0) ++ s.bytes x.w (up4k (3 * x.r * x.c)) ++
    s.bytes x.m (up4k x.momentLens.1) ++ s.bytes x.mExp (up4k x.momentLens.2) ++ lg

/-- The next layer is read, and its mark cleared (R410). -/
def State.streamLayer (s : State) (t : Task) (x : Snap) : State :=
  let e := mfEntry x.manifest x.layer
  let data := nth x.flags x.layer false
  let c := s.readTo (e.stateRanges data) 0x0B03
  match faultOf (e.stateRanges data) with
  | some a => (s.accessFault (blockOwner t.manifestAt).1 a 0x70).failSnap t x stAborted x.layer
  | none =>
  if c.2.isSome then c.1.failSnap t x stSeal x.layer
  else
    let body := x.body ++ blocks4k (s.layerBody e data)
    let s := c.1.clearMark e.state
    (s.setSnap { x with body := body, layer := x.layer + 1, marked := x.marked.filter (· != e.state) }).move x.task

/-- SNAPSHOT_LAYER_STREAMED (R410). -/
def execSnapshotLayerStreamed (n : Nat) (s : State) : Host.Outcome State Fault Refusal :=
  s.onSnap n (fun x => x.kind == 0 && x.stage == 1 && decide (x.layer < mfLayers x.manifest)) State.streamLayer

/-! Headers and the end (R406, R412). -/

/-- Every target has its header: DONE. -/
def State.closeSnap (s : State) (n : Nat) : State :=
  match s.snap? n, s.task? n with
  | some x, some t =>
    if x.headers.length == x.targets then (s.log t.ckptPage 0x0B01 [x.kind, x.step, x.body.length]).endSnap t x stDone 0 noEntry else s
  | _, _ => s

/-- Every body block of target `k` has been written or acknowledged, and no header is on its way to it. -/
def Snap.readyTarget (x : Snap) (k : Nat) : Bool :=
  x.issued == x.body.length && !x.headers.contains k &&
    !x.pending.any fun p => p.2 == 2 * k + 1 || (p.2 % 2 == 0 && p.2 / 2 % x.targets == k)

/-- The header goes to a target. -/
def State.headTarget (s : State) (n k : Nat) : State :=
  match s.snap? n with
  | some x =>
    if !x.readyTarget k then s
    else
      let h := if x.header.isEmpty then s.ckptHeader x (List.replicate 64 0) else x.header
      s.toTarget (if mfStore x.manifest then x else { x with headers := x.headers ++ [k] }) k 0 (2 * k + 1) h
  | none => s

/-- SNAPSHOT_HEADER_WRITE (R406): every target whose body blocks all stand gets its header. -/
def execSnapshotHeaderWrite (n : Nat) (s : State) : Host.Outcome State Fault Refusal :=
  s.onSnap n (fun x => x.stage == 1 && x.layer == mfLayers x.manifest && !x.body.isEmpty) fun s _ x =>
    ((List.range x.targets).foldl (fun u k => u.headTarget n k) s).closeSnap n

/-- A STORE_ACK answers a block of a SNAPSHOT. -/
def State.ackSnap (s : State) (m : List Byte) : State :=
  match s.snaps.find? fun x => x.pending.any fun p => p.1 == mTag m with
  | none => s
  | some x =>
    match s.task? x.task, x.pending.find? fun p => p.1 == mTag m with
    | some t, some p =>
      let st := responseStatus (mStatus m)
      let x := { x with pending := x.pending.filter fun q => q.1 != mTag m, quietAt := s.now }
      if st != stDone then s.failSnap t x st noEntry
      else ((s.setSnap (if p.2 % 2 == 1 then { x with headers := x.headers ++ [p.2 / 2] } else x)).move x.task).closeSnap x.task
    | _, _ => s

/-- The record headers whose marks the end of the SNAPSHOT that a message answers may clear. -/
def State.ackedHeads (s : State) (m : List Byte) : List (Nat × Nat) :=
  match s.snaps.find? fun x => x.pending.any fun p => p.1 == mTag m with
  | some x => (mfEntries x.manifest).map fun e => (e.state, 4096)
  | none => []

/-- STORE_ACK (R362, R365, R406). -/
def execStoreAck (n : PortNo) (s : State) : Host.Outcome State Fault Refusal :=
  .next (match s.waitingMsg n 0x31 with
    | some m => s.whenFree (s.putRange m ++ s.ackedHeads m) fun s =>
      s.receive n 0x31 fun s m => if (s.txnOf (mTag m)).isSome then s.ackTxn m else s.ackSnap m
    | none => s)

/-- STORE_STAT_RESP (R362): no command of the module asks for an object's size, so that nothing waits for the answer. -/
def execStoreStatResp (n : PortNo) (s : State) : Host.Outcome State Fault Refusal := .next (s.receive n 0x35 fun s _ => s)

/-! Evaluation snapshots (R419, R420). -/

/-- The data of a layer. -/
def State.exportLayer (s : State) (kind : Nat) (e : UpdOp) : List Byte :=
  let elems (f : Nat → Nat → List Byte) : List Byte := fill4k ((List.range e.r).flatMap fun i => (List.range e.c).flatMap (f i))
  if kind == 1 then elems fun i j => leBytes 2 (convertElem .kf16 .rne 0 0 (s.elemAt e.wT i j)).raw
  else if kind == 2 then elems fun i j => leBytes 4 (s.rawElem e.wT i j * 256)
  else
    let h := s.bytes e.state 4096
    let scales := s.nums (e.scaleAt (1 - hdSel h)) e.c 2
    e.imageBytes (fun i j => (s.codeOfW e scales i j).1) (nth scales · 0) (hdLast h)

/-- The head block of a layer. -/
def exportHead (kind imgFmt : Nat) (e : UpdOp) : List Byte :=
  fill4k (leBytes 2 e.layer ++ leBytes 2 0 ++ leBytes 4 e.r ++ leBytes 4 e.c ++
    leBytes 1 (if kind == 1 then Fmt.kf16.code else if kind == 2 then Fmt.b32.code else imgFmt))

/-- The ranges that the export of a layer reads. -/
def UpdOp.exportRanges (e : UpdOp) (kind : Nat) : List (Nat × Nat) :=
  [(e.w, 3 * e.r * e.c)] ++ (if kind == 3 then [(e.state, 4096 + 2 * e.slotLen)] else [])

/-- The blocks that the export of a layer reads. -/
def UpdOp.exportReads (e : UpdOp) (kind : Nat) : List Nat := blocksOfAll (e.exportRanges kind)

/-- The export of every layer, signed (R420). `CI_TAG` of an exported image is a free value: the manual names none. -/
def State.exportAll (s : State) (t : Task) (x : Snap) : State :=
  let es := x.entries t
  let bad := es.findIdx? fun e => (faultOf (e.exportRanges x.kind)).isSome || (s.firstBad (e.exportReads x.kind)).isSome
  let lost := bad.bind fun i => faultOf ((nth es i (mfEntry [] 0)).exportRanges x.kind)
  let read := es.take (bad.getD es.length + if lost.isSome then 0 else 1)
  let s := read.foldl (fun u e => (u.readTo (e.exportRanges x.kind) 0x0B03).1) s
  match bad, lost with
  | some i, some a => (s.accessFault (blockOwner t.manifestAt).1 a 0x70).failSnap t x stAborted i
  | some i, none => s.failSnap t x stSeal i
  | none, _ =>
    let tag := s.draw 0x419
    let body := es.flatMap fun e => blocks4k (exportHead x.kind e.imgFmt e ++ tag.2.exportLayer x.kind { e with tag := tag.1.toNat })
    let x := { x with body := body, layer := es.length }
    let unsigned := tag.2.ckptHeader x []
    let sig := (List.range 64).map (Config.sm2Sign tag.2.fresh (sm3 (unsigned.take 112)))
    let s := ({ tag.2 with fresh := tag.2.fresh + 1 }).inc pgSecurity R.SECURITY.SIGN_COUNT
    let s := s.log t.ckptPage 0x0B07 [x.kind, fieldAt (sm3 (body.flatMap id)) 0 8]
    (s.setSnap { x with header := patch unsigned 112 sig }).move x.task

/-- EVALUATION_SNAPSHOT (R419). -/
def execEvaluationSnapshot (n : Nat) (s : State) : Host.Outcome State Fault Refusal :=
  s.onSnap n (fun x => x.kind != 0 && x.stage == 1 && x.layer == 0) State.exportAll

/-! Resets (R412, R413). -/

/-- A SNAPSHOT that a reset or the stop sequence ends without a record (R413). -/
def State.haltSnap (s : State) (x : Snap) : State :=
  let page := match s.task? x.task with | some t => t.ckptPage | none => pgMemDie 0
  let s := ((s.clearMarks x.marked).release mCkpt x.task).log page 0x0B03 [stAborted, noEntry]
  { s with snaps := s.snaps.filter fun y => y.task != x.task }

/-- Every SNAPSHOT in progress is ended so. -/
def State.haltSnaps (s : State) : State := (s.snaps.filter fun x => !x.restore).foldl State.haltSnap s

end Sys2Proof.Machine
end

