-- ==== Sys2Proof/Machine/Restore.lean ====
section
/-! DEFINITION. RESTORE (R414 to R417): a checkpoint is read back, from device memory in one step, from a store as its blocks
arrive; STORE_DATA and TRANSACTION_TIMEOUT. -/

namespace Sys2Proof.Machine

/-! What a restore knows. `header` holds `CK_STEP`'s block, `stage` 0 header, 1 directory, 2 body. -/

/-- `CK_STEP`. -/
def Snap.ckStep (x : Snap) : Nat := fieldAt x.header 8 8
/-- `CK_BLOCKS`. -/
def Snap.ckBlocks (x : Snap) : Nat := fieldAt x.header 16 8
/-- Directory blocks. -/
def Snap.dirBlocks (x : Snap) : Nat := up4k (16 * mfLayers x.manifest) / 4096
/-- `DATA_STEP` of the task. -/
def Task.dataStep (t : Task) : Nat := t.fld 48 8

/-- Where the body blocks of a layer go: runs of blocks with their first address, 0 for none (R417). -/
def UpdOp.homes (x : UpdOp) (data : Bool) : List (Nat × Nat) :=
  [(1, 0), (2 * x.slotLen / 4096, x.state + 4096), (up4k (3 * x.r * x.c) / 4096, x.w), (up4k x.momentLens.1 / 4096, x.m),
    (up4k x.momentLens.2 / 4096, x.mExp), (1, x.ledger)] ++
    (if data then [(up4k (4 * x.r * x.c) / 4096, if x.ledger == 0 then 0 else x.ledger + 4096)] else [])

/-- Where the body blocks go: the directory, the key table and the estimator tables only at the commit. -/
def Snap.homes (x : Snap) : List (Nat × Nat) :=
  [(x.dirBlocks + 33, 0)] ++ (List.range (mfLayers x.manifest)).flatMap fun i => (mfEntry x.manifest i).homes (nth x.flags i false)

/-- The address of block `b` in runs of blocks, if it has one. -/
def homeOf (runs : List (Nat × Nat)) (b : Nat) : Option Nat :=
  match runs with
  | [] => none
  | r :: t => if b < r.1 then (if r.2 == 0 then none else some (r.2 + 4096 * b)) else homeOf t (b - r.1)

/-- The first body block of a layer: the copy of its state header. -/
def Snap.headBlock (x : Snap) (i : Nat) : Nat :=
  x.dirBlocks + 33 + ((List.range i).map fun j => (((mfEntry x.manifest j).homes (nth x.flags j false)).map (·.1)).sum).sum

/-- The layer that body block `b` belongs to, as `FAIL_ENTRY` gives it. -/
def Snap.entryAt (x : Snap) (b : Nat) : Nat :=
  ((List.range (mfLayers x.manifest)).find? fun i => decide (x.headBlock i ≤ b) && decide (b < x.headBlock (i + 1))).getD noEntry

/-- The blocks that a restore has written: of the body, and the state headers that it found (R383). -/
def Snap.restored (x : Snap) : List Nat :=
  ((mfEntries x.manifest).map fun e => e.state / 4096) ++ ((List.range x.body.length).filterMap (homeOf x.homes)).map (· / 4096)

/-- Layers whose every block has been taken. -/
def Snap.layersDone (x : Snap) : Nat :=
  ((List.range (mfLayers x.manifest)).filter fun i => decide (x.headBlock (i + 1) ≤ x.body.length)).length

/-! Ends. -/

/-- A restore leaves the list. -/
def State.dropSnap (s : State) (n : Nat) : State := { s with snaps := s.snaps.filter fun y => y.task != n }

/-- A restore is refused: nothing written, event 0x0B05, no record (R415, R416). -/
def State.refuseRestore (s : State) (t : Task) (x : Snap) (st code event : Nat) : State :=
  let s := (s.log t.ckptPage 0x0B05 [st, x.ckStep, t.dataStep]).dropSnap x.task
  if t.isRunning then s.endTask t st code event 0 [] else s.handOver t (.finished st code event 0) t.ckptPage [] 0

/-- A granted restore ends with its record (R417, R421). -/
def State.endRestore (s : State) (t : Task) (x : Snap) (st event fail : Nat) : State :=
  let rec_ := { x with layer := x.layersDone }.record x.ckStep x.body.length ((s.now - t.startAt) % 2 ^ 32) ((x.header.drop 32).take 32)
    (sm3 (x.body.flatMap id))
  ((s.dropSnap x.task).release mRestore x.task).endTask t st 0 event 0 (snapPost t rec_ fail ++ [.readBack t.ckptPage x.restored])

/-- A restore fails: before its grant as a refusal, after it with the layers left `PARTIAL` (R417). -/
def State.failRestore (s : State) (t : Task) (x : Snap) (st fail : Nat) : State :=
  if x.stage != 2 then s.refuseRestore t x (if st == stTimeout then st else stAborted) 0 0x0B05
  else (s.log t.ckptPage 0x0B06 [st, fail]).endRestore t x st 0x0B06 fail

/-! Progress. -/

/-- Check 3 of R415 on block 0 of target 0. -/
def Snap.headerFits (x : Snap) (h : List Byte) : Bool :=
  h.take 4 == [0x4E, 0x4B, 0x43, 0x4B] && fieldAt h 4 1 == 1 && fieldAt h 5 1 == 0 && fieldAt h 6 2 == mfLayers x.manifest &&
    fieldAt h 98 1 == x.targets

/-- Check 4 of R415: the first entry of the directory that does not fit. -/
def Snap.directoryBad (x : Snap) (d : List Byte) : Option Nat :=
  (List.range (mfLayers x.manifest)).find? fun i =>
    let e := mfEntry x.manifest i
    fieldAt d (16 * i) 2 != e.layer || fieldAt d (16 * i + 4) 4 != e.r || fieldAt d (16 * i + 8) 4 != e.c

/-- The grant, and the headers made `PARTIAL` (R417 item 1). The blocks of the directory count as taken. -/
def State.grantRestore (s : State) (t : Task) (x : Snap) : State :=
  let g := s.askGrant mRestore [] t.seq
  if !g.2 then g.1.refuseRestore t x stMaintBusy 0 0x0A08
  else
    let es := mfEntries x.manifest
    let far := es.findIdx? fun e => !rangeOk e.state 4096
    let s := (es.take (far.getD es.length)).foldl (fun u e => u.putSealed e.state (patch (u.bytes e.state 4096) 3 (leBytes 1 0xA0))) g.1
    let x := { x with stage := 2 }
    match far with
    | some i => ((s.accessFault (blockOwner t.manifestAt).1 ((faultIn (nth es i (mfEntry [] 0)).state 4096).getD 0) 0x71).setSnap x).failRestore t x
        stAborted i
    | none => s.setSnap x

/-- The directory has been taken whole: check 4, with the sections that it says filling `CK_BLOCKS`, the data step, the grant. -/
def State.takeDirectory (s : State) (t : Task) (x : Snap) : State :=
  let flags := (List.range (mfLayers x.manifest)).map fun i => bit (fieldAt (x.body.flatMap id) (16 * i + 2) 1) 0
  let x := { x with flags := flags }
  if (x.directoryBad (x.body.flatMap id)).isSome || x.headBlock (mfLayers x.manifest) != x.ckBlocks then s.refuseRestore t x stAborted 4 0x0B05
  else if x.ckStep != t.dataStep then s.refuseRestore t x stSkew 0 0x0B05
  else s.grantRestore t x

/-- The commit (R417 item 3). -/
def State.commitRestore (s : State) (t : Task) (x : Snap) : State :=
  let key := s.keyTable 0
  let d := x.dirBlocks
  if !rangeOk key 4096 then (s.accessFault (blockOwner t.manifestAt).1 key 0x71).failRestore t x stAborted noEntry else
  let s := s.putSealed key (nth x.body d [])
  let s := (List.range 4).foldl (fun u q =>
    let a := u.estAddr q
    let b := ((x.body.drop (d + 1 + 8 * q)).take 8).flatMap id
    (if deviceRange a 32768 then u.putSealed a b else u).loadEst q a true) s
  let s := (List.range (mfLayers x.manifest)).foldl (fun u i =>
    u.putSealed (mfEntry x.manifest i).state (patch (nth x.body (x.headBlock i) []) 12 (leBytes 4 0))) s
  (s.log t.ckptPage 0x0B04 [x.ckStep, mfLayers x.manifest]).endRestore t x stDone 0 noEntry

/-- Every body block has been taken: the digest decides (R417). -/
def State.closeRestore (s : State) (t : Task) (x : Snap) : State :=
  if sm3 (x.body.flatMap id) == (x.header.drop 64).take 32 then s.commitRestore t x
  else (s.log t.ckptPage 0x0B06 [stDigest, noEntry]).endRestore t x stDigest 0x0B06 noEntry

/-- The next body block in order is taken, and written where it belongs. -/
def State.takeBody (s : State) (t : Task) (x : Snap) (b : List Byte) : State :=
  let i := x.body.length
  let x := { x with body := x.body ++ [b] }
  if x.stage == 1 then
    let s := s.setSnap x
    if i + 1 == x.dirBlocks then s.takeDirectory t x else s
  else
    match (homeOf x.homes i).bind fun a => faultIn a 4096 with
    | some a => ((s.accessFault (blockOwner t.manifestAt).1 a 0x71).setSnap x).failRestore t { x with body := x.body.take i } stAborted (x.entryAt i)
    | none =>
      let s := s.whenSome (homeOf x.homes i) fun s a => s.putSealed a b
      let s := s.setSnap x
      if i + 1 == x.ckBlocks then s.closeRestore t x else s

/-- Block 0 of target 0 is taken (R415 check 3). -/
def State.takeHeader (s : State) (t : Task) (x : Snap) (h : List Byte) : State :=
  let y := { x with header := h }
  if y.headerFits h then s.setSnap { y with stage := 1 } else s.refuseRestore t y stAborted 3 0x0B05

/-- Blocks that came early are taken as their turn comes. -/
def State.takeEarly (fuel : Nat) (s : State) (n : Nat) : State :=
  match fuel with
  | 0 => s
  | k + 1 =>
    match s.snap? n, s.task? n with
    | some x, some t =>
      match x.early.find? fun p => p.1 == x.body.length with
      | some p => ((s.setSnap { x with early := x.early.filter fun q => q.1 != p.1 }).takeBody t { x with early := x.early.filter fun q => q.1 != p.1 } p.2).takeEarly k n
      | none => s
    | _, _ => s

/-! Device memory. -/

/-- One block of a target in device memory, checked: the block, or the status of its failure. -/
def State.fromDevice (s : State) (x : Snap) (k j : Nat) : State × (List Byte ⊕ Nat) :=
  let a := mfDevice x.manifest k + 4096 * j
  match faultIn a 4096 with
  | some b => (s.accessFault (blockOwner a).1 b 0x71, .inr stAborted)
  | none =>
    let c := s.readTo [(a, 4096)] 0x0B06
    if c.2.isSome then (c.1, .inr stSeal) else (c.1, .inl (c.1.bytes a 4096))

/-- The next body block of a restore from device memory. -/
def State.pullBlock (s : State) (t : Task) (x : Snap) : State :=
  let b := x.body.length
  let r := s.fromDevice x (b % x.targets) (b / x.targets + 1)
  match r.2 with
  | .inl d => r.1.takeBody t { x with issued := b + 1 } d
  | .inr st => r.1.failRestore t x st (x.entryAt b)

/-- The body blocks of a restore from device memory, one after another, while the restore runs. -/
def State.pullBody (fuel : Nat) (s : State) (n : Nat) : State :=
  match fuel with
  | 0 => s
  | k + 1 =>
    if (s.snap? n).isSome && (s.task? n).isSome then
      State.pullBody k (s.whenSome (s.snap? n) fun s x => s.whenSome (s.task? n) fun s t => s.pullBlock t x) n
    else s

/-- A restore from device memory, whole. -/
def State.pullDevice (s : State) (t : Task) (x : Snap) : State :=
  let r := s.fromDevice x 0 0
  match r.2 with
  | .inr st => r.1.failRestore t x st noEntry
  | .inl h => (r.1.takeHeader t x h).pullBody (fieldAt h 16 8) t.seq

/-! Shared store. -/

/-- A block of a target is asked for. -/
def State.askStore (s : State) (x : Snap) (k j what : Nat) : State :=
  let g := s.takeTag
  (g.2.setSnap { x with pending := x.pending ++ [(g.1, what)] }).sendMsg
    { op := 0x32, dst := 4096 + mfNode x.manifest k, tag := g.1, arg := j, addr := mfObject x.manifest k }

/-- The body blocks that may be asked for now: the directory's until the grant, then all; at most 64 unacknowledged. -/
def State.askBody (fuel : Nat) (s : State) (n : Nat) : State :=
  match fuel with
  | 0 => s
  | k + 1 =>
    match s.snap? n with
    | some x =>
      let limit := if x.stage == 0 then 0 else if x.stage == 1 then x.dirBlocks else x.ckBlocks
      if decide (x.issued < limit) && decide (x.pending.length < 64) then
        let b := x.issued
        (s.askStore { x with issued := b + 1 } (b % x.targets) (b / x.targets + 1) (2 * b)).askBody k n
      else s
    | none => s

/-- A STORE_DATA answers a restore. -/
def State.dataRestore (s : State) (m : List Byte) : State :=
  match s.snaps.find? fun x => x.restore && x.pending.any fun p => p.1 == mTag m with
  | none => s
  | some x =>
    match s.task? x.task, x.pending.find? fun p => p.1 == mTag m with
    | some t, some p =>
      let st := responseStatus (mStatus m)
      let d := mData m
      let x := { x with pending := x.pending.filter fun q => q.1 != mTag m, quietAt := s.now }
      let s := s.setSnap x
      let entry := if p.2 % 2 == 1 then noEntry else x.entryAt (p.2 / 2)
      if st != stDone then s.failRestore t x st entry
      else if crc32c d != mSeal m then s.failRestore t x stSeal entry
      else
        let s := if p.2 % 2 == 1 then s.takeHeader t x d
          else (s.setSnap { x with early := x.early ++ [(p.2 / 2, d)] }).takeEarly (x.early.length + 1) x.task
        s.askBody 64 x.task
    | _, _ => s

/-! RESTORE at dispatch. -/

/-- RESTORE at dispatch (R414, R415). -/
def State.takeRestore (s : State) (t : Task) : State :=
  let a := t.manifestAt
  let m := s.bytes a (mfLen (s.num a 2))
  let x := Snap.mk t.seq true 0 0 s.now m [] 0 [] [] 0 [] [] 0 [] [] s.now
  match faultIn a (mfLen (s.num a 2)) with
  | some b => (s.accessFault (blockOwner a).1 b 0x71).refuseRestore t x stAborted 0 0x0702
  | none =>
    let c := s.readTo [(a, mfLen (s.num a 2))] 0x0B05
    if c.2.isSome then c.1.refuseRestore t x stSeal 0 0x0B05
    else
      let s := c.1
      if mfCheck m 0 [] == 1 then s.refuseRestore t x stAborted 1 0x0B05
      else
        let es := mfEntries m
        let src := [(a, mfLen es.length), (s.keyTable 0, 4096)] ++ es.flatMap fun e => e.stateRanges false
        if mfCheck m (bodyLen es []) src == 2 then s.refuseRestore t x stAborted 2 0x0B05
        else
          let s := s.handOver t .running t.ckptPage [] 0
          let t := (s.task? t.seq).getD t
          let s := { s with snaps := s.snaps ++ [x] }
          if mfStore m then s.askStore x 0 0 1 else s.pullDevice t x

/-- The lines that a restore may touch (R28). -/
def State.restoreRanges (s : State) (m : List Byte) (len : Nat) : List (Nat × Nat) :=
  [(s.keyTable 0, 4096)] ++ ((mfEntries m).flatMap fun e => e.stateRanges true) ++ deviceTargets m len ++
    (List.range 4).map fun q => (s.estAddr q, 32768)

/-- RESTORE (R417). -/
def execRestore (n : Nat) (s : State) : Host.Outcome State Fault Refusal :=
  .next (match s.dispatchable n [0x71] with
    | some t =>
      let a := t.manifestAt
      let m := s.bytes a (mfLen (s.num a 2))
      s.whenFree ((a, mfLen (s.num a 2)) :: s.restoreRanges m (bodyLen (mfEntries m) ((mfEntries m).map fun _ => true))) fun s => s.takeRestore t
    | none => s)

/-- STORE_DATA (R362, R365, R417). -/
def execStoreData (n : PortNo) (s : State) : Host.Outcome State Fault Refusal :=
  .next (match s.waitingMsg n 0x33 with
    | some m =>
      if (s.txnOf (mTag m)).isSome then s.whenFree (s.homeRange m) fun s => s.receive n 0x33 fun s m => s.dataTxn n m
      else
        let rs := match s.snaps.find? fun x => x.restore && x.pending.any fun p => p.1 == mTag m with
          | some x => s.restoreRanges x.manifest 0
          | none => []
        s.whenFree rs fun s => s.receive n 0x33 State.dataRestore
    | none => s)

/-! Time-outs (R365, R412). -/

/-- No response has come for `TXN_TIMEOUT` ticks. -/
def State.unanswered (s : State) (at_ : Nat) : Bool := decide (s.rf pgSeam R.SEAM_MGMT.TXN_TIMEOUT ≤ s.now - at_)

/-- TRANSACTION_TIMEOUT (R365): of a SEAM_PUT, SEAM_GET, SNAPSHOT or RESTORE; a status noted before comes first. -/
def execTransactionTimeout (n : Nat) (s : State) : Host.Outcome State Fault Refusal :=
  .next (match s.txn? n, s.snap? n, s.task? n with
    | some x, _, some t =>
      if (x.pending.isEmpty && x.btnTag.isNone) || !s.unanswered x.quietAt then s
      else match x.failed with
        | some st => s.endTxn x st (if st == stSeal then 0x0906 else 0)
        | none => (s.log pgColl 0x090D [t.type, x.node % 4096]).endTxn x stTimeout 0x090D
    | none, some x, some t =>
      if x.pending.isEmpty || !s.unanswered x.quietAt then s
      else
        let s := s.log pgColl 0x090D [t.type, mfNode x.manifest 0]
        if x.restore then s.failRestore t x stTimeout noEntry else s.failSnap t x stTimeout noEntry
    | _, _, _ => s)

end Sys2Proof.Machine
end

