-- ==== Sys2Proof/Machine/Power.lean ====
section
/-! DEFINITION. Power, clocks and reset (chapter 19): power-on, bring-up, resets by scope, the stop sequence, lock of the PLLs, the
governor. -/

namespace Sys2Proof.Machine

/-! What a reset keeps (R138, R467). -/

/-- A register that the next start finds again, because flash holds it: write counts, retirements and aliases of panels, retirements
of cores, the record's and the firmware's own state. -/
def flashReg (off : Nat) : Bool :=
  let o := off % 0x1000
  match pageAt off with
  | none => false
  | some p => match p.cls with
    | .panel => o == oPAGE_STATUS || o == R.PANEL.PANEL_INFO_ALIAS.off || o == R.PANEL.WRITES_LO.off || o == R.PANEL.WRITES_HI.off
    | .arrayDie => o == R.ARRAY_DIE.DIE_INFO_SERVED.off || (R.ARRAY_DIE.ALIAS_MAP.at? o).isSome || (R.ARRAY_DIE.PANEL_REC_CAUSE.at? o).isSome
    | .gradCore | .vecCore => o == oPAGE_STATUS
    | .maint => (R.MAINT.CORE_RETIRED_VEC.at? o).isSome
    | .record => o ≤ R.RECORD.REC_LAST_HI.off && R.RECORD.REC_FIRST_LO.off ≤ o || o == R.RECORD.REC_FREE_BLOCKS.off || o == R.RECORD.REC_DROPPED.off
    | .firmware => R.FIRMWARE.FW_SLOT_ACTIVE.off ≤ o && o ≤ R.FIRMWARE.SLOT_STATE_S0.off || o == R.FIRMWARE.BOOT_COUNT.off ||
        o == R.FIRMWARE.FALLBACKS.off
    | _ => false

/-- The panels of a die as R138 leaves them: retired ones read so, `PANEL_REC` holds the cause alone. -/
def State.panelsAfter (s : State) (n : Nat) : State :=
  (List.range 68).foldl (fun u p =>
    let page := pgPanel n p
    let u := u.setPanel page { Panel.fresh with lastWear := (u.panel page).lastWear, warned := (u.panel page).warned }
    let c := u.rf (pgArrayDie n) R.ARRAY_DIE.PANEL_REC_CAUSE p
    let u := (u.setReg (R.ARRAY_DIE.PANEL_REC_CAUSE.addr (pgArrayDie n) p) 0).wf (pgArrayDie n) R.ARRAY_DIE.PANEL_REC_CAUSE c p
    if u.retired page then u.setContent page 5 else u) s

/-- What a restart of the device manager leaves before the flash is read again: both flashes, fuses, the panels' content, host memory, and
the test port. -/
def State.survivors (s : State) : State :=
  { State.reset with
    pending := s.pending
    fresh := s.fresh
    regs := s.regs.filter fun p => flashReg p.1
    mem := s.mem.filter fun c => decide (hostBase ≤ c.1)
    sealAge := s.sealAge + 1
    panels := s.panels
    fw := { s.fw with staging := none }
    record := { s.record with queue := [], dumping := none, compact := false }
    power := { State.reset.power with supply := s.power.supply, straps := s.power.straps }
    tap := s.tap }

/-- A reset that restarts the device manager (Table 19-5): everything but flash, the supply, the test access port, the host's own
memory, and the model's own fields, is as `State.reset` has it. A source that acts while an earlier reset still holds the module coincides with it, and the one
highest in the table is recorded (R467; DEDUCED, log 169). -/
def State.restart (s : State) (cause : Nat) : State :=
  let r := (List.range 8).foldl State.panelsAfter s.survivors
  r.wf pgPower R.POWER.RESET_CAUSE_CAUSE (if s.power.supply && s.power.held then Nat.min cause (s.rf pgPower R.POWER.RESET_CAUSE_CAUSE) else cause)

/-! Power-on and bring-up (R464, R471). -/

/-- POWER_ON: the input reaches 40 V. -/
def execPowerOn (s : State) : Host.Outcome State Fault Refusal :=
  .next (if s.power.supply && !s.power.held then s else ({ s with power := { s.power with supply := true } }).restart 0)

/-- SUPPLY_REMOVED: nothing on the module stays powered. -/
def execSupplyRemoved (s : State) : Host.Outcome State Fault Refusal :=
  .next (({ s with power := { s.power with supply := false } }).restart 0)

/-- POWER_ON_RESET_RELEASE (R464, R474, R482): the PLLs have locked; the address straps are read after a power-on. -/
def execPowerOnResetRelease (straps : BitVec 2) (s : State) : Host.Outcome State Fault Refusal :=
  .next (if !s.power.supply || !s.power.held then s
    else
      let st := if s.rf pgPower R.POWER.RESET_CAUSE_CAUSE == 0 then straps else s.power.straps
      let s := { s with power := { s.power with held := false, straps := st } }
      (s.setReg (pgClock + R.CLOCK.PLL_LOCK_REFCLK.off) 0x1FFFFFF#32).setDevState 1)

/-- `PAGE_CTL.EN` of every page of a block that is not retired (R41, R471). -/
def State.enablePages (s : State) (pages : List Nat) : State :=
  pages.foldl (fun u p => if u.retired p then u else u.setHdrBit p oPAGE_CTL 0 true) s

/-! The CXL link (R56). -/

/-- The offset of `LINK_STATUS`. -/
def offLink : Nat := pgHost + R.HOST.LINK_STATUS_UP.off

/-- `LINK_STATUS` follows the link: a change sets `LINK_CHANGE` and logs event 0x0D03. -/
def State.linkNow (s : State) (w : Word) : State :=
  if s.reg offLink = w then s else ((s.setReg offLink w).log pgHost 0x0D03 [w.toNat]).cause pgHost 0

/-- The link trains in `DEV_STATE` 0x1, to a width, rate and flit kind that the outside decides (R21, R56, R471); one that is up stays. -/
def State.trainCxl (s : State) : State :=
  if s.rf pgHost R.HOST.LINK_STATUS_UP == 1 then s
  else
    let n := Config.cxlTrained
    s.linkNow (BitVec.ofNat 32 (n / 20 % 2 * 2 ^ 9 + 2 ^ 8 + (1 + n / 5 % 4) * 2 ^ 5 + 2 ^ (n % 5)))

/-- FIRMWARE_BOOT_DONE (R445, R455, R471): the image that the boot ROM chose runs, the calibration store is checked, and the first
sweeps start; the CXL link has trained; with no image that boots, `DEV_STATE` reads fault. -/
def execFirmwareBootDone (s : State) : Host.Outcome State Fault Refusal :=
  .next (if s.rf pgDevice R.DEVICE.DEV_STATE_STATE != 1 || s.power.held then s
    else
      let c := s.trainCxl.chooseBoot
      match c.2 with
      | none => c.1.setDevState 5
      | some b =>
        let s := ((c.1.bootImage b).startRecord b).enablePages headerPages
        let s := s.setDevState 2
        (((List.range 4).foldl State.beginSweep s).loadStore).calDone)

/-! Work that a reset or a stop ends without completion records (R469, R470). -/

/-- No task is left, and no engine holds one. -/
def State.dropWork (s : State) : State :=
  let s := s.haltSnaps
  let gone := [mCkpt, mRestore, mDigest]
  let s := { s with
    tasks := []
    loads := []
    loadRuns := []
    partials := []
    arrRuns := []
    arrOrder := []
    gradRuns := []
    vecRuns := []
    upds := []
    dmaQueue := []
    txns := []
    snaps := []
    digests := []
    window := none
    snapAt := none
    queues := []
    posted := []
    grants := s.grants.filter fun g => !gone.contains g.cls }
  s.showGrants

/-- A wear entry of every panel (R140). -/
def State.wearAll (s : State) : State :=
  (List.range 8).foldl (fun u n => (List.range 68).foldl (fun v p => v.wearEntry (pgPanel n p)) u) s

/-! Engines scope (R467, R470). -/

/-- The registers that an engines-scope reset clears: the pages of the cleared blocks but for what flash restores, and the graph
buttons. -/
def engineReg (off : Nat) : Bool :=
  match pageAt off with
  | none => false
  | some p => match p.cls with
    | .arrayDie | .panel | .gradDie | .gradCore | .vecCore | .update | .numwatch | .graphSched | .graphQueue | .dma | .gather => !flashReg off
    | .buttons => decide (offButton 256 ≤ off)
    | _ => false

/-- The pages of the cleared blocks. -/
def enginePages : List Nat := headerPages.filter fun p => engineReg (p + oPAGE_CTL)

/-- The cleared blocks hold nothing (R470); a replay and a field test end with the cores they use, and read idle (R400). -/
def State.clearEngines (s : State) : State :=
  let s := (s.wf pgMaint R.MAINT.REPLAY_STATUS_STATE 0).wf pgMaint R.MAINT.FT_STATUS_STATE 0
  { s with
    regs := s.regs.filter fun p => !engineReg p.1
    ran := []
    mem := s.mem.filter fun c => !inSram c.1
    castles := []
    vecRegs := []
    layers := []
    wtable := []
    slots := []
    chans := []
    insts := []
    ledgers := []
    collPast := []
    held := []
    replay := none
    field := none
    notReady := []
    grants := s.grants.filter fun g => !([mFtG, mFtV, mReplay, mFill].contains g.cls)
    dieCals := s.dieCals.map fun (p : Nat × DieCal) => (p.1, if p.2.loaded then { p.2 with ready := false, refused := false } else p.2) }

/-- An engines-scope reset takes effect (R470). -/
def State.enginesReset (s : State) : State :=
  let s := (s.wearAll).haltSnaps.commitAll.dropWork.clearEngines
  let s := (List.range 8).foldl State.panelsAfter s.showGrants
  let s := (List.range 8).foldl (fun u n => if (u.dieCal n).loaded then u.setDies n 0 else u) s
  let s := s.wfs pgPower [(R.POWER.RESET_CAUSE_CAUSE, 4), (R.POWER.ENERGY_LO, 0), (R.POWER.ENERGY_HI, 0), (R.POWER.STOP_STATUS_DONE, 0)]
  let s := { s with power := { s.power with stopped := false } }
  (s.enablePages enginePages).setDevState 3

/-- The module runs its firmware, or has stopped. -/
def State.manager (s : State) : Bool :=
  let d := s.rf pgDevice R.DEVICE.DEV_STATE_STATE
  s.alive && (d == 3 || d == 4 || d == 6)

/-- A write of a reset register takes its effect, also when the module has stopped (R469). -/
def State.onReset (s : State) (view : View) (k : State → State) : State :=
  if s.granted view pgPower && s.manager then k s else s

/-- RESET_CTL_ENGINES (R470): ignored during a stop (R472). -/
def execResetCtlEngines (view : View) (s : State) : Host.Outcome State Fault Refusal :=
  .next (s.onReset view fun s => if s.power.stopping then s else s.enginesReset)

/-! The stop sequence and module scope (R469). -/

/-- The stop sequence starts: origin 0 `STOP_CTL`, 1 module scope. -/
def State.startStop (s : State) (forReset : Bool) : State :=
  let s := (s.setDevState 6).log pgPower 0x0F05 [b2n forReset]
  let s := (List.range 64).foldl State.disableQueue s
  { s with power := { s.power with stopping := true, forReset := forReset, stopAt := s.now } }

/-- A reset of module scope: after the stop sequence, which may run or be over already. -/
def State.moduleReset (s : State) : State :=
  if s.power.stopped then s.restart 3
  else if s.power.stopping then { s with power := { s.power with forReset := true } }
  else s.startStop true

/-- RESET_CTL_MODULE (R467). -/
def execResetCtlModule (view : View) (s : State) : Host.Outcome State Fault Refusal := .next (s.onReset view State.moduleReset)

/-- STOP_CTL_START (R469): ignored while a stop runs (R472). -/
def execStopCtlStart (view : View) (s : State) : Host.Outcome State Fault Refusal :=
  .next (s.onWrite view pgPower false fun s => if s.power.stopping || !s.manager then s else s.startStop false)

/-- The sequence ends (R469 steps 3 to 5), and the reset that it was for takes effect. -/
def State.endStop (s : State) : State :=
  let s := (s.dropWork).wearAll
  let s := s.logFirm pgPower 0x0E11 [s.fw.starts]
  let s := (s.wf pgPower R.POWER.STOP_STATUS_DONE 1).cause pgPower 4
  if s.power.forReset then s.restart 3 else { s with power := { s.power with stopping := false, stopped := true } }

/-- STOP_SEQUENCE_DONE (R469): running tasks have completed, or 100 ms have passed. -/
def execStopSequenceDone (s : State) : Host.Outcome State Fault Refusal :=
  .next (if s.power.stopping && (!s.tasks.any Task.isHanded || decide (s.power.stopAt + 1000000 ≤ s.now)) then s.endStop else s)

/-- RESET_N (Table 19-5). -/
def execResetN (s : State) : Host.Outcome State Fault Refusal := .next (if s.power.supply then s.restart 1 else s)

/-- PERST (Table 19-5). -/
def execPerst (s : State) : Host.Outcome State Fault Refusal := .next (if s.power.supply then s.restart 2 else s)

/-! Clocks (R466, R474). -/

/-- The offset of `PLL_LOCK`. -/
def offPll : Nat := pgClock + R.CLOCK.PLL_LOCK_REFCLK.off

/-- PLL_LOCK_LOST (R466). -/
def execPllLockLost (b : Fin 25) (s : State) : Host.Outcome State Fault Refusal :=
  .next (if !s.alive || !bit (s.reg offPll).toNat b then s
    else
      let s := (s.setReg offPll (setBits (s.reg offPll) b b 0)).inc pgClock R.CLOCK.LOCK_LOSSES
      ((s.errDetail pgClock b).log pgClock 0x0F03 [b]).cause pgClock (if b.val == 0 then 1 else 0))

/-- PLL_LOCK_REGAINED (R474). -/
def execPllLockRegained (b : Fin 25) (s : State) : Host.Outcome State Fault Refusal :=
  .next (if s.alive then s.setReg offPll (setBits (s.reg offPll) b b 1) else s)

/-! The governor (R463). -/

/-- GOVERNOR_LIMITING (R463). -/
def execGovernorLimiting (on : Bool) (s : State) : Host.Outcome State Fault Refusal :=
  .next (if !s.alive || s.rf pgPower R.POWER.CAP_STATUS_LIMITING == b2n on then s
    else
      let s := (s.wf pgPower R.POWER.CAP_STATUS_LIMITING (b2n on)).log pgPower 0x0F06 [b2n on, s.rf pgPower R.POWER.CAP_W]
      if on then s.cause pgPower 5 else s)

/-- POWER_COUNT_CLEAR (R473). -/
def execPowerCountClear (view : View) (s : State) : Host.Outcome State Fault Refusal :=
  .next (s.onWrite view pgPower false fun s => s.clearCounts .power pgPower)

end Sys2Proof.Machine
end

