-- ==== Sys2Proof/Machine/Events.lean ====
section
/-! DEFINITION. What the event table fires (R340, R343, R470). -/

namespace Sys2Proof.Machine

/-- An entry is due. -/
def State.eventDue (s : State) (e : Event) : Bool := e.armed && decide (e.count.toNat ≤ s.now)

/-- The order of entries due together (R343, R472): resets after all others, module scope first. -/
def Event.rank (e : Event) : Nat := if e.action.toNat != 10 then 0 else if e.arg == 1 then 1 else 2

/-- One entry comes before another: by rank, count, index. -/
def firesBefore (a b : Nat × Event) : Bool :=
  if a.2.rank != b.2.rank then decide (a.2.rank < b.2.rank)
  else if a.2.count != b.2.count then decide (a.2.count.toNat < b.2.count.toNat) else decide (a.1 < b.1)

/-- The entry that fires next. -/
def State.nextEvent (s : State) : Option (Nat × Event) :=
  (s.events.filter fun p => s.eventDue p.2).foldl (fun best p => match best with
    | none => some p
    | some b => if firesBefore p b then some p else some b) none

/-- An entry after it has fired: disarmed, as a COORD_RESET always is (R470), or moved to the first value of its series above the count. -/
def Event.after (e : Event) (now : Nat) : Event :=
  if e.repeats && e.action.toNat != 10 then
    let p := Nat.max e.param.toNat 1
    { e with count := BitVec.ofNat 64 (e.count.toNat + p * ((now - e.count.toNat) / p + 1)) }
  else { e with armed := false }

/-- The core that `ARG` of a FIELD_TEST_SLOT names. -/
def coreOfArg (arg : Nat) : CoreName :=
  ⟨⟨arg / 64 % 4, Nat.mod_lt _ (by decide)⟩, bit arg 5, ⟨arg % 16, Nat.mod_lt _ (by decide)⟩⟩

/-- The aged panels of a die are due for refresh (R136). -/
def State.refreshDue (s : State) (n : Nat) : State :=
  (List.range 68).foldl (fun u p =>
    let page := pgPanel n p
    if u.content page == 3 then u.setPanel page { u.panel page with due := true } else u) s

/-- A coordinated reset fires (R467, R470, R472): event 0x0F04 first. -/
def State.coordReset (s : State) (i : Nat) (scope : Nat) : State :=
  let s := s.logFirm pgPower 0x0F04 [scope, i, s.now % 2 ^ 32]
  if scope == 1 then s.moduleReset else if s.power.stopping then s else s.enginesReset

/-- The action of an entry (Table 13-4). -/
def State.act (s : State) (i : Nat) (e : Event) : State :=
  let arg := e.arg.toNat
  match e.action.toNat with
  | 1 | 2 | 3 | 4 => (s.addButton arg 1).settle
  | 5 => if arg < 4096 then s.collDeadline arg else s
  | 6 => s.refreshDue (2 * (arg / 16 % 4) + arg % 2)
  | 7 => s.testSlot (coreOfArg arg)
  | 8 => s.seqStart (arg % 4)
  | 9 => { s with snapAt := some ⟨arg, e.count.toNat + (if e.param.toNat == 0 then 2000 else e.param.toNat), false⟩ }
  | 10 => s.coordReset i (if arg == 1 then 1 else 0)
  | _ => s

/-- An entry fires (R340). -/
def State.fire (s : State) (i : Nat) (e : Event) : State :=
  let s := (s.setEvent i (e.after s.now)).inc pgTempo R.TEMPO.FIRED
  let s := if bit e.flags.toNat 1 then s.cause pgTempo 5 else s
  s.act i e

/-- EVENT_FIRE (R340): the next entry that is due fires. -/
def execEventFire (s : State) : Host.Outcome State Fault Refusal :=
  .next (if !s.alive then s
    else match s.nextEvent with
      | some p => s.fire p.1 p.2
      | none => s)

/-! Commands on entries (R339, R342, R361). An entry that is due fires before a command applies to it (Table 13-6). -/

/-- Entries fire in their order until entry `i` is no longer due. -/
def State.fireTo (fuel : Nat) (s : State) (i : Nat) : State :=
  match fuel with
  | 0 => s
  | k + 1 =>
    if s.eventDue (s.event i) then
      match s.nextEvent with
      | some p => (s.fire p.1 p.2).fireTo k i
      | none => s
    else s

/-- The entry fires first when it is due in this tick; the command then applies. -/
def State.firedFirst (s : State) (i : Nat) : State := s.fireTo 256 i

/-- The staged entry is armed here, with its result (R342). -/
def State.armStaged (s : State) (view : View) : State :=
  let i := s.evtSel
  let e := s.staged
  let a := (s.firedFirst i).armEntry i e 0
  (if a.2 == 0 then a.1.noteParam view e else a.1).evtResult i a.2

/-- EVT_ARM (R342). -/
def execEvtArm (view : View) (s : State) : Host.Outcome State Fault Refusal :=
  .next (s.onWrite view pgTempo false fun s => s.armStaged view)

/-- EVT_DISARM (R342). -/
def execEvtDisarm (view : View) (s : State) : Host.Outcome State Fault Refusal :=
  .next (s.onWrite view pgTempo false fun s =>
    let i := s.evtSel
    if i < 16 then (s.refuseEvent i 3 0).evtResult i 3
    else
      let s := s.firedFirst i
      (s.setEvent i { s.event i with armed := false }).evtResult i 0)

/-- A schedule arms its entry here (R342, R361); an index beyond the table is refused as the device manager's entries are. -/
def State.armSchedule (s : State) (m : List Byte) : State :=
  if 256 ≤ mArg m then s.refuseEvent (mArg m) 3 1 else ((s.firedFirst (mArg m)).armEntry (mArg m) (eventOf (mData m)) 1).1

/-- SCHEDULE (R355, R361): armed here, and forwarded down the tree when it is a broadcast. -/
def execSchedule (n : PortNo) (s : State) : Host.Outcome State Fault Refusal :=
  .next (s.receive n 0x23 fun s m =>
    let s := s.armSchedule m
    if mFlag m 2 then s.broadcast (some n.val) (hopped m) else s)

/-- SCHED_CMD_SEND (R361). -/
def execSchedCmdSend (view : View) (s : State) : Host.Outcome State Fault Refusal :=
  .next (s.onWrite view pgSeam false fun s =>
    let i := s.evtSel
    let e := s.staged
    let s := s.armStaged view
    if s.named then s.broadcast none (({ op := 0x23, dst := 0, arg := i, flags := 4, data := e.bytes } : Msg).bytes s.myId) else s)

end Sys2Proof.Machine
end

