-- ==== Sys2Proof/Machine/Gather.lean ====
section
/-! DEFINITION. The gather/scatter unit (R319 to R325, R329): GATHER_ROWS, GATHER_EXPERTS and SCATTER_ADD, each run whole. -/

namespace Sys2Proof.Machine

/-- A task of the gather unit as its body and operand record give it. -/
structure GatherOp where
  scatter : Bool
  experts : Bool
  drop    : Bool
  accum   : Bool
  table   : Nat
  tExp    : Nat
  index   : Nat
  out     : Nat
  oExp    : Nat
  pos     : Nat
  spill   : Nat
  sExp    : Nat
  sPos    : Nat
  route   : Nat
  n       : Nat
  rows    : Nat
  rowB    : Nat
  expB    : Nat
  k       : Nat
  cap     : Nat
  sCap    : Nat
  cnt     : Nat
  sBtn    : Nat
  x       : Nat
  count   : Nat
deriving DecidableEq, Repr

/-- The operation of a GATHER or SCATTER_ADD with its operand record (Tables 12-9 and 12-10). -/
def gatherOp (t : Task) (o : List Byte) : GatherOp where
  scatter := t.type == 0x42
  experts := t.type == 0x41 && bit (t.fld 48 1) 1
  drop := bit (t.fld 48 1) 2
  accum := bit (t.fld 48 1) 1
  table := recAddr o 0
  tExp := recAddr o 8
  index := recAddr o 16
  out := recAddr o 24
  oExp := recAddr o 32
  pos := recAddr o 40
  spill := recAddr o 48
  sExp := recAddr o 56
  sPos := recAddr o 64
  route := recAddr o 72
  n := fieldAt o 80 4
  rows := fieldAt o 84 4
  rowB := fieldAt o 88 4
  expB := fieldAt o 92 2
  k := fieldAt o 94 1
  cap := fieldAt o 96 4
  sCap := fieldAt o 100 4
  cnt := fieldAt o 104 2
  sBtn := fieldAt o 106 2
  x := fieldAt o 108 2
  count := t.addr 40

/-- The second plane is used. -/
def GatherOp.plane2 (g : GatherOp) : Bool := !g.scatter && g.tExp != 0

/-- The rows that the table holds: token rows in expert mode. -/
def GatherOp.tableRows (g : GatherOp) : Nat := if g.experts then g.n else g.rows

/-- The range of the index list or route list. -/
def GatherOp.indexRange (g : GatherOp) : Nat × Nat := (g.index, if g.experts then 2 * g.n * g.k else 4 * g.n)

/-- The ranges that the task names (check 2). -/
def GatherOp.ranges (g : GatherOp) : List (Nat × Nat) :=
  let outRows := if g.experts then g.x * g.cap else g.n
  [(g.table, g.tableRows * g.rowB), g.indexRange, (g.out, outRows * g.rowB)] ++
    (if g.plane2 then [(g.tExp, g.tableRows * g.expB), (g.oExp, outRows * g.expB)] else []) ++
    (if !g.experts then [] else [(g.pos, 4 * outRows), (g.route, 16 * g.x)] ++
      (if g.drop then [] else [(g.spill, g.x * g.sCap * g.rowB), (g.sPos, 4 * g.x * g.sCap)] ++
        (if g.plane2 then [(g.sExp, g.x * g.sCap * g.expB)] else []))) ++
    (if g.count == 0 then [] else [(g.count, 32)])

/-- The first check of Table 12-11 that fails; 0 when all pass. Under drop the spill fields are ignored (R323). -/
def gatherCheck (g : GatherOp) : Nat :=
  if g.rowB % 64 != 0 || g.rowB == 0 || 65536 < g.rowB || (!g.scatter && 4096 < g.expB) then 1
  else if !g.ranges.all (fun r => rangeOk r.1 r.2) then 2
  else if !g.experts then 0
  else if g.k == 0 || 8 < g.k || g.x == 0 || 4096 < g.x then 3
  else if g.cnt < 256 || 16384 < g.cnt + g.x || (!g.drop && (g.sBtn < 256 || 16384 < g.sBtn + g.x)) then 4
  else if !g.drop && g.cap < g.n && g.sCap < g.n - g.cap then 5 else 0

/-- What a task has counted (Table 12-12). -/
structure GatherCounts where
  rows    : Nat
  range   : Nat
  ignored : Nat
  nonfin  : Nat
deriving DecidableEq, Repr

/-- The count record. -/
def gatherRecord (c : GatherCounts) : List Byte :=
  let sat (v : Nat) := leBytes 4 (Nat.min v (2 ^ 32 - 1))
  leBytes 8 c.rows ++ sat c.range ++ sat c.ignored ++ sat c.nonfin ++ List.replicate 12 0

/-- The unit meets a seal failure at a position (R324, R329). -/
def State.gatherSealErr (s : State) (n k pos : Nat) : State :=
  let page := pgGather n
  (((s.inc page R.GATHER.SEAL_ERRS).err page 0x0703 pos).log page 0x0703 [32, 4096 * k]).cause page 1

/-- The posts of a gather task that its completion leaves undone when the task is stopped: additions to buttons (R324). -/
def Post.isButton (p : Post) : Bool := match p with | .button _ _ => true | _ => false

/-- A gather task has run to its end: its record, its events once per task, its additions to buttons after them, and an idle unit (R321, R324,
R329). -/
def State.endGather (s : State) (n : Nat) (t : Task) (g : GatherOp) (c : GatherCounts) (bad : Bool) (wrote : List Nat) (more : List Post) :
    State :=
  let page := pgGather n
  let s := ((s.inc64 page R.GATHER.ROWS_LO R.GATHER.ROWS_HI c.rows).incBy page R.GATHER.OUT_OF_RANGE c.range).incBy page
    R.GATHER.ROUTE_IGNORED c.ignored
  let s := if c.range == 0 then s else s.cause page 2
  let post := (if g.count == 0 then [] else [Post.store g.count (gatherRecord c)]) ++
    (if c.range == 0 then [] else [Post.log page 0x0706 [n, c.range]]) ++ more ++
    [Post.readBack page wrote, Post.set (page + R.GATHER.CUR_TASK.off) 0xFFFFFFFF]
  if bad then s.endTask t stSeal 0 0x0703 0 post
  else if c.nonfin != 0 then s.endTask t stNonfinite 0 0 0 post
  else s.endTask t stDone 0 0 0 post

/-- What a move of rows has reached: position, rows written, first position that failed. -/
structure Rows where
  m    : Moved
  rows : Nat
  at_  : Nat

/-- One row copied, both planes. -/
def Rows.copy (r : Rows) (g : GatherOp) (from_ toElem toExp : Nat) (at_ : Nat) : Rows :=
  if r.m.bad.isSome then r
  else
    let m := r.m.copy (g.table + from_ * g.rowB) toElem g.rowB
    let m := if g.plane2 && m.bad.isNone then m.copy (g.tExp + from_ * g.expB) toExp g.expB else m
    ⟨m, if m.bad.isSome then r.rows else r.rows + 1, at_⟩

/-- One row of zeros, both planes. -/
def Rows.zero (r : Rows) (g : GatherOp) (toElem toExp : Nat) (at_ : Nat) : Rows :=
  if r.m.bad.isSome then r
  else
    let m := r.m.fill toElem (List.replicate g.rowB 0)
    let m := if g.plane2 then m.fill toExp (List.replicate g.expB 0) else m
    ⟨m, if m.bad.isSome then r.rows else r.rows + 1, at_⟩

/-- The index at a position, signed INT32, when it names a table row. -/
def GatherOp.inTable (g : GatherOp) (i : Int) : Option Nat := if 0 ≤ i ∧ i < (g.rows : Int) then some i.toNat else none

/-- The indices of a list. -/
def State.indices (s : State) (g : GatherOp) : List Int := (s.nums g.index g.n 4).map (sint 32)

/-- GATHER in row mode (R319). -/
def State.gatherRows (s : State) (n : Nat) (t : Task) (g : GatherOp) : State :=
  let idx := s.indices g
  let r := (List.range g.n).foldl (fun (r : Rows) p =>
    match g.inTable (nth idx p 0) with
    | some i => r.copy g i (g.out + p * g.rowB) (g.oExp + p * g.expB) p
    | none => r.zero g (g.out + p * g.rowB) (g.oExp + p * g.expB) p) ⟨⟨s, [], [], none⟩, 0, 0⟩
  let upto := if r.m.bad.isSome then idx.take (r.at_ + 1) else idx
  let c : GatherCounts := ⟨r.rows, (upto.filter fun i => (g.inTable i).isNone).length, 0, 0⟩
  let s := r.m.s.whenSome r.m.bad fun s k => s.gatherSealErr n k r.at_
  s.endGather n t g c r.m.bad.isSome r.m.wrote []

/-- The grouping of tokens by expert (R321). -/
structure Groups where
  main    : List (List Nat)
  spill   : List (List Nat)
  dropped : List Nat
  range   : Nat
  ignored : Nat
deriving DecidableEq, Repr

/-- One route of a token; `taken` lists the experts the token has. -/
def Groups.route (u : Groups) (g : GatherOp) (tok x : Nat) (taken : List Nat) : Groups × List Nat :=
  if x == 0xFFFF then (u, taken)
  else if g.x ≤ x then ({ u with range := u.range + 1 }, taken)
  else if taken.contains x then ({ u with ignored := u.ignored + 1 }, taken)
  else
    let m := nth u.main x []
    let v := if m.length < g.cap then { u with main := setNth u.main x (m ++ [tok]) }
      else if g.drop then { u with dropped := setNth u.dropped x (nth u.dropped x 0 + 1) }
      else { u with spill := setNth u.spill x (nth u.spill x [] ++ [tok]) }
    (v, taken ++ [x])

/-- Every token's routes in order. -/
def State.groups (s : State) (g : GatherOp) : Groups :=
  (List.range g.n).foldl (fun (u : Groups) tok =>
    ((List.range g.k).foldl (fun (a : Groups × List Nat) j =>
      a.1.route g tok (s.num (g.index + 2 * (tok * g.k + j)) 2) a.2) (u, [])).1)
    ⟨List.replicate g.x [], List.replicate g.x [], List.replicate g.x 0, 0, 0⟩

/-- One list of an expert written: rows, second plane, positions. -/
def Rows.list (r : Rows) (g : GatherOp) (elem exp pos cap x : Nat) (toks : List Nat) : Rows :=
  (List.range toks.length).foldl (fun (u : Rows) j =>
    let i := x * cap + j
    let tok := nth toks j 0
    let v := u.copy g tok (elem + i * g.rowB) (exp + i * g.expB) tok
    { v with m := v.m.fill (pos + 4 * i) (leBytes 4 tok) }) r

/-- What a grouping adds to its buttons, and the event of its dropped tokens (R164, R165, R321). -/
def Groups.posts (u : Groups) (g : GatherOp) (n : Nat) : List Post :=
  let drops := u.dropped.filter fun d => d != 0
  ((List.range g.x).flatMap fun x => Post.button (g.cnt + x) (nth u.main x []).length ::
    (if g.drop then [] else [Post.button (g.sBtn + x) (nth u.spill x []).length])) ++
  (if drops.isEmpty then [] else [Post.log (pgGather n) 0x0121 [drops.length, drops.sum]])

/-- GATHER in expert mode (R321). -/
def State.gatherExperts (s : State) (n : Nat) (t : Task) (g : GatherOp) : State :=
  let u := s.groups g
  let r := (List.range g.x).foldl (fun (r : Rows) x =>
    (r.list g g.out g.oExp g.pos g.cap x (nth u.main x [])).list g g.spill g.sExp g.sPos g.sCap x (nth u.spill x [])) ⟨⟨s, [], [], none⟩, 0, 0⟩
  let m := (List.range g.x).foldl (fun (m : Moved) x =>
    m.fill (g.route + 16 * x) (leBytes 4 (nth u.main x []).length ++ leBytes 4 (nth u.spill x []).length ++ leBytes 4 (nth u.dropped x 0) ++
      leBytes 4 0)) r.m
  let c : GatherCounts := ⟨r.rows, u.range, u.ignored, 0⟩
  match m.bad with
  | some k => (m.s.gatherSealErr n k r.at_).endGather n t g c true m.wrote []
  | none => m.s.endGather n t g c false m.wrote (u.posts g n)

/-- The new content of a table row (R320), as binary32 encodings. -/
def State.scatterRow (s : State) (g : GatherOp) (idx : List Int) (i : Nat) : List Nat :=
  let w := g.rowB / 4
  let start := if g.accum then s.nums (g.table + i * g.rowB) w 4 else List.replicate w 0
  (List.range g.n).foldl (fun (acc : List Nat) p =>
    if nth idx p (-1) = (i : Int) then
      (List.range w).map fun e => add32 (nth acc e 0) (s.num (g.out + p * g.rowB + 4 * e) 4)
    else acc) start

/-- What a scatter has reached: the move, input rows added, non-finite elements, the row last written. -/
structure Scatter where
  m      : Moved
  rows   : Nat
  nonfin : Nat
  at_    : Nat

/-- One named row of the table: its input rows and, under `ACCUM`, its old content are checked, and it is written. -/
def Scatter.row (r : Scatter) (g : GatherOp) (idx : List Int) (i : Nat) : Scatter :=
  if r.m.bad.isSome then r
  else
    let s := r.m.s
    let ps := (List.range g.n).filter fun p => nth idx p (-1) = (i : Int)
    let ks := (blocksOfAll ((ps.map fun p => (g.out + p * g.rowB, g.rowB)) ++ (if g.accum then [(g.table + i * g.rowB, g.rowB)] else []))).filter
      fun k => !inHost (4096 * k) && !r.m.checked.contains k
    let rs := (ps.map fun p => (g.out + p * g.rowB, g.rowB)) ++ (if g.accum then [(g.table + i * g.rowB, g.rowB)] else [])
    let c := (s.cacheReads rs (blocksOfAll rs)).check ks 0x0703
    match s.firstBad ks with
    | some k => { r with m := { r.m with s := c, bad := some k }, at_ := ps.headD 0 }
    | none =>
      let acc := s.scatterRow g idx i
      let m := ({ r.m with s := c, checked := r.m.checked ++ ks } : Moved).fill (g.table + i * g.rowB) (acc.flatMap (leBytes 4))
      if m.bad.isSome then { r with m := m, at_ := ps.headD 0 }
      else ⟨m, r.rows + ps.length, r.nonfin + (acc.filter fun v => !(d32 v).isFin).length, i⟩

/-- SCATTER_ADD (R320): the named rows in ascending order. -/
def State.scatterAdd (s : State) (n : Nat) (t : Task) (g : GatherOp) : State :=
  let idx := s.indices g
  let named := (idx.filterMap g.inTable).foldl (fun (l : List (Nat × Unit)) i => aput l i ()) []
  let r := named.foldl (fun (r : Scatter) i => r.row g idx i.1) ⟨⟨s, [], [], none⟩, 0, 0, 0⟩
  let c : GatherCounts := ⟨r.rows, (idx.filter fun i => (g.inTable i).isNone).length, 0, r.nonfin⟩
  let s := r.m.s.whenSome r.m.bad fun s k => s.gatherSealErr n k r.at_
  s.endGather n t g c r.m.bad.isSome r.m.wrote []

/-- The unit takes a task (R322, R323): its page shows it until it completes. -/
def State.startGather (s : State) (t : Task) (n : Nat) : State :=
  let die := pgMemDie n
  let page := pgGather n
  let oa := t.addr 32
  match faultIn oa 128 with
  | some a => (((s.accessFault n a t.type).err page 0x0702 0).cause page 0).handOver t (.finished stAborted 0 0x0702 0) die [] n
  | none =>
    let ks := blocksOf oa 128
    let s := (s.cacheUse oa 128).check ks 0x0703
    match s.firstBad ks with
    | some k => (s.gatherSealErr n k 0).handOver t (.finished stSeal 0 0x0703 0) die [] n
    | none =>
      let g := gatherOp t (s.bytes oa 128)
      let c := gatherCheck g
      if g.n == 0 then s.handOver t (.finished stDone 0 0 0) die [] n
      else if c != 0 then (s.refuseTask t die stAborted c 0x0707 0 [n, c]).cause page 0
      else
        let s := (s.handOver t .running die [page] n).wf page R.GATHER.CUR_TASK t.cmplIndex
        let t := (s.task? t.seq).getD t
        let ks := blocksOf g.indexRange.1 g.indexRange.2
        let s := (s.cacheUse g.indexRange.1 g.indexRange.2).check ks 0x0703
        match s.firstBad ks with
        | some k => (s.gatherSealErr n k 0).endGather n t g ⟨0, 0, 0, 0⟩ true [] []
        | none => if g.scatter then s.scatterAdd n t g else if g.experts then s.gatherExperts n t g else s.gatherRows n t g

/-- A task that waits in the dispatcher for its gather unit. -/
def gatherWaits (t : Task) : Bool := (t.type == 0x41 || t.type == 0x42) && t.isRunning && t.pages.isEmpty

/-- A gather unit can take a task: it runs none, and none handed over earlier waits for it (R325). -/
def State.gatherTakes (s : State) (n : Nat) (t : Task) : Bool :=
  s.betweenTasks (pgGather n) && s.coreReady (pgGather n) &&
    !s.tasks.any fun u => u.seq != t.seq && gatherWaits u && u.target == n && t.isLater u

/-- What a gather task accesses waits for host-held lines, and it starts if its unit takes it; else it waits in the dispatcher (R287). -/
def State.dispatchGather (s : State) (t : Task) (n : Nat) : State :=
  let t := { t with target := n }
  if s.gatherTakes n t then
    s.whenFree ((t.addr 32, 128) :: (gatherOp t (s.bytes (t.addr 32) 128)).ranges) fun s => s.startGather t n
  else if gatherWaits t then s
  else s.handOver t .running (pgMemDie n) [] n

/-- A task of the gather unit of a type and mode is dispatched to a die (R286), or, where it waits there, started (DESIGN CHOICE, log 157). -/
def State.takeGather (s : State) (n type : Nat) (experts : Bool) : Host.Outcome State Fault Refusal :=
  let other (t : Task) : Bool := t.type != type || (type == 0x41 && bit (t.fld 48 1) 1 != experts)
  match s.dispatchable n [type] with
  | some t =>
    if other t then .next s
    else match s.pickUnit type t.hint with
    | some d => s.onDie (pllMem d) fun s => s.dispatchGather t d
    | none => .next s
  | none => match s.task? n with
    | some t => if gatherWaits t && !other t then s.onDie (pllMem t.target) fun s => s.dispatchGather t t.target else .next s
    | none => .next s

/-- GATHER_ROWS (R319). -/
def execGatherRows (n : Nat) (s : State) : Host.Outcome State Fault Refusal := s.takeGather n 0x41 false
/-- GATHER_EXPERTS (R321). -/
def execGatherExperts (n : Nat) (s : State) : Host.Outcome State Fault Refusal := s.takeGather n 0x41 true
/-- SCATTER_ADD (R320). -/
def execScatterAdd (n : Nat) (s : State) : Host.Outcome State Fault Refusal := s.takeGather n 0x42 false

/-- GATHER_COUNT_CLEAR (R329). -/
def execGatherCountClear (view : View) (n : Die8) (s : State) : Host.Outcome State Fault Refusal :=
  .next (s.onWrite view (pgGather n) false fun s => s.crossOrPost view (pgGather n + R.GATHER.COUNT_CLEAR_CLEAR.off) 1)

end Sys2Proof.Machine
end

