-- ==== Sys2Proof/Machine/Pins.lean ====
section
/-! DEFINITION. The low-speed pins of J3 (chapter 20): alert outputs, the SMBus sideband, the test access port. -/

namespace Sys2Proof.Machine

/-! Alert outputs (R465). -/

/-- ALERT_N is low. -/
def State.alertLow (s : State) : Bool := s.hdr pgPower oINT_STATUS &&& s.rf pgPower R.POWER.ALERT_MASK != 0

/-- FAULT_N is low. -/
def State.faultLow (s : State) : Bool := s.rf pgDevice R.DEVICE.DEV_STATE_STATE == 5

/-! SMBus (R482). -/

/-- The 7-bit address: 0x58 + 2·SMB_ADDR1 + SMB_ADDR0. -/
def State.smbAddr (s : State) : Nat := 0x58 + s.power.straps.toNat

/-- The hottest trusted result of channels 0, 1 and 4 of the four converters, 0x8000 for none. -/
def State.hottest (s : State) : Nat :=
  let l := (List.range 4).flatMap fun m => [0, 1, 4].filterMap (s.reading m)
  match l with
  | [] => 0x8000
  | x :: t => t.foldl (fun a b => if sint 16 a < sint 16 b then b else a) x

/-- The word of a sideband command (Table 20-4). -/
def State.smbWord (s : State) (cmd : Nat) : Option Nat :=
  match cmd with
  | 0x00 => some (s.rf pgDevice R.DEVICE.PART_ID_PART)
  | 0x01 => some (s.rf pgDevice R.DEVICE.DEV_STATE_STATE)
  | 0x02 => some (s.rf pgPower R.POWER.INPUT_MV)
  | 0x03 => some (s.rf pgPower R.POWER.INPUT_W_AVG)
  | 0x04 => some s.hottest
  | 0x05 => some ((s.reading 0 17).getD 0x8000)
  | 0x06 => some (s.hdr pgPower oINT_STATUS % 2 ^ 16)
  | 0x08 => some (s.rf pgDevice R.DEVICE.SERIAL_LO % 2 ^ 16)
  | 0x09 => some (s.rf pgDevice R.DEVICE.SERIAL_LO / 2 ^ 16)
  | 0x0A => some (s.rf pgDevice R.DEVICE.SERIAL_HI % 2 ^ 16)
  | 0x0B => some (s.rf pgDevice R.DEVICE.SERIAL_HI / 2 ^ 16)
  | _ => none

/-- One bit of SMBus's CRC-8, polynomial x^8 + x^2 + x + 1 (PRESUMED, log 11). -/
def crc8Bit (c : Nat) : Nat := if 128 ≤ c then (2 * c % 256) ^^^ 7 else 2 * c

/-- The packet error code of a run of bytes. -/
def pecOf (b : List Nat) : Nat :=
  b.foldl (fun c x => crc8Bit (crc8Bit (crc8Bit (crc8Bit (crc8Bit (crc8Bit (crc8Bit (crc8Bit (c ^^^ x))))))))) 0

/-- SMBUS_READ_WORD (R482): the word, low byte first, with the packet error code when asked for; or no acknowledgement. -/
def execSmbusReadWord (addr : BitVec 7) (cmd : Byte) (pec : Bool) (s : State) : Host.Outcome State Fault Refusal :=
  .next { s with reply :=
    if !s.alive || s.rf pgDevice R.DEVICE.DEV_STATE_STATE == 0 || addr.toNat != s.smbAddr then .notAcknowledged
    else match s.smbWord cmd.toNat with
      | some w =>
        let a := 2 * addr.toNat
        .bytes (leBytes 2 w ++ if pec then leBytes 1 (pecOf [a, cmd.toNat, a + 1, w % 256, w / 256]) else [])
      | none => .notAcknowledged }

/-! The test access port (R484). -/

/-- The port takes an instruction; leaving EXTEST resets the module. -/
def State.tapTakes (s : State) (i : TapInstr) : State :=
  let was := s.tap.instr
  let s := { s with tap := { s.tap with instr := i } }
  if was == .extest && i != .extest then s.restart 5 else s

/-- IDCODE (R484). -/
def execIdcode (s : State) : Host.Outcome State Fault Refusal := .next { s.tapTakes .idcode with reply := .word 0x21000A3F#32 }

/-- BYPASS (R484): every other instruction code acts so. -/
def execBypass (_code : Byte) (s : State) : Host.Outcome State Fault Refusal := .next { s.tapTakes .bypass with reply := .none }

/-- SAMPLE_PRELOAD (R484): the levels sampled at the pins are a free value, and the boundary-scan cells take the preloaded bits. -/
def execSamplePreload (preload : List Bool) (s : State) : Host.Outcome State Fault Refusal :=
  let t := s.tapTakes .sample
  let d := t.draw 0x484
  .next { d.2 with reply := .word d.1, tap := { t.tap with cells := preload } }

/-- EXTEST (R484): while graphs run, every graph queue is disabled. -/
def execExtest (s : State) : Host.Outcome State Fault Refusal :=
  let t := s.tapTakes .extest
  .next (if t.rf pgDevice R.DEVICE.DEV_STATE_STATE == 4 then (List.range 64).foldl State.disableQueue t else t)

/-- EXTEST_EXIT (R484, Table 19-5). -/
def execExtestExit (s : State) : Host.Outcome State Fault Refusal :=
  .next (if s.tap.instr == .extest then s.tapTakes .idcode else s)

end Sys2Proof.Machine
end

