-- ==== Sys2Proof/Machine/Complete.lean ====
section
/-! DEFINITION. TASK_COMPLETION, and the end of a measuring pre-pass, which any of three engines may run. -/

namespace Sys2Proof.Machine

/-- What the completion of a task writes: its records, and its completion record (R190, R283). -/
def State.recordRanges (s : State) (t : Task) : List (Nat × Nat) :=
  ((storePosts t.post).map fun w => (w.1, w.2.length)) ++ (if t.cmplIndex == 0xFFFFFFFF then [] else [(s.recordAddr t, 32)])

/-- A task that has run completes; what waited for the gap on its panels follows (R141, R142, R158). A stalled fetch of its queue that then
meets a stopped `CONSUMED` gives up its hold (R291). -/
def State.endHanded (s : State) (t : Task) (st detail event errDetail : Nat) : State :=
  let panels := t.pages.filter fun p => match pageAt p with | some r => r.cls == .panel | none => false
  let s := panels.foldl State.dueRetirement ((s.finish t st detail event errDetail).giveUp t.queue)
  if typeClass t.type == .array then s.pumpArrays else s

/-- TASK_COMPLETION (R285): of a task that has run, once no host-held line lies in what it writes (R28). -/
def execTaskCompletion (n : Nat) (s : State) : Host.Outcome State Fault Refusal :=
  .next (match s.task? n with
    | some t => match t.phase with
      | .finished st detail event errDetail => s.whenFree (s.recordRanges t) fun s => s.endHanded t st detail event errDetail
      | _ => s
    | none => s)

/-- MEASURING_PREPASS_DONE (R254): of an array, gradient or vector task whose pre-pass has ended. -/
def execMeasuringPrepassDone (n : Nat) (s : State) : Host.Outcome State Fault Refusal :=
  match s.task? n with
  | none => .next s
  | some t =>
    match s.arrayRun? n, s.gradRuns.find? (fun p => p.2.task == n), s.vecRuns.find? (fun p => p.2.task == n) with
    | some r, _, _ => s.onArrayDies r.placement fun s => s.whenFree (s.runRanges t r) fun s => s.arrayMeasured t r
    | _, some p, _ => s.onDie (pllGrad p.1) fun s => s.gradMeasured p.1 t p.2
    | _, _, some p => s.onDie (pllGrad p.1) fun s => s.vecMeasured p.1 t p.2
    | _, _, _ => .next s

end Sys2Proof.Machine
end

