-- ==== Sys2Proof/Machine/Digest.lean ====
section
/-! DEFINITION. Replica digests (R391 to R393): DIGEST_EXCHANGE and its verdict. -/

namespace Sys2Proof.Machine

/-- The entry of a DIGEST_EXCHANGE; bits [15:12] are reserved (Table 15-5). -/
def digestEntry (t : Task) : Nat := t.fld 32 2 % 4096

/-- The layer list of a DIGEST_EXCHANGE: address and bytes. -/
def digestList (t : Task) : Nat × Nat := (line64 (t.addr 40), 8 * t.fld 34 2)

/-- The state records that the list names. -/
def State.digestRecords (s : State) (t : Task) : List Nat := (s.nums (digestList t).1 (t.fld 34 2) 8).map (· % 2 ^ 52)

/-- The model digest of a step (R391). -/
def State.modelDigest (s : State) (step : Nat) (records : List Nat) : List Byte :=
  sm3 (leBytes 8 step ++ records.flatMap fun a => s.bytes (a + 24) 8 ++ s.bytes (a + 80) 32)

/-- The blocks of a DIGEST_EXCHANGE's chunk of the source, which it has written. -/
def DigestRun.source (d : DigestRun) (c : CollOp) : List Nat := blocksOf (c.srcRange d.rank).1 (c.srcRange d.rank).2

/-- A DIGEST_EXCHANGE ends, with its grant released (R393). -/
def State.endDigest (s : State) (t : Task) (st event : Nat) (post : List Post) : State :=
  let s := { s with digests := s.digests.filter fun d => d.task != t.seq }
  (s.release mDigest t.seq).endTask t st 0 event (digestEntry t) post

/-- The digest list or a state header fails its seal. -/
def State.digestSeal (s : State) (t : Task) (k : Nat) : State :=
  ((s.err pgColl 0x0906 (digestEntry t)).log pgColl 0x0906 [s.myId, 4096 * k]).endDigest t stSeal 0x0906 []

/-- The exchange of a granted task: the digest is formed, written to chunk r of the source, and bound (R391). -/
def State.exchangeDigest (s : State) (t : Task) (r : Nat) : State :=
  let e := digestEntry t
  let c := s.collOp e
  let d := s.modelDigest t.step (s.digestRecords t)
  let w := s.merge (c.srcRange r).1 d 0x0906
  match w.2 with
  | k :: _ => w.1.digestSeal t k
  | [] =>
    let s := { w.1 with digests := w.1.digests ++ [DigestRun.mk t.seq e t.step r d none] }
    s.meet t.seq e t.step r

/-- DIGEST_EXCHANGE at dispatch (R391): the grant, the collective's checks, the list and the state headers. -/
def State.takeDigest (s : State) (t : Task) : State :=
  let e := digestEntry t
  let g := s.askGrant mDigest [] t.seq
  if !g.2 then g.1.handOver t (.finished stMaintBusy 0 0x0A08 e) pgColl [] 0
  else
    let s := g.1.handOver t .running pgColl [] e
    let t := (s.task? t.seq).getD t
    let l := digestList t
    let c := s.collOp e
    if s.collRefused e then (s.log pgColl 0x0908 [e]).endDigest t stAborted 0x0908 []
    else match faultIn l.1 l.2 <|> faultIn c.group (2 * c.p) <|> faultIn c.src (c.n * c.size) <|> faultIn c.res (c.n * c.size) with
    | some a => (s.accessFault 0 a 0x51).endDigest t stAborted 0x0702 []
    | none =>
      let lk := blocksOf l.1 l.2 ++ blocksOf c.group (2 * c.p)
      let s := (s.cacheReads [l, (c.group, 2 * c.p)] lk).check lk 0x0906
      match s.firstBad lk with
      | some k => s.digestSeal t k
      | none =>
        let rs := s.digestRecords t
        match rs.findSome? fun a => faultIn a 4096 with
        | some a => (s.accessFault 0 a 0x51).endDigest t stAborted 0x0702 []
        | none =>
          let hk := blocksOfAll (rs.map fun a => (a, 4096))
          let s := (s.cacheReads (rs.map fun a => (a, 4096)) hk).check hk 0x0906
          match s.firstBad hk, s.myRank c with
          | some k, _ => s.digestSeal t k
          | none, some r => s.exchangeDigest t r
          | none, none => s

/-- DIGEST_EXCHANGE (R391). -/
def execDigestExchange (n : Nat) (s : State) : Host.Outcome State Fault Refusal :=
  .next (match s.dispatchable n [0x51] with
    | some t =>
      let c := s.collOp (digestEntry t)
      s.whenFree ([digestList t, (c.group, 2 * c.p), (c.src, c.n * c.size), (c.res, c.n * c.size)] ++
        (s.digestRecords t).map fun a => (a, 4096)) fun s => s.takeDigest t
    | none => s)

/-! The verdict (R392). -/

/-- The digests of the gathered vector, by rank. -/
def State.gathered (s : State) (c : CollOp) : List (List Byte) :=
  (List.range c.p).map fun r => s.bytes (c.res + c.lo r * c.size) (c.span r (r + 1) * c.size)

/-- A member is present: its chunk is not all zero. -/
def presentDigest (d : List Byte) : Bool := d.any fun b => b != 0

/-- The majority digest: one held by more than half of the members. -/
def majorityDigest (ds : List (List Byte)) : Option (List Byte) :=
  ds.find? fun d => presentDigest d && decide (ds.length < 2 * (ds.filter (· == d)).length)

/-- The verdict of Table 15-6. -/
def verdict (ds : List (List Byte)) (mine : List Byte) : Nat :=
  let d0 := ds.headD []
  if ds.all fun d => presentDigest d && d == d0 then 0
  else match majorityDigest ds with
    | some d => if d == mine then 1 else 2
    | none => 3

/-- The record of Table 15-7. -/
def verdictRecord (d : DigestRun) (ds : List (List Byte)) (ids : List Nat) (v : Nat) (mine : List Byte) : List Byte :=
  let maj := majorityDigest ds
  let holders := match maj with | some m => (ds.filter (· == m)).length | none => 0
  let donor := match maj with | some m => (ds.findIdx? (· == m)).getD 0xFFFF | none => 0xFFFF
  leBytes 8 d.step ++ leBytes 1 v ++ leBytes 1 0 ++ leBytes 2 (ds.filter presentDigest).length ++ leBytes 2 holders ++ leBytes 2 donor ++
    leBytes 2 (nth ids donor 0xFFFF) ++ leBytes 2 d.rank ++ List.replicate 12 0 ++ mine ++ maj.getD (List.replicate 32 0) ++
    List.replicate 32 0

/-- A member reaches its verdict from the gathered vector, where its own chunk stands at its rank. -/
def State.reachVerdict (s : State) (t : Task) (d : DigestRun) : State :=
  let c := s.collOp d.entry
  let ds := s.gathered c
  let ids := s.group c
  let held := nth ds d.rank []
  let v := verdict ds held
  let a := t.addr 48
  let post := (if a == 0 then [] else [Post.store a (verdictRecord d ds ids v d.digest)]) ++
    [Post.readBack pgColl (d.source c ++ blocksOf c.res (c.n * c.size))]
  let maj := majorityDigest ds
  let holders := match maj with | some m => (ds.filter (· == m)).length | none => 0
  let donor := match maj with | some m => nth ids ((ds.findIdx? (· == m)).getD 0) 0xFFFF | none => 0xFFFF
  let s := if 2 ≤ v then s.log pgColl 0x0A05 [v, (ds.filter presentDigest).length, holders, donor] else s
  if v ≤ 1 then s.endDigest t stDone 0 post else s.endDigest t stDigest 0x0A05 post

/-- DIGEST_VERDICT (R392, R393): the collective of a DIGEST_EXCHANGE has closed at this member. -/
def execDigestVerdict (n : Nat) (s : State) : Host.Outcome State Fault Refusal :=
  .next (match s.digests.find? (fun d => d.task == n), s.task? n with
    | some d, some t => match d.closed with
      | some st =>
        if st == stDone || st == stPartial then s.whenFree [((s.collOp d.entry).res, 32 * (s.collOp d.entry).p)] fun s => s.reachVerdict t d
        else s.endDigest t st (if st == stTimeout then 0x090A else 0x0906) [.readBack pgColl (d.source (s.collOp d.entry))]
      | none => s
    | _, _ => s)

end Sys2Proof.Machine
end

