-- ==== Sys2Proof/Machine/Replay.lean ====
section
/-! DEFINITION. Cross-die replay (R386 to R390) and the field tests that follow it. The runs are formed whole when their command
comes; a run that its die got wrong leaves open what it formed. -/

namespace Sys2Proof.Machine

/-! The record (Table 15-2). -/

/-- `UPD_DESC` as a task in a mode, with the held step. -/
def updTask (rec_ : List Byte) (seq mode step now : Nat) : Task where
  seq := seq
  queue := 64
  index := 0
  alt := false
  desc := let d := (rec_.drop 64).take 64
    setNth (setNth d 2 0) 56 (BitVec.ofNat 8 (fieldAt d 56 1 / 8 * 8 + mode))
  step := step
  repeats := 0
  replays := 0
  widened := false
  fetchAt := now
  startAt := now
  condDone := false
  phase := .running
  unit := pgMaint
  pages := []
  post := []
  target := 0

/-- `GRAD_DESC` i as a task of the held step on a die. -/
def gradTask (rec_ : List Byte) (i die step now : Nat) : Task :=
  { updTask rec_ 0 0 step now with desc := setNth ((rec_.drop (128 + 64 * i)).take 64) 3 (BitVec.ofNat 8 die) }

/-- `GRAD_COUNT`. -/
def gradCount (rec_ : List Byte) : Nat := fieldAt rec_ 41 1

/-- `QUAD_A`. -/
def quadA (rec_ : List Byte) : Nat := fieldAt rec_ 40 1 % 4

/-- The bytes of the G plane. -/
def UpdOp.gBytes (x : UpdOp) : Nat := x.r * x.c * (fmtOr x.gFmt).bytes

/-- The operand record of the held UPDATE with another G. -/
def opndWith (o : List Byte) (g : Nat) : List Byte := patch o 0 (leBytes 8 g)

/-- The replay in progress. -/
def State.setReplay (s : State) (r : Replay) : State := { s with replay := some r }

/-- `REPLAY_STATUS`. -/
def State.replayStatus (s : State) (state outcome status : Nat) : State :=
  s.wfs pgMaint [(R.MAINT.REPLAY_STATUS_STATE, state), (R.MAINT.REPLAY_STATUS_OUTCOME, outcome), (R.MAINT.REPLAY_STATUS_STATUS, status)]

/-- The result record (Table 15-4). -/
def replayRecord (r : Replay) (step layer now : Nat) : List Byte :=
  leBytes 1 r.status ++ leBytes 1 r.outcome ++ leBytes 1 r.runs ++ leBytes 1 r.minority ++ leBytes 4 0 ++ leBytes 8 step ++ leBytes 2 layer ++
    leBytes 2 0 ++ leBytes 4 (now - r.startAt) ++ leBytes 8 0 ++
    ((List.range 6).flatMap fun i => nth r.digests i (List.replicate 32 0)) ++ List.replicate 32 0

/-- The result record is written; one that lies in no installed range is an access fault (R304). -/
def State.putReplay (s : State) (r : Replay) (step layer : Nat) : State :=
  let a := recAddr r.recBytes 32
  match faultIn a 256 with
  | some b => s.accessFault 0 b 0
  | none => s.put a (replayRecord r step layer s.now)

/-- The state header of the held layer; zero where it lies in no installed range. -/
def State.replayHead (s : State) (rec_ : List Byte) : List Byte :=
  if rangeOk (recAddr rec_ 0) 128 then s.bytes (recAddr rec_ 0) 128 else List.replicate 128 0

/-- A replay is refused (R387): result record, event 0x0A03, the grant never held. A record that lies in no installed range names no
result record. -/
def State.refuseReplay (s : State) (r : Replay) (st : Nat) (named : Bool) : State :=
  let h := s.replayHead r.recBytes
  let r := { r with state := 0, status := st }
  let s := if named then s.putReplay r (hdHoldStep h) (fieldAt h 0 2) else s
  let s := ((s.err pgMaint 0x0A03 mReplay).log pgMaint 0x0A03 [st, if named then fieldAt h 0 2 else 0]).replayStatus 0 0 st
  s.setReplay r

/-- A quadrant can run for a replay: a ready gradient core and a ready update engine (R387). -/
def State.quadReady (s : State) (q : Nat) : Bool :=
  ((List.range 16).any fun c => s.coreReady (pgGradCore q c)) && (s.coreReady (pgUpdate (2 * q)) || s.coreReady (pgUpdate (2 * q + 1)))

/-- Dies B and C: the next two quadrants that can run. -/
def State.otherDies (s : State) (a : Nat) : List Nat := (([1, 2, 3].map fun i => (a + i) % 4).filter s.quadReady).take 2

/-- Every `GRAD_DESC` writes within G_A in its format (R387). -/
def State.gradDescsOk (s : State) (rec_ : List Byte) (x : UpdOp) : Bool :=
  decide (1 ≤ gradCount rec_) && decide (gradCount rec_ ≤ 16) &&
    (List.range (gradCount rec_)).all fun i =>
      let t := gradTask rec_ i 0 0 0
      let c := (matOp t (s.bytes (t.addr 32) 128)).c
      t.type == 0x20 && t.fld 50 1 % 64 == x.gFmt && decide (x.g ≤ c.elem) && decide (c.elem + c.rows * c.rowBytes ≤ x.g + x.gBytes)

/-- REPLAY_START (R387): the checks in order. -/
def State.startReplay (s : State) : State :=
  let a := s.rf64 pgMaint R.MAINT.REPLAY_ADDR_LO_ADDR R.MAINT.REPLAY_ADDR_HI_ADDR
  let owed := match s.replay with | some r => r.owed | none => []
  let r : Replay := ⟨0, [], [], s.now, List.replicate 6 (List.replicate 32 0), 0, 0, 0, 0xFF, owed, s.now⟩
  if !rangeOk a 4096 then (s.accessFault 0 a 0).refuseReplay r stAborted false
  else
    let s := (s.cacheUse a 4096).check [a / 4096] 0x0A03
    let r := { r with recBytes := s.bytes a 4096 }
    let sa := recAddr r.recBytes 0
    let s' := if rangeOk sa 4096 then (s.cacheUse sa 4096).check [sa / 4096] 0x0A03 else s
    if !s.blockOk (a / 4096) then s.refuseReplay r stSeal true
    else if !rangeOk sa 4096 then (s.accessFault 0 sa 0).refuseReplay r stAborted true
    else if !s.blockOk (sa / 4096) then s'.refuseReplay r stSeal true
    else
      let s := s'
      let h := s.replayHead r.recBytes
      let x := updOp (updTask r.recBytes 0 3 0 0) (s.bytes (recAddr r.recBytes 8) 128)
      let dies := quadA r.recBytes :: s.otherDies (quadA r.recBytes)
      if !hdHeld h || hdPartial h || !s.gradDescsOk r.recBytes x || dies.length != 3 then s.refuseReplay r stAborted true
      else
        let g := s.askGrant mReplay dies 0
        if !g.2 then g.1.refuseReplay r stMaintBusy true
        else ((g.1.inc pgMaint R.MAINT.REPLAY_COUNT).replayStatus 1 (s.rf pgMaint R.MAINT.REPLAY_STATUS_OUTCOME)
          (s.rf pgMaint R.MAINT.REPLAY_STATUS_STATUS)).setReplay { r with state := 1, dies := dies }

/-- REPLAY_START (R387): ignored while a replay runs. -/
def execReplayStart (view : View) (s : State) : Host.Outcome State Fault Refusal :=
  .next (s.onWrite view pgMaint false fun s => match s.replay with
    | some r => if r.state == 0 then s.startReplay else s
    | none => s.startReplay)

/-! Runs (R388). -/

/-- Where run `x` of a replay has its G: 0 G_A, 1 G_B, 2 G_C. -/
def State.runG (s : State) (rec_ : List Byte) (x : Nat) : Nat :=
  if x == 0 then recAddr (s.bytes (recAddr rec_ 8) 128) 0 else recAddr rec_ (8 + 8 * x)

/-- A tensor moved in memory. -/
def Tensor.move (x : Tensor) (from_ to_ : Nat) : Tensor := { x with elem := x.elem - from_ + to_ }

/-- The ready gradient cores of a die. -/
def State.readyCores (s : State) (q : Nat) : List Nat := (List.range 16).filter fun c => s.coreReady (pgGradCore q c)

/-- One GRAD_MM run again on a die, its C moved (R388); false when a block of it fails its seal. Its items go to the ready cores, one to each
before any takes a second (DESIGN CHOICE, log 122). -/
def State.rerun (s : State) (t : Task) (q from_ to_ : Nat) : State × Bool :=
  let oa := t.addr 32
  let o := s.bytes oa 128
  let x := matOp t o
  let x := { x with c := x.c.move from_ to_ }
  let s := (s.freshPlane q x).noteRan q x ((s.readyCores q).take x.items)
  let ks := (blocksOfAll [(oa, 128), (s.keyTable q, 4096)] ++ ((List.range x.items).flatMap fun i =>
    ((s.itemA x i).filter (!·.2)).map (·.1) ++ x.itemB i ++ x.itemZ i) ++ (List.range x.tiles).flatMap x.tileC).eraseDups
  let s := (s.check ks 0x0201).cacheReads x.reads ks
  if (s.firstBad ks).isSome then (s, false)
  else
    let run := GradRun.start 0 o (s.keyAt q x.key) (longsumOn t x) false 0 none 0 0 0 0
    (List.range x.tiles).foldl (fun (a : State × Bool) ot =>
      if !a.2 then a
      else
        let ws := (a.1.tileRows t x run ot).flatMap TileRow.writes
        let w := (a.1.check (ws.flatMap fun y => partBlocks y.1 y.2.length) 0x0201).storeAll ws
        (w.1, w.2.isEmpty)) (s, true)

/-- The products of run B or C on its die. A die that got them wrong leaves the plane open. -/
def State.products (s : State) (rec_ : List Byte) (x q : Nat) (good : Bool) : State × Bool :=
  let h := s.replayHead rec_
  let g := s.runG rec_ x
  let u := updOp (updTask rec_ 0 3 0 0) (s.bytes (recAddr rec_ 8) 128)
  let r := (List.range (gradCount rec_)).foldl (fun (a : State × Bool) i =>
    if a.2 then a.1.rerun (gradTask rec_ i q (hdHoldStep h) 0) q (s.runG rec_ 0) g else a) (s, true)
  if !r.2 || good then r
  else
    let b := r.1.freeBytes 8 u.gBytes
    ((b.2.store g b.1).1, true)

/-- The two digests of run `x`: DG over the plane, DP by PROBE; none when a block fails its seal. A digest that went wrong is open. -/
def State.runDigests (s : State) (rec_ : List Byte) (x : Nat) (k : RunHealth) : State × Option (List Byte × List Byte) :=
  let h := s.replayHead rec_
  let o := opndWith (s.bytes (recAddr rec_ 8) 128) (s.runG rec_ x)
  let u := updOp (updTask rec_ 0 3 0 0) o
  let lg := s.ledgerUse u (hdHoldStep h)
  let z := hdSel h
  let late := s.lateBad u lg.1
  let rs := (u.g, u.gBytes) :: (recAddr rec_ 8, 128) :: [(u.slotAt z, 4 * u.r), (u.colAt z, 4 * u.c), (u.scaleAt z, 2 * u.c)] ++ u.mT.ranges
  let ks := (blocksOfAll rs ++ late.1).eraseDups
  let s := (s.cacheReads (rs ++ u.lateRanges lg.1) ks).check ks 0x0404
  if (s.firstBad ks).isSome then (s, none)
  else
    let dg := sm3 (s.bytes u.g u.gBytes)
    let dp := s.probeDigest u lg.1 (s.pass1 u h (hdHoldEta h) lg.1)
    let a := s.freeBytes 9 32
    let b := a.2.freeBytes 9 32
    (b.2, some (if x == 0 && !k.products then a.1 else dg, if k.probe then dp else b.1))

/-- A replay has decided: the next state shows what remains to be done. -/
def State.decideReplay (s : State) (r : Replay) (outcome : Nat) : State :=
  let st := match outcome with | 4 => stDisagree | 5 => stHeld | 6 => stSeal | _ => stReplayed
  let next := if outcome ≤ 3 then 3 else 4
  let minority := match outcome with
    | 2 => nth r.dies 1 0xFF
    | 3 | 5 => nth r.dies 0 0xFF
    | _ => 0xFF
  (s.wf pgMaint R.MAINT.REPLAY_STATUS_STATE next).setReplay { r with state := next, outcome := outcome, status := st, minority := minority }

/-- A run of the replay: its products, unless it is run A, and its digests, which the replay keeps. -/
def State.formRun (s : State) (r : Replay) (x : Nat) (k : RunHealth) : State × Option Replay :=
  let p := if x == 0 then (s, true) else s.products r.recBytes x (nth r.dies x 0) k.products
  if !p.2 then (p.1, none)
  else
    let d := p.1.runDigests r.recBytes x k
    match d.2 with
    | some v => (d.1, some { r with runs := x + 1, digests := setNth (setNth r.digests (2 * x) v.1) (2 * x + 1) v.2 })
    | none => (d.1, none)

/-- Two runs agree. -/
def Replay.agree (r : Replay) (x y : Nat) : Bool :=
  nth r.digests (2 * x) [] == nth r.digests (2 * y) [] && nth r.digests (2 * x + 1) [] == nth r.digests (2 * y + 1) []

/-- The ranges of memory that a replay touches. -/
def State.replayRanges (s : State) (rec_ : List Byte) : List (Nat × Nat) :=
  let x := updOp (updTask rec_ 0 1 0 0) (s.bytes (recAddr rec_ 8) 128)
  x.ranges ++ [(recAddr rec_ 8, 128), (recAddr rec_ 16, x.gBytes), (recAddr rec_ 24, x.gBytes)] ++
    (List.range (gradCount rec_)).flatMap fun i => let t := gradTask rec_ i 0 0 0; (matOp t (s.bytes (t.addr 32) 128)).reads

/-- A step of the replay in a state, when no line it needs is host-held. -/
def State.onReplay (s : State) (state : Nat) (k : State → Replay → State) : State :=
  match s.replay with
  | some r => if r.state == state then s.whenFree (s.replayRanges r.recBytes) fun s => k s r else s
  | none => s

/-- REPLAY_RUNS_AB_DONE (R389). -/
def execReplayRunsAbDone (a b : RunHealth) (s : State) : Host.Outcome State Fault Refusal :=
  .next (s.onReplay 1 fun s r =>
    let ra := s.formRun r 0 a
    match ra.2 with
    | none => ra.1.decideReplay r 6
    | some r1 =>
      let rb := ra.1.formRun r1 1 b
      match rb.2 with
      | none => rb.1.decideReplay r1 6
      | some r2 =>
        if r2.agree 0 1 then rb.1.decideReplay r2 1
        else (rb.1.wf pgMaint R.MAINT.REPLAY_STATUS_STATE 2).setReplay { r2 with state := 2 })

/-- REPLAY_RUN_C_DONE (R389): Table 15-3. -/
def execReplayRunCDone (c : RunHealth) (s : State) : Host.Outcome State Fault Refusal :=
  .next (s.onReplay 2 fun s r =>
    let rc := s.formRun r 2 c
    match rc.2 with
    | none => rc.1.decideReplay r 6
    | some r3 =>
      rc.1.decideReplay r3 (if r3.agree 0 2 then 2 else if !r3.agree 1 2 then 4 else if bit (fieldAt r.recBytes 40 1) 2 then 3 else 5))

/-! The commit and the end (R389, R390). -/

/-- The majority die of a replay, and its run. -/
def Replay.majority (r : Replay) : Nat × Nat := if r.outcome == 3 then (nth r.dies 1 0, 1) else (nth r.dies 0 0, 0)

/-- The COMMIT of a replay on update engine 0 of the majority die, run whole, with the status that it completes with. -/
def State.replayCommit (s : State) (r : Replay) : State × Nat :=
  let m := r.majority
  let e := 2 * m.1
  let h := s.replayHead r.recBytes
  let t := updTask r.recBytes s.nextSeq 1 (hdHoldStep h) s.now
  let o := opndWith (s.bytes (recAddr r.recBytes 8) 128) (s.runG r.recBytes m.2)
  let x := updOp t o
  let u := updStart t o h
  let s := { s with tasks := s.tasks ++ [t] }
  let s := if updCheck x h == 0 then s.updKeys e t x u else s.endUpd e t x u (UpdEnd.plain stAborted 0x0407)
  let s := s.whenSome (s.upd? e) fun s u => if u.phase == UpdPhase.pass1 then s.endPass1 e t x u else s
  let s := s.whenSome (s.upd? e) fun s u => if u.phase == UpdPhase.pass2 then s.endPass2 e t x u else s
  match s.task? t.seq with
  | some t =>
    let s := s.dropTask t.seq
    match t.phase with
    | .finished st _ _ _ =>
      let back := (s.putRecords t.post).readBack t (if t.flag 3 then readBackBlocks t.post else [])
      let st := if back.2.isSome && st != stAborted then stSeal else st
      (t.post.foldl (State.runPost (decide (st == stAborted) || st == stSeal)) back.1, st)
    | _ => (s, stAborted)
  | none => (s, stAborted)

/-- The commit may run: the engine is idle, no UPDATE of the record runs, and no checkpoint mark stands. -/
def State.mayCommit (s : State) (r : Replay) : Bool :=
  let sa := recAddr r.recBytes 0
  (s.upd? (2 * r.majority.1)).isNone && s.num (sa + 12) 4 == 0 && !s.tasks.any fun t => t.isHanded && t.type == 0x50 && t.addr 40 == sa

/-- The minority differs in DP only. -/
def Replay.dpOnly (r : Replay) : Bool :=
  let i := if r.outcome == 2 then 1 else 0
  let j := if r.outcome == 2 then 0 else 1
  r.minority != 0xFF && nth r.digests (2 * i) [] == nth r.digests (2 * j) []

/-- The cores of a die that ran an item of a run of the replay (R390). -/
def State.ranCores (s : State) (rec_ : List Byte) (x q : Nat) : List Nat :=
  ((List.range (gradCount rec_)).flatMap fun i =>
    let t := gradTask rec_ i q 0 0
    let m := matOp t (s.bytes (t.addr 32) 128)
    aget s.ran ({ m with c := m.c.move (s.runG rec_ 0) (s.runG rec_ x) }.plane q) []).eraseDups

/-- The cores of the minority die whose field tests follow, those that ran an item of the failing run, unless only DP differed (R390). -/
def State.owedTests (s : State) (r : Replay) : List CoreName :=
  if !([2, 3, 5].contains r.outcome) || r.dpOnly then []
  else
    let cs := s.ranCores r.recBytes (if r.outcome == 2 then 1 else 0) r.minority
    ((List.finRange 16).filter fun (c : Fin 16) => cs.contains c.val).map fun c => ⟨Fin.ofNat 4 r.minority, false, c⟩

/-- A field test that follows a replay runs. -/
def State.owedRuns (s : State) : Bool := match s.field with | some f => f.origin == .afterReplay | none => false

/-- The next field test that follows a replay, one at a time: requested, and a refused request repeated after 1,024 ticks. -/
def State.nextOwed (s : State) : State :=
  match s.replay with
  | some r => match r.owed with
    | c :: rest =>
      if s.owedRuns then s
      else
        let q := s.askTest c .afterReplay
        if q.2 then q.1.setReplay { r with owed := rest } else q.1.setReplay { r with retryAt := s.now + 1024 }
    | [] => s
  | none => s

/-- A replay records its result, logs event 0x0A04, sets its cause and releases its grant (R390). -/
def State.endReplay (s : State) (r : Replay) : State :=
  let h := s.replayHead r.recBytes
  let s := s.putReplay r (hdHoldStep h) (fieldAt h 0 2)
  let s := (s.log pgMaint 0x0A04 [r.outcome, r.minority, b2n r.dpOnly, fieldAt h 0 2]).cause pgMaint 0
  let s := if r.outcome == 4 || r.outcome == 5 then s.inc pgMaint R.MAINT.DISAGREE_COUNT else s
  let s := (s.release mReplay 0).replayStatus 0 r.outcome r.status
  (s.setReplay { r with state := 0, owed := r.owed ++ s.owedTests r }).nextOwed

/-- REPLAY_END (R390). -/
def execReplayEnd (s : State) : Host.Outcome State Fault Refusal :=
  .next (match s.replay with
    | some r =>
      if r.state == 4 then s.endReplay r
      else if r.state == 3 && s.mayCommit r then
        s.whenFree (s.replayRanges r.recBytes) fun s =>
          let c := s.replayCommit r
          let r := { r with status := c.2, outcome := if c.2 == stNonfinite then 7 else if c.2 == stSeal then 6 else r.outcome }
          c.1.endReplay r
      else s
    | none => s)

/-- MINORITY_FIELD_TEST_RETRY (R390). -/
def execMinorityFieldTestRetry (s : State) : Host.Outcome State Fault Refusal :=
  .next (match s.replay with
    | some r => if r.retryAt ≤ s.now then s.nextOwed else s
    | none => s)

/-- A field test is over: one that followed a replay is followed by the next. -/
def State.afterTest (s : State) (f : FieldTest) : State := if f.origin == .afterReplay then s.nextOwed else s

/-- FIELD_TEST_DONE (R396). -/
def execFieldTestDone (pass : Bool) (s : State) : Host.Outcome State Fault Refusal :=
  match s.field with
  | some f => if f.state ≤ 1 then .next s else s.onDie (pllGrad f.core.quad) fun s => (s.testDone f pass).afterTest f
  | none => .next s

/-- FIELD_TEST_SKIP (R395). -/
def execFieldTestSkip (s : State) : Host.Outcome State Fault Refusal :=
  .next (match s.waitingTest false with
    | some f => ((s.skipTest f.core 2).returnCore f 5).afterTest f
    | none => s)

end Sys2Proof.Machine
end

