-- ==== Sys2Proof/Machine/Reset.lean ====
section
/-! DEFINITION. Block resets (R16, R41): what stops, and what a block's page holds after it. A block reset gives the registers of the
block their Reset values (R41, Table 19-5), the common header's among them, but for what flash restores, `RETIRED` (R41), `EN`, without
which the block would not come back to READY (R16), and registers that show what the reset of this block does not touch (DESIGN CHOICE,
log 32). -/

namespace Sys2Proof.Machine

/-! Registers. -/

/-- Registers of a page from 0x100 on take their Reset values, but for those that flash restores and those named by `keep`. -/
def State.resetRegs (s : State) (page : Nat) (keep : Nat → Bool) : State :=
  { s with regs := s.regs.filter fun p =>
      !(decide (page + 0x100 ≤ p.1) && decide (p.1 < page + 0x1000)) || flashReg p.1 || keep (p.1 % 0x1000) }

/-- The common header takes its Reset values: causes, enables, vector, errors and `QUIESCE`. -/
def State.resetHeader (s : State) (page : Nat) : State :=
  ({ s with regs := s.regs.filter fun p => !(decide (page + oINT_STATUS ≤ p.1) && decide (p.1 < page + 0x100)) }).setHdrBit page oPAGE_CTL 1
    false

/-- A register that shows the state of what a reset of its page does not touch: the device's state and identity, measurements, clocks,
flash, the calibration store, the link, the open window, the owners of channels and grants. -/
def Cls.mirror (c : Cls) (o : Nat) : Bool :=
  match c with
  | .device => o == R.DEVICE.DEV_STATE_STATE.off || o == R.DEVICE.FW_VERSION.off
  | .power => o == R.POWER.INPUT_MV.off || o == R.POWER.INPUT_CUR.off || o == R.POWER.INPUT_W_AVG.off || o == R.POWER.CAP_STATUS_LIMITING.off ||
      o == R.POWER.STOP_STATUS_DONE.off || o == R.POWER.RESET_CAUSE_CAUSE.off
  | .clock => o == R.CLOCK.PLL_LOCK_REFCLK.off || o == R.CLOCK.REFCLK_PPM.off
  | .security => o == R.SECURITY.SEC_STATUS_STATE.off || o == R.SECURITY.CERT_LEN.off
  | .firmware => o == R.FIRMWARE.TRIAL_LEFT.off || o == R.FIRMWARE.SET_FMT_RUNNING.off
  | .record => o == R.RECORD.REC_QUEUE_WAITING.off || o == R.RECORD.TORN.off || o == R.RECORD.LAST_STOP_CLEAN.off
  | .calib => (c.fieldsAt o).all fun f => f.acc == .ro
  | .host => o == R.HOST.LINK_STATUS_UP.off || o == R.HOST.HDM_BASE_LO.off || o == R.HOST.HDM_BASE_HI.off || o == R.HOST.CACHE_INFLIGHT_COUNT.off
  | .graphSched => R.GRAPH_SCHED.STEP_STATE_WINDOW.off ≤ o && o ≤ R.GRAPH_SCHED.STEP_HI.off
  | .memDie => o == R.MEM_DIE.CHAN_BUSY.off || o == R.MEM_DIE.CHAN_OWNER.off
  | _ => false

/-! Tasks that stop (R16). -/

/-- An ARRAY_LOAD stops: the panels under load are left as R487 gives, and the count record holds the load so far (R134). -/
def State.stopLoad (s : State) (t : Task) : State :=
  let ls := s.loads.filter fun l => l.kind == .task t.seq
  let s := ls.foldl (fun u l => (u.invalidate l.page).dropLoad l.page) s
  match s.loadRun? t.seq with
  | some r =>
    let r := { r with rows := r.rows + (ls.map (·.rows)).sum, pairs := r.pairs + (ls.map (·.pairs)).sum }
    ({ s with loadRuns := s.loadRuns.filter fun x => x.task != t.seq }).endTask t stAborted 0 0 0 (loadPost t r (s.now - t.startAt))
  | none => s

/-- An array read stops: nothing more is written. -/
def State.stopArray (s : State) (t : Task) : State :=
  match s.arrayRun? t.seq with
  | some r => ({ s with partials := s.partials.filter fun p => p.task != t.seq }).endArray t { r with todo := [], ending := some (stAborted, 0, 0) }
  | none => s

/-- A GRAD_MM stops (R41, Table 7-8). -/
def State.stopGrad (s : State) (t : Task) : State :=
  match s.gradRuns.find? fun p => p.2.task == t.seq with
  | some (q, r) => s.haltGrad q t (matOp t r.opnd) r 0
  | none => s

/-- A vector task stops: row groups already completed remain (Table 8-15). -/
def State.stopVec (s : State) (t : Task) : State :=
  match s.vecRuns.find? fun p => p.2.task == t.seq with
  | some (q, r) => s.haltVec q t (vecOp t r.opnd) r 0
  | none => s

/-- An UPDATE stops (R16, R240). -/
def State.stopUpd (s : State) (t : Task) : State :=
  match s.upds.find? fun p => p.2.task == t.seq with
  | some p => s.abortUpd p.1
  | none => s

/-- A SEAM_PUT or SEAM_GET stops (R365). -/
def State.stopTxn (s : State) (t : Task) : State :=
  match s.txn? t.seq with
  | some x => s.endTxn x stAborted 0
  | none => s

/-- A SNAPSHOT or RESTORE stops (R412, R417). -/
def State.stopSnap (s : State) (t : Task) : State :=
  match s.snap? t.seq with
  | some x => if x.restore then s.failRestore t x stAborted noEntry else s.failSnap t x stAborted noEntry
  | none => s

/-- A task of the gather unit stops (R324): it ends ABORTED with its count record so far, and adds to no button. A task that has run and not
completed counts as running still (DESIGN CHOICE, log 94). -/
def State.stopGather (s : State) (n : Nat) : State :=
  { s with tasks := s.tasks.map fun t =>
    if t.pages.contains (pgGather n) && t.isHanded then
      { t with phase := .finished stAborted 0 0 0, post := t.post.filter fun p => match p with | .button _ _ => false | _ => true }
    else t }

/-- A running task stops at once, and completes ABORTED. -/
def State.stopTask (s : State) (t : Task) : State :=
  if !t.isRunning then s
  else match t.type with
    | 0x10 => s.stopLoad t
    | 0x11 | 0x12 => s.stopArray t
    | 0x20 => s.stopGrad t
    | 0x30 | 0x31 => s.stopVec t
    | 0x50 => s.stopUpd t
    | 0x51 => s.endDigest t stAborted 0 []
    | 0x60 => s.stopColl t
    | 0x61 | 0x62 => s.stopTxn t
    | 0x70 | 0x71 => s.stopSnap t
    | _ => s

/-- The running tasks that pass a test stop. -/
def State.stopTasks (s : State) (sel : Task → Bool) : State := (s.tasks.filter sel).foldl State.stopTask s

/-! Blocks. -/

/-- A PANEL page (R138, R487): its task stops, a refresh or a fill of it ends, and its content becomes invalid. -/
def State.resetPanel (s : State) (page : Nat) : State :=
  let n := panelDie page
  let stops (t : Task) : Bool := t.isRunning && t.pages.contains page
  let s := if s.tasks.any stops then (s.stopTasks stops).cause page 0 else s
  let fills := s.loads.any fun l => l.page == page && l.kind == .fill
  let s := s.dropLoad page
  let s := if s.content page == 4 || s.content page == 5 then s else s.invalidate page
  let keep (o : Nat) : Bool := o == R.PANEL.CONTENT_STATE.off || o == R.PANEL.TEMP_USED_HOLD.off || o == R.PANEL.TABLE_STATE_PENDING.off
  let s := s.resetRegs page keep
  (if fills then s.fillEnds n (s.castle n) else s).dueRetirement page

/-- An ARRAY_DIE page (R138, R140): wear entries are committed, then the die and its panels are cleared. -/
def State.resetArrayDie (s : State) (n : Nat) : State :=
  let s := (List.range 68).foldl (fun u p => u.wearEntry (pgPanel n p)) s
  let mine (p : Nat) : Bool := match pageAt p with | some r => r.cls == .panel && panelDie p == n | none => false
  let s := s.stopTasks fun t => t.isRunning && t.pages.any mine
  let s := { s with loads := s.loads.filter fun l => panelDie l.page != n, castles := aerase s.castles n }
  let s := (s.release mFill n).resetRegs (pgArrayDie n) fun _ => false
  let s := (List.range 68).foldl (fun u p => (u.resetHeader (pgPanel n p)).resetRegs (pgPanel n p) fun _ => false) s
  let s := s.panelsAfter n
  let c := s.dieCal n
  if c.loaded then ({ s with dieCals := aput s.dieCals n { c with ready := false, refused := false } }).setDies n 0 else s

/-- A field test on a core ends, its grant released, without a result. -/
def State.dropTest (s : State) (page : Nat) : State :=
  match s.field with
  | some f => if corePage f.core == page then s.returnCore f (s.rf pgMaint R.MAINT.FT_STATUS_LAST) else s
  | none => s

/-- A gradient core (Table 7-8). -/
def State.resetGradCore (s : State) (q c : Nat) : State :=
  let page := pgGradCore q c
  let hit := (s.gradOf q).filter fun r => (aget? r.assigned c).isSome
  let s := s.stopTasks fun t => hit.any fun r => r.task == t.seq
  ((s.dropTest page).resetRegs page fun _ => false).pumpGrad q

/-- A vector core (Table 8-15): its pattern store and registers are cleared. -/
def State.resetVecCore (s : State) (q c : Nat) : State :=
  let page := pgVecCore q c
  let hit := (s.vecOf q).filter fun r => (aget? r.assigned c).isSome
  let s := s.stopTasks fun t => hit.any fun r => r.task == t.seq
  let s := { s with vecRegs := aerase s.vecRegs (16 * q + c) }
  ((s.dropTest page).resetRegs page fun _ => false).pumpVec q

/-- The GRAD_DIE page (R192): every gradient core of the die, and the page's own registers. -/
def State.resetGradDie (s : State) (q : Nat) : State :=
  let s := (List.range 16).foldl (fun u c => (u.setHdrBit (pgGradCore q c) oPAGE_CTL 31 true).resetHeader (pgGradCore q c)) s
  let s := (List.range 16).foldl (fun u c => u.resetGradCore q c) s
  s.resetRegs (pgGradDie q) fun _ => false

/-- The NUMWATCH page: estimator, watch table, windows and totals of the die's layers. -/
def State.resetWatch (s : State) (q : Nat) : State :=
  let s := s.resetRegs (pgWatch q) fun _ => false
  { s with
    layers := s.layers.filter fun p => p.1 % 4 != q
    wtable := s.wtable.filter fun p => p.1 % 4 != q
    slots := s.slots.filter fun p => p.1 / 8 % 4 != q }

/-- The COLLECTIVE page: every task of the fabric stops, and no table is in force. -/
def State.resetColl (s : State) : State :=
  let s := (s.stopTasks fun t => typeClass t.type == .fabric).settleLedgers
  let s := s.resetRegs pgColl fun _ => false
  { s with ctable := [], insts := [], ledgers := [], collPast := [], held := [] }

/-- The MAINT page: a replay and a field test end, their grants released (R399). -/
def State.resetMaint (s : State) : State :=
  let s := s.whenSome s.field fun s f => s.returnCore f 0
  let s := (({ s with replay := none }).release mReplay 0)
  (s.resetRegs pgMaint fun _ => false).showGrants

/-- The TEMPO page: the count, the event table and the correction in progress. -/
def State.resetTempo (s : State) : State :=
  { s.resetRegs pgTempo (fun _ => false) with tempo := State.reset.tempo, events := [] }

/-- The FIRMWARE page: a staging ends, its slot left invalid. -/
def State.resetFirmware (s : State) : State :=
  let s := if s.fw.staging.isSome then ((({ s with fw := { s.fw with staging := none } }).showSlot s.fw.stageTo 3).fwEnds stAborted 0).release mStage 0 else s
  s.resetRegs pgFirmware Cls.firmware.mirror

/-- What a block reset does to the block of a page. -/
def State.resetBlock (s : State) (p : PageRef) (page : Nat) : State :=
  match p.cls with
  | .panel => s.resetPanel page
  | .arrayDie => s.resetArrayDie (2 * p.quad + p.die)
  | .gradDie => s.resetGradDie p.quad
  | .gradCore => s.resetGradCore p.quad p.inst
  | .vecCore => s.resetVecCore p.quad p.inst
  | .update => (s.abortUpd (2 * p.quad + p.inst)).resetRegs page fun _ => false
  | .numwatch => s.resetWatch p.quad
  | .memDie => (s.stopTasks fun t => typeClass t.type == .checkpoint && t.ckptPage == page).resetRegs page Cls.memDie.mirror
  | .stackCtl | .tierbCtl => ({ s with traffic := aerase s.traffic page }).resetRegs page fun _ => false
  | .gather => (s.stopGather (2 * p.quad + (p.die - 3))).resetRegs page fun _ => false
  | .dma => (s.resetRegs page fun _ => false).resetDma (2 * p.quad + (p.die - 3)) p.inst
  | .seal => (s.resetRegs page fun o => o != R.SEAL.OP_STATUS_LAST.off).resetSeal (2 * p.quad + (p.die - 3))
  | .seamPort => (s.linkDown p.inst).resetRegs page fun _ => false
  | .collective => s.resetColl
  | .seamMgmt => { s.resetRegs page (fun _ => false) with routes := [] }
  | .maint => s.resetMaint
  | .tempo => s.resetTempo
  | .monitor => (s.resetRegs page fun o => o == R.MONITOR.PAIR_STATUS_TRUSTED.off).resetMon p.inst
  | .graphQueue => (s.disableQueue p.inst).resetRegs page fun _ => false
  | .graphSched => s.resetRegs page Cls.graphSched.mirror
  | .security => ({ s with sec := { s.sec with forming := false, report := State.reset.sec.report, nonce := State.reset.sec.nonce } }).resetRegs page Cls.security.mirror
  | .firmware => s.resetFirmware
  | .record => ({ s with record := { s.record with dumping := none } }).resetRegs page Cls.record.mirror
  | .introute => s.resetRegs page fun _ => false
  | .device | .power | .clock | .calib | .host => s.resetRegs page p.cls.mirror
  | .buttons => s

/-- `PAGE_CTL.BLOCK_RESET` is written 1 (R41): it reads 1 until the block is ready again. -/
def State.blockReset (s : State) (page : Nat) : State :=
  match pageAt page with
  | some p => (((s.setHdrBit page oPAGE_CTL 31 true).resetHeader page).resetBlock p page).settle
  | none => s

/-- Cores and panels of a page that may take work again are offered it. -/
def State.offerWork (s : State) (p : PageRef) : State :=
  match p.cls with
  | .gradCore | .gradDie => s.pumpGrad p.quad
  | .vecCore => s.pumpVec p.quad
  | .panel | .arrayDie => s.pumpArrays
  | .dma => s.pumpDma (2 * p.quad + (p.die - 3))
  | _ => s

/-- The block is ready again: `BLOCK_RESET` reads 0, at the cores of a gradient die too. -/
def State.blockReady (s : State) (page : Nat) : State :=
  match pageAt page with
  | some p =>
    let s := s.setHdrBit page oPAGE_CTL 31 false
    let s := if p.cls == .gradDie then (List.range 16).foldl (fun u c => u.setHdrBit (pgGradCore p.quad c) oPAGE_CTL 31 false) s else s
    s.offerWork p
  | none => s

end Sys2Proof.Machine
end

