-- ==== Sys2Proof/Machine/Bus.lean ====
section
/-! DEFINITION. The register space (R33 to R49): what a write of any register does, what a read returns, and the commands of the common
header. A register with command bits acts as the commands that its chapter gives it (R45). -/

namespace Sys2Proof.Machine

/-! Results of commands inside a register write. -/

/-- The state that a command leaves, where it leaves one. -/
def stateAfter (s : State) (o : Host.Outcome State Fault Refusal) : State :=
  match o with
  | .next t => t
  | _ => s

/-- Index types from numbers. -/
def die8 (n : Nat) : Die8 := ⟨n % 8, Nat.mod_lt _ (by decide)⟩

/-! Pages with a header. -/

/-- The page at an offset, when it has the common header (R40, R42). -/
def headerPage (page : Nat) : Option PageRef :=
  if page % 0x1000 != 0 then none
  else match pageAt page with
    | some p => if p.cls == .buttons then none else some p
    | none => none

/-- The memory-side die `2q + d` of a page. -/
def PageRef.memDie (p : PageRef) : Nat := 2 * p.quad + (p.die - 3)

/-! Header commands (R14, R15, R41, R51). -/

/-- Causes set at once in `INT_STATUS`: the vector is raised once when a bit becomes 1 in `INT_STATUS` and `INT_ENABLE` (R51). -/
def State.setCauses (s : State) (page mask : Nat) : State :=
  let old := s.hdr page oINT_STATUS
  let new := mask - (mask &&& old)
  let t := s.setReg (page + oINT_STATUS) (BitVec.ofNat 32 (old ||| new))
  if new &&& s.hdr page oINT_ENABLE == 0 then t else t.raiseVector page

/-- `INT_STATUS` written with 1s to clear, in the clock in which causes are set (R52). -/
def State.clearCauses (s : State) (page mask : Nat) : State :=
  let old := s.hdr page oINT_STATUS
  s.setReg (page + oINT_STATUS) (BitVec.ofNat 32 (old - (old &&& mask)))

/-- `INT_ENABLE` written: a bit enabled while its status is 1 raises the vector (R51). -/
def State.writeEnable (s : State) (causes page v : Nat) : State :=
  let old := s.hdr page oINT_ENABLE
  let new := v &&& causes
  let t := s.setReg (page + oINT_ENABLE) (BitVec.ofNat 32 new)
  if (new - (new &&& old)) &&& s.hdr page oINT_STATUS == 0 then t else t.raiseVector page

/-- `PAGE_CTL.QUIESCE` (R15). -/
def State.quiesce (s : State) (p : PageRef) (page : Nat) (on : Bool) : State :=
  let s := s.setHdrBit page oPAGE_CTL 1 on
  if on then s else (s.offerWork p).settle

/-- `PAGE_CTL.EN` (R41). -/
def State.pageEnable (s : State) (p : PageRef) (page : Nat) (on : Bool) : State :=
  let s := s.setHdrBit page oPAGE_CTL 0 on
  if on then (s.offerWork p).settle else s

/-- `INT_VECTOR` (R41, R50): an RWP field. -/
def State.writeVector (s : State) (view : View) (page v : Nat) : State :=
  if view == .bar0 then s.setReg (page + oINT_VECTOR) (BitVec.ofNat 32 (v % 2048)) else s

/-- A register of the common header is written. -/
def State.writeHeader (s : State) (view : View) (p : PageRef) (page o : Nat) (w : Word) : State :=
  if o == oPAGE_CTL then
    let s := s.quiesce p page (bit w.toNat 1)
    let s := s.pageEnable p page (bit w.toNat 0)
    if bit w.toNat 31 then s.blockReset page else s
  else if o == oINT_STATUS then s.clearCauses page (w.toNat &&& p.cls.causes)
  else if o == oINT_ENABLE then s.writeEnable p.cls.causes page w.toNat
  else if o == oINT_SET then s.setCauses page (w.toNat &&& p.cls.causes)
  else if o == oINT_VECTOR then s.writeVector view page w.toNat
  else s

/-! DEVICE (R34, R35, R47, R48). -/

/-- The classes of Table 2-6. -/
def classes : List Cls :=
  [.device, .power, .clock, .tempo, .maint, .introute, .security, .firmware, .record, .monitor, .calib, .graphSched, .graphQueue,
   .buttons, .arrayDie, .panel, .gradDie, .gradCore, .vecCore, .update, .numwatch, .memDie, .stackCtl, .tierbCtl, .dma, .gather, .seal,
   .seamPort, .collective, .seamMgmt, .host]

/-- The bits of `GRANT_CLASSn` that may be set: all but those of the classes that R34 and R35 name. -/
def grantMask (n : Nat) : Nat :=
  2 ^ 32 - 1 - ((classes.filter fun c => !grantableClass c && c.code / 32 == n).map fun c => 2 ^ (c.code % 32)).sum

/-- A grant register is written in BAR0 (R34 to R36): `GRANT_CLASS0` to `3`, `GRANT_QUEUE_LO`, `GRANT_QUEUE_HI`, `GRANT_BUTTONS`. -/
def State.writeGrant (s : State) (reg v : Nat) : State :=
  s.setReg (pgDevice + R.DEVICE.GRANT_CLASS.off + 4 * reg) (BitVec.ofNat 32 (if reg < 4 then v &&& grantMask reg else v))

/-- The level in force after a write of a level (R47): at least 1.0, at most `DEV_LEVEL`. -/
def levelOf (v : Nat) : Nat := if v < 0x100 then 0x100 else if 0x101 < v then 0x101 else v

/-- `HOST_LEVEL` written in BAR0 (R47, R48). A write that R48 ignores is no refused command of R486: `ERR_COUNT` does not count it (DESIGN
CHOICE, log 152). -/
def State.writeLevel (s : State) (v : Nat) : State :=
  let off := pgDevice + R.DEVICE.HOST_LEVEL_MAJOR.off
  if (List.range 64).any s.queueOn then (s.log pgDevice 0x0D02 [v]).cause pgDevice 1
  else
    let t := s.setReg off (BitVec.ofNat 32 (levelOf v))
    if v < 0x100 then t.noteClamp .bar0 off else t

/-- A bad access (R37): counted, event 0x0D01, the cause `BAD_ACCESS`. A read returns zero. -/
def State.badAccess (s : State) (view : View) (off size : Nat) (isWrite : Bool) : State :=
  let s := (s.inc pgDevice R.DEVICE.BAD_ACCESS_COUNT).log pgDevice 0x0D01 [off, b2n (view == .bar2), size]
  { s.cause pgDevice 2 with reply := if isWrite then .none else .word 0 }

/-! Registers that are commands (each "acts as" the commands of its bits). -/

/-- `Q_CTL` (R268, R291, R299). With `RETAIN` 0, `CONSUMED` is not held at the segment. -/
def State.writeQctl (s : State) (view : View) (q : Nat) (w : Word) : State :=
  let p := pgQueue q
  let s := s.wf p R.GRAPH_QUEUE.Q_CTL_PAUSE (b2n (bit w.toNat 2))
  if view == .bar2 then s.settle
  else
    let s := (s.wf p R.GRAPH_QUEUE.Q_CTL_RETAIN (b2n (bit w.toNat 1))).consume q
    (if bit w.toNat 0 then s.enableQueue q else s.disableQueue q).settle

/-- A register of a GRAPH_QUEUE page; ring and record area only while the queue is disabled (R299). -/
def State.writeQueueReg (s : State) (view : View) (q off : Nat) (w : Word) : State :=
  let o := off % 0x1000
  if o == R.GRAPH_QUEUE.Q_CTL_EN.off then s.writeQctl view q w
  else if o == R.GRAPH_QUEUE.TAIL.off then s.writeTail view q w
  else if o == R.GRAPH_QUEUE.WAIT_MAX.off then s.plainWrite view off w
  else if s.queueOn q then s else s.plainWrite view off w

/-- `RETIRE_CTL` (R142, R145): `OP` 3 acts as 0. -/
def State.writeRetire (s : State) (view : View) (n off : Nat) (w : Word) : State :=
  let d := die8 n
  let p : BitVec 7 := BitVec.ofNat 7 w.toNat
  match getBits w 31 30 with
  | 1 => stateAfter s (execRetireCtlRetire view d p s)
  | 2 => stateAfter s (execRetireCtlReinstate view d p s)
  | _ => s.plainWrite view off (w &&& 0x3FFFFFFF)

/-- A register of a NUMWATCH page (R262, R264, R265). -/
def State.writeWatchReg (s : State) (view : View) (q off : Nat) (w : Word) : State :=
  let o := off % 0x1000
  let qq : Quad := ⟨q % 4, Nat.mod_lt _ (by decide)⟩
  if o == R.NUMWATCH.WT_CTL_LOAD.off then (if bit w.toNat 0 then stateAfter s (execWtLoad view qq s) else s)
  else if o == R.NUMWATCH.EST_CTL_OP.off then
    match getBits w 31 30 with
    | 1 => stateAfter s (execEstSave view qq s)
    | 2 => stateAfter s (execEstLoad view qq s)
    | 3 => stateAfter s (execEstClear view qq s)
    | _ => s
  else if o == R.NUMWATCH.COUNT_CLEAR_CLEAR.off then
    (if bit w.toNat 0 then (s.clearCounts .numwatch (pgWatch q)).clearTotals q else s)
  else s.plainWrite view off w

/-- A register of a DMA page (R309, R312, R315): `off` lies in the block of one of its eight channels, or is reserved. -/
def State.writeDmaReg (s : State) (view : View) (n k off : Nat) (w : Word) : State :=
  let o := off % 0x1000
  let c := 8 * k + (o - 0x200) / 0x100 % 8
  let r := o % 0x100
  if o < 0x200 || 0xA00 ≤ o then s
  else if r < 0x20 then (if view == .bar0 then s.writeShadow view n c (r / 4) w else s)
  else if r == 0x20 then s.writeChCtl view n c w
  else s

/-- A register of a SEAL page (R385, R401). -/
def State.writeSealReg (s : State) (view : View) (n off : Nat) (w : Word) : State :=
  let o := off % 0x1000
  if o == R.SEAL.OP_CMD_OP.off then
    (if view == .bar0 && getBits w 31 30 != 0 then s.startSeal n (getBits w 31 30) else s)
  else if o == R.SEAL.ENTRY_DATA.off then (if view == .bar0 then s.writeEntry n w else s)
  else s.plainWrite view off w

/-- A register of a SEAM_PORT page (R349). -/
def State.writePortReg (s : State) (view : View) (n off : Nat) (w : Word) : State :=
  let s := s.plainWrite view off w
  if off % 0x1000 == R.SEAM_PORT.PORT_CTL_RETRAIN.off && bit w.toNat 3 then
    stateAfter s (execPortCtlRetrain view ⟨n % 16, Nat.mod_lt _ (by decide)⟩ s)
  else s

/-- The routing entry that `ROUTE_SEL` names. -/
def State.routeSel (s : State) : Nat := s.rf pgSeam R.SEAM_MGMT.ROUTE_SEL_STORE * 4096 + s.rf pgSeam R.SEAM_MGMT.ROUTE_SEL_ID

/-- A register of the SEAM_MGMT page (R353, R361). -/
def State.writeSeamReg (s : State) (view : View) (off : Nat) (w : Word) : State :=
  let o := off % 0x1000
  if o == R.SEAM_MGMT.ROUTE_DATA_PRIMARY.off then
    (if view == .bar0 then { s with routes := acanon s.routes s.routeSel (BitVec.ofNat 32 (w.toNat % 1024)) 0 } else s)
  else if o == R.SEAM_MGMT.SCHED_CMD_SEND.off then (if bit w.toNat 0 then stateAfter s (execSchedCmdSend view s) else s)
  else s.plainWrite view off w

/-- The core that a word of `FT_CMD` names (Table 15-10). -/
def coreOfWord (w : Word) : CoreName :=
  ⟨⟨getBits w 7 6 % 4, Nat.mod_lt _ (by decide)⟩, bit w.toNat 5, ⟨getBits w 3 0 % 16, Nat.mod_lt _ (by decide)⟩⟩

/-- A register of the MAINT page (R387, R395, R397). -/
def State.writeMaintReg (s : State) (view : View) (off : Nat) (w : Word) : State :=
  let o := off % 0x1000
  if o == R.MAINT.REPLAY_CMD_START.off then (if bit w.toNat 0 then stateAfter s (execReplayStart view s) else s)
  else if o == R.MAINT.FT_CMD_OP.off then
    match getBits w 31 30 with
    | 1 => s.ftCmd view (coreOfWord w) .command
    | 2 => s.ftCmd view (coreOfWord w) .reinstate
    | _ => s.plainWrite view off (w &&& 0x3FFFFFFF)
  else s.plainWrite view off w

/-- A register of the TEMPO page (R332, R342). -/
def State.writeTempoReg (s : State) (view : View) (off : Nat) (w : Word) : State :=
  let o := off % 0x1000
  if o == R.TEMPO.TEMPO_CTL_SRC.off then s.writeTempoCtl view w
  else if o == R.TEMPO.EVT_CMD_OP.off then
    match w.toNat % 4 with
    | 1 => stateAfter s (execEvtArm view s)
    | 2 => stateAfter s (execEvtDisarm view s)
    | 3 => stateAfter s (execEvtRead view s)
    | _ => s
  else s.plainWrite view off w

/-- A register of a MONITOR page (R431 to R433, R438). -/
def State.writeMonReg (s : State) (view : View) (mc off : Nat) (w : Word) : State :=
  let o := off % 0x1000
  let m : McNo := ⟨mc % 4, Nat.mod_lt _ (by decide)⟩
  if o == R.MONITOR.SEQ_CTL_MODE.off then
    let s := s.writeFlds view off w [R.MONITOR.SEQ_CTL_MODE]
    let s := if bit w.toNat 9 then stateAfter s (execSeqStop view m s) else s
    if bit w.toNat 8 then stateAfter s (execSeqStart view m s) else s
  else if o == R.MONITOR.URGENT_REQ.off then
    if bit w.toNat 31 then stateAfter s (execUrgent view m (BitVec.ofNat 5 w.toNat) (BitVec.ofNat 4 (w.toNat / 256)) s)
    else s.writeFlds view off w [R.MONITOR.URGENT_AVG, R.MONITOR.URGENT_CHANNEL]
  else if mc % 2 == 1 && (o == R.MONITOR.PAIR_CTL_WIN.off || o == R.MONITOR.PAIR_PERIOD.off) then s
  else s.plainWrite view off w

/-- A register of the FIRMWARE page (R443 to R447). -/
def State.writeFwReg (s : State) (view : View) (off : Nat) (w : Word) : State :=
  if off % 0x1000 == R.FIRMWARE.FW_CMD_OP.off then
    match w.toNat % 8 with
    | 1 => stateAfter s (execStage view s)
    | 2 => stateAfter s (execActivate view s)
    | 3 => stateAfter s (execConfirm view s)
    | 4 => stateAfter s (execCancel view s)
    | _ => s
  else s.plainWrite view off w

/-- A register of the RECORD page (R456): a committed `REC_SEL` shows its entry. -/
def State.writeRecReg (s : State) (view : View) (off : Nat) (w : Word) : State :=
  let o := off % 0x1000
  if o == R.RECORD.DUMP_CMD_START.off then (if bit w.toNat 0 then stateAfter s (execDumpStart view s) else s)
  else
    let t := s.plainWrite view off w
    if o == R.RECORD.REC_SEL_HI.off then t.showEntry (t.rf64 pgRecord R.RECORD.REC_SEL_LO R.RECORD.REC_SEL_HI) else t

/-- A register of the POWER page (R469, R473). -/
def State.writePowerReg (s : State) (view : View) (off : Nat) (w : Word) : State :=
  if off % 0x1000 == R.POWER.STOP_CTL_START.off then (if bit w.toNat 0 then stateAfter s (execStopCtlStart view s) else s)
  else s.plainWrite view off w

/-- `RESET_CTL` (R467, R470): module scope comes first when both bits are written. -/
def State.writeResetCtl (s : State) (view : View) (w : Word) : State :=
  if bit w.toNat 1 then stateAfter s (execResetCtlModule view s)
  else if bit w.toNat 0 then stateAfter s (execResetCtlEngines view s) else s

/-- A register of the DEVICE page. -/
def State.writeDeviceReg (s : State) (view : View) (off : Nat) (w : Word) : State :=
  let o := off % 0x1000
  if view == .bar2 then s
  else if o == R.DEVICE.HOST_LEVEL_MAJOR.off then s.writeLevel (w.toNat % 65536)
  else if R.DEVICE.GRANT_CLASS.off ≤ o && o ≤ R.DEVICE.GRANT_BUTTONS.off then s.writeGrant ((o - R.DEVICE.GRANT_CLASS.off) / 4) w.toNat
  else s

/-- `VEC_CTL` of an INTROUTE page (R54): `MOD_US`, an RWP field. -/
def State.writeRouteReg (s : State) (view : View) (off : Nat) (w : Word) : State :=
  let o := off % 0x1000
  if view == .bar0 && 0x100 ≤ o && o < 0x500 then s.setReg off (setBits (s.reg off) 15 0 w.toNat) else s

/-- A block's own register is written, at once (R39). -/
def State.writeBlock (s : State) (view : View) (p : PageRef) (page off : Nat) (w : Word) : State :=
  if p.cls.clearOff == some (off % 0x1000) && p.cls != .numwatch then
    (if bit w.toNat 0 then s.clearCounts p.cls page else s)
  else match p.cls with
    | .device => s.writeDeviceReg view off w
    | .power => s.writePowerReg view off w
    | .tempo => s.writeTempoReg view off w
    | .maint => s.writeMaintReg view off w
    | .introute => s.writeRouteReg view off w
    | .security =>
      if off % 0x1000 == R.SECURITY.ATT_CMD_START.off then (if bit w.toNat 0 then stateAfter s (execAttStart view s) else s)
      else s.plainWrite view off w
    | .firmware => s.writeFwReg view off w
    | .record => s.writeRecReg view off w
    | .monitor => s.writeMonReg view p.inst off w
    | .graphSched =>
      if off % 0x1000 == R.GRAPH_SCHED.SCHED_CTL_HOLD.off then (s.plainWrite view off w).settle else s.plainWrite view off w
    | .graphQueue => s.writeQueueReg view p.inst off w
    | .arrayDie =>
      if off % 0x1000 == R.ARRAY_DIE.RETIRE_CTL_OP.off then s.writeRetire view (2 * p.quad + p.die) off w else s.plainWrite view off w
    | .numwatch => s.writeWatchReg view p.quad off w
    | .memDie =>
      if off % 0x1000 == R.MEM_DIE.SW_REQ_LINE.off then s.pulse p.memDie (w.toNat % 256) else s.plainWrite view off w
    | .dma => s.writeDmaReg view p.memDie p.inst off w
    | .seal => s.writeSealReg view p.memDie off w
    | .seamPort => s.writePortReg view p.inst off w
    | .collective =>
      if off % 0x1000 == R.COLLECTIVE.COLL_CTL_LOAD.off then (if bit w.toNat 0 then stateAfter s (execCollLoad view s) else s)
      else s.plainWrite view off w
    | .seamMgmt => s.writeSeamReg view off w
    | .buttons => s.buttonWrite view ((off - offButton 0) / 8) (off % 8 == 4) w
    | .panel | .gradDie | .gradCore | .vecCore | .update | .gather => s.crossOrPost view off w
    | .clock | .calib | .stackCtl | .tierbCtl | .host => s.plainWrite view off w

/-- A register write in a view (R13, R33, R37, R39): to an offset that no page occupies it is a bad access; a page that is not granted
ignores it, and so does a stopped module but for `RESET_CTL` (R469). The crossing points post it while a task runs. A BAR2 write to one of
buttons 0 to 255 while BUTTONS page 0 is not granted is one that R33 ignores, and counts nothing in `BTN_ERR_COUNT` (DESIGN CHOICE, log
152). -/
def State.regWrite (s : State) (view : View) (off : Nat) (w : Word) : State :=
  if !s.alive then s
  else match pageAt off with
    | none => s.badAccess view off 4 true
    | some p =>
      let page := 0x1000 * (off / 0x1000)
      if off % 4 != 0 then s.badAccess view off 4 true
      else if off == pgPower + R.POWER.RESET_CTL_MODULE.off then s.writeResetCtl view w
      else if !s.granted view page || s.power.stopped then s
      else if p.cls != .buttons && off % 0x1000 < 0x100 then s.writeHeader view p page (off % 0x1000) w
      else if p.cls.crossing then s.crossOrPost view off w
      else s.writeBlock view p page off w

/-! Reads. -/

/-- Whether a task runs on the block of a page, or an operation of its own (R41). -/
def State.busy (s : State) (p : PageRef) (page : Nat) : Bool :=
  !s.betweenTasks page || s.tasks.any (fun t => t.isRunning && t.unit == page) || s.loadingPanel page ||
    (p.cls == .seal && (s.sealOp? p.memDie).isSome) ||
    (p.cls == .monitor && ((s.mon p.inst).running || (s.mon p.inst).urgentOn)) ||
    (p.cls == .dma && (List.range 8).any fun j => (s.chan p.memDie (8 * p.inst + j)).busy)

/-- `PAGE_STATUS` (R15, R41): off and not quiesced in `DEV_STATE` 0x0, whose fields are at their Reset values. -/
def State.pageStatus (s : State) (p : PageRef) (page : Nat) : Nat :=
  let c := s.hdr page oPAGE_CTL
  let busy := s.busy p page
  let gone := s.retired page
  let still := (!bit c 0 || bit c 1) && !busy
  let state := s.rf pgDevice R.DEVICE.DEV_STATE_STATE
  let st := if bit c 31 then 5 else if gone then 6 else if !bit c 0 && !busy then (if state == 1 then 1 else 0) else if busy then 3
    else if bit c 1 then 4 else 2
  st * 16 + b2n gone * 8 + b2n (still && state != 0) * 4 + b2n busy * 2 + b2n (s.accepts page && !gone && !s.notReady.contains page)

/-- `Q_STATUS` of a queue (R299). -/
def State.queueStatus (s : State) (q : Nat) : Nat :=
  let k := s.queueSt q
  let mine := s.tasks.filter fun t => t.queue == q
  let st := if !s.queueOn q && !(mine.any Task.isHanded) then 0
    else if s.rf (pgQueue q) R.GRAPH_QUEUE.Q_CTL_PAUSE == 1 then 6
    else if k.replayEnd.isSome then 5
    else if k.openWait then 8
    else if s.fenced q then 3
    else if mine.any (fun t => t.type == 0x02 && !t.alt) then 4
    else if idxGap (s.consumed q) (s.head q) == s.ringSize q then 7
    else if s.head q != s.tail q then 1 else 2
  st * 2 ^ 28 + Nat.min mine.length 1023

/-- A word of window A or B of a NUMWATCH page (R262, Table 10-9): `o` counts from the window's first register. -/
def State.watchWord (s : State) (q o : Nat) (role entry : Nat) : Nat :=
  let l := 4 * entry + q
  let y := s.layer l
  let c := nth y.totals role Counts.none
  let a := y.totals.foldl Counts.add Counts.none
  let cap (n : Nat) : Nat := Nat.min n (2 ^ 32 - 1)
  let long (n : Nat) : Nat := Nat.min n (2 ^ 64 - 1)
  match o with
  | 0x00 => long c.elems % 2 ^ 32
  | 0x04 => long c.elems / 2 ^ 32
  | 0x08 => cap c.zeros
  | 0x0C => cap c.sat
  | 0x10 => cap c.nonfin
  | 0x14 => cap c.satBlocks
  | 0x18 => cap c.vanished
  | 0x1C => share c.sat c.elems * 65536 + share c.zeros c.elems
  | 0x20 => share c.nonfin c.elems
  | 0x24 => (s.slot l role).toNat
  | 0x28 => long a.conv % 2 ^ 32
  | 0x2C => long a.conv / 2 ^ 32
  | 0x30 => cap a.clipConv
  | 0x34 => cap a.satConv
  | 0x38 => cap a.ovf
  | 0x3C => y.lRung.toNat
  | 0x40 => y.ratio
  | 0x44 => y.ratioMx
  | 0x48 => cap y.alarms
  | _ => 0

/-- A register of a NUMWATCH page as it reads. -/
def State.watchRead (s : State) (q off : Nat) : Nat :=
  let o := off % 0x1000
  let p := pgWatch q
  if 0x200 ≤ o && o < 0x280 then s.watchWord q (o - 0x200) (s.rf p R.NUMWATCH.WATCH_SEL_ROLE) (s.rf p R.NUMWATCH.WATCH_SEL_ENTRY)
  else if 0x280 ≤ o && o < 0x300 then s.watchWord q (o - 0x280) (s.rf p R.NUMWATCH.WATCH_SEL_P_ROLE) (s.rf p R.NUMWATCH.WATCH_SEL_P_ENTRY)
  else (s.reg off).toNat

/-- A register of the COLLECTIVE page as it reads (R375). -/
def State.collRead (s : State) (off : Nat) : Nat :=
  let o := off % 0x1000
  let e := s.rf pgColl R.COLLECTIVE.COLL_SEL_ENTRY
  let i := s.inst e
  if o == R.COLLECTIVE.SEL_STEP_LO.off then i.step % 2 ^ 32
  else if o == R.COLLECTIVE.SEL_STEP_HI.off then i.step / 2 ^ 32 % 2 ^ 32
  else if o == R.COLLECTIVE.SEL_STATE_STATE.off then s.instState e * 2 ^ 28 + Nat.min i.known 0x1FFF
  else (s.reg off).toNat

/-- A register of the SECURITY page as it reads (R449, R451). -/
def State.secRead (s : State) (off : Nat) : Nat :=
  let o := off % 0x1000
  if o == R.SECURITY.CERT_DATA.off then
    let a := s.rf pgSecurity R.SECURITY.CERT_SEL
    leNat ((List.range 4).map fun i => if a + i < s.rf pgSecurity R.SECURITY.CERT_LEN then Config.certByte (a + i) else 0)
  else if o == R.SECURITY.RPT_DATA.off then fieldAt s.sec.report (s.rf pgSecurity R.SECURITY.RPT_SEL) 4
  else (s.reg off).toNat

/-- `DIE_INFO.CORES_READY` (R192). -/
def State.coresReady (s : State) (q : Nat) : Nat :=
  ((List.range 16).filter fun c => bit (s.hdr (pgGradCore q c) oPAGE_CTL) 0 && !s.retired (pgGradCore q c)).length

/-- What a controller has moved, at a register of its page (Table 12-14). -/
def State.trafficAt (s : State) (page o : Nat) : Nat :=
  let t := aget s.traffic page (0, 0)
  let v := 2 ^ 64 - 1
  if o == R.CTL.RD_BYTES_LO.off then Nat.min t.1 v % 2 ^ 32
  else if o == R.CTL.RD_BYTES_HI.off then Nat.min t.1 v / 2 ^ 32
  else if o == R.CTL.WR_BYTES_LO.off then Nat.min t.2 v % 2 ^ 32
  else Nat.min t.2 v / 2 ^ 32

/-- The tags and the latency of a controller that has read something depend on the times of its reads: free values (log 34). No read
outlasts its command, so no tag is held between commands. -/
def State.freeRead (s : State) (c : Cls) (page o : Nat) : Bool :=
  (c == .stackCtl || c == .tierbCtl) &&
    ((o == R.CTL.TAGS_PEAK.off && (aget s.traffic page (0, 0)).1 != 0) || (o == R.CTL.LATENCY_NS.off && (aget? s.traffic page).isSome))

/-- What a free value shows in a register of a controller: the largest number of tags in use, from 1 to all of them, or a latency. -/
def freeShown (c : Cls) (o v : Nat) : Nat :=
  if o == R.CTL.TAGS_PEAK.off then (1 + v % (if c == .stackCtl then 2048 else 512)) * 2 ^ 16 else v % 2 ^ 16

/-- A block's own register as it reads, where what it shows is kept elsewhere in the state. -/
def State.liveRead (s : State) (p : PageRef) (off : Nat) : Nat :=
  let o := off % 0x1000
  match p.cls with
  | .tempo =>
    if o == R.TEMPO.COUNT_LO.off then s.now % 2 ^ 32
    else if o == R.TEMPO.COUNT_HI.off then s.now / 2 ^ 32
    else if o == R.TEMPO.EVT_STATUS_RESULT.off then (setBits (s.reg off) 8 8 (b2n (s.event s.evtSel).armed)).toNat
    else (s.reg off).toNat
  | .introute =>
    if 0x100 ≤ o && o < 0x500 then
      let v := p.inst * 256 + (o - 0x100) / 4
      let n := (headerPages.filter fun g => (s.reg (g + oINT_VECTOR)).toNat % 2048 == v).length
      (setBits (s.reg off) 23 16 (Nat.min n 255)).toNat
    else (s.reg off).toNat
  | .graphSched => if o == R.GRAPH_SCHED.IN_FLIGHT_COUNT.off then s.tasks.length else (s.reg off).toNat
  | .graphQueue => if o == R.GRAPH_QUEUE.Q_STATUS_STATE.off then s.queueStatus p.inst else (s.reg off).toNat
  | .gradDie => if o == R.GRAD_DIE.DIE_INFO_CORES_READY.off then s.coresReady p.quad else (s.reg off).toNat
  | .update =>
    if o == R.UPDATE.WAIT_TICKS.off then
      match s.upd? (2 * p.quad + p.inst) with
      | some u => if u.phase == .tagWait || u.phase == .ckptWait then Nat.min (s.now - u.waitFrom) (2 ^ 32 - 1) else 0
      | none => 0
    else (s.reg off).toNat
  | .numwatch => s.watchRead p.quad off
  | .collective => s.collRead off
  | .seamMgmt => if o == R.SEAM_MGMT.ROUTE_DATA_PRIMARY.off then (aget s.routes s.routeSel 0).toNat else (s.reg off).toNat
  | .seal =>
    if o == R.SEAL.ENTRY_DATA.off then (match s.selBlock p.memDie with | some k => (s.sealEntry k).toNat | none => 0) else (s.reg off).toNat
  | .calib => if R.CALIB.TBL_DATA_G.off ≤ o && o ≤ R.CALIB.SEL_RCONV_R0.off then s.tableWord o else (s.reg off).toNat
  | .security => s.secRead off
  | .monitor =>
    if p.inst % 2 == 1 && (o == R.MONITOR.PAIR_CTL_WIN.off || o == R.MONITOR.PAIR_PERIOD.off) then (s.reg (off - 0x1000)).toNat
    else (s.reg off).toNat
  | .stackCtl | .tierbCtl =>
    if R.CTL.RD_BYTES_LO.off ≤ o && o ≤ R.CTL.WR_BYTES_HI.off then s.trafficAt (off - o) o else (s.reg off).toNat
  | _ => (s.reg off).toNat

/-- The bits of a register that read as zero while the level in force is 1.0 (R49). -/
def hidden (c : Cls) (o : Nat) : Nat := (((c.fieldsAt o).filter (·.l11)).map fun f => 2 ^ (f.hi + 1) - 2 ^ f.lo).sum

/-- Whether a view may read a page (R33): BAR2 reads the DEVICE page without a grant. -/
def State.readable (s : State) (view : View) (p : PageRef) : Bool := view == .bar0 || p.cls == .device || s.grantedPage p

/-- Whether a view may read the register at an offset. -/
def State.readableAt (s : State) (view : View) (off : Nat) : Bool :=
  match pageAt off with
  | some p => s.readable view p
  | none => false

/-- The word that a read of a register returns, but for what is a free value. -/
def State.regWord (s : State) (view : View) (off : Nat) : Nat :=
  match pageAt off with
  | none => 0
  | some p =>
    let page := 0x1000 * (off / 0x1000)
    let o := off % 0x1000
    if !s.readable view p then 0
    else if p.cls == .buttons then (s.reg off).toNat
    else if o == oPAGE_STATUS then s.pageStatus p page
    else if o < 0x100 then (s.reg off).toNat
    else
      let v := s.liveRead p off
      if s.level11 then v else v - (v &&& hidden p.cls o)

/-- A register read, with the state that has drawn what the manual leaves free in it: the traffic of a controller, and `REFCLK_PPM`
while the tempo wire is locked. -/
def State.regRead (s : State) (view : View) (off : Nat) : Nat × State :=
  match pageAt off with
  | none => (0, s)
  | some p =>
    let wire := s.tempoSrc == 0 && s.tempo.locked
    if s.readable view p && s.freeRead p.cls (0x1000 * (off / 0x1000)) (off % 0x1000) then
      let d := s.draw off
      (freeShown p.cls (off % 0x1000) d.1.toNat, d.2)
    else if s.readable view p && p.cls == .clock && off % 0x1000 == R.CLOCK.REFCLK_PPM.off && wire then
      let d := s.draw off
      (d.1.toNat % 65536, d.2)
    else (s.regWord view off, s)

/-- Whether an offset holds the LO or the HI half of a 64-bit pair (R38). -/
def pairHalf (part : Part) (off : Nat) : Bool :=
  match pageAt off with
  | some p => p.cls != .buttons && (p.cls.fieldsAt (off % 0x1000)).any fun f => f.part == part
  | none => false

/-- A read in a view (R33, R37, R38): zero where the view is not granted the page; of a LO half, which latches the HI half into a
shadow; of a HI half after it, which returns the shadow; of any other register. -/
def State.busRead (s : State) (view : View) (off : Nat) : State :=
  if !s.alive then s
  else if off % 4 != 0 || !occupied off then s.badAccess view off 4 false
  else if !s.readableAt view off then { s with reply := .word 0 }
  else if pairHalf .hi off && (aget? s.pairRead off).isSome then
    { s with reply := .word (aget s.pairRead off 0), pairRead := aerase s.pairRead off }
  else
    let r := s.regRead view off
    let s := { r.2 with reply := .word (BitVec.ofNat 32 r.1) }
    if pairHalf .lo off then
      let h := s.regRead view (off + 4)
      { h.2 with pairRead := aput h.2.pairRead (off + 4) (BitVec.ofNat 32 h.1) }
    else s

/-! BAR4 (R32). -/

/-- A register write, or a write of BAR4 of a module that has not stopped. -/
def State.barWrite (s : State) (bar : Bar) (off : Nat) (w : Word) : State :=
  match bar with
  | .regs view => s.regWrite view off w
  | .bar4 => if s.alive && !s.power.stopped then s.writeBar4 off w else s

/-- A register read, or a read of BAR4. -/
def State.barRead (s : State) (bar : Bar) (off : Nat) : State :=
  match bar with
  | .regs view => s.busRead view off
  | .bar4 => if s.alive then { (s.readBar4 off).2 with reply := .word (BitVec.ofNat 32 (s.readBar4 off).1) } else s

/-! The commands. -/

/-- REGISTER_WRITE (R13), of a register view or of BAR4 (R32). -/
def execRegisterWrite (bar : Bar) (off : Nat) (v : Word) (s : State) : Host.Outcome State Fault Refusal := .next (s.barWrite bar off v)

/-- BAD_ACCESS (R37): an access of another size or alignment, or to an offset that no page occupies. -/
def execBadAccess (view : View) (off size : Nat) (isWrite : Bool) (s : State) : Host.Outcome State Fault Refusal :=
  .next (if !s.alive || (size == 4 && off % 4 == 0 && occupied off) then s else s.badAccess view off size isWrite)

/-- PAIR_LO_READ (R38), and a read of any other register (R33) or of BAR4 (R32). -/
def execPairLoRead (bar : Bar) (off : Nat) (s : State) : Host.Outcome State Fault Refusal := .next (s.barRead bar off)

/-- PAIR_HI_WRITE (R38): the write of a HI half commits both halves. -/
def execPairHiWrite (view : View) (off : Nat) (v : Word) (s : State) : Host.Outcome State Fault Refusal := .next (s.regWrite view off v)

/-- GRANT_WRITE (R36). -/
def execGrantWrite (view : View) (reg : Fin 7) (v : Word) (s : State) : Host.Outcome State Fault Refusal :=
  .next (s.onWrite view pgDevice true fun s => s.writeGrant reg v.toNat)

/-- HOST_LEVEL_WRITE (R47, R48). -/
def execHostLevelWrite (view : View) (v : Word) (s : State) : Host.Outcome State Fault Refusal :=
  .next (s.onWrite view pgDevice true fun s => s.writeLevel (v.toNat % 65536))

/-- A header command acts on a page with a header that the view may write. -/
def State.onHeader (s : State) (view : View) (page : Nat) (rwp : Bool) (k : State → PageRef → State) : State :=
  match headerPage page with
  | some p => s.onWrite view page rwp fun s => k s p
  | none => s

/-- QUIESCE (R15). -/
def execQuiesce (view : View) (page : Nat) (on : Bool) (s : State) : Host.Outcome State Fault Refusal :=
  .next (s.onHeader view page false fun s p => s.quiesce p page on)

/-- BLOCK_RESET (R16, R41). -/
def execBlockReset (view : View) (page : Nat) (s : State) : Host.Outcome State Fault Refusal :=
  .next (s.onHeader view page false fun s _ => s.blockReset page)

/-- BLOCK_RESET_DONE (R41). -/
def execBlockResetDone (page : Nat) (s : State) : Host.Outcome State Fault Refusal :=
  .next (match headerPage page with
    | some _ => if bit (s.hdr page oPAGE_CTL) 31 then s.blockReady page else s
    | none => s)

/-- PAGE_ENABLE (R41). -/
def execPageEnable (view : View) (page : Nat) (on : Bool) (s : State) : Host.Outcome State Fault Refusal :=
  .next (s.onHeader view page false fun s p => s.pageEnable p page on)

/-- INT_STATUS_CLEAR (R52): causes set in the same clock stay 1, and raise the vector again. -/
def execIntStatusClear (view : View) (page : Nat) (mask setNow : Word) (s : State) : Host.Outcome State Fault Refusal :=
  .next (match headerPage page with
    | some p =>
      let t := s.onWrite view page false fun s => s.clearCauses page (mask.toNat &&& p.cls.causes)
      if s.alive then t.setCauses page (setNow.toNat &&& p.cls.causes) else t
    | none => s)

/-- INT_ENABLE_WRITE (R51). -/
def execIntEnableWrite (view : View) (page : Nat) (v : Word) (s : State) : Host.Outcome State Fault Refusal :=
  .next (s.onHeader view page false fun s p => s.writeEnable p.cls.causes page v.toNat)

/-- INT_SET (R51). -/
def execIntSet (view : View) (page : Nat) (mask : Word) (s : State) : Host.Outcome State Fault Refusal :=
  .next (s.onHeader view page false fun s p => s.setCauses page (mask.toNat &&& p.cls.causes))

/-- PANEL_COUNT_CLEAR (R122). -/
def execPanelCountClear (view : View) (n : Die8) (panel : PanelNo) (s : State) : Host.Outcome State Fault Refusal :=
  let page := pgPanel n panel
  .next (s.onWrite view page false fun s => s.crossOrPost view (page + R.PANEL.COUNT_CLEAR_CLEAR.off) 1)

/-- NUMWATCH_COUNT_CLEAR (R262). -/
def execNumwatchCountClear (view : View) (q : Quad) (s : State) : Host.Outcome State Fault Refusal :=
  .next (s.onWrite view (pgWatch q) false fun s => (s.clearCounts .numwatch (pgWatch q)).clearTotals q)

end Sys2Proof.Machine
end

