-- ==== Sys2Proof/Machine/Host.lean ====
section
/-! DEFINITION. The CXL port (R21 to R31, R53, R56, R57): message moderation, configuration requests, host accesses of Tier B,
back-invalidate responses, link changes, IDE and SPDM. -/

namespace Sys2Proof.Machine

/-! Message moderation (R53). -/

/-- The interval of a vector ends: raises merged in it leave as one message, or stay pending while the vector is masked. -/
def State.endInterval (s : State) (v : Nat) (merged : Bool) : State :=
  let t := { s with host := { s.host with moderating := aerase s.host.moderating v } }
  if !merged then t else if t.masked v then t.setVecPending v true else t.sendVector v

/-- MODERATION_EXPIRY (R53). -/
def execModerationExpiry (vec : Fin 2048) (s : State) : Host.Outcome State Fault Refusal :=
  .next (match aget? s.host.moderating vec.val with
    | some merged => s.endInterval vec.val merged
    | none => s)

/-- VECTOR_UNMASK (R53): a pending raise is sent, or merges into the message of the interval that runs. -/
def execVectorUnmask (vec : Fin 2048) (s : State) : Host.Outcome State Fault Refusal := .next (s.unmask vec.val)

/-! Configuration space (R471). -/

/-- `DEV_STATE`. -/
def State.devState (s : State) : Nat := s.rf pgDevice R.DEVICE.DEV_STATE_STATE

/-- A word of configuration space as it reads: the device ID and the class code are the manual's (Table 2-1), all else is free. -/
def configWord (dword : Nat) (free : Word) : Word :=
  if dword == 0 then BitVec.ofNat 32 (0x2100 * 2 ^ 16 + free.toNat % 2 ^ 16)
  else if dword == 2 then BitVec.ofNat 32 (0x120000 * 2 ^ 8 + free.toNat % 2 ^ 8)
  else free

/-- CONFIG_REQUEST (R471): Configuration Request Retry Status in `DEV_STATE` 0x1 and 0x2, a normal completion from 0x3. -/
def execConfigRequest (isWrite : Bool) (dword : Fin 1024) (s : State) : Host.Outcome State Fault Refusal :=
  .next (if !s.alive || s.devState == 0 then { s with reply := .none }
    else if s.devState < 3 then { s with reply := .retryStatus }
    else if isWrite then { s with reply := .configDone 0 }
    else
      let d := s.draw dword.val
      { d.2 with reply := .configDone (configWord dword.val d.1) })

/-! Host accesses of Tier B (R27 to R31). -/

/-- Bytes of the HDM decoder (R27). -/
def hdmSize : Nat := 30517 * 0x10000000

/-- Whether the host reaches a range of the decoder now. -/
def State.hdmReach (s : State) (off len : Nat) : Bool := s.alive && decide (3 ≤ s.devState) && decide (off + len ≤ hdmSize)

/-- A host write of a range, with the blocks it touches sealed again where `HDM_SEAL.EN` is 1 (R29). -/
def State.hostWrite (s : State) (a : Nat) (b : List Byte) : State :=
  if s.rf pgHost R.HOST.HDM_SEAL_EN == 1 then s.putSealed a b else s.put a b

/-- A host write at an offset of the decoder. -/
def State.takeMemWrite (s : State) (off : Nat) (data : List Byte) : State :=
  if s.hdmReach off data.length then s.hostWrite (tierBBase + off) data else s

/-- HOST_MEM_WRITE (R27, R29). -/
def execHostMemWrite (off : Nat) (data : List Byte) (s : State) : Host.Outcome State Fault Refusal := .next (s.takeMemWrite off data)

/-- A line takes its host-held mark (R28). -/
def State.mark (s : State) (l : Nat) : State :=
  if s.host.marks.contains l then s else { s with host := { s.host with marks := s.host.marks ++ [l] } }

/-- A read that returns poison is counted and logged (R31, R56). -/
def State.poisoned (s : State) (addr : Nat) : State :=
  ((s.inc pgHost R.HOST.POISON_COUNT).log pgHost 0x0D05 [addr]).cause pgHost 2

/-- The host's read of a line. -/
def State.hostRead (s : State) (l : Nat) : State :=
  let t := s.mark l
  if t.host.badLines.contains l then { t.poisoned (64 * l) with reply := .poison }
  else { t with reply := .bytes (t.bytes (64 * l) 64) }

/-- HOST_MEM_READ (R28, R31): the 64-byte line that holds the offset. -/
def execHostMemRead (off : Nat) (s : State) : Host.Outcome State Fault Refusal :=
  .next (if s.hdmReach (off / 64 * 64) 64 then s.hostRead ((tierBBase + off) / 64) else s)

/-- BACK_INVALIDATE_RESPONSE (R28): the mark of the line is cleared, and an access that waits for it may be given again. -/
def execBackInvalidateResponse (line : Nat) (s : State) : Host.Outcome State Fault Refusal :=
  .next (if s.host.snoops.contains line then
      { s with host := { s.host with
        snoops := s.host.snoops.filter (· != line)
        marks := s.host.marks.filter (· != line) } }
    else s)

/-- CACHE_REQUEST_ISSUE (R26): at most 512 requests are outstanding. -/
def execCacheRequestIssue (s : State) : Host.Outcome State Fault Refusal :=
  let n := s.rf pgHost R.HOST.CACHE_INFLIGHT_COUNT
  .next (if 0 < s.host.waiting && n < 512 then
      ({ s with host := { s.host with waiting := s.host.waiting - 1 } }).wf pgHost R.HOST.CACHE_INFLIGHT_COUNT (n + 1)
    else s)

/-! The link (R56, R57). -/

/-- A number of lanes that a link may have. -/
def linkWidth (n : Nat) : Bool := n == 0 || n == 1 || n == 2 || n == 4 || n == 8 || n == 16

/-- `LINK_STATUS` of a link. -/
def CxlLink.word (l : CxlLink) : Word :=
  BitVec.ofNat 32 (b2n l.ideCm * 2 ^ 11 + b2n l.ideIo * 2 ^ 10 + b2n l.lopt * 2 ^ 9 + b2n l.up * 2 ^ 8 + l.rate.val * 2 ^ 5 + l.width.val)

/-- CXL_LINK_CHANGE (R56). -/
def execCxlLinkChange (link : CxlLink) (s : State) : Host.Outcome State Fault Refusal :=
  .next (if s.alive && s.devState != 0 && linkWidth link.width.val then
      ({ s with sec := { s.sec with ideIo := link.ideIo, ideCm := link.ideCm } }).linkNow (CxlLink.word link)
    else s)

/-- The number of a protocol in event 0x0D04: 0 CXL.io, 1 CXL.cache, 2 CXL.mem (DESIGN CHOICE, log 28). -/
def protoCode (p : CxlProtocol) : Nat :=
  match p with
  | .io => 0
  | .cache => 1
  | .mem => 2

/-- Whether IDE is active on a protocol. -/
def State.ideOn (s : State) (p : CxlProtocol) : Bool :=
  match p with
  | .io => s.rf pgHost R.HOST.LINK_STATUS_IDE_IO == 1
  | _ => s.rf pgHost R.HOST.LINK_STATUS_IDE_CM == 1

/-- What a flit of a protocol carries has been brought into use: a host write of Tier B on CXL.mem, a register write on CXL.io. -/
def State.useFlit (s : State) (proto : CxlProtocol) (d : FlitData) : State :=
  match proto, d with
  | .mem, .memWrite off data => s.takeMemWrite off data
  | .io, .regWrite bar off w => s.barWrite bar off w
  | _, _ => s

/-- IDE_INTEGRITY_FAILURE (R57): counted and logged. In containment mode nothing that the flit carries is used; in skid mode it has been
used already, and the RAS capability of BAR4 reports so. -/
def execIdeIntegrityFailure (stream : Byte) (flit : FailedFlit) (s : State) : Host.Outcome State Fault Refusal :=
  .next (if s.alive && s.ideOn flit.proto then
      let t := if s.sec.skid then (s.useFlit flit.proto flit.carried).rasIde else s
      ((t.inc pgHost R.HOST.IDE_ERR_COUNT).log pgHost 0x0D04 [stream.toNat, protoCode flit.proto]).cause pgHost 1
    else s)

/-! The DOE mailbox: CDAT, and SPDM (R21, R23, R449, R451). -/

/-- The coherent device attribute table (R21, Table 2-1), which describes the Tier B range: its header and one memory range structure, for
the addresses of the HDM decoder (PRESUMED from the CDAT standard, log 153). -/
def cdatTable : List Byte :=
  let dsmas := leBytes 1 0 ++ leBytes 1 0 ++ leBytes 2 24 ++ leBytes 1 0 ++ leBytes 1 0 ++ leBytes 2 0 ++ leBytes 8 0 ++ leBytes 8 hdmSize
  let head := leBytes 4 40 ++ leBytes 1 1 ++ leBytes 1 0 ++ List.replicate 10 0
  let sum := ((head ++ dsmas).map (·.toNat)).sum % 256
  setNth head 5 (BitVec.ofNat 8 (256 - sum)) ++ dsmas

/-- Bytes of the certificate chain from an offset, at most to its end (R449). -/
def State.certBytes (s : State) (offset length : Nat) : List Byte :=
  (List.range (Nat.min length (s.rf pgSecurity R.SECURITY.CERT_LEN - offset))).map fun i => Config.certByte (offset + i)

/-- The identity key signs the SM3 hash of a session's transcript (R23, R450): the session that carries CXL_IDE_KM stands. -/
def State.keyExchange (s : State) (transcript : List Byte) : State :=
  let sig := (List.range 64).map (Config.sm2Sign s.fresh (sm3 transcript))
  ({ s with fresh := s.fresh + 1, reply := .bytes sig, sec := { s.sec with session := true, msgNo := 0 } }).inc pgSecurity R.SECURITY.SIGN_COUNT

/-- IDE starts or stops on CXL.io, or on CXL.cache and CXL.mem. -/
def State.ideKey (s : State) (p : CxlProtocol) (on : Bool) : State :=
  match p with
  | .io => ({ s with sec := { s.sec with ideIo := on } }).linkNow (setBits (s.reg offLink) 10 10 (b2n on))
  | _ => ({ s with sec := { s.sec with ideCm := on } }).linkNow (setBits (s.reg offLink) 11 11 (b2n on))

/-- The answer to a message that the manual gives an answer to: the attribute table, the certificate chain, measurements 1 to 4 (R451),
the key exchange, and IDE key management within a session. -/
def State.spdm (s : State) (secured : Bool) (req : SpdmRequest) : State :=
  match req with
  | .cdat => { s with reply := .bytes cdatTable }
  | .certificate offset length => { s with reply := .bytes (s.certBytes offset length) }
  | .measurement i => { s with reply := .bytes (if 1 ≤ i ∧ i ≤ 4 then s.measurement i else []) }
  | .keyExchange transcript => s.keyExchange transcript
  | .ideKey p on => if secured then { s.ideKey p on with reply := .spdmDone } else s
  | .ideMode skid => if secured then { s with reply := .spdmDone, sec := { s.sec with skid := skid } } else s
  | .other _ => s

/-- An answer of the session as it leaves the module: encrypted and authenticated with SM4-GCM, its tag last (R23). The session's keys
are the standard's, so the cipher is a constant of `Config` (log 58). -/
def State.secureReply (s : State) : State :=
  match s.reply with
  | .bytes b => { s with
      reply := .secured ((List.range (b.length + 16)).map (Config.sm4Gcm s.sec.msgNo b))
      sec := { s.sec with msgNo := s.sec.msgNo + 1 } }
  | _ => { s with sec := { s.sec with msgNo := s.sec.msgNo + 1 } }

/-- SPDM_REQUEST (R23): answered once configuration space is (R471); a message of a session while the session stands. A message that only
the SPDM standard describes is refused. -/
def execSpdmRequest (msg : DoeMessage) (s : State) : Host.Outcome State Fault Refusal :=
  match msg.req with
  | .other code => .refused (.spdmOutsideManual code.toNat)
  | r => .next (if !s.alive || s.devState < 3 then s
      else if msg.secured then (if s.sec.session then (s.spdm true r).secureReply else s) else s.spdm false r)

end Sys2Proof.Machine
end

