-- ==== Sys2Proof/Machine/Dispatch.lean ====
section
/-! DEFINITION. One arm per command: its meaning (Machine/<Family>.lean). -/

namespace Sys2Proof.Machine

def exec (i : Instr) (s : State) : Host.Outcome State Fault Refusal :=
  match i with
  | .registerWrite view off v => Sys2Proof.Machine.execRegisterWrite view off v s
  | .badAccess view off size isWrite => Sys2Proof.Machine.execBadAccess view off size isWrite s
  | .pairLoRead view off => Sys2Proof.Machine.execPairLoRead view off s
  | .pairHiWrite view off v => Sys2Proof.Machine.execPairHiWrite view off v s
  | .grantWrite view reg v => Sys2Proof.Machine.execGrantWrite view reg v s
  | .hostLevelWrite view v => Sys2Proof.Machine.execHostLevelWrite view v s
  | .quiesce view page on => Sys2Proof.Machine.execQuiesce view page on s
  | .blockReset view page => Sys2Proof.Machine.execBlockReset view page s
  | .blockResetDone page => Sys2Proof.Machine.execBlockResetDone page s
  | .pageEnable view page on => Sys2Proof.Machine.execPageEnable view page on s
  | .intStatusClear view page mask setNow => Sys2Proof.Machine.execIntStatusClear view page mask setNow s
  | .intEnableWrite view page v => Sys2Proof.Machine.execIntEnableWrite view page v s
  | .intSet view page mask => Sys2Proof.Machine.execIntSet view page mask s
  | .moderationExpiry vec => Sys2Proof.Machine.execModerationExpiry vec s
  | .vectorUnmask vec => Sys2Proof.Machine.execVectorUnmask vec s
  | .configRequest isWrite dword => Sys2Proof.Machine.execConfigRequest isWrite dword s
  | .hostMemWrite off data => Sys2Proof.Machine.execHostMemWrite off data s
  | .hostMemRead off => Sys2Proof.Machine.execHostMemRead off s
  | .backInvalidateResponse line => Sys2Proof.Machine.execBackInvalidateResponse line s
  | .cacheRequestIssue => Sys2Proof.Machine.execCacheRequestIssue s
  | .cxlLinkChange link => Sys2Proof.Machine.execCxlLinkChange link s
  | .ideIntegrityFailure stream flit => Sys2Proof.Machine.execIdeIntegrityFailure stream flit s
  | .spdmRequest msg => Sys2Proof.Machine.execSpdmRequest msg s
  | .arrayFwd task => Sys2Proof.Machine.execArrayFwd task s
  | .arrayRev task => Sys2Proof.Machine.execArrayRev task s
  | .crossPanelPartial task group token receiver sealOk => Sys2Proof.Machine.execCrossPanelPartial task group token receiver sealOk s
  | .arrayLoad task => Sys2Proof.Machine.execArrayLoad task s
  | .loadBlockArrival die panel phys => Sys2Proof.Machine.execLoadBlockArrival die panel phys s
  | .panelAged die panel => Sys2Proof.Machine.execPanelAged die panel s
  | .panelRefresh die panel => Sys2Proof.Machine.execPanelRefresh die panel s
  | .refreshComplete die panel phys => Sys2Proof.Machine.execRefreshComplete die panel phys s
  | .retireCtlRetire view die panel => Sys2Proof.Machine.execRetireCtlRetire view die panel s
  | .retireCtlReinstate view die panel => Sys2Proof.Machine.execRetireCtlReinstate view die panel s
  | .spareFillRequest die => Sys2Proof.Machine.execSpareFillRequest die s
  | .spareFillComplete die phys => Sys2Proof.Machine.execSpareFillComplete die phys s
  | .castlingRemap die => Sys2Proof.Machine.execCastlingRemap die s
  | .gradMm task => Sys2Proof.Machine.execGradMm task s
  | .workItemDone quad core => Sys2Proof.Machine.execWorkItemDone quad core s
  | .vecPattern task => Sys2Proof.Machine.execVecPattern task s
  | .convert task => Sys2Proof.Machine.execConvert task s
  | .rowGroupDone quad core => Sys2Proof.Machine.execRowGroupDone quad core s
  | .patFlush view quad core => Sys2Proof.Machine.execPatFlush view quad core s
  | .flagsClear view quad core mask => Sys2Proof.Machine.execFlagsClear view quad core mask s
  | .updateNormal task => Sys2Proof.Machine.execUpdateNormal task s
  | .updateCommit task => Sys2Proof.Machine.execUpdateCommit task s
  | .updateDiscard task => Sys2Proof.Machine.execUpdateDiscard task s
  | .updateProbe task => Sys2Proof.Machine.execUpdateProbe task s
  | .updateDerive task => Sys2Proof.Machine.execUpdateDerive task s
  | .updateDeriveScales task => Sys2Proof.Machine.execUpdateDeriveScales task s
  | .tagWaitEnd eng => Sys2Proof.Machine.execTagWaitEnd eng s
  | .stepTagStale eng => Sys2Proof.Machine.execStepTagStale eng s
  | .pass1Done eng => Sys2Proof.Machine.execPass1Done eng s
  | .checkpointInterlockClear eng => Sys2Proof.Machine.execCheckpointInterlockClear eng s
  | .checkpointInterlockTimeout eng => Sys2Proof.Machine.execCheckpointInterlockTimeout eng s
  | .pass2Done eng => Sys2Proof.Machine.execPass2Done eng s
  | .holdReq view eng arm layer => Sys2Proof.Machine.execHoldReq view eng arm layer s
  | .measuringPrepassDone task => Sys2Proof.Machine.execMeasuringPrepassDone task s
  | .wtLoad view quad => Sys2Proof.Machine.execWtLoad view quad s
  | .estSave view quad => Sys2Proof.Machine.execEstSave view quad s
  | .estLoad view quad => Sys2Proof.Machine.execEstLoad view quad s
  | .estClear view quad => Sys2Proof.Machine.execEstClear view quad s
  | .tailWrite view q v => Sys2Proof.Machine.execTailWrite view q v s
  | .queueEnable view q => Sys2Proof.Machine.execQueueEnable view q s
  | .queueDisable view q => Sys2Proof.Machine.execQueueDisable view q s
  | .queuePause view q on => Sys2Proof.Machine.execQueuePause view q on s
  | .schedHold view on => Sys2Proof.Machine.execSchedHold view on s
  | .descriptorFetch q => Sys2Proof.Machine.execDescriptorFetch q s
  | .buttonRegisterWrite view btn isBase v => Sys2Proof.Machine.execButtonRegisterWrite view btn isBase v s
  | .taskWaitTimeout task => Sys2Proof.Machine.execTaskWaitTimeout task s
  | .nop task => Sys2Proof.Machine.execNop task s
  | .stepOpen task => Sys2Proof.Machine.execStepOpen task s
  | .hem task => Sys2Proof.Machine.execHem task s
  | .waitTempo task => Sys2Proof.Machine.execWaitTempo task s
  | .waitTempoExpiry task => Sys2Proof.Machine.execWaitTempoExpiry task s
  | .buttonOp task => Sys2Proof.Machine.execButtonOp task s
  | .taskCompletion task => Sys2Proof.Machine.execTaskCompletion task s
  | .dmaCopy task => Sys2Proof.Machine.execDmaCopy task s
  | .chArm view die ch => Sys2Proof.Machine.execChArm view die ch s
  | .chAbort view die ch => Sys2Proof.Machine.execChAbort view die ch s
  | .chOwnerWrite view die ch direct => Sys2Proof.Machine.execChOwnerWrite view die ch direct s
  | .shadowWrite view die ch reg v => Sys2Proof.Machine.execShadowWrite view die ch reg v s
  | .swReq view die line => Sys2Proof.Machine.execSwReq view die line s
  | .requestLinePulse die line => Sys2Proof.Machine.execRequestLinePulse die line s
  | .dmaBurstIssue die ch => Sys2Proof.Machine.execDmaBurstIssue die ch s
  | .dmaTransferEnd die ch => Sys2Proof.Machine.execDmaTransferEnd die ch s
  | .dramReadComplete addr ecc => Sys2Proof.Machine.execDramReadComplete addr ecc s
  | .gatherRows task => Sys2Proof.Machine.execGatherRows task s
  | .gatherExperts task => Sys2Proof.Machine.execGatherExperts task s
  | .scatterAdd task => Sys2Proof.Machine.execScatterAdd task s
  | .tempoTick => Sys2Proof.Machine.execTempoTick s
  | .tempoMark => Sys2Proof.Machine.execTempoMark s
  | .tempoSourceLost => Sys2Proof.Machine.execTempoSourceLost s
  | .epochArm view => Sys2Proof.Machine.execEpochArm view s
  | .beaconSend => Sys2Proof.Machine.execBeaconSend s
  | .beaconDelayMeasure timer => Sys2Proof.Machine.execBeaconDelayMeasure timer s
  | .beaconLoss => Sys2Proof.Machine.execBeaconLoss s
  | .evtArm view => Sys2Proof.Machine.execEvtArm view s
  | .evtDisarm view => Sys2Proof.Machine.execEvtDisarm view s
  | .evtRead view => Sys2Proof.Machine.execEvtRead view s
  | .eventFire => Sys2Proof.Machine.execEventFire s
  | .snapshotPointDrained => Sys2Proof.Machine.execSnapshotPointDrained s
  | .snapshotPointEnd => Sys2Proof.Machine.execSnapshotPointEnd s
  | .portTrainingDone port peer => Sys2Proof.Machine.execPortTrainingDone port peer s
  | .portTrainingRetry port => Sys2Proof.Machine.execPortTrainingRetry port s
  | .portCtlRetrain view port => Sys2Proof.Machine.execPortCtlRetrain view port s
  | .flitReceive port flit fec => Sys2Proof.Machine.execFlitReceive port flit fec s
  | .ackTimeout port => Sys2Proof.Machine.execAckTimeout port s
  | .linkDown port => Sys2Proof.Machine.execLinkDown port s
  | .messageForward port => Sys2Proof.Machine.execMessageForward port s
  | .write port => Sys2Proof.Machine.execWrite port s
  | .writeAck port => Sys2Proof.Machine.execWriteAck port s
  | .read port => Sys2Proof.Machine.execRead port s
  | .readData port => Sys2Proof.Machine.execReadData port s
  | .buttonAdd port => Sys2Proof.Machine.execButtonAdd port s
  | .contrib port => Sys2Proof.Machine.execContrib port s
  | .resultSeg port => Sys2Proof.Machine.execResultSeg port s
  | .lateSeg port => Sys2Proof.Machine.execLateSeg port s
  | .ledgerSeg port => Sys2Proof.Machine.execLedgerSeg port s
  | .beacon port => Sys2Proof.Machine.execBeacon port s
  | .echoReq port heldNs => Sys2Proof.Machine.execEchoReq port heldNs s
  | .echoResp port timer => Sys2Proof.Machine.execEchoResp port timer s
  | .schedule port => Sys2Proof.Machine.execSchedule port s
  | .storeAck port => Sys2Proof.Machine.execStoreAck port s
  | .storeData port => Sys2Proof.Machine.execStoreData port s
  | .storeStatResp port => Sys2Proof.Machine.execStoreStatResp port s
  | .schedCmdSend view => Sys2Proof.Machine.execSchedCmdSend view s
  | .seamPut task => Sys2Proof.Machine.execSeamPut task s
  | .seamGet task => Sys2Proof.Machine.execSeamGet task s
  | .transactionTimeout task => Sys2Proof.Machine.execTransactionTimeout task s
  | .collLoad view => Sys2Proof.Machine.execCollLoad view s
  | .collective task => Sys2Proof.Machine.execCollective task s
  | .collectiveAbandon entry => Sys2Proof.Machine.execCollectiveAbandon entry s
  | .ledgerClose entry => Sys2Proof.Machine.execLedgerClose entry s
  | .ledgerSegTimeout entry => Sys2Proof.Machine.execLedgerSegTimeout entry s
  | .reseal view die => Sys2Proof.Machine.execReseal view die s
  | .check view die => Sys2Proof.Machine.execCheck view die s
  | .zero view die => Sys2Proof.Machine.execZero view die s
  | .sealOpDone die => Sys2Proof.Machine.execSealOpDone die s
  | .entryDataWrite view die v => Sys2Proof.Machine.execEntryDataWrite view die v s
  | .replayStart view => Sys2Proof.Machine.execReplayStart view s
  | .replayRunsAbDone a b => Sys2Proof.Machine.execReplayRunsAbDone a b s
  | .replayRunCDone c => Sys2Proof.Machine.execReplayRunCDone c s
  | .replayEnd => Sys2Proof.Machine.execReplayEnd s
  | .minorityFieldTestRetry => Sys2Proof.Machine.execMinorityFieldTestRetry s
  | .digestExchange task => Sys2Proof.Machine.execDigestExchange task s
  | .digestVerdict task => Sys2Proof.Machine.execDigestVerdict task s
  | .ftCmdTest view core => Sys2Proof.Machine.execFtCmdTest view core s
  | .ftCmdReinstate view core => Sys2Proof.Machine.execFtCmdReinstate view core s
  | .fieldTestRun => Sys2Proof.Machine.execFieldTestRun s
  | .fieldTestSkip => Sys2Proof.Machine.execFieldTestSkip s
  | .fieldTestDone pass => Sys2Proof.Machine.execFieldTestDone pass s
  | .snapshot task => Sys2Proof.Machine.execSnapshot task s
  | .snapshotMark task => Sys2Proof.Machine.execSnapshotMark task s
  | .snapshotLayerStreamed task => Sys2Proof.Machine.execSnapshotLayerStreamed task s
  | .snapshotHeaderWrite task => Sys2Proof.Machine.execSnapshotHeaderWrite task s
  | .evaluationSnapshot task => Sys2Proof.Machine.execEvaluationSnapshot task s
  | .restore task => Sys2Proof.Machine.execRestore task s
  | .seqStart view mc => Sys2Proof.Machine.execSeqStart view mc s
  | .seqStop view mc => Sys2Proof.Machine.execSeqStop view mc s
  | .urgent view mc channel avg => Sys2Proof.Machine.execUrgent view mc channel avg s
  | .urgentStart mc => Sys2Proof.Machine.execUrgentStart mc s
  | .monitorConversionDone mc sum => Sys2Proof.Machine.execMonitorConversionDone mc sum s
  | .pairCheckDue pair => Sys2Proof.Machine.execPairCheckDue pair s
  | .pairCheckDone pair sumEven sumOdd => Sys2Proof.Machine.execPairCheckDone pair sumEven sumOdd s
  | .firstSweepRetry pair => Sys2Proof.Machine.execFirstSweepRetry pair s
  | .arrayDieReferral die => Sys2Proof.Machine.execArrayDieReferral die s
  | .stage view => Sys2Proof.Machine.execStage view s
  | .stageComplete flashGood => Sys2Proof.Machine.execStageComplete flashGood s
  | .activate view => Sys2Proof.Machine.execActivate view s
  | .confirm view => Sys2Proof.Machine.execConfirm view s
  | .cancel view => Sys2Proof.Machine.execCancel view s
  | .trialExpired => Sys2Proof.Machine.execTrialExpired s
  | .attStart view => Sys2Proof.Machine.execAttStart view s
  | .reportDone => Sys2Proof.Machine.execReportDone s
  | .eventCommit => Sys2Proof.Machine.execEventCommit s
  | .compaction => Sys2Proof.Machine.execCompaction s
  | .recSelWrite view seq => Sys2Proof.Machine.execRecSelWrite view seq s
  | .dumpStart view => Sys2Proof.Machine.execDumpStart view s
  | .dumpDone => Sys2Proof.Machine.execDumpDone s
  | .powerOn => Sys2Proof.Machine.execPowerOn s
  | .powerOnResetRelease straps => Sys2Proof.Machine.execPowerOnResetRelease straps s
  | .firmwareBootDone => Sys2Proof.Machine.execFirmwareBootDone s
  | .resetN => Sys2Proof.Machine.execResetN s
  | .perst => Sys2Proof.Machine.execPerst s
  | .resetCtlModule view => Sys2Proof.Machine.execResetCtlModule view s
  | .resetCtlEngines view => Sys2Proof.Machine.execResetCtlEngines view s
  | .stopCtlStart view => Sys2Proof.Machine.execStopCtlStart view s
  | .stopSequenceDone => Sys2Proof.Machine.execStopSequenceDone s
  | .pllLockLost bit => Sys2Proof.Machine.execPllLockLost bit s
  | .governorLimiting on => Sys2Proof.Machine.execGovernorLimiting on s
  | .panelCountClear view die panel => Sys2Proof.Machine.execPanelCountClear view die panel s
  | .gradCoreCountClear view quad core => Sys2Proof.Machine.execGradCoreCountClear view quad core s
  | .vecCoreCountClear view quad core => Sys2Proof.Machine.execVecCoreCountClear view quad core s
  | .updateCountClear view eng => Sys2Proof.Machine.execUpdateCountClear view eng s
  | .numwatchCountClear view quad => Sys2Proof.Machine.execNumwatchCountClear view quad s
  | .graphSchedCountClear view => Sys2Proof.Machine.execGraphSchedCountClear view s
  | .memDieCountClear view die => Sys2Proof.Machine.execMemDieCountClear view die s
  | .controllerCountClear view die tierB index => Sys2Proof.Machine.execControllerCountClear view die tierB index s
  | .gatherCountClear view die => Sys2Proof.Machine.execGatherCountClear view die s
  | .seamPortCountClear view port => Sys2Proof.Machine.execSeamPortCountClear view port s
  | .collectiveCountClear view => Sys2Proof.Machine.execCollectiveCountClear view s
  | .seamMgmtCountClear view => Sys2Proof.Machine.execSeamMgmtCountClear view s
  | .maintCountClear view => Sys2Proof.Machine.execMaintCountClear view s
  | .sealCountClear view die => Sys2Proof.Machine.execSealCountClear view die s
  | .monitorCountClear view mc => Sys2Proof.Machine.execMonitorCountClear view mc s
  | .powerCountClear view => Sys2Proof.Machine.execPowerCountClear view s
  | .smbusReadWord addr cmd pec => Sys2Proof.Machine.execSmbusReadWord addr cmd pec s
  | .idcode => Sys2Proof.Machine.execIdcode s
  | .bypass code => Sys2Proof.Machine.execBypass code s
  | .samplePreload preload => Sys2Proof.Machine.execSamplePreload preload s
  | .extest => Sys2Proof.Machine.execExtest s
  | .extestExit => Sys2Proof.Machine.execExtestExit s
  | .supplyRemoved => Sys2Proof.Machine.execSupplyRemoved s
  | .pllLockRegained bit => Sys2Proof.Machine.execPllLockRegained bit s
  | .reservedOpcodeMessage port => Sys2Proof.Machine.execReservedOpcodeMessage port s
  | .collectiveStepWaitTimeout task => Sys2Proof.Machine.execCollectiveStepWaitTimeout task s

end Sys2Proof.Machine
end

