-- ==== Sys2Proof/WellFormed.lean ====
section
/-! DEFINITION. Which commands can reach the block: the ranges of operands that the types of Syntax.lean leave open. A command that
is not well formed is one that no sender can form; `exec` is total on it all the same. -/

namespace Sys2Proof

/-- An offset within a register BAR (R32). -/
def barOffset (off : Nat) : Bool := decide (off < 0x2000000)

/-- An aligned offset of a page's register (R37, R44). -/
def registerOffset (off : Nat) : Bool := barOffset off && off % 4 == 0 && Machine.occupied off

/-- An aligned offset that a register access in a view, or an access of BAR4, can name (R32, R37). -/
def barNames (bar : Bar) (off : Nat) : Bool :=
  match bar with
  | .regs _ => registerOffset off
  | .bar4 => decide (off < 0x20000) && off % 4 == 0

/-- The base of a page with the common header (R40, R42, R44). -/
def headerBase (page : Nat) : Bool :=
  page % 0x1000 == 0 && match Machine.pageAt page with
    | some p => p.cls != .buttons
    | none => false

/-- An offset and length within the HDM decoder of 30,517 times 256 MiB (R27). -/
def inDecoder (off len : Nat) : Bool := decide (off + len ≤ 30517 * 0x10000000)

/-- A number of lanes that the CXL link trains with (R21). -/
def legalLanes (n : Nat) : Bool := [0, 1, 2, 4, 8, 16].contains n

/-- The operands of a command lie in the ranges that its rule gives them. -/
def Instr.wellFormed (i : Instr) : Bool :=
  match i with
  | .registerWrite bar off _ => barNames bar off
  | .badAccess _ off size _ => barOffset off && (size == 1 || size == 2 || size == 4 || size == 8) &&
      !(size == 4 && registerOffset off)
  | .pairLoRead bar off => barNames bar off
  | .pairHiWrite _ off _ => registerOffset off
  | .quiesce _ page _ => headerBase page
  | .blockReset _ page => headerBase page
  | .blockResetDone page => headerBase page
  | .pageEnable _ page _ => headerBase page
  | .intStatusClear _ page _ _ => headerBase page
  | .intEnableWrite _ page _ => headerBase page
  | .intSet _ page _ => headerBase page
  | .hostMemWrite off data => inDecoder off data.length && data.length != 0
  | .hostMemRead off => inDecoder off 1
  | .backInvalidateResponse line => decide (0x40000000000 ≤ 64 * line) && inDecoder (64 * line - 0x40000000000) 64
  | .cxlLinkChange link => legalLanes link.width.val
  | .ideIntegrityFailure _ flit => match flit.carried with
    | .nothing => true
    | .memWrite off data => inDecoder off data.length && data.length != 0
    | .regWrite bar off _ => barNames bar off
  | .spdmRequest msg => match msg.req with
    | .measurement index => decide (1 ≤ index) && decide (index ≤ 4)
    | _ => true
  | .retireCtlRetire _ _ panel => decide (panel.toNat < 68)
  | .retireCtlReinstate _ _ panel => decide (panel.toNat < 68)
  | .dramReadComplete addr _ => decide (addr < 0xC0000000000) && addr % 64 == 0
  | .flitReceive _ flit _ => flit.length == 256
  | _ => true

end Sys2Proof
end

