-- ==== Sys2Proof/Safety.lean ====
section
/-! DEFINITION. What counts as a sound state, and what every command keeps. -/

namespace Sys2Proof.Machine

/-- Keys rise strictly along a keyed list. -/
def Rising {α : Type} (l : List (Nat × α)) : Prop := l.Pairwise fun p q => p.1 < q.1

/-- The canonical form of the register list: offsets strictly rising, no entry at its reset value. -/
def Regs.Wf (l : List (Nat × Word)) : Prop := Rising l ∧ ∀ p ∈ l, p.2 ≠ resetWord p.1

/-- The canonical form of a state: registers, memory and seal entries are each listed once, in ascending order, registers and bytes
only where they differ from what an unlisted one reads as. Equal machines are then equal data. -/
structure State.Canonical (s : State) : Prop where
  regs  : Regs.Wf s.regs
  mem   : Memory.wf s.mem = true
  seals : Rising s.seals

/-- What every command keeps, whatever else it does: it leaves the waiting commands alone; fuses, once blown, stay blown (R447);
free values are drawn in order; and the canonical form stays. -/
structure Keeps (s t : State) : Prop where
  pending   : t.pending = s.pending
  fuses     : s.fw.fuses ≤ t.fw.fuses
  revoked   : t.fw.revoked = s.fw.revoked
  fresh     : s.fresh ≤ t.fresh
  canonical : s.Canonical → t.Canonical

end Sys2Proof.Machine
end

