-- ==== Sys2Proof/Certificates/Slice0/Obligations.lean ====
section
/-! DEFINITION. The statements for the provers. A statement that covers several families is a conjunction of parts, each a
definition of its own under `Sys2Proof.Claims`. -/

namespace Sys2Proof.Claims

open Machine

/-- A command answers a next state that meets `P`. -/
def Gives (c : Instr) (s : State) (P : State → Prop) : Prop := ∃ t, exec c s = .next t ∧ P t

/-- The module has power, its power-on reset is over, and it has not stopped (R464, R469). -/
def Up (s : State) : Prop := s.power.supply = true ∧ s.power.held = false ∧ s.power.stopped = false

/-- A saturating 32-bit count raised by one. -/
def up32 (n : Nat) : Nat := Nat.min (n + 1) (2 ^ 32 - 1)

/-- Every byte of device memory reads as before. -/
def SameBytes (s t : State) : Prop := ∀ a, t.byte a = s.byte a

/-- Every seal entry reads as before. -/
def SameSeals (s t : State) : Prop := ∀ k, t.sealEntry k = s.sealEntry k

/-- Every register but those named reads as before. -/
def SameRegs (s t : State) (but : Nat → Prop) : Prop := ∀ o, ¬but o → t.reg o = s.reg o

end Sys2Proof.Claims

open Sys2Proof Sys2Proof.Machine Sys2Proof.Claims

/-- One step runs the command at the front of the queue on the state with the rest of the queue; on an empty queue the block idles (the
model's choice, log 1). -/
def Obligations.StepRunsFrontCommand : Prop :=
  (∀ (c : Instr) (rest : List Instr) (s : State), step { s with pending := c :: rest } = exec c { s with pending := rest }) ∧
  (∀ s : State, s.pending = [] → step s = .next s)

/-- Every step keeps the canonical form: registers, memory and seal entries listed once, in order, and only where they differ. -/
def Obligations.StepKeepsCanonicalForm : Prop := ∀ s t : State, s.Canonical → step s = .next t → t.Canonical

/-- The state after reset is in canonical form. -/
def Sys2Proof.Claims.ResetIsCanonical : Prop := State.reset.Canonical

/-- Commands are taken first in, first out: a step takes the front command and no command touches the queue. -/
def Sys2Proof.Claims.StepTakesOneCommand : Prop := ∀ s t : State, step s = .next t → t.pending = s.pending.tail

/-- No command lowers the anti-rollback fuse count or changes the revocation fuses (R447: CONFIRM advances the count). -/
def Sys2Proof.Claims.StepKeepsFuses : Prop :=
  ∀ s t : State, step s = .next t → s.fw.fuses ≤ t.fw.fuses ∧ t.fw.revoked = s.fw.revoked

/-- What every step keeps: commands are taken first in, first out, and the fuses never go back. -/
def Obligations.StepsKeepQueueAndFuses : Prop := Claims.StepTakesOneCommand ∧ Claims.StepKeepsFuses

/-- What the manual gives for reset: `DEV_STATE` 0x0, level 1.0 in force, no grant, no link, `HDM_SEAL.EN` 1, the tempo count 0, no task. -/
def Sys2Proof.Claims.ResetValues : Prop :=
  State.reset.rf pgDevice R.DEVICE.DEV_STATE_STATE = 0 ∧
  State.reset.rf pgDevice R.DEVICE.HOST_LEVEL_MAJOR = 1 ∧ State.reset.rf pgDevice R.DEVICE.HOST_LEVEL_MINOR = 0 ∧
  State.reset.rf pgDevice R.DEVICE.GRANT_QUEUE_LO = 0 ∧ State.reset.rf pgDevice R.DEVICE.GRANT_BUTTONS = 0 ∧
  State.reset.rf pgHost R.HOST.HDM_SEAL_EN = 1 ∧ State.reset.rf pgHost R.HOST.LINK_STATUS_UP = 0 ∧
  State.reset.rf pgPower R.POWER.CAP_W = 2800 ∧ State.reset.now = 0 ∧ State.reset.tasks = [] ∧ State.reset.pending = []

/-- The state after reset: canonical, and with the values that the manual gives for reset. -/
def Obligations.ResetState : Prop := Claims.ResetIsCanonical ∧ Claims.ResetValues

/-- A written `CAP` takes the nearest legal wattage; a clamp is counted, with its view and its register (R45; Table 19-9 gives 1,000 to
2,800). -/
def Sys2Proof.Claims.PowerCapTakesNearestLegalValue : Prop :=
  ∀ (s : State) (w : Word), Up s →
    Gives (.registerWrite (.regs .bar0) (pgPower + R.POWER.CAP_W.off) w) s fun t =>
      t.rf pgPower R.POWER.CAP_W = Nat.max 1000 (Nat.min 2800 (w.toNat % 65536)) ∧
      (if 1000 ≤ w.toNat % 65536 ∧ w.toNat % 65536 ≤ 2800 then SameRegs s t (fun o => o = pgPower + R.POWER.CAP_W.off)
       else t.rf pgDevice R.DEVICE.CLAMP_COUNT = up32 (s.rf pgDevice R.DEVICE.CLAMP_COUNT) ∧
        t.rf pgDevice R.DEVICE.CLAMP_LAST_VIEW = 0 ∧ t.rf pgDevice R.DEVICE.CLAMP_LAST_OFFSET = pgPower + R.POWER.CAP_W.off ∧
        SameRegs s t (fun o => o = pgPower + R.POWER.CAP_W.off ∨ o = pgDevice + R.DEVICE.CLAMP_COUNT.off ∨
          o = pgDevice + R.DEVICE.CLAMP_LAST_VIEW.off)) ∧ SameBytes s t ∧ SameSeals s t

namespace Sys2Proof.Claims

/-- A view may write an offset of a page of these classes, whose registers take what is written field by field: no reset command, no
register that is a command, and no register of the header (R33, R40, R469). -/
structure PlainAt (s : State) (view : View) (off : Nat) (p : PageRef) : Prop where
  up      : Up s
  page    : pageAt off = some p
  cls     : p.cls.crossing = true ∨ p.cls ∈ [Cls.clock, .calib, .stackCtl, .tierbCtl, .host]
  aligned : off % 4 = 0
  own     : 0x100 ≤ off % 0x1000
  clear   : p.cls.clearOff ≠ some (off % 0x1000)
  flush   : p.cls = .vecCore → off % 0x1000 ≠ R.VEC_CORE.PAT_FLUSH_FLUSH.off
  granted : s.granted view (0x1000 * (off / 0x1000)) = true

/-- A field of the register at an offset after a write: a field that the view may write, of a level that is in force, takes the nearest
legal value to its own bits of the word; any other but a W1C field keeps its value (R33, R45, R46, R49). -/
def TakesField (s t : State) (view : View) (off : Nat) (w : Word) (f : Fld) : Prop :=
  ((f.acc = .rw ∨ (f.acc = .rwp ∧ view = .bar0)) ∧ (f.l11 = true → s.level11 = true) →
    getBits (t.reg off) f.hi f.lo = f.legal.clamp (getBits w f.hi f.lo)) ∧
  (¬((f.acc = .rw ∨ (f.acc = .rwp ∧ view = .bar0)) ∧ (f.l11 = true → s.level11 = true)) → f.acc ≠ .w1c →
    getBits (t.reg off) f.hi f.lo = getBits (s.reg off) f.hi f.lo)

/-- The registers in which clamps are counted (R45). -/
def Clamps (o : Nat) : Prop := o = pgDevice + R.DEVICE.CLAMP_COUNT.off ∨ o = pgDevice + R.DEVICE.CLAMP_LAST_VIEW.off

/-- The view may write a LO half at an offset, or a HI half. -/
def HalfAt (p : PageRef) (part : Part) (view : View) (off : Nat) : Prop :=
  ∃ f ∈ p.cls.fieldsAt (off % 0x1000), f.part = part ∧ f.writable view = true

end Sys2Proof.Claims

/-- A write to a crossing point whose task runs is posted and changes no register. Between tasks, and on the pages of the clocks, the
calibration, the memory controllers and the host port, each field of the register takes its own bits, alone, as R33, R45, R46 and R49 say;
nothing else changes but the count of clamps (R13). -/
def Sys2Proof.Claims.RegisterWritesTakeFieldsOrArePosted : Prop :=
  ∀ (s : State) (view : View) (off : Nat) (w : Word) (p : PageRef), PlainAt s view off p →
    (p.cls.crossing = true → s.betweenTasks (0x1000 * (off / 0x1000)) = false →
      Gives (.registerWrite (.regs view) off w) s fun t => t = { s with posted := s.posted ++ [⟨view, off, w⟩] }) ∧
    ((p.cls.crossing = true → s.betweenTasks (0x1000 * (off / 0x1000)) = true) → ¬HalfAt p .lo view off → ¬HalfAt p .hi view off →
      Gives (.registerWrite (.regs view) off w) s fun t =>
        (∀ f ∈ p.cls.fieldsAt (off % 0x1000), TakesField s t view off w f) ∧
        SameRegs s t (fun o => o = off ∨ Clamps o) ∧ SameBytes s t ∧ SameSeals s t ∧ t.posted = s.posted)

/-- In BAR2 a register of a page that is not granted ignores writes and reads zero; the DEVICE page reads there without a grant (R33). -/
def Sys2Proof.Claims.UngrantedPageIgnoresBar2 : Prop :=
  ∀ (s : State) (off : Nat) (w : Word) (p : PageRef), Up s → pageAt off = some p → off % 4 = 0 → s.grantedPage p = false →
    exec (.registerWrite (.regs .bar2) off w) s = .next s ∧ exec (.pairHiWrite .bar2 off w) s = .next s ∧
    (p.cls ≠ .device → exec (.pairLoRead (.regs .bar2) off) s = .next { s with reply := .word 0 })

/-- An access of another size or alignment, or to an offset that no page occupies, is not applied: a read returns zero, the access is
counted, and event 0x0D01 is logged with its offset, view and size (R37). -/
def Sys2Proof.Claims.BadAccessIsCounted : Prop :=
  ∀ (s : State) (view : View) (off size : Nat) (isWrite : Bool), Up s → ¬(size = 4 ∧ off % 4 = 0 ∧ occupied off = true) →
    Gives (.badAccess view off size isWrite) s fun t =>
      t.rf pgDevice R.DEVICE.BAD_ACCESS_COUNT = up32 (s.rf pgDevice R.DEVICE.BAD_ACCESS_COUNT) ∧
      t.record.nextSeq = s.record.nextSeq + 1 ∧
      (∃ e : Entry, e.code = 0x0D01 ∧ e.detail = [off, b2n (view == .bar2), size] ∧ e.seq = s.record.nextSeq ∧ e ∈ t.record.queue) ∧
      bit (t.hdr pgDevice oINT_STATUS) 2 = true ∧ (isWrite = false → t.reply = .word 0) ∧
      (∀ o, o ≠ pgDevice + R.DEVICE.BAD_ACCESS_COUNT.off → o ≠ pgDevice + oINT_STATUS → ¬(pgRecord ≤ o ∧ o < pgRecord + 0x1000) →
        ¬(pgIntroute 0 ≤ o ∧ o < pgIntroute 0 + 0x8000) → t.reg o = s.reg o) ∧ SameBytes s t ∧ SameSeals s t

/-- A read of a LO half returns it and latches the HI half into a shadow; the next read of the HI half returns the shadow, which is then
gone, and a read of the HI half without it returns the live value (R38). -/
def Sys2Proof.Claims.PairReadLatchesHighHalf : Prop :=
  ∀ (s : State) (view : View) (off : Nat), Up s → off % 4 = 0 → occupied off = true → s.readableAt view off = true →
    (pairHalf .lo off = true → Gives (.pairLoRead (.regs view) off) s fun t =>
      t.reply = .word (BitVec.ofNat 32 (s.regWord view off)) ∧
      aget? t.pairRead (off + 4) = some (BitVec.ofNat 32 (s.regWord view (off + 4))) ∧ t.regs = s.regs ∧ t.mem = s.mem ∧ t.seals = s.seals) ∧
    (pairHalf .hi off = true → ∀ w, aget? s.pairRead off = some w →
      Gives (.pairLoRead (.regs view) off) s fun t =>
        t.reply = .word w ∧ aget? t.pairRead off = none ∧ t.regs = s.regs ∧ t.mem = s.mem ∧ t.seals = s.seals) ∧
    (pairHalf .hi off = true → aget? s.pairRead off = none →
      exec (.pairLoRead (.regs view) off) s = .next { s with reply := .word (BitVec.ofNat 32 (s.regWord view off)) })

/-- A write of a LO half is held; a write of the HI half commits both halves, each field with its own bits, and without a held half
commits the HI half alone (R38). -/
def Sys2Proof.Claims.PairHiWriteCommitsBothHalves : Prop :=
  ∀ (s : State) (view : View) (off : Nat) (w : Word) (p : PageRef), PlainAt s view off p →
    (p.cls.crossing = true → s.betweenTasks (0x1000 * (off / 0x1000)) = true) →
    (HalfAt p .lo view off → Gives (.registerWrite (.regs view) off w) s fun t =>
      t.regs = s.regs ∧ aget? t.pairHold (off + 4) = some w ∧ SameBytes s t ∧ SameSeals s t) ∧
    (HalfAt p .hi view off → ¬HalfAt p .lo view off → Gives (.pairHiWrite view off w) s fun t =>
      (∀ f ∈ p.cls.fieldsAt (off % 0x1000), TakesField s t view off w f) ∧
      (∀ lo, aget? s.pairHold off = some lo → ∀ f ∈ p.cls.fieldsAt (off % 0x1000 - 4), TakesField s t view (off - 4) lo f) ∧
      (aget? s.pairHold off = none → t.reg (off - 4) = s.reg (off - 4)) ∧
      SameRegs s t (fun o => o = off - 4 ∨ o = off ∨ Clamps o) ∧ aget? t.pairHold off = none ∧ SameBytes s t ∧ SameSeals s t)

/-- BAR4: a word of the MSI-X table takes what is written to its address and data, and reads back; the pending bits and what no component
register holds are not written (R32, R50; the places of the component registers are the model's, log 60). -/
def Sys2Proof.Claims.Bar4HoldsTheMsixTable : Prop :=
  ∀ (s : State) (o : Nat) (w : Word), Up s → o % 4 = 0 →
    (o < 0x8000 → o % 16 ≠ 12 → Gives (.registerWrite .bar4 o w) s fun t =>
      t.bar4Word o = (if o % 16 = 0 then setBits w 1 0 0 else w) ∧ (∀ k, k ≠ o → t.bar4Word k = s.bar4Word k) ∧ t.regs = s.regs ∧
      t.host.msix = s.host.msix ∧ SameBytes s t ∧ SameSeals s t) ∧
    (0x8000 ≤ o → o < 0x10000 → exec (.registerWrite .bar4 o w) s = .next s) ∧
    (o < 0x8000 → exec (.pairLoRead .bar4 o) s = .next { s with reply := .word (s.bar4Word o) })

/-- Register accesses: fields, legal values and clamps, refused accesses, the halves of pairs, BAR4. -/
def Obligations.RegisterAccess : Prop := Claims.PowerCapTakesNearestLegalValue ∧ Claims.RegisterWritesTakeFieldsOrArePosted ∧ Claims.BadAccessIsCounted ∧ Claims.PairReadLatchesHighHalf ∧ Claims.PairHiWriteCommitsBothHalves ∧ Claims.Bar4HoldsTheMsixTable

namespace Sys2Proof.Claims

open Machine

/-- A write in this view to this page, of a field that is RWP or not, takes effect (R33, R469). -/
def Writes (s : State) (view : View) (page : Nat) (rwp : Bool) : Prop :=
  s.granted view page = true ∧ (view = .bar0 ∨ rwp = false) ∧ s.power.supply = true ∧ s.power.stopped = false

/-- No fetched task waits for a button or to be dispatched. -/
def NoWait (s : State) : Prop := ∀ t ∈ s.tasks, t.isHanded = true

/-- A register of a page. -/
def InPage (page o : Nat) : Prop := page ≤ o ∧ o < page + 0x1000

/-- A register that a logged event or a raised vector changes: the RECORD page and the INTROUTE pages. -/
def Reports (o : Nat) : Prop := InPage pgRecord o ∨ (pgIntroute 0 ≤ o ∧ o < pgIntroute 0 + 0x8000)

/-- No task waits, and no array, gradient, vector or DMA work waits for a block. -/
def Still (s : State) : Prop := NoWait s ∧ s.gradRuns = [] ∧ s.vecRuns = [] ∧ s.arrOrder = [] ∧ s.dmaQueue = []

/-- The vector of a page. -/
def vecOf (s : State) (page : Nat) : Nat := getBits (s.reg (page + oINT_VECTOR)) 10 0

/-- The vector of a page has been raised: its message has left with the address and data of its table entry; within an interval it waits
for the end; while the vector is masked it is pending (R50, R51, R53). -/
def Raised (s t : State) (page : Nat) : Prop :=
  t.reg (offVecSrc (vecOf s page)) = s.reg (page + oPAGE_ID) ∧
  (s.masked (vecOf s page) = true → t.vecPending (vecOf s page) = true ∧ t.host = s.host) ∧
  (s.masked (vecOf s page) = false → aget? s.host.moderating (vecOf s page) = none →
    t.host.msix = s.host.msix ++ [s.msixMsg (vecOf s page)] ∧ t.vecPending (vecOf s page) = false) ∧
  (s.masked (vecOf s page) = false → aget? s.host.moderating (vecOf s page) ≠ none →
    t.host.msix = s.host.msix ∧ aget? t.host.moderating (vecOf s page) = some true ∧ t.vecPending (vecOf s page) = true)

/-- The registers that a raise changes: `VEC_CTL` and `VEC_LAST_SRC` of the vector. -/
def OfVector (s : State) (page o : Nat) : Prop := o = offVecCtl (vecOf s page) ∨ o = offVecSrc (vecOf s page)

/-- A cause bit of a page stands. -/
def Caused (t : State) (page b : Nat) : Prop := bit (t.hdr page oINT_STATUS) b = true

/-- The commands that are writes of a register of their own: view, page, and whether the field is RWP. -/
def ownWrite (c : Instr) : Option (View × Nat × Bool) :=
  match c with
  | .grantWrite v _ _ | .hostLevelWrite v _ => some (v, pgDevice, true)
  | .quiesce v p _ | .blockReset v p | .pageEnable v p _ | .intEnableWrite v p _ | .intSet v p _ => some (v, p, false)
  | .retireCtlRetire v n _ | .retireCtlReinstate v n _ => some (v, pgArrayDie n, true)
  | .patFlush v q c | .flagsClear v q c _ | .vecCoreCountClear v q c => some (v, pgVecCore q c, false)
  | .gradCoreCountClear v q c => some (v, pgGradCore q c, false)
  | .panelCountClear v n p => some (v, pgPanel n p, false)
  | .holdReq v e _ _ | .updateCountClear v e => some (v, pgUpdate e, false)
  | .wtLoad v q | .numwatchCountClear v q => some (v, pgWatch q, false)
  | .estSave v q | .estLoad v q | .estClear v q => some (v, pgWatch q, true)
  | .tailWrite v q _ | .queuePause v q _ => some (v, pgQueue q, false)
  | .queueEnable v q | .queueDisable v q => some (v, pgQueue q, true)
  | .schedHold v _ => some (v, pgSched, true)
  | .graphSchedCountClear v => some (v, pgSched, false)
  | .chArm v n c | .chOwnerWrite v n c _ | .shadowWrite v n c _ _ => some (v, pgDma n c, true)
  | .chAbort v n c => some (v, pgDma n c, false)
  | .swReq v n _ | .memDieCountClear v n => some (v, pgMemDie n, false)
  | .controllerCountClear v n b i => some (v, if b then pgTierB n i else pgStack n i, false)
  | .gatherCountClear v n => some (v, pgGather n, false)
  | .epochArm v => some (v, pgTempo, true)
  | .evtArm v | .evtDisarm v | .evtRead v => some (v, pgTempo, false)
  | .portCtlRetrain v n | .seamPortCountClear v n => some (v, pgPort n, false)
  | .schedCmdSend v | .seamMgmtCountClear v => some (v, pgSeam, false)
  | .collLoad v | .collectiveCountClear v => some (v, pgColl, false)
  | .reseal v n | .check v n | .zero v n | .entryDataWrite v n _ => some (v, pgSeal n, true)
  | .sealCountClear v n => some (v, pgSeal n, false)
  | .ftCmdTest v _ | .ftCmdReinstate v _ => some (v, pgMaint, true)
  | .replayStart v | .maintCountClear v => some (v, pgMaint, false)
  | .seqStart v m | .seqStop v m | .urgent v m _ _ => some (v, pgMonitor m, true)
  | .monitorCountClear v m => some (v, pgMonitor m, false)
  | .stage v | .activate v | .confirm v | .cancel v => some (v, pgFirmware, false)
  | .attStart v => some (v, pgSecurity, false)
  | .recSelWrite v _ | .dumpStart v => some (v, pgRecord, false)
  | .stopCtlStart v | .powerCountClear v => some (v, pgPower, false)
  | _ => none

/-- What the `COUNT_CLEAR` commands clear: the view, the page, and the ranges of page offsets whose words become 0. -/
def countClear (c : Instr) : Option (View × Nat × List (Nat × Nat)) :=
  match c with
  | .panelCountClear v n p => some (v, pgPanel n p, [(0x120, 0x14C)])
  | .gradCoreCountClear v q k => some (v, pgGradCore q k, [(0x120, 0x140)])
  | .vecCoreCountClear v q k => some (v, pgVecCore q k, [(0x120, 0x140)])
  | .updateCountClear v e => some (v, pgUpdate e, [(0x120, 0x12C), (0x138, 0x140)])
  | .numwatchCountClear v q => some (v, pgWatch q, [(0x128, 0x138)])
  | .graphSchedCountClear v => some (v, pgSched, [(0x108, 0x108), (0x120, 0x12C), (0x134, 0x134), (0x138, 0x138)])
  | .memDieCountClear v n => some (v, pgMemDie n, [(0x104, 0x104)])
  | .gatherCountClear v n => some (v, pgGather n, [(0x104, 0x114)])
  | .seamPortCountClear v n => some (v, pgPort n, [(0x108, 0x12C)])
  | .collectiveCountClear v => some (v, pgColl, [(0x114, 0x128)])
  | .seamMgmtCountClear v => some (v, pgSeam, [(0x138, 0x144)])
  | .maintCountClear v => some (v, pgMaint, [(0x104, 0x104), (0x128, 0x138)])
  | .sealCountClear v n => some (v, pgSeal n, [(0x130, 0x140)])
  | .monitorCountClear v m => some (v, pgMonitor m, [(0x120, 0x130)])
  | _ => none

/-- An offset of a page lies in one of the ranges, at a word. -/
def cleared (page : Nat) (rs : List (Nat × Nat)) (o : Nat) : Prop := ∃ r ∈ rs, page + r.1 ≤ o ∧ o ≤ page + r.2 ∧ (o - page) % 4 = 0

end Sys2Proof.Claims

/-- A command that is a register write changes nothing where its view is not granted the page, where an RWP field is written in BAR2, and
while the module has no power or has stopped (R33, R469). -/
def Sys2Proof.Claims.IgnoredWhereNotGranted : Prop :=
  ∀ (s : State) (c : Instr) (v : View) (page : Nat) (rwp : Bool), ownWrite c = some (v, page, rwp) → ¬Writes s v page rwp →
    exec c s = .next s

/-- A write in a view that is not granted the page changes nothing: register writes of BAR2, and every command that is a write of a register of its own. -/
def Obligations.UngrantedWritesAreIgnored : Prop := Claims.UngrantedPageIgnoresBar2 ∧ Claims.IgnoredWhereNotGranted

/-- `QUIESCE` and `EN` of `PAGE_CTL` are written, alone; where a block may accept work again and no work waits for one, nothing else
changes (R14, R15, R41). -/
def Sys2Proof.Claims.QuiesceAndEnableWriteTheirBits : Prop :=
  ∀ (s : State) (view : View) (page : Nat) (p : PageRef) (on : Bool), Writes s view page false → headerPage page = some p →
    (on = true ∨ Still s → Gives (.quiesce view page on) s fun t =>
      t.hdr page oPAGE_CTL = (setBits (s.reg (page + oPAGE_CTL)) 1 1 (b2n on)).toNat ∧ bit (t.hdr page oPAGE_CTL) 1 = on ∧
      SameRegs s t (fun o => o = page + oPAGE_CTL) ∧ SameBytes s t ∧ SameSeals s t ∧ t.tasks = s.tasks) ∧
    (on = false ∨ Still s → Gives (.pageEnable view page on) s fun t =>
      t.hdr page oPAGE_CTL = (setBits (s.reg (page + oPAGE_CTL)) 0 0 (b2n on)).toNat ∧ bit (t.hdr page oPAGE_CTL) 0 = on ∧
      SameRegs s t (fun o => o = page + oPAGE_CTL) ∧ SameBytes s t ∧ SameSeals s t ∧ t.tasks = s.tasks)

/-- A block reset of a page without an engine, or of a gather unit, gives the header and the page's own registers their Reset values, but
for those that flash restores or that show what the reset does not touch (the model's choice, log 32); the unit's running task ends
ABORTED, and `BLOCK_RESET` reads 1 until the block is ready; then it reads 0 (R16, R41). -/
def Sys2Proof.Claims.BlockResetRestoresRegisters : Prop :=
  ∀ (s : State) (view : View) (page : Nat) (p : PageRef), headerPage page = some p →
    (Writes s view page false → NoWait s →
      p.cls ∈ [Cls.device, .power, .clock, .calib, .host, .graphSched, .introute, .stackCtl, .tierbCtl, .gather] →
      Gives (.blockReset view page) s fun t =>
        bit (t.hdr page oPAGE_CTL) 31 = true ∧ bit (t.hdr page oPAGE_CTL) 1 = false ∧
        (∀ o, page + oINT_STATUS ≤ o → o < page + 0x100 → t.reg o = resetWord o) ∧
        (∀ o, page + 0x100 ≤ o → o < page + 0x1000 → flashReg o = false → p.cls.mirror (o % 0x1000) = false → t.reg o = resetWord o) ∧
        (∀ o, page + 0x100 ≤ o → o < page + 0x1000 → flashReg o = true ∨ p.cls.mirror (o % 0x1000) = true → t.reg o = s.reg o) ∧
        SameRegs s t (fun o => o = page + oPAGE_CTL ∨ (page + oINT_STATUS ≤ o ∧ o < page + 0x1000)) ∧ SameBytes s t ∧ SameSeals s t ∧
        (p.cls = .gather → ∀ k ∈ t.tasks, k.pages.contains page = true → k.phase = .finished stAborted 0 0 0) ∧
        (p.cls ≠ .gather → t.tasks = s.tasks) ∧ t.tasks.map Task.seq = s.tasks.map Task.seq) ∧
    (bit (s.hdr page oPAGE_CTL) 31 = true → p.cls ≠ .gradDie → Still s → Gives (.blockResetDone page) s fun t =>
      t.hdr page oPAGE_CTL = (setBits (s.reg (page + oPAGE_CTL)) 31 31 0).toNat ∧ bit (t.hdr page oPAGE_CTL) 31 = false ∧
      SameRegs s t (fun o => o = page + oPAGE_CTL) ∧ SameBytes s t ∧ SameSeals s t ∧ t.tasks = s.tasks)

/-- `PAGE_CTL`: QUIESCE, EN and the block reset. -/
def Obligations.PageControl : Prop := Claims.QuiesceAndEnableWriteTheirBits ∧ Claims.BlockResetRestoresRegisters

/-- `INT_ENABLE` takes the bits of the page's causes, and raises the page's vector when it enables a bit whose status is 1; `INT_SET` sets
causes, and raises the vector when a bit becomes 1 that is enabled; `INT_STATUS` clears the causes written 1. No other write of them
raises the vector (R51, R52). -/
def Sys2Proof.Claims.InterruptRegistersTakeTheirBits : Prop :=
  ∀ (s : State) (view : View) (page : Nat) (p : PageRef) (v : Word), Writes s view page false → s.power.held = false →
    headerPage page = some p →
    (Gives (.intEnableWrite view page v) s fun t =>
      t.hdr page oINT_ENABLE = v.toNat &&& p.cls.causes ∧
      (let new := ∃ b, b < 32 ∧ bit v.toNat b = true ∧ bit p.cls.causes b = true ∧ bit (s.hdr page oINT_ENABLE) b = false ∧
        bit (s.hdr page oINT_STATUS) b = true
       (new → Raised s t page) ∧ (¬new → t.host = s.host ∧ SameRegs s t (fun o => o = page + oINT_ENABLE))) ∧
      SameRegs s t (fun o => o = page + oINT_ENABLE ∨ OfVector s page o) ∧ SameBytes s t ∧ SameSeals s t) ∧
    (Gives (.intSet view page v) s fun t =>
      t.hdr page oINT_STATUS = s.hdr page oINT_STATUS ||| (v.toNat &&& p.cls.causes) ∧
      (let new := ∃ b, b < 32 ∧ bit v.toNat b = true ∧ bit p.cls.causes b = true ∧ bit (s.hdr page oINT_STATUS) b = false ∧
        bit (s.hdr page oINT_ENABLE) b = true
       (new → Raised s t page) ∧ (¬new → t.host = s.host ∧ SameRegs s t (fun o => o = page + oINT_STATUS))) ∧
      SameRegs s t (fun o => o = page + oINT_STATUS ∨ OfVector s page o) ∧ SameBytes s t ∧ SameSeals s t) ∧
    (Gives (.intStatusClear view page v 0) s fun t =>
      (∀ b, b < 32 → bit (t.hdr page oINT_STATUS) b = (bit (s.hdr page oINT_STATUS) b && !(bit v.toNat b && bit p.cls.causes b))) ∧
      t.host = s.host ∧ SameRegs s t (fun o => o = page + oINT_STATUS) ∧ SameBytes s t ∧ SameSeals s t) ∧
    exec (.registerWrite (.regs view) (page + oINT_ENABLE) v) s = exec (.intEnableWrite view page v) s ∧
    exec (.registerWrite (.regs view) (page + oINT_SET) v) s = exec (.intSet view page v) s

/-- If a cause sets a bit in the same clock as a W1C write clears it, the bit stays 1 and, where it is enabled, the page raises its vector
again (R52). -/
def Obligations.CauseInTheSameClockRaisesAgain : Prop :=
  ∀ (s : State) (view : View) (page : Nat) (p : PageRef) (b : Nat) (mask setNow : Word), Writes s view page false → s.power.held = false →
    headerPage page = some p → b < 32 → bit p.cls.causes b = true → bit mask.toNat b = true → bit setNow.toNat b = true →
    Gives (.intStatusClear view page mask setNow) s fun t =>
      Caused t page b ∧ (bit (s.hdr page oINT_ENABLE) b = true → Raised s t page) ∧
      SameRegs s t (fun o => o = page + oINT_STATUS ∨ OfVector s page o) ∧ SameBytes s t ∧ SameSeals s t

/-- A grant register takes what is written, the bits of the classes that are never granted there excepted; `HOST_LEVEL` takes the level
written, at most `DEV_LEVEL` 1.1, and 1.0 for a level below it, which counts as one clamp of the register (R34 to R36, R45, R47). -/
def Obligations.GrantAndLevelWrites : Prop :=
  ∀ (s : State) (reg : Fin 7) (w : Word), Writes s .bar0 pgDevice true →
    (Gives (.grantWrite .bar0 reg w) s fun t =>
      (4 ≤ reg.val → t.reg (pgDevice + R.DEVICE.GRANT_CLASS.off + 4 * reg) = w) ∧
      (∀ c : Cls, c.code / 32 = reg.val →
        bit (t.reg (pgDevice + R.DEVICE.GRANT_CLASS.off + 4 * reg)).toNat (c.code % 32) = (grantableClass c && bit w.toNat (c.code % 32))) ∧
      SameRegs s t (fun o => o = pgDevice + R.DEVICE.GRANT_CLASS.off + 4 * reg) ∧ SameBytes s t ∧ SameSeals s t) ∧
    ((∀ q, q < 64 → s.queueOn q = false) → Gives (.hostLevelWrite .bar0 w) s fun t =>
      t.rf pgDevice R.DEVICE.HOST_LEVEL_MAJOR = 1 ∧
      t.rf pgDevice R.DEVICE.HOST_LEVEL_MINOR = (if w.toNat % 65536 ≤ 0x100 then 0 else 1) ∧
      (0x100 ≤ w.toNat % 65536 → SameRegs s t (fun o => o = pgDevice + R.DEVICE.HOST_LEVEL_MAJOR.off)) ∧
      (w.toNat % 65536 < 0x100 → t.rf pgDevice R.DEVICE.CLAMP_COUNT = up32 (s.rf pgDevice R.DEVICE.CLAMP_COUNT) ∧
        t.rf pgDevice R.DEVICE.CLAMP_LAST_VIEW = 0 ∧ t.rf pgDevice R.DEVICE.CLAMP_LAST_OFFSET = R.DEVICE.HOST_LEVEL_MAJOR.off ∧
        SameRegs s t (fun o => o = pgDevice + R.DEVICE.HOST_LEVEL_MAJOR.off ∨ Clamps o)) ∧ SameBytes s t ∧ SameSeals s t)

/-- A write of `HOST_LEVEL` while a graph queue is enabled is ignored, and logs event 0x0D02 (R48). -/
def Obligations.LevelWriteIgnoredWhileQueueEnabled : Prop :=
  ∀ (s : State) (q : Nat) (w : Word), Writes s .bar0 pgDevice true → q < 64 → s.queueOn q = true →
    Gives (.hostLevelWrite .bar0 w) s fun t =>
      t.reg (pgDevice + R.DEVICE.HOST_LEVEL_MAJOR.off) = s.reg (pgDevice + R.DEVICE.HOST_LEVEL_MAJOR.off) ∧
      t.record.nextSeq = s.record.nextSeq + 1 ∧
      (∃ e : Entry, e.code = 0x0D02 ∧ e.seq = s.record.nextSeq ∧ e ∈ t.record.queue) ∧ Caused t pgDevice 1 ∧
      SameRegs s t (fun o => o = pgDevice + oINT_STATUS ∨ Reports o) ∧ SameBytes s t ∧ SameSeals s t

/-- `COUNT_CLEAR` of a page: its counters read 0 and every other register is unchanged, the totals of a watch being counters of it; at a
crossing point while a task holds the page it is posted (R13, R122, R193, R219, R245, R262, R300, R327, R376, R401, R438). -/
def Sys2Proof.Claims.CountClearsZeroTheirCounters : Prop :=
  ∀ (s : State) (c : Instr) (v : View) (page : Nat) (rs : List (Nat × Nat)), countClear c = some (v, page, rs) → Writes s v page false →
    let crossing := ∃ p, pageAt page = some p ∧ p.cls.crossing = true
    (¬crossing ∨ s.betweenTasks page = true → Gives c s fun t =>
      (∀ o, cleared page rs o → t.reg o = 0) ∧ SameRegs s t (cleared page rs) ∧ SameBytes s t ∧ SameSeals s t ∧ t.tasks = s.tasks ∧
      (∀ q : Quad, c = .numwatchCountClear v q → ∀ l, l % 4 = q.val → (t.layer l).totals = List.replicate 8 Counts.none ∧
        (t.layer l).ratio = 0 ∧ (t.layer l).ratioMx = 0 ∧ (t.layer l).alarms = 0 ∧ (t.layer l).window = (s.layer l).window)) ∧
    (crossing → s.betweenTasks page = false → Gives c s fun t => ∃ p : PageRef, ∃ o, pageAt page = some p ∧ p.cls.clearOff = some o ∧
      t = { s with posted := s.posted ++ [⟨v, page + o, 1⟩] })

/-- `COUNT_CLEAR` of a memory controller and of the POWER page: the bytes read and written and the other counters read 0, the fields beside
them keep their values (R327, R473). -/
def Sys2Proof.Claims.ControllerAndPowerCountClear : Prop :=
  (∀ (s : State) (v : View) (n : Die8) (tierB : Bool) (i : Fin 4), Writes s v (if tierB then pgTierB n i else pgStack n i) false →
    Gives (.controllerCountClear v n tierB i) s fun t =>
      let page := if tierB then pgTierB n i else pgStack n i
      (∀ o, o = R.CTL.RD_BYTES_LO.off ∨ o = R.CTL.RD_BYTES_HI.off ∨ o = R.CTL.WR_BYTES_LO.off ∨ o = R.CTL.WR_BYTES_HI.off →
        t.regWord .bar0 (page + o) = 0) ∧
      (∀ g, g ≠ page → aget t.traffic g (0, 0) = aget s.traffic g (0, 0)) ∧
      t.rf page R.CTL.CE_COUNT = 0 ∧ t.rf page R.CTL.UE_COUNT = 0 ∧
      SameRegs s t (fun o => o = page + R.CTL.CE_COUNT.off ∨ o = page + R.CTL.UE_COUNT.off) ∧ SameBytes s t ∧ SameSeals s t) ∧
  (∀ (s : State) (v : View), Writes s v pgPower false →
    Gives (.powerCountClear v) s fun t =>
      t.rf pgPower R.POWER.INPUT_W_PEAK = 0 ∧ t.rf pgPower R.POWER.LIMIT_MS = 0 ∧
      getBits (t.reg (pgPower + 0x108)) 15 0 = getBits (s.reg (pgPower + 0x108)) 15 0 ∧
      SameRegs s t (fun o => o = pgPower + 0x108 ∨ o = pgPower + 0x13C) ∧ SameBytes s t ∧ SameSeals s t)

/-- Every `COUNT_CLEAR` zeroes the counters that its chapter names, and nothing else. -/
def Obligations.CountClears : Prop := Claims.CountClearsZeroTheirCounters ∧ Claims.ControllerAndPowerCountClear

/-- The end of a moderation interval sends the raises merged in it as one message and begins a new interval, or leaves them pending while
the vector is masked; unmasking a vector sends the message that waited, or merges it into the interval that runs; masking sends nothing
(R53). -/
def Sys2Proof.Claims.ModerationAndUnmasking : Prop :=
  ∀ (s : State) (v : Fin 2048),
    (aget? s.host.moderating v = some false → Gives (.moderationExpiry v) s fun t =>
      aget? t.host.moderating v = none ∧ t.host.msix = s.host.msix ∧ t.regs = s.regs ∧ SameBytes s t ∧ SameSeals s t) ∧
    (aget? s.host.moderating v = some true → s.masked v = false → Gives (.moderationExpiry v) s fun t =>
      t.host.msix = s.host.msix ++ [s.msixMsg v] ∧ t.vecPending v = false ∧
      aget? t.host.moderating v = (if s.modUs v = 0 then none else some false) ∧
      SameRegs s t (fun o => o = offVecCtl v) ∧ SameBytes s t ∧ SameSeals s t) ∧
    (aget? s.host.moderating v = some true → s.masked v = true → Gives (.moderationExpiry v) s fun t =>
      t.host.msix = s.host.msix ∧ t.vecPending v = true ∧ aget? t.host.moderating v = none ∧
      SameRegs s t (fun o => o = offVecCtl v) ∧ SameBytes s t ∧ SameSeals s t) ∧
    (aget? s.host.moderating v = none → exec (.moderationExpiry v) s = .next s) ∧
    (Gives (.vectorUnmask v) s fun t => t.masked v = false ∧
      (s.masked v = false ∨ s.vecPending v = false → t.host.msix = s.host.msix ∧ t.regs = s.regs) ∧
      (s.masked v = true → s.vecPending v = true → aget? s.host.moderating v = none →
        t.host.msix = s.host.msix ++ [s.msixMsg v] ∧ t.vecPending v = false ∧
        aget? t.host.moderating v = (if s.modUs v = 0 then none else some false)) ∧
      (s.masked v = true → s.vecPending v = true → aget? s.host.moderating v ≠ none →
        t.host.msix = s.host.msix ∧ aget? t.host.moderating v = some true) ∧
      SameRegs s t (fun o => o = offVecCtl v) ∧ SameBytes s t ∧ SameSeals s t) ∧
    (Up s → Gives (.registerWrite .bar4 (16 * v + 12) 1) s fun t => t.masked v = true ∧ t.host.msix = s.host.msix ∧ t.regs = s.regs ∧
      SameBytes s t ∧ SameSeals s t)

/-- The interrupt registers, moderation and masks. -/
def Obligations.InterruptRegisters : Prop := Claims.InterruptRegistersTakeTheirBits ∧ Claims.ModerationAndUnmasking

/-- A host write of Tier B stores its bytes at 0x400_0000_0000 plus the offset; with `HDM_SEAL.EN` 1 every block it touches is sealed again,
with 0 no seal changes (R27, R29). -/
def Sys2Proof.Claims.HostWriteStoresAndSeals : Prop :=
  ∀ (s : State) (off : Nat) (data : List Byte), Up s → 3 ≤ s.devState → off + data.length ≤ hdmSize →
    Gives (.hostMemWrite off data) s fun t =>
      (∀ i, (h : i < data.length) → t.byte (tierBBase + off + i) = data[i]) ∧
      (∀ a, a < tierBBase + off ∨ tierBBase + off + data.length ≤ a → t.byte a = s.byte a) ∧
      (s.rf pgHost R.HOST.HDM_SEAL_EN = 1 →
        (∀ k ∈ blocksOf (tierBBase + off) data.length, t.sealEntry k = t.sealOf k) ∧
        (∀ k, k ∉ blocksOf (tierBBase + off) data.length → t.sealEntry k = s.sealEntry k)) ∧
      (s.rf pgHost R.HOST.HDM_SEAL_EN = 0 → SameSeals s t) ∧ t.regs = s.regs ∧ t.tasks = s.tasks

/-- A host read of a good line answers its 64 bytes and sets the host-held mark of the line; the response to the snoop of a line clears the
mark (R27, R28). -/
def Sys2Proof.Claims.HostReadMarksTheLine : Prop :=
  ∀ (s : State) (off : Nat), Up s → 3 ≤ s.devState → off / 64 * 64 + 64 ≤ hdmSize →
    (s.host.badLines.contains ((tierBBase + off) / 64) = false → Gives (.hostMemRead off) s fun t =>
      t.reply = .bytes (s.bytes (64 * ((tierBBase + off) / 64)) 64) ∧ (tierBBase + off) / 64 ∈ t.host.marks ∧
      t.regs = s.regs ∧ t.mem = s.mem ∧ t.seals = s.seals) ∧
    (∀ line ∈ s.host.snoops, Gives (.backInvalidateResponse line) s fun t =>
      line ∉ t.host.marks ∧ line ∉ t.host.snoops ∧ (∀ l, l ≠ line → (l ∈ t.host.marks ↔ l ∈ s.host.marks)) ∧
      t.regs = s.regs ∧ t.mem = s.mem ∧ t.seals = s.seals)

/-- A host read of a line with an uncorrectable error returns poison and logs event 0x0D05 (R31). -/
def Obligations.PoisonIsReturnedAndLogged : Prop :=
  ∀ (s : State) (off : Nat), Up s → 3 ≤ s.devState → off / 64 * 64 + 64 ≤ hdmSize →
    s.host.badLines.contains ((tierBBase + off) / 64) = true → Gives (.hostMemRead off) s fun t =>
      t.reply = .poison ∧
      (∃ e : Entry, e.code = 0x0D05 ∧ e.detail = [64 * ((tierBBase + off) / 64)] ∧ e.seq = s.record.nextSeq ∧ e ∈ t.record.queue) ∧
      t.rf pgHost R.HOST.POISON_COUNT = up32 (s.rf pgHost R.HOST.POISON_COUNT) ∧ Caused t pgHost 2 ∧
      SameRegs s t (fun o => o = pgHost + R.HOST.POISON_COUNT.off ∨ o = pgHost + oINT_STATUS ∨ Reports o) ∧ SameBytes s t ∧ SameSeals s t

/-- A waiting request of the host port is issued while fewer than 512 are outstanding, and waits otherwise (R26). -/
def Sys2Proof.Claims.CacheRequestsAtMost512 : Prop :=
  ∀ s : State, 0 < s.host.waiting →
    (s.rf pgHost R.HOST.CACHE_INFLIGHT_COUNT < 512 → Gives .cacheRequestIssue s fun t =>
      t.rf pgHost R.HOST.CACHE_INFLIGHT_COUNT = s.rf pgHost R.HOST.CACHE_INFLIGHT_COUNT + 1 ∧ t.host.waiting + 1 = s.host.waiting ∧
      SameRegs s t (fun o => o = pgHost + R.HOST.CACHE_INFLIGHT_COUNT.off) ∧ SameBytes s t ∧ SameSeals s t) ∧
    (512 ≤ s.rf pgHost R.HOST.CACHE_INFLIGHT_COUNT → exec .cacheRequestIssue s = .next s)

/-- The host's accesses to device memory and the device's requests to host memory. -/
def Obligations.HostMemory : Prop := Claims.HostWriteStoresAndSeals ∧ Claims.HostReadMarksTheLine ∧ Claims.CacheRequestsAtMost512

/-- A configuration request is answered with Retry Status in `DEV_STATE` 0x1 and 0x2 and with a completion from 0x3, where words 0 and 2
carry the device ID and the class code; a change of the link sets `LINK_STATUS`, and event 0x0D03 is logged; an IDE failure on a protocol
with IDE active is counted and logged, with none of its flit used in containment mode; in skid mode the flit has been used and the RAS
capability reports so (R56, R57, R471; the place of the capability is the model's, log 60). -/
def Sys2Proof.Claims.ConfigurationAndLink : Prop :=
  ∀ s : State, Up s →
    (∀ w d, s.devState = 1 ∨ s.devState = 2 → exec (.configRequest w d) s = .next { s with reply := .retryStatus }) ∧
    (∀ d, 3 ≤ s.devState → Gives (.configRequest false d) s fun t => ∃ w : Word, t.reply = .configDone w ∧
      (d.val = 0 → w.toNat / 2 ^ 16 = 0x2100) ∧ (d.val = 2 → w.toNat / 2 ^ 8 = 0x120000) ∧
      t.regs = s.regs ∧ t.mem = s.mem ∧ t.seals = s.seals) ∧
    (∀ d, 3 ≤ s.devState → exec (.configRequest true d) s = .next { s with reply := .configDone 0 }) ∧
    (∀ l : CxlLink, s.devState ≠ 0 → linkWidth l.width = true → Gives (.cxlLinkChange l) s fun t =>
      t.rf pgHost R.HOST.LINK_STATUS_WIDTH = l.width ∧ t.rf pgHost R.HOST.LINK_STATUS_RATE = l.rate ∧
      t.rf pgHost R.HOST.LINK_STATUS_UP = b2n l.up ∧ t.rf pgHost R.HOST.LINK_STATUS_LOPT = b2n l.lopt ∧
      t.rf pgHost R.HOST.LINK_STATUS_IDE_IO = b2n l.ideIo ∧ t.rf pgHost R.HOST.LINK_STATUS_IDE_CM = b2n l.ideCm ∧
      (s.reg offLink ≠ CxlLink.word l → Caused t pgHost 0 ∧
        ∃ e : Entry, e.code = 0x0D03 ∧ e.detail = [(CxlLink.word l).toNat] ∧ e.seq = s.record.nextSeq ∧ e ∈ t.record.queue) ∧
      SameRegs s t (fun o => o = offLink ∨ o = pgHost + oINT_STATUS ∨ Reports o) ∧ SameBytes s t ∧ SameSeals s t) ∧
    (∀ stream proto d, s.ideOn proto = true → s.sec.skid = false → Gives (.ideIntegrityFailure stream ⟨proto, d⟩) s fun t =>
      t.rf pgHost R.HOST.IDE_ERR_COUNT = up32 (s.rf pgHost R.HOST.IDE_ERR_COUNT) ∧ Caused t pgHost 1 ∧
      (∃ e : Entry, e.code = 0x0D04 ∧ e.detail = [stream.toNat, protoCode proto] ∧ e.seq = s.record.nextSeq ∧ e ∈ t.record.queue) ∧
      SameRegs s t (fun o => o = pgHost + R.HOST.IDE_ERR_COUNT.off ∨ o = pgHost + oINT_STATUS ∨ Reports o) ∧ SameBytes s t ∧ SameSeals s t) ∧
    (∀ stream off data u, s.ideOn .mem = true → s.sec.skid = true → exec (.hostMemWrite off data) s = .next u →
      Gives (.ideIntegrityFailure stream ⟨.mem, .memWrite off data⟩) s fun t =>
        t.mem = u.mem ∧ t.seals = u.seals ∧ bit (t.bar4Word 0x11080).toNat 16 = true ∧ Caused t pgHost 1 ∧
        t.rf pgHost R.HOST.IDE_ERR_COUNT = up32 (s.rf pgHost R.HOST.IDE_ERR_COUNT))

/-- The requests through the DOE mailbox that the manual answers: the attribute table, the certificate chain, a measurement, the key
exchange, signed over the SM3 hash of the transcript, which opens a session; within the session IDE on and off and its mode, with answers
that leave encrypted and authenticated. A message that the manual does not describe is refused by name (R21, R23, R449 to R451). -/
def Sys2Proof.Claims.SpdmAnswers : Prop :=
  ∀ s : State, Up s → 3 ≤ s.devState →
    exec (.spdmRequest ⟨false, .cdat⟩) s = .next { s with reply := .bytes cdatTable } ∧
    (∀ a n, Gives (.spdmRequest ⟨false, .certificate a n⟩) s fun t => (∃ b, t.reply = .bytes b ∧
      b.length = Nat.min n (s.rf pgSecurity R.SECURITY.CERT_LEN - a) ∧ ∀ i, (h : i < b.length) → b[i] = Config.certByte (a + i)) ∧
      t.regs = s.regs ∧ t.mem = s.mem ∧ t.seals = s.seals) ∧
    (∀ i, 1 ≤ i → i ≤ 4 → exec (.spdmRequest ⟨false, .measurement i⟩) s = .next { s with reply := .bytes (s.measurement i) }) ∧
    (∀ h, Gives (.spdmRequest ⟨false, .keyExchange h⟩) s fun t => t.sec.session = true ∧ t.sec.msgNo = 0 ∧
      t.reply = .bytes ((List.range 64).map (Config.sm2Sign s.fresh (sm3 h))) ∧
      t.rf pgSecurity R.SECURITY.SIGN_COUNT = up32 (s.rf pgSecurity R.SECURITY.SIGN_COUNT) ∧
      SameRegs s t (fun o => o = pgSecurity + R.SECURITY.SIGN_COUNT.off) ∧ SameBytes s t ∧ SameSeals s t) ∧
    (s.sec.session = true →
      (∀ on, Gives (.spdmRequest ⟨true, .ideKey .io on⟩) s fun t => t.sec.ideIo = on ∧ t.sec.ideCm = s.sec.ideCm ∧
        t.rf pgHost R.HOST.LINK_STATUS_IDE_IO = b2n on ∧ t.reply = .spdmDone ∧
        SameRegs s t (fun o => o = offLink ∨ o = pgHost + oINT_STATUS ∨ Reports o) ∧ SameBytes s t ∧ SameSeals s t) ∧
      (∀ on, ∀ p ∈ [CxlProtocol.cache, .mem], Gives (.spdmRequest ⟨true, .ideKey p on⟩) s fun t => t.sec.ideCm = on ∧
        t.sec.ideIo = s.sec.ideIo ∧ t.rf pgHost R.HOST.LINK_STATUS_IDE_CM = b2n on ∧ t.reply = .spdmDone ∧
        SameRegs s t (fun o => o = offLink ∨ o = pgHost + oINT_STATUS ∨ Reports o) ∧ SameBytes s t ∧ SameSeals s t) ∧
      (∀ skid, Gives (.spdmRequest ⟨true, .ideMode skid⟩) s fun t => t.sec.skid = skid ∧ t.reply = .spdmDone ∧ t.regs = s.regs ∧
        t.mem = s.mem ∧ t.seals = s.seals) ∧
      (∀ i, 1 ≤ i → i ≤ 4 → Gives (.spdmRequest ⟨true, .measurement i⟩) s fun t =>
        t.reply = .secured ((List.range ((s.measurement i).length + 16)).map (Config.sm4Gcm s.sec.msgNo (s.measurement i))) ∧
        t.sec.msgNo = s.sec.msgNo + 1 ∧ t.regs = s.regs ∧ t.mem = s.mem ∧ t.seals = s.seals)) ∧
    (∀ r, (∀ code, r ≠ .other code) → s.sec.session = false → exec (.spdmRequest ⟨true, r⟩) s = .next s) ∧
    (∀ secured code, exec (.spdmRequest ⟨secured, .other code⟩) s = .refused (.spdmOutsideManual code.toNat))

/-- Configuration accesses, the CXL link and SPDM requests. -/
def Obligations.HostConfigurationAndSpdm : Prop := Claims.ConfigurationAndLink ∧ Claims.SpdmAnswers

namespace Sys2Proof.Claims

open Machine

/-- Every array die that a task's placement descriptor names has its clock, and no line that the task touches is marked. -/
def ArrayGo (s : State) (t : Task) (rs : List (Nat × Nat)) : Prop :=
  (∀ e ∈ (placeOf (s.bytes (t.addr 32) 4096)).ents, s.clocked (pllArray (entryDie e)) = true) ∧ s.markedIn rs = []

/-- The placement descriptor of an array task lies in installed memory, passes its seal and is well formed (R155). -/
def PlaceGood (s : State) (t : Task) : Prop :=
  faultIn (t.addr 32) 4096 = none ∧ s.blockOk (t.addr 32 / 4096) = true ∧ (placeOf (s.bytes (t.addr 32) 4096)).check = 0

/-- The placement descriptor that a task names. -/
def placed (s : State) (t : Task) : Place := placeOf (s.bytes (t.addr 32) 4096)

/-- The ranges that an array read touches, and of them those that its outputs go to: elements, exponents and zero maps (Table 4-9). -/
def readRanges (s : State) (t : Task) (rev : Bool) : List (Nat × Nat) := arrayRanges t (placed s t) (s.bytes (t.addr 40) 64) rev

/-- Nothing of memory and no seal has changed outside some ranges and their blocks. -/
def OnlyIn (s u : State) (rs : List (Nat × Nat)) : Prop :=
  (∀ a, (∀ r ∈ rs, a < r.1 ∨ r.1 + r.2 ≤ a) → u.byte a = s.byte a) ∧
  (∀ k, (∀ r ∈ rs, k ∉ blocksOf r.1 r.2) → u.sealEntry k = s.sealEntry k)

/-- The registers that tasks of the dies change: the pages of the quadrants, the scheduler's page, and what reports them. -/
def OfDies (o : Nat) : Prop := (0x400000 ≤ o ∧ o < 0x1400000) ∨ InPage pgSched o ∨ Reports o

/-- The count of dispatched tasks (Table 11-12). -/
def Dispatched (o : Nat) : Prop := o = pgSched + R.GRAPH_SCHED.DISPATCH_LO.off ∨ o = pgSched + R.GRAPH_SCHED.DISPATCH_HI.off

/-- A panel waits for nothing that its controller still owes it: no retirement, and a write count below its limit (R141, R142). -/
def NoRetirementDue (s : State) (die page : Nat) : Prop :=
  (s.panel page).retireAs = none ∧ s.writes page < s.rf (pgArrayDie die) R.ARRAY_DIE.WEAR_LIMIT

/-- The task is left finished with a status, its other data kept. -/
def Finished (u : State) (n st detail : Nat) : Prop := ∃ t e d, u.task? n = some t ∧ t.phase = .finished st detail e d

/-- An event has been logged with its details, and waits to be programmed or is programmed. -/
def Logged (s u : State) (code : Nat) (detail : List Nat) : Prop :=
  s.record.nextSeq < u.record.nextSeq ∧
  ∃ e : Entry, e.code = code ∧ e.detail = detail ∧ s.record.nextSeq ≤ e.seq ∧ (e ∈ u.record.queue ∨ ∃ b ∈ u.record.blocks, e ∈ b)

end Sys2Proof.Claims

/-- ARRAY_FWD and ARRAY_REV: with no tokens a task completes DONE and writes nothing; one whose descriptor passes its checks, with a format
that arrays take and a panel behind every entry, is handed over, the check of the descriptor counted; while none of its panels is free it
runs with every entry still to start; and whatever its reads meet, memory changes only in the ranges of its outputs, and registers only in
the pages of the dies and the scheduler (R113, R120, R152, R158). -/
def Sys2Proof.Claims.ArrayReadsStartWhenChecksPass : Prop :=
  ∀ (s : State) (n : Nat) (t : Task) (rev : Bool), s.dispatchable n [if rev then 0x12 else 0x11] = some t → ArrayGo s t (readRanges s t rev) →
    (t.fld 48 4 = 0 → Gives (if rev then .arrayRev n else .arrayFwd n) s fun u =>
      Finished u n stDone 0 ∧ SameBytes s u ∧ SameSeals s u ∧ SameRegs s u Dispatched) ∧
    (∀ fi fo, t.fld 48 4 ≠ 0 → PlaceGood s t → arrIn t = some fi → arrOut t = some fo → (∀ e ∈ (placed s t).ents, s.entryAlias e ≠ 0xFF) →
      exec (if rev then .arrayRev n else .arrayFwd n) s =
        .next (((s.cacheUse (4096 * (t.addr 32 / 4096)) 4096).check [t.addr 32 / 4096] 0).handArray t (s.arrayUnit (t.addr 32) 0)
          (s.bytes (t.addr 32) 4096) rev fo) ∧
      ((∀ e ∈ (placed s t).ents, s.panelFree (s.entryPage e) = false) → s.arrayRun? n = none →
        Gives (if rev then .arrayRev n else .arrayFwd n) s fun u =>
          (∃ k, u.task? n = some k ∧ k.phase = .running ∧ k.unit = s.arrayUnit (t.addr 32) 0 ∧ k.pages = []) ∧
          (∃ r, u.arrayRun? n = some r ∧ r.rev = rev ∧ r.place = s.bytes (t.addr 32) 4096 ∧ r.todo = List.range (placed s t).count ∧
            r.tokens = arrTokens t ∧ r.written = 0) ∧ u.arrOrder = s.arrOrder ++ [n] ∧ SameBytes s u ∧ SameSeals s u)) ∧
    (s.arrayRun? n = none → Gives (if rev then .arrayRev n else .arrayFwd n) s fun u =>
      OnlyIn s u ((readRanges s t rev).drop 4) ∧ SameRegs s u OfDies ∧ (∃ k, u.task? n = some k ∧ k.isHanded = true))

/-- An array read whose placement descriptor fails a check of Table 6-4 is ABORTED with the check in `DETAIL` and event 0x0120; one that
names a reserved format is ABORTED with event 0x0108; neither writes anything (R120, R124, R155). -/
def Sys2Proof.Claims.ArrayReadRefusesABadDescriptor : Prop :=
  ∀ (s : State) (n : Nat) (t : Task) (rev : Bool), s.dispatchable n [if rev then 0x12 else 0x11] = some t →
    ArrayGo s t (readRanges s t rev) → t.fld 48 4 ≠ 0 → faultIn (t.addr 32) 4096 = none → s.blockOk (t.addr 32 / 4096) = true →
    (∀ fi fo c, arrIn t = some fi → arrOut t = some fo → (placed s t).check = c → c ≠ 0 →
      Gives (if rev then .arrayRev n else .arrayFwd n) s fun u =>
        Finished u n stAborted c ∧ Logged s u 0x0120 [c, (placed s t).layer, t.addr 32 % 2 ^ 32] ∧
        u.record.nextSeq = s.record.nextSeq + 1 ∧ SameBytes s u ∧ SameSeals s u) ∧
    (arrIn t = none ∨ arrOut t = none → Gives (if rev then .arrayRev n else .arrayFwd n) s fun u =>
      Finished u n stAborted 0 ∧ Logged s u 0x0108 [s.entryAlias (nth (placed s t).ents 0 0), t.fld 52 1 % 64, t.fld 53 1 % 64] ∧
        u.record.nextSeq = s.record.nextSeq + 1 ∧ SameBytes s u ∧ SameSeals s u)

/-- ARRAY_FWD and ARRAY_REV at dispatch: the checks, the start, and a refusal. -/
def Obligations.ArrayReads : Prop := Claims.ArrayReadsStartWhenChecksPass ∧ Claims.ArrayReadRefusesABadDescriptor

/-- An addition of R156: the receiver's partial becomes the binary32 sum of its own and its sender's, and the sender's is gone, stated where
the token still has another addition to come. A partial that fails its seal at the receiver ends the task SEAL_MISMATCH with event 0x0122,
and the token is not written (R156, R157). -/
def Obligations.CrossPanelAdditionSums : Prop :=
  ∀ (s : State) (n group token recv k : Nat) (t : Task) (r : ArrayRun) (fi fo : Fmt) (a b : Partial),
    s.task? n = some t → s.arrayRun? n = some r → arrIn t = some fi → arrOut t = some fo → r.todo = [] →
    r.written = token → r.written < r.tokens → nextSender (s.slabsLeft n group token) recv = some k →
    nextSender (s.slabsLeft n group token) k = none → k ≠ recv →
    s.partials.filter (fun p => p.task == n && p.group == group && p.token == token && p.slab == recv) = [a] →
    s.partials.filter (fun p => p.task == n && p.group == group && p.token == token && p.slab == k) = [b] →
    ((∃ p ∈ s.partials, p.task = n ∧ p.token = token ∧ p.slab ≠ 0 ∧ ¬(p.group = group ∧ (p.slab = k ∨ p.slab = recv))) →
      Gives (.crossPanelPartial n group token recv true) s fun u =>
        u.partials.filter (fun p => p.task == n && p.group == group && p.token == token && p.slab == recv) =
          [⟨n, group, token, recv, (List.range a.vals.length).map fun i => add32 (nth a.vals i 0) (nth b.vals i 0)⟩] ∧
        u.partials.filter (fun p => p.task == n && p.group == group && p.token == token && p.slab == k) = [] ∧
        u.regs = s.regs ∧ u.mem = s.mem ∧ u.seals = s.seals) ∧
    (r.ending = none → Gives (.crossPanelPartial n group token recv false) s fun u =>
      Finished u n stSeal 0 ∧ u.arrayRun? n = none ∧ (∀ p ∈ u.partials, p.task ≠ n) ∧ SameBytes s u ∧ SameSeals s u ∧
      Logged s u 0x0122 [if r.rev then k * r.placement.slabs + group else group * r.placement.slabs + k,
        if r.rev then recv * r.placement.slabs + group else group * r.placement.slabs + recv, token % 65536])

/-- An ARRAY_LOAD of one entry whose checks pass takes its panel, makes it loading and records its image; a FULL load counts a write of it
at once, a DIFF load of settled content only with its first change; with no entries the task completes DONE (R131, R132, R139). -/
def Sys2Proof.Claims.ArrayLoadStarts : Prop :=
  ∀ (s : State) (n : Nat) (t : Task), s.dispatchable n [0x10] = some t → ArrayGo s t (loadRanges t) →
    (t.fld 62 2 % 1024 = 0 → Gives (.arrayLoad n) s fun u => Finished u n stDone 0 ∧ SameBytes s u ∧ SameSeals s u ∧ SameRegs s u Dispatched) ∧
    (∀ e, PlaceGood s t → t.fld 62 2 % 1024 = 1 → t.fld 60 2 < (placed s t).count →
      e = nth (placed s t).ents (t.fld 60 2) 0 → s.entryAlias e < 68 → s.panelFree (s.entryPage e) = true →
      s.arrOrder = [] → s.arrayRun? n = none → s.loadRun? n = none →
      faultIn (t.addr 40 / 4096 * 4096) 4096 = none → s.blockOk (t.addr 40 / 4096) = true →
      (s.imageHead (t.addr 40 / 4096 * 4096)).2.1 = (placed s t).fmt →
      (s.imageHead (t.addr 40 / 4096 * 4096)).1 = t.fld 56 4 → t.fld 56 4 ≠ 0 →
      Gives (.arrayLoad n) s fun u =>
        (∃ k, u.task? n = some k ∧ k.phase = .running ∧ k.pages = [s.entryPage e]) ∧ u.content (s.entryPage e) = 1 ∧
        u.recorded (s.entryPage e) = (t.addr 40 / 4096 * 4096, 32 * t.fld 60 2) ∧
        (∃ l ∈ u.loads, l.page = s.entryPage e ∧ l.kind = .task n ∧ l.next = 0 ∧ l.tag = t.fld 56 4 ∧
          l.diff = (t.fld 62 2 / 2 ^ 14 == 1 && s.diffActs (s.entryPage e) (placed s t).fmt) ∧
          u.writes (s.entryPage e) = if l.diff = true then s.writes (s.entryPage e) else Nat.min (s.writes (s.entryPage e) + 1) (2 ^ 64 - 1)) ∧
        SameBytes s u ∧ SameSeals s u ∧ SameRegs s u OfDies)

/-- A good block of codes that arrives at its panel is in the code copy; after the last block of an image the panel is valid and holds
the image's tag; a block that fails its seal ends the load of its panel, which is then invalid, and is logged (R129, R132, R487). -/
def Sys2Proof.Claims.LoadBlockArrives : Prop :=
  ∀ (s : State) (die : Die8) (panel : PanelNo) (l : Load) (n a : Nat), s.clocked (pllArray die) = true →
    (s.loads.find? fun l => l.page == pgPanel die panel) = some l → l.kind = .task n → l.blockAddr l.next = some a → s.markedIn [(a, 4096)] = [] →
    faultIn a 4096 = none →
    (s.blockOk (a / 4096) = true → l.next < 16 * l.tilesHere → Gives (.loadBlockArrival die panel .good) s fun u =>
      (∀ i, i < 4096 → memByte (u.panel (pgPanel die panel)).copy
        (65536 * (l.next % l.tilesHere) + 4096 * (l.next / l.tilesHere) + i) = s.byte (a + i)) ∧
      (∃ l' ∈ u.loads, l'.page = pgPanel die panel ∧ l'.next = l.next + 1) ∧ SameBytes s u ∧ SameSeals s u ∧ SameRegs s u OfDies) ∧
    (s.blockOk (a / 4096) = true → 16 * l.tilesHere ≤ l.next → l.next + 1 = l.blockCount → Gives (.loadBlockArrival die panel .good) s fun u =>
      u.content (pgPanel die panel) = 2 ∧ u.rf (pgPanel die panel) R.PANEL.CONTENT_TAG = l.tag % 2 ^ 32 ∧
      (∀ x ∈ u.loads, x.page ≠ pgPanel die panel) ∧ SameBytes s u ∧ SameSeals s u ∧ SameRegs s u OfDies) ∧
    (s.blockOk (a / 4096) = false → ∀ phys, Gives (.loadBlockArrival die panel phys) s fun u =>
      u.content (pgPanel die panel) = 0 ∧ u.rf (pgPanel die panel) R.PANEL.CONTENT_TAG = 0 ∧ (∀ x ∈ u.loads, x.page ≠ pgPanel die panel) ∧
      Logged s u 0x0110 [panel, 4096 * (a / 4096)] ∧ Caused u (pgPanel die panel) 1 ∧ SameBytes s u ∧ SameSeals s u ∧ SameRegs s u OfDies)

/-- ARRAY_LOAD: its start, and the arrival of its blocks. -/
def Obligations.ArrayLoads : Prop := Claims.ArrayLoadStarts ∧ Claims.LoadBlockArrives

/-- A valid panel that reaches the refresh age becomes aged; under `AUTO` its refresh makes it loading at a gap between its tasks; a
refresh that ends well leaves it valid with age 0, and one whose image has another tag leaves it aged, deferred, with event 0x0119 (R136;
stated where no task waits for a panel and no retirement is due). -/
def Sys2Proof.Claims.PanelAgesAndIsRefreshed : Prop :=
  ∀ (s : State) (die : Die8) (panel : PanelNo),
    (s.content (pgPanel die panel) = 2 →
      s.rf (pgArrayDie die) R.ARRAY_DIE.REFRESH_AGE_AGE ≤ s.rf (pgPanel die panel) R.PANEL.CONTENT_AGE →
      Gives (.panelAged die panel) s fun u => u.content (pgPanel die panel) = 3 ∧ Caused u (pgPanel die panel) 5 ∧
        SameRegs s u (fun o => o = pgPanel die panel + R.PANEL.CONTENT_STATE.off ∨ o = pgPanel die panel + oINT_STATUS ∨ Reports o) ∧
        SameBytes s u ∧ SameSeals s u) ∧
    (s.content (pgPanel die panel) = 3 → (s.panel (pgPanel die panel)).deferred = false → s.panelFree (pgPanel die panel) = true →
      s.rf (pgArrayDie die) R.ARRAY_DIE.REFRESH_CTL_AUTO = 1 ∨ (s.panel (pgPanel die panel)).due = true →
      Gives (.panelRefresh die panel) s fun u => u.content (pgPanel die panel) = 1 ∧
        u.writes (pgPanel die panel) = Nat.min (s.writes (pgPanel die panel) + 1) (2 ^ 64 - 1) ∧
        (∃ l ∈ u.loads, l.page = pgPanel die panel ∧ l.kind = .refresh ∧ l.image = (s.recorded (pgPanel die panel)).1 ∧
          l.tag = s.rf (pgPanel die panel) R.PANEL.CONTENT_TAG ∧ l.diff = false) ∧ SameBytes s u ∧ SameSeals s u ∧ SameRegs s u OfDies) ∧
    (∀ l, (s.loads.find? fun l => l.page == pgPanel die panel && l.kind == .refresh) = some l → s.clocked (pllArray die) = true →
      s.arrOrder = [] → NoRetirementDue s die (pgPanel die panel) →
      s.markedIn [(l.image, 4096 + 65536 * l.tiles + 1024 * l.tiles)] = [] → rangeOk l.image 4096 = true → s.blockOk (l.image / 4096) = true →
      ((s.imageHead l.image).1 = l.tag → s.firstBadBlock { l with tiles := (s.imageHead l.image).2.2 } = none → l.diff = false →
        Gives (.refreshComplete die panel .good) s fun u => u.content (pgPanel die panel) = 2 ∧
          u.rf (pgPanel die panel) R.PANEL.CONTENT_AGE = 0 ∧ Caused u (pgPanel die panel) 7 ∧ SameBytes s u ∧ SameSeals s u ∧ SameRegs s u OfDies) ∧
      ((s.imageHead l.image).1 ≠ l.tag → Gives (.refreshComplete die panel .good) s fun u =>
        u.content (pgPanel die panel) = 3 ∧ (u.panel (pgPanel die panel)).deferred = true ∧ Caused u (pgArrayDie die) 4 ∧
        Logged s u 0x0119 [panel, l.tag, (s.imageHead l.image).1] ∧ SameBytes s u ∧ SameSeals s u ∧ SameRegs s u OfDies))

/-- The host retires a panel between its tasks: `RETIRED` reads 1 and its cause is recorded; a spare leaves the spares, and a panel that
serves becomes the source of a castling. While a task holds the panel or a load writes it, the retirement waits. The host reinstates a
panel that it retired and that is not worn out: it becomes a spare (R142, R143, R145). -/
def Sys2Proof.Claims.HostRetiresAndReinstates : Prop :=
  ∀ (s : State) (die : Die8) (panel : PanelNo), Writes s .bar0 (pgArrayDie die) true →
    (s.retired (pgPanel die panel) = false → s.betweenTasks (pgPanel die panel) = true → s.loadingPanel (pgPanel die panel) = false →
      (s.servesLogical (pgPanel die panel) = 0xFF → (s.castle die).phase = .idle ∨ (s.castle die).spare ≠ panel →
        Gives (.retireCtlRetire .bar0 die (BitVec.ofNat 7 panel)) s fun u =>
          u.retired (pgPanel die panel) = true ∧ u.content (pgPanel die panel) = 5 ∧
          u.rf (pgArrayDie die) R.ARRAY_DIE.PANEL_REC_CAUSE panel = 3 ∧ Caused u (pgArrayDie die) 3 ∧
          Logged s u 0x0113 [panel, 3, s.writes (pgPanel die panel)] ∧ SameBytes s u ∧ SameSeals s u ∧ SameRegs s u OfDies) ∧
      (∀ x, s.servesLogical (pgPanel die panel) < 64 → s.castle die = Castle.fresh → s.chooseSpare die = some x →
        Gives (.retireCtlRetire .bar0 die (BitVec.ofNat 7 panel)) s fun u =>
          u.retired (pgPanel die panel) = true ∧ u.content (pgPanel die panel) = 4 ∧
          u.aliasOf die (s.servesLogical (pgPanel die panel)) = 0xFE ∧ u.rf (pgArrayDie die) R.ARRAY_DIE.PANEL_REC_CAUSE panel = 3 ∧
          (u.castle die).source = panel ∧ (u.castle die).spare = x ∧ (u.castle die).logical = s.servesLogical (pgPanel die panel) ∧
          (u.castle die).phase = (if (s.panel (pgPanel die panel)).hasCopy then .arbitrating else .remapping) ∧
          Logged s u 0x0114 [panel, x, s.servesLogical (pgPanel die panel)] ∧ SameBytes s u ∧ SameSeals s u ∧ SameRegs s u OfDies)) ∧
    (s.retired (pgPanel die panel) = false → s.betweenTasks (pgPanel die panel) = false ∨ s.loadingPanel (pgPanel die panel) = true →
      Gives (.retireCtlRetire .bar0 die (BitVec.ofNat 7 panel)) s fun u => (u.panel (pgPanel die panel)).retireAs = some 3 ∧
        SameRegs s u (fun o => o = pgArrayDie die + R.ARRAY_DIE.RETIRE_CTL_OP.off) ∧ SameBytes s u ∧ SameSeals s u) ∧
    (s.retired (pgPanel die panel) = true → s.rf (pgArrayDie die) R.ARRAY_DIE.PANEL_REC_CAUSE panel = 3 → s.content (pgPanel die panel) ≠ 4 →
      s.writes (pgPanel die panel) < s.rf (pgArrayDie die) R.ARRAY_DIE.WEAR_LIMIT →
      Gives (.retireCtlReinstate .bar0 die (BitVec.ofNat 7 panel)) s fun u =>
        u.retired (pgPanel die panel) = false ∧ u.content (pgPanel die panel) = 0 ∧ u.servesLogical (pgPanel die panel) = 0xFF ∧
        u.isSpare (pgPanel die panel) = true ∧ u.rf (pgArrayDie die) R.ARRAY_DIE.PANEL_REC_CAUSE panel = 0 ∧
        Logged s u 0x011C [panel, s.writes (pgPanel die panel)] ∧ SameBytes s u ∧ SameSeals s u ∧ SameRegs s u OfDies)

/-- The life of a panel: ageing, refresh, retirement and reinstatement by the host. -/
def Obligations.PanelRefreshAndRetirement : Prop := Claims.PanelAgesAndIsRefreshed ∧ Claims.HostRetiresAndReinstates

/-- The steps of a castling (R143): the arbiter grants the fill, which starts on the spare, or refuses it, and the request is repeated
after 1,024 ticks; a good fill leads to the remap; the remap gives the logical panel to the spare and retires the source. Stated where no
task waits for a panel and the spare is not due for retirement. -/
def Obligations.CastlingGoesThroughItsSteps : Prop :=
  ∀ (s : State) (n : Die8) (c : Castle), s.castle n = c →
    (c.phase = .arbitrating → c.retryAt ≤ s.now → s.grants.find? (conflicts mFill [n]) = none → c.spare < 68 →
      Gives (.spareFillRequest n) s fun u => (u.castle n).phase = .filling ∧ (u.castle n).spare = c.spare ∧ u.holds mFill n = true ∧
        u.content (pgPanel n c.spare) = 1 ∧
        (∃ l ∈ u.loads, l.page = pgPanel n c.spare ∧ l.kind = .fill ∧ l.image = (s.recorded (pgPanel n c.source)).1) ∧
        SameBytes s u ∧ SameSeals s u) ∧
    (c.phase = .arbitrating → c.retryAt ≤ s.now → s.grants.find? (conflicts mFill [n]) ≠ none →
      Gives (.spareFillRequest n) s fun u => (u.castle n).phase = .arbitrating ∧ (u.castle n).retryAt = s.now + 1024 ∧
        u.rf pgMaint R.MAINT.BUSY_COUNT = up32 (s.rf pgMaint R.MAINT.BUSY_COUNT) ∧ u.record.nextSeq = s.record.nextSeq + 1 ∧
        SameBytes s u ∧ SameSeals s u) ∧
    (∀ l, (s.loads.find? fun l => l.page == pgPanel n c.spare && l.kind == .fill) = some l → c.phase = .filling → c.spare < 68 →
      s.clocked (pllArray n) = true → s.markedIn [(l.image, 4096 + 65536 * l.tiles + 1024 * l.tiles)] = [] → l.diff = false →
      rangeOk l.image 4096 = true → s.blockOk (l.image / 4096) = true → NoRetirementDue s n (pgPanel n c.spare) →
      ((s.imageHead l.image).2.1 = 1 ∨ (s.imageHead l.image).2.1 = 2) → (s.imageHead l.image).1 ≠ 0 →
      s.firstBadBlock { l with fmt := (s.imageHead l.image).2.1, tag := (s.imageHead l.image).1, tiles := (s.imageHead l.image).2.2 } = none →
      Gives (.spareFillComplete n .good) s fun u => (u.castle n).phase = .remapping ∧ u.content (pgPanel n c.spare) = 2 ∧
        u.rf (pgPanel n c.spare) R.PANEL.CONTENT_TAG = (s.imageHead l.image).1 ∧ u.holds mFill n = false ∧ SameBytes s u ∧ SameSeals s u ∧
        SameRegs s u (fun o => OfDies o ∨ InPage pgMaint o)) ∧
    (c.phase = .remapping → s.betweenTasks (pgPanel n c.spare) = true → c.queue = [] → c.logical < 64 → c.spare < 68 → c.source < 68 →
      c.spare ≠ c.source → s.loadRuns = [] → s.arrOrder = [] → NoRetirementDue s n (pgPanel n c.spare) →
      Gives (.castlingRemap n) s fun u => u.aliasOf n c.logical = c.spare ∧ u.servesLogical (pgPanel n c.spare) = c.logical ∧
        u.servesLogical (pgPanel n c.source) = 0xFF ∧ u.content (pgPanel n c.source) = 5 ∧ (u.castle n).phase = .idle ∧
        u.rf (pgArrayDie n) R.ARRAY_DIE.CASTLE_COUNT = up32 (s.rf (pgArrayDie n) R.ARRAY_DIE.CASTLE_COUNT) ∧ Caused u (pgArrayDie n) 0 ∧
        Logged s u 0x0115 [c.spare, c.logical, s.rf (pgPanel n c.spare) R.PANEL.CONTENT_TAG] ∧ SameBytes s u ∧ SameSeals s u ∧
        SameRegs s u OfDies)

namespace Sys2Proof.Claims

open Machine

/-- A task runs at a unit's page. -/
def Runs (u : State) (n unit : Nat) : Prop := ∃ t, u.task? n = some t ∧ t.phase = .running ∧ t.unit = unit

/-- A range of bytes that passes its checks: installed, and every block of it good. -/
def Readable (s : State) (a len : Nat) : Prop := faultIn a len = none ∧ s.firstBad (blocksOf a len) = none

/-- No range of a list leaves the installed memory. -/
def AllInstalled (rs : List (Nat × Nat)) : Prop := ∀ r ∈ rs, faultIn r.1 r.2 = none

/-- The key table of a gradient die as its next task sees it: posted writes of the die page are in force (R192). -/
def keyBase (s : State) (q : Nat) : Nat := (s.applyPage (pgGradDie q)).keyTable q

/-- The key table of a gradient die can be read (R181). -/
def KeysGood (s : State) (q : Nat) : Prop := faultIn (keyBase s q) 4096 = none ∧ s.blockOk (keyBase s q / 4096) = true

/-- A GRAD_MM may be dispatched to a die, and no line that it reads then is marked. -/
def GradGo (s : State) (n : Nat) (t : Task) (q : Nat) (x : MatOp) : Prop :=
  s.dispatchable n [0x20] = some t ∧ s.pickUnit 0x20 t.hint = some q ∧ s.clocked (pllGrad q) = true ∧
    x = matOp t (s.bytes (t.addr 32) 128) ∧ s.markedIn ([(t.addr 32, 128), (keyBase s q, 4096)] ++ x.reads) = []

/-- A vector task of a type may be dispatched to a die, and no line that it reads then is marked. -/
def VecGo (s : State) (n type : Nat) (t : Task) (q : Nat) (o : List Byte) (x : VecOp) : Prop :=
  s.dispatchable n [type] = some t ∧ s.pickUnit type t.hint = some q ∧ s.clocked (pllGrad q) = true ∧
    o = s.bytes (vecOpnd t).1 (vecOpnd t).2 ∧ x = vecOp t o ∧ s.markedIn (s.vecRanges t q) = []

/-- A task refused at dispatch: finished with a status and a check, its run never begun, nothing of memory or of a seal changed, and
registers only in the pages of the dies and the scheduler, where no posted write waits. -/
def TurnedAway (s u : State) (n st detail : Nat) : Prop :=
  Finished u n st detail ∧ u.gradRuns = s.gradRuns ∧ u.vecRuns = s.vecRuns ∧ SameBytes s u ∧ SameSeals s u ∧ (s.posted = [] → SameRegs s u OfDies)

/-- The blocks that a work item fetches, zero blocks among them. -/
def itemBlocks (s : State) (x : MatOp) (item : Nat) : List Nat := (s.itemA x item).map (·.1) ++ x.itemB item ++ x.itemZ item

/-- An element of an output tile. -/
def InTile (x : MatOp) (ot m n : Nat) : Prop := m < x.m ∧ n < x.n ∧ x.rowIn ot m = true ∧ x.colIn ot n = true

/-- The conversion of an element of a product to its output format (R177, R180). -/
def outElem (s : State) (t : Task) (x : MatOp) (r : GradRun) (m n : Nat) : Elem :=
  convertElem x.c.fmt (rndMode x.rnd (x.draw r.key t.step m n x.ct))
    (if x.c.fmt.block == 0 then 0 else s.cExponent t x r m (n / x.c.fmt.block)) 0 (x.acc.decode (s.matElem x r.key t.step r.longsum m n))

/-- The pattern table that a VEC_PATTERN runs, from the pattern stores where they hold it (R208). -/
def PatternsOf (s : State) (t : Task) (q : Nat) (pats : List Byte) : Prop :=
  faultIn (4096 * (t.addr 32 / 4096)) 4096 = none ∧
    if s.storesHold q (t.addr 32) then pats = (aget s.vecRegs (16 * q) VecRegs.fresh).store
    else s.blockOk (t.addr 32 / 4096) = true ∧ pats = s.bytes (4096 * (t.addr 32 / 4096)) 4096

end Sys2Proof.Claims

/-- A GRAD_MM whose checks pass becomes a run of its die, with its operand record and its key, and writes nothing yet; one with no rows or
no columns completes DONE; one that fails a check of Table 7-6 is ABORTED with the check in `DETAIL` and event 0x0202; a key table that fails
its seal ends it SEAL_MISMATCH with event 0x0205, and so does, with event 0x0201, an operand record that fails its seal (R181, R188, R189,
R191). -/
def Sys2Proof.Claims.GradMmDispatch : Prop :=
  ∀ (s : State) (n : Nat) (t : Task) (q : Nat) (x : MatOp), GradGo s n t q x → faultIn (t.addr 32) 128 = none →
    (∀ k, s.firstBad (blocksOf (t.addr 32) 128) = some k → Gives (.gradMm n) s fun u =>
      TurnedAway s u n stSeal 0 ∧ Logged s u 0x0201 [s.leadCore q, 4096 * k]) ∧
    (s.firstBad (blocksOf (t.addr 32) 128) = none →
      (x.m ≠ 0 → x.n ≠ 0 → matCheck t x = 0 → KeysGood s q → (∀ p ∈ s.gradRuns, p.2.task ≠ n) →
        Gives (.gradMm n) s fun u => (∃ r, (q, r) ∈ u.gradRuns ∧ r.task = n ∧ r.opnd = s.bytes (t.addr 32) 128 ∧
          r.key = s.bytes (keyBase s q + 16 * x.key) 16 ∧ r.longsum = longsumOn t x ∧ r.done = []) ∧ Runs u n (pgGradDie q) ∧
          SameBytes s u ∧ SameSeals s u ∧ (s.posted = [] → SameRegs s u OfDies)) ∧
      (x.m ≠ 0 → x.n ≠ 0 → matCheck t x = 0 → faultIn (keyBase s q) 4096 = none → s.blockOk (keyBase s q / 4096) = false →
        Gives (.gradMm n) s fun u => TurnedAway s u n stSeal 0 ∧ Logged s u 0x0205 [q, keyBase s q % 2 ^ 32] ∧ Caused u (pgGradDie q) 1) ∧
      (x.m = 0 ∨ x.n = 0 → Gives (.gradMm n) s fun u => TurnedAway s u n stDone 0 ∧ u.record.nextSeq = s.record.nextSeq) ∧
      (x.m ≠ 0 → x.n ≠ 0 → matCheck t x ≠ 0 → Gives (.gradMm n) s fun u =>
        TurnedAway s u n stAborted (matCheck t x) ∧ Logged s u 0x0202 [matCheck t x, x.layer]))

/-- A finished work item joins the items done of its run, which counts its products and cycles, and the die counts the products. Where its
output tile still lacks a share nothing is written. With the last share, and no failing block, every element of the tile is written: the
value of R177 converted to the output format. With the last item the run ends and its task has its status: SEAL_MISMATCH where an earlier
tile read a failing block, else DONE, NONFINITE, SEAL_MISMATCH or, on an access fault, ABORTED. Memory changes only in the ranges of the
output (R177, R180, R183, R184, R190, R191, R304). -/
def Sys2Proof.Claims.WorkItemsAreCounted : Prop :=
  ∀ (s : State) (q : Quad) (c : Core) (r : GradRun) (t : Task) (item : Nat) (x : MatOp),
    (s.gradOf q).find? (fun r => (aget? r.assigned c).isSome) = some r → aget? r.assigned c = some item → s.task? r.task = some t →
    x = matOp t r.opnd → s.clocked (pllGrad q) = true → s.markedIn (x.reads ++ x.c.ranges) = [] →
    (r.done.length + 1 < x.items → (∀ k ∈ itemBlocks s x item, installed (4096 * k) = true) →
      (∃ sh, sh < x.shares ∧ (r.done ++ [item]).contains (item / x.shares * x.shares + sh) = false) →
      Gives (.workItemDone q c) s fun u =>
        (∃ r', (q.val, r') ∈ u.gradRuns ∧ r'.task = r.task ∧ r'.done = r.done ++ [item] ∧
          r'.macs = r.macs + (s.itemWork x item).1 ∧ r'.cycles = r.cycles + (s.itemWork x item).2) ∧
        SameBytes s u ∧ SameSeals s u ∧ (s.posted = [] → SameRegs s u OfDies)) ∧
    ((∀ sh, sh < x.shares → (r.done ++ [item]).contains (item / x.shares * x.shares + sh) = true) → r.prepass = false → x.c.fmt.isCode = false →
      (x.c.fmt.block ≠ 0 → x.c.elem + x.c.rowBytes * x.c.rows ≤ x.c.exp ∨ x.c.exp + x.c.rowExps * x.c.rows ≤ x.c.elem) →
      r.failed.contains (item / x.shares) = false →
      (∀ k ∈ itemBlocks s x item ++ x.tileC (item / x.shares) ++ blocksOfAll x.c.ranges, s.blockOk k = true ∧ installed (4096 * k) = true) →
      (∀ y ∈ x.c.ranges, faultIn y.1 y.2 = none) →
      Gives (.workItemDone q c) s fun u => ∀ m n, InTile x (item / x.shares) m n → u.rawElem x.c m n = (outElem s t x r m n).raw) ∧
    (x.items = r.done.length + 1 → r.prepass = false → (∀ p ∈ s.gradRuns, p.2.task = r.task → p.1 = q.val) →
      Gives (.workItemDone q c) s fun u =>
        (Finished u r.task stDone 0 ∨ Finished u r.task stNonfinite 0 ∨ Finished u r.task stSeal 0 ∨ Finished u r.task stAborted 0) ∧
        (r.failed ≠ [] → ¬Finished u r.task stDone 0 ∧ ¬Finished u r.task stNonfinite 0) ∧
        (∀ p ∈ u.gradRuns, p.2.task ≠ r.task) ∧ OnlyIn s u x.c.ranges ∧ (s.posted = [] → SameRegs s u OfDies))

/-- GRAD_MM: dispatch and work items. -/
def Obligations.GradientTasks : Prop := Claims.GradMmDispatch ∧ Claims.WorkItemsAreCounted

/-- A CONVERT or VEC_PATTERN whose checks pass becomes a run of its die with its operand record and patterns, and writes nothing yet; one
with no rows or no columns completes DONE; one that fails a check of Table 8-14a is ABORTED with the check in `DETAIL` and event 0x0302; an
operand record that fails its seal ends it SEAL_MISMATCH with event 0x0301 (R208, R213 to R215, R217). -/
def Sys2Proof.Claims.VectorTaskDispatch : Prop :=
  ∀ (s : State) (n : Nat) (convert : Bool) (t : Task) (q : Nat) (o pats : List Byte) (x : VecOp),
    VecGo s n (if convert then 0x31 else 0x30) t q o x → x.convert = convert → faultIn (vecOpnd t).1 (vecOpnd t).2 = none →
    (∀ k, s.firstBad (blocksOf (vecOpnd t).1 (vecOpnd t).2) = some k → Gives (if convert then .convert n else .vecPattern n) s fun u =>
      TurnedAway s u n stSeal 0 ∧ Logged s u 0x0301 [s.leadVec q, 4096 * k]) ∧
    (s.firstBad (blocksOf (vecOpnd t).1 (vecOpnd t).2) = none →
      (x.rows = 0 ∨ x.cols = 0 → Gives (if convert then .convert n else .vecPattern n) s fun u => TurnedAway s u n stDone 0) ∧
      (x.rows ≠ 0 → x.cols ≠ 0 → (if convert then pats = [] else PatternsOf s t q pats) →
        (vecCheck t o pats x = 0 → (x.readsKeys pats = true → KeysGood s q) → (∀ p ∈ s.vecRuns, p.2.task ≠ n) →
          Gives (if convert then .convert n else .vecPattern n) s fun u =>
            (∃ r, (q, r) ∈ u.vecRuns ∧ r.task = n ∧ r.opnd = o ∧ r.pats = pats ∧ r.done = []) ∧ Runs u n (pgGradDie q) ∧
            SameBytes s u ∧ SameSeals s u ∧ (s.posted = [] → SameRegs s u OfDies)) ∧
        (vecCheck t o pats x ≠ 0 → Gives (if convert then .convert n else .vecPattern n) s fun u =>
          TurnedAway s u n stAborted (vecCheck t o pats x) ∧ Logged s u 0x0302 [vecCheck t o pats x, x.layer])))

/-- A finished row group joins the groups done of its run. One whose blocks are good runs: a CONVERT into a floating-point format writes
each element of its rows, rounded to nearest even; one that reads a failing block is not run and writes nothing; a pre-pass writes nothing.
With the last group the run ends and its task has its status: SEAL_MISMATCH where a row group failed, else DONE, NONFINITE or, on an access
fault, ABORTED. Memory changes only in the ranges of the output streams (R212, R214, R216, R217, R254, R304). -/
def Sys2Proof.Claims.RowGroupsAreCounted : Prop :=
  ∀ (s : State) (q : Quad) (c : Core) (r : VecRun) (t : Task) (g : Nat) (x : VecOp),
    (s.vecOf q).find? (fun r => (aget? r.assigned c).isSome) = some r → aget? r.assigned c = some g → s.task? r.task = some t →
    x = vecOp t r.opnd → s.clocked (pllGrad q) = true → s.markedIn (x.reads ++ x.writes) = [] →
    (r.done.length + 1 < x.groups → Gives (.rowGroupDone q c) s fun u =>
      ((∃ r', (q.val, r') ∈ u.vecRuns ∧ r'.task = r.task ∧ r'.done = r.done ++ [g]) ∨ Finished u r.task stAborted 0) ∧
      ((∀ k ∈ x.groupBlocks g, installed (4096 * k) = true) → (r.prepass = true ∨ ∀ y ∈ x.writes, faultIn y.1 y.2 = none) →
        ∃ r', (q.val, r') ∈ u.vecRuns ∧ r'.task = r.task ∧ r'.done = r.done ++ [g])) ∧
    Gives (.rowGroupDone q c) s (fun u => OnlyIn s u x.writes ∧ (s.posted = [] → SameRegs s u OfDies) ∧
      (r.prepass = true ∨ (∃ k ∈ x.groupBlocks g, s.blockOk k = false) ∨ r.failed.contains g = true → SameBytes s u ∧ SameSeals s u)) ∧
    (∀ a b, x.convert = true → r.prepass = false → r.failed.contains g = false → x.ins = [(0, a)] → x.outs = [(0, b)] → b.rnd = 0 → a.raw = false →
      b.x.fmt ∈ [Fmt.kf16, .kf24, .b32, .b64] →
      (∀ k ∈ x.groupBlocks g, installed (4096 * k) = true ∧ s.blockOk k = true) → (∀ y ∈ x.writes, faultIn y.1 y.2 = none) →
      Gives (.rowGroupDone q c) s fun u => ∀ i j, 64 * g ≤ i → i < 64 * g + x.rowsOf g → j < x.cols →
        u.rawElem b.x i j = (convertElem b.x.fmt .rne 0 0 (s.elemAt a.x i j)).raw) ∧
    (x.groups = r.done.length + 1 → r.prepass = false →
      Gives (.rowGroupDone q c) s fun u =>
        (Finished u r.task stDone 0 ∨ Finished u r.task stNonfinite 0 ∨ Finished u r.task stSeal 0 ∨ Finished u r.task stAborted 0) ∧
        (r.failed ≠ [] → ¬Finished u r.task stDone 0 ∧ ¬Finished u r.task stNonfinite 0) ∧ ∀ p ∈ u.vecRuns, p.2.task ≠ r.task)

/-- Between tasks, `PAT_FLUSH` makes the pattern store invalid, and a write of `FLAGS` clears the flags written 1 and no other (R219). -/
def Sys2Proof.Claims.VectorPageCommands : Prop :=
  ∀ (s : State) (v : View) (q : Quad) (c : Core) (mask : Word), Writes s v (pgVecCore q c) false → s.betweenTasks (pgVecCore q c) = true →
    (Gives (.patFlush v q c) s fun u => u.rf (pgVecCore q c) R.VEC_CORE.PAT_BASE_HI_VALID = 0 ∧
      u.rf (pgVecCore q c) R.VEC_CORE.PAT_BASE_HI_ADDR = s.rf (pgVecCore q c) R.VEC_CORE.PAT_BASE_HI_ADDR ∧
      SameRegs s u (fun o => o = pgVecCore q c + R.VEC_CORE.PAT_BASE_HI_VALID.off) ∧ SameBytes s u ∧ SameSeals s u) ∧
    (Gives (.flagsClear v q c mask) s fun u =>
      (∀ f ∈ [R.VEC_CORE.FLAGS_SATURATE, R.VEC_CORE.FLAGS_DIVZERO, R.VEC_CORE.FLAGS_OVERFLOW, R.VEC_CORE.FLAGS_INVALID,
        R.VEC_CORE.FLAGS_PERM_RANGE], u.rf (pgVecCore q c) f = if bit mask.toNat f.lo then 0 else s.rf (pgVecCore q c) f) ∧
      SameRegs s u (fun o => o = pgVecCore q c + R.VEC_CORE.FLAGS_SATURATE.off) ∧ SameBytes s u ∧ SameSeals s u)

/-- VEC_RUN and SCATTER_ADD: dispatch, row groups and the commands of a vector core's page. -/
def Obligations.VectorTasks : Prop := Claims.VectorTaskDispatch ∧ Claims.RowGroupsAreCounted ∧ Claims.VectorPageCommands

/-- When the measuring pre-pass of a GRAD_MM has ended, the slot takes the magnitude found and the run begins again in full under the
exponent that the slot gives; nothing has been written (R251, R254). -/
def Obligations.MeasuringPrepassThenFullRun : Prop :=
  ∀ (s : State) (n : Nat) (t : Task) (q : Nat) (r : GradRun), s.task? n = some t → t.seq = n → s.arrayRun? n = none →
    s.gradRuns = [(q, r)] → r.task = n → s.clocked (pllGrad q) = true → r.prepass = true → (matOp t r.opnd).items ≤ r.done.length →
    Gives (.measuringPrepassDone n) s fun u =>
      (u.slot (matOp t r.opnd).layer 2).toNat % 65536 = r.peak % 65536 ∧
      (∃ r', (q, r') ∈ u.gradRuns ∧ r'.task = n ∧ r'.prepass = false ∧ r'.done = [] ∧
        r'.expo = slotExponent (matOp t r.opnd).c.fmt (slotAmax (u.slot (matOp t r.opnd).layer 2))) ∧
      SameBytes s u ∧ SameSeals s u

namespace Sys2Proof.Claims

open Machine

/-- An UPDATE of a mode may be dispatched to an engine `e` of a clocked die. -/
def UpdSent (s : State) (n mode : Nat) (t : Task) (e : Nat) : Prop :=
  s.dispatchable n [0x50] = some t ∧ s.pickUnit 0x50 t.hint = some e ∧ updMode t = mode ∧ s.clocked (pllGrad (e / 2)) = true

/-- The engine takes it, its records can be read, its checks pass, what a derivation accesses is installed, and no line is marked. -/
def UpdGo (s : State) (n mode : Nat) (t : Task) (e : Nat) (x : UpdOp) : Prop :=
  UpdSent s n mode t e ∧ s.updTakes e t = true ∧ x = updOp t (s.bytes (t.addr 32) 128) ∧ s.markedIn (s.updReads e t) = [] ∧
    faultIn (t.addr 32) 128 = none ∧ faultIn (t.addr 40) 4096 = none ∧
    s.firstBad (blocksOfAll [(t.addr 32, 128), (t.addr 40, 4096)]) = none ∧
    updCheck x (s.bytes (t.addr 40) 128) = 0 ∧ faultOf (x.deriveRanges (s.bytes (t.addr 40) 128)) = none

/-- The engine has its task in a phase. -/
def UpdIn (u : State) (e n : Nat) (phase : UpdPhase) (P : Upd → Prop) : Prop :=
  ∃ v, u.upd? e = some v ∧ v.task = n ∧ v.phase = phase ∧ P v

/-- The engine's task stands in a phase, with its die clocked and nothing of its ranges marked. -/
def UpdAt (s : State) (e : Nat) (phase : UpdPhase) (u : Upd) (t : Task) (x : UpdOp) : Prop :=
  s.upd? e = some u ∧ s.task? u.task = some t ∧ u.phase = phase ∧ x = updOp t u.opnd ∧ s.clocked (pllGrad (e / 2)) = true ∧
    s.markedIn x.ranges = []

/-- Every byte outside a list of ranges reads as before. -/
def SameOutside (s t : State) (rs : List (Nat × Nat)) : Prop := ∀ a, (∀ r ∈ rs, a < r.1 ∨ r.1 + r.2 ≤ a) → t.byte a = s.byte a

/-- Ranges of which no two share a byte. -/
def Apart (rs : List (Nat × Nat)) : Prop := rs.Pairwise fun a b => a.1 + a.2 ≤ b.1 ∨ b.1 + b.2 ≤ a.1

/-- The open replay window is that of a step. -/
def windowOf (s : State) (step : Nat) : Bool := match s.window with | some w => w.step == step | none => false

/-- The replay window closes where it is that of a step, and else stays as it is (R294). Registers change only in the pages of the dies and
the scheduler where it does not close and no posted write waits. -/
def WindowAfter (s u : State) (step : Nat) : Prop :=
  u.window = (if windowOf s step then none else s.window) ∧ (windowOf s step = false → s.posted = [] → SameRegs s u OfDies)

/-- The image bytes that the codes of W give under scales. -/
def derivedImage (s : State) (x : UpdOp) (scales : List Nat) (step : Nat) : List Byte :=
  x.imageBytes (fun i j => (s.codeOfW x scales i j).1) (nth scales · 0) step

/-- The status of a derivation: CLIPPED where a code was clipped. -/
def deriveStatus (s : State) (x : UpdOp) (scales : List Nat) : Nat :=
  if (x.codeTotals (s.codeOfW x scales) x.r).1 = 0 then stDone else stClipped

/-- `HOLD_REQ` asks for the layer's hold. -/
def holdAsked (s : State) (e : Nat) (x : UpdOp) : Bool :=
  s.rf (pgUpdate e) R.UPDATE.HOLD_REQ_ARM == 1 && s.rf (pgUpdate e) R.UPDATE.HOLD_REQ_LAYER == x.layer

end Sys2Proof.Claims

/-- An UPDATE whose checks pass and whose engine takes it (R231, R235, R237, R239): NORMAL waits for its tag, COMMIT and PROBE take the held
step and rate and begin pass 1, DISCARD clears the hold, DERIVE and DERIVE_SCALES write the image that the master gives, and CLIPPED says
that a code was clipped. One whose engine is taken waits in the dispatcher (R287). The replay window of the same step closes (R294). -/
def Obligations.UpdateDispatch : Prop :=
  ∀ (s : State) (n : Nat) (t : Task) (e : Nat) (x : UpdOp),
    (∀ c m, (c, m) ∈ [(Instr.updateNormal n, 0), (.updateCommit n, 1), (.updateDiscard n, 2), (.updateProbe n, 3), (.updateDerive n, 4),
      (.updateDeriveScales n, 5)] → UpdSent s n m t e → s.updTakes e t = false → (∀ k ∈ s.tasks, k.seq = n → k.pages = []) →
      Gives c s fun u =>
        (∃ k, u.task? n = some k ∧ k.phase = .running ∧ k.pages = [] ∧ k.target = e) ∧ u.upds = s.upds ∧ WindowAfter s u t.step ∧
        SameBytes s u ∧ SameSeals s u) ∧
    (UpdGo s n 0 t e x → KeysGood s (e / 2) → Gives (.updateNormal n) s fun u => WindowAfter s u t.step ∧
      UpdIn u e n .tagWait (fun v => v.step = t.step ∧ v.waitFrom = s.now) ∧ SameBytes s u ∧ SameSeals s u) ∧
    (UpdGo s n 1 t e x → KeysGood s (e / 2) → Gives (.updateCommit n) s fun u => WindowAfter s u t.step ∧
      UpdIn u e n .pass1 (fun v => v.step = s.num (t.addr 40 + 32) 8 ∧ v.eta = s.num (t.addr 40 + 40) 4) ∧ SameBytes s u ∧ SameSeals s u) ∧
    (UpdGo s n 3 t e x → Gives (.updateProbe n) s fun u => WindowAfter s u t.step ∧
      UpdIn u e n .pass1 (fun v => v.step = s.num (t.addr 40 + 32) 8 ∧ v.eta = s.num (t.addr 40 + 40) 4) ∧ SameBytes s u ∧ SameSeals s u) ∧
    (UpdGo s n 2 t e x → s.num (x.state + 12) 4 = 0 → Gives (.updateDiscard n) s fun u => WindowAfter s u t.step ∧
      Finished u n stDone 0 ∧ u.upd? e = none ∧ Logged s u 0x0406 [x.layer, s.num (t.addr 40 + 32) 8] ∧
      u.byte (x.state + 3) = 0 ∧ (∀ i, 32 ≤ i → i < 44 → u.byte (x.state + i) = 0) ∧
      SameOutside s u [(x.state + 3, 1), (x.state + 32, 12)] ∧ OnlyIn s u [(x.state, 4096)]) ∧
    (∀ sc, UpdGo s n 4 t e x → sc = s.nums (x.scaleAt (1 - hdSel (s.bytes (t.addr 40) 128))) x.c 2 →
      s.firstBad (blocksOfAll (x.wT.ranges ++ [(x.scaleAt (1 - hdSel (s.bytes (t.addr 40) 128)), 2 * x.c)])) = none →
      Gives (.updateDerive n) s fun u => WindowAfter s u t.step ∧ Finished u n (deriveStatus s x sc) 0 ∧ u.upd? e = none ∧
        (let img := derivedImage s x sc (s.num (t.addr 40 + 24) 8)
         ∀ a, u.byte a = if x.writesImage = true ∧ x.image ≤ a ∧ a < x.image + img.length then nth img (a - x.image) 0 else s.byte a) ∧
        OnlyIn s u (if x.writesImage then [x.imageRange] else [])) ∧
    (UpdGo s n 5 t e x → s.firstBad (blocksOfAll x.wT.ranges) = none → s.num (x.state + 12) 4 = 0 → Gives (.updateDeriveScales n) s fun u =>
      WindowAfter s u t.step ∧ Finished u n (deriveStatus s x (s.scalesOfW x)) 0 ∧ u.upd? e = none ∧
      OnlyIn s u ([(x.scaleAt 0, up4k (2 * x.c)), (x.scaleAt 1, up4k (2 * x.c))] ++ (if x.writesImage then [x.imageRange] else [])) ∧
      (x.writesImage = true → u.bytes x.image (derivedImage s x (s.scalesOfW x) t.step).length = derivedImage s x (s.scalesOfW x) t.step) ∧
      (x.writesImage = false ∨ Apart [(x.scaleAt 0, up4k (2 * x.c)), (x.scaleAt 1, up4k (2 * x.c)), x.imageRange] → ∀ z, z < 2 →
        u.bytes (x.scaleAt z) (2 * x.c) = (s.scalesOfW x).flatMap (leBytes 2)))

/-- The waits of an UPDATE: with its tag it latches the rate and begins pass 1, or is HELD where its layer is held; without it, it is STALE
after `UPDATE_WAIT_MAX` ticks (R231, R234). `HOLD_REQ` is written between tasks and posted under a pass (R13, R232). -/
def Sys2Proof.Claims.UpdateWaits : Prop :=
  (∀ (s : State) (e : Engine) (u : Upd) (t : Task) (x : UpdOp), UpdAt s e .tagWait u t x →
    (s.stepTag e = u.step → hdHeld u.head = false → Gives (.tagWaitEnd e) s fun v =>
      UpdIn v e u.task .pass1 (fun w => w.eta = s.rf (pgUpdate e) R.UPDATE.STEP_ETA ∧ w.step = u.step) ∧
      v.betweenTasks (pgUpdate e) = false ∧ v.rf (pgUpdate e) R.UPDATE.ENGINE_STATE_STATE = 2 ∧
      SameRegs s v (fun o => o = pgUpdate e + R.UPDATE.ENGINE_STATE_STATE.off) ∧ SameBytes s v ∧ SameSeals s v) ∧
    (s.stepTag e = u.step → hdHeld u.head = true → Gives (.tagWaitEnd e) s fun v =>
      Finished v u.task stHeld 0 ∧ v.upd? e = none ∧
      v.rf (pgUpdate e) R.UPDATE.HELD_COUNT = up32 (s.rf (pgUpdate e) R.UPDATE.HELD_COUNT) ∧ Caused v (pgUpdate e) 1 ∧
      Logged s v 0x040B [x.layer, u.step] ∧ SameBytes s v ∧ SameSeals s v ∧ SameRegs s v OfDies) ∧
    (s.stepTag e ≠ u.step → s.rf (pgUpdate e) R.UPDATE.UPDATE_WAIT_MAX ≤ s.now - u.waitFrom → Gives (.stepTagStale e) s fun v =>
      Finished v u.task stStale 0 ∧ v.upd? e = none ∧
      v.rf (pgUpdate e) R.UPDATE.STALE_COUNT = up32 (s.rf (pgUpdate e) R.UPDATE.STALE_COUNT) ∧ Caused v (pgUpdate e) 2 ∧
      Logged s v 0x0402 [x.layer, u.step, s.rf (pgUpdate e) R.UPDATE.STEP_TAG_LO] ∧ SameBytes s v ∧ SameSeals s v ∧ SameRegs s v OfDies)) ∧
  (∀ (s : State) (view : View) (e : Engine) (arm : Bool) (layer : BitVec 16), Writes s view (pgUpdate e) false →
    (s.betweenTasks (pgUpdate e) = true → Gives (.holdReq view e arm layer) s fun v =>
      v.rf (pgUpdate e) R.UPDATE.HOLD_REQ_ARM = b2n arm ∧ v.rf (pgUpdate e) R.UPDATE.HOLD_REQ_LAYER = layer.toNat ∧
      SameRegs s v (fun o => o = pgUpdate e + R.UPDATE.HOLD_REQ_ARM.off) ∧ SameBytes s v ∧ SameSeals s v) ∧
    (s.betweenTasks (pgUpdate e) = false → Gives (.holdReq view e arm layer) s fun v =>
      v.regs = s.regs ∧ (∃ p, v.posted = s.posted ++ [p] ∧ p.off = pgUpdate e + R.UPDATE.HOLD_REQ_ARM.off ∧
        p.val = BitVec.ofNat 32 (b2n arm * 2 ^ 31 + layer.toNat)) ∧ SameBytes s v ∧ SameSeals s v))

/-- The checkpoint interlock (R239): a NORMAL update that nothing holds writes its new factors to the other slot and begins pass 2; one that is
held marks its layer held, with its reasons, step and rate; one whose wait is too long completes TIMEOUT. -/
def Sys2Proof.Claims.CheckpointInterlock : Prop :=
  ∀ (s : State) (e : Engine) (u : Upd) (t : Task) (x : UpdOp), UpdAt s e .ckptWait u t x →
    (s.ckptMark x = 0 → x.mode = 0 → u.reasons = 0 → u.rNew.length = x.r → u.cNew.length = x.c →
      faultOf (x.slotRanges (1 - hdSel u.head) ++ x.wT.ranges ++ (if x.writesImage then [x.imageRange] else [])) = none →
      Gives (.checkpointInterlockClear e) s fun v =>
      UpdIn v e u.task .pass2 (fun w => w.eta = u.eta ∧ w.step = u.step) ∧
      v.bytes (x.slotAt (1 - hdSel u.head)) (4 * x.r) = u.rNew.flatMap (leBytes 4) ∧
      v.bytes (x.colAt (1 - hdSel u.head)) (4 * x.c) = u.cNew.flatMap (leBytes 4) ∧
      OnlyIn s v [(x.slotAt (1 - hdSel u.head), up4k (4 * x.r)), (x.colAt (1 - hdSel u.head), up4k (4 * x.c))] ∧ SameRegs s v OfDies) ∧
    (s.ckptMark x = 0 → x.mode = 0 → u.reasons ≠ 0 → Gives (.checkpointInterlockClear e) s fun v =>
      Finished v u.task stHeld 0 ∧ v.upd? e = none ∧ v.byte (x.state + 3) = BitVec.ofNat 8 (128 + u.reasons) ∧
      v.num (x.state + 32) 8 = u.step % 2 ^ 64 ∧ v.num (x.state + 40) 4 = u.eta % 2 ^ 32 ∧ Logged s v 0x0401 [x.layer, u.reasons, u.step] ∧
      SameOutside s v [(x.state + 3, 1), (x.state + 32, 12)] ∧ OnlyIn s v [(x.state, 4096)] ∧ SameRegs s v OfDies) ∧
    (s.ckptMark x ≠ 0 → s.rf (pgUpdate e) R.UPDATE.UPDATE_WAIT_MAX < s.now - u.waitFrom → Gives (.checkpointInterlockTimeout e) s fun v =>
      Finished v u.task stTimeout 0 ∧ v.upd? e = none ∧
      v.rf (pgUpdate e) R.UPDATE.TIMEOUT_COUNT = up32 (s.rf (pgUpdate e) R.UPDATE.TIMEOUT_COUNT) ∧ Caused v (pgUpdate e) 3 ∧
      Logged s v 0x0403 [x.layer, s.ckptMark x] ∧ SameBytes s v ∧ SameSeals s v ∧ SameRegs s v OfDies)

/-- What an UPDATE waits for: its tag and the checkpoint interlock. -/
def Obligations.UpdateWaitsAndInterlock : Prop := Claims.UpdateWaits ∧ Claims.CheckpointInterlock

/-- The passes of an UPDATE whose blocks are good: pass 1 of a PROBE ends it without a write; of a NORMAL update it forms the trust factor, the
predicted ratio and the factors, and leads to pass 2, or waits for the checkpoint mark, or, where a reason of Table 9-1 is found, holds the
layer (R223, R224, R235, R239); pass 2 commits: every element of the master has its new value, the step and the count of steps are in the
header, and nothing outside the layer's records is written (R225, R228). -/
def Obligations.UpdatePasses : Prop :=
  ∀ (s : State) (e : Engine) (u : Upd) (t : Task) (x : UpdOp),
    (UpdAt s e .pass1 u t x → s.pass1Fault x u = none → s.firstBad (blocksOfAll (x.slotRanges (hdSel u.head) ++ x.mT.ranges)) = none →
      (s.lateBad x (s.ledgerUse x u.step).1).2 = [] →
      (x.mode = 3 → Gives (.pass1Done e) s fun v => Finished v u.task stDone 0 ∧ v.upd? e = none ∧ SameBytes s v ∧ SameSeals s v) ∧
      (∀ p z, p = s.pass1 x u.head u.eta (s.ledgerUse x u.step).1 → z = 1 - hdSel u.head → x.mode = 0 →
        (s.ckptMark x ≠ 0 → Gives (.pass1Done e) s fun v =>
          UpdIn v e u.task .ckptWait (fun w => w.waitFrom = s.now ∧ w.rNew = p.rNew ∧ w.cNew = p.cNew) ∧ SameBytes s v ∧ SameSeals s v) ∧
        (s.ckptMark x = 0 → b2n (p.nonfin != 0) + ratioReasons x u.head p.pred + 16 * b2n (holdAsked s e x) = 0 →
          faultOf (x.slotRanges z ++ x.wT.ranges ++ (if x.writesImage then [x.imageRange] else [])) = none → Gives (.pass1Done e) s fun v =>
            UpdIn v e u.task .pass2 (fun w => w.tau = p.tau ∧ w.pred = p.pred ∧ w.rNew = p.rNew ∧ w.cNew = p.cNew ∧ w.reasons = 0) ∧
            OnlyIn s v [(x.slotAt z, up4k (4 * x.r)), (x.colAt z, up4k (4 * x.c))]) ∧
        (s.ckptMark x = 0 → ∀ r, r = b2n (p.nonfin != 0) + ratioReasons x u.head p.pred + 16 * b2n (holdAsked s e x) → r ≠ 0 →
          Gives (.pass1Done e) s fun v => Finished v u.task stHeld 0 ∧ v.byte (x.state + 3) = BitVec.ofNat 8 (128 + r) ∧
            OnlyIn s v [(x.state, 4096)]))) ∧
    (UpdAt s e .pass2 u t x → s.pass2Bad x u.kappa = [] → Gives (.pass2Done e) s fun v =>
      (if x.mode = 1 then Finished v u.task stReplayed 0 else Finished v u.task stDone 0 ∨ Finished v u.task stClipped 0) ∧ v.upd? e = none ∧
      v.rf (pgUpdate e) R.UPDATE.COMMITS = up32 (s.rf (pgUpdate e) R.UPDATE.COMMITS) ∧
      v.num (x.state + 16) 8 = (hdSteps u.head + 1) % 2 ^ 64 ∧ v.num (x.state + 24) 8 = u.step % 2 ^ 64 ∧ v.byte (x.state + 3) = 0 ∧
      (Apart ([(x.w, 3 * x.r * x.c), (x.state, 4096 + 2 * x.slotLen)] ++ x.mT.ranges ++ (if x.writesImage then [x.imageRange] else [])) →
        ∀ i j, i < x.r → j < x.c → v.rawElem x.wT i j = (s.elem2 x u (rbar u.rNew x.r) i j).wNew) ∧
      OnlyIn s v ([(x.w, 3 * x.r * x.c), (x.state, 4096), (x.scaleAt (1 - hdSel u.head), up4k (2 * x.c))] ++ x.mT.ranges ++
        (if x.writesImage then [x.imageRange] else [])) ∧ SameRegs s v OfDies)

/-- The commands of a watch's tables where their memory is good and no line of it is marked: `LOAD` takes the 1,024 entries of its layers and
sets `LOADED` (R264); SAVE writes the estimator table with its seals, LOAD takes it with its reserved bits 0, CLEAR makes every slot of the
watch invalid (R46, R265). The other watches' tables are unchanged; so are the windows and, under LOAD by the host, `REPLAYS` (R255, R257). -/
def Obligations.WatchTableCommands : Prop :=
  ∀ (s : State) (v : View) (q : Quad),
    (∀ a, a = s.rf64 (pgWatch q) R.NUMWATCH.WT_ADDR_LO_ADDR R.NUMWATCH.WT_ADDR_HI_ADDR → Writes s v (pgWatch q) false →
      deviceRange a 16384 = true → s.firstBad (blocksOf a 16384) = none → s.markedIn [(a, 16384)] = [] → Gives (.wtLoad v q) s fun u =>
        (∀ l, l < 4096 → l % 4 = q.val → u.watchEntry l = s.bytes (a + 16 * (l / 4)) 16) ∧
        (∀ l, l % 4 ≠ q.val → u.watchEntry l = s.watchEntry l) ∧ u.rf (pgWatch q) R.NUMWATCH.WT_CTL_LOADED = 1 ∧
        u.slots = s.slots ∧ u.layers = s.layers ∧ SameRegs s u OfDies ∧ SameBytes s u ∧ SameSeals s u) ∧
    (Writes s v (pgWatch q) true → deviceRange (s.estAddr q) 32768 = true → s.markedIn [(s.estAddr q, 32768)] = [] →
      (Gives (.estSave v q) s fun u =>
        u.bytes (s.estAddr q) 32768 = s.estBytes q ∧ SameOutside s u [(s.estAddr q, 32768)] ∧
        (∀ k ∈ blocksOf (s.estAddr q) 32768, u.sealEntry k = u.sealOf k) ∧
        (∀ k, k ∉ blocksOf (s.estAddr q) 32768 → u.sealEntry k = s.sealEntry k) ∧ u.regs = s.regs ∧ u.slots = s.slots) ∧
      (s.firstBad (blocksOf (s.estAddr q) 32768) = none → Gives (.estLoad v q) s fun u =>
        (∀ l r, l < 4096 → l % 4 = q.val → r < 8 →
          u.slot l r = setBits (BitVec.ofNat 32 (fieldAt (s.bytes (s.estAddr q) 32768) (4 * (8 * (l / 4) + r)) 4)) 23 18 0) ∧
        (∀ l r, r < 8 → l % 4 ≠ q.val → u.slot l r = s.slot l r) ∧ u.layers = s.layers ∧
        u.reg (pgWatch q + R.NUMWATCH.REPLAY_STATE_REPLAYS.off) = s.reg (pgWatch q + R.NUMWATCH.REPLAY_STATE_REPLAYS.off) ∧
        SameRegs s u OfDies ∧ SameBytes s u ∧ SameSeals s u)) ∧
    (Writes s v (pgWatch q) true → Gives (.estClear v q) s fun u =>
      (∀ l r, r < 8 → l % 4 = q.val → u.slot l r = setBits (s.slot l r) 16 16 0) ∧ (∀ l r, r < 8 → l % 4 ≠ q.val → u.slot l r = s.slot l r) ∧
      u.regs = s.regs ∧ SameBytes s u ∧ SameSeals s u)

/-- A write of `TAIL` of a disabled queue is taken; of an enabled one it is taken within the ring, and else becomes the nearer end of the
legal range and is counted as a clamp (R45, R269). -/
def Sys2Proof.Claims.TailWrites : Prop :=
  ∀ (s : State) (v : View) (q : QueueNo) (w : Word), Writes s v (pgQueue q) false →
    let hi := (s.consumed q + s.ringSize q) % 2 ^ 32
    (s.queueOn q = false ∨ idxGap (s.head q) w.toNat ≤ idxGap (s.head q) hi → Gives (.tailWrite v q w) s fun u =>
      u.tail q = w.toNat ∧ SameRegs s u (fun o => o = pgQueue q + R.GRAPH_QUEUE.TAIL.off) ∧ SameBytes s u ∧ SameSeals s u ∧ u.tasks = s.tasks) ∧
    (s.queueOn q = true → idxGap (s.head q) hi < idxGap (s.head q) w.toNat → Gives (.tailWrite v q w) s fun u =>
      (idxGap w.toNat (s.head q) < idxGap hi w.toNat → u.tail q = s.head q) ∧
      (idxGap hi w.toNat < idxGap w.toNat (s.head q) → u.tail q = hi) ∧
      (idxGap hi w.toNat = idxGap w.toNat (s.head q) → u.tail q = Nat.max (s.head q) hi) ∧
      u.rf pgDevice R.DEVICE.CLAMP_COUNT = up32 (s.rf pgDevice R.DEVICE.CLAMP_COUNT) ∧
      SameRegs s u (fun o => o = pgQueue q + R.GRAPH_QUEUE.TAIL.off ∨ o = pgDevice + R.DEVICE.CLAMP_COUNT.off ∨
        o = pgDevice + R.DEVICE.CLAMP_LAST_VIEW.off) ∧ SameBytes s u ∧ SameSeals s u ∧ u.tasks = s.tasks)

/-- Enabling a queue makes its indices `TAIL` and forgets what was kept of it; the first in stage 0x3 makes the device run graphs (R268, R471).
Disabling it leaves no task of it that is not dispatched (R299). `PAUSE` and `HOLD` are written; where no task waits nothing else changes. -/
def Sys2Proof.Claims.QueueCommands : Prop :=
  ∀ (s : State) (v : View) (q : QueueNo) (on : Bool),
    (Writes s v (pgQueue q) true → s.queueOn q = false → Gives (.queueEnable v q) s fun u =>
      u.queueOn q = true ∧ u.head q = s.tail q ∧ u.consumed q = s.tail q ∧ u.tail q = s.tail q ∧
      u.rf (pgQueue q) R.GRAPH_QUEUE.COMPLETED = s.tail q ∧ u.queueSt q = { QueueSt.fresh with retained := s.tail q } ∧
      u.devState = (if s.devState = 3 then 4 else s.devState) ∧ u.tasks = s.tasks ∧
      SameRegs s u (fun o => o = pgQueue q + R.GRAPH_QUEUE.Q_CTL_EN.off ∨ o = pgQueue q + R.GRAPH_QUEUE.HEAD.off ∨
        o = pgQueue q + R.GRAPH_QUEUE.CONSUMED.off ∨ o = pgQueue q + R.GRAPH_QUEUE.COMPLETED.off ∨
        o = pgDevice + R.DEVICE.DEV_STATE_STATE.off ∨ o = pgDevice + oINT_STATUS ∨ Reports o) ∧ SameBytes s u ∧ SameSeals s u) ∧
    (Writes s v (pgQueue q) true → s.queueOn q = true → Gives (.queueDisable v q) s fun u =>
      u.queueOn q = false ∧ (∀ t ∈ u.tasks, t.queue = q.val → t.isHanded = true) ∧
      (NoWait s → s.window = none → u.tasks = s.tasks ∧ SameBytes s u ∧ SameSeals s u ∧
        SameRegs s u (fun o => o = pgQueue q + R.GRAPH_QUEUE.Q_CTL_EN.off))) ∧
    (Writes s v (pgQueue q) false → NoWait s → Gives (.queuePause v q on) s fun u =>
      u.rf (pgQueue q) R.GRAPH_QUEUE.Q_CTL_PAUSE = b2n on ∧ u.tasks = s.tasks ∧
      SameRegs s u (fun o => o = pgQueue q + R.GRAPH_QUEUE.Q_CTL_PAUSE.off) ∧ SameBytes s u ∧ SameSeals s u) ∧
    (Writes s v pgSched true → NoWait s → Gives (.schedHold v on) s fun u =>
      u.rf pgSched R.GRAPH_SCHED.SCHED_CTL_HOLD = b2n on ∧ u.tasks = s.tasks ∧
      SameRegs s u (fun o => o = pgSched + R.GRAPH_SCHED.SCHED_CTL_HOLD.off) ∧ SameBytes s u ∧ SameSeals s u)

/-- Graph queues: TAIL writes, enable, disable, pause, hold. -/
def Obligations.GraphQueues : Prop := Claims.TailWrites ∧ Claims.QueueCommands

/-- A fetch takes the descriptor at `HEAD` of an enabled queue as a task with the next sequence number, and `HEAD` moves on; nothing is fetched
of a disabled or paused queue, nor of an empty one whose ring is not full; a marked line of its burst is snooped first (R28, R270, R274).
Stated for a ring with one descriptor to fetch whose task has no condition. A fetch that stalls on a full ring where a hold stops `CONSUMED`
gives that hold up, and `CONSUMED` advances (R291): the replay window that begins there, which closes, or the retained segment that begins
there, which is retained no longer. Either is counted, with both causes. -/
def Obligations.DescriptorFetch : Prop :=
  ∀ (s : State) (q : QueueNo), NoWait s →
    (s.queueOn q = false ∨ s.rf (pgQueue q) R.GRAPH_QUEUE.Q_CTL_PAUSE = 1 ∨
      (s.head q = s.tail q ∧ (s.queueSt q).again = [] ∧ idxGap (s.consumed q) (s.head q) ≠ s.ringSize q) →
      exec (.descriptorFetch q) s = .next s) ∧
    (s.queueOn q = true → s.rf (pgQueue q) R.GRAPH_QUEUE.Q_CTL_PAUSE = 0 → s.markedIn (s.fetchRanges q) ≠ [] →
      Gives (.descriptorFetch q) s fun u => u.tasks = s.tasks ∧ (∀ l ∈ s.markedIn (s.fetchRanges q), l ∈ u.host.snoops) ∧
        SameRegs s u (InPage pgHost) ∧ SameBytes s u ∧ SameSeals s u) ∧
    (s.queueOn q = true → s.rf (pgQueue q) R.GRAPH_QUEUE.Q_CTL_PAUSE = 0 → s.markedIn (s.fetchRanges q) = [] → (s.queueSt q).again = [] →
      (∀ d, d = s.bytes (s.slotAddr q (s.head q)) 64 → s.head q ≠ s.tail q → idxNext (s.head q) = s.tail q → s.fenced q = false →
        s.inFlight q < 512 → idxGap (s.consumed q) (s.head q) ≠ s.ringSize q → (s.queueSt q).replayEnd = none →
        fetchCheck d (s.rf (pgQueue q) R.GRAPH_QUEUE.CMPL_SLOTS_COUNT) = 0 → descFlag d 1 = false →
        Gives (.descriptorFetch q) s fun u =>
          u.head q = s.tail q ∧ u.nextSeq = s.nextSeq + 1 ∧
          (∃ t ∈ u.tasks, t.seq = s.nextSeq ∧ t.queue = q.val ∧ t.index = s.head q ∧ t.desc = d ∧ t.isHanded = false) ∧
          SameRegs s u (fun o => o = pgQueue q + R.GRAPH_QUEUE.HEAD.off) ∧ SameBytes s u ∧ SameSeals s u) ∧
      (s.head q = s.tail q → idxGap (s.consumed q) (s.head q) = s.ringSize q → (s.queueSt q).done.contains (s.consumed q) = true →
        (∀ w, s.window = some w → w.queue = q.val → idxNext (s.consumed q) = w.first →
          s.rf (pgQueue q) R.GRAPH_QUEUE.Q_CTL_RETAIN = 0 ∨ (s.queueSt q).retained ≠ s.consumed q →
          Gives (.descriptorFetch q) s fun u =>
            u.window = none ∧ (u.queueSt q).done.contains (s.consumed q) = false ∧
            ((s.queueSt q).done.contains (idxNext (s.consumed q)) = false → u.consumed q = idxNext (s.consumed q)) ∧ u.head q = s.head q ∧
            u.rf pgSched R.GRAPH_SCHED.RETAIN_LOST = up32 (s.rf pgSched R.GRAPH_SCHED.RETAIN_LOST) ∧ Caused u pgSched 2 ∧ Caused u (pgQueue q) 3 ∧
            Logged s u 0x0605 [q, 1, s.consumed q] ∧ u.tasks = s.tasks ∧ SameBytes s u ∧ SameSeals s u) ∧
        (s.window = none → s.rf (pgQueue q) R.GRAPH_QUEUE.Q_CTL_RETAIN = 1 → (s.queueSt q).gaveUp = false →
          s.consumed q = (s.queueSt q).retained → Gives (.descriptorFetch q) s fun u =>
            (u.queueSt q).gaveUp = true ∧ (u.queueSt q).done.contains (s.consumed q) = false ∧
            ((s.queueSt q).done.contains (idxNext (s.consumed q)) = false → u.consumed q = idxNext (s.consumed q)) ∧
            u.rf pgSched R.GRAPH_SCHED.RETAIN_LOST = up32 (s.rf pgSched R.GRAPH_SCHED.RETAIN_LOST) ∧ Caused u pgSched 2 ∧ Caused u (pgQueue q) 3 ∧
            Logged s u 0x0605 [q, 2, s.consumed q] ∧
            SameRegs s u (fun o => o = pgSched + R.GRAPH_SCHED.RETAIN_LOST.off ∨ o = pgQueue q + R.GRAPH_QUEUE.CONSUMED.off ∨
              o = pgSched + oINT_STATUS ∨ o = pgQueue q + oINT_STATUS ∨ Reports o) ∧
            u.tasks = s.tasks ∧ SameBytes s u ∧ SameSeals s u)))

/-- A register write of a button sets its `VALUE` or `BASE` (R276); in BAR2 a device-manager button is not written, and the refusal is counted
(R35). -/
def Obligations.ButtonRegisterWrites : Prop :=
  ∀ (s : State) (v : View) (b : Fin 16384) (isBase : Bool) (w : Word), Writes s v (0x1000 * (offButton b / 0x1000)) false → NoWait s →
    (v = .bar0 ∨ 256 ≤ b.val → Gives (.buttonRegisterWrite v b isBase w) s fun u =>
      u.btnValue b = (if isBase then s.btnValue b else w) ∧ u.btnBase b = (if isBase then w else s.btnBase b) ∧ u.tasks = s.tasks ∧
      SameRegs s u (fun o => o = offButton b + (if isBase then 4 else 0)) ∧ SameBytes s u ∧ SameSeals s u) ∧
    (v = .bar2 → b.val < 256 → Gives (.buttonRegisterWrite v b isBase w) s fun u =>
      u.rf pgSched R.GRAPH_SCHED.BTN_ERR_COUNT = up32 (s.rf pgSched R.GRAPH_SCHED.BTN_ERR_COUNT) ∧
      u.rf pgSched R.GRAPH_SCHED.BTN_ERR_LAST_BUTTON = b.val ∧ Caused u pgSched 3 ∧ u.tasks = s.tasks ∧
      SameRegs s u (fun o => o = pgSched + R.GRAPH_SCHED.BTN_ERR_COUNT.off ∨ o = pgSched + R.GRAPH_SCHED.BTN_ERR_LAST_BUTTON.off ∨
        o = pgSched + oINT_STATUS ∨ Reports o) ∧ SameBytes s u ∧ SameSeals s u)

namespace Sys2Proof.Claims

open Machine

/-- Every task but one has been handed over. -/
def Alone (s : State) (n : Nat) : Prop := ∀ k ∈ s.tasks, k.seq ≠ n → k.isHanded = true

/-- A task that left nothing else to do has completed with a status: it is gone, its completion record begins with the status, and no byte
outside the record has changed. -/
def Completed (s u : State) (n : Nat) (t : Task) (st : Nat) : Prop :=
  u.task? n = none ∧ SameOutside s u (if t.cmplIndex = 0xFFFFFFFF then [] else [(s.recordAddr t, 32)]) ∧ SameSeals s u ∧
    (t.cmplIndex ≠ 0xFFFFFFFF → rangeOk (s.recordAddr t) 32 = true → u.byte (s.recordAddr t) = BitVec.ofNat 8 st)

/-- No signal of a task names a button. -/
def NoSignal (t : Task) (b : Nat) : Prop := ∀ g ∈ descSignals t.desc, g.1 ≠ b

end Sys2Proof.Claims

/-- Scheduler tasks complete where they are dispatched: NOP; WAIT_TEMPO whose target has passed, and later when it passes (R281); BUTTON_OP
after its operations (R280). A task whose waits have not passed within `WAIT_MAX` completes TIMEOUT (R282). -/
def Sys2Proof.Claims.SchedulerTasksComplete : Prop :=
  ∀ (s : State) (n : Nat) (t : Task), s.task? n = some t → t.queue < 64 → t.post = [] → Alone s n →
    (typeClass t.type = .scheduler → t.type ∉ [1, 2, 3, 4] → s.oldest t = true →
      Gives (.nop n) s fun u => Completed s u n t (widenStatus t stDone)) ∧
    (s.dispatchable n [3] = some t →
      (tempoTarget t ≤ s.now → Gives (.waitTempo n) s fun u => Completed s u n t (widenStatus t stDone)) ∧
      (s.now < tempoTarget t → Gives (.waitTempo n) s fun u =>
        (∃ k, u.task? n = some k ∧ k.phase = .running ∧ k.target = tempoTarget t ∧ k.desc = t.desc) ∧ SameBytes s u ∧ SameSeals s u ∧
        SameRegs s u (fun o => o = pgSched + R.GRAPH_SCHED.DISPATCH_LO.off ∨ o = pgSched + R.GRAPH_SCHED.DISPATCH_HI.off))) ∧
    (t.type = 3 → t.isRunning = true → t.target ≤ s.now → Gives (.waitTempoExpiry n) s fun u => Completed s u n t (widenStatus t stDone)) ∧
    (∀ b op arg, s.dispatchable n [4] = some t → buttonOps t.desc = (b, op, arg) :: (buttonOps t.desc).tail →
      (∀ o ∈ (buttonOps t.desc).tail, o.2.1 = 0) → graphButton b = true → NoSignal t b →
      Gives (.buttonOp n) s fun u => Completed s u n t (widenStatus t stDone) ∧
        (op = 1 → u.btnValue b = s.btnValue b + BitVec.ofNat 32 arg ∧ u.btnBase b = s.btnBase b) ∧
        (op = 2 → u.level b = (BitVec.ofNat 32 arg).toInt ∧ u.btnBase b = s.btnBase b) ∧
        (op = 3 → u.level b = 0 ∧ u.btnValue b = s.btnValue b) ∧ (op = 4 → u.btnValue b = 0 ∧ u.btnBase b = 0)) ∧
    (∀ m, m = s.rf (pgQueue t.queue) R.GRAPH_QUEUE.WAIT_MAX → t.isWaiting = true → m ≠ 0 → m ≤ s.now - t.fetchAt → s.waitsPass t = false →
      Gives (.taskWaitTimeout n) s fun u => Completed s u n t stTimeout)

/-- STEP_OPEN opens the replay window with a copy of its buttons and reports its step to the scheduler, its queue and the four watches (R293);
a HEM that asks no watch, or whose watch answers to close, or whose repeat is not possible, rebases its layer's buttons and closes; one whose watch answers to repeat stays and
its repeat is counted (R290, R296), and one whose watch answers to replay makes its queue begin again at the first task of its step (R295). -/
def Sys2Proof.Claims.StepsAndHems : Prop :=
  ∀ (s : State) (n : Nat) (t : Task), t.queue < 64 → t.post = [] → Alone s n →
    (s.dispatchable n [1] = some t → t.fld 40 2 + t.fld 42 2 ≤ 16384 → Gives (.stepOpen n) s fun u =>
      Completed s u n t (widenStatus t stDone) ∧
      u.window = some ⟨t.queue, t.fld 32 8, idxNext t.index,
        (List.range (t.fld 42 2)).map fun i => (t.fld 40 2 + i, s.btnValue (t.fld 40 2 + i), s.btnBase (t.fld 40 2 + i)), 0⟩ ∧
      u.rf64 pgSched R.GRAPH_SCHED.STEP_LO R.GRAPH_SCHED.STEP_HI = t.fld 32 8 ∧ u.rf pgSched R.GRAPH_SCHED.STEP_STATE_WINDOW = 1 ∧
      u.rf64 (pgQueue t.queue) R.GRAPH_QUEUE.STEP_LO R.GRAPH_QUEUE.STEP_HI = t.fld 32 8 ∧
      (∀ q, q < 4 → u.rf64 (pgWatch q) R.NUMWATCH.STEP_LO R.NUMWATCH.STEP_HI = t.fld 32 8 ∧
        u.rf (pgWatch q) R.NUMWATCH.REPLAY_STATE_WINDOW = 1)) ∧
    (s.dispatchable n [2] = some t → t.alt = false → t.fld 36 2 + t.fld 38 2 ≤ 16384 →
      ((bit (t.fld 34 1) 0 = true ∨ 4096 ≤ t.fld 32 2) ∨ (s.askWatch (t.fld 32 2) (s.windowMine t)).2 = .close ∨
          (∃ r, (s.askWatch (t.fld 32 2) (s.windowMine t)).2 = .repeatIt r ∧ s.repeatBar t r ≠ 0 ∧ s.markedIn (s.repeatReads t) = []) → Gives (.hem n) s fun u =>
        Completed s u n t (widenStatus t (if (s.queueSt t.queue).repeats = 0 then stDone else stWidened)) ∧
        (u.queueSt t.queue).retained = idxNext t.index ∧ (u.queueSt t.queue).repeats = 0 ∧
        (∀ i, i < t.fld 38 2 → NoSignal t (t.fld 36 2 + i) →
          u.level (t.fld 36 2 + i) = 0)) ∧
      (∀ r, bit (t.fld 34 1) 0 = false → t.fld 32 2 < 4096 → (s.askWatch (t.fld 32 2) (s.windowMine t)).2 = .repeatIt r →
        s.repeatBar t r = 0 → s.markedIn (s.repeatReads t) = [] → Gives (.hem n) s fun u =>
        (s.repeatSet t r = [] → u.tasks = s.tasks ∧ SameBytes s u ∧ SameSeals s u) ∧ (u.queueSt t.queue).repeats = (s.queueSt t.queue).repeats + 1 ∧
        u.rf pgSched R.GRAPH_SCHED.REPEAT_COUNT = up32 (s.rf pgSched R.GRAPH_SCHED.REPEAT_COUNT) ∧ Caused u pgSched 1 ∧
        Logged s u 0x0603 [t.queue, t.fld 32 2, r.code]) ∧
      (∀ clip sat w, bit (t.fld 34 1) 0 = false → t.fld 32 2 < 4096 → (s.askWatch (t.fld 32 2) (s.windowMine t)).2 = .replay clip sat →
        s.window = some w → Gives (.hem n) s fun u =>
        (∀ k ∈ u.tasks, k.queue ≠ t.queue) ∧ u.head t.queue = w.first % 2 ^ 32 ∧ (u.queueSt t.queue).replayEnd = some t.index ∧
        u.rf pgSched R.GRAPH_SCHED.REPLAY_COUNT = up32 (s.rf pgSched R.GRAPH_SCHED.REPLAY_COUNT) ∧ Caused u pgSched 0 ∧
        Logged s u 0x0601 [t.queue, w.step, w.replays + 1] ∧ SameBytes s u ∧ SameSeals s u))

/-- Tasks that the scheduler completes itself, steps and HEMs. -/
def Obligations.SchedulerTasks : Prop := Claims.SchedulerTasksComplete ∧ Claims.StepsAndHems

/-- A finished task completes in the order of R285: it is gone, its record holds its status, its signals have been made, and its index is counted
where it completes for the first time. Stated where no panel's work waits for the completion and no line of its record is marked. -/
def Obligations.TaskCompletionInOrder : Prop :=
  ∀ (s : State) (n : Nat) (t : Task) (st detail event errDetail : Nat), s.task? n = some t → t.phase = .finished st detail event errDetail →
    t.queue < 64 → t.post = [] → Alone s n → (headerPage t.unit).isSome = true → s.markedIn (s.recordRanges t) = [] →
    (typeClass t.type ≠ .array ∨ s.arrOrder = []) →
    Gives (.taskCompletion n) s fun u => Completed s u n t (widenStatus t st) ∧
      (∀ b, descSignals t.desc = [(b, false)] → graphButton b = true → u.btnValue b = s.btnValue b + 1) ∧
      (t.alt = false → (s.queueSt t.queue).done.contains t.index = false → idxBefore t.index (s.consumed t.queue) = false →
        u.rf (pgQueue t.queue) R.GRAPH_QUEUE.COMPLETED = (s.rf (pgQueue t.queue) R.GRAPH_QUEUE.COMPLETED + 1) % 2 ^ 32) ∧
      (t.flag 5 = true → Caused u (pgQueue t.queue) 0) ∧ (stHeld ≤ st → Caused u (pgQueue t.queue) 1)

namespace Sys2Proof.Claims

open Machine

/-- A register of a channel, or one of its die that shows the channels' states. -/
def ChanReg (n c o : Nat) : Prop :=
  (pgDma n c + 0x200 + 0x100 * (c % 8) ≤ o ∧ o < pgDma n c + 0x300 + 0x100 * (c % 8)) ∨ o = pgMemDie n + R.MEM_DIE.CHAN_BUSY.off ∨
    o = pgMemDie n + R.MEM_DIE.CHAN_OWNER.off

/-- The source of a channel's active set. -/
def actSrc (s : State) (n c : Nat) : Nat := s.rf64 (pgDma n c) R.DMA.ACT_SRC_LO R.DMA.ACT_SRC_HI (c % 8)
/-- The destination of a channel's active set. -/
def actDst (s : State) (n c : Nat) : Nat := s.rf64 (pgDma n c) R.DMA.ACT_DST_LO R.DMA.ACT_DST_HI (c % 8)

/-- A channel's active set runs a transfer. -/
def Transfers (u : State) (n c src dst len : Nat) (task : Option Nat) : Prop :=
  (u.chan n c).busy = true ∧ (u.chan n c).task = task ∧ actSrc u n c = src ∧ actDst u n c = dst ∧ u.cf n c R.DMA.RESIDUE = len

end Sys2Proof.Claims

/-- The registers of a channel: the owner is written while it is idle (R309); `ARM` of an idle direct channel starts the transfer that its
shadow describes, and of a running one arms its shadow (R312); a shadow register of a direct channel takes its own bits, or is refused with
event 0x0708 while the shadow is armed (R312); `ABORT` stops a running direct channel and clears `ARM` (R315). Owner writes are stated where no
DMA_COPY waits for a shadow. -/
def Sys2Proof.Claims.DmaChannelRegisters : Prop :=
  ∀ (s : State) (v : View) (n : Die8) (c : ChanNo) (direct : Bool) (reg : Fin 8) (w : Word) (off : Nat),
    off = pgDma n c + 0x200 + 0x100 * (c % 8) + 4 * reg →
    (Writes s v (pgDma n c) true →
      ((s.chan n c).busy = false → (s.chan n c).shadow = none → s.cf n c R.DMA.CH_CTL_ARM = 0 → s.dmaQueue = [] →
        Gives (.chOwnerWrite v n c direct) s fun u =>
        u.cf n c R.DMA.CH_CTL_OWNER = b2n direct ∧ bit (u.rf (pgMemDie n) R.MEM_DIE.CHAN_OWNER) c = direct ∧ SameRegs s u (ChanReg n c) ∧
        u.chans = s.chans ∧ SameBytes s u ∧ SameSeals s u) ∧
      ((s.chan n c).busy = true → exec (.chOwnerWrite v n c direct) s = .next s) ∧
      (s.isDirect n c = true → (s.chan n c).busy = false → Gives (.chArm v n c) s fun u =>
        Transfers u n c (s.rf64 (pgDma n c) R.DMA.SRC_LO_ADDR R.DMA.SRC_HI_ADDR (c % 8))
          (s.rf64 (pgDma n c) R.DMA.DST_LO_ADDR R.DMA.DST_HI_ADDR (c % 8)) (64 * s.cf n c R.DMA.LEN_BYTES) none ∧
        u.cf n c R.DMA.CH_CTL_ARM = 0 ∧ SameRegs s u (ChanReg n c) ∧ SameBytes s u ∧ SameSeals s u) ∧
      (s.isDirect n c = true → (s.chan n c).busy = true → Gives (.chArm v n c) s fun u => u.cf n c R.DMA.CH_CTL_ARM = 1 ∧
        u.chans = s.chans ∧ SameRegs s u (fun o => o = pgDma n c + R.DMA.CH_CTL_ARM.off + 0x100 * (c % 8)) ∧ SameBytes s u ∧ SameSeals s u) ∧
      (s.isDirect n c = true → s.cf n c R.DMA.CH_CTL_ARM = 1 → Gives (.shadowWrite v n c reg w) s fun u =>
        Logged s u 0x0708 [n, c, 4 * reg] ∧ u.hdr (pgDma n c) oERR_COUNT = up32 (s.hdr (pgDma n c) oERR_COUNT) ∧
        SameRegs s u (fun o => o = pgDma n c + oERR_COUNT ∨ o = pgDma n c + oERR_LAST ∨ Reports o) ∧ SameBytes s u ∧ SameSeals s u) ∧
      (s.isDirect n c = true → s.cf n c R.DMA.CH_CTL_ARM = 0 →
        (reg.val ∈ [4, 5] → Gives (.shadowWrite v n c reg w) s fun u =>
          (∀ f ∈ Cls.dma.fieldsAt (off % 0x1000), TakesField s u v off w f) ∧ SameRegs s u (fun o => o = off) ∧ SameBytes s u ∧ SameSeals s u) ∧
        (reg.val ∈ [0, 2, 6] → Gives (.shadowWrite v n c reg w) s fun u =>
          aget? u.pairHold (off + 4) = some w ∧ u.regs = s.regs ∧ SameBytes s u ∧ SameSeals s u) ∧
        (reg.val ∈ [1, 3, 7] → Gives (.shadowWrite v n c reg w) s fun u =>
          (∀ f ∈ Cls.dma.fieldsAt (off % 0x1000), TakesField s u v off w f) ∧
          (∀ lo, aget? s.pairHold off = some lo → ∀ f ∈ Cls.dma.fieldsAt (off % 0x1000 - 4), TakesField s u v (off - 4) lo f) ∧
          SameRegs s u (fun o => o = off - 4 ∨ o = off) ∧ SameBytes s u ∧ SameSeals s u)) ∧
      (s.isDirect n c = false → exec (.shadowWrite v n c reg w) s = .next s ∧ exec (.chArm v n c) s = .next s)) ∧
    (Writes s v (pgDma n c) false → s.isDirect n c = true → (s.chan n c).busy = true → (s.chan n c).ended ≤ 1 → Gives (.chAbort v n c) s fun u =>
      (u.chan n c).ended = 2 ∧ u.cf n c R.DMA.CH_STATUS_STATE = 3 ∧ u.cf n c R.DMA.CH_CTL_ARM = 0 ∧
      u.cf n c R.DMA.RESIDUE = s.cf n c R.DMA.RESIDUE ∧ SameRegs s u (ChanReg n c) ∧ SameBytes s u ∧ SameSeals s u)

/-- A pulse of a request line, from its source or from `SW_REQ`, adds a credit to every channel of the die that it paces, up to 255, and
to no other (R310). -/
def Sys2Proof.Claims.RequestLinesAddCredits : Prop :=
  ∀ (s : State) (n : Die8) (line : Nat),
    let after (u : State) : Prop := (∀ c : ChanNo, u.cf n c R.DMA.CH_STATUS_CREDITS =
        (if (s.chan n c).pace = true ∧ (s.chan n c).line = line then Nat.min 255 (s.cf n c R.DMA.CH_STATUS_CREDITS + 1)
         else s.cf n c R.DMA.CH_STATUS_CREDITS)) ∧
      SameRegs s u (fun o => (∃ c : ChanNo, o = pgDma n c + 0x224 + 0x100 * (c % 8)) ∨ o = pgMemDie n + R.MEM_DIE.CHAN_BUSY.off ∨
        o = pgMemDie n + R.MEM_DIE.CHAN_OWNER.off) ∧ u.chans = s.chans ∧ SameBytes s u ∧ SameSeals s u
    (∀ l : Fin 118, l.val = line → Gives (.requestLinePulse n l) s after) ∧
    (∀ (v : View) (l : Byte), l.toNat = line → Writes s v (pgMemDie n) false → Gives (.swReq v n l) s after)

/-- DMA channel registers and request lines. -/
def Obligations.DmaRegistersAndRequests : Prop := Claims.DmaChannelRegisters ∧ Claims.RequestLinesAddCredits

/-- A burst whose blocks are good copies its bytes, and no other byte changes; a whole device block of it takes the seal of its source; source
and destination move on, and with the last byte the transfer is ready to end (R311, R314). -/
def Sys2Proof.Claims.DmaBurstCopiesBytes : Prop :=
  ∀ (s : State) (n : Die8) (c : ChanNo) (src dst len : Nat), actSrc s n c = src → actDst s n c = dst → s.burstLen n c = len →
    (s.chan n c).busy = true → (s.chan n c).ended = 0 → ((s.chan n c).pace = true → 0 < s.cf n c R.DMA.CH_STATUS_CREDITS) →
    s.clocked (pllMem n) = true → s.markedIn [(src, len), (dst, len)] = [] → faultIn src len = none → faultIn dst len = none →
    (∀ k ∈ blocksOf src len ++ blocksOf dst len, s.blockOk k = true) → (∀ k ∈ blocksOf src len, k ∉ blocksOf dst len) →
    Gives (.dmaBurstIssue n c) s fun u =>
      (∀ i, i < len → u.byte (dst + i) = s.byte (src + i)) ∧ OnlyIn s u [(dst, len)] ∧
      (len = 4096 → src % 4096 = 0 → dst % 4096 = 0 → inHost src = false → inHost dst = false → (s.chan n c).first ≤ dst →
        u.sealEntry (dst / 4096) = s.sealEntry (src / 4096)) ∧
      actSrc u n c = src + len ∧ actDst u n c = dst + len ∧ u.cf n c R.DMA.RESIDUE = s.cf n c R.DMA.RESIDUE - len ∧
      (u.chan n c).ended = (if s.cf n c R.DMA.RESIDUE ≤ len then 1 else 0) ∧
      ((s.chan n c).pace = true → u.cf n c R.DMA.CH_STATUS_CREDITS = s.cf n c R.DMA.CH_STATUS_CREDITS - 1) ∧ SameRegs s u OfDies

/-- The end of a transfer (R313): its status record is written where it has one; a task's next segment starts; with none left the channel is
idle and its task has its status. Stated where no other DMA_COPY waits for a shadow of the die. -/
def Sys2Proof.Claims.DmaTransferEnds : Prop :=
  ∀ (s : State) (n : Die8) (c : ChanNo), (s.chan n c).busy = true → s.clocked (pllMem n) = true →
    (∀ x rest, (s.chan n c).ended = 1 → (s.chan n c).segs = x :: rest → Gives (.dmaTransferEnd n c) s fun u =>
      Transfers u n c (x.1 % 2 ^ 64) (x.2.1 % 2 ^ 64) (x.2.2 % 2 ^ 32) (s.chan n c).task ∧ (u.chan n c).segs = rest ∧
      SameOutside s u (if (s.chan n c).stat = 0 then [] else [((s.chan n c).stat, 16)]) ∧ SameSeals s u ∧ SameRegs s u OfDies) ∧
    (∀ st, st ∈ [1, 2, 3, 4] → (s.chan n c).ended = st → (st = 1 → (s.chan n c).segs = []) → (s.chan n c).shadow = none →
      s.cf n c R.DMA.CH_CTL_ARM = 0 → s.dmaQueue = [] → Gives (.dmaTransferEnd n c) s fun u =>
        (u.chan n c).busy = false ∧ u.cf n c R.DMA.CH_STATUS_STATE = 0 ∧ u.cf n c R.DMA.CH_STATUS_LAST = st ∧
        u.cf n c R.DMA.DONE_COUNT = up32 (s.cf n c R.DMA.DONE_COUNT) ∧
        (∀ t, (s.chan n c).task = some t → (s.task? t).isSome = true → Finished u t (if st = 1 then stDone else if st = 3 then stSeal else stAborted) 0) ∧
        ((s.chan n c).stat ≠ 0 → faultIn (s.chan n c).stat 16 = none →
          u.num (s.chan n c).stat 4 = s.cf n c R.DMA.RESIDUE ∧ u.byte ((s.chan n c).stat + 4) = BitVec.ofNat 8 st) ∧
        SameOutside s u (if (s.chan n c).stat = 0 then [] else [((s.chan n c).stat, 16)]) ∧ SameSeals s u ∧ SameRegs s u OfDies)

/-- DMA bursts and the end of a transfer. -/
def Obligations.DmaTransfers : Prop := Claims.DmaBurstCopiesBytes ∧ Claims.DmaTransferEnds

namespace Sys2Proof.Claims

open Machine

/-- The segments of a DMA_COPY, of its list where it has one (R316). -/
def segsOf (s : State) (t : Task) : List (Nat × Nat × Nat) :=
  if dmaList t then segList (s.bytes (dmaListRange t).1 (dmaListRange t).2) (t.fld 54 2)
  else if line64 (t.fld 48 4) = 0 then [] else [(line64 (t.addr 32), line64 (t.addr 40), line64 (t.fld 48 4))]

end Sys2Proof.Claims

/-- A DMA_COPY goes to the lowest free channel of its die, which takes its first segment at once where it is idle and else holds it in its
shadow; with no free shadow it waits for one; with no bytes it completes DONE; one whose list or ranges are not installed is ABORTED with check 1
and event 0x0704, and one whose list fails its seal ends SEAL_MISMATCH (R312, R316, R317). -/
def Sys2Proof.Claims.DmaCopyDispatch : Prop :=
  ∀ (s : State) (n : Nat) (t : Task) (d : Nat), s.dispatchable n [0x40] = some t → s.pickUnit 0x40 t.hint = some d →
    s.clocked (pllMem d) = true → s.markedIn [dmaListRange t] = [] →
    (segsOf s t = [] → Gives (.dmaCopy n) s fun u => Finished u n stDone 0 ∧ u.chans = s.chans ∧ SameBytes s u ∧ SameSeals s u ∧
      SameRegs s u Dispatched) ∧
    (segsOf s t ≠ [] → rangeOk (dmaListRange t).1 (dmaListRange t).2 = true →
      (∀ k, s.firstBad (blocksOf (dmaListRange t).1 (dmaListRange t).2) = some k → Gives (.dmaCopy n) s fun u =>
        Finished u n stSeal 0 ∧ u.chans = s.chans ∧ SameBytes s u ∧ SameSeals s u ∧ SameRegs s u OfDies) ∧
      (s.firstBad (blocksOf (dmaListRange t).1 (dmaListRange t).2) = none →
        (((segsOf s t).all fun x => rangeOk x.1 x.2.2 && rangeOk x.2.1 x.2.2) = true → s.dmaQueue = [] →
          (∀ c x rest, s.freeChan d = some c → segsOf s t = x :: rest → Gives (.dmaCopy n) s fun u =>
            ((s.chan d c).busy = false → Transfers u d c x.1 x.2.1 x.2.2 (some n) ∧ (u.chan d c).segs = rest) ∧
            ((s.chan d c).busy = true → (u.chan d c).shadow = some n ∧ (u.chan d c).next = x :: rest ∧ (u.chan d c).segs = (s.chan d c).segs) ∧
            Runs u n (pgMemDie d) ∧ SameBytes s u ∧ SameSeals s u ∧ SameRegs s u OfDies) ∧
          (s.freeChan d = none → Gives (.dmaCopy n) s fun u => Runs u n (pgMemDie d) ∧ u.dmaQueue = [(d, n, segsOf s t)] ∧
            u.chans = s.chans ∧ SameBytes s u ∧ SameSeals s u ∧ SameRegs s u OfDies)) ∧
        (((segsOf s t).all fun x => rangeOk x.1 x.2.2 && rangeOk x.2.1 x.2.2) = false → Gives (.dmaCopy n) s fun u =>
          Finished u n stAborted 1 ∧ u.chans = s.chans ∧ Logged s u 0x0704 [d, 1, t.addr 32 % 2 ^ 32] ∧ SameBytes s u ∧ SameSeals s u ∧
          SameRegs s u OfDies))) ∧
    (segsOf s t ≠ [] → rangeOk (dmaListRange t).1 (dmaListRange t).2 = false → Gives (.dmaCopy n) s fun u =>
      Finished u n stAborted 1 ∧ u.chans = s.chans ∧ Logged s u 0x0704 [d, 1, t.addr 32 % 2 ^ 32] ∧ SameBytes s u ∧ SameSeals s u ∧
      SameRegs s u OfDies)

/-- A controller's read of a line: a corrected error is counted; an uncorrectable one is counted, recorded with its address and logged as event
0x0701, and the line stays bad (R308). -/
def Sys2Proof.Claims.DramReadsReportErrors : Prop :=
  ∀ (s : State) (a : Nat), (inTierA a || inTierB a) = true → s.clocked (pllMem (blockOwner a).1) = true →
    (Gives (.dramReadComplete a .good) s fun u => a / 64 ∉ u.host.badLines ∧ u.regs = s.regs ∧ SameBytes s u ∧ SameSeals s u) ∧
    (Gives (.dramReadComplete a .corrected) s fun u => a / 64 ∉ u.host.badLines ∧
      u.rf (ctlPage a) R.CTL.CE_COUNT = up32 (s.rf (ctlPage a) R.CTL.CE_COUNT) ∧ Caused u (ctlPage a) 1 ∧
      SameRegs s u (fun o => o = ctlPage a + R.CTL.CE_COUNT.off ∨ o = ctlPage a + oINT_STATUS ∨ Reports o) ∧ SameBytes s u ∧ SameSeals s u) ∧
    (Gives (.dramReadComplete a .uncorrectable) s fun u => a / 64 ∈ u.host.badLines ∧ u.badBlock (a / 4096) = true ∧
      u.rf (ctlPage a) R.CTL.UE_COUNT = up32 (s.rf (ctlPage a) R.CTL.UE_COUNT) ∧
      u.rf64 (ctlPage a) R.CTL.UE_ADDR_LO R.CTL.UE_ADDR_HI_ADDR = 64 * (a / 64) ∧ Caused u (ctlPage a) 0 ∧
      Logged s u 0x0701 [(blockOwner a).2, 64 * (a / 64)] ∧ SameRegs s u OfDies ∧ SameBytes s u ∧ SameSeals s u)

/-- DMA_COPY at dispatch, and errors that DRAM reads report. -/
def Obligations.DmaCopyAndDram : Prop := Claims.DmaCopyDispatch ∧ Claims.DramReadsReportErrors

namespace Sys2Proof.Claims

open Machine

/-- A task of a gather unit may be dispatched to a die whose unit takes it, its operand record is installed, and no line is marked. -/
def GatherGo (s : State) (n type : Nat) (t : Task) (d : Nat) (g : GatherOp) : Prop :=
  s.dispatchable n [type] = some t ∧ s.pickUnit type t.hint = some d ∧ s.clocked (pllMem d) = true ∧ s.gatherTakes d t = true ∧
    g = gatherOp t (s.bytes (t.addr 32) 128) ∧ s.markedIn ((t.addr 32, 128) :: g.ranges) = [] ∧ faultIn (t.addr 32) 128 = none

/-- A gather task's row `p` and its table row. -/
def rowIndex (s : State) (g : GatherOp) (p : Nat) : Option Nat := g.inTable (nth (s.indices g) p 0)

/-- A table row after SCATTER_ADD, element by element: the input rows that name it added in ascending order to its old content, or to zero
without `ACCUM` (R320). -/
def rowSum (s : State) (g : GatherOp) (i e : Nat) : Nat :=
  ((List.range g.n).filter fun p => rowIndex s g p == some i).foldl (fun a p => add32 a (s.num (g.out + p * g.rowB + 4 * e) 4))
    (if g.accum then s.num (g.table + i * g.rowB + 4 * e) 4 else 0)

/-- A command, type and mode of the gather unit. -/
def GatherForm (c : Instr) (n type : Nat) (g : GatherOp) : Prop :=
  (c = .gatherRows n ∧ type = 0x41 ∧ g.experts = false) ∨ (c = .gatherExperts n ∧ type = 0x41 ∧ g.experts = true) ∨
    (c = .scatterAdd n ∧ type = 0x42)

/-- What a gather task may write: its output rows, its lists, or its table. -/
def gatherOuts (g : GatherOp) : List (Nat × Nat) :=
  if g.scatter then [(g.table, g.rows * g.rowB)]
  else if g.experts then
    [(g.out, g.x * g.cap * g.rowB), (g.pos, 4 * g.x * g.cap), (g.route, 16 * g.x)] ++
      (if g.plane2 then [(g.oExp, g.x * g.cap * g.expB)] else []) ++
      (if g.drop then [] else [(g.spill, g.x * g.sCap * g.rowB), (g.sPos, 4 * g.x * g.sCap)] ++
        (if g.plane2 then [(g.sExp, g.x * g.sCap * g.expB)] else []))
  else [(g.out, g.n * g.rowB)] ++ (if g.plane2 then [(g.oExp, g.n * g.expB)] else [])

end Sys2Proof.Claims

/-- The tasks of a gather unit (R319 to R323): with no rows they complete DONE; an operand record that fails its seal ends them SEAL_MISMATCH; one
that fails a check of Table 12-11 is ABORTED with the check and event 0x0707; a task that passes them runs, and writes only its outputs. Of good
blocks, GATHER in row mode writes for each index the table row that it names, or zeros where it names none; SCATTER_ADD writes to each row that an
index names the sum of its rows; GATHER in expert mode leaves the counts of its experts to be added to their buttons. -/
def Obligations.GatherTasks : Prop :=
  ∀ (s : State) (n : Nat) (t : Task) (d : Nat) (g : GatherOp) (c : Instr) (type : Nat), GatherGo s n type t d g → GatherForm c n type g →
    (∀ k, s.firstBad (blocksOf (t.addr 32) 128) = some k → Gives c s fun u => Finished u n stSeal 0 ∧
      Logged s u 0x0703 [32, 4096 * k] ∧ SameBytes s u ∧ SameSeals s u ∧ SameRegs s u OfDies) ∧
    (s.firstBad (blocksOf (t.addr 32) 128) = none →
      (g.n = 0 → Gives c s fun u => Finished u n stDone 0 ∧ SameBytes s u ∧ SameSeals s u ∧ SameRegs s u OfDies) ∧
      (g.n ≠ 0 → gatherCheck g ≠ 0 → Gives c s fun u => Finished u n stAborted (gatherCheck g) ∧
        Caused u (pgGather d) 0 ∧ Logged s u 0x0707 [d, gatherCheck g] ∧ SameBytes s u ∧ SameSeals s u ∧ SameRegs s u OfDies) ∧
      (g.n ≠ 0 → gatherCheck g = 0 → Gives c s fun u =>
        (Finished u n stDone 0 ∨ Finished u n stSeal 0 ∨ (c = .scatterAdd n ∧ Finished u n stNonfinite 0)) ∧ OnlyIn s u (gatherOuts g) ∧
        SameRegs s u OfDies ∧
        (c = .gatherExperts n → Finished u n stDone 0 → ∃ k, u.task? n = some k ∧
          ∀ x, x < g.x → Post.button (g.cnt + x) (nth (s.groups g).main x []).length ∈ k.post)) ∧
      (g.n ≠ 0 → gatherCheck g = 0 → g.plane2 = false →
        (∀ k ∈ blocksOfAll [g.indexRange, (g.out, g.n * g.rowB), (g.table, g.tableRows * g.rowB)], s.blockOk k = true) →
        (∀ k ∈ blocksOf g.out (g.n * g.rowB), k ∉ blocksOf g.table (g.tableRows * g.rowB)) →
        (c = .gatherRows n → Gives c s fun u => Finished u n stDone 0 ∧
          ∀ p i, p < g.n → i < g.rowB → u.byte (g.out + p * g.rowB + i) =
            match rowIndex s g p with
            | some r => s.byte (g.table + r * g.rowB + i)
            | none => 0) ∧
        (c = .scatterAdd n → Gives c s fun u => (Finished u n stDone 0 ∨ Finished u n stNonfinite 0) ∧
          ∀ r, r < g.rows →
            ((∃ p, p < g.n ∧ rowIndex s g p = some r) → ∀ e, e < g.rowB / 4 → u.num (g.table + r * g.rowB + 4 * e) 4 = rowSum s g r e) ∧
            ((∀ p, p < g.n → rowIndex s g p ≠ some r) → ∀ i, i < g.rowB → u.byte (g.table + r * g.rowB + i) = s.byte (g.table + r * g.rowB + i)))))

namespace Sys2Proof.Claims

open Machine

/-- The registers that count time: the requests outstanding, the stall, `LIMIT_MS` and `TRIAL_LEFT`. -/
def OfTime (o : Nat) : Prop :=
  o = pgHost + R.HOST.CACHE_INFLIGHT_COUNT.off ∨ o = pgTempo + R.TEMPO.TEMPO_STATUS_STALLED.off ∨ o = pgPower + R.POWER.LIMIT_MS.off ∨
    o = pgFirmware + R.FIRMWARE.TRIAL_LEFT.off

/-- The registers of the tempo unit and of what reports it. -/
def OfTempo (o : Nat) : Prop := InPage pgTempo o ∨ Reports o

/-- A mark at an expected count locks the unit: the second of two marks 2^20 ticks apart, or out of holdover the second good mark. -/
def LocksNow (s : State) : Prop :=
  s.tempo.locked = false ∧
    if s.rf pgTempo R.TEMPO.TEMPO_STATUS_STATE = 3 then 1 ≤ s.tempo.goodMarks
    else s.tempo.lastMark = some ((s.now + 2 ^ 64 - 2 ^ 20) % 2 ^ 64)

/-- The correction of the count by `e` ticks (R335): at the next tick, by a step forward, or by a stall. -/
def Corrected (s u : State) (e : Int) : Prop :=
  u.rf pgTempo R.TEMPO.LAST_CORR_TICKS = ubits 16 e ∧
  (-1 ≤ e ∧ e ≤ 1 → u.tempo.adjust = e ∧ u.tempo.stall = 0 ∧ u.tempo.count = s.tempo.count) ∧
  (1 < e → u.tempo.count = BitVec.ofNat 64 (s.now + e.toNat) ∧ u.tempo.adjust = 0 ∧ u.tempo.stall = 0 ∧
    u.rf pgTempo R.TEMPO.STEP_COUNT = up32 (s.rf pgTempo R.TEMPO.STEP_COUNT) ∧ Logged s u 0x0803 [1, ubits 64 e]) ∧
  (e < -1 → u.tempo.stall = e.natAbs ∧ u.tempo.adjust = 0 ∧ u.tempo.count = s.tempo.count ∧
    u.rf pgTempo R.TEMPO.TEMPO_STATUS_STALLED = 1 ∧ Logged s u 0x0803 [2, ubits 64 e])

/-- The unit has gone into holdover (R333, R337). -/
def HeldOver (s u : State) (src : Nat) : Prop :=
  u.rf pgTempo R.TEMPO.TEMPO_STATUS_STATE = 3 ∧ u.tempo.locked = false ∧ u.tempo.goodMarks = 0 ∧ u.tempo.count = s.tempo.count ∧
  u.rf pgTempo R.TEMPO.LOST_COUNT = up32 (s.rf pgTempo R.TEMPO.LOST_COUNT) ∧ Caused u pgTempo 0 ∧
  Logged s u 0x0801 [src, s.rf pgTempo R.TEMPO.TEMPO_STATUS_PORT] ∧ SameRegs s u OfTempo ∧ SameBytes s u ∧ SameSeals s u

/-- The entry at an index is not due in this tick, so that a command applies to it as it stands (Table 13-6). -/
def NotDue (s : State) (i : Nat) : Prop := s.eventDue (s.event i) = false

end Sys2Proof.Claims

/-- A tick adds one to the count, or one more or less after a small correction, or stands while a step backward is stalled; it touches
no other register than those that count time, and every 1,024th the ages of the panels (R331, R335). Under the internal source an armed
epoch takes effect at a count whose low 20 bits are 0 (R334). -/
def Sys2Proof.Claims.TickAdvancesTheCount : Prop :=
  ∀ s : State,
    (s.alive = false → exec .tempoTick s = .next s) ∧
    (s.alive = true → s.epochArmed = false ∨ s.tempoSrc ≠ 2 → Gives .tempoTick s fun u =>
      (s.tempo.stall = 0 → u.tempo.count = s.tempo.count + BitVec.ofInt 64 (1 + s.tempo.adjust) ∧ u.tempo.adjust = 0) ∧
      (s.tempo.stall ≠ 0 → u.tempo.count = s.tempo.count ∧ u.tempo.stall + 1 = s.tempo.stall) ∧
      u.rf pgHost R.HOST.CACHE_INFLIGHT_COUNT = 0 ∧ (u.now % 1024 ≠ 0 ∨ u.tempo.count = s.tempo.count → SameRegs s u OfTime) ∧
      SameRegs s u (fun o => OfTime o ∨ ∃ (die : Die8) (panel : Fin 68), o = pgPanel die panel + R.PANEL.CONTENT_AGE.off) ∧
      (u.now % 1024 = 0 → u.tempo.count ≠ s.tempo.count → ∀ (die : Die8) (panel : Fin 68), 2 ≤ s.content (pgPanel die panel) →
        u.rf (pgPanel die panel) R.PANEL.CONTENT_AGE = up32 (s.rf (pgPanel die panel) R.PANEL.CONTENT_AGE)) ∧
      SameBytes s u ∧ SameSeals s u) ∧
    (s.alive = true → s.epochArmed = true → s.tempoSrc = 2 → s.tempo.stall = 0 → s.tempo.adjust = 0 → s.now + 1 < 2 ^ 64 →
      low20 (s.now + 1) = 0 → Gives .tempoTick s fun u => u.epochArmed = false ∧
        (s.now + 1 ≤ s.epochSet → u.now = s.epochSet) ∧
        (s.epochSet < s.now + 1 → u.now = s.now + 1 ∧ Logged s u 0x0803 [3, ubits 64 ((s.epochSet : Int) - ((s.now + 1 : Nat) : Int))]) ∧
        SameBytes s u ∧ SameSeals s u)

/-- Under the wire source the second of two marks 2^20 ticks apart locks the unit, and out of holdover the second good mark; a mark
elsewhere is counted and corrects the count, forward by a step, backward by a stall, by one tick at the next tick; an armed epoch takes
effect at a mark, or is refused below the count; without marks the unit goes into holdover, once (R333 to R335). `EPOCH_ARM` is set but
under the beacon source (R334). -/
def Sys2Proof.Claims.MarksLockAndCorrect : Prop :=
  ∀ s : State,
    (s.alive = false ∨ s.tempoSrc ≠ 0 → exec .tempoMark s = .next s ∧ exec .tempoSourceLost s = .next s) ∧
    (s.alive = true → s.tempoSrc = 0 → s.epochArmed = false →
      (low20 s.now = 0 → Gives .tempoMark s fun u =>
        u.tempo.lastMark = some s.now ∧ u.tempo.goodMarks = s.tempo.goodMarks + 1 ∧ u.tempo.count = s.tempo.count ∧
        (LocksNow s → u.tempo.locked = true ∧ u.rf pgTempo R.TEMPO.TEMPO_STATUS_STATE = 2 ∧ Caused u pgTempo 1 ∧
          Logged s u 0x0802 [0, s.now % 2 ^ 32] ∧ SameRegs s u OfTempo) ∧
        (¬LocksNow s → u.tempo.locked = s.tempo.locked ∧ u.regs = s.regs) ∧ SameBytes s u ∧ SameSeals s u) ∧
      (low20 s.now ≠ 0 → Gives .tempoMark s fun u =>
        u.rf pgTempo R.TEMPO.MARK_ERRS = up32 (s.rf pgTempo R.TEMPO.MARK_ERRS) ∧ Caused u pgTempo 4 ∧ Logged s u 0x0806 [s.now % 2 ^ 32] ∧
        Corrected s u (markError s.now) ∧ (1 < markError s.now → low20 u.now = 0) ∧
        SameRegs s u OfTempo ∧ SameBytes s u ∧ SameSeals s u)) ∧
    (s.alive = true → s.tempoSrc = 0 → s.epochArmed = true → Gives .tempoMark s fun u => u.epochArmed = false ∧
      (s.now ≤ s.epochSet → u.now = s.epochSet) ∧
      (s.epochSet < s.now → u.now = s.now ∧ Logged s u 0x0803 [3, ubits 64 ((s.epochSet : Int) - (s.now : Int))]) ∧
      SameRegs s u OfTempo ∧ SameBytes s u ∧ SameSeals s u) ∧
    (s.alive = true → s.tempoSrc = 0 →
      (s.rf pgTempo R.TEMPO.TEMPO_STATUS_STATE ≠ 3 → Gives .tempoSourceLost s fun u => HeldOver s u 0) ∧
      (s.rf pgTempo R.TEMPO.TEMPO_STATUS_STATE = 3 → exec .tempoSourceLost s = .next s)) ∧
    (∀ v, Writes s v pgTempo true →
      (s.tempoSrc ≠ 1 → Gives (.epochArm v) s fun u => u.epochArmed = true ∧
        SameRegs s u (fun o => o = pgTempo + R.TEMPO.TEMPO_CTL_EPOCH_ARM.off) ∧ u.tempo = s.tempo ∧ SameBytes s u ∧ SameSeals s u) ∧
      (s.tempoSrc = 1 → exec (.epochArm v) s = .next s))

/-- The loss of beacons under the beacon source takes the unit into holdover; with `BEACON_AUTO` it goes to the lowest port that carries
beacons, with event 0x0807 (R337). -/
def Sys2Proof.Claims.BeaconLossAndSwitch : Prop :=
  ∀ (s : State) (port : Nat), port = s.rf pgTempo R.TEMPO.TEMPO_STATUS_PORT →
    (s.tempoSrc ≠ 1 ∨ (s.portUp port = true ∧ s.tempo.beaconGap < 4096) → exec .beaconLoss s = .next s) ∧
    (s.tempoSrc = 1 → (s.portUp port = false ∨ 4096 ≤ s.tempo.beaconGap) → s.rf pgTempo R.TEMPO.TEMPO_STATUS_STATE ≠ 3 →
      Gives .beaconLoss s fun u => HeldOver s u 1 ∧
        (s.rf pgTempo R.TEMPO.TEMPO_CTL_BEACON_AUTO = 0 ∨ s.carrying = none → u.rf pgTempo R.TEMPO.TEMPO_STATUS_PORT = port) ∧
        (∀ p, s.rf pgTempo R.TEMPO.TEMPO_CTL_BEACON_AUTO = 1 → s.carrying = some p → p ≠ port →
          u.rf pgTempo R.TEMPO.TEMPO_STATUS_PORT = p ∧ Logged s u 0x0807 [port, p] ∧ u.tempo.beaconGap = 0)) ∧
    (∀ p, s.carrying = some p → s.portUp p = true ∧ (∃ c, aget? s.tempo.heard p = some c ∧ s.tempo.ticks - c < 4096) ∧
      ∀ q, q < p → s.portUp q = false ∨ ∀ c, aget? s.tempo.heard q = some c → 4096 ≤ s.tempo.ticks - c)

/-- The tempo count: ticks, marks, beacons, holdover and the switch of source. -/
def Obligations.TempoClock : Prop := Claims.TickAdvancesTheCount ∧ Claims.MarksLockAndCorrect ∧ Claims.BeaconLossAndSwitch

/-- The commands of the event table's window (R339, R342): ARM takes a staged entry that passes its checks, DISARM disarms, READ copies the
entry into the window; an entry of the device manager is refused with `RESULT` 3, and no entry changes. An entry that is due in the tick of
the command fires first (R343; stated alone with its result). -/
def Sys2Proof.Claims.EventWindowCommands : Prop :=
  ∀ (s : State) (v : View) (i : Nat), Writes s v pgTempo false → i = s.evtSel →
    (i < 16 → NotDue s i → ∀ c ∈ [Instr.evtArm v, .evtDisarm v], Gives c s fun u => u.rf pgTempo R.TEMPO.EVT_STATUS_RESULT = 3 ∧
      u.rf pgTempo R.TEMPO.EVT_STATUS_INDEX = i ∧ u.events = s.events ∧ Caused u pgTempo 3 ∧ Logged s u 0x0804 [i, 3, 0] ∧
      SameRegs s u OfTempo ∧ SameBytes s u ∧ SameSeals s u) ∧
    (16 ≤ i → NotDue s i → s.armCheck s.staged = 0 → Gives (.evtArm v) s fun u => u.rf pgTempo R.TEMPO.EVT_STATUS_RESULT = 0 ∧
      u.rf pgTempo R.TEMPO.EVT_STATUS_INDEX = i ∧ u.rf pgTempo R.TEMPO.EVT_STATUS_ARMED = 1 ∧ u.event i = s.staged.clamped ∧
      (u.event i).armed = true ∧ (∀ j, j ≠ i → u.event j = s.event j) ∧
      SameRegs s u (fun o => OfTempo o ∨ Clamps o) ∧ SameBytes s u ∧ SameSeals s u) ∧
    (16 ≤ i → NotDue s i → s.armCheck s.staged ≠ 0 → Gives (.evtArm v) s fun u =>
      u.rf pgTempo R.TEMPO.EVT_STATUS_RESULT = s.armCheck s.staged ∧ u.rf pgTempo R.TEMPO.EVT_STATUS_INDEX = i ∧
      u.events = s.events ∧ Caused u pgTempo 3 ∧ Logged s u 0x0804 [i, s.armCheck s.staged, 0] ∧
      SameRegs s u OfTempo ∧ SameBytes s u ∧ SameSeals s u) ∧
    (16 ≤ i → NotDue s i → Gives (.evtDisarm v) s fun u => u.rf pgTempo R.TEMPO.EVT_STATUS_RESULT = 0 ∧
      u.event i = { s.event i with armed := false } ∧ (∀ j, j ≠ i → u.event j = s.event j) ∧
      SameRegs s u (fun o => o = pgTempo + R.TEMPO.EVT_STATUS_RESULT.off) ∧ SameBytes s u ∧ SameSeals s u) ∧
    (16 ≤ i → Gives (.evtDisarm v) s fun u => u.rf pgTempo R.TEMPO.EVT_STATUS_RESULT = 0 ∧ (u.event i).armed = false) ∧
    (Gives (.evtRead v) s fun u => u.rf64 pgTempo R.TEMPO.EVT_COUNT_LO R.TEMPO.EVT_COUNT_HI = (s.event i).count.toNat ∧
      u.rf pgTempo R.TEMPO.EVT_ACTION_ACTION = (s.event i).action.toNat ∧ u.rf pgTempo R.TEMPO.EVT_ACTION_ARG = (s.event i).arg.toNat ∧
      u.rf pgTempo R.TEMPO.EVT_ACTION_REPEAT = b2n (bit (s.event i).flags.toNat 0) ∧
      u.rf pgTempo R.TEMPO.EVT_ACTION_IRQ = b2n (bit (s.event i).flags.toNat 1) ∧
      u.rf pgTempo R.TEMPO.EVT_PARAM = (s.event i).param.toNat ∧ u.rf pgTempo R.TEMPO.EVT_STATUS_ARMED = b2n (s.event i).armed ∧
      u.rf pgTempo R.TEMPO.EVT_STATUS_RESULT = 0 ∧ u.events = s.events ∧
      SameRegs s u (fun o => o = pgTempo + R.TEMPO.EVT_COUNT_LO.off ∨ o = pgTempo + R.TEMPO.EVT_COUNT_HI.off ∨
        o = pgTempo + R.TEMPO.EVT_ACTION_ACTION.off ∨ o = pgTempo + R.TEMPO.EVT_PARAM.off ∨ o = pgTempo + R.TEMPO.EVT_STATUS_RESULT.off) ∧
      SameBytes s u ∧ SameSeals s u)

/-- The next entry that is due fires (R340, R341, R343): it is disarmed, or moves to its next count; a button action adds to its button, a
refresh deadline makes the aged panels of its die due, a snapshot point holds dispatch. A snapshot point adds to its button once the module
is quiet, and ends at its count. Stated where no task waits. -/
def Sys2Proof.Claims.EventsFireAndSnapshotPoints : Prop :=
  ∀ s : State, Still s →
    (s.alive = false ∨ s.nextEvent = none → exec .eventFire s = .next s) ∧
    (∀ i e, s.alive = true → s.nextEvent = some (i, e) → bit e.flags.toNat 1 = false →
      (1 ≤ e.action.toNat → e.action.toNat ≤ 4 → 256 ≤ e.arg.toNat → e.arg.toNat < 16384 → Gives .eventFire s fun u =>
        u.event i = e.after s.now ∧ (e.repeats = false → (u.event i).armed = false) ∧
        (e.repeats = true → e.count.toNat + e.param.toNat < 2 ^ 64 → e.count.toNat = s.now → 0 < e.param.toNat →
          (u.event i).armed = true ∧ (u.event i).count.toNat = e.count.toNat + e.param.toNat) ∧
        u.btnValue e.arg.toNat = s.btnValue e.arg.toNat + 1 ∧ u.rf pgTempo R.TEMPO.FIRED = up32 (s.rf pgTempo R.TEMPO.FIRED) ∧
        SameRegs s u (fun o => o = pgTempo + R.TEMPO.FIRED.off ∨ o = offButton e.arg.toNat) ∧
        u.tasks = s.tasks ∧ SameBytes s u ∧ SameSeals s u) ∧
      (e.action.toNat = 0 → Gives .eventFire s fun u => u.event i = e.after s.now ∧
        u.rf pgTempo R.TEMPO.FIRED = up32 (s.rf pgTempo R.TEMPO.FIRED) ∧ SameRegs s u (fun o => o = pgTempo + R.TEMPO.FIRED.off) ∧
        u.tasks = s.tasks ∧ SameBytes s u ∧ SameSeals s u) ∧
      (e.action.toNat = 6 → Gives .eventFire s fun u => u.event i = e.after s.now ∧
        (∀ p, p < 68 → s.content (pgPanel (2 * (e.arg.toNat / 16 % 4) + e.arg.toNat % 2) p) = 3 →
          (u.panel (pgPanel (2 * (e.arg.toNat / 16 % 4) + e.arg.toNat % 2) p)).due = true) ∧
        SameRegs s u (fun o => o = pgTempo + R.TEMPO.FIRED.off) ∧ u.tasks = s.tasks ∧ SameBytes s u ∧ SameSeals s u) ∧
      (e.action.toNat = 9 → Gives .eventFire s fun u => (u.event i).armed = false ∧
        u.snapAt = some ⟨e.arg.toNat, e.count.toNat + (if e.param.toNat = 0 then 2000 else e.param.toNat), false⟩ ∧
        SameRegs s u (fun o => o = pgTempo + R.TEMPO.FIRED.off) ∧ u.tasks = s.tasks ∧ SameBytes s u ∧ SameSeals s u)) ∧
    (s.snapAt = none → exec .snapshotPointDrained s = .next s ∧ exec .snapshotPointEnd s = .next s) ∧
    (∀ p, s.snapAt = some p →
      (p.added = false → s.quiet = true → 256 ≤ p.button → p.button < 16384 → Gives .snapshotPointDrained s fun u =>
        u.snapAt = some { p with added := true } ∧
        u.btnValue p.button = s.btnValue p.button + 1 ∧ SameRegs s u (fun o => o = offButton p.button) ∧ u.tasks = s.tasks ∧
        SameBytes s u ∧ SameSeals s u) ∧
      (p.added = true ∨ s.quiet = false → exec .snapshotPointDrained s = .next s) ∧
      (p.ends ≤ s.now → Gives .snapshotPointEnd s fun u => u.snapAt = none ∧ u.regs = s.regs ∧ u.tasks = s.tasks ∧ SameBytes s u ∧ SameSeals s u) ∧
      (s.now < p.ends → exec .snapshotPointEnd s = .next s))

/-- The event table and snapshot points of graph execution. -/
def Obligations.EventTable : Prop := Claims.EventWindowCommands ∧ Claims.EventsFireAndSnapshotPoints

namespace Sys2Proof.Claims

open Machine

/-- A port is up, has nothing to send and nothing to return, room in its replay buffer, and credits for a flit of every channel. -/
def PortReady (s : State) (n : Nat) : Prop :=
  s.named = true ∧ s.portUp n = true ∧ (s.port n).phase = .up ∧ (s.port n).tx = [] ∧ (s.port n).replay.length < 512 ∧
    (s.port n).freed = [0, 0, 0, 0] ∧ (s.port n).credits.length = 4 ∧ ∀ v, v < 4 → 15 ≤ nth (s.port n).credits v 0

/-- The next flit that leaves the module leaves port `n` with the message, or its first 240 bytes, in its slots. -/
def Sends (s u : State) (n : Nat) (m : List Byte) : Prop :=
  ∃ f rest, u.sent = s.sent ++ (n, f) :: rest ∧ (f.drop 8).take (Nat.min 240 m.length) = m.take 240

/-- The oldest message that waits at a port; `rest` waits behind it. -/
def Waits (s : State) (n vc : Nat) (m : List Byte) (rest : List (Nat × List Byte)) : Prop := (s.port n).rx = (vc, m) :: rest

/-- A local message of an opcode waits at a port, and has not passed the hop limit. -/
def Holds (s : State) (n op : Nat) (m : List Byte) : Prop :=
  (∃ vc rest, Waits s n vc m rest) ∧ s.isLocal m = true ∧ s.badOpcode n m = false ∧ mOp m = op ∧ mHops m ≠ 15

/-- The answer to a message goes out on a ready port. -/
def Answers (s : State) (m : List Byte) (k : Nat) : Prop := s.route (mSrc m) = some k ∧ PortReady s k

/-- The bytes of an answer with a status. -/
def answerBytes (s : State) (m : List Byte) (op status : Nat) : List Byte :=
  ({ op := op, dst := mSrc m, tag := mTag m, status := status } : Msg).bytes s.myId

/-- The answer to a READ of a whole block: its bytes and its seal entry (R358). -/
def blockAnswer (s : State) (m : List Byte) : List Byte :=
  let w := (s.sealEntry (mAddr m / 4096)).toNat
  ({ op := 4, dst := mSrc m, tag := mTag m, flags := 1, sealW := w, data := s.bytes (mAddr m) 4096 } : Msg).bytes s.myId

/-- The registers of a port's page and of what reports it. -/
def OfPort (n o : Nat) : Prop := InPage (pgPort n) o ∨ Reports o

/-- The registers of Seam: the ports, the management page, the seal units and buttons that messages reach, and what reports them. -/
def OfSeam (o : Nat) : Prop :=
  (∃ k, k < 16 ∧ InPage (pgPort k) o) ∨ InPage pgSeam o ∨ (∃ k : Die8, InPage (pgSeal k) o) ∨ Reports o

/-- A flit has left port `n` alone. -/
def SentOne (s u : State) (n : Nat) (f : List Byte) : Prop := u.sent = s.sent ++ [(n, f)]

/-- The codewords that the next flit of a port lies in are corrected (R348): the one that begins with it or in it, whose outcome is `k`
corrected symbols, and the one that began before. -/
def CodeGood (s : State) (n k : Nat) : Prop :=
  ((s.port n).fecPos = 0 ∨ (s.port n).fecPos = 2 → k ≤ 15) ∧ ((s.port n).fecPos ≠ 0 → (s.port n).fecLost = false)

/-- A port that is up has nothing to send and nothing to return. -/
def QuietPort (s : State) (n : Nat) : Prop := (s.port n).phase = .up ∧ (s.port n).tx = [] ∧ (s.port n).freed = [0, 0, 0, 0]

/-- A flit has been discarded and answered with `NAK` (R351). -/
def Discarded (s u : State) (n : Nat) : Prop :=
  (u.port n).rxNext = (s.port n).rxNext ∧ (u.port n).rx = (s.port n).rx ∧ (u.port n).replay = (s.port n).replay ∧
  SentOne s u n (flit 0 true 0 (s.port n).lastRx 0 [0, 0, 0, 0] []) ∧ SameRegs s u (OfPort n) ∧ SameBytes s u ∧ SameSeals s u

end Sys2Proof.Claims

/-- A port's link (R349, R351): training that reaches a width brings it up with what both sides support, sends this module's training flit,
and after a retrain sends what is not acknowledged again; a failed training is tried again; `RETRAIN` takes an up port down to training;
without acknowledgement the kept flits leave again in order, and after 8 replays without progress the port trains again; a retrain that fails
takes the link down, and the beacon port with it into holdover (R337). -/
def Sys2Proof.Claims.LinkTrainingAndReplay : Prop :=
  ∀ (s : State) (n : PortNo),
    (∀ peer, s.alive = true → (s.port n).phase = .training ∨ (s.port n).phase = .retraining → s.lanes n peer.lanes ≠ 0 →
      Gives (.portTrainingDone n peer) s fun u =>
        (u.port n).phase = .up ∧ u.portUp n = true ∧ u.rf (pgPort n) R.SEAM_PORT.LINK_STATUS_WIDTH = s.lanes n peer.lanes ∧
        u.rf (pgPort n) R.SEAM_PORT.LINK_STATUS_LEVEL = Nat.min 0x11 peer.level ∧
        u.rf (pgPort n) R.SEAM_PORT.LINK_STATUS_PEER_ID = peer.peerId ∧ u.rf (pgPort n) R.SEAM_PORT.LINK_STATUS_PEER_PORT = peer.peerPort ∧
        u.rf (pgPort n) R.SEAM_PORT.LINK_STATUS_PEER_VALID = b2n peer.peerValid ∧
        u.rf (pgPort n) R.SEAM_PORT.LINK_STATUS_PEER_STORE = b2n peer.peerStore ∧ Caused u (pgPort n) 0 ∧
        (∃ half, (peer.halfRate = true → half = true) ∧ u.rf (pgPort n) R.SEAM_PORT.LINK_STATUS_RATE = b2n half ∧
          u.trainSent = s.trainSent ++ [(n.val, s.ownTraining n (s.lanes n peer.lanes) half)] ∧
          Logged s u 0x0901 [n, s.lanes n peer.lanes, b2n half, Nat.min 0x11 peer.level]) ∧
        ((s.port n).tx = [] → u.sent = s.sent ++ (if (s.port n).phase = .retraining then (s.port n).replay.map (fun f => (n.val, f.2)) else []) ∧
          (u.port n).credits = [peer.credits0, peer.credits1, peer.credits2, peer.credits3]) ∧
        SameRegs s u (OfPort n) ∧ SameBytes s u ∧ SameSeals s u) ∧
    (s.alive = true → (s.port n).phase = .training ∨ (s.port n).phase = .down → Gives (.portTrainingRetry n) s fun u =>
      (u.port n).phase = .training ∧ u.portUp n = false ∧ u.sent = s.sent ∧ SameRegs s u (OfPort n) ∧ SameBytes s u ∧ SameSeals s u) ∧
    (∀ v, Writes s v (pgPort n) false →
      ((s.port n).phase = .up → Gives (.portCtlRetrain v n) s fun u =>
        (u.port n).phase = .retraining ∧ u.rf (pgPort n) R.SEAM_PORT.RETRAINS = up32 (s.rf (pgPort n) R.SEAM_PORT.RETRAINS) ∧
        Caused u (pgPort n) 1 ∧ u.sent = s.sent ∧ SameRegs s u (OfPort n) ∧ SameBytes s u ∧ SameSeals s u) ∧
      ((s.port n).phase = .down → Gives (.portCtlRetrain v n) s fun u => (u.port n).phase = .training ∧ u.sent = s.sent ∧
        SameRegs s u (OfPort n) ∧ SameBytes s u ∧ SameSeals s u)) ∧
    ((s.port n).phase = .up → (s.port n).replay ≠ [] →
      ((s.port n).stuck < 8 → Gives (.ackTimeout n) s fun u =>
        u.sent = s.sent ++ (s.port n).replay.map (fun f => (n.val, f.2)) ∧ (u.port n).stuck = (s.port n).stuck + 1 ∧
        u.rf (pgPort n) R.SEAM_PORT.REPLAYS = up32 (s.rf (pgPort n) R.SEAM_PORT.REPLAYS) ∧ SameRegs s u (OfPort n) ∧
        SameBytes s u ∧ SameSeals s u) ∧
      (8 ≤ (s.port n).stuck → Gives (.ackTimeout n) s fun u => (u.port n).phase = .retraining ∧ Logged s u 0x0903 [n, (s.port n).stuck] ∧
        u.sent = s.sent ∧ SameRegs s u (OfPort n) ∧ SameBytes s u ∧ SameSeals s u)) ∧
    ((s.port n).phase ≠ .up ∨ (s.port n).replay = [] → exec (.ackTimeout n) s = .next s) ∧
    ((s.port n).phase = .retraining → Gives (.linkDown n) s fun u =>
      (u.port n).phase = .down ∧ u.portUp n = false ∧ (u.port n).tx = [] ∧ (u.port n).replay = [] ∧ Caused u (pgPort n) 0 ∧
      Logged s u 0x0902 [n, (s.port n).replay.length] ∧
      (s.tempoSrc = 1 → s.rf pgTempo R.TEMPO.TEMPO_STATUS_PORT = n → u.rf pgTempo R.TEMPO.TEMPO_STATUS_STATE = 3) ∧
      SameRegs s u (fun o => OfPort n o ∨ OfTempo o) ∧ SameBytes s u ∧ SameSeals s u) ∧
    ((s.port n).phase ≠ .retraining → exec (.linkDown n) s = .next s)

/-- Flits as they arrive at a port that is up (R348, R350, R351): the good data flit that is expected is taken and acknowledged with its
number, or dropped by a module without an ID (R353); one of another number, and every flit of a codeword that is lost, is answered with `NAK`
and not taken; a codeword is counted where it begins; an idle flit acknowledges and returns credits. -/
def Sys2Proof.Claims.FlitsAreAcknowledged : Prop :=
  ∀ (s : State) (n : PortNo) (f : List Byte) (k : Nat),
    ((s.port n).phase ≠ .up → ∀ c, exec (.flitReceive n f c) s = .next s) ∧
    (QuietPort s n → CodeGood s n k → flitGood f = true →
      (fieldAt f 0 1 / 16 = 1 → bit (fieldAt f 0 1) 3 = false →
        (s.named = true → flitSeq f = (s.port n).rxNext → (s.port n).fits (fieldAt f 0 1 % 4) f = true →
          Gives (.flitReceive n f (.corrected k)) s fun u =>
            (u.port n).rxNext = (flitSeq f + 1) % 4096 ∧
            (u.port n).rx = (s.port n).rx ++ ((s.port n).joined (fieldAt f 0 1 % 4) f).2.map (fun m => (fieldAt f 0 1 % 4, m)) ∧
            SentOne s u n (flit 0 false 0 (flitSeq f) 0 [0, 0, 0, 0] []) ∧ SameRegs s u (OfPort n) ∧ SameBytes s u ∧ SameSeals s u) ∧
        (s.named = false → flitSeq f = (s.port n).rxNext → (s.port n).fits (fieldAt f 0 1 % 4) f = true →
          Gives (.flitReceive n f (.corrected k)) s fun u => (u.port n).rxNext = (flitSeq f + 1) % 4096 ∧ (u.port n).rx = (s.port n).rx ∧
            SameRegs s u (OfPort n) ∧ SameBytes s u ∧ SameSeals s u) ∧
        (flitSeq f ≠ (s.port n).rxNext → ((s.port n).replay.any fun r => r.1 == fieldAt f 1 3 / 4096) = false →
          Gives (.flitReceive n f (.corrected k)) s fun u => Discarded s u n)) ∧
      (fieldAt f 0 1 / 16 = 0 → bit (fieldAt f 0 1) 3 = false → Gives (.flitReceive n f (.corrected k)) s fun u =>
        (u.port n).credits = (List.range 4).map (fun i => nth (s.port n).credits i 0 + fieldAt f (4 + i) 1) ∧
        (((s.port n).replay.any fun r => r.1 == fieldAt f 1 3 / 4096) = true →
          (u.port n).replay = ((s.port n).replay.dropWhile fun r => r.1 != fieldAt f 1 3 / 4096).drop 1) ∧
        (((s.port n).replay.any fun r => r.1 == fieldAt f 1 3 / 4096) = false → (u.port n).replay = (s.port n).replay) ∧
        u.sent = s.sent ∧ (u.port n).rx = (s.port n).rx ∧ SameRegs s u (OfPort n) ∧ SameBytes s u ∧ SameSeals s u)) ∧
    (QuietPort s n → (s.port n).fecPos = 0 ∨ (s.port n).fecPos = 2 → Gives (.flitReceive n f .uncorrectable) s fun u =>
      u.rf (pgPort n) R.SEAM_PORT.FEC_UNCORR = up32 (s.rf (pgPort n) R.SEAM_PORT.FEC_UNCORR) ∧ Caused u (pgPort n) 2 ∧
      u.rf (pgPort n) R.SEAM_PORT.CRC_ERRS = up32 (s.rf (pgPort n) R.SEAM_PORT.CRC_ERRS) ∧ (u.port n).fecLost = true ∧ Discarded s u n) ∧
    (QuietPort s n → (s.port n).fecPos ≠ 0 → (s.port n).fecPos ≠ 2 → (s.port n).fecLost = true →
      ∀ c, Gives (.flitReceive n f c) s fun u =>
        u.rf (pgPort n) R.SEAM_PORT.FEC_UNCORR = s.rf (pgPort n) R.SEAM_PORT.FEC_UNCORR ∧
        u.rf (pgPort n) R.SEAM_PORT.CRC_ERRS = up32 (s.rf (pgPort n) R.SEAM_PORT.CRC_ERRS) ∧ (u.port n).fecLost = true ∧ Discarded s u n)

/-- A Seam link: training, replay, flits and their acknowledgement. -/
def Obligations.SeamLink : Prop := Claims.LinkTrainingAndReplay ∧ Claims.FlitsAreAcknowledged

/-- A message for another node is forwarded with `HOPS` raised by one; at 15 hops any message is dropped, and one without a route, and
counted (R354). A message with a reserved opcode is dropped and counted (R357); a request that only a store answers is answered with
`STATUS` 4. -/
def Sys2Proof.Claims.ForwardingAndDropping : Prop :=
  ∀ (s : State) (n : PortNo) (vc : Nat) (m : List Byte) (rest : List (Nat × List Byte)), Waits s n vc m rest →
    (s.isLocal m = false →
      (∀ k, mHops m < 15 → s.route (mDst m) = some k → PortReady s k → m.length % 16 = 0 → 32 ≤ m.length → vc < 4 →
        Gives (.messageForward n) s fun u => Sends s u k (hopped m) ∧ (u.port n).rx = rest ∧ SameRegs s u OfSeam ∧ SameBytes s u ∧ SameSeals s u) ∧
      (mHops m < 15 → s.route (mDst m) = none → Gives (.messageForward n) s fun u => (u.port n).rx = rest ∧
        u.rf pgSeam R.SEAM_MGMT.UNROUTABLE = up32 (s.rf pgSeam R.SEAM_MGMT.UNROUTABLE) ∧ Caused u pgSeam 0 ∧
        Logged s u 0x0904 [1, mDst m, mSrc m] ∧ SameRegs s u OfSeam ∧ SameBytes s u ∧ SameSeals s u)) ∧
    (mHops m = 15 → ∀ c : Instr, (c = .messageForward n ∧ s.isLocal m = false) ∨
        (c = .reservedOpcodeMessage n ∧ s.isLocal m = true ∧ s.badOpcode n m = true) ∨
        (s.isLocal m = true ∧ s.badOpcode n m = false ∧ ((c = .beacon n ∧ mOp m = 0x20) ∨ (c = .schedule n ∧ mOp m = 0x23))) →
      Gives c s fun u => (u.port n).rx = rest ∧ u.rf pgSeam R.SEAM_MGMT.HOP_DROPS = up32 (s.rf pgSeam R.SEAM_MGMT.HOP_DROPS) ∧
        Caused u pgSeam 0 ∧ Logged s u 0x0904 [2, mDst m, mSrc m] ∧ SameRegs s u OfSeam ∧ SameBytes s u ∧ SameSeals s u) ∧
    (s.isLocal m = true → s.badOpcode n m = true → mHops m ≠ 15 → Gives (.reservedOpcodeMessage n) s fun u => (u.port n).rx = rest ∧
      u.rf pgSeam R.SEAM_MGMT.BAD_OPCODE = up32 (s.rf pgSeam R.SEAM_MGMT.BAD_OPCODE) ∧ Caused u pgSeam 2 ∧
      SameRegs s u OfSeam ∧ SameBytes s u ∧ SameSeals s u) ∧
    (∀ k op, s.isLocal m = true → s.badOpcode n m = false → mHops m ≠ 15 → storeAnswer (mOp m) = some op → Answers s m k →
      Gives (.reservedOpcodeMessage n) s fun u => Sends s u k (answerBytes s m op 4) ∧ (u.port n).rx = rest ∧
        SameRegs s u OfSeam ∧ SameBytes s u ∧ SameSeals s u)

/-- What a module does for another one (R358, R359): a WRITE in a receive window stores its data, a whole sealed block with its seal as it is;
a READ answers data, a whole block with its seal; a BUTTON_ADD adds to a graph button once the earlier WRITEs of its source are written; each
is answered. An access outside the windows is refused with `STATUS` 1 and event 0x0905, a block that fails its seal with `STATUS` 2. -/
def Sys2Proof.Claims.RemoteRequests : Prop :=
  ∀ (s : State) (n : PortNo) (m : List Byte) (k : Nat), Answers s m k →
    (Holds s n 1 m → s.markedIn [(mAddr m, mLen m)] = [] → (mData m).length = mLen m →
      (s.reachable (mAddr m) (mLen m) = true → mFlag m 0 = true → mLen m = 4096 → mAddr m % 4096 = 0 → Gives (.write n) s fun u =>
        u.bytes (mAddr m) 4096 = mData m ∧ u.sealEntry (mAddr m / 4096) = BitVec.ofNat 32 (mSeal m) ∧
        SameOutside s u [(mAddr m, 4096)] ∧ Sends s u k (answerBytes s m 2 0) ∧ SameRegs s u OfSeam) ∧
      (s.reachable (mAddr m) (mLen m) = true → ¬(mFlag m 0 = true ∧ mLen m = 4096 ∧ mAddr m % 4096 = 0) →
        (s.firstBad (partBlocks (mAddr m) (mLen m)) = none → Gives (.write n) s fun u =>
          u.bytes (mAddr m) (mLen m) = mData m ∧ (∀ b ∈ blocksOf (mAddr m) (mLen m), u.sealEntry b = u.sealOf b) ∧
          SameOutside s u [(mAddr m, mLen m)] ∧ Sends s u k (answerBytes s m 2 0) ∧ SameRegs s u OfSeam) ∧
        (∀ b, s.firstBad (partBlocks (mAddr m) (mLen m)) = some b → Gives (.write n) s fun u =>
          Sends s u k (answerBytes s m 2 2) ∧ Logged s u 0x0906 [mSrc m, 4096 * b] ∧ SameRegs s u OfSeam ∧ SameBytes s u ∧ SameSeals s u))) ∧
    (Holds s n 1 m → (mData m).length = mLen m → s.reachable (mAddr m) (mLen m) = false → Gives (.write n) s fun u =>
      u.rf pgSeam R.SEAM_MGMT.REFUSED = up32 (s.rf pgSeam R.SEAM_MGMT.REFUSED) ∧ Caused u pgSeam 1 ∧
      Logged s u 0x0905 [mSrc m, 1, mAddr m % 2 ^ 32] ∧
      Sends s u k (answerBytes s m 2 1) ∧ SameRegs s u OfSeam ∧ SameBytes s u ∧ SameSeals s u) ∧
    (Holds s n 3 m →
      (s.markedIn [(mAddr m, mArg m)] = [] → 64 ≤ mArg m → mArg m ≤ 4096 → s.reachable (mAddr m) (mArg m) = true →
        (¬(mArg m = 4096 ∧ mAddr m % 4096 = 0) → s.firstBad (blocksOf (mAddr m) (mArg m)) = none → Gives (.read n) s fun u =>
          Sends s u k (({ op := 4, dst := mSrc m, tag := mTag m, data := s.bytes (mAddr m) (mArg m) } : Msg).bytes s.myId) ∧
          SameRegs s u OfSeam ∧ SameBytes s u ∧ SameSeals s u) ∧
        (mArg m = 4096 → mAddr m % 4096 = 0 → s.badBlock (mAddr m / 4096) = false → Gives (.read n) s fun u =>
          Sends s u k (blockAnswer s m) ∧ SameRegs s u OfSeam ∧ SameBytes s u ∧ SameSeals s u) ∧
        (¬(mArg m = 4096 ∧ mAddr m % 4096 = 0) → ∀ b, s.firstBad (blocksOf (mAddr m) (mArg m)) = some b → Gives (.read n) s fun u =>
          Sends s u k (answerBytes s m 4 2) ∧ Logged s u 0x0906 [mSrc m, 4096 * b] ∧ SameRegs s u OfSeam ∧ SameBytes s u ∧ SameSeals s u)) ∧
      (s.reachable (mAddr m) (mArg m) = false ∨ (s.markedIn [(mAddr m, mArg m)] = [] ∧ (mArg m < 64 ∨ 4096 < mArg m)) →
        Gives (.read n) s fun u => u.rf pgSeam R.SEAM_MGMT.REFUSED = up32 (s.rf pgSeam R.SEAM_MGMT.REFUSED) ∧ Caused u pgSeam 1 ∧
          Logged s u 0x0905 [mSrc m, 1, mAddr m % 2 ^ 32] ∧ Sends s u k (answerBytes s m 4 1) ∧ SameRegs s u OfSeam ∧
          SameBytes s u ∧ SameSeals s u)) ∧
    (Holds s n 5 m → NoWait s →
      (s.writesAhead n m = true → exec (.buttonAdd n) s = .next s) ∧
      (s.writesAhead n m = false → graphButton (mBtn m) = true → Gives (.buttonAdd n) s fun u =>
        u.btnValue (mBtn m) = s.btnValue (mBtn m) + BitVec.ofNat 32 (mArg m) ∧ Sends s u k (answerBytes s m 2 0) ∧ u.tasks = s.tasks ∧
        SameRegs s u (fun o => OfSeam o ∨ o = offButton (mBtn m)) ∧ SameBytes s u ∧ SameSeals s u) ∧
      (s.writesAhead n m = false → graphButton (mBtn m) = false → Gives (.buttonAdd n) s fun u =>
        u.rf pgSched R.GRAPH_SCHED.BTN_ERR_COUNT = up32 (s.rf pgSched R.GRAPH_SCHED.BTN_ERR_COUNT) ∧ Sends s u k (answerBytes s m 2 5) ∧
        SameRegs s u (fun o => OfSeam o ∨ InPage pgSched o) ∧ SameBytes s u ∧ SameSeals s u))

/-- Messages at a Seam port: forwarding, dropping, and requests of remote members. -/
def Obligations.SeamMessages : Prop := Claims.ForwardingAndDropping ∧ Claims.RemoteRequests

/-- Beacons, echoes and schedules (R336, R355, R360, R361): every 1,024 ticks a beacon leaves with the count, and one received on the port in
use puts the count right and locks the unit; every 2^20 ticks the delay is measured by an echo, which is answered with its timer, and its
answer gives the delay; a schedule arms its entry, and goes on down the broadcast tree, or is refused with event 0x0804. -/
def Obligations.BeaconsEchoesSchedules : Prop :=
  ∀ (s : State) (n : PortNo) (m : List Byte) (k : Nat),
    (PortReady s n → s.rf pgTempo R.TEMPO.TEMPO_CTL_BEACON_TX = 2 ^ n.val → s.tempo.beaconIn = 0 → Gives .beaconSend s fun u =>
      Sends s u n (({ op := 0x20, dst := s.peer n, addr := s.now } : Msg).bytes s.myId) ∧ u.tempo = { s.tempo with beaconIn := 1024 } ∧
      SameRegs s u OfSeam ∧ SameBytes s u ∧ SameSeals s u) ∧
    (s.tempo.beaconIn ≠ 0 → exec .beaconSend s = .next s) ∧
    (∀ timer, PortReady s n → s.tempoSrc = 1 → s.beaconPort = n.val → s.tempo.echoIn = 0 → Gives (.beaconDelayMeasure timer) s fun u =>
      Sends s u n (({ op := 0x21, dst := s.peer n, addr := timer.toNat } : Msg).bytes s.myId) ∧ u.tempo = { s.tempo with echoIn := 2 ^ 20 } ∧
      SameRegs s u OfSeam ∧ SameBytes s u ∧ SameSeals s u) ∧
    (∀ timer, s.tempo.echoIn ≠ 0 → exec (.beaconDelayMeasure timer) s = .next s) ∧
    (Holds s n 0x20 m → s.tempoSrc = 1 → s.beaconPort = n.val → Gives (.beacon n) s fun u =>
      Corrected s u ((mAddr m : Int) + (s.delayTicks : Int) - (s.now : Int)) ∧ u.tempo.locked = true ∧ u.tempo.beaconGap = 0 ∧
      aget? u.tempo.heard n = some s.tempo.ticks ∧ SameRegs s u (fun o => OfSeam o ∨ OfTempo o) ∧ SameBytes s u ∧ SameSeals s u) ∧
    (Holds s n 0x20 m → s.tempoSrc ≠ 1 ∨ s.beaconPort ≠ n.val → Gives (.beacon n) s fun u =>
      u.tempo = { s.tempo with heard := u.tempo.heard } ∧ aget? u.tempo.heard n = some s.tempo.ticks ∧ SameRegs s u OfSeam ∧
      SameBytes s u ∧ SameSeals s u) ∧
    (∀ held, Holds s n 0x21 m → PortReady s n → Gives (.echoReq n held) s fun u =>
      Sends s u n (({ op := 0x22, dst := s.peer n, tag := mTag m, addr := mAddr m, arg := held.toNat } : Msg).bytes s.myId) ∧
      SameRegs s u OfSeam ∧ SameBytes s u ∧ SameSeals s u) ∧
    (∀ timer, Holds s n 0x22 m → s.tempoSrc = 1 → s.beaconPort = n.val → Gives (.echoResp n timer) s fun u =>
      u.rf pgTempo R.TEMPO.BEACON_DELAY_NS = echoDelay (mAddr m) timer.toNat (mArg m) ∧
      SameRegs s u (fun o => OfSeam o ∨ o = pgTempo + R.TEMPO.BEACON_DELAY_NS.off) ∧ SameBytes s u ∧ SameSeals s u) ∧
    (Holds s n 0x23 m → 16 ≤ mArg m → mArg m < 256 → NotDue s (mArg m) → s.armCheck (eventOf (mData m)) = 0 → Gives (.schedule n) s fun u =>
      u.event (mArg m) = (eventOf (mData m)).clamped ∧ (∀ j, j ≠ mArg m → u.event j = s.event j) ∧
      (mFlag m 2 = true → s.rf pgSeam R.SEAM_MGMT.BCAST_DOWN_PORTS = 2 ^ k → k < 16 → k ≠ n.val → PortReady s k →
        m.length % 16 = 0 → Sends s u k (hopped m)) ∧ SameRegs s u OfSeam ∧ SameBytes s u ∧ SameSeals s u) ∧
    (Holds s n 0x23 m → mArg m < 16 ∨ 256 ≤ mArg m → NotDue s (mArg m) → s.rf pgSeam R.SEAM_MGMT.BCAST_DOWN_PORTS = 0 →
      Gives (.schedule n) s fun u => u.events = s.events ∧ Caused u pgTempo 3 ∧ Logged s u 0x0804 [mArg m, 3, 1] ∧
        SameRegs s u (fun o => OfSeam o ∨ OfTempo o) ∧ SameBytes s u ∧ SameSeals s u) ∧
    (∀ v : View, Writes s v pgSeam false → 16 ≤ s.evtSel → NotDue s s.evtSel → s.armCheck s.staged = 0 → Gives (.schedCmdSend v) s fun u =>
      u.event s.evtSel = s.staged.clamped ∧ (∀ j, j ≠ s.evtSel → u.event j = s.event j) ∧ u.rf pgTempo R.TEMPO.EVT_STATUS_RESULT = 0 ∧
      (s.rf pgSeam R.SEAM_MGMT.BCAST_DOWN_PORTS = 2 ^ n.val → PortReady s n →
        Sends s u n (({ op := 0x23, dst := 0, arg := s.evtSel, flags := 4, data := s.staged.bytes } : Msg).bytes s.myId)) ∧
      SameRegs s u (fun o => OfSeam o ∨ OfTempo o ∨ Clamps o) ∧ SameBytes s u ∧ SameSeals s u)

namespace Sys2Proof.Claims

open Machine

/-- A SEAM_PUT or SEAM_GET may be dispatched; `x` is its transfer. -/
def SeamGo (s : State) (n : Nat) (isPut : Bool) (t : Task) (x : Txn) : Prop :=
  s.dispatchable n [if isPut then 0x61 else 0x62] = some t ∧ x = txnOfTask t isPut s.now ∧ s.txn? n = none

/-- The last answer that a transfer waits for, with good status; no line that the transfer touches is marked. -/
def LastAnswer (s : State) (m : List Byte) (x : Txn) (off : Nat) : Prop :=
  s.txnOf (mTag m) = some x ∧ s.txn? x.task = some x ∧ (s.task? x.task).isSome = true ∧ x.pending = [(mTag m, off)] ∧ x.cuts.length ≤ x.next ∧
    x.btnTag = none ∧ x.failed = none ∧ mStatus m = 0 ∧ (x.isPut = true → x.button = 0xFFFF ∨ x.btnSent = true) ∧
    s.markedIn [(x.home, x.len)] = []

/-- The one message of a transfer of one piece, at most a block: WRITE or READ of a module, STORE_PUT or STORE_GET of a store, which takes
whole blocks; data goes with its seal (R362, R363). -/
def firstMsg (s : State) (x : Txn) : Msg :=
  let d := s.bytes x.home x.len ++ List.replicate (4096 - x.len) 0
  if x.store then
    if x.isPut then { op := 0x30, dst := x.node, tag := s.nextTag, arg := x.block, addr := x.remote, sealW := crc32c d, flags := 1, data := d }
    else { op := 0x32, dst := x.node, tag := s.nextTag, arg := x.block, addr := x.remote }
  else if x.isPut then { op := 1, dst := x.node, tag := s.nextTag, addr := x.remote, data := s.bytes x.home x.len }
  else { op := 3, dst := x.node, tag := s.nextTag, arg := x.len, addr := x.remote }

end Sys2Proof.Claims

/-- SEAM_PUT and SEAM_GET at dispatch (R363, R364): a refused one is ABORTED with event 0x0907; one of no bytes completes DONE; one of a single
piece short of a block sends its message, with the data of a put, and waits for the answer; a put whose block fails its seal is SEAL_MISMATCH with event
0x0906. -/
def Sys2Proof.Claims.SeamTransfersStart : Prop :=
  ∀ (s : State) (n : Nat) (isPut : Bool) (t : Task) (x : Txn) (k : Nat), SeamGo s n isPut t x →
    let c := if isPut then Instr.seamPut n else Instr.seamGet n
    (s.txnRefused x = true → Gives c s fun u => Finished u n stAborted 0 ∧ u.txns = s.txns ∧ Logged s u 0x0907 [x.node % 4096, x.len] ∧
      SameBytes s u ∧ SameSeals s u) ∧
    (s.txnRefused x = false → s.markedIn [(x.home, x.len)] = [] →
      (x.len = 0 → (isPut = true → x.button = 0xFFFF) → Gives c s fun u =>
        Finished u n stDone 0 ∧ u.txn? n = none ∧ u.sent = s.sent ∧ SameRegs s u Dispatched ∧ SameBytes s u ∧ SameSeals s u) ∧
      (0 < x.len → x.len < 4096 → x.store = true ∨ x.remote % 4096 + x.len ≤ 4096 →
        (s.route x.node = some k → PortReady s k → (isPut = true → s.firstBad ((blocksOf x.home x.len).filter fun b => !inHost (4096 * b)) = none) →
          Gives c s fun u => Sends s u k ((firstMsg s x).bytes s.myId) ∧ Runs u n pgColl ∧
            (∃ y, u.txn? n = some y ∧ y.pending = [(s.nextTag, 0)]) ∧ SameRegs s u (fun o => OfSeam o ∨ Dispatched o ∨ InPage pgHost o) ∧
            SameBytes s u ∧ SameSeals s u) ∧
        (∀ b, isPut = true → s.firstBad ((blocksOf x.home x.len).filter fun b => !inHost (4096 * b)) = some b →
          Gives c s fun u => Finished u n stSeal 0 ∧ u.txn? n = none ∧ u.sent = s.sent ∧ Logged s u 0x0906 [s.myId, 4096 * b] ∧
            SameBytes s u ∧ SameSeals s u)))

/-- The last answer of a transfer ends its task DONE (R362, R363, R365): an acknowledgement of a put, data of a get, which is written where the task
says. Without an answer for `TXN_TIMEOUT` ticks the task is TIMEOUT with event 0x090D. -/
def Sys2Proof.Claims.SeamTransfersEnd : Prop :=
  ∀ (s : State) (n : PortNo) (m : List Byte) (x : Txn) (off : Nat),
    (∀ c, LastAnswer s m x off → x.isPut = true → ((c = .writeAck n ∧ Holds s n 2 m) ∨ (c = .storeAck n ∧ Holds s n 0x31 m)) →
      s.ackedHeads m = [] → Gives c s fun u => Finished u x.task stDone 0 ∧ u.txn? x.task = none ∧ SameRegs s u OfSeam ∧
        SameBytes s u ∧ SameSeals s u) ∧
    (∀ len c, LastAnswer s m x off → x.isPut = false → (x.cuts.find? fun p => p.1 == off) = some (off, len) → mFlag m 0 = false →
      (mData m).length = len → s.markedIn [(x.home + off, 4096)] = [] → s.firstBad (partBlocks (x.home + off) len) = none →
      ((c = .readData n ∧ Holds s n 4 m) ∨ (c = .storeData n ∧ Holds s n 0x33 m)) →
      Gives c s fun u => Finished u x.task stDone 0 ∧ u.txn? x.task = none ∧ u.bytes (x.home + off) len = mData m ∧
        SameOutside s u [(x.home + off, len)] ∧ SameRegs s u (fun o => OfSeam o ∨ InPage pgHost o)) ∧
    (∀ vc rest, Holds s n 0x35 m → Waits s n vc m rest → Gives (.storeStatResp n) s fun u => (u.port n).rx = rest ∧
      SameRegs s u OfSeam ∧ SameBytes s u ∧ SameSeals s u) ∧
    (∀ task t, s.txn? task = some x → s.task? task = some t → x.pending ≠ [] → s.unanswered x.quietAt = true →
      (x.failed = none → Gives (.transactionTimeout task) s fun u => Finished u task stTimeout 0 ∧ u.txn? task = none ∧
        Logged s u 0x090D [t.type, x.node % 4096] ∧ SameRegs s u Reports ∧ SameBytes s u ∧ SameSeals s u) ∧
      (∀ st, x.failed = some st → Gives (.transactionTimeout task) s fun u => Finished u task st 0 ∧ u.txn? task = none ∧
        u.regs = s.regs ∧ SameBytes s u ∧ SameSeals s u)) ∧
    (∀ task, s.txn? task = some x → s.unanswered x.quietAt = false → exec (.transactionTimeout task) s = .next s)

/-- SEAM_PUT and SEAM_GET: start, answers and end. -/
def Obligations.SeamTransfers : Prop := Claims.SeamTransfersStart ∧ Claims.SeamTransfersEnd

namespace Sys2Proof.Claims

open Machine

/-- The registers of the collective engine, of Seam, and of what reports them. -/
def OfColl (o : Nat) : Prop := InPage pgColl o ∨ OfSeam o

/-- What the engine may change for an entry's ledger: its own registers, and the button of the entry. -/
def OfLedger (c : CollOp) (o : Nat) : Prop := OfColl o ∨ (c.btn ≠ 0xFFFF ∧ o = offButton c.btn)

/-- The button of an entry has been added to, once. -/
def AddsButton (s u : State) (c : CollOp) : Prop := c.btn ≠ 0xFFFF → u.btnValue c.btn = s.btnValue c.btn + 1

/-- What a segment message holds (Table 14-4): the rank, the first element, and values with the ranks in them unless it is empty. -/
def Holding (g : Segment) (c : CollOp) (m : List Byte) (rank : Nat) (result : Bool) : Prop :=
  g.rank = rank ∧ g.first = mTag m ∧ g.result = result ∧
  (mFlag m 1 = true → g.vals = [] ∧ g.present = 0) ∧
  (mFlag m 1 = false → g.present = mArg m ∧ g.vals = (List.range g.len).map fun k => fieldAt (mData m) (k * c.size) c.size)

end Sys2Proof.Claims

/-- A load of the collective table puts it in force with every instance at `COLL_STEP`, or leaves the previous one where a block fails its
seal (R366); a refused task is ABORTED with event 0x0908 (R372); a task of a group of one member writes its source to its result and completes
DONE (R367, R368); one whose step does not open in time is TIMEOUT (R373); an instance that waits too long after its deadline is abandoned,
and the next step opens (R369). -/
def Obligations.CollectiveTasks : Prop :=
  (∀ (s : State) (v : View), Writes s v pgColl false → s.markedIn [(s.collTable, 64 * 4096)] = [] → rangeOk s.collTable (64 * 4096) = true →
    (s.firstBad (blocksOf s.collTable (64 * 4096)) = none → (∀ l ∈ s.ledgers, l.deadline = none) → Gives (.collLoad v) s fun u =>
      u.collLoaded = true ∧ u.ledgers = [] ∧
      (∀ e, e < 4096 → u.collOp e = collOp (s.bytes (s.collTable + 64 * e) 64) ∧
        u.inst e = Inst.fresh (s.rf64 pgColl R.COLLECTIVE.COLL_STEP_LO R.COLLECTIVE.COLL_STEP_HI)) ∧
      SameRegs s u (fun o => OfColl o ∨ InPage pgHost o) ∧ SameBytes s u ∧ SameSeals s u) ∧
    ((s.firstBad (blocksOf s.collTable (64 * 4096))).isSome = true → Gives (.collLoad v) s fun u =>
      u.ctable = s.ctable ∧ u.insts = s.insts ∧ u.collLoaded = s.collLoaded ∧ Caused u pgColl 3 ∧ Logged s u 0x090C [s.collTable % 2 ^ 32] ∧
      SameRegs s u (fun o => OfColl o ∨ InPage pgHost o) ∧ SameBytes s u ∧ SameSeals s u)) ∧
  (∀ (s : State) (n : Nat) (t : Task) (e : Nat) (c : CollOp), s.dispatchable n [0x60] = some t → e = collEntry t → c = s.collOp e →
    (s.collRefused e = true → Gives (.collective n) s fun u => Finished u n stAborted 0 ∧ Logged s u 0x0908 [e] ∧
      SameBytes s u ∧ SameSeals s u) ∧
    (s.collRefused e = false → c.p = 1 → (s.inst e) = Inst.fresh t.step →
      (s.collPast.find? fun p => p.entry == e && p.step == t.step && p.status.isSome) = none →
      AllInstalled [(c.group, 2), (c.src, c.n * c.size), (c.res, c.n * c.size), (t.addr 40, if t.addr 40 == 0 then 0 else 32)] →
      s.markedIn [(c.group, 2), (c.src, c.n * c.size), (c.res, c.n * c.size)] = [] →
      s.firstBad (blocksOf c.group 2 ++ blocksOf c.src (c.n * c.size) ++ partBlocks c.res (c.n * c.size)) = none →
      Gives (.collective n) s fun u => Finished u n stDone 0 ∧ (u.inst e).done = true ∧ (u.inst e).present = 1 ∧
        u.rf pgColl R.COLLECTIVE.DONE_COUNT = up32 (s.rf pgColl R.COLLECTIVE.DONE_COUNT) ∧
        u.bytes c.res (c.n * c.size) = s.bytes c.src (c.n * c.size) ∧ SameOutside s u [(c.res, c.n * c.size)] ∧
        SameRegs s u (fun o => OfColl o ∨ InPage pgHost o ∨ Dispatched o))) ∧
  (∀ (s : State) (n : Nat) (t : Task), s.task? n = some t → t.isRunning = true → t.type = 0x60 →
    ((s.inst t.target).step < t.step → t.startAt + (s.collOp t.target).wait < s.now → Gives (.collectiveStepWaitTimeout n) s fun u =>
      Finished u n stTimeout 0 ∧ u.regs = s.regs ∧ SameBytes s u ∧ SameSeals s u) ∧
    (t.step ≤ (s.inst t.target).step ∨ s.now ≤ t.startAt + (s.collOp t.target).wait → exec (.collectiveStepWaitTimeout n) s = .next s)) ∧
  (∀ (s : State) (e : Fin 4096) (i : Inst), i = s.inst e →
    (∀ d, i.deadline = some d → i.done = false → i.later = [] → d + (s.collOp e).wait ≤ s.now →
      s.collWaiting e (i.step + 1) = [] → s.held = [] → s.ledger? e i.step = none →
      s.markedIn ((s.collOp e).ledgerLines i.step) = [] → Gives (.collectiveAbandon e) s fun u =>
        u.inst e = Inst.fresh (i.step + 1) ∧ u.rf pgColl R.COLLECTIVE.TIMEOUT_COUNT = up32 (s.rf pgColl R.COLLECTIVE.TIMEOUT_COUNT) ∧
        Caused u pgColl 1 ∧ Logged s u 0x090A [e, i.step % 2 ^ 32] ∧
        (∀ k t, i.task = some k → i.repeats = [] → s.task? k = some t → t.type = 0x60 → Finished u k stTimeout 0) ∧
        SameRegs s u OfColl ∧ SameBytes s u ∧ SameSeals s u) ∧
    (i.deadline = none ∨ i.done = true → exec (.collectiveAbandon e) s = .next s))

/-- Segments that reach a member (R367, R368, R370, R371): one for the open step joins what the instance has, one for the next step is held, any
other is counted as stale; a late one is kept for the ledger, or dropped; a chunk of a ledger is written behind its head. A ledger that closes
where none is kept adds to the button; one whose chunks do not come gets its head with no rank in it. -/
def Obligations.CollectiveSegments : Prop :=
  (∀ (s : State) (n : PortNo) (m : List Byte) (op e : Nat) (c : Instr) (i : Inst), Holds s n op m → e = mBtn m % 4096 → i = s.inst e →
    ((op = 0x10 ∧ c = .contrib n) ∨ (op = 0x11 ∧ c = .resultSeg n)) →
    s.markedIn [((s.collOp e).res, (s.collOp e).n * (s.collOp e).size)] = [] →
    (s.collLoaded = true → mAddr m = i.step → i.ready = false → i.deadline = none → ∀ r, rankOf (s.group (s.collOp e)) (mSrc m) = some r →
      Gives c s fun u => (∃ g, (u.inst e).segs = i.segs ++ [g] ∧ Holding g (s.collOp e) m r (op == 0x11)) ∧
        (∀ k, k ≠ e → u.inst k = s.inst k) ∧ SameRegs s u OfColl ∧ SameBytes s u ∧ SameSeals s u) ∧
    (s.collLoaded = true → mAddr m = i.step + 1 → Gives c s fun u => u.held = s.held ++ [(n.val, m)] ∧ u.insts = s.insts ∧
      SameRegs s u OfColl ∧ SameBytes s u ∧ SameSeals s u) ∧
    (s.collLoaded = false ∨ (mAddr m ≠ i.step ∧ mAddr m ≠ i.step + 1) → Gives c s fun u =>
      u.rf pgColl R.COLLECTIVE.STALE_MSGS = up32 (s.rf pgColl R.COLLECTIVE.STALE_MSGS) ∧ u.insts = s.insts ∧
      SameRegs s u OfColl ∧ SameBytes s u ∧ SameSeals s u)) ∧
  (∀ (s : State) (n : PortNo) (m : List Byte) (e r : Nat) (l : LedgerRun), e = mBtn m % 4096 → rankOf (s.group (s.collOp e)) (mSrc m) = some r →
    s.ledger? e (mAddr m) = some l →
    (Holds s n 0x12 m → l.closed = false → l.deadline = none → l.kept = [] → 0 < (s.collOp e).lateMax → Gives (.lateSeg n) s fun u =>
      (∃ l', u.ledger? e (mAddr m) = some l' ∧ l'.kept = [(r, mTag m, (segOf (s.collOp e) false r 0 m).vals)]) ∧
      SameRegs s u OfColl ∧ SameBytes s u ∧ SameSeals s u) ∧
    (Holds s n 0x12 m → l.closed = true → Gives (.lateSeg n) s fun u =>
      u.rf pgColl R.COLLECTIVE.LATE_DROPPED = up32 (s.rf pgColl R.COLLECTIVE.LATE_DROPPED) ∧ Caused u pgColl 2 ∧ Logged s u 0x090B [e, 1] ∧
      u.ledgers = s.ledgers ∧ SameRegs s u OfColl ∧ SameBytes s u ∧ SameSeals s u) ∧
    (∀ g a, Holds s n 0x13 m → g = segOf (s.collOp e) false r 0 m → a = (s.collOp e).ledger (mAddr m) → g.present ≠ 0 → NoWait s →
      s.markedIn (s.ledgerRange n) = [] →
      s.firstBad (partBlocks (a + 4096 + g.first * (s.collOp e).size) (g.len * (s.collOp e).size)) = none → Gives (.ledgerSeg n) s fun u =>
        u.bytes (a + 4096 + g.first * (s.collOp e).size) (g.len * (s.collOp e).size) = g.vals.flatMap (leBytes (s.collOp e).size) ∧
        SameOutside s u [(a, 4096), (a + 4096 + g.first * (s.collOp e).size, g.len * (s.collOp e).size)] ∧
        SameRegs s u (fun o => OfLedger (s.collOp e) o ∨ InPage pgHost o))) ∧
  (∀ (s : State) (e : Fin 4096) (c : CollOp) (l : LedgerRun), c = s.collOp e → NoWait s → c.btn < 16384 ∨ c.btn = 0xFFFF →
    ((s.findLedger e fun l => !l.closed && l.past c.close s.now) = some l → c.hasLedger = false → Gives (.ledgerClose e) s fun u =>
      u.ledger? e l.step = none ∧ AddsButton s u c ∧ SameRegs s u (fun o => c.btn ≠ 0xFFFF ∧ o = offButton c.btn) ∧
      SameBytes s u ∧ SameSeals s u) ∧
    ((s.findLedger e fun l => !l.closed && l.past c.close s.now) = none → exec (.ledgerClose e) s = .next s) ∧
    ((s.findLedger e fun l => l.closed && l.past (c.close + c.wait) s.now) = some l → s.markedIn (c.ledgerLines l.step) = [] →
      Gives (.ledgerSegTimeout e) s fun u =>
        u.ledger? e l.step = none ∧ AddsButton s u c ∧ Logged s u 0x090B [e, c.p2 - l.got.length] ∧
        u.num (c.ledger l.step) 8 = l.step % 2 ^ 64 ∧ u.num (c.ledger l.step + 8) 2 = c.layer % 2 ^ 16 ∧ u.num (c.ledger l.step + 12) 4 = 0 ∧
        SameOutside s u [(c.ledger l.step, 4096)] ∧ SameRegs s u (fun o => OfLedger c o ∨ InPage pgHost o)) ∧
    ((s.findLedger e fun l => l.closed && l.past (c.close + c.wait) s.now) = none → exec (.ledgerSegTimeout e) s = .next s))

namespace Sys2Proof.Claims

open Machine

/-- The registers of the SEAL pages and of what reports them. -/
def OfSeals (o : Nat) : Prop := (∃ k : Die8, InPage (pgSeal k) o) ∨ Reports o

/-- The registers of the MAINT page and of what reports it. -/
def OfMaint (o : Nat) : Prop := InPage pgMaint o ∨ Reports o

/-- A SEAL operation has ended: what the page shows, and its cause. -/
def SealEnded (u : State) (n last blocks : Nat) : Prop :=
  u.sealOp? n = none ∧ u.rf (pgSeal n) R.SEAL.OP_CMD_BUSY = 0 ∧ u.rf (pgSeal n) R.SEAL.OP_CMD_OP = 0 ∧
    u.rf (pgSeal n) R.SEAL.OP_STATUS_LAST = last ∧ u.rf (pgSeal n) R.SEAL.OP_DONE_BLOCKS = blocks ∧ Caused u (pgSeal n) 0

/-- A core is taken for a field test that waits for it. -/
def TestGranted (s u : State) (c : CoreName) (o : FtOrigin) : Prop :=
  u.field = some ⟨c, o, 1, s.now, 0⟩ ∧ corePage c ∈ u.notReady ∧ u.holds (coreClass c) 0 = true ∧ u.rf pgMaint R.MAINT.FT_STATUS_STATE = 1 ∧
    u.rf pgMaint R.MAINT.FT_STATUS_CORE = coreCode c ∧ SameRegs s u OfMaint ∧ SameBytes s u ∧ SameSeals s u

/-- A field test has ended: its core is returned, and `FT_STATUS` shows how it went. -/
def TestEnded (s u : State) (c : CoreName) (last : Nat) : Prop :=
  u.field = none ∧ corePage c ∉ u.notReady ∧ u.holds (coreClass c) 0 = false ∧ u.rf pgMaint R.MAINT.FT_STATUS_STATE = 0 ∧
    u.rf pgMaint R.MAINT.FT_STATUS_LAST = last ∧ SameBytes s u ∧ SameSeals s u ∧
    SameRegs s u (fun o => OfMaint o ∨ o = corePage c + oPAGE_STATUS ∨ (c.vector = false ∧ o = pgGradDie c.quad + oINT_STATUS))

/-- No maintenance task that holds a grant conflicts with a request. -/
def Grantable (s : State) (cls : Nat) (dies : List Nat) : Prop := s.grants.find? (conflicts cls dies) = none

/-- A request of a class was refused by the arbiter: counted, logged with the class that holds, and its cause set (R398). -/
def RefusedBusy (s u : State) (cls : Nat) : Prop :=
  u.rf pgMaint R.MAINT.BUSY_COUNT = up32 (s.rf pgMaint R.MAINT.BUSY_COUNT) ∧ u.rf pgMaint R.MAINT.BUSY_LAST_CLASS = cls ∧ Caused u pgMaint 3 ∧
    (∃ h, Logged s u 0x0A08 [cls, h]) ∧ u.grants = s.grants ∧ SameBytes s u ∧ SameSeals s u

end Sys2Proof.Claims

/-- RESEAL, CHECK and ZERO are ignored while an operation runs; one of no blocks ends at once; any other is busy until it is done (R385). -/
def Sys2Proof.Claims.SealOperationsStart : Prop :=
  ∀ (s : State) (v : View) (n : Die8) (c : Instr) (op : Nat),
    ((c = .reseal v n ∧ op = 1) ∨ (c = .check v n ∧ op = 2) ∨ (c = .zero v n ∧ op = 3)) → Writes s v (pgSeal n) true →
    (s.sealOp? n ≠ none → exec c s = .next s) ∧
    (s.sealOp? n = none → s.rf (pgSeal n) R.SEAL.OP_LEN_BLOCKS ≠ 0 → Gives c s fun u =>
      u.sealOp? n = some ⟨op, s.rf64 (pgSeal n) R.SEAL.OP_ADDR_LO_ADDR R.SEAL.OP_ADDR_HI_ADDR, s.rf (pgSeal n) R.SEAL.OP_LEN_BLOCKS⟩ ∧
      u.rf (pgSeal n) R.SEAL.OP_CMD_OP = op ∧ u.rf (pgSeal n) R.SEAL.OP_CMD_BUSY = 1 ∧
      SameRegs s u (fun o => o = pgSeal n + R.SEAL.OP_CMD_OP.off) ∧ SameBytes s u ∧ SameSeals s u) ∧
    (s.sealOp? n = none → s.rf (pgSeal n) R.SEAL.OP_LEN_BLOCKS = 0 → Gives c s fun u =>
      SealEnded u n 1 0 ∧ SameRegs s u (fun o => InPage (pgSeal n) o ∨ Reports o) ∧ SameBytes s u ∧ SameSeals s u)

/-- What the SEAL operations do (R385): RESEAL forms the entries from the content, CHECK counts the blocks that fail and changes nothing, ZERO
leaves sealed zeros; a range that does not lie in one installed window with seals ends with LAST 2. `ENTRY_DATA` stores the entry of the
block that `ENTRY_SEL` names, where the die owns it (R401). -/
def Sys2Proof.Claims.SealOperationsEnd : Prop :=
  (∀ (s : State) (n : Die8) (o : SealOp), s.sealOp? n = some o → s.clocked (pllMem n) = true → o.addr % 4096 = 0 → o.blocks < 2 ^ 32 →
    (o.inside = true → s.markedIn [(o.addr, 4096 * o.blocks)] = [] →
      (o.op = 1 → Gives (.sealOpDone n) s fun u => SealEnded u n 1 o.blocks ∧ SameRegs s u OfSeals ∧ SameBytes s u ∧
        ∀ k, u.sealEntry k = if o.addr / 4096 ≤ k ∧ k < o.addr / 4096 + o.blocks then s.sealOf k else s.sealEntry k) ∧
      (o.op = 2 → Gives (.sealOpDone n) s fun u => SealEnded u n 1 o.blocks ∧
        u.rf (pgSeal n) R.SEAL.OP_MISMATCH = ((List.range o.blocks).filter fun i => !s.blockOk (o.addr / 4096 + i)).length ∧
        (∀ i rest, ((List.range o.blocks).filter fun i => !s.blockOk (o.addr / 4096 + i)) = i :: rest →
          u.rf64 (pgSeal n) R.SEAL.FIRST_BAD_LO R.SEAL.FIRST_BAD_HI_ADDR = o.addr + 4096 * i ∧
          Logged s u 0x0A01 [n, rest.length + 1, (o.addr + 4096 * i) % 2 ^ 32]) ∧
        SameRegs s u OfSeals ∧ SameBytes s u ∧ SameSeals s u) ∧
      (o.op = 3 → Gives (.sealOpDone n) s fun u => SealEnded u n 1 o.blocks ∧ SameRegs s u OfSeals ∧
        (∀ a, u.byte a = if o.addr ≤ a ∧ a < o.addr + 4096 * o.blocks then 0 else s.byte a) ∧
        ∀ k, if o.addr / 4096 ≤ k ∧ k < o.addr / 4096 + o.blocks then u.blockOk k = true else u.sealEntry k = s.sealEntry k)) ∧
    (o.inside = false → Gives (.sealOpDone n) s fun u => SealEnded u n 2 0 ∧ SameRegs s u OfSeals ∧ SameBytes s u ∧ SameSeals s u)) ∧
  (∀ (s : State) (n : Die8), s.sealOp? n = none → exec (.sealOpDone n) s = .next s) ∧
  (∀ (s : State) (v : View) (n : Die8) (w : Word), Writes s v (pgSeal n) true →
    (∀ k, s.selBlock n = some k → Gives (.entryDataWrite v n w) s fun u =>
      (∀ j, u.sealEntry j = if j = k then w else s.sealEntry j) ∧ Logged s u 0x0A0B [n, 4096 * k % 2 ^ 32] ∧
      SameRegs s u Reports ∧ SameBytes s u) ∧
    (s.selBlock n = none → exec (.entryDataWrite v n w) s = .next s))

/-- The SEAL pages: operations and direct entries. -/
def Obligations.SealOperations : Prop := Claims.SealOperationsStart ∧ Claims.SealOperationsEnd

/-- A field test that is granted takes its core and waits for it; one that conflicts is refused at once (R395, R398). Only a retired core is
tested for its reinstatement (R397). A test that a replay owes is requested again after 1,024 ticks (R390). -/
def Sys2Proof.Claims.FieldTestsAreGrantedOrRefused : Prop :=
  (∀ (s : State) (v : View) (c : CoreName) (i : Instr) (o : FtOrigin), Writes s v pgMaint true →
    ((i = .ftCmdTest v c ∧ o = .command) ∨ (i = .ftCmdReinstate v c ∧ o = .reinstate ∧ s.retired (corePage c) = true)) →
    (Grantable s (coreClass c) [c.quad.val] → Gives i s fun u => TestGranted s u c o) ∧
    (¬Grantable s (coreClass c) [c.quad.val] → Gives i s fun u =>
      u.field = s.field ∧ u.rf pgMaint R.MAINT.FT_STATUS_LAST = 4 ∧ RefusedBusy s u (coreClass c) ∧ SameRegs s u OfMaint)) ∧
  (∀ (s : State) (v : View) (c : CoreName), Writes s v pgMaint true → s.retired (corePage c) = false → Gives (.ftCmdReinstate v c) s fun u =>
    u.field = s.field ∧ SameRegs s u (fun o => o = pgMaint + R.MAINT.FT_CMD_OP.off) ∧ SameBytes s u ∧ SameSeals s u) ∧
  (∀ (s : State) (r : Replay) (c : CoreName) (rest : List CoreName), s.replay = some r → r.owed = c :: rest → r.retryAt ≤ s.now →
    s.field = none →
    (Grantable s (coreClass c) [c.quad.val] → Gives .minorityFieldTestRetry s fun u =>
      TestGranted s u c .afterReplay ∧ u.replay = some { r with owed := rest }) ∧
    (¬Grantable s (coreClass c) [c.quad.val] → Gives .minorityFieldTestRetry s fun u =>
      u.field = none ∧ u.replay = some { r with retryAt := s.now + 1024 } ∧ RefusedBusy s u (coreClass c) ∧ SameRegs s u OfMaint)) ∧
  (∀ (s : State) (r : Replay), s.replay = some r → s.now < r.retryAt ∨ r.owed = [] → exec .minorityFieldTestRetry s = .next s)

/-- A field test runs when its core is idle in time, and is skipped when it is not (R395). A pass returns the core; a failure runs it again; a
second failure retires the core, a pass after a failure is a transient (R396). A core is reinstated by two passes (R397). -/
def Sys2Proof.Claims.FieldTestsRunAndEnd : Prop :=
  (∀ (s : State) (f : FieldTest), s.field = some f → f.state = 1 →
    (s.coreIdle f.core = true → s.now - f.waitFrom ≤ s.rf pgMaint R.MAINT.FT_WAIT → s.clocked (pllGrad f.core.quad) = true →
      Gives .fieldTestRun s fun u => u.field = some { f with state := 2 } ∧ u.rf pgMaint R.MAINT.FT_STATUS_STATE = 2 ∧
        u.rf pgMaint R.MAINT.FT_COUNT = up32 (s.rf pgMaint R.MAINT.FT_COUNT) ∧ (f.core.vector = true → SameBytes s u ∧ SameSeals s u) ∧
        SameOutside s u [(sramBase + 0xC00000 + 0x20000000 * f.core.quad + 0x1000000 * f.core.core, 0x400000)] ∧
        SameRegs s u (fun o => OfMaint o ∨ InPage (corePage f.core) o)) ∧
    (s.rf pgMaint R.MAINT.FT_WAIT < s.now - f.waitFrom → s.gradRuns = [] → s.vecRuns = [] →
      (f.origin = .afterReplay → ∀ r, s.replay = some r → r.owed = []) → Gives .fieldTestSkip s fun u =>
      TestEnded s u f.core 5 ∧ u.rf pgMaint R.MAINT.FT_SKIPPED = up32 (s.rf pgMaint R.MAINT.FT_SKIPPED) ∧
      Logged s u 0x0A09 (coreDetail f.core ++ [2]))) ∧
  (∀ (s : State) (f : FieldTest) (pass : Bool), s.field = some f → s.clocked (pllGrad f.core.quad) = true → s.gradRuns = [] → s.vecRuns = [] →
    (f.origin = .afterReplay → ∀ r, s.replay = some r → r.owed = []) →
    (f.state ≤ 1 → exec (.fieldTestDone pass) s = .next s) ∧
    (f.state = 2 → f.origin ≠ .reinstate → pass = true → Gives (.fieldTestDone pass) s fun u =>
      TestEnded s u f.core 1 ∧ Caused u pgMaint 1 ∧ u.record = s.record) ∧
    (f.state = 2 → f.origin ≠ .reinstate → pass = false → Gives (.fieldTestDone pass) s fun u =>
      u.field = some { f with state := 3 } ∧ u.rf pgMaint R.MAINT.FT_COUNT = up32 (s.rf pgMaint R.MAINT.FT_COUNT)) ∧
    (f.state = 3 → f.origin ≠ .reinstate → pass = true → Gives (.fieldTestDone pass) s fun u =>
      TestEnded s u f.core 2 ∧ u.rf pgMaint R.MAINT.FT_TRANSIENT = up32 (s.rf pgMaint R.MAINT.FT_TRANSIENT) ∧ Caused u pgMaint 1 ∧
      Logged s u 0x0A06 (coreDetail f.core)) ∧
    (f.state = 3 → f.origin ≠ .reinstate → pass = false → Gives (.fieldTestDone pass) s fun u =>
      TestEnded s u f.core 3 ∧ u.retired (corePage f.core) = true ∧ Caused u pgMaint 1 ∧ Caused u pgMaint 2 ∧
      (f.core.vector = false → Caused u (pgGradDie f.core.quad) 0) ∧ Logged s u 0x0A07 (coreDetail f.core)) ∧
    (f.state = 2 → f.origin = .reinstate → Gives (.fieldTestDone pass) s fun u =>
      u.field = some { f with state := 3, passes := b2n pass } ∧ u.rf pgMaint R.MAINT.FT_COUNT = up32 (s.rf pgMaint R.MAINT.FT_COUNT)) ∧
    (f.state = 3 → f.origin = .reinstate → pass = true → f.passes = 1 → Gives (.fieldTestDone pass) s fun u =>
      TestEnded s u f.core 6 ∧ u.retired (corePage f.core) = false ∧ Logged s u 0x0A0A (coreDetail f.core)) ∧
    (f.state = 3 → f.origin = .reinstate → pass = false ∨ f.passes ≠ 1 → Gives (.fieldTestDone pass) s fun u =>
      TestEnded s u f.core 7 ∧ u.retired (corePage f.core) = s.retired (corePage f.core)))

/-- Field tests of cores: grants, refusals, runs and their results. -/
def Obligations.FieldTests : Prop := Claims.FieldTestsAreGrantedOrRefused ∧ Claims.FieldTestsRunAndEnd

namespace Sys2Proof.Claims

open Machine

/-- The checks of REPLAY_START all pass for the record at `a` (R387). -/
def ReplayGo (s : State) (a : Nat) : Prop :=
  let rec_ := s.bytes a 4096
  let sa := recAddr rec_ 0
  rangeOk a 4096 = true ∧ s.blockOk (a / 4096) = true ∧ rangeOk sa 4096 = true ∧ s.blockOk (sa / 4096) = true ∧
    hdHeld (s.replayHead rec_) = true ∧ hdPartial (s.replayHead rec_) = false ∧
    s.gradDescsOk rec_ (updOp (updTask rec_ 0 3 0 0) (s.bytes (recAddr rec_ 8) 128)) = true ∧ (s.otherDies (quadA rec_)).length = 2 ∧
    Grantable s mReplay (quadA rec_ :: s.otherDies (quadA rec_))

/-- A replay has decided (Table 15-3). -/
def Decided (u : State) (state outcome status minority : Nat) : Prop :=
  u.rf pgMaint R.MAINT.REPLAY_STATUS_STATE = state ∧
    ∃ r, u.replay = some r ∧ r.state = state ∧ r.outcome = outcome ∧ r.status = status ∧ r.minority = minority

end Sys2Proof.Claims

/-- REPLAY_START is ignored while a replay runs; a record outside installed memory is refused; one that passes every check starts runs A
and B on the record's die and the next two that can run (R387). -/
def Obligations.ReplayStarts : Prop :=
  ∀ (s : State) (v : View) (a : Nat), Writes s v pgMaint false → s.rf64 pgMaint R.MAINT.REPLAY_ADDR_LO_ADDR R.MAINT.REPLAY_ADDR_HI_ADDR = a →
    (∀ r, s.replay = some r → r.state ≠ 0 → exec (.replayStart v) s = .next s) ∧
    ((∀ r, s.replay = some r → r.state = 0) →
      (rangeOk a 4096 = false → Gives (.replayStart v) s fun u =>
        u.rf pgMaint R.MAINT.REPLAY_STATUS_STATE = 0 ∧ u.rf pgMaint R.MAINT.REPLAY_STATUS_STATUS = stAborted ∧
        u.rf (pgMemDie 0) R.MEM_DIE.ACCESS_FAULTS = up32 (s.rf (pgMemDie 0) R.MEM_DIE.ACCESS_FAULTS) ∧
        Logged s u 0x0A03 [stAborted, 0] ∧ u.record.nextSeq = s.record.nextSeq + 2 ∧ u.grants = s.grants ∧
        SameRegs s u (fun o => OfMaint o ∨ InPage (pgMemDie 0) o) ∧ SameBytes s u ∧ SameSeals s u) ∧
      (rangeOk a 4096 = true → s.blockOk (a / 4096) = false → Gives (.replayStart v) s fun u =>
        u.rf pgMaint R.MAINT.REPLAY_STATUS_STATE = 0 ∧ u.rf pgMaint R.MAINT.REPLAY_STATUS_STATUS = stSeal ∧
        Logged s u 0x0A03 [stSeal, fieldAt (s.replayHead (s.bytes a 4096)) 0 2] ∧ u.grants = s.grants ∧
        SameOutside s u [(recAddr (s.bytes a 4096) 32, 256)] ∧ SameSeals s u) ∧
      (ReplayGo s a → Gives (.replayStart v) s fun u =>
        u.rf pgMaint R.MAINT.REPLAY_STATUS_STATE = 1 ∧ u.rf pgMaint R.MAINT.REPLAY_COUNT = up32 (s.rf pgMaint R.MAINT.REPLAY_COUNT) ∧
        u.holds mReplay 0 = true ∧ (∃ r, u.replay = some r ∧ r.state = 1 ∧ r.recBytes = s.bytes a 4096 ∧
          r.dies = quadA (s.bytes a 4096) :: s.otherDies (quadA (s.bytes a 4096))) ∧
        SameRegs s u (fun o => OfMaint o ∨ OfSeals o ∨ InPage pgHost o) ∧ SameBytes s u ∧ SameSeals s u))

/-- The decision of a replay (R389, Table 15-3): equal digests of A and B decide outcome 1; else run C is made, and the run that it agrees with
decides. A block that fails its seal ends it with outcome 6. The decision itself writes no memory. -/
def Sys2Proof.Claims.ReplayDecides : Prop :=
  (∀ (s : State) (r : Replay) (a b : RunHealth), s.replay = some r → r.state = 1 → s.markedIn (s.replayRanges r.recBytes) = [] →
    ((s.formRun r 0 a).2 = none → Gives (.replayRunsAbDone a b) s fun u => Decided u 4 6 stSeal 0xFF ∧ SameBytes s u ∧ SameSeals s u) ∧
    (∀ r1 ra, s.formRun r 0 a = (ra, some r1) → (ra.formRun r1 1 b).2 = none → Gives (.replayRunsAbDone a b) s fun u =>
      Decided u 4 6 stSeal 0xFF ∧ SameBytes (ra.formRun r1 1 b).1 u ∧ SameSeals (ra.formRun r1 1 b).1 u) ∧
    (∀ r1 r2 ra rb, s.formRun r 0 a = (ra, some r1) → ra.formRun r1 1 b = (rb, some r2) → Gives (.replayRunsAbDone a b) s fun u =>
      (r2.agree 0 1 = true → Decided u 3 1 stReplayed 0xFF) ∧
      (r2.agree 0 1 = false → u.rf pgMaint R.MAINT.REPLAY_STATUS_STATE = 2 ∧ u.replay = some { r2 with state := 2 }) ∧
      SameRegs rb u (fun o => o = pgMaint + R.MAINT.REPLAY_STATUS_STATE.off) ∧ SameBytes rb u ∧ SameSeals rb u)) ∧
  (∀ (s : State) (r : Replay) (c : RunHealth), s.replay = some r → r.state = 2 → s.markedIn (s.replayRanges r.recBytes) = [] →
    (s.formRun r 2 c).2 = none → Gives (.replayRunCDone c) s fun u => Decided u 4 6 stSeal 0xFF) ∧
  (∀ (s : State) (r r3 : Replay) (c : RunHealth) (rc : State), s.replay = some r → r.state = 2 → s.markedIn (s.replayRanges r.recBytes) = [] →
    s.formRun r 2 c = (rc, some r3) → Gives (.replayRunCDone c) s fun u =>
      (r3.agree 0 2 = true → Decided u 3 2 stReplayed (nth r.dies 1 0xFF)) ∧
      (r3.agree 0 2 = false → r3.agree 1 2 = false → Decided u 4 4 stDisagree 0xFF) ∧
      (r3.agree 0 2 = false → r3.agree 1 2 = true → bit (fieldAt r.recBytes 40 1) 2 = true →
        Decided u 3 3 stReplayed (nth r.dies 0 0xFF)) ∧
      (r3.agree 0 2 = false → r3.agree 1 2 = true → bit (fieldAt r.recBytes 40 1) 2 = false →
        Decided u 4 5 stHeld (nth r.dies 0 0xFF)) ∧
      SameRegs rc u (fun o => o = pgMaint + R.MAINT.REPLAY_STATUS_STATE.off) ∧ SameBytes rc u ∧ SameSeals rc u)

/-- The end of a replay that commits nothing (R390): its result record is written, its status shown, its grant released, its cause set; while
its commit cannot run it goes on waiting (the wait is the model's reading of R389). -/
def Sys2Proof.Claims.ReplayEnds : Prop :=
  ∀ (s : State) (r : Replay), s.replay = some r →
    (r.state = 4 → faultIn (recAddr r.recBytes 32) 256 = none → r.outcome < 256 → r.status < 256 → (∀ d ∈ r.digests, d.length = 32) →
      r.owed = [] → r.outcome ∉ [2, 3, 5] ∨ r.dpOnly = true → Gives .replayEnd s fun u =>
        u.bytes (recAddr r.recBytes 32) 256 =
          replayRecord r (hdHoldStep (s.replayHead r.recBytes)) (fieldAt (s.replayHead r.recBytes) 0 2) s.now ∧
        u.rf pgMaint R.MAINT.REPLAY_STATUS_STATE = 0 ∧ u.rf pgMaint R.MAINT.REPLAY_STATUS_OUTCOME = r.outcome ∧
        u.rf pgMaint R.MAINT.REPLAY_STATUS_STATUS = r.status ∧ u.holds mReplay 0 = false ∧ Caused u pgMaint 0 ∧
        Logged s u 0x0A04 [r.outcome, r.minority, b2n r.dpOnly, fieldAt (s.replayHead r.recBytes) 0 2] ∧
        (∃ r', u.replay = some r' ∧ r'.state = 0) ∧ SameOutside s u [(recAddr r.recBytes 32, 256)] ∧ SameSeals s u ∧ SameRegs s u OfMaint) ∧
    (r.state ≤ 2 → exec .replayEnd s = .next s) ∧
    (r.state = 3 → s.mayCommit r = false → exec .replayEnd s = .next s) ∧
    (r.state = 3 → s.mayCommit r = true → (∀ d ∈ r.digests, d.length = 32) → s.markedIn (s.replayRanges r.recBytes) = [] → Gives .replayEnd s fun u =>
      u.rf pgMaint R.MAINT.REPLAY_STATUS_STATE = 0 ∧ u.rf pgMaint R.MAINT.REPLAY_STATUS_STATUS = (s.replayCommit r).2 % 256 ∧
      (∃ r', u.replay = some r' ∧ r'.state = 0) ∧ SameOutside (s.replayCommit r).1 u [(recAddr r.recBytes 32, 256)])

/-- Cross-die replay after its start: the runs' decision and the end. -/
def Obligations.ReplayDecidesAndEnds : Prop := Claims.ReplayDecides ∧ Claims.ReplayEnds

/-- A DIGEST_EXCHANGE that conflicts is MAINT_BUSY, and a refused one ABORTED with event 0x0908 (R391); one whose collective is not open yet
has written the model digest to its chunk and waits. The verdict (R392, R393): DONE where all agree or this member is in the majority, DIGEST
with event 0x0A05 otherwise; a collective that did not close DONE or PARTIAL gives its own status; the grant is released. -/
def Obligations.ReplicaDigests : Prop :=
  (∀ (s : State) (n : Nat) (t : Task) (e : Nat) (c : CollOp), s.dispatchable n [0x51] = some t → e = digestEntry t → c = s.collOp e →
    s.markedIn ([digestList t, (c.group, 2 * c.p), (c.src, c.n * c.size), (c.res, c.n * c.size)] ++
      (s.digestRecords t).map fun a => (a, 4096)) = [] →
    (¬Grantable s mDigest [] → Gives (.digestExchange n) s fun u => Finished u n stMaintBusy 0 ∧ RefusedBusy s u mDigest) ∧
    (Grantable s mDigest [] → s.collRefused e = true → Gives (.digestExchange n) s fun u =>
      Finished u n stAborted 0 ∧ u.holds mDigest n = false ∧ Logged s u 0x0908 [e] ∧
      SameRegs s u (fun o => OfMaint o ∨ Dispatched o) ∧ SameBytes s u ∧ SameSeals s u) ∧
    (∀ r, Grantable s mDigest [] → s.collRefused e = false → AllInstalled ([digestList t, (c.group, 2 * c.p), (c.src, c.n * c.size),
        (c.res, c.n * c.size)] ++ (s.digestRecords t).map fun a => (a, 4096)) →
      s.firstBad (blocksOf (digestList t).1 (digestList t).2 ++ blocksOf c.group (2 * c.p)) = none →
      s.firstBad (blocksOfAll ((s.digestRecords t).map fun a => (a, 4096))) = none → s.myRank c = some r →
      s.firstBad (partBlocks (c.srcRange r).1 32) = none → (s.inst e).step < t.step →
      (s.collPast.find? fun p => p.entry == e && p.step == t.step && p.status.isSome) = none → Gives (.digestExchange n) s fun u =>
        u.digests = s.digests ++ [⟨n, e, t.step, r, s.modelDigest t.step (s.digestRecords t), none⟩] ∧ u.holds mDigest n = true ∧
        u.bytes (c.srcRange r).1 32 = s.modelDigest t.step (s.digestRecords t) ∧ SameOutside s u [((c.srcRange r).1, 32)] ∧
        SameRegs s u (fun o => OfMaint o ∨ OfSeals o ∨ InPage pgHost o ∨ Dispatched o))) ∧
  (∀ (s : State) (n : Nat) (t : Task) (d : DigestRun), (s.digests.find? fun d => d.task == n) = some d → s.task? n = some t →
    (∀ v, d.closed = some stDone ∨ d.closed = some stPartial → s.markedIn [((s.collOp d.entry).res, 32 * (s.collOp d.entry).p)] = [] →
      v = verdict (s.gathered (s.collOp d.entry)) (nth (s.gathered (s.collOp d.entry)) d.rank []) → Gives (.digestVerdict n) s fun u =>
        Finished u n (if v ≤ 1 then stDone else stDigest) 0 ∧ u.holds mDigest n = false ∧
        (v ≤ 1 → u.record = s.record) ∧ (2 ≤ v → ∃ p h donor, Logged s u 0x0A05 [v, p, h, donor]) ∧
        SameRegs s u OfMaint ∧ SameBytes s u ∧ SameSeals s u) ∧
    (∀ st, d.closed = some st → st ≠ stDone → st ≠ stPartial → Gives (.digestVerdict n) s fun u =>
      Finished u n st 0 ∧ u.holds mDigest n = false ∧ u.record = s.record ∧ SameRegs s u OfMaint ∧ SameBytes s u ∧ SameSeals s u) ∧
    (d.closed = none → exec (.digestVerdict n) s = .next s))

namespace Sys2Proof.Claims

open Machine

/-- The bytes that the estimator saves of the four watches may write. -/
def estRanges (s : State) : List (Nat × Nat) := (List.range 4).map fun q => (s.estAddr q, 32768)

/-- The registers that a task of chapter 16 changes: those of the seal units and the ports, the host port, the arbiter, the watches, the count of
signatures, and what reports them. -/
def OfCkpt (o : Nat) : Prop :=
  OfSeam o ∨ InPage pgHost o ∨ InPage pgMaint o ∨ InPage pgSecurity o ∨ (∃ q, q < 4 ∧ InPage (pgWatch q) o) ∨ Dispatched o

/-- A task in progress of chapter 16: its state, its task, and no line of its ranges marked. -/
def SnapAt (s : State) (n : Nat) (t : Task) (x : Snap) : Prop :=
  s.snap? n = some x ∧ s.task? n = some t ∧ x.restore = false ∧ s.markedIn (s.snapRanges t x) = []

/-- The task of chapter 16 goes on. -/
def SnapOn (u : State) (n : Nat) (P : Snap → Prop) : Prop := ∃ y, u.snap? n = some y ∧ P y

/-- The manifest of a checkpoint task is in memory, passes its seal and check 1 (R408), and no line that dispatch reads is marked. -/
def ManifestGood (s : State) (t : Task) (m : List Byte) : Prop :=
  m = s.bytes t.manifestAt (mfLen (s.num t.manifestAt 2)) ∧ faultIn t.manifestAt (mfLen (s.num t.manifestAt 2)) = none ∧
    s.firstBad (blocksOf t.manifestAt (mfLen (s.num t.manifestAt 2))) = none ∧
    s.markedIn ([(t.manifestAt, mfLen (s.num t.manifestAt 2))] ++ (mfEntries m).map fun x => (x.state, 4096)) = []

end Sys2Proof.Claims

/-- SNAPSHOT at dispatch (R408): the first check that fails ends it ABORTED with its code in `DETAIL` and event 0x0B02; where every check
passes the task runs under its grant; where the grant is refused it is MAINT_BUSY. -/
def Sys2Proof.Claims.SnapshotDispatch : Prop :=
  ∀ (s : State) (n : Nat) (t : Task) (m : List Byte), s.dispatchable n [0x70] = some t → ManifestGood s t m →
    let kind := t.fld 48 1 % 4
    let es := snapEntries t m
    let flags := es.map (s.ledgerData t.step)
    let clash := mfCheck m (if kind = 0 then bodyLen es flags else exportBlocks es kind) (s.snapSources t kind es flags) = 2
    (∀ code fail, (mfCheck m 0 [] = 1 ∧ code = 1 ∧ fail = noEntry) ∨ (mfCheck m 0 [] ≠ 1 ∧ clash ∧ code = 2 ∧ fail = noEntry) ∨
        (mfCheck m 0 [] ≠ 1 ∧ ¬clash ∧ s.snapCheck t kind es = some (code, fail) ∧ (∀ e ∈ es, faultIn e.state 4096 = none)) →
      Gives (.snapshot n) s fun u => Finished u n stAborted code ∧ Logged s u 0x0B02 [code, fail] ∧ Logged s u 0x0B03 [stAborted, fail] ∧
        u.grants = s.grants ∧ SameRegs s u OfCkpt ∧ SameBytes s u ∧ SameSeals s u) ∧
    (mfCheck m 0 [] ≠ 1 → ¬clash → s.snapCheck t kind es = none →
      (Grantable s mCkpt [] → s.snap? n = none → Gives (.snapshot n) s fun u =>
        SnapOn u n (fun x => x.restore = false ∧ x.kind = kind ∧ x.step = t.step ∧ x.manifest = m ∧ x.flags = flags ∧ x.stage = 0) ∧
        u.holds mCkpt n = true ∧ SameRegs s u OfCkpt ∧ SameBytes s u ∧ SameSeals s u) ∧
      (¬Grantable s mCkpt [] → Gives (.snapshot n) s fun u => Finished u n stMaintBusy 0 ∧ RefusedBusy s u mCkpt))

/-- The steps of a SNAPSHOT (R406, R409 to R411, R419): the mark in every listed header; the layers one after another, each cleared of its
mark; the headers last, after which the task is DONE and its grant released; an evaluation snapshot forms its body and its signed header at
once. Nothing is written outside the marks, the estimator tables and the targets. -/
def Sys2Proof.Claims.SnapshotSteps : Prop :=
  ∀ (s : State) (n : Nat) (t : Task) (x : Snap), SnapAt s n t x → 1 ≤ mfTargets x.manifest →
    (x.stage = 0 → s.updRunning x = false → x.kind = 0 → x.issued = 0 → (∀ e ∈ mfEntries x.manifest, e.state % 4096 = 0) →
      s.firstBad ((mfEntries x.manifest).map fun e => e.state / 4096) = none → s.firstBad [s.keyTable 0 / 4096] = none →
      rangeOk (s.keyTable 0) 4096 = true →
      (∀ r ∈ estRanges s, r.1 + r.2 ≤ s.keyTable 0 ∨ s.keyTable 0 + 4096 ≤ r.1) → s.keyTable 0 % 4096 = 0 →
      Gives (.snapshotMark n) s fun u => SnapOn u n fun y => y.stage = 1 ∧ y.layer = x.layer ∧ y.marked = (mfEntries x.manifest).map (·.state) ∧
        (∀ e ∈ mfEntries x.manifest, (∀ r ∈ estRanges s ++ deviceTargets x.manifest y.body.length,
          e.state + 16 ≤ r.1 ∨ r.1 + r.2 ≤ e.state + 12) → u.num (e.state + 12) 4 = markOf x.step) ∧
        SameOutside s u (((mfEntries x.manifest).map fun e => (e.state + 12, 4)) ++ estRanges s ++
          deviceTargets x.manifest y.body.length) ∧ SameRegs s u OfCkpt) ∧
    (x.stage = 0 → s.updRunning x = false → x.kind ≠ 0 → Gives (.snapshotMark n) s fun u =>
      SnapOn u n (fun y => y.stage = 1 ∧ y.marked = [] ∧ y.body = x.body) ∧ SameOutside s u (estRanges s) ∧ SameRegs s u OfCkpt) ∧
    (x.stage ≠ 0 ∨ s.updRunning x = true → exec (.snapshotMark n) s = .next s) ∧
    (∀ e data, x.stage = 1 → x.kind = 0 → x.layer < mfLayers x.manifest → e = mfEntry x.manifest x.layer → data = nth x.flags x.layer false →
      AllInstalled (e.stateRanges data) → s.firstBad (blocksOfAll (e.stateRanges data)) = none → e.state % 4096 = 0 → Gives (.snapshotLayerStreamed n) s fun u =>
        SnapOn u n fun y => y.layer = x.layer + 1 ∧ y.body = x.body ++ blocks4k (s.layerBody e data) ∧ y.marked = x.marked.filter (· != e.state) ∧
          ((∀ r ∈ deviceTargets x.manifest y.body.length, e.state + 16 ≤ r.1 ∨ r.1 + r.2 ≤ e.state + 12) → u.num (e.state + 12) 4 = 0) ∧
          SameOutside s u ((e.state + 12, 4) :: deviceTargets x.manifest y.body.length) ∧ SameRegs s u OfCkpt) ∧
    (x.stage = 1 → x.layer = mfLayers x.manifest → x.body ≠ [] → mfStore x.manifest = false → x.issued = x.body.length → x.headers = [] →
      x.pending = [] → Gives (.snapshotHeaderWrite n) s fun u =>
        Finished u n stDone 0 ∧ u.snap? n = none ∧ u.holds mCkpt n = false ∧ Logged s u 0x0B01 [x.kind, x.step, x.body.length] ∧
        (mfTargets x.manifest = 1 → x.header = [] → u.bytes (mfDevice x.manifest 0) 4096 = s.ckptHeader x (List.replicate 64 0)) ∧
        (x.header.length ≤ 4096 → SameOutside s u ((List.range (mfTargets x.manifest)).map fun k => (mfDevice x.manifest k, 4096)))) ∧
    (x.stage = 1 → x.kind ≠ 0 → x.layer = 0 → x.issued = 0 →
      (∀ e ∈ x.entries t, AllInstalled (e.exportRanges x.kind) ∧ s.firstBad (e.exportReads x.kind) = none) →
      Gives (.evaluationSnapshot n) s fun u => SnapOn u n fun y => y.layer = (x.entries t).length ∧ y.header ≠ [] ∧
        u.rf pgSecurity R.SECURITY.SIGN_COUNT = up32 (s.rf pgSecurity R.SECURITY.SIGN_COUNT) ∧ (∃ d, Logged s u 0x0B07 [x.kind, d]) ∧
        SameRegs s u OfCkpt ∧ SameOutside s u (deviceTargets x.manifest y.body.length))

/-- SNAPSHOT: dispatch, and the steps of its four kinds. -/
def Obligations.Snapshots : Prop := Claims.SnapshotDispatch ∧ Claims.SnapshotSteps

/-- RESTORE at dispatch (R414, R415): a manifest whose counts are out of range or whose targets overlap what is restored is ABORTED with its
check in `DETAIL`; one whose targets are in a store asks for the header and runs; from device memory a header of another form is ABORTED with
check 3. Each refusal logs event 0x0B05, and nothing is written. -/
def Obligations.RestoreDispatch : Prop :=
  ∀ (s : State) (n : Nat) (t : Task) (m : List Byte), s.dispatchable n [0x71] = some t → ManifestGood s t m → s.snap? n = none →
    s.markedIn (s.restoreRanges m (bodyLen (mfEntries m) ((mfEntries m).map fun _ => true))) = [] →
    let src := [(t.manifestAt, mfLen (mfEntries m).length), (s.keyTable 0, 4096)] ++ (mfEntries m).flatMap (fun e => e.stateRanges false)
    let clash := mfCheck m (bodyLen (mfEntries m) []) src = 2
    (∀ code, (mfCheck m 0 [] = 1 ∧ code = 1) ∨ (mfCheck m 0 [] ≠ 1 ∧ clash ∧ code = 2) → Gives (.restore n) s fun u =>
      Finished u n stAborted code ∧ Logged s u 0x0B05 [stAborted, 0, t.dataStep] ∧ u.grants = s.grants ∧ SameRegs s u OfCkpt ∧
      SameBytes s u ∧ SameSeals s u) ∧
    (mfCheck m 0 [] ≠ 1 → ¬clash →
      (mfStore m = true → Gives (.restore n) s fun u =>
        SnapOn u n (fun x => x.restore = true ∧ x.stage = 0 ∧ x.manifest = m ∧ ∃ tag, x.pending = [(tag, 1)]) ∧
        u.grants = s.grants ∧ SameRegs s u OfCkpt ∧ SameBytes s u ∧ SameSeals s u) ∧
      (∀ h x, mfStore m = false → h = s.bytes (mfDevice m 0) 4096 → faultIn (mfDevice m 0) 4096 = none →
        s.blockOk (mfDevice m 0 / 4096) = true → x.manifest = m → Snap.headerFits x h = false → Gives (.restore n) s fun u =>
          Finished u n stAborted 3 ∧ u.snap? n = none ∧ u.grants = s.grants ∧ Logged s u 0x0B05 [stAborted, fieldAt h 8 8, t.dataStep] ∧
          SameRegs s u OfCkpt ∧ SameBytes s u ∧ SameSeals s u))

namespace Sys2Proof.Claims

open Machine

/-- What both converters of a pair show of its last check. -/
def PairShows (u : State) (p trusted a b : Nat) : Prop :=
  ∀ mc, mc = 2 * p ∨ mc = 2 * p + 1 → u.rf (pgMonitor mc) R.MONITOR.PAIR_STATUS_TRUSTED = trusted ∧
    u.rf (pgMonitor mc) R.MONITOR.PAIR_STATUS_CODE_EVEN = a ∧ u.rf (pgMonitor mc) R.MONITOR.PAIR_STATUS_CODE_ODD = b

/-- The registers of the monitor and of what rests on its readings: power, calibration, the device's state, the array dies, and reports. -/
def OfMonitor (o : Nat) : Prop :=
  (∃ k, k < 4 ∧ InPage (pgMonitor k) o) ∨ InPage pgPower o ∨ InPage pgCalib o ∨ InPage pgDevice o ∨ OfDies o

/-- A command of a converter has changed only the converter's page and what reports it. -/
def OnlyMonitor (s u : State) (mc : Nat) : Prop := SameRegs s u (fun o => InPage (pgMonitor mc) o ∨ Reports o) ∧ SameBytes s u ∧ SameSeals s u

/-- What a converter shows of a channel after a conversion: the code, the tempo, and whether the pair was trusted. -/
def ResultShown (s u : State) (mc ch code : Nat) : Prop :=
  u.rf (pgMonitor mc) R.MONITOR.RESULT_VALID ch = 1 ∧ u.rf (pgMonitor mc) R.MONITOR.RESULT_UNTRUSTED ch = b2n (!s.trusted mc) ∧
    u.rf (pgMonitor mc) R.MONITOR.RESULT_CODE ch = code ∧ u.rf (pgMonitor mc) R.MONITOR.RESULT_TEMPO ch = s.now % 2 ^ 32

end Sys2Proof.Claims

/-- Sequences and urgent requests (R431, R432): START runs the sequence of `SEQ_LEN` and `SEQ_ENTRY` from its first entry, or counts an
overrun; STOP ends it; an urgent request, its channel and averaging clamped, joins the queue, or is refused with event 0x0C07 where four wait;
the head of the queue pre-empts the sequence. -/
def Sys2Proof.Claims.MonitorCommands : Prop :=
  (∀ (s : State) (v : View) (mc : McNo), Writes s v (pgMonitor mc) true →
    ((s.mon mc).running = false → Gives (.seqStart v mc) s fun u =>
      u.mon mc = { s.mon mc with entries := s.seqEntries mc, entry := 0, running := true, preempt := false, discard := false, sweep := false } ∧
      u.rf (pgMonitor mc) R.MONITOR.SEQ_STATUS_STATE = 1 ∧ OnlyMonitor s u mc) ∧
    ((s.mon mc).running = true → Gives (.seqStart v mc) s fun u =>
      u.rf (pgMonitor mc) R.MONITOR.OVERRUNS = up32 (s.rf (pgMonitor mc) R.MONITOR.OVERRUNS) ∧ u.mons = s.mons ∧
      SameRegs s u (fun o => o = pgMonitor mc + R.MONITOR.OVERRUNS.off) ∧ SameBytes s u ∧ SameSeals s u) ∧
    ((s.mon mc).sweep = true → exec (.seqStop v mc) s = .next s) ∧
    ((s.mon mc).sweep = false → Gives (.seqStop v mc) s fun u =>
      u.mon mc = (if (s.mon mc).preempt then { s.mon mc with discard := true } else { s.mon mc with running := false, entry := 0 }) ∧
      OnlyMonitor s u mc) ∧
    (∀ (channel : BitVec 5) (avg : BitVec 4),
      ((s.mon mc).urgent.length - b2n (s.mon mc).urgentOn < 4 → Gives (.urgent v mc channel avg) s fun u =>
        u.mon mc = { s.mon mc with urgent :=
          (s.mon mc).urgent ++ [(if channel.toNat ≤ 19 then channel.toNat else 16, Nat.min avg.toNat 8)] } ∧
        SameRegs s u (fun o => InPage (pgMonitor mc) o ∨ Reports o ∨ Clamps o) ∧ SameBytes s u ∧ SameSeals s u) ∧
      (channel.toNat ≤ 19 → 4 ≤ (s.mon mc).urgent.length - b2n (s.mon mc).urgentOn → Gives (.urgent v mc channel avg) s fun u =>
        u.rf (pgMonitor mc) R.MONITOR.URG_REFUSED = up32 (s.rf (pgMonitor mc) R.MONITOR.URG_REFUSED) ∧ u.mons = s.mons ∧
        Logged s u 0x0C07 [mc, channel.toNat] ∧ Caused u (pgMonitor mc) 4 ∧
        SameRegs s u (fun o => InPage (pgMonitor mc) o ∨ Reports o ∨ Clamps o) ∧ SameBytes s u ∧ SameSeals s u))) ∧
  (∀ (s : State) (mc : McNo),
    ((s.mon mc).urgent = [] ∨ (s.mon mc).urgentOn = true ∨ (s.pair (mc / 2)).running = true ∨ (s.pair (mc / 2)).due = true →
      exec (.urgentStart mc) s = .next s) ∧
    ((s.mon mc).urgent ≠ [] → (s.mon mc).urgentOn = false → (s.pair (mc / 2)).running = false → (s.pair (mc / 2)).due = false →
      Gives (.urgentStart mc) s fun u =>
        (u.mon mc).urgentOn = true ∧ (u.mon mc).urgent = (s.mon mc).urgent ∧
        (u.mon mc).preempt = ((s.mon mc).preempt || (s.mon mc).running) ∧
        u.rf (pgMonitor mc) R.MONITOR.PREEMPTS =
          (if (s.mon mc).running && !(s.mon mc).preempt then up32 (s.rf (pgMonitor mc) R.MONITOR.PREEMPTS)
           else s.rf (pgMonitor mc) R.MONITOR.PREEMPTS) ∧ OnlyMonitor s u mc))

/-- The end of a conversion (R427, R430 to R432, R435): its code is the rounded mean of the samples, and `RESULT` shows it; an urgent one
leaves the queue; the last entry of a sequence ends the run, that of a first sweep the sweep. Nothing ends while nothing runs. -/
def Sys2Proof.Claims.MonitorConversions : Prop :=
  ∀ (s : State) (mc : McNo) (sum : Nat) (e : Nat × Nat),
    ((s.pair (mc / 2)).running = true ∨ ((s.mon mc).urgentOn = false ∧ ((s.mon mc).running = false ∨ (s.mon mc).preempt = true)) →
      exec (.monitorConversionDone mc sum) s = .next s) ∧
    ((s.pair (mc / 2)).running = false → e.1 ≤ 19 →
      ((s.mon mc).urgentOn = true → (s.mon mc).urgent.head? = some e → (s.pair (mc / 2)).due = false →
        Gives (.monitorConversionDone mc sum) s fun u => ResultShown s u mc e.1 (resultCode sum e.2) ∧
          u.rf (pgMonitor mc) R.MONITOR.URG_STATUS_VALID = 1 ∧ u.rf (pgMonitor mc) R.MONITOR.URG_STATUS_CODE = resultCode sum e.2 ∧
          (u.mon mc).urgent = (s.mon mc).urgent.tail ∧ (u.mon mc).urgentOn = false ∧ Caused u (pgMonitor mc) 1 ∧
          SameRegs s u OfMonitor ∧ SameBytes s u ∧ SameSeals s u) ∧
      ((s.mon mc).urgentOn = false → (s.mon mc).running = true → (s.mon mc).preempt = false → (s.mon mc).entries[(s.mon mc).entry]? = some e →
        ((s.mon mc).entry + 1 < (s.mon mc).entries.length ∨ (s.mon mc).sweep = false → Gives (.monitorConversionDone mc sum) s fun u =>
          ResultShown s u mc e.1 (resultCode sum e.2) ∧
          ((s.mon mc).entry + 1 < (s.mon mc).entries.length → (u.mon mc).running = true ∧ (u.mon mc).entry = (s.mon mc).entry + 1) ∧
          ((s.mon mc).entry + 1 = (s.mon mc).entries.length →
            u.rf (pgMonitor mc) R.MONITOR.SWEEPS = up32 (s.rf (pgMonitor mc) R.MONITOR.SWEEPS) ∧ Caused u (pgMonitor mc) 0 ∧
            (u.mon mc).entry = 0 ∧ ((u.mon mc).running = true ↔ s.rf (pgMonitor mc) R.MONITOR.SEQ_CTL_MODE = 1)) ∧
          SameRegs s u OfMonitor ∧ SameBytes s u ∧ SameSeals s u) ∧
        ((s.mon mc).entry + 1 = (s.mon mc).entries.length → (s.mon mc).sweep = true → (s.mon (mc / 2 * 2 + 1 - mc % 2)).swept = false →
          Gives (.monitorConversionDone mc sum) s fun u => ResultShown s u mc e.1 (resultCode sum e.2) ∧ (u.mon mc).running = false ∧
            (u.mon mc).swept = true ∧ (∃ d, Logged s u 0x0C04 [mc, d]) ∧ SameRegs s u OfMonitor ∧ SameBytes s u ∧ SameSeals s u)))

/-- The monitor converters: commands and conversions. -/
def Obligations.MonitorConverters : Prop := Claims.MonitorCommands ∧ Claims.MonitorConversions

/-- Pair checks and start-up (R428, R433 to R435): a check starts at a multiple of `PAIR_PERIOD` and pre-empts both converters, or fails where
one takes no part; the pair is trusted where the two codes lie within the window; a failed first sweep is repeated; an array die is referred
when its ratio lies in the window, and refused when it does not. -/
def Obligations.PairChecksAndReferral : Prop :=
  (∀ (s : State) (p : Fin 2), s.now % s.rf (pgMonitor (2 * p)) R.MONITOR.PAIR_PERIOD ≠ 0 → exec (.pairCheckDue p) s = .next s) ∧
  (∀ (s : State) (p : Fin 2), s.now % s.rf (pgMonitor (2 * p)) R.MONITOR.PAIR_PERIOD = 0 → (s.pair p).due = false → (s.pair p).running = false →
    (s.pair p).spoiled = false → s.canCheck (2 * p) = true → s.canCheck (2 * p + 1) = true → Gives (.pairCheckDue p) s fun u =>
      ((s.mon (2 * p)).urgentOn = true ∨ (s.mon (2 * p + 1)).urgentOn = true → (u.pair p).due = true ∧ (u.pair p).running = false) ∧
      ((s.mon (2 * p)).urgentOn = false → (s.mon (2 * p + 1)).urgentOn = false → (u.pair p).due = false ∧ (u.pair p).running = true ∧
        ∀ mc, mc = 2 * p.val ∨ mc = 2 * p.val + 1 → (s.mon mc).running = true → (u.mon mc).preempt = true) ∧
      SameRegs s u OfMonitor ∧ SameBytes s u ∧ SameSeals s u) ∧
  (∀ (s : State) (p : Fin 2), s.now % s.rf (pgMonitor (2 * p)) R.MONITOR.PAIR_PERIOD = 0 → (s.pair p).due = false → (s.pair p).running = false →
    s.canCheck (2 * p) = false ∨ s.canCheck (2 * p + 1) = false → Gives (.pairCheckDue p) s fun u =>
      (∀ mc, mc = 2 * p.val ∨ mc = 2 * p.val + 1 → u.rf (pgMonitor mc) R.MONITOR.PAIR_STATUS_TRUSTED = 0 ∧
        u.rf (pgMonitor mc) R.MONITOR.MISMATCHES = up32 (s.rf (pgMonitor mc) R.MONITOR.MISMATCHES)) ∧
      SameRegs s u OfMonitor ∧ SameBytes s u ∧ SameSeals s u) ∧
  (∀ (s : State) (p : Fin 2) (y b : Nat), (s.pair p).running = false → exec (.pairCheckDone p y b) s = .next s) ∧
  (∀ (s : State) (p : Fin 2) (x y a b : Nat), (s.pair p).running = true → s.rf (pgMonitor (2 * p)) R.MONITOR.PAIR_CTL_AVG = x →
    a = resultCode y x → Gives (.pairCheckDone p y b) s fun u =>
      (u.pair p).running = false ∧
      ((a - resultCode b x) + (resultCode b x - a) ≤ s.rf (pgMonitor (2 * p)) R.MONITOR.PAIR_CTL_WIN → PairShows u p 1 a (resultCode b x)) ∧
      (s.rf (pgMonitor (2 * p)) R.MONITOR.PAIR_CTL_WIN < (a - resultCode b x) + (resultCode b x - a) → PairShows u p 0 a (resultCode b x) ∧
        u.rf (pgMonitor (2 * p)) R.MONITOR.MISMATCHES = up32 (s.rf (pgMonitor (2 * p)) R.MONITOR.MISMATCHES)) ∧
      SameRegs s u OfMonitor ∧ SameBytes s u ∧ SameSeals s u) ∧
  (∀ (s : State) (p : Fin 2) (t : Nat), (s.pair p).retryAt = some t → t ≤ s.now → Gives (.firstSweepRetry p) s fun u =>
    (u.pair p).retryAt = none ∧ (∀ mc, mc = 2 * p.val ∨ mc = 2 * p.val + 1 → (u.mon mc).running = true ∧ (u.mon mc).sweep = true ∧
      (u.mon mc).entries = sweepEntries ∧ (u.mon mc).entry = 0) ∧ SameRegs s u OfMonitor ∧ SameBytes s u ∧ SameSeals s u) ∧
  (∀ (s : State) (p : Fin 2), (s.pair p).retryAt = none ∨ (∃ t, (s.pair p).retryAt = some t ∧ s.now < t) →
    exec (.firstSweepRetry p) s = .next s) ∧
  (∀ (s : State) (n : Die8) (t : Int), s.dieTemp n = some t → (s.dieCal n).loaded = true → (s.dieCal n).refused = false →
    (s.dieCal n).ready = false → (s.pair (n / 4)).passed = true → Gives (.arrayDieReferral n) s fun u =>
      u.rf pgCalib R.CALIB.REF_RATIO n = s.ratioOf n % 2 ^ 32 ∧
      (s.ratioIn (s.ratioOf n) = true → (u.dieCal n).ready = true ∧ (u.dieCal n).k = s.ratioOf n ∧ Logged s u 0x0C02 [n, s.ratioOf n]) ∧
      (s.ratioIn (s.ratioOf n) = false → (u.dieCal n).refused = true ∧ Caused u pgCalib 1 ∧ Logged s u 0x0C03 [n, 1, s.ratioOf n]) ∧
      SameRegs s u OfMonitor ∧ SameBytes s u ∧ SameSeals s u) ∧
  (∀ (s : State) (n : Die8), (s.dieCal n).ready = true ∨ (s.dieCal n).refused = true ∨ s.dieTemp n = none →
    exec (.arrayDieReferral n) s = .next s)

namespace Sys2Proof.Claims

open Machine

/-- What `FW_STATUS` shows after an operation. -/
def FwEnded (u : State) (last reason : Nat) : Prop :=
  u.rf pgFirmware R.FIRMWARE.FW_STATUS_STATE = 0 ∧ u.rf pgFirmware R.FIRMWARE.FW_STATUS_LAST = last ∧
    u.rf pgFirmware R.FIRMWARE.FW_STATUS_REASON = reason

/-- Boot control has two copies of different generations, and two slots. -/
def BootGood (s : State) : Prop :=
  s.fw.slots.length = 2 ∧ ∃ a b, s.fw.boot = [a, b] ∧ a.gen ≠ b.gen

/-- An operation of the firmware that holds no grant any more, and has written no memory. -/
def FwDone (s u : State) (but : Nat → Prop) : Prop :=
  u.grants = s.grants ∧ SameBytes s u ∧ SameSeals s u ∧ SameRegs s u fun o => InPage pgFirmware o ∨ OfMaint o ∨ OfSeals o ∨ but o

/-- An entry waits at the head of the record's queue, and what its commit leaves in the record and of the other registers. -/
def Committed (s u : State) (q : List Entry) (blocks : List (List Entry)) : Prop :=
  u.record.queue = q ∧ u.record.blocks = blocks ∧ u.rf pgRecord R.RECORD.REC_QUEUE_WAITING = q.length % 65536 ∧
    u.record.nextSeq = s.record.nextSeq ∧ SameBytes s u ∧ SameSeals s u ∧ SameRegs s u (InPage pgRecord)

end Sys2Proof.Claims

/-- STAGE and its end (R442, R443): refused where a trial runs, a slot is pending or an image is being staged; MAINT_BUSY without its grant;
an image whose header block cannot be read, or whose header fails a check, leaves the slots as they were; else the free slot takes the body,
and one that cannot be read to its end ends there. A body that reads back good makes the image staged. -/
def Obligations.FirmwareStaging : Prop :=
  (∀ (s : State) (v : View) (a : Nat) (h : List Byte), Writes s v pgFirmware false → s.markedIn [s.stageRange] = [] →
    a = s.stageRange.1 → h = s.bytes a 224 →
    ((s.onTrial || s.fw.staging.isSome || s.bootCtl.pending.isSome) = true → Gives (.stage v) s fun u =>
      FwEnded u stAborted 8 ∧ SameRegs s u (fun o => o = pgFirmware + R.FIRMWARE.FW_STATUS_STATE.off) ∧ u.fw = s.fw ∧ SameBytes s u ∧
      SameSeals s u) ∧
    ((s.onTrial || s.fw.staging.isSome || s.bootCtl.pending.isSome) = false →
      (¬Grantable s mStage [] → Gives (.stage v) s fun u => FwEnded u stMaintBusy 0 ∧ u.fw = s.fw ∧ RefusedBusy s u mStage) ∧
      (Grantable s mStage [] →
        (rangeOk a 4096 = false → Gives (.stage v) s fun u => FwEnded u stAborted 0 ∧ u.fw = s.fw ∧ FwDone s u (InPage (pgMemDie 0))) ∧
        (rangeOk a 4096 = true → s.blockOk (a / 4096) = false → Gives (.stage v) s fun u =>
          FwEnded u stSeal 0 ∧ u.fw = s.fw ∧ FwDone s u (fun _ => False)) ∧
        (s.badStage a 4096 = none → ∀ c, s.fwRefusal h = some c → Gives (.stage v) s fun u =>
          FwEnded u stHeader c ∧ u.rf pgFirmware R.FIRMWARE.REFUSED = up32 (s.rf pgFirmware R.FIRMWARE.REFUSED) ∧ Caused u pgFirmware 1 ∧
          u.hdr pgFirmware oERR_COUNT = up32 (s.hdr pgFirmware oERR_COUNT) ∧ Logged s u 0x0E01 [c, s.fwVersion h] ∧ u.fw = s.fw ∧
          FwDone s u (fun _ => False)) ∧
        (s.badStage a 4096 = none → s.fwRefusal h = none → BootGood s → s.bootCtl.active ≤ 1 →
          (s.badStage (a + 4096) (fhBodyLen h) = none → Gives (.stage v) s fun u =>
            u.fw.staging = some h ∧ u.fw.stageTo = 1 - s.bootCtl.active ∧ u.fw.boot = s.fw.boot ∧ u.fw.fuses = s.fw.fuses ∧
            u.fwSlot (1 - s.bootCtl.active) = ⟨[], s.bytes (a + 4096) (fhBodyLen h), false⟩ ∧
            u.fwSlot s.bootCtl.active = s.fwSlot s.bootCtl.active ∧ u.slotState (1 - s.bootCtl.active) = 3 ∧
            u.rf pgFirmware R.FIRMWARE.FW_STATUS_STATE = 3 ∧ u.holds mStage 0 = true ∧ SameBytes s u ∧ SameSeals s u ∧
            SameRegs s u (fun o => InPage pgFirmware o ∨ OfMaint o ∨ OfSeals o)) ∧
          (∀ i, s.badStage (a + 4096) (fhBodyLen h) = some i → Gives (.stage v) s fun u =>
            FwEnded u (if rangeOk (a + 4096 + 4096 * i) 4096 = true then stSeal else stAborted) 0 ∧ u.fw.staging = none ∧
            (u.fwSlot (1 - s.bootCtl.active)).header = [] ∧ u.fwSlot s.bootCtl.active = s.fwSlot s.bootCtl.active ∧
            u.fw.boot = s.fw.boot ∧ FwDone s u (InPage (pgMemDie 0))))))) ∧
  (∀ (s : State) (good : Bool) (h : List Byte), s.fw.staging = some h → s.fw.slots.length = 2 → s.fw.stageTo ≤ 1 →
    Gives (.stageComplete good) s fun u =>
      u.fw.staging = none ∧ u.holds mStage 0 = false ∧ Caused u pgFirmware 0 ∧ u.record.nextSeq = s.record.nextSeq + 1 ∧
      (good = true → sm3 (s.fwSlot s.fw.stageTo).body = fhDigest h → FwEnded u stDone 0 ∧ u.slotState s.fw.stageTo = 2 ∧
        u.fwSlot s.fw.stageTo = ⟨h, (s.fwSlot s.fw.stageTo).body, Config.gcmGood h (s.fwSlot s.fw.stageTo).body⟩ ∧
        Logged s u 0x0E02 [s.fw.stageTo, fhVersion h]) ∧
      (good = false ∨ sm3 (s.fwSlot s.fw.stageTo).body ≠ fhDigest h → FwEnded u stSeal 0 ∧ u.slotState s.fw.stageTo = 3 ∧
        u.fw.slots = s.fw.slots ∧ Logged s u 0x0E03 [s.fw.stageTo, 0]) ∧
      u.fw.boot = s.fw.boot ∧ SameBytes s u ∧ SameSeals s u ∧ SameRegs s u (fun o => InPage pgFirmware o ∨ OfMaint o)) ∧
  (∀ (s : State) (good : Bool), s.fw.staging = none → exec (.stageComplete good) s = .next s)

/-- ACTIVATE, CANCEL and CONFIRM (R444, R446, R447), the end of a trial's time, and attestation (R451): the report is formed with the nonce of
its start, signed, shown, written and logged. -/
def Obligations.FirmwareTrialAndReports : Prop :=
  (∀ (s : State) (v : View), Writes s v pgFirmware false → BootGood s →
    (∀ k, s.stagedSlot = some k → Gives (.activate v) s fun u =>
      u.bootCtl.pending = some k ∧ u.bootCtl.active = s.bootCtl.active ∧ u.bootCtl.trial = false ∧ u.fw.slots = s.fw.slots ∧
      u.rf pgFirmware R.FIRMWARE.FW_SLOT_PENDING = k + 1 ∧ Logged s u 0x0E04 [k, fhVersion (s.fwSlot k).header] ∧
      FwDone s u (fun _ => False)) ∧
    (s.stagedSlot = none → exec (.activate v) s = .next s) ∧
    (s.bootCtl.pending ≠ none → s.bootCtl.trial = false → Gives (.cancel v) s fun u =>
      u.bootCtl.pending = none ∧ u.bootCtl.active = s.bootCtl.active ∧ u.fw.slots = s.fw.slots ∧ u.record = s.record ∧
      u.rf pgFirmware R.FIRMWARE.FW_SLOT_PENDING = 0 ∧ FwDone s u (fun _ => False)) ∧
    (s.bootCtl.pending = none ∨ s.bootCtl.trial = true → exec (.cancel v) s = .next s) ∧
    (s.onTrial = false → Gives (.confirm v) s fun u => FwEnded u stAborted 8 ∧ u.fw = s.fw ∧ FwDone s u (fun _ => False)) ∧
    (s.onTrial = true → ¬Grantable s mStage [] → Gives (.confirm v) s fun u =>
      FwEnded u stMaintBusy 0 ∧ u.fw = s.fw ∧ RefusedBusy s u mStage) ∧
    (s.onTrial = true → Grantable s mStage [] → Gives (.confirm v) s fun u =>
      FwEnded u stDone 0 ∧ u.bootCtl.active = s.runningSlot ∧ u.bootCtl.pending = none ∧ u.onTrial = false ∧ u.fw.slots = s.fw.slots ∧
      u.fw.fuses = Nat.max s.fw.fuses (fhArb (s.fwSlot s.runningSlot).header) ∧ u.rf pgFirmware R.FIRMWARE.TRIAL_LEFT = 0 ∧
      u.slotState s.runningSlot = 1 ∧ Caused u pgFirmware 2 ∧
      u.fw.settings = (s.fw.settings.filter fun r => r.fmt == fhSetFmt (s.fwSlot s.runningSlot).header) ∧
      Logged s u 0x0E05 [s.runningSlot, fhVersion (s.fwSlot s.runningSlot).header, u.fw.fuses] ∧
      FwDone s u (fun o => o = pgSecurity + R.SECURITY.SEC_STATUS_ARB.off))) ∧
  (∀ s : State, (s.onTrial = true → s.rf pgFirmware R.FIRMWARE.TRIAL_LEFT ≠ 0 → Gives .trialExpired s fun u =>
      u.rf pgFirmware R.FIRMWARE.TRIAL_LEFT = 0 ∧ Caused u pgFirmware 3 ∧ u.fw = s.fw ∧
      Logged s u 0x0E07 [s.runningSlot, s.slotVersion s.runningSlot] ∧ FwDone s u (fun _ => False)) ∧
    (s.onTrial = false ∨ s.rf pgFirmware R.FIRMWARE.TRIAL_LEFT = 0 → exec .trialExpired s = .next s)) ∧
  (∀ (s : State) (v : View), Writes s v pgSecurity false →
    (s.sec.forming = true → exec (.attStart v) s = .next s) ∧
    (s.sec.forming = false → Gives (.attStart v) s fun u =>
      u.sec.forming = true ∧ u.sec.nonce = (List.range 8).flatMap (fun i => leBytes 4 (s.rf pgSecurity R.SECURITY.NONCE i)) ∧
      u.rf pgSecurity R.SECURITY.ATT_CMD_BUSY = 1 ∧ SameRegs s u (fun o => o = pgSecurity + R.SECURITY.ATT_CMD_BUSY.off) ∧ SameBytes s u ∧
      SameSeals s u)) ∧
  (∀ s : State, s.sec.forming = true → s.markedIn (if s.attAddr == 0 then [] else [(s.attAddr, 264)]) = [] → Gives .reportDone s fun u =>
    u.sec.forming = false ∧ (∃ sig, sig.length = 64 ∧ u.sec.report = s.reportBody ++ sig) ∧
    u.rf pgSecurity R.SECURITY.SIGN_COUNT = up32 (s.rf pgSecurity R.SECURITY.SIGN_COUNT) ∧ u.rf pgSecurity R.SECURITY.ATT_CMD_BUSY = 0 ∧
    Caused u pgSecurity 0 ∧ Logged s u 0x0E08 [fieldAt s.sec.nonce 0 8] ∧ SameOutside s u [(s.attAddr, s.reportBody.length + 64)] ∧
    (s.attAddr = 0 → SameBytes s u ∧ SameSeals s u) ∧
    (s.attAddr ≠ 0 → s.reportBody.length = 200 → faultIn s.attAddr 264 = none → s.firstBad (partBlocks s.attAddr 264) = none →
      u.bytes s.attAddr 264 = u.sec.report) ∧
    (s.attAddr ≠ 0 → faultIn s.attAddr 264 ≠ none → SameBytes s u ∧ SameSeals s u ∧
      u.rf (pgMemDie 0) R.MEM_DIE.ACCESS_FAULTS = up32 (s.rf (pgMemDie 0) R.MEM_DIE.ACCESS_FAULTS)) ∧
    SameRegs s u (fun o => InPage pgSecurity o ∨ InPage (pgMemDie 0) o ∨ InPage pgHost o ∨ OfSeals o)) ∧
  (∀ s : State, s.sec.forming = false → exec .reportDone s = .next s)

/-- The event record (R452 to R456): an entry is committed at the head of the queue, into the newest erase block or a free one; compaction keeps
the newest state entry of every object; `REC_SEL` shows an entry; a dump writes the entries that it names. -/
def Obligations.EventRecordCommands : Prop :=
  (∀ (s : State) (e : Entry) (q : List Entry) (bs : List (List Entry)) (l : List Entry), s.record.queue = e :: q →
    (s.record.blocks = bs ++ [l] → l.length < 1024 → Gives .eventCommit s fun u => Committed s u q (bs ++ [l ++ [e]])) ∧
    ((s.record.blocks = bs ++ [l] ∧ 1024 ≤ l.length) ∨ s.record.blocks = [] →
      (s.rf pgRecord R.RECORD.REC_FREE_BLOCKS ≠ 0 → Gives .eventCommit s fun u => Committed s u q (s.record.blocks ++ [[e]]) ∧
        u.rf pgRecord R.RECORD.REC_FREE_BLOCKS = s.rf pgRecord R.RECORD.REC_FREE_BLOCKS - 1) ∧
      (s.rf pgRecord R.RECORD.REC_FREE_BLOCKS = 0 → exec .eventCommit s = .next s))) ∧
  (∀ s : State, s.record.queue = [] → exec .eventCommit s = .next s) ∧
  (∀ s : State, s.record.queue.length < 1024 →
    (s.record.compact = true → s.record.blocks ≠ [] →
      (Grantable s mCompact [] → ∀ old keep, old = s.record.blocks.headD [] → keep = old.filter (newestOf s.entries) →
        Gives .compaction s fun u => u.entries = s.record.blocks.tail.flatMap id ++ keep ∧
        u.rf pgRecord R.RECORD.COMPACTIONS = up32 (s.rf pgRecord R.RECORD.COMPACTIONS) ∧ Logged s u 0x0E14 [1, old.length - keep.length] ∧
        u.grants = s.grants ∧ SameBytes s u ∧ SameSeals s u ∧ SameRegs s u OfMaint) ∧
      (¬Grantable s mCompact [] → Gives .compaction s fun u =>
        u.record.blocks = s.record.blocks ∧ RefusedBusy s u mCompact ∧ SameRegs s u OfMaint)) ∧
    (s.record.compact = false ∨ s.record.blocks = [] → exec .compaction s = .next s)) ∧
  (∀ (s : State) (v : View) (seq : BitVec 64), Writes s v pgRecord false →
    Gives (.recSelWrite v seq) s fun u =>
      u.rf64 pgRecord R.RECORD.REC_SEL_LO R.RECORD.REC_SEL_HI = seq.toNat ∧
      u.rf pgRecord R.RECORD.REC_SEL_STATUS_FOUND = b2n (s.entry? seq.toNat).isSome ∧
      (∀ i, i < 16 → u.rf pgRecord R.RECORD.REC_DATA i =
        match s.entry? seq.toNat with | some e => fieldAt e.bytes (4 * i) 4 | none => 0) ∧
      SameRegs s u (fun o => pgRecord + 0x110 ≤ o ∧ o < pgRecord + 0x160) ∧ SameBytes s u ∧ SameSeals s u) ∧
  (∀ (s : State) (v : View), Writes s v pgRecord false →
    (s.record.dumping ≠ none → exec (.dumpStart v) s = .next s) ∧
    (s.record.dumping = none → Gives (.dumpStart v) s fun u =>
      u.record.dumping = some (s.rf64 pgRecord R.RECORD.DUMP_ADDR_LO R.RECORD.DUMP_ADDR_HI, s.rf64 pgRecord R.RECORD.DUMP_FIRST_LO
        R.RECORD.DUMP_FIRST_HI, s.rf pgRecord R.RECORD.DUMP_COUNT) ∧
      u.rf pgRecord R.RECORD.DUMP_CMD_BUSY = 1 ∧ SameRegs s u (fun o => o = pgRecord + R.RECORD.DUMP_CMD_BUSY.off) ∧ SameBytes s u ∧
      SameSeals s u)) ∧
  (∀ (s : State) (a first count : Nat) (b : List Byte), s.record.dumping = some (a, first, count) → b = s.dumpBytes first count →
    s.markedIn [(a, b.length)] = [] → Gives .dumpDone s fun u =>
      u.rf pgRecord R.RECORD.DUMP_CMD_BUSY = 0 ∧ u.record.dumping = none ∧ Caused u pgRecord 0 ∧ SameOutside s u [(a, b.length)] ∧
      (faultIn a b.length = none → s.firstBad (partBlocks a b.length) = none →
        u.bytes a b.length = b ∧ u.rf pgRecord R.RECORD.DUMP_CMD_LAST = 1) ∧
      (faultIn a b.length = none → s.firstBad (partBlocks a b.length) ≠ none → u.rf pgRecord R.RECORD.DUMP_CMD_LAST = 3) ∧
      (faultIn a b.length ≠ none → u.rf pgRecord R.RECORD.DUMP_CMD_LAST = 2 ∧ SameBytes s u ∧ SameSeals s u ∧
        u.rf (pgMemDie 0) R.MEM_DIE.ACCESS_FAULTS = up32 (s.rf (pgMemDie 0) R.MEM_DIE.ACCESS_FAULTS)) ∧
      SameRegs s u (fun o => InPage (pgMemDie 0) o ∨ InPage pgHost o ∨ OfSeals o)) ∧
  (∀ s : State, s.record.dumping = none → exec .dumpDone s = .next s)

namespace Sys2Proof.Claims

open Machine

/-- The cause that a reset records: while an earlier one still holds the module, the one that stands higher in Table 19-5 (R467; the model's
reading of sources that coincide, log 169). -/
def causeShown (s : State) (cause : Nat) : Nat :=
  if s.power.supply = true ∧ s.power.held = true then Nat.min cause (s.rf pgPower R.POWER.RESET_CAUSE_CAUSE) else cause

/-- The device manager has restarted: `DEV_STATE` 0x0 with power-on reset held, no task, the tempo count 0, the cause of the reset shown, and
flash, fuses, retirements and the host's memory as they were. -/
def Restarted (s u : State) (cause : Nat) : Prop :=
  u.rf pgPower R.POWER.RESET_CAUSE_CAUSE = causeShown s cause ∧ u.rf pgDevice R.DEVICE.DEV_STATE_STATE = 0 ∧ u.power.held = true ∧ u.tasks = [] ∧ u.now = 0 ∧
    u.fw.slots = s.fw.slots ∧ u.fw.boot = s.fw.boot ∧ u.fw.fuses = s.fw.fuses ∧ u.record.blocks = s.record.blocks ∧
    (∀ (n : Die8) (p : PanelNo), u.retired (pgPanel n p) = s.retired (pgPanel n p)) ∧ (∀ a, hostBase ≤ a → u.byte a = s.byte a)

/-- The stop sequence has started: `DEV_STATE` 0x6, every graph queue disabled. -/
def Stopping (s u : State) (forReset : Bool) : Prop :=
  u.rf pgDevice R.DEVICE.DEV_STATE_STATE = 6 ∧ u.power.stopping = true ∧ u.power.forReset = forReset ∧ u.power.stopAt = s.now ∧
    (∀ q, q < 64 → u.queueOn q = false) ∧ Logged s u 0x0F05 [b2n forReset] ∧ SameBytes s u ∧ SameSeals s u

/-- The registers that a loss of lock writes. -/
def OfClock (o : Nat) : Prop := InPage pgClock o ∨ Reports o

/-- Every die has its clock, and what runs there names dies that exist. -/
structure Clocked (s : State) : Prop where
  locked : ∀ b, b < 25 → s.clocked b = true
  tasks  : ∀ t ∈ s.tasks, t.target < 8
  grads  : ∀ p ∈ s.gradRuns, p.1 < 4
  vecs   : ∀ p ∈ s.vecRuns, p.1 < 4

end Sys2Proof.Claims

/-- The resets that restart the device manager (R464, R467, R484, Table 19-5): power, RESET_N, PERST, module scope after a stop, and leaving
EXTEST; and its start: power-on reset ends with every PLL locked, and the image that the boot ROM chose runs the first sweeps (R445, R471). -/
def Obligations.ResetsAndStart : Prop :=
  (∀ s : State, (s.power.supply = false ∨ s.power.held = true) → Gives .powerOn s fun u =>
    Restarted { s with power := { s.power with supply := true } } u 0 ∧ u.power.supply = true) ∧
  (∀ s : State, s.power.supply = true → s.power.held = false → exec .powerOn s = .next s) ∧
  (∀ s : State, Gives .supplyRemoved s fun u => Restarted { s with power := { s.power with supply := false } } u 0 ∧ u.power.supply = false) ∧
  (∀ s : State, s.power.supply = true → Gives .resetN s (fun u => Restarted s u 1 ∧ u.power.supply = true) ∧
    Gives .perst s (fun u => Restarted s u 2 ∧ u.power.supply = true)) ∧
  (∀ s : State, s.power.supply = false → exec .resetN s = .next s ∧ exec .perst s = .next s) ∧
  (∀ (s : State) (v : View), s.granted v pgPower = true → s.manager = true →
    (s.power.stopped = true → Gives (.resetCtlModule v) s fun u => Restarted s u 3) ∧
    (s.power.stopped = false → s.power.stopping = true → exec (.resetCtlModule v) s = .next { s with power := { s.power with forReset := true } }) ∧
    (s.power.stopped = false → s.power.stopping = false → NoWait s → s.window = none → Gives (.resetCtlModule v) s fun u => Stopping s u true)) ∧
  (∀ (s : State) (straps : BitVec 2), s.power.supply = true → s.power.held = true → Gives (.powerOnResetRelease straps) s fun u =>
    u.power.held = false ∧ u.rf pgDevice R.DEVICE.DEV_STATE_STATE = 1 ∧ u.reg offPll = 0x1FFFFFF#32 ∧
    u.power.straps = (if s.rf pgPower R.POWER.RESET_CAUSE_CAUSE = 0 then straps else s.power.straps) ∧ SameBytes s u ∧ SameSeals s u ∧
    SameRegs s u (fun o => o = offPll ∨ o = pgDevice + R.DEVICE.DEV_STATE_STATE.off ∨ o = pgDevice + oPAGE_STATUS)) ∧
  (∀ (s : State) (straps : BitVec 2), s.power.supply = false ∨ s.power.held = false → exec (.powerOnResetRelease straps) s = .next s) ∧
  (∀ s : State, s.rf pgDevice R.DEVICE.DEV_STATE_STATE ≠ 1 ∨ s.power.held = true → exec .firmwareBootDone s = .next s) ∧
  (∀ s : State, s.rf pgDevice R.DEVICE.DEV_STATE_STATE = 1 → s.power.held = false →
    (s.chooseBoot.2 = none → Gives .firmwareBootDone s fun u => u.rf pgDevice R.DEVICE.DEV_STATE_STATE = 5 ∧ SameBytes s u ∧ SameSeals s u) ∧
    (∀ b, s.chooseBoot.2 = some b → b.slot ≤ 1 → Gives .firmwareBootDone s fun u =>
      u.rf pgDevice R.DEVICE.DEV_STATE_STATE = (if Config.storeFault = 0 then 2 else 3) ∧
      u.rf pgCalib R.CALIB.CAL_STATUS_STATE = (if Config.storeFault = 0 then 1 else 3) ∧
      u.rf pgFirmware R.FIRMWARE.FW_SLOT_RUNNING = b.slot ∧ u.rf pgFirmware R.FIRMWARE.FW_SLOT_TRIAL = b2n b.trial ∧
      u.rf pgFirmware R.FIRMWARE.BOOT_COUNT = (s.fw.starts + 1) % 2 ^ 32 ∧ u.fw.slots = s.fw.slots ∧
      u.rf pgHost R.HOST.LINK_STATUS_UP = 1 ∧
      (∃ e : Entry, e.code = 0x0E10 ∧ e.detail = [s.fw.starts + 1, b.slot, s.slotVersion b.slot] ∧
        (e ∈ u.record.queue ∨ ∃ l ∈ u.record.blocks, e ∈ l)) ∧
      (∀ mc, mc < 4 → (u.mon mc).running = true ∧ (u.mon mc).sweep = true ∧ (u.mon mc).entries = sweepEntries) ∧ SameBytes s u ∧ SameSeals s u))

/-- The stop sequence and the engines scope (R467, R469, R470), loss of lock (R466) and the governor (R463). -/
def Obligations.StopEnginesClocks : Prop :=
  (∀ (s : State) (v : View), Writes s v pgPower false → s.manager = true → s.power.stopping = false → NoWait s → s.window = none →
    Gives (.stopCtlStart v) s fun u => Stopping s u false) ∧
  (∀ s : State, s.power.stopping = true → s.tasks.any Task.isHanded = true → s.now < s.power.stopAt + 1000000 →
    exec .stopSequenceDone s = .next s) ∧
  (∀ s : State, s.power.stopping = true → (s.tasks.any Task.isHanded = false ∨ s.power.stopAt + 1000000 ≤ s.now) → s.snaps = [] →
    (s.power.forReset = false → Gives .stopSequenceDone s fun u => u.power.stopped = true ∧ u.power.stopping = false ∧ u.tasks = [] ∧
      u.rf pgPower R.POWER.STOP_STATUS_DONE = 1 ∧ Caused u pgPower 4 ∧ Logged s u 0x0E11 [s.fw.starts] ∧ SameBytes s u ∧ SameSeals s u) ∧
    (s.power.forReset = true → Gives .stopSequenceDone s fun u =>
      u.rf pgPower R.POWER.RESET_CAUSE_CAUSE = causeShown s 3 ∧ u.rf pgDevice R.DEVICE.DEV_STATE_STATE = 0 ∧ u.power.held = true ∧
      u.tasks = [])) ∧
  (∀ s : State, s.power.stopping = false → exec .stopSequenceDone s = .next s) ∧
  (∀ (s : State) (v : View), s.granted v pgPower = true → s.manager = true →
    (s.power.stopping = true → exec (.resetCtlEngines v) s = .next s) ∧
    (s.power.stopping = false → s.snaps = [] → Gives (.resetCtlEngines v) s fun u =>
      u.rf pgDevice R.DEVICE.DEV_STATE_STATE = 3 ∧ u.rf pgPower R.POWER.RESET_CAUSE_CAUSE = 4 ∧ u.power.stopped = false ∧ u.tasks = [] ∧
      u.upds = [] ∧ u.gradRuns = [] ∧ u.vecRuns = [] ∧ u.loads = [] ∧ u.txns = [] ∧ u.replay = none ∧ u.field = none ∧ u.tempo = s.tempo ∧
      u.rf64 pgPower R.POWER.ENERGY_LO R.POWER.ENERGY_HI = 0 ∧ ∀ a, inSram a = false → u.byte a = s.byte a)) ∧
  (∀ (s : State) (b : Fin 25), s.alive = true →
    (bit (s.reg offPll).toNat b = true → Gives (.pllLockLost b) s fun u =>
      bit (u.reg offPll).toNat b = false ∧ (∀ c, c < 32 → c ≠ b.val → bit (u.reg offPll).toNat c = bit (s.reg offPll).toNat c) ∧
      u.rf pgClock R.CLOCK.LOCK_LOSSES = up32 (s.rf pgClock R.CLOCK.LOCK_LOSSES) ∧ Logged s u 0x0F03 [b.val] ∧
      Caused u pgClock (if b.val = 0 then 1 else 0) ∧ u.hdr pgClock oERR_COUNT = s.hdr pgClock oERR_COUNT ∧
      u.hdr pgClock oERR_LAST % 65536 = b.val ∧ SameRegs s u OfClock ∧ SameBytes s u ∧ SameSeals s u) ∧
    (bit (s.reg offPll).toNat b = false → exec (.pllLockLost b) s = .next s) ∧
    (Gives (.pllLockRegained b) s fun u => bit (u.reg offPll).toNat b = true ∧
      (∀ c, c < 32 → c ≠ b.val → bit (u.reg offPll).toNat c = bit (s.reg offPll).toNat c) ∧ SameRegs s u (fun o => o = offPll) ∧
      SameBytes s u ∧ SameSeals s u)) ∧
  (∀ (s : State) (on : Bool), s.alive = true →
    (s.rf pgPower R.POWER.CAP_STATUS_LIMITING = b2n on → exec (.governorLimiting on) s = .next s) ∧
    (s.rf pgPower R.POWER.CAP_STATUS_LIMITING ≠ b2n on → Gives (.governorLimiting on) s fun u =>
      u.rf pgPower R.POWER.CAP_STATUS_LIMITING = b2n on ∧ Logged s u 0x0F06 [b2n on, s.rf pgPower R.POWER.CAP_W] ∧
      (on = true → Caused u pgPower 5) ∧
      SameRegs s u (fun o => o = pgPower + R.POWER.CAP_STATUS_LIMITING.off ∨ o = pgPower + oINT_STATUS ∨ Reports o) ∧
      SameBytes s u ∧ SameSeals s u)) ∧
  (∀ s : State, s.alive = false → ∀ c, (∃ b, c = .pllLockLost b ∨ c = .pllLockRegained b) ∨ (∃ on, c = .governorLimiting on) →
    exec c s = .next s)

/-- The sideband answers a command of Table 20-4 at the module's address, and nothing else (R482); the test access port takes its instructions,
and leaving EXTEST resets the module (R484). -/
def Obligations.SidebandAndTestPort : Prop :=
  (∀ (s : State) (addr : BitVec 7) (cmd : Byte) (pec : Bool),
    (∀ w, s.alive = true → s.rf pgDevice R.DEVICE.DEV_STATE_STATE ≠ 0 → addr.toNat = s.smbAddr → s.smbWord cmd.toNat = some w →
      exec (.smbusReadWord addr cmd pec) s = .next { s with reply := .bytes (leBytes 2 w ++
        if pec then leBytes 1 (pecOf [2 * addr.toNat, cmd.toNat, 2 * addr.toNat + 1, w % 256, w / 256]) else []) }) ∧
    ((s.alive = false ∨ s.rf pgDevice R.DEVICE.DEV_STATE_STATE = 0 ∨ addr.toNat ≠ s.smbAddr ∨ s.smbWord cmd.toNat = none) →
      exec (.smbusReadWord addr cmd pec) s = .next { s with reply := .notAcknowledged })) ∧
  (∀ (s : State) (code : Byte) (preload : List Bool), s.tap.instr ≠ .extest →
    (Gives .idcode s fun u => u.tap.instr = .idcode ∧ u.reply = .word 0x21000A3F#32 ∧ u.regs = s.regs ∧ SameBytes s u ∧ SameSeals s u) ∧
    (Gives (.bypass code) s fun u => u.tap.instr = .bypass ∧ u.regs = s.regs ∧ SameBytes s u ∧ SameSeals s u) ∧
    (Gives (.samplePreload preload) s fun u => u.tap.instr = .sample ∧ u.tap.cells = preload ∧ (∃ w, u.reply = .word w) ∧ u.regs = s.regs ∧
      SameBytes s u ∧ SameSeals s u) ∧
    exec .extestExit s = .next s) ∧
  (∀ (s : State) (code : Byte) (preload : List Bool), s.tap.instr = .extest →
    (∀ c, c = .idcode ∨ c = .bypass code ∨ c = .samplePreload preload ∨ c = .extestExit → Gives c s fun u =>
      Restarted s u 5 ∧ u.tap.instr ≠ .extest)) ∧
  (∀ s : State, NoWait s → s.window = none → Gives .extest s fun u => u.tap.instr = .extest ∧
    (s.rf pgDevice R.DEVICE.DEV_STATE_STATE = 4 → ∀ q, q < 64 → u.queueOn q = false) ∧
    (s.rf pgDevice R.DEVICE.DEV_STATE_STATE ≠ 4 → u.regs = s.regs) ∧ SameBytes s u ∧ SameSeals s u)


/-- Every command answers a next state where every die has its clock; a command of an engine whose die has none is the only one that stops
(R466), but for a message whose answer only the SPDM and CXL standards give (R21, R23). -/
def Obligations.EveryCommandAnswers : Prop :=
  ∀ (c : Instr) (s : State), (∀ sec code, c ≠ .spdmRequest ⟨sec, .other code⟩) →
    (Clocked s → ∃ t, exec c s = .next t) ∧
    ∀ b, exec c s = .fault (.dieUnclocked b) → s.clocked b = false
end

