-- ==== Sys2Proof/Laws/Bytes.lean ====
section
/-! SUPPORT. Bytes of numbers, and the CRC of a flit: lemmas that later proofs cite instead of evaluating. -/

namespace Sys2Proof.Machine

@[simp] theorem leBytes_length (n v : Nat) : (leBytes n v).length = n := by
  induction n generalizing v with
  | zero => rfl
  | succ n ih => simp [leBytes, ih]

/-- Little-endian bytes hold the number, as far as it fits. -/
theorem leNat_leBytes (n v : Nat) : leNat (leBytes n v) = v % 256 ^ n := by
  induction n generalizing v with
  | zero => simp [leBytes, leNat, Nat.mod_one]
  | succ n ih =>
    have h : (BitVec.ofNat 8 v).toNat = v % 256 := by simp [BitVec.toNat_ofNat]
    unfold leBytes leNat
    rw [ih, h, pow_succ, Nat.mul_comm (256 ^ n), Nat.mod_mul]

/-- A run of bytes is a number below its range. -/
theorem leNat_lt (b : List Byte) : leNat b < 256 ^ b.length := by
  induction b with
  | nil => simp [leNat]
  | cons x t ih =>
    have h := x.isLt
    simp only [leNat, List.length_cons, pow_succ]
    omega

theorem crc64Bit_lt (c : Nat) : crc64Bit c < 2 ^ 64 := by
  unfold crc64Bit
  split
  · exact Nat.xor_lt_two_pow (Nat.mod_lt _ (by norm_num)) (by norm_num)
  · exact Nat.mod_lt _ (by norm_num)

theorem crc64_lt (b : List Byte) : crc64 b < 2 ^ 64 := by
  unfold crc64
  refine Nat.xor_lt_two_pow ?_ (by norm_num)
  generalize hc : 2 ^ 64 - 1 = c
  have h : c < 2 ^ 64 := by omega
  clear hc
  induction b generalizing c with
  | nil => exact h
  | cons x t ih => exact ih _ (crc64Bit_lt _)

/-- 248 bytes with their CRC behind them are a good flit (R347). -/
theorem flitGood_append (b : List Byte) (h : b.length = 248) : flitGood (b ++ leBytes 8 (crc64 b)) = true := by
  have e : (b ++ leBytes 8 (crc64 b)).take 248 = b := by rw [← h]; simp
  have d : (b ++ leBytes 8 (crc64 b)).drop 248 = leBytes 8 (crc64 b) := by rw [← h]; simp
  have l : (leBytes 8 (crc64 b)).take 8 = leBytes 8 (crc64 b) := List.take_of_length_le (by simp)
  have m : crc64 b % 256 ^ 8 = crc64 b := Nat.mod_eq_of_lt (by have := crc64_lt b; norm_num at this ⊢; exact this)
  simp only [flitGood, fieldAt, e, d, l, leNat_leBytes, List.length_append, leBytes_length, h, m]
  simp

end Sys2Proof.Machine
end

