-- ==== Sys2Proof/Laws/Lists.lean ====
section
/-! SUPPORT. Laws of keyed lists and of memory as a canonical list of bytes: read after write, frame, and the canonical form. -/

namespace Sys2Proof.Machine

/-! Reading a keyed list. -/

theorem aget?_append {α : Type} (l m : List (Nat × α)) (k : Nat) :
    aget? (l ++ m) k = match aget? l k with | some v => some v | none => aget? m k := by
  induction l with
  | nil => rfl
  | cons p t ih =>
    obtain ⟨j, v⟩ := p
    by_cases h : j = k
    · simp [aget?, h]
    · simp [aget?, h, ih]

theorem aget?_none_of_ne {α : Type} (l : List (Nat × α)) (k : Nat) (h : ∀ p ∈ l, p.1 ≠ k) : aget? l k = none := by
  induction l with
  | nil => rfl
  | cons p t ih =>
    obtain ⟨j, v⟩ := p
    have hj : j ≠ k := h (j, v) (by simp)
    simp [aget?, hj, ih fun q hq => h q (by simp [hq])]

theorem aget?_filter {α : Type} (l : List (Nat × α)) (p : Nat × α → Bool) (k : Nat)
    (h : ∀ v, p (k, v) = true) : aget? (l.filter p) k = aget? l k := by
  induction l with
  | nil => rfl
  | cons q t ih =>
    obtain ⟨j, v⟩ := q
    by_cases hj : j = k
    · subst hj; simp [aget?, h]
    · by_cases hp : p (j, v) = true
      · simp [hp, aget?, hj, ih]
      · simp [hp, aget?, hj, ih]

theorem aget?_filter_lt_self {α : Type} (l : List (Nat × α)) (k : Nat) : aget? (l.filter fun p => decide (p.1 < k)) k = none :=
  aget?_none_of_ne _ _ fun p hp => by
    have := (List.mem_filter.mp hp).2
    simp at this; omega

theorem aget?_filter_gt_self {α : Type} (l : List (Nat × α)) (k : Nat) : aget? (l.filter fun p => decide (k < p.1)) k = none :=
  aget?_none_of_ne _ _ fun p hp => by
    have := (List.mem_filter.mp hp).2
    simp at this; omega

/-- Read after write of a keyed list. -/
theorem aget?_aput_same {α : Type} (l : List (Nat × α)) (k : Nat) (v : α) : aget? (aput l k v) k = some v := by
  simp [aput, aget?_append, aget?_filter_lt_self, aget?]

/-- A write of a keyed list leaves every other key alone. -/
theorem aget?_aput_other {α : Type} (l : List (Nat × α)) (k j : Nat) (v : α) (h : j ≠ k) : aget? (aput l k v) j = aget? l j := by
  rcases Nat.lt_or_gt_of_ne h with hlt | hgt
  · have h1 : aget? (l.filter fun p => decide (p.1 < k)) j = aget? l j := aget?_filter _ _ _ (by simp [hlt])
    have h2 : aget? ((k, v) :: l.filter fun p => decide (k < p.1)) j = none :=
      aget?_none_of_ne _ _ fun p hp => by
        rcases List.mem_cons.mp hp with rfl | hp
        · exact fun e => h e.symm
        · have := (List.mem_filter.mp hp).2
          simp at this; omega
    simp only [aput, aget?_append, h1, h2]
    cases aget? l j <;> rfl
  · have h1 : aget? (l.filter fun p => decide (p.1 < k)) j = none :=
      aget?_none_of_ne _ _ fun p hp => by
        have := (List.mem_filter.mp hp).2
        simp at this; omega
    have h2 : aget? (l.filter fun p => decide (k < p.1)) j = aget? l j := aget?_filter _ _ _ (by simp [hgt])
    have h3 : k ≠ j := fun e => h e.symm
    simp only [aput, aget?_append, h1, aget?, h3, if_false, h2]

/-- A canonical write of the default is a removal. -/
theorem aget?_acanon_same {α : Type} [DecidableEq α] (l : List (Nat × α)) (k : Nat) (v d : α) :
    (aget? (acanon l k v d) k).getD d = v := by
  by_cases h : v = d
  · simp [acanon, h, aget?_append, aget?_filter_lt_self, aget?_filter_gt_self]
  · simp [acanon, h, aget?_aput_same]

theorem aget?_acanon_other {α : Type} [DecidableEq α] (l : List (Nat × α)) (k j : Nat) (v d : α) (h : j ≠ k) :
    aget? (acanon l k v d) j = aget? l j := by
  by_cases hv : v = d
  · have h0 := aget?_aput_other l k j v h
    rcases Nat.lt_or_gt_of_ne h with hlt | hgt
    · have h1 : aget? (l.filter fun p => decide (p.1 < k)) j = aget? l j := aget?_filter _ _ _ (by simp [hlt])
      have h2 : aget? (l.filter fun p => decide (k < p.1)) j = none :=
        aget?_none_of_ne _ _ fun p hp => by
          have := (List.mem_filter.mp hp).2
          simp at this; omega
      simp only [acanon, hv, if_true, aget?_append, h1, h2]
      cases aget? l j <;> rfl
    · have h1 : aget? (l.filter fun p => decide (p.1 < k)) j = none :=
        aget?_none_of_ne _ _ fun p hp => by
          have := (List.mem_filter.mp hp).2
          simp at this; omega
      have h2 : aget? (l.filter fun p => decide (k < p.1)) j = aget? l j := aget?_filter _ _ _ (by simp [hgt])
      simp only [acanon, hv, if_true, aget?_append, h1, h2]
  · simp [acanon, hv, aget?_aput_other _ _ _ _ h]

/-! Rising keys. -/

theorem rising_filter {α : Type} {l : List (Nat × α)} (h : Rising l) (p : Nat × α → Bool) : Rising (l.filter p) :=
  List.Pairwise.filter p h

theorem rising_aput {α : Type} {l : List (Nat × α)} (h : Rising l) (k : Nat) (v : α) : Rising (aput l k v) := by
  refine List.pairwise_append.mpr ⟨rising_filter h _, List.pairwise_cons.mpr ⟨?_, rising_filter h _⟩, ?_⟩
  · intro p hp
    simpa using (List.mem_filter.mp hp).2
  · intro p hp q hq
    have h1 : p.1 < k := by simpa using (List.mem_filter.mp hp).2
    rcases List.mem_cons.mp hq with rfl | hq
    · exact h1
    · have h2 : k < q.1 := by simpa using (List.mem_filter.mp hq).2
      omega

theorem rising_acanon {α : Type} [DecidableEq α] {l : List (Nat × α)} (h : Rising l) (k : Nat) (v d : α) :
    Rising (acanon l k v d) := by
  by_cases hv : v = d
  · simp only [acanon, hv, if_true]
    refine List.pairwise_append.mpr ⟨rising_filter h _, rising_filter h _, ?_⟩
    intro p hp q hq
    have h1 : p.1 < k := by simpa using (List.mem_filter.mp hp).2
    have h2 : k < q.1 := by simpa using (List.mem_filter.mp hq).2
    omega
  · simp only [acanon, hv, if_false]
    exact rising_aput h k v

/-! The register list. -/

theorem regsWf_acanon {l : List (Nat × Word)} (h : Regs.Wf l) (k : Nat) (w : Word) : Regs.Wf (acanon l k w (resetWord k)) := by
  refine ⟨rising_acanon h.1 k w _, fun p hp => ?_⟩
  by_cases hv : w = resetWord k
  · simp only [acanon, hv, if_true, List.mem_append, List.mem_filter] at hp
    exact h.2 p (hp.elim And.left And.left)
  · simp only [acanon, hv, if_false, aput, List.mem_append, List.mem_cons, List.mem_filter] at hp
    rcases hp with hp | rfl | hp
    · exact h.2 p hp.1
    · exact hv
    · exact h.2 p hp.1

theorem regsWf_filter {l : List (Nat × Word)} (h : Regs.Wf l) (p : Nat × Word → Bool) : Regs.Wf (l.filter p) :=
  ⟨rising_filter h.1 p, fun q hq => h.2 q (List.mem_filter.mp hq).1⟩

/-! Memory. -/

/-- The canonical form in words: addresses strictly rise, and no byte is 0. -/
theorem memory_wf_iff (m : List Host.Cell) : Memory.wf m = true ↔ Rising m ∧ ∀ c ∈ m, c.2 ≠ 0 := by
  induction m with
  | nil => simp [Memory.wf, Rising]
  | cons c t ih =>
    simp only [Memory.wf, Bool.and_eq_true, decide_eq_true_eq, List.all_eq_true, ih, Rising, List.pairwise_cons, List.forall_mem_cons]
    tauto

theorem cells_mem {a : Nat} {b : List Byte} {c : Host.Cell} (h : c ∈ cells a b) : a ≤ c.1 ∧ c.1 < a + b.length ∧ c.2 ≠ 0 := by
  induction b generalizing a with
  | nil => simp [cells] at h
  | cons x t ih =>
    by_cases hx : x = 0
    · simp only [cells, hx, if_true] at h
      have := ih h
      exact ⟨by omega, by simp only [List.length_cons]; omega, this.2.2⟩
    · simp only [cells, hx, if_false, List.mem_cons] at h
      rcases h with rfl | h
      · exact ⟨Nat.le_refl _, by simp, hx⟩
      · have := ih h
        simp only [List.length_cons]
        exact ⟨by omega, by omega, this.2.2⟩

theorem cells_rising (a : Nat) (b : List Byte) : Rising (cells a b) := by
  induction b generalizing a with
  | nil => exact List.Pairwise.nil
  | cons x t ih =>
    by_cases hx : x = 0
    · simp only [cells, hx, if_true]; exact ih (a + 1)
    · simp only [cells, hx, if_false]
      exact List.pairwise_cons.mpr ⟨fun c hc => by have := (cells_mem hc).1; simp only; omega, ih (a + 1)⟩

/-- Writing bytes keeps memory canonical. -/
theorem memory_wf_memPut {m : List Host.Cell} (h : Memory.wf m = true) (a : Nat) (b : List Byte) : Memory.wf (memPut m a b) = true := by
  rw [memory_wf_iff] at h ⊢
  refine ⟨?_, fun c hc => ?_⟩
  · refine List.pairwise_append.mpr ⟨List.pairwise_append.mpr ⟨rising_filter h.1 _, cells_rising a b, ?_⟩, rising_filter h.1 _, ?_⟩
    · intro p hp q hq
      have h1 : p.1 < a := by simpa using (List.mem_filter.mp hp).2
      have h2 := (cells_mem hq).1
      omega
    · intro p hp q hq
      have h2 : a + b.length ≤ q.1 := by simpa using (List.mem_filter.mp hq).2
      rcases List.mem_append.mp hp with hp | hp
      · have h1 : p.1 < a := by simpa using (List.mem_filter.mp hp).2
        omega
      · have h1 := (cells_mem hp).2.1
        omega
  · simp only [memPut, List.mem_append, List.mem_filter] at hc
    rcases hc with (hc | hc) | hc
    · exact h.2 c hc.1
    · exact (cells_mem hc).2.2
    · exact h.2 c hc.1

theorem memory_wf_filter {m : List Host.Cell} (h : Memory.wf m = true) (p : Host.Cell → Bool) : Memory.wf (m.filter p) = true := by
  rw [memory_wf_iff] at h ⊢
  exact ⟨rising_filter h.1 p, fun c hc => h.2 c (List.mem_filter.mp hc).1⟩

/-- Every byte outside the bytes written reads as before. -/
theorem memByte_memPut_other (m : List Host.Cell) (a : Nat) (b : List Byte) (x : Nat) (h : x < a ∨ a + b.length ≤ x) :
    memByte (memPut m a b) x = memByte m x := by
  have hc : aget? (cells a b) x = none := aget?_none_of_ne _ _ fun p hp => by
    have := cells_mem hp
    omega
  have hn : ∀ p : Host.Cell → Bool, (∀ v, p (x, v) = false) → aget? (m.filter p) x = none := fun p hp =>
    aget?_none_of_ne _ _ fun q hq e => by
      have := (List.mem_filter.mp hq).2
      obtain ⟨j, v⟩ := q
      simp only at e
      subst e
      simp [hp] at this
  rcases h with h | h
  · have h1 : aget? (m.filter fun c => decide (c.1 < a)) x = aget? m x := aget?_filter _ _ _ (by simp [h])
    have h2 : aget? (m.filter fun c => decide (a + b.length ≤ c.1)) x = none := hn _ (by simp; omega)
    simp only [memByte, memPut, aget?_append, h1, hc, h2]
    cases aget? m x <;> rfl
  · have h1 : aget? (m.filter fun c => decide (c.1 < a)) x = none := hn _ (by simp; omega)
    have h2 : aget? (m.filter fun c => decide (a + b.length ≤ c.1)) x = aget? m x := aget?_filter _ _ _ (by simp [h])
    simp only [memByte, memPut, aget?_append, h1, hc, h2]

theorem aget?_cells (a : Nat) (b : List Byte) (i : Nat) (h : i < b.length) : (aget? (cells a b) (a + i)).getD 0 = b[i] := by
  induction b generalizing a i with
  | nil => simp at h
  | cons x t ih =>
    cases i with
    | zero =>
      by_cases hx : x = 0
      · have : aget? (cells (a + 1) t) a = none := aget?_none_of_ne _ _ fun p hp => by
          have := (cells_mem hp).1; omega
        simp [cells, hx, this]
      · simp only [cells, if_neg hx, aget?, Nat.add_zero, if_true, Option.getD_some, List.getElem_cons_zero]
    | succ j =>
      have hj := ih (a + 1) j (by simpa using h)
      have e : a + 1 + j = a + (j + 1) := by omega
      rw [e] at hj
      by_cases hx : x = 0
      · simpa [cells, hx] using hj
      · have hne : ¬ a = a + (j + 1) := by omega
        simpa only [cells, if_neg hx, aget?, if_neg hne, List.getElem_cons_succ] using hj

/-- Every byte written reads as written. -/
theorem memByte_memPut_same (m : List Host.Cell) (a : Nat) (b : List Byte) (i : Nat) (h : i < b.length) :
    memByte (memPut m a b) (a + i) = b[i] := by
  have h1 : aget? (m.filter fun c => decide (c.1 < a)) (a + i) = none := aget?_none_of_ne _ _ fun p hp => by
    have : p.1 < a := by simpa using (List.mem_filter.mp hp).2
    omega
  have h2 : aget? (m.filter fun c => decide (a + b.length ≤ c.1)) (a + i) = none := aget?_none_of_ne _ _ fun p hp => by
    have : a + b.length ≤ p.1 := by simpa using (List.mem_filter.mp hp).2
    omega
  have hc := aget?_cells a b i h
  simp only [memByte, memPut, aget?_append, h1, h2]
  cases hx : aget? (cells a b) (a + i) with
  | none => rw [hx] at hc; simpa using hc
  | some v => rw [hx] at hc; simpa using hc

end Sys2Proof.Machine
end

