-- ==== Sys2Proof/Laws/State.lean ====
section
/-! SUPPORT. What the register writes and the seal write of State leave alone: one lemma per field per update, true by unfolding the
record update. -/

namespace Sys2Proof.Machine

@[simp] theorem State.setReg_pending (s : State) (off : Nat) (w : Word) : (s.setReg off w).pending = s.pending := rfl
@[simp] theorem State.setReg_reply (s : State) (off : Nat) (w : Word) : (s.setReg off w).reply = s.reply := rfl
@[simp] theorem State.setReg_fresh (s : State) (off : Nat) (w : Word) : (s.setReg off w).fresh = s.fresh := rfl
@[simp] theorem State.setReg_mem (s : State) (off : Nat) (w : Word) : (s.setReg off w).mem = s.mem := rfl
@[simp] theorem State.setReg_seals (s : State) (off : Nat) (w : Word) : (s.setReg off w).seals = s.seals := rfl
@[simp] theorem State.setReg_sealAge (s : State) (off : Nat) (w : Word) : (s.setReg off w).sealAge = s.sealAge := rfl
@[simp] theorem State.setReg_traffic (s : State) (off : Nat) (w : Word) : (s.setReg off w).traffic = s.traffic := rfl
@[simp] theorem State.setReg_posted (s : State) (off : Nat) (w : Word) : (s.setReg off w).posted = s.posted := rfl
@[simp] theorem State.setReg_pairHold (s : State) (off : Nat) (w : Word) : (s.setReg off w).pairHold = s.pairHold := rfl
@[simp] theorem State.setReg_pairRead (s : State) (off : Nat) (w : Word) : (s.setReg off w).pairRead = s.pairRead := rfl
@[simp] theorem State.setReg_host (s : State) (off : Nat) (w : Word) : (s.setReg off w).host = s.host := rfl
@[simp] theorem State.setReg_panels (s : State) (off : Nat) (w : Word) : (s.setReg off w).panels = s.panels := rfl
@[simp] theorem State.setReg_loads (s : State) (off : Nat) (w : Word) : (s.setReg off w).loads = s.loads := rfl
@[simp] theorem State.setReg_loadRuns (s : State) (off : Nat) (w : Word) : (s.setReg off w).loadRuns = s.loadRuns := rfl
@[simp] theorem State.setReg_castles (s : State) (off : Nat) (w : Word) : (s.setReg off w).castles = s.castles := rfl
@[simp] theorem State.setReg_partials (s : State) (off : Nat) (w : Word) : (s.setReg off w).partials = s.partials := rfl
@[simp] theorem State.setReg_arrRuns (s : State) (off : Nat) (w : Word) : (s.setReg off w).arrRuns = s.arrRuns := rfl
@[simp] theorem State.setReg_arrOrder (s : State) (off : Nat) (w : Word) : (s.setReg off w).arrOrder = s.arrOrder := rfl
@[simp] theorem State.setReg_tasks (s : State) (off : Nat) (w : Word) : (s.setReg off w).tasks = s.tasks := rfl
@[simp] theorem State.setReg_nextSeq (s : State) (off : Nat) (w : Word) : (s.setReg off w).nextSeq = s.nextSeq := rfl
@[simp] theorem State.setReg_queues (s : State) (off : Nat) (w : Word) : (s.setReg off w).queues = s.queues := rfl
@[simp] theorem State.setReg_window (s : State) (off : Nat) (w : Word) : (s.setReg off w).window = s.window := rfl
@[simp] theorem State.setReg_snapAt (s : State) (off : Nat) (w : Word) : (s.setReg off w).snapAt = s.snapAt := rfl
@[simp] theorem State.setReg_gradRuns (s : State) (off : Nat) (w : Word) : (s.setReg off w).gradRuns = s.gradRuns := rfl
@[simp] theorem State.setReg_ran (s : State) (off : Nat) (w : Word) : (s.setReg off w).ran = s.ran := rfl
@[simp] theorem State.setReg_vecRuns (s : State) (off : Nat) (w : Word) : (s.setReg off w).vecRuns = s.vecRuns := rfl
@[simp] theorem State.setReg_vecRegs (s : State) (off : Nat) (w : Word) : (s.setReg off w).vecRegs = s.vecRegs := rfl
@[simp] theorem State.setReg_upds (s : State) (off : Nat) (w : Word) : (s.setReg off w).upds = s.upds := rfl
@[simp] theorem State.setReg_layers (s : State) (off : Nat) (w : Word) : (s.setReg off w).layers = s.layers := rfl
@[simp] theorem State.setReg_wtable (s : State) (off : Nat) (w : Word) : (s.setReg off w).wtable = s.wtable := rfl
@[simp] theorem State.setReg_slots (s : State) (off : Nat) (w : Word) : (s.setReg off w).slots = s.slots := rfl
@[simp] theorem State.setReg_chans (s : State) (off : Nat) (w : Word) : (s.setReg off w).chans = s.chans := rfl
@[simp] theorem State.setReg_dmaQueue (s : State) (off : Nat) (w : Word) : (s.setReg off w).dmaQueue = s.dmaQueue := rfl
@[simp] theorem State.setReg_tempo (s : State) (off : Nat) (w : Word) : (s.setReg off w).tempo = s.tempo := rfl
@[simp] theorem State.setReg_events (s : State) (off : Nat) (w : Word) : (s.setReg off w).events = s.events := rfl
@[simp] theorem State.setReg_ports (s : State) (off : Nat) (w : Word) : (s.setReg off w).ports = s.ports := rfl
@[simp] theorem State.setReg_routes (s : State) (off : Nat) (w : Word) : (s.setReg off w).routes = s.routes := rfl
@[simp] theorem State.setReg_txns (s : State) (off : Nat) (w : Word) : (s.setReg off w).txns = s.txns := rfl
@[simp] theorem State.setReg_sent (s : State) (off : Nat) (w : Word) : (s.setReg off w).sent = s.sent := rfl
@[simp] theorem State.setReg_trainSent (s : State) (off : Nat) (w : Word) : (s.setReg off w).trainSent = s.trainSent := rfl
@[simp] theorem State.setReg_arrived (s : State) (off : Nat) (w : Word) : (s.setReg off w).arrived = s.arrived := rfl
@[simp] theorem State.setReg_nextTag (s : State) (off : Nat) (w : Word) : (s.setReg off w).nextTag = s.nextTag := rfl
@[simp] theorem State.setReg_ctable (s : State) (off : Nat) (w : Word) : (s.setReg off w).ctable = s.ctable := rfl
@[simp] theorem State.setReg_insts (s : State) (off : Nat) (w : Word) : (s.setReg off w).insts = s.insts := rfl
@[simp] theorem State.setReg_ledgers (s : State) (off : Nat) (w : Word) : (s.setReg off w).ledgers = s.ledgers := rfl
@[simp] theorem State.setReg_collPast (s : State) (off : Nat) (w : Word) : (s.setReg off w).collPast = s.collPast := rfl
@[simp] theorem State.setReg_held (s : State) (off : Nat) (w : Word) : (s.setReg off w).held = s.held := rfl
@[simp] theorem State.setReg_sealOps (s : State) (off : Nat) (w : Word) : (s.setReg off w).sealOps = s.sealOps := rfl
@[simp] theorem State.setReg_grants (s : State) (off : Nat) (w : Word) : (s.setReg off w).grants = s.grants := rfl
@[simp] theorem State.setReg_replay (s : State) (off : Nat) (w : Word) : (s.setReg off w).replay = s.replay := rfl
@[simp] theorem State.setReg_field (s : State) (off : Nat) (w : Word) : (s.setReg off w).field = s.field := rfl
@[simp] theorem State.setReg_notReady (s : State) (off : Nat) (w : Word) : (s.setReg off w).notReady = s.notReady := rfl
@[simp] theorem State.setReg_snaps (s : State) (off : Nat) (w : Word) : (s.setReg off w).snaps = s.snaps := rfl
@[simp] theorem State.setReg_digests (s : State) (off : Nat) (w : Word) : (s.setReg off w).digests = s.digests := rfl
@[simp] theorem State.setReg_mons (s : State) (off : Nat) (w : Word) : (s.setReg off w).mons = s.mons := rfl
@[simp] theorem State.setReg_pairs (s : State) (off : Nat) (w : Word) : (s.setReg off w).pairs = s.pairs := rfl
@[simp] theorem State.setReg_dieCals (s : State) (off : Nat) (w : Word) : (s.setReg off w).dieCals = s.dieCals := rfl
@[simp] theorem State.setReg_fw (s : State) (off : Nat) (w : Word) : (s.setReg off w).fw = s.fw := rfl
@[simp] theorem State.setReg_sec (s : State) (off : Nat) (w : Word) : (s.setReg off w).sec = s.sec := rfl
@[simp] theorem State.setReg_record (s : State) (off : Nat) (w : Word) : (s.setReg off w).record = s.record := rfl
@[simp] theorem State.setReg_power (s : State) (off : Nat) (w : Word) : (s.setReg off w).power = s.power := rfl
@[simp] theorem State.setReg_tap (s : State) (off : Nat) (w : Word) : (s.setReg off w).tap = s.tap := rfl

@[simp] theorem State.wf_pending (s : State) (page : Nat) (f : Fld) (v i : Nat) : (s.wf page f v i).pending = s.pending := rfl
@[simp] theorem State.wf_reply (s : State) (page : Nat) (f : Fld) (v i : Nat) : (s.wf page f v i).reply = s.reply := rfl
@[simp] theorem State.wf_fresh (s : State) (page : Nat) (f : Fld) (v i : Nat) : (s.wf page f v i).fresh = s.fresh := rfl
@[simp] theorem State.wf_mem (s : State) (page : Nat) (f : Fld) (v i : Nat) : (s.wf page f v i).mem = s.mem := rfl
@[simp] theorem State.wf_seals (s : State) (page : Nat) (f : Fld) (v i : Nat) : (s.wf page f v i).seals = s.seals := rfl
@[simp] theorem State.wf_sealAge (s : State) (page : Nat) (f : Fld) (v i : Nat) : (s.wf page f v i).sealAge = s.sealAge := rfl
@[simp] theorem State.wf_traffic (s : State) (page : Nat) (f : Fld) (v i : Nat) : (s.wf page f v i).traffic = s.traffic := rfl
@[simp] theorem State.wf_posted (s : State) (page : Nat) (f : Fld) (v i : Nat) : (s.wf page f v i).posted = s.posted := rfl
@[simp] theorem State.wf_pairHold (s : State) (page : Nat) (f : Fld) (v i : Nat) : (s.wf page f v i).pairHold = s.pairHold := rfl
@[simp] theorem State.wf_pairRead (s : State) (page : Nat) (f : Fld) (v i : Nat) : (s.wf page f v i).pairRead = s.pairRead := rfl
@[simp] theorem State.wf_host (s : State) (page : Nat) (f : Fld) (v i : Nat) : (s.wf page f v i).host = s.host := rfl
@[simp] theorem State.wf_panels (s : State) (page : Nat) (f : Fld) (v i : Nat) : (s.wf page f v i).panels = s.panels := rfl
@[simp] theorem State.wf_loads (s : State) (page : Nat) (f : Fld) (v i : Nat) : (s.wf page f v i).loads = s.loads := rfl
@[simp] theorem State.wf_loadRuns (s : State) (page : Nat) (f : Fld) (v i : Nat) : (s.wf page f v i).loadRuns = s.loadRuns := rfl
@[simp] theorem State.wf_castles (s : State) (page : Nat) (f : Fld) (v i : Nat) : (s.wf page f v i).castles = s.castles := rfl
@[simp] theorem State.wf_partials (s : State) (page : Nat) (f : Fld) (v i : Nat) : (s.wf page f v i).partials = s.partials := rfl
@[simp] theorem State.wf_arrRuns (s : State) (page : Nat) (f : Fld) (v i : Nat) : (s.wf page f v i).arrRuns = s.arrRuns := rfl
@[simp] theorem State.wf_arrOrder (s : State) (page : Nat) (f : Fld) (v i : Nat) : (s.wf page f v i).arrOrder = s.arrOrder := rfl
@[simp] theorem State.wf_tasks (s : State) (page : Nat) (f : Fld) (v i : Nat) : (s.wf page f v i).tasks = s.tasks := rfl
@[simp] theorem State.wf_nextSeq (s : State) (page : Nat) (f : Fld) (v i : Nat) : (s.wf page f v i).nextSeq = s.nextSeq := rfl
@[simp] theorem State.wf_queues (s : State) (page : Nat) (f : Fld) (v i : Nat) : (s.wf page f v i).queues = s.queues := rfl
@[simp] theorem State.wf_window (s : State) (page : Nat) (f : Fld) (v i : Nat) : (s.wf page f v i).window = s.window := rfl
@[simp] theorem State.wf_snapAt (s : State) (page : Nat) (f : Fld) (v i : Nat) : (s.wf page f v i).snapAt = s.snapAt := rfl
@[simp] theorem State.wf_gradRuns (s : State) (page : Nat) (f : Fld) (v i : Nat) : (s.wf page f v i).gradRuns = s.gradRuns := rfl
@[simp] theorem State.wf_ran (s : State) (page : Nat) (f : Fld) (v i : Nat) : (s.wf page f v i).ran = s.ran := rfl
@[simp] theorem State.wf_vecRuns (s : State) (page : Nat) (f : Fld) (v i : Nat) : (s.wf page f v i).vecRuns = s.vecRuns := rfl
@[simp] theorem State.wf_vecRegs (s : State) (page : Nat) (f : Fld) (v i : Nat) : (s.wf page f v i).vecRegs = s.vecRegs := rfl
@[simp] theorem State.wf_upds (s : State) (page : Nat) (f : Fld) (v i : Nat) : (s.wf page f v i).upds = s.upds := rfl
@[simp] theorem State.wf_layers (s : State) (page : Nat) (f : Fld) (v i : Nat) : (s.wf page f v i).layers = s.layers := rfl
@[simp] theorem State.wf_wtable (s : State) (page : Nat) (f : Fld) (v i : Nat) : (s.wf page f v i).wtable = s.wtable := rfl
@[simp] theorem State.wf_slots (s : State) (page : Nat) (f : Fld) (v i : Nat) : (s.wf page f v i).slots = s.slots := rfl
@[simp] theorem State.wf_chans (s : State) (page : Nat) (f : Fld) (v i : Nat) : (s.wf page f v i).chans = s.chans := rfl
@[simp] theorem State.wf_dmaQueue (s : State) (page : Nat) (f : Fld) (v i : Nat) : (s.wf page f v i).dmaQueue = s.dmaQueue := rfl
@[simp] theorem State.wf_tempo (s : State) (page : Nat) (f : Fld) (v i : Nat) : (s.wf page f v i).tempo = s.tempo := rfl
@[simp] theorem State.wf_events (s : State) (page : Nat) (f : Fld) (v i : Nat) : (s.wf page f v i).events = s.events := rfl
@[simp] theorem State.wf_ports (s : State) (page : Nat) (f : Fld) (v i : Nat) : (s.wf page f v i).ports = s.ports := rfl
@[simp] theorem State.wf_routes (s : State) (page : Nat) (f : Fld) (v i : Nat) : (s.wf page f v i).routes = s.routes := rfl
@[simp] theorem State.wf_txns (s : State) (page : Nat) (f : Fld) (v i : Nat) : (s.wf page f v i).txns = s.txns := rfl
@[simp] theorem State.wf_sent (s : State) (page : Nat) (f : Fld) (v i : Nat) : (s.wf page f v i).sent = s.sent := rfl
@[simp] theorem State.wf_trainSent (s : State) (page : Nat) (f : Fld) (v i : Nat) : (s.wf page f v i).trainSent = s.trainSent := rfl
@[simp] theorem State.wf_arrived (s : State) (page : Nat) (f : Fld) (v i : Nat) : (s.wf page f v i).arrived = s.arrived := rfl
@[simp] theorem State.wf_nextTag (s : State) (page : Nat) (f : Fld) (v i : Nat) : (s.wf page f v i).nextTag = s.nextTag := rfl
@[simp] theorem State.wf_ctable (s : State) (page : Nat) (f : Fld) (v i : Nat) : (s.wf page f v i).ctable = s.ctable := rfl
@[simp] theorem State.wf_insts (s : State) (page : Nat) (f : Fld) (v i : Nat) : (s.wf page f v i).insts = s.insts := rfl
@[simp] theorem State.wf_ledgers (s : State) (page : Nat) (f : Fld) (v i : Nat) : (s.wf page f v i).ledgers = s.ledgers := rfl
@[simp] theorem State.wf_collPast (s : State) (page : Nat) (f : Fld) (v i : Nat) : (s.wf page f v i).collPast = s.collPast := rfl
@[simp] theorem State.wf_held (s : State) (page : Nat) (f : Fld) (v i : Nat) : (s.wf page f v i).held = s.held := rfl
@[simp] theorem State.wf_sealOps (s : State) (page : Nat) (f : Fld) (v i : Nat) : (s.wf page f v i).sealOps = s.sealOps := rfl
@[simp] theorem State.wf_grants (s : State) (page : Nat) (f : Fld) (v i : Nat) : (s.wf page f v i).grants = s.grants := rfl
@[simp] theorem State.wf_replay (s : State) (page : Nat) (f : Fld) (v i : Nat) : (s.wf page f v i).replay = s.replay := rfl
@[simp] theorem State.wf_field (s : State) (page : Nat) (f : Fld) (v i : Nat) : (s.wf page f v i).field = s.field := rfl
@[simp] theorem State.wf_notReady (s : State) (page : Nat) (f : Fld) (v i : Nat) : (s.wf page f v i).notReady = s.notReady := rfl
@[simp] theorem State.wf_snaps (s : State) (page : Nat) (f : Fld) (v i : Nat) : (s.wf page f v i).snaps = s.snaps := rfl
@[simp] theorem State.wf_digests (s : State) (page : Nat) (f : Fld) (v i : Nat) : (s.wf page f v i).digests = s.digests := rfl
@[simp] theorem State.wf_mons (s : State) (page : Nat) (f : Fld) (v i : Nat) : (s.wf page f v i).mons = s.mons := rfl
@[simp] theorem State.wf_pairs (s : State) (page : Nat) (f : Fld) (v i : Nat) : (s.wf page f v i).pairs = s.pairs := rfl
@[simp] theorem State.wf_dieCals (s : State) (page : Nat) (f : Fld) (v i : Nat) : (s.wf page f v i).dieCals = s.dieCals := rfl
@[simp] theorem State.wf_fw (s : State) (page : Nat) (f : Fld) (v i : Nat) : (s.wf page f v i).fw = s.fw := rfl
@[simp] theorem State.wf_sec (s : State) (page : Nat) (f : Fld) (v i : Nat) : (s.wf page f v i).sec = s.sec := rfl
@[simp] theorem State.wf_record (s : State) (page : Nat) (f : Fld) (v i : Nat) : (s.wf page f v i).record = s.record := rfl
@[simp] theorem State.wf_power (s : State) (page : Nat) (f : Fld) (v i : Nat) : (s.wf page f v i).power = s.power := rfl
@[simp] theorem State.wf_tap (s : State) (page : Nat) (f : Fld) (v i : Nat) : (s.wf page f v i).tap = s.tap := rfl

@[simp] theorem State.wf64_pending (s : State) (page : Nat) (lo hi : Fld) (v i : Nat) : (s.wf64 page lo hi v i).pending = s.pending := (State.wf_pending _ _ _ _ _).trans (State.wf_pending _ _ _ _ _)
@[simp] theorem State.wf64_reply (s : State) (page : Nat) (lo hi : Fld) (v i : Nat) : (s.wf64 page lo hi v i).reply = s.reply := (State.wf_reply _ _ _ _ _).trans (State.wf_reply _ _ _ _ _)
@[simp] theorem State.wf64_fresh (s : State) (page : Nat) (lo hi : Fld) (v i : Nat) : (s.wf64 page lo hi v i).fresh = s.fresh := (State.wf_fresh _ _ _ _ _).trans (State.wf_fresh _ _ _ _ _)
@[simp] theorem State.wf64_mem (s : State) (page : Nat) (lo hi : Fld) (v i : Nat) : (s.wf64 page lo hi v i).mem = s.mem := (State.wf_mem _ _ _ _ _).trans (State.wf_mem _ _ _ _ _)
@[simp] theorem State.wf64_seals (s : State) (page : Nat) (lo hi : Fld) (v i : Nat) : (s.wf64 page lo hi v i).seals = s.seals := (State.wf_seals _ _ _ _ _).trans (State.wf_seals _ _ _ _ _)
@[simp] theorem State.wf64_sealAge (s : State) (page : Nat) (lo hi : Fld) (v i : Nat) : (s.wf64 page lo hi v i).sealAge = s.sealAge := (State.wf_sealAge _ _ _ _ _).trans (State.wf_sealAge _ _ _ _ _)
@[simp] theorem State.wf64_traffic (s : State) (page : Nat) (lo hi : Fld) (v i : Nat) : (s.wf64 page lo hi v i).traffic = s.traffic := (State.wf_traffic _ _ _ _ _).trans (State.wf_traffic _ _ _ _ _)
@[simp] theorem State.wf64_posted (s : State) (page : Nat) (lo hi : Fld) (v i : Nat) : (s.wf64 page lo hi v i).posted = s.posted := (State.wf_posted _ _ _ _ _).trans (State.wf_posted _ _ _ _ _)
@[simp] theorem State.wf64_pairHold (s : State) (page : Nat) (lo hi : Fld) (v i : Nat) : (s.wf64 page lo hi v i).pairHold = s.pairHold := (State.wf_pairHold _ _ _ _ _).trans (State.wf_pairHold _ _ _ _ _)
@[simp] theorem State.wf64_pairRead (s : State) (page : Nat) (lo hi : Fld) (v i : Nat) : (s.wf64 page lo hi v i).pairRead = s.pairRead := (State.wf_pairRead _ _ _ _ _).trans (State.wf_pairRead _ _ _ _ _)
@[simp] theorem State.wf64_host (s : State) (page : Nat) (lo hi : Fld) (v i : Nat) : (s.wf64 page lo hi v i).host = s.host := (State.wf_host _ _ _ _ _).trans (State.wf_host _ _ _ _ _)
@[simp] theorem State.wf64_panels (s : State) (page : Nat) (lo hi : Fld) (v i : Nat) : (s.wf64 page lo hi v i).panels = s.panels := (State.wf_panels _ _ _ _ _).trans (State.wf_panels _ _ _ _ _)
@[simp] theorem State.wf64_loads (s : State) (page : Nat) (lo hi : Fld) (v i : Nat) : (s.wf64 page lo hi v i).loads = s.loads := (State.wf_loads _ _ _ _ _).trans (State.wf_loads _ _ _ _ _)
@[simp] theorem State.wf64_loadRuns (s : State) (page : Nat) (lo hi : Fld) (v i : Nat) : (s.wf64 page lo hi v i).loadRuns = s.loadRuns := (State.wf_loadRuns _ _ _ _ _).trans (State.wf_loadRuns _ _ _ _ _)
@[simp] theorem State.wf64_castles (s : State) (page : Nat) (lo hi : Fld) (v i : Nat) : (s.wf64 page lo hi v i).castles = s.castles := (State.wf_castles _ _ _ _ _).trans (State.wf_castles _ _ _ _ _)
@[simp] theorem State.wf64_partials (s : State) (page : Nat) (lo hi : Fld) (v i : Nat) : (s.wf64 page lo hi v i).partials = s.partials := (State.wf_partials _ _ _ _ _).trans (State.wf_partials _ _ _ _ _)
@[simp] theorem State.wf64_arrRuns (s : State) (page : Nat) (lo hi : Fld) (v i : Nat) : (s.wf64 page lo hi v i).arrRuns = s.arrRuns := (State.wf_arrRuns _ _ _ _ _).trans (State.wf_arrRuns _ _ _ _ _)
@[simp] theorem State.wf64_arrOrder (s : State) (page : Nat) (lo hi : Fld) (v i : Nat) : (s.wf64 page lo hi v i).arrOrder = s.arrOrder := (State.wf_arrOrder _ _ _ _ _).trans (State.wf_arrOrder _ _ _ _ _)
@[simp] theorem State.wf64_tasks (s : State) (page : Nat) (lo hi : Fld) (v i : Nat) : (s.wf64 page lo hi v i).tasks = s.tasks := (State.wf_tasks _ _ _ _ _).trans (State.wf_tasks _ _ _ _ _)
@[simp] theorem State.wf64_nextSeq (s : State) (page : Nat) (lo hi : Fld) (v i : Nat) : (s.wf64 page lo hi v i).nextSeq = s.nextSeq := (State.wf_nextSeq _ _ _ _ _).trans (State.wf_nextSeq _ _ _ _ _)
@[simp] theorem State.wf64_queues (s : State) (page : Nat) (lo hi : Fld) (v i : Nat) : (s.wf64 page lo hi v i).queues = s.queues := (State.wf_queues _ _ _ _ _).trans (State.wf_queues _ _ _ _ _)
@[simp] theorem State.wf64_window (s : State) (page : Nat) (lo hi : Fld) (v i : Nat) : (s.wf64 page lo hi v i).window = s.window := (State.wf_window _ _ _ _ _).trans (State.wf_window _ _ _ _ _)
@[simp] theorem State.wf64_snapAt (s : State) (page : Nat) (lo hi : Fld) (v i : Nat) : (s.wf64 page lo hi v i).snapAt = s.snapAt := (State.wf_snapAt _ _ _ _ _).trans (State.wf_snapAt _ _ _ _ _)
@[simp] theorem State.wf64_gradRuns (s : State) (page : Nat) (lo hi : Fld) (v i : Nat) : (s.wf64 page lo hi v i).gradRuns = s.gradRuns := (State.wf_gradRuns _ _ _ _ _).trans (State.wf_gradRuns _ _ _ _ _)
@[simp] theorem State.wf64_ran (s : State) (page : Nat) (lo hi : Fld) (v i : Nat) : (s.wf64 page lo hi v i).ran = s.ran := (State.wf_ran _ _ _ _ _).trans (State.wf_ran _ _ _ _ _)
@[simp] theorem State.wf64_vecRuns (s : State) (page : Nat) (lo hi : Fld) (v i : Nat) : (s.wf64 page lo hi v i).vecRuns = s.vecRuns := (State.wf_vecRuns _ _ _ _ _).trans (State.wf_vecRuns _ _ _ _ _)
@[simp] theorem State.wf64_vecRegs (s : State) (page : Nat) (lo hi : Fld) (v i : Nat) : (s.wf64 page lo hi v i).vecRegs = s.vecRegs := (State.wf_vecRegs _ _ _ _ _).trans (State.wf_vecRegs _ _ _ _ _)
@[simp] theorem State.wf64_upds (s : State) (page : Nat) (lo hi : Fld) (v i : Nat) : (s.wf64 page lo hi v i).upds = s.upds := (State.wf_upds _ _ _ _ _).trans (State.wf_upds _ _ _ _ _)
@[simp] theorem State.wf64_layers (s : State) (page : Nat) (lo hi : Fld) (v i : Nat) : (s.wf64 page lo hi v i).layers = s.layers := (State.wf_layers _ _ _ _ _).trans (State.wf_layers _ _ _ _ _)
@[simp] theorem State.wf64_wtable (s : State) (page : Nat) (lo hi : Fld) (v i : Nat) : (s.wf64 page lo hi v i).wtable = s.wtable := (State.wf_wtable _ _ _ _ _).trans (State.wf_wtable _ _ _ _ _)
@[simp] theorem State.wf64_slots (s : State) (page : Nat) (lo hi : Fld) (v i : Nat) : (s.wf64 page lo hi v i).slots = s.slots := (State.wf_slots _ _ _ _ _).trans (State.wf_slots _ _ _ _ _)
@[simp] theorem State.wf64_chans (s : State) (page : Nat) (lo hi : Fld) (v i : Nat) : (s.wf64 page lo hi v i).chans = s.chans := (State.wf_chans _ _ _ _ _).trans (State.wf_chans _ _ _ _ _)
@[simp] theorem State.wf64_dmaQueue (s : State) (page : Nat) (lo hi : Fld) (v i : Nat) : (s.wf64 page lo hi v i).dmaQueue = s.dmaQueue := (State.wf_dmaQueue _ _ _ _ _).trans (State.wf_dmaQueue _ _ _ _ _)
@[simp] theorem State.wf64_tempo (s : State) (page : Nat) (lo hi : Fld) (v i : Nat) : (s.wf64 page lo hi v i).tempo = s.tempo := (State.wf_tempo _ _ _ _ _).trans (State.wf_tempo _ _ _ _ _)
@[simp] theorem State.wf64_events (s : State) (page : Nat) (lo hi : Fld) (v i : Nat) : (s.wf64 page lo hi v i).events = s.events := (State.wf_events _ _ _ _ _).trans (State.wf_events _ _ _ _ _)
@[simp] theorem State.wf64_ports (s : State) (page : Nat) (lo hi : Fld) (v i : Nat) : (s.wf64 page lo hi v i).ports = s.ports := (State.wf_ports _ _ _ _ _).trans (State.wf_ports _ _ _ _ _)
@[simp] theorem State.wf64_routes (s : State) (page : Nat) (lo hi : Fld) (v i : Nat) : (s.wf64 page lo hi v i).routes = s.routes := (State.wf_routes _ _ _ _ _).trans (State.wf_routes _ _ _ _ _)
@[simp] theorem State.wf64_txns (s : State) (page : Nat) (lo hi : Fld) (v i : Nat) : (s.wf64 page lo hi v i).txns = s.txns := (State.wf_txns _ _ _ _ _).trans (State.wf_txns _ _ _ _ _)
@[simp] theorem State.wf64_sent (s : State) (page : Nat) (lo hi : Fld) (v i : Nat) : (s.wf64 page lo hi v i).sent = s.sent := (State.wf_sent _ _ _ _ _).trans (State.wf_sent _ _ _ _ _)
@[simp] theorem State.wf64_trainSent (s : State) (page : Nat) (lo hi : Fld) (v i : Nat) : (s.wf64 page lo hi v i).trainSent = s.trainSent := (State.wf_trainSent _ _ _ _ _).trans (State.wf_trainSent _ _ _ _ _)
@[simp] theorem State.wf64_arrived (s : State) (page : Nat) (lo hi : Fld) (v i : Nat) : (s.wf64 page lo hi v i).arrived = s.arrived := (State.wf_arrived _ _ _ _ _).trans (State.wf_arrived _ _ _ _ _)
@[simp] theorem State.wf64_nextTag (s : State) (page : Nat) (lo hi : Fld) (v i : Nat) : (s.wf64 page lo hi v i).nextTag = s.nextTag := (State.wf_nextTag _ _ _ _ _).trans (State.wf_nextTag _ _ _ _ _)
@[simp] theorem State.wf64_ctable (s : State) (page : Nat) (lo hi : Fld) (v i : Nat) : (s.wf64 page lo hi v i).ctable = s.ctable := (State.wf_ctable _ _ _ _ _).trans (State.wf_ctable _ _ _ _ _)
@[simp] theorem State.wf64_insts (s : State) (page : Nat) (lo hi : Fld) (v i : Nat) : (s.wf64 page lo hi v i).insts = s.insts := (State.wf_insts _ _ _ _ _).trans (State.wf_insts _ _ _ _ _)
@[simp] theorem State.wf64_ledgers (s : State) (page : Nat) (lo hi : Fld) (v i : Nat) : (s.wf64 page lo hi v i).ledgers = s.ledgers := (State.wf_ledgers _ _ _ _ _).trans (State.wf_ledgers _ _ _ _ _)
@[simp] theorem State.wf64_collPast (s : State) (page : Nat) (lo hi : Fld) (v i : Nat) : (s.wf64 page lo hi v i).collPast = s.collPast := (State.wf_collPast _ _ _ _ _).trans (State.wf_collPast _ _ _ _ _)
@[simp] theorem State.wf64_held (s : State) (page : Nat) (lo hi : Fld) (v i : Nat) : (s.wf64 page lo hi v i).held = s.held := (State.wf_held _ _ _ _ _).trans (State.wf_held _ _ _ _ _)
@[simp] theorem State.wf64_sealOps (s : State) (page : Nat) (lo hi : Fld) (v i : Nat) : (s.wf64 page lo hi v i).sealOps = s.sealOps := (State.wf_sealOps _ _ _ _ _).trans (State.wf_sealOps _ _ _ _ _)
@[simp] theorem State.wf64_grants (s : State) (page : Nat) (lo hi : Fld) (v i : Nat) : (s.wf64 page lo hi v i).grants = s.grants := (State.wf_grants _ _ _ _ _).trans (State.wf_grants _ _ _ _ _)
@[simp] theorem State.wf64_replay (s : State) (page : Nat) (lo hi : Fld) (v i : Nat) : (s.wf64 page lo hi v i).replay = s.replay := (State.wf_replay _ _ _ _ _).trans (State.wf_replay _ _ _ _ _)
@[simp] theorem State.wf64_field (s : State) (page : Nat) (lo hi : Fld) (v i : Nat) : (s.wf64 page lo hi v i).field = s.field := (State.wf_field _ _ _ _ _).trans (State.wf_field _ _ _ _ _)
@[simp] theorem State.wf64_notReady (s : State) (page : Nat) (lo hi : Fld) (v i : Nat) : (s.wf64 page lo hi v i).notReady = s.notReady := (State.wf_notReady _ _ _ _ _).trans (State.wf_notReady _ _ _ _ _)
@[simp] theorem State.wf64_snaps (s : State) (page : Nat) (lo hi : Fld) (v i : Nat) : (s.wf64 page lo hi v i).snaps = s.snaps := (State.wf_snaps _ _ _ _ _).trans (State.wf_snaps _ _ _ _ _)
@[simp] theorem State.wf64_digests (s : State) (page : Nat) (lo hi : Fld) (v i : Nat) : (s.wf64 page lo hi v i).digests = s.digests := (State.wf_digests _ _ _ _ _).trans (State.wf_digests _ _ _ _ _)
@[simp] theorem State.wf64_mons (s : State) (page : Nat) (lo hi : Fld) (v i : Nat) : (s.wf64 page lo hi v i).mons = s.mons := (State.wf_mons _ _ _ _ _).trans (State.wf_mons _ _ _ _ _)
@[simp] theorem State.wf64_pairs (s : State) (page : Nat) (lo hi : Fld) (v i : Nat) : (s.wf64 page lo hi v i).pairs = s.pairs := (State.wf_pairs _ _ _ _ _).trans (State.wf_pairs _ _ _ _ _)
@[simp] theorem State.wf64_dieCals (s : State) (page : Nat) (lo hi : Fld) (v i : Nat) : (s.wf64 page lo hi v i).dieCals = s.dieCals := (State.wf_dieCals _ _ _ _ _).trans (State.wf_dieCals _ _ _ _ _)
@[simp] theorem State.wf64_fw (s : State) (page : Nat) (lo hi : Fld) (v i : Nat) : (s.wf64 page lo hi v i).fw = s.fw := (State.wf_fw _ _ _ _ _).trans (State.wf_fw _ _ _ _ _)
@[simp] theorem State.wf64_sec (s : State) (page : Nat) (lo hi : Fld) (v i : Nat) : (s.wf64 page lo hi v i).sec = s.sec := (State.wf_sec _ _ _ _ _).trans (State.wf_sec _ _ _ _ _)
@[simp] theorem State.wf64_record (s : State) (page : Nat) (lo hi : Fld) (v i : Nat) : (s.wf64 page lo hi v i).record = s.record := (State.wf_record _ _ _ _ _).trans (State.wf_record _ _ _ _ _)
@[simp] theorem State.wf64_power (s : State) (page : Nat) (lo hi : Fld) (v i : Nat) : (s.wf64 page lo hi v i).power = s.power := (State.wf_power _ _ _ _ _).trans (State.wf_power _ _ _ _ _)
@[simp] theorem State.wf64_tap (s : State) (page : Nat) (lo hi : Fld) (v i : Nat) : (s.wf64 page lo hi v i).tap = s.tap := (State.wf_tap _ _ _ _ _).trans (State.wf_tap _ _ _ _ _)

@[simp] theorem State.incBy_pending (s : State) (page : Nat) (f : Fld) (n i : Nat) : (s.incBy page f n i).pending = s.pending := State.wf_pending _ _ _ _ _
@[simp] theorem State.incBy_reply (s : State) (page : Nat) (f : Fld) (n i : Nat) : (s.incBy page f n i).reply = s.reply := State.wf_reply _ _ _ _ _
@[simp] theorem State.incBy_fresh (s : State) (page : Nat) (f : Fld) (n i : Nat) : (s.incBy page f n i).fresh = s.fresh := State.wf_fresh _ _ _ _ _
@[simp] theorem State.incBy_mem (s : State) (page : Nat) (f : Fld) (n i : Nat) : (s.incBy page f n i).mem = s.mem := State.wf_mem _ _ _ _ _
@[simp] theorem State.incBy_seals (s : State) (page : Nat) (f : Fld) (n i : Nat) : (s.incBy page f n i).seals = s.seals := State.wf_seals _ _ _ _ _
@[simp] theorem State.incBy_sealAge (s : State) (page : Nat) (f : Fld) (n i : Nat) : (s.incBy page f n i).sealAge = s.sealAge := State.wf_sealAge _ _ _ _ _
@[simp] theorem State.incBy_traffic (s : State) (page : Nat) (f : Fld) (n i : Nat) : (s.incBy page f n i).traffic = s.traffic := State.wf_traffic _ _ _ _ _
@[simp] theorem State.incBy_posted (s : State) (page : Nat) (f : Fld) (n i : Nat) : (s.incBy page f n i).posted = s.posted := State.wf_posted _ _ _ _ _
@[simp] theorem State.incBy_pairHold (s : State) (page : Nat) (f : Fld) (n i : Nat) : (s.incBy page f n i).pairHold = s.pairHold := State.wf_pairHold _ _ _ _ _
@[simp] theorem State.incBy_pairRead (s : State) (page : Nat) (f : Fld) (n i : Nat) : (s.incBy page f n i).pairRead = s.pairRead := State.wf_pairRead _ _ _ _ _
@[simp] theorem State.incBy_host (s : State) (page : Nat) (f : Fld) (n i : Nat) : (s.incBy page f n i).host = s.host := State.wf_host _ _ _ _ _
@[simp] theorem State.incBy_panels (s : State) (page : Nat) (f : Fld) (n i : Nat) : (s.incBy page f n i).panels = s.panels := State.wf_panels _ _ _ _ _
@[simp] theorem State.incBy_loads (s : State) (page : Nat) (f : Fld) (n i : Nat) : (s.incBy page f n i).loads = s.loads := State.wf_loads _ _ _ _ _
@[simp] theorem State.incBy_loadRuns (s : State) (page : Nat) (f : Fld) (n i : Nat) : (s.incBy page f n i).loadRuns = s.loadRuns := State.wf_loadRuns _ _ _ _ _
@[simp] theorem State.incBy_castles (s : State) (page : Nat) (f : Fld) (n i : Nat) : (s.incBy page f n i).castles = s.castles := State.wf_castles _ _ _ _ _
@[simp] theorem State.incBy_partials (s : State) (page : Nat) (f : Fld) (n i : Nat) : (s.incBy page f n i).partials = s.partials := State.wf_partials _ _ _ _ _
@[simp] theorem State.incBy_arrRuns (s : State) (page : Nat) (f : Fld) (n i : Nat) : (s.incBy page f n i).arrRuns = s.arrRuns := State.wf_arrRuns _ _ _ _ _
@[simp] theorem State.incBy_arrOrder (s : State) (page : Nat) (f : Fld) (n i : Nat) : (s.incBy page f n i).arrOrder = s.arrOrder := State.wf_arrOrder _ _ _ _ _
@[simp] theorem State.incBy_tasks (s : State) (page : Nat) (f : Fld) (n i : Nat) : (s.incBy page f n i).tasks = s.tasks := State.wf_tasks _ _ _ _ _
@[simp] theorem State.incBy_nextSeq (s : State) (page : Nat) (f : Fld) (n i : Nat) : (s.incBy page f n i).nextSeq = s.nextSeq := State.wf_nextSeq _ _ _ _ _
@[simp] theorem State.incBy_queues (s : State) (page : Nat) (f : Fld) (n i : Nat) : (s.incBy page f n i).queues = s.queues := State.wf_queues _ _ _ _ _
@[simp] theorem State.incBy_window (s : State) (page : Nat) (f : Fld) (n i : Nat) : (s.incBy page f n i).window = s.window := State.wf_window _ _ _ _ _
@[simp] theorem State.incBy_snapAt (s : State) (page : Nat) (f : Fld) (n i : Nat) : (s.incBy page f n i).snapAt = s.snapAt := State.wf_snapAt _ _ _ _ _
@[simp] theorem State.incBy_gradRuns (s : State) (page : Nat) (f : Fld) (n i : Nat) : (s.incBy page f n i).gradRuns = s.gradRuns := State.wf_gradRuns _ _ _ _ _
@[simp] theorem State.incBy_ran (s : State) (page : Nat) (f : Fld) (n i : Nat) : (s.incBy page f n i).ran = s.ran := State.wf_ran _ _ _ _ _
@[simp] theorem State.incBy_vecRuns (s : State) (page : Nat) (f : Fld) (n i : Nat) : (s.incBy page f n i).vecRuns = s.vecRuns := State.wf_vecRuns _ _ _ _ _
@[simp] theorem State.incBy_vecRegs (s : State) (page : Nat) (f : Fld) (n i : Nat) : (s.incBy page f n i).vecRegs = s.vecRegs := State.wf_vecRegs _ _ _ _ _
@[simp] theorem State.incBy_upds (s : State) (page : Nat) (f : Fld) (n i : Nat) : (s.incBy page f n i).upds = s.upds := State.wf_upds _ _ _ _ _
@[simp] theorem State.incBy_layers (s : State) (page : Nat) (f : Fld) (n i : Nat) : (s.incBy page f n i).layers = s.layers := State.wf_layers _ _ _ _ _
@[simp] theorem State.incBy_wtable (s : State) (page : Nat) (f : Fld) (n i : Nat) : (s.incBy page f n i).wtable = s.wtable := State.wf_wtable _ _ _ _ _
@[simp] theorem State.incBy_slots (s : State) (page : Nat) (f : Fld) (n i : Nat) : (s.incBy page f n i).slots = s.slots := State.wf_slots _ _ _ _ _
@[simp] theorem State.incBy_chans (s : State) (page : Nat) (f : Fld) (n i : Nat) : (s.incBy page f n i).chans = s.chans := State.wf_chans _ _ _ _ _
@[simp] theorem State.incBy_dmaQueue (s : State) (page : Nat) (f : Fld) (n i : Nat) : (s.incBy page f n i).dmaQueue = s.dmaQueue := State.wf_dmaQueue _ _ _ _ _
@[simp] theorem State.incBy_tempo (s : State) (page : Nat) (f : Fld) (n i : Nat) : (s.incBy page f n i).tempo = s.tempo := State.wf_tempo _ _ _ _ _
@[simp] theorem State.incBy_events (s : State) (page : Nat) (f : Fld) (n i : Nat) : (s.incBy page f n i).events = s.events := State.wf_events _ _ _ _ _
@[simp] theorem State.incBy_ports (s : State) (page : Nat) (f : Fld) (n i : Nat) : (s.incBy page f n i).ports = s.ports := State.wf_ports _ _ _ _ _
@[simp] theorem State.incBy_routes (s : State) (page : Nat) (f : Fld) (n i : Nat) : (s.incBy page f n i).routes = s.routes := State.wf_routes _ _ _ _ _
@[simp] theorem State.incBy_txns (s : State) (page : Nat) (f : Fld) (n i : Nat) : (s.incBy page f n i).txns = s.txns := State.wf_txns _ _ _ _ _
@[simp] theorem State.incBy_sent (s : State) (page : Nat) (f : Fld) (n i : Nat) : (s.incBy page f n i).sent = s.sent := State.wf_sent _ _ _ _ _
@[simp] theorem State.incBy_trainSent (s : State) (page : Nat) (f : Fld) (n i : Nat) : (s.incBy page f n i).trainSent = s.trainSent := State.wf_trainSent _ _ _ _ _
@[simp] theorem State.incBy_arrived (s : State) (page : Nat) (f : Fld) (n i : Nat) : (s.incBy page f n i).arrived = s.arrived := State.wf_arrived _ _ _ _ _
@[simp] theorem State.incBy_nextTag (s : State) (page : Nat) (f : Fld) (n i : Nat) : (s.incBy page f n i).nextTag = s.nextTag := State.wf_nextTag _ _ _ _ _
@[simp] theorem State.incBy_ctable (s : State) (page : Nat) (f : Fld) (n i : Nat) : (s.incBy page f n i).ctable = s.ctable := State.wf_ctable _ _ _ _ _
@[simp] theorem State.incBy_insts (s : State) (page : Nat) (f : Fld) (n i : Nat) : (s.incBy page f n i).insts = s.insts := State.wf_insts _ _ _ _ _
@[simp] theorem State.incBy_ledgers (s : State) (page : Nat) (f : Fld) (n i : Nat) : (s.incBy page f n i).ledgers = s.ledgers := State.wf_ledgers _ _ _ _ _
@[simp] theorem State.incBy_collPast (s : State) (page : Nat) (f : Fld) (n i : Nat) : (s.incBy page f n i).collPast = s.collPast := State.wf_collPast _ _ _ _ _
@[simp] theorem State.incBy_held (s : State) (page : Nat) (f : Fld) (n i : Nat) : (s.incBy page f n i).held = s.held := State.wf_held _ _ _ _ _
@[simp] theorem State.incBy_sealOps (s : State) (page : Nat) (f : Fld) (n i : Nat) : (s.incBy page f n i).sealOps = s.sealOps := State.wf_sealOps _ _ _ _ _
@[simp] theorem State.incBy_grants (s : State) (page : Nat) (f : Fld) (n i : Nat) : (s.incBy page f n i).grants = s.grants := State.wf_grants _ _ _ _ _
@[simp] theorem State.incBy_replay (s : State) (page : Nat) (f : Fld) (n i : Nat) : (s.incBy page f n i).replay = s.replay := State.wf_replay _ _ _ _ _
@[simp] theorem State.incBy_field (s : State) (page : Nat) (f : Fld) (n i : Nat) : (s.incBy page f n i).field = s.field := State.wf_field _ _ _ _ _
@[simp] theorem State.incBy_notReady (s : State) (page : Nat) (f : Fld) (n i : Nat) : (s.incBy page f n i).notReady = s.notReady := State.wf_notReady _ _ _ _ _
@[simp] theorem State.incBy_snaps (s : State) (page : Nat) (f : Fld) (n i : Nat) : (s.incBy page f n i).snaps = s.snaps := State.wf_snaps _ _ _ _ _
@[simp] theorem State.incBy_digests (s : State) (page : Nat) (f : Fld) (n i : Nat) : (s.incBy page f n i).digests = s.digests := State.wf_digests _ _ _ _ _
@[simp] theorem State.incBy_mons (s : State) (page : Nat) (f : Fld) (n i : Nat) : (s.incBy page f n i).mons = s.mons := State.wf_mons _ _ _ _ _
@[simp] theorem State.incBy_pairs (s : State) (page : Nat) (f : Fld) (n i : Nat) : (s.incBy page f n i).pairs = s.pairs := State.wf_pairs _ _ _ _ _
@[simp] theorem State.incBy_dieCals (s : State) (page : Nat) (f : Fld) (n i : Nat) : (s.incBy page f n i).dieCals = s.dieCals := State.wf_dieCals _ _ _ _ _
@[simp] theorem State.incBy_fw (s : State) (page : Nat) (f : Fld) (n i : Nat) : (s.incBy page f n i).fw = s.fw := State.wf_fw _ _ _ _ _
@[simp] theorem State.incBy_sec (s : State) (page : Nat) (f : Fld) (n i : Nat) : (s.incBy page f n i).sec = s.sec := State.wf_sec _ _ _ _ _
@[simp] theorem State.incBy_record (s : State) (page : Nat) (f : Fld) (n i : Nat) : (s.incBy page f n i).record = s.record := State.wf_record _ _ _ _ _
@[simp] theorem State.incBy_power (s : State) (page : Nat) (f : Fld) (n i : Nat) : (s.incBy page f n i).power = s.power := State.wf_power _ _ _ _ _
@[simp] theorem State.incBy_tap (s : State) (page : Nat) (f : Fld) (n i : Nat) : (s.incBy page f n i).tap = s.tap := State.wf_tap _ _ _ _ _

@[simp] theorem State.inc_pending (s : State) (page : Nat) (f : Fld) (i : Nat) : (s.inc page f i).pending = s.pending := State.incBy_pending _ _ _ _ _
@[simp] theorem State.inc_reply (s : State) (page : Nat) (f : Fld) (i : Nat) : (s.inc page f i).reply = s.reply := State.incBy_reply _ _ _ _ _
@[simp] theorem State.inc_fresh (s : State) (page : Nat) (f : Fld) (i : Nat) : (s.inc page f i).fresh = s.fresh := State.incBy_fresh _ _ _ _ _
@[simp] theorem State.inc_mem (s : State) (page : Nat) (f : Fld) (i : Nat) : (s.inc page f i).mem = s.mem := State.incBy_mem _ _ _ _ _
@[simp] theorem State.inc_seals (s : State) (page : Nat) (f : Fld) (i : Nat) : (s.inc page f i).seals = s.seals := State.incBy_seals _ _ _ _ _
@[simp] theorem State.inc_sealAge (s : State) (page : Nat) (f : Fld) (i : Nat) : (s.inc page f i).sealAge = s.sealAge := State.incBy_sealAge _ _ _ _ _
@[simp] theorem State.inc_traffic (s : State) (page : Nat) (f : Fld) (i : Nat) : (s.inc page f i).traffic = s.traffic := State.incBy_traffic _ _ _ _ _
@[simp] theorem State.inc_posted (s : State) (page : Nat) (f : Fld) (i : Nat) : (s.inc page f i).posted = s.posted := State.incBy_posted _ _ _ _ _
@[simp] theorem State.inc_pairHold (s : State) (page : Nat) (f : Fld) (i : Nat) : (s.inc page f i).pairHold = s.pairHold := State.incBy_pairHold _ _ _ _ _
@[simp] theorem State.inc_pairRead (s : State) (page : Nat) (f : Fld) (i : Nat) : (s.inc page f i).pairRead = s.pairRead := State.incBy_pairRead _ _ _ _ _
@[simp] theorem State.inc_host (s : State) (page : Nat) (f : Fld) (i : Nat) : (s.inc page f i).host = s.host := State.incBy_host _ _ _ _ _
@[simp] theorem State.inc_panels (s : State) (page : Nat) (f : Fld) (i : Nat) : (s.inc page f i).panels = s.panels := State.incBy_panels _ _ _ _ _
@[simp] theorem State.inc_loads (s : State) (page : Nat) (f : Fld) (i : Nat) : (s.inc page f i).loads = s.loads := State.incBy_loads _ _ _ _ _
@[simp] theorem State.inc_loadRuns (s : State) (page : Nat) (f : Fld) (i : Nat) : (s.inc page f i).loadRuns = s.loadRuns := State.incBy_loadRuns _ _ _ _ _
@[simp] theorem State.inc_castles (s : State) (page : Nat) (f : Fld) (i : Nat) : (s.inc page f i).castles = s.castles := State.incBy_castles _ _ _ _ _
@[simp] theorem State.inc_partials (s : State) (page : Nat) (f : Fld) (i : Nat) : (s.inc page f i).partials = s.partials := State.incBy_partials _ _ _ _ _
@[simp] theorem State.inc_arrRuns (s : State) (page : Nat) (f : Fld) (i : Nat) : (s.inc page f i).arrRuns = s.arrRuns := State.incBy_arrRuns _ _ _ _ _
@[simp] theorem State.inc_arrOrder (s : State) (page : Nat) (f : Fld) (i : Nat) : (s.inc page f i).arrOrder = s.arrOrder := State.incBy_arrOrder _ _ _ _ _
@[simp] theorem State.inc_tasks (s : State) (page : Nat) (f : Fld) (i : Nat) : (s.inc page f i).tasks = s.tasks := State.incBy_tasks _ _ _ _ _
@[simp] theorem State.inc_nextSeq (s : State) (page : Nat) (f : Fld) (i : Nat) : (s.inc page f i).nextSeq = s.nextSeq := State.incBy_nextSeq _ _ _ _ _
@[simp] theorem State.inc_queues (s : State) (page : Nat) (f : Fld) (i : Nat) : (s.inc page f i).queues = s.queues := State.incBy_queues _ _ _ _ _
@[simp] theorem State.inc_window (s : State) (page : Nat) (f : Fld) (i : Nat) : (s.inc page f i).window = s.window := State.incBy_window _ _ _ _ _
@[simp] theorem State.inc_snapAt (s : State) (page : Nat) (f : Fld) (i : Nat) : (s.inc page f i).snapAt = s.snapAt := State.incBy_snapAt _ _ _ _ _
@[simp] theorem State.inc_gradRuns (s : State) (page : Nat) (f : Fld) (i : Nat) : (s.inc page f i).gradRuns = s.gradRuns := State.incBy_gradRuns _ _ _ _ _
@[simp] theorem State.inc_ran (s : State) (page : Nat) (f : Fld) (i : Nat) : (s.inc page f i).ran = s.ran := State.incBy_ran _ _ _ _ _
@[simp] theorem State.inc_vecRuns (s : State) (page : Nat) (f : Fld) (i : Nat) : (s.inc page f i).vecRuns = s.vecRuns := State.incBy_vecRuns _ _ _ _ _
@[simp] theorem State.inc_vecRegs (s : State) (page : Nat) (f : Fld) (i : Nat) : (s.inc page f i).vecRegs = s.vecRegs := State.incBy_vecRegs _ _ _ _ _
@[simp] theorem State.inc_upds (s : State) (page : Nat) (f : Fld) (i : Nat) : (s.inc page f i).upds = s.upds := State.incBy_upds _ _ _ _ _
@[simp] theorem State.inc_layers (s : State) (page : Nat) (f : Fld) (i : Nat) : (s.inc page f i).layers = s.layers := State.incBy_layers _ _ _ _ _
@[simp] theorem State.inc_wtable (s : State) (page : Nat) (f : Fld) (i : Nat) : (s.inc page f i).wtable = s.wtable := State.incBy_wtable _ _ _ _ _
@[simp] theorem State.inc_slots (s : State) (page : Nat) (f : Fld) (i : Nat) : (s.inc page f i).slots = s.slots := State.incBy_slots _ _ _ _ _
@[simp] theorem State.inc_chans (s : State) (page : Nat) (f : Fld) (i : Nat) : (s.inc page f i).chans = s.chans := State.incBy_chans _ _ _ _ _
@[simp] theorem State.inc_dmaQueue (s : State) (page : Nat) (f : Fld) (i : Nat) : (s.inc page f i).dmaQueue = s.dmaQueue := State.incBy_dmaQueue _ _ _ _ _
@[simp] theorem State.inc_tempo (s : State) (page : Nat) (f : Fld) (i : Nat) : (s.inc page f i).tempo = s.tempo := State.incBy_tempo _ _ _ _ _
@[simp] theorem State.inc_events (s : State) (page : Nat) (f : Fld) (i : Nat) : (s.inc page f i).events = s.events := State.incBy_events _ _ _ _ _
@[simp] theorem State.inc_ports (s : State) (page : Nat) (f : Fld) (i : Nat) : (s.inc page f i).ports = s.ports := State.incBy_ports _ _ _ _ _
@[simp] theorem State.inc_routes (s : State) (page : Nat) (f : Fld) (i : Nat) : (s.inc page f i).routes = s.routes := State.incBy_routes _ _ _ _ _
@[simp] theorem State.inc_txns (s : State) (page : Nat) (f : Fld) (i : Nat) : (s.inc page f i).txns = s.txns := State.incBy_txns _ _ _ _ _
@[simp] theorem State.inc_sent (s : State) (page : Nat) (f : Fld) (i : Nat) : (s.inc page f i).sent = s.sent := State.incBy_sent _ _ _ _ _
@[simp] theorem State.inc_trainSent (s : State) (page : Nat) (f : Fld) (i : Nat) : (s.inc page f i).trainSent = s.trainSent := State.incBy_trainSent _ _ _ _ _
@[simp] theorem State.inc_arrived (s : State) (page : Nat) (f : Fld) (i : Nat) : (s.inc page f i).arrived = s.arrived := State.incBy_arrived _ _ _ _ _
@[simp] theorem State.inc_nextTag (s : State) (page : Nat) (f : Fld) (i : Nat) : (s.inc page f i).nextTag = s.nextTag := State.incBy_nextTag _ _ _ _ _
@[simp] theorem State.inc_ctable (s : State) (page : Nat) (f : Fld) (i : Nat) : (s.inc page f i).ctable = s.ctable := State.incBy_ctable _ _ _ _ _
@[simp] theorem State.inc_insts (s : State) (page : Nat) (f : Fld) (i : Nat) : (s.inc page f i).insts = s.insts := State.incBy_insts _ _ _ _ _
@[simp] theorem State.inc_ledgers (s : State) (page : Nat) (f : Fld) (i : Nat) : (s.inc page f i).ledgers = s.ledgers := State.incBy_ledgers _ _ _ _ _
@[simp] theorem State.inc_collPast (s : State) (page : Nat) (f : Fld) (i : Nat) : (s.inc page f i).collPast = s.collPast := State.incBy_collPast _ _ _ _ _
@[simp] theorem State.inc_held (s : State) (page : Nat) (f : Fld) (i : Nat) : (s.inc page f i).held = s.held := State.incBy_held _ _ _ _ _
@[simp] theorem State.inc_sealOps (s : State) (page : Nat) (f : Fld) (i : Nat) : (s.inc page f i).sealOps = s.sealOps := State.incBy_sealOps _ _ _ _ _
@[simp] theorem State.inc_grants (s : State) (page : Nat) (f : Fld) (i : Nat) : (s.inc page f i).grants = s.grants := State.incBy_grants _ _ _ _ _
@[simp] theorem State.inc_replay (s : State) (page : Nat) (f : Fld) (i : Nat) : (s.inc page f i).replay = s.replay := State.incBy_replay _ _ _ _ _
@[simp] theorem State.inc_field (s : State) (page : Nat) (f : Fld) (i : Nat) : (s.inc page f i).field = s.field := State.incBy_field _ _ _ _ _
@[simp] theorem State.inc_notReady (s : State) (page : Nat) (f : Fld) (i : Nat) : (s.inc page f i).notReady = s.notReady := State.incBy_notReady _ _ _ _ _
@[simp] theorem State.inc_snaps (s : State) (page : Nat) (f : Fld) (i : Nat) : (s.inc page f i).snaps = s.snaps := State.incBy_snaps _ _ _ _ _
@[simp] theorem State.inc_digests (s : State) (page : Nat) (f : Fld) (i : Nat) : (s.inc page f i).digests = s.digests := State.incBy_digests _ _ _ _ _
@[simp] theorem State.inc_mons (s : State) (page : Nat) (f : Fld) (i : Nat) : (s.inc page f i).mons = s.mons := State.incBy_mons _ _ _ _ _
@[simp] theorem State.inc_pairs (s : State) (page : Nat) (f : Fld) (i : Nat) : (s.inc page f i).pairs = s.pairs := State.incBy_pairs _ _ _ _ _
@[simp] theorem State.inc_dieCals (s : State) (page : Nat) (f : Fld) (i : Nat) : (s.inc page f i).dieCals = s.dieCals := State.incBy_dieCals _ _ _ _ _
@[simp] theorem State.inc_fw (s : State) (page : Nat) (f : Fld) (i : Nat) : (s.inc page f i).fw = s.fw := State.incBy_fw _ _ _ _ _
@[simp] theorem State.inc_sec (s : State) (page : Nat) (f : Fld) (i : Nat) : (s.inc page f i).sec = s.sec := State.incBy_sec _ _ _ _ _
@[simp] theorem State.inc_record (s : State) (page : Nat) (f : Fld) (i : Nat) : (s.inc page f i).record = s.record := State.incBy_record _ _ _ _ _
@[simp] theorem State.inc_power (s : State) (page : Nat) (f : Fld) (i : Nat) : (s.inc page f i).power = s.power := State.incBy_power _ _ _ _ _
@[simp] theorem State.inc_tap (s : State) (page : Nat) (f : Fld) (i : Nat) : (s.inc page f i).tap = s.tap := State.incBy_tap _ _ _ _ _

@[simp] theorem State.inc64_pending (s : State) (page : Nat) (lo hi : Fld) (n i : Nat) : (s.inc64 page lo hi n i).pending = s.pending := State.wf64_pending _ _ _ _ _ _
@[simp] theorem State.inc64_reply (s : State) (page : Nat) (lo hi : Fld) (n i : Nat) : (s.inc64 page lo hi n i).reply = s.reply := State.wf64_reply _ _ _ _ _ _
@[simp] theorem State.inc64_fresh (s : State) (page : Nat) (lo hi : Fld) (n i : Nat) : (s.inc64 page lo hi n i).fresh = s.fresh := State.wf64_fresh _ _ _ _ _ _
@[simp] theorem State.inc64_mem (s : State) (page : Nat) (lo hi : Fld) (n i : Nat) : (s.inc64 page lo hi n i).mem = s.mem := State.wf64_mem _ _ _ _ _ _
@[simp] theorem State.inc64_seals (s : State) (page : Nat) (lo hi : Fld) (n i : Nat) : (s.inc64 page lo hi n i).seals = s.seals := State.wf64_seals _ _ _ _ _ _
@[simp] theorem State.inc64_sealAge (s : State) (page : Nat) (lo hi : Fld) (n i : Nat) : (s.inc64 page lo hi n i).sealAge = s.sealAge := State.wf64_sealAge _ _ _ _ _ _
@[simp] theorem State.inc64_traffic (s : State) (page : Nat) (lo hi : Fld) (n i : Nat) : (s.inc64 page lo hi n i).traffic = s.traffic := State.wf64_traffic _ _ _ _ _ _
@[simp] theorem State.inc64_posted (s : State) (page : Nat) (lo hi : Fld) (n i : Nat) : (s.inc64 page lo hi n i).posted = s.posted := State.wf64_posted _ _ _ _ _ _
@[simp] theorem State.inc64_pairHold (s : State) (page : Nat) (lo hi : Fld) (n i : Nat) : (s.inc64 page lo hi n i).pairHold = s.pairHold := State.wf64_pairHold _ _ _ _ _ _
@[simp] theorem State.inc64_pairRead (s : State) (page : Nat) (lo hi : Fld) (n i : Nat) : (s.inc64 page lo hi n i).pairRead = s.pairRead := State.wf64_pairRead _ _ _ _ _ _
@[simp] theorem State.inc64_host (s : State) (page : Nat) (lo hi : Fld) (n i : Nat) : (s.inc64 page lo hi n i).host = s.host := State.wf64_host _ _ _ _ _ _
@[simp] theorem State.inc64_panels (s : State) (page : Nat) (lo hi : Fld) (n i : Nat) : (s.inc64 page lo hi n i).panels = s.panels := State.wf64_panels _ _ _ _ _ _
@[simp] theorem State.inc64_loads (s : State) (page : Nat) (lo hi : Fld) (n i : Nat) : (s.inc64 page lo hi n i).loads = s.loads := State.wf64_loads _ _ _ _ _ _
@[simp] theorem State.inc64_loadRuns (s : State) (page : Nat) (lo hi : Fld) (n i : Nat) : (s.inc64 page lo hi n i).loadRuns = s.loadRuns := State.wf64_loadRuns _ _ _ _ _ _
@[simp] theorem State.inc64_castles (s : State) (page : Nat) (lo hi : Fld) (n i : Nat) : (s.inc64 page lo hi n i).castles = s.castles := State.wf64_castles _ _ _ _ _ _
@[simp] theorem State.inc64_partials (s : State) (page : Nat) (lo hi : Fld) (n i : Nat) : (s.inc64 page lo hi n i).partials = s.partials := State.wf64_partials _ _ _ _ _ _
@[simp] theorem State.inc64_arrRuns (s : State) (page : Nat) (lo hi : Fld) (n i : Nat) : (s.inc64 page lo hi n i).arrRuns = s.arrRuns := State.wf64_arrRuns _ _ _ _ _ _
@[simp] theorem State.inc64_arrOrder (s : State) (page : Nat) (lo hi : Fld) (n i : Nat) : (s.inc64 page lo hi n i).arrOrder = s.arrOrder := State.wf64_arrOrder _ _ _ _ _ _
@[simp] theorem State.inc64_tasks (s : State) (page : Nat) (lo hi : Fld) (n i : Nat) : (s.inc64 page lo hi n i).tasks = s.tasks := State.wf64_tasks _ _ _ _ _ _
@[simp] theorem State.inc64_nextSeq (s : State) (page : Nat) (lo hi : Fld) (n i : Nat) : (s.inc64 page lo hi n i).nextSeq = s.nextSeq := State.wf64_nextSeq _ _ _ _ _ _
@[simp] theorem State.inc64_queues (s : State) (page : Nat) (lo hi : Fld) (n i : Nat) : (s.inc64 page lo hi n i).queues = s.queues := State.wf64_queues _ _ _ _ _ _
@[simp] theorem State.inc64_window (s : State) (page : Nat) (lo hi : Fld) (n i : Nat) : (s.inc64 page lo hi n i).window = s.window := State.wf64_window _ _ _ _ _ _
@[simp] theorem State.inc64_snapAt (s : State) (page : Nat) (lo hi : Fld) (n i : Nat) : (s.inc64 page lo hi n i).snapAt = s.snapAt := State.wf64_snapAt _ _ _ _ _ _
@[simp] theorem State.inc64_gradRuns (s : State) (page : Nat) (lo hi : Fld) (n i : Nat) : (s.inc64 page lo hi n i).gradRuns = s.gradRuns := State.wf64_gradRuns _ _ _ _ _ _
@[simp] theorem State.inc64_ran (s : State) (page : Nat) (lo hi : Fld) (n i : Nat) : (s.inc64 page lo hi n i).ran = s.ran := State.wf64_ran _ _ _ _ _ _
@[simp] theorem State.inc64_vecRuns (s : State) (page : Nat) (lo hi : Fld) (n i : Nat) : (s.inc64 page lo hi n i).vecRuns = s.vecRuns := State.wf64_vecRuns _ _ _ _ _ _
@[simp] theorem State.inc64_vecRegs (s : State) (page : Nat) (lo hi : Fld) (n i : Nat) : (s.inc64 page lo hi n i).vecRegs = s.vecRegs := State.wf64_vecRegs _ _ _ _ _ _
@[simp] theorem State.inc64_upds (s : State) (page : Nat) (lo hi : Fld) (n i : Nat) : (s.inc64 page lo hi n i).upds = s.upds := State.wf64_upds _ _ _ _ _ _
@[simp] theorem State.inc64_layers (s : State) (page : Nat) (lo hi : Fld) (n i : Nat) : (s.inc64 page lo hi n i).layers = s.layers := State.wf64_layers _ _ _ _ _ _
@[simp] theorem State.inc64_wtable (s : State) (page : Nat) (lo hi : Fld) (n i : Nat) : (s.inc64 page lo hi n i).wtable = s.wtable := State.wf64_wtable _ _ _ _ _ _
@[simp] theorem State.inc64_slots (s : State) (page : Nat) (lo hi : Fld) (n i : Nat) : (s.inc64 page lo hi n i).slots = s.slots := State.wf64_slots _ _ _ _ _ _
@[simp] theorem State.inc64_chans (s : State) (page : Nat) (lo hi : Fld) (n i : Nat) : (s.inc64 page lo hi n i).chans = s.chans := State.wf64_chans _ _ _ _ _ _
@[simp] theorem State.inc64_dmaQueue (s : State) (page : Nat) (lo hi : Fld) (n i : Nat) : (s.inc64 page lo hi n i).dmaQueue = s.dmaQueue := State.wf64_dmaQueue _ _ _ _ _ _
@[simp] theorem State.inc64_tempo (s : State) (page : Nat) (lo hi : Fld) (n i : Nat) : (s.inc64 page lo hi n i).tempo = s.tempo := State.wf64_tempo _ _ _ _ _ _
@[simp] theorem State.inc64_events (s : State) (page : Nat) (lo hi : Fld) (n i : Nat) : (s.inc64 page lo hi n i).events = s.events := State.wf64_events _ _ _ _ _ _
@[simp] theorem State.inc64_ports (s : State) (page : Nat) (lo hi : Fld) (n i : Nat) : (s.inc64 page lo hi n i).ports = s.ports := State.wf64_ports _ _ _ _ _ _
@[simp] theorem State.inc64_routes (s : State) (page : Nat) (lo hi : Fld) (n i : Nat) : (s.inc64 page lo hi n i).routes = s.routes := State.wf64_routes _ _ _ _ _ _
@[simp] theorem State.inc64_txns (s : State) (page : Nat) (lo hi : Fld) (n i : Nat) : (s.inc64 page lo hi n i).txns = s.txns := State.wf64_txns _ _ _ _ _ _
@[simp] theorem State.inc64_sent (s : State) (page : Nat) (lo hi : Fld) (n i : Nat) : (s.inc64 page lo hi n i).sent = s.sent := State.wf64_sent _ _ _ _ _ _
@[simp] theorem State.inc64_trainSent (s : State) (page : Nat) (lo hi : Fld) (n i : Nat) : (s.inc64 page lo hi n i).trainSent = s.trainSent := State.wf64_trainSent _ _ _ _ _ _
@[simp] theorem State.inc64_arrived (s : State) (page : Nat) (lo hi : Fld) (n i : Nat) : (s.inc64 page lo hi n i).arrived = s.arrived := State.wf64_arrived _ _ _ _ _ _
@[simp] theorem State.inc64_nextTag (s : State) (page : Nat) (lo hi : Fld) (n i : Nat) : (s.inc64 page lo hi n i).nextTag = s.nextTag := State.wf64_nextTag _ _ _ _ _ _
@[simp] theorem State.inc64_ctable (s : State) (page : Nat) (lo hi : Fld) (n i : Nat) : (s.inc64 page lo hi n i).ctable = s.ctable := State.wf64_ctable _ _ _ _ _ _
@[simp] theorem State.inc64_insts (s : State) (page : Nat) (lo hi : Fld) (n i : Nat) : (s.inc64 page lo hi n i).insts = s.insts := State.wf64_insts _ _ _ _ _ _
@[simp] theorem State.inc64_ledgers (s : State) (page : Nat) (lo hi : Fld) (n i : Nat) : (s.inc64 page lo hi n i).ledgers = s.ledgers := State.wf64_ledgers _ _ _ _ _ _
@[simp] theorem State.inc64_collPast (s : State) (page : Nat) (lo hi : Fld) (n i : Nat) : (s.inc64 page lo hi n i).collPast = s.collPast := State.wf64_collPast _ _ _ _ _ _
@[simp] theorem State.inc64_held (s : State) (page : Nat) (lo hi : Fld) (n i : Nat) : (s.inc64 page lo hi n i).held = s.held := State.wf64_held _ _ _ _ _ _
@[simp] theorem State.inc64_sealOps (s : State) (page : Nat) (lo hi : Fld) (n i : Nat) : (s.inc64 page lo hi n i).sealOps = s.sealOps := State.wf64_sealOps _ _ _ _ _ _
@[simp] theorem State.inc64_grants (s : State) (page : Nat) (lo hi : Fld) (n i : Nat) : (s.inc64 page lo hi n i).grants = s.grants := State.wf64_grants _ _ _ _ _ _
@[simp] theorem State.inc64_replay (s : State) (page : Nat) (lo hi : Fld) (n i : Nat) : (s.inc64 page lo hi n i).replay = s.replay := State.wf64_replay _ _ _ _ _ _
@[simp] theorem State.inc64_field (s : State) (page : Nat) (lo hi : Fld) (n i : Nat) : (s.inc64 page lo hi n i).field = s.field := State.wf64_field _ _ _ _ _ _
@[simp] theorem State.inc64_notReady (s : State) (page : Nat) (lo hi : Fld) (n i : Nat) : (s.inc64 page lo hi n i).notReady = s.notReady := State.wf64_notReady _ _ _ _ _ _
@[simp] theorem State.inc64_snaps (s : State) (page : Nat) (lo hi : Fld) (n i : Nat) : (s.inc64 page lo hi n i).snaps = s.snaps := State.wf64_snaps _ _ _ _ _ _
@[simp] theorem State.inc64_digests (s : State) (page : Nat) (lo hi : Fld) (n i : Nat) : (s.inc64 page lo hi n i).digests = s.digests := State.wf64_digests _ _ _ _ _ _
@[simp] theorem State.inc64_mons (s : State) (page : Nat) (lo hi : Fld) (n i : Nat) : (s.inc64 page lo hi n i).mons = s.mons := State.wf64_mons _ _ _ _ _ _
@[simp] theorem State.inc64_pairs (s : State) (page : Nat) (lo hi : Fld) (n i : Nat) : (s.inc64 page lo hi n i).pairs = s.pairs := State.wf64_pairs _ _ _ _ _ _
@[simp] theorem State.inc64_dieCals (s : State) (page : Nat) (lo hi : Fld) (n i : Nat) : (s.inc64 page lo hi n i).dieCals = s.dieCals := State.wf64_dieCals _ _ _ _ _ _
@[simp] theorem State.inc64_fw (s : State) (page : Nat) (lo hi : Fld) (n i : Nat) : (s.inc64 page lo hi n i).fw = s.fw := State.wf64_fw _ _ _ _ _ _
@[simp] theorem State.inc64_sec (s : State) (page : Nat) (lo hi : Fld) (n i : Nat) : (s.inc64 page lo hi n i).sec = s.sec := State.wf64_sec _ _ _ _ _ _
@[simp] theorem State.inc64_record (s : State) (page : Nat) (lo hi : Fld) (n i : Nat) : (s.inc64 page lo hi n i).record = s.record := State.wf64_record _ _ _ _ _ _
@[simp] theorem State.inc64_power (s : State) (page : Nat) (lo hi : Fld) (n i : Nat) : (s.inc64 page lo hi n i).power = s.power := State.wf64_power _ _ _ _ _ _
@[simp] theorem State.inc64_tap (s : State) (page : Nat) (lo hi : Fld) (n i : Nat) : (s.inc64 page lo hi n i).tap = s.tap := State.wf64_tap _ _ _ _ _ _

@[simp] theorem State.setHdrBit_pending (s : State) (page o b : Nat) (v : Bool) : (s.setHdrBit page o b v).pending = s.pending := rfl
@[simp] theorem State.setHdrBit_reply (s : State) (page o b : Nat) (v : Bool) : (s.setHdrBit page o b v).reply = s.reply := rfl
@[simp] theorem State.setHdrBit_fresh (s : State) (page o b : Nat) (v : Bool) : (s.setHdrBit page o b v).fresh = s.fresh := rfl
@[simp] theorem State.setHdrBit_mem (s : State) (page o b : Nat) (v : Bool) : (s.setHdrBit page o b v).mem = s.mem := rfl
@[simp] theorem State.setHdrBit_seals (s : State) (page o b : Nat) (v : Bool) : (s.setHdrBit page o b v).seals = s.seals := rfl
@[simp] theorem State.setHdrBit_sealAge (s : State) (page o b : Nat) (v : Bool) : (s.setHdrBit page o b v).sealAge = s.sealAge := rfl
@[simp] theorem State.setHdrBit_traffic (s : State) (page o b : Nat) (v : Bool) : (s.setHdrBit page o b v).traffic = s.traffic := rfl
@[simp] theorem State.setHdrBit_posted (s : State) (page o b : Nat) (v : Bool) : (s.setHdrBit page o b v).posted = s.posted := rfl
@[simp] theorem State.setHdrBit_pairHold (s : State) (page o b : Nat) (v : Bool) : (s.setHdrBit page o b v).pairHold = s.pairHold := rfl
@[simp] theorem State.setHdrBit_pairRead (s : State) (page o b : Nat) (v : Bool) : (s.setHdrBit page o b v).pairRead = s.pairRead := rfl
@[simp] theorem State.setHdrBit_host (s : State) (page o b : Nat) (v : Bool) : (s.setHdrBit page o b v).host = s.host := rfl
@[simp] theorem State.setHdrBit_panels (s : State) (page o b : Nat) (v : Bool) : (s.setHdrBit page o b v).panels = s.panels := rfl
@[simp] theorem State.setHdrBit_loads (s : State) (page o b : Nat) (v : Bool) : (s.setHdrBit page o b v).loads = s.loads := rfl
@[simp] theorem State.setHdrBit_loadRuns (s : State) (page o b : Nat) (v : Bool) : (s.setHdrBit page o b v).loadRuns = s.loadRuns := rfl
@[simp] theorem State.setHdrBit_castles (s : State) (page o b : Nat) (v : Bool) : (s.setHdrBit page o b v).castles = s.castles := rfl
@[simp] theorem State.setHdrBit_partials (s : State) (page o b : Nat) (v : Bool) : (s.setHdrBit page o b v).partials = s.partials := rfl
@[simp] theorem State.setHdrBit_arrRuns (s : State) (page o b : Nat) (v : Bool) : (s.setHdrBit page o b v).arrRuns = s.arrRuns := rfl
@[simp] theorem State.setHdrBit_arrOrder (s : State) (page o b : Nat) (v : Bool) : (s.setHdrBit page o b v).arrOrder = s.arrOrder := rfl
@[simp] theorem State.setHdrBit_tasks (s : State) (page o b : Nat) (v : Bool) : (s.setHdrBit page o b v).tasks = s.tasks := rfl
@[simp] theorem State.setHdrBit_nextSeq (s : State) (page o b : Nat) (v : Bool) : (s.setHdrBit page o b v).nextSeq = s.nextSeq := rfl
@[simp] theorem State.setHdrBit_queues (s : State) (page o b : Nat) (v : Bool) : (s.setHdrBit page o b v).queues = s.queues := rfl
@[simp] theorem State.setHdrBit_window (s : State) (page o b : Nat) (v : Bool) : (s.setHdrBit page o b v).window = s.window := rfl
@[simp] theorem State.setHdrBit_snapAt (s : State) (page o b : Nat) (v : Bool) : (s.setHdrBit page o b v).snapAt = s.snapAt := rfl
@[simp] theorem State.setHdrBit_gradRuns (s : State) (page o b : Nat) (v : Bool) : (s.setHdrBit page o b v).gradRuns = s.gradRuns := rfl
@[simp] theorem State.setHdrBit_ran (s : State) (page o b : Nat) (v : Bool) : (s.setHdrBit page o b v).ran = s.ran := rfl
@[simp] theorem State.setHdrBit_vecRuns (s : State) (page o b : Nat) (v : Bool) : (s.setHdrBit page o b v).vecRuns = s.vecRuns := rfl
@[simp] theorem State.setHdrBit_vecRegs (s : State) (page o b : Nat) (v : Bool) : (s.setHdrBit page o b v).vecRegs = s.vecRegs := rfl
@[simp] theorem State.setHdrBit_upds (s : State) (page o b : Nat) (v : Bool) : (s.setHdrBit page o b v).upds = s.upds := rfl
@[simp] theorem State.setHdrBit_layers (s : State) (page o b : Nat) (v : Bool) : (s.setHdrBit page o b v).layers = s.layers := rfl
@[simp] theorem State.setHdrBit_wtable (s : State) (page o b : Nat) (v : Bool) : (s.setHdrBit page o b v).wtable = s.wtable := rfl
@[simp] theorem State.setHdrBit_slots (s : State) (page o b : Nat) (v : Bool) : (s.setHdrBit page o b v).slots = s.slots := rfl
@[simp] theorem State.setHdrBit_chans (s : State) (page o b : Nat) (v : Bool) : (s.setHdrBit page o b v).chans = s.chans := rfl
@[simp] theorem State.setHdrBit_dmaQueue (s : State) (page o b : Nat) (v : Bool) : (s.setHdrBit page o b v).dmaQueue = s.dmaQueue := rfl
@[simp] theorem State.setHdrBit_tempo (s : State) (page o b : Nat) (v : Bool) : (s.setHdrBit page o b v).tempo = s.tempo := rfl
@[simp] theorem State.setHdrBit_events (s : State) (page o b : Nat) (v : Bool) : (s.setHdrBit page o b v).events = s.events := rfl
@[simp] theorem State.setHdrBit_ports (s : State) (page o b : Nat) (v : Bool) : (s.setHdrBit page o b v).ports = s.ports := rfl
@[simp] theorem State.setHdrBit_routes (s : State) (page o b : Nat) (v : Bool) : (s.setHdrBit page o b v).routes = s.routes := rfl
@[simp] theorem State.setHdrBit_txns (s : State) (page o b : Nat) (v : Bool) : (s.setHdrBit page o b v).txns = s.txns := rfl
@[simp] theorem State.setHdrBit_sent (s : State) (page o b : Nat) (v : Bool) : (s.setHdrBit page o b v).sent = s.sent := rfl
@[simp] theorem State.setHdrBit_trainSent (s : State) (page o b : Nat) (v : Bool) : (s.setHdrBit page o b v).trainSent = s.trainSent := rfl
@[simp] theorem State.setHdrBit_arrived (s : State) (page o b : Nat) (v : Bool) : (s.setHdrBit page o b v).arrived = s.arrived := rfl
@[simp] theorem State.setHdrBit_nextTag (s : State) (page o b : Nat) (v : Bool) : (s.setHdrBit page o b v).nextTag = s.nextTag := rfl
@[simp] theorem State.setHdrBit_ctable (s : State) (page o b : Nat) (v : Bool) : (s.setHdrBit page o b v).ctable = s.ctable := rfl
@[simp] theorem State.setHdrBit_insts (s : State) (page o b : Nat) (v : Bool) : (s.setHdrBit page o b v).insts = s.insts := rfl
@[simp] theorem State.setHdrBit_ledgers (s : State) (page o b : Nat) (v : Bool) : (s.setHdrBit page o b v).ledgers = s.ledgers := rfl
@[simp] theorem State.setHdrBit_collPast (s : State) (page o b : Nat) (v : Bool) : (s.setHdrBit page o b v).collPast = s.collPast := rfl
@[simp] theorem State.setHdrBit_held (s : State) (page o b : Nat) (v : Bool) : (s.setHdrBit page o b v).held = s.held := rfl
@[simp] theorem State.setHdrBit_sealOps (s : State) (page o b : Nat) (v : Bool) : (s.setHdrBit page o b v).sealOps = s.sealOps := rfl
@[simp] theorem State.setHdrBit_grants (s : State) (page o b : Nat) (v : Bool) : (s.setHdrBit page o b v).grants = s.grants := rfl
@[simp] theorem State.setHdrBit_replay (s : State) (page o b : Nat) (v : Bool) : (s.setHdrBit page o b v).replay = s.replay := rfl
@[simp] theorem State.setHdrBit_field (s : State) (page o b : Nat) (v : Bool) : (s.setHdrBit page o b v).field = s.field := rfl
@[simp] theorem State.setHdrBit_notReady (s : State) (page o b : Nat) (v : Bool) : (s.setHdrBit page o b v).notReady = s.notReady := rfl
@[simp] theorem State.setHdrBit_snaps (s : State) (page o b : Nat) (v : Bool) : (s.setHdrBit page o b v).snaps = s.snaps := rfl
@[simp] theorem State.setHdrBit_digests (s : State) (page o b : Nat) (v : Bool) : (s.setHdrBit page o b v).digests = s.digests := rfl
@[simp] theorem State.setHdrBit_mons (s : State) (page o b : Nat) (v : Bool) : (s.setHdrBit page o b v).mons = s.mons := rfl
@[simp] theorem State.setHdrBit_pairs (s : State) (page o b : Nat) (v : Bool) : (s.setHdrBit page o b v).pairs = s.pairs := rfl
@[simp] theorem State.setHdrBit_dieCals (s : State) (page o b : Nat) (v : Bool) : (s.setHdrBit page o b v).dieCals = s.dieCals := rfl
@[simp] theorem State.setHdrBit_fw (s : State) (page o b : Nat) (v : Bool) : (s.setHdrBit page o b v).fw = s.fw := rfl
@[simp] theorem State.setHdrBit_sec (s : State) (page o b : Nat) (v : Bool) : (s.setHdrBit page o b v).sec = s.sec := rfl
@[simp] theorem State.setHdrBit_record (s : State) (page o b : Nat) (v : Bool) : (s.setHdrBit page o b v).record = s.record := rfl
@[simp] theorem State.setHdrBit_power (s : State) (page o b : Nat) (v : Bool) : (s.setHdrBit page o b v).power = s.power := rfl
@[simp] theorem State.setHdrBit_tap (s : State) (page o b : Nat) (v : Bool) : (s.setHdrBit page o b v).tap = s.tap := rfl

@[simp] theorem State.setSeal_pending (s : State) (k : Nat) (w : Word) : (s.setSeal k w).pending = s.pending := rfl
@[simp] theorem State.setSeal_reply (s : State) (k : Nat) (w : Word) : (s.setSeal k w).reply = s.reply := rfl
@[simp] theorem State.setSeal_fresh (s : State) (k : Nat) (w : Word) : (s.setSeal k w).fresh = s.fresh := rfl
@[simp] theorem State.setSeal_regs (s : State) (k : Nat) (w : Word) : (s.setSeal k w).regs = s.regs := rfl
@[simp] theorem State.setSeal_mem (s : State) (k : Nat) (w : Word) : (s.setSeal k w).mem = s.mem := rfl
@[simp] theorem State.setSeal_sealAge (s : State) (k : Nat) (w : Word) : (s.setSeal k w).sealAge = s.sealAge := rfl
@[simp] theorem State.setSeal_traffic (s : State) (k : Nat) (w : Word) : (s.setSeal k w).traffic = s.traffic := rfl
@[simp] theorem State.setSeal_posted (s : State) (k : Nat) (w : Word) : (s.setSeal k w).posted = s.posted := rfl
@[simp] theorem State.setSeal_pairHold (s : State) (k : Nat) (w : Word) : (s.setSeal k w).pairHold = s.pairHold := rfl
@[simp] theorem State.setSeal_pairRead (s : State) (k : Nat) (w : Word) : (s.setSeal k w).pairRead = s.pairRead := rfl
@[simp] theorem State.setSeal_host (s : State) (k : Nat) (w : Word) : (s.setSeal k w).host = s.host := rfl
@[simp] theorem State.setSeal_panels (s : State) (k : Nat) (w : Word) : (s.setSeal k w).panels = s.panels := rfl
@[simp] theorem State.setSeal_loads (s : State) (k : Nat) (w : Word) : (s.setSeal k w).loads = s.loads := rfl
@[simp] theorem State.setSeal_loadRuns (s : State) (k : Nat) (w : Word) : (s.setSeal k w).loadRuns = s.loadRuns := rfl
@[simp] theorem State.setSeal_castles (s : State) (k : Nat) (w : Word) : (s.setSeal k w).castles = s.castles := rfl
@[simp] theorem State.setSeal_partials (s : State) (k : Nat) (w : Word) : (s.setSeal k w).partials = s.partials := rfl
@[simp] theorem State.setSeal_arrRuns (s : State) (k : Nat) (w : Word) : (s.setSeal k w).arrRuns = s.arrRuns := rfl
@[simp] theorem State.setSeal_arrOrder (s : State) (k : Nat) (w : Word) : (s.setSeal k w).arrOrder = s.arrOrder := rfl
@[simp] theorem State.setSeal_tasks (s : State) (k : Nat) (w : Word) : (s.setSeal k w).tasks = s.tasks := rfl
@[simp] theorem State.setSeal_nextSeq (s : State) (k : Nat) (w : Word) : (s.setSeal k w).nextSeq = s.nextSeq := rfl
@[simp] theorem State.setSeal_queues (s : State) (k : Nat) (w : Word) : (s.setSeal k w).queues = s.queues := rfl
@[simp] theorem State.setSeal_window (s : State) (k : Nat) (w : Word) : (s.setSeal k w).window = s.window := rfl
@[simp] theorem State.setSeal_snapAt (s : State) (k : Nat) (w : Word) : (s.setSeal k w).snapAt = s.snapAt := rfl
@[simp] theorem State.setSeal_gradRuns (s : State) (k : Nat) (w : Word) : (s.setSeal k w).gradRuns = s.gradRuns := rfl
@[simp] theorem State.setSeal_ran (s : State) (k : Nat) (w : Word) : (s.setSeal k w).ran = s.ran := rfl
@[simp] theorem State.setSeal_vecRuns (s : State) (k : Nat) (w : Word) : (s.setSeal k w).vecRuns = s.vecRuns := rfl
@[simp] theorem State.setSeal_vecRegs (s : State) (k : Nat) (w : Word) : (s.setSeal k w).vecRegs = s.vecRegs := rfl
@[simp] theorem State.setSeal_upds (s : State) (k : Nat) (w : Word) : (s.setSeal k w).upds = s.upds := rfl
@[simp] theorem State.setSeal_layers (s : State) (k : Nat) (w : Word) : (s.setSeal k w).layers = s.layers := rfl
@[simp] theorem State.setSeal_wtable (s : State) (k : Nat) (w : Word) : (s.setSeal k w).wtable = s.wtable := rfl
@[simp] theorem State.setSeal_slots (s : State) (k : Nat) (w : Word) : (s.setSeal k w).slots = s.slots := rfl
@[simp] theorem State.setSeal_chans (s : State) (k : Nat) (w : Word) : (s.setSeal k w).chans = s.chans := rfl
@[simp] theorem State.setSeal_dmaQueue (s : State) (k : Nat) (w : Word) : (s.setSeal k w).dmaQueue = s.dmaQueue := rfl
@[simp] theorem State.setSeal_tempo (s : State) (k : Nat) (w : Word) : (s.setSeal k w).tempo = s.tempo := rfl
@[simp] theorem State.setSeal_events (s : State) (k : Nat) (w : Word) : (s.setSeal k w).events = s.events := rfl
@[simp] theorem State.setSeal_ports (s : State) (k : Nat) (w : Word) : (s.setSeal k w).ports = s.ports := rfl
@[simp] theorem State.setSeal_routes (s : State) (k : Nat) (w : Word) : (s.setSeal k w).routes = s.routes := rfl
@[simp] theorem State.setSeal_txns (s : State) (k : Nat) (w : Word) : (s.setSeal k w).txns = s.txns := rfl
@[simp] theorem State.setSeal_sent (s : State) (k : Nat) (w : Word) : (s.setSeal k w).sent = s.sent := rfl
@[simp] theorem State.setSeal_trainSent (s : State) (k : Nat) (w : Word) : (s.setSeal k w).trainSent = s.trainSent := rfl
@[simp] theorem State.setSeal_arrived (s : State) (k : Nat) (w : Word) : (s.setSeal k w).arrived = s.arrived := rfl
@[simp] theorem State.setSeal_nextTag (s : State) (k : Nat) (w : Word) : (s.setSeal k w).nextTag = s.nextTag := rfl
@[simp] theorem State.setSeal_ctable (s : State) (k : Nat) (w : Word) : (s.setSeal k w).ctable = s.ctable := rfl
@[simp] theorem State.setSeal_insts (s : State) (k : Nat) (w : Word) : (s.setSeal k w).insts = s.insts := rfl
@[simp] theorem State.setSeal_ledgers (s : State) (k : Nat) (w : Word) : (s.setSeal k w).ledgers = s.ledgers := rfl
@[simp] theorem State.setSeal_collPast (s : State) (k : Nat) (w : Word) : (s.setSeal k w).collPast = s.collPast := rfl
@[simp] theorem State.setSeal_held (s : State) (k : Nat) (w : Word) : (s.setSeal k w).held = s.held := rfl
@[simp] theorem State.setSeal_sealOps (s : State) (k : Nat) (w : Word) : (s.setSeal k w).sealOps = s.sealOps := rfl
@[simp] theorem State.setSeal_grants (s : State) (k : Nat) (w : Word) : (s.setSeal k w).grants = s.grants := rfl
@[simp] theorem State.setSeal_replay (s : State) (k : Nat) (w : Word) : (s.setSeal k w).replay = s.replay := rfl
@[simp] theorem State.setSeal_field (s : State) (k : Nat) (w : Word) : (s.setSeal k w).field = s.field := rfl
@[simp] theorem State.setSeal_notReady (s : State) (k : Nat) (w : Word) : (s.setSeal k w).notReady = s.notReady := rfl
@[simp] theorem State.setSeal_snaps (s : State) (k : Nat) (w : Word) : (s.setSeal k w).snaps = s.snaps := rfl
@[simp] theorem State.setSeal_digests (s : State) (k : Nat) (w : Word) : (s.setSeal k w).digests = s.digests := rfl
@[simp] theorem State.setSeal_mons (s : State) (k : Nat) (w : Word) : (s.setSeal k w).mons = s.mons := rfl
@[simp] theorem State.setSeal_pairs (s : State) (k : Nat) (w : Word) : (s.setSeal k w).pairs = s.pairs := rfl
@[simp] theorem State.setSeal_dieCals (s : State) (k : Nat) (w : Word) : (s.setSeal k w).dieCals = s.dieCals := rfl
@[simp] theorem State.setSeal_fw (s : State) (k : Nat) (w : Word) : (s.setSeal k w).fw = s.fw := rfl
@[simp] theorem State.setSeal_sec (s : State) (k : Nat) (w : Word) : (s.setSeal k w).sec = s.sec := rfl
@[simp] theorem State.setSeal_record (s : State) (k : Nat) (w : Word) : (s.setSeal k w).record = s.record := rfl
@[simp] theorem State.setSeal_power (s : State) (k : Nat) (w : Word) : (s.setSeal k w).power = s.power := rfl
@[simp] theorem State.setSeal_tap (s : State) (k : Nat) (w : Word) : (s.setSeal k w).tap = s.tap := rfl

@[simp] theorem State.err_pending (s : State) (page event detail : Nat) : (s.err page event detail).pending = s.pending := (State.setReg_pending _ _ _).trans (State.setReg_pending _ _ _)
@[simp] theorem State.err_reply (s : State) (page event detail : Nat) : (s.err page event detail).reply = s.reply := (State.setReg_reply _ _ _).trans (State.setReg_reply _ _ _)
@[simp] theorem State.err_fresh (s : State) (page event detail : Nat) : (s.err page event detail).fresh = s.fresh := (State.setReg_fresh _ _ _).trans (State.setReg_fresh _ _ _)
@[simp] theorem State.err_mem (s : State) (page event detail : Nat) : (s.err page event detail).mem = s.mem := (State.setReg_mem _ _ _).trans (State.setReg_mem _ _ _)
@[simp] theorem State.err_seals (s : State) (page event detail : Nat) : (s.err page event detail).seals = s.seals := (State.setReg_seals _ _ _).trans (State.setReg_seals _ _ _)
@[simp] theorem State.err_sealAge (s : State) (page event detail : Nat) : (s.err page event detail).sealAge = s.sealAge := (State.setReg_sealAge _ _ _).trans (State.setReg_sealAge _ _ _)
@[simp] theorem State.err_traffic (s : State) (page event detail : Nat) : (s.err page event detail).traffic = s.traffic := (State.setReg_traffic _ _ _).trans (State.setReg_traffic _ _ _)
@[simp] theorem State.err_posted (s : State) (page event detail : Nat) : (s.err page event detail).posted = s.posted := (State.setReg_posted _ _ _).trans (State.setReg_posted _ _ _)
@[simp] theorem State.err_pairHold (s : State) (page event detail : Nat) : (s.err page event detail).pairHold = s.pairHold := (State.setReg_pairHold _ _ _).trans (State.setReg_pairHold _ _ _)
@[simp] theorem State.err_pairRead (s : State) (page event detail : Nat) : (s.err page event detail).pairRead = s.pairRead := (State.setReg_pairRead _ _ _).trans (State.setReg_pairRead _ _ _)
@[simp] theorem State.err_host (s : State) (page event detail : Nat) : (s.err page event detail).host = s.host := (State.setReg_host _ _ _).trans (State.setReg_host _ _ _)
@[simp] theorem State.err_panels (s : State) (page event detail : Nat) : (s.err page event detail).panels = s.panels := (State.setReg_panels _ _ _).trans (State.setReg_panels _ _ _)
@[simp] theorem State.err_loads (s : State) (page event detail : Nat) : (s.err page event detail).loads = s.loads := (State.setReg_loads _ _ _).trans (State.setReg_loads _ _ _)
@[simp] theorem State.err_loadRuns (s : State) (page event detail : Nat) : (s.err page event detail).loadRuns = s.loadRuns := (State.setReg_loadRuns _ _ _).trans (State.setReg_loadRuns _ _ _)
@[simp] theorem State.err_castles (s : State) (page event detail : Nat) : (s.err page event detail).castles = s.castles := (State.setReg_castles _ _ _).trans (State.setReg_castles _ _ _)
@[simp] theorem State.err_partials (s : State) (page event detail : Nat) : (s.err page event detail).partials = s.partials := (State.setReg_partials _ _ _).trans (State.setReg_partials _ _ _)
@[simp] theorem State.err_arrRuns (s : State) (page event detail : Nat) : (s.err page event detail).arrRuns = s.arrRuns := (State.setReg_arrRuns _ _ _).trans (State.setReg_arrRuns _ _ _)
@[simp] theorem State.err_arrOrder (s : State) (page event detail : Nat) : (s.err page event detail).arrOrder = s.arrOrder := (State.setReg_arrOrder _ _ _).trans (State.setReg_arrOrder _ _ _)
@[simp] theorem State.err_tasks (s : State) (page event detail : Nat) : (s.err page event detail).tasks = s.tasks := (State.setReg_tasks _ _ _).trans (State.setReg_tasks _ _ _)
@[simp] theorem State.err_nextSeq (s : State) (page event detail : Nat) : (s.err page event detail).nextSeq = s.nextSeq := (State.setReg_nextSeq _ _ _).trans (State.setReg_nextSeq _ _ _)
@[simp] theorem State.err_queues (s : State) (page event detail : Nat) : (s.err page event detail).queues = s.queues := (State.setReg_queues _ _ _).trans (State.setReg_queues _ _ _)
@[simp] theorem State.err_window (s : State) (page event detail : Nat) : (s.err page event detail).window = s.window := (State.setReg_window _ _ _).trans (State.setReg_window _ _ _)
@[simp] theorem State.err_snapAt (s : State) (page event detail : Nat) : (s.err page event detail).snapAt = s.snapAt := (State.setReg_snapAt _ _ _).trans (State.setReg_snapAt _ _ _)
@[simp] theorem State.err_gradRuns (s : State) (page event detail : Nat) : (s.err page event detail).gradRuns = s.gradRuns := (State.setReg_gradRuns _ _ _).trans (State.setReg_gradRuns _ _ _)
@[simp] theorem State.err_ran (s : State) (page event detail : Nat) : (s.err page event detail).ran = s.ran := (State.setReg_ran _ _ _).trans (State.setReg_ran _ _ _)
@[simp] theorem State.err_vecRuns (s : State) (page event detail : Nat) : (s.err page event detail).vecRuns = s.vecRuns := (State.setReg_vecRuns _ _ _).trans (State.setReg_vecRuns _ _ _)
@[simp] theorem State.err_vecRegs (s : State) (page event detail : Nat) : (s.err page event detail).vecRegs = s.vecRegs := (State.setReg_vecRegs _ _ _).trans (State.setReg_vecRegs _ _ _)
@[simp] theorem State.err_upds (s : State) (page event detail : Nat) : (s.err page event detail).upds = s.upds := (State.setReg_upds _ _ _).trans (State.setReg_upds _ _ _)
@[simp] theorem State.err_layers (s : State) (page event detail : Nat) : (s.err page event detail).layers = s.layers := (State.setReg_layers _ _ _).trans (State.setReg_layers _ _ _)
@[simp] theorem State.err_wtable (s : State) (page event detail : Nat) : (s.err page event detail).wtable = s.wtable := (State.setReg_wtable _ _ _).trans (State.setReg_wtable _ _ _)
@[simp] theorem State.err_slots (s : State) (page event detail : Nat) : (s.err page event detail).slots = s.slots := (State.setReg_slots _ _ _).trans (State.setReg_slots _ _ _)
@[simp] theorem State.err_chans (s : State) (page event detail : Nat) : (s.err page event detail).chans = s.chans := (State.setReg_chans _ _ _).trans (State.setReg_chans _ _ _)
@[simp] theorem State.err_dmaQueue (s : State) (page event detail : Nat) : (s.err page event detail).dmaQueue = s.dmaQueue := (State.setReg_dmaQueue _ _ _).trans (State.setReg_dmaQueue _ _ _)
@[simp] theorem State.err_tempo (s : State) (page event detail : Nat) : (s.err page event detail).tempo = s.tempo := (State.setReg_tempo _ _ _).trans (State.setReg_tempo _ _ _)
@[simp] theorem State.err_events (s : State) (page event detail : Nat) : (s.err page event detail).events = s.events := (State.setReg_events _ _ _).trans (State.setReg_events _ _ _)
@[simp] theorem State.err_ports (s : State) (page event detail : Nat) : (s.err page event detail).ports = s.ports := (State.setReg_ports _ _ _).trans (State.setReg_ports _ _ _)
@[simp] theorem State.err_routes (s : State) (page event detail : Nat) : (s.err page event detail).routes = s.routes := (State.setReg_routes _ _ _).trans (State.setReg_routes _ _ _)
@[simp] theorem State.err_txns (s : State) (page event detail : Nat) : (s.err page event detail).txns = s.txns := (State.setReg_txns _ _ _).trans (State.setReg_txns _ _ _)
@[simp] theorem State.err_sent (s : State) (page event detail : Nat) : (s.err page event detail).sent = s.sent := (State.setReg_sent _ _ _).trans (State.setReg_sent _ _ _)
@[simp] theorem State.err_trainSent (s : State) (page event detail : Nat) : (s.err page event detail).trainSent = s.trainSent := (State.setReg_trainSent _ _ _).trans (State.setReg_trainSent _ _ _)
@[simp] theorem State.err_arrived (s : State) (page event detail : Nat) : (s.err page event detail).arrived = s.arrived := (State.setReg_arrived _ _ _).trans (State.setReg_arrived _ _ _)
@[simp] theorem State.err_nextTag (s : State) (page event detail : Nat) : (s.err page event detail).nextTag = s.nextTag := (State.setReg_nextTag _ _ _).trans (State.setReg_nextTag _ _ _)
@[simp] theorem State.err_ctable (s : State) (page event detail : Nat) : (s.err page event detail).ctable = s.ctable := (State.setReg_ctable _ _ _).trans (State.setReg_ctable _ _ _)
@[simp] theorem State.err_insts (s : State) (page event detail : Nat) : (s.err page event detail).insts = s.insts := (State.setReg_insts _ _ _).trans (State.setReg_insts _ _ _)
@[simp] theorem State.err_ledgers (s : State) (page event detail : Nat) : (s.err page event detail).ledgers = s.ledgers := (State.setReg_ledgers _ _ _).trans (State.setReg_ledgers _ _ _)
@[simp] theorem State.err_collPast (s : State) (page event detail : Nat) : (s.err page event detail).collPast = s.collPast := (State.setReg_collPast _ _ _).trans (State.setReg_collPast _ _ _)
@[simp] theorem State.err_held (s : State) (page event detail : Nat) : (s.err page event detail).held = s.held := (State.setReg_held _ _ _).trans (State.setReg_held _ _ _)
@[simp] theorem State.err_sealOps (s : State) (page event detail : Nat) : (s.err page event detail).sealOps = s.sealOps := (State.setReg_sealOps _ _ _).trans (State.setReg_sealOps _ _ _)
@[simp] theorem State.err_grants (s : State) (page event detail : Nat) : (s.err page event detail).grants = s.grants := (State.setReg_grants _ _ _).trans (State.setReg_grants _ _ _)
@[simp] theorem State.err_replay (s : State) (page event detail : Nat) : (s.err page event detail).replay = s.replay := (State.setReg_replay _ _ _).trans (State.setReg_replay _ _ _)
@[simp] theorem State.err_field (s : State) (page event detail : Nat) : (s.err page event detail).field = s.field := (State.setReg_field _ _ _).trans (State.setReg_field _ _ _)
@[simp] theorem State.err_notReady (s : State) (page event detail : Nat) : (s.err page event detail).notReady = s.notReady := (State.setReg_notReady _ _ _).trans (State.setReg_notReady _ _ _)
@[simp] theorem State.err_snaps (s : State) (page event detail : Nat) : (s.err page event detail).snaps = s.snaps := (State.setReg_snaps _ _ _).trans (State.setReg_snaps _ _ _)
@[simp] theorem State.err_digests (s : State) (page event detail : Nat) : (s.err page event detail).digests = s.digests := (State.setReg_digests _ _ _).trans (State.setReg_digests _ _ _)
@[simp] theorem State.err_mons (s : State) (page event detail : Nat) : (s.err page event detail).mons = s.mons := (State.setReg_mons _ _ _).trans (State.setReg_mons _ _ _)
@[simp] theorem State.err_pairs (s : State) (page event detail : Nat) : (s.err page event detail).pairs = s.pairs := (State.setReg_pairs _ _ _).trans (State.setReg_pairs _ _ _)
@[simp] theorem State.err_dieCals (s : State) (page event detail : Nat) : (s.err page event detail).dieCals = s.dieCals := (State.setReg_dieCals _ _ _).trans (State.setReg_dieCals _ _ _)
@[simp] theorem State.err_fw (s : State) (page event detail : Nat) : (s.err page event detail).fw = s.fw := (State.setReg_fw _ _ _).trans (State.setReg_fw _ _ _)
@[simp] theorem State.err_sec (s : State) (page event detail : Nat) : (s.err page event detail).sec = s.sec := (State.setReg_sec _ _ _).trans (State.setReg_sec _ _ _)
@[simp] theorem State.err_record (s : State) (page event detail : Nat) : (s.err page event detail).record = s.record := (State.setReg_record _ _ _).trans (State.setReg_record _ _ _)
@[simp] theorem State.err_power (s : State) (page event detail : Nat) : (s.err page event detail).power = s.power := (State.setReg_power _ _ _).trans (State.setReg_power _ _ _)
@[simp] theorem State.err_tap (s : State) (page event detail : Nat) : (s.err page event detail).tap = s.tap := (State.setReg_tap _ _ _).trans (State.setReg_tap _ _ _)

end Sys2Proof.Machine
end

