-- ==== Sys2Proof/Laws/Registers.lean ====
section
/-! SUPPORT. Registers, memory bytes and seal entries: read after write, and what a write leaves alone. -/

namespace Sys2Proof.Machine

/-! Whole registers. -/

@[simp] theorem State.reg_setReg_self (s : State) (off : Nat) (w : Word) : (s.setReg off w).reg off = w :=
  aget?_acanon_same s.regs off w (resetWord off)

theorem State.reg_setReg_other (s : State) (off o : Nat) (w : Word) (h : o ≠ off) : (s.setReg off w).reg o = s.reg o := by
  unfold State.reg State.setReg
  rw [aget?_acanon_other _ _ _ _ _ h]

/-! Fields. -/

theorem getBits_lt (w : Word) (hi lo : Nat) : getBits w hi lo < 2 ^ (hi + 1 - lo) := Nat.mod_lt _ (Nat.two_pow_pos _)

theorem setBits_toNat (w : Word) (hi lo v : Nat) (h : lo ≤ hi) (h32 : hi < 32) :
    (setBits w hi lo v).toNat = w.toNat / 2 ^ (hi + 1) * 2 ^ (hi + 1) + v % 2 ^ (hi + 1 - lo) * 2 ^ lo + w.toNat % 2 ^ lo := by
  unfold setBits
  rw [BitVec.toNat_ofNat, Nat.mul_comm (2 ^ (hi + 1)), Nat.mul_comm (2 ^ lo), ← Nat.add_assoc]
  apply Nat.mod_eq_of_lt
  have e : (2 : Nat) ^ (hi + 1) = 2 ^ (hi + 1 - lo) * 2 ^ lo := by rw [← Nat.pow_add]; congr 1; omega
  have e32 : (2 : Nat) ^ 32 = 2 ^ (31 - hi) * 2 ^ (hi + 1) := by rw [← Nat.pow_add]; congr 1; omega
  have hw : w.toNat / 2 ^ (hi + 1) < 2 ^ (31 - hi) := by
    apply Nat.div_lt_of_lt_mul
    rw [Nat.mul_comm, ← e32]
    exact w.isLt
  have hv : v % 2 ^ (hi + 1 - lo) < 2 ^ (hi + 1 - lo) := Nat.mod_lt _ (Nat.two_pow_pos _)
  have hl : w.toNat % 2 ^ lo < 2 ^ lo := Nat.mod_lt _ (Nat.two_pow_pos _)
  have h1 : v % 2 ^ (hi + 1 - lo) * 2 ^ lo + w.toNat % 2 ^ lo < 2 ^ (hi + 1) := by
    rw [e]
    calc _ < v % 2 ^ (hi + 1 - lo) * 2 ^ lo + 2 ^ lo := by omega
      _ = (v % 2 ^ (hi + 1 - lo) + 1) * 2 ^ lo := by rw [Nat.add_mul, Nat.one_mul]
      _ ≤ _ := Nat.mul_le_mul_right _ hv
  rw [e32, Nat.add_assoc]
  calc _ < w.toNat / 2 ^ (hi + 1) * 2 ^ (hi + 1) + 2 ^ (hi + 1) := by omega
    _ = (w.toNat / 2 ^ (hi + 1) + 1) * 2 ^ (hi + 1) := by rw [Nat.add_mul, Nat.one_mul]
    _ ≤ _ := Nat.mul_le_mul_right _ hw

/-- A field reads as written. -/
theorem getBits_setBits_self (w : Word) (hi lo v : Nat) (h : lo ≤ hi) (h32 : hi < 32) :
    getBits (setBits w hi lo v) hi lo = v % 2 ^ (hi + 1 - lo) := by
  unfold getBits
  rw [setBits_toNat w hi lo v h h32]
  have e : (2 : Nat) ^ (hi + 1) = 2 ^ lo * 2 ^ (hi + 1 - lo) := by rw [← Nat.pow_add]; congr 1; omega
  have hl : w.toNat % 2 ^ lo < 2 ^ lo := Nat.mod_lt _ (Nat.two_pow_pos _)
  rw [e, show w.toNat / (2 ^ lo * 2 ^ (hi + 1 - lo)) * (2 ^ lo * 2 ^ (hi + 1 - lo)) + v % 2 ^ (hi + 1 - lo) * 2 ^ lo + w.toNat % 2 ^ lo =
    2 ^ lo * (w.toNat / (2 ^ lo * 2 ^ (hi + 1 - lo)) * 2 ^ (hi + 1 - lo) + v % 2 ^ (hi + 1 - lo)) + w.toNat % 2 ^ lo by ring]
  rw [Nat.mul_add_div (Nat.two_pow_pos lo), Nat.div_eq_of_lt hl, Nat.add_zero, Nat.mul_comm _ (2 ^ (hi + 1 - lo)),
    Nat.mul_add_mod, Nat.mod_mod]

/-- A field below the one written keeps its value. -/
theorem getBits_setBits_below (w : Word) (hi lo v h l : Nat) (hle : lo ≤ hi) (h32 : hi < 32) (hb : h < lo) :
    getBits (setBits w hi lo v) h l = getBits w h l := by
  by_cases hhl : l ≤ h
  · unfold getBits
    rw [setBits_toNat w hi lo v hle h32]
    have e : (2 : Nat) ^ (hi + 1) = 2 ^ (h + 1) * 2 ^ (hi - h) := by rw [← Nat.pow_add]; congr 1; omega
    have e2 : (2 : Nat) ^ lo = 2 ^ (h + 1) * 2 ^ (lo - (h + 1)) := by rw [← Nat.pow_add]; congr 1; omega
    have key : ∀ x : Nat, x / 2 ^ l % 2 ^ (h + 1 - l) = x % 2 ^ (h + 1) / 2 ^ l := fun x => by
      have e3 : (2 : Nat) ^ (h + 1) = 2 ^ l * 2 ^ (h + 1 - l) := by rw [← Nat.pow_add]; congr 1; omega
      rw [e3, Nat.mod_mul_right_div_self]
    rw [key, key]
    congr 1
    rw [e, e2, show w.toNat / (2 ^ (h + 1) * 2 ^ (hi - h)) * (2 ^ (h + 1) * 2 ^ (hi - h)) +
        v % 2 ^ (hi + 1 - lo) * (2 ^ (h + 1) * 2 ^ (lo - (h + 1))) + w.toNat % (2 ^ (h + 1) * 2 ^ (lo - (h + 1))) =
        2 ^ (h + 1) * (w.toNat / (2 ^ (h + 1) * 2 ^ (hi - h)) * 2 ^ (hi - h) + v % 2 ^ (hi + 1 - lo) * 2 ^ (lo - (h + 1))) +
        w.toNat % (2 ^ (h + 1) * 2 ^ (lo - (h + 1))) by ring, Nat.mul_add_mod, Nat.mod_mul_right_mod]
  · unfold getBits
    have : h + 1 - l = 0 := by omega
    simp [this, Nat.mod_one]

/-- A field above the one written keeps its value. -/
theorem getBits_setBits_above (w : Word) (hi lo v h l : Nat) (hle : lo ≤ hi) (h32 : hi < 32) (ha : hi < l) :
    getBits (setBits w hi lo v) h l = getBits w h l := by
  unfold getBits
  rw [setBits_toNat w hi lo v hle h32]
  congr 1
  have e : (2 : Nat) ^ (hi + 1) = 2 ^ lo * 2 ^ (hi + 1 - lo) := by rw [← Nat.pow_add]; congr 1; omega
  have e2 : (2 : Nat) ^ l = 2 ^ (hi + 1) * 2 ^ (l - (hi + 1)) := by rw [← Nat.pow_add]; congr 1; omega
  have hv : v % 2 ^ (hi + 1 - lo) < 2 ^ (hi + 1 - lo) := Nat.mod_lt _ (Nat.two_pow_pos _)
  have hl : w.toNat % 2 ^ lo < 2 ^ lo := Nat.mod_lt _ (Nat.two_pow_pos _)
  have hlow : v % 2 ^ (hi + 1 - lo) * 2 ^ lo + w.toNat % 2 ^ lo < 2 ^ (hi + 1) := by
    rw [e]
    calc _ < v % 2 ^ (hi + 1 - lo) * 2 ^ lo + 2 ^ lo := by omega
      _ = (v % 2 ^ (hi + 1 - lo) + 1) * 2 ^ lo := by rw [Nat.add_mul, Nat.one_mul]
      _ ≤ 2 ^ (hi + 1 - lo) * 2 ^ lo := Nat.mul_le_mul_right _ hv
      _ = _ := Nat.mul_comm _ _
  rw [e2, ← Nat.div_div_eq_div_mul, ← Nat.div_div_eq_div_mul, Nat.add_assoc, Nat.mul_comm (w.toNat / 2 ^ (hi + 1)),
    Nat.mul_add_div (Nat.two_pow_pos _), Nat.div_eq_of_lt hlow, Nat.add_zero]

/-- A field reads as written, cut to its width. -/
theorem State.rf_wf_self (s : State) (page : Nat) (f : Fld) (v i : Nat) (h : f.lo ≤ f.hi) (h32 : f.hi < 32) :
    (s.wf page f v i).rf page f i = v % 2 ^ (f.hi + 1 - f.lo) := by
  unfold State.rf State.wf
  rw [State.reg_setReg_self, getBits_setBits_self _ _ _ _ h h32]

/-- A field of another register keeps its value. -/
theorem State.rf_wf_other (s : State) (page page' : Nat) (f f' : Fld) (v i i' : Nat) (h : f'.addr page' i' ≠ f.addr page i) :
    (s.wf page f v i).rf page' f' i' = s.rf page' f' i' := by
  unfold State.rf State.wf
  rw [State.reg_setReg_other _ _ _ _ h]

/-- A register that a field write does not name keeps its word. -/
theorem State.reg_wf_other (s : State) (page : Nat) (f : Fld) (v i o : Nat) (h : o ≠ f.addr page i) :
    (s.wf page f v i).reg o = s.reg o := State.reg_setReg_other _ _ _ _ h

/-- A field write leaves the other fields of its register alone. -/
theorem State.rf_wf_beside (s : State) (page : Nat) (f f' : Fld) (v i i' : Nat) (ha : f'.addr page i' = f.addr page i)
    (h : f.lo ≤ f.hi) (h32 : f.hi < 32) (hd : f'.hi < f.lo ∨ f.hi < f'.lo) : (s.wf page f v i).rf page f' i' = s.rf page f' i' := by
  unfold State.rf State.wf
  rw [ha, State.reg_setReg_self]
  rcases hd with hd | hd
  · exact getBits_setBits_below _ _ _ _ _ _ h h32 hd
  · exact getBits_setBits_above _ _ _ _ _ _ h h32 hd

/-! Memory and seals. -/

@[simp] theorem State.put_mem (s : State) (a : Nat) (b : List Byte) : (s.put a b).mem = memPut s.mem a b := by
  unfold State.put State.cacheUse
  split <;> rfl

@[simp] theorem State.put_regs (s : State) (a : Nat) (b : List Byte) : (s.put a b).regs = s.regs := by
  unfold State.put State.cacheUse
  split <;> rfl

@[simp] theorem State.put_seals (s : State) (a : Nat) (b : List Byte) : (s.put a b).seals = s.seals := by
  unfold State.put State.cacheUse
  split <;> rfl

/-- Every byte written reads as written. -/
theorem State.byte_put_same (s : State) (a : Nat) (b : List Byte) (i : Nat) (h : i < b.length) : (s.put a b).byte (a + i) = b[i] := by
  unfold State.byte
  rw [State.put_mem, memByte_memPut_same _ _ _ _ h]

/-- Every other byte reads as before. -/
theorem State.byte_put_other (s : State) (a : Nat) (b : List Byte) (x : Nat) (h : x < a ∨ a + b.length ≤ x) :
    (s.put a b).byte x = s.byte x := by
  unfold State.byte
  rw [State.put_mem, memByte_memPut_other _ _ _ _ h]

@[simp] theorem State.sealEntry_setSeal_self (s : State) (k : Nat) (w : Word) : (s.setSeal k w).sealEntry k = w := by
  unfold State.sealEntry State.setSeal
  rw [aget?_aput_same]
  rfl

theorem State.sealEntry_setSeal_other (s : State) (k j : Nat) (w : Word) (h : j ≠ k) : (s.setSeal k w).sealEntry j = s.sealEntry j := by
  unfold State.sealEntry State.setSeal
  rw [aget?_aput_other _ _ _ _ h]

end Sys2Proof.Machine
end

