-- ==== Sys2Proof/Laws/Frames.lean ====
section
/-! SUPPORT. What causes, vectors, logged events and counts change: the registers each of them writes, and that nothing else of the state
changes. A frame equation names every field that an operation may change. -/

namespace Sys2Proof.Machine

/-! Counts. -/

theorem State.reg_incBy_other (s : State) (page : Nat) (f : Fld) (n i o : Nat) (h : o ≠ f.addr page i) :
    (s.incBy page f n i).reg o = s.reg o := State.reg_wf_other s page f _ i o h

theorem State.reg_inc_other (s : State) (page : Nat) (f : Fld) (i o : Nat) (h : o ≠ f.addr page i) :
    (s.inc page f i).reg o = s.reg o := State.reg_incBy_other s page f 1 i o h

theorem State.reg_wf64_other (s : State) (page : Nat) (lo hi : Fld) (v i o : Nat) (hl : o ≠ lo.addr page i) (hh : o ≠ hi.addr page i) :
    (s.wf64 page lo hi v i).reg o = s.reg o := by
  unfold State.wf64
  rw [State.reg_wf_other _ _ _ _ _ _ hh, State.reg_wf_other _ _ _ _ _ _ hl]

theorem State.reg_inc64_other (s : State) (page : Nat) (lo hi : Fld) (n i o : Nat) (hl : o ≠ lo.addr page i) (hh : o ≠ hi.addr page i) :
    (s.inc64 page lo hi n i).reg o = s.reg o := State.reg_wf64_other s page lo hi _ i o hl hh

theorem State.reg_setHdrBit_other (s : State) (page o b : Nat) (v : Bool) (x : Nat) (h : x ≠ page + o) :
    (s.setHdrBit page o b v).reg x = s.reg x := State.reg_setReg_other s _ _ _ h

/-- A saturating count of a whole field raised by one. -/
theorem State.rf_inc_self (s : State) (page : Nat) (f : Fld) (i : Nat) (h : f.lo ≤ f.hi) (h32 : f.hi < 32) :
    (s.inc page f i).rf page f i = Nat.min (s.rf page f i + 1) (2 ^ (f.hi + 1 - f.lo) - 1) := by
  unfold State.inc State.incBy
  rw [State.rf_wf_self _ _ _ _ _ h h32, Nat.mod_eq_of_lt]
  have := Nat.two_pow_pos (f.hi + 1 - f.lo)
  exact lt_of_le_of_lt (Nat.min_le_right _ _) (by omega)

/-- One bit of a header register written reads as written. -/
theorem State.hdr_setHdrBit_self (s : State) (page o b : Nat) (v : Bool) (h : b < 32) : bit ((s.setHdrBit page o b v).hdr page o) b = v := by
  have e : (2 : Nat) ^ (b + 1) = 2 * 2 ^ b := by rw [Nat.pow_succ, Nat.mul_comm]
  have p := Nat.two_pow_pos b
  unfold State.hdr State.setHdrBit
  rw [State.reg_setReg_self]
  have g := getBits_setBits_self (s.reg (page + o)) b b (b2n v) (Nat.le_refl b) h
  rw [Nat.add_sub_cancel_left, Nat.pow_one] at g
  unfold getBits at g
  rw [Nat.add_sub_cancel_left, Nat.pow_one] at g
  unfold bit
  rw [g]
  cases v <;> rfl

/-! Vectors and causes. -/

/-- A register of an INTROUTE page. -/
abbrev routeReg (o : Nat) : Prop := pgIntroute 0 ≤ o ∧ o < pgIntroute 0 + 0x8000

theorem offVecCtl_route (v : Nat) (h : v < 2048) : routeReg (offVecCtl v) := by
  unfold routeReg offVecCtl pgIntroute
  omega

theorem offVecSrc_route (v : Nat) (h : v < 2048) : routeReg (offVecSrc v) := by
  unfold routeReg offVecSrc pgIntroute
  omega

theorem vector_lt (w : Word) : getBits w 10 0 < 2048 := getBits_lt w 10 0

theorem State.setReg_frame (s : State) (off : Nat) (w : Word) : ∃ r, s.setReg off w = { s with regs := r } := ⟨_, rfl⟩

theorem State.wf_frame (s : State) (page : Nat) (f : Fld) (v i : Nat) : ∃ r, s.wf page f v i = { s with regs := r } := ⟨_, rfl⟩

theorem State.wf64_frame (s : State) (page : Nat) (lo hi : Fld) (v i : Nat) : ∃ r, s.wf64 page lo hi v i = { s with regs := r } := by
  unfold State.wf64
  obtain ⟨r, e⟩ := s.wf_frame page lo (v / 2 ^ lo.lo) i
  rw [e]
  obtain ⟨r', e'⟩ := State.wf_frame { s with regs := r } page hi (v / 2 ^ 32) i
  exact ⟨r', e'⟩

theorem State.incBy_frame (s : State) (page : Nat) (f : Fld) (n i : Nat) : ∃ r, s.incBy page f n i = { s with regs := r } :=
  s.wf_frame page f _ i

theorem State.inc_frame (s : State) (page : Nat) (f : Fld) (i : Nat) : ∃ r, s.inc page f i = { s with regs := r } :=
  s.incBy_frame page f 1 i

theorem State.inc64_frame (s : State) (page : Nat) (lo hi : Fld) (n i : Nat) : ∃ r, s.inc64 page lo hi n i = { s with regs := r } :=
  s.wf64_frame page lo hi _ i

theorem State.err_frame (s : State) (page event detail : Nat) : ∃ r, s.err page event detail = { s with regs := r } := by
  unfold State.err
  obtain ⟨r, e⟩ := s.setReg_frame (page + oERR_COUNT) (BitVec.ofNat 32 (Nat.min (s.hdr page oERR_COUNT + 1) (2 ^ 32 - 1)))
  rw [e]
  obtain ⟨r', e'⟩ := State.setReg_frame { s with regs := r } (page + oERR_LAST) (BitVec.ofNat 32 (event * 2 ^ 16 + detail % 2 ^ 16))
  exact ⟨r', e'⟩

/-- A vector changes registers, the messages sent and the intervals, and nothing else. -/
theorem State.sendVector_frame (s : State) (v : Nat) :
    ∃ r m i, s.sendVector v = { s with regs := r, host := { s.host with msix := m, moderating := i } } := by
  unfold State.sendVector State.setVecPending
  exact ⟨_, _, _, rfl⟩

theorem State.raiseVector_frame (s : State) (page : Nat) :
    ∃ r m i, s.raiseVector page = { s with regs := r, host := { s.host with msix := m, moderating := i } } := by
  unfold State.raiseVector
  obtain ⟨r, e⟩ := s.setReg_frame (offVecSrc (getBits (s.reg (page + oINT_VECTOR)) 10 0)) (s.reg (page + oPAGE_ID))
  dsimp only
  rw [e]
  split
  · unfold State.setVecPending
    exact ⟨_, _, _, rfl⟩
  · split
    · unfold State.setVecPending
      exact ⟨_, _, _, rfl⟩
    · obtain ⟨r', m, i, e'⟩ := State.sendVector_frame { s with regs := r } (getBits (s.reg (page + oINT_VECTOR)) 10 0)
      exact ⟨r', m, i, e'⟩

theorem State.reg_raiseVector_other (s : State) (page o : Nat) (h : ¬routeReg o) : (s.raiseVector page).reg o = s.reg o := by
  have hv := vector_lt (s.reg (page + oINT_VECTOR))
  have h1 : o ≠ offVecCtl (getBits (s.reg (page + oINT_VECTOR)) 10 0) := fun e => h (e ▸ offVecCtl_route _ hv)
  have h2 : o ≠ offVecSrc (getBits (s.reg (page + oINT_VECTOR)) 10 0) := fun e => h (e ▸ offVecSrc_route _ hv)
  unfold State.raiseVector State.sendVector State.setVecPending
  dsimp only
  split
  · rw [State.reg_setReg_other _ _ _ _ h1, State.reg_setReg_other _ _ _ _ h2]
  · split
    · rw [State.reg_setReg_other _ _ _ _ h1]
      exact State.reg_setReg_other _ _ _ _ h2
    · rw [State.reg_setReg_other _ _ _ _ h1]
      exact State.reg_setReg_other _ _ _ _ h2

theorem State.cause_frame (s : State) (page b : Nat) :
    ∃ r m i, s.cause page b = { s with regs := r, host := { s.host with msix := m, moderating := i } } := by
  unfold State.cause
  split
  · exact ⟨_, _, _, rfl⟩
  · obtain ⟨r, e⟩ := State.setReg_frame s (page + oINT_STATUS) (setBits (s.reg (page + oINT_STATUS)) b b (b2n true))
    unfold State.setHdrBit
    rw [e]
    dsimp only
    split
    · obtain ⟨r', m, i, e'⟩ := State.raiseVector_frame { s with regs := r } page
      exact ⟨r', m, i, e'⟩
    · exact ⟨_, _, _, rfl⟩

theorem State.reg_cause_other (s : State) (page b o : Nat) (h : o ≠ page + oINT_STATUS) (hr : ¬routeReg o) :
    (s.cause page b).reg o = s.reg o := by
  unfold State.cause
  split
  · rfl
  · dsimp only
    split
    · rw [State.reg_raiseVector_other _ _ _ hr, State.reg_setHdrBit_other _ _ _ _ _ _ h]
    · rw [State.reg_setHdrBit_other _ _ _ _ _ _ h]

/-- A cause that is given is set afterwards. -/
theorem State.cause_set (s : State) (page b : Nat) (h : b < 32) (hp : ¬routeReg (page + oINT_STATUS)) :
    bit ((s.cause page b).hdr page oINT_STATUS) b = true := by
  unfold State.cause
  split
  · assumption
  · dsimp only
    split
    · unfold State.hdr
      rw [State.reg_raiseVector_other _ _ _ hp]
      exact State.hdr_setHdrBit_self s page oINT_STATUS b true h
    · exact State.hdr_setHdrBit_self s page oINT_STATUS b true h

theorem State.reg_err_other (s : State) (page event detail o : Nat) (h1 : o ≠ page + oERR_COUNT) (h2 : o ≠ page + oERR_LAST) :
    (s.err page event detail).reg o = s.reg o := by
  unfold State.err
  rw [State.reg_setReg_other _ _ _ _ h2, State.reg_setReg_other _ _ _ _ h1]

/-! The event record. -/

/-- A register of the RECORD page. -/
abbrev recordReg (o : Nat) : Prop := pgRecord ≤ o ∧ o < pgRecord + 0x1000

theorem State.ite_wf_frame (s : State) (b : Bool) (page : Nat) (f : Fld) (v i : Nat) :
    ∃ r, (if b then s.wf page f v i else s) = { s with regs := r } := by
  cases b
  · exact ⟨_, rfl⟩
  · exact s.wf_frame page f v i

theorem State.commitEntry_frame (s : State) :
    ∃ r bs q c, s.commitEntry = { s with regs := r, record := { s.record with blocks := bs, queue := q, compact := c } } := by
  unfold State.commitEntry
  split
  · exact ⟨_, _, _, _, rfl⟩
  · rename_i e q _
    dsimp only
    split
    · exact ⟨_, _, _, _, rfl⟩
    · generalize (decide (recBlockLen ≤ (s.record.blocks.getLastD []).length) || s.record.blocks.isEmpty) = full
      obtain ⟨r, h⟩ := s.ite_wf_frame full pgRecord R.RECORD.REC_FREE_BLOCKS (s.rf pgRecord R.RECORD.REC_FREE_BLOCKS - 1) 0
      rw [h]
      generalize (if full then s.record.blocks ++ [[e]] else s.record.blocks.dropLast ++ [s.record.blocks.getLastD [] ++ [e]]) = bs
      generalize State.rf { s with regs := r } pgRecord R.RECORD.REC_FREE_BLOCKS = n
      dsimp only
      generalize hc : (s.record.compact || decide (n ≤ 16)) = c
      generalize Nat.max e.seq _ = m
      obtain ⟨r1, h1⟩ := State.wf64_frame
        { s with regs := r, record := { s.record with blocks := bs, queue := q, compact := c } } pgRecord
        R.RECORD.REC_LAST_LO R.RECORD.REC_LAST_HI m 0
      rw [h1]
      obtain ⟨r2, h2⟩ := State.wf_frame { s with regs := r1, record := { s.record with blocks := bs, queue := q, compact := c } } pgRecord
        R.RECORD.REC_QUEUE_WAITING q.length 0
      exact ⟨r2, bs, q, c, h2⟩

theorem State.reg_commitEntry_other (s : State) (o : Nat) (h : ¬recordReg o) : s.commitEntry.reg o = s.reg o := by
  have a1 : o ≠ R.RECORD.REC_LAST_LO.addr pgRecord 0 := fun e => h (by subst e; decide)
  have a2 : o ≠ R.RECORD.REC_LAST_HI.addr pgRecord 0 := fun e => h (by subst e; decide)
  have a3 : o ≠ R.RECORD.REC_QUEUE_WAITING.addr pgRecord 0 := fun e => h (by subst e; decide)
  have a4 : o ≠ R.RECORD.REC_FREE_BLOCKS.addr pgRecord 0 := fun e => h (by subst e; decide)
  unfold State.commitEntry
  split
  · rfl
  · dsimp only
    split
    · rfl
    · rw [State.reg_wf_other _ _ _ _ _ _ a3, State.reg_wf64_other _ _ _ _ _ _ _ a1 a2]
      change State.reg (if _ then _ else _) o = _
      split
      · exact State.reg_wf_other _ _ _ _ _ _ a4
      · rfl

/-- A logged event changes registers, the record and what a vector changes; the next number rises by one. -/
theorem State.logAs_frame (s : State) (rom : Bool) (page code : Nat) (d : List Nat) :
    ∃ r m i bs q c, s.logAs rom page code d =
      { s with regs := r, host := { s.host with msix := m, moderating := i },
               record := { s.record with blocks := bs, queue := q, compact := c, nextSeq := s.record.nextSeq + 1 } } := by
  unfold State.logAs
  dsimp only
  split
  · obtain ⟨r, m, i, e⟩ := s.cause_frame pgRecord 2
    rw [e]
    obtain ⟨r', bs, q, c, e'⟩ := State.commitEntry_frame { s with regs := r, host := { s.host with msix := m, moderating := i } }
    rw [e']
    exact ⟨_, _, _, _, _, _, rfl⟩
  · exact ⟨_, _, _, _, _, _, rfl⟩

theorem State.reg_logAs_other (s : State) (rom : Bool) (page code : Nat) (d : List Nat) (o : Nat) (h : ¬recordReg o) (hr : ¬routeReg o) :
    (s.logAs rom page code d).reg o = s.reg o := by
  have a1 : o ≠ R.RECORD.REC_QUEUE_WAITING.addr pgRecord 0 := fun e => h (by subst e; decide)
  have a2 : o ≠ R.RECORD.REC_QUEUE_PEAK.addr pgRecord 0 := fun e => h (by subst e; decide)
  have a3 : o ≠ pgRecord + oINT_STATUS := fun e => h (by subst e; decide)
  unfold State.logAs
  dsimp only
  rw [State.reg_wf_other _ _ _ _ _ _ a2, State.reg_wf_other _ _ _ _ _ _ a1]
  change State.reg (if _ then _ else _) o = _
  split
  · rw [State.reg_commitEntry_other _ _ h, State.reg_cause_other _ _ _ _ a3 hr]
  · rfl

theorem State.log_frame (s : State) (page code : Nat) (d : List Nat) :
    ∃ r m i bs q c, s.log page code d =
      { s with regs := r, host := { s.host with msix := m, moderating := i },
               record := { s.record with blocks := bs, queue := q, compact := c, nextSeq := s.record.nextSeq + 1 } } :=
  State.logAs_frame s false page code d

theorem State.reg_log_other (s : State) (page code : Nat) (d : List Nat) (o : Nat) (h : ¬recordReg o) (hr : ¬routeReg o) :
    (s.log page code d).reg o = s.reg o := State.reg_logAs_other s false page code d o h hr

theorem State.commitFor_frame (l : List Entry) (s : State) :
    ∃ r bs q c, l.foldl (fun t _ => t.commitEntry) s =
      { s with regs := r, record := { s.record with blocks := bs, queue := q, compact := c } } := by
  induction l generalizing s with
  | nil => exact ⟨_, _, _, _, rfl⟩
  | cons x t ih =>
    obtain ⟨r, bs, q, c, e⟩ := s.commitEntry_frame
    rw [List.foldl_cons, e]
    obtain ⟨r', bs', q', c', e'⟩ := ih { s with regs := r, record := { s.record with blocks := bs, queue := q, compact := c } }
    exact ⟨r', bs', q', c', e'⟩

theorem State.commitAll_frame (s : State) :
    ∃ r bs q c, s.commitAll = { s with regs := r, record := { s.record with blocks := bs, queue := q, compact := c } } :=
  State.commitFor_frame s.record.queue s

theorem State.reg_commitFor_other (l : List Entry) (s : State) (o : Nat) (h : ¬recordReg o) :
    (l.foldl (fun t _ => t.commitEntry) s).reg o = s.reg o := by
  induction l generalizing s with
  | nil => rfl
  | cons x t ih => rw [List.foldl_cons, ih, State.reg_commitEntry_other _ _ h]

theorem State.reg_commitAll_other (s : State) (o : Nat) (h : ¬recordReg o) : s.commitAll.reg o = s.reg o :=
  State.reg_commitFor_other s.record.queue s o h

theorem State.logFirm_frame (s : State) (page code : Nat) (d : List Nat) :
    ∃ r m i bs q c, s.logFirm page code d =
      { s with regs := r, host := { s.host with msix := m, moderating := i },
               record := { s.record with blocks := bs, queue := q, compact := c, nextSeq := s.record.nextSeq + 1 } } := by
  unfold State.logFirm
  obtain ⟨r, m, i, bs, q, c, e⟩ := s.log_frame page code d
  rw [e]
  obtain ⟨r', bs', q', c', e'⟩ := State.commitAll_frame { s with
    regs := r, host := { s.host with msix := m, moderating := i },
    record := { s.record with blocks := bs, queue := q, compact := c, nextSeq := s.record.nextSeq + 1 } }
  exact ⟨_, _, _, _, _, _, e'⟩

theorem State.reg_logFirm_other (s : State) (page code : Nat) (d : List Nat) (o : Nat) (h : ¬recordReg o) (hr : ¬routeReg o) :
    (s.logFirm page code d).reg o = s.reg o := by
  unfold State.logFirm
  rw [State.reg_commitAll_other _ _ h, State.reg_log_other _ _ _ _ _ h hr]

end Sys2Proof.Machine
end

