-- ==== Sys2Proof/Laws/Keeps.lean ====
section
/-! SUPPORT. What every command keeps (`Keeps`): how it composes, and that the primitive writes of State keep it. Every other
`_keeps` lemma under Laws rests on these; together they say once, per operation, what it cannot do. -/

namespace Sys2Proof.Machine

theorem Keeps.refl (s : State) : Keeps s s := ⟨rfl, Nat.le_refl _, rfl, Nat.le_refl _, id⟩

theorem Keeps.trans {s t u : State} (h : Keeps s t) (g : Keeps t u) : Keeps s u :=
  ⟨g.pending.trans h.pending, h.fuses.trans g.fuses, g.revoked.trans h.revoked, h.fresh.trans g.fresh, g.canonical ∘ h.canonical⟩

/-- A record update of fields that `Keeps` does not speak of. -/
theorem Keeps.update {s0 s : State} {reply : Reply} {fresh : Nat} {sealAge : Nat} {traffic : List (Nat × Nat × Nat)}
    {posted : List Posted} {pairHold : List (Nat × Word)} {pairRead : List (Nat × Word)} {host : Port0} {panels : List
    (Nat × Panel)} {loads : List Load} {loadRuns : List LoadRun} {castles : List (Nat × Castle)} {partials : List
    Partial} {arrRuns : List ArrayRun} {arrOrder : List Nat} {tasks : List Task} {nextSeq : Nat} {queues : List (Nat ×
    QueueSt)} {window : Option Window} {snapAt : Option SnapPoint} {gradRuns : List (Nat × GradRun)} {ran : List (Nat ×
    List Nat)} {vecRuns : List (Nat × VecRun)} {vecRegs : List (Nat × VecRegs)} {upds : List (Nat × Upd)} {layers : List
    (Nat × LayerWatch)} {wtable : List (Nat × List Byte)} {slots : List (Nat × Word)} {chans : List (Nat × Chan)}
    {dmaQueue : List (Nat × Nat × List (Nat × Nat × Nat))} {tempo : Tempo} {events : List (Nat × Event)} {ports : List
    (Nat × Port)} {routes : List Route} {txns : List Txn} {sent : List (Nat × List Byte)} {trainSent : List (Nat ×
    TrainingFlit)} {arrived : List (Nat × List Byte)} {nextTag : Nat} {ctable : List (Nat × List Byte)} {insts : List
    (Nat × Inst)} {ledgers : List LedgerRun} {collPast : List CollPast} {held : List (Nat × List Byte)} {sealOps : List
    (Nat × SealOp)} {grants : List Grant} {replay : Option Replay} {field : Option FieldTest} {notReady : List Nat}
    {snaps : List Snap} {digests : List DigestRun} {mons : List (Nat × Mon)} {pairs : List (Nat × Pair)} {dieCals : List
    (Nat × DieCal)} {fw : Fw} {sec : Sec} {record : Rec} {power : Power} {tap : Tap}
    (hf : fw.fuses = s.fw.fuses) (hv : fw.revoked = s.fw.revoked) (hn : s.fresh ≤ fresh) (h : Keeps s0 s) :
    Keeps s0 ⟨s.pending, reply, fresh, s.regs, s.mem, s.seals, sealAge, traffic, posted, pairHold, pairRead, host,
    panels, loads, loadRuns, castles, partials, arrRuns, arrOrder, tasks, nextSeq, queues, window, snapAt, gradRuns,
    ran, vecRuns, vecRegs, upds, layers, wtable, slots, chans, dmaQueue, tempo, events, ports, routes, txns, sent,
    trainSent, arrived, nextTag, ctable, insts, ledgers, collPast, held, sealOps, grants, replay, field, notReady,
    snaps, digests, mons, pairs, dieCals, fw, sec, record, power, tap⟩ :=
  h.trans ⟨rfl, Nat.le_of_eq hf.symm, hv, hn, fun c => ⟨c.regs, c.mem, c.seals⟩⟩

theorem Keeps.ite {s0 : State} {c : Prop} [Decidable c] {a b : State} (ha : Keeps s0 a) (hb : Keeps s0 b) :
    Keeps s0 (if c then a else b) := by
  split
  · exact ha
  · exact hb

theorem Keeps.foldl {α : Type} {s0 s : State} {l : List α} {f : State → α → State} (h : Keeps s0 s)
    (hf : ∀ t x, Keeps s0 t → Keeps s0 (f t x)) : Keeps s0 (l.foldl f s) := by
  induction l generalizing s with
  | nil => exact h
  | cons x t ih => exact ih (hf s x h)

/-- A fold that carries something beside the state. -/
theorem Keeps.foldl_fst {α β : Type} {s0 : State} {p : State × β} {l : List α} {f : State × β → α → State × β} (h : Keeps s0 p.1)
    (hf : ∀ q x, Keeps s0 q.1 → Keeps s0 (f q x).1) : Keeps s0 (l.foldl f p).1 := by
  induction l generalizing p with
  | nil => exact h
  | cons x t ih => exact ih (hf p x h)

theorem Keeps.ite_fst {β : Type} {s0 : State} {c : Prop} [Decidable c] {a b : State × β} (ha : Keeps s0 a.1) (hb : Keeps s0 b.1) :
    Keeps s0 (if c then a else b).1 := by
  split
  · exact ha
  · exact hb

/-- What an outcome's next state keeps. -/
structure Keeps.Outcome (s0 : State) (o : Host.Outcome State Fault Refusal) : Prop where
  of_next : ∀ t, o = .next t → Keeps s0 t

theorem Keeps.next {s0 t : State} (h : Keeps s0 t) : Keeps.Outcome s0 (.next t) := ⟨fun u e => by
  cases e
  exact h⟩

theorem Keeps.fault {s0 : State} {f : Fault} : Keeps.Outcome s0 (.fault f) := ⟨fun _ e => nomatch e⟩

theorem Keeps.refused {s0 : State} {r : Refusal} : Keeps.Outcome s0 (.refused r) := ⟨fun _ e => nomatch e⟩

theorem Keeps.ite_outcome {s0 : State} {c : Prop} [Decidable c] {a b : Host.Outcome State Fault Refusal}
    (ha : Keeps.Outcome s0 a) (hb : Keeps.Outcome s0 b) : Keeps.Outcome s0 (if c then a else b) := by
  split
  · exact ha
  · exact hb

/-! The primitive writes. -/

theorem State.setReg_keeps {s0 s : State} {off : Nat} {w : Word} (h : Keeps s0 s) : Keeps s0 (s.setReg off w) :=
  h.trans ⟨rfl, Nat.le_refl _, rfl, Nat.le_refl _, fun c => ⟨regsWf_acanon c.regs off w, c.mem, c.seals⟩⟩

theorem State.setSeal_keeps {s0 s : State} {k : Nat} {w : Word} (h : Keeps s0 s) : Keeps s0 (s.setSeal k w) :=
  h.trans ⟨rfl, Nat.le_refl _, rfl, Nat.le_refl _, fun c => ⟨c.regs, c.mem, rising_aput c.seals k w⟩⟩

theorem State.cacheUse_keeps {s0 s : State} {a len : Nat} (h : Keeps s0 s) : Keeps s0 (s.cacheUse a len) := by
  unfold State.cacheUse
  apply Keeps.ite
  · exact h.trans ⟨rfl, Nat.le_refl _, rfl, Nat.le_refl _, fun c => ⟨c.regs, c.mem, c.seals⟩⟩
  · exact h

theorem State.put_keeps {s0 s : State} {a : Nat} {b : List Byte} (h : Keeps s0 s) : Keeps s0 (s.put a b) :=
  State.cacheUse_keeps (h.trans ⟨rfl, Nat.le_refl _, rfl, Nat.le_refl _, fun c => ⟨c.regs, memory_wf_memPut c.mem a b, c.seals⟩⟩)

end Sys2Proof.Machine
end

