-- ==== Sys2Proof/Laws/KeepsOps.lean ====
section
/-! SUPPORT. The operations of Machine/Ops.lean keep what every command keeps. -/

namespace Sys2Proof.Machine

theorem State.wf_keeps {s0 : State} {s : State} {page : Nat} {f : Fld} {v : Nat} {i : Nat}  (hkeep : Keeps s0 s) :
    Keeps s0 (State.wf s page f v i) := by
  unfold State.wf
  repeat' first
    | with_reducible assumption
    | extract_lets
    | intro _
    | with_reducible apply Keeps.ite
    | with_reducible apply State.setReg_keeps

theorem State.wf64_keeps {s0 : State} {s : State} {page : Nat} {lo : Fld} {hi : Fld} {v : Nat} {i : Nat}  (hkeep : Keeps s0 s) :
    Keeps s0 (State.wf64 s page lo hi v i) := by
  unfold State.wf64
  repeat' first
    | with_reducible assumption
    | extract_lets
    | intro _
    | with_reducible apply Keeps.ite
    | with_reducible apply State.wf_keeps

theorem State.incBy_keeps {s0 : State} {s : State} {page : Nat} {f : Fld} {n : Nat} {i : Nat}  (hkeep : Keeps s0 s) :
    Keeps s0 (State.incBy s page f n i) := by
  unfold State.incBy
  repeat' first
    | with_reducible assumption
    | extract_lets
    | intro _
    | with_reducible apply Keeps.ite
    | with_reducible apply State.wf_keeps

theorem State.inc_keeps {s0 : State} {s : State} {page : Nat} {f : Fld} {i : Nat}  (hkeep : Keeps s0 s) :
    Keeps s0 (State.inc s page f i) := by
  unfold State.inc
  repeat' first
    | with_reducible assumption
    | extract_lets
    | intro _
    | with_reducible apply Keeps.ite
    | with_reducible apply State.incBy_keeps

theorem State.inc64_keeps {s0 : State} {s : State} {page : Nat} {lo : Fld} {hi : Fld} {n : Nat} {i : Nat}  (hkeep : Keeps s0 s) :
    Keeps s0 (State.inc64 s page lo hi n i) := by
  unfold State.inc64
  repeat' first
    | with_reducible assumption
    | extract_lets
    | intro _
    | with_reducible apply Keeps.ite
    | with_reducible apply State.wf64_keeps

theorem State.setHdrBit_keeps {s0 : State} {s : State} {page : Nat} {o : Nat} {b : Nat} {v : Bool}  (hkeep : Keeps s0 s) :
    Keeps s0 (State.setHdrBit s page o b v) := by
  unfold State.setHdrBit
  repeat' first
    | with_reducible assumption
    | extract_lets
    | intro _
    | with_reducible apply Keeps.ite
    | with_reducible apply State.setReg_keeps

theorem State.wfs_keeps {s0 : State} {s : State} {page : Nat} {l : List (Fld × Nat)}  (hkeep : Keeps s0 s) :
    Keeps s0 (State.wfs s page l) := by
  unfold State.wfs
  repeat' first
    | with_reducible assumption
    | extract_lets
    | intro _
    | with_reducible apply Keeps.ite
    | with_reducible apply Keeps.ite_fst
    | with_reducible apply State.wf_keeps
    | with_reducible apply Keeps.foldl

theorem State.cacheReads_keeps {s0 : State} {s : State} {rs : List (Nat × Nat)} {ks : List Nat}  (hkeep : Keeps s0 s) :
    Keeps s0 (State.cacheReads s rs ks) := by
  unfold State.cacheReads
  repeat' first
    | with_reducible assumption
    | extract_lets
    | intro _
    | with_reducible apply Keeps.ite
    | with_reducible apply Keeps.ite_fst
    | with_reducible apply State.cacheUse_keeps
    | with_reducible apply Keeps.foldl

theorem State.countRead_keeps {s0 : State} {s : State} {k : Nat}  (hkeep : Keeps s0 s) :
    Keeps s0 (State.countRead s k) := by
  unfold State.countRead
  repeat' first
    | with_reducible assumption
    | extract_lets
    | intro _
    | with_reducible apply Keeps.ite
    | (fail_if_no_progress (with_reducible apply Keeps.update; rfl; rfl; first | exact Nat.le_refl _ | exact Nat.le_succ _))

theorem State.reseal_keeps {s0 : State} {s : State} {a : Nat} {len : Nat}  (hkeep : Keeps s0 s) :
    Keeps s0 (State.reseal s a len) := by
  unfold State.reseal
  repeat' first
    | with_reducible assumption
    | extract_lets
    | intro _
    | with_reducible apply Keeps.ite
    | with_reducible apply State.setSeal_keeps
    | with_reducible apply Keeps.foldl

theorem State.putSealed_keeps {s0 : State} {s : State} {a : Nat} {b : List Byte}  (hkeep : Keeps s0 s) :
    Keeps s0 (State.putSealed s a b) := by
  unfold State.putSealed
  repeat' first
    | with_reducible assumption
    | extract_lets
    | intro _
    | with_reducible apply Keeps.ite
    | with_reducible apply State.put_keeps
    | with_reducible apply State.reseal_keeps

theorem State.putPart_keeps {s0 : State} {s : State} {a : Nat} {b : List Byte} {k : Nat}  (hkeep : Keeps s0 s) :
    Keeps s0 (State.putPart s a b k).1 := by
  unfold State.putPart
  repeat' first
    | with_reducible assumption
    | extract_lets
    | intro _
    | with_reducible apply Keeps.ite
    | with_reducible apply Keeps.ite_fst
    | with_reducible apply State.inc64_keeps
    | with_reducible apply State.put_keeps
    | with_reducible apply State.putSealed_keeps

theorem State.store_keeps {s0 : State} {s : State} {a : Nat} {b : List Byte}  (hkeep : Keeps s0 s) :
    Keeps s0 (State.store s a b).1 := by
  unfold State.store
  repeat' first
    | with_reducible assumption
    | extract_lets
    | intro _
    | with_reducible apply Keeps.ite
    | with_reducible apply Keeps.ite_fst
    | with_reducible apply State.putPart_keeps
    | with_reducible apply Keeps.foldl
    | with_reducible apply Keeps.foldl_fst

theorem State.snoop_keeps {s0 : State} {s : State} {rs : List (Nat × Nat)}  (hkeep : Keeps s0 s) :
    Keeps s0 (State.snoop s rs) := by
  unfold State.snoop
  repeat' first
    | with_reducible assumption
    | extract_lets
    | intro _
    | with_reducible apply Keeps.ite
    | with_reducible apply State.inc64_keeps
    | (fail_if_no_progress (with_reducible apply Keeps.update; rfl; rfl; first | exact Nat.le_refl _ | exact Nat.le_succ _))

theorem State.whenFree_keeps {s0 : State} {s : State} {rs : List (Nat × Nat)} {k : State → State} (hk : ∀ y0, Keeps s0 y0 → Keeps s0 (k y0)) (hkeep : Keeps s0 s) :
    Keeps s0 (State.whenFree s rs k) := by
  unfold State.whenFree
  repeat' first
    | with_reducible assumption
    | extract_lets
    | intro _
    | with_reducible apply Keeps.ite
    | with_reducible apply hk
    | with_reducible apply State.snoop_keeps

theorem State.whenSome_keeps {s0 : State} {α : Type} {s : State} {o : Option α} {f : State → α → State} (hf : ∀ y0 y1, Keeps s0 y0 → Keeps s0 (f y0 y1)) (hkeep : Keeps s0 s) :
    Keeps s0 (State.whenSome s o f) := by
  unfold State.whenSome
  repeat' first
    | with_reducible assumption
    | extract_lets
    | intro _
    | with_reducible apply Keeps.ite
    | with_reducible apply hf
    | (fail_if_no_progress (with_reducible apply Keeps.update; rfl; rfl; first | exact Nat.le_refl _ | exact Nat.le_succ _))
    | split

theorem State.draw_keeps {s0 : State} {s : State} {k : Nat}  (hkeep : Keeps s0 s) :
    Keeps s0 (State.draw s k).2 := by
  unfold State.draw
  repeat' first
    | with_reducible assumption
    | extract_lets
    | intro _
    | with_reducible apply Keeps.ite
    | with_reducible apply Keeps.ite_fst
    | (fail_if_no_progress (with_reducible apply Keeps.update; rfl; rfl; first | exact Nat.le_refl _ | exact Nat.le_succ _))

end Sys2Proof.Machine
end

