-- ==== Sys2Proof/Laws/KeepsFlags.lean ====
section
/-! SUPPORT. The operations of Machine/Flags.lean keep what every command keeps. -/

namespace Sys2Proof.Machine

theorem State.setVecPending_keeps {s0 : State} {s : State} {v : Nat} {p : Bool}  (hkeep : Keeps s0 s) :
    Keeps s0 (State.setVecPending s v p) := by
  unfold State.setVecPending
  repeat' first
    | with_reducible assumption
    | extract_lets
    | intro _
    | with_reducible apply Keeps.ite
    | with_reducible apply State.setReg_keeps

theorem State.setBar4_keeps {s0 : State} {s : State} {o : Nat} {w : Word}  (hkeep : Keeps s0 s) :
    Keeps s0 (State.setBar4 s o w) := by
  unfold State.setBar4
  repeat' first
    | with_reducible assumption
    | extract_lets
    | intro _
    | with_reducible apply Keeps.ite
    | (fail_if_no_progress (with_reducible apply Keeps.update; rfl; rfl; first | exact Nat.le_refl _ | exact Nat.le_succ _))

theorem State.sendVector_keeps {s0 : State} {s : State} {v : Nat}  (hkeep : Keeps s0 s) :
    Keeps s0 (State.sendVector s v) := by
  unfold State.sendVector
  repeat' first
    | with_reducible assumption
    | extract_lets
    | intro _
    | with_reducible apply Keeps.ite
    | with_reducible apply State.setVecPending_keeps
    | (fail_if_no_progress (with_reducible apply Keeps.update; rfl; rfl; first | exact Nat.le_refl _ | exact Nat.le_succ _))

theorem State.raiseVector_keeps {s0 : State} {s : State} {page : Nat}  (hkeep : Keeps s0 s) :
    Keeps s0 (State.raiseVector s page) := by
  unfold State.raiseVector
  repeat' first
    | with_reducible assumption
    | extract_lets
    | intro _
    | with_reducible apply Keeps.ite
    | with_reducible apply State.setReg_keeps
    | with_reducible apply State.sendVector_keeps
    | with_reducible apply State.setVecPending_keeps
    | (fail_if_no_progress (with_reducible apply Keeps.update; rfl; rfl; first | exact Nat.le_refl _ | exact Nat.le_succ _))

theorem State.cause_keeps {s0 : State} {s : State} {page : Nat} {b : Nat}  (hkeep : Keeps s0 s) :
    Keeps s0 (State.cause s page b) := by
  unfold State.cause
  repeat' first
    | with_reducible assumption
    | extract_lets
    | intro _
    | with_reducible apply Keeps.ite
    | with_reducible apply State.setHdrBit_keeps
    | with_reducible apply State.raiseVector_keeps

theorem State.setDevState_keeps {s0 : State} {s : State} {v : Nat}  (hkeep : Keeps s0 s) :
    Keeps s0 (State.setDevState s v) := by
  unfold State.setDevState
  repeat' first
    | with_reducible assumption
    | extract_lets
    | intro _
    | with_reducible apply Keeps.ite
    | with_reducible apply State.wf_keeps
    | with_reducible apply State.cause_keeps

theorem State.onWrite_keeps {s0 : State} {s : State} {view : View} {page : Nat} {rwp : Bool} {k : State → State} (hk : ∀ y0, Keeps s0 y0 → Keeps s0 (k y0)) (hkeep : Keeps s0 s) :
    Keeps s0 (State.onWrite s view page rwp k) := by
  unfold State.onWrite
  repeat' first
    | with_reducible assumption
    | extract_lets
    | intro _
    | with_reducible apply Keeps.ite
    | with_reducible apply hk

theorem State.err_keeps {s0 : State} {s : State} {page : Nat} {event : Nat} {detail : Nat}  (hkeep : Keeps s0 s) :
    Keeps s0 (State.err s page event detail) := by
  unfold State.err
  repeat' first
    | with_reducible assumption
    | extract_lets
    | intro _
    | with_reducible apply Keeps.ite
    | with_reducible apply State.setReg_keeps

theorem State.errDetail_keeps {s0 : State} {s : State} {page : Nat} {detail : Nat}  (hkeep : Keeps s0 s) :
    Keeps s0 (State.errDetail s page detail) := by
  unfold State.errDetail
  repeat' first
    | with_reducible assumption
    | extract_lets
    | intro _
    | with_reducible apply Keeps.ite
    | with_reducible apply State.setReg_keeps

theorem State.commitEntry_keeps {s0 : State} {s : State}  (hkeep : Keeps s0 s) :
    Keeps s0 (State.commitEntry s) := by
  unfold State.commitEntry
  repeat' first
    | with_reducible assumption
    | extract_lets
    | intro _
    | with_reducible apply Keeps.ite
    | with_reducible apply State.wf_keeps
    | with_reducible apply State.wf64_keeps
    | (fail_if_no_progress (with_reducible apply Keeps.update; rfl; rfl; first | exact Nat.le_refl _ | exact Nat.le_succ _))
    | split

theorem State.commitAll_keeps {s0 : State} {s : State}  (hkeep : Keeps s0 s) :
    Keeps s0 (State.commitAll s) := by
  unfold State.commitAll
  repeat' first
    | with_reducible assumption
    | extract_lets
    | intro _
    | with_reducible apply Keeps.ite
    | with_reducible apply State.commitEntry_keeps
    | with_reducible apply Keeps.foldl

theorem State.logAs_keeps {s0 : State} {s : State} {rom : Bool} {page : Nat} {code : Nat} {detail : List Nat}  (hkeep : Keeps s0 s) :
    Keeps s0 (State.logAs s rom page code detail) := by
  unfold State.logAs
  repeat' first
    | with_reducible assumption
    | extract_lets
    | intro _
    | with_reducible apply Keeps.ite
    | with_reducible apply State.wf_keeps
    | with_reducible apply State.cause_keeps
    | with_reducible apply State.commitEntry_keeps
    | (fail_if_no_progress (with_reducible apply Keeps.update; rfl; rfl; first | exact Nat.le_refl _ | exact Nat.le_succ _))

theorem State.log_keeps {s0 : State} {s : State} {page : Nat} {code : Nat} {detail : List Nat}  (hkeep : Keeps s0 s) :
    Keeps s0 (State.log s page code detail) := by
  unfold State.log
  repeat' first
    | with_reducible assumption
    | extract_lets
    | intro _
    | with_reducible apply Keeps.ite
    | with_reducible apply State.logAs_keeps

theorem State.logFirm_keeps {s0 : State} {s : State} {page : Nat} {code : Nat} {detail : List Nat}  (hkeep : Keeps s0 s) :
    Keeps s0 (State.logFirm s page code detail) := by
  unfold State.logFirm
  repeat' first
    | with_reducible assumption
    | extract_lets
    | intro _
    | with_reducible apply Keeps.ite
    | with_reducible apply State.commitAll_keeps
    | with_reducible apply State.log_keeps

theorem State.sealFail_keeps {s0 : State} {s : State} {k : Nat} {code : Nat}  (hkeep : Keeps s0 s) :
    Keeps s0 (State.sealFail s k code) := by
  unfold State.sealFail
  repeat' first
    | with_reducible assumption
    | extract_lets
    | intro _
    | with_reducible apply Keeps.ite
    | with_reducible apply Keeps.ite_fst
    | with_reducible apply State.inc_keeps
    | with_reducible apply State.cause_keeps
    | with_reducible apply State.err_keeps

theorem State.check_keeps {s0 : State} {s : State} {ks : List Nat} {code : Nat}  (hkeep : Keeps s0 s) :
    Keeps s0 (State.check s ks code) := by
  unfold State.check
  repeat' first
    | with_reducible assumption
    | extract_lets
    | intro _
    | with_reducible apply Keeps.ite
    | with_reducible apply Keeps.ite_fst
    | with_reducible apply State.countRead_keeps
    | with_reducible apply State.inc64_keeps
    | with_reducible apply State.sealFail_keeps
    | with_reducible apply Keeps.foldl

theorem State.readChecked_keeps {s0 : State} {s : State} {rs : List (Nat × Nat)} {code : Nat}  (hkeep : Keeps s0 s) :
    Keeps s0 (State.readChecked s rs code) := by
  unfold State.readChecked
  repeat' first
    | with_reducible assumption
    | extract_lets
    | intro _
    | with_reducible apply Keeps.ite
    | with_reducible apply State.cacheReads_keeps
    | with_reducible apply State.check_keeps

theorem State.merge_keeps {s0 : State} {s : State} {a : Nat} {b : List Byte} {code : Nat}  (hkeep : Keeps s0 s) :
    Keeps s0 (State.merge s a b code).1 := by
  unfold State.merge
  repeat' first
    | with_reducible assumption
    | extract_lets
    | intro _
    | with_reducible apply Keeps.ite
    | with_reducible apply Keeps.ite_fst
    | with_reducible apply State.store_keeps
    | with_reducible apply State.check_keeps

theorem State.accessFault_keeps {s0 : State} {s : State} {die : Nat} {addr : Nat} {type : Nat}  (hkeep : Keeps s0 s) :
    Keeps s0 (State.accessFault s die addr type) := by
  unfold State.accessFault
  repeat' first
    | with_reducible assumption
    | extract_lets
    | intro _
    | with_reducible apply Keeps.ite
    | with_reducible apply State.inc_keeps
    | with_reducible apply State.wf_keeps
    | with_reducible apply State.cause_keeps
    | with_reducible apply State.err_keeps
    | with_reducible apply State.log_keeps

end Sys2Proof.Machine
end

