-- ==== Sys2Proof/Laws/KeepsButtons.lean ====
section
/-! SUPPORT. The operations of Machine/Buttons.lean keep what every command keeps. -/

namespace Sys2Proof.Machine

theorem State.setValue_keeps {s0 : State} {s : State} {b : Nat} {w : Word}  (hkeep : Keeps s0 s) :
    Keeps s0 (State.setValue s b w) := by
  unfold State.setValue
  repeat' first
    | with_reducible assumption
    | extract_lets
    | intro _
    | with_reducible apply Keeps.ite
    | with_reducible apply State.setReg_keeps

theorem State.setBase_keeps {s0 : State} {s : State} {b : Nat} {w : Word}  (hkeep : Keeps s0 s) :
    Keeps s0 (State.setBase s b w) := by
  unfold State.setBase
  repeat' first
    | with_reducible assumption
    | extract_lets
    | intro _
    | with_reducible apply Keeps.ite
    | with_reducible apply State.setReg_keeps

theorem State.addButton_keeps {s0 : State} {s : State} {b : Nat} {n : Nat}  (hkeep : Keeps s0 s) :
    Keeps s0 (State.addButton s b n) := by
  unfold State.addButton
  repeat' first
    | with_reducible assumption
    | extract_lets
    | intro _
    | with_reducible apply Keeps.ite
    | with_reducible apply State.setValue_keeps

theorem State.rebase_keeps {s0 : State} {s : State} {b : Nat}  (hkeep : Keeps s0 s) :
    Keeps s0 (State.rebase s b) := by
  unfold State.rebase
  repeat' first
    | with_reducible assumption
    | extract_lets
    | intro _
    | with_reducible apply Keeps.ite
    | with_reducible apply State.setBase_keeps

theorem State.rebaseRange_keeps {s0 : State} {s : State} {b : Nat} {n : Nat}  (hkeep : Keeps s0 s) :
    Keeps s0 (State.rebaseRange s b n) := by
  unfold State.rebaseRange
  repeat' first
    | with_reducible assumption
    | extract_lets
    | intro _
    | with_reducible apply Keeps.ite
    | with_reducible apply State.rebase_keeps
    | with_reducible apply Keeps.foldl

theorem State.refuseButton_keeps {s0 : State} {s : State} {queue : Nat} {index : Nat} {b : Nat}  (hkeep : Keeps s0 s) :
    Keeps s0 (State.refuseButton s queue index b) := by
  unfold State.refuseButton
  repeat' first
    | with_reducible assumption
    | extract_lets
    | intro _
    | with_reducible apply Keeps.ite
    | with_reducible apply State.inc_keeps
    | with_reducible apply State.wf_keeps
    | with_reducible apply State.cause_keeps
    | with_reducible apply State.log_keeps

theorem State.refuseButtonQuiet_keeps {s0 : State} {s : State} {b : Nat}  (hkeep : Keeps s0 s) :
    Keeps s0 (State.refuseButtonQuiet s b) := by
  unfold State.refuseButtonQuiet
  repeat' first
    | with_reducible assumption
    | extract_lets
    | intro _
    | with_reducible apply Keeps.ite
    | with_reducible apply State.inc_keeps
    | with_reducible apply State.wf_keeps
    | with_reducible apply State.cause_keeps

theorem State.signal_keeps {s0 : State} {s : State} {queue : Nat} {index : Nat} {b : Nat}  (hkeep : Keeps s0 s) :
    Keeps s0 (State.signal s queue index b) := by
  unfold State.signal
  repeat' first
    | with_reducible assumption
    | extract_lets
    | intro _
    | with_reducible apply Keeps.ite
    | with_reducible apply State.addButton_keeps
    | with_reducible apply State.refuseButton_keeps

end Sys2Proof.Machine
end

