-- ==== Sys2Proof/Laws/KeepsWatch.lean ====
section
/-! SUPPORT. The operations of Machine/Watch.lean keep what every command keeps. -/

namespace Sys2Proof.Machine

theorem State.setLayer_keeps {s0 : State} {s : State} {l : Nat} {w : LayerWatch}  (hkeep : Keeps s0 s) :
    Keeps s0 (State.setLayer s l w) := by
  unfold State.setLayer
  repeat' first
    | with_reducible assumption
    | extract_lets
    | intro _
    | with_reducible apply Keeps.ite
    | (fail_if_no_progress (with_reducible apply Keeps.update; rfl; rfl; first | exact Nat.le_refl _ | exact Nat.le_succ _))

theorem State.watchAdd_keeps {s0 : State} {s : State} {l : Nat} {role : Nat} {c : Counts}  (hkeep : Keeps s0 s) :
    Keeps s0 (State.watchAdd s l role c) := by
  unfold State.watchAdd
  repeat' first
    | with_reducible assumption
    | extract_lets
    | intro _
    | with_reducible apply Keeps.ite
    | with_reducible apply State.setLayer_keeps

theorem State.unwatched_keeps {s0 : State} {s : State} {l : Nat} {type : Nat}  (hkeep : Keeps s0 s) :
    Keeps s0 (State.unwatched s l type) := by
  unfold State.unwatched
  repeat' first
    | with_reducible assumption
    | extract_lets
    | intro _
    | with_reducible apply Keeps.ite
    | with_reducible apply State.inc_keeps
    | with_reducible apply State.cause_keeps
    | with_reducible apply State.log_keeps

theorem State.setSlot_keeps {s0 : State} {s : State} {l : Nat} {role : Nat} {w : Word}  (hkeep : Keeps s0 s) :
    Keeps s0 (State.setSlot s l role w) := by
  unfold State.setSlot
  repeat' first
    | with_reducible assumption
    | extract_lets
    | intro _
    | with_reducible apply Keeps.ite
    | (fail_if_no_progress (with_reducible apply Keeps.update; rfl; rfl; first | exact Nat.le_refl _ | exact Nat.le_succ _))

theorem State.estimate_keeps {s0 : State} {s : State} {l : Nat} {role : Nat} {p : Nat} {lastE : Nat} {vanished : Nat}  (hkeep : Keeps s0 s) :
    Keeps s0 (State.estimate s l role p lastE vanished) := by
  unfold State.estimate
  repeat' first
    | with_reducible assumption
    | extract_lets
    | intro _
    | with_reducible apply Keeps.ite
    | with_reducible apply State.setSlot_keeps

theorem State.measureSlot_keeps {s0 : State} {s : State} {l : Nat} {role : Nat} {p : Nat}  (hkeep : Keeps s0 s) :
    Keeps s0 (State.measureSlot s l role p) := by
  unfold State.measureSlot
  repeat' first
    | with_reducible assumption
    | extract_lets
    | intro _
    | with_reducible apply Keeps.ite
    | with_reducible apply State.setSlot_keeps

theorem State.notePrepass_keeps {s0 : State} {s : State} {l : Nat} {roles : List Nat}  (hkeep : Keeps s0 s) :
    Keeps s0 (State.notePrepass s l roles) := by
  unfold State.notePrepass
  repeat' first
    | with_reducible assumption
    | extract_lets
    | intro _
    | with_reducible apply Keeps.ite
    | with_reducible apply State.inc_keeps
    | with_reducible apply State.log_keeps
    | with_reducible apply Keeps.foldl

theorem State.endHem_keeps {s0 : State} {s : State} {l : Nat} {clear : Bool}  (hkeep : Keeps s0 s) :
    Keeps s0 (State.endHem s l clear) := by
  unfold State.endHem
  repeat' first
    | with_reducible assumption
    | extract_lets
    | intro _
    | with_reducible apply Keeps.ite
    | with_reducible apply State.setLayer_keeps

theorem State.judgeHard_keeps {s0 : State} {s : State} {l : Nat}  (hkeep : Keeps s0 s) :
    Keeps s0 (State.judgeHard s l).1 := by
  unfold State.judgeHard
  repeat' first
    | with_reducible assumption
    | extract_lets
    | intro _
    | with_reducible apply Keeps.ite
    | with_reducible apply Keeps.ite_fst
    | with_reducible apply State.inc_keeps
    | with_reducible apply State.cause_keeps
    | with_reducible apply State.log_keeps
    | with_reducible apply State.setLayer_keeps

theorem State.judgeSoft_keeps {s0 : State} {s : State} {l : Nat} {mine : Bool}  (hkeep : Keeps s0 s) :
    Keeps s0 (State.judgeSoft s l mine).1 := by
  unfold State.judgeSoft
  repeat' first
    | with_reducible assumption
    | extract_lets
    | intro _
    | with_reducible apply Keeps.ite
    | with_reducible apply Keeps.ite_fst
    | with_reducible apply State.inc_keeps
    | with_reducible apply State.whenSome_keeps
    | with_reducible apply State.cause_keeps
    | with_reducible apply State.log_keeps
    | with_reducible apply State.addButton_keeps
    | with_reducible apply State.endHem_keeps
    | with_reducible apply State.setSlot_keeps

theorem State.askWatch_keeps {s0 : State} {s : State} {l : Nat} {mine : Bool}  (hkeep : Keeps s0 s) :
    Keeps s0 (State.askWatch s l mine).1 := by
  unfold State.askWatch
  repeat' first
    | with_reducible assumption
    | extract_lets
    | intro _
    | with_reducible apply Keeps.ite
    | with_reducible apply Keeps.ite_fst
    | with_reducible apply State.inc_keeps
    | with_reducible apply State.judgeHard_keeps
    | with_reducible apply State.judgeSoft_keeps

theorem State.replayStarted_keeps {s0 : State} {s : State} {own : Nat} {clip : Nat} {sat : Nat}  (hkeep : Keeps s0 s) :
    Keeps s0 (State.replayStarted s own clip sat) := by
  unfold State.replayStarted
  repeat' first
    | with_reducible assumption
    | extract_lets
    | intro _
    | with_reducible apply Keeps.ite
    | with_reducible apply Keeps.ite_fst
    | with_reducible apply State.wf_keeps
    | with_reducible apply State.log_keeps
    | with_reducible apply State.addButton_keeps
    | with_reducible apply Keeps.foldl
    | with_reducible apply Keeps.foldl_fst
    | (fail_if_no_progress (with_reducible apply Keeps.update; rfl; rfl; first | exact Nat.le_refl _ | exact Nat.le_succ _))
    | split

theorem State.watchStep_keeps {s0 : State} {s : State} {step : Nat}  (hkeep : Keeps s0 s) :
    Keeps s0 (State.watchStep s step) := by
  unfold State.watchStep
  repeat' first
    | with_reducible assumption
    | extract_lets
    | intro _
    | with_reducible apply Keeps.ite
    | with_reducible apply State.wf_keeps
    | with_reducible apply State.wf64_keeps
    | with_reducible apply Keeps.foldl

theorem State.watchWindowShut_keeps {s0 : State} {s : State}  (hkeep : Keeps s0 s) :
    Keeps s0 (State.watchWindowShut s) := by
  unfold State.watchWindowShut
  repeat' first
    | with_reducible assumption
    | extract_lets
    | intro _
    | with_reducible apply Keeps.ite
    | with_reducible apply State.wf_keeps
    | with_reducible apply Keeps.foldl

theorem State.watchRatio_keeps {s0 : State} {s : State} {l : Nat} {r : Nat}  (hkeep : Keeps s0 s) :
    Keeps s0 (State.watchRatio s l r) := by
  unfold State.watchRatio
  repeat' first
    | with_reducible assumption
    | extract_lets
    | intro _
    | with_reducible apply Keeps.ite
    | with_reducible apply State.cause_keeps
    | with_reducible apply State.log_keeps
    | with_reducible apply State.setLayer_keeps

theorem State.tableErr_keeps {s0 : State} {s : State} {q : Nat} {addr : Nat}  (hkeep : Keeps s0 s) :
    Keeps s0 (State.tableErr s q addr) := by
  unfold State.tableErr
  repeat' first
    | with_reducible assumption
    | extract_lets
    | intro _
    | with_reducible apply Keeps.ite
    | with_reducible apply State.cause_keeps
    | with_reducible apply State.err_keeps
    | with_reducible apply State.log_keeps

theorem State.loadWatchTable_keeps {s0 : State} {s : State} {q : Nat}  (hkeep : Keeps s0 s) :
    Keeps s0 (State.loadWatchTable s q) := by
  unfold State.loadWatchTable
  repeat' first
    | with_reducible assumption
    | extract_lets
    | intro _
    | with_reducible apply Keeps.ite
    | with_reducible apply Keeps.ite_fst
    | with_reducible apply State.wf_keeps
    | with_reducible apply State.check_keeps
    | with_reducible apply State.tableErr_keeps
    | with_reducible apply Keeps.foldl
    | with_reducible apply Keeps.foldl_fst
    | (fail_if_no_progress (with_reducible apply Keeps.update; rfl; rfl; first | exact Nat.le_refl _ | exact Nat.le_succ _))

theorem State.takeEst_keeps {s0 : State} {s : State} {q : Nat} {b : List Byte}  (hkeep : Keeps s0 s) :
    Keeps s0 (State.takeEst s q b) := by
  unfold State.takeEst
  repeat' first
    | with_reducible assumption
    | extract_lets
    | intro _
    | with_reducible apply Keeps.ite
    | with_reducible apply Keeps.ite_fst
    | with_reducible apply Keeps.foldl
    | with_reducible apply Keeps.foldl_fst
    | (fail_if_no_progress (with_reducible apply Keeps.update; rfl; rfl; first | exact Nat.le_refl _ | exact Nat.le_succ _))

theorem State.freshWatch_keeps {s0 : State} {s : State} {q : Nat}  (hkeep : Keeps s0 s) :
    Keeps s0 (State.freshWatch s q) := by
  unfold State.freshWatch
  repeat' first
    | with_reducible assumption
    | extract_lets
    | intro _
    | with_reducible apply Keeps.ite
    | with_reducible apply Keeps.ite_fst
    | with_reducible apply State.wf_keeps
    | (fail_if_no_progress (with_reducible apply Keeps.update; rfl; rfl; first | exact Nat.le_refl _ | exact Nat.le_succ _))

theorem State.saveEst_keeps {s0 : State} {s : State} {q : Nat} {a : Nat}  (hkeep : Keeps s0 s) :
    Keeps s0 (State.saveEst s q a) := by
  unfold State.saveEst
  repeat' first
    | with_reducible assumption
    | extract_lets
    | intro _
    | with_reducible apply Keeps.ite
    | with_reducible apply State.putSealed_keeps
    | with_reducible apply State.tableErr_keeps

theorem State.loadEst_keeps {s0 : State} {s : State} {q : Nat} {a : Nat} {restore : Bool}  (hkeep : Keeps s0 s) :
    Keeps s0 (State.loadEst s q a restore) := by
  unfold State.loadEst
  repeat' first
    | with_reducible assumption
    | extract_lets
    | intro _
    | with_reducible apply Keeps.ite
    | with_reducible apply State.check_keeps
    | with_reducible apply State.freshWatch_keeps
    | with_reducible apply State.tableErr_keeps
    | with_reducible apply State.takeEst_keeps

theorem State.clearEst_keeps {s0 : State} {s : State} {q : Nat}  (hkeep : Keeps s0 s) :
    Keeps s0 (State.clearEst s q) := by
  unfold State.clearEst
  repeat' first
    | with_reducible assumption
    | extract_lets
    | intro _
    | with_reducible apply Keeps.ite
    | with_reducible apply Keeps.ite_fst
    | (fail_if_no_progress (with_reducible apply Keeps.update; rfl; rfl; first | exact Nat.le_refl _ | exact Nat.le_succ _))

theorem execWtLoad_keeps {s0 : State} {view : View} {q : Quad} {s : State}  (hkeep : Keeps s0 s) :
    Keeps.Outcome s0 (execWtLoad view q s) := by
  unfold execWtLoad
  repeat' first
    | with_reducible assumption
    | extract_lets
    | intro _
    | with_reducible apply Keeps.next
    | with_reducible exact Keeps.fault
    | with_reducible exact Keeps.refused
    | with_reducible apply Keeps.ite_outcome
    | with_reducible apply Keeps.ite
    | with_reducible apply State.whenFree_keeps
    | with_reducible apply State.onWrite_keeps
    | with_reducible apply State.loadWatchTable_keeps

theorem execEstSave_keeps {s0 : State} {view : View} {q : Quad} {s : State}  (hkeep : Keeps s0 s) :
    Keeps.Outcome s0 (execEstSave view q s) := by
  unfold execEstSave
  repeat' first
    | with_reducible assumption
    | extract_lets
    | intro _
    | with_reducible apply Keeps.next
    | with_reducible exact Keeps.fault
    | with_reducible exact Keeps.refused
    | with_reducible apply Keeps.ite_outcome
    | with_reducible apply Keeps.ite
    | with_reducible apply State.whenFree_keeps
    | with_reducible apply State.onWrite_keeps
    | with_reducible apply State.saveEst_keeps

theorem execEstLoad_keeps {s0 : State} {view : View} {q : Quad} {s : State}  (hkeep : Keeps s0 s) :
    Keeps.Outcome s0 (execEstLoad view q s) := by
  unfold execEstLoad
  repeat' first
    | with_reducible assumption
    | extract_lets
    | intro _
    | with_reducible apply Keeps.next
    | with_reducible exact Keeps.fault
    | with_reducible exact Keeps.refused
    | with_reducible apply Keeps.ite_outcome
    | with_reducible apply Keeps.ite
    | with_reducible apply State.whenFree_keeps
    | with_reducible apply State.onWrite_keeps
    | with_reducible apply State.loadEst_keeps

theorem execEstClear_keeps {s0 : State} {view : View} {q : Quad} {s : State}  (hkeep : Keeps s0 s) :
    Keeps.Outcome s0 (execEstClear view q s) := by
  unfold execEstClear
  repeat' first
    | with_reducible assumption
    | extract_lets
    | intro _
    | with_reducible apply Keeps.next
    | with_reducible exact Keeps.fault
    | with_reducible exact Keeps.refused
    | with_reducible apply Keeps.ite_outcome
    | with_reducible apply Keeps.ite
    | with_reducible apply State.onWrite_keeps
    | with_reducible apply State.clearEst_keeps

end Sys2Proof.Machine
end

