-- ==== Sys2Proof/Laws/KeepsFields.lean ====
section
/-! SUPPORT. The operations of Machine/Fields.lean keep what every command keeps. -/

namespace Sys2Proof.Machine

theorem State.noteClamp_keeps {s0 : State} {s : State} {view : View} {off : Nat}  (hkeep : Keeps s0 s) :
    Keeps s0 (State.noteClamp s view off) := by
  unfold State.noteClamp
  repeat' first
    | with_reducible assumption
    | extract_lets
    | intro _
    | with_reducible apply Keeps.ite
    | with_reducible apply State.inc_keeps
    | with_reducible apply State.wf_keeps

theorem State.writeFld_keeps {s0 : State} {s : State} {view : View} {off : Nat} {w : Word} {f : Fld}  (hkeep : Keeps s0 s) :
    Keeps s0 (State.writeFld s view off w f) := by
  unfold State.writeFld
  repeat' first
    | with_reducible assumption
    | extract_lets
    | intro _
    | with_reducible apply Keeps.ite
    | with_reducible apply State.setReg_keeps
    | with_reducible apply State.noteClamp_keeps
    | (fail_if_no_progress (with_reducible apply Keeps.update; rfl; rfl; first | exact Nat.le_refl _ | exact Nat.le_succ _))
    | split

theorem State.writeFlds_keeps {s0 : State} {s : State} {view : View} {off : Nat} {w : Word} {fs : List Fld}  (hkeep : Keeps s0 s) :
    Keeps s0 (State.writeFlds s view off w fs) := by
  unfold State.writeFlds
  repeat' first
    | with_reducible assumption
    | extract_lets
    | intro _
    | with_reducible apply Keeps.ite
    | with_reducible apply State.writeFld_keeps
    | with_reducible apply Keeps.foldl

theorem State.plainWrite_keeps {s0 : State} {s : State} {view : View} {off : Nat} {w : Word}  (hkeep : Keeps s0 s) :
    Keeps s0 (State.plainWrite s view off w) := by
  unfold State.plainWrite
  repeat' first
    | with_reducible assumption
    | extract_lets
    | intro _
    | with_reducible apply Keeps.ite
    | with_reducible apply State.writeFlds_keeps
    | (fail_if_no_progress (with_reducible apply Keeps.update; rfl; rfl; first | exact Nat.le_refl _ | exact Nat.le_succ _))
    | split

theorem State.clearWords_keeps {s0 : State} {s : State} {page : Nat} {lo : Nat} {hi : Nat}  (hkeep : Keeps s0 s) :
    Keeps s0 (State.clearWords s page lo hi) := by
  unfold State.clearWords
  repeat' first
    | with_reducible assumption
    | extract_lets
    | intro _
    | with_reducible apply Keeps.ite
    | with_reducible apply State.setReg_keeps
    | with_reducible apply Keeps.foldl

theorem State.clearCounts_keeps {s0 : State} {s : State} {c : Cls} {page : Nat}  (hkeep : Keeps s0 s) :
    Keeps s0 (State.clearCounts s c page) := by
  unfold State.clearCounts
  repeat' first
    | with_reducible assumption
    | extract_lets
    | intro _
    | with_reducible apply Keeps.ite
    | with_reducible apply State.wf_keeps
    | with_reducible apply State.clearWords_keeps
    | (fail_if_no_progress (with_reducible apply Keeps.update; rfl; rfl; first | exact Nat.le_refl _ | exact Nat.le_succ _))
    | split

theorem State.clearTotals_keeps {s0 : State} {s : State} {q : Nat}  (hkeep : Keeps s0 s) :
    Keeps s0 (State.clearTotals s q) := by
  unfold State.clearTotals
  repeat' first
    | with_reducible assumption
    | extract_lets
    | intro _
    | with_reducible apply Keeps.ite
    | with_reducible apply Keeps.ite_fst
    | (fail_if_no_progress (with_reducible apply Keeps.update; rfl; rfl; first | exact Nat.le_refl _ | exact Nat.le_succ _))

theorem State.flushStore_keeps {s0 : State} {s : State} {page : Nat}  (hkeep : Keeps s0 s) :
    Keeps s0 (State.flushStore s page) := by
  unfold State.flushStore
  repeat' first
    | with_reducible assumption
    | extract_lets
    | intro _
    | with_reducible apply Keeps.ite
    | with_reducible apply State.wf_keeps

theorem State.crossWrite_keeps {s0 : State} {s : State} {view : View} {off : Nat} {w : Word}  (hkeep : Keeps s0 s) :
    Keeps s0 (State.crossWrite s view off w) := by
  unfold State.crossWrite
  repeat' first
    | with_reducible assumption
    | extract_lets
    | intro _
    | with_reducible apply Keeps.ite
    | with_reducible apply State.clearCounts_keeps
    | with_reducible apply State.flushStore_keeps
    | with_reducible apply State.plainWrite_keeps
    | (fail_if_no_progress (with_reducible apply Keeps.update; rfl; rfl; first | exact Nat.le_refl _ | exact Nat.le_succ _))
    | split

theorem State.crossOrPost_keeps {s0 : State} {s : State} {view : View} {off : Nat} {w : Word}  (hkeep : Keeps s0 s) :
    Keeps s0 (State.crossOrPost s view off w) := by
  unfold State.crossOrPost
  repeat' first
    | with_reducible assumption
    | extract_lets
    | intro _
    | with_reducible apply Keeps.ite
    | with_reducible apply State.crossWrite_keeps
    | (fail_if_no_progress (with_reducible apply Keeps.update; rfl; rfl; first | exact Nat.le_refl _ | exact Nat.le_succ _))

theorem State.applyPosted_keeps {s0 : State} {s : State}  (hkeep : Keeps s0 s) :
    Keeps s0 (State.applyPosted s) := by
  unfold State.applyPosted
  repeat' first
    | with_reducible assumption
    | extract_lets
    | intro _
    | with_reducible apply Keeps.ite
    | with_reducible apply State.crossWrite_keeps
    | with_reducible apply Keeps.foldl
    | (fail_if_no_progress (with_reducible apply Keeps.update; rfl; rfl; first | exact Nat.le_refl _ | exact Nat.le_succ _))

theorem State.applyPage_keeps {s0 : State} {s : State} {page : Nat}  (hkeep : Keeps s0 s) :
    Keeps s0 (State.applyPage s page) := by
  unfold State.applyPage
  repeat' first
    | with_reducible assumption
    | extract_lets
    | intro _
    | with_reducible apply Keeps.ite
    | with_reducible apply State.crossWrite_keeps
    | with_reducible apply Keeps.foldl
    | (fail_if_no_progress (with_reducible apply Keeps.update; rfl; rfl; first | exact Nat.le_refl _ | exact Nat.le_succ _))

end Sys2Proof.Machine
end

