-- ==== Sys2Proof/Laws/KeepsTasks.lean ====
section
/-! SUPPORT. The operations of Machine/Tasks.lean keep what every command keeps. -/

namespace Sys2Proof.Machine

theorem State.setQueue_keeps {s0 : State} {s : State} {q : Nat} {v : QueueSt}  (hkeep : Keeps s0 s) :
    Keeps s0 (State.setQueue s q v) := by
  unfold State.setQueue
  repeat' first
    | with_reducible assumption
    | extract_lets
    | intro _
    | with_reducible apply Keeps.ite
    | (fail_if_no_progress (with_reducible apply Keeps.update; rfl; rfl; first | exact Nat.le_refl _ | exact Nat.le_succ _))

theorem State.setTask_keeps {s0 : State} {s : State} {t : Task}  (hkeep : Keeps s0 s) :
    Keeps s0 (State.setTask s t) := by
  unfold State.setTask
  repeat' first
    | with_reducible assumption
    | extract_lets
    | intro _
    | with_reducible apply Keeps.ite
    | (fail_if_no_progress (with_reducible apply Keeps.update; rfl; rfl; first | exact Nat.le_refl _ | exact Nat.le_succ _))

theorem State.dropTask_keeps {s0 : State} {s : State} {n : Nat}  (hkeep : Keeps s0 s) :
    Keeps s0 (State.dropTask s n) := by
  unfold State.dropTask
  repeat' first
    | with_reducible assumption
    | extract_lets
    | intro _
    | with_reducible apply Keeps.ite
    | (fail_if_no_progress (with_reducible apply Keeps.update; rfl; rfl; first | exact Nat.le_refl _ | exact Nat.le_succ _))

theorem State.consumeOne_keeps {s0 : State} {s : State} {q : Nat}  (hkeep : Keeps s0 s) :
    Keeps s0 (State.consumeOne s q) := by
  unfold State.consumeOne
  repeat' first
    | with_reducible assumption
    | extract_lets
    | intro _
    | with_reducible apply Keeps.ite
    | with_reducible apply State.wf_keeps
    | with_reducible apply State.setQueue_keeps

theorem State.consume_keeps {s0 : State} {s : State} {q : Nat}  (hkeep : Keeps s0 s) :
    Keeps s0 (State.consume s q) := by
  unfold State.consume
  repeat' first
    | with_reducible assumption
    | extract_lets
    | intro _
    | with_reducible apply Keeps.ite
    | with_reducible apply State.consumeOne_keeps
    | with_reducible apply Keeps.foldl

theorem State.runPost_keeps {s0 : State} {failed : Bool} {s : State} {p : Post}  (hkeep : Keeps s0 s) :
    Keeps s0 (State.runPost failed s p) := by
  unfold State.runPost
  repeat' first
    | with_reducible assumption
    | extract_lets
    | intro _
    | with_reducible apply Keeps.ite
    | with_reducible apply State.setReg_keeps
    | with_reducible apply State.store_keeps
    | with_reducible apply State.whenSome_keeps
    | with_reducible apply State.cause_keeps
    | with_reducible apply State.log_keeps
    | with_reducible apply State.addButton_keeps
    | with_reducible apply State.estimate_keeps
    | with_reducible apply State.setSlot_keeps
    | with_reducible apply State.watchAdd_keeps
    | with_reducible apply State.watchRatio_keeps
    | with_reducible apply State.readBack_keeps
    | (fail_if_no_progress (with_reducible apply Keeps.update; rfl; rfl; first | exact Nat.le_refl _ | exact Nat.le_succ _))
    | split

theorem State.putRecords_keeps {s0 : State} {s : State} {ps : List Post}  (hkeep : Keeps s0 s) :
    Keeps s0 (State.putRecords s ps) := by
  unfold State.putRecords
  repeat' first
    | with_reducible assumption
    | extract_lets
    | intro _
    | with_reducible apply Keeps.ite
    | with_reducible apply Keeps.ite_fst
    | with_reducible apply State.put_keeps
    | with_reducible apply Keeps.foldl

theorem State.readBack_keeps {s0 : State} {s : State} {t : Task} {ks : List (Nat × Nat)}  (hkeep : Keeps s0 s) :
    Keeps s0 (State.readBack s t ks).1 := by
  unfold State.readBack
  repeat' first
    | with_reducible assumption
    | extract_lets
    | intro _
    | with_reducible apply Keeps.ite
    | with_reducible apply Keeps.ite_fst
    | with_reducible apply State.whenSome_keeps
    | with_reducible apply State.check_keeps
    | with_reducible apply State.err_keeps
    | with_reducible apply State.log_keeps

theorem State.writeRecord_keeps {s0 : State} {s : State} {t : Task} {st : Nat} {detail : Nat}  (hkeep : Keeps s0 s) :
    Keeps s0 (State.writeRecord s t st detail) := by
  unfold State.writeRecord
  repeat' first
    | with_reducible assumption
    | extract_lets
    | intro _
    | with_reducible apply Keeps.ite
    | with_reducible apply State.put_keeps

theorem State.makeSignals_keeps {s0 : State} {s : State} {t : Task} {st : Nat}  (hkeep : Keeps s0 s) :
    Keeps s0 (State.makeSignals s t st) := by
  unfold State.makeSignals
  repeat' first
    | with_reducible assumption
    | extract_lets
    | intro _
    | with_reducible apply Keeps.ite
    | with_reducible apply Keeps.ite_fst
    | with_reducible apply State.signal_keeps
    | with_reducible apply Keeps.foldl

theorem State.countIndex_keeps {s0 : State} {s : State} {t : Task}  (hkeep : Keeps s0 s) :
    Keeps s0 (State.countIndex s t) := by
  unfold State.countIndex
  repeat' first
    | with_reducible assumption
    | extract_lets
    | intro _
    | with_reducible apply Keeps.ite
    | with_reducible apply State.wf_keeps
    | with_reducible apply State.cause_keeps
    | with_reducible apply State.setQueue_keeps

theorem State.failErrs_keeps {s0 : State} {s : State} {t : Task} {st : Nat} {event : Nat} {errDetail : Nat}  (hkeep : Keeps s0 s) :
    Keeps s0 (State.failErrs s t st event errDetail) := by
  unfold State.failErrs
  repeat' first
    | with_reducible assumption
    | extract_lets
    | intro _
    | with_reducible apply Keeps.ite
    | with_reducible apply State.err_keeps

theorem State.queueCauses_keeps {s0 : State} {s : State} {t : Task} {st : Nat}  (hkeep : Keeps s0 s) :
    Keeps s0 (State.queueCauses s t st) := by
  unfold State.queueCauses
  repeat' first
    | with_reducible assumption
    | extract_lets
    | intro _
    | with_reducible apply Keeps.ite
    | with_reducible apply State.cause_keeps

theorem State.hemDone_keeps {s0 : State} {s : State} {t : Task}  (hkeep : Keeps s0 s) :
    Keeps s0 (State.hemDone s t) := by
  unfold State.hemDone
  repeat' first
    | with_reducible assumption
    | extract_lets
    | intro _
    | with_reducible apply Keeps.ite
    | with_reducible apply State.setQueue_keeps

theorem State.countGrad_keeps {s0 : State} {s : State} {t : Task}  (hkeep : Keeps s0 s) :
    Keeps s0 (State.countGrad s t) := by
  unfold State.countGrad
  repeat' first
    | with_reducible assumption
    | extract_lets
    | intro _
    | with_reducible apply Keeps.ite
    | with_reducible apply State.inc_keeps
    | (fail_if_no_progress (with_reducible apply Keeps.update; rfl; rfl; first | exact Nat.le_refl _ | exact Nat.le_succ _))
    | split

theorem State.complete_keeps {s0 : State} {s : State} {t : Task} {record : Bool} {st : Nat} {detail : Nat} {event : Nat} {errDetail : Nat}  (hkeep : Keeps s0 s) :
    Keeps s0 (State.complete s t record st detail event errDetail) := by
  unfold State.complete
  repeat' first
    | with_reducible assumption
    | extract_lets
    | intro _
    | with_reducible apply Keeps.ite
    | with_reducible apply Keeps.ite_fst
    | with_reducible apply State.inc_keeps
    | with_reducible apply State.whenSome_keeps
    | with_reducible apply State.accessFault_keeps
    | with_reducible apply State.commitAll_keeps
    | with_reducible apply State.errDetail_keeps
    | with_reducible apply State.unwatched_keeps
    | with_reducible apply State.applyPosted_keeps
    | with_reducible apply State.consume_keeps
    | with_reducible apply State.countGrad_keeps
    | with_reducible apply State.countIndex_keeps
    | with_reducible apply State.dropTask_keeps
    | with_reducible apply State.failErrs_keeps
    | with_reducible apply State.hemDone_keeps
    | with_reducible apply State.makeSignals_keeps
    | with_reducible apply State.putRecords_keeps
    | with_reducible apply State.queueCauses_keeps
    | with_reducible apply State.readBack_keeps
    | with_reducible apply State.runPost_keeps
    | with_reducible apply State.writeRecord_keeps
    | with_reducible apply Keeps.foldl

theorem State.completeAtSched_keeps {s0 : State} {s : State} {t : Task} {st : Nat} {detail : Nat} {event : Nat}  (hkeep : Keeps s0 s) :
    Keeps s0 (State.completeAtSched s t st detail event) := by
  unfold State.completeAtSched
  repeat' first
    | with_reducible assumption
    | extract_lets
    | intro _
    | with_reducible apply Keeps.ite
    | with_reducible apply State.complete_keeps

theorem State.settleOne_keeps {s0 s t : State} (h : Keeps s0 s) (e : s.settleOne = some t) : Keeps s0 t := by
  unfold State.settleOne at e
  split at e
  · cases e
    exact State.setTask_keeps h
  · split at e
    · cases e
      exact Keeps.ite (State.completeAtSched_keeps h) (State.setTask_keeps h)
    · cases e

theorem State.settleFor_keeps {s0 s : State} {fuel : Nat} (h : Keeps s0 s) : Keeps s0 (s.settleFor fuel) := by
  induction fuel generalizing s with
  | zero => exact h
  | succ n ih =>
    unfold State.settleFor
    split
    · exact ih (State.settleOne_keeps h (by assumption))
    · exact h

theorem State.settle_keeps {s0 : State} {s : State}  (hkeep : Keeps s0 s) :
    Keeps s0 (State.settle s) := by
  unfold State.settle
  repeat' first
    | with_reducible assumption
    | extract_lets
    | intro _
    | with_reducible apply Keeps.ite
    | with_reducible apply State.settleFor_keeps

theorem State.finish_keeps {s0 : State} {s : State} {t : Task} {st : Nat} {detail : Nat} {event : Nat} {errDetail : Nat}  (hkeep : Keeps s0 s) :
    Keeps s0 (State.finish s t st detail event errDetail) := by
  unfold State.finish
  repeat' first
    | with_reducible assumption
    | extract_lets
    | intro _
    | with_reducible apply Keeps.ite
    | with_reducible apply State.errDetail_keeps
    | with_reducible apply State.complete_keeps
    | with_reducible apply State.settle_keeps

theorem State.handOver_keeps {s0 : State} {s : State} {t : Task} {phase : Phase} {unit : Nat} {pages : List Nat} {target : Nat}  (hkeep : Keeps s0 s) :
    Keeps s0 (State.handOver s t phase unit pages target) := by
  unfold State.handOver
  repeat' first
    | with_reducible assumption
    | extract_lets
    | intro _
    | with_reducible apply Keeps.ite
    | with_reducible apply State.inc64_keeps
    | with_reducible apply State.setTask_keeps

theorem State.endTask_keeps {s0 : State} {s : State} {t : Task} {st : Nat} {detail : Nat} {event : Nat} {errDetail : Nat} {post : List Post}  (hkeep : Keeps s0 s) :
    Keeps s0 (State.endTask s t st detail event errDetail post) := by
  unfold State.endTask
  repeat' first
    | with_reducible assumption
    | extract_lets
    | intro _
    | with_reducible apply Keeps.ite
    | with_reducible apply State.errDetail_keeps
    | with_reducible apply State.setTask_keeps

theorem State.onDie_keeps {s0 : State} {s : State} {b : Nat} {k : State → State} (hk : ∀ y0, Keeps s0 y0 → Keeps s0 (k y0)) (hkeep : Keeps s0 s) :
    Keeps.Outcome s0 (State.onDie s b k) := by
  unfold State.onDie
  repeat' first
    | with_reducible assumption
    | extract_lets
    | intro _
    | with_reducible apply Keeps.next
    | with_reducible exact Keeps.fault
    | with_reducible exact Keeps.refused
    | with_reducible apply Keeps.ite_outcome
    | with_reducible apply Keeps.ite
    | with_reducible apply hk

theorem State.refuseTask_keeps {s0 : State} {s : State} {t : Task} {unit : Nat} {st : Nat} {detail : Nat} {event : Nat} {errDetail : Nat} {ev : List Nat}  (hkeep : Keeps s0 s) :
    Keeps s0 (State.refuseTask s t unit st detail event errDetail ev) := by
  unfold State.refuseTask
  repeat' first
    | with_reducible assumption
    | extract_lets
    | intro _
    | with_reducible apply Keeps.ite
    | with_reducible apply State.errDetail_keeps
    | with_reducible apply State.log_keeps
    | with_reducible apply State.handOver_keeps

theorem State.faultTask_keeps {s0 : State} {s : State} {t : Task} {unit : Nat} {die : Nat} {addr : Nat}  (hkeep : Keeps s0 s) :
    Keeps s0 (State.faultTask s t unit die addr) := by
  unfold State.faultTask
  repeat' first
    | with_reducible assumption
    | extract_lets
    | intro _
    | with_reducible apply Keeps.ite
    | with_reducible apply State.accessFault_keeps
    | with_reducible apply State.handOver_keeps

end Sys2Proof.Machine
end

