-- ==== Sys2Proof/Laws/KeepsSched.lean ====
section
/-! SUPPORT. The operations of Machine/Sched.lean keep what every command keeps. -/

namespace Sys2Proof.Machine

theorem State.writeTail_keeps {s0 : State} {s : State} {view : View} {q : Nat} {w : Word}  (hkeep : Keeps s0 s) :
    Keeps s0 (State.writeTail s view q w) := by
  unfold State.writeTail
  repeat' first
    | with_reducible assumption
    | extract_lets
    | intro _
    | with_reducible apply Keeps.ite
    | with_reducible apply State.setReg_keeps
    | with_reducible apply State.noteClamp_keeps

theorem execTailWrite_keeps {s0 : State} {view : View} {q : QueueNo} {w : Word} {s : State}  (hkeep : Keeps s0 s) :
    Keeps.Outcome s0 (execTailWrite view q w s) := by
  unfold execTailWrite
  repeat' first
    | with_reducible assumption
    | extract_lets
    | intro _
    | with_reducible apply Keeps.next
    | with_reducible exact Keeps.fault
    | with_reducible exact Keeps.refused
    | with_reducible apply Keeps.ite_outcome
    | with_reducible apply Keeps.ite
    | with_reducible apply State.onWrite_keeps
    | with_reducible apply State.writeTail_keeps

theorem State.enableQueue_keeps {s0 : State} {s : State} {q : Nat}  (hkeep : Keeps s0 s) :
    Keeps s0 (State.enableQueue s q) := by
  unfold State.enableQueue
  repeat' first
    | with_reducible assumption
    | extract_lets
    | intro _
    | with_reducible apply Keeps.ite
    | with_reducible apply State.wf_keeps
    | with_reducible apply State.setDevState_keeps
    | with_reducible apply State.setQueue_keeps

theorem execQueueEnable_keeps {s0 : State} {view : View} {q : QueueNo} {s : State}  (hkeep : Keeps s0 s) :
    Keeps.Outcome s0 (execQueueEnable view q s) := by
  unfold execQueueEnable
  repeat' first
    | with_reducible assumption
    | extract_lets
    | intro _
    | with_reducible apply Keeps.next
    | with_reducible exact Keeps.fault
    | with_reducible exact Keeps.refused
    | with_reducible apply Keeps.ite_outcome
    | with_reducible apply Keeps.ite
    | with_reducible apply State.onWrite_keeps
    | with_reducible apply State.enableQueue_keeps

theorem State.closeWindow_keeps {s0 : State} {s : State} {reason : Nat}  (hkeep : Keeps s0 s) :
    Keeps s0 (State.closeWindow s reason) := by
  unfold State.closeWindow
  repeat' first
    | with_reducible assumption
    | extract_lets
    | intro _
    | with_reducible apply Keeps.ite
    | with_reducible apply State.wf_keeps
    | with_reducible apply State.log_keeps
    | with_reducible apply State.watchWindowShut_keeps
    | with_reducible apply State.consume_keeps
    | (fail_if_no_progress (with_reducible apply Keeps.update; rfl; rfl; first | exact Nat.le_refl _ | exact Nat.le_succ _))
    | split

theorem State.closeWindowOf_keeps {s0 : State} {s : State} {q : Nat} {reason : Nat}  (hkeep : Keeps s0 s) :
    Keeps s0 (State.closeWindowOf s q reason) := by
  unfold State.closeWindowOf
  repeat' first
    | with_reducible assumption
    | extract_lets
    | intro _
    | with_reducible apply Keeps.ite
    | with_reducible apply State.closeWindow_keeps
    | (fail_if_no_progress (with_reducible apply Keeps.update; rfl; rfl; first | exact Nat.le_refl _ | exact Nat.le_succ _))
    | split

theorem State.dropHem_keeps {s0 : State} {s : State} {t : Task}  (hkeep : Keeps s0 s) :
    Keeps s0 (State.dropHem s t) := by
  unfold State.dropHem
  repeat' first
    | with_reducible assumption
    | extract_lets
    | intro _
    | with_reducible apply Keeps.ite
    | with_reducible apply State.endHem_keeps

theorem State.disableQueue_keeps {s0 : State} {s : State} {q : Nat}  (hkeep : Keeps s0 s) :
    Keeps s0 (State.disableQueue s q) := by
  unfold State.disableQueue
  repeat' first
    | with_reducible assumption
    | extract_lets
    | intro _
    | with_reducible apply Keeps.ite
    | with_reducible apply State.wf_keeps
    | with_reducible apply State.completeAtSched_keeps
    | with_reducible apply State.settle_keeps
    | with_reducible apply State.closeWindowOf_keeps
    | with_reducible apply State.dropHem_keeps
    | with_reducible apply Keeps.foldl

theorem execQueueDisable_keeps {s0 : State} {view : View} {q : QueueNo} {s : State}  (hkeep : Keeps s0 s) :
    Keeps.Outcome s0 (execQueueDisable view q s) := by
  unfold execQueueDisable
  repeat' first
    | with_reducible assumption
    | extract_lets
    | intro _
    | with_reducible apply Keeps.next
    | with_reducible exact Keeps.fault
    | with_reducible exact Keeps.refused
    | with_reducible apply Keeps.ite_outcome
    | with_reducible apply Keeps.ite
    | with_reducible apply State.onWrite_keeps
    | with_reducible apply State.disableQueue_keeps

theorem execQueuePause_keeps {s0 : State} {view : View} {q : QueueNo} {on : Bool} {s : State}  (hkeep : Keeps s0 s) :
    Keeps.Outcome s0 (execQueuePause view q on s) := by
  unfold execQueuePause
  repeat' first
    | with_reducible assumption
    | extract_lets
    | intro _
    | with_reducible apply Keeps.next
    | with_reducible exact Keeps.fault
    | with_reducible exact Keeps.refused
    | with_reducible apply Keeps.ite_outcome
    | with_reducible apply Keeps.ite
    | with_reducible apply State.wf_keeps
    | with_reducible apply State.onWrite_keeps
    | with_reducible apply State.settle_keeps

theorem execSchedHold_keeps {s0 : State} {view : View} {on : Bool} {s : State}  (hkeep : Keeps s0 s) :
    Keeps.Outcome s0 (execSchedHold view on s) := by
  unfold execSchedHold
  repeat' first
    | with_reducible assumption
    | extract_lets
    | intro _
    | with_reducible apply Keeps.next
    | with_reducible exact Keeps.fault
    | with_reducible exact Keeps.refused
    | with_reducible apply Keeps.ite_outcome
    | with_reducible apply Keeps.ite
    | with_reducible apply State.wf_keeps
    | with_reducible apply State.onWrite_keeps
    | with_reducible apply State.settle_keeps

theorem execGraphSchedCountClear_keeps {s0 : State} {view : View} {s : State}  (hkeep : Keeps s0 s) :
    Keeps.Outcome s0 (execGraphSchedCountClear view s) := by
  unfold execGraphSchedCountClear
  repeat' first
    | with_reducible assumption
    | extract_lets
    | intro _
    | with_reducible apply Keeps.next
    | with_reducible exact Keeps.fault
    | with_reducible exact Keeps.refused
    | with_reducible apply Keeps.ite_outcome
    | with_reducible apply Keeps.ite
    | with_reducible apply State.onWrite_keeps
    | with_reducible apply State.clearCounts_keeps

theorem State.enter_keeps {s0 : State} {s : State} {t : Task}  (hkeep : Keeps s0 s) :
    Keeps s0 (State.enter s t) := by
  unfold State.enter
  repeat' first
    | with_reducible assumption
    | extract_lets
    | intro _
    | with_reducible apply Keeps.ite
    | with_reducible apply State.inc_keeps
    | with_reducible apply State.cause_keeps
    | with_reducible apply State.log_keeps
    | with_reducible apply State.complete_keeps
    | (fail_if_no_progress (with_reducible apply Keeps.update; rfl; rfl; first | exact Nat.le_refl _ | exact Nat.le_succ _))

theorem State.fetchOne_keeps {s0 : State} {s : State} {q : Nat}  (hkeep : Keeps s0 s) :
    Keeps s0 (State.fetchOne s q) := by
  unfold State.fetchOne
  repeat' first
    | with_reducible assumption
    | extract_lets
    | intro _
    | with_reducible apply Keeps.ite
    | with_reducible apply State.cacheUse_keeps
    | with_reducible apply State.wf_keeps
    | with_reducible apply State.setQueue_keeps
    | with_reducible apply State.enter_keeps

theorem State.retainLost_keeps {s0 : State} {s : State} {q : Nat} {kind : Nat}  (hkeep : Keeps s0 s) :
    Keeps s0 (State.retainLost s q kind) := by
  unfold State.retainLost
  repeat' first
    | with_reducible assumption
    | extract_lets
    | intro _
    | with_reducible apply Keeps.ite
    | with_reducible apply State.inc_keeps
    | with_reducible apply State.cause_keeps
    | with_reducible apply State.log_keeps

theorem State.giveUpOne_keeps {s0 : State} {s : State} {q : Nat}  (hkeep : Keeps s0 s) :
    Keeps s0 (State.giveUpOne s q) := by
  unfold State.giveUpOne
  repeat' first
    | with_reducible assumption
    | extract_lets
    | intro _
    | with_reducible apply Keeps.ite
    | with_reducible apply State.consume_keeps
    | with_reducible apply State.setQueue_keeps
    | with_reducible apply State.closeWindow_keeps
    | with_reducible apply State.retainLost_keeps

theorem State.giveUp_keeps {s0 : State} {s : State} {q : Nat}  (hkeep : Keeps s0 s) :
    Keeps s0 (State.giveUp s q) := by
  unfold State.giveUp
  repeat' first
    | with_reducible assumption
    | extract_lets
    | intro _
    | with_reducible apply Keeps.ite
    | with_reducible apply State.giveUpOne_keeps

theorem State.issueOne_keeps {s0 : State} {s : State} {q : Nat}  (hkeep : Keeps s0 s) :
    Keeps s0 (State.issueOne s q) := by
  unfold State.issueOne
  repeat' first
    | with_reducible assumption
    | extract_lets
    | intro _
    | with_reducible apply Keeps.ite
    | with_reducible apply Keeps.ite_fst
    | with_reducible apply State.cacheUse_keeps
    | with_reducible apply State.setQueue_keeps
    | with_reducible apply State.enter_keeps
    | (fail_if_no_progress (with_reducible apply Keeps.update; rfl; rfl; first | exact Nat.le_refl _ | exact Nat.le_succ _))
    | split

theorem State.issueMore_keeps {s0 : State} {s : State} {q : Nat}  (hkeep : Keeps s0 s) :
    Keeps s0 (State.issueMore s q) := by
  unfold State.issueMore
  repeat' first
    | with_reducible assumption
    | extract_lets
    | intro _
    | with_reducible apply Keeps.ite
    | with_reducible apply State.issueOne_keeps
    | with_reducible apply Keeps.foldl

theorem State.fetchBurst_keeps {s0 : State} {s : State} {q : Nat}  (hkeep : Keeps s0 s) :
    Keeps s0 (State.fetchBurst s q) := by
  unfold State.fetchBurst
  repeat' first
    | with_reducible assumption
    | extract_lets
    | intro _
    | with_reducible apply Keeps.ite
    | with_reducible apply State.whenFree_keeps
    | with_reducible apply State.settle_keeps
    | with_reducible apply State.fetchOne_keeps
    | with_reducible apply State.giveUp_keeps
    | with_reducible apply State.issueMore_keeps
    | with_reducible apply Keeps.foldl

theorem execDescriptorFetch_keeps {s0 : State} {q : QueueNo} {s : State}  (hkeep : Keeps s0 s) :
    Keeps.Outcome s0 (execDescriptorFetch q s) := by
  unfold execDescriptorFetch
  repeat' first
    | with_reducible assumption
    | extract_lets
    | intro _
    | with_reducible apply Keeps.next
    | with_reducible exact Keeps.fault
    | with_reducible exact Keeps.refused
    | with_reducible apply Keeps.ite_outcome
    | with_reducible apply Keeps.ite
    | with_reducible apply State.fetchBurst_keeps

theorem State.buttonWrite_keeps {s0 : State} {s : State} {view : View} {b : Nat} {isBase : Bool} {w : Word}  (hkeep : Keeps s0 s) :
    Keeps s0 (State.buttonWrite s view b isBase w) := by
  unfold State.buttonWrite
  repeat' first
    | with_reducible assumption
    | extract_lets
    | intro _
    | with_reducible apply Keeps.ite
    | with_reducible apply State.refuseButtonQuiet_keeps
    | with_reducible apply State.setBase_keeps
    | with_reducible apply State.setValue_keeps
    | with_reducible apply State.settle_keeps

theorem execButtonRegisterWrite_keeps {s0 : State} {view : View} {b : Fin 16384} {isBase : Bool} {w : Word} {s : State}  (hkeep : Keeps s0 s) :
    Keeps.Outcome s0 (execButtonRegisterWrite view b isBase w s) := by
  unfold execButtonRegisterWrite
  repeat' first
    | with_reducible assumption
    | extract_lets
    | intro _
    | with_reducible apply Keeps.next
    | with_reducible exact Keeps.fault
    | with_reducible exact Keeps.refused
    | with_reducible apply Keeps.ite_outcome
    | with_reducible apply Keeps.ite
    | with_reducible apply State.onWrite_keeps
    | with_reducible apply State.buttonWrite_keeps

theorem State.waitTimeout_keeps {s0 : State} {s : State} {t : Task}  (hkeep : Keeps s0 s) :
    Keeps s0 (State.waitTimeout s t) := by
  unfold State.waitTimeout
  repeat' first
    | with_reducible assumption
    | extract_lets
    | intro _
    | with_reducible apply Keeps.ite
    | with_reducible apply Keeps.ite_fst
    | with_reducible apply State.log_keeps
    | with_reducible apply State.completeAtSched_keeps
    | with_reducible apply State.settle_keeps

theorem execTaskWaitTimeout_keeps {s0 : State} {n : Nat} {s : State}  (hkeep : Keeps s0 s) :
    Keeps.Outcome s0 (execTaskWaitTimeout n s) := by
  unfold execTaskWaitTimeout
  repeat' first
    | with_reducible assumption
    | extract_lets
    | intro _
    | with_reducible apply Keeps.next
    | with_reducible exact Keeps.fault
    | with_reducible exact Keeps.refused
    | with_reducible apply Keeps.ite_outcome
    | with_reducible apply Keeps.ite
    | with_reducible apply State.waitTimeout_keeps
    | (fail_if_no_progress (with_reducible apply Keeps.update; rfl; rfl; first | exact Nat.le_refl _ | exact Nat.le_succ _))
    | split

theorem State.runSched_keeps {s0 : State} {s : State} {t : Task} {st : Nat} {detail : Nat}  (hkeep : Keeps s0 s) :
    Keeps s0 (State.runSched s t st detail) := by
  unfold State.runSched
  repeat' first
    | with_reducible assumption
    | extract_lets
    | intro _
    | with_reducible apply Keeps.ite
    | with_reducible apply State.finish_keeps
    | with_reducible apply State.handOver_keeps

theorem execNop_keeps {s0 : State} {n : Nat} {s : State}  (hkeep : Keeps s0 s) :
    Keeps.Outcome s0 (execNop n s) := by
  unfold execNop
  repeat' first
    | with_reducible assumption
    | extract_lets
    | intro _
    | with_reducible apply Keeps.next
    | with_reducible exact Keeps.fault
    | with_reducible exact Keeps.refused
    | with_reducible apply Keeps.ite_outcome
    | with_reducible apply Keeps.ite
    | with_reducible apply State.runSched_keeps
    | (fail_if_no_progress (with_reducible apply Keeps.update; rfl; rfl; first | exact Nat.le_refl _ | exact Nat.le_succ _))
    | split

theorem State.buttonOp1_keeps {s0 : State} {s : State} {t : Task} {o : Nat × Nat × Nat}  (hkeep : Keeps s0 s) :
    Keeps s0 (State.buttonOp1 s t o) := by
  unfold State.buttonOp1
  repeat' first
    | with_reducible assumption
    | extract_lets
    | intro _
    | with_reducible apply Keeps.ite
    | with_reducible apply Keeps.ite_fst
    | with_reducible apply State.addButton_keeps
    | with_reducible apply State.rebase_keeps
    | with_reducible apply State.rebaseRange_keeps
    | with_reducible apply State.refuseButton_keeps
    | with_reducible apply State.setBase_keeps
    | with_reducible apply State.setValue_keeps
    | (fail_if_no_progress (with_reducible apply Keeps.update; rfl; rfl; first | exact Nat.le_refl _ | exact Nat.le_succ _))
    | split

theorem execButtonOp_keeps {s0 : State} {n : Nat} {s : State}  (hkeep : Keeps s0 s) :
    Keeps.Outcome s0 (execButtonOp n s) := by
  unfold execButtonOp
  repeat' first
    | with_reducible assumption
    | extract_lets
    | intro _
    | with_reducible apply Keeps.next
    | with_reducible exact Keeps.fault
    | with_reducible exact Keeps.refused
    | with_reducible apply Keeps.ite_outcome
    | with_reducible apply Keeps.ite
    | with_reducible apply State.buttonOp1_keeps
    | with_reducible apply State.runSched_keeps
    | with_reducible apply Keeps.foldl
    | (fail_if_no_progress (with_reducible apply Keeps.update; rfl; rfl; first | exact Nat.le_refl _ | exact Nat.le_succ _))
    | split

theorem execWaitTempo_keeps {s0 : State} {n : Nat} {s : State}  (hkeep : Keeps s0 s) :
    Keeps.Outcome s0 (execWaitTempo n s) := by
  unfold execWaitTempo
  repeat' first
    | with_reducible assumption
    | extract_lets
    | intro _
    | with_reducible apply Keeps.next
    | with_reducible exact Keeps.fault
    | with_reducible exact Keeps.refused
    | with_reducible apply Keeps.ite_outcome
    | with_reducible apply Keeps.ite
    | with_reducible apply State.handOver_keeps
    | with_reducible apply State.runSched_keeps
    | (fail_if_no_progress (with_reducible apply Keeps.update; rfl; rfl; first | exact Nat.le_refl _ | exact Nat.le_succ _))
    | split

theorem execWaitTempoExpiry_keeps {s0 : State} {n : Nat} {s : State}  (hkeep : Keeps s0 s) :
    Keeps.Outcome s0 (execWaitTempoExpiry n s) := by
  unfold execWaitTempoExpiry
  repeat' first
    | with_reducible assumption
    | extract_lets
    | intro _
    | with_reducible apply Keeps.next
    | with_reducible exact Keeps.fault
    | with_reducible exact Keeps.refused
    | with_reducible apply Keeps.ite_outcome
    | with_reducible apply Keeps.ite
    | with_reducible apply State.finish_keeps
    | (fail_if_no_progress (with_reducible apply Keeps.update; rfl; rfl; first | exact Nat.le_refl _ | exact Nat.le_succ _))
    | split

theorem State.openStep_keeps {s0 : State} {s : State} {t : Task}  (hkeep : Keeps s0 s) :
    Keeps s0 (State.openStep s t) := by
  unfold State.openStep
  repeat' first
    | with_reducible assumption
    | extract_lets
    | intro _
    | with_reducible apply Keeps.ite
    | with_reducible apply State.wf64_keeps
    | with_reducible apply State.wfs_keeps
    | with_reducible apply State.watchStep_keeps
    | with_reducible apply State.setQueue_keeps
    | with_reducible apply State.closeWindow_keeps
    | with_reducible apply State.runSched_keeps
    | (fail_if_no_progress (with_reducible apply Keeps.update; rfl; rfl; first | exact Nat.le_refl _ | exact Nat.le_succ _))

theorem execStepOpen_keeps {s0 : State} {n : Nat} {s : State}  (hkeep : Keeps s0 s) :
    Keeps.Outcome s0 (execStepOpen n s) := by
  unfold execStepOpen
  repeat' first
    | with_reducible assumption
    | extract_lets
    | intro _
    | with_reducible apply Keeps.next
    | with_reducible exact Keeps.fault
    | with_reducible exact Keeps.refused
    | with_reducible apply Keeps.ite_outcome
    | with_reducible apply Keeps.ite
    | with_reducible apply State.log_keeps
    | with_reducible apply State.setQueue_keeps
    | with_reducible apply State.openStep_keeps
    | (fail_if_no_progress (with_reducible apply Keeps.update; rfl; rfl; first | exact Nat.le_refl _ | exact Nat.le_succ _))
    | split

theorem State.rebaseLayer_keeps {s0 : State} {s : State} {h : Task}  (hkeep : Keeps s0 s) :
    Keeps s0 (State.rebaseLayer s h) := by
  unfold State.rebaseLayer
  repeat' first
    | with_reducible assumption
    | extract_lets
    | intro _
    | with_reducible apply Keeps.ite
    | with_reducible apply State.rebaseRange_keeps

theorem State.closeHem_keeps {s0 : State} {s : State} {h : Task}  (hkeep : Keeps s0 s) :
    Keeps s0 (State.closeHem s h) := by
  unfold State.closeHem
  repeat' first
    | with_reducible assumption
    | extract_lets
    | intro _
    | with_reducible apply Keeps.ite
    | with_reducible apply State.rebaseLayer_keeps
    | with_reducible apply State.runSched_keeps

theorem State.issueRepeat_keeps {s0 : State} {s : State} {h : Task} {r : Rungs}  (hkeep : Keeps s0 s) :
    Keeps s0 (State.issueRepeat s h r) := by
  unfold State.issueRepeat
  repeat' first
    | with_reducible assumption
    | extract_lets
    | intro _
    | with_reducible apply Keeps.ite
    | with_reducible apply State.inc_keeps
    | with_reducible apply State.cause_keeps
    | with_reducible apply State.log_keeps
    | with_reducible apply State.setQueue_keeps
    | with_reducible apply State.settle_keeps
    | with_reducible apply State.issueMore_keeps
    | with_reducible apply State.rebaseLayer_keeps

theorem State.replayStep_keeps {s0 : State} {s : State} {h : Task} {clip : Nat} {sat : Nat}  (hkeep : Keeps s0 s) :
    Keeps s0 (State.replayStep s h clip sat) := by
  unfold State.replayStep
  repeat' first
    | with_reducible assumption
    | extract_lets
    | intro _
    | with_reducible apply Keeps.ite
    | with_reducible apply Keeps.ite_fst
    | with_reducible apply State.inc_keeps
    | with_reducible apply State.wf_keeps
    | with_reducible apply State.cause_keeps
    | with_reducible apply State.log_keeps
    | with_reducible apply State.setBase_keeps
    | with_reducible apply State.setValue_keeps
    | with_reducible apply State.replayStarted_keeps
    | with_reducible apply State.setQueue_keeps
    | with_reducible apply State.settle_keeps
    | with_reducible apply Keeps.foldl
    | with_reducible apply Keeps.foldl_fst
    | (fail_if_no_progress (with_reducible apply Keeps.update; rfl; rfl; first | exact Nat.le_refl _ | exact Nat.le_succ _))
    | split

theorem State.answerHem_keeps {s0 : State} {s : State} {h : Task} {a : Answer}  (hkeep : Keeps s0 s) :
    Keeps s0 (State.answerHem s h a) := by
  unfold State.answerHem
  repeat' first
    | with_reducible assumption
    | extract_lets
    | intro _
    | with_reducible apply Keeps.ite
    | with_reducible apply State.log_keeps
    | with_reducible apply State.endHem_keeps
    | with_reducible apply State.closeHem_keeps
    | with_reducible apply State.issueRepeat_keeps
    | with_reducible apply State.replayStep_keeps
    | (fail_if_no_progress (with_reducible apply Keeps.update; rfl; rfl; first | exact Nat.le_refl _ | exact Nat.le_succ _))
    | split

theorem State.runHem_keeps {s0 : State} {s : State} {h : Task}  (hkeep : Keeps s0 s) :
    Keeps s0 (State.runHem s h) := by
  unfold State.runHem
  repeat' first
    | with_reducible assumption
    | extract_lets
    | intro _
    | with_reducible apply Keeps.ite
    | with_reducible apply Keeps.ite_fst
    | with_reducible apply State.whenFree_keeps
    | with_reducible apply State.askWatch_keeps
    | with_reducible apply State.answerHem_keeps
    | with_reducible apply State.closeHem_keeps
    | (fail_if_no_progress (with_reducible apply Keeps.update; rfl; rfl; first | exact Nat.le_refl _ | exact Nat.le_succ _))
    | split

theorem execHem_keeps {s0 : State} {n : Nat} {s : State}  (hkeep : Keeps s0 s) :
    Keeps.Outcome s0 (execHem n s) := by
  unfold execHem
  repeat' first
    | with_reducible assumption
    | extract_lets
    | intro _
    | with_reducible apply Keeps.next
    | with_reducible exact Keeps.fault
    | with_reducible exact Keeps.refused
    | with_reducible apply Keeps.ite_outcome
    | with_reducible apply Keeps.ite
    | with_reducible apply State.runHem_keeps
    | (fail_if_no_progress (with_reducible apply Keeps.update; rfl; rfl; first | exact Nat.le_refl _ | exact Nat.le_succ _))
    | split

end Sys2Proof.Machine
end

