-- ==== Sys2Proof/Laws/KeepsArbiter.lean ====
section
/-! SUPPORT. The operations of Machine/Arbiter.lean keep what every command keeps. -/

namespace Sys2Proof.Machine

theorem State.showGrants_keeps {s0 : State} {s : State}  (hkeep : Keeps s0 s) :
    Keeps s0 (State.showGrants s) := by
  unfold State.showGrants
  repeat' first
    | with_reducible assumption
    | extract_lets
    | intro _
    | with_reducible apply Keeps.ite
    | with_reducible apply State.wf_keeps

theorem State.askGrant_keeps {s0 : State} {s : State} {cls : Nat} {dies : List Nat} {owner : Nat}  (hkeep : Keeps s0 s) :
    Keeps s0 (State.askGrant s cls dies owner).1 := by
  unfold State.askGrant
  repeat' first
    | with_reducible assumption
    | extract_lets
    | intro _
    | with_reducible apply Keeps.ite
    | with_reducible apply Keeps.ite_fst
    | with_reducible apply State.inc_keeps
    | with_reducible apply State.wf_keeps
    | with_reducible apply State.cause_keeps
    | with_reducible apply State.log_keeps
    | with_reducible apply State.showGrants_keeps
    | (fail_if_no_progress (with_reducible apply Keeps.update; rfl; rfl; first | exact Nat.le_refl _ | exact Nat.le_succ _))
    | split

theorem State.release_keeps {s0 : State} {s : State} {cls : Nat} {owner : Nat}  (hkeep : Keeps s0 s) :
    Keeps s0 (State.release s cls owner) := by
  unfold State.release
  repeat' first
    | with_reducible assumption
    | extract_lets
    | intro _
    | with_reducible apply Keeps.ite
    | with_reducible apply State.showGrants_keeps
    | (fail_if_no_progress (with_reducible apply Keeps.update; rfl; rfl; first | exact Nat.le_refl _ | exact Nat.le_succ _))

end Sys2Proof.Machine
end

