-- ==== Sys2Proof/Laws/KeepsArrays.lean ====
section
/-! SUPPORT. The operations of Machine/Arrays.lean keep what every command keeps. -/

namespace Sys2Proof.Machine

theorem State.setPanel_keeps {s0 : State} {s : State} {page : Nat} {p : Panel}  (hkeep : Keeps s0 s) :
    Keeps s0 (State.setPanel s page p) := by
  unfold State.setPanel
  repeat' first
    | with_reducible assumption
    | extract_lets
    | intro _
    | with_reducible apply Keeps.ite
    | (fail_if_no_progress (with_reducible apply Keeps.update; rfl; rfl; first | exact Nat.le_refl _ | exact Nat.le_succ _))

theorem State.setContent_keeps {s0 : State} {s : State} {page : Nat} {v : Nat}  (hkeep : Keeps s0 s) :
    Keeps s0 (State.setContent s page v) := by
  unfold State.setContent
  repeat' first
    | with_reducible assumption
    | extract_lets
    | intro _
    | with_reducible apply Keeps.ite
    | with_reducible apply State.wf_keeps

theorem State.invalidate_keeps {s0 : State} {s : State} {page : Nat}  (hkeep : Keeps s0 s) :
    Keeps s0 (State.invalidate s page) := by
  unfold State.invalidate
  repeat' first
    | with_reducible assumption
    | extract_lets
    | intro _
    | with_reducible apply Keeps.ite
    | with_reducible apply State.wf_keeps
    | with_reducible apply State.setContent_keeps
    | with_reducible apply State.setPanel_keeps

theorem State.setAlias_keeps {s0 : State} {s : State} {n : Nat} {l : Nat} {v : Nat}  (hkeep : Keeps s0 s) :
    Keeps s0 (State.setAlias s n l v) := by
  unfold State.setAlias
  repeat' first
    | with_reducible assumption
    | extract_lets
    | intro _
    | with_reducible apply Keeps.ite
    | with_reducible apply State.wf_keeps

theorem State.countDie_keeps {s0 : State} {s : State} {n : Nat}  (hkeep : Keeps s0 s) :
    Keeps s0 (State.countDie s n) := by
  unfold State.countDie
  repeat' first
    | with_reducible assumption
    | extract_lets
    | intro _
    | with_reducible apply Keeps.ite
    | with_reducible apply State.wfs_keeps

theorem State.showBank_keeps {s0 : State} {s : State} {page : Nat} {t : Int}  (hkeep : Keeps s0 s) :
    Keeps s0 (State.showBank s page t) := by
  unfold State.showBank
  repeat' first
    | with_reducible assumption
    | extract_lets
    | intro _
    | with_reducible apply Keeps.ite
    | with_reducible apply State.wf_keeps

theorem State.swapBank_keeps {s0 : State} {s : State} {page : Nat}  (hkeep : Keeps s0 s) :
    Keeps s0 (State.swapBank s page) := by
  unfold State.swapBank
  repeat' first
    | with_reducible assumption
    | extract_lets
    | intro _
    | with_reducible apply Keeps.ite
    | with_reducible apply State.wf_keeps
    | with_reducible apply State.setPanel_keeps
    | with_reducible apply State.showBank_keeps
    | (fail_if_no_progress (with_reducible apply Keeps.update; rfl; rfl; first | exact Nat.le_refl _ | exact Nat.le_succ _))
    | split

theorem State.newTemperature_keeps {s0 : State} {s : State} {n : Nat} {t : Int}  (hkeep : Keeps s0 s) :
    Keeps s0 (State.newTemperature s n t) := by
  unfold State.newTemperature
  repeat' first
    | with_reducible assumption
    | extract_lets
    | intro _
    | with_reducible apply Keeps.ite
    | with_reducible apply State.wf_keeps
    | with_reducible apply State.log_keeps
    | with_reducible apply State.setPanel_keeps
    | with_reducible apply Keeps.foldl

theorem State.holdTables_keeps {s0 : State} {s : State} {n : Nat} {last : Int}  (hkeep : Keeps s0 s) :
    Keeps s0 (State.holdTables s n last) := by
  unfold State.holdTables
  repeat' first
    | with_reducible assumption
    | extract_lets
    | intro _
    | with_reducible apply Keeps.ite
    | with_reducible apply State.wf_keeps
    | with_reducible apply State.cause_keeps
    | with_reducible apply State.log_keeps
    | with_reducible apply Keeps.foldl

end Sys2Proof.Machine
end

