-- ==== Sys2Proof/Laws/KeepsArrayRead.lean ====
section
/-! SUPPORT. The operations of Machine/ArrayRead.lean keep what every command keeps. -/

namespace Sys2Proof.Machine

theorem Keeps.foldl_putacc {α : Type} {s0 : State} {m : PutAcc} {l : List α} {f : PutAcc → α → PutAcc} (h : Keeps s0 m.state)
    (hf : ∀ t x, Keeps s0 t.state → Keeps s0 (f t x).state) : Keeps s0 (l.foldl f m).state := by
  induction l generalizing m with
  | nil => exact h
  | cons x t ih => exact ih (hf m x h)

theorem Keeps.ite_putacc {s0 : State} {c : Prop} [Decidable c] {a b : PutAcc} (ha : Keeps s0 a.state) (hb : Keeps s0 b.state) :
    Keeps s0 (if c then a else b).state := by
  split
  · exact ha
  · exact hb

theorem State.panelCounts_keeps {s0 : State} {s : State} {page : Nat} {c : ConvCount} {skipped : Nat} {added : Nat} {outl : Nat} {ovf : Nat} {reread : Nat}  (hkeep : Keeps s0 s) :
    Keeps s0 (State.panelCounts s page c skipped added outl ovf reread) := by
  unfold State.panelCounts
  repeat' first
    | with_reducible assumption
    | extract_lets
    | intro _
    | with_reducible apply Keeps.ite
    | with_reducible apply State.inc64_keeps
    | with_reducible apply State.incBy_keeps
    | with_reducible apply State.cause_keeps

theorem State.setArrayRun_keeps {s0 : State} {s : State} {r : ArrayRun}  (hkeep : Keeps s0 s) :
    Keeps s0 (State.setArrayRun s r) := by
  unfold State.setArrayRun
  repeat' first
    | with_reducible assumption
    | extract_lets
    | intro _
    | with_reducible apply Keeps.ite
    | (fail_if_no_progress (with_reducible apply Keeps.update; rfl; rfl; first | exact Nat.le_refl _ | exact Nat.le_succ _))

theorem State.readToken_keeps {s0 : State} {s : State} {t : Task} {r : ArrayRun} {pl : Place} {f : Fmt} {e : Nat} {token : Nat} {blocks : List (List Int × Nat)}  (hkeep : Keeps s0 s) :
    Keeps s0 (State.readToken s t r pl f e token blocks).1 := by
  unfold State.readToken
  repeat' first
    | with_reducible assumption
    | extract_lets
    | intro _
    | with_reducible apply Keeps.ite
    | with_reducible apply Keeps.ite_fst
    | with_reducible apply State.panelCounts_keeps
    | (fail_if_no_progress (with_reducible apply Keeps.update; rfl; rfl; first | exact Nat.le_refl _ | exact Nat.le_succ _))

theorem State.noteStop_keeps {s0 : State} {s : State} {t : Task} {r : ArrayRun} {pl : Place} {e : Nat} {token : Nat} {stop : Stop}  (hkeep : Keeps s0 s) :
    Keeps s0 (State.noteStop s t r pl e token stop).1 := by
  unfold State.noteStop
  repeat' first
    | with_reducible assumption
    | extract_lets
    | intro _
    | with_reducible apply Keeps.ite
    | with_reducible apply Keeps.ite_fst
    | with_reducible apply State.inc_keeps
    | with_reducible apply State.accessFault_keeps
    | with_reducible apply State.cause_keeps
    | with_reducible apply State.err_keeps
    | with_reducible apply State.log_keeps
    | (fail_if_no_progress (with_reducible apply Keeps.update; rfl; rfl; first | exact Nat.le_refl _ | exact Nat.le_succ _))
    | split

theorem State.putRanges_keeps {s0 : State} {s : State} {ws : List (Nat × List Byte)}  (hkeep : Keeps s0 s) :
    Keeps s0 (State.putRanges s ws).1 := by
  unfold State.putRanges
  repeat' first
    | with_reducible assumption
    | extract_lets
    | intro _
    | with_reducible apply Keeps.ite
    | with_reducible apply Keeps.ite_fst
    | with_reducible apply State.store_keeps
    | with_reducible apply Keeps.foldl
    | with_reducible apply Keeps.foldl_fst

theorem PutAcc.put_keeps {s0 : State} {a : PutAcc} {p : OutPart}  (hkeep : Keeps s0 a.state) :
    Keeps s0 (PutAcc.put a p).state := by
  unfold PutAcc.put
  repeat' first
    | with_reducible assumption
    | extract_lets
    | intro _
    | with_reducible apply Keeps.ite
    | with_reducible apply Keeps.ite_fst
    | with_reducible apply State.put_keeps
    | with_reducible apply State.sealFail_keeps
    | with_reducible apply State.putRanges_keeps
    | with_reducible apply Keeps.foldl_putacc
    | with_reducible apply Keeps.ite_putacc
    | with_reducible apply Keeps.foldl
    | with_reducible apply Keeps.foldl_fst
    | (fail_if_no_progress (with_reducible apply Keeps.update; rfl; rfl; first | exact Nat.le_refl _ | exact Nat.le_succ _))
    | split

theorem State.dropToken_keeps {s0 : State} {s : State} {task : Nat} {token : Nat}  (hkeep : Keeps s0 s) :
    Keeps s0 (State.dropToken s task token) := by
  unfold State.dropToken
  repeat' first
    | with_reducible assumption
    | extract_lets
    | intro _
    | with_reducible apply Keeps.ite
    | (fail_if_no_progress (with_reducible apply Keeps.update; rfl; rfl; first | exact Nat.le_refl _ | exact Nat.le_succ _))

theorem State.endArray_keeps {s0 : State} {s : State} {t : Task} {r : ArrayRun}  (hkeep : Keeps s0 s) :
    Keeps s0 (State.endArray s t r) := by
  unfold State.endArray
  repeat' first
    | with_reducible assumption
    | extract_lets
    | intro _
    | with_reducible apply Keeps.ite
    | with_reducible apply State.endTask_keeps
    | (fail_if_no_progress (with_reducible apply Keeps.update; rfl; rfl; first | exact Nat.le_refl _ | exact Nat.le_succ _))
    | split

theorem State.tokenDone_keeps {s0 : State} {s : State} {t : Task} {pl : Place} {fi : Fmt} {fo : Fmt} {r : ArrayRun}  (hkeep : Keeps s0 s) :
    Keeps s0 (State.tokenDone s t pl fi fo r).1 := by
  unfold State.tokenDone
  repeat' first
    | with_reducible assumption
    | extract_lets
    | intro _
    | with_reducible apply Keeps.ite
    | with_reducible apply Keeps.ite_fst
    | with_reducible apply State.put_keeps
    | with_reducible apply PutAcc.put_keeps
    | with_reducible apply State.dropToken_keeps
    | with_reducible apply State.noteStop_keeps
    | with_reducible apply Keeps.foldl_putacc
    | with_reducible apply Keeps.ite_putacc
    | with_reducible apply Keeps.foldl
    | with_reducible apply Keeps.foldl_fst
    | (fail_if_no_progress (with_reducible apply Keeps.update; rfl; rfl; first | exact Nat.le_refl _ | exact Nat.le_succ _))
    | split

theorem State.advanceFor_keeps {s0 : State} {fuel : Nat} {s : State} {t : Task} {pl : Place} {fi : Fmt} {fo : Fmt} {r : ArrayRun}  (hkeep : Keeps s0 s) :
    Keeps s0 (State.advanceFor fuel s t pl fi fo r) := by
  induction fuel generalizing s t pl fi fo r with
  | zero =>
   unfold State.advanceFor
   first | exact hkeep | (with_reducible apply State.setArrayRun_keeps; exact hkeep)
  | succ k ih =>
   unfold State.advanceFor
   repeat' first
    | with_reducible assumption
    | with_reducible apply ih
    | extract_lets
    | intro _
    | with_reducible apply Keeps.ite
    | with_reducible apply Keeps.ite_fst
    | with_reducible apply State.endArray_keeps
    | with_reducible apply State.setArrayRun_keeps
    | with_reducible apply State.tokenDone_keeps
    | (fail_if_no_progress (with_reducible apply Keeps.update; rfl; rfl; first | exact Nat.le_refl _ | exact Nat.le_succ _))

theorem State.advance_keeps {s0 : State} {s : State} {t : Task} {r : ArrayRun}  (hkeep : Keeps s0 s) :
    Keeps s0 (State.advance s t r) := by
  unfold State.advance
  repeat' first
    | with_reducible assumption
    | extract_lets
    | intro _
    | with_reducible apply Keeps.ite
    | with_reducible apply State.advanceFor_keeps
    | with_reducible apply State.setArrayRun_keeps
    | (fail_if_no_progress (with_reducible apply Keeps.update; rfl; rfl; first | exact Nat.le_refl _ | exact Nat.le_succ _))
    | split

theorem State.readEntry_keeps {s0 : State} {s : State} {t : Task} {pl : Place} {fi : Fmt} {r : ArrayRun} {e : Nat}  (hkeep : Keeps s0 s) :
    Keeps s0 (State.readEntry s t pl fi r e).1 := by
  unfold State.readEntry
  repeat' first
    | with_reducible assumption
    | extract_lets
    | intro _
    | with_reducible apply Keeps.ite
    | with_reducible apply Keeps.ite_fst
    | with_reducible apply State.readChecked_keeps
    | with_reducible apply State.noteStop_keeps
    | with_reducible apply State.readToken_keeps
    | with_reducible apply Keeps.foldl
    | with_reducible apply Keeps.foldl_fst
    | (fail_if_no_progress (with_reducible apply Keeps.update; rfl; rfl; first | exact Nat.le_refl _ | exact Nat.le_succ _))
    | split
    | dsimp +zetaDelta only

theorem State.holdPage_keeps {s0 : State} {s : State} {n : Nat} {page : Nat}  (hkeep : Keeps s0 s) :
    Keeps s0 (State.holdPage s n page) := by
  unfold State.holdPage
  repeat' first
    | with_reducible assumption
    | extract_lets
    | intro _
    | with_reducible apply Keeps.ite
    | (fail_if_no_progress (with_reducible apply Keeps.update; rfl; rfl; first | exact Nat.le_refl _ | exact Nat.le_succ _))

theorem State.readOperands_keeps {s0 : State} {s : State} {t : Task} {r : ArrayRun} {pl : Place} {e : Nat}  (hkeep : Keeps s0 s) :
    Keeps s0 (State.readOperands s t r pl e).1 := by
  unfold State.readOperands
  repeat' first
    | with_reducible assumption
    | extract_lets
    | intro _
    | with_reducible apply Keeps.ite
    | with_reducible apply Keeps.ite_fst
    | with_reducible apply State.cacheUse_keeps
    | with_reducible apply State.check_keeps
    | with_reducible apply State.noteStop_keeps
    | (fail_if_no_progress (with_reducible apply Keeps.update; rfl; rfl; first | exact Nat.le_refl _ | exact Nat.le_succ _))
    | split

theorem State.startEntry_keeps {s0 : State} {s : State} {t : Task} {fi : Fmt} {r : ArrayRun} {e : Nat}  (hkeep : Keeps s0 s) :
    Keeps s0 (State.startEntry s t fi r e).1 := by
  unfold State.startEntry
  repeat' first
    | with_reducible assumption
    | extract_lets
    | intro _
    | with_reducible apply Keeps.ite
    | with_reducible apply Keeps.ite_fst
    | with_reducible apply State.cause_keeps
    | with_reducible apply State.log_keeps
    | with_reducible apply State.swapBank_keeps
    | with_reducible apply State.holdPage_keeps
    | with_reducible apply State.readEntry_keeps
    | with_reducible apply State.readOperands_keeps

theorem State.tryEntry_keeps {s0 : State} {n : Nat} {s : State} {e : Nat}  (hkeep : Keeps s0 s) :
    Keeps s0 (State.tryEntry n s e) := by
  unfold State.tryEntry
  repeat' first
    | with_reducible assumption
    | extract_lets
    | intro _
    | with_reducible apply Keeps.ite
    | with_reducible apply Keeps.ite_fst
    | with_reducible apply State.setArrayRun_keeps
    | with_reducible apply State.startEntry_keeps
    | (fail_if_no_progress (with_reducible apply Keeps.update; rfl; rfl; first | exact Nat.le_refl _ | exact Nat.le_succ _))
    | split

theorem State.startArray_keeps {s0 : State} {s : State} {n : Nat}  (hkeep : Keeps s0 s) :
    Keeps s0 (State.startArray s n) := by
  unfold State.startArray
  repeat' first
    | with_reducible assumption
    | extract_lets
    | intro _
    | with_reducible apply Keeps.ite
    | with_reducible apply State.advance_keeps
    | with_reducible apply State.tryEntry_keeps
    | with_reducible apply Keeps.foldl
    | (fail_if_no_progress (with_reducible apply Keeps.update; rfl; rfl; first | exact Nat.le_refl _ | exact Nat.le_succ _))
    | split

theorem State.handArray_keeps {s0 : State} {s : State} {t : Task} {unit : Nat} {place : List Byte} {rev : Bool} {fo : Fmt}  (hkeep : Keeps s0 s) :
    Keeps s0 (State.handArray s t unit place rev fo) := by
  unfold State.handArray
  repeat' first
    | with_reducible assumption
    | extract_lets
    | intro _
    | with_reducible apply Keeps.ite
    | with_reducible apply State.notePrepass_keeps
    | with_reducible apply State.handOver_keeps
    | with_reducible apply State.startArray_keeps
    | (fail_if_no_progress (with_reducible apply Keeps.update; rfl; rfl; first | exact Nat.le_refl _ | exact Nat.le_succ _))

theorem State.dispatchArray_keeps {s0 : State} {s : State} {t : Task} {rev : Bool}  (hkeep : Keeps s0 s) :
    Keeps s0 (State.dispatchArray s t rev) := by
  unfold State.dispatchArray
  repeat' first
    | with_reducible assumption
    | extract_lets
    | intro _
    | with_reducible apply Keeps.ite
    | with_reducible apply State.cacheUse_keeps
    | with_reducible apply State.check_keeps
    | with_reducible apply State.faultTask_keeps
    | with_reducible apply State.refuseTask_keeps
    | with_reducible apply State.handArray_keeps
    | (fail_if_no_progress (with_reducible apply Keeps.update; rfl; rfl; first | exact Nat.le_refl _ | exact Nat.le_succ _))
    | split

theorem State.onArrayDies_keeps {s0 : State} {s : State} {pl : Place} {k : State → State} (hk : ∀ y0, Keeps s0 y0 → Keeps s0 (k y0)) (hkeep : Keeps s0 s) :
    Keeps.Outcome s0 (State.onArrayDies s pl k) := by
  unfold State.onArrayDies
  repeat' first
    | with_reducible assumption
    | extract_lets
    | intro _
    | with_reducible apply Keeps.next
    | with_reducible exact Keeps.fault
    | with_reducible exact Keeps.refused
    | with_reducible apply Keeps.ite_outcome
    | with_reducible apply Keeps.ite
    | with_reducible apply hk
    | (fail_if_no_progress (with_reducible apply Keeps.update; rfl; rfl; first | exact Nat.le_refl _ | exact Nat.le_succ _))
    | split

theorem State.runArray_keeps {s0 : State} {s : State} {n : Nat} {type : Nat} {rev : Bool}  (hkeep : Keeps s0 s) :
    Keeps.Outcome s0 (State.runArray s n type rev) := by
  unfold State.runArray
  repeat' first
    | with_reducible assumption
    | extract_lets
    | intro _
    | with_reducible apply Keeps.next
    | with_reducible exact Keeps.fault
    | with_reducible exact Keeps.refused
    | with_reducible apply Keeps.ite_outcome
    | with_reducible apply Keeps.ite
    | with_reducible apply State.whenFree_keeps
    | with_reducible apply State.dispatchArray_keeps
    | with_reducible apply State.onArrayDies_keeps
    | with_reducible apply State.startArray_keeps
    | (fail_if_no_progress (with_reducible apply Keeps.update; rfl; rfl; first | exact Nat.le_refl _ | exact Nat.le_succ _))
    | split

theorem execArrayFwd_keeps {s0 : State} {n : Nat} {s : State}  (hkeep : Keeps s0 s) :
    Keeps.Outcome s0 (execArrayFwd n s) := by
  unfold execArrayFwd
  repeat' first
    | with_reducible assumption
    | extract_lets
    | intro _
    | with_reducible apply Keeps.next
    | with_reducible exact Keeps.fault
    | with_reducible exact Keeps.refused
    | with_reducible apply Keeps.ite_outcome
    | with_reducible apply Keeps.ite
    | with_reducible apply State.runArray_keeps

theorem execArrayRev_keeps {s0 : State} {n : Nat} {s : State}  (hkeep : Keeps s0 s) :
    Keeps.Outcome s0 (execArrayRev n s) := by
  unfold execArrayRev
  repeat' first
    | with_reducible assumption
    | extract_lets
    | intro _
    | with_reducible apply Keeps.next
    | with_reducible exact Keeps.fault
    | with_reducible exact Keeps.refused
    | with_reducible apply Keeps.ite_outcome
    | with_reducible apply Keeps.ite
    | with_reducible apply State.runArray_keeps

theorem State.addPartial_keeps {s0 : State} {s : State} {t : Task} {r : ArrayRun} {group : Nat} {token : Nat} {receiver : Nat} {sealOk : Bool}  (hkeep : Keeps s0 s) :
    Keeps s0 (State.addPartial s t r group token receiver sealOk) := by
  unfold State.addPartial
  repeat' first
    | with_reducible assumption
    | extract_lets
    | intro _
    | with_reducible apply Keeps.ite
    | with_reducible apply State.cause_keeps
    | with_reducible apply State.err_keeps
    | with_reducible apply State.log_keeps
    | with_reducible apply State.advance_keeps
    | (fail_if_no_progress (with_reducible apply Keeps.update; rfl; rfl; first | exact Nat.le_refl _ | exact Nat.le_succ _))
    | split

theorem execCrossPanelPartial_keeps {s0 : State} {n : Nat} {group : Nat} {token : Nat} {receiver : Nat} {sealOk : Bool} {s : State}  (hkeep : Keeps s0 s) :
    Keeps.Outcome s0 (execCrossPanelPartial n group token receiver sealOk s) := by
  unfold execCrossPanelPartial
  repeat' first
    | with_reducible assumption
    | extract_lets
    | intro _
    | with_reducible apply Keeps.next
    | with_reducible exact Keeps.fault
    | with_reducible exact Keeps.refused
    | with_reducible apply Keeps.ite_outcome
    | with_reducible apply Keeps.ite
    | with_reducible apply State.addPartial_keeps
    | (fail_if_no_progress (with_reducible apply Keeps.update; rfl; rfl; first | exact Nat.le_refl _ | exact Nat.le_succ _))
    | split

theorem State.arrayMeasured_keeps {s0 : State} {s : State} {t : Task} {r : ArrayRun}  (hkeep : Keeps s0 s) :
    Keeps s0 (State.arrayMeasured s t r) := by
  unfold State.arrayMeasured
  repeat' first
    | with_reducible assumption
    | extract_lets
    | intro _
    | with_reducible apply Keeps.ite
    | with_reducible apply Keeps.ite_fst
    | with_reducible apply State.measureSlot_keeps
    | with_reducible apply State.advance_keeps
    | with_reducible apply State.readEntry_keeps
    | with_reducible apply State.setArrayRun_keeps
    | with_reducible apply Keeps.foldl
    | with_reducible apply Keeps.foldl_fst
    | (fail_if_no_progress (with_reducible apply Keeps.update; rfl; rfl; first | exact Nat.le_refl _ | exact Nat.le_succ _))
    | split

end Sys2Proof.Machine
end

