-- ==== Sys2Proof/Laws/KeepsLoad.lean ====
section
/-! SUPPORT. The operations of Machine/Load.lean keep what every command keeps. -/

namespace Sys2Proof.Machine

theorem State.wearEntry_keeps {s0 : State} {s : State} {page : Nat}  (hkeep : Keeps s0 s) :
    Keeps s0 (State.wearEntry s page) := by
  unfold State.wearEntry
  repeat' first
    | with_reducible assumption
    | extract_lets
    | intro _
    | with_reducible apply Keeps.ite
    | with_reducible apply State.logFirm_keeps
    | with_reducible apply State.setPanel_keeps

theorem State.warnWear_keeps {s0 : State} {s : State} {page : Nat}  (hkeep : Keeps s0 s) :
    Keeps s0 (State.warnWear s page) := by
  unfold State.warnWear
  repeat' first
    | with_reducible assumption
    | extract_lets
    | intro _
    | with_reducible apply Keeps.ite
    | with_reducible apply State.cause_keeps
    | with_reducible apply State.log_keeps
    | with_reducible apply State.setPanel_keeps

theorem State.raiseWrites_keeps {s0 : State} {s : State} {page : Nat}  (hkeep : Keeps s0 s) :
    Keeps s0 (State.raiseWrites s page) := by
  unfold State.raiseWrites
  repeat' first
    | with_reducible assumption
    | extract_lets
    | intro _
    | with_reducible apply Keeps.ite
    | with_reducible apply State.inc64_keeps
    | with_reducible apply State.warnWear_keeps
    | with_reducible apply State.wearEntry_keeps

theorem State.mapLoadRun_keeps {s0 : State} {s : State} {n : Nat} {f : LoadRun → LoadRun}  (hkeep : Keeps s0 s) :
    Keeps s0 (State.mapLoadRun s n f) := by
  unfold State.mapLoadRun
  repeat' first
    | with_reducible assumption
    | extract_lets
    | intro _
    | with_reducible apply Keeps.ite
    | (fail_if_no_progress (with_reducible apply Keeps.update; rfl; rfl; first | exact Nat.le_refl _ | exact Nat.le_succ _))

theorem State.setLoad_keeps {s0 : State} {s : State} {l : Load}  (hkeep : Keeps s0 s) :
    Keeps s0 (State.setLoad s l) := by
  unfold State.setLoad
  repeat' first
    | with_reducible assumption
    | extract_lets
    | intro _
    | with_reducible apply Keeps.ite
    | (fail_if_no_progress (with_reducible apply Keeps.update; rfl; rfl; first | exact Nat.le_refl _ | exact Nat.le_succ _))

theorem State.dropLoad_keeps {s0 : State} {s : State} {page : Nat}  (hkeep : Keeps s0 s) :
    Keeps s0 (State.dropLoad s page) := by
  unfold State.dropLoad
  repeat' first
    | with_reducible assumption
    | extract_lets
    | intro _
    | with_reducible apply Keeps.ite
    | with_reducible apply State.wf_keeps
    | (fail_if_no_progress (with_reducible apply Keeps.update; rfl; rfl; first | exact Nat.le_refl _ | exact Nat.le_succ _))
    | split

theorem State.recordImage_keeps {s0 : State} {s : State} {page : Nat} {image : Nat} {tile : Nat} {f : Nat}  (hkeep : Keeps s0 s) :
    Keeps s0 (State.recordImage s page image tile f) := by
  unfold State.recordImage
  repeat' first
    | with_reducible assumption
    | extract_lets
    | intro _
    | with_reducible apply Keeps.ite
    | with_reducible apply State.wf_keeps
    | with_reducible apply State.wf64_keeps

theorem State.startFull_keeps {s0 : State} {s : State} {l : Load}  (hkeep : Keeps s0 s) :
    Keeps s0 (State.startFull s l) := by
  unfold State.startFull
  repeat' first
    | with_reducible assumption
    | extract_lets
    | intro _
    | with_reducible apply Keeps.ite
    | with_reducible apply State.setContent_keeps
    | with_reducible apply State.setPanel_keeps
    | with_reducible apply State.raiseWrites_keeps
    | with_reducible apply State.recordImage_keeps
    | (fail_if_no_progress (with_reducible apply Keeps.update; rfl; rfl; first | exact Nat.le_refl _ | exact Nat.le_succ _))

theorem State.setCastle_keeps {s0 : State} {s : State} {n : Nat} {c : Castle}  (hkeep : Keeps s0 s) :
    Keeps s0 (State.setCastle s n c) := by
  unfold State.setCastle
  repeat' first
    | with_reducible assumption
    | extract_lets
    | intro _
    | with_reducible apply Keeps.ite
    | with_reducible apply State.wfs_keeps
    | (fail_if_no_progress (with_reducible apply Keeps.update; rfl; rfl; first | exact Nat.le_refl _ | exact Nat.le_succ _))

theorem State.tryEndLoad_keeps {s0 : State} {s : State} {n : Nat}  (hkeep : Keeps s0 s) :
    Keeps s0 (State.tryEndLoad s n) := by
  unfold State.tryEndLoad
  repeat' first
    | with_reducible assumption
    | extract_lets
    | intro _
    | with_reducible apply Keeps.ite
    | with_reducible apply State.endTask_keeps
    | (fail_if_no_progress (with_reducible apply Keeps.update; rfl; rfl; first | exact Nat.le_refl _ | exact Nat.le_succ _))
    | split

theorem State.endLoads_keeps {s0 : State} {s : State}  (hkeep : Keeps s0 s) :
    Keeps s0 (State.endLoads s) := by
  unfold State.endLoads
  repeat' first
    | with_reducible assumption
    | extract_lets
    | intro _
    | with_reducible apply Keeps.ite
    | with_reducible apply State.tryEndLoad_keeps
    | with_reducible apply Keeps.foldl

theorem State.loseLogical_keeps {s0 : State} {key : Nat} {source : Nat} {s : State} {n : Nat}  (hkeep : Keeps s0 s) :
    Keeps s0 (State.loseLogical key source s n) := by
  unfold State.loseLogical
  repeat' first
    | with_reducible assumption
    | extract_lets
    | intro _
    | with_reducible apply Keeps.ite
    | with_reducible apply State.advance_keeps
    | with_reducible apply State.mapLoadRun_keeps
    | with_reducible apply State.tryEndLoad_keeps
    | (fail_if_no_progress (with_reducible apply Keeps.update; rfl; rfl; first | exact Nat.le_refl _ | exact Nat.le_succ _))
    | split

theorem State.exhaust_keeps {s0 : State} {s : State} {n : Nat} {l : Nat} {source : Nat}  (hkeep : Keeps s0 s) :
    Keeps s0 (State.exhaust s n l source) := by
  unfold State.exhaust
  repeat' first
    | with_reducible assumption
    | extract_lets
    | intro _
    | with_reducible apply Keeps.ite
    | with_reducible apply State.wf_keeps
    | with_reducible apply State.whenSome_keeps
    | with_reducible apply State.cause_keeps
    | with_reducible apply State.log_keeps
    | with_reducible apply State.countDie_keeps
    | with_reducible apply State.setAlias_keeps
    | with_reducible apply State.setContent_keeps
    | with_reducible apply State.endLoads_keeps
    | with_reducible apply State.loseLogical_keeps
    | with_reducible apply State.mapLoadRun_keeps
    | with_reducible apply Keeps.foldl

theorem State.nextCastle_keeps {s0 : State} {fuel : Nat} {s : State} {n : Nat}  (hkeep : Keeps s0 s) :
    Keeps s0 (State.nextCastle fuel s n) := by
  induction fuel generalizing s n with
  | zero =>
   unfold State.nextCastle
   first | exact hkeep | (with_reducible apply State.setArrayRun_keeps; exact hkeep)
  | succ k ih =>
   unfold State.nextCastle
   repeat' first
    | with_reducible assumption
    | with_reducible apply ih
    | extract_lets
    | intro _
    | with_reducible apply Keeps.ite
    | with_reducible apply State.log_keeps
    | with_reducible apply State.exhaust_keeps
    | with_reducible apply State.setCastle_keeps
    | (fail_if_no_progress (with_reducible apply Keeps.update; rfl; rfl; first | exact Nat.le_refl _ | exact Nat.le_succ _))
    | split
    | dsimp +zetaDelta only

theorem State.startFill_keeps {s0 : State} {s : State} {n : Nat} {c : Castle}  (hkeep : Keeps s0 s) :
    Keeps s0 (State.startFill s n c) := by
  unfold State.startFill
  repeat' first
    | with_reducible assumption
    | extract_lets
    | intro _
    | with_reducible apply Keeps.ite
    | with_reducible apply Keeps.ite_fst
    | with_reducible apply State.startFull_keeps

theorem State.respare_keeps {s0 : State} {s : State} {n : Nat} {c : Castle}  (hkeep : Keeps s0 s) :
    Keeps s0 (State.respare s n c) := by
  unfold State.respare
  repeat' first
    | with_reducible assumption
    | extract_lets
    | intro _
    | with_reducible apply Keeps.ite
    | with_reducible apply State.log_keeps
    | with_reducible apply State.release_keeps
    | with_reducible apply State.endLoads_keeps
    | with_reducible apply State.exhaust_keeps
    | with_reducible apply State.nextCastle_keeps
    | with_reducible apply State.setCastle_keeps
    | with_reducible apply State.startFill_keeps
    | (fail_if_no_progress (with_reducible apply Keeps.update; rfl; rfl; first | exact Nat.le_refl _ | exact Nat.le_succ _))
    | split

theorem State.retire_keeps {s0 : State} {s : State} {page : Nat} {cause : Nat}  (hkeep : Keeps s0 s) :
    Keeps s0 (State.retire s page cause) := by
  unfold State.retire
  repeat' first
    | with_reducible assumption
    | extract_lets
    | intro _
    | with_reducible apply Keeps.ite
    | with_reducible apply State.setHdrBit_keeps
    | with_reducible apply State.wf_keeps
    | with_reducible apply State.cause_keeps
    | with_reducible apply State.log_keeps
    | with_reducible apply State.countDie_keeps
    | with_reducible apply State.invalidate_keeps
    | with_reducible apply State.setAlias_keeps
    | with_reducible apply State.setContent_keeps
    | with_reducible apply State.setPanel_keeps
    | with_reducible apply State.nextCastle_keeps
    | with_reducible apply State.respare_keeps
    | with_reducible apply State.setCastle_keeps
    | with_reducible apply State.wearEntry_keeps

theorem State.dueRetirement_keeps {s0 : State} {s : State} {page : Nat}  (hkeep : Keeps s0 s) :
    Keeps s0 (State.dueRetirement s page) := by
  unfold State.dueRetirement
  repeat' first
    | with_reducible assumption
    | extract_lets
    | intro _
    | with_reducible apply Keeps.ite
    | with_reducible apply State.wf_keeps
    | with_reducible apply State.retire_keeps
    | (fail_if_no_progress (with_reducible apply Keeps.update; rfl; rfl; first | exact Nat.le_refl _ | exact Nat.le_succ _))
    | split

theorem State.settleLoad_keeps {s0 : State} {s : State} {l : Load}  (hkeep : Keeps s0 s) :
    Keeps s0 (State.settleLoad s l) := by
  unfold State.settleLoad
  repeat' first
    | with_reducible assumption
    | extract_lets
    | intro _
    | with_reducible apply Keeps.ite
    | with_reducible apply State.wf_keeps
    | with_reducible apply State.setContent_keeps
    | with_reducible apply State.setPanel_keeps
    | with_reducible apply State.dropLoad_keeps
    | with_reducible apply State.setLoad_keeps
    | (fail_if_no_progress (with_reducible apply Keeps.update; rfl; rfl; first | exact Nat.le_refl _ | exact Nat.le_succ _))

theorem State.panelFails_keeps {s0 : State} {s : State} {page : Nat} {f : Nat × Nat × Nat}  (hkeep : Keeps s0 s) :
    Keeps s0 (State.panelFails s page f) := by
  unfold State.panelFails
  repeat' first
    | with_reducible assumption
    | extract_lets
    | intro _
    | with_reducible apply Keeps.ite
    | with_reducible apply Keeps.ite_fst
    | with_reducible apply State.inc_keeps
    | with_reducible apply State.setReg_keeps
    | with_reducible apply State.cause_keeps
    | with_reducible apply State.err_keeps
    | with_reducible apply State.log_keeps
    | with_reducible apply State.dropLoad_keeps
    | with_reducible apply State.retire_keeps

theorem State.imageSealFail_keeps {s0 : State} {s : State} {page : Nat} {k : Nat}  (hkeep : Keeps s0 s) :
    Keeps s0 (State.imageSealFail s page k) := by
  unfold State.imageSealFail
  repeat' first
    | with_reducible assumption
    | extract_lets
    | intro _
    | with_reducible apply Keeps.ite
    | with_reducible apply State.cause_keeps
    | with_reducible apply State.err_keeps
    | with_reducible apply State.log_keeps

theorem State.startLoad_keeps {s0 : State} {s : State} {t : Task} {r : LoadRun} {e : Nat} {page : Nat}  (hkeep : Keeps s0 s) :
    Keeps s0 (State.startLoad s t r e page) := by
  unfold State.startLoad
  repeat' first
    | with_reducible assumption
    | extract_lets
    | intro _
    | with_reducible apply Keeps.ite
    | with_reducible apply Keeps.ite_fst
    | with_reducible apply State.setContent_keeps
    | with_reducible apply State.swapBank_keeps
    | with_reducible apply State.holdPage_keeps
    | with_reducible apply State.mapLoadRun_keeps
    | with_reducible apply State.recordImage_keeps
    | with_reducible apply State.startFull_keeps
    | (fail_if_no_progress (with_reducible apply Keeps.update; rfl; rfl; first | exact Nat.le_refl _ | exact Nat.le_succ _))

theorem State.tryLoad_keeps {s0 : State} {n : Nat} {s : State} {e : Nat}  (hkeep : Keeps s0 s) :
    Keeps s0 (State.tryLoad n s e) := by
  unfold State.tryLoad
  repeat' first
    | with_reducible assumption
    | extract_lets
    | intro _
    | with_reducible apply Keeps.ite
    | with_reducible apply State.mapLoadRun_keeps
    | with_reducible apply State.startLoad_keeps
    | (fail_if_no_progress (with_reducible apply Keeps.update; rfl; rfl; first | exact Nat.le_refl _ | exact Nat.le_succ _))
    | split

theorem State.startLoads_keeps {s0 : State} {s : State} {n : Nat}  (hkeep : Keeps s0 s) :
    Keeps s0 (State.startLoads s n) := by
  unfold State.startLoads
  repeat' first
    | with_reducible assumption
    | extract_lets
    | intro _
    | with_reducible apply Keeps.ite
    | with_reducible apply State.tryEndLoad_keeps
    | with_reducible apply State.tryLoad_keeps
    | with_reducible apply Keeps.foldl
    | (fail_if_no_progress (with_reducible apply Keeps.update; rfl; rfl; first | exact Nat.le_refl _ | exact Nat.le_succ _))
    | split

theorem State.refuseLoad_keeps {s0 : State} {s : State} {t : Task} {unit : Nat} {st : Nat} {event : Nat} {errDetail : Nat} {ev : List Nat}  (hkeep : Keeps s0 s) :
    Keeps s0 (State.refuseLoad s t unit st event errDetail ev) := by
  unfold State.refuseLoad
  repeat' first
    | with_reducible assumption
    | extract_lets
    | intro _
    | with_reducible apply Keeps.ite
    | with_reducible apply State.errDetail_keeps
    | with_reducible apply State.refuseTask_keeps

theorem State.dispatchLoad_keeps {s0 : State} {s : State} {t : Task}  (hkeep : Keeps s0 s) :
    Keeps s0 (State.dispatchLoad s t) := by
  unfold State.dispatchLoad
  repeat' first
    | with_reducible assumption
    | extract_lets
    | intro _
    | with_reducible apply Keeps.ite
    | with_reducible apply Keeps.ite_fst
    | with_reducible apply State.cacheUse_keeps
    | with_reducible apply State.check_keeps
    | with_reducible apply State.log_keeps
    | with_reducible apply State.faultTask_keeps
    | with_reducible apply State.handOver_keeps
    | with_reducible apply State.refuseTask_keeps
    | with_reducible apply State.imageSealFail_keeps
    | with_reducible apply State.refuseLoad_keeps
    | with_reducible apply State.startLoads_keeps
    | (fail_if_no_progress (with_reducible apply Keeps.update; rfl; rfl; first | exact Nat.le_refl _ | exact Nat.le_succ _))
    | split
    | dsimp +zetaDelta only

theorem execArrayLoad_keeps {s0 : State} {n : Nat} {s : State}  (hkeep : Keeps s0 s) :
    Keeps.Outcome s0 (execArrayLoad n s) := by
  unfold execArrayLoad
  repeat' first
    | with_reducible assumption
    | extract_lets
    | intro _
    | with_reducible apply Keeps.next
    | with_reducible exact Keeps.fault
    | with_reducible exact Keeps.refused
    | with_reducible apply Keeps.ite_outcome
    | with_reducible apply Keeps.ite
    | with_reducible apply State.whenFree_keeps
    | with_reducible apply State.onArrayDies_keeps
    | with_reducible apply State.dispatchLoad_keeps
    | with_reducible apply State.startLoads_keeps
    | (fail_if_no_progress (with_reducible apply Keeps.update; rfl; rfl; first | exact Nat.le_refl _ | exact Nat.le_succ _))
    | split

theorem State.countWritten_keeps {s0 : State} {s : State} {l : Load}  (hkeep : Keeps s0 s) :
    Keeps s0 (State.countWritten s l) := by
  unfold State.countWritten
  repeat' first
    | with_reducible assumption
    | extract_lets
    | intro _
    | with_reducible apply Keeps.ite
    | with_reducible apply State.mapLoadRun_keeps
    | (fail_if_no_progress (with_reducible apply Keeps.update; rfl; rfl; first | exact Nat.le_refl _ | exact Nat.le_succ _))
    | split

theorem State.riseOnChange_keeps {s0 : State} {s : State} {l : Load}  (hkeep : Keeps s0 s) :
    Keeps s0 (State.riseOnChange s l).1 := by
  unfold State.riseOnChange
  repeat' first
    | with_reducible assumption
    | extract_lets
    | intro _
    | with_reducible apply Keeps.ite
    | with_reducible apply Keeps.ite_fst
    | with_reducible apply State.countWritten_keeps
    | with_reducible apply State.raiseWrites_keeps

theorem State.joinLoad_keeps {s0 : State} {s : State} {l : Load} {f : LoadRun → LoadRun}  (hkeep : Keeps s0 s) :
    Keeps s0 (State.joinLoad s l f) := by
  unfold State.joinLoad
  repeat' first
    | with_reducible assumption
    | extract_lets
    | intro _
    | with_reducible apply Keeps.ite
    | with_reducible apply State.mapLoadRun_keeps
    | with_reducible apply State.tryEndLoad_keeps
    | (fail_if_no_progress (with_reducible apply Keeps.update; rfl; rfl; first | exact Nat.le_refl _ | exact Nat.le_succ _))
    | split

theorem State.loadFails_keeps {s0 : State} {s : State} {l : Load} {f : Nat × Nat × Nat}  (hkeep : Keeps s0 s) :
    Keeps s0 (State.loadFails s l f) := by
  unfold State.loadFails
  repeat' first
    | with_reducible assumption
    | extract_lets
    | intro _
    | with_reducible apply Keeps.ite
    | with_reducible apply State.joinLoad_keeps
    | with_reducible apply State.panelFails_keeps
    | with_reducible apply State.setLoad_keeps

theorem State.loadStops_keeps {s0 : State} {s : State} {l : Load} {f : LoadRun → LoadRun}  (hkeep : Keeps s0 s) :
    Keeps s0 (State.loadStops s l f) := by
  unfold State.loadStops
  repeat' first
    | with_reducible assumption
    | extract_lets
    | intro _
    | with_reducible apply Keeps.ite
    | with_reducible apply State.invalidate_keeps
    | with_reducible apply State.dropLoad_keeps
    | with_reducible apply State.joinLoad_keeps
    | with_reducible apply State.setLoad_keeps

theorem State.loadEnds_keeps {s0 : State} {s : State} {l : Load}  (hkeep : Keeps s0 s) :
    Keeps s0 (State.loadEnds s l) := by
  unfold State.loadEnds
  repeat' first
    | with_reducible assumption
    | extract_lets
    | intro _
    | with_reducible apply Keeps.ite
    | with_reducible apply Keeps.ite_fst
    | with_reducible apply State.setPanel_keeps
    | with_reducible apply State.joinLoad_keeps
    | with_reducible apply State.settleLoad_keeps

theorem State.finishLoad_keeps {s0 : State} {s : State} {l : Load} {phys : LoadPhysics}  (hkeep : Keeps s0 s) :
    Keeps s0 (State.finishLoad s l phys) := by
  unfold State.finishLoad
  repeat' first
    | with_reducible assumption
    | extract_lets
    | intro _
    | with_reducible apply Keeps.ite
    | with_reducible apply Keeps.ite_fst
    | with_reducible apply State.loadEnds_keeps
    | with_reducible apply State.loadFails_keeps
    | (fail_if_no_progress (with_reducible apply Keeps.update; rfl; rfl; first | exact Nat.le_refl _ | exact Nat.le_succ _))
    | split

theorem State.writeGroup32_keeps {s0 : State} {s : State} {l : Load} {j : Nat} {phys : LoadPhysics}  (hkeep : Keeps s0 s) :
    Keeps s0 (State.writeGroup32 s l j phys).1 := by
  unfold State.writeGroup32
  repeat' first
    | with_reducible assumption
    | extract_lets
    | intro _
    | with_reducible apply Keeps.ite
    | with_reducible apply Keeps.ite_fst
    | with_reducible apply State.riseOnChange_keeps
    | (fail_if_no_progress (with_reducible apply Keeps.update; rfl; rfl; first | exact Nat.le_refl _ | exact Nat.le_succ _))
    | split

theorem State.eraseAll_keeps {s0 : State} {s : State} {l : Load} {phys : LoadPhysics}  (hkeep : Keeps s0 s) :
    Keeps s0 (State.eraseAll s l phys) := by
  unfold State.eraseAll
  repeat' first
    | with_reducible assumption
    | extract_lets
    | intro _
    | with_reducible apply Keeps.ite
    | with_reducible apply Keeps.ite_fst
    | with_reducible apply State.finishLoad_keeps
    | with_reducible apply State.loadFails_keeps
    | with_reducible apply State.writeGroup32_keeps
    | with_reducible apply Keeps.foldl
    | with_reducible apply Keeps.foldl_fst
    | (fail_if_no_progress (with_reducible apply Keeps.update; rfl; rfl; first | exact Nat.le_refl _ | exact Nat.le_succ _))
    | split

theorem State.arrive_keeps {s0 : State} {s : State} {l : Load} {phys : LoadPhysics}  (hkeep : Keeps s0 s) :
    Keeps s0 (State.arrive s l phys) := by
  unfold State.arrive
  repeat' first
    | with_reducible assumption
    | extract_lets
    | intro _
    | with_reducible apply Keeps.ite
    | with_reducible apply Keeps.ite_fst
    | with_reducible apply State.cacheUse_keeps
    | with_reducible apply State.accessFault_keeps
    | with_reducible apply State.check_keeps
    | with_reducible apply State.setPanel_keeps
    | with_reducible apply State.eraseAll_keeps
    | with_reducible apply State.finishLoad_keeps
    | with_reducible apply State.imageSealFail_keeps
    | with_reducible apply State.loadFails_keeps
    | with_reducible apply State.loadStops_keeps
    | with_reducible apply State.setLoad_keeps
    | with_reducible apply State.writeGroup32_keeps
    | (fail_if_no_progress (with_reducible apply Keeps.update; rfl; rfl; first | exact Nat.le_refl _ | exact Nat.le_succ _))
    | split

theorem execLoadBlockArrival_keeps {s0 : State} {n : Die8} {panel : PanelNo} {phys : LoadPhysics} {s : State}  (hkeep : Keeps s0 s) :
    Keeps.Outcome s0 (execLoadBlockArrival n panel phys s) := by
  unfold execLoadBlockArrival
  repeat' first
    | with_reducible assumption
    | extract_lets
    | intro _
    | with_reducible apply Keeps.next
    | with_reducible exact Keeps.fault
    | with_reducible exact Keeps.refused
    | with_reducible apply Keeps.ite_outcome
    | with_reducible apply Keeps.ite
    | with_reducible apply State.whenFree_keeps
    | with_reducible apply State.onDie_keeps
    | with_reducible apply State.arrive_keeps
    | (fail_if_no_progress (with_reducible apply Keeps.update; rfl; rfl; first | exact Nat.le_refl _ | exact Nat.le_succ _))
    | split

theorem State.pumpArrays_keeps {s0 : State} {s : State}  (hkeep : Keeps s0 s) :
    Keeps s0 (State.pumpArrays s) := by
  unfold State.pumpArrays
  repeat' first
    | with_reducible assumption
    | extract_lets
    | intro _
    | with_reducible apply Keeps.ite
    | with_reducible apply State.startArray_keeps
    | with_reducible apply State.startLoads_keeps
    | with_reducible apply Keeps.foldl
    | (fail_if_no_progress (with_reducible apply Keeps.update; rfl; rfl; first | exact Nat.le_refl _ | exact Nat.le_succ _))
    | split

theorem execPanelAged_keeps {s0 : State} {n : Die8} {panel : PanelNo} {s : State}  (hkeep : Keeps s0 s) :
    Keeps.Outcome s0 (execPanelAged n panel s) := by
  unfold execPanelAged
  repeat' first
    | with_reducible assumption
    | extract_lets
    | intro _
    | with_reducible apply Keeps.next
    | with_reducible exact Keeps.fault
    | with_reducible exact Keeps.refused
    | with_reducible apply Keeps.ite_outcome
    | with_reducible apply Keeps.ite
    | with_reducible apply State.cause_keeps
    | with_reducible apply State.setContent_keeps

theorem State.startRefresh_keeps {s0 : State} {s : State} {n : Nat} {page : Nat}  (hkeep : Keeps s0 s) :
    Keeps s0 (State.startRefresh s n page) := by
  unfold State.startRefresh
  repeat' first
    | with_reducible assumption
    | extract_lets
    | intro _
    | with_reducible apply Keeps.ite
    | with_reducible apply Keeps.ite_fst
    | with_reducible apply State.startFull_keeps

theorem execPanelRefresh_keeps {s0 : State} {n : Die8} {panel : PanelNo} {s : State}  (hkeep : Keeps s0 s) :
    Keeps.Outcome s0 (execPanelRefresh n panel s) := by
  unfold execPanelRefresh
  repeat' first
    | with_reducible assumption
    | extract_lets
    | intro _
    | with_reducible apply Keeps.next
    | with_reducible exact Keeps.fault
    | with_reducible exact Keeps.refused
    | with_reducible apply Keeps.ite_outcome
    | with_reducible apply Keeps.ite
    | with_reducible apply State.startRefresh_keeps

theorem State.deferRefresh_keeps {s0 : State} {s : State} {l : Load} {pairs : Nat}  (hkeep : Keeps s0 s) :
    Keeps s0 (State.deferRefresh s l pairs) := by
  unfold State.deferRefresh
  repeat' first
    | with_reducible assumption
    | extract_lets
    | intro _
    | with_reducible apply Keeps.ite
    | with_reducible apply State.cause_keeps
    | with_reducible apply State.setContent_keeps
    | with_reducible apply State.setPanel_keeps
    | with_reducible apply State.dropLoad_keeps
    | with_reducible apply State.dueRetirement_keeps
    | with_reducible apply State.setLoad_keeps

theorem State.endRefresh_keeps {s0 : State} {s : State} {l : Load} {phys : LoadPhysics}  (hkeep : Keeps s0 s) :
    Keeps s0 (State.endRefresh s l phys) := by
  unfold State.endRefresh
  repeat' first
    | with_reducible assumption
    | extract_lets
    | intro _
    | with_reducible apply Keeps.ite
    | with_reducible apply Keeps.ite_fst
    | with_reducible apply State.cacheUse_keeps
    | with_reducible apply State.accessFault_keeps
    | with_reducible apply State.cause_keeps
    | with_reducible apply State.check_keeps
    | with_reducible apply State.log_keeps
    | with_reducible apply State.readChecked_keeps
    | with_reducible apply State.setPanel_keeps
    | with_reducible apply State.deferRefresh_keeps
    | with_reducible apply State.dueRetirement_keeps
    | with_reducible apply State.imageSealFail_keeps
    | with_reducible apply State.panelFails_keeps
    | with_reducible apply State.settleLoad_keeps
    | (fail_if_no_progress (with_reducible apply Keeps.update; rfl; rfl; first | exact Nat.le_refl _ | exact Nat.le_succ _))
    | split

theorem execRefreshComplete_keeps {s0 : State} {n : Die8} {panel : PanelNo} {phys : LoadPhysics} {s : State}  (hkeep : Keeps s0 s) :
    Keeps.Outcome s0 (execRefreshComplete n panel phys s) := by
  unfold execRefreshComplete
  repeat' first
    | with_reducible assumption
    | extract_lets
    | intro _
    | with_reducible apply Keeps.next
    | with_reducible exact Keeps.fault
    | with_reducible exact Keeps.refused
    | with_reducible apply Keeps.ite_outcome
    | with_reducible apply Keeps.ite
    | with_reducible apply State.whenFree_keeps
    | with_reducible apply State.onDie_keeps
    | with_reducible apply State.endRefresh_keeps
    | with_reducible apply State.pumpArrays_keeps
    | (fail_if_no_progress (with_reducible apply Keeps.update; rfl; rfl; first | exact Nat.le_refl _ | exact Nat.le_succ _))
    | split

theorem State.retirePanelNo_keeps {s0 : State} {s : State} {view : View} {n : Nat} {p : Nat}  (hkeep : Keeps s0 s) :
    Keeps s0 (State.retirePanelNo s view n p).1 := by
  unfold State.retirePanelNo
  repeat' first
    | with_reducible assumption
    | extract_lets
    | intro _
    | with_reducible apply Keeps.ite
    | with_reducible apply Keeps.ite_fst
    | with_reducible apply State.wf_keeps
    | with_reducible apply State.noteClamp_keeps

theorem execRetireCtlRetire_keeps {s0 : State} {view : View} {n : Die8} {panel : BitVec 7} {s : State}  (hkeep : Keeps s0 s) :
    Keeps.Outcome s0 (execRetireCtlRetire view n panel s) := by
  unfold execRetireCtlRetire
  repeat' first
    | with_reducible assumption
    | extract_lets
    | intro _
    | with_reducible apply Keeps.next
    | with_reducible exact Keeps.fault
    | with_reducible exact Keeps.refused
    | with_reducible apply Keeps.ite_outcome
    | with_reducible apply Keeps.ite
    | with_reducible apply Keeps.ite_fst
    | with_reducible apply State.wf_keeps
    | with_reducible apply State.onWrite_keeps
    | with_reducible apply State.setPanel_keeps
    | with_reducible apply State.retire_keeps
    | with_reducible apply State.retirePanelNo_keeps

theorem execRetireCtlReinstate_keeps {s0 : State} {view : View} {n : Die8} {panel : BitVec 7} {s : State}  (hkeep : Keeps s0 s) :
    Keeps.Outcome s0 (execRetireCtlReinstate view n panel s) := by
  unfold execRetireCtlReinstate
  repeat' first
    | with_reducible assumption
    | extract_lets
    | intro _
    | with_reducible apply Keeps.next
    | with_reducible exact Keeps.fault
    | with_reducible exact Keeps.refused
    | with_reducible apply Keeps.ite_outcome
    | with_reducible apply Keeps.ite
    | with_reducible apply Keeps.ite_fst
    | with_reducible apply State.setHdrBit_keeps
    | with_reducible apply State.wf_keeps
    | with_reducible apply State.log_keeps
    | with_reducible apply State.onWrite_keeps
    | with_reducible apply State.countDie_keeps
    | with_reducible apply State.invalidate_keeps
    | with_reducible apply State.retirePanelNo_keeps

theorem execSpareFillRequest_keeps {s0 : State} {n : Die8} {s : State}  (hkeep : Keeps s0 s) :
    Keeps.Outcome s0 (execSpareFillRequest n s) := by
  unfold execSpareFillRequest
  repeat' first
    | with_reducible assumption
    | extract_lets
    | intro _
    | with_reducible apply Keeps.next
    | with_reducible exact Keeps.fault
    | with_reducible exact Keeps.refused
    | with_reducible apply Keeps.ite_outcome
    | with_reducible apply Keeps.ite
    | with_reducible apply Keeps.ite_fst
    | with_reducible apply State.askGrant_keeps
    | with_reducible apply State.setCastle_keeps
    | with_reducible apply State.startFill_keeps

theorem State.fillEnds_keeps {s0 : State} {s : State} {n : Nat} {c : Castle}  (hkeep : Keeps s0 s) :
    Keeps s0 (State.fillEnds s n c) := by
  unfold State.fillEnds
  repeat' first
    | with_reducible assumption
    | extract_lets
    | intro _
    | with_reducible apply Keeps.ite
    | with_reducible apply State.release_keeps
    | with_reducible apply State.dueRetirement_keeps
    | with_reducible apply State.setCastle_keeps

theorem State.endFill_keeps {s0 : State} {s : State} {n : Nat} {c : Castle} {l : Load} {phys : LoadPhysics}  (hkeep : Keeps s0 s) :
    Keeps s0 (State.endFill s n c l phys) := by
  unfold State.endFill
  repeat' first
    | with_reducible assumption
    | extract_lets
    | intro _
    | with_reducible apply Keeps.ite
    | with_reducible apply Keeps.ite_fst
    | with_reducible apply State.cacheUse_keeps
    | with_reducible apply State.accessFault_keeps
    | with_reducible apply State.check_keeps
    | with_reducible apply State.log_keeps
    | with_reducible apply State.readChecked_keeps
    | with_reducible apply State.invalidate_keeps
    | with_reducible apply State.setPanel_keeps
    | with_reducible apply State.dropLoad_keeps
    | with_reducible apply State.fillEnds_keeps
    | with_reducible apply State.imageSealFail_keeps
    | with_reducible apply State.panelFails_keeps
    | with_reducible apply State.recordImage_keeps
    | with_reducible apply State.setLoad_keeps
    | with_reducible apply State.settleLoad_keeps
    | (fail_if_no_progress (with_reducible apply Keeps.update; rfl; rfl; first | exact Nat.le_refl _ | exact Nat.le_succ _))
    | split

theorem execSpareFillComplete_keeps {s0 : State} {n : Die8} {phys : LoadPhysics} {s : State}  (hkeep : Keeps s0 s) :
    Keeps.Outcome s0 (execSpareFillComplete n phys s) := by
  unfold execSpareFillComplete
  repeat' first
    | with_reducible assumption
    | extract_lets
    | intro _
    | with_reducible apply Keeps.next
    | with_reducible exact Keeps.fault
    | with_reducible exact Keeps.refused
    | with_reducible apply Keeps.ite_outcome
    | with_reducible apply Keeps.ite
    | with_reducible apply State.whenFree_keeps
    | with_reducible apply State.onDie_keeps
    | with_reducible apply State.endFill_keeps
    | (fail_if_no_progress (with_reducible apply Keeps.update; rfl; rfl; first | exact Nat.le_refl _ | exact Nat.le_succ _))
    | split

theorem State.remap_keeps {s0 : State} {s : State} {n : Nat} {c : Castle}  (hkeep : Keeps s0 s) :
    Keeps s0 (State.remap s n c) := by
  unfold State.remap
  repeat' first
    | with_reducible assumption
    | extract_lets
    | intro _
    | with_reducible apply Keeps.ite
    | with_reducible apply State.inc_keeps
    | with_reducible apply State.wf_keeps
    | with_reducible apply State.whenSome_keeps
    | with_reducible apply State.cause_keeps
    | with_reducible apply State.log_keeps
    | with_reducible apply State.countDie_keeps
    | with_reducible apply State.setAlias_keeps
    | with_reducible apply State.setContent_keeps
    | with_reducible apply State.setPanel_keeps
    | with_reducible apply State.dueRetirement_keeps
    | with_reducible apply State.endLoads_keeps
    | with_reducible apply State.mapLoadRun_keeps
    | with_reducible apply State.nextCastle_keeps
    | with_reducible apply State.pumpArrays_keeps
    | with_reducible apply State.setCastle_keeps

theorem execCastlingRemap_keeps {s0 : State} {n : Die8} {s : State}  (hkeep : Keeps s0 s) :
    Keeps.Outcome s0 (execCastlingRemap n s) := by
  unfold execCastlingRemap
  repeat' first
    | with_reducible assumption
    | extract_lets
    | intro _
    | with_reducible apply Keeps.next
    | with_reducible exact Keeps.fault
    | with_reducible exact Keeps.refused
    | with_reducible apply Keeps.ite_outcome
    | with_reducible apply Keeps.ite
    | with_reducible apply State.remap_keeps

end Sys2Proof.Machine
end

