-- ==== Sys2Proof/Laws/KeepsGrad.lean ====
section
/-! SUPPORT. The operations of Machine/Grad.lean keep what every command keeps. -/

namespace Sys2Proof.Machine

theorem State.setGrad_keeps {s0 : State} {s : State} {r : GradRun}  (hkeep : Keeps s0 s) :
    Keeps s0 (State.setGrad s r) := by
  unfold State.setGrad
  repeat' first
    | with_reducible assumption
    | extract_lets
    | intro _
    | with_reducible apply Keeps.ite
    | with_reducible apply Keeps.ite_fst
    | (fail_if_no_progress (with_reducible apply Keeps.update; rfl; rfl; first | exact Nat.le_refl _ | exact Nat.le_succ _))

theorem State.dropGrad_keeps {s0 : State} {s : State} {n : Nat}  (hkeep : Keeps s0 s) :
    Keeps s0 (State.dropGrad s n) := by
  unfold State.dropGrad
  repeat' first
    | with_reducible assumption
    | extract_lets
    | intro _
    | with_reducible apply Keeps.ite
    | (fail_if_no_progress (with_reducible apply Keeps.update; rfl; rfl; first | exact Nat.le_refl _ | exact Nat.le_succ _))

theorem State.takeCore_keeps {s0 : State} {s : State} {page : Nat} {n : Nat}  (hkeep : Keeps s0 s) :
    Keeps s0 (State.takeCore s page n) := by
  unfold State.takeCore
  repeat' first
    | with_reducible assumption
    | extract_lets
    | intro _
    | with_reducible apply Keeps.ite
    | with_reducible apply State.applyPosted_keeps
    | (fail_if_no_progress (with_reducible apply Keeps.update; rfl; rfl; first | exact Nat.le_refl _ | exact Nat.le_succ _))

theorem State.assignItem_keeps {s0 : State} {s : State} {q : Nat} {c : Nat} {r : GradRun} {x : MatOp}  (hkeep : Keeps s0 s) :
    Keeps s0 (State.assignItem s q c r x) := by
  unfold State.assignItem
  repeat' first
    | with_reducible assumption
    | extract_lets
    | intro _
    | with_reducible apply Keeps.ite
    | with_reducible apply Keeps.ite_fst
    | with_reducible apply State.draw_keeps
    | with_reducible apply State.wfs_keeps
    | with_reducible apply State.setGrad_keeps
    | with_reducible apply State.takeCore_keeps

theorem State.feedCore_keeps {s0 : State} {s : State} {q : Nat} {c : Nat}  (hkeep : Keeps s0 s) :
    Keeps s0 (State.feedCore s q c) := by
  unfold State.feedCore
  repeat' first
    | with_reducible assumption
    | extract_lets
    | intro _
    | with_reducible apply Keeps.ite
    | with_reducible apply State.assignItem_keeps
    | (fail_if_no_progress (with_reducible apply Keeps.update; rfl; rfl; first | exact Nat.le_refl _ | exact Nat.le_succ _))
    | split

theorem State.pumpGrad_keeps {s0 : State} {s : State} {q : Nat}  (hkeep : Keeps s0 s) :
    Keeps s0 (State.pumpGrad s q) := by
  unfold State.pumpGrad
  repeat' first
    | with_reducible assumption
    | extract_lets
    | intro _
    | with_reducible apply Keeps.ite
    | with_reducible apply State.feedCore_keeps
    | with_reducible apply Keeps.foldl

theorem State.coreSealErr_keeps {s0 : State} {s : State} {q : Nat} {c : Nat} {k : Nat} {tile : Nat}  (hkeep : Keeps s0 s) :
    Keeps s0 (State.coreSealErr s q c k tile) := by
  unfold State.coreSealErr
  repeat' first
    | with_reducible assumption
    | extract_lets
    | intro _
    | with_reducible apply Keeps.ite
    | with_reducible apply State.inc_keeps
    | with_reducible apply State.cause_keeps
    | with_reducible apply State.err_keeps
    | with_reducible apply State.log_keeps

theorem State.storeAll_keeps {s0 : State} {s : State} {ws : List (Nat × List Byte)}  (hkeep : Keeps s0 s) :
    Keeps s0 (State.storeAll s ws).1 := by
  unfold State.storeAll
  repeat' first
    | with_reducible assumption
    | extract_lets
    | intro _
    | with_reducible apply Keeps.ite
    | with_reducible apply Keeps.ite_fst
    | with_reducible apply State.store_keeps
    | with_reducible apply Keeps.foldl
    | with_reducible apply Keeps.foldl_fst

theorem State.coreReads_keeps {s0 : State} {s : State} {q : Nat} {c : Nat} {tile : Nat} {ks : List Nat}  (hkeep : Keeps s0 s) :
    Keeps s0 (State.coreReads s q c tile ks).1 := by
  unfold State.coreReads
  repeat' first
    | with_reducible assumption
    | extract_lets
    | intro _
    | with_reducible apply Keeps.ite
    | with_reducible apply Keeps.ite_fst
    | with_reducible apply State.check_keeps
    | with_reducible apply State.coreSealErr_keeps
    | with_reducible apply Keeps.foldl

theorem State.readItem_keeps {s0 : State} {s : State} {q : Nat} {c : Nat} {x : MatOp} {r : GradRun} {item : Nat}  (hkeep : Keeps s0 s) :
    Keeps s0 (State.readItem s q c x r item).1 := by
  unfold State.readItem
  repeat' first
    | with_reducible assumption
    | extract_lets
    | intro _
    | with_reducible apply Keeps.ite
    | with_reducible apply Keeps.ite_fst
    | with_reducible apply State.cacheReads_keeps
    | with_reducible apply State.coreReads_keeps
    | with_reducible apply State.coreSealErr_keeps
    | with_reducible apply Keeps.foldl
    | with_reducible apply Keeps.foldl_fst
    | (fail_if_no_progress (with_reducible apply Keeps.update; rfl; rfl; first | exact Nat.le_refl _ | exact Nat.le_succ _))
    | split

theorem State.finishTile_keeps {s0 : State} {s : State} {q : Nat} {c : Nat} {t : Task} {x : MatOp} {r : GradRun} {ot : Nat}  (hkeep : Keeps s0 s) :
    Keeps s0 (State.finishTile s q c t x r ot).1 := by
  unfold State.finishTile
  repeat' first
    | with_reducible assumption
    | extract_lets
    | intro _
    | with_reducible apply Keeps.ite
    | with_reducible apply Keeps.ite_fst
    | with_reducible apply State.cacheReads_keeps
    | with_reducible apply State.incBy_keeps
    | with_reducible apply State.cause_keeps
    | with_reducible apply State.sealFail_keeps
    | with_reducible apply State.coreReads_keeps
    | with_reducible apply State.coreSealErr_keeps
    | with_reducible apply State.storeAll_keeps
    | with_reducible apply Keeps.foldl

theorem State.endGrad_keeps {s0 : State} {s : State} {q : Nat} {t : Task} {x : MatOp} {r : GradRun}  (hkeep : Keeps s0 s) :
    Keeps s0 (State.endGrad s q t x r) := by
  unfold State.endGrad
  repeat' first
    | with_reducible assumption
    | extract_lets
    | intro _
    | with_reducible apply Keeps.ite
    | with_reducible apply State.endTask_keeps
    | with_reducible apply State.dropGrad_keeps

theorem State.idleCores_keeps {s0 : State} {s : State} {f : Fld} {pages : List Nat}  (hkeep : Keeps s0 s) :
    Keeps s0 (State.idleCores s f pages) := by
  unfold State.idleCores
  repeat' first
    | with_reducible assumption
    | extract_lets
    | intro _
    | with_reducible apply Keeps.ite
    | with_reducible apply State.wf_keeps
    | with_reducible apply State.cause_keeps
    | with_reducible apply Keeps.foldl

theorem State.emptyStores_keeps {s0 : State} {s : State} {pages : List Nat}  (hkeep : Keeps s0 s) :
    Keeps s0 (State.emptyStores s pages) := by
  unfold State.emptyStores
  repeat' first
    | with_reducible assumption
    | extract_lets
    | intro _
    | with_reducible apply Keeps.ite
    | with_reducible apply State.wf_keeps
    | with_reducible apply Keeps.foldl

theorem State.haltGrad_keeps {s0 : State} {s : State} {q : Nat} {t : Task} {x : MatOp} {r : GradRun} {event : Nat}  (hkeep : Keeps s0 s) :
    Keeps s0 (State.haltGrad s q t x r event) := by
  unfold State.haltGrad
  repeat' first
    | with_reducible assumption
    | extract_lets
    | intro _
    | with_reducible apply Keeps.ite
    | with_reducible apply Keeps.ite_fst
    | with_reducible apply State.endTask_keeps
    | with_reducible apply State.dropGrad_keeps
    | with_reducible apply State.emptyStores_keeps
    | with_reducible apply State.idleCores_keeps

theorem State.faultGrad_keeps {s0 : State} {s : State} {q : Nat} {c : Nat} {t : Task} {x : MatOp} {r : GradRun} {a : Nat} {tile : Nat}  (hkeep : Keeps s0 s) :
    Keeps s0 (State.faultGrad s q c t x r a tile) := by
  unfold State.faultGrad
  repeat' first
    | with_reducible assumption
    | extract_lets
    | intro _
    | with_reducible apply Keeps.ite
    | with_reducible apply State.accessFault_keeps
    | with_reducible apply State.cause_keeps
    | with_reducible apply State.err_keeps
    | with_reducible apply State.haltGrad_keeps

theorem State.settleGrad_keeps {s0 : State} {s : State} {q : Nat} {t : Task} {x : MatOp} {r : GradRun}  (hkeep : Keeps s0 s) :
    Keeps s0 (State.settleGrad s q t x r) := by
  unfold State.settleGrad
  repeat' first
    | with_reducible assumption
    | extract_lets
    | intro _
    | with_reducible apply Keeps.ite
    | with_reducible apply State.endGrad_keeps

theorem State.noteRan_keeps {s0 : State} {s : State} {q : Nat} {x : MatOp} {cs : List Nat}  (hkeep : Keeps s0 s) :
    Keeps s0 (State.noteRan s q x cs) := by
  unfold State.noteRan
  repeat' first
    | with_reducible assumption
    | extract_lets
    | intro _
    | with_reducible apply Keeps.ite
    | (fail_if_no_progress (with_reducible apply Keeps.update; rfl; rfl; first | exact Nat.le_refl _ | exact Nat.le_succ _))

theorem State.freshPlane_keeps {s0 : State} {s : State} {q : Nat} {x : MatOp}  (hkeep : Keeps s0 s) :
    Keeps s0 (State.freshPlane s q x) := by
  unfold State.freshPlane
  repeat' first
    | with_reducible assumption
    | extract_lets
    | intro _
    | with_reducible apply Keeps.ite
    | (fail_if_no_progress (with_reducible apply Keeps.update; rfl; rfl; first | exact Nat.le_refl _ | exact Nat.le_succ _))

theorem State.itemDone_keeps {s0 : State} {s : State} {q : Nat} {c : Nat} {t : Task} {x : MatOp} {r : GradRun} {item : Nat}  (hkeep : Keeps s0 s) :
    Keeps s0 (State.itemDone s q c t x r item) := by
  unfold State.itemDone
  repeat' first
    | with_reducible assumption
    | extract_lets
    | intro _
    | with_reducible apply Keeps.ite
    | with_reducible apply Keeps.ite_fst
    | with_reducible apply State.inc64_keeps
    | with_reducible apply State.incBy_keeps
    | with_reducible apply State.wfs_keeps
    | with_reducible apply State.faultGrad_keeps
    | with_reducible apply State.finishTile_keeps
    | with_reducible apply State.noteRan_keeps
    | with_reducible apply State.pumpGrad_keeps
    | with_reducible apply State.readItem_keeps
    | with_reducible apply State.setGrad_keeps
    | with_reducible apply State.settleGrad_keeps
    | (fail_if_no_progress (with_reducible apply Keeps.update; rfl; rfl; first | exact Nat.le_refl _ | exact Nat.le_succ _))
    | split

theorem execWorkItemDone_keeps {s0 : State} {q : Quad} {c : Core} {s : State}  (hkeep : Keeps s0 s) :
    Keeps.Outcome s0 (execWorkItemDone q c s) := by
  unfold execWorkItemDone
  repeat' first
    | with_reducible assumption
    | extract_lets
    | intro _
    | with_reducible apply Keeps.next
    | with_reducible exact Keeps.fault
    | with_reducible exact Keeps.refused
    | with_reducible apply Keeps.ite_outcome
    | with_reducible apply Keeps.ite
    | with_reducible apply State.whenFree_keeps
    | with_reducible apply State.onDie_keeps
    | with_reducible apply State.itemDone_keeps
    | (fail_if_no_progress (with_reducible apply Keeps.update; rfl; rfl; first | exact Nat.le_refl _ | exact Nat.le_succ _))
    | split

theorem State.keyErr_keeps {s0 : State} {s : State} {q : Nat}  (hkeep : Keeps s0 s) :
    Keeps s0 (State.keyErr s q) := by
  unfold State.keyErr
  repeat' first
    | with_reducible assumption
    | extract_lets
    | intro _
    | with_reducible apply Keeps.ite
    | with_reducible apply State.cause_keeps
    | with_reducible apply State.log_keeps

theorem State.faultGradTask_keeps {s0 : State} {s : State} {t : Task} {q : Nat} {a : Nat}  (hkeep : Keeps s0 s) :
    Keeps s0 (State.faultGradTask s t q a) := by
  unfold State.faultGradTask
  repeat' first
    | with_reducible assumption
    | extract_lets
    | intro _
    | with_reducible apply Keeps.ite
    | with_reducible apply State.accessFault_keeps
    | with_reducible apply State.err_keeps
    | with_reducible apply State.handOver_keeps

theorem State.startGrad_keeps {s0 : State} {s : State} {t : Task} {q : Nat} {o : List Byte} {x : MatOp}  (hkeep : Keeps s0 s) :
    Keeps s0 (State.startGrad s t q o x) := by
  unfold State.startGrad
  repeat' first
    | with_reducible assumption
    | extract_lets
    | intro _
    | with_reducible apply Keeps.ite
    | with_reducible apply Keeps.ite_fst
    | with_reducible apply State.cacheUse_keeps
    | with_reducible apply State.inc_keeps
    | with_reducible apply State.cause_keeps
    | with_reducible apply State.check_keeps
    | with_reducible apply State.notePrepass_keeps
    | with_reducible apply State.handOver_keeps
    | with_reducible apply State.faultGradTask_keeps
    | with_reducible apply State.freshPlane_keeps
    | with_reducible apply State.keyErr_keeps
    | with_reducible apply State.pumpGrad_keeps
    | (fail_if_no_progress (with_reducible apply Keeps.update; rfl; rfl; first | exact Nat.le_refl _ | exact Nat.le_succ _))
    | split

theorem State.dispatchGrad_keeps {s0 : State} {s : State} {t : Task} {q : Nat}  (hkeep : Keeps s0 s) :
    Keeps s0 (State.dispatchGrad s t q) := by
  unfold State.dispatchGrad
  repeat' first
    | with_reducible assumption
    | extract_lets
    | intro _
    | with_reducible apply Keeps.ite
    | with_reducible apply State.cacheUse_keeps
    | with_reducible apply State.check_keeps
    | with_reducible apply State.log_keeps
    | with_reducible apply State.applyPage_keeps
    | with_reducible apply State.handOver_keeps
    | with_reducible apply State.coreSealErr_keeps
    | with_reducible apply State.faultGradTask_keeps
    | with_reducible apply State.startGrad_keeps
    | (fail_if_no_progress (with_reducible apply Keeps.update; rfl; rfl; first | exact Nat.le_refl _ | exact Nat.le_succ _))
    | split

theorem execGradMm_keeps {s0 : State} {n : Nat} {s : State}  (hkeep : Keeps s0 s) :
    Keeps.Outcome s0 (execGradMm n s) := by
  unfold execGradMm
  repeat' first
    | with_reducible assumption
    | extract_lets
    | intro _
    | with_reducible apply Keeps.next
    | with_reducible exact Keeps.fault
    | with_reducible exact Keeps.refused
    | with_reducible apply Keeps.ite_outcome
    | with_reducible apply Keeps.ite
    | with_reducible apply State.whenFree_keeps
    | with_reducible apply State.applyPage_keeps
    | with_reducible apply State.onDie_keeps
    | with_reducible apply State.dispatchGrad_keeps
    | (fail_if_no_progress (with_reducible apply Keeps.update; rfl; rfl; first | exact Nat.le_refl _ | exact Nat.le_succ _))
    | split

theorem State.gradMeasured_keeps {s0 : State} {s : State} {q : Nat} {t : Task} {r : GradRun}  (hkeep : Keeps s0 s) :
    Keeps s0 (State.gradMeasured s q t r) := by
  unfold State.gradMeasured
  repeat' first
    | with_reducible assumption
    | extract_lets
    | intro _
    | with_reducible apply Keeps.ite
    | with_reducible apply State.measureSlot_keeps
    | with_reducible apply State.pumpGrad_keeps
    | with_reducible apply State.setGrad_keeps

end Sys2Proof.Machine
end

