-- ==== Sys2Proof/Laws/KeepsVec.lean ====
section
/-! SUPPORT. The operations of Machine/Vec.lean keep what every command keeps. -/

namespace Sys2Proof.Machine

theorem State.setVec_keeps {s0 : State} {s : State} {r : VecRun}  (hkeep : Keeps s0 s) :
    Keeps s0 (State.setVec s r) := by
  unfold State.setVec
  repeat' first
    | with_reducible assumption
    | extract_lets
    | intro _
    | with_reducible apply Keeps.ite
    | with_reducible apply Keeps.ite_fst
    | (fail_if_no_progress (with_reducible apply Keeps.update; rfl; rfl; first | exact Nat.le_refl _ | exact Nat.le_succ _))

theorem State.dropVec_keeps {s0 : State} {s : State} {n : Nat}  (hkeep : Keeps s0 s) :
    Keeps s0 (State.dropVec s n) := by
  unfold State.dropVec
  repeat' first
    | with_reducible assumption
    | extract_lets
    | intro _
    | with_reducible apply Keeps.ite
    | (fail_if_no_progress (with_reducible apply Keeps.update; rfl; rfl; first | exact Nat.le_refl _ | exact Nat.le_succ _))

theorem State.assignGroup_keeps {s0 : State} {s : State} {q : Nat} {c : Nat} {r : VecRun}  (hkeep : Keeps s0 s) :
    Keeps s0 (State.assignGroup s q c r) := by
  unfold State.assignGroup
  repeat' first
    | with_reducible assumption
    | extract_lets
    | intro _
    | with_reducible apply Keeps.ite
    | with_reducible apply State.wfs_keeps
    | with_reducible apply State.takeCore_keeps
    | with_reducible apply State.setVec_keeps

theorem State.feedVec_keeps {s0 : State} {s : State} {q : Nat} {c : Nat}  (hkeep : Keeps s0 s) :
    Keeps s0 (State.feedVec s q c) := by
  unfold State.feedVec
  repeat' first
    | with_reducible assumption
    | extract_lets
    | intro _
    | with_reducible apply Keeps.ite
    | with_reducible apply State.assignGroup_keeps
    | (fail_if_no_progress (with_reducible apply Keeps.update; rfl; rfl; first | exact Nat.le_refl _ | exact Nat.le_succ _))
    | split

theorem State.pumpVec_keeps {s0 : State} {s : State} {q : Nat}  (hkeep : Keeps s0 s) :
    Keeps s0 (State.pumpVec s q) := by
  unfold State.pumpVec
  repeat' first
    | with_reducible assumption
    | extract_lets
    | intro _
    | with_reducible apply Keeps.ite
    | with_reducible apply State.feedVec_keeps
    | with_reducible apply Keeps.foldl

theorem State.endVec_keeps {s0 : State} {s : State} {q : Nat} {t : Task} {x : VecOp} {r : VecRun} {aborted : Option Nat}  (hkeep : Keeps s0 s) :
    Keeps s0 (State.endVec s q t x r aborted) := by
  unfold State.endVec
  repeat' first
    | with_reducible assumption
    | extract_lets
    | intro _
    | with_reducible apply Keeps.ite
    | with_reducible apply State.store_keeps
    | with_reducible apply State.log_keeps
    | with_reducible apply State.endTask_keeps
    | with_reducible apply State.readBack_keeps
    | with_reducible apply State.dropVec_keeps
    | (fail_if_no_progress (with_reducible apply Keeps.update; rfl; rfl; first | exact Nat.le_refl _ | exact Nat.le_succ _))
    | split

theorem State.haltVec_keeps {s0 : State} {s : State} {q : Nat} {t : Task} {x : VecOp} {r : VecRun} {event : Nat}  (hkeep : Keeps s0 s) :
    Keeps s0 (State.haltVec s q t x r event) := by
  unfold State.haltVec
  repeat' first
    | with_reducible assumption
    | extract_lets
    | intro _
    | with_reducible apply Keeps.ite
    | with_reducible apply Keeps.ite_fst
    | with_reducible apply State.idleCores_keeps
    | with_reducible apply State.endVec_keeps

theorem State.faultVec_keeps {s0 : State} {s : State} {q : Nat} {c : Nat} {t : Task} {x : VecOp} {r : VecRun} {a : Nat} {group : Nat}  (hkeep : Keeps s0 s) :
    Keeps s0 (State.faultVec s q c t x r a group) := by
  unfold State.faultVec
  repeat' first
    | with_reducible assumption
    | extract_lets
    | intro _
    | with_reducible apply Keeps.ite
    | with_reducible apply State.accessFault_keeps
    | with_reducible apply State.cause_keeps
    | with_reducible apply State.err_keeps
    | with_reducible apply State.haltVec_keeps

theorem State.settleVec_keeps {s0 : State} {s : State} {q : Nat} {t : Task} {x : VecOp} {r : VecRun}  (hkeep : Keeps s0 s) :
    Keeps s0 (State.settleVec s q t x r) := by
  unfold State.settleVec
  repeat' first
    | with_reducible assumption
    | extract_lets
    | intro _
    | with_reducible apply Keeps.ite
    | with_reducible apply State.endVec_keeps

theorem State.vecSealErr_keeps {s0 : State} {s : State} {q : Nat} {c : Nat} {k : Nat} {group : Nat}  (hkeep : Keeps s0 s) :
    Keeps s0 (State.vecSealErr s q c k group) := by
  unfold State.vecSealErr
  repeat' first
    | with_reducible assumption
    | extract_lets
    | intro _
    | with_reducible apply Keeps.ite
    | with_reducible apply State.inc_keeps
    | with_reducible apply State.cause_keeps
    | with_reducible apply State.err_keeps
    | with_reducible apply State.log_keeps

theorem State.stick_keeps {s0 : State} {s : State} {page : Nat} {f : Fld} {n : Nat}  (hkeep : Keeps s0 s) :
    Keeps s0 (State.stick s page f n) := by
  unfold State.stick
  repeat' first
    | with_reducible assumption
    | extract_lets
    | intro _
    | with_reducible apply Keeps.ite
    | with_reducible apply State.wf_keeps

theorem State.laneFlags_keeps {s0 : State} {s : State} {page : Nat} {l : LaneCounts} {cycles : Nat}  (hkeep : Keeps s0 s) :
    Keeps s0 (State.laneFlags s page l cycles) := by
  unfold State.laneFlags
  repeat' first
    | with_reducible assumption
    | extract_lets
    | intro _
    | with_reducible apply Keeps.ite
    | with_reducible apply State.inc64_keeps
    | with_reducible apply State.incBy_keeps
    | with_reducible apply State.cause_keeps
    | with_reducible apply State.stick_keeps

theorem State.writeGroup_keeps {s0 : State} {s : State} {q : Nat} {c : Nat} {g : Nat} {r : VecRun} {ws : List (Nat × Stored)}  (hkeep : Keeps s0 s) :
    Keeps s0 (State.writeGroup s q c g r ws).1 := by
  unfold State.writeGroup
  repeat' first
    | with_reducible assumption
    | extract_lets
    | intro _
    | with_reducible apply Keeps.ite
    | with_reducible apply Keeps.ite_fst
    | with_reducible apply State.sealFail_keeps
    | with_reducible apply State.storeAll_keeps
    | with_reducible apply State.vecSealErr_keeps
    | with_reducible apply Keeps.foldl

theorem State.readGroup_keeps {s0 : State} {s : State} {q : Nat} {c : Nat} {x : VecOp} {r : VecRun} {g : Nat}  (hkeep : Keeps s0 s) :
    Keeps s0 (State.readGroup s q c x r g).1 := by
  unfold State.readGroup
  repeat' first
    | with_reducible assumption
    | extract_lets
    | intro _
    | with_reducible apply Keeps.ite
    | with_reducible apply Keeps.ite_fst
    | with_reducible apply State.cacheReads_keeps
    | with_reducible apply State.check_keeps
    | with_reducible apply State.vecSealErr_keeps
    | with_reducible apply Keeps.foldl
    | with_reducible apply Keeps.foldl_fst
    | (fail_if_no_progress (with_reducible apply Keeps.update; rfl; rfl; first | exact Nat.le_refl _ | exact Nat.le_succ _))
    | split

theorem State.runRow_keeps {s0 : State} {s : State} {q : Nat} {c : Nat} {t : Task} {x : VecOp} {r : VecRun} {g : Nat}  (hkeep : Keeps s0 s) :
    Keeps s0 (State.runRow s q c t x r g).1 := by
  unfold State.runRow
  repeat' first
    | with_reducible assumption
    | extract_lets
    | intro _
    | with_reducible apply Keeps.ite
    | with_reducible apply Keeps.ite_fst
    | with_reducible apply State.store_keeps
    | with_reducible apply State.wf_keeps
    | with_reducible apply State.laneFlags_keeps
    | (fail_if_no_progress (with_reducible apply Keeps.update; rfl; rfl; first | exact Nat.le_refl _ | exact Nat.le_succ _))

theorem State.groupDone_keeps {s0 : State} {s : State} {q : Nat} {c : Nat} {t : Task} {x : VecOp} {r : VecRun} {g : Nat}  (hkeep : Keeps s0 s) :
    Keeps s0 (State.groupDone s q c t x r g) := by
  unfold State.groupDone
  repeat' first
    | with_reducible assumption
    | extract_lets
    | intro _
    | with_reducible apply Keeps.ite
    | with_reducible apply Keeps.ite_fst
    | with_reducible apply State.wf_keeps
    | with_reducible apply State.faultVec_keeps
    | with_reducible apply State.pumpVec_keeps
    | with_reducible apply State.readGroup_keeps
    | with_reducible apply State.runRow_keeps
    | with_reducible apply State.setVec_keeps
    | with_reducible apply State.settleVec_keeps
    | with_reducible apply State.writeGroup_keeps
    | (fail_if_no_progress (with_reducible apply Keeps.update; rfl; rfl; first | exact Nat.le_refl _ | exact Nat.le_succ _))
    | split

theorem execRowGroupDone_keeps {s0 : State} {q : Quad} {c : Core} {s : State}  (hkeep : Keeps s0 s) :
    Keeps.Outcome s0 (execRowGroupDone q c s) := by
  unfold execRowGroupDone
  repeat' first
    | with_reducible assumption
    | extract_lets
    | intro _
    | with_reducible apply Keeps.next
    | with_reducible exact Keeps.fault
    | with_reducible exact Keeps.refused
    | with_reducible apply Keeps.ite_outcome
    | with_reducible apply Keeps.ite
    | with_reducible apply State.whenFree_keeps
    | with_reducible apply State.onDie_keeps
    | with_reducible apply State.groupDone_keeps
    | (fail_if_no_progress (with_reducible apply Keeps.update; rfl; rfl; first | exact Nat.le_refl _ | exact Nat.le_succ _))
    | split

theorem State.reloadStores_keeps {s0 : State} {s : State} {q : Nat} {a : Nat}  (hkeep : Keeps s0 s) :
    Keeps s0 (State.reloadStores s q a) := by
  unfold State.reloadStores
  repeat' first
    | with_reducible assumption
    | extract_lets
    | intro _
    | with_reducible apply Keeps.ite
    | with_reducible apply State.store_keeps
    | with_reducible apply State.wfs_keeps
    | with_reducible apply Keeps.foldl
    | (fail_if_no_progress (with_reducible apply Keeps.update; rfl; rfl; first | exact Nat.le_refl _ | exact Nat.le_succ _))

theorem State.faultVecTask_keeps {s0 : State} {s : State} {t : Task} {q : Nat} {a : Nat}  (hkeep : Keeps s0 s) :
    Keeps s0 (State.faultVecTask s t q a) := by
  unfold State.faultVecTask
  repeat' first
    | with_reducible assumption
    | extract_lets
    | intro _
    | with_reducible apply Keeps.ite
    | with_reducible apply State.accessFault_keeps
    | with_reducible apply State.err_keeps
    | with_reducible apply State.handOver_keeps

theorem State.startVec_keeps {s0 : State} {s : State} {t : Task} {q : Nat} {o : List Byte} {pats : List Byte} {keys : List Byte} {x : VecOp}  (hkeep : Keeps s0 s) :
    Keeps s0 (State.startVec s t q o pats keys x) := by
  unfold State.startVec
  repeat' first
    | with_reducible assumption
    | extract_lets
    | intro _
    | with_reducible apply Keeps.ite
    | with_reducible apply Keeps.ite_fst
    | with_reducible apply State.notePrepass_keeps
    | with_reducible apply State.handOver_keeps
    | with_reducible apply State.pumpVec_keeps
    | (fail_if_no_progress (with_reducible apply Keeps.update; rfl; rfl; first | exact Nat.le_refl _ | exact Nat.le_succ _))

theorem State.keysVec_keeps {s0 : State} {s : State} {t : Task} {q : Nat} {o : List Byte} {pats : List Byte} {x : VecOp}  (hkeep : Keeps s0 s) :
    Keeps s0 (State.keysVec s t q o pats x) := by
  unfold State.keysVec
  repeat' first
    | with_reducible assumption
    | extract_lets
    | intro _
    | with_reducible apply Keeps.ite
    | with_reducible apply State.cacheUse_keeps
    | with_reducible apply State.check_keeps
    | with_reducible apply State.handOver_keeps
    | with_reducible apply State.keyErr_keeps
    | with_reducible apply State.faultVecTask_keeps
    | with_reducible apply State.startVec_keeps
    | (fail_if_no_progress (with_reducible apply Keeps.update; rfl; rfl; first | exact Nat.le_refl _ | exact Nat.le_succ _))
    | split

theorem State.checkVec_keeps {s0 : State} {s : State} {t : Task} {q : Nat} {o : List Byte} {pats : List Byte} {x : VecOp}  (hkeep : Keeps s0 s) :
    Keeps s0 (State.checkVec s t q o pats x) := by
  unfold State.checkVec
  repeat' first
    | with_reducible assumption
    | extract_lets
    | intro _
    | with_reducible apply Keeps.ite
    | with_reducible apply State.log_keeps
    | with_reducible apply State.handOver_keeps
    | with_reducible apply State.keysVec_keeps

theorem State.patternVec_keeps {s0 : State} {s : State} {t : Task} {q : Nat} {o : List Byte} {x : VecOp}  (hkeep : Keeps s0 s) :
    Keeps s0 (State.patternVec s t q o x) := by
  unfold State.patternVec
  repeat' first
    | with_reducible assumption
    | extract_lets
    | intro _
    | with_reducible apply Keeps.ite
    | with_reducible apply State.cacheUse_keeps
    | with_reducible apply State.inc_keeps
    | with_reducible apply State.store_keeps
    | with_reducible apply State.cause_keeps
    | with_reducible apply State.check_keeps
    | with_reducible apply State.err_keeps
    | with_reducible apply State.log_keeps
    | with_reducible apply State.handOver_keeps
    | with_reducible apply State.checkVec_keeps
    | with_reducible apply State.faultVecTask_keeps
    | with_reducible apply State.reloadStores_keeps
    | (fail_if_no_progress (with_reducible apply Keeps.update; rfl; rfl; first | exact Nat.le_refl _ | exact Nat.le_succ _))
    | split

theorem State.dispatchVec_keeps {s0 : State} {s : State} {t : Task} {q : Nat}  (hkeep : Keeps s0 s) :
    Keeps s0 (State.dispatchVec s t q) := by
  unfold State.dispatchVec
  repeat' first
    | with_reducible assumption
    | extract_lets
    | intro _
    | with_reducible apply Keeps.ite
    | with_reducible apply Keeps.ite_fst
    | with_reducible apply State.cacheUse_keeps
    | with_reducible apply State.check_keeps
    | with_reducible apply State.applyPage_keeps
    | with_reducible apply State.handOver_keeps
    | with_reducible apply State.checkVec_keeps
    | with_reducible apply State.faultVecTask_keeps
    | with_reducible apply State.patternVec_keeps
    | with_reducible apply State.vecSealErr_keeps
    | (fail_if_no_progress (with_reducible apply Keeps.update; rfl; rfl; first | exact Nat.le_refl _ | exact Nat.le_succ _))
    | split

theorem State.takeVec_keeps {s0 : State} {s : State} {n : Nat} {type : Nat}  (hkeep : Keeps s0 s) :
    Keeps.Outcome s0 (State.takeVec s n type) := by
  unfold State.takeVec
  repeat' first
    | with_reducible assumption
    | extract_lets
    | intro _
    | with_reducible apply Keeps.next
    | with_reducible exact Keeps.fault
    | with_reducible exact Keeps.refused
    | with_reducible apply Keeps.ite_outcome
    | with_reducible apply Keeps.ite
    | with_reducible apply State.whenFree_keeps
    | with_reducible apply State.onDie_keeps
    | with_reducible apply State.dispatchVec_keeps
    | (fail_if_no_progress (with_reducible apply Keeps.update; rfl; rfl; first | exact Nat.le_refl _ | exact Nat.le_succ _))
    | split

theorem execVecPattern_keeps {s0 : State} {n : Nat} {s : State}  (hkeep : Keeps s0 s) :
    Keeps.Outcome s0 (execVecPattern n s) := by
  unfold execVecPattern
  repeat' first
    | with_reducible assumption
    | extract_lets
    | intro _
    | with_reducible apply Keeps.next
    | with_reducible exact Keeps.fault
    | with_reducible exact Keeps.refused
    | with_reducible apply Keeps.ite_outcome
    | with_reducible apply Keeps.ite
    | with_reducible apply State.takeVec_keeps

theorem execConvert_keeps {s0 : State} {n : Nat} {s : State}  (hkeep : Keeps s0 s) :
    Keeps.Outcome s0 (execConvert n s) := by
  unfold execConvert
  repeat' first
    | with_reducible assumption
    | extract_lets
    | intro _
    | with_reducible apply Keeps.next
    | with_reducible exact Keeps.fault
    | with_reducible exact Keeps.refused
    | with_reducible apply Keeps.ite_outcome
    | with_reducible apply Keeps.ite
    | with_reducible apply State.takeVec_keeps

theorem State.vecMeasured_keeps {s0 : State} {s : State} {q : Nat} {t : Task} {r : VecRun}  (hkeep : Keeps s0 s) :
    Keeps s0 (State.vecMeasured s q t r) := by
  unfold State.vecMeasured
  repeat' first
    | with_reducible assumption
    | extract_lets
    | intro _
    | with_reducible apply Keeps.ite
    | with_reducible apply Keeps.ite_fst
    | with_reducible apply State.measureSlot_keeps
    | with_reducible apply State.pumpVec_keeps
    | with_reducible apply State.setVec_keeps
    | with_reducible apply Keeps.foldl

theorem execPatFlush_keeps {s0 : State} {view : View} {q : Quad} {c : Core} {s : State}  (hkeep : Keeps s0 s) :
    Keeps.Outcome s0 (execPatFlush view q c s) := by
  unfold execPatFlush
  repeat' first
    | with_reducible assumption
    | extract_lets
    | intro _
    | with_reducible apply Keeps.next
    | with_reducible exact Keeps.fault
    | with_reducible exact Keeps.refused
    | with_reducible apply Keeps.ite_outcome
    | with_reducible apply Keeps.ite
    | with_reducible apply State.onWrite_keeps
    | with_reducible apply State.crossOrPost_keeps

theorem execFlagsClear_keeps {s0 : State} {view : View} {q : Quad} {c : Core} {mask : Word} {s : State}  (hkeep : Keeps s0 s) :
    Keeps.Outcome s0 (execFlagsClear view q c mask s) := by
  unfold execFlagsClear
  repeat' first
    | with_reducible assumption
    | extract_lets
    | intro _
    | with_reducible apply Keeps.next
    | with_reducible exact Keeps.fault
    | with_reducible exact Keeps.refused
    | with_reducible apply Keeps.ite_outcome
    | with_reducible apply Keeps.ite
    | with_reducible apply State.onWrite_keeps
    | with_reducible apply State.crossOrPost_keeps

theorem execVecCoreCountClear_keeps {s0 : State} {view : View} {q : Quad} {c : Core} {s : State}  (hkeep : Keeps s0 s) :
    Keeps.Outcome s0 (execVecCoreCountClear view q c s) := by
  unfold execVecCoreCountClear
  repeat' first
    | with_reducible assumption
    | extract_lets
    | intro _
    | with_reducible apply Keeps.next
    | with_reducible exact Keeps.fault
    | with_reducible exact Keeps.refused
    | with_reducible apply Keeps.ite_outcome
    | with_reducible apply Keeps.ite
    | with_reducible apply State.onWrite_keeps
    | with_reducible apply State.crossOrPost_keeps

theorem execGradCoreCountClear_keeps {s0 : State} {view : View} {q : Quad} {c : Core} {s : State}  (hkeep : Keeps s0 s) :
    Keeps.Outcome s0 (execGradCoreCountClear view q c s) := by
  unfold execGradCoreCountClear
  repeat' first
    | with_reducible assumption
    | extract_lets
    | intro _
    | with_reducible apply Keeps.next
    | with_reducible exact Keeps.fault
    | with_reducible exact Keeps.refused
    | with_reducible apply Keeps.ite_outcome
    | with_reducible apply Keeps.ite
    | with_reducible apply State.onWrite_keeps
    | with_reducible apply State.crossOrPost_keeps

end Sys2Proof.Machine
end

