-- ==== Sys2Proof/Laws/KeepsUpdate.lean ====
section
/-! SUPPORT. The operations of Machine/Update.lean keep what every command keeps. -/

namespace Sys2Proof.Machine

theorem State.writeHead_keeps {s0 : State} {s : State} {x : UpdOp} {ps : List (Nat × List Byte)}  (hkeep : Keeps s0 s) :
    Keeps s0 (State.writeHead s x ps) := by
  unfold State.writeHead
  repeat' first
    | with_reducible assumption
    | extract_lets
    | intro _
    | with_reducible apply Keeps.ite
    | with_reducible apply Keeps.ite_fst
    | with_reducible apply State.putSealed_keeps

theorem State.putVec_keeps {s0 : State} {s : State} {a : Nat} {b : List Byte}  (hkeep : Keeps s0 s) :
    Keeps s0 (State.putVec s a b) := by
  unfold State.putVec
  repeat' first
    | with_reducible assumption
    | extract_lets
    | intro _
    | with_reducible apply Keeps.ite
    | with_reducible apply State.putSealed_keeps

theorem State.writeImage_keeps {s0 : State} {s : State} {x : UpdOp} {code : Nat → Nat → Nat} {scale : Nat → Nat} {step : Nat}  (hkeep : Keeps s0 s) :
    Keeps s0 (State.writeImage s x code scale step) := by
  unfold State.writeImage
  repeat' first
    | with_reducible assumption
    | extract_lets
    | intro _
    | with_reducible apply Keeps.ite
    | with_reducible apply State.putSealed_keeps

theorem State.setUpd_keeps {s0 : State} {s : State} {e : Nat} {layer : Nat} {u : Upd}  (hkeep : Keeps s0 s) :
    Keeps s0 (State.setUpd s e layer u) := by
  unfold State.setUpd
  repeat' first
    | with_reducible assumption
    | extract_lets
    | intro _
    | with_reducible apply Keeps.ite
    | with_reducible apply State.wfs_keeps
    | with_reducible apply State.applyPosted_keeps
    | (fail_if_no_progress (with_reducible apply Keeps.update; rfl; rfl; first | exact Nat.le_refl _ | exact Nat.le_succ _))

theorem State.updSealErr_keeps {s0 : State} {s : State} {e : Nat} {layer : Nat} {k : Nat}  (hkeep : Keeps s0 s) :
    Keeps s0 (State.updSealErr s e layer k) := by
  unfold State.updSealErr
  repeat' first
    | with_reducible assumption
    | extract_lets
    | intro _
    | with_reducible apply Keeps.ite
    | with_reducible apply State.inc_keeps
    | with_reducible apply State.cause_keeps
    | with_reducible apply State.err_keeps
    | with_reducible apply State.log_keeps

theorem State.checkTo_keeps {s0 : State} {s : State} {ks : List Nat} {code : Nat}  (hkeep : Keeps s0 s) :
    Keeps s0 (State.checkTo s ks code).1 := by
  unfold State.checkTo
  repeat' first
    | with_reducible assumption
    | extract_lets
    | intro _
    | with_reducible apply Keeps.ite
    | with_reducible apply Keeps.ite_fst
    | with_reducible apply State.check_keeps
    | (fail_if_no_progress (with_reducible apply Keeps.update; rfl; rfl; first | exact Nat.le_refl _ | exact Nat.le_succ _))
    | split

theorem State.readTo_keeps {s0 : State} {s : State} {rs : List (Nat × Nat)} {code : Nat}  (hkeep : Keeps s0 s) :
    Keeps s0 (State.readTo s rs code).1 := by
  unfold State.readTo
  repeat' first
    | with_reducible assumption
    | extract_lets
    | intro _
    | with_reducible apply Keeps.ite
    | with_reducible apply Keeps.ite_fst
    | with_reducible apply State.cacheReads_keeps
    | with_reducible apply State.checkTo_keeps

theorem State.endUpd_keeps {s0 : State} {s : State} {e : Nat} {t : Task} {x : UpdOp} {u : Upd} {f : UpdEnd}  (hkeep : Keeps s0 s) :
    Keeps s0 (State.endUpd s e t x u f) := by
  unfold State.endUpd
  repeat' first
    | with_reducible assumption
    | extract_lets
    | intro _
    | with_reducible apply Keeps.ite
    | with_reducible apply State.inc_keeps
    | with_reducible apply State.wfs_keeps
    | with_reducible apply State.cause_keeps
    | with_reducible apply State.endTask_keeps
    | (fail_if_no_progress (with_reducible apply Keeps.update; rfl; rfl; first | exact Nat.le_refl _ | exact Nat.le_succ _))

theorem State.faultUpd_keeps {s0 : State} {s : State} {e : Nat} {t : Task} {x : UpdOp} {u : Upd} {a : Nat}  (hkeep : Keeps s0 s) :
    Keeps s0 (State.faultUpd s e t x u a) := by
  unfold State.faultUpd
  repeat' first
    | with_reducible assumption
    | extract_lets
    | intro _
    | with_reducible apply Keeps.ite
    | with_reducible apply State.accessFault_keeps
    | with_reducible apply State.err_keeps
    | with_reducible apply State.endUpd_keeps

theorem State.holdLayer_keeps {s0 : State} {s : State} {e : Nat} {t : Task} {x : UpdOp} {u : Upd}  (hkeep : Keeps s0 s) :
    Keeps s0 (State.holdLayer s e t x u) := by
  unfold State.holdLayer
  repeat' first
    | with_reducible assumption
    | extract_lets
    | intro _
    | with_reducible apply Keeps.ite
    | with_reducible apply State.wfs_keeps
    | with_reducible apply State.log_keeps
    | with_reducible apply State.endUpd_keeps
    | with_reducible apply State.writeHead_keeps

theorem State.discard_keeps {s0 : State} {s : State} {e : Nat} {t : Task} {x : UpdOp} {u : Upd}  (hkeep : Keeps s0 s) :
    Keeps s0 (State.discard s e t x u) := by
  unfold State.discard
  repeat' first
    | with_reducible assumption
    | extract_lets
    | intro _
    | with_reducible apply Keeps.ite
    | with_reducible apply State.log_keeps
    | with_reducible apply State.endUpd_keeps
    | with_reducible apply State.writeHead_keeps

theorem State.enterPass2_keeps {s0 : State} {s : State} {e : Nat} {t : Task} {x : UpdOp} {u : Upd}  (hkeep : Keeps s0 s) :
    Keeps s0 (State.enterPass2 s e t x u) := by
  unfold State.enterPass2
  repeat' first
    | with_reducible assumption
    | extract_lets
    | intro _
    | with_reducible apply Keeps.ite
    | with_reducible apply State.faultUpd_keeps
    | with_reducible apply State.putVec_keeps
    | with_reducible apply State.setUpd_keeps
    | (fail_if_no_progress (with_reducible apply Keeps.update; rfl; rfl; first | exact Nat.le_refl _ | exact Nat.le_succ _))
    | split

theorem State.imageOfW_keeps {s0 : State} {s : State} {x : UpdOp} {scales : List Nat} {step : Nat}  (hkeep : Keeps s0 s) :
    Keeps s0 (State.imageOfW s x scales step).1 := by
  unfold State.imageOfW
  repeat' first
    | with_reducible assumption
    | extract_lets
    | intro _
    | with_reducible apply Keeps.ite
    | with_reducible apply Keeps.ite_fst
    | with_reducible apply State.writeImage_keeps

theorem State.endDerive_keeps {s0 : State} {s : State} {e : Nat} {t : Task} {x : UpdOp} {u : Upd} {scales : List Nat} {blocks : List Nat}  (hkeep : Keeps s0 s) :
    Keeps s0 (State.endDerive s e t x u scales blocks) := by
  unfold State.endDerive
  repeat' first
    | with_reducible assumption
    | extract_lets
    | intro _
    | with_reducible apply Keeps.ite
    | with_reducible apply Keeps.ite_fst
    | with_reducible apply State.endUpd_keeps
    | with_reducible apply State.imageOfW_keeps

theorem State.derive_keeps {s0 : State} {s : State} {e : Nat} {t : Task} {x : UpdOp} {u : Upd}  (hkeep : Keeps s0 s) :
    Keeps s0 (State.derive s e t x u) := by
  unfold State.derive
  repeat' first
    | with_reducible assumption
    | extract_lets
    | intro _
    | with_reducible apply Keeps.ite
    | with_reducible apply Keeps.ite_fst
    | with_reducible apply State.endDerive_keeps
    | with_reducible apply State.endUpd_keeps
    | with_reducible apply State.readTo_keeps
    | with_reducible apply State.updSealErr_keeps
    | (fail_if_no_progress (with_reducible apply Keeps.update; rfl; rfl; first | exact Nat.le_refl _ | exact Nat.le_succ _))
    | split

theorem State.deriveScales_keeps {s0 : State} {s : State} {e : Nat} {t : Task} {x : UpdOp} {u : Upd}  (hkeep : Keeps s0 s) :
    Keeps s0 (State.deriveScales s e t x u) := by
  unfold State.deriveScales
  repeat' first
    | with_reducible assumption
    | extract_lets
    | intro _
    | with_reducible apply Keeps.ite
    | with_reducible apply State.endDerive_keeps
    | with_reducible apply State.interlock_keeps
    | with_reducible apply State.putVec_keeps

theorem State.firstWrite_keeps {s0 : State} {s : State} {e : Nat} {t : Task} {x : UpdOp} {u : Upd}  (hkeep : Keeps s0 s) :
    Keeps s0 (State.firstWrite s e t x u) := by
  unfold State.firstWrite
  repeat' first
    | with_reducible assumption
    | extract_lets
    | intro _
    | with_reducible apply Keeps.ite
    | with_reducible apply State.deriveScales_keeps
    | with_reducible apply State.discard_keeps
    | with_reducible apply State.enterPass2_keeps
    | with_reducible apply State.holdLayer_keeps

theorem State.interlock_keeps {s0 : State} {s : State} {e : Nat} {t : Task} {x : UpdOp} {u : Upd}  (hkeep : Keeps s0 s) :
    Keeps s0 (State.interlock s e t x u) := by
  unfold State.interlock
  repeat' first
    | with_reducible assumption
    | extract_lets
    | intro _
    | with_reducible apply Keeps.ite
    | with_reducible apply State.firstWrite_keeps
    | with_reducible apply State.setUpd_keeps

theorem State.beginUpd_keeps {s0 : State} {s : State} {e : Nat} {t : Task} {x : UpdOp} {u : Upd}  (hkeep : Keeps s0 s) :
    Keeps s0 (State.beginUpd s e t x u) := by
  unfold State.beginUpd
  repeat' first
    | with_reducible assumption
    | extract_lets
    | intro _
    | with_reducible apply Keeps.ite
    | with_reducible apply Keeps.ite_fst
    | with_reducible apply State.derive_keeps
    | with_reducible apply State.endUpd_keeps
    | with_reducible apply State.interlock_keeps
    | with_reducible apply State.readTo_keeps
    | with_reducible apply State.setUpd_keeps
    | with_reducible apply State.updSealErr_keeps
    | (fail_if_no_progress (with_reducible apply Keeps.update; rfl; rfl; first | exact Nat.le_refl _ | exact Nat.le_succ _))
    | split

theorem State.updKeys_keeps {s0 : State} {s : State} {e : Nat} {t : Task} {x : UpdOp} {u : Upd}  (hkeep : Keeps s0 s) :
    Keeps s0 (State.updKeys s e t x u) := by
  unfold State.updKeys
  repeat' first
    | with_reducible assumption
    | extract_lets
    | intro _
    | with_reducible apply Keeps.ite
    | with_reducible apply State.cacheUse_keeps
    | with_reducible apply State.check_keeps
    | with_reducible apply State.keyErr_keeps
    | with_reducible apply State.beginUpd_keeps
    | with_reducible apply State.endUpd_keeps
    | with_reducible apply State.faultUpd_keeps
    | (fail_if_no_progress (with_reducible apply Keeps.update; rfl; rfl; first | exact Nat.le_refl _ | exact Nat.le_succ _))
    | split

theorem State.startUpd_keeps {s0 : State} {s : State} {e : Nat} {t : Task}  (hkeep : Keeps s0 s) :
    Keeps s0 (State.startUpd s e t) := by
  unfold State.startUpd
  repeat' first
    | with_reducible assumption
    | extract_lets
    | intro _
    | with_reducible apply Keeps.ite
    | with_reducible apply Keeps.ite_fst
    | with_reducible apply State.wf_keeps
    | with_reducible apply State.log_keeps
    | with_reducible apply State.applyPage_keeps
    | with_reducible apply State.endUpd_keeps
    | with_reducible apply State.faultUpd_keeps
    | with_reducible apply State.readTo_keeps
    | with_reducible apply State.updKeys_keeps
    | with_reducible apply State.updSealErr_keeps
    | (fail_if_no_progress (with_reducible apply Keeps.update; rfl; rfl; first | exact Nat.le_refl _ | exact Nat.le_succ _))
    | split

theorem State.tryUpd_keeps {s0 : State} {s : State} {e : Nat} {t : Task}  (hkeep : Keeps s0 s) :
    Keeps s0 (State.tryUpd s e t) := by
  unfold State.tryUpd
  repeat' first
    | with_reducible assumption
    | extract_lets
    | intro _
    | with_reducible apply Keeps.ite
    | with_reducible apply State.whenFree_keeps
    | with_reducible apply State.startUpd_keeps

theorem State.dispatchUpd_keeps {s0 : State} {s : State} {e : Nat} {t : Task}  (hkeep : Keeps s0 s) :
    Keeps s0 (State.dispatchUpd s e t) := by
  unfold State.dispatchUpd
  repeat' first
    | with_reducible assumption
    | extract_lets
    | intro _
    | with_reducible apply Keeps.ite
    | with_reducible apply State.handOver_keeps
    | with_reducible apply State.closeWindow_keeps
    | with_reducible apply State.tryUpd_keeps

theorem State.takeUpd_keeps {s0 : State} {s : State} {n : Nat} {mode : Nat}  (hkeep : Keeps s0 s) :
    Keeps.Outcome s0 (State.takeUpd s n mode) := by
  unfold State.takeUpd
  repeat' first
    | with_reducible assumption
    | extract_lets
    | intro _
    | with_reducible apply Keeps.next
    | with_reducible exact Keeps.fault
    | with_reducible exact Keeps.refused
    | with_reducible apply Keeps.ite_outcome
    | with_reducible apply Keeps.ite
    | with_reducible apply State.onDie_keeps
    | with_reducible apply State.dispatchUpd_keeps
    | with_reducible apply State.tryUpd_keeps
    | (fail_if_no_progress (with_reducible apply Keeps.update; rfl; rfl; first | exact Nat.le_refl _ | exact Nat.le_succ _))
    | split

theorem execUpdateNormal_keeps {s0 : State} {n : Nat} {s : State}  (hkeep : Keeps s0 s) :
    Keeps.Outcome s0 (execUpdateNormal n s) := by
  unfold execUpdateNormal
  repeat' first
    | with_reducible assumption
    | extract_lets
    | intro _
    | with_reducible apply Keeps.next
    | with_reducible exact Keeps.fault
    | with_reducible exact Keeps.refused
    | with_reducible apply Keeps.ite_outcome
    | with_reducible apply Keeps.ite
    | with_reducible apply State.takeUpd_keeps

theorem execUpdateCommit_keeps {s0 : State} {n : Nat} {s : State}  (hkeep : Keeps s0 s) :
    Keeps.Outcome s0 (execUpdateCommit n s) := by
  unfold execUpdateCommit
  repeat' first
    | with_reducible assumption
    | extract_lets
    | intro _
    | with_reducible apply Keeps.next
    | with_reducible exact Keeps.fault
    | with_reducible exact Keeps.refused
    | with_reducible apply Keeps.ite_outcome
    | with_reducible apply Keeps.ite
    | with_reducible apply State.takeUpd_keeps

theorem execUpdateDiscard_keeps {s0 : State} {n : Nat} {s : State}  (hkeep : Keeps s0 s) :
    Keeps.Outcome s0 (execUpdateDiscard n s) := by
  unfold execUpdateDiscard
  repeat' first
    | with_reducible assumption
    | extract_lets
    | intro _
    | with_reducible apply Keeps.next
    | with_reducible exact Keeps.fault
    | with_reducible exact Keeps.refused
    | with_reducible apply Keeps.ite_outcome
    | with_reducible apply Keeps.ite
    | with_reducible apply State.takeUpd_keeps

theorem execUpdateProbe_keeps {s0 : State} {n : Nat} {s : State}  (hkeep : Keeps s0 s) :
    Keeps.Outcome s0 (execUpdateProbe n s) := by
  unfold execUpdateProbe
  repeat' first
    | with_reducible assumption
    | extract_lets
    | intro _
    | with_reducible apply Keeps.next
    | with_reducible exact Keeps.fault
    | with_reducible exact Keeps.refused
    | with_reducible apply Keeps.ite_outcome
    | with_reducible apply Keeps.ite
    | with_reducible apply State.takeUpd_keeps

theorem execUpdateDerive_keeps {s0 : State} {n : Nat} {s : State}  (hkeep : Keeps s0 s) :
    Keeps.Outcome s0 (execUpdateDerive n s) := by
  unfold execUpdateDerive
  repeat' first
    | with_reducible assumption
    | extract_lets
    | intro _
    | with_reducible apply Keeps.next
    | with_reducible exact Keeps.fault
    | with_reducible exact Keeps.refused
    | with_reducible apply Keeps.ite_outcome
    | with_reducible apply Keeps.ite
    | with_reducible apply State.takeUpd_keeps

theorem execUpdateDeriveScales_keeps {s0 : State} {n : Nat} {s : State}  (hkeep : Keeps s0 s) :
    Keeps.Outcome s0 (execUpdateDeriveScales n s) := by
  unfold execUpdateDeriveScales
  repeat' first
    | with_reducible assumption
    | extract_lets
    | intro _
    | with_reducible apply Keeps.next
    | with_reducible exact Keeps.fault
    | with_reducible exact Keeps.refused
    | with_reducible apply Keeps.ite_outcome
    | with_reducible apply Keeps.ite
    | with_reducible apply State.takeUpd_keeps

theorem State.onUpd_keeps {s0 : State} {s : State} {e : Nat} {phase : UpdPhase} {k : Task → UpdOp → Upd → Host.Outcome State Fault Refusal} (hk : ∀ y0 y1 y2, Keeps.Outcome s0 (k y0 y1 y2)) (hkeep : Keeps s0 s) :
    Keeps.Outcome s0 (State.onUpd s e phase k) := by
  unfold State.onUpd
  repeat' first
    | with_reducible assumption
    | extract_lets
    | intro _
    | with_reducible apply Keeps.next
    | with_reducible exact Keeps.fault
    | with_reducible exact Keeps.refused
    | with_reducible apply Keeps.ite_outcome
    | with_reducible apply Keeps.ite
    | with_reducible apply hk
    | (fail_if_no_progress (with_reducible apply Keeps.update; rfl; rfl; first | exact Nat.le_refl _ | exact Nat.le_succ _))
    | split

theorem execTagWaitEnd_keeps {s0 : State} {e : Engine} {s : State}  (hkeep : Keeps s0 s) :
    Keeps.Outcome s0 (execTagWaitEnd e s) := by
  unfold execTagWaitEnd
  repeat' first
    | with_reducible assumption
    | extract_lets
    | intro _
    | with_reducible apply Keeps.next
    | with_reducible exact Keeps.fault
    | with_reducible exact Keeps.refused
    | with_reducible apply Keeps.ite_outcome
    | with_reducible apply Keeps.ite
    | with_reducible apply State.log_keeps
    | with_reducible apply State.endUpd_keeps
    | with_reducible apply State.onUpd_keeps
    | with_reducible apply State.setUpd_keeps

theorem execStepTagStale_keeps {s0 : State} {e : Engine} {s : State}  (hkeep : Keeps s0 s) :
    Keeps.Outcome s0 (execStepTagStale e s) := by
  unfold execStepTagStale
  repeat' first
    | with_reducible assumption
    | extract_lets
    | intro _
    | with_reducible apply Keeps.next
    | with_reducible exact Keeps.fault
    | with_reducible exact Keeps.refused
    | with_reducible apply Keeps.ite_outcome
    | with_reducible apply Keeps.ite
    | with_reducible apply State.log_keeps
    | with_reducible apply State.endUpd_keeps
    | with_reducible apply State.onUpd_keeps

theorem State.holdReasons_keeps {s0 : State} {s : State} {e : Nat} {x : UpdOp} {u : Upd} {gBad : Bool}  (hkeep : Keeps s0 s) :
    Keeps s0 (State.holdReasons s e x u gBad).1 := by
  unfold State.holdReasons
  repeat' first
    | with_reducible assumption
    | extract_lets
    | intro _
    | with_reducible apply Keeps.ite
    | with_reducible apply Keeps.ite_fst
    | with_reducible apply State.wf_keeps

theorem State.decide1_keeps {s0 : State} {s : State} {e : Nat} {t : Task} {x : UpdOp} {u : Upd} {p : Pass1} {gBad : Bool}  (hkeep : Keeps s0 s) :
    Keeps s0 (State.decide1 s e t x u p gBad) := by
  unfold State.decide1
  repeat' first
    | with_reducible assumption
    | extract_lets
    | intro _
    | with_reducible apply Keeps.ite
    | with_reducible apply Keeps.ite_fst
    | with_reducible apply State.endUpd_keeps
    | with_reducible apply State.holdReasons_keeps
    | with_reducible apply State.interlock_keeps

theorem State.readPass1_keeps {s0 : State} {s : State} {e : Nat} {t : Task} {x : UpdOp} {u : Upd}  (hkeep : Keeps s0 s) :
    Keeps s0 (State.readPass1 s e t x u) := by
  unfold State.readPass1
  repeat' first
    | with_reducible assumption
    | extract_lets
    | intro _
    | with_reducible apply Keeps.ite
    | with_reducible apply Keeps.ite_fst
    | with_reducible apply State.cacheReads_keeps
    | with_reducible apply State.check_keeps
    | with_reducible apply State.log_keeps
    | with_reducible apply State.decide1_keeps
    | with_reducible apply State.endUpd_keeps
    | with_reducible apply State.readTo_keeps
    | with_reducible apply State.updSealErr_keeps
    | with_reducible apply Keeps.foldl
    | with_reducible apply Keeps.foldl_fst
    | (fail_if_no_progress (with_reducible apply Keeps.update; rfl; rfl; first | exact Nat.le_refl _ | exact Nat.le_succ _))
    | split

theorem State.endPass1_keeps {s0 : State} {s : State} {e : Nat} {t : Task} {x : UpdOp} {u : Upd}  (hkeep : Keeps s0 s) :
    Keeps s0 (State.endPass1 s e t x u) := by
  unfold State.endPass1
  repeat' first
    | with_reducible assumption
    | extract_lets
    | intro _
    | with_reducible apply Keeps.ite
    | with_reducible apply State.faultUpd_keeps
    | with_reducible apply State.readPass1_keeps
    | (fail_if_no_progress (with_reducible apply Keeps.update; rfl; rfl; first | exact Nat.le_refl _ | exact Nat.le_succ _))
    | split

theorem execPass1Done_keeps {s0 : State} {e : Engine} {s : State}  (hkeep : Keeps s0 s) :
    Keeps.Outcome s0 (execPass1Done e s) := by
  unfold execPass1Done
  repeat' first
    | with_reducible assumption
    | extract_lets
    | intro _
    | with_reducible apply Keeps.next
    | with_reducible exact Keeps.fault
    | with_reducible exact Keeps.refused
    | with_reducible apply Keeps.ite_outcome
    | with_reducible apply Keeps.ite
    | with_reducible apply State.whenFree_keeps
    | with_reducible apply State.onDie_keeps
    | with_reducible apply State.endPass1_keeps
    | with_reducible apply State.onUpd_keeps

theorem execCheckpointInterlockClear_keeps {s0 : State} {e : Engine} {s : State}  (hkeep : Keeps s0 s) :
    Keeps.Outcome s0 (execCheckpointInterlockClear e s) := by
  unfold execCheckpointInterlockClear
  repeat' first
    | with_reducible assumption
    | extract_lets
    | intro _
    | with_reducible apply Keeps.next
    | with_reducible exact Keeps.fault
    | with_reducible exact Keeps.refused
    | with_reducible apply Keeps.ite_outcome
    | with_reducible apply Keeps.ite
    | with_reducible apply State.whenFree_keeps
    | with_reducible apply State.onDie_keeps
    | with_reducible apply State.firstWrite_keeps
    | with_reducible apply State.onUpd_keeps

theorem execCheckpointInterlockTimeout_keeps {s0 : State} {e : Engine} {s : State}  (hkeep : Keeps s0 s) :
    Keeps.Outcome s0 (execCheckpointInterlockTimeout e s) := by
  unfold execCheckpointInterlockTimeout
  repeat' first
    | with_reducible assumption
    | extract_lets
    | intro _
    | with_reducible apply Keeps.next
    | with_reducible exact Keeps.fault
    | with_reducible exact Keeps.refused
    | with_reducible apply Keeps.ite_outcome
    | with_reducible apply Keeps.ite
    | with_reducible apply State.log_keeps
    | with_reducible apply State.endUpd_keeps
    | with_reducible apply State.onUpd_keeps

theorem State.writeRows_keeps {s0 : State} {s : State} {x : UpdOp} {u : Upd} {rows : List (List Elem2)}  (hkeep : Keeps s0 s) :
    Keeps s0 (State.writeRows s x u rows) := by
  unfold State.writeRows
  repeat' first
    | with_reducible assumption
    | extract_lets
    | intro _
    | with_reducible apply Keeps.ite
    | with_reducible apply Keeps.ite_fst
    | with_reducible apply State.store_keeps

theorem State.partialUpd_keeps {s0 : State} {s : State} {e : Nat} {x : UpdOp} {u : Upd} {row : Nat}  (hkeep : Keeps s0 s) :
    Keeps s0 (State.partialUpd s e x u row).1 := by
  unfold State.partialUpd
  repeat' first
    | with_reducible assumption
    | extract_lets
    | intro _
    | with_reducible apply Keeps.ite
    | with_reducible apply Keeps.ite_fst
    | with_reducible apply State.inc64_keeps
    | with_reducible apply State.putSealed_keeps
    | with_reducible apply State.cause_keeps
    | with_reducible apply State.log_keeps
    | with_reducible apply State.writeHead_keeps
    | with_reducible apply State.writeRows_keeps
    | with_reducible apply Keeps.foldl

theorem State.endPartial_keeps {s0 : State} {s : State} {e : Nat} {t : Task} {x : UpdOp} {u : Upd} {p : PartEnd} {status : Nat} {event : Nat}  (hkeep : Keeps s0 s) :
    Keeps s0 (State.endPartial s e t x u p status event) := by
  unfold State.endPartial
  repeat' first
    | with_reducible assumption
    | extract_lets
    | intro _
    | with_reducible apply Keeps.ite
    | with_reducible apply State.endUpd_keeps

theorem State.commitUpd_keeps {s0 : State} {s : State} {e : Nat} {t : Task} {x : UpdOp} {u : Upd}  (hkeep : Keeps s0 s) :
    Keeps s0 (State.commitUpd s e t x u) := by
  unfold State.commitUpd
  repeat' first
    | with_reducible assumption
    | extract_lets
    | intro _
    | with_reducible apply Keeps.ite
    | with_reducible apply Keeps.ite_fst
    | with_reducible apply State.inc_keeps
    | with_reducible apply State.inc64_keeps
    | with_reducible apply State.wf_keeps
    | with_reducible apply State.log_keeps
    | with_reducible apply State.endUpd_keeps
    | with_reducible apply State.putVec_keeps
    | with_reducible apply State.writeHead_keeps
    | with_reducible apply State.writeImage_keeps
    | with_reducible apply State.writeRows_keeps

theorem State.endPass2_keeps {s0 : State} {s : State} {e : Nat} {t : Task} {x : UpdOp} {u : Upd}  (hkeep : Keeps s0 s) :
    Keeps s0 (State.endPass2 s e t x u) := by
  unfold State.endPass2
  repeat' first
    | with_reducible assumption
    | extract_lets
    | intro _
    | with_reducible apply Keeps.ite
    | with_reducible apply Keeps.ite_fst
    | with_reducible apply State.cacheReads_keeps
    | with_reducible apply State.check_keeps
    | with_reducible apply State.commitUpd_keeps
    | with_reducible apply State.endPartial_keeps
    | with_reducible apply State.partialUpd_keeps
    | with_reducible apply State.updSealErr_keeps
    | (fail_if_no_progress (with_reducible apply Keeps.update; rfl; rfl; first | exact Nat.le_refl _ | exact Nat.le_succ _))
    | split

theorem execPass2Done_keeps {s0 : State} {e : Engine} {s : State}  (hkeep : Keeps s0 s) :
    Keeps.Outcome s0 (execPass2Done e s) := by
  unfold execPass2Done
  repeat' first
    | with_reducible assumption
    | extract_lets
    | intro _
    | with_reducible apply Keeps.next
    | with_reducible exact Keeps.fault
    | with_reducible exact Keeps.refused
    | with_reducible apply Keeps.ite_outcome
    | with_reducible apply Keeps.ite
    | with_reducible apply State.whenFree_keeps
    | with_reducible apply State.onDie_keeps
    | with_reducible apply State.endPass2_keeps
    | with_reducible apply State.onUpd_keeps

theorem State.abortUpd_keeps {s0 : State} {s : State} {e : Nat}  (hkeep : Keeps s0 s) :
    Keeps s0 (State.abortUpd s e) := by
  unfold State.abortUpd
  repeat' first
    | with_reducible assumption
    | extract_lets
    | intro _
    | with_reducible apply Keeps.ite
    | with_reducible apply Keeps.ite_fst
    | with_reducible apply State.draw_keeps
    | with_reducible apply State.endPartial_keeps
    | with_reducible apply State.endUpd_keeps
    | with_reducible apply State.partialUpd_keeps
    | (fail_if_no_progress (with_reducible apply Keeps.update; rfl; rfl; first | exact Nat.le_refl _ | exact Nat.le_succ _))
    | split

theorem execHoldReq_keeps {s0 : State} {view : View} {e : Engine} {arm : Bool} {layer : BitVec 16} {s : State}  (hkeep : Keeps s0 s) :
    Keeps.Outcome s0 (execHoldReq view e arm layer s) := by
  unfold execHoldReq
  repeat' first
    | with_reducible assumption
    | extract_lets
    | intro _
    | with_reducible apply Keeps.next
    | with_reducible exact Keeps.fault
    | with_reducible exact Keeps.refused
    | with_reducible apply Keeps.ite_outcome
    | with_reducible apply Keeps.ite
    | with_reducible apply State.onWrite_keeps
    | with_reducible apply State.crossOrPost_keeps

theorem execUpdateCountClear_keeps {s0 : State} {view : View} {e : Engine} {s : State}  (hkeep : Keeps s0 s) :
    Keeps.Outcome s0 (execUpdateCountClear view e s) := by
  unfold execUpdateCountClear
  repeat' first
    | with_reducible assumption
    | extract_lets
    | intro _
    | with_reducible apply Keeps.next
    | with_reducible exact Keeps.fault
    | with_reducible exact Keeps.refused
    | with_reducible apply Keeps.ite_outcome
    | with_reducible apply Keeps.ite
    | with_reducible apply State.onWrite_keeps
    | with_reducible apply State.crossOrPost_keeps

end Sys2Proof.Machine
end

