-- ==== Sys2Proof/Laws/KeepsDma.lean ====
section
/-! SUPPORT. The operations of Machine/Dma.lean keep what every command keeps. -/

namespace Sys2Proof.Machine

theorem Keeps.foldl_moved {α : Type} {s0 : State} {m : Moved} {l : List α} {f : Moved → α → Moved} (h : Keeps s0 m.s)
    (hf : ∀ t x, Keeps s0 t.s → Keeps s0 (f t x).s) : Keeps s0 (l.foldl f m).s := by
  induction l generalizing m with
  | nil => exact h
  | cons x t ih => exact ih (hf m x h)

theorem Keeps.ite_moved {s0 : State} {c : Prop} [Decidable c] {a b : Moved} (ha : Keeps s0 a.s) (hb : Keeps s0 b.s) :
    Keeps s0 (if c then a else b).s := by
  split
  · exact ha
  · exact hb

theorem Moved.piece_keeps {s0 : State} {m : Moved} {whole : Bool} {src : Nat} {dst : Nat} {n : Nat}  (hkeep : Keeps s0 m.s) :
    Keeps s0 (Moved.piece m whole src dst n).s := by
  unfold Moved.piece
  repeat' first
    | with_reducible assumption
    | extract_lets
    | intro _
    | with_reducible apply Keeps.ite
    | with_reducible apply Keeps.ite_fst
    | with_reducible apply State.put_keeps
    | with_reducible apply State.setSeal_keeps
    | with_reducible apply State.store_keeps
    | with_reducible apply State.check_keeps
    | with_reducible apply State.sealFail_keeps
    | with_reducible apply PutAcc.put_keeps
    | with_reducible apply Keeps.ite_moved
    | (fail_if_no_progress (with_reducible apply Keeps.update; rfl; rfl; first | exact Nat.le_refl _ | exact Nat.le_succ _))
    | split

theorem Moved.run_keeps {s0 : State} {m : Moved} {src : Nat} {dst : Nat} {len : Nat} {lo : Nat} {hi : Nat}  (hkeep : Keeps s0 m.s) :
    Keeps s0 (Moved.run m src dst len lo hi).s := by
  unfold Moved.run
  repeat' first
    | with_reducible assumption
    | extract_lets
    | intro _
    | with_reducible apply Keeps.ite
    | with_reducible apply Keeps.ite_fst
    | with_reducible apply Moved.piece_keeps
    | with_reducible apply Keeps.foldl_moved
    | with_reducible apply Keeps.ite_moved

theorem Moved.copy_keeps {s0 : State} {m : Moved} {src : Nat} {dst : Nat} {len : Nat}  (hkeep : Keeps s0 m.s) :
    Keeps s0 (Moved.copy m src dst len).s := by
  unfold Moved.copy
  repeat' first
    | with_reducible assumption
    | extract_lets
    | intro _
    | with_reducible apply Keeps.ite
    | with_reducible apply State.cacheUse_keeps
    | with_reducible apply Moved.run_keeps

theorem Moved.fill_keeps {s0 : State} {m : Moved} {dst : Nat} {b : List Byte}  (hkeep : Keeps s0 m.s) :
    Keeps s0 (Moved.fill m dst b).s := by
  unfold Moved.fill
  repeat' first
    | with_reducible assumption
    | extract_lets
    | intro _
    | with_reducible apply Keeps.ite
    | with_reducible apply Keeps.ite_fst
    | with_reducible apply State.store_keeps
    | with_reducible apply State.sealFail_keeps
    | with_reducible apply Keeps.ite_moved
    | (fail_if_no_progress (with_reducible apply Keeps.update; rfl; rfl; first | exact Nat.le_refl _ | exact Nat.le_succ _))
    | split

theorem State.setChan_keeps {s0 : State} {s : State} {n : Nat} {c : Nat} {v : Chan}  (hkeep : Keeps s0 s) :
    Keeps s0 (State.setChan s n c v) := by
  unfold State.setChan
  repeat' first
    | with_reducible assumption
    | extract_lets
    | intro _
    | with_reducible apply Keeps.ite
    | (fail_if_no_progress (with_reducible apply Keeps.update; rfl; rfl; first | exact Nat.le_refl _ | exact Nat.le_succ _))

theorem State.setCf_keeps {s0 : State} {s : State} {n : Nat} {c : Nat} {f : Fld} {v : Nat}  (hkeep : Keeps s0 s) :
    Keeps s0 (State.setCf s n c f v) := by
  unfold State.setCf
  repeat' first
    | with_reducible assumption
    | extract_lets
    | intro _
    | with_reducible apply Keeps.ite
    | with_reducible apply State.wf_keeps

theorem State.showChan_keeps {s0 : State} {s : State} {n : Nat} {c : Nat}  (hkeep : Keeps s0 s) :
    Keeps s0 (State.showChan s n c) := by
  unfold State.showChan
  repeat' first
    | with_reducible assumption
    | extract_lets
    | intro _
    | with_reducible apply Keeps.ite
    | with_reducible apply State.wf_keeps
    | with_reducible apply State.setCf_keeps

theorem State.startXfer_keeps {s0 : State} {s : State} {n : Nat} {c : Nat} {src : Nat} {dst : Nat} {len : Nat} {v : Chan}  (hkeep : Keeps s0 s) :
    Keeps s0 (State.startXfer s n c src dst len v) := by
  unfold State.startXfer
  repeat' first
    | with_reducible assumption
    | extract_lets
    | intro _
    | with_reducible apply Keeps.ite
    | with_reducible apply State.wf64_keeps
    | with_reducible apply State.setCf_keeps
    | with_reducible apply State.setChan_keeps
    | with_reducible apply State.showChan_keeps

theorem State.takeShadow_keeps {s0 : State} {s : State} {n : Nat} {c : Nat}  (hkeep : Keeps s0 s) :
    Keeps s0 (State.takeShadow s n c) := by
  unfold State.takeShadow
  repeat' first
    | with_reducible assumption
    | extract_lets
    | intro _
    | with_reducible apply Keeps.ite
    | with_reducible apply Keeps.ite_fst
    | with_reducible apply State.burst_keeps
    | with_reducible apply State.setCf_keeps
    | with_reducible apply State.setChan_keeps
    | with_reducible apply State.startXfer_keeps
    | (fail_if_no_progress (with_reducible apply Keeps.update; rfl; rfl; first | exact Nat.le_refl _ | exact Nat.le_succ _))
    | split

theorem State.loadDma_keeps {s0 : State} {s : State} {t : Task} {n : Nat} {c : Nat} {segs : List (Nat × Nat × Nat)}  (hkeep : Keeps s0 s) :
    Keeps s0 (State.loadDma s t n c segs) := by
  unfold State.loadDma
  repeat' first
    | with_reducible assumption
    | extract_lets
    | intro _
    | with_reducible apply Keeps.ite
    | with_reducible apply Keeps.ite_fst
    | with_reducible apply State.wf64_keeps
    | with_reducible apply State.setCf_keeps
    | with_reducible apply State.setChan_keeps
    | with_reducible apply State.takeShadow_keeps

theorem State.feedDma_keeps {s0 : State} {s : State} {n : Nat}  (hkeep : Keeps s0 s) :
    Keeps s0 (State.feedDma s n) := by
  unfold State.feedDma
  repeat' first
    | with_reducible assumption
    | extract_lets
    | intro _
    | with_reducible apply Keeps.ite
    | with_reducible apply Keeps.ite_fst
    | with_reducible apply State.whenSome_keeps
    | with_reducible apply State.loadDma_keeps
    | (fail_if_no_progress (with_reducible apply Keeps.update; rfl; rfl; first | exact Nat.le_refl _ | exact Nat.le_succ _))
    | split

theorem State.pumpDma_keeps {s0 : State} {s : State} {n : Nat}  (hkeep : Keeps s0 s) :
    Keeps s0 (State.pumpDma s n) := by
  unfold State.pumpDma
  repeat' first
    | with_reducible assumption
    | extract_lets
    | intro _
    | with_reducible apply Keeps.ite
    | with_reducible apply State.feedDma_keeps
    | with_reducible apply Keeps.foldl

theorem State.dmaSealErr_keeps {s0 : State} {s : State} {n : Nat} {c : Nat} {k : Nat}  (hkeep : Keeps s0 s) :
    Keeps s0 (State.dmaSealErr s n c k) := by
  unfold State.dmaSealErr
  repeat' first
    | with_reducible assumption
    | extract_lets
    | intro _
    | with_reducible apply Keeps.ite
    | with_reducible apply State.err_keeps
    | with_reducible apply State.log_keeps

theorem State.dmaFault_keeps {s0 : State} {s : State} {n : Nat} {c : Nat} {a : Nat} {type : Nat}  (hkeep : Keeps s0 s) :
    Keeps s0 (State.dmaFault s n c a type) := by
  unfold State.dmaFault
  repeat' first
    | with_reducible assumption
    | extract_lets
    | intro _
    | with_reducible apply Keeps.ite
    | with_reducible apply State.accessFault_keeps
    | with_reducible apply State.err_keeps

theorem State.burst_keeps {s0 : State} {s : State} {n : Nat} {c : Nat}  (hkeep : Keeps s0 s) :
    Keeps s0 (State.burst s n c) := by
  unfold State.burst
  repeat' first
    | with_reducible assumption
    | extract_lets
    | intro _
    | with_reducible apply Keeps.ite
    | with_reducible apply State.cacheUse_keeps
    | with_reducible apply State.inc64_keeps
    | with_reducible apply State.wf64_keeps
    | with_reducible apply Moved.run_keeps
    | with_reducible apply State.dmaFault_keeps
    | with_reducible apply State.dmaSealErr_keeps
    | with_reducible apply State.setCf_keeps
    | with_reducible apply State.setChan_keeps
    | with_reducible apply State.showChan_keeps
    | with_reducible apply Keeps.ite_moved
    | (fail_if_no_progress (with_reducible apply Keeps.update; rfl; rfl; first | exact Nat.le_refl _ | exact Nat.le_succ _))
    | split

theorem execDmaBurstIssue_keeps {s0 : State} {n : Die8} {c : ChanNo} {s : State}  (hkeep : Keeps s0 s) :
    Keeps.Outcome s0 (execDmaBurstIssue n c s) := by
  unfold execDmaBurstIssue
  repeat' first
    | with_reducible assumption
    | extract_lets
    | intro _
    | with_reducible apply Keeps.next
    | with_reducible exact Keeps.fault
    | with_reducible exact Keeps.refused
    | with_reducible apply Keeps.ite_outcome
    | with_reducible apply Keeps.ite
    | with_reducible apply State.whenFree_keeps
    | with_reducible apply State.onDie_keeps
    | with_reducible apply State.burst_keeps

theorem State.statRecord_keeps {s0 : State} {s : State} {n : Nat} {c : Nat} {v : Chan}  (hkeep : Keeps s0 s) :
    Keeps s0 (State.statRecord s n c v) := by
  unfold State.statRecord
  repeat' first
    | with_reducible assumption
    | extract_lets
    | intro _
    | with_reducible apply Keeps.ite
    | with_reducible apply State.put_keeps
    | with_reducible apply PutAcc.put_keeps
    | with_reducible apply State.dmaFault_keeps
    | (fail_if_no_progress (with_reducible apply Keeps.update; rfl; rfl; first | exact Nat.le_refl _ | exact Nat.le_succ _))
    | split

theorem State.endDma_keeps {s0 : State} {s : State} {c : Nat} {v : Chan}  (hkeep : Keeps s0 s) :
    Keeps s0 (State.endDma s c v) := by
  unfold State.endDma
  repeat' first
    | with_reducible assumption
    | extract_lets
    | intro _
    | with_reducible apply Keeps.ite
    | with_reducible apply State.endTask_keeps
    | with_reducible apply State.readBack_keeps
    | (fail_if_no_progress (with_reducible apply Keeps.update; rfl; rfl; first | exact Nat.le_refl _ | exact Nat.le_succ _))
    | split

theorem State.endXfer_keeps {s0 : State} {s : State} {n : Nat} {c : Nat}  (hkeep : Keeps s0 s) :
    Keeps s0 (State.endXfer s n c) := by
  unfold State.endXfer
  repeat' first
    | with_reducible assumption
    | extract_lets
    | intro _
    | with_reducible apply Keeps.ite
    | with_reducible apply Keeps.ite_fst
    | with_reducible apply State.wf_keeps
    | with_reducible apply State.cause_keeps
    | with_reducible apply State.log_keeps
    | with_reducible apply State.endDma_keeps
    | with_reducible apply State.pumpDma_keeps
    | with_reducible apply State.setCf_keeps
    | with_reducible apply State.setChan_keeps
    | with_reducible apply State.showChan_keeps
    | with_reducible apply State.startXfer_keeps
    | with_reducible apply State.statRecord_keeps
    | with_reducible apply State.takeShadow_keeps
    | (fail_if_no_progress (with_reducible apply Keeps.update; rfl; rfl; first | exact Nat.le_refl _ | exact Nat.le_succ _))
    | split

theorem execDmaTransferEnd_keeps {s0 : State} {n : Die8} {c : ChanNo} {s : State}  (hkeep : Keeps s0 s) :
    Keeps.Outcome s0 (execDmaTransferEnd n c s) := by
  unfold execDmaTransferEnd
  repeat' first
    | with_reducible assumption
    | extract_lets
    | intro _
    | with_reducible apply Keeps.next
    | with_reducible exact Keeps.fault
    | with_reducible exact Keeps.refused
    | with_reducible apply Keeps.ite_outcome
    | with_reducible apply Keeps.ite
    | with_reducible apply State.onDie_keeps
    | with_reducible apply State.endXfer_keeps

theorem State.arm_keeps {s0 : State} {s : State} {n : Nat} {c : Nat}  (hkeep : Keeps s0 s) :
    Keeps s0 (State.arm s n c) := by
  unfold State.arm
  repeat' first
    | with_reducible assumption
    | extract_lets
    | intro _
    | with_reducible apply Keeps.ite
    | with_reducible apply State.setCf_keeps
    | with_reducible apply State.takeShadow_keeps

theorem execChArm_keeps {s0 : State} {view : View} {n : Die8} {c : ChanNo} {s : State}  (hkeep : Keeps s0 s) :
    Keeps.Outcome s0 (execChArm view n c s) := by
  unfold execChArm
  repeat' first
    | with_reducible assumption
    | extract_lets
    | intro _
    | with_reducible apply Keeps.next
    | with_reducible exact Keeps.fault
    | with_reducible exact Keeps.refused
    | with_reducible apply Keeps.ite_outcome
    | with_reducible apply Keeps.ite
    | with_reducible apply State.onWrite_keeps
    | with_reducible apply State.arm_keeps

theorem State.abortChan_keeps {s0 : State} {s : State} {n : Nat} {c : Nat}  (hkeep : Keeps s0 s) :
    Keeps s0 (State.abortChan s n c) := by
  unfold State.abortChan
  repeat' first
    | with_reducible assumption
    | extract_lets
    | intro _
    | with_reducible apply Keeps.ite
    | with_reducible apply State.setCf_keeps
    | with_reducible apply State.setChan_keeps
    | with_reducible apply State.showChan_keeps

theorem execChAbort_keeps {s0 : State} {view : View} {n : Die8} {c : ChanNo} {s : State}  (hkeep : Keeps s0 s) :
    Keeps.Outcome s0 (execChAbort view n c s) := by
  unfold execChAbort
  repeat' first
    | with_reducible assumption
    | extract_lets
    | intro _
    | with_reducible apply Keeps.next
    | with_reducible exact Keeps.fault
    | with_reducible exact Keeps.refused
    | with_reducible apply Keeps.ite_outcome
    | with_reducible apply Keeps.ite
    | with_reducible apply State.onWrite_keeps
    | with_reducible apply State.abortChan_keeps

theorem State.setOwner_keeps {s0 : State} {s : State} {n : Nat} {c : Nat} {direct : Bool}  (hkeep : Keeps s0 s) :
    Keeps s0 (State.setOwner s n c direct) := by
  unfold State.setOwner
  repeat' first
    | with_reducible assumption
    | extract_lets
    | intro _
    | with_reducible apply Keeps.ite
    | with_reducible apply State.pumpDma_keeps
    | with_reducible apply State.setCf_keeps
    | with_reducible apply State.showChan_keeps

theorem execChOwnerWrite_keeps {s0 : State} {view : View} {n : Die8} {c : ChanNo} {direct : Bool} {s : State}  (hkeep : Keeps s0 s) :
    Keeps.Outcome s0 (execChOwnerWrite view n c direct s) := by
  unfold execChOwnerWrite
  repeat' first
    | with_reducible assumption
    | extract_lets
    | intro _
    | with_reducible apply Keeps.next
    | with_reducible exact Keeps.fault
    | with_reducible exact Keeps.refused
    | with_reducible apply Keeps.ite_outcome
    | with_reducible apply Keeps.ite
    | with_reducible apply State.onWrite_keeps
    | with_reducible apply State.setOwner_keeps

theorem State.writeShadow_keeps {s0 : State} {s : State} {view : View} {n : Nat} {c : Nat} {reg : Nat} {w : Word}  (hkeep : Keeps s0 s) :
    Keeps s0 (State.writeShadow s view n c reg w) := by
  unfold State.writeShadow
  repeat' first
    | with_reducible assumption
    | extract_lets
    | intro _
    | with_reducible apply Keeps.ite
    | with_reducible apply State.err_keeps
    | with_reducible apply State.log_keeps
    | with_reducible apply State.plainWrite_keeps

theorem execShadowWrite_keeps {s0 : State} {view : View} {n : Die8} {c : ChanNo} {reg : Fin 8} {w : Word} {s : State}  (hkeep : Keeps s0 s) :
    Keeps.Outcome s0 (execShadowWrite view n c reg w s) := by
  unfold execShadowWrite
  repeat' first
    | with_reducible assumption
    | extract_lets
    | intro _
    | with_reducible apply Keeps.next
    | with_reducible exact Keeps.fault
    | with_reducible exact Keeps.refused
    | with_reducible apply Keeps.ite_outcome
    | with_reducible apply Keeps.ite
    | with_reducible apply State.onWrite_keeps
    | with_reducible apply State.writeShadow_keeps

theorem State.writeChCtl_keeps {s0 : State} {s : State} {view : View} {n : Nat} {c : Nat} {w : Word}  (hkeep : Keeps s0 s) :
    Keeps s0 (State.writeChCtl s view n c w) := by
  unfold State.writeChCtl
  repeat' first
    | with_reducible assumption
    | extract_lets
    | intro _
    | with_reducible apply Keeps.ite
    | with_reducible apply State.abortChan_keeps
    | with_reducible apply State.arm_keeps
    | with_reducible apply State.setCf_keeps
    | with_reducible apply State.setOwner_keeps

theorem State.pulse_keeps {s0 : State} {s : State} {n : Nat} {line : Nat}  (hkeep : Keeps s0 s) :
    Keeps s0 (State.pulse s n line) := by
  unfold State.pulse
  repeat' first
    | with_reducible assumption
    | extract_lets
    | intro _
    | with_reducible apply Keeps.ite
    | with_reducible apply State.setCf_keeps
    | with_reducible apply State.showChan_keeps
    | with_reducible apply Keeps.foldl

theorem execSwReq_keeps {s0 : State} {view : View} {n : Die8} {line : Byte} {s : State}  (hkeep : Keeps s0 s) :
    Keeps.Outcome s0 (execSwReq view n line s) := by
  unfold execSwReq
  repeat' first
    | with_reducible assumption
    | extract_lets
    | intro _
    | with_reducible apply Keeps.next
    | with_reducible exact Keeps.fault
    | with_reducible exact Keeps.refused
    | with_reducible apply Keeps.ite_outcome
    | with_reducible apply Keeps.ite
    | with_reducible apply State.onWrite_keeps
    | with_reducible apply State.pulse_keeps

theorem execRequestLinePulse_keeps {s0 : State} {n : Die8} {line : Fin 118} {s : State}  (hkeep : Keeps s0 s) :
    Keeps.Outcome s0 (execRequestLinePulse n line s) := by
  unfold execRequestLinePulse
  repeat' first
    | with_reducible assumption
    | extract_lets
    | intro _
    | with_reducible apply Keeps.next
    | with_reducible exact Keeps.fault
    | with_reducible exact Keeps.refused
    | with_reducible apply Keeps.ite_outcome
    | with_reducible apply Keeps.ite
    | with_reducible apply State.pulse_keeps

theorem State.refuseDma_keeps {s0 : State} {s : State} {t : Task} {n : Nat}  (hkeep : Keeps s0 s) :
    Keeps s0 (State.refuseDma s t n) := by
  unfold State.refuseDma
  repeat' first
    | with_reducible assumption
    | extract_lets
    | intro _
    | with_reducible apply Keeps.ite
    | with_reducible apply State.refuseTask_keeps

theorem State.queueDma_keeps {s0 : State} {s : State} {t : Task} {n : Nat} {segs : List (Nat × Nat × Nat)}  (hkeep : Keeps s0 s) :
    Keeps s0 (State.queueDma s t n segs) := by
  unfold State.queueDma
  repeat' first
    | with_reducible assumption
    | extract_lets
    | intro _
    | with_reducible apply Keeps.ite
    | with_reducible apply State.handOver_keeps
    | with_reducible apply State.pumpDma_keeps
    | (fail_if_no_progress (with_reducible apply Keeps.update; rfl; rfl; first | exact Nat.le_refl _ | exact Nat.le_succ _))

theorem State.dispatchDma_keeps {s0 : State} {s : State} {t : Task} {n : Nat}  (hkeep : Keeps s0 s) :
    Keeps s0 (State.dispatchDma s t n) := by
  unfold State.dispatchDma
  repeat' first
    | with_reducible assumption
    | extract_lets
    | intro _
    | with_reducible apply Keeps.ite
    | with_reducible apply Keeps.ite_fst
    | with_reducible apply State.cacheUse_keeps
    | with_reducible apply State.check_keeps
    | with_reducible apply State.handOver_keeps
    | with_reducible apply State.dmaSealErr_keeps
    | with_reducible apply State.queueDma_keeps
    | with_reducible apply State.refuseDma_keeps
    | (fail_if_no_progress (with_reducible apply Keeps.update; rfl; rfl; first | exact Nat.le_refl _ | exact Nat.le_succ _))
    | split

theorem execDmaCopy_keeps {s0 : State} {n : Nat} {s : State}  (hkeep : Keeps s0 s) :
    Keeps.Outcome s0 (execDmaCopy n s) := by
  unfold execDmaCopy
  repeat' first
    | with_reducible assumption
    | extract_lets
    | intro _
    | with_reducible apply Keeps.next
    | with_reducible exact Keeps.fault
    | with_reducible exact Keeps.refused
    | with_reducible apply Keeps.ite_outcome
    | with_reducible apply Keeps.ite
    | with_reducible apply State.whenFree_keeps
    | with_reducible apply State.onDie_keeps
    | with_reducible apply State.dispatchDma_keeps
    | (fail_if_no_progress (with_reducible apply Keeps.update; rfl; rfl; first | exact Nat.le_refl _ | exact Nat.le_succ _))
    | split

theorem State.resetDma_keeps {s0 : State} {s : State} {n : Nat} {k : Nat}  (hkeep : Keeps s0 s) :
    Keeps s0 (State.resetDma s n k) := by
  unfold State.resetDma
  repeat' first
    | with_reducible assumption
    | extract_lets
    | intro _
    | with_reducible apply Keeps.ite
    | with_reducible apply State.endTask_keeps
    | with_reducible apply State.readBack_keeps
    | with_reducible apply State.setCf_keeps
    | with_reducible apply State.setChan_keeps
    | with_reducible apply State.showChan_keeps
    | with_reducible apply Keeps.foldl
    | (fail_if_no_progress (with_reducible apply Keeps.update; rfl; rfl; first | exact Nat.le_refl _ | exact Nat.le_succ _))
    | split
    | dsimp +zetaDelta only

theorem State.markLine_keeps {s0 : State} {s : State} {l : Nat} {bad : Bool}  (hkeep : Keeps s0 s) :
    Keeps s0 (State.markLine s l bad) := by
  unfold State.markLine
  repeat' first
    | with_reducible assumption
    | extract_lets
    | intro _
    | with_reducible apply Keeps.ite
    | (fail_if_no_progress (with_reducible apply Keeps.update; rfl; rfl; first | exact Nat.le_refl _ | exact Nat.le_succ _))

theorem State.readLine_keeps {s0 : State} {s : State} {a : Nat} {ecc : Ecc}  (hkeep : Keeps s0 s) :
    Keeps s0 (State.readLine s a ecc) := by
  unfold State.readLine
  repeat' first
    | with_reducible assumption
    | extract_lets
    | intro _
    | with_reducible apply Keeps.ite
    | with_reducible apply State.inc_keeps
    | with_reducible apply State.wf_keeps
    | with_reducible apply State.cause_keeps
    | with_reducible apply State.err_keeps
    | with_reducible apply State.log_keeps
    | with_reducible apply State.markLine_keeps
    | (fail_if_no_progress (with_reducible apply Keeps.update; rfl; rfl; first | exact Nat.le_refl _ | exact Nat.le_succ _))
    | split

theorem execDramReadComplete_keeps {s0 : State} {a : Nat} {ecc : Ecc} {s : State}  (hkeep : Keeps s0 s) :
    Keeps.Outcome s0 (execDramReadComplete a ecc s) := by
  unfold execDramReadComplete
  repeat' first
    | with_reducible assumption
    | extract_lets
    | intro _
    | with_reducible apply Keeps.next
    | with_reducible exact Keeps.fault
    | with_reducible exact Keeps.refused
    | with_reducible apply Keeps.ite_outcome
    | with_reducible apply Keeps.ite
    | with_reducible apply Keeps.ite_fst
    | with_reducible apply State.onDie_keeps
    | with_reducible apply State.readLine_keeps

theorem execMemDieCountClear_keeps {s0 : State} {view : View} {n : Die8} {s : State}  (hkeep : Keeps s0 s) :
    Keeps.Outcome s0 (execMemDieCountClear view n s) := by
  unfold execMemDieCountClear
  repeat' first
    | with_reducible assumption
    | extract_lets
    | intro _
    | with_reducible apply Keeps.next
    | with_reducible exact Keeps.fault
    | with_reducible exact Keeps.refused
    | with_reducible apply Keeps.ite_outcome
    | with_reducible apply Keeps.ite
    | with_reducible apply State.onWrite_keeps
    | with_reducible apply State.clearCounts_keeps

theorem execControllerCountClear_keeps {s0 : State} {view : View} {n : Die8} {tierB : Bool} {i : Fin 4} {s : State}  (hkeep : Keeps s0 s) :
    Keeps.Outcome s0 (execControllerCountClear view n tierB i s) := by
  unfold execControllerCountClear
  repeat' first
    | with_reducible assumption
    | extract_lets
    | intro _
    | with_reducible apply Keeps.next
    | with_reducible exact Keeps.fault
    | with_reducible exact Keeps.refused
    | with_reducible apply Keeps.ite_outcome
    | with_reducible apply Keeps.ite
    | with_reducible apply State.onWrite_keeps
    | with_reducible apply State.clearCounts_keeps

end Sys2Proof.Machine
end

