-- ==== Sys2Proof/Laws/KeepsGather.lean ====
section
/-! SUPPORT. The operations of Machine/Gather.lean keep what every command keeps. -/

namespace Sys2Proof.Machine

theorem Keeps.foldl_rows {α : Type} {s0 : State} {m : Rows} {l : List α} {f : Rows → α → Rows} (h : Keeps s0 m.m.s)
    (hf : ∀ t x, Keeps s0 t.m.s → Keeps s0 (f t x).m.s) : Keeps s0 (l.foldl f m).m.s := by
  induction l generalizing m with
  | nil => exact h
  | cons x t ih => exact ih (hf m x h)

theorem Keeps.ite_rows {s0 : State} {c : Prop} [Decidable c] {a b : Rows} (ha : Keeps s0 a.m.s) (hb : Keeps s0 b.m.s) :
    Keeps s0 (if c then a else b).m.s := by
  split
  · exact ha
  · exact hb

theorem Keeps.foldl_scatter {α : Type} {s0 : State} {m : Scatter} {l : List α} {f : Scatter → α → Scatter} (h : Keeps s0 m.m.s)
    (hf : ∀ t x, Keeps s0 t.m.s → Keeps s0 (f t x).m.s) : Keeps s0 (l.foldl f m).m.s := by
  induction l generalizing m with
  | nil => exact h
  | cons x t ih => exact ih (hf m x h)

theorem Keeps.ite_scatter {s0 : State} {c : Prop} [Decidable c] {a b : Scatter} (ha : Keeps s0 a.m.s) (hb : Keeps s0 b.m.s) :
    Keeps s0 (if c then a else b).m.s := by
  split
  · exact ha
  · exact hb


theorem State.gatherSealErr_keeps {s0 : State} {s : State} {n : Nat} {k : Nat} {pos : Nat}  (hkeep : Keeps s0 s) :
    Keeps s0 (State.gatherSealErr s n k pos) := by
  unfold State.gatherSealErr
  repeat' first
    | with_reducible assumption
    | extract_lets
    | intro _
    | with_reducible apply Keeps.ite
    | with_reducible apply State.inc_keeps
    | with_reducible apply State.cause_keeps
    | with_reducible apply State.err_keeps
    | with_reducible apply State.log_keeps

theorem State.endGather_keeps {s0 : State} {s : State} {n : Nat} {t : Task} {g : GatherOp} {c : GatherCounts} {bad : Bool} {wrote : List Nat} {more : List Post}  (hkeep : Keeps s0 s) :
    Keeps s0 (State.endGather s n t g c bad wrote more) := by
  unfold State.endGather
  repeat' first
    | with_reducible assumption
    | extract_lets
    | intro _
    | with_reducible apply Keeps.ite
    | with_reducible apply State.inc64_keeps
    | with_reducible apply State.incBy_keeps
    | with_reducible apply State.store_keeps
    | with_reducible apply State.cause_keeps
    | with_reducible apply State.log_keeps
    | with_reducible apply State.endTask_keeps

theorem Rows.copy_keeps {s0 : State} {r : Rows} {g : GatherOp} {from_ : Nat} {toElem : Nat} {toExp : Nat} {at_ : Nat}  (hkeep : Keeps s0 r.m.s) :
    Keeps s0 (Rows.copy r g from_ toElem toExp at_).m.s := by
  unfold Rows.copy
  repeat' first
    | with_reducible assumption
    | extract_lets
    | intro _
    | with_reducible apply Keeps.ite
    | with_reducible apply Moved.copy_keeps
    | with_reducible apply Keeps.ite_putacc
    | with_reducible apply Keeps.ite_moved
    | with_reducible apply Keeps.ite_rows

theorem Rows.zero_keeps {s0 : State} {r : Rows} {g : GatherOp} {toElem : Nat} {toExp : Nat} {at_ : Nat}  (hkeep : Keeps s0 r.m.s) :
    Keeps s0 (Rows.zero r g toElem toExp at_).m.s := by
  unfold Rows.zero
  repeat' first
    | with_reducible assumption
    | extract_lets
    | intro _
    | with_reducible apply Keeps.ite
    | with_reducible apply Moved.fill_keeps
    | with_reducible apply Keeps.ite_putacc
    | with_reducible apply Keeps.ite_moved
    | with_reducible apply Keeps.ite_rows

theorem State.gatherRows_keeps {s0 : State} {s : State} {n : Nat} {t : Task} {g : GatherOp}  (hkeep : Keeps s0 s) :
    Keeps s0 (State.gatherRows s n t g) := by
  unfold State.gatherRows
  repeat' first
    | with_reducible assumption
    | extract_lets
    | intro _
    | with_reducible apply Keeps.ite
    | with_reducible apply State.whenSome_keeps
    | with_reducible apply Moved.copy_keeps
    | with_reducible apply Rows.copy_keeps
    | with_reducible apply Rows.zero_keeps
    | with_reducible apply State.endGather_keeps
    | with_reducible apply State.gatherSealErr_keeps
    | with_reducible apply Keeps.foldl_putacc
    | with_reducible apply Keeps.foldl_moved
    | with_reducible apply Keeps.foldl_rows
    | with_reducible apply Keeps.foldl_scatter
    | with_reducible apply Keeps.ite_putacc
    | with_reducible apply Keeps.ite_moved
    | with_reducible apply Keeps.ite_rows
    | with_reducible apply Keeps.ite_scatter
    | with_reducible apply Keeps.foldl
    | (fail_if_no_progress (with_reducible apply Keeps.update; rfl; rfl; first | exact Nat.le_refl _ | exact Nat.le_succ _))
    | split

theorem Rows.list_keeps {s0 : State} {r : Rows} {g : GatherOp} {elem : Nat} {exp : Nat} {pos : Nat} {cap : Nat} {x : Nat} {toks : List Nat}  (hkeep : Keeps s0 r.m.s) :
    Keeps s0 (Rows.list r g elem exp pos cap x toks).m.s := by
  unfold Rows.list
  repeat' first
    | with_reducible assumption
    | extract_lets
    | intro _
    | with_reducible apply Keeps.ite
    | with_reducible apply Moved.copy_keeps
    | with_reducible apply Moved.fill_keeps
    | with_reducible apply Rows.copy_keeps
    | with_reducible apply Keeps.foldl_putacc
    | with_reducible apply Keeps.foldl_moved
    | with_reducible apply Keeps.foldl_rows

theorem State.gatherExperts_keeps {s0 : State} {s : State} {n : Nat} {t : Task} {g : GatherOp}  (hkeep : Keeps s0 s) :
    Keeps s0 (State.gatherExperts s n t g) := by
  unfold State.gatherExperts
  repeat' first
    | with_reducible assumption
    | extract_lets
    | intro _
    | with_reducible apply Keeps.ite
    | with_reducible apply Moved.fill_keeps
    | with_reducible apply Rows.list_keeps
    | with_reducible apply State.endGather_keeps
    | with_reducible apply State.gatherSealErr_keeps
    | with_reducible apply Keeps.foldl_putacc
    | with_reducible apply Keeps.foldl_moved
    | with_reducible apply Keeps.foldl_rows
    | with_reducible apply Keeps.foldl_scatter
    | with_reducible apply Keeps.ite_putacc
    | with_reducible apply Keeps.ite_moved
    | with_reducible apply Keeps.ite_rows
    | with_reducible apply Keeps.ite_scatter
    | with_reducible apply Keeps.foldl
    | (fail_if_no_progress (with_reducible apply Keeps.update; rfl; rfl; first | exact Nat.le_refl _ | exact Nat.le_succ _))
    | split

theorem Scatter.row_keeps {s0 : State} {r : Scatter} {g : GatherOp} {idx : List Int} {i : Nat}  (hkeep : Keeps s0 r.m.s) :
    Keeps s0 (Scatter.row r g idx i).m.s := by
  unfold Scatter.row
  repeat' first
    | with_reducible assumption
    | extract_lets
    | intro _
    | with_reducible apply Keeps.ite
    | with_reducible apply State.cacheReads_keeps
    | with_reducible apply State.check_keeps
    | with_reducible apply Moved.fill_keeps
    | with_reducible apply Keeps.ite_putacc
    | with_reducible apply Keeps.ite_moved
    | with_reducible apply Keeps.ite_rows
    | with_reducible apply Keeps.ite_scatter
    | (fail_if_no_progress (with_reducible apply Keeps.update; rfl; rfl; first | exact Nat.le_refl _ | exact Nat.le_succ _))
    | split

theorem State.scatterAdd_keeps {s0 : State} {s : State} {n : Nat} {t : Task} {g : GatherOp}  (hkeep : Keeps s0 s) :
    Keeps s0 (State.scatterAdd s n t g) := by
  unfold State.scatterAdd
  repeat' first
    | with_reducible assumption
    | extract_lets
    | intro _
    | with_reducible apply Keeps.ite
    | with_reducible apply Keeps.ite_fst
    | with_reducible apply State.whenSome_keeps
    | with_reducible apply Scatter.row_keeps
    | with_reducible apply State.endGather_keeps
    | with_reducible apply State.gatherSealErr_keeps
    | with_reducible apply Keeps.foldl_putacc
    | with_reducible apply Keeps.foldl_moved
    | with_reducible apply Keeps.foldl_rows
    | with_reducible apply Keeps.foldl_scatter

theorem State.startGather_keeps {s0 : State} {s : State} {t : Task} {n : Nat}  (hkeep : Keeps s0 s) :
    Keeps s0 (State.startGather s t n) := by
  unfold State.startGather
  repeat' first
    | with_reducible assumption
    | extract_lets
    | intro _
    | with_reducible apply Keeps.ite
    | with_reducible apply Keeps.ite_fst
    | with_reducible apply State.cacheUse_keeps
    | with_reducible apply State.wf_keeps
    | with_reducible apply State.accessFault_keeps
    | with_reducible apply State.cause_keeps
    | with_reducible apply State.check_keeps
    | with_reducible apply State.err_keeps
    | with_reducible apply State.handOver_keeps
    | with_reducible apply State.refuseTask_keeps
    | with_reducible apply State.endGather_keeps
    | with_reducible apply State.gatherExperts_keeps
    | with_reducible apply State.gatherRows_keeps
    | with_reducible apply State.gatherSealErr_keeps
    | with_reducible apply State.scatterAdd_keeps
    | with_reducible apply Keeps.ite_putacc
    | with_reducible apply Keeps.ite_moved
    | with_reducible apply Keeps.ite_rows
    | with_reducible apply Keeps.ite_scatter
    | (fail_if_no_progress (with_reducible apply Keeps.update; rfl; rfl; first | exact Nat.le_refl _ | exact Nat.le_succ _))
    | split

theorem State.dispatchGather_keeps {s0 : State} {s : State} {t : Task} {n : Nat}  (hkeep : Keeps s0 s) :
    Keeps s0 (State.dispatchGather s t n) := by
  unfold State.dispatchGather
  repeat' first
    | with_reducible assumption
    | extract_lets
    | intro _
    | with_reducible apply Keeps.ite
    | with_reducible apply State.whenFree_keeps
    | with_reducible apply State.handOver_keeps
    | with_reducible apply State.startGather_keeps

theorem State.takeGather_keeps {s0 : State} {s : State} {n : Nat} {type : Nat} {experts : Bool}  (hkeep : Keeps s0 s) :
    Keeps.Outcome s0 (State.takeGather s n type experts) := by
  unfold State.takeGather
  repeat' first
    | with_reducible assumption
    | extract_lets
    | intro _
    | with_reducible apply Keeps.next
    | with_reducible exact Keeps.fault
    | with_reducible exact Keeps.refused
    | with_reducible apply Keeps.ite_outcome
    | with_reducible apply Keeps.ite
    | with_reducible apply State.onDie_keeps
    | with_reducible apply State.dispatchGather_keeps
    | with_reducible apply Keeps.ite_putacc
    | with_reducible apply Keeps.ite_moved
    | with_reducible apply Keeps.ite_rows
    | with_reducible apply Keeps.ite_scatter
    | (fail_if_no_progress (with_reducible apply Keeps.update; rfl; rfl; first | exact Nat.le_refl _ | exact Nat.le_succ _))
    | split

theorem execGatherRows_keeps {s0 : State} {n : Nat} {s : State}  (hkeep : Keeps s0 s) :
    Keeps.Outcome s0 (execGatherRows n s) := by
  unfold execGatherRows
  repeat' first
    | with_reducible assumption
    | extract_lets
    | intro _
    | with_reducible apply Keeps.next
    | with_reducible exact Keeps.fault
    | with_reducible exact Keeps.refused
    | with_reducible apply Keeps.ite_outcome
    | with_reducible apply Keeps.ite
    | with_reducible apply State.takeGather_keeps

theorem execGatherExperts_keeps {s0 : State} {n : Nat} {s : State}  (hkeep : Keeps s0 s) :
    Keeps.Outcome s0 (execGatherExperts n s) := by
  unfold execGatherExperts
  repeat' first
    | with_reducible assumption
    | extract_lets
    | intro _
    | with_reducible apply Keeps.next
    | with_reducible exact Keeps.fault
    | with_reducible exact Keeps.refused
    | with_reducible apply Keeps.ite_outcome
    | with_reducible apply Keeps.ite
    | with_reducible apply State.takeGather_keeps

theorem execScatterAdd_keeps {s0 : State} {n : Nat} {s : State}  (hkeep : Keeps s0 s) :
    Keeps.Outcome s0 (execScatterAdd n s) := by
  unfold execScatterAdd
  repeat' first
    | with_reducible assumption
    | extract_lets
    | intro _
    | with_reducible apply Keeps.next
    | with_reducible exact Keeps.fault
    | with_reducible exact Keeps.refused
    | with_reducible apply Keeps.ite_outcome
    | with_reducible apply Keeps.ite
    | with_reducible apply State.takeGather_keeps

theorem execGatherCountClear_keeps {s0 : State} {view : View} {n : Die8} {s : State}  (hkeep : Keeps s0 s) :
    Keeps.Outcome s0 (execGatherCountClear view n s) := by
  unfold execGatherCountClear
  repeat' first
    | with_reducible assumption
    | extract_lets
    | intro _
    | with_reducible apply Keeps.next
    | with_reducible exact Keeps.fault
    | with_reducible exact Keeps.refused
    | with_reducible apply Keeps.ite_outcome
    | with_reducible apply Keeps.ite
    | with_reducible apply State.onWrite_keeps
    | with_reducible apply State.crossOrPost_keeps

end Sys2Proof.Machine
end

