-- ==== Sys2Proof/Laws/KeepsTempo.lean ====
section
/-! SUPPORT. The operations of Machine/Tempo.lean keep what every command keeps. -/

namespace Sys2Proof.Machine

theorem State.setTempo_keeps {s0 : State} {s : State} {t : Tempo}  (hkeep : Keeps s0 s) :
    Keeps s0 (State.setTempo s t) := by
  unfold State.setTempo
  repeat' first
    | with_reducible assumption
    | extract_lets
    | intro _
    | with_reducible apply Keeps.ite
    | (fail_if_no_progress (with_reducible apply Keeps.update; rfl; rfl; first | exact Nat.le_refl _ | exact Nat.le_succ _))

theorem State.tempoState_keeps {s0 : State} {s : State} {v : Nat}  (hkeep : Keeps s0 s) :
    Keeps s0 (State.tempoState s v) := by
  unfold State.tempoState
  repeat' first
    | with_reducible assumption
    | extract_lets
    | intro _
    | with_reducible apply Keeps.ite
    | with_reducible apply State.wf_keeps
    | with_reducible apply State.setTempo_keeps

theorem State.logCorrection_keeps {s0 : State} {s : State} {kind : Nat} {e : Int}  (hkeep : Keeps s0 s) :
    Keeps s0 (State.logCorrection s kind e) := by
  unfold State.logCorrection
  repeat' first
    | with_reducible assumption
    | extract_lets
    | intro _
    | with_reducible apply Keeps.ite
    | with_reducible apply State.log_keeps

theorem State.jumpTo_keeps {s0 : State} {s : State} {c : Nat}  (hkeep : Keeps s0 s) :
    Keeps s0 (State.jumpTo s c) := by
  unfold State.jumpTo
  repeat' first
    | with_reducible assumption
    | extract_lets
    | intro _
    | with_reducible apply Keeps.ite
    | with_reducible apply State.log_keeps
    | with_reducible apply State.setTempo_keeps

theorem State.correct_keeps {s0 : State} {s : State} {e : Int}  (hkeep : Keeps s0 s) :
    Keeps s0 (State.correct s e) := by
  unfold State.correct
  repeat' first
    | with_reducible assumption
    | extract_lets
    | intro _
    | with_reducible apply Keeps.ite
    | with_reducible apply State.inc_keeps
    | with_reducible apply State.wf_keeps
    | with_reducible apply State.wfs_keeps
    | with_reducible apply State.cause_keeps
    | with_reducible apply State.jumpTo_keeps
    | with_reducible apply State.logCorrection_keeps
    | with_reducible apply State.setTempo_keeps

theorem State.applyEpoch_keeps {s0 : State} {s : State}  (hkeep : Keeps s0 s) :
    Keeps s0 (State.applyEpoch s) := by
  unfold State.applyEpoch
  repeat' first
    | with_reducible assumption
    | extract_lets
    | intro _
    | with_reducible apply Keeps.ite
    | with_reducible apply State.wf_keeps
    | with_reducible apply State.jumpTo_keeps
    | with_reducible apply State.logCorrection_keeps

theorem execEpochArm_keeps {s0 : State} {view : View} {s : State}  (hkeep : Keeps s0 s) :
    Keeps.Outcome s0 (execEpochArm view s) := by
  unfold execEpochArm
  repeat' first
    | with_reducible assumption
    | extract_lets
    | intro _
    | with_reducible apply Keeps.next
    | with_reducible exact Keeps.fault
    | with_reducible exact Keeps.refused
    | with_reducible apply Keeps.ite_outcome
    | with_reducible apply Keeps.ite
    | with_reducible apply State.wf_keeps
    | with_reducible apply State.onWrite_keeps

theorem State.agePanels_keeps {s0 : State} {s : State}  (hkeep : Keeps s0 s) :
    Keeps s0 (State.agePanels s) := by
  unfold State.agePanels
  repeat' first
    | with_reducible assumption
    | extract_lets
    | intro _
    | with_reducible apply Keeps.ite
    | with_reducible apply State.inc_keeps
    | with_reducible apply Keeps.foldl

theorem State.countTime_keeps {s0 : State} {s : State}  (hkeep : Keeps s0 s) :
    Keeps s0 (State.countTime s) := by
  unfold State.countTime
  repeat' first
    | with_reducible assumption
    | extract_lets
    | intro _
    | with_reducible apply Keeps.ite
    | with_reducible apply State.inc_keeps
    | with_reducible apply State.wf_keeps

theorem State.atCount_keeps {s0 : State} {s : State}  (hkeep : Keeps s0 s) :
    Keeps s0 (State.atCount s) := by
  unfold State.atCount
  repeat' first
    | with_reducible assumption
    | extract_lets
    | intro _
    | with_reducible apply Keeps.ite
    | with_reducible apply State.agePanels_keeps
    | with_reducible apply State.applyEpoch_keeps
    | with_reducible apply State.countTime_keeps

theorem execTempoTick_keeps {s0 : State} {s : State}  (hkeep : Keeps s0 s) :
    Keeps.Outcome s0 (execTempoTick s) := by
  unfold execTempoTick
  repeat' first
    | with_reducible assumption
    | extract_lets
    | intro _
    | with_reducible apply Keeps.next
    | with_reducible exact Keeps.fault
    | with_reducible exact Keeps.refused
    | with_reducible apply Keeps.ite_outcome
    | with_reducible apply Keeps.ite
    | with_reducible apply State.wf_keeps
    | with_reducible apply State.atCount_keeps
    | with_reducible apply State.setTempo_keeps

theorem State.lockTempo_keeps {s0 : State} {s : State}  (hkeep : Keeps s0 s) :
    Keeps s0 (State.lockTempo s) := by
  unfold State.lockTempo
  repeat' first
    | with_reducible assumption
    | extract_lets
    | intro _
    | with_reducible apply Keeps.ite
    | with_reducible apply State.cause_keeps
    | with_reducible apply State.log_keeps
    | with_reducible apply State.tempoState_keeps

theorem State.goodMark_keeps {s0 : State} {s : State}  (hkeep : Keeps s0 s) :
    Keeps s0 (State.goodMark s) := by
  unfold State.goodMark
  repeat' first
    | with_reducible assumption
    | extract_lets
    | intro _
    | with_reducible apply Keeps.ite
    | with_reducible apply State.lockTempo_keeps
    | with_reducible apply State.setTempo_keeps

theorem State.badMark_keeps {s0 : State} {s : State}  (hkeep : Keeps s0 s) :
    Keeps s0 (State.badMark s) := by
  unfold State.badMark
  repeat' first
    | with_reducible assumption
    | extract_lets
    | intro _
    | with_reducible apply Keeps.ite
    | with_reducible apply State.inc_keeps
    | with_reducible apply State.cause_keeps
    | with_reducible apply State.errDetail_keeps
    | with_reducible apply State.log_keeps
    | with_reducible apply State.setTempo_keeps

theorem execTempoMark_keeps {s0 : State} {s : State}  (hkeep : Keeps s0 s) :
    Keeps.Outcome s0 (execTempoMark s) := by
  unfold execTempoMark
  repeat' first
    | with_reducible assumption
    | extract_lets
    | intro _
    | with_reducible apply Keeps.next
    | with_reducible exact Keeps.fault
    | with_reducible exact Keeps.refused
    | with_reducible apply Keeps.ite_outcome
    | with_reducible apply Keeps.ite
    | with_reducible apply State.applyEpoch_keeps
    | with_reducible apply State.badMark_keeps
    | with_reducible apply State.correct_keeps
    | with_reducible apply State.goodMark_keeps
    | with_reducible apply State.setTempo_keeps

theorem State.loseTempo_keeps {s0 : State} {s : State}  (hkeep : Keeps s0 s) :
    Keeps s0 (State.loseTempo s) := by
  unfold State.loseTempo
  repeat' first
    | with_reducible assumption
    | extract_lets
    | intro _
    | with_reducible apply Keeps.ite
    | with_reducible apply State.inc_keeps
    | with_reducible apply State.cause_keeps
    | with_reducible apply State.log_keeps
    | with_reducible apply State.setTempo_keeps
    | with_reducible apply State.tempoState_keeps

theorem execTempoSourceLost_keeps {s0 : State} {s : State}  (hkeep : Keeps s0 s) :
    Keeps.Outcome s0 (execTempoSourceLost s) := by
  unfold execTempoSourceLost
  repeat' first
    | with_reducible assumption
    | extract_lets
    | intro _
    | with_reducible apply Keeps.next
    | with_reducible exact Keeps.fault
    | with_reducible exact Keeps.refused
    | with_reducible apply Keeps.ite_outcome
    | with_reducible apply Keeps.ite
    | with_reducible apply State.loseTempo_keeps

theorem State.writeTempoCtl_keeps {s0 : State} {s : State} {view : View} {w : Word}  (hkeep : Keeps s0 s) :
    Keeps s0 (State.writeTempoCtl s view w) := by
  unfold State.writeTempoCtl
  repeat' first
    | with_reducible assumption
    | extract_lets
    | intro _
    | with_reducible apply Keeps.ite
    | with_reducible apply State.wf_keeps
    | with_reducible apply State.plainWrite_keeps
    | with_reducible apply State.setTempo_keeps
    | with_reducible apply State.tempoState_keeps

theorem State.takeBeacon_keeps {s0 : State} {s : State} {port : Nat} {sent : Nat}  (hkeep : Keeps s0 s) :
    Keeps s0 (State.takeBeacon s port sent) := by
  unfold State.takeBeacon
  repeat' first
    | with_reducible assumption
    | extract_lets
    | intro _
    | with_reducible apply Keeps.ite
    | with_reducible apply State.correct_keeps
    | with_reducible apply State.lockTempo_keeps
    | with_reducible apply State.setTempo_keeps

theorem State.loseBeacons_keeps {s0 : State} {s : State}  (hkeep : Keeps s0 s) :
    Keeps s0 (State.loseBeacons s) := by
  unfold State.loseBeacons
  repeat' first
    | with_reducible assumption
    | extract_lets
    | intro _
    | with_reducible apply Keeps.ite
    | with_reducible apply State.wf_keeps
    | with_reducible apply State.log_keeps
    | with_reducible apply State.loseTempo_keeps
    | with_reducible apply State.setTempo_keeps
    | (fail_if_no_progress (with_reducible apply Keeps.update; rfl; rfl; first | exact Nat.le_refl _ | exact Nat.le_succ _))
    | split

theorem execBeaconLoss_keeps {s0 : State} {s : State}  (hkeep : Keeps s0 s) :
    Keeps.Outcome s0 (execBeaconLoss s) := by
  unfold execBeaconLoss
  repeat' first
    | with_reducible assumption
    | extract_lets
    | intro _
    | with_reducible apply Keeps.next
    | with_reducible exact Keeps.fault
    | with_reducible exact Keeps.refused
    | with_reducible apply Keeps.ite_outcome
    | with_reducible apply Keeps.ite
    | with_reducible apply State.loseBeacons_keeps

theorem State.setEvent_keeps {s0 : State} {s : State} {i : Nat} {e : Event}  (hkeep : Keeps s0 s) :
    Keeps s0 (State.setEvent s i e) := by
  unfold State.setEvent
  repeat' first
    | with_reducible assumption
    | extract_lets
    | intro _
    | with_reducible apply Keeps.ite
    | (fail_if_no_progress (with_reducible apply Keeps.update; rfl; rfl; first | exact Nat.le_refl _ | exact Nat.le_succ _))

theorem State.refuseEvent_keeps {s0 : State} {s : State} {i : Nat} {r : Nat} {origin : Nat}  (hkeep : Keeps s0 s) :
    Keeps s0 (State.refuseEvent s i r origin) := by
  unfold State.refuseEvent
  repeat' first
    | with_reducible assumption
    | extract_lets
    | intro _
    | with_reducible apply Keeps.ite
    | with_reducible apply State.cause_keeps
    | with_reducible apply State.err_keeps
    | with_reducible apply State.log_keeps

theorem State.armEntry_keeps {s0 : State} {s : State} {i : Nat} {e : Event} {origin : Nat}  (hkeep : Keeps s0 s) :
    Keeps s0 (State.armEntry s i e origin).1 := by
  unfold State.armEntry
  repeat' first
    | with_reducible assumption
    | extract_lets
    | intro _
    | with_reducible apply Keeps.ite
    | with_reducible apply Keeps.ite_fst
    | with_reducible apply State.refuseEvent_keeps
    | with_reducible apply State.setEvent_keeps

theorem State.evtResult_keeps {s0 : State} {s : State} {i : Nat} {r : Nat}  (hkeep : Keeps s0 s) :
    Keeps s0 (State.evtResult s i r) := by
  unfold State.evtResult
  repeat' first
    | with_reducible assumption
    | extract_lets
    | intro _
    | with_reducible apply Keeps.ite
    | with_reducible apply State.wfs_keeps

theorem State.noteParam_keeps {s0 : State} {s : State} {view : View} {e : Event}  (hkeep : Keeps s0 s) :
    Keeps s0 (State.noteParam s view e) := by
  unfold State.noteParam
  repeat' first
    | with_reducible assumption
    | extract_lets
    | intro _
    | with_reducible apply Keeps.ite
    | with_reducible apply State.noteClamp_keeps

theorem execEvtRead_keeps {s0 : State} {view : View} {s : State}  (hkeep : Keeps s0 s) :
    Keeps.Outcome s0 (execEvtRead view s) := by
  unfold execEvtRead
  repeat' first
    | with_reducible assumption
    | extract_lets
    | intro _
    | with_reducible apply Keeps.next
    | with_reducible exact Keeps.fault
    | with_reducible exact Keeps.refused
    | with_reducible apply Keeps.ite_outcome
    | with_reducible apply Keeps.ite
    | with_reducible apply State.wf64_keeps
    | with_reducible apply State.wfs_keeps
    | with_reducible apply State.onWrite_keeps
    | with_reducible apply State.evtResult_keeps

theorem execSnapshotPointDrained_keeps {s0 : State} {s : State}  (hkeep : Keeps s0 s) :
    Keeps.Outcome s0 (execSnapshotPointDrained s) := by
  unfold execSnapshotPointDrained
  repeat' first
    | with_reducible assumption
    | extract_lets
    | intro _
    | with_reducible apply Keeps.next
    | with_reducible exact Keeps.fault
    | with_reducible exact Keeps.refused
    | with_reducible apply Keeps.ite_outcome
    | with_reducible apply Keeps.ite
    | with_reducible apply State.addButton_keeps
    | with_reducible apply State.settle_keeps
    | (fail_if_no_progress (with_reducible apply Keeps.update; rfl; rfl; first | exact Nat.le_refl _ | exact Nat.le_succ _))
    | split

theorem execSnapshotPointEnd_keeps {s0 : State} {s : State}  (hkeep : Keeps s0 s) :
    Keeps.Outcome s0 (execSnapshotPointEnd s) := by
  unfold execSnapshotPointEnd
  repeat' first
    | with_reducible assumption
    | extract_lets
    | intro _
    | with_reducible apply Keeps.next
    | with_reducible exact Keeps.fault
    | with_reducible exact Keeps.refused
    | with_reducible apply Keeps.ite_outcome
    | with_reducible apply Keeps.ite
    | with_reducible apply State.settle_keeps
    | (fail_if_no_progress (with_reducible apply Keeps.update; rfl; rfl; first | exact Nat.le_refl _ | exact Nat.le_succ _))
    | split

end Sys2Proof.Machine
end

