-- ==== Sys2Proof/Laws/KeepsLink.lean ====
section
/-! SUPPORT. The operations of Machine/Link.lean keep what every command keeps. -/

namespace Sys2Proof.Machine

theorem State.setPort_keeps {s0 : State} {s : State} {n : Nat} {p : Port}  (hkeep : Keeps s0 s) :
    Keeps s0 (State.setPort s n p) := by
  unfold State.setPort
  repeat' first
    | with_reducible assumption
    | extract_lets
    | intro _
    | with_reducible apply Keeps.ite
    | with_reducible apply State.wfs_keeps
    | (fail_if_no_progress (with_reducible apply Keeps.update; rfl; rfl; first | exact Nat.le_refl _ | exact Nat.le_succ _))

theorem State.emit_keeps {s0 : State} {s : State} {n : Nat} {f : List Byte}  (hkeep : Keeps s0 s) :
    Keeps s0 (State.emit s n f) := by
  unfold State.emit
  repeat' first
    | with_reducible assumption
    | extract_lets
    | intro _
    | with_reducible apply Keeps.ite
    | (fail_if_no_progress (with_reducible apply Keeps.update; rfl; rfl; first | exact Nat.le_refl _ | exact Nat.le_succ _))

theorem State.sendIdle_keeps {s0 : State} {s : State} {n : Nat} {nak : Bool}  (hkeep : Keeps s0 s) :
    Keeps s0 (State.sendIdle s n nak) := by
  unfold State.sendIdle
  repeat' first
    | with_reducible assumption
    | extract_lets
    | intro _
    | with_reducible apply Keeps.ite
    | with_reducible apply State.emit_keeps
    | with_reducible apply State.setPort_keeps

theorem State.sendData_keeps {s0 : State} {s : State} {n : Nat} {vc : Nat}  (hkeep : Keeps s0 s) :
    Keeps s0 (State.sendData s n vc) := by
  unfold State.sendData
  repeat' first
    | with_reducible assumption
    | extract_lets
    | intro _
    | with_reducible apply Keeps.ite
    | with_reducible apply Keeps.ite_fst
    | with_reducible apply State.inc64_keeps
    | with_reducible apply State.emit_keeps
    | with_reducible apply State.setPort_keeps

theorem State.pumpFor_keeps {s0 : State} {fuel : Nat} {s : State} {n : Nat}  (hkeep : Keeps s0 s) :
    Keeps s0 (State.pumpFor fuel s n) := by
  induction fuel generalizing s n with
  | zero =>
   unfold State.pumpFor
   first | exact hkeep | (with_reducible apply State.setArrayRun_keeps; exact hkeep)
  | succ k ih =>
   unfold State.pumpFor
   repeat' first
    | with_reducible assumption
    | with_reducible apply ih
    | extract_lets
    | intro _
    | with_reducible apply Keeps.ite
    | with_reducible apply State.sendData_keeps
    | (fail_if_no_progress (with_reducible apply Keeps.update; rfl; rfl; first | exact Nat.le_refl _ | exact Nat.le_succ _))
    | split

theorem State.pump_keeps {s0 : State} {s : State} {n : Nat}  (hkeep : Keeps s0 s) :
    Keeps s0 (State.pump s n) := by
  unfold State.pump
  repeat' first
    | with_reducible assumption
    | extract_lets
    | intro _
    | with_reducible apply Keeps.ite
    | with_reducible apply State.pumpFor_keeps
    | with_reducible apply State.sendIdle_keeps

theorem State.enqueueOn_keeps {s0 : State} {s : State} {n : Nat} {vc : Nat} {m : List Byte}  (hkeep : Keeps s0 s) :
    Keeps s0 (State.enqueueOn s n vc m) := by
  unfold State.enqueueOn
  repeat' first
    | with_reducible assumption
    | extract_lets
    | intro _
    | with_reducible apply Keeps.ite
    | with_reducible apply State.pump_keeps
    | with_reducible apply State.setPort_keeps

theorem State.enqueue_keeps {s0 : State} {s : State} {n : Nat} {m : List Byte}  (hkeep : Keeps s0 s) :
    Keeps s0 (State.enqueue s n m) := by
  unfold State.enqueue
  repeat' first
    | with_reducible assumption
    | extract_lets
    | intro _
    | with_reducible apply Keeps.ite
    | with_reducible apply State.enqueueOn_keeps

theorem State.freeSlots_keeps {s0 : State} {s : State} {n : Nat} {vc : Nat} {slots : Nat}  (hkeep : Keeps s0 s) :
    Keeps s0 (State.freeSlots s n vc slots) := by
  unfold State.freeSlots
  repeat' first
    | with_reducible assumption
    | extract_lets
    | intro _
    | with_reducible apply Keeps.ite
    | with_reducible apply State.setPort_keeps

theorem State.dropMsg_keeps {s0 : State} {s : State} {kind : Nat} {m : List Byte}  (hkeep : Keeps s0 s) :
    Keeps s0 (State.dropMsg s kind m) := by
  unfold State.dropMsg
  repeat' first
    | with_reducible assumption
    | extract_lets
    | intro _
    | with_reducible apply Keeps.ite
    | with_reducible apply State.inc_keeps
    | with_reducible apply State.cause_keeps
    | with_reducible apply State.errDetail_keeps
    | with_reducible apply State.log_keeps

theorem State.dispatchOn_keeps {s0 : State} {s : State} {vc : Nat} {m : List Byte}  (hkeep : Keeps s0 s) :
    Keeps s0 (State.dispatchOn s vc m) := by
  unfold State.dispatchOn
  repeat' first
    | with_reducible assumption
    | extract_lets
    | intro _
    | with_reducible apply Keeps.ite
    | with_reducible apply State.dropMsg_keeps
    | with_reducible apply State.enqueueOn_keeps
    | (fail_if_no_progress (with_reducible apply Keeps.update; rfl; rfl; first | exact Nat.le_refl _ | exact Nat.le_succ _))
    | split

theorem State.dispatchMsg_keeps {s0 : State} {s : State} {m : List Byte}  (hkeep : Keeps s0 s) :
    Keeps s0 (State.dispatchMsg s m) := by
  unfold State.dispatchMsg
  repeat' first
    | with_reducible assumption
    | extract_lets
    | intro _
    | with_reducible apply Keeps.ite
    | with_reducible apply State.dispatchOn_keeps

theorem State.sendMsg_keeps {s0 : State} {s : State} {m : Msg}  (hkeep : Keeps s0 s) :
    Keeps s0 (State.sendMsg s m) := by
  unfold State.sendMsg
  repeat' first
    | with_reducible assumption
    | extract_lets
    | intro _
    | with_reducible apply Keeps.ite
    | with_reducible apply State.dispatchMsg_keeps

theorem State.forward_keeps {s0 : State} {s : State} {vc : Nat} {m : List Byte}  (hkeep : Keeps s0 s) :
    Keeps s0 (State.forward s vc m) := by
  unfold State.forward
  repeat' first
    | with_reducible assumption
    | extract_lets
    | intro _
    | with_reducible apply Keeps.ite
    | with_reducible apply State.dispatchOn_keeps

theorem State.broadcast_keeps {s0 : State} {s : State} {from_ : Option Nat} {m : List Byte}  (hkeep : Keeps s0 s) :
    Keeps s0 (State.broadcast s from_ m) := by
  unfold State.broadcast
  repeat' first
    | with_reducible assumption
    | extract_lets
    | intro _
    | with_reducible apply Keeps.ite
    | with_reducible apply State.enqueue_keeps
    | with_reducible apply Keeps.foldl

theorem State.takeOn_keeps {s0 : State} {s : State} {n : Nat} {ok : List Byte → Bool} {k : State → Nat → List Byte → State} (hk : ∀ y0 y1 y2, Keeps s0 y0 → Keeps s0 (k y0 y1 y2)) (hkeep : Keeps s0 s) :
    Keeps s0 (State.takeOn s n ok k) := by
  unfold State.takeOn
  repeat' first
    | with_reducible assumption
    | extract_lets
    | intro _
    | with_reducible apply Keeps.ite
    | with_reducible apply Keeps.ite_fst
    | with_reducible apply hk
    | with_reducible apply State.dropMsg_keeps
    | with_reducible apply State.freeSlots_keeps
    | with_reducible apply State.pump_keeps
    | with_reducible apply State.setPort_keeps
    | (fail_if_no_progress (with_reducible apply Keeps.update; rfl; rfl; first | exact Nat.le_refl _ | exact Nat.le_succ _))
    | split

theorem State.takeMsg_keeps {s0 : State} {s : State} {n : Nat} {ok : List Byte → Bool} {k : State → List Byte → State} (hk : ∀ y0 y1, Keeps s0 y0 → Keeps s0 (k y0 y1)) (hkeep : Keeps s0 s) :
    Keeps s0 (State.takeMsg s n ok k) := by
  unfold State.takeMsg
  repeat' first
    | with_reducible assumption
    | extract_lets
    | intro _
    | with_reducible apply Keeps.ite
    | with_reducible apply hk
    | with_reducible apply State.takeOn_keeps

theorem State.receive_keeps {s0 : State} {s : State} {n : Nat} {op : Nat} {k : State → List Byte → State} (hk : ∀ y0 y1, Keeps s0 y0 → Keeps s0 (k y0 y1)) (hkeep : Keeps s0 s) :
    Keeps s0 (State.receive s n op k) := by
  unfold State.receive
  repeat' first
    | with_reducible assumption
    | extract_lets
    | intro _
    | with_reducible apply Keeps.ite
    | with_reducible apply hk
    | with_reducible apply State.takeMsg_keeps

theorem State.takeSlots_keeps {s0 : State} {s : State} {n : Nat} {vc : Nat} {f : List Byte}  (hkeep : Keeps s0 s) :
    Keeps s0 (State.takeSlots s n vc f) := by
  unfold State.takeSlots
  repeat' first
    | with_reducible assumption
    | extract_lets
    | intro _
    | with_reducible apply Keeps.ite
    | with_reducible apply State.freeSlots_keeps
    | with_reducible apply State.setPort_keeps
    | (fail_if_no_progress (with_reducible apply Keeps.update; rfl; rfl; first | exact Nat.le_refl _ | exact Nat.le_succ _))

theorem State.retrain_keeps {s0 : State} {s : State} {n : Nat} {logged : Bool}  (hkeep : Keeps s0 s) :
    Keeps s0 (State.retrain s n logged) := by
  unfold State.retrain
  repeat' first
    | with_reducible assumption
    | extract_lets
    | intro _
    | with_reducible apply Keeps.ite
    | with_reducible apply State.inc_keeps
    | with_reducible apply State.cause_keeps
    | with_reducible apply State.log_keeps
    | with_reducible apply State.setPort_keeps

theorem State.resend_keeps {s0 : State} {s : State} {n : Nat}  (hkeep : Keeps s0 s) :
    Keeps s0 (State.resend s n) := by
  unfold State.resend
  repeat' first
    | with_reducible assumption
    | extract_lets
    | intro _
    | with_reducible apply Keeps.ite
    | with_reducible apply State.emit_keeps
    | with_reducible apply Keeps.foldl

theorem State.replayPort_keeps {s0 : State} {s : State} {n : Nat}  (hkeep : Keeps s0 s) :
    Keeps s0 (State.replayPort s n) := by
  unfold State.replayPort
  repeat' first
    | with_reducible assumption
    | extract_lets
    | intro _
    | with_reducible apply Keeps.ite
    | with_reducible apply State.inc_keeps
    | with_reducible apply State.resend_keeps
    | with_reducible apply State.retrain_keeps
    | with_reducible apply State.setPort_keeps

theorem State.takeAck_keeps {s0 : State} {s : State} {n : Nat} {ack : Nat}  (hkeep : Keeps s0 s) :
    Keeps s0 (State.takeAck s n ack) := by
  unfold State.takeAck
  repeat' first
    | with_reducible assumption
    | extract_lets
    | intro _
    | with_reducible apply Keeps.ite
    | with_reducible apply Keeps.ite_fst
    | with_reducible apply State.setPort_keeps

theorem State.takeCredits_keeps {s0 : State} {s : State} {n : Nat} {f : List Byte}  (hkeep : Keeps s0 s) :
    Keeps s0 (State.takeCredits s n f) := by
  unfold State.takeCredits
  repeat' first
    | with_reducible assumption
    | extract_lets
    | intro _
    | with_reducible apply Keeps.ite
    | with_reducible apply State.setPort_keeps

theorem State.discardFlit_keeps {s0 : State} {s : State} {n : Nat} {seq : Nat} {failed : Bool}  (hkeep : Keeps s0 s) :
    Keeps s0 (State.discardFlit s n seq failed) := by
  unfold State.discardFlit
  repeat' first
    | with_reducible assumption
    | extract_lets
    | intro _
    | with_reducible apply Keeps.ite
    | with_reducible apply State.err_keeps
    | with_reducible apply State.errDetail_keeps
    | with_reducible apply State.sendIdle_keeps

theorem State.dataFlit_keeps {s0 : State} {s : State} {n : Nat} {f : List Byte}  (hkeep : Keeps s0 s) :
    Keeps s0 (State.dataFlit s n f) := by
  unfold State.dataFlit
  repeat' first
    | with_reducible assumption
    | extract_lets
    | intro _
    | with_reducible apply Keeps.ite
    | with_reducible apply State.inc64_keeps
    | with_reducible apply State.discardFlit_keeps
    | with_reducible apply State.sendIdle_keeps
    | with_reducible apply State.setPort_keeps
    | with_reducible apply State.takeCredits_keeps
    | with_reducible apply State.takeSlots_keeps

theorem State.codeword_keeps {s0 : State} {s : State} {n : Nat} {c : Fec}  (hkeep : Keeps s0 s) :
    Keeps s0 (State.codeword s n c) := by
  unfold State.codeword
  repeat' first
    | with_reducible assumption
    | extract_lets
    | intro _
    | with_reducible apply Keeps.ite
    | with_reducible apply State.inc_keeps
    | with_reducible apply State.inc64_keeps
    | with_reducible apply State.cause_keeps
    | (fail_if_no_progress (with_reducible apply Keeps.update; rfl; rfl; first | exact Nat.le_refl _ | exact Nat.le_succ _))
    | split

theorem State.decodeFlit_keeps {s0 : State} {s : State} {n : Nat} {c : Fec}  (hkeep : Keeps s0 s) :
    Keeps s0 (State.decodeFlit s n c).1 := by
  unfold State.decodeFlit
  repeat' first
    | with_reducible assumption
    | extract_lets
    | intro _
    | with_reducible apply Keeps.ite
    | with_reducible apply Keeps.ite_fst
    | with_reducible apply State.codeword_keeps
    | with_reducible apply State.setPort_keeps

theorem State.takeFlit_keeps {s0 : State} {s : State} {n : Nat} {f : List Byte} {fec : Fec}  (hkeep : Keeps s0 s) :
    Keeps s0 (State.takeFlit s n f fec) := by
  unfold State.takeFlit
  repeat' first
    | with_reducible assumption
    | extract_lets
    | intro _
    | with_reducible apply Keeps.ite
    | with_reducible apply Keeps.ite_fst
    | with_reducible apply State.inc_keeps
    | with_reducible apply State.dataFlit_keeps
    | with_reducible apply State.decodeFlit_keeps
    | with_reducible apply State.discardFlit_keeps
    | with_reducible apply State.pump_keeps
    | with_reducible apply State.replayPort_keeps
    | with_reducible apply State.takeAck_keeps
    | with_reducible apply State.takeCredits_keeps

theorem execFlitReceive_keeps {s0 : State} {n : PortNo} {f : List Byte} {fec : Fec} {s : State}  (hkeep : Keeps s0 s) :
    Keeps.Outcome s0 (execFlitReceive n f fec s) := by
  unfold execFlitReceive
  repeat' first
    | with_reducible assumption
    | extract_lets
    | intro _
    | with_reducible apply Keeps.next
    | with_reducible exact Keeps.fault
    | with_reducible exact Keeps.refused
    | with_reducible apply Keeps.ite_outcome
    | with_reducible apply Keeps.ite
    | with_reducible apply State.takeFlit_keeps

theorem execAckTimeout_keeps {s0 : State} {n : PortNo} {s : State}  (hkeep : Keeps s0 s) :
    Keeps.Outcome s0 (execAckTimeout n s) := by
  unfold execAckTimeout
  repeat' first
    | with_reducible assumption
    | extract_lets
    | intro _
    | with_reducible apply Keeps.next
    | with_reducible exact Keeps.fault
    | with_reducible exact Keeps.refused
    | with_reducible apply Keeps.ite_outcome
    | with_reducible apply Keeps.ite
    | with_reducible apply State.replayPort_keeps

theorem State.trained_keeps {s0 : State} {s : State} {n : Nat} {peer : TrainingFlit} {width : Nat}  (hkeep : Keeps s0 s) :
    Keeps s0 (State.trained s n peer width) := by
  unfold State.trained
  repeat' first
    | with_reducible assumption
    | extract_lets
    | intro _
    | with_reducible apply Keeps.ite
    | with_reducible apply State.wfs_keeps
    | with_reducible apply State.cause_keeps
    | with_reducible apply State.log_keeps
    | with_reducible apply State.setTempo_keeps
    | with_reducible apply State.pump_keeps
    | with_reducible apply State.resend_keeps
    | with_reducible apply State.setPort_keeps
    | (fail_if_no_progress (with_reducible apply Keeps.update; rfl; rfl; first | exact Nat.le_refl _ | exact Nat.le_succ _))

theorem execPortTrainingDone_keeps {s0 : State} {n : PortNo} {peer : TrainingFlit} {s : State}  (hkeep : Keeps s0 s) :
    Keeps.Outcome s0 (execPortTrainingDone n peer s) := by
  unfold execPortTrainingDone
  repeat' first
    | with_reducible assumption
    | extract_lets
    | intro _
    | with_reducible apply Keeps.next
    | with_reducible exact Keeps.fault
    | with_reducible exact Keeps.refused
    | with_reducible apply Keeps.ite_outcome
    | with_reducible apply Keeps.ite
    | with_reducible apply State.trained_keeps

theorem execPortTrainingRetry_keeps {s0 : State} {n : PortNo} {s : State}  (hkeep : Keeps s0 s) :
    Keeps.Outcome s0 (execPortTrainingRetry n s) := by
  unfold execPortTrainingRetry
  repeat' first
    | with_reducible assumption
    | extract_lets
    | intro _
    | with_reducible apply Keeps.next
    | with_reducible exact Keeps.fault
    | with_reducible exact Keeps.refused
    | with_reducible apply Keeps.ite_outcome
    | with_reducible apply Keeps.ite
    | with_reducible apply State.wf_keeps
    | with_reducible apply State.setPort_keeps

theorem execPortCtlRetrain_keeps {s0 : State} {view : View} {n : PortNo} {s : State}  (hkeep : Keeps s0 s) :
    Keeps.Outcome s0 (execPortCtlRetrain view n s) := by
  unfold execPortCtlRetrain
  repeat' first
    | with_reducible assumption
    | extract_lets
    | intro _
    | with_reducible apply Keeps.next
    | with_reducible exact Keeps.fault
    | with_reducible exact Keeps.refused
    | with_reducible apply Keeps.ite_outcome
    | with_reducible apply Keeps.ite
    | with_reducible apply State.onWrite_keeps
    | with_reducible apply State.retrain_keeps
    | with_reducible apply State.setPort_keeps

theorem State.linkDown_keeps {s0 : State} {s : State} {n : Nat}  (hkeep : Keeps s0 s) :
    Keeps s0 (State.linkDown s n) := by
  unfold State.linkDown
  repeat' first
    | with_reducible assumption
    | extract_lets
    | intro _
    | with_reducible apply Keeps.ite
    | with_reducible apply State.wf_keeps
    | with_reducible apply State.cause_keeps
    | with_reducible apply State.log_keeps
    | with_reducible apply State.loseBeacons_keeps
    | with_reducible apply State.setPort_keeps

theorem execLinkDown_keeps {s0 : State} {n : PortNo} {s : State}  (hkeep : Keeps s0 s) :
    Keeps.Outcome s0 (execLinkDown n s) := by
  unfold execLinkDown
  repeat' first
    | with_reducible assumption
    | extract_lets
    | intro _
    | with_reducible apply Keeps.next
    | with_reducible exact Keeps.fault
    | with_reducible exact Keeps.refused
    | with_reducible apply Keeps.ite_outcome
    | with_reducible apply Keeps.ite
    | with_reducible apply State.linkDown_keeps

theorem execMessageForward_keeps {s0 : State} {n : PortNo} {s : State}  (hkeep : Keeps s0 s) :
    Keeps.Outcome s0 (execMessageForward n s) := by
  unfold execMessageForward
  repeat' first
    | with_reducible assumption
    | extract_lets
    | intro _
    | with_reducible apply Keeps.next
    | with_reducible exact Keeps.fault
    | with_reducible exact Keeps.refused
    | with_reducible apply Keeps.ite_outcome
    | with_reducible apply Keeps.ite
    | with_reducible apply State.forward_keeps
    | with_reducible apply State.takeOn_keeps

theorem State.dropOpcode_keeps {s0 : State} {s : State} {m : List Byte}  (hkeep : Keeps s0 s) :
    Keeps s0 (State.dropOpcode s m) := by
  unfold State.dropOpcode
  repeat' first
    | with_reducible assumption
    | extract_lets
    | intro _
    | with_reducible apply Keeps.ite
    | with_reducible apply State.inc_keeps
    | with_reducible apply State.cause_keeps
    | with_reducible apply State.errDetail_keeps

theorem execReservedOpcodeMessage_keeps {s0 : State} {n : PortNo} {s : State}  (hkeep : Keeps s0 s) :
    Keeps.Outcome s0 (execReservedOpcodeMessage n s) := by
  unfold execReservedOpcodeMessage
  repeat' first
    | with_reducible assumption
    | extract_lets
    | intro _
    | with_reducible apply Keeps.next
    | with_reducible exact Keeps.fault
    | with_reducible exact Keeps.refused
    | with_reducible apply Keeps.ite_outcome
    | with_reducible apply Keeps.ite
    | with_reducible apply State.dropOpcode_keeps
    | with_reducible apply State.sendMsg_keeps
    | with_reducible apply State.takeMsg_keeps

theorem execSeamPortCountClear_keeps {s0 : State} {view : View} {n : PortNo} {s : State}  (hkeep : Keeps s0 s) :
    Keeps.Outcome s0 (execSeamPortCountClear view n s) := by
  unfold execSeamPortCountClear
  repeat' first
    | with_reducible assumption
    | extract_lets
    | intro _
    | with_reducible apply Keeps.next
    | with_reducible exact Keeps.fault
    | with_reducible exact Keeps.refused
    | with_reducible apply Keeps.ite_outcome
    | with_reducible apply Keeps.ite
    | with_reducible apply State.onWrite_keeps
    | with_reducible apply State.clearCounts_keeps

theorem execSeamMgmtCountClear_keeps {s0 : State} {view : View} {s : State}  (hkeep : Keeps s0 s) :
    Keeps.Outcome s0 (execSeamMgmtCountClear view s) := by
  unfold execSeamMgmtCountClear
  repeat' first
    | with_reducible assumption
    | extract_lets
    | intro _
    | with_reducible apply Keeps.next
    | with_reducible exact Keeps.fault
    | with_reducible exact Keeps.refused
    | with_reducible apply Keeps.ite_outcome
    | with_reducible apply Keeps.ite
    | with_reducible apply State.onWrite_keeps
    | with_reducible apply State.clearCounts_keeps

end Sys2Proof.Machine
end

