-- ==== Sys2Proof/Laws/KeepsSeam.lean ====
section
/-! SUPPORT. The operations of Machine/Seam.lean keep what every command keeps. -/

namespace Sys2Proof.Machine

theorem State.refuseRemote_keeps {s0 : State} {s : State} {m : List Byte} {status : Nat}  (hkeep : Keeps s0 s) :
    Keeps s0 (State.refuseRemote s m status) := by
  unfold State.refuseRemote
  repeat' first
    | with_reducible assumption
    | extract_lets
    | intro _
    | with_reducible apply Keeps.ite
    | with_reducible apply State.inc_keeps
    | with_reducible apply State.cause_keeps
    | with_reducible apply State.errDetail_keeps
    | with_reducible apply State.log_keeps

theorem State.seamSeal_keeps {s0 : State} {s : State} {n : Nat} {src : Nat} {k : Nat}  (hkeep : Keeps s0 s) :
    Keeps s0 (State.seamSeal s n src k) := by
  unfold State.seamSeal
  repeat' first
    | with_reducible assumption
    | extract_lets
    | intro _
    | with_reducible apply Keeps.ite
    | with_reducible apply State.err_keeps
    | with_reducible apply State.log_keeps

theorem State.answer_keeps {s0 : State} {s : State} {m : List Byte} {op : Nat} {status : Nat}  (hkeep : Keeps s0 s) :
    Keeps s0 (State.answer s m op status) := by
  unfold State.answer
  repeat' first
    | with_reducible assumption
    | extract_lets
    | intro _
    | with_reducible apply Keeps.ite
    | with_reducible apply State.sendMsg_keeps

theorem State.seamWrite_keeps {s0 : State} {s : State} {n : Nat} {m : List Byte}  (hkeep : Keeps s0 s) :
    Keeps s0 (State.seamWrite s n m) := by
  unfold State.seamWrite
  repeat' first
    | with_reducible assumption
    | extract_lets
    | intro _
    | with_reducible apply Keeps.ite
    | with_reducible apply State.put_keeps
    | with_reducible apply State.putSealed_keeps
    | with_reducible apply State.setSeal_keeps
    | with_reducible apply State.check_keeps
    | with_reducible apply PutAcc.put_keeps
    | with_reducible apply State.answer_keeps
    | with_reducible apply State.refuseRemote_keeps
    | with_reducible apply State.seamSeal_keeps
    | (fail_if_no_progress (with_reducible apply Keeps.update; rfl; rfl; first | exact Nat.le_refl _ | exact Nat.le_succ _))
    | split

theorem State.receiveFree_keeps {s0 : State} {s : State} {n : Nat} {op : Nat} {len : List Byte → Nat} {k : State → List Byte → State} (hk : ∀ y0 y1, Keeps s0 y0 → Keeps s0 (k y0 y1)) (hkeep : Keeps s0 s) :
    Keeps s0 (State.receiveFree s n op len k) := by
  unfold State.receiveFree
  repeat' first
    | with_reducible assumption
    | extract_lets
    | intro _
    | with_reducible apply Keeps.ite
    | with_reducible apply hk
    | with_reducible apply State.whenFree_keeps
    | with_reducible apply State.receive_keeps
    | (fail_if_no_progress (with_reducible apply Keeps.update; rfl; rfl; first | exact Nat.le_refl _ | exact Nat.le_succ _))
    | split

theorem execWrite_keeps {s0 : State} {n : PortNo} {s : State}  (hkeep : Keeps s0 s) :
    Keeps.Outcome s0 (execWrite n s) := by
  unfold execWrite
  repeat' first
    | with_reducible assumption
    | extract_lets
    | intro _
    | with_reducible apply Keeps.next
    | with_reducible exact Keeps.fault
    | with_reducible exact Keeps.refused
    | with_reducible apply Keeps.ite_outcome
    | with_reducible apply Keeps.ite
    | with_reducible apply State.receiveFree_keeps
    | with_reducible apply State.seamWrite_keeps

theorem State.seamRead_keeps {s0 : State} {s : State} {n : Nat} {m : List Byte}  (hkeep : Keeps s0 s) :
    Keeps s0 (State.seamRead s n m) := by
  unfold State.seamRead
  repeat' first
    | with_reducible assumption
    | extract_lets
    | intro _
    | with_reducible apply Keeps.ite
    | with_reducible apply State.cacheUse_keeps
    | with_reducible apply State.check_keeps
    | with_reducible apply State.sendMsg_keeps
    | with_reducible apply State.answer_keeps
    | with_reducible apply State.refuseRemote_keeps
    | with_reducible apply State.seamSeal_keeps
    | (fail_if_no_progress (with_reducible apply Keeps.update; rfl; rfl; first | exact Nat.le_refl _ | exact Nat.le_succ _))
    | split

theorem execRead_keeps {s0 : State} {n : PortNo} {s : State}  (hkeep : Keeps s0 s) :
    Keeps.Outcome s0 (execRead n s) := by
  unfold execRead
  repeat' first
    | with_reducible assumption
    | extract_lets
    | intro _
    | with_reducible apply Keeps.next
    | with_reducible exact Keeps.fault
    | with_reducible exact Keeps.refused
    | with_reducible apply Keeps.ite_outcome
    | with_reducible apply Keeps.ite
    | with_reducible apply State.receiveFree_keeps
    | with_reducible apply State.seamRead_keeps

theorem State.seamButton_keeps {s0 : State} {s : State} {m : List Byte}  (hkeep : Keeps s0 s) :
    Keeps s0 (State.seamButton s m) := by
  unfold State.seamButton
  repeat' first
    | with_reducible assumption
    | extract_lets
    | intro _
    | with_reducible apply Keeps.ite
    | with_reducible apply State.addButton_keeps
    | with_reducible apply State.refuseButtonQuiet_keeps
    | with_reducible apply State.settle_keeps
    | with_reducible apply State.answer_keeps

theorem execButtonAdd_keeps {s0 : State} {n : PortNo} {s : State}  (hkeep : Keeps s0 s) :
    Keeps.Outcome s0 (execButtonAdd n s) := by
  unfold execButtonAdd
  repeat' first
    | with_reducible assumption
    | extract_lets
    | intro _
    | with_reducible apply Keeps.next
    | with_reducible exact Keeps.fault
    | with_reducible exact Keeps.refused
    | with_reducible apply Keeps.ite_outcome
    | with_reducible apply Keeps.ite
    | with_reducible apply State.receive_keeps
    | with_reducible apply State.seamButton_keeps
    | (fail_if_no_progress (with_reducible apply Keeps.update; rfl; rfl; first | exact Nat.le_refl _ | exact Nat.le_succ _))
    | split

theorem State.sendPeer_keeps {s0 : State} {s : State} {n : Nat} {m : Msg}  (hkeep : Keeps s0 s) :
    Keeps s0 (State.sendPeer s n m) := by
  unfold State.sendPeer
  repeat' first
    | with_reducible assumption
    | extract_lets
    | intro _
    | with_reducible apply Keeps.ite
    | with_reducible apply State.enqueue_keeps

theorem execBeaconSend_keeps {s0 : State} {s : State}  (hkeep : Keeps s0 s) :
    Keeps.Outcome s0 (execBeaconSend s) := by
  unfold execBeaconSend
  repeat' first
    | with_reducible assumption
    | extract_lets
    | intro _
    | with_reducible apply Keeps.next
    | with_reducible exact Keeps.fault
    | with_reducible exact Keeps.refused
    | with_reducible apply Keeps.ite_outcome
    | with_reducible apply Keeps.ite
    | with_reducible apply State.setTempo_keeps
    | with_reducible apply State.sendPeer_keeps
    | with_reducible apply Keeps.foldl

theorem execBeaconDelayMeasure_keeps {s0 : State} {timer : BitVec 64} {s : State}  (hkeep : Keeps s0 s) :
    Keeps.Outcome s0 (execBeaconDelayMeasure timer s) := by
  unfold execBeaconDelayMeasure
  repeat' first
    | with_reducible assumption
    | extract_lets
    | intro _
    | with_reducible apply Keeps.next
    | with_reducible exact Keeps.fault
    | with_reducible exact Keeps.refused
    | with_reducible apply Keeps.ite_outcome
    | with_reducible apply Keeps.ite
    | with_reducible apply State.setTempo_keeps
    | with_reducible apply State.sendPeer_keeps

theorem execBeacon_keeps {s0 : State} {n : PortNo} {s : State}  (hkeep : Keeps s0 s) :
    Keeps.Outcome s0 (execBeacon n s) := by
  unfold execBeacon
  repeat' first
    | with_reducible assumption
    | extract_lets
    | intro _
    | with_reducible apply Keeps.next
    | with_reducible exact Keeps.fault
    | with_reducible exact Keeps.refused
    | with_reducible apply Keeps.ite_outcome
    | with_reducible apply Keeps.ite
    | with_reducible apply State.takeBeacon_keeps
    | with_reducible apply State.receive_keeps

theorem execEchoReq_keeps {s0 : State} {n : PortNo} {heldNs : Word} {s : State}  (hkeep : Keeps s0 s) :
    Keeps.Outcome s0 (execEchoReq n heldNs s) := by
  unfold execEchoReq
  repeat' first
    | with_reducible assumption
    | extract_lets
    | intro _
    | with_reducible apply Keeps.next
    | with_reducible exact Keeps.fault
    | with_reducible exact Keeps.refused
    | with_reducible apply Keeps.ite_outcome
    | with_reducible apply Keeps.ite
    | with_reducible apply State.receive_keeps
    | with_reducible apply State.sendPeer_keeps

theorem execEchoResp_keeps {s0 : State} {n : PortNo} {timer : BitVec 64} {s : State}  (hkeep : Keeps s0 s) :
    Keeps.Outcome s0 (execEchoResp n timer s) := by
  unfold execEchoResp
  repeat' first
    | with_reducible assumption
    | extract_lets
    | intro _
    | with_reducible apply Keeps.next
    | with_reducible exact Keeps.fault
    | with_reducible exact Keeps.refused
    | with_reducible apply Keeps.ite_outcome
    | with_reducible apply Keeps.ite
    | with_reducible apply State.wf_keeps
    | with_reducible apply State.receive_keeps

theorem State.setTxn_keeps {s0 : State} {s : State} {x : Txn}  (hkeep : Keeps s0 s) :
    Keeps s0 (State.setTxn s x) := by
  unfold State.setTxn
  repeat' first
    | with_reducible assumption
    | extract_lets
    | intro _
    | with_reducible apply Keeps.ite
    | (fail_if_no_progress (with_reducible apply Keeps.update; rfl; rfl; first | exact Nat.le_refl _ | exact Nat.le_succ _))

theorem State.takeTag_keeps {s0 : State} {s : State}  (hkeep : Keeps s0 s) :
    Keeps s0 (State.takeTag s).2 := by
  unfold State.takeTag
  repeat' first
    | with_reducible assumption
    | extract_lets
    | intro _
    | with_reducible apply Keeps.ite
    | with_reducible apply Keeps.ite_fst
    | (fail_if_no_progress (with_reducible apply Keeps.update; rfl; rfl; first | exact Nat.le_refl _ | exact Nat.le_succ _))

theorem State.readOut_keeps {s0 : State} {s : State} {a : Nat} {n : Nat} {whole : Bool}  (hkeep : Keeps s0 s) :
    Keeps s0 (State.readOut s a n whole).1 := by
  unfold State.readOut
  repeat' first
    | with_reducible assumption
    | extract_lets
    | intro _
    | with_reducible apply Keeps.ite
    | with_reducible apply Keeps.ite_fst
    | with_reducible apply State.cacheReads_keeps
    | with_reducible apply State.countRead_keeps
    | with_reducible apply State.check_keeps
    | (fail_if_no_progress (with_reducible apply Keeps.update; rfl; rfl; first | exact Nat.le_refl _ | exact Nat.le_succ _))
    | split

theorem State.issueTxn_keeps {s0 : State} {s : State} {x : Txn} {off : Nat} {n : Nat}  (hkeep : Keeps s0 s) :
    Keeps s0 (State.issueTxn s x off n) := by
  unfold State.issueTxn
  repeat' first
    | with_reducible assumption
    | extract_lets
    | intro _
    | with_reducible apply Keeps.ite
    | with_reducible apply Keeps.ite_fst
    | with_reducible apply State.store_keeps
    | with_reducible apply State.sendMsg_keeps
    | with_reducible apply State.readOut_keeps
    | with_reducible apply State.seamSeal_keeps
    | with_reducible apply State.setTxn_keeps
    | with_reducible apply State.takeTag_keeps
    | (fail_if_no_progress (with_reducible apply Keeps.update; rfl; rfl; first | exact Nat.le_refl _ | exact Nat.le_succ _))
    | split

theorem State.issueFor_keeps {s0 : State} {fuel : Nat} {s : State} {n : Nat}  (hkeep : Keeps s0 s) :
    Keeps s0 (State.issueFor fuel s n) := by
  induction fuel generalizing s n with
  | zero =>
   unfold State.issueFor
   first | exact hkeep | (with_reducible apply State.setArrayRun_keeps; exact hkeep)
  | succ k ih =>
   unfold State.issueFor
   repeat' first
    | with_reducible assumption
    | with_reducible apply ih
    | extract_lets
    | intro _
    | with_reducible apply Keeps.ite
    | with_reducible apply Keeps.ite_fst
    | with_reducible apply State.issueTxn_keeps
    | (fail_if_no_progress (with_reducible apply Keeps.update; rfl; rfl; first | exact Nat.le_refl _ | exact Nat.le_succ _))
    | split

theorem State.endTxn_keeps {s0 : State} {s : State} {x : Txn} {st : Nat} {event : Nat}  (hkeep : Keeps s0 s) :
    Keeps s0 (State.endTxn s x st event) := by
  unfold State.endTxn
  repeat' first
    | with_reducible assumption
    | extract_lets
    | intro _
    | with_reducible apply Keeps.ite
    | with_reducible apply State.endTask_keeps
    | with_reducible apply State.readBack_keeps
    | (fail_if_no_progress (with_reducible apply Keeps.update; rfl; rfl; first | exact Nat.le_refl _ | exact Nat.le_succ _))
    | split

theorem State.goOn_keeps {s0 : State} {s : State} {n : Nat}  (hkeep : Keeps s0 s) :
    Keeps s0 (State.goOn s n) := by
  unfold State.goOn
  repeat' first
    | with_reducible assumption
    | extract_lets
    | intro _
    | with_reducible apply Keeps.ite
    | with_reducible apply Keeps.ite_fst
    | with_reducible apply State.sendMsg_keeps
    | with_reducible apply State.endTxn_keeps
    | with_reducible apply State.issueFor_keeps
    | with_reducible apply State.setTxn_keeps
    | with_reducible apply State.takeTag_keeps
    | (fail_if_no_progress (with_reducible apply Keeps.update; rfl; rfl; first | exact Nat.le_refl _ | exact Nat.le_succ _))
    | split

theorem State.ackTxn_keeps {s0 : State} {s : State} {m : List Byte}  (hkeep : Keeps s0 s) :
    Keeps s0 (State.ackTxn s m) := by
  unfold State.ackTxn
  repeat' first
    | with_reducible assumption
    | extract_lets
    | intro _
    | with_reducible apply Keeps.ite
    | with_reducible apply Keeps.ite_fst
    | with_reducible apply State.goOn_keeps
    | with_reducible apply State.seamSeal_keeps
    | with_reducible apply State.setTxn_keeps
    | (fail_if_no_progress (with_reducible apply Keeps.update; rfl; rfl; first | exact Nat.le_refl _ | exact Nat.le_succ _))
    | split

theorem execWriteAck_keeps {s0 : State} {n : PortNo} {s : State}  (hkeep : Keeps s0 s) :
    Keeps.Outcome s0 (execWriteAck n s) := by
  unfold execWriteAck
  repeat' first
    | with_reducible assumption
    | extract_lets
    | intro _
    | with_reducible apply Keeps.next
    | with_reducible exact Keeps.fault
    | with_reducible exact Keeps.refused
    | with_reducible apply Keeps.ite_outcome
    | with_reducible apply Keeps.ite
    | with_reducible apply State.whenFree_keeps
    | with_reducible apply State.receive_keeps
    | with_reducible apply State.ackTxn_keeps
    | (fail_if_no_progress (with_reducible apply Keeps.update; rfl; rfl; first | exact Nat.le_refl _ | exact Nat.le_succ _))
    | split

theorem State.storeIn_keeps {s0 : State} {s : State} {a : Nat} {n : Nat} {m : List Byte}  (hkeep : Keeps s0 s) :
    Keeps s0 (State.storeIn s a n m).1 := by
  unfold State.storeIn
  repeat' first
    | with_reducible assumption
    | extract_lets
    | intro _
    | with_reducible apply Keeps.ite
    | with_reducible apply Keeps.ite_fst
    | with_reducible apply State.put_keeps
    | with_reducible apply State.setSeal_keeps
    | with_reducible apply State.merge_keeps

theorem State.dataTxn_keeps {s0 : State} {s : State} {n : Nat} {m : List Byte}  (hkeep : Keeps s0 s) :
    Keeps s0 (State.dataTxn s n m) := by
  unfold State.dataTxn
  repeat' first
    | with_reducible assumption
    | extract_lets
    | intro _
    | with_reducible apply Keeps.ite
    | with_reducible apply Keeps.ite_fst
    | with_reducible apply State.goOn_keeps
    | with_reducible apply State.seamSeal_keeps
    | with_reducible apply State.setTxn_keeps
    | with_reducible apply State.storeIn_keeps
    | (fail_if_no_progress (with_reducible apply Keeps.update; rfl; rfl; first | exact Nat.le_refl _ | exact Nat.le_succ _))
    | split

theorem execReadData_keeps {s0 : State} {n : PortNo} {s : State}  (hkeep : Keeps s0 s) :
    Keeps.Outcome s0 (execReadData n s) := by
  unfold execReadData
  repeat' first
    | with_reducible assumption
    | extract_lets
    | intro _
    | with_reducible apply Keeps.next
    | with_reducible exact Keeps.fault
    | with_reducible exact Keeps.refused
    | with_reducible apply Keeps.ite_outcome
    | with_reducible apply Keeps.ite
    | with_reducible apply State.whenFree_keeps
    | with_reducible apply State.receive_keeps
    | with_reducible apply State.dataTxn_keeps
    | (fail_if_no_progress (with_reducible apply Keeps.update; rfl; rfl; first | exact Nat.le_refl _ | exact Nat.le_succ _))
    | split

theorem State.takeSeam_keeps {s0 : State} {s : State} {n : Nat} {type : Nat} {isPut : Bool}  (hkeep : Keeps s0 s) :
    Keeps s0 (State.takeSeam s n type isPut) := by
  unfold State.takeSeam
  repeat' first
    | with_reducible assumption
    | extract_lets
    | intro _
    | with_reducible apply Keeps.ite
    | with_reducible apply State.whenFree_keeps
    | with_reducible apply State.handOver_keeps
    | with_reducible apply State.refuseTask_keeps
    | with_reducible apply State.goOn_keeps
    | (fail_if_no_progress (with_reducible apply Keeps.update; rfl; rfl; first | exact Nat.le_refl _ | exact Nat.le_succ _))
    | split

theorem execSeamPut_keeps {s0 : State} {n : Nat} {s : State}  (hkeep : Keeps s0 s) :
    Keeps.Outcome s0 (execSeamPut n s) := by
  unfold execSeamPut
  repeat' first
    | with_reducible assumption
    | extract_lets
    | intro _
    | with_reducible apply Keeps.next
    | with_reducible exact Keeps.fault
    | with_reducible exact Keeps.refused
    | with_reducible apply Keeps.ite_outcome
    | with_reducible apply Keeps.ite
    | with_reducible apply State.takeSeam_keeps

theorem execSeamGet_keeps {s0 : State} {n : Nat} {s : State}  (hkeep : Keeps s0 s) :
    Keeps.Outcome s0 (execSeamGet n s) := by
  unfold execSeamGet
  repeat' first
    | with_reducible assumption
    | extract_lets
    | intro _
    | with_reducible apply Keeps.next
    | with_reducible exact Keeps.fault
    | with_reducible exact Keeps.refused
    | with_reducible apply Keeps.ite_outcome
    | with_reducible apply Keeps.ite
    | with_reducible apply State.takeSeam_keeps

end Sys2Proof.Machine
end

