-- ==== Sys2Proof/Laws/KeepsCollective.lean ====
section
/-! SUPPORT. The operations of Machine/Collective.lean keep what every command keeps. -/

namespace Sys2Proof.Machine

theorem State.setInst_keeps {s0 : State} {s : State} {e : Nat} {i : Inst}  (hkeep : Keeps s0 s) :
    Keeps s0 (State.setInst s e i) := by
  unfold State.setInst
  repeat' first
    | with_reducible assumption
    | extract_lets
    | intro _
    | with_reducible apply Keeps.ite
    | (fail_if_no_progress (with_reducible apply Keeps.update; rfl; rfl; first | exact Nat.le_refl _ | exact Nat.le_succ _))

theorem State.sendSeg_keeps {s0 : State} {s : State} {c : CollOp} {e : Nat} {op : Nat} {step : Nat} {dst : Nat} {first : Nat} {len : Nat} {r : List Nat × Nat}  (hkeep : Keeps s0 s) :
    Keeps s0 (State.sendSeg s c e op step dst first len r) := by
  unfold State.sendSeg
  repeat' first
    | with_reducible assumption
    | extract_lets
    | intro _
    | with_reducible apply Keeps.ite
    | with_reducible apply State.sendMsg_keeps
    | with_reducible apply Keeps.foldl

theorem State.exchange_keeps {s0 : State} {s : State} {e : Nat} {c : CollOp} {g : List Nat} {x : Xchg}  (hkeep : Keeps s0 s) :
    Keeps s0 (State.exchange s e c g x).1 := by
  unfold State.exchange
  repeat' first
    | with_reducible assumption
    | extract_lets
    | intro _
    | with_reducible apply Keeps.ite
    | with_reducible apply Keeps.ite_fst
    | with_reducible apply State.sendSeg_keeps
    | with_reducible apply State.setInst_keeps
    | (fail_if_no_progress (with_reducible apply Keeps.update; rfl; rfl; first | exact Nat.le_refl _ | exact Nat.le_succ _))
    | split

theorem State.exchangeAll_keeps {s0 : State} {s : State} {e : Nat} {c : CollOp} {g : List Nat} {xs : List Xchg}  (hkeep : Keeps s0 s) :
    Keeps s0 (State.exchangeAll s e c g xs) := by
  induction xs generalizing s e c g with
  | nil =>
   unfold State.exchangeAll
   first | exact hkeep | (with_reducible apply State.setArrayRun_keeps; exact hkeep)
  | cons y k ih =>
   unfold State.exchangeAll
   repeat' first
    | with_reducible assumption
    | with_reducible apply ih
    | extract_lets
    | intro _
    | with_reducible apply Keeps.ite
    | with_reducible apply Keeps.ite_fst
    | with_reducible apply State.exchange_keeps

theorem State.shareChunk_keeps {s0 : State} {s : State} {e : Nat} {c : CollOp} {g : List Nat} {r : Nat}  (hkeep : Keeps s0 s) :
    Keeps s0 (State.shareChunk s e c g r) := by
  unfold State.shareChunk
  repeat' first
    | with_reducible assumption
    | extract_lets
    | intro _
    | with_reducible apply Keeps.ite
    | with_reducible apply State.sendSeg_keeps
    | with_reducible apply Keeps.foldl

theorem State.shareAll_keeps {s0 : State} {s : State} {e : Nat} {c : CollOp} {g : List Nat} {r : Nat} {run : List Nat × Nat}  (hkeep : Keeps s0 s) :
    Keeps s0 (State.shareAll s e c g r run) := by
  unfold State.shareAll
  repeat' first
    | with_reducible assumption
    | extract_lets
    | intro _
    | with_reducible apply Keeps.ite
    | with_reducible apply Moved.run_keeps
    | with_reducible apply State.sendSeg_keeps

theorem State.collEnd_keeps {s0 : State} {s : State} {n : Nat} {c : CollOp} {e : Nat} {step : Nat} {st : Nat} {event : Nat} {present : Nat} {role : Nat} {wait : Nat} {wrote : List Nat}  (hkeep : Keeps s0 s) :
    Keeps s0 (State.collEnd s n c e step st event present role wait wrote) := by
  unfold State.collEnd
  repeat' first
    | with_reducible assumption
    | extract_lets
    | intro _
    | with_reducible apply Keeps.ite
    | with_reducible apply State.endTask_keeps
    | with_reducible apply State.readBack_keeps
    | (fail_if_no_progress (with_reducible apply Keeps.update; rfl; rfl; first | exact Nat.le_refl _ | exact Nat.le_succ _))
    | split

theorem State.stopColl_keeps {s0 : State} {s : State} {t : Task}  (hkeep : Keeps s0 s) :
    Keeps s0 (State.stopColl s t) := by
  unfold State.stopColl
  repeat' first
    | with_reducible assumption
    | extract_lets
    | intro _
    | with_reducible apply Keeps.ite
    | with_reducible apply State.endTask_keeps

theorem State.endInst_keeps {s0 : State} {s : State} {e : Nat} {c : CollOp} {st : Nat} {event : Nat} {wrote : List Nat}  (hkeep : Keeps s0 s) :
    Keeps s0 (State.endInst s e c st event wrote) := by
  unfold State.endInst
  repeat' first
    | with_reducible assumption
    | extract_lets
    | intro _
    | with_reducible apply Keeps.ite
    | with_reducible apply State.whenSome_keeps
    | with_reducible apply State.collEnd_keeps
    | with_reducible apply Keeps.foldl
    | (fail_if_no_progress (with_reducible apply Keeps.update; rfl; rfl; first | exact Nat.le_refl _ | exact Nat.le_succ _))

theorem State.closeInst_keeps {s0 : State} {s : State} {e : Nat} {c : CollOp} {runs : List (Nat × Nat × (List Nat × Nat))}  (hkeep : Keeps s0 s) :
    Keeps s0 (State.closeInst s e c runs) := by
  unfold State.closeInst
  repeat' first
    | with_reducible assumption
    | extract_lets
    | intro _
    | with_reducible apply Keeps.ite
    | with_reducible apply Keeps.ite_fst
    | with_reducible apply State.inc_keeps
    | with_reducible apply State.cause_keeps
    | with_reducible apply State.err_keeps
    | with_reducible apply State.log_keeps
    | with_reducible apply State.merge_keeps
    | with_reducible apply State.endInst_keeps
    | with_reducible apply State.setInst_keeps
    | with_reducible apply Keeps.foldl
    | with_reducible apply Keeps.foldl_fst

theorem State.progress_keeps {s0 : State} {s : State} {e : Nat}  (hkeep : Keeps s0 s) :
    Keeps s0 (State.progress s e) := by
  unfold State.progress
  repeat' first
    | with_reducible assumption
    | extract_lets
    | intro _
    | with_reducible apply Keeps.ite
    | with_reducible apply Keeps.ite_fst
    | with_reducible apply State.closeInst_keeps
    | with_reducible apply State.exchangeAll_keeps
    | with_reducible apply State.setInst_keeps
    | with_reducible apply State.shareAll_keeps
    | with_reducible apply State.shareChunk_keeps
    | with_reducible apply Keeps.foldl
    | with_reducible apply Keeps.foldl_fst
    | (fail_if_no_progress (with_reducible apply Keeps.update; rfl; rfl; first | exact Nat.le_refl _ | exact Nat.le_succ _))
    | split

theorem State.contribute_keeps {s0 : State} {s : State} {e : Nat} {r : Nat} {present : Bool}  (hkeep : Keeps s0 s) :
    Keeps s0 (State.contribute s e r present) := by
  unfold State.contribute
  repeat' first
    | with_reducible assumption
    | extract_lets
    | intro _
    | with_reducible apply Keeps.ite
    | with_reducible apply Keeps.ite_fst
    | with_reducible apply State.progress_keeps
    | with_reducible apply State.setInst_keeps

theorem State.bind_keeps {s0 : State} {s : State} {n : Nat} {e : Nat} {r : Nat}  (hkeep : Keeps s0 s) :
    Keeps s0 (State.bind s n e r) := by
  unfold State.bind
  repeat' first
    | with_reducible assumption
    | extract_lets
    | intro _
    | with_reducible apply Keeps.ite
    | with_reducible apply Keeps.ite_fst
    | with_reducible apply State.cacheReads_keeps
    | with_reducible apply State.check_keeps
    | with_reducible apply State.err_keeps
    | with_reducible apply State.log_keeps
    | with_reducible apply State.collEnd_keeps
    | with_reducible apply State.contribute_keeps
    | with_reducible apply State.setInst_keeps
    | (fail_if_no_progress (with_reducible apply Keeps.update; rfl; rfl; first | exact Nat.le_refl _ | exact Nat.le_succ _))
    | split

theorem State.setLedger_keeps {s0 : State} {s : State} {l : LedgerRun}  (hkeep : Keeps s0 s) :
    Keeps s0 (State.setLedger s l) := by
  unfold State.setLedger
  repeat' first
    | with_reducible assumption
    | extract_lets
    | intro _
    | with_reducible apply Keeps.ite
    | (fail_if_no_progress (with_reducible apply Keeps.update; rfl; rfl; first | exact Nat.le_refl _ | exact Nat.le_succ _))

theorem State.dropLedger_keeps {s0 : State} {s : State} {e : Nat} {step : Nat}  (hkeep : Keeps s0 s) :
    Keeps s0 (State.dropLedger s e step) := by
  unfold State.dropLedger
  repeat' first
    | with_reducible assumption
    | extract_lets
    | intro _
    | with_reducible apply Keeps.ite
    | (fail_if_no_progress (with_reducible apply Keeps.update; rfl; rfl; first | exact Nat.le_refl _ | exact Nat.le_succ _))

theorem State.openLedger_keeps {s0 : State} {s : State} {e : Nat} {step : Nat}  (hkeep : Keeps s0 s) :
    Keeps s0 (State.openLedger s e step) := by
  unfold State.openLedger
  repeat' first
    | with_reducible assumption
    | extract_lets
    | intro _
    | with_reducible apply Keeps.ite
    | (fail_if_no_progress (with_reducible apply Keeps.update; rfl; rfl; first | exact Nat.le_refl _ | exact Nat.le_succ _))

theorem State.dropLate_keeps {s0 : State} {s : State} {e : Nat} {count : Nat} {ranks : Nat}  (hkeep : Keeps s0 s) :
    Keeps s0 (State.dropLate s e count ranks) := by
  unfold State.dropLate
  repeat' first
    | with_reducible assumption
    | extract_lets
    | intro _
    | with_reducible apply Keeps.ite
    | with_reducible apply State.incBy_keeps
    | with_reducible apply State.cause_keeps
    | with_reducible apply State.log_keeps

theorem State.keepLate_keeps {s0 : State} {s : State} {e : Nat} {step : Nat} {rank : Nat} {first : Nat} {vals : List Nat}  (hkeep : Keeps s0 s) :
    Keeps s0 (State.keepLate s e step rank first vals) := by
  unfold State.keepLate
  repeat' first
    | with_reducible assumption
    | extract_lets
    | intro _
    | with_reducible apply Keeps.ite
    | with_reducible apply State.dropLate_keeps
    | with_reducible apply State.late_keeps
    | with_reducible apply State.setLedger_keeps
    | (fail_if_no_progress (with_reducible apply Keeps.update; rfl; rfl; first | exact Nat.le_refl _ | exact Nat.le_succ _))
    | split

theorem State.sendLate_keeps {s0 : State} {s : State} {e : Nat} {step : Nat} {r : Nat}  (hkeep : Keeps s0 s) :
    Keeps s0 (State.sendLate s e step r) := by
  unfold State.sendLate
  repeat' first
    | with_reducible assumption
    | extract_lets
    | intro _
    | with_reducible apply Keeps.ite
    | with_reducible apply State.inc_keeps
    | with_reducible apply State.keepLate_keeps
    | with_reducible apply State.sendSeg_keeps
    | with_reducible apply Keeps.foldl

theorem State.finishLedger_keeps {s0 : State} {s : State} {e : Nat} {step : Nat} {count : Nat}  (hkeep : Keeps s0 s) :
    Keeps s0 (State.finishLedger s e step count) := by
  unfold State.finishLedger
  repeat' first
    | with_reducible assumption
    | extract_lets
    | intro _
    | with_reducible apply Keeps.ite
    | with_reducible apply State.putSealed_keeps
    | with_reducible apply State.addButton_keeps
    | with_reducible apply State.settle_keeps
    | with_reducible apply State.dropLedger_keeps

theorem State.takeLedger_keeps {s0 : State} {s : State} {e : Nat} {step : Nat} {owner : Nat} {first : Nat} {len : Nat} {r : List Nat × Nat}  (hkeep : Keeps s0 s) :
    Keeps s0 (State.takeLedger s e step owner first len r) := by
  unfold State.takeLedger
  repeat' first
    | with_reducible assumption
    | extract_lets
    | intro _
    | with_reducible apply Keeps.ite
    | with_reducible apply Keeps.ite_fst
    | with_reducible apply State.inc_keeps
    | with_reducible apply State.err_keeps
    | with_reducible apply State.log_keeps
    | with_reducible apply State.merge_keeps
    | with_reducible apply State.finishLedger_keeps
    | with_reducible apply State.setLedger_keeps
    | with_reducible apply Keeps.foldl
    | with_reducible apply Keeps.foldl_fst
    | (fail_if_no_progress (with_reducible apply Keeps.update; rfl; rfl; first | exact Nat.le_refl _ | exact Nat.le_succ _))
    | split

theorem State.closeLedger_keeps {s0 : State} {s : State} {l : LedgerRun}  (hkeep : Keeps s0 s) :
    Keeps s0 (State.closeLedger s l) := by
  unfold State.closeLedger
  repeat' first
    | with_reducible assumption
    | extract_lets
    | intro _
    | with_reducible apply Keeps.ite
    | with_reducible apply State.addButton_keeps
    | with_reducible apply State.settle_keeps
    | with_reducible apply Moved.run_keeps
    | with_reducible apply State.dropLedger_keeps
    | with_reducible apply State.sendSeg_keeps
    | with_reducible apply State.setLedger_keeps
    | with_reducible apply State.takeLedger_keeps
    | with_reducible apply Keeps.foldl
    | (fail_if_no_progress (with_reducible apply Keeps.update; rfl; rfl; first | exact Nat.le_refl _ | exact Nat.le_succ _))
    | split

theorem State.giveUpLedger_keeps {s0 : State} {s : State} {l : LedgerRun}  (hkeep : Keeps s0 s) :
    Keeps s0 (State.giveUpLedger s l) := by
  unfold State.giveUpLedger
  repeat' first
    | with_reducible assumption
    | extract_lets
    | intro _
    | with_reducible apply Keeps.ite
    | with_reducible apply State.closeLedger_keeps
    | with_reducible apply State.dropLate_keeps
    | with_reducible apply State.finishLedger_keeps

theorem State.settleLedgers_keeps {s0 : State} {s : State}  (hkeep : Keeps s0 s) :
    Keeps s0 (State.settleLedgers s) := by
  unfold State.settleLedgers
  repeat' first
    | with_reducible assumption
    | extract_lets
    | intro _
    | with_reducible apply Keeps.ite
    | with_reducible apply State.giveUpLedger_keeps
    | with_reducible apply Keeps.foldl

theorem execLedgerClose_keeps {s0 : State} {e : Fin 4096} {s : State}  (hkeep : Keeps s0 s) :
    Keeps.Outcome s0 (execLedgerClose e s) := by
  unfold execLedgerClose
  repeat' first
    | with_reducible assumption
    | extract_lets
    | intro _
    | with_reducible apply Keeps.next
    | with_reducible exact Keeps.fault
    | with_reducible exact Keeps.refused
    | with_reducible apply Keeps.ite_outcome
    | with_reducible apply Keeps.ite
    | with_reducible apply State.whenFree_keeps
    | with_reducible apply State.closeLedger_keeps
    | (fail_if_no_progress (with_reducible apply Keeps.update; rfl; rfl; first | exact Nat.le_refl _ | exact Nat.le_succ _))
    | split

theorem execLedgerSegTimeout_keeps {s0 : State} {e : Fin 4096} {s : State}  (hkeep : Keeps s0 s) :
    Keeps.Outcome s0 (execLedgerSegTimeout e s) := by
  unfold execLedgerSegTimeout
  repeat' first
    | with_reducible assumption
    | extract_lets
    | intro _
    | with_reducible apply Keeps.next
    | with_reducible exact Keeps.fault
    | with_reducible exact Keeps.refused
    | with_reducible apply Keeps.ite_outcome
    | with_reducible apply Keeps.ite
    | with_reducible apply State.whenFree_keeps
    | with_reducible apply State.log_keeps
    | with_reducible apply State.finishLedger_keeps
    | (fail_if_no_progress (with_reducible apply Keeps.update; rfl; rfl; first | exact Nat.le_refl _ | exact Nat.le_succ _))
    | split

theorem State.late_keeps {s0 : State} {s : State} {n : Nat} {e : Nat} {step : Nat} {r : Nat}  (hkeep : Keeps s0 s) :
    Keeps s0 (State.late s n e step r) := by
  unfold State.late
  repeat' first
    | with_reducible assumption
    | extract_lets
    | intro _
    | with_reducible apply Keeps.ite
    | with_reducible apply Keeps.ite_fst
    | with_reducible apply State.cacheReads_keeps
    | with_reducible apply State.incBy_keeps
    | with_reducible apply State.cause_keeps
    | with_reducible apply State.check_keeps
    | with_reducible apply State.err_keeps
    | with_reducible apply State.log_keeps
    | with_reducible apply State.collEnd_keeps
    | with_reducible apply State.sendLate_keeps
    | (fail_if_no_progress (with_reducible apply Keeps.update; rfl; rfl; first | exact Nat.le_refl _ | exact Nat.le_succ _))
    | split

theorem State.meet_keeps {s0 : State} {s : State} {n : Nat} {e : Nat} {step : Nat} {r : Nat}  (hkeep : Keeps s0 s) :
    Keeps s0 (State.meet s n e step r) := by
  unfold State.meet
  repeat' first
    | with_reducible assumption
    | extract_lets
    | intro _
    | with_reducible apply Keeps.ite
    | with_reducible apply State.bind_keeps
    | with_reducible apply State.collEnd_keeps
    | with_reducible apply State.late_keeps
    | with_reducible apply State.setInst_keeps
    | (fail_if_no_progress (with_reducible apply Keeps.update; rfl; rfl; first | exact Nat.le_refl _ | exact Nat.le_succ _))
    | split

theorem State.takeColl_keeps {s0 : State} {s : State} {t : Task}  (hkeep : Keeps s0 s) :
    Keeps s0 (State.takeColl s t) := by
  unfold State.takeColl
  repeat' first
    | with_reducible assumption
    | extract_lets
    | intro _
    | with_reducible apply Keeps.ite
    | with_reducible apply Keeps.ite_fst
    | with_reducible apply State.cacheReads_keeps
    | with_reducible apply State.whenFree_keeps
    | with_reducible apply State.check_keeps
    | with_reducible apply State.faultTask_keeps
    | with_reducible apply State.handOver_keeps
    | with_reducible apply State.refuseTask_keeps
    | with_reducible apply State.meet_keeps
    | (fail_if_no_progress (with_reducible apply Keeps.update; rfl; rfl; first | exact Nat.le_refl _ | exact Nat.le_succ _))
    | split

theorem execCollective_keeps {s0 : State} {n : Nat} {s : State}  (hkeep : Keeps s0 s) :
    Keeps.Outcome s0 (execCollective n s) := by
  unfold execCollective
  repeat' first
    | with_reducible assumption
    | extract_lets
    | intro _
    | with_reducible apply Keeps.next
    | with_reducible exact Keeps.fault
    | with_reducible exact Keeps.refused
    | with_reducible apply Keeps.ite_outcome
    | with_reducible apply Keeps.ite
    | with_reducible apply State.takeColl_keeps
    | (fail_if_no_progress (with_reducible apply Keeps.update; rfl; rfl; first | exact Nat.le_refl _ | exact Nat.le_succ _))
    | split

theorem execCollectiveStepWaitTimeout_keeps {s0 : State} {n : Nat} {s : State}  (hkeep : Keeps s0 s) :
    Keeps.Outcome s0 (execCollectiveStepWaitTimeout n s) := by
  unfold execCollectiveStepWaitTimeout
  repeat' first
    | with_reducible assumption
    | extract_lets
    | intro _
    | with_reducible apply Keeps.next
    | with_reducible exact Keeps.fault
    | with_reducible exact Keeps.refused
    | with_reducible apply Keeps.ite_outcome
    | with_reducible apply Keeps.ite
    | with_reducible apply State.collEnd_keeps
    | (fail_if_no_progress (with_reducible apply Keeps.update; rfl; rfl; first | exact Nat.le_refl _ | exact Nat.le_succ _))
    | split

theorem State.addSegment_keeps {s0 : State} {s : State} {e : Nat} {m : List Byte}  (hkeep : Keeps s0 s) :
    Keeps s0 (State.addSegment s e m) := by
  unfold State.addSegment
  repeat' first
    | with_reducible assumption
    | extract_lets
    | intro _
    | with_reducible apply Keeps.ite
    | with_reducible apply Keeps.ite_fst
    | with_reducible apply State.inc_keeps
    | with_reducible apply State.progress_keeps
    | with_reducible apply State.setInst_keeps
    | (fail_if_no_progress (with_reducible apply Keeps.update; rfl; rfl; first | exact Nat.le_refl _ | exact Nat.le_succ _))
    | split

theorem execLateSeg_keeps {s0 : State} {n : PortNo} {s : State}  (hkeep : Keeps s0 s) :
    Keeps.Outcome s0 (execLateSeg n s) := by
  unfold execLateSeg
  repeat' first
    | with_reducible assumption
    | extract_lets
    | intro _
    | with_reducible apply Keeps.next
    | with_reducible exact Keeps.fault
    | with_reducible exact Keeps.refused
    | with_reducible apply Keeps.ite_outcome
    | with_reducible apply Keeps.ite
    | with_reducible apply State.inc_keeps
    | with_reducible apply State.receive_keeps
    | with_reducible apply State.keepLate_keeps
    | with_reducible apply State.openLedger_keeps
    | (fail_if_no_progress (with_reducible apply Keeps.update; rfl; rfl; first | exact Nat.le_refl _ | exact Nat.le_succ _))
    | split

theorem execLedgerSeg_keeps {s0 : State} {n : PortNo} {s : State}  (hkeep : Keeps s0 s) :
    Keeps.Outcome s0 (execLedgerSeg n s) := by
  unfold execLedgerSeg
  repeat' first
    | with_reducible assumption
    | extract_lets
    | intro _
    | with_reducible apply Keeps.next
    | with_reducible exact Keeps.fault
    | with_reducible exact Keeps.refused
    | with_reducible apply Keeps.ite_outcome
    | with_reducible apply Keeps.ite
    | with_reducible apply State.inc_keeps
    | with_reducible apply State.whenFree_keeps
    | with_reducible apply State.receive_keeps
    | with_reducible apply State.takeLedger_keeps
    | (fail_if_no_progress (with_reducible apply Keeps.update; rfl; rfl; first | exact Nat.le_refl _ | exact Nat.le_succ _))
    | split

theorem State.releaseHeld_keeps {s0 : State} {s : State} {e : Nat}  (hkeep : Keeps s0 s) :
    Keeps s0 (State.releaseHeld s e) := by
  unfold State.releaseHeld
  repeat' first
    | with_reducible assumption
    | extract_lets
    | intro _
    | with_reducible apply Keeps.ite
    | with_reducible apply Keeps.ite_fst
    | with_reducible apply State.freeSlots_keeps
    | with_reducible apply State.pump_keeps
    | with_reducible apply State.addSegment_keeps
    | with_reducible apply Keeps.foldl
    | with_reducible apply Keeps.foldl_fst
    | (fail_if_no_progress (with_reducible apply Keeps.update; rfl; rfl; first | exact Nat.le_refl _ | exact Nat.le_succ _))

theorem State.openNext_keeps {s0 : State} {fuel : Nat} {s : State} {e : Nat}  (hkeep : Keeps s0 s) :
    Keeps s0 (State.openNext fuel s e) := by
  induction fuel generalizing s e with
  | zero =>
   unfold State.openNext
   first | exact hkeep | (with_reducible apply State.setArrayRun_keeps; exact hkeep)
  | succ k ih =>
   unfold State.openNext
   repeat' first
    | with_reducible assumption
    | with_reducible apply ih
    | extract_lets
    | intro _
    | with_reducible apply Keeps.ite
    | with_reducible apply State.contribute_keeps
    | with_reducible apply State.meet_keeps
    | with_reducible apply State.releaseHeld_keeps
    | with_reducible apply State.setInst_keeps
    | with_reducible apply Keeps.foldl
    | (fail_if_no_progress (with_reducible apply Keeps.update; rfl; rfl; first | exact Nat.le_refl _ | exact Nat.le_succ _))
    | split

theorem State.advanceInst_keeps {s0 : State} {s : State} {e : Nat}  (hkeep : Keeps s0 s) :
    Keeps s0 (State.advanceInst s e) := by
  unfold State.advanceInst
  repeat' first
    | with_reducible assumption
    | extract_lets
    | intro _
    | with_reducible apply Keeps.ite
    | with_reducible apply State.openNext_keeps

theorem State.advanceIfDue_keeps {s0 : State} {s : State} {e : Nat}  (hkeep : Keeps s0 s) :
    Keeps s0 (State.advanceIfDue s e) := by
  unfold State.advanceIfDue
  repeat' first
    | with_reducible assumption
    | extract_lets
    | intro _
    | with_reducible apply Keeps.ite
    | with_reducible apply State.advanceInst_keeps

theorem State.takeSeg_keeps {s0 : State} {s : State} {n : Nat} {m : List Byte}  (hkeep : Keeps s0 s) :
    Keeps s0 (State.takeSeg s n m) := by
  unfold State.takeSeg
  repeat' first
    | with_reducible assumption
    | extract_lets
    | intro _
    | with_reducible apply Keeps.ite
    | with_reducible apply State.inc_keeps
    | with_reducible apply State.freeSlots_keeps
    | with_reducible apply State.addSegment_keeps
    | with_reducible apply State.advanceIfDue_keeps
    | (fail_if_no_progress (with_reducible apply Keeps.update; rfl; rfl; first | exact Nat.le_refl _ | exact Nat.le_succ _))

theorem State.receiveSeg_keeps {s0 : State} {s : State} {n : Nat} {op : Nat}  (hkeep : Keeps s0 s) :
    Keeps s0 (State.receiveSeg s n op) := by
  unfold State.receiveSeg
  repeat' first
    | with_reducible assumption
    | extract_lets
    | intro _
    | with_reducible apply Keeps.ite
    | with_reducible apply State.dropMsg_keeps
    | with_reducible apply State.freeSlots_keeps
    | with_reducible apply State.pump_keeps
    | with_reducible apply State.setPort_keeps
    | with_reducible apply State.takeSeg_keeps
    | (fail_if_no_progress (with_reducible apply Keeps.update; rfl; rfl; first | exact Nat.le_refl _ | exact Nat.le_succ _))
    | split

theorem State.segFree_keeps {s0 : State} {s : State} {n : Nat} {op : Nat}  (hkeep : Keeps s0 s) :
    Keeps s0 (State.segFree s n op) := by
  unfold State.segFree
  repeat' first
    | with_reducible assumption
    | extract_lets
    | intro _
    | with_reducible apply Keeps.ite
    | with_reducible apply State.whenFree_keeps
    | with_reducible apply State.receiveSeg_keeps
    | (fail_if_no_progress (with_reducible apply Keeps.update; rfl; rfl; first | exact Nat.le_refl _ | exact Nat.le_succ _))
    | split

theorem execContrib_keeps {s0 : State} {n : PortNo} {s : State}  (hkeep : Keeps s0 s) :
    Keeps.Outcome s0 (execContrib n s) := by
  unfold execContrib
  repeat' first
    | with_reducible assumption
    | extract_lets
    | intro _
    | with_reducible apply Keeps.next
    | with_reducible exact Keeps.fault
    | with_reducible exact Keeps.refused
    | with_reducible apply Keeps.ite_outcome
    | with_reducible apply Keeps.ite
    | with_reducible apply State.segFree_keeps

theorem execResultSeg_keeps {s0 : State} {n : PortNo} {s : State}  (hkeep : Keeps s0 s) :
    Keeps.Outcome s0 (execResultSeg n s) := by
  unfold execResultSeg
  repeat' first
    | with_reducible assumption
    | extract_lets
    | intro _
    | with_reducible apply Keeps.next
    | with_reducible exact Keeps.fault
    | with_reducible exact Keeps.refused
    | with_reducible apply Keeps.ite_outcome
    | with_reducible apply Keeps.ite
    | with_reducible apply State.segFree_keeps

theorem State.timeLedger_keeps {s0 : State} {s : State} {e : Nat} {step : Nat}  (hkeep : Keeps s0 s) :
    Keeps s0 (State.timeLedger s e step) := by
  unfold State.timeLedger
  repeat' first
    | with_reducible assumption
    | extract_lets
    | intro _
    | with_reducible apply Keeps.ite
    | with_reducible apply State.whenSome_keeps
    | with_reducible apply State.openLedger_keeps
    | with_reducible apply State.setLedger_keeps

theorem State.collDeadline_keeps {s0 : State} {s : State} {e : Nat}  (hkeep : Keeps s0 s) :
    Keeps s0 (State.collDeadline s e) := by
  unfold State.collDeadline
  repeat' first
    | with_reducible assumption
    | extract_lets
    | intro _
    | with_reducible apply Keeps.ite
    | with_reducible apply State.advanceIfDue_keeps
    | with_reducible apply State.advanceInst_keeps
    | with_reducible apply State.contribute_keeps
    | with_reducible apply State.setInst_keeps
    | with_reducible apply State.timeLedger_keeps
    | (fail_if_no_progress (with_reducible apply Keeps.update; rfl; rfl; first | exact Nat.le_refl _ | exact Nat.le_succ _))
    | split

theorem State.abandon_keeps {s0 : State} {s : State} {e : Nat}  (hkeep : Keeps s0 s) :
    Keeps s0 (State.abandon s e) := by
  unfold State.abandon
  repeat' first
    | with_reducible assumption
    | extract_lets
    | intro _
    | with_reducible apply Keeps.ite
    | with_reducible apply State.inc_keeps
    | with_reducible apply State.whenSome_keeps
    | with_reducible apply State.cause_keeps
    | with_reducible apply State.log_keeps
    | with_reducible apply State.advanceInst_keeps
    | with_reducible apply State.endInst_keeps
    | with_reducible apply State.giveUpLedger_keeps

theorem execCollectiveAbandon_keeps {s0 : State} {e : Fin 4096} {s : State}  (hkeep : Keeps s0 s) :
    Keeps.Outcome s0 (execCollectiveAbandon e s) := by
  unfold execCollectiveAbandon
  repeat' first
    | with_reducible assumption
    | extract_lets
    | intro _
    | with_reducible apply Keeps.next
    | with_reducible exact Keeps.fault
    | with_reducible exact Keeps.refused
    | with_reducible apply Keeps.ite_outcome
    | with_reducible apply Keeps.ite
    | with_reducible apply State.whenFree_keeps
    | with_reducible apply State.abandon_keeps
    | (fail_if_no_progress (with_reducible apply Keeps.update; rfl; rfl; first | exact Nat.le_refl _ | exact Nat.le_succ _))
    | split

theorem State.loadColl_keeps {s0 : State} {s : State}  (hkeep : Keeps s0 s) :
    Keeps s0 (State.loadColl s) := by
  unfold State.loadColl
  repeat' first
    | with_reducible assumption
    | extract_lets
    | intro _
    | with_reducible apply Keeps.ite
    | with_reducible apply Keeps.ite_fst
    | with_reducible apply State.cacheReads_keeps
    | with_reducible apply State.wf_keeps
    | with_reducible apply State.accessFault_keeps
    | with_reducible apply State.cause_keeps
    | with_reducible apply State.check_keeps
    | with_reducible apply State.err_keeps
    | with_reducible apply State.log_keeps
    | with_reducible apply State.freeSlots_keeps
    | with_reducible apply State.settleLedgers_keeps
    | with_reducible apply Keeps.foldl
    | with_reducible apply Keeps.foldl_fst
    | (fail_if_no_progress (with_reducible apply Keeps.update; rfl; rfl; first | exact Nat.le_refl _ | exact Nat.le_succ _))

theorem execCollLoad_keeps {s0 : State} {view : View} {s : State}  (hkeep : Keeps s0 s) :
    Keeps.Outcome s0 (execCollLoad view s) := by
  unfold execCollLoad
  repeat' first
    | with_reducible assumption
    | extract_lets
    | intro _
    | with_reducible apply Keeps.next
    | with_reducible exact Keeps.fault
    | with_reducible exact Keeps.refused
    | with_reducible apply Keeps.ite_outcome
    | with_reducible apply Keeps.ite
    | with_reducible apply State.whenFree_keeps
    | with_reducible apply State.onWrite_keeps
    | with_reducible apply State.loadColl_keeps

theorem execCollectiveCountClear_keeps {s0 : State} {view : View} {s : State}  (hkeep : Keeps s0 s) :
    Keeps.Outcome s0 (execCollectiveCountClear view s) := by
  unfold execCollectiveCountClear
  repeat' first
    | with_reducible assumption
    | extract_lets
    | intro _
    | with_reducible apply Keeps.next
    | with_reducible exact Keeps.fault
    | with_reducible exact Keeps.refused
    | with_reducible apply Keeps.ite_outcome
    | with_reducible apply Keeps.ite
    | with_reducible apply State.onWrite_keeps
    | with_reducible apply State.clearCounts_keeps

end Sys2Proof.Machine
end

