-- ==== Sys2Proof/Laws/KeepsMaint.lean ====
section
/-! SUPPORT. The operations of Machine/Maint.lean keep what every command keeps. -/

namespace Sys2Proof.Machine

theorem State.endSeal_keeps {s0 : State} {s : State} {n : Nat} {last : Nat} {blocks : Nat}  (hkeep : Keeps s0 s) :
    Keeps s0 (State.endSeal s n last blocks) := by
  unfold State.endSeal
  repeat' first
    | with_reducible assumption
    | extract_lets
    | intro _
    | with_reducible apply Keeps.ite
    | with_reducible apply State.wfs_keeps
    | with_reducible apply State.cause_keeps
    | (fail_if_no_progress (with_reducible apply Keeps.update; rfl; rfl; first | exact Nat.le_refl _ | exact Nat.le_succ _))

theorem State.startSeal_keeps {s0 : State} {s : State} {n : Nat} {op : Nat}  (hkeep : Keeps s0 s) :
    Keeps s0 (State.startSeal s n op) := by
  unfold State.startSeal
  repeat' first
    | with_reducible assumption
    | extract_lets
    | intro _
    | with_reducible apply Keeps.ite
    | with_reducible apply State.wfs_keeps
    | with_reducible apply State.endSeal_keeps
    | (fail_if_no_progress (with_reducible apply Keeps.update; rfl; rfl; first | exact Nat.le_refl _ | exact Nat.le_succ _))

theorem execReseal_keeps {s0 : State} {view : View} {n : Die8} {s : State}  (hkeep : Keeps s0 s) :
    Keeps.Outcome s0 (execReseal view n s) := by
  unfold execReseal
  repeat' first
    | with_reducible assumption
    | extract_lets
    | intro _
    | with_reducible apply Keeps.next
    | with_reducible exact Keeps.fault
    | with_reducible exact Keeps.refused
    | with_reducible apply Keeps.ite_outcome
    | with_reducible apply Keeps.ite
    | with_reducible apply State.onWrite_keeps
    | with_reducible apply State.startSeal_keeps

theorem execCheck_keeps {s0 : State} {view : View} {n : Die8} {s : State}  (hkeep : Keeps s0 s) :
    Keeps.Outcome s0 (execCheck view n s) := by
  unfold execCheck
  repeat' first
    | with_reducible assumption
    | extract_lets
    | intro _
    | with_reducible apply Keeps.next
    | with_reducible exact Keeps.fault
    | with_reducible exact Keeps.refused
    | with_reducible apply Keeps.ite_outcome
    | with_reducible apply Keeps.ite
    | with_reducible apply State.onWrite_keeps
    | with_reducible apply State.startSeal_keeps

theorem execZero_keeps {s0 : State} {view : View} {n : Die8} {s : State}  (hkeep : Keeps s0 s) :
    Keeps.Outcome s0 (execZero view n s) := by
  unfold execZero
  repeat' first
    | with_reducible assumption
    | extract_lets
    | intro _
    | with_reducible apply Keeps.next
    | with_reducible exact Keeps.fault
    | with_reducible exact Keeps.refused
    | with_reducible apply Keeps.ite_outcome
    | with_reducible apply Keeps.ite
    | with_reducible apply State.onWrite_keeps
    | with_reducible apply State.startSeal_keeps

theorem State.sealCheck_keeps {s0 : State} {s : State} {n : Nat} {addr : Nat} {blocks : Nat}  (hkeep : Keeps s0 s) :
    Keeps s0 (State.sealCheck s n addr blocks) := by
  unfold State.sealCheck
  repeat' first
    | with_reducible assumption
    | extract_lets
    | intro _
    | with_reducible apply Keeps.ite
    | with_reducible apply State.wf_keeps
    | with_reducible apply State.wf64_keeps
    | with_reducible apply State.check_keeps
    | with_reducible apply State.log_keeps
    | (fail_if_no_progress (with_reducible apply Keeps.update; rfl; rfl; first | exact Nat.le_refl _ | exact Nat.le_succ _))
    | split
    | dsimp +zetaDelta only

theorem State.sealWork_keeps {s0 : State} {s : State} {n : Nat} {o : SealOp} {blocks : Nat}  (hkeep : Keeps s0 s) :
    Keeps s0 (State.sealWork s n o blocks) := by
  unfold State.sealWork
  repeat' first
    | with_reducible assumption
    | extract_lets
    | intro _
    | with_reducible apply Keeps.ite
    | with_reducible apply State.putSealed_keeps
    | with_reducible apply State.reseal_keeps
    | with_reducible apply State.sealCheck_keeps
    | (fail_if_no_progress (with_reducible apply Keeps.update; rfl; rfl; first | exact Nat.le_refl _ | exact Nat.le_succ _))
    | split

theorem execSealOpDone_keeps {s0 : State} {n : Die8} {s : State}  (hkeep : Keeps s0 s) :
    Keeps.Outcome s0 (execSealOpDone n s) := by
  unfold execSealOpDone
  repeat' first
    | with_reducible assumption
    | extract_lets
    | intro _
    | with_reducible apply Keeps.next
    | with_reducible exact Keeps.fault
    | with_reducible exact Keeps.refused
    | with_reducible apply Keeps.ite_outcome
    | with_reducible apply Keeps.ite
    | with_reducible apply State.whenFree_keeps
    | with_reducible apply State.onDie_keeps
    | with_reducible apply State.endSeal_keeps
    | with_reducible apply State.sealWork_keeps
    | (fail_if_no_progress (with_reducible apply Keeps.update; rfl; rfl; first | exact Nat.le_refl _ | exact Nat.le_succ _))
    | split

theorem State.resetSeal_keeps {s0 : State} {s : State} {n : Nat}  (hkeep : Keeps s0 s) :
    Keeps s0 (State.resetSeal s n) := by
  unfold State.resetSeal
  repeat' first
    | with_reducible assumption
    | extract_lets
    | intro _
    | with_reducible apply Keeps.ite
    | with_reducible apply Keeps.ite_fst
    | with_reducible apply State.draw_keeps
    | with_reducible apply State.endSeal_keeps
    | with_reducible apply State.sealWork_keeps
    | (fail_if_no_progress (with_reducible apply Keeps.update; rfl; rfl; first | exact Nat.le_refl _ | exact Nat.le_succ _))
    | split

theorem State.writeEntry_keeps {s0 : State} {s : State} {n : Nat} {w : Word}  (hkeep : Keeps s0 s) :
    Keeps s0 (State.writeEntry s n w) := by
  unfold State.writeEntry
  repeat' first
    | with_reducible assumption
    | extract_lets
    | intro _
    | with_reducible apply Keeps.ite
    | with_reducible apply State.setSeal_keeps
    | with_reducible apply State.log_keeps
    | (fail_if_no_progress (with_reducible apply Keeps.update; rfl; rfl; first | exact Nat.le_refl _ | exact Nat.le_succ _))
    | split

theorem execEntryDataWrite_keeps {s0 : State} {view : View} {n : Die8} {w : Word} {s : State}  (hkeep : Keeps s0 s) :
    Keeps.Outcome s0 (execEntryDataWrite view n w s) := by
  unfold execEntryDataWrite
  repeat' first
    | with_reducible assumption
    | extract_lets
    | intro _
    | with_reducible apply Keeps.next
    | with_reducible exact Keeps.fault
    | with_reducible exact Keeps.refused
    | with_reducible apply Keeps.ite_outcome
    | with_reducible apply Keeps.ite
    | with_reducible apply State.onWrite_keeps
    | with_reducible apply State.writeEntry_keeps

theorem execSealCountClear_keeps {s0 : State} {view : View} {n : Die8} {s : State}  (hkeep : Keeps s0 s) :
    Keeps.Outcome s0 (execSealCountClear view n s) := by
  unfold execSealCountClear
  repeat' first
    | with_reducible assumption
    | extract_lets
    | intro _
    | with_reducible apply Keeps.next
    | with_reducible exact Keeps.fault
    | with_reducible exact Keeps.refused
    | with_reducible apply Keeps.ite_outcome
    | with_reducible apply Keeps.ite
    | with_reducible apply State.onWrite_keeps
    | with_reducible apply State.clearCounts_keeps

theorem State.ftStatus_keeps {s0 : State} {s : State} {state : Nat} {c : CoreName}  (hkeep : Keeps s0 s) :
    Keeps s0 (State.ftStatus s state c) := by
  unfold State.ftStatus
  repeat' first
    | with_reducible assumption
    | extract_lets
    | intro _
    | with_reducible apply Keeps.ite
    | with_reducible apply State.wfs_keeps

theorem State.grantTest_keeps {s0 : State} {s : State} {c : CoreName} {o : FtOrigin}  (hkeep : Keeps s0 s) :
    Keeps s0 (State.grantTest s c o) := by
  unfold State.grantTest
  repeat' first
    | with_reducible assumption
    | extract_lets
    | intro _
    | with_reducible apply Keeps.ite
    | with_reducible apply State.ftStatus_keeps
    | (fail_if_no_progress (with_reducible apply Keeps.update; rfl; rfl; first | exact Nat.le_refl _ | exact Nat.le_succ _))

theorem State.askTest_keeps {s0 : State} {s : State} {c : CoreName} {o : FtOrigin}  (hkeep : Keeps s0 s) :
    Keeps s0 (State.askTest s c o).1 := by
  unfold State.askTest
  repeat' first
    | with_reducible assumption
    | extract_lets
    | intro _
    | with_reducible apply Keeps.ite
    | with_reducible apply Keeps.ite_fst
    | with_reducible apply State.askGrant_keeps
    | with_reducible apply State.grantTest_keeps

theorem State.ftBusy_keeps {s0 : State} {s : State}  (hkeep : Keeps s0 s) :
    Keeps s0 (State.ftBusy s) := by
  unfold State.ftBusy
  repeat' first
    | with_reducible assumption
    | extract_lets
    | intro _
    | with_reducible apply Keeps.ite
    | with_reducible apply State.wf_keeps

theorem State.ftCmd_keeps {s0 : State} {s : State} {view : View} {c : CoreName} {o : FtOrigin}  (hkeep : Keeps s0 s) :
    Keeps s0 (State.ftCmd s view c o) := by
  unfold State.ftCmd
  repeat' first
    | with_reducible assumption
    | extract_lets
    | intro _
    | with_reducible apply Keeps.ite
    | with_reducible apply Keeps.ite_fst
    | with_reducible apply State.wfs_keeps
    | with_reducible apply State.err_keeps
    | with_reducible apply State.onWrite_keeps
    | with_reducible apply State.askTest_keeps
    | with_reducible apply State.ftBusy_keeps

theorem execFtCmdTest_keeps {s0 : State} {view : View} {c : CoreName} {s : State}  (hkeep : Keeps s0 s) :
    Keeps.Outcome s0 (execFtCmdTest view c s) := by
  unfold execFtCmdTest
  repeat' first
    | with_reducible assumption
    | extract_lets
    | intro _
    | with_reducible apply Keeps.next
    | with_reducible exact Keeps.fault
    | with_reducible exact Keeps.refused
    | with_reducible apply Keeps.ite_outcome
    | with_reducible apply Keeps.ite
    | with_reducible apply State.ftCmd_keeps

theorem execFtCmdReinstate_keeps {s0 : State} {view : View} {c : CoreName} {s : State}  (hkeep : Keeps s0 s) :
    Keeps.Outcome s0 (execFtCmdReinstate view c s) := by
  unfold execFtCmdReinstate
  repeat' first
    | with_reducible assumption
    | extract_lets
    | intro _
    | with_reducible apply Keeps.next
    | with_reducible exact Keeps.fault
    | with_reducible exact Keeps.refused
    | with_reducible apply Keeps.ite_outcome
    | with_reducible apply Keeps.ite
    | with_reducible apply State.ftCmd_keeps

theorem State.skipTest_keeps {s0 : State} {s : State} {c : CoreName} {reason : Nat}  (hkeep : Keeps s0 s) :
    Keeps s0 (State.skipTest s c reason) := by
  unfold State.skipTest
  repeat' first
    | with_reducible assumption
    | extract_lets
    | intro _
    | with_reducible apply Keeps.ite
    | with_reducible apply State.inc_keeps
    | with_reducible apply State.log_keeps

theorem State.testSlot_keeps {s0 : State} {s : State} {c : CoreName}  (hkeep : Keeps s0 s) :
    Keeps s0 (State.testSlot s c) := by
  unfold State.testSlot
  repeat' first
    | with_reducible assumption
    | extract_lets
    | intro _
    | with_reducible apply Keeps.ite
    | with_reducible apply Keeps.ite_fst
    | with_reducible apply State.askTest_keeps
    | with_reducible apply State.skipTest_keeps

theorem State.freeBytes_keeps {s0 : State} {s : State} {k : Nat} {n : Nat}  (hkeep : Keeps s0 s) :
    Keeps s0 (State.freeBytes s k n).2 := by
  unfold State.freeBytes
  repeat' first
    | with_reducible assumption
    | extract_lets
    | intro _
    | with_reducible apply Keeps.ite
    | with_reducible apply Keeps.ite_fst
    | (fail_if_no_progress (with_reducible apply Keeps.update; rfl; rfl; first | exact Nat.le_refl _ | exact Nat.le_succ _))

theorem State.testWreck_keeps {s0 : State} {s : State} {c : CoreName}  (hkeep : Keeps s0 s) :
    Keeps s0 (State.testWreck s c) := by
  unfold State.testWreck
  repeat' first
    | with_reducible assumption
    | extract_lets
    | intro _
    | with_reducible apply Keeps.ite
    | with_reducible apply Keeps.ite_fst
    | with_reducible apply State.put_keeps
    | with_reducible apply State.setSeal_keeps
    | with_reducible apply State.flushStore_keeps
    | with_reducible apply PutAcc.put_keeps
    | with_reducible apply State.freeBytes_keeps
    | with_reducible apply Keeps.foldl
    | with_reducible apply Keeps.foldl_fst
    | (fail_if_no_progress (with_reducible apply Keeps.update; rfl; rfl; first | exact Nat.le_refl _ | exact Nat.le_succ _))

theorem State.runTest_keeps {s0 : State} {s : State} {f : FieldTest} {state : Nat}  (hkeep : Keeps s0 s) :
    Keeps s0 (State.runTest s f state) := by
  unfold State.runTest
  repeat' first
    | with_reducible assumption
    | extract_lets
    | intro _
    | with_reducible apply Keeps.ite
    | with_reducible apply State.inc_keeps
    | with_reducible apply State.ftStatus_keeps
    | with_reducible apply State.testWreck_keeps
    | (fail_if_no_progress (with_reducible apply Keeps.update; rfl; rfl; first | exact Nat.le_refl _ | exact Nat.le_succ _))

theorem execFieldTestRun_keeps {s0 : State} {s : State}  (hkeep : Keeps s0 s) :
    Keeps.Outcome s0 (execFieldTestRun s) := by
  unfold execFieldTestRun
  repeat' first
    | with_reducible assumption
    | extract_lets
    | intro _
    | with_reducible apply Keeps.next
    | with_reducible exact Keeps.fault
    | with_reducible exact Keeps.refused
    | with_reducible apply Keeps.ite_outcome
    | with_reducible apply Keeps.ite
    | with_reducible apply State.onDie_keeps
    | with_reducible apply State.runTest_keeps
    | (fail_if_no_progress (with_reducible apply Keeps.update; rfl; rfl; first | exact Nat.le_refl _ | exact Nat.le_succ _))
    | split

theorem State.returnCore_keeps {s0 : State} {s : State} {f : FieldTest} {last : Nat}  (hkeep : Keeps s0 s) :
    Keeps s0 (State.returnCore s f last) := by
  unfold State.returnCore
  repeat' first
    | with_reducible assumption
    | extract_lets
    | intro _
    | with_reducible apply Keeps.ite
    | with_reducible apply State.wf_keeps
    | with_reducible apply State.release_keeps
    | with_reducible apply State.pumpGrad_keeps
    | with_reducible apply State.pumpVec_keeps
    | with_reducible apply State.ftStatus_keeps
    | (fail_if_no_progress (with_reducible apply Keeps.update; rfl; rfl; first | exact Nat.le_refl _ | exact Nat.le_succ _))

theorem State.setRetired_keeps {s0 : State} {s : State} {c : CoreName} {v : Bool}  (hkeep : Keeps s0 s) :
    Keeps s0 (State.setRetired s c v) := by
  unfold State.setRetired
  repeat' first
    | with_reducible assumption
    | extract_lets
    | intro _
    | with_reducible apply Keeps.ite
    | with_reducible apply State.setHdrBit_keeps
    | with_reducible apply State.wf_keeps

theorem State.endTest_keeps {s0 : State} {s : State} {f : FieldTest} {last : Nat}  (hkeep : Keeps s0 s) :
    Keeps s0 (State.endTest s f last) := by
  unfold State.endTest
  repeat' first
    | with_reducible assumption
    | extract_lets
    | intro _
    | with_reducible apply Keeps.ite
    | with_reducible apply State.cause_keeps
    | with_reducible apply State.returnCore_keeps

theorem State.testDone_keeps {s0 : State} {s : State} {f : FieldTest} {pass : Bool}  (hkeep : Keeps s0 s) :
    Keeps s0 (State.testDone s f pass) := by
  unfold State.testDone
  repeat' first
    | with_reducible assumption
    | extract_lets
    | intro _
    | with_reducible apply Keeps.ite
    | with_reducible apply State.inc_keeps
    | with_reducible apply State.cause_keeps
    | with_reducible apply State.log_keeps
    | with_reducible apply State.logFirm_keeps
    | with_reducible apply State.endTest_keeps
    | with_reducible apply State.runTest_keeps
    | with_reducible apply State.setRetired_keeps

theorem execMaintCountClear_keeps {s0 : State} {view : View} {s : State}  (hkeep : Keeps s0 s) :
    Keeps.Outcome s0 (execMaintCountClear view s) := by
  unfold execMaintCountClear
  repeat' first
    | with_reducible assumption
    | extract_lets
    | intro _
    | with_reducible apply Keeps.next
    | with_reducible exact Keeps.fault
    | with_reducible exact Keeps.refused
    | with_reducible apply Keeps.ite_outcome
    | with_reducible apply Keeps.ite
    | with_reducible apply State.onWrite_keeps
    | with_reducible apply State.clearCounts_keeps

end Sys2Proof.Machine
end

