-- ==== Sys2Proof/Laws/KeepsReplay.lean ====
section
/-! SUPPORT. The operations of Machine/Replay.lean keep what every command keeps. -/

namespace Sys2Proof.Machine

theorem State.setReplay_keeps {s0 : State} {s : State} {r : Replay}  (hkeep : Keeps s0 s) :
    Keeps s0 (State.setReplay s r) := by
  unfold State.setReplay
  repeat' first
    | with_reducible assumption
    | extract_lets
    | intro _
    | with_reducible apply Keeps.ite
    | (fail_if_no_progress (with_reducible apply Keeps.update; rfl; rfl; first | exact Nat.le_refl _ | exact Nat.le_succ _))

theorem State.replayStatus_keeps {s0 : State} {s : State} {state : Nat} {outcome : Nat} {status : Nat}  (hkeep : Keeps s0 s) :
    Keeps s0 (State.replayStatus s state outcome status) := by
  unfold State.replayStatus
  repeat' first
    | with_reducible assumption
    | extract_lets
    | intro _
    | with_reducible apply Keeps.ite
    | with_reducible apply State.wfs_keeps

theorem State.putReplay_keeps {s0 : State} {s : State} {r : Replay} {step : Nat} {layer : Nat}  (hkeep : Keeps s0 s) :
    Keeps s0 (State.putReplay s r step layer) := by
  unfold State.putReplay
  repeat' first
    | with_reducible assumption
    | extract_lets
    | intro _
    | with_reducible apply Keeps.ite
    | with_reducible apply State.put_keeps
    | with_reducible apply State.accessFault_keeps
    | with_reducible apply PutAcc.put_keeps
    | (fail_if_no_progress (with_reducible apply Keeps.update; rfl; rfl; first | exact Nat.le_refl _ | exact Nat.le_succ _))
    | split

theorem State.refuseReplay_keeps {s0 : State} {s : State} {r : Replay} {st : Nat} {named : Bool}  (hkeep : Keeps s0 s) :
    Keeps s0 (State.refuseReplay s r st named) := by
  unfold State.refuseReplay
  repeat' first
    | with_reducible assumption
    | extract_lets
    | intro _
    | with_reducible apply Keeps.ite
    | with_reducible apply State.err_keeps
    | with_reducible apply State.log_keeps
    | with_reducible apply State.putReplay_keeps
    | with_reducible apply State.replayStatus_keeps
    | with_reducible apply State.setReplay_keeps

theorem State.startReplay_keeps {s0 : State} {s : State}  (hkeep : Keeps s0 s) :
    Keeps s0 (State.startReplay s) := by
  unfold State.startReplay
  repeat' first
    | with_reducible assumption
    | extract_lets
    | intro _
    | with_reducible apply Keeps.ite
    | with_reducible apply Keeps.ite_fst
    | with_reducible apply State.cacheUse_keeps
    | with_reducible apply State.inc_keeps
    | with_reducible apply State.accessFault_keeps
    | with_reducible apply State.check_keeps
    | with_reducible apply State.askGrant_keeps
    | with_reducible apply State.refuseReplay_keeps
    | with_reducible apply State.replayStatus_keeps
    | with_reducible apply State.setReplay_keeps

theorem execReplayStart_keeps {s0 : State} {view : View} {s : State}  (hkeep : Keeps s0 s) :
    Keeps.Outcome s0 (execReplayStart view s) := by
  unfold execReplayStart
  repeat' first
    | with_reducible assumption
    | extract_lets
    | intro _
    | with_reducible apply Keeps.next
    | with_reducible exact Keeps.fault
    | with_reducible exact Keeps.refused
    | with_reducible apply Keeps.ite_outcome
    | with_reducible apply Keeps.ite
    | with_reducible apply State.onWrite_keeps
    | with_reducible apply State.startReplay_keeps
    | (fail_if_no_progress (with_reducible apply Keeps.update; rfl; rfl; first | exact Nat.le_refl _ | exact Nat.le_succ _))
    | split

theorem State.rerun_keeps {s0 : State} {s : State} {t : Task} {q : Nat} {from_ : Nat} {to_ : Nat}  (hkeep : Keeps s0 s) :
    Keeps s0 (State.rerun s t q from_ to_).1 := by
  unfold State.rerun
  repeat' first
    | with_reducible assumption
    | extract_lets
    | intro _
    | with_reducible apply Keeps.ite
    | with_reducible apply Keeps.ite_fst
    | with_reducible apply State.cacheReads_keeps
    | with_reducible apply State.check_keeps
    | with_reducible apply State.freshPlane_keeps
    | with_reducible apply State.noteRan_keeps
    | with_reducible apply State.storeAll_keeps
    | with_reducible apply Moved.run_keeps
    | with_reducible apply Keeps.foldl_rows
    | with_reducible apply Keeps.ite_rows
    | with_reducible apply Keeps.foldl
    | with_reducible apply Keeps.foldl_fst

theorem State.products_keeps {s0 : State} {s : State} {rec_ : List Byte} {x : Nat} {q : Nat} {good : Bool}  (hkeep : Keeps s0 s) :
    Keeps s0 (State.products s rec_ x q good).1 := by
  unfold State.products
  repeat' first
    | with_reducible assumption
    | extract_lets
    | intro _
    | with_reducible apply Keeps.ite
    | with_reducible apply Keeps.ite_fst
    | with_reducible apply State.store_keeps
    | with_reducible apply State.freeBytes_keeps
    | with_reducible apply State.rerun_keeps
    | with_reducible apply Keeps.foldl
    | with_reducible apply Keeps.foldl_fst

theorem State.runDigests_keeps {s0 : State} {s : State} {rec_ : List Byte} {x : Nat} {k : RunHealth}  (hkeep : Keeps s0 s) :
    Keeps s0 (State.runDigests s rec_ x k).1 := by
  unfold State.runDigests
  repeat' first
    | with_reducible assumption
    | extract_lets
    | intro _
    | with_reducible apply Keeps.ite
    | with_reducible apply Keeps.ite_fst
    | with_reducible apply State.cacheReads_keeps
    | with_reducible apply State.check_keeps
    | with_reducible apply State.late_keeps
    | with_reducible apply State.freeBytes_keeps

theorem State.decideReplay_keeps {s0 : State} {s : State} {r : Replay} {outcome : Nat}  (hkeep : Keeps s0 s) :
    Keeps s0 (State.decideReplay s r outcome) := by
  unfold State.decideReplay
  repeat' first
    | with_reducible assumption
    | extract_lets
    | intro _
    | with_reducible apply Keeps.ite
    | with_reducible apply State.wf_keeps
    | with_reducible apply State.setReplay_keeps

theorem State.formRun_keeps {s0 : State} {s : State} {r : Replay} {x : Nat} {k : RunHealth}  (hkeep : Keeps s0 s) :
    Keeps s0 (State.formRun s r x k).1 := by
  unfold State.formRun
  repeat' first
    | with_reducible assumption
    | extract_lets
    | intro _
    | with_reducible apply Keeps.ite
    | with_reducible apply Keeps.ite_fst
    | with_reducible apply State.products_keeps
    | with_reducible apply State.runDigests_keeps
    | (fail_if_no_progress (with_reducible apply Keeps.update; rfl; rfl; first | exact Nat.le_refl _ | exact Nat.le_succ _))
    | split

theorem State.onReplay_keeps {s0 : State} {s : State} {state : Nat} {k : State → Replay → State} (hk : ∀ y0 y1, Keeps s0 y0 → Keeps s0 (k y0 y1)) (hkeep : Keeps s0 s) :
    Keeps s0 (State.onReplay s state k) := by
  unfold State.onReplay
  repeat' first
    | with_reducible assumption
    | extract_lets
    | intro _
    | with_reducible apply Keeps.ite
    | with_reducible apply hk
    | with_reducible apply State.whenFree_keeps
    | (fail_if_no_progress (with_reducible apply Keeps.update; rfl; rfl; first | exact Nat.le_refl _ | exact Nat.le_succ _))
    | split

theorem execReplayRunsAbDone_keeps {s0 : State} {a : RunHealth} {b : RunHealth} {s : State}  (hkeep : Keeps s0 s) :
    Keeps.Outcome s0 (execReplayRunsAbDone a b s) := by
  unfold execReplayRunsAbDone
  repeat' first
    | with_reducible assumption
    | extract_lets
    | intro _
    | with_reducible apply Keeps.next
    | with_reducible exact Keeps.fault
    | with_reducible exact Keeps.refused
    | with_reducible apply Keeps.ite_outcome
    | with_reducible apply Keeps.ite
    | with_reducible apply Keeps.ite_fst
    | with_reducible apply State.wf_keeps
    | with_reducible apply State.decideReplay_keeps
    | with_reducible apply State.formRun_keeps
    | with_reducible apply State.onReplay_keeps
    | with_reducible apply State.setReplay_keeps
    | (fail_if_no_progress (with_reducible apply Keeps.update; rfl; rfl; first | exact Nat.le_refl _ | exact Nat.le_succ _))
    | split

theorem execReplayRunCDone_keeps {s0 : State} {c : RunHealth} {s : State}  (hkeep : Keeps s0 s) :
    Keeps.Outcome s0 (execReplayRunCDone c s) := by
  unfold execReplayRunCDone
  repeat' first
    | with_reducible assumption
    | extract_lets
    | intro _
    | with_reducible apply Keeps.next
    | with_reducible exact Keeps.fault
    | with_reducible exact Keeps.refused
    | with_reducible apply Keeps.ite_outcome
    | with_reducible apply Keeps.ite
    | with_reducible apply Keeps.ite_fst
    | with_reducible apply State.decideReplay_keeps
    | with_reducible apply State.formRun_keeps
    | with_reducible apply State.onReplay_keeps
    | (fail_if_no_progress (with_reducible apply Keeps.update; rfl; rfl; first | exact Nat.le_refl _ | exact Nat.le_succ _))
    | split

theorem State.replayCommit_keeps {s0 : State} {s : State} {r : Replay}  (hkeep : Keeps s0 s) :
    Keeps s0 (State.replayCommit s r).1 := by
  unfold State.replayCommit
  repeat' first
    | with_reducible assumption
    | extract_lets
    | intro _
    | with_reducible apply Keeps.ite
    | with_reducible apply Keeps.ite_fst
    | with_reducible apply State.whenSome_keeps
    | with_reducible apply State.dropTask_keeps
    | with_reducible apply State.putRecords_keeps
    | with_reducible apply State.readBack_keeps
    | with_reducible apply State.runPost_keeps
    | with_reducible apply State.endPass1_keeps
    | with_reducible apply State.endPass2_keeps
    | with_reducible apply State.endUpd_keeps
    | with_reducible apply State.updKeys_keeps
    | with_reducible apply Keeps.foldl
    | with_reducible apply Keeps.foldl_fst
    | (fail_if_no_progress (with_reducible apply Keeps.update; rfl; rfl; first | exact Nat.le_refl _ | exact Nat.le_succ _))
    | split

theorem State.nextOwed_keeps {s0 : State} {s : State}  (hkeep : Keeps s0 s) :
    Keeps s0 (State.nextOwed s) := by
  unfold State.nextOwed
  repeat' first
    | with_reducible assumption
    | extract_lets
    | intro _
    | with_reducible apply Keeps.ite
    | with_reducible apply Keeps.ite_fst
    | with_reducible apply State.askTest_keeps
    | with_reducible apply State.setReplay_keeps
    | (fail_if_no_progress (with_reducible apply Keeps.update; rfl; rfl; first | exact Nat.le_refl _ | exact Nat.le_succ _))
    | split

theorem State.endReplay_keeps {s0 : State} {s : State} {r : Replay}  (hkeep : Keeps s0 s) :
    Keeps s0 (State.endReplay s r) := by
  unfold State.endReplay
  repeat' first
    | with_reducible assumption
    | extract_lets
    | intro _
    | with_reducible apply Keeps.ite
    | with_reducible apply State.inc_keeps
    | with_reducible apply State.cause_keeps
    | with_reducible apply State.log_keeps
    | with_reducible apply State.release_keeps
    | with_reducible apply State.nextOwed_keeps
    | with_reducible apply State.putReplay_keeps
    | with_reducible apply State.replayStatus_keeps
    | with_reducible apply State.setReplay_keeps

theorem execReplayEnd_keeps {s0 : State} {s : State}  (hkeep : Keeps s0 s) :
    Keeps.Outcome s0 (execReplayEnd s) := by
  unfold execReplayEnd
  repeat' first
    | with_reducible assumption
    | extract_lets
    | intro _
    | with_reducible apply Keeps.next
    | with_reducible exact Keeps.fault
    | with_reducible exact Keeps.refused
    | with_reducible apply Keeps.ite_outcome
    | with_reducible apply Keeps.ite
    | with_reducible apply Keeps.ite_fst
    | with_reducible apply State.whenFree_keeps
    | with_reducible apply State.endReplay_keeps
    | with_reducible apply State.replayCommit_keeps
    | (fail_if_no_progress (with_reducible apply Keeps.update; rfl; rfl; first | exact Nat.le_refl _ | exact Nat.le_succ _))
    | split

theorem execMinorityFieldTestRetry_keeps {s0 : State} {s : State}  (hkeep : Keeps s0 s) :
    Keeps.Outcome s0 (execMinorityFieldTestRetry s) := by
  unfold execMinorityFieldTestRetry
  repeat' first
    | with_reducible assumption
    | extract_lets
    | intro _
    | with_reducible apply Keeps.next
    | with_reducible exact Keeps.fault
    | with_reducible exact Keeps.refused
    | with_reducible apply Keeps.ite_outcome
    | with_reducible apply Keeps.ite
    | with_reducible apply State.nextOwed_keeps
    | (fail_if_no_progress (with_reducible apply Keeps.update; rfl; rfl; first | exact Nat.le_refl _ | exact Nat.le_succ _))
    | split

theorem State.afterTest_keeps {s0 : State} {s : State} {f : FieldTest}  (hkeep : Keeps s0 s) :
    Keeps s0 (State.afterTest s f) := by
  unfold State.afterTest
  repeat' first
    | with_reducible assumption
    | extract_lets
    | intro _
    | with_reducible apply Keeps.ite
    | with_reducible apply State.nextOwed_keeps

theorem execFieldTestDone_keeps {s0 : State} {pass : Bool} {s : State}  (hkeep : Keeps s0 s) :
    Keeps.Outcome s0 (execFieldTestDone pass s) := by
  unfold execFieldTestDone
  repeat' first
    | with_reducible assumption
    | extract_lets
    | intro _
    | with_reducible apply Keeps.next
    | with_reducible exact Keeps.fault
    | with_reducible exact Keeps.refused
    | with_reducible apply Keeps.ite_outcome
    | with_reducible apply Keeps.ite
    | with_reducible apply State.onDie_keeps
    | with_reducible apply State.testDone_keeps
    | with_reducible apply State.afterTest_keeps
    | (fail_if_no_progress (with_reducible apply Keeps.update; rfl; rfl; first | exact Nat.le_refl _ | exact Nat.le_succ _))
    | split

theorem execFieldTestSkip_keeps {s0 : State} {s : State}  (hkeep : Keeps s0 s) :
    Keeps.Outcome s0 (execFieldTestSkip s) := by
  unfold execFieldTestSkip
  repeat' first
    | with_reducible assumption
    | extract_lets
    | intro _
    | with_reducible apply Keeps.next
    | with_reducible exact Keeps.fault
    | with_reducible exact Keeps.refused
    | with_reducible apply Keeps.ite_outcome
    | with_reducible apply Keeps.ite
    | with_reducible apply State.returnCore_keeps
    | with_reducible apply State.skipTest_keeps
    | with_reducible apply State.afterTest_keeps
    | (fail_if_no_progress (with_reducible apply Keeps.update; rfl; rfl; first | exact Nat.le_refl _ | exact Nat.le_succ _))
    | split

end Sys2Proof.Machine
end

