-- ==== Sys2Proof/Laws/KeepsDigest.lean ====
section
/-! SUPPORT. The operations of Machine/Digest.lean keep what every command keeps. -/

namespace Sys2Proof.Machine

theorem State.endDigest_keeps {s0 : State} {s : State} {t : Task} {st : Nat} {event : Nat} {post : List Post}  (hkeep : Keeps s0 s) :
    Keeps s0 (State.endDigest s t st event post) := by
  unfold State.endDigest
  repeat' first
    | with_reducible assumption
    | extract_lets
    | intro _
    | with_reducible apply Keeps.ite
    | with_reducible apply State.endTask_keeps
    | with_reducible apply State.release_keeps
    | (fail_if_no_progress (with_reducible apply Keeps.update; rfl; rfl; first | exact Nat.le_refl _ | exact Nat.le_succ _))

theorem State.digestSeal_keeps {s0 : State} {s : State} {t : Task} {k : Nat}  (hkeep : Keeps s0 s) :
    Keeps s0 (State.digestSeal s t k) := by
  unfold State.digestSeal
  repeat' first
    | with_reducible assumption
    | extract_lets
    | intro _
    | with_reducible apply Keeps.ite
    | with_reducible apply State.err_keeps
    | with_reducible apply State.log_keeps
    | with_reducible apply State.endDigest_keeps

theorem State.exchangeDigest_keeps {s0 : State} {s : State} {t : Task} {r : Nat}  (hkeep : Keeps s0 s) :
    Keeps s0 (State.exchangeDigest s t r) := by
  unfold State.exchangeDigest
  repeat' first
    | with_reducible assumption
    | extract_lets
    | intro _
    | with_reducible apply Keeps.ite
    | with_reducible apply Keeps.ite_fst
    | with_reducible apply State.merge_keeps
    | with_reducible apply State.meet_keeps
    | with_reducible apply State.digestSeal_keeps
    | (fail_if_no_progress (with_reducible apply Keeps.update; rfl; rfl; first | exact Nat.le_refl _ | exact Nat.le_succ _))
    | split

theorem State.takeDigest_keeps {s0 : State} {s : State} {t : Task}  (hkeep : Keeps s0 s) :
    Keeps s0 (State.takeDigest s t) := by
  unfold State.takeDigest
  repeat' first
    | with_reducible assumption
    | extract_lets
    | intro _
    | with_reducible apply Keeps.ite
    | with_reducible apply Keeps.ite_fst
    | with_reducible apply State.cacheReads_keeps
    | with_reducible apply State.accessFault_keeps
    | with_reducible apply State.check_keeps
    | with_reducible apply State.log_keeps
    | with_reducible apply State.handOver_keeps
    | with_reducible apply State.askGrant_keeps
    | with_reducible apply State.digestSeal_keeps
    | with_reducible apply State.endDigest_keeps
    | with_reducible apply State.exchangeDigest_keeps
    | (fail_if_no_progress (with_reducible apply Keeps.update; rfl; rfl; first | exact Nat.le_refl _ | exact Nat.le_succ _))
    | split

theorem execDigestExchange_keeps {s0 : State} {n : Nat} {s : State}  (hkeep : Keeps s0 s) :
    Keeps.Outcome s0 (execDigestExchange n s) := by
  unfold execDigestExchange
  repeat' first
    | with_reducible assumption
    | extract_lets
    | intro _
    | with_reducible apply Keeps.next
    | with_reducible exact Keeps.fault
    | with_reducible exact Keeps.refused
    | with_reducible apply Keeps.ite_outcome
    | with_reducible apply Keeps.ite
    | with_reducible apply State.whenFree_keeps
    | with_reducible apply State.takeDigest_keeps
    | (fail_if_no_progress (with_reducible apply Keeps.update; rfl; rfl; first | exact Nat.le_refl _ | exact Nat.le_succ _))
    | split

theorem State.reachVerdict_keeps {s0 : State} {s : State} {t : Task} {d : DigestRun}  (hkeep : Keeps s0 s) :
    Keeps s0 (State.reachVerdict s t d) := by
  unfold State.reachVerdict
  repeat' first
    | with_reducible assumption
    | extract_lets
    | intro _
    | with_reducible apply Keeps.ite
    | with_reducible apply State.store_keeps
    | with_reducible apply State.log_keeps
    | with_reducible apply State.readBack_keeps
    | with_reducible apply State.endDigest_keeps

theorem execDigestVerdict_keeps {s0 : State} {n : Nat} {s : State}  (hkeep : Keeps s0 s) :
    Keeps.Outcome s0 (execDigestVerdict n s) := by
  unfold execDigestVerdict
  repeat' first
    | with_reducible assumption
    | extract_lets
    | intro _
    | with_reducible apply Keeps.next
    | with_reducible exact Keeps.fault
    | with_reducible exact Keeps.refused
    | with_reducible apply Keeps.ite_outcome
    | with_reducible apply Keeps.ite
    | with_reducible apply State.whenFree_keeps
    | with_reducible apply State.readBack_keeps
    | with_reducible apply State.endDigest_keeps
    | with_reducible apply State.reachVerdict_keeps
    | (fail_if_no_progress (with_reducible apply Keeps.update; rfl; rfl; first | exact Nat.le_refl _ | exact Nat.le_succ _))
    | split

end Sys2Proof.Machine
end

