-- ==== Sys2Proof/Laws/KeepsSnapshot.lean ====
section
/-! SUPPORT. The operations of Machine/Snapshot.lean keep what every command keeps. -/

namespace Sys2Proof.Machine

theorem State.setSnap_keeps {s0 : State} {s : State} {x : Snap}  (hkeep : Keeps s0 s) :
    Keeps s0 (State.setSnap s x) := by
  unfold State.setSnap
  repeat' first
    | with_reducible assumption
    | extract_lets
    | intro _
    | with_reducible apply Keeps.ite
    | (fail_if_no_progress (with_reducible apply Keeps.update; rfl; rfl; first | exact Nat.le_refl _ | exact Nat.le_succ _))

theorem State.clearMark_keeps {s0 : State} {s : State} {a : Nat}  (hkeep : Keeps s0 s) :
    Keeps s0 (State.clearMark s a) := by
  unfold State.clearMark
  repeat' first
    | with_reducible assumption
    | extract_lets
    | intro _
    | with_reducible apply Keeps.ite
    | with_reducible apply Keeps.ite_fst
    | with_reducible apply State.merge_keeps

theorem State.clearMarks_keeps {s0 : State} {s : State} {l : List Nat}  (hkeep : Keeps s0 s) :
    Keeps s0 (State.clearMarks s l) := by
  unfold State.clearMarks
  repeat' first
    | with_reducible assumption
    | extract_lets
    | intro _
    | with_reducible apply Keeps.ite
    | with_reducible apply State.clearMark_keeps
    | with_reducible apply Keeps.foldl

theorem State.endSnap_keeps {s0 : State} {s : State} {t : Task} {x : Snap} {st : Nat} {event : Nat} {fail : Nat}  (hkeep : Keeps s0 s) :
    Keeps s0 (State.endSnap s t x st event fail) := by
  unfold State.endSnap
  repeat' first
    | with_reducible assumption
    | extract_lets
    | intro _
    | with_reducible apply Keeps.ite
    | with_reducible apply State.endTask_keeps
    | with_reducible apply State.readBack_keeps
    | with_reducible apply State.release_keeps
    | (fail_if_no_progress (with_reducible apply Keeps.update; rfl; rfl; first | exact Nat.le_refl _ | exact Nat.le_succ _))

theorem State.failSnap_keeps {s0 : State} {s : State} {t : Task} {x : Snap} {st : Nat} {fail : Nat}  (hkeep : Keeps s0 s) :
    Keeps s0 (State.failSnap s t x st fail) := by
  unfold State.failSnap
  repeat' first
    | with_reducible assumption
    | extract_lets
    | intro _
    | with_reducible apply Keeps.ite
    | with_reducible apply State.log_keeps
    | with_reducible apply State.clearMarks_keeps
    | with_reducible apply State.endSnap_keeps

theorem State.refuseSnap_keeps {s0 : State} {s : State} {t : Task} {st : Nat} {code : Nat} {event : Nat} {fail : Nat}  (hkeep : Keeps s0 s) :
    Keeps s0 (State.refuseSnap s t st code event fail) := by
  unfold State.refuseSnap
  repeat' first
    | with_reducible assumption
    | extract_lets
    | intro _
    | with_reducible apply Keeps.ite
    | with_reducible apply State.log_keeps
    | with_reducible apply State.handOver_keeps

theorem State.startSnap_keeps {s0 : State} {s : State} {t : Task} {kind : Nat} {m : List Byte} {flags : List Bool}  (hkeep : Keeps s0 s) :
    Keeps s0 (State.startSnap s t kind m flags) := by
  unfold State.startSnap
  repeat' first
    | with_reducible assumption
    | extract_lets
    | intro _
    | with_reducible apply Keeps.ite
    | with_reducible apply Keeps.ite_fst
    | with_reducible apply State.handOver_keeps
    | with_reducible apply State.askGrant_keeps
    | with_reducible apply State.refuseSnap_keeps
    | (fail_if_no_progress (with_reducible apply Keeps.update; rfl; rfl; first | exact Nat.le_refl _ | exact Nat.le_succ _))

theorem State.takeSnap_keeps {s0 : State} {s : State} {t : Task}  (hkeep : Keeps s0 s) :
    Keeps s0 (State.takeSnap s t) := by
  unfold State.takeSnap
  repeat' first
    | with_reducible assumption
    | extract_lets
    | intro _
    | with_reducible apply Keeps.ite
    | with_reducible apply Keeps.ite_fst
    | with_reducible apply State.accessFault_keeps
    | with_reducible apply State.log_keeps
    | with_reducible apply State.readChecked_keeps
    | with_reducible apply State.readTo_keeps
    | with_reducible apply State.bind_keeps
    | with_reducible apply State.refuseSnap_keeps
    | with_reducible apply State.startSnap_keeps
    | (fail_if_no_progress (with_reducible apply Keeps.update; rfl; rfl; first | exact Nat.le_refl _ | exact Nat.le_succ _))
    | split

theorem execSnapshot_keeps {s0 : State} {n : Nat} {s : State}  (hkeep : Keeps s0 s) :
    Keeps.Outcome s0 (execSnapshot n s) := by
  unfold execSnapshot
  repeat' first
    | with_reducible assumption
    | extract_lets
    | intro _
    | with_reducible apply Keeps.next
    | with_reducible exact Keeps.fault
    | with_reducible exact Keeps.refused
    | with_reducible apply Keeps.ite_outcome
    | with_reducible apply Keeps.ite
    | with_reducible apply State.whenFree_keeps
    | with_reducible apply State.takeSnap_keeps
    | (fail_if_no_progress (with_reducible apply Keeps.update; rfl; rfl; first | exact Nat.le_refl _ | exact Nat.le_succ _))
    | split

theorem State.toTarget_keeps {s0 : State} {s : State} {x : Snap} {k : Nat} {j : Nat} {what : Nat} {b : List Byte}  (hkeep : Keeps s0 s) :
    Keeps s0 (State.toTarget s x k j what b) := by
  unfold State.toTarget
  repeat' first
    | with_reducible assumption
    | extract_lets
    | intro _
    | with_reducible apply Keeps.ite
    | with_reducible apply Keeps.ite_fst
    | with_reducible apply State.putSealed_keeps
    | with_reducible apply State.sendMsg_keeps
    | with_reducible apply State.takeTag_keeps
    | with_reducible apply State.setSnap_keeps

theorem State.moveBody_keeps {s0 : State} {fuel : Nat} {s : State} {n : Nat}  (hkeep : Keeps s0 s) :
    Keeps s0 (State.moveBody fuel s n) := by
  induction fuel generalizing s n with
  | zero =>
   unfold State.moveBody
   first | exact hkeep | (with_reducible apply State.setArrayRun_keeps; exact hkeep)
  | succ k ih =>
   unfold State.moveBody
   repeat' first
    | with_reducible assumption
    | with_reducible apply ih
    | extract_lets
    | intro _
    | with_reducible apply Keeps.ite
    | with_reducible apply State.toTarget_keeps
    | (fail_if_no_progress (with_reducible apply Keeps.update; rfl; rfl; first | exact Nat.le_refl _ | exact Nat.le_succ _))
    | split

theorem State.move_keeps {s0 : State} {s : State} {n : Nat}  (hkeep : Keeps s0 s) :
    Keeps s0 (State.move s n) := by
  unfold State.move
  repeat' first
    | with_reducible assumption
    | extract_lets
    | intro _
    | with_reducible apply Keeps.ite
    | with_reducible apply State.moveBody_keeps
    | (fail_if_no_progress (with_reducible apply Keeps.update; rfl; rfl; first | exact Nat.le_refl _ | exact Nat.le_succ _))
    | split

theorem State.markSnap_keeps {s0 : State} {s : State} {t : Task} {x : Snap}  (hkeep : Keeps s0 s) :
    Keeps s0 (State.markSnap s t x) := by
  unfold State.markSnap
  repeat' first
    | with_reducible assumption
    | extract_lets
    | intro _
    | with_reducible apply Keeps.ite
    | with_reducible apply Keeps.ite_fst
    | with_reducible apply State.accessFault_keeps
    | with_reducible apply State.merge_keeps
    | with_reducible apply State.saveEst_keeps
    | with_reducible apply State.readTo_keeps
    | with_reducible apply State.failSnap_keeps
    | with_reducible apply State.move_keeps
    | with_reducible apply State.setSnap_keeps
    | with_reducible apply Keeps.foldl
    | with_reducible apply Keeps.foldl_fst
    | (fail_if_no_progress (with_reducible apply Keeps.update; rfl; rfl; first | exact Nat.le_refl _ | exact Nat.le_succ _))
    | split
    | dsimp +zetaDelta only

theorem State.onSnap_keeps {s0 : State} {s : State} {n : Nat} {ok : Snap → Bool} {k : State → Task → Snap → State} (hk : ∀ y0 y1 y2, Keeps s0 y0 → Keeps s0 (k y0 y1 y2)) (hkeep : Keeps s0 s) :
    Keeps.Outcome s0 (State.onSnap s n ok k) := by
  unfold State.onSnap
  repeat' first
    | with_reducible assumption
    | extract_lets
    | intro _
    | with_reducible apply Keeps.next
    | with_reducible exact Keeps.fault
    | with_reducible exact Keeps.refused
    | with_reducible apply Keeps.ite_outcome
    | with_reducible apply Keeps.ite
    | with_reducible apply hk
    | with_reducible apply State.whenFree_keeps
    | (fail_if_no_progress (with_reducible apply Keeps.update; rfl; rfl; first | exact Nat.le_refl _ | exact Nat.le_succ _))
    | split

theorem execSnapshotMark_keeps {s0 : State} {n : Nat} {s : State}  (hkeep : Keeps s0 s) :
    Keeps.Outcome s0 (execSnapshotMark n s) := by
  unfold execSnapshotMark
  repeat' first
    | with_reducible assumption
    | extract_lets
    | intro _
    | with_reducible apply Keeps.next
    | with_reducible exact Keeps.fault
    | with_reducible exact Keeps.refused
    | with_reducible apply Keeps.ite_outcome
    | with_reducible apply Keeps.ite
    | with_reducible apply State.markSnap_keeps
    | with_reducible apply State.onSnap_keeps

theorem State.streamLayer_keeps {s0 : State} {s : State} {t : Task} {x : Snap}  (hkeep : Keeps s0 s) :
    Keeps s0 (State.streamLayer s t x) := by
  unfold State.streamLayer
  repeat' first
    | with_reducible assumption
    | extract_lets
    | intro _
    | with_reducible apply Keeps.ite
    | with_reducible apply Keeps.ite_fst
    | with_reducible apply State.accessFault_keeps
    | with_reducible apply State.readTo_keeps
    | with_reducible apply State.clearMark_keeps
    | with_reducible apply State.failSnap_keeps
    | with_reducible apply State.move_keeps
    | with_reducible apply State.setSnap_keeps
    | (fail_if_no_progress (with_reducible apply Keeps.update; rfl; rfl; first | exact Nat.le_refl _ | exact Nat.le_succ _))
    | split

theorem execSnapshotLayerStreamed_keeps {s0 : State} {n : Nat} {s : State}  (hkeep : Keeps s0 s) :
    Keeps.Outcome s0 (execSnapshotLayerStreamed n s) := by
  unfold execSnapshotLayerStreamed
  repeat' first
    | with_reducible assumption
    | extract_lets
    | intro _
    | with_reducible apply Keeps.next
    | with_reducible exact Keeps.fault
    | with_reducible exact Keeps.refused
    | with_reducible apply Keeps.ite_outcome
    | with_reducible apply Keeps.ite
    | with_reducible apply State.onSnap_keeps
    | with_reducible apply State.streamLayer_keeps

theorem State.closeSnap_keeps {s0 : State} {s : State} {n : Nat}  (hkeep : Keeps s0 s) :
    Keeps s0 (State.closeSnap s n) := by
  unfold State.closeSnap
  repeat' first
    | with_reducible assumption
    | extract_lets
    | intro _
    | with_reducible apply Keeps.ite
    | with_reducible apply State.log_keeps
    | with_reducible apply State.endSnap_keeps
    | (fail_if_no_progress (with_reducible apply Keeps.update; rfl; rfl; first | exact Nat.le_refl _ | exact Nat.le_succ _))
    | split

theorem State.headTarget_keeps {s0 : State} {s : State} {n : Nat} {k : Nat}  (hkeep : Keeps s0 s) :
    Keeps s0 (State.headTarget s n k) := by
  unfold State.headTarget
  repeat' first
    | with_reducible assumption
    | extract_lets
    | intro _
    | with_reducible apply Keeps.ite
    | with_reducible apply State.toTarget_keeps
    | (fail_if_no_progress (with_reducible apply Keeps.update; rfl; rfl; first | exact Nat.le_refl _ | exact Nat.le_succ _))
    | split

theorem execSnapshotHeaderWrite_keeps {s0 : State} {n : Nat} {s : State}  (hkeep : Keeps s0 s) :
    Keeps.Outcome s0 (execSnapshotHeaderWrite n s) := by
  unfold execSnapshotHeaderWrite
  repeat' first
    | with_reducible assumption
    | extract_lets
    | intro _
    | with_reducible apply Keeps.next
    | with_reducible exact Keeps.fault
    | with_reducible exact Keeps.refused
    | with_reducible apply Keeps.ite_outcome
    | with_reducible apply Keeps.ite
    | with_reducible apply State.closeSnap_keeps
    | with_reducible apply State.headTarget_keeps
    | with_reducible apply State.onSnap_keeps
    | with_reducible apply Keeps.foldl

theorem State.ackSnap_keeps {s0 : State} {s : State} {m : List Byte}  (hkeep : Keeps s0 s) :
    Keeps s0 (State.ackSnap s m) := by
  unfold State.ackSnap
  repeat' first
    | with_reducible assumption
    | extract_lets
    | intro _
    | with_reducible apply Keeps.ite
    | with_reducible apply Keeps.ite_fst
    | with_reducible apply State.closeSnap_keeps
    | with_reducible apply State.failSnap_keeps
    | with_reducible apply State.move_keeps
    | with_reducible apply State.setSnap_keeps
    | (fail_if_no_progress (with_reducible apply Keeps.update; rfl; rfl; first | exact Nat.le_refl _ | exact Nat.le_succ _))
    | split

theorem execStoreAck_keeps {s0 : State} {n : PortNo} {s : State}  (hkeep : Keeps s0 s) :
    Keeps.Outcome s0 (execStoreAck n s) := by
  unfold execStoreAck
  repeat' first
    | with_reducible assumption
    | extract_lets
    | intro _
    | with_reducible apply Keeps.next
    | with_reducible exact Keeps.fault
    | with_reducible exact Keeps.refused
    | with_reducible apply Keeps.ite_outcome
    | with_reducible apply Keeps.ite
    | with_reducible apply State.whenFree_keeps
    | with_reducible apply State.receive_keeps
    | with_reducible apply State.ackTxn_keeps
    | with_reducible apply State.ackSnap_keeps
    | split

theorem execStoreStatResp_keeps {s0 : State} {n : PortNo} {s : State}  (hkeep : Keeps s0 s) :
    Keeps.Outcome s0 (execStoreStatResp n s) := by
  unfold execStoreStatResp
  repeat' first
    | with_reducible assumption
    | extract_lets
    | intro _
    | with_reducible apply Keeps.next
    | with_reducible exact Keeps.fault
    | with_reducible exact Keeps.refused
    | with_reducible apply Keeps.ite_outcome
    | with_reducible apply Keeps.ite
    | with_reducible apply State.receive_keeps

theorem State.exportAll_keeps {s0 : State} {s : State} {t : Task} {x : Snap}  (hkeep : Keeps s0 s) :
    Keeps s0 (State.exportAll s t x) := by
  unfold State.exportAll
  repeat' first
    | with_reducible assumption
    | extract_lets
    | intro _
    | with_reducible apply Keeps.ite
    | with_reducible apply Keeps.ite_fst
    | with_reducible apply State.draw_keeps
    | with_reducible apply State.inc_keeps
    | with_reducible apply State.accessFault_keeps
    | with_reducible apply State.log_keeps
    | with_reducible apply State.readTo_keeps
    | with_reducible apply State.bind_keeps
    | with_reducible apply State.failSnap_keeps
    | with_reducible apply State.move_keeps
    | with_reducible apply State.setSnap_keeps
    | with_reducible apply Keeps.foldl
    | with_reducible apply Keeps.foldl_fst
    | (fail_if_no_progress (with_reducible apply Keeps.update; rfl; rfl; first | exact Nat.le_refl _ | exact Nat.le_succ _))
    | split
    | dsimp +zetaDelta only

theorem execEvaluationSnapshot_keeps {s0 : State} {n : Nat} {s : State}  (hkeep : Keeps s0 s) :
    Keeps.Outcome s0 (execEvaluationSnapshot n s) := by
  unfold execEvaluationSnapshot
  repeat' first
    | with_reducible assumption
    | extract_lets
    | intro _
    | with_reducible apply Keeps.next
    | with_reducible exact Keeps.fault
    | with_reducible exact Keeps.refused
    | with_reducible apply Keeps.ite_outcome
    | with_reducible apply Keeps.ite
    | with_reducible apply State.exportAll_keeps
    | with_reducible apply State.onSnap_keeps

theorem State.haltSnap_keeps {s0 : State} {s : State} {x : Snap}  (hkeep : Keeps s0 s) :
    Keeps s0 (State.haltSnap s x) := by
  unfold State.haltSnap
  repeat' first
    | with_reducible assumption
    | extract_lets
    | intro _
    | with_reducible apply Keeps.ite
    | with_reducible apply State.log_keeps
    | with_reducible apply State.release_keeps
    | with_reducible apply State.clearMarks_keeps
    | (fail_if_no_progress (with_reducible apply Keeps.update; rfl; rfl; first | exact Nat.le_refl _ | exact Nat.le_succ _))

theorem State.haltSnaps_keeps {s0 : State} {s : State}  (hkeep : Keeps s0 s) :
    Keeps s0 (State.haltSnaps s) := by
  unfold State.haltSnaps
  repeat' first
    | with_reducible assumption
    | extract_lets
    | intro _
    | with_reducible apply Keeps.ite
    | with_reducible apply State.haltSnap_keeps
    | with_reducible apply Keeps.foldl

end Sys2Proof.Machine
end

