-- ==== Sys2Proof/Laws/KeepsRestore.lean ====
section
/-! SUPPORT. The operations of Machine/Restore.lean keep what every command keeps. -/

namespace Sys2Proof.Machine

theorem State.dropSnap_keeps {s0 : State} {s : State} {n : Nat}  (hkeep : Keeps s0 s) :
    Keeps s0 (State.dropSnap s n) := by
  unfold State.dropSnap
  repeat' first
    | with_reducible assumption
    | extract_lets
    | intro _
    | with_reducible apply Keeps.ite
    | (fail_if_no_progress (with_reducible apply Keeps.update; rfl; rfl; first | exact Nat.le_refl _ | exact Nat.le_succ _))

theorem State.refuseRestore_keeps {s0 : State} {s : State} {t : Task} {x : Snap} {st : Nat} {code : Nat} {event : Nat}  (hkeep : Keeps s0 s) :
    Keeps s0 (State.refuseRestore s t x st code event) := by
  unfold State.refuseRestore
  repeat' first
    | with_reducible assumption
    | extract_lets
    | intro _
    | with_reducible apply Keeps.ite
    | with_reducible apply State.log_keeps
    | with_reducible apply State.endTask_keeps
    | with_reducible apply State.handOver_keeps
    | with_reducible apply State.dropSnap_keeps

theorem State.endRestore_keeps {s0 : State} {s : State} {t : Task} {x : Snap} {st : Nat} {event : Nat} {fail : Nat}  (hkeep : Keeps s0 s) :
    Keeps s0 (State.endRestore s t x st event fail) := by
  unfold State.endRestore
  repeat' first
    | with_reducible assumption
    | extract_lets
    | intro _
    | with_reducible apply Keeps.ite
    | with_reducible apply State.endTask_keeps
    | with_reducible apply State.readBack_keeps
    | with_reducible apply State.release_keeps
    | with_reducible apply State.dropSnap_keeps

theorem State.failRestore_keeps {s0 : State} {s : State} {t : Task} {x : Snap} {st : Nat} {fail : Nat}  (hkeep : Keeps s0 s) :
    Keeps s0 (State.failRestore s t x st fail) := by
  unfold State.failRestore
  repeat' first
    | with_reducible assumption
    | extract_lets
    | intro _
    | with_reducible apply Keeps.ite
    | with_reducible apply State.log_keeps
    | with_reducible apply State.endRestore_keeps
    | with_reducible apply State.refuseRestore_keeps

theorem State.grantRestore_keeps {s0 : State} {s : State} {t : Task} {x : Snap}  (hkeep : Keeps s0 s) :
    Keeps s0 (State.grantRestore s t x) := by
  unfold State.grantRestore
  repeat' first
    | with_reducible assumption
    | extract_lets
    | intro _
    | with_reducible apply Keeps.ite
    | with_reducible apply Keeps.ite_fst
    | with_reducible apply State.putSealed_keeps
    | with_reducible apply State.accessFault_keeps
    | with_reducible apply State.askGrant_keeps
    | with_reducible apply State.setSnap_keeps
    | with_reducible apply State.failRestore_keeps
    | with_reducible apply State.refuseRestore_keeps
    | with_reducible apply Keeps.foldl
    | with_reducible apply Keeps.foldl_fst
    | (fail_if_no_progress (with_reducible apply Keeps.update; rfl; rfl; first | exact Nat.le_refl _ | exact Nat.le_succ _))
    | split
    | dsimp +zetaDelta only

theorem State.takeDirectory_keeps {s0 : State} {s : State} {t : Task} {x : Snap}  (hkeep : Keeps s0 s) :
    Keeps s0 (State.takeDirectory s t x) := by
  unfold State.takeDirectory
  repeat' first
    | with_reducible assumption
    | extract_lets
    | intro _
    | with_reducible apply Keeps.ite
    | with_reducible apply State.grantRestore_keeps
    | with_reducible apply State.refuseRestore_keeps

theorem State.commitRestore_keeps {s0 : State} {s : State} {t : Task} {x : Snap}  (hkeep : Keeps s0 s) :
    Keeps s0 (State.commitRestore s t x) := by
  unfold State.commitRestore
  repeat' first
    | with_reducible assumption
    | extract_lets
    | intro _
    | with_reducible apply Keeps.ite
    | with_reducible apply Keeps.ite_fst
    | with_reducible apply State.putSealed_keeps
    | with_reducible apply State.accessFault_keeps
    | with_reducible apply State.log_keeps
    | with_reducible apply State.loadEst_keeps
    | with_reducible apply State.endRestore_keeps
    | with_reducible apply State.failRestore_keeps
    | with_reducible apply Keeps.foldl

theorem State.closeRestore_keeps {s0 : State} {s : State} {t : Task} {x : Snap}  (hkeep : Keeps s0 s) :
    Keeps s0 (State.closeRestore s t x) := by
  unfold State.closeRestore
  repeat' first
    | with_reducible assumption
    | extract_lets
    | intro _
    | with_reducible apply Keeps.ite
    | with_reducible apply State.log_keeps
    | with_reducible apply State.commitRestore_keeps
    | with_reducible apply State.endRestore_keeps

theorem State.takeBody_keeps {s0 : State} {s : State} {t : Task} {x : Snap} {b : List Byte}  (hkeep : Keeps s0 s) :
    Keeps s0 (State.takeBody s t x b) := by
  unfold State.takeBody
  repeat' first
    | with_reducible assumption
    | extract_lets
    | intro _
    | with_reducible apply Keeps.ite
    | with_reducible apply Keeps.ite_fst
    | with_reducible apply State.putSealed_keeps
    | with_reducible apply State.whenSome_keeps
    | with_reducible apply State.accessFault_keeps
    | with_reducible apply State.bind_keeps
    | with_reducible apply State.setSnap_keeps
    | with_reducible apply State.closeRestore_keeps
    | with_reducible apply State.failRestore_keeps
    | with_reducible apply State.takeDirectory_keeps
    | (fail_if_no_progress (with_reducible apply Keeps.update; rfl; rfl; first | exact Nat.le_refl _ | exact Nat.le_succ _))
    | split

theorem State.takeHeader_keeps {s0 : State} {s : State} {t : Task} {x : Snap} {h : List Byte}  (hkeep : Keeps s0 s) :
    Keeps s0 (State.takeHeader s t x h) := by
  unfold State.takeHeader
  repeat' first
    | with_reducible assumption
    | extract_lets
    | intro _
    | with_reducible apply Keeps.ite
    | with_reducible apply State.setSnap_keeps
    | with_reducible apply State.refuseRestore_keeps

theorem State.takeEarly_keeps {s0 : State} {fuel : Nat} {s : State} {n : Nat}  (hkeep : Keeps s0 s) :
    Keeps s0 (State.takeEarly fuel s n) := by
  induction fuel generalizing s n with
  | zero =>
   unfold State.takeEarly
   first | exact hkeep | (with_reducible apply State.setArrayRun_keeps; exact hkeep)
  | succ k ih =>
   unfold State.takeEarly
   repeat' first
    | with_reducible assumption
    | with_reducible apply ih
    | extract_lets
    | intro _
    | with_reducible apply Keeps.ite
    | with_reducible apply Keeps.ite_fst
    | with_reducible apply State.setSnap_keeps
    | with_reducible apply State.takeBody_keeps
    | (fail_if_no_progress (with_reducible apply Keeps.update; rfl; rfl; first | exact Nat.le_refl _ | exact Nat.le_succ _))
    | split

theorem State.fromDevice_keeps {s0 : State} {s : State} {x : Snap} {k : Nat} {j : Nat}  (hkeep : Keeps s0 s) :
    Keeps s0 (State.fromDevice s x k j).1 := by
  unfold State.fromDevice
  repeat' first
    | with_reducible assumption
    | extract_lets
    | intro _
    | with_reducible apply Keeps.ite
    | with_reducible apply Keeps.ite_fst
    | with_reducible apply State.accessFault_keeps
    | with_reducible apply State.readTo_keeps
    | (fail_if_no_progress (with_reducible apply Keeps.update; rfl; rfl; first | exact Nat.le_refl _ | exact Nat.le_succ _))
    | split

theorem State.pullBlock_keeps {s0 : State} {s : State} {t : Task} {x : Snap}  (hkeep : Keeps s0 s) :
    Keeps s0 (State.pullBlock s t x) := by
  unfold State.pullBlock
  repeat' first
    | with_reducible assumption
    | extract_lets
    | intro _
    | with_reducible apply Keeps.ite
    | with_reducible apply Keeps.ite_fst
    | with_reducible apply State.failRestore_keeps
    | with_reducible apply State.fromDevice_keeps
    | with_reducible apply State.takeBody_keeps
    | (fail_if_no_progress (with_reducible apply Keeps.update; rfl; rfl; first | exact Nat.le_refl _ | exact Nat.le_succ _))
    | split

theorem State.pullBody_keeps {s0 : State} {fuel : Nat} {s : State} {n : Nat}  (hkeep : Keeps s0 s) :
    Keeps s0 (State.pullBody fuel s n) := by
  induction fuel generalizing s n with
  | zero =>
   unfold State.pullBody
   first | exact hkeep | (with_reducible apply State.setArrayRun_keeps; exact hkeep)
  | succ k ih =>
   unfold State.pullBody
   repeat' first
    | with_reducible assumption
    | with_reducible apply ih
    | extract_lets
    | intro _
    | with_reducible apply Keeps.ite
    | with_reducible apply State.whenSome_keeps
    | with_reducible apply State.pullBlock_keeps

theorem State.pullDevice_keeps {s0 : State} {s : State} {t : Task} {x : Snap}  (hkeep : Keeps s0 s) :
    Keeps s0 (State.pullDevice s t x) := by
  unfold State.pullDevice
  repeat' first
    | with_reducible assumption
    | extract_lets
    | intro _
    | with_reducible apply Keeps.ite
    | with_reducible apply Keeps.ite_fst
    | with_reducible apply State.store_keeps
    | with_reducible apply State.failRestore_keeps
    | with_reducible apply State.fromDevice_keeps
    | with_reducible apply State.pullBody_keeps
    | with_reducible apply State.takeHeader_keeps
    | (fail_if_no_progress (with_reducible apply Keeps.update; rfl; rfl; first | exact Nat.le_refl _ | exact Nat.le_succ _))
    | split

theorem State.askStore_keeps {s0 : State} {s : State} {x : Snap} {k : Nat} {j : Nat} {what : Nat}  (hkeep : Keeps s0 s) :
    Keeps s0 (State.askStore s x k j what) := by
  unfold State.askStore
  repeat' first
    | with_reducible assumption
    | extract_lets
    | intro _
    | with_reducible apply Keeps.ite
    | with_reducible apply Keeps.ite_fst
    | with_reducible apply State.sendMsg_keeps
    | with_reducible apply State.takeTag_keeps
    | with_reducible apply State.setSnap_keeps

theorem State.askBody_keeps {s0 : State} {fuel : Nat} {s : State} {n : Nat}  (hkeep : Keeps s0 s) :
    Keeps s0 (State.askBody fuel s n) := by
  induction fuel generalizing s n with
  | zero =>
   unfold State.askBody
   first | exact hkeep | (with_reducible apply State.setArrayRun_keeps; exact hkeep)
  | succ k ih =>
   unfold State.askBody
   repeat' first
    | with_reducible assumption
    | with_reducible apply ih
    | extract_lets
    | intro _
    | with_reducible apply Keeps.ite
    | with_reducible apply State.askStore_keeps
    | (fail_if_no_progress (with_reducible apply Keeps.update; rfl; rfl; first | exact Nat.le_refl _ | exact Nat.le_succ _))
    | split

theorem State.dataRestore_keeps {s0 : State} {s : State} {m : List Byte}  (hkeep : Keeps s0 s) :
    Keeps s0 (State.dataRestore s m) := by
  unfold State.dataRestore
  repeat' first
    | with_reducible assumption
    | extract_lets
    | intro _
    | with_reducible apply Keeps.ite
    | with_reducible apply Keeps.ite_fst
    | with_reducible apply State.setSnap_keeps
    | with_reducible apply State.askBody_keeps
    | with_reducible apply State.failRestore_keeps
    | with_reducible apply State.takeEarly_keeps
    | with_reducible apply State.takeHeader_keeps
    | (fail_if_no_progress (with_reducible apply Keeps.update; rfl; rfl; first | exact Nat.le_refl _ | exact Nat.le_succ _))
    | split

theorem State.takeRestore_keeps {s0 : State} {s : State} {t : Task}  (hkeep : Keeps s0 s) :
    Keeps s0 (State.takeRestore s t) := by
  unfold State.takeRestore
  repeat' first
    | with_reducible assumption
    | extract_lets
    | intro _
    | with_reducible apply Keeps.ite
    | with_reducible apply Keeps.ite_fst
    | with_reducible apply State.accessFault_keeps
    | with_reducible apply State.handOver_keeps
    | with_reducible apply State.readTo_keeps
    | with_reducible apply State.askStore_keeps
    | with_reducible apply State.pullDevice_keeps
    | with_reducible apply State.refuseRestore_keeps
    | (fail_if_no_progress (with_reducible apply Keeps.update; rfl; rfl; first | exact Nat.le_refl _ | exact Nat.le_succ _))
    | split

theorem execRestore_keeps {s0 : State} {n : Nat} {s : State}  (hkeep : Keeps s0 s) :
    Keeps.Outcome s0 (execRestore n s) := by
  unfold execRestore
  repeat' first
    | with_reducible assumption
    | extract_lets
    | intro _
    | with_reducible apply Keeps.next
    | with_reducible exact Keeps.fault
    | with_reducible exact Keeps.refused
    | with_reducible apply Keeps.ite_outcome
    | with_reducible apply Keeps.ite
    | with_reducible apply State.whenFree_keeps
    | with_reducible apply State.takeRestore_keeps
    | (fail_if_no_progress (with_reducible apply Keeps.update; rfl; rfl; first | exact Nat.le_refl _ | exact Nat.le_succ _))
    | split

theorem execStoreData_keeps {s0 : State} {n : PortNo} {s : State}  (hkeep : Keeps s0 s) :
    Keeps.Outcome s0 (execStoreData n s) := by
  unfold execStoreData
  repeat' first
    | with_reducible assumption
    | extract_lets
    | intro _
    | with_reducible apply Keeps.next
    | with_reducible exact Keeps.fault
    | with_reducible exact Keeps.refused
    | with_reducible apply Keeps.ite_outcome
    | with_reducible apply Keeps.ite
    | with_reducible apply Keeps.ite_fst
    | with_reducible apply State.whenFree_keeps
    | with_reducible apply State.receive_keeps
    | with_reducible apply State.dataTxn_keeps
    | with_reducible apply State.dataRestore_keeps
    | (fail_if_no_progress (with_reducible apply Keeps.update; rfl; rfl; first | exact Nat.le_refl _ | exact Nat.le_succ _))
    | split

theorem execTransactionTimeout_keeps {s0 : State} {n : Nat} {s : State}  (hkeep : Keeps s0 s) :
    Keeps.Outcome s0 (execTransactionTimeout n s) := by
  unfold execTransactionTimeout
  repeat' first
    | with_reducible assumption
    | extract_lets
    | intro _
    | with_reducible apply Keeps.next
    | with_reducible exact Keeps.fault
    | with_reducible exact Keeps.refused
    | with_reducible apply Keeps.ite_outcome
    | with_reducible apply Keeps.ite
    | with_reducible apply State.log_keeps
    | with_reducible apply State.endTxn_keeps
    | with_reducible apply State.failSnap_keeps
    | with_reducible apply State.failRestore_keeps
    | (fail_if_no_progress (with_reducible apply Keeps.update; rfl; rfl; first | exact Nat.le_refl _ | exact Nat.le_succ _))
    | split

end Sys2Proof.Machine
end

