-- ==== Sys2Proof/Laws/KeepsMonitor.lean ====
section
/-! SUPPORT. The operations of Machine/Monitor.lean keep what every command keeps. -/

namespace Sys2Proof.Machine

theorem State.setMon_keeps {s0 : State} {s : State} {mc : Nat} {m : Mon}  (hkeep : Keeps s0 s) :
    Keeps s0 (State.setMon s mc m) := by
  unfold State.setMon
  repeat' first
    | with_reducible assumption
    | extract_lets
    | intro _
    | with_reducible apply Keeps.ite
    | with_reducible apply State.wfs_keeps
    | with_reducible apply State.preempt_keeps
    | (fail_if_no_progress (with_reducible apply Keeps.update; rfl; rfl; first | exact Nat.le_refl _ | exact Nat.le_succ _))

theorem State.setPair_keeps {s0 : State} {s : State} {p : Nat} {v : Pair}  (hkeep : Keeps s0 s) :
    Keeps s0 (State.setPair s p v) := by
  unfold State.setPair
  repeat' first
    | with_reducible assumption
    | extract_lets
    | intro _
    | with_reducible apply Keeps.ite
    | (fail_if_no_progress (with_reducible apply Keeps.update; rfl; rfl; first | exact Nat.le_refl _ | exact Nat.le_succ _))

theorem State.monValue_keeps {s0 : State} {s : State} {mc : Nat} {ch : Nat} {code : Nat}  (hkeep : Keeps s0 s) :
    Keeps s0 (State.monValue s mc ch code).2 := by
  unfold State.monValue
  repeat' first
    | with_reducible assumption
    | extract_lets
    | intro _
    | with_reducible apply Keeps.ite
    | with_reducible apply Keeps.ite_fst
    | with_reducible apply State.draw_keeps
    | split

theorem State.crossing_keeps {s0 : State} {s : State} {ch : Nat} {b : Nat} {reading : Nat}  (hkeep : Keeps s0 s) :
    Keeps s0 (State.crossing s ch b reading) := by
  unfold State.crossing
  repeat' first
    | with_reducible assumption
    | extract_lets
    | intro _
    | with_reducible apply Keeps.ite
    | with_reducible apply State.cause_keeps
    | with_reducible apply State.errDetail_keeps
    | with_reducible apply State.log_keeps

theorem State.powerSample_keeps {s0 : State} {s : State}  (hkeep : Keeps s0 s) :
    Keeps s0 (State.powerSample s) := by
  unfold State.powerSample
  repeat' first
    | with_reducible assumption
    | extract_lets
    | intro _
    | with_reducible apply Keeps.ite
    | with_reducible apply Keeps.ite_fst
    | with_reducible apply State.draw_keeps
    | with_reducible apply State.inc64_keeps
    | with_reducible apply State.wf_keeps
    | with_reducible apply State.crossing_keeps

theorem State.telemetry_keeps {s0 : State} {s : State} {mc : Nat} {ch : Nat} {old : Option Nat} {v : Nat}  (hkeep : Keeps s0 s) :
    Keeps s0 (State.telemetry s mc ch old v) := by
  unfold State.telemetry
  repeat' first
    | with_reducible assumption
    | extract_lets
    | intro _
    | with_reducible apply Keeps.ite
    | with_reducible apply State.wf_keeps
    | with_reducible apply State.crossing_keeps
    | with_reducible apply State.powerSample_keeps

theorem State.writeResult_keeps {s0 : State} {s : State} {mc : Nat} {ch : Nat} {code : Nat}  (hkeep : Keeps s0 s) :
    Keeps s0 (State.writeResult s mc ch code) := by
  unfold State.writeResult
  repeat' first
    | with_reducible assumption
    | extract_lets
    | intro _
    | with_reducible apply Keeps.ite
    | with_reducible apply Keeps.ite_fst
    | with_reducible apply State.wf_keeps
    | with_reducible apply State.newTemperature_keeps
    | with_reducible apply State.monValue_keeps
    | with_reducible apply State.setMon_keeps
    | with_reducible apply State.telemetry_keeps

theorem State.beginSeq_keeps {s0 : State} {s : State} {mc : Nat}  (hkeep : Keeps s0 s) :
    Keeps s0 (State.beginSeq s mc) := by
  unfold State.beginSeq
  repeat' first
    | with_reducible assumption
    | extract_lets
    | intro _
    | with_reducible apply Keeps.ite
    | with_reducible apply State.discard_keeps
    | with_reducible apply State.preempt_keeps
    | with_reducible apply State.setMon_keeps

theorem State.seqStart_keeps {s0 : State} {s : State} {mc : Nat}  (hkeep : Keeps s0 s) :
    Keeps s0 (State.seqStart s mc) := by
  unfold State.seqStart
  repeat' first
    | with_reducible assumption
    | extract_lets
    | intro _
    | with_reducible apply Keeps.ite
    | with_reducible apply State.inc_keeps
    | with_reducible apply State.beginSeq_keeps

theorem execSeqStart_keeps {s0 : State} {view : View} {mc : McNo} {s : State}  (hkeep : Keeps s0 s) :
    Keeps.Outcome s0 (execSeqStart view mc s) := by
  unfold execSeqStart
  repeat' first
    | with_reducible assumption
    | extract_lets
    | intro _
    | with_reducible apply Keeps.next
    | with_reducible exact Keeps.fault
    | with_reducible exact Keeps.refused
    | with_reducible apply Keeps.ite_outcome
    | with_reducible apply Keeps.ite
    | with_reducible apply State.onWrite_keeps
    | with_reducible apply State.seqStart_keeps

theorem State.seqStop_keeps {s0 : State} {s : State} {mc : Nat}  (hkeep : Keeps s0 s) :
    Keeps s0 (State.seqStop s mc) := by
  unfold State.seqStop
  repeat' first
    | with_reducible assumption
    | extract_lets
    | intro _
    | with_reducible apply Keeps.ite
    | with_reducible apply State.discard_keeps
    | with_reducible apply State.preempt_keeps
    | with_reducible apply State.setMon_keeps

theorem execSeqStop_keeps {s0 : State} {view : View} {mc : McNo} {s : State}  (hkeep : Keeps s0 s) :
    Keeps.Outcome s0 (execSeqStop view mc s) := by
  unfold execSeqStop
  repeat' first
    | with_reducible assumption
    | extract_lets
    | intro _
    | with_reducible apply Keeps.next
    | with_reducible exact Keeps.fault
    | with_reducible exact Keeps.refused
    | with_reducible apply Keeps.ite_outcome
    | with_reducible apply Keeps.ite
    | with_reducible apply State.onWrite_keeps
    | with_reducible apply State.seqStop_keeps

theorem State.beginSweep_keeps {s0 : State} {s : State} {mc : Nat}  (hkeep : Keeps s0 s) :
    Keeps s0 (State.beginSweep s mc) := by
  unfold State.beginSweep
  repeat' first
    | with_reducible assumption
    | extract_lets
    | intro _
    | with_reducible apply Keeps.ite
    | with_reducible apply State.discard_keeps
    | with_reducible apply State.preempt_keeps
    | with_reducible apply State.setMon_keeps

theorem State.preempt_keeps {s0 : State} {s : State} {mc : Nat}  (hkeep : Keeps s0 s) :
    Keeps s0 (State.preempt s mc) := by
  unfold State.preempt
  repeat' first
    | with_reducible assumption
    | extract_lets
    | intro _
    | with_reducible apply Keeps.ite
    | with_reducible apply State.inc_keeps
    | with_reducible apply State.setMon_keeps

theorem State.resume_keeps {s0 : State} {s : State} {mc : Nat}  (hkeep : Keeps s0 s) :
    Keeps s0 (State.resume s mc) := by
  unfold State.resume
  repeat' first
    | with_reducible assumption
    | extract_lets
    | intro _
    | with_reducible apply Keeps.ite
    | with_reducible apply State.discard_keeps
    | with_reducible apply State.preempt_keeps
    | with_reducible apply State.setMon_keeps

theorem State.tryCheck_keeps {s0 : State} {s : State} {p : Nat}  (hkeep : Keeps s0 s) :
    Keeps s0 (State.tryCheck s p) := by
  unfold State.tryCheck
  repeat' first
    | with_reducible assumption
    | extract_lets
    | intro _
    | with_reducible apply Keeps.ite
    | with_reducible apply State.preempt_keeps
    | with_reducible apply State.setPair_keeps

theorem State.setTrusted_keeps {s0 : State} {s : State} {p : Nat} {t : Bool}  (hkeep : Keeps s0 s) :
    Keeps s0 (State.setTrusted s p t) := by
  unfold State.setTrusted
  repeat' first
    | with_reducible assumption
    | extract_lets
    | intro _
    | with_reducible apply Keeps.ite
    | with_reducible apply State.wf_keeps

theorem State.pairCause_keeps {s0 : State} {s : State} {p : Nat} {b : Nat}  (hkeep : Keeps s0 s) :
    Keeps s0 (State.pairCause s p b) := by
  unfold State.pairCause
  repeat' first
    | with_reducible assumption
    | extract_lets
    | intro _
    | with_reducible apply Keeps.ite
    | with_reducible apply State.cause_keeps

theorem State.setDies_keeps {s0 : State} {s : State} {n : Nat} {v : Nat}  (hkeep : Keeps s0 s) :
    Keeps s0 (State.setDies s n v) := by
  unfold State.setDies
  repeat' first
    | with_reducible assumption
    | extract_lets
    | intro _
    | with_reducible apply Keeps.ite
    | with_reducible apply State.wf_keeps

theorem State.calDone_keeps {s0 : State} {s : State}  (hkeep : Keeps s0 s) :
    Keeps s0 (State.calDone s) := by
  unfold State.calDone
  repeat' first
    | with_reducible assumption
    | extract_lets
    | intro _
    | with_reducible apply Keeps.ite
    | with_reducible apply State.wf_keeps
    | with_reducible apply State.cause_keeps
    | with_reducible apply State.setDevState_keeps

theorem State.refuseDie_keeps {s0 : State} {s : State} {n : Nat} {reason : Nat} {k : Nat}  (hkeep : Keeps s0 s) :
    Keeps s0 (State.refuseDie s n reason k) := by
  unfold State.refuseDie
  repeat' first
    | with_reducible assumption
    | extract_lets
    | intro _
    | with_reducible apply Keeps.ite
    | with_reducible apply State.cause_keeps
    | with_reducible apply State.errDetail_keeps
    | with_reducible apply State.log_keeps
    | with_reducible apply State.calDone_keeps
    | with_reducible apply State.setDies_keeps
    | (fail_if_no_progress (with_reducible apply Keeps.update; rfl; rfl; first | exact Nat.le_refl _ | exact Nat.le_succ _))

theorem State.sweepFailed_keeps {s0 : State} {s : State} {p : Nat}  (hkeep : Keeps s0 s) :
    Keeps s0 (State.sweepFailed s p) := by
  unfold State.sweepFailed
  repeat' first
    | with_reducible assumption
    | extract_lets
    | intro _
    | with_reducible apply Keeps.ite
    | with_reducible apply State.beginSeq_keeps
    | with_reducible apply State.refuseDie_keeps
    | with_reducible apply State.setMon_keeps
    | with_reducible apply State.setPair_keeps
    | with_reducible apply Keeps.foldl

theorem State.checkFails_keeps {s0 : State} {s : State} {p : Nat} {detail : List Nat}  (hkeep : Keeps s0 s) :
    Keeps s0 (State.checkFails s p detail) := by
  unfold State.checkFails
  repeat' first
    | with_reducible assumption
    | extract_lets
    | intro _
    | with_reducible apply Keeps.ite
    | with_reducible apply State.inc_keeps
    | with_reducible apply State.log_keeps
    | with_reducible apply State.holdTables_keeps
    | with_reducible apply State.pairCause_keeps
    | with_reducible apply State.setPair_keeps
    | with_reducible apply State.setTrusted_keeps
    | with_reducible apply State.sweepFailed_keeps
    | with_reducible apply Keeps.foldl

theorem State.checkPasses_keeps {s0 : State} {s : State} {p : Nat} {a : Nat} {b : Nat}  (hkeep : Keeps s0 s) :
    Keeps s0 (State.checkPasses s p a b) := by
  unfold State.checkPasses
  repeat' first
    | with_reducible assumption
    | extract_lets
    | intro _
    | with_reducible apply Keeps.ite
    | with_reducible apply State.log_keeps
    | with_reducible apply State.beginSeq_keeps
    | with_reducible apply State.pairCause_keeps
    | with_reducible apply State.setPair_keeps
    | with_reducible apply State.setTrusted_keeps

theorem State.checkDue_keeps {s0 : State} {s : State} {p : Nat}  (hkeep : Keeps s0 s) :
    Keeps s0 (State.checkDue s p) := by
  unfold State.checkDue
  repeat' first
    | with_reducible assumption
    | extract_lets
    | intro _
    | with_reducible apply Keeps.ite
    | with_reducible apply State.checkFails_keeps
    | with_reducible apply State.setPair_keeps
    | with_reducible apply State.tryCheck_keeps

theorem execPairCheckDue_keeps {s0 : State} {p : Fin 2} {s : State}  (hkeep : Keeps s0 s) :
    Keeps.Outcome s0 (execPairCheckDue p s) := by
  unfold execPairCheckDue
  repeat' first
    | with_reducible assumption
    | extract_lets
    | intro _
    | with_reducible apply Keeps.next
    | with_reducible exact Keeps.fault
    | with_reducible exact Keeps.refused
    | with_reducible apply Keeps.ite_outcome
    | with_reducible apply Keeps.ite
    | with_reducible apply State.checkDue_keeps

theorem State.endCheck_keeps {s0 : State} {s : State} {p : Nat} {sumEven : Nat} {sumOdd : Nat}  (hkeep : Keeps s0 s) :
    Keeps s0 (State.endCheck s p sumEven sumOdd) := by
  unfold State.endCheck
  repeat' first
    | with_reducible assumption
    | extract_lets
    | intro _
    | with_reducible apply Keeps.ite
    | with_reducible apply State.wf_keeps
    | with_reducible apply State.checkFails_keeps
    | with_reducible apply State.checkPasses_keeps
    | with_reducible apply State.resume_keeps
    | with_reducible apply State.setPair_keeps
    | with_reducible apply State.writeResult_keeps

theorem execPairCheckDone_keeps {s0 : State} {p : Fin 2} {sumEven : Nat} {sumOdd : Nat} {s : State}  (hkeep : Keeps s0 s) :
    Keeps.Outcome s0 (execPairCheckDone p sumEven sumOdd s) := by
  unfold execPairCheckDone
  repeat' first
    | with_reducible assumption
    | extract_lets
    | intro _
    | with_reducible apply Keeps.next
    | with_reducible exact Keeps.fault
    | with_reducible exact Keeps.refused
    | with_reducible apply Keeps.ite_outcome
    | with_reducible apply Keeps.ite
    | with_reducible apply State.endCheck_keeps

theorem execFirstSweepRetry_keeps {s0 : State} {p : Fin 2} {s : State}  (hkeep : Keeps s0 s) :
    Keeps.Outcome s0 (execFirstSweepRetry p s) := by
  unfold execFirstSweepRetry
  repeat' first
    | with_reducible assumption
    | extract_lets
    | intro _
    | with_reducible apply Keeps.next
    | with_reducible exact Keeps.fault
    | with_reducible exact Keeps.refused
    | with_reducible apply Keeps.ite_outcome
    | with_reducible apply Keeps.ite
    | with_reducible apply State.beginSweep_keeps
    | with_reducible apply State.setPair_keeps
    | (fail_if_no_progress (with_reducible apply Keeps.update; rfl; rfl; first | exact Nat.le_refl _ | exact Nat.le_succ _))
    | split

theorem State.askUrgent_keeps {s0 : State} {s : State} {mc : Nat} {ch : Nat} {avg : Nat}  (hkeep : Keeps s0 s) :
    Keeps s0 (State.askUrgent s mc ch avg) := by
  unfold State.askUrgent
  repeat' first
    | with_reducible assumption
    | extract_lets
    | intro _
    | with_reducible apply Keeps.ite
    | with_reducible apply State.inc_keeps
    | with_reducible apply State.cause_keeps
    | with_reducible apply State.err_keeps
    | with_reducible apply State.log_keeps
    | with_reducible apply State.setMon_keeps

theorem execUrgent_keeps {s0 : State} {view : View} {mc : McNo} {channel : BitVec 5} {avg : BitVec 4} {s : State}  (hkeep : Keeps s0 s) :
    Keeps.Outcome s0 (execUrgent view mc channel avg s) := by
  unfold execUrgent
  repeat' first
    | with_reducible assumption
    | extract_lets
    | intro _
    | with_reducible apply Keeps.next
    | with_reducible exact Keeps.fault
    | with_reducible exact Keeps.refused
    | with_reducible apply Keeps.ite_outcome
    | with_reducible apply Keeps.ite
    | with_reducible apply State.onWrite_keeps
    | with_reducible apply State.writeFlds_keeps
    | with_reducible apply State.askUrgent_keeps

theorem execUrgentStart_keeps {s0 : State} {mc : McNo} {s : State}  (hkeep : Keeps s0 s) :
    Keeps.Outcome s0 (execUrgentStart mc s) := by
  unfold execUrgentStart
  repeat' first
    | with_reducible assumption
    | extract_lets
    | intro _
    | with_reducible apply Keeps.next
    | with_reducible exact Keeps.fault
    | with_reducible exact Keeps.refused
    | with_reducible apply Keeps.ite_outcome
    | with_reducible apply Keeps.ite
    | with_reducible apply State.preempt_keeps
    | with_reducible apply State.setMon_keeps

theorem State.urgentDone_keeps {s0 : State} {s : State} {mc : Nat} {sum : Nat}  (hkeep : Keeps s0 s) :
    Keeps s0 (State.urgentDone s mc sum) := by
  unfold State.urgentDone
  repeat' first
    | with_reducible assumption
    | extract_lets
    | intro _
    | with_reducible apply Keeps.ite
    | with_reducible apply Keeps.ite_fst
    | with_reducible apply State.wfs_keeps
    | with_reducible apply State.cause_keeps
    | with_reducible apply State.resume_keeps
    | with_reducible apply State.setMon_keeps
    | with_reducible apply State.tryCheck_keeps
    | with_reducible apply State.writeResult_keeps

theorem State.endSweep_keeps {s0 : State} {s : State} {mc : Nat}  (hkeep : Keeps s0 s) :
    Keeps s0 (State.endSweep s mc) := by
  unfold State.endSweep
  repeat' first
    | with_reducible assumption
    | extract_lets
    | intro _
    | with_reducible apply Keeps.ite
    | with_reducible apply State.log_keeps
    | with_reducible apply State.checkDue_keeps
    | with_reducible apply State.setMon_keeps

theorem State.endRun_keeps {s0 : State} {s : State} {mc : Nat}  (hkeep : Keeps s0 s) :
    Keeps s0 (State.endRun s mc) := by
  unfold State.endRun
  repeat' first
    | with_reducible assumption
    | extract_lets
    | intro _
    | with_reducible apply Keeps.ite
    | with_reducible apply State.inc_keeps
    | with_reducible apply State.cause_keeps
    | with_reducible apply State.beginSeq_keeps
    | with_reducible apply State.setMon_keeps

theorem State.entryDone_keeps {s0 : State} {s : State} {mc : Nat} {sum : Nat}  (hkeep : Keeps s0 s) :
    Keeps s0 (State.entryDone s mc sum) := by
  unfold State.entryDone
  repeat' first
    | with_reducible assumption
    | extract_lets
    | intro _
    | with_reducible apply Keeps.ite
    | with_reducible apply Keeps.ite_fst
    | with_reducible apply State.endRun_keeps
    | with_reducible apply State.endSweep_keeps
    | with_reducible apply State.setMon_keeps
    | with_reducible apply State.writeResult_keeps

theorem execMonitorConversionDone_keeps {s0 : State} {mc : McNo} {sum : Nat} {s : State}  (hkeep : Keeps s0 s) :
    Keeps.Outcome s0 (execMonitorConversionDone mc sum s) := by
  unfold execMonitorConversionDone
  repeat' first
    | with_reducible assumption
    | extract_lets
    | intro _
    | with_reducible apply Keeps.next
    | with_reducible exact Keeps.fault
    | with_reducible exact Keeps.refused
    | with_reducible apply Keeps.ite_outcome
    | with_reducible apply Keeps.ite
    | with_reducible apply State.entryDone_keeps
    | with_reducible apply State.preempt_keeps
    | with_reducible apply State.urgentDone_keeps

theorem State.firstBanks_keeps {s0 : State} {s : State} {n : Nat} {t : Int}  (hkeep : Keeps s0 s) :
    Keeps s0 (State.firstBanks s n t) := by
  unfold State.firstBanks
  repeat' first
    | with_reducible assumption
    | extract_lets
    | intro _
    | with_reducible apply Keeps.ite
    | with_reducible apply State.setPanel_keeps
    | with_reducible apply State.showBank_keeps
    | with_reducible apply Keeps.foldl

theorem State.referDie_keeps {s0 : State} {s : State} {n : Nat} {t : Int}  (hkeep : Keeps s0 s) :
    Keeps s0 (State.referDie s n t) := by
  unfold State.referDie
  repeat' first
    | with_reducible assumption
    | extract_lets
    | intro _
    | with_reducible apply Keeps.ite
    | with_reducible apply State.wf_keeps
    | with_reducible apply State.log_keeps
    | with_reducible apply State.calDone_keeps
    | with_reducible apply State.firstBanks_keeps
    | with_reducible apply State.refuseDie_keeps
    | with_reducible apply State.setDies_keeps
    | (fail_if_no_progress (with_reducible apply Keeps.update; rfl; rfl; first | exact Nat.le_refl _ | exact Nat.le_succ _))

theorem execArrayDieReferral_keeps {s0 : State} {n : Die8} {s : State}  (hkeep : Keeps s0 s) :
    Keeps.Outcome s0 (execArrayDieReferral n s) := by
  unfold execArrayDieReferral
  repeat' first
    | with_reducible assumption
    | extract_lets
    | intro _
    | with_reducible apply Keeps.next
    | with_reducible exact Keeps.fault
    | with_reducible exact Keeps.refused
    | with_reducible apply Keeps.ite_outcome
    | with_reducible apply Keeps.ite
    | with_reducible apply State.referDie_keeps
    | (fail_if_no_progress (with_reducible apply Keeps.update; rfl; rfl; first | exact Nat.le_refl _ | exact Nat.le_succ _))
    | split

theorem State.resetMon_keeps {s0 : State} {s : State} {mc : Nat}  (hkeep : Keeps s0 s) :
    Keeps s0 (State.resetMon s mc) := by
  unfold State.resetMon
  repeat' first
    | with_reducible assumption
    | extract_lets
    | intro _
    | with_reducible apply Keeps.ite
    | with_reducible apply State.wf_keeps
    | with_reducible apply State.discard_keeps
    | with_reducible apply State.preempt_keeps
    | with_reducible apply State.setMon_keeps
    | with_reducible apply State.setPair_keeps
    | with_reducible apply Keeps.foldl

theorem State.loadStore_keeps {s0 : State} {s : State}  (hkeep : Keeps s0 s) :
    Keeps s0 (State.loadStore s) := by
  unfold State.loadStore
  repeat' first
    | with_reducible assumption
    | extract_lets
    | intro _
    | with_reducible apply Keeps.ite
    | with_reducible apply State.wf_keeps
    | with_reducible apply State.cause_keeps
    | with_reducible apply State.log_keeps
    | with_reducible apply Keeps.foldl
    | (fail_if_no_progress (with_reducible apply Keeps.update; rfl; rfl; first | exact Nat.le_refl _ | exact Nat.le_succ _))

theorem execMonitorCountClear_keeps {s0 : State} {view : View} {mc : McNo} {s : State}  (hkeep : Keeps s0 s) :
    Keeps.Outcome s0 (execMonitorCountClear view mc s) := by
  unfold execMonitorCountClear
  repeat' first
    | with_reducible assumption
    | extract_lets
    | intro _
    | with_reducible apply Keeps.next
    | with_reducible exact Keeps.fault
    | with_reducible exact Keeps.refused
    | with_reducible apply Keeps.ite_outcome
    | with_reducible apply Keeps.ite
    | with_reducible apply State.onWrite_keeps
    | with_reducible apply State.clearCounts_keeps

end Sys2Proof.Machine
end

