-- ==== Sys2Proof/Laws/KeepsRecord.lean ====
section
/-! SUPPORT. The operations of Machine/Record.lean keep what every command keeps. -/

namespace Sys2Proof.Machine

theorem execEventCommit_keeps {s0 : State} {s : State}  (hkeep : Keeps s0 s) :
    Keeps.Outcome s0 (execEventCommit s) := by
  unfold execEventCommit
  repeat' first
    | with_reducible assumption
    | extract_lets
    | intro _
    | with_reducible apply Keeps.next
    | with_reducible exact Keeps.fault
    | with_reducible exact Keeps.refused
    | with_reducible apply Keeps.ite_outcome
    | with_reducible apply Keeps.ite
    | with_reducible apply State.commitEntry_keeps

theorem State.showRecord_keeps {s0 : State} {s : State}  (hkeep : Keeps s0 s) :
    Keeps s0 (State.showRecord s) := by
  unfold State.showRecord
  repeat' first
    | with_reducible assumption
    | extract_lets
    | intro _
    | with_reducible apply Keeps.ite
    | with_reducible apply State.wf_keeps
    | with_reducible apply State.wf64_keeps

theorem State.compactOne_keeps {s0 : State} {s : State}  (hkeep : Keeps s0 s) :
    Keeps s0 (State.compactOne s) := by
  unfold State.compactOne
  repeat' first
    | with_reducible assumption
    | extract_lets
    | intro _
    | with_reducible apply Keeps.ite
    | with_reducible apply State.inc_keeps
    | with_reducible apply State.incBy_keeps
    | with_reducible apply State.log_keeps
    | with_reducible apply State.showRecord_keeps
    | with_reducible apply Keeps.foldl
    | (fail_if_no_progress (with_reducible apply Keeps.update; rfl; rfl; first | exact Nat.le_refl _ | exact Nat.le_succ _))

theorem execCompaction_keeps {s0 : State} {s : State}  (hkeep : Keeps s0 s) :
    Keeps.Outcome s0 (execCompaction s) := by
  unfold execCompaction
  repeat' first
    | with_reducible assumption
    | extract_lets
    | intro _
    | with_reducible apply Keeps.next
    | with_reducible exact Keeps.fault
    | with_reducible exact Keeps.refused
    | with_reducible apply Keeps.ite_outcome
    | with_reducible apply Keeps.ite
    | with_reducible apply Keeps.ite_fst
    | with_reducible apply State.askGrant_keeps
    | with_reducible apply State.release_keeps
    | with_reducible apply State.compactOne_keeps

theorem State.showEntry_keeps {s0 : State} {s : State} {seq : Nat}  (hkeep : Keeps s0 s) :
    Keeps s0 (State.showEntry s seq) := by
  unfold State.showEntry
  repeat' first
    | with_reducible assumption
    | extract_lets
    | intro _
    | with_reducible apply Keeps.ite
    | with_reducible apply State.wf_keeps
    | with_reducible apply State.wfs_keeps
    | with_reducible apply Keeps.foldl

theorem execRecSelWrite_keeps {s0 : State} {view : View} {seq : BitVec 64} {s : State}  (hkeep : Keeps s0 s) :
    Keeps.Outcome s0 (execRecSelWrite view seq s) := by
  unfold execRecSelWrite
  repeat' first
    | with_reducible assumption
    | extract_lets
    | intro _
    | with_reducible apply Keeps.next
    | with_reducible exact Keeps.fault
    | with_reducible exact Keeps.refused
    | with_reducible apply Keeps.ite_outcome
    | with_reducible apply Keeps.ite
    | with_reducible apply State.wf64_keeps
    | with_reducible apply State.onWrite_keeps
    | with_reducible apply State.showEntry_keeps

theorem execDumpStart_keeps {s0 : State} {view : View} {s : State}  (hkeep : Keeps s0 s) :
    Keeps.Outcome s0 (execDumpStart view s) := by
  unfold execDumpStart
  repeat' first
    | with_reducible assumption
    | extract_lets
    | intro _
    | with_reducible apply Keeps.next
    | with_reducible exact Keeps.fault
    | with_reducible exact Keeps.refused
    | with_reducible apply Keeps.ite_outcome
    | with_reducible apply Keeps.ite
    | with_reducible apply State.wf_keeps
    | with_reducible apply State.onWrite_keeps
    | (fail_if_no_progress (with_reducible apply Keeps.update; rfl; rfl; first | exact Nat.le_refl _ | exact Nat.le_succ _))

theorem State.endDump_keeps {s0 : State} {s : State} {a : Nat} {first : Nat} {count : Nat}  (hkeep : Keeps s0 s) :
    Keeps s0 (State.endDump s a first count) := by
  unfold State.endDump
  repeat' first
    | with_reducible assumption
    | extract_lets
    | intro _
    | with_reducible apply Keeps.ite
    | with_reducible apply Keeps.ite_fst
    | with_reducible apply State.wfs_keeps
    | with_reducible apply State.accessFault_keeps
    | with_reducible apply State.cause_keeps
    | with_reducible apply State.merge_keeps
    | (fail_if_no_progress (with_reducible apply Keeps.update; rfl; rfl; first | exact Nat.le_refl _ | exact Nat.le_succ _))
    | split
    | dsimp +zetaDelta only

theorem execDumpDone_keeps {s0 : State} {s : State}  (hkeep : Keeps s0 s) :
    Keeps.Outcome s0 (execDumpDone s) := by
  unfold execDumpDone
  repeat' first
    | with_reducible assumption
    | extract_lets
    | intro _
    | with_reducible apply Keeps.next
    | with_reducible exact Keeps.fault
    | with_reducible exact Keeps.refused
    | with_reducible apply Keeps.ite_outcome
    | with_reducible apply Keeps.ite
    | with_reducible apply Keeps.ite_fst
    | with_reducible apply State.whenFree_keeps
    | with_reducible apply State.endDump_keeps
    | (fail_if_no_progress (with_reducible apply Keeps.update; rfl; rfl; first | exact Nat.le_refl _ | exact Nat.le_succ _))
    | split

end Sys2Proof.Machine
end

