-- ==== Sys2Proof/Laws/KeepsFirmware.lean ====
section
/-! SUPPORT. The operations of Machine/Firmware.lean keep what every command keeps. -/

namespace Sys2Proof.Machine

theorem State.setSlotFw_keeps {s0 : State} {s : State} {k : Nat} {v : FwSlot}  (hkeep : Keeps s0 s) :
    Keeps s0 (State.setSlotFw s k v) := by
  unfold State.setSlotFw
  repeat' first
    | with_reducible assumption
    | extract_lets
    | intro _
    | with_reducible apply Keeps.ite
    | (fail_if_no_progress (with_reducible apply Keeps.update; rfl; rfl; first | exact Nat.le_refl _ | exact Nat.le_succ _))

theorem State.writeBoot_keeps {s0 : State} {s : State} {active : Nat} {pend : Option Nat} {trial : Bool}  (hkeep : Keeps s0 s) :
    Keeps s0 (State.writeBoot s active pend trial) := by
  unfold State.writeBoot
  repeat' first
    | with_reducible assumption
    | extract_lets
    | intro _
    | with_reducible apply Keeps.ite
    | (fail_if_no_progress (with_reducible apply Keeps.update; rfl; rfl; first | exact Nat.le_refl _ | exact Nat.le_succ _))

theorem State.showSlot_keeps {s0 : State} {s : State} {k : Nat} {st : Nat}  (hkeep : Keeps s0 s) :
    Keeps s0 (State.showSlot s k st) := by
  unfold State.showSlot
  repeat' first
    | with_reducible assumption
    | extract_lets
    | intro _
    | with_reducible apply Keeps.ite
    | with_reducible apply State.wf_keeps

theorem State.showBoot_keeps {s0 : State} {s : State}  (hkeep : Keeps s0 s) :
    Keeps s0 (State.showBoot s) := by
  unfold State.showBoot
  repeat' first
    | with_reducible assumption
    | extract_lets
    | intro _
    | with_reducible apply Keeps.ite
    | with_reducible apply State.wfs_keeps

theorem State.fwEnds_keeps {s0 : State} {s : State} {last : Nat} {reason : Nat}  (hkeep : Keeps s0 s) :
    Keeps s0 (State.fwEnds s last reason) := by
  unfold State.fwEnds
  repeat' first
    | with_reducible assumption
    | extract_lets
    | intro _
    | with_reducible apply Keeps.ite
    | with_reducible apply State.wfs_keeps

theorem State.refuseImage_keeps {s0 : State} {s : State} {h : List Byte} {code : Nat}  (hkeep : Keeps s0 s) :
    Keeps s0 (State.refuseImage s h code) := by
  unfold State.refuseImage
  repeat' first
    | with_reducible assumption
    | extract_lets
    | intro _
    | with_reducible apply Keeps.ite
    | with_reducible apply State.inc_keeps
    | with_reducible apply State.cause_keeps
    | with_reducible apply State.err_keeps
    | with_reducible apply State.logFirm_keeps
    | with_reducible apply State.fwEnds_keeps

theorem State.eraseSlot_keeps {s0 : State} {s : State} {body : List Byte}  (hkeep : Keeps s0 s) :
    Keeps s0 (State.eraseSlot s body) := by
  unfold State.eraseSlot
  repeat' first
    | with_reducible assumption
    | extract_lets
    | intro _
    | with_reducible apply Keeps.ite
    | with_reducible apply State.setSlotFw_keeps
    | with_reducible apply State.showSlot_keeps
    | (fail_if_no_progress (with_reducible apply Keeps.update; rfl; rfl; first | exact Nat.le_refl _ | exact Nat.le_succ _))

theorem State.stageUnread_keeps {s0 : State} {s : State} {a : Nat}  (hkeep : Keeps s0 s) :
    Keeps s0 (State.stageUnread s a) := by
  unfold State.stageUnread
  repeat' first
    | with_reducible assumption
    | extract_lets
    | intro _
    | with_reducible apply Keeps.ite
    | with_reducible apply State.accessFault_keeps
    | with_reducible apply State.check_keeps
    | with_reducible apply State.release_keeps
    | with_reducible apply State.fwEnds_keeps

theorem State.stageBody_keeps {s0 : State} {s : State} {h : List Byte} {a : Nat} {len : Nat}  (hkeep : Keeps s0 s) :
    Keeps s0 (State.stageBody s h a len) := by
  unfold State.stageBody
  repeat' first
    | with_reducible assumption
    | extract_lets
    | intro _
    | with_reducible apply Keeps.ite
    | with_reducible apply State.cacheUse_keeps
    | with_reducible apply State.wf_keeps
    | with_reducible apply State.check_keeps
    | with_reducible apply State.eraseSlot_keeps
    | with_reducible apply State.stageUnread_keeps
    | (fail_if_no_progress (with_reducible apply Keeps.update; rfl; rfl; first | exact Nat.le_refl _ | exact Nat.le_succ _))
    | split

theorem State.stage_keeps {s0 : State} {s : State}  (hkeep : Keeps s0 s) :
    Keeps s0 (State.stage s) := by
  unfold State.stage
  repeat' first
    | with_reducible assumption
    | extract_lets
    | intro _
    | with_reducible apply Keeps.ite
    | with_reducible apply Keeps.ite_fst
    | with_reducible apply State.cacheUse_keeps
    | with_reducible apply State.check_keeps
    | with_reducible apply State.askGrant_keeps
    | with_reducible apply State.release_keeps
    | with_reducible apply State.fwEnds_keeps
    | with_reducible apply State.refuseImage_keeps
    | with_reducible apply State.stageBody_keeps
    | with_reducible apply State.stageUnread_keeps
    | (fail_if_no_progress (with_reducible apply Keeps.update; rfl; rfl; first | exact Nat.le_refl _ | exact Nat.le_succ _))
    | split

theorem execStage_keeps {s0 : State} {view : View} {s : State}  (hkeep : Keeps s0 s) :
    Keeps.Outcome s0 (execStage view s) := by
  unfold execStage
  repeat' first
    | with_reducible assumption
    | extract_lets
    | intro _
    | with_reducible apply Keeps.next
    | with_reducible exact Keeps.fault
    | with_reducible exact Keeps.refused
    | with_reducible apply Keeps.ite_outcome
    | with_reducible apply Keeps.ite
    | with_reducible apply State.whenFree_keeps
    | with_reducible apply State.onWrite_keeps
    | with_reducible apply State.stage_keeps

theorem execStageComplete_keeps {s0 : State} {flashGood : Bool} {s : State}  (hkeep : Keeps s0 s) :
    Keeps.Outcome s0 (execStageComplete flashGood s) := by
  unfold execStageComplete
  repeat' first
    | with_reducible assumption
    | extract_lets
    | intro _
    | with_reducible apply Keeps.next
    | with_reducible exact Keeps.fault
    | with_reducible exact Keeps.refused
    | with_reducible apply Keeps.ite_outcome
    | with_reducible apply Keeps.ite
    | with_reducible apply State.cause_keeps
    | with_reducible apply State.logFirm_keeps
    | with_reducible apply State.release_keeps
    | with_reducible apply State.fwEnds_keeps
    | with_reducible apply State.setSlotFw_keeps
    | with_reducible apply State.showSlot_keeps
    | (fail_if_no_progress (with_reducible apply Keeps.update; rfl; rfl; first | exact Nat.le_refl _ | exact Nat.le_succ _))
    | split

theorem execActivate_keeps {s0 : State} {view : View} {s : State}  (hkeep : Keeps s0 s) :
    Keeps.Outcome s0 (execActivate view s) := by
  unfold execActivate
  repeat' first
    | with_reducible assumption
    | extract_lets
    | intro _
    | with_reducible apply Keeps.next
    | with_reducible exact Keeps.fault
    | with_reducible exact Keeps.refused
    | with_reducible apply Keeps.ite_outcome
    | with_reducible apply Keeps.ite
    | with_reducible apply State.logFirm_keeps
    | with_reducible apply State.onWrite_keeps
    | with_reducible apply State.showBoot_keeps
    | with_reducible apply State.writeBoot_keeps
    | (fail_if_no_progress (with_reducible apply Keeps.update; rfl; rfl; first | exact Nat.le_refl _ | exact Nat.le_succ _))
    | split

theorem execCancel_keeps {s0 : State} {view : View} {s : State}  (hkeep : Keeps s0 s) :
    Keeps.Outcome s0 (execCancel view s) := by
  unfold execCancel
  repeat' first
    | with_reducible assumption
    | extract_lets
    | intro _
    | with_reducible apply Keeps.next
    | with_reducible exact Keeps.fault
    | with_reducible exact Keeps.refused
    | with_reducible apply Keeps.ite_outcome
    | with_reducible apply Keeps.ite
    | with_reducible apply State.onWrite_keeps
    | with_reducible apply State.showBoot_keeps
    | with_reducible apply State.writeBoot_keeps

theorem State.raiseFuses_keeps {s0 s : State} {n : Nat} (keep : Keeps s0 s) : Keeps s0 (s.raiseFuses n) :=
  State.wf_keeps (keep.trans ⟨rfl, Nat.le_max_left _ _, rfl, Nat.le_refl _, fun c => ⟨c.regs, c.mem, c.seals⟩⟩)

theorem State.confirm_keeps {s0 : State} {s : State}  (hkeep : Keeps s0 s) :
    Keeps s0 (State.confirm s) := by
  unfold State.confirm
  repeat' first
    | with_reducible assumption
    | extract_lets
    | intro _
    | with_reducible apply Keeps.ite
    | with_reducible apply State.wfs_keeps
    | with_reducible apply State.cause_keeps
    | with_reducible apply State.logFirm_keeps
    | with_reducible apply State.fwEnds_keeps
    | with_reducible apply State.raiseFuses_keeps
    | with_reducible apply State.showBoot_keeps
    | with_reducible apply State.showSlot_keeps
    | with_reducible apply State.writeBoot_keeps
    | (fail_if_no_progress (with_reducible apply Keeps.update; rfl; rfl; first | exact Nat.le_refl _ | exact Nat.le_succ _))

theorem execConfirm_keeps {s0 : State} {view : View} {s : State}  (hkeep : Keeps s0 s) :
    Keeps.Outcome s0 (execConfirm view s) := by
  unfold execConfirm
  repeat' first
    | with_reducible assumption
    | extract_lets
    | intro _
    | with_reducible apply Keeps.next
    | with_reducible exact Keeps.fault
    | with_reducible exact Keeps.refused
    | with_reducible apply Keeps.ite_outcome
    | with_reducible apply Keeps.ite
    | with_reducible apply Keeps.ite_fst
    | with_reducible apply State.onWrite_keeps
    | with_reducible apply State.askGrant_keeps
    | with_reducible apply State.release_keeps
    | with_reducible apply State.confirm_keeps
    | with_reducible apply State.fwEnds_keeps

theorem execTrialExpired_keeps {s0 : State} {s : State}  (hkeep : Keeps s0 s) :
    Keeps.Outcome s0 (execTrialExpired s) := by
  unfold execTrialExpired
  repeat' first
    | with_reducible assumption
    | extract_lets
    | intro _
    | with_reducible apply Keeps.next
    | with_reducible exact Keeps.fault
    | with_reducible exact Keeps.refused
    | with_reducible apply Keeps.ite_outcome
    | with_reducible apply Keeps.ite
    | with_reducible apply State.wf_keeps
    | with_reducible apply State.cause_keeps
    | with_reducible apply State.log_keeps

theorem execAttStart_keeps {s0 : State} {view : View} {s : State}  (hkeep : Keeps s0 s) :
    Keeps.Outcome s0 (execAttStart view s) := by
  unfold execAttStart
  repeat' first
    | with_reducible assumption
    | extract_lets
    | intro _
    | with_reducible apply Keeps.next
    | with_reducible exact Keeps.fault
    | with_reducible exact Keeps.refused
    | with_reducible apply Keeps.ite_outcome
    | with_reducible apply Keeps.ite
    | with_reducible apply State.wf_keeps
    | with_reducible apply State.onWrite_keeps
    | (fail_if_no_progress (with_reducible apply Keeps.update; rfl; rfl; first | exact Nat.le_refl _ | exact Nat.le_succ _))

theorem State.endReport_keeps {s0 : State} {s : State}  (hkeep : Keeps s0 s) :
    Keeps s0 (State.endReport s) := by
  unfold State.endReport
  repeat' first
    | with_reducible assumption
    | extract_lets
    | intro _
    | with_reducible apply Keeps.ite
    | with_reducible apply Keeps.ite_fst
    | with_reducible apply State.inc_keeps
    | with_reducible apply State.wf_keeps
    | with_reducible apply State.accessFault_keeps
    | with_reducible apply State.cause_keeps
    | with_reducible apply State.logFirm_keeps
    | with_reducible apply State.merge_keeps
    | (fail_if_no_progress (with_reducible apply Keeps.update; rfl; rfl; first | exact Nat.le_refl _ | exact Nat.le_succ _))
    | split

theorem execReportDone_keeps {s0 : State} {s : State}  (hkeep : Keeps s0 s) :
    Keeps.Outcome s0 (execReportDone s) := by
  unfold execReportDone
  repeat' first
    | with_reducible assumption
    | extract_lets
    | intro _
    | with_reducible apply Keeps.next
    | with_reducible exact Keeps.fault
    | with_reducible exact Keeps.refused
    | with_reducible apply Keeps.ite_outcome
    | with_reducible apply Keeps.ite
    | with_reducible apply State.whenFree_keeps
    | with_reducible apply State.endReport_keeps

theorem State.chooseBoot_keeps {s0 : State} {s : State}  (hkeep : Keeps s0 s) :
    Keeps s0 (State.chooseBoot s).1 := by
  unfold State.chooseBoot
  repeat' first
    | with_reducible assumption
    | extract_lets
    | intro _
    | with_reducible apply Keeps.ite
    | with_reducible apply Keeps.ite_fst
    | with_reducible apply State.writeBoot_keeps
    | (fail_if_no_progress (with_reducible apply Keeps.update; rfl; rfl; first | exact Nat.le_refl _ | exact Nat.le_succ _))
    | split

theorem State.bootSettings_keeps {s0 : State} {s : State} {b : Boot}  (hkeep : Keeps s0 s) :
    Keeps s0 (State.bootSettings s b) := by
  unfold State.bootSettings
  repeat' first
    | with_reducible assumption
    | extract_lets
    | intro _
    | with_reducible apply Keeps.ite
    | with_reducible apply Keeps.ite_fst
    | with_reducible apply State.wfs_keeps
    | (fail_if_no_progress (with_reducible apply Keeps.update; rfl; rfl; first | exact Nat.le_refl _ | exact Nat.le_succ _))

theorem State.bootSlots_keeps {s0 : State} {s : State} {b : Boot}  (hkeep : Keeps s0 s) :
    Keeps s0 (State.bootSlots s b) := by
  unfold State.bootSlots
  repeat' first
    | with_reducible assumption
    | extract_lets
    | intro _
    | with_reducible apply Keeps.ite
    | with_reducible apply Keeps.ite_fst
    | with_reducible apply State.showSlot_keeps
    | with_reducible apply Keeps.foldl

theorem State.bootImage_keeps {s0 : State} {s : State} {b : Boot}  (hkeep : Keeps s0 s) :
    Keeps s0 (State.bootImage s b) := by
  unfold State.bootImage
  repeat' first
    | with_reducible assumption
    | extract_lets
    | intro _
    | with_reducible apply Keeps.ite
    | with_reducible apply State.incBy_keeps
    | with_reducible apply State.wf_keeps
    | with_reducible apply State.wfs_keeps
    | with_reducible apply State.cause_keeps
    | with_reducible apply State.bootSettings_keeps
    | with_reducible apply State.bootSlots_keeps
    | with_reducible apply State.raiseFuses_keeps
    | with_reducible apply State.showBoot_keeps
    | (fail_if_no_progress (with_reducible apply Keeps.update; rfl; rfl; first | exact Nat.le_refl _ | exact Nat.le_succ _))

theorem State.raiseLost_keeps {s0 : State} {s : State}  (hkeep : Keeps s0 s) :
    Keeps s0 (State.raiseLost s) := by
  unfold State.raiseLost
  repeat' first
    | with_reducible assumption
    | extract_lets
    | intro _
    | with_reducible apply Keeps.ite
    | with_reducible apply State.wf64_keeps
    | with_reducible apply State.log_keeps
    | with_reducible apply State.warnWear_keeps
    | with_reducible apply Keeps.foldl

theorem State.queueEarly_keeps {s0 : State} {s : State} {early : List Entry} (hkeep : Keeps s0 s) :
    Keeps s0 (State.queueEarly s early) := by
  unfold State.queueEarly
  apply Keeps.update
  · rfl
  · rfl
  · exact Nat.le_refl _
  · exact hkeep

theorem State.startRecord_keeps {s0 : State} {s : State} {b : Boot}  (hkeep : Keeps s0 s) :
    Keeps s0 (State.startRecord s b) := by
  unfold State.startRecord
  repeat' first
    | with_reducible assumption
    | extract_lets
    | intro _
    | with_reducible apply Keeps.ite
    | with_reducible apply Keeps.ite_fst
    | with_reducible apply State.wf_keeps
    | with_reducible apply State.cause_keeps
    | with_reducible apply State.log_keeps
    | with_reducible apply State.logAs_keeps
    | with_reducible apply State.showRecord_keeps
    | with_reducible apply State.queueEarly_keeps
    | with_reducible apply State.raiseLost_keeps
    | with_reducible apply Keeps.foldl
    | with_reducible apply Keeps.foldl_fst
    | (fail_if_no_progress (with_reducible apply Keeps.update; rfl; rfl; first | exact Nat.le_refl _ | exact Nat.le_succ _))

end Sys2Proof.Machine
end

