-- ==== Sys2Proof/Laws/KeepsPower.lean ====
section
/-! SUPPORT. The operations of Machine/Power.lean keep what every command keeps. -/

namespace Sys2Proof.Machine

theorem State.panelsAfter_keeps {s0 : State} {s : State} {n : Nat}  (hkeep : Keeps s0 s) :
    Keeps s0 (State.panelsAfter s n) := by
  unfold State.panelsAfter
  repeat' first
    | with_reducible assumption
    | extract_lets
    | intro _
    | with_reducible apply Keeps.ite
    | with_reducible apply State.setReg_keeps
    | with_reducible apply State.wf_keeps
    | with_reducible apply State.setContent_keeps
    | with_reducible apply State.setPanel_keeps
    | with_reducible apply Keeps.foldl

theorem State.survivors_keeps {s0 s : State} (keep : Keeps s0 s) : Keeps s0 s.survivors :=
  keep.trans ⟨rfl, Nat.le_refl _, rfl, Nat.le_refl _, fun c => ⟨regsWf_filter c.regs _, memory_wf_filter c.mem _, List.Pairwise.nil⟩⟩

theorem State.restart_keeps {s0 : State} {s : State} {cause : Nat}  (hkeep : Keeps s0 s) :
    Keeps s0 (State.restart s cause) := by
  unfold State.restart
  repeat' first
    | with_reducible assumption
    | extract_lets
    | intro _
    | with_reducible apply Keeps.ite
    | with_reducible apply State.wf_keeps
    | with_reducible apply State.cause_keeps
    | with_reducible apply State.panelsAfter_keeps
    | with_reducible apply State.survivors_keeps
    | with_reducible apply Keeps.foldl

theorem execPowerOn_keeps {s0 : State} {s : State}  (hkeep : Keeps s0 s) :
    Keeps.Outcome s0 (execPowerOn s) := by
  unfold execPowerOn
  repeat' first
    | with_reducible assumption
    | extract_lets
    | intro _
    | with_reducible apply Keeps.next
    | with_reducible exact Keeps.fault
    | with_reducible exact Keeps.refused
    | with_reducible apply Keeps.ite_outcome
    | with_reducible apply Keeps.ite
    | with_reducible apply State.restart_keeps
    | (fail_if_no_progress (with_reducible apply Keeps.update; rfl; rfl; first | exact Nat.le_refl _ | exact Nat.le_succ _))

theorem execSupplyRemoved_keeps {s0 : State} {s : State}  (hkeep : Keeps s0 s) :
    Keeps.Outcome s0 (execSupplyRemoved s) := by
  unfold execSupplyRemoved
  repeat' first
    | with_reducible assumption
    | extract_lets
    | intro _
    | with_reducible apply Keeps.next
    | with_reducible exact Keeps.fault
    | with_reducible exact Keeps.refused
    | with_reducible apply Keeps.ite_outcome
    | with_reducible apply Keeps.ite
    | with_reducible apply State.restart_keeps
    | (fail_if_no_progress (with_reducible apply Keeps.update; rfl; rfl; first | exact Nat.le_refl _ | exact Nat.le_succ _))

theorem execPowerOnResetRelease_keeps {s0 : State} {straps : BitVec 2} {s : State}  (hkeep : Keeps s0 s) :
    Keeps.Outcome s0 (execPowerOnResetRelease straps s) := by
  unfold execPowerOnResetRelease
  repeat' first
    | with_reducible assumption
    | extract_lets
    | intro _
    | with_reducible apply Keeps.next
    | with_reducible exact Keeps.fault
    | with_reducible exact Keeps.refused
    | with_reducible apply Keeps.ite_outcome
    | with_reducible apply Keeps.ite
    | with_reducible apply State.setReg_keeps
    | with_reducible apply State.setDevState_keeps
    | (fail_if_no_progress (with_reducible apply Keeps.update; rfl; rfl; first | exact Nat.le_refl _ | exact Nat.le_succ _))

theorem State.enablePages_keeps {s0 : State} {s : State} {pages : List Nat}  (hkeep : Keeps s0 s) :
    Keeps s0 (State.enablePages s pages) := by
  unfold State.enablePages
  repeat' first
    | with_reducible assumption
    | extract_lets
    | intro _
    | with_reducible apply Keeps.ite
    | with_reducible apply State.setHdrBit_keeps
    | with_reducible apply Keeps.foldl

theorem State.linkNow_keeps {s0 : State} {s : State} {w : Word}  (hkeep : Keeps s0 s) :
    Keeps s0 (State.linkNow s w) := by
  unfold State.linkNow
  repeat' first
    | with_reducible assumption
    | extract_lets
    | intro _
    | with_reducible apply Keeps.ite
    | with_reducible apply State.setReg_keeps
    | with_reducible apply State.cause_keeps
    | with_reducible apply State.log_keeps

theorem State.trainCxl_keeps {s0 : State} {s : State}  (hkeep : Keeps s0 s) :
    Keeps s0 (State.trainCxl s) := by
  unfold State.trainCxl
  repeat' first
    | with_reducible assumption
    | extract_lets
    | intro _
    | with_reducible apply Keeps.ite
    | with_reducible apply State.linkNow_keeps

theorem execFirmwareBootDone_keeps {s0 : State} {s : State}  (hkeep : Keeps s0 s) :
    Keeps.Outcome s0 (execFirmwareBootDone s) := by
  unfold execFirmwareBootDone
  repeat' first
    | with_reducible assumption
    | extract_lets
    | intro _
    | with_reducible apply Keeps.next
    | with_reducible exact Keeps.fault
    | with_reducible exact Keeps.refused
    | with_reducible apply Keeps.ite_outcome
    | with_reducible apply Keeps.ite
    | with_reducible apply Keeps.ite_fst
    | with_reducible apply State.reset_keeps
    | with_reducible apply State.setDevState_keeps
    | with_reducible apply State.beginSweep_keeps
    | with_reducible apply State.calDone_keeps
    | with_reducible apply State.loadStore_keeps
    | with_reducible apply State.bootImage_keeps
    | with_reducible apply State.chooseBoot_keeps
    | with_reducible apply State.startRecord_keeps
    | with_reducible apply State.enablePages_keeps
    | with_reducible apply State.trainCxl_keeps
    | with_reducible apply Keeps.foldl
    | with_reducible apply Keeps.foldl_fst
    | (fail_if_no_progress (with_reducible apply Keeps.update; rfl; rfl; first | exact Nat.le_refl _ | exact Nat.le_succ _))
    | split

theorem State.dropWork_keeps {s0 : State} {s : State}  (hkeep : Keeps s0 s) :
    Keeps s0 (State.dropWork s) := by
  unfold State.dropWork
  repeat' first
    | with_reducible assumption
    | extract_lets
    | intro _
    | with_reducible apply Keeps.ite
    | with_reducible apply State.showGrants_keeps
    | with_reducible apply State.haltSnaps_keeps
    | (fail_if_no_progress (with_reducible apply Keeps.update; rfl; rfl; first | exact Nat.le_refl _ | exact Nat.le_succ _))

theorem State.wearAll_keeps {s0 : State} {s : State}  (hkeep : Keeps s0 s) :
    Keeps s0 (State.wearAll s) := by
  unfold State.wearAll
  repeat' first
    | with_reducible assumption
    | extract_lets
    | intro _
    | with_reducible apply Keeps.ite
    | with_reducible apply State.wearEntry_keeps
    | with_reducible apply Keeps.foldl

theorem State.clearEngines_keeps {s0 s : State} (keep : Keeps s0 s) : Keeps s0 s.clearEngines := by
  unfold State.clearEngines
  extract_lets t
  have held : Keeps s0 t := State.wf_keeps (State.wf_keeps keep)
  exact held.trans ⟨rfl, Nat.le_refl _, rfl, Nat.le_refl _, fun c => ⟨regsWf_filter c.regs _, memory_wf_filter c.mem _, c.seals⟩⟩

theorem State.enginesReset_keeps {s0 : State} {s : State}  (hkeep : Keeps s0 s) :
    Keeps s0 (State.enginesReset s) := by
  unfold State.enginesReset
  repeat' first
    | with_reducible assumption
    | extract_lets
    | intro _
    | with_reducible apply Keeps.ite
    | with_reducible apply State.wfs_keeps
    | with_reducible apply State.commitAll_keeps
    | with_reducible apply State.setDevState_keeps
    | with_reducible apply State.showGrants_keeps
    | with_reducible apply State.haltSnaps_keeps
    | with_reducible apply State.setDies_keeps
    | with_reducible apply State.clearEngines_keeps
    | with_reducible apply State.dropWork_keeps
    | with_reducible apply State.enablePages_keeps
    | with_reducible apply State.panelsAfter_keeps
    | with_reducible apply State.wearAll_keeps
    | with_reducible apply Keeps.foldl
    | (fail_if_no_progress (with_reducible apply Keeps.update; rfl; rfl; first | exact Nat.le_refl _ | exact Nat.le_succ _))

theorem State.onReset_keeps {s0 : State} {s : State} {view : View} {k : State → State} (hk : ∀ y0, Keeps s0 y0 → Keeps s0 (k y0)) (hkeep : Keeps s0 s) :
    Keeps s0 (State.onReset s view k) := by
  unfold State.onReset
  repeat' first
    | with_reducible assumption
    | extract_lets
    | intro _
    | with_reducible apply Keeps.ite
    | with_reducible apply hk

theorem execResetCtlEngines_keeps {s0 : State} {view : View} {s : State}  (hkeep : Keeps s0 s) :
    Keeps.Outcome s0 (execResetCtlEngines view s) := by
  unfold execResetCtlEngines
  repeat' first
    | with_reducible assumption
    | extract_lets
    | intro _
    | with_reducible apply Keeps.next
    | with_reducible exact Keeps.fault
    | with_reducible exact Keeps.refused
    | with_reducible apply Keeps.ite_outcome
    | with_reducible apply Keeps.ite
    | with_reducible apply State.enginesReset_keeps
    | with_reducible apply State.onReset_keeps

theorem State.startStop_keeps {s0 : State} {s : State} {forReset : Bool}  (hkeep : Keeps s0 s) :
    Keeps s0 (State.startStop s forReset) := by
  unfold State.startStop
  repeat' first
    | with_reducible assumption
    | extract_lets
    | intro _
    | with_reducible apply Keeps.ite
    | with_reducible apply State.log_keeps
    | with_reducible apply State.setDevState_keeps
    | with_reducible apply State.disableQueue_keeps
    | with_reducible apply Keeps.foldl
    | (fail_if_no_progress (with_reducible apply Keeps.update; rfl; rfl; first | exact Nat.le_refl _ | exact Nat.le_succ _))

theorem State.moduleReset_keeps {s0 : State} {s : State}  (hkeep : Keeps s0 s) :
    Keeps s0 (State.moduleReset s) := by
  unfold State.moduleReset
  repeat' first
    | with_reducible assumption
    | extract_lets
    | intro _
    | with_reducible apply Keeps.ite
    | with_reducible apply State.restart_keeps
    | with_reducible apply State.startStop_keeps
    | (fail_if_no_progress (with_reducible apply Keeps.update; rfl; rfl; first | exact Nat.le_refl _ | exact Nat.le_succ _))

theorem execResetCtlModule_keeps {s0 : State} {view : View} {s : State}  (hkeep : Keeps s0 s) :
    Keeps.Outcome s0 (execResetCtlModule view s) := by
  unfold execResetCtlModule
  repeat' first
    | with_reducible assumption
    | extract_lets
    | intro _
    | with_reducible apply Keeps.next
    | with_reducible exact Keeps.fault
    | with_reducible exact Keeps.refused
    | with_reducible apply Keeps.ite_outcome
    | with_reducible apply Keeps.ite
    | with_reducible apply State.moduleReset_keeps
    | with_reducible apply State.onReset_keeps

theorem execStopCtlStart_keeps {s0 : State} {view : View} {s : State}  (hkeep : Keeps s0 s) :
    Keeps.Outcome s0 (execStopCtlStart view s) := by
  unfold execStopCtlStart
  repeat' first
    | with_reducible assumption
    | extract_lets
    | intro _
    | with_reducible apply Keeps.next
    | with_reducible exact Keeps.fault
    | with_reducible exact Keeps.refused
    | with_reducible apply Keeps.ite_outcome
    | with_reducible apply Keeps.ite
    | with_reducible apply State.onWrite_keeps
    | with_reducible apply State.startStop_keeps

theorem State.endStop_keeps {s0 : State} {s : State}  (hkeep : Keeps s0 s) :
    Keeps s0 (State.endStop s) := by
  unfold State.endStop
  repeat' first
    | with_reducible assumption
    | extract_lets
    | intro _
    | with_reducible apply Keeps.ite
    | with_reducible apply State.wf_keeps
    | with_reducible apply State.cause_keeps
    | with_reducible apply State.logFirm_keeps
    | with_reducible apply State.dropWork_keeps
    | with_reducible apply State.restart_keeps
    | with_reducible apply State.wearAll_keeps
    | (fail_if_no_progress (with_reducible apply Keeps.update; rfl; rfl; first | exact Nat.le_refl _ | exact Nat.le_succ _))

theorem execStopSequenceDone_keeps {s0 : State} {s : State}  (hkeep : Keeps s0 s) :
    Keeps.Outcome s0 (execStopSequenceDone s) := by
  unfold execStopSequenceDone
  repeat' first
    | with_reducible assumption
    | extract_lets
    | intro _
    | with_reducible apply Keeps.next
    | with_reducible exact Keeps.fault
    | with_reducible exact Keeps.refused
    | with_reducible apply Keeps.ite_outcome
    | with_reducible apply Keeps.ite
    | with_reducible apply State.endStop_keeps

theorem execResetN_keeps {s0 : State} {s : State}  (hkeep : Keeps s0 s) :
    Keeps.Outcome s0 (execResetN s) := by
  unfold execResetN
  repeat' first
    | with_reducible assumption
    | extract_lets
    | intro _
    | with_reducible apply Keeps.next
    | with_reducible exact Keeps.fault
    | with_reducible exact Keeps.refused
    | with_reducible apply Keeps.ite_outcome
    | with_reducible apply Keeps.ite
    | with_reducible apply State.restart_keeps

theorem execPerst_keeps {s0 : State} {s : State}  (hkeep : Keeps s0 s) :
    Keeps.Outcome s0 (execPerst s) := by
  unfold execPerst
  repeat' first
    | with_reducible assumption
    | extract_lets
    | intro _
    | with_reducible apply Keeps.next
    | with_reducible exact Keeps.fault
    | with_reducible exact Keeps.refused
    | with_reducible apply Keeps.ite_outcome
    | with_reducible apply Keeps.ite
    | with_reducible apply State.restart_keeps

theorem execPllLockLost_keeps {s0 : State} {b : Fin 25} {s : State}  (hkeep : Keeps s0 s) :
    Keeps.Outcome s0 (execPllLockLost b s) := by
  unfold execPllLockLost
  repeat' first
    | with_reducible assumption
    | extract_lets
    | intro _
    | with_reducible apply Keeps.next
    | with_reducible exact Keeps.fault
    | with_reducible exact Keeps.refused
    | with_reducible apply Keeps.ite_outcome
    | with_reducible apply Keeps.ite
    | with_reducible apply State.inc_keeps
    | with_reducible apply State.setReg_keeps
    | with_reducible apply State.cause_keeps
    | with_reducible apply State.errDetail_keeps
    | with_reducible apply State.log_keeps

theorem execPllLockRegained_keeps {s0 : State} {b : Fin 25} {s : State}  (hkeep : Keeps s0 s) :
    Keeps.Outcome s0 (execPllLockRegained b s) := by
  unfold execPllLockRegained
  repeat' first
    | with_reducible assumption
    | extract_lets
    | intro _
    | with_reducible apply Keeps.next
    | with_reducible exact Keeps.fault
    | with_reducible exact Keeps.refused
    | with_reducible apply Keeps.ite_outcome
    | with_reducible apply Keeps.ite
    | with_reducible apply State.setReg_keeps

theorem execGovernorLimiting_keeps {s0 : State} {on : Bool} {s : State}  (hkeep : Keeps s0 s) :
    Keeps.Outcome s0 (execGovernorLimiting on s) := by
  unfold execGovernorLimiting
  repeat' first
    | with_reducible assumption
    | extract_lets
    | intro _
    | with_reducible apply Keeps.next
    | with_reducible exact Keeps.fault
    | with_reducible exact Keeps.refused
    | with_reducible apply Keeps.ite_outcome
    | with_reducible apply Keeps.ite
    | with_reducible apply State.wf_keeps
    | with_reducible apply State.cause_keeps
    | with_reducible apply State.log_keeps

theorem execPowerCountClear_keeps {s0 : State} {view : View} {s : State}  (hkeep : Keeps s0 s) :
    Keeps.Outcome s0 (execPowerCountClear view s) := by
  unfold execPowerCountClear
  repeat' first
    | with_reducible assumption
    | extract_lets
    | intro _
    | with_reducible apply Keeps.next
    | with_reducible exact Keeps.fault
    | with_reducible exact Keeps.refused
    | with_reducible apply Keeps.ite_outcome
    | with_reducible apply Keeps.ite
    | with_reducible apply State.onWrite_keeps
    | with_reducible apply State.clearCounts_keeps

end Sys2Proof.Machine
end

