-- ==== Sys2Proof/Laws/KeepsPins.lean ====
section
/-! SUPPORT. The operations of Machine/Pins.lean keep what every command keeps. -/

namespace Sys2Proof.Machine

theorem execSmbusReadWord_keeps {s0 : State} {addr : BitVec 7} {cmd : Byte} {pec : Bool} {s : State}  (hkeep : Keeps s0 s) :
    Keeps.Outcome s0 (execSmbusReadWord addr cmd pec s) := by
  unfold execSmbusReadWord
  repeat' first
    | with_reducible assumption
    | extract_lets
    | intro _
    | with_reducible apply Keeps.next
    | with_reducible exact Keeps.fault
    | with_reducible exact Keeps.refused
    | with_reducible apply Keeps.ite_outcome
    | with_reducible apply Keeps.ite
    | (fail_if_no_progress (with_reducible apply Keeps.update; rfl; rfl; first | exact Nat.le_refl _ | exact Nat.le_succ _))

theorem State.tapTakes_keeps {s0 : State} {s : State} {i : TapInstr}  (hkeep : Keeps s0 s) :
    Keeps s0 (State.tapTakes s i) := by
  unfold State.tapTakes
  repeat' first
    | with_reducible assumption
    | extract_lets
    | intro _
    | with_reducible apply Keeps.ite
    | with_reducible apply State.restart_keeps
    | (fail_if_no_progress (with_reducible apply Keeps.update; rfl; rfl; first | exact Nat.le_refl _ | exact Nat.le_succ _))

theorem execIdcode_keeps {s0 : State} {s : State}  (hkeep : Keeps s0 s) :
    Keeps.Outcome s0 (execIdcode s) := by
  unfold execIdcode
  repeat' first
    | with_reducible assumption
    | extract_lets
    | intro _
    | with_reducible apply Keeps.next
    | with_reducible exact Keeps.fault
    | with_reducible exact Keeps.refused
    | with_reducible apply Keeps.ite_outcome
    | with_reducible apply Keeps.ite
    | with_reducible apply State.tapTakes_keeps
    | (fail_if_no_progress (with_reducible apply Keeps.update; rfl; rfl; first | exact Nat.le_refl _ | exact Nat.le_succ _))

theorem execBypass_keeps {s0 : State} {_code : Byte} {s : State}  (hkeep : Keeps s0 s) :
    Keeps.Outcome s0 (execBypass _code s) := by
  unfold execBypass
  repeat' first
    | with_reducible assumption
    | extract_lets
    | intro _
    | with_reducible apply Keeps.next
    | with_reducible exact Keeps.fault
    | with_reducible exact Keeps.refused
    | with_reducible apply Keeps.ite_outcome
    | with_reducible apply Keeps.ite
    | with_reducible apply State.tapTakes_keeps
    | (fail_if_no_progress (with_reducible apply Keeps.update; rfl; rfl; first | exact Nat.le_refl _ | exact Nat.le_succ _))

theorem execSamplePreload_keeps {s0 : State} {preload : List Bool} {s : State}  (hkeep : Keeps s0 s) :
    Keeps.Outcome s0 (execSamplePreload preload s) := by
  unfold execSamplePreload
  repeat' first
    | with_reducible assumption
    | extract_lets
    | intro _
    | with_reducible apply Keeps.next
    | with_reducible exact Keeps.fault
    | with_reducible exact Keeps.refused
    | with_reducible apply Keeps.ite_outcome
    | with_reducible apply Keeps.ite
    | with_reducible apply Keeps.ite_fst
    | with_reducible apply State.draw_keeps
    | with_reducible apply State.tapTakes_keeps
    | (fail_if_no_progress (with_reducible apply Keeps.update; rfl; rfl; first | exact Nat.le_refl _ | exact Nat.le_succ _))

theorem execExtest_keeps {s0 : State} {s : State}  (hkeep : Keeps s0 s) :
    Keeps.Outcome s0 (execExtest s) := by
  unfold execExtest
  repeat' first
    | with_reducible assumption
    | extract_lets
    | intro _
    | with_reducible apply Keeps.next
    | with_reducible exact Keeps.fault
    | with_reducible exact Keeps.refused
    | with_reducible apply Keeps.ite_outcome
    | with_reducible apply Keeps.ite
    | with_reducible apply State.disableQueue_keeps
    | with_reducible apply State.tapTakes_keeps
    | with_reducible apply Keeps.foldl

theorem execExtestExit_keeps {s0 : State} {s : State}  (hkeep : Keeps s0 s) :
    Keeps.Outcome s0 (execExtestExit s) := by
  unfold execExtestExit
  repeat' first
    | with_reducible assumption
    | extract_lets
    | intro _
    | with_reducible apply Keeps.next
    | with_reducible exact Keeps.fault
    | with_reducible exact Keeps.refused
    | with_reducible apply Keeps.ite_outcome
    | with_reducible apply Keeps.ite
    | with_reducible apply State.tapTakes_keeps

end Sys2Proof.Machine
end

