-- ==== Sys2Proof/Laws/KeepsEvents.lean ====
section
/-! SUPPORT. The operations of Machine/Events.lean keep what every command keeps. -/

namespace Sys2Proof.Machine

theorem State.refreshDue_keeps {s0 : State} {s : State} {n : Nat}  (hkeep : Keeps s0 s) :
    Keeps s0 (State.refreshDue s n) := by
  unfold State.refreshDue
  repeat' first
    | with_reducible assumption
    | extract_lets
    | intro _
    | with_reducible apply Keeps.ite
    | with_reducible apply State.setPanel_keeps
    | with_reducible apply Keeps.foldl

theorem State.coordReset_keeps {s0 : State} {s : State} {i : Nat} {scope : Nat}  (hkeep : Keeps s0 s) :
    Keeps s0 (State.coordReset s i scope) := by
  unfold State.coordReset
  repeat' first
    | with_reducible assumption
    | extract_lets
    | intro _
    | with_reducible apply Keeps.ite
    | with_reducible apply State.logFirm_keeps
    | with_reducible apply State.enginesReset_keeps
    | with_reducible apply State.moduleReset_keeps

theorem State.act_keeps {s0 : State} {s : State} {i : Nat} {e : Event}  (hkeep : Keeps s0 s) :
    Keeps s0 (State.act s i e) := by
  unfold State.act
  repeat' first
    | with_reducible assumption
    | extract_lets
    | intro _
    | with_reducible apply Keeps.ite
    | with_reducible apply State.addButton_keeps
    | with_reducible apply State.settle_keeps
    | with_reducible apply State.collDeadline_keeps
    | with_reducible apply State.testSlot_keeps
    | with_reducible apply State.seqStart_keeps
    | with_reducible apply State.coordReset_keeps
    | with_reducible apply State.refreshDue_keeps
    | (fail_if_no_progress (with_reducible apply Keeps.update; rfl; rfl; first | exact Nat.le_refl _ | exact Nat.le_succ _))
    | split

theorem State.fire_keeps {s0 : State} {s : State} {i : Nat} {e : Event}  (hkeep : Keeps s0 s) :
    Keeps s0 (State.fire s i e) := by
  unfold State.fire
  repeat' first
    | with_reducible assumption
    | extract_lets
    | intro _
    | with_reducible apply Keeps.ite
    | with_reducible apply State.inc_keeps
    | with_reducible apply State.cause_keeps
    | with_reducible apply State.setEvent_keeps
    | with_reducible apply State.act_keeps

theorem execEventFire_keeps {s0 : State} {s : State}  (hkeep : Keeps s0 s) :
    Keeps.Outcome s0 (execEventFire s) := by
  unfold execEventFire
  repeat' first
    | with_reducible assumption
    | extract_lets
    | intro _
    | with_reducible apply Keeps.next
    | with_reducible exact Keeps.fault
    | with_reducible exact Keeps.refused
    | with_reducible apply Keeps.ite_outcome
    | with_reducible apply Keeps.ite
    | with_reducible apply Keeps.ite_fst
    | with_reducible apply State.fire_keeps
    | (fail_if_no_progress (with_reducible apply Keeps.update; rfl; rfl; first | exact Nat.le_refl _ | exact Nat.le_succ _))
    | split

theorem State.fireTo_keeps {s0 : State} {fuel : Nat} {s : State} {i : Nat}  (hkeep : Keeps s0 s) :
    Keeps s0 (State.fireTo fuel s i) := by
  induction fuel generalizing s i with
  | zero =>
   unfold State.fireTo
   first | exact hkeep | (with_reducible apply State.setArrayRun_keeps; exact hkeep)
  | succ k ih =>
   unfold State.fireTo
   repeat' first
    | with_reducible assumption
    | with_reducible apply ih
    | extract_lets
    | intro _
    | with_reducible apply Keeps.ite
    | with_reducible apply Keeps.ite_fst
    | with_reducible apply State.fire_keeps
    | (fail_if_no_progress (with_reducible apply Keeps.update; rfl; rfl; first | exact Nat.le_refl _ | exact Nat.le_succ _))
    | split

theorem State.firedFirst_keeps {s0 : State} {s : State} {i : Nat}  (hkeep : Keeps s0 s) :
    Keeps s0 (State.firedFirst s i) := by
  unfold State.firedFirst
  repeat' first
    | with_reducible assumption
    | extract_lets
    | intro _
    | with_reducible apply Keeps.ite
    | with_reducible apply State.fireTo_keeps

theorem State.armStaged_keeps {s0 : State} {s : State} {view : View}  (hkeep : Keeps s0 s) :
    Keeps s0 (State.armStaged s view) := by
  unfold State.armStaged
  repeat' first
    | with_reducible assumption
    | extract_lets
    | intro _
    | with_reducible apply Keeps.ite
    | with_reducible apply Keeps.ite_fst
    | with_reducible apply State.armEntry_keeps
    | with_reducible apply State.evtResult_keeps
    | with_reducible apply State.noteParam_keeps
    | with_reducible apply State.firedFirst_keeps

theorem execEvtArm_keeps {s0 : State} {view : View} {s : State}  (hkeep : Keeps s0 s) :
    Keeps.Outcome s0 (execEvtArm view s) := by
  unfold execEvtArm
  repeat' first
    | with_reducible assumption
    | extract_lets
    | intro _
    | with_reducible apply Keeps.next
    | with_reducible exact Keeps.fault
    | with_reducible exact Keeps.refused
    | with_reducible apply Keeps.ite_outcome
    | with_reducible apply Keeps.ite
    | with_reducible apply State.onWrite_keeps
    | with_reducible apply State.armStaged_keeps

theorem execEvtDisarm_keeps {s0 : State} {view : View} {s : State}  (hkeep : Keeps s0 s) :
    Keeps.Outcome s0 (execEvtDisarm view s) := by
  unfold execEvtDisarm
  repeat' first
    | with_reducible assumption
    | extract_lets
    | intro _
    | with_reducible apply Keeps.next
    | with_reducible exact Keeps.fault
    | with_reducible exact Keeps.refused
    | with_reducible apply Keeps.ite_outcome
    | with_reducible apply Keeps.ite
    | with_reducible apply State.onWrite_keeps
    | with_reducible apply State.evtResult_keeps
    | with_reducible apply State.refuseEvent_keeps
    | with_reducible apply State.setEvent_keeps
    | with_reducible apply State.firedFirst_keeps

theorem State.armSchedule_keeps {s0 : State} {s : State} {m : List Byte}  (hkeep : Keeps s0 s) :
    Keeps s0 (State.armSchedule s m) := by
  unfold State.armSchedule
  repeat' first
    | with_reducible assumption
    | extract_lets
    | intro _
    | with_reducible apply Keeps.ite
    | with_reducible apply Keeps.ite_fst
    | with_reducible apply State.armEntry_keeps
    | with_reducible apply State.refuseEvent_keeps
    | with_reducible apply State.firedFirst_keeps

theorem execSchedule_keeps {s0 : State} {n : PortNo} {s : State}  (hkeep : Keeps s0 s) :
    Keeps.Outcome s0 (execSchedule n s) := by
  unfold execSchedule
  repeat' first
    | with_reducible assumption
    | extract_lets
    | intro _
    | with_reducible apply Keeps.next
    | with_reducible exact Keeps.fault
    | with_reducible exact Keeps.refused
    | with_reducible apply Keeps.ite_outcome
    | with_reducible apply Keeps.ite
    | with_reducible apply State.broadcast_keeps
    | with_reducible apply State.receive_keeps
    | with_reducible apply State.armSchedule_keeps

theorem execSchedCmdSend_keeps {s0 : State} {view : View} {s : State}  (hkeep : Keeps s0 s) :
    Keeps.Outcome s0 (execSchedCmdSend view s) := by
  unfold execSchedCmdSend
  repeat' first
    | with_reducible assumption
    | extract_lets
    | intro _
    | with_reducible apply Keeps.next
    | with_reducible exact Keeps.fault
    | with_reducible exact Keeps.refused
    | with_reducible apply Keeps.ite_outcome
    | with_reducible apply Keeps.ite
    | with_reducible apply State.onWrite_keeps
    | with_reducible apply State.broadcast_keeps
    | with_reducible apply State.armStaged_keeps

end Sys2Proof.Machine
end

