-- ==== Sys2Proof/Laws/KeepsComplete.lean ====
section
/-! SUPPORT. The operations of Machine/Complete.lean keep what every command keeps. -/

namespace Sys2Proof.Machine

theorem State.endHanded_keeps {s0 : State} {s : State} {t : Task} {st : Nat} {detail : Nat} {event : Nat} {errDetail : Nat}  (hkeep : Keeps s0 s) :
    Keeps s0 (State.endHanded s t st detail event errDetail) := by
  unfold State.endHanded
  repeat' first
    | with_reducible assumption
    | extract_lets
    | intro _
    | with_reducible apply Keeps.ite
    | with_reducible apply State.errDetail_keeps
    | with_reducible apply State.finish_keeps
    | with_reducible apply State.giveUp_keeps
    | with_reducible apply State.dueRetirement_keeps
    | with_reducible apply State.pumpArrays_keeps
    | with_reducible apply Keeps.foldl

theorem execTaskCompletion_keeps {s0 : State} {n : Nat} {s : State}  (hkeep : Keeps s0 s) :
    Keeps.Outcome s0 (execTaskCompletion n s) := by
  unfold execTaskCompletion
  repeat' first
    | with_reducible assumption
    | extract_lets
    | intro _
    | with_reducible apply Keeps.next
    | with_reducible exact Keeps.fault
    | with_reducible exact Keeps.refused
    | with_reducible apply Keeps.ite_outcome
    | with_reducible apply Keeps.ite
    | with_reducible apply State.whenFree_keeps
    | with_reducible apply State.errDetail_keeps
    | with_reducible apply State.endHanded_keeps
    | (fail_if_no_progress (with_reducible apply Keeps.update; rfl; rfl; first | exact Nat.le_refl _ | exact Nat.le_succ _))
    | split

theorem execMeasuringPrepassDone_keeps {s0 : State} {n : Nat} {s : State}  (hkeep : Keeps s0 s) :
    Keeps.Outcome s0 (execMeasuringPrepassDone n s) := by
  unfold execMeasuringPrepassDone
  repeat' first
    | with_reducible assumption
    | extract_lets
    | intro _
    | with_reducible apply Keeps.next
    | with_reducible exact Keeps.fault
    | with_reducible exact Keeps.refused
    | with_reducible apply Keeps.ite_outcome
    | with_reducible apply Keeps.ite
    | with_reducible apply Keeps.ite_fst
    | with_reducible apply State.whenFree_keeps
    | with_reducible apply State.onDie_keeps
    | with_reducible apply State.arrayMeasured_keeps
    | with_reducible apply State.onArrayDies_keeps
    | with_reducible apply State.gradMeasured_keeps
    | with_reducible apply State.vecMeasured_keeps
    | (fail_if_no_progress (with_reducible apply Keeps.update; rfl; rfl; first | exact Nat.le_refl _ | exact Nat.le_succ _))
    | split

end Sys2Proof.Machine
end

