-- ==== Sys2Proof/Laws/KeepsReset.lean ====
section
/-! SUPPORT. The operations of Machine/Reset.lean keep what every command keeps. -/

namespace Sys2Proof.Machine

theorem State.resetRegs_keeps {s0 s : State} {page : Nat} {keep : Nat → Bool} (hkeep : Keeps s0 s) :
    Keeps s0 (s.resetRegs page keep) :=
  hkeep.trans ⟨rfl, Nat.le_refl _, rfl, Nat.le_refl _, fun c => ⟨regsWf_filter c.regs _, c.mem, c.seals⟩⟩

theorem State.resetHeader_keeps {s0 s : State} {page : Nat} (keep : Keeps s0 s) : Keeps s0 (s.resetHeader page) :=
  State.setHdrBit_keeps (keep.trans ⟨rfl, Nat.le_refl _, rfl, Nat.le_refl _, fun c => ⟨regsWf_filter c.regs _, c.mem, c.seals⟩⟩)

theorem State.stopLoad_keeps {s0 : State} {s : State} {t : Task}  (hkeep : Keeps s0 s) :
    Keeps s0 (State.stopLoad s t) := by
  unfold State.stopLoad
  repeat' first
    | with_reducible assumption
    | extract_lets
    | intro _
    | with_reducible apply Keeps.ite
    | with_reducible apply State.endTask_keeps
    | with_reducible apply State.invalidate_keeps
    | with_reducible apply State.dropLoad_keeps
    | with_reducible apply Keeps.foldl
    | (fail_if_no_progress (with_reducible apply Keeps.update; rfl; rfl; first | exact Nat.le_refl _ | exact Nat.le_succ _))
    | split

theorem State.stopArray_keeps {s0 : State} {s : State} {t : Task}  (hkeep : Keeps s0 s) :
    Keeps s0 (State.stopArray s t) := by
  unfold State.stopArray
  repeat' first
    | with_reducible assumption
    | extract_lets
    | intro _
    | with_reducible apply Keeps.ite
    | with_reducible apply State.endArray_keeps
    | (fail_if_no_progress (with_reducible apply Keeps.update; rfl; rfl; first | exact Nat.le_refl _ | exact Nat.le_succ _))
    | split

theorem State.stopGrad_keeps {s0 : State} {s : State} {t : Task}  (hkeep : Keeps s0 s) :
    Keeps s0 (State.stopGrad s t) := by
  unfold State.stopGrad
  repeat' first
    | with_reducible assumption
    | extract_lets
    | intro _
    | with_reducible apply Keeps.ite
    | with_reducible apply State.haltGrad_keeps
    | (fail_if_no_progress (with_reducible apply Keeps.update; rfl; rfl; first | exact Nat.le_refl _ | exact Nat.le_succ _))
    | split

theorem State.stopVec_keeps {s0 : State} {s : State} {t : Task}  (hkeep : Keeps s0 s) :
    Keeps s0 (State.stopVec s t) := by
  unfold State.stopVec
  repeat' first
    | with_reducible assumption
    | extract_lets
    | intro _
    | with_reducible apply Keeps.ite
    | with_reducible apply State.haltVec_keeps
    | (fail_if_no_progress (with_reducible apply Keeps.update; rfl; rfl; first | exact Nat.le_refl _ | exact Nat.le_succ _))
    | split

theorem State.stopUpd_keeps {s0 : State} {s : State} {t : Task}  (hkeep : Keeps s0 s) :
    Keeps s0 (State.stopUpd s t) := by
  unfold State.stopUpd
  repeat' first
    | with_reducible assumption
    | extract_lets
    | intro _
    | with_reducible apply Keeps.ite
    | with_reducible apply Keeps.ite_fst
    | with_reducible apply State.abortUpd_keeps
    | (fail_if_no_progress (with_reducible apply Keeps.update; rfl; rfl; first | exact Nat.le_refl _ | exact Nat.le_succ _))
    | split

theorem State.stopTxn_keeps {s0 : State} {s : State} {t : Task}  (hkeep : Keeps s0 s) :
    Keeps s0 (State.stopTxn s t) := by
  unfold State.stopTxn
  repeat' first
    | with_reducible assumption
    | extract_lets
    | intro _
    | with_reducible apply Keeps.ite
    | with_reducible apply State.endTxn_keeps
    | (fail_if_no_progress (with_reducible apply Keeps.update; rfl; rfl; first | exact Nat.le_refl _ | exact Nat.le_succ _))
    | split

theorem State.stopSnap_keeps {s0 : State} {s : State} {t : Task}  (hkeep : Keeps s0 s) :
    Keeps s0 (State.stopSnap s t) := by
  unfold State.stopSnap
  repeat' first
    | with_reducible assumption
    | extract_lets
    | intro _
    | with_reducible apply Keeps.ite
    | with_reducible apply State.failSnap_keeps
    | with_reducible apply State.failRestore_keeps
    | (fail_if_no_progress (with_reducible apply Keeps.update; rfl; rfl; first | exact Nat.le_refl _ | exact Nat.le_succ _))
    | split

theorem State.stopGather_keeps {s0 : State} {s : State} {n : Nat}  (hkeep : Keeps s0 s) :
    Keeps s0 (State.stopGather s n) := by
  unfold State.stopGather
  repeat' first
    | with_reducible assumption
    | extract_lets
    | intro _
    | with_reducible apply Keeps.ite
    | (fail_if_no_progress (with_reducible apply Keeps.update; rfl; rfl; first | exact Nat.le_refl _ | exact Nat.le_succ _))

theorem State.stopTask_keeps {s0 : State} {s : State} {t : Task}  (hkeep : Keeps s0 s) :
    Keeps s0 (State.stopTask s t) := by
  unfold State.stopTask
  repeat' first
    | with_reducible assumption
    | extract_lets
    | intro _
    | with_reducible apply Keeps.ite
    | with_reducible apply State.stopColl_keeps
    | with_reducible apply State.endDigest_keeps
    | with_reducible apply State.stopArray_keeps
    | with_reducible apply State.stopGrad_keeps
    | with_reducible apply State.stopLoad_keeps
    | with_reducible apply State.stopSnap_keeps
    | with_reducible apply State.stopTxn_keeps
    | with_reducible apply State.stopUpd_keeps
    | with_reducible apply State.stopVec_keeps
    | (fail_if_no_progress (with_reducible apply Keeps.update; rfl; rfl; first | exact Nat.le_refl _ | exact Nat.le_succ _))
    | split

theorem State.stopTasks_keeps {s0 : State} {s : State} {sel : Task → Bool}  (hkeep : Keeps s0 s) :
    Keeps s0 (State.stopTasks s sel) := by
  unfold State.stopTasks
  repeat' first
    | with_reducible assumption
    | extract_lets
    | intro _
    | with_reducible apply Keeps.ite
    | with_reducible apply State.stopTask_keeps
    | with_reducible apply Keeps.foldl

theorem State.resetPanel_keeps {s0 : State} {s : State} {page : Nat}  (hkeep : Keeps s0 s) :
    Keeps s0 (State.resetPanel s page) := by
  unfold State.resetPanel
  repeat' first
    | with_reducible assumption
    | extract_lets
    | intro _
    | with_reducible apply Keeps.ite
    | with_reducible apply State.cause_keeps
    | with_reducible apply State.invalidate_keeps
    | with_reducible apply State.dropLoad_keeps
    | with_reducible apply State.dueRetirement_keeps
    | with_reducible apply State.fillEnds_keeps
    | with_reducible apply Moved.fill_keeps
    | with_reducible apply State.resetRegs_keeps
    | with_reducible apply State.stopTasks_keeps

theorem State.resetArrayDie_keeps {s0 : State} {s : State} {n : Nat}  (hkeep : Keeps s0 s) :
    Keeps s0 (State.resetArrayDie s n) := by
  unfold State.resetArrayDie
  repeat' first
    | with_reducible assumption
    | extract_lets
    | intro _
    | with_reducible apply Keeps.ite
    | with_reducible apply State.release_keeps
    | with_reducible apply State.wearEntry_keeps
    | with_reducible apply State.setDies_keeps
    | with_reducible apply State.panelsAfter_keeps
    | with_reducible apply State.resetHeader_keeps
    | with_reducible apply State.resetRegs_keeps
    | with_reducible apply State.stopTasks_keeps
    | with_reducible apply Keeps.foldl
    | (fail_if_no_progress (with_reducible apply Keeps.update; rfl; rfl; first | exact Nat.le_refl _ | exact Nat.le_succ _))

theorem State.dropTest_keeps {s0 : State} {s : State} {page : Nat}  (hkeep : Keeps s0 s) :
    Keeps s0 (State.dropTest s page) := by
  unfold State.dropTest
  repeat' first
    | with_reducible assumption
    | extract_lets
    | intro _
    | with_reducible apply Keeps.ite
    | with_reducible apply State.returnCore_keeps
    | (fail_if_no_progress (with_reducible apply Keeps.update; rfl; rfl; first | exact Nat.le_refl _ | exact Nat.le_succ _))
    | split

theorem State.resetGradCore_keeps {s0 : State} {s : State} {q : Nat} {c : Nat}  (hkeep : Keeps s0 s) :
    Keeps s0 (State.resetGradCore s q c) := by
  unfold State.resetGradCore
  repeat' first
    | with_reducible assumption
    | extract_lets
    | intro _
    | with_reducible apply Keeps.ite
    | with_reducible apply State.pumpGrad_keeps
    | with_reducible apply State.dropTest_keeps
    | with_reducible apply State.resetRegs_keeps
    | with_reducible apply State.stopTasks_keeps

theorem State.resetVecCore_keeps {s0 : State} {s : State} {q : Nat} {c : Nat}  (hkeep : Keeps s0 s) :
    Keeps s0 (State.resetVecCore s q c) := by
  unfold State.resetVecCore
  repeat' first
    | with_reducible assumption
    | extract_lets
    | intro _
    | with_reducible apply Keeps.ite
    | with_reducible apply State.pumpVec_keeps
    | with_reducible apply State.dropTest_keeps
    | with_reducible apply State.resetRegs_keeps
    | with_reducible apply State.stopTasks_keeps
    | (fail_if_no_progress (with_reducible apply Keeps.update; rfl; rfl; first | exact Nat.le_refl _ | exact Nat.le_succ _))

theorem State.resetGradDie_keeps {s0 : State} {s : State} {q : Nat}  (hkeep : Keeps s0 s) :
    Keeps s0 (State.resetGradDie s q) := by
  unfold State.resetGradDie
  repeat' first
    | with_reducible assumption
    | extract_lets
    | intro _
    | with_reducible apply Keeps.ite
    | with_reducible apply State.setHdrBit_keeps
    | with_reducible apply State.resetGradCore_keeps
    | with_reducible apply State.resetHeader_keeps
    | with_reducible apply State.resetRegs_keeps
    | with_reducible apply Keeps.foldl

theorem State.resetWatch_keeps {s0 : State} {s : State} {q : Nat}  (hkeep : Keeps s0 s) :
    Keeps s0 (State.resetWatch s q) := by
  unfold State.resetWatch
  repeat' first
    | with_reducible assumption
    | extract_lets
    | intro _
    | with_reducible apply Keeps.ite
    | with_reducible apply Keeps.ite_fst
    | with_reducible apply State.resetRegs_keeps
    | (fail_if_no_progress (with_reducible apply Keeps.update; rfl; rfl; first | exact Nat.le_refl _ | exact Nat.le_succ _))

theorem State.resetColl_keeps {s0 : State} {s : State}  (hkeep : Keeps s0 s) :
    Keeps s0 (State.resetColl s) := by
  unfold State.resetColl
  repeat' first
    | with_reducible assumption
    | extract_lets
    | intro _
    | with_reducible apply Keeps.ite
    | with_reducible apply State.settleLedgers_keeps
    | with_reducible apply State.resetRegs_keeps
    | with_reducible apply State.stopTasks_keeps
    | (fail_if_no_progress (with_reducible apply Keeps.update; rfl; rfl; first | exact Nat.le_refl _ | exact Nat.le_succ _))

theorem State.resetMaint_keeps {s0 : State} {s : State}  (hkeep : Keeps s0 s) :
    Keeps s0 (State.resetMaint s) := by
  unfold State.resetMaint
  repeat' first
    | with_reducible assumption
    | extract_lets
    | intro _
    | with_reducible apply Keeps.ite
    | with_reducible apply State.whenSome_keeps
    | with_reducible apply State.release_keeps
    | with_reducible apply State.showGrants_keeps
    | with_reducible apply State.returnCore_keeps
    | with_reducible apply State.resetRegs_keeps
    | (fail_if_no_progress (with_reducible apply Keeps.update; rfl; rfl; first | exact Nat.le_refl _ | exact Nat.le_succ _))

theorem State.resetTempo_keeps {s0 : State} {s : State}  (hkeep : Keeps s0 s) :
    Keeps s0 (State.resetTempo s) := by
  unfold State.resetTempo
  repeat' first
    | with_reducible assumption
    | extract_lets
    | intro _
    | with_reducible apply Keeps.ite
    | with_reducible apply State.reset_keeps
    | with_reducible apply State.resetRegs_keeps
    | (fail_if_no_progress (with_reducible apply Keeps.update; rfl; rfl; first | exact Nat.le_refl _ | exact Nat.le_succ _))

theorem State.resetFirmware_keeps {s0 : State} {s : State}  (hkeep : Keeps s0 s) :
    Keeps s0 (State.resetFirmware s) := by
  unfold State.resetFirmware
  repeat' first
    | with_reducible assumption
    | extract_lets
    | intro _
    | with_reducible apply Keeps.ite
    | with_reducible apply State.release_keeps
    | with_reducible apply State.fwEnds_keeps
    | with_reducible apply State.showSlot_keeps
    | with_reducible apply State.resetRegs_keeps
    | (fail_if_no_progress (with_reducible apply Keeps.update; rfl; rfl; first | exact Nat.le_refl _ | exact Nat.le_succ _))

theorem State.resetBlock_keeps {s0 : State} {s : State} {p : PageRef} {page : Nat}  (hkeep : Keeps s0 s) :
    Keeps s0 (State.resetBlock s p page) := by
  unfold State.resetBlock
  repeat' first
    | with_reducible assumption
    | extract_lets
    | intro _
    | with_reducible apply Keeps.ite
    | with_reducible apply State.reset_keeps
    | with_reducible apply State.disableQueue_keeps
    | with_reducible apply State.abortUpd_keeps
    | with_reducible apply State.resetDma_keeps
    | with_reducible apply State.linkDown_keeps
    | with_reducible apply State.resetSeal_keeps
    | with_reducible apply State.resetMon_keeps
    | with_reducible apply State.resetArrayDie_keeps
    | with_reducible apply State.resetColl_keeps
    | with_reducible apply State.resetFirmware_keeps
    | with_reducible apply State.resetGradCore_keeps
    | with_reducible apply State.resetGradDie_keeps
    | with_reducible apply State.resetMaint_keeps
    | with_reducible apply State.resetPanel_keeps
    | with_reducible apply State.resetRegs_keeps
    | with_reducible apply State.resetTempo_keeps
    | with_reducible apply State.resetVecCore_keeps
    | with_reducible apply State.resetWatch_keeps
    | with_reducible apply State.stopGather_keeps
    | with_reducible apply State.stopTasks_keeps
    | (fail_if_no_progress (with_reducible apply Keeps.update; rfl; rfl; first | exact Nat.le_refl _ | exact Nat.le_succ _))
    | split

theorem State.blockReset_keeps {s0 : State} {s : State} {page : Nat}  (hkeep : Keeps s0 s) :
    Keeps s0 (State.blockReset s page) := by
  unfold State.blockReset
  repeat' first
    | with_reducible assumption
    | extract_lets
    | intro _
    | with_reducible apply Keeps.ite
    | with_reducible apply State.setHdrBit_keeps
    | with_reducible apply State.settle_keeps
    | with_reducible apply State.resetBlock_keeps
    | with_reducible apply State.resetHeader_keeps
    | (fail_if_no_progress (with_reducible apply Keeps.update; rfl; rfl; first | exact Nat.le_refl _ | exact Nat.le_succ _))
    | split

theorem State.offerWork_keeps {s0 : State} {s : State} {p : PageRef}  (hkeep : Keeps s0 s) :
    Keeps s0 (State.offerWork s p) := by
  unfold State.offerWork
  repeat' first
    | with_reducible assumption
    | extract_lets
    | intro _
    | with_reducible apply Keeps.ite
    | with_reducible apply State.pumpArrays_keeps
    | with_reducible apply State.pumpGrad_keeps
    | with_reducible apply State.pumpVec_keeps
    | with_reducible apply State.pumpDma_keeps
    | (fail_if_no_progress (with_reducible apply Keeps.update; rfl; rfl; first | exact Nat.le_refl _ | exact Nat.le_succ _))
    | split

theorem State.blockReady_keeps {s0 : State} {s : State} {page : Nat}  (hkeep : Keeps s0 s) :
    Keeps s0 (State.blockReady s page) := by
  unfold State.blockReady
  repeat' first
    | with_reducible assumption
    | extract_lets
    | intro _
    | with_reducible apply Keeps.ite
    | with_reducible apply State.setHdrBit_keeps
    | with_reducible apply State.offerWork_keeps
    | with_reducible apply Keeps.foldl
    | (fail_if_no_progress (with_reducible apply Keeps.update; rfl; rfl; first | exact Nat.le_refl _ | exact Nat.le_succ _))
    | split

end Sys2Proof.Machine
end

