-- ==== Sys2Proof/Laws/KeepsBar4.lean ====
section
/-! SUPPORT. The operations of Machine/Bar4.lean keep what every command keeps. -/

namespace Sys2Proof.Machine

theorem State.flushVector_keeps {s0 : State} {s : State} {v : Nat}  (hkeep : Keeps s0 s) :
    Keeps s0 (State.flushVector s v) := by
  unfold State.flushVector
  repeat' first
    | with_reducible assumption
    | extract_lets
    | intro _
    | with_reducible apply Keeps.ite
    | with_reducible apply State.sendVector_keeps
    | (fail_if_no_progress (with_reducible apply Keeps.update; rfl; rfl; first | exact Nat.le_refl _ | exact Nat.le_succ _))

theorem State.writeMask_keeps {s0 : State} {s : State} {v : Nat} {on : Bool}  (hkeep : Keeps s0 s) :
    Keeps s0 (State.writeMask s v on) := by
  unfold State.writeMask
  repeat' first
    | with_reducible assumption
    | extract_lets
    | intro _
    | with_reducible apply Keeps.ite
    | with_reducible apply State.setBar4_keeps
    | with_reducible apply State.flushVector_keeps

theorem State.unmask_keeps {s0 : State} {s : State} {v : Nat}  (hkeep : Keeps s0 s) :
    Keeps s0 (State.unmask s v) := by
  unfold State.unmask
  repeat' first
    | with_reducible assumption
    | extract_lets
    | intro _
    | with_reducible apply Keeps.ite
    | with_reducible apply State.writeMask_keeps

theorem State.writeMsix_keeps {s0 : State} {s : State} {o : Nat} {w : Word}  (hkeep : Keeps s0 s) :
    Keeps s0 (State.writeMsix s o w) := by
  unfold State.writeMsix
  repeat' first
    | with_reducible assumption
    | extract_lets
    | intro _
    | with_reducible apply Keeps.ite
    | with_reducible apply State.setBar4_keeps
    | with_reducible apply State.writeMask_keeps

theorem State.writeComp_keeps {s0 : State} {s : State} {o : Nat} {w : Word}  (hkeep : Keeps s0 s) :
    Keeps s0 (State.writeComp s o w) := by
  unfold State.writeComp
  repeat' first
    | with_reducible assumption
    | extract_lets
    | intro _
    | with_reducible apply Keeps.ite
    | with_reducible apply State.wf_keeps
    | with_reducible apply State.setBar4_keeps
    | (fail_if_no_progress (with_reducible apply Keeps.update; rfl; rfl; first | exact Nat.le_refl _ | exact Nat.le_succ _))
    | split

theorem State.rasIde_keeps {s0 : State} {s : State}  (hkeep : Keeps s0 s) :
    Keeps s0 (State.rasIde s) := by
  unfold State.rasIde
  repeat' first
    | with_reducible assumption
    | extract_lets
    | intro _
    | with_reducible apply Keeps.ite
    | with_reducible apply State.setBar4_keeps

theorem State.writeBar4_keeps {s0 : State} {s : State} {o : Nat} {w : Word}  (hkeep : Keeps s0 s) :
    Keeps s0 (State.writeBar4 s o w) := by
  unfold State.writeBar4
  repeat' first
    | with_reducible assumption
    | extract_lets
    | intro _
    | with_reducible apply Keeps.ite
    | with_reducible apply State.writeComp_keeps
    | with_reducible apply State.writeMsix_keeps

theorem State.readBar4_keeps {s0 : State} {s : State} {o : Nat}  (hkeep : Keeps s0 s) :
    Keeps s0 (State.readBar4 s o).2 := by
  unfold State.readBar4
  repeat' first
    | with_reducible assumption
    | extract_lets
    | intro _
    | with_reducible apply Keeps.ite
    | with_reducible apply Keeps.ite_fst
    | with_reducible apply State.draw_keeps
    | (fail_if_no_progress (with_reducible apply Keeps.update; rfl; rfl; first | exact Nat.le_refl _ | exact Nat.le_succ _))
    | split

end Sys2Proof.Machine
end

