-- ==== Sys2Proof/Laws/KeepsBus.lean ====
section
/-! SUPPORT. The operations of Machine/Bus.lean keep what every command keeps. -/

namespace Sys2Proof.Machine

theorem stateAfter_keeps {s0 s : State} {o : Host.Outcome State Fault Refusal} (ho : Keeps.Outcome s0 o) (hkeep : Keeps s0 s) :
    Keeps s0 (stateAfter s o) := by
  unfold stateAfter
  split
  · exact ho.of_next _ rfl
  · exact hkeep

theorem State.setCauses_keeps {s0 : State} {s : State} {page : Nat} {mask : Nat}  (hkeep : Keeps s0 s) :
    Keeps s0 (State.setCauses s page mask) := by
  unfold State.setCauses
  repeat' first
    | with_reducible assumption
    | extract_lets
    | intro _
    | with_reducible apply Keeps.ite
    | with_reducible apply State.setReg_keeps
    | with_reducible apply State.raiseVector_keeps

theorem State.clearCauses_keeps {s0 : State} {s : State} {page : Nat} {mask : Nat}  (hkeep : Keeps s0 s) :
    Keeps s0 (State.clearCauses s page mask) := by
  unfold State.clearCauses
  repeat' first
    | with_reducible assumption
    | extract_lets
    | intro _
    | with_reducible apply Keeps.ite
    | with_reducible apply State.setReg_keeps

theorem State.writeEnable_keeps {s0 : State} {s : State} {causes : Nat} {page : Nat} {v : Nat}  (hkeep : Keeps s0 s) :
    Keeps s0 (State.writeEnable s causes page v) := by
  unfold State.writeEnable
  repeat' first
    | with_reducible assumption
    | extract_lets
    | intro _
    | with_reducible apply Keeps.ite
    | with_reducible apply State.setReg_keeps
    | with_reducible apply State.raiseVector_keeps

theorem State.quiesce_keeps {s0 : State} {s : State} {p : PageRef} {page : Nat} {on : Bool}  (hkeep : Keeps s0 s) :
    Keeps s0 (State.quiesce s p page on) := by
  unfold State.quiesce
  repeat' first
    | with_reducible assumption
    | extract_lets
    | intro _
    | with_reducible apply Keeps.ite
    | with_reducible apply State.setHdrBit_keeps
    | with_reducible apply State.settle_keeps
    | with_reducible apply State.offerWork_keeps

theorem State.pageEnable_keeps {s0 : State} {s : State} {p : PageRef} {page : Nat} {on : Bool}  (hkeep : Keeps s0 s) :
    Keeps s0 (State.pageEnable s p page on) := by
  unfold State.pageEnable
  repeat' first
    | with_reducible assumption
    | extract_lets
    | intro _
    | with_reducible apply Keeps.ite
    | with_reducible apply State.setHdrBit_keeps
    | with_reducible apply State.settle_keeps
    | with_reducible apply State.offerWork_keeps

theorem State.writeVector_keeps {s0 : State} {s : State} {view : View} {page : Nat} {v : Nat}  (hkeep : Keeps s0 s) :
    Keeps s0 (State.writeVector s view page v) := by
  unfold State.writeVector
  repeat' first
    | with_reducible assumption
    | extract_lets
    | intro _
    | with_reducible apply Keeps.ite
    | with_reducible apply State.setReg_keeps

theorem State.writeHeader_keeps {s0 : State} {s : State} {view : View} {p : PageRef} {page : Nat} {o : Nat} {w : Word}  (hkeep : Keeps s0 s) :
    Keeps s0 (State.writeHeader s view p page o w) := by
  unfold State.writeHeader
  repeat' first
    | with_reducible assumption
    | extract_lets
    | intro _
    | with_reducible apply Keeps.ite
    | with_reducible apply State.blockReset_keeps
    | with_reducible apply State.clearCauses_keeps
    | with_reducible apply State.pageEnable_keeps
    | with_reducible apply State.quiesce_keeps
    | with_reducible apply State.setCauses_keeps
    | with_reducible apply State.writeEnable_keeps
    | with_reducible apply State.writeVector_keeps

theorem State.writeGrant_keeps {s0 : State} {s : State} {reg : Nat} {v : Nat}  (hkeep : Keeps s0 s) :
    Keeps s0 (State.writeGrant s reg v) := by
  unfold State.writeGrant
  repeat' first
    | with_reducible assumption
    | extract_lets
    | intro _
    | with_reducible apply Keeps.ite
    | with_reducible apply State.setReg_keeps

theorem State.writeLevel_keeps {s0 : State} {s : State} {v : Nat}  (hkeep : Keeps s0 s) :
    Keeps s0 (State.writeLevel s v) := by
  unfold State.writeLevel
  repeat' first
    | with_reducible assumption
    | extract_lets
    | intro _
    | with_reducible apply Keeps.ite
    | with_reducible apply State.setReg_keeps
    | with_reducible apply State.cause_keeps
    | with_reducible apply State.log_keeps
    | with_reducible apply State.noteClamp_keeps

theorem State.badAccess_keeps {s0 : State} {s : State} {view : View} {off : Nat} {size : Nat} {isWrite : Bool}  (hkeep : Keeps s0 s) :
    Keeps s0 (State.badAccess s view off size isWrite) := by
  unfold State.badAccess
  repeat' first
    | with_reducible assumption
    | extract_lets
    | intro _
    | with_reducible apply Keeps.ite
    | with_reducible apply State.inc_keeps
    | with_reducible apply State.cause_keeps
    | with_reducible apply State.log_keeps
    | (fail_if_no_progress (with_reducible apply Keeps.update; rfl; rfl; first | exact Nat.le_refl _ | exact Nat.le_succ _))

theorem State.writeQctl_keeps {s0 : State} {s : State} {view : View} {q : Nat} {w : Word}  (hkeep : Keeps s0 s) :
    Keeps s0 (State.writeQctl s view q w) := by
  unfold State.writeQctl
  repeat' first
    | with_reducible assumption
    | extract_lets
    | intro _
    | with_reducible apply Keeps.ite
    | with_reducible apply State.wf_keeps
    | with_reducible apply State.consume_keeps
    | with_reducible apply State.settle_keeps
    | with_reducible apply State.disableQueue_keeps
    | with_reducible apply State.enableQueue_keeps

theorem State.writeQueueReg_keeps {s0 : State} {s : State} {view : View} {q : Nat} {off : Nat} {w : Word}  (hkeep : Keeps s0 s) :
    Keeps s0 (State.writeQueueReg s view q off w) := by
  unfold State.writeQueueReg
  repeat' first
    | with_reducible assumption
    | extract_lets
    | intro _
    | with_reducible apply Keeps.ite
    | with_reducible apply State.plainWrite_keeps
    | with_reducible apply State.writeTail_keeps
    | with_reducible apply State.writeQctl_keeps

theorem State.writeRetire_keeps {s0 : State} {s : State} {view : View} {n : Nat} {off : Nat} {w : Word}  (hkeep : Keeps s0 s) :
    Keeps s0 (State.writeRetire s view n off w) := by
  unfold State.writeRetire
  repeat' first
    | with_reducible assumption
    | extract_lets
    | intro _
    | with_reducible apply Keeps.ite
    | with_reducible apply State.plainWrite_keeps
    | with_reducible apply execRetireCtlReinstate_keeps
    | with_reducible apply execRetireCtlRetire_keeps
    | with_reducible apply stateAfter_keeps
    | (fail_if_no_progress (with_reducible apply Keeps.update; rfl; rfl; first | exact Nat.le_refl _ | exact Nat.le_succ _))
    | split

theorem State.writeWatchReg_keeps {s0 : State} {s : State} {view : View} {q : Nat} {off : Nat} {w : Word}  (hkeep : Keeps s0 s) :
    Keeps s0 (State.writeWatchReg s view q off w) := by
  unfold State.writeWatchReg
  repeat' first
    | with_reducible assumption
    | extract_lets
    | intro _
    | with_reducible apply Keeps.ite
    | with_reducible apply execEstClear_keeps
    | with_reducible apply execEstLoad_keeps
    | with_reducible apply execEstSave_keeps
    | with_reducible apply execWtLoad_keeps
    | with_reducible apply State.clearCounts_keeps
    | with_reducible apply State.clearTotals_keeps
    | with_reducible apply State.plainWrite_keeps
    | with_reducible apply stateAfter_keeps
    | (fail_if_no_progress (with_reducible apply Keeps.update; rfl; rfl; first | exact Nat.le_refl _ | exact Nat.le_succ _))
    | split

theorem State.writeDmaReg_keeps {s0 : State} {s : State} {view : View} {n : Nat} {k : Nat} {off : Nat} {w : Word}  (hkeep : Keeps s0 s) :
    Keeps s0 (State.writeDmaReg s view n k off w) := by
  unfold State.writeDmaReg
  repeat' first
    | with_reducible assumption
    | extract_lets
    | intro _
    | with_reducible apply Keeps.ite
    | with_reducible apply State.writeChCtl_keeps
    | with_reducible apply State.writeShadow_keeps

theorem State.writeSealReg_keeps {s0 : State} {s : State} {view : View} {n : Nat} {off : Nat} {w : Word}  (hkeep : Keeps s0 s) :
    Keeps s0 (State.writeSealReg s view n off w) := by
  unfold State.writeSealReg
  repeat' first
    | with_reducible assumption
    | extract_lets
    | intro _
    | with_reducible apply Keeps.ite
    | with_reducible apply State.plainWrite_keeps
    | with_reducible apply State.startSeal_keeps
    | with_reducible apply State.writeEntry_keeps

theorem State.writePortReg_keeps {s0 : State} {s : State} {view : View} {n : Nat} {off : Nat} {w : Word}  (hkeep : Keeps s0 s) :
    Keeps s0 (State.writePortReg s view n off w) := by
  unfold State.writePortReg
  repeat' first
    | with_reducible assumption
    | extract_lets
    | intro _
    | with_reducible apply Keeps.ite
    | with_reducible apply State.plainWrite_keeps
    | with_reducible apply execPortCtlRetrain_keeps
    | with_reducible apply stateAfter_keeps

theorem State.writeSeamReg_keeps {s0 : State} {s : State} {view : View} {off : Nat} {w : Word}  (hkeep : Keeps s0 s) :
    Keeps s0 (State.writeSeamReg s view off w) := by
  unfold State.writeSeamReg
  repeat' first
    | with_reducible assumption
    | extract_lets
    | intro _
    | with_reducible apply Keeps.ite
    | with_reducible apply State.plainWrite_keeps
    | with_reducible apply execSchedCmdSend_keeps
    | with_reducible apply stateAfter_keeps
    | (fail_if_no_progress (with_reducible apply Keeps.update; rfl; rfl; first | exact Nat.le_refl _ | exact Nat.le_succ _))

theorem State.writeMaintReg_keeps {s0 : State} {s : State} {view : View} {off : Nat} {w : Word}  (hkeep : Keeps s0 s) :
    Keeps s0 (State.writeMaintReg s view off w) := by
  unfold State.writeMaintReg
  repeat' first
    | with_reducible assumption
    | extract_lets
    | intro _
    | with_reducible apply Keeps.ite
    | with_reducible apply State.plainWrite_keeps
    | with_reducible apply State.ftCmd_keeps
    | with_reducible apply execReplayStart_keeps
    | with_reducible apply stateAfter_keeps
    | (fail_if_no_progress (with_reducible apply Keeps.update; rfl; rfl; first | exact Nat.le_refl _ | exact Nat.le_succ _))
    | split

theorem State.writeTempoReg_keeps {s0 : State} {s : State} {view : View} {off : Nat} {w : Word}  (hkeep : Keeps s0 s) :
    Keeps s0 (State.writeTempoReg s view off w) := by
  unfold State.writeTempoReg
  repeat' first
    | with_reducible assumption
    | extract_lets
    | intro _
    | with_reducible apply Keeps.ite
    | with_reducible apply State.plainWrite_keeps
    | with_reducible apply State.writeTempoCtl_keeps
    | with_reducible apply execEvtRead_keeps
    | with_reducible apply execEvtArm_keeps
    | with_reducible apply execEvtDisarm_keeps
    | with_reducible apply stateAfter_keeps
    | (fail_if_no_progress (with_reducible apply Keeps.update; rfl; rfl; first | exact Nat.le_refl _ | exact Nat.le_succ _))
    | split

theorem State.writeMonReg_keeps {s0 : State} {s : State} {view : View} {mc : Nat} {off : Nat} {w : Word}  (hkeep : Keeps s0 s) :
    Keeps s0 (State.writeMonReg s view mc off w) := by
  unfold State.writeMonReg
  repeat' first
    | with_reducible assumption
    | extract_lets
    | intro _
    | with_reducible apply Keeps.ite
    | with_reducible apply State.plainWrite_keeps
    | with_reducible apply State.writeFlds_keeps
    | with_reducible apply execSeqStart_keeps
    | with_reducible apply execSeqStop_keeps
    | with_reducible apply execUrgent_keeps
    | with_reducible apply stateAfter_keeps

theorem State.writeFwReg_keeps {s0 : State} {s : State} {view : View} {off : Nat} {w : Word}  (hkeep : Keeps s0 s) :
    Keeps s0 (State.writeFwReg s view off w) := by
  unfold State.writeFwReg
  repeat' first
    | with_reducible assumption
    | extract_lets
    | intro _
    | with_reducible apply Keeps.ite
    | with_reducible apply State.plainWrite_keeps
    | with_reducible apply execActivate_keeps
    | with_reducible apply execCancel_keeps
    | with_reducible apply execConfirm_keeps
    | with_reducible apply execStage_keeps
    | with_reducible apply stateAfter_keeps
    | (fail_if_no_progress (with_reducible apply Keeps.update; rfl; rfl; first | exact Nat.le_refl _ | exact Nat.le_succ _))
    | split

theorem State.writeRecReg_keeps {s0 : State} {s : State} {view : View} {off : Nat} {w : Word}  (hkeep : Keeps s0 s) :
    Keeps s0 (State.writeRecReg s view off w) := by
  unfold State.writeRecReg
  repeat' first
    | with_reducible assumption
    | extract_lets
    | intro _
    | with_reducible apply Keeps.ite
    | with_reducible apply State.plainWrite_keeps
    | with_reducible apply State.showEntry_keeps
    | with_reducible apply execDumpStart_keeps
    | with_reducible apply stateAfter_keeps

theorem State.writePowerReg_keeps {s0 : State} {s : State} {view : View} {off : Nat} {w : Word}  (hkeep : Keeps s0 s) :
    Keeps s0 (State.writePowerReg s view off w) := by
  unfold State.writePowerReg
  repeat' first
    | with_reducible assumption
    | extract_lets
    | intro _
    | with_reducible apply Keeps.ite
    | with_reducible apply State.plainWrite_keeps
    | with_reducible apply execStopCtlStart_keeps
    | with_reducible apply stateAfter_keeps

theorem State.writeResetCtl_keeps {s0 : State} {s : State} {view : View} {w : Word}  (hkeep : Keeps s0 s) :
    Keeps s0 (State.writeResetCtl s view w) := by
  unfold State.writeResetCtl
  repeat' first
    | with_reducible assumption
    | extract_lets
    | intro _
    | with_reducible apply Keeps.ite
    | with_reducible apply execResetCtlEngines_keeps
    | with_reducible apply execResetCtlModule_keeps
    | with_reducible apply stateAfter_keeps

theorem State.writeDeviceReg_keeps {s0 : State} {s : State} {view : View} {off : Nat} {w : Word}  (hkeep : Keeps s0 s) :
    Keeps s0 (State.writeDeviceReg s view off w) := by
  unfold State.writeDeviceReg
  repeat' first
    | with_reducible assumption
    | extract_lets
    | intro _
    | with_reducible apply Keeps.ite
    | with_reducible apply State.writeGrant_keeps
    | with_reducible apply State.writeLevel_keeps

theorem State.writeRouteReg_keeps {s0 : State} {s : State} {view : View} {off : Nat} {w : Word}  (hkeep : Keeps s0 s) :
    Keeps s0 (State.writeRouteReg s view off w) := by
  unfold State.writeRouteReg
  repeat' first
    | with_reducible assumption
    | extract_lets
    | intro _
    | with_reducible apply Keeps.ite
    | with_reducible apply State.setReg_keeps

theorem State.writeBlock_keeps {s0 : State} {s : State} {view : View} {p : PageRef} {page : Nat} {off : Nat} {w : Word}  (hkeep : Keeps s0 s) :
    Keeps s0 (State.writeBlock s view p page off w) := by
  unfold State.writeBlock
  repeat' first
    | with_reducible assumption
    | extract_lets
    | intro _
    | with_reducible apply Keeps.ite
    | with_reducible apply State.clearCounts_keeps
    | with_reducible apply State.crossOrPost_keeps
    | with_reducible apply State.plainWrite_keeps
    | with_reducible apply State.settle_keeps
    | with_reducible apply State.buttonWrite_keeps
    | with_reducible apply State.pulse_keeps
    | with_reducible apply execCollLoad_keeps
    | with_reducible apply execAttStart_keeps
    | with_reducible apply State.writeDeviceReg_keeps
    | with_reducible apply State.writeDmaReg_keeps
    | with_reducible apply State.writeFwReg_keeps
    | with_reducible apply State.writeMaintReg_keeps
    | with_reducible apply State.writeMonReg_keeps
    | with_reducible apply State.writePortReg_keeps
    | with_reducible apply State.writePowerReg_keeps
    | with_reducible apply State.writeQueueReg_keeps
    | with_reducible apply State.writeRecReg_keeps
    | with_reducible apply State.writeRetire_keeps
    | with_reducible apply State.writeRouteReg_keeps
    | with_reducible apply State.writeSealReg_keeps
    | with_reducible apply State.writeSeamReg_keeps
    | with_reducible apply State.writeTempoReg_keeps
    | with_reducible apply State.writeWatchReg_keeps
    | with_reducible apply stateAfter_keeps
    | (fail_if_no_progress (with_reducible apply Keeps.update; rfl; rfl; first | exact Nat.le_refl _ | exact Nat.le_succ _))
    | split

theorem State.regWrite_keeps {s0 : State} {s : State} {view : View} {off : Nat} {w : Word}  (hkeep : Keeps s0 s) :
    Keeps s0 (State.regWrite s view off w) := by
  unfold State.regWrite
  repeat' first
    | with_reducible assumption
    | extract_lets
    | intro _
    | with_reducible apply Keeps.ite
    | with_reducible apply State.crossOrPost_keeps
    | with_reducible apply State.crossing_keeps
    | with_reducible apply State.badAccess_keeps
    | with_reducible apply State.writeBlock_keeps
    | with_reducible apply State.writeHeader_keeps
    | with_reducible apply State.writeResetCtl_keeps
    | (fail_if_no_progress (with_reducible apply Keeps.update; rfl; rfl; first | exact Nat.le_refl _ | exact Nat.le_succ _))
    | split

theorem State.regRead_keeps {s0 : State} {s : State} {view : View} {off : Nat}  (hkeep : Keeps s0 s) :
    Keeps s0 (State.regRead s view off).2 := by
  unfold State.regRead
  repeat' first
    | with_reducible assumption
    | extract_lets
    | intro _
    | with_reducible apply Keeps.ite
    | with_reducible apply Keeps.ite_fst
    | with_reducible apply State.draw_keeps
    | (fail_if_no_progress (with_reducible apply Keeps.update; rfl; rfl; first | exact Nat.le_refl _ | exact Nat.le_succ _))
    | split

theorem State.busRead_keeps {s0 : State} {s : State} {view : View} {off : Nat}  (hkeep : Keeps s0 s) :
    Keeps s0 (State.busRead s view off) := by
  unfold State.busRead
  repeat' first
    | with_reducible assumption
    | extract_lets
    | intro _
    | with_reducible apply Keeps.ite
    | with_reducible apply Keeps.ite_fst
    | with_reducible apply State.badAccess_keeps
    | with_reducible apply State.regRead_keeps
    | (fail_if_no_progress (with_reducible apply Keeps.update; rfl; rfl; first | exact Nat.le_refl _ | exact Nat.le_succ _))

theorem State.barWrite_keeps {s0 : State} {s : State} {bar : Bar} {off : Nat} {w : Word}  (hkeep : Keeps s0 s) :
    Keeps s0 (State.barWrite s bar off w) := by
  unfold State.barWrite
  repeat' first
    | with_reducible assumption
    | extract_lets
    | intro _
    | with_reducible apply Keeps.ite
    | with_reducible apply State.writeBar4_keeps
    | with_reducible apply State.regWrite_keeps
    | (fail_if_no_progress (with_reducible apply Keeps.update; rfl; rfl; first | exact Nat.le_refl _ | exact Nat.le_succ _))
    | split

theorem State.barRead_keeps {s0 : State} {s : State} {bar : Bar} {off : Nat}  (hkeep : Keeps s0 s) :
    Keeps s0 (State.barRead s bar off) := by
  unfold State.barRead
  repeat' first
    | with_reducible assumption
    | extract_lets
    | intro _
    | with_reducible apply Keeps.ite
    | with_reducible apply Keeps.ite_fst
    | with_reducible apply State.readBar4_keeps
    | with_reducible apply State.busRead_keeps
    | (fail_if_no_progress (with_reducible apply Keeps.update; rfl; rfl; first | exact Nat.le_refl _ | exact Nat.le_succ _))
    | split

theorem execRegisterWrite_keeps {s0 : State} {bar : Bar} {off : Nat} {v : Word} {s : State}  (hkeep : Keeps s0 s) :
    Keeps.Outcome s0 (execRegisterWrite bar off v s) := by
  unfold execRegisterWrite
  repeat' first
    | with_reducible assumption
    | extract_lets
    | intro _
    | with_reducible apply Keeps.next
    | with_reducible exact Keeps.fault
    | with_reducible exact Keeps.refused
    | with_reducible apply Keeps.ite_outcome
    | with_reducible apply Keeps.ite
    | with_reducible apply State.barWrite_keeps

theorem execBadAccess_keeps {s0 : State} {view : View} {off : Nat} {size : Nat} {isWrite : Bool} {s : State}  (hkeep : Keeps s0 s) :
    Keeps.Outcome s0 (execBadAccess view off size isWrite s) := by
  unfold execBadAccess
  repeat' first
    | with_reducible assumption
    | extract_lets
    | intro _
    | with_reducible apply Keeps.next
    | with_reducible exact Keeps.fault
    | with_reducible exact Keeps.refused
    | with_reducible apply Keeps.ite_outcome
    | with_reducible apply Keeps.ite
    | with_reducible apply State.badAccess_keeps

theorem execPairLoRead_keeps {s0 : State} {bar : Bar} {off : Nat} {s : State}  (hkeep : Keeps s0 s) :
    Keeps.Outcome s0 (execPairLoRead bar off s) := by
  unfold execPairLoRead
  repeat' first
    | with_reducible assumption
    | extract_lets
    | intro _
    | with_reducible apply Keeps.next
    | with_reducible exact Keeps.fault
    | with_reducible exact Keeps.refused
    | with_reducible apply Keeps.ite_outcome
    | with_reducible apply Keeps.ite
    | with_reducible apply State.barRead_keeps

theorem execPairHiWrite_keeps {s0 : State} {view : View} {off : Nat} {v : Word} {s : State}  (hkeep : Keeps s0 s) :
    Keeps.Outcome s0 (execPairHiWrite view off v s) := by
  unfold execPairHiWrite
  repeat' first
    | with_reducible assumption
    | extract_lets
    | intro _
    | with_reducible apply Keeps.next
    | with_reducible exact Keeps.fault
    | with_reducible exact Keeps.refused
    | with_reducible apply Keeps.ite_outcome
    | with_reducible apply Keeps.ite
    | with_reducible apply State.regWrite_keeps

theorem execGrantWrite_keeps {s0 : State} {view : View} {reg : Fin 7} {v : Word} {s : State}  (hkeep : Keeps s0 s) :
    Keeps.Outcome s0 (execGrantWrite view reg v s) := by
  unfold execGrantWrite
  repeat' first
    | with_reducible assumption
    | extract_lets
    | intro _
    | with_reducible apply Keeps.next
    | with_reducible exact Keeps.fault
    | with_reducible exact Keeps.refused
    | with_reducible apply Keeps.ite_outcome
    | with_reducible apply Keeps.ite
    | with_reducible apply State.onWrite_keeps
    | with_reducible apply State.writeGrant_keeps

theorem execHostLevelWrite_keeps {s0 : State} {view : View} {v : Word} {s : State}  (hkeep : Keeps s0 s) :
    Keeps.Outcome s0 (execHostLevelWrite view v s) := by
  unfold execHostLevelWrite
  repeat' first
    | with_reducible assumption
    | extract_lets
    | intro _
    | with_reducible apply Keeps.next
    | with_reducible exact Keeps.fault
    | with_reducible exact Keeps.refused
    | with_reducible apply Keeps.ite_outcome
    | with_reducible apply Keeps.ite
    | with_reducible apply State.onWrite_keeps
    | with_reducible apply State.writeLevel_keeps

theorem State.onHeader_keeps {s0 : State} {s : State} {view : View} {page : Nat} {rwp : Bool} {k : State → PageRef → State} (hk : ∀ y0 y1, Keeps s0 y0 → Keeps s0 (k y0 y1)) (hkeep : Keeps s0 s) :
    Keeps s0 (State.onHeader s view page rwp k) := by
  unfold State.onHeader
  repeat' first
    | with_reducible assumption
    | extract_lets
    | intro _
    | with_reducible apply Keeps.ite
    | with_reducible apply hk
    | with_reducible apply State.onWrite_keeps
    | (fail_if_no_progress (with_reducible apply Keeps.update; rfl; rfl; first | exact Nat.le_refl _ | exact Nat.le_succ _))
    | split

theorem execQuiesce_keeps {s0 : State} {view : View} {page : Nat} {on : Bool} {s : State}  (hkeep : Keeps s0 s) :
    Keeps.Outcome s0 (execQuiesce view page on s) := by
  unfold execQuiesce
  repeat' first
    | with_reducible assumption
    | extract_lets
    | intro _
    | with_reducible apply Keeps.next
    | with_reducible exact Keeps.fault
    | with_reducible exact Keeps.refused
    | with_reducible apply Keeps.ite_outcome
    | with_reducible apply Keeps.ite
    | with_reducible apply State.onHeader_keeps
    | with_reducible apply State.quiesce_keeps

theorem execBlockReset_keeps {s0 : State} {view : View} {page : Nat} {s : State}  (hkeep : Keeps s0 s) :
    Keeps.Outcome s0 (execBlockReset view page s) := by
  unfold execBlockReset
  repeat' first
    | with_reducible assumption
    | extract_lets
    | intro _
    | with_reducible apply Keeps.next
    | with_reducible exact Keeps.fault
    | with_reducible exact Keeps.refused
    | with_reducible apply Keeps.ite_outcome
    | with_reducible apply Keeps.ite
    | with_reducible apply State.blockReset_keeps
    | with_reducible apply State.onHeader_keeps

theorem execBlockResetDone_keeps {s0 : State} {page : Nat} {s : State}  (hkeep : Keeps s0 s) :
    Keeps.Outcome s0 (execBlockResetDone page s) := by
  unfold execBlockResetDone
  repeat' first
    | with_reducible assumption
    | extract_lets
    | intro _
    | with_reducible apply Keeps.next
    | with_reducible exact Keeps.fault
    | with_reducible exact Keeps.refused
    | with_reducible apply Keeps.ite_outcome
    | with_reducible apply Keeps.ite
    | with_reducible apply State.blockReady_keeps
    | (fail_if_no_progress (with_reducible apply Keeps.update; rfl; rfl; first | exact Nat.le_refl _ | exact Nat.le_succ _))
    | split

theorem execPageEnable_keeps {s0 : State} {view : View} {page : Nat} {on : Bool} {s : State}  (hkeep : Keeps s0 s) :
    Keeps.Outcome s0 (execPageEnable view page on s) := by
  unfold execPageEnable
  repeat' first
    | with_reducible assumption
    | extract_lets
    | intro _
    | with_reducible apply Keeps.next
    | with_reducible exact Keeps.fault
    | with_reducible exact Keeps.refused
    | with_reducible apply Keeps.ite_outcome
    | with_reducible apply Keeps.ite
    | with_reducible apply State.onHeader_keeps
    | with_reducible apply State.pageEnable_keeps

theorem execIntStatusClear_keeps {s0 : State} {view : View} {page : Nat} {mask : Word} {setNow : Word} {s : State}  (hkeep : Keeps s0 s) :
    Keeps.Outcome s0 (execIntStatusClear view page mask setNow s) := by
  unfold execIntStatusClear
  repeat' first
    | with_reducible assumption
    | extract_lets
    | intro _
    | with_reducible apply Keeps.next
    | with_reducible exact Keeps.fault
    | with_reducible exact Keeps.refused
    | with_reducible apply Keeps.ite_outcome
    | with_reducible apply Keeps.ite
    | with_reducible apply State.onWrite_keeps
    | with_reducible apply State.clearCauses_keeps
    | with_reducible apply State.setCauses_keeps
    | (fail_if_no_progress (with_reducible apply Keeps.update; rfl; rfl; first | exact Nat.le_refl _ | exact Nat.le_succ _))
    | split

theorem execIntEnableWrite_keeps {s0 : State} {view : View} {page : Nat} {v : Word} {s : State}  (hkeep : Keeps s0 s) :
    Keeps.Outcome s0 (execIntEnableWrite view page v s) := by
  unfold execIntEnableWrite
  repeat' first
    | with_reducible assumption
    | extract_lets
    | intro _
    | with_reducible apply Keeps.next
    | with_reducible exact Keeps.fault
    | with_reducible exact Keeps.refused
    | with_reducible apply Keeps.ite_outcome
    | with_reducible apply Keeps.ite
    | with_reducible apply State.onHeader_keeps
    | with_reducible apply State.writeEnable_keeps

theorem execIntSet_keeps {s0 : State} {view : View} {page : Nat} {mask : Word} {s : State}  (hkeep : Keeps s0 s) :
    Keeps.Outcome s0 (execIntSet view page mask s) := by
  unfold execIntSet
  repeat' first
    | with_reducible assumption
    | extract_lets
    | intro _
    | with_reducible apply Keeps.next
    | with_reducible exact Keeps.fault
    | with_reducible exact Keeps.refused
    | with_reducible apply Keeps.ite_outcome
    | with_reducible apply Keeps.ite
    | with_reducible apply State.onHeader_keeps
    | with_reducible apply State.setCauses_keeps

theorem execPanelCountClear_keeps {s0 : State} {view : View} {n : Die8} {panel : PanelNo} {s : State}  (hkeep : Keeps s0 s) :
    Keeps.Outcome s0 (execPanelCountClear view n panel s) := by
  unfold execPanelCountClear
  repeat' first
    | with_reducible assumption
    | extract_lets
    | intro _
    | with_reducible apply Keeps.next
    | with_reducible exact Keeps.fault
    | with_reducible exact Keeps.refused
    | with_reducible apply Keeps.ite_outcome
    | with_reducible apply Keeps.ite
    | with_reducible apply State.onWrite_keeps
    | with_reducible apply State.crossOrPost_keeps

theorem execNumwatchCountClear_keeps {s0 : State} {view : View} {q : Quad} {s : State}  (hkeep : Keeps s0 s) :
    Keeps.Outcome s0 (execNumwatchCountClear view q s) := by
  unfold execNumwatchCountClear
  repeat' first
    | with_reducible assumption
    | extract_lets
    | intro _
    | with_reducible apply Keeps.next
    | with_reducible exact Keeps.fault
    | with_reducible exact Keeps.refused
    | with_reducible apply Keeps.ite_outcome
    | with_reducible apply Keeps.ite
    | with_reducible apply State.onWrite_keeps
    | with_reducible apply State.clearCounts_keeps
    | with_reducible apply State.clearTotals_keeps

end Sys2Proof.Machine
end

