-- ==== Sys2Proof/Laws/KeepsHost.lean ====
section
/-! SUPPORT. The operations of Machine/Host.lean keep what every command keeps. -/

namespace Sys2Proof.Machine

theorem State.endInterval_keeps {s0 : State} {s : State} {v : Nat} {merged : Bool}  (hkeep : Keeps s0 s) :
    Keeps s0 (State.endInterval s v merged) := by
  unfold State.endInterval
  repeat' first
    | with_reducible assumption
    | extract_lets
    | intro _
    | with_reducible apply Keeps.ite
    | with_reducible apply State.sendVector_keeps
    | with_reducible apply State.setVecPending_keeps
    | (fail_if_no_progress (with_reducible apply Keeps.update; rfl; rfl; first | exact Nat.le_refl _ | exact Nat.le_succ _))

theorem execModerationExpiry_keeps {s0 : State} {vec : Fin 2048} {s : State}  (hkeep : Keeps s0 s) :
    Keeps.Outcome s0 (execModerationExpiry vec s) := by
  unfold execModerationExpiry
  repeat' first
    | with_reducible assumption
    | extract_lets
    | intro _
    | with_reducible apply Keeps.next
    | with_reducible exact Keeps.fault
    | with_reducible exact Keeps.refused
    | with_reducible apply Keeps.ite_outcome
    | with_reducible apply Keeps.ite
    | with_reducible apply State.endInterval_keeps
    | (fail_if_no_progress (with_reducible apply Keeps.update; rfl; rfl; first | exact Nat.le_refl _ | exact Nat.le_succ _))
    | split

theorem execVectorUnmask_keeps {s0 : State} {vec : Fin 2048} {s : State}  (hkeep : Keeps s0 s) :
    Keeps.Outcome s0 (execVectorUnmask vec s) := by
  unfold execVectorUnmask
  repeat' first
    | with_reducible assumption
    | extract_lets
    | intro _
    | with_reducible apply Keeps.next
    | with_reducible exact Keeps.fault
    | with_reducible exact Keeps.refused
    | with_reducible apply Keeps.ite_outcome
    | with_reducible apply Keeps.ite
    | with_reducible apply State.unmask_keeps

theorem execConfigRequest_keeps {s0 : State} {isWrite : Bool} {dword : Fin 1024} {s : State}  (hkeep : Keeps s0 s) :
    Keeps.Outcome s0 (execConfigRequest isWrite dword s) := by
  unfold execConfigRequest
  repeat' first
    | with_reducible assumption
    | extract_lets
    | intro _
    | with_reducible apply Keeps.next
    | with_reducible exact Keeps.fault
    | with_reducible exact Keeps.refused
    | with_reducible apply Keeps.ite_outcome
    | with_reducible apply Keeps.ite
    | with_reducible apply Keeps.ite_fst
    | with_reducible apply State.draw_keeps
    | (fail_if_no_progress (with_reducible apply Keeps.update; rfl; rfl; first | exact Nat.le_refl _ | exact Nat.le_succ _))

theorem State.hostWrite_keeps {s0 : State} {s : State} {a : Nat} {b : List Byte}  (hkeep : Keeps s0 s) :
    Keeps s0 (State.hostWrite s a b) := by
  unfold State.hostWrite
  repeat' first
    | with_reducible assumption
    | extract_lets
    | intro _
    | with_reducible apply Keeps.ite
    | with_reducible apply State.put_keeps
    | with_reducible apply State.putSealed_keeps

theorem State.takeMemWrite_keeps {s0 : State} {s : State} {off : Nat} {data : List Byte}  (hkeep : Keeps s0 s) :
    Keeps s0 (State.takeMemWrite s off data) := by
  unfold State.takeMemWrite
  repeat' first
    | with_reducible assumption
    | extract_lets
    | intro _
    | with_reducible apply Keeps.ite
    | with_reducible apply State.hostWrite_keeps

theorem execHostMemWrite_keeps {s0 : State} {off : Nat} {data : List Byte} {s : State}  (hkeep : Keeps s0 s) :
    Keeps.Outcome s0 (execHostMemWrite off data s) := by
  unfold execHostMemWrite
  repeat' first
    | with_reducible assumption
    | extract_lets
    | intro _
    | with_reducible apply Keeps.next
    | with_reducible exact Keeps.fault
    | with_reducible exact Keeps.refused
    | with_reducible apply Keeps.ite_outcome
    | with_reducible apply Keeps.ite
    | with_reducible apply State.takeMemWrite_keeps

theorem State.mark_keeps {s0 : State} {s : State} {l : Nat}  (hkeep : Keeps s0 s) :
    Keeps s0 (State.mark s l) := by
  unfold State.mark
  repeat' first
    | with_reducible assumption
    | extract_lets
    | intro _
    | with_reducible apply Keeps.ite
    | (fail_if_no_progress (with_reducible apply Keeps.update; rfl; rfl; first | exact Nat.le_refl _ | exact Nat.le_succ _))

theorem State.poisoned_keeps {s0 : State} {s : State} {addr : Nat}  (hkeep : Keeps s0 s) :
    Keeps s0 (State.poisoned s addr) := by
  unfold State.poisoned
  repeat' first
    | with_reducible assumption
    | extract_lets
    | intro _
    | with_reducible apply Keeps.ite
    | with_reducible apply State.inc_keeps
    | with_reducible apply State.cause_keeps
    | with_reducible apply State.log_keeps

theorem State.hostRead_keeps {s0 : State} {s : State} {l : Nat}  (hkeep : Keeps s0 s) :
    Keeps s0 (State.hostRead s l) := by
  unfold State.hostRead
  repeat' first
    | with_reducible assumption
    | extract_lets
    | intro _
    | with_reducible apply Keeps.ite
    | with_reducible apply State.mark_keeps
    | with_reducible apply State.poisoned_keeps
    | (fail_if_no_progress (with_reducible apply Keeps.update; rfl; rfl; first | exact Nat.le_refl _ | exact Nat.le_succ _))

theorem execHostMemRead_keeps {s0 : State} {off : Nat} {s : State}  (hkeep : Keeps s0 s) :
    Keeps.Outcome s0 (execHostMemRead off s) := by
  unfold execHostMemRead
  repeat' first
    | with_reducible assumption
    | extract_lets
    | intro _
    | with_reducible apply Keeps.next
    | with_reducible exact Keeps.fault
    | with_reducible exact Keeps.refused
    | with_reducible apply Keeps.ite_outcome
    | with_reducible apply Keeps.ite
    | with_reducible apply State.hostRead_keeps

theorem execBackInvalidateResponse_keeps {s0 : State} {line : Nat} {s : State}  (hkeep : Keeps s0 s) :
    Keeps.Outcome s0 (execBackInvalidateResponse line s) := by
  unfold execBackInvalidateResponse
  repeat' first
    | with_reducible assumption
    | extract_lets
    | intro _
    | with_reducible apply Keeps.next
    | with_reducible exact Keeps.fault
    | with_reducible exact Keeps.refused
    | with_reducible apply Keeps.ite_outcome
    | with_reducible apply Keeps.ite
    | (fail_if_no_progress (with_reducible apply Keeps.update; rfl; rfl; first | exact Nat.le_refl _ | exact Nat.le_succ _))

theorem execCacheRequestIssue_keeps {s0 : State} {s : State}  (hkeep : Keeps s0 s) :
    Keeps.Outcome s0 (execCacheRequestIssue s) := by
  unfold execCacheRequestIssue
  repeat' first
    | with_reducible assumption
    | extract_lets
    | intro _
    | with_reducible apply Keeps.next
    | with_reducible exact Keeps.fault
    | with_reducible exact Keeps.refused
    | with_reducible apply Keeps.ite_outcome
    | with_reducible apply Keeps.ite
    | with_reducible apply State.wf_keeps
    | (fail_if_no_progress (with_reducible apply Keeps.update; rfl; rfl; first | exact Nat.le_refl _ | exact Nat.le_succ _))

theorem execCxlLinkChange_keeps {s0 : State} {link : CxlLink} {s : State}  (hkeep : Keeps s0 s) :
    Keeps.Outcome s0 (execCxlLinkChange link s) := by
  unfold execCxlLinkChange
  repeat' first
    | with_reducible assumption
    | extract_lets
    | intro _
    | with_reducible apply Keeps.next
    | with_reducible exact Keeps.fault
    | with_reducible exact Keeps.refused
    | with_reducible apply Keeps.ite_outcome
    | with_reducible apply Keeps.ite
    | with_reducible apply State.linkNow_keeps
    | (fail_if_no_progress (with_reducible apply Keeps.update; rfl; rfl; first | exact Nat.le_refl _ | exact Nat.le_succ _))

theorem State.useFlit_keeps {s0 : State} {s : State} {proto : CxlProtocol} {d : FlitData}  (hkeep : Keeps s0 s) :
    Keeps s0 (State.useFlit s proto d) := by
  unfold State.useFlit
  repeat' first
    | with_reducible assumption
    | extract_lets
    | intro _
    | with_reducible apply Keeps.ite
    | with_reducible apply State.barWrite_keeps
    | with_reducible apply State.regWrite_keeps
    | with_reducible apply State.takeMemWrite_keeps
    | (fail_if_no_progress (with_reducible apply Keeps.update; rfl; rfl; first | exact Nat.le_refl _ | exact Nat.le_succ _))
    | split

theorem execIdeIntegrityFailure_keeps {s0 : State} {stream : Byte} {flit : FailedFlit} {s : State}  (hkeep : Keeps s0 s) :
    Keeps.Outcome s0 (execIdeIntegrityFailure stream flit s) := by
  unfold execIdeIntegrityFailure
  repeat' first
    | with_reducible assumption
    | extract_lets
    | intro _
    | with_reducible apply Keeps.next
    | with_reducible exact Keeps.fault
    | with_reducible exact Keeps.refused
    | with_reducible apply Keeps.ite_outcome
    | with_reducible apply Keeps.ite
    | with_reducible apply State.inc_keeps
    | with_reducible apply State.cause_keeps
    | with_reducible apply State.log_keeps
    | with_reducible apply State.rasIde_keeps
    | with_reducible apply State.useFlit_keeps

theorem State.keyExchange_keeps {s0 : State} {s : State} {transcript : List Byte}  (hkeep : Keeps s0 s) :
    Keeps s0 (State.keyExchange s transcript) := by
  unfold State.keyExchange
  repeat' first
    | with_reducible assumption
    | extract_lets
    | intro _
    | with_reducible apply Keeps.ite
    | with_reducible apply State.inc_keeps
    | (fail_if_no_progress (with_reducible apply Keeps.update; rfl; rfl; first | exact Nat.le_refl _ | exact Nat.le_succ _))

theorem State.ideKey_keeps {s0 : State} {s : State} {p : CxlProtocol} {on : Bool}  (hkeep : Keeps s0 s) :
    Keeps s0 (State.ideKey s p on) := by
  unfold State.ideKey
  repeat' first
    | with_reducible assumption
    | extract_lets
    | intro _
    | with_reducible apply Keeps.ite
    | with_reducible apply State.linkNow_keeps
    | (fail_if_no_progress (with_reducible apply Keeps.update; rfl; rfl; first | exact Nat.le_refl _ | exact Nat.le_succ _))
    | split

theorem State.spdm_keeps {s0 : State} {s : State} {secured : Bool} {req : SpdmRequest}  (hkeep : Keeps s0 s) :
    Keeps s0 (State.spdm s secured req) := by
  unfold State.spdm
  repeat' first
    | with_reducible assumption
    | extract_lets
    | intro _
    | with_reducible apply Keeps.ite
    | with_reducible apply State.ideKey_keeps
    | with_reducible apply State.keyExchange_keeps
    | (fail_if_no_progress (with_reducible apply Keeps.update; rfl; rfl; first | exact Nat.le_refl _ | exact Nat.le_succ _))
    | split

theorem State.secureReply_keeps {s0 : State} {s : State}  (hkeep : Keeps s0 s) :
    Keeps s0 (State.secureReply s) := by
  unfold State.secureReply
  repeat' first
    | with_reducible assumption
    | extract_lets
    | intro _
    | with_reducible apply Keeps.ite
    | (fail_if_no_progress (with_reducible apply Keeps.update; rfl; rfl; first | exact Nat.le_refl _ | exact Nat.le_succ _))
    | split

theorem execSpdmRequest_keeps {s0 : State} {msg : DoeMessage} {s : State}  (hkeep : Keeps s0 s) :
    Keeps.Outcome s0 (execSpdmRequest msg s) := by
  unfold execSpdmRequest
  repeat' first
    | with_reducible assumption
    | extract_lets
    | intro _
    | with_reducible apply Keeps.next
    | with_reducible exact Keeps.fault
    | with_reducible exact Keeps.refused
    | with_reducible apply Keeps.ite_outcome
    | with_reducible apply Keeps.ite
    | with_reducible apply State.secureReply_keeps
    | with_reducible apply State.spdm_keeps
    | (fail_if_no_progress (with_reducible apply Keeps.update; rfl; rfl; first | exact Nat.le_refl _ | exact Nat.le_succ _))
    | split

end Sys2Proof.Machine
end

