-- ==== Sys2Proof/Laws/Memory.lean ====
section
/-! SUPPORT. What a run of bytes reads, and what a write of memory changes. -/

namespace Sys2Proof.Machine

theorem memByte_cons (c : Host.Cell) (m : List Host.Cell) (a : Nat) : memByte (c :: m) a = if c.1 = a then c.2 else memByte m a := by
  unfold memByte
  rw [aget?]
  split <;> rfl

/-- Cells below an address do not matter to what it reads. -/
theorem memByte_filter (m : List Host.Cell) (p : Nat → Bool) (a : Nat) (h : p a = true) : memByte (m.filter fun c => p c.1) a = memByte m a := by
  induction m with
  | nil => rfl
  | cons c t ih =>
    rw [List.filter_cons, memByte_cons]
    by_cases e : c.1 = a
    · rw [if_pos e, if_pos (by rw [e]; exact h), memByte_cons, if_pos e]
    · rw [if_neg e]
      split
      · rw [memByte_cons, if_neg e, ih]
      · exact ih

/-- Addresses above every listed one read zero. -/
theorem memByte_below (m : List Host.Cell) (a : Nat) (h : ∀ c ∈ m, a < c.1) : memByte m a = 0 := by
  induction m with
  | nil => rfl
  | cons c t ih =>
    rw [memByte_cons, if_neg (Nat.ne_of_gt (h c List.mem_cons_self))]
    exact ih fun d hd => h d (List.mem_cons_of_mem _ hd)

theorem ascending_cons (c : Host.Cell) (t : List Host.Cell) (h : ascending (c :: t) = true) : ascending t = true ∧ ∀ d ∈ t, c.1 < d.1 := by
  induction t generalizing c with
  | nil => exact ⟨rfl, by simp⟩
  | cons d t ih =>
    rw [ascending, Bool.and_eq_true, decide_eq_true_eq] at h
    obtain ⟨_, hd⟩ := ih d h.2
    refine ⟨h.2, fun e he => ?_⟩
    rcases List.mem_cons.mp he with rfl | he
    · exact h.1
    · exact Nat.lt_trans h.1 (hd e he)

/-- Cells in ascending order, none below `a`, read in one pass. -/
theorem runBytes_eq (n a : Nat) (m : List Host.Cell) (h : ascending m = true) (ha : ∀ c ∈ m, a ≤ c.1) :
    runBytes n a m = (List.range n).map fun i => memByte m (a + i) := by
  induction n generalizing a m with
  | zero => rfl
  | succ n ih =>
    rw [List.range_succ_eq_map, List.map_cons, List.map_map]
    show _ = memByte m a :: _
    unfold runBytes
    cases m with
    | nil =>
      rw [ih (a + 1) [] rfl (by simp)]
      rfl
    | cons c t =>
      obtain ⟨ht, hc⟩ := ascending_cons c t h
      by_cases e : c.1 = a
      · have hb : ∀ d ∈ t, a + 1 ≤ d.1 := fun d hd => by have := hc d hd; omega
        simp only [if_pos e]
        rw [ih (a + 1) t ht hb, memByte_cons, if_pos e]
        congr 1
        refine List.map_congr_left fun i _ => ?_
        show memByte t (a + 1 + i) = memByte (c :: t) (a + (i + 1))
        rw [memByte_cons, if_neg (by omega), Nat.add_right_comm a 1 i, Nat.add_assoc]
      · have hb : ∀ d ∈ c :: t, a + 1 ≤ d.1 := fun d hd => by
          rcases List.mem_cons.mp hd with rfl | hd
          · have := ha _ List.mem_cons_self; omega
          · have := hc d hd; have := ha _ List.mem_cons_self; omega
        simp only [if_neg e]
        rw [ih (a + 1) (c :: t) h hb, memByte_below (c :: t) a fun d hd => hb d hd]
        congr 1
        refine List.map_congr_left fun i _ => ?_
        show memByte (c :: t) (a + 1 + i) = memByte (c :: t) (a + (i + 1))
        rw [Nat.add_right_comm a 1 i, Nat.add_assoc]

/-- A run of bytes is the bytes at its addresses, in any list of cells. -/
theorem memGet_eq (m : List Host.Cell) (a n : Nat) : memGet m a n = (List.range n).map fun i => memByte m (a + i) := by
  have hw : ∀ i, memByte (m.filter fun c => decide (a ≤ c.1)) (a + i) = memByte m (a + i) := fun i =>
    memByte_filter m (fun x => decide (a ≤ x)) (a + i) (decide_eq_true (Nat.le_add_right a i))
  unfold memGet
  dsimp only
  split
  · rename_i h
    rw [runBytes_eq n a _ h fun c hc => of_decide_eq_true (List.mem_filter.mp hc).2]
    exact List.map_congr_left fun i _ => hw i
  · exact List.map_congr_left fun i _ => hw i

theorem State.bytes_eq (s : State) (a n : Nat) : s.bytes a n = (List.range n).map fun i => s.byte (a + i) := memGet_eq s.mem a n

@[simp] theorem State.bytes_length (s : State) (a n : Nat) : (s.bytes a n).length = n := by rw [State.bytes_eq]; simp

/-- States whose bytes agree on a range read it alike. -/
theorem State.bytes_congr {s t : State} {a n : Nat} (h : ∀ i, i < n → t.byte (a + i) = s.byte (a + i)) : t.bytes a n = s.bytes a n := by
  rw [State.bytes_eq, State.bytes_eq]
  exact List.map_congr_left fun i hi => h i (List.mem_range.mp hi)

end Sys2Proof.Machine
end

