-- ==== Sys2Proof/Laws/Pages.lean ====
section
/-! SUPPORT. The page that stands at each page base (Table 2-7). -/

namespace Sys2Proof.Machine

theorem pageAt_arrayDie : ∀ n : Fin 8, pageAt (pgArrayDie n) = some ⟨.arrayDie, n / 2, n % 2, 0⟩ := by decide
theorem pageAt_panel : ∀ (n : Fin 8) (p : Fin 68), pageAt (pgPanel n p) = some ⟨.panel, n / 2, n % 2, p⟩ := by decide
theorem pageAt_gradDie : ∀ q : Fin 4, pageAt (pgGradDie q) = some ⟨.gradDie, q, 2, 0⟩ := by decide
theorem pageAt_gradCore : ∀ (q : Fin 4) (c : Fin 16), pageAt (pgGradCore q c) = some ⟨.gradCore, q, 2, c⟩ := by decide
theorem pageAt_vecCore : ∀ (q : Fin 4) (c : Fin 16), pageAt (pgVecCore q c) = some ⟨.vecCore, q, 2, c⟩ := by decide
theorem pageAt_update : ∀ e : Fin 8, pageAt (pgUpdate e) = some ⟨.update, e / 2, 2, e % 2⟩ := by decide
theorem pageAt_watch : ∀ q : Fin 4, pageAt (pgWatch q) = some ⟨.numwatch, q, 2, 0⟩ := by decide
theorem pageAt_memDie : ∀ n : Fin 8, pageAt (pgMemDie n) = some ⟨.memDie, n / 2, 3 + n % 2, 0⟩ := by decide
theorem pageAt_stack : ∀ (n : Fin 8) (i : Fin 4), pageAt (pgStack n i) = some ⟨.stackCtl, n / 2, 3 + n % 2, i⟩ := by decide
theorem pageAt_tierB : ∀ (n : Fin 8) (i : Fin 4), pageAt (pgTierB n i) = some ⟨.tierbCtl, n / 2, 3 + n % 2, i⟩ := by decide
theorem pageAt_dma : ∀ (n : Fin 8) (c : Fin 32), pageAt (pgDma n c) = some ⟨.dma, n / 2, 3 + n % 2, c / 8⟩ := by decide
theorem pageAt_gather : ∀ n : Fin 8, pageAt (pgGather n) = some ⟨.gather, n / 2, 3 + n % 2, 0⟩ := by decide
theorem pageAt_seal : ∀ n : Fin 8, pageAt (pgSeal n) = some ⟨.seal, n / 2, 3 + n % 2, 0⟩ := by decide
theorem pageAt_queue : ∀ q : Fin 64, pageAt (pgQueue q) = some ⟨.graphQueue, 0xF, 0xF, q⟩ := by decide
theorem pageAt_monitor : ∀ m : Fin 4, pageAt (pgMonitor m) = some ⟨.monitor, 0xF, 0xF, m⟩ := by decide
theorem pageAt_port : ∀ n : Fin 16, pageAt (pgPort n) = some ⟨.seamPort, 0xF, 0xF, n⟩ := by decide
theorem pageAt_introute : ∀ n : Fin 8, pageAt (pgIntroute n) = some ⟨.introute, 0xF, 0xF, n⟩ := by decide

/-- Every offset of a page belongs to the page. -/
theorem pageAt_in {page o : Nat} (h0 : page % 0x1000 = 0) (h : page ≤ o) (h2 : o < page + 0x1000) : pageAt o = pageAt page := by
  unfold pageAt
  rw [show o / 0x1000 = page / 0x1000 by omega]

end Sys2Proof.Machine
end

