-- ==== Sys2Proof/Laws/Support.lean ====
section
/-! SUPPORT. What the operations that many statements meet do, stated once for the proofs of the statements. -/

namespace Sys2Proof.Machine

open Sys2Proof.Claims

/-- A write that is alive, granted and not kept from BAR2 has its effect. -/
theorem State.onWrite_writes {s : State} {v : View} {p : Nat} {r : Bool} {k : State → State} (h : Writes s v p r) : s.onWrite v p r k = k s := by
  obtain ⟨a, b, c, d⟩ := h
  unfold State.onWrite
  have : (v == .bar0 || !r) = true := by rcases b with rfl | rfl <;> simp
  simp [a, c, d, this]

/-- Where no task waits, nothing is evaluated again. -/
theorem State.settle_noWait {s : State} (h : NoWait s) : s.settle = s := by
  have h1 : s.tasks.find? s.becomesReady = none := by
    rw [List.find?_eq_none]
    intro t ht
    have := h t ht
    unfold State.becomesReady Task.isWaiting
    unfold Task.isHanded at this
    cases hp : t.phase <;> simp_all
  have h2 : (s.tasks.find? fun t => t.isReady && t.flag 1 && !t.condDone && !s.heldBack t) = none := by
    rw [List.find?_eq_none]
    intro t ht
    have := h t ht
    unfold Task.isReady
    unfold Task.isHanded at this
    cases hp : t.phase <;> simp_all
  have h3 : s.settleOne = none := by
    unfold State.settleOne
    rw [h1, h2]
  unfold State.settle State.settleFor
  rw [h3]

theorem State.pumpGrad_none {s : State} {q : Nat} (h : s.gradRuns = []) : s.pumpGrad q = s := by
  unfold State.pumpGrad
  generalize List.range 16 = l
  induction l with
  | nil => rfl
  | cons c t ih =>
    rw [List.foldl_cons]
    have : s.feedCore q c = s := by
      unfold State.feedCore State.gradOf
      rw [h]
      split <;> rfl
    rw [this, ih]

theorem State.pumpVec_none {s : State} {q : Nat} (h : s.vecRuns = []) : s.pumpVec q = s := by
  unfold State.pumpVec
  generalize List.range 16 = l
  induction l with
  | nil => rfl
  | cons c t ih =>
    rw [List.foldl_cons]
    have : s.feedVec q c = s := by
      unfold State.feedVec State.vecOf
      rw [h]
      split <;> rfl
    rw [this, ih]

theorem State.pumpArrays_none {s : State} (h : s.arrOrder = []) : s.pumpArrays = s := by
  unfold State.pumpArrays
  rw [h]; rfl

theorem State.pumpDma_none {s : State} {n : Nat} (h : s.dmaQueue = []) : s.pumpDma n = s := by
  unfold State.pumpDma
  rw [h]; rfl

/-- Where no work waits, a block that becomes ready takes no work. -/
theorem State.offerWork_still {s : State} {p : PageRef} (h : Still s) : s.offerWork p = s := by
  obtain ⟨_, hg, hv, ha, hd⟩ := h
  unfold State.offerWork
  split
  · exact State.pumpGrad_none hg
  · exact State.pumpGrad_none hg
  · exact State.pumpVec_none hv
  · exact State.pumpArrays_none ha
  · exact State.pumpArrays_none ha
  · exact State.pumpDma_none hd
  · rfl

theorem headerPage_pageAt {page : Nat} {p : PageRef} (h : headerPage page = some p) : pageAt page = some p ∧ page % 0x1000 = 0 := by
  unfold headerPage at h
  split at h
  · exact nomatch h
  · rename_i h0
    split at h
    · split at h
      · exact nomatch h
      · simp_all
    · exact nomatch h

theorem aget?_filter_not (l : List (Nat × Word)) (f : Nat × Word → Bool) (o : Nat) (h : ∀ p, p.1 = o → f p = false) : aget? (l.filter f) o = none := by
  induction l with
  | nil => rfl
  | cons p t ih =>
    rw [List.filter_cons]
    split
    · unfold aget?
      rename_i hf
      have : p.1 ≠ o := fun e => by rw [h p e] at hf; exact nomatch hf
      rw [if_neg this]; exact ih
    · exact ih

/-- A page reset gives each of its registers from 0x100 on its reset word, but for those on flash or kept. -/
theorem State.reg_resetRegs_in {s : State} {page : Nat} {keep : Nat → Bool} {o : Nat} (h : page + 0x100 ≤ o) (h2 : o < page + 0x1000)
    (hf : flashReg o = false) (hk : keep (o % 0x1000) = false) : (s.resetRegs page keep).reg o = resetWord o := by
  unfold State.reg State.resetRegs
  simp only
  rw [aget?_filter_not]
  · rfl
  · rintro ⟨a, w⟩ rfl
    simp [h, h2, hf, hk]

/-- A page reset leaves every register outside the page. -/
theorem State.reg_resetRegs_out {s : State} {page : Nat} {keep : Nat → Bool} {o : Nat} (h : ¬(page + 0x100 ≤ o ∧ o < page + 0x1000)) :
    (s.resetRegs page keep).reg o = s.reg o := by
  unfold State.reg State.resetRegs
  simp only
  rw [aget?_filter]
  intro w
  have : (decide (page + 0x100 ≤ o) && decide (o < page + 0x1000)) = false := by
    by_contra hc
    simp at hc
    exact h hc
  rw [this]; rfl

/-- Classes whose block reset only resets registers. -/
theorem State.resetBlock_plain {s : State} {p : PageRef} {page : Nat}
    (hc : p.cls ∈ [Cls.device, .power, .clock, .calib, .host, .graphSched, .introute]) :
    s.resetBlock p page = s.resetRegs page p.cls.mirror := by
  unfold State.resetBlock
  simp only [List.mem_cons, List.not_mem_nil, or_false] at hc
  rcases hc with hc | hc | hc | hc | hc | hc | hc <;> rw [hc] <;> rfl

theorem flashReg_plain {p : PageRef} {o : Nat} (hpa : pageAt o = some p)
    (hc : p.cls = .stackCtl ∨ p.cls = .tierbCtl ∨ p.cls = .gather ∨ p.cls = .introute) : flashReg o = false := by
  unfold flashReg
  rw [hpa]
  rcases hc with hc | hc | hc | hc <;> simp [hc]

/-- Clearing words changes nothing but registers. -/
theorem State.clearWords_frame (s : State) (page lo hi : Nat) : ∃ r, s.clearWords page lo hi = { s with regs := r } := by
  unfold State.clearWords
  generalize List.range ((hi - lo) / 4 + 1) = l
  induction l generalizing s with
  | nil => exact ⟨_, rfl⟩
  | cons x t ih =>
    rw [List.foldl_cons]
    obtain ⟨r, e⟩ := s.setReg_frame (page + lo + 4 * x) 0
    rw [e]
    obtain ⟨r', e'⟩ := ih { s with regs := r }
    exact ⟨r', e'⟩

/-- The words cleared read 0, and the others as before. -/
theorem State.reg_clearWords (s : State) (page lo hi o : Nat) (h : lo ≤ hi) (h4 : (hi - lo) % 4 = 0) :
    (s.clearWords page lo hi).reg o = if page + lo ≤ o ∧ o ≤ page + hi ∧ (o - (page + lo)) % 4 = 0 then 0 else s.reg o := by
  have key : ∀ (n : Nat) (s : State), ((List.range n).foldl (fun t i => t.setReg (page + lo + 4 * i) 0) s).reg o =
      if page + lo ≤ o ∧ o < page + lo + 4 * n ∧ (o - (page + lo)) % 4 = 0 then 0 else s.reg o := by
    intro n
    induction n with
    | zero => intro s; rw [if_neg (by omega)]; rfl
    | succ n ih =>
      intro s
      rw [List.range_succ, List.foldl_append]
      simp only [List.foldl_cons, List.foldl_nil]
      by_cases e : o = page + lo + 4 * n
      · subst e
        rw [State.reg_setReg_self, if_pos (by omega)]
      · rw [State.reg_setReg_other _ _ _ _ e, ih]
        by_cases h1 : page + lo ≤ o ∧ o < page + lo + 4 * n ∧ (o - (page + lo)) % 4 = 0
        · rw [if_pos h1, if_pos (by omega)]
        · rw [if_neg h1, if_neg (by omega)]
  unfold State.clearWords
  rw [key]
  by_cases h1 : page + lo ≤ o ∧ o ≤ page + hi ∧ (o - (page + lo)) % 4 = 0
  · rw [if_pos h1, if_pos (by omega)]
  · rw [if_neg h1, if_neg (by omega)]

end Sys2Proof.Machine
end

