-- ==== Sys2Proof/Tests/Slice0.lean ====
section
/-! SUPPORT. The model's own tests: terms that are not well formed, small steps checked against the manual, and for every statement
states and operands that meet what it assumes. -/

open Sys2Proof Sys2Proof.Machine Sys2Proof.Claims

namespace Sys2Proof.Tests

set_option Elab.async false

/-! States. -/

/-- The module out of power-on reset. -/
def up : State := { State.reset with power := ⟨true, false, false, false, 0, false, 3⟩ }

/-- The module with a graph queue enabled once. -/
def live : State := up.wf pgDevice R.DEVICE.DEV_STATE_STATE 4

/-- Power, reset over, not stopped. -/
theorem up_live : Up up ∧ Up live := by unfold Up; decide +kernel

/-! Ill-formed commands: one term for each check of `Instr.wellFormed`. -/

theorem test_wf_registerWrite : (Instr.registerWrite (.regs .bar0) (pgTempo + 2) 0).wellFormed = false ∧
    (Instr.registerWrite (.regs .bar0) 0x2000000 0).wellFormed = false ∧ (Instr.registerWrite (.regs .bar0) (pgTempo + 0x100) 0).wellFormed = true ∧
    (Instr.registerWrite .bar4 0x20000 0).wellFormed = false ∧ (Instr.registerWrite .bar4 12 0).wellFormed = true := by decide +kernel
theorem test_wf_badAccess : (Instr.badAccess .bar0 (pgTempo + 0x100) 4 true).wellFormed = false ∧
    (Instr.badAccess .bar0 pgTempo 3 true).wellFormed = false ∧ (Instr.badAccess .bar0 pgTempo 8 true).wellFormed = true := by decide +kernel
theorem test_wf_pairs : (Instr.pairLoRead (.regs .bar0) (pgTempo + 1)).wellFormed = false ∧ (Instr.pairHiWrite .bar0 (pgTempo + 1) 0).wellFormed = false := by
  decide +kernel
theorem test_wf_pages : ∀ b ∈ [0x1001, 0x1FFF000], (Instr.quiesce .bar0 b true).wellFormed = false ∧
    (Instr.blockReset .bar0 b).wellFormed = false ∧ (Instr.blockResetDone b).wellFormed = false ∧
    (Instr.pageEnable .bar0 b true).wellFormed = false ∧ (Instr.intStatusClear .bar0 b 0 0).wellFormed = false ∧
    (Instr.intEnableWrite .bar0 b 0).wellFormed = false ∧ (Instr.intSet .bar0 b 0).wellFormed = false := by decide +kernel
theorem test_wf_hostMemWrite : (Instr.hostMemWrite 0 []).wellFormed = false ∧
    (Instr.hostMemWrite (30517 * 0x10000000) [0]).wellFormed = false ∧ (Instr.hostMemWrite 0 [1]).wellFormed = true := by decide +kernel
theorem test_wf_hostMemRead : (Instr.hostMemRead (30517 * 0x10000000)).wellFormed = false := by decide +kernel
theorem test_wf_backInvalidate : (Instr.backInvalidateResponse 0).wellFormed = false ∧
    (Instr.backInvalidateResponse (0x40000000000 / 64)).wellFormed = true := by decide +kernel
theorem test_wf_cxlLink : (Instr.cxlLinkChange ⟨3, 0, true, false, false, false⟩).wellFormed = false := by decide +kernel
theorem test_wf_spdm : (Instr.spdmRequest ⟨false, .measurement 0⟩).wellFormed = false ∧
    (Instr.spdmRequest ⟨false, .measurement 5⟩).wellFormed = false := by decide +kernel
theorem test_wf_ide : (Instr.ideIntegrityFailure 0 ⟨.mem, .memWrite 0 []⟩).wellFormed = false ∧
    (Instr.ideIntegrityFailure 0 ⟨.io, .regWrite .bar4 2 0⟩).wellFormed = false := by decide +kernel
theorem test_wf_retire : (Instr.retireCtlRetire .bar0 0 68).wellFormed = false ∧ (Instr.retireCtlReinstate .bar0 0 68).wellFormed = false ∧
    (Instr.retireCtlRetire .bar0 0 67).wellFormed = true := by decide +kernel
theorem test_wf_dram : (Instr.dramReadComplete 32 .good).wellFormed = false ∧
    (Instr.dramReadComplete 0xC0000000000 .good).wellFormed = false := by decide +kernel
theorem test_wf_flit : (Instr.flitReceive 0 [] (.corrected 0)).wellFormed = false := by decide +kernel

/-! Registers and interrupts. -/

theorem witness_StepKeepsCanonicalForm : up.Canonical ∧ ∃ t, step up = .next t :=
  ⟨⟨⟨List.Pairwise.nil, by decide⟩, rfl, List.Pairwise.nil⟩, _, rfl⟩

theorem witness_StepsKeepQueueAndFuses : ∃ t, step { up with pending := [.tempoTick, .idcode] } = .next t := ⟨_, rfl⟩

/-- A command answers a next state with a property. -/
def gives (c : Instr) (s : State) (p : State → Bool) : Bool := match exec c s with
  | .next t => p t
  | _ => false

theorem witness_UngrantedPageIgnoresBar2 : Up up ∧ (pgDma 0 0 + 0x100) % 4 = 0 ∧
    (∀ o ∈ [pgDma 0 0 + 0x100, pgPower + R.POWER.RESET_CTL_MODULE.off],
      ((pageAt o).any fun p => !up.grantedPage p && p.cls != .device) = true) := by unfold Up; decide +kernel

theorem witness_IgnoredWhereNotGranted : ownWrite (.recSelWrite .bar2 0) = some (.bar2, pgRecord, false) ∧ ¬Writes up .bar2 pgRecord false ∧
    ownWrite (.hostLevelWrite .bar2 0) = some (.bar2, pgDevice, true) ∧ ¬Writes up .bar2 pgDevice true := by unfold Writes; decide +kernel

theorem witness_BadAccessIsCounted : ¬(8 = 4 ∧ pgTempo % 4 = 0 ∧ occupied pgTempo = true) ∧
    ¬(4 = 4 ∧ (pgTempo + 2) % 4 = 0 ∧ occupied (pgTempo + 2) = true) := by decide +kernel

/-- A register of the CALIB page that selects, and one of the GATHER pages. -/
def calOff : Nat := pgCalib + R.CALIB.TBL_SEL_QUAD.off

theorem witness_RegisterWrites : PlainAt live .bar0 calOff ⟨.calib, 0xF, 0xF, 0⟩ ∧
    PlainAt live .bar0 (pgPanel 0 0 + R.PANEL.SLEEVE_CTL_ZSKIP_DIS.off) ⟨.panel, 0, 0, 0⟩ ∧
    ({ live with tasks := [⟨1, 0, 0, false, [], 0, 0, 0, false, 0, 0, false, .running, 0, [pgPanel 0 0], [], 0⟩] }).betweenTasks (pgPanel 0 0) = false := by
  refine ⟨?_, ?_, by decide +kernel⟩ <;> constructor <;> first | exact up_live.2 | decide +kernel

theorem witness_RegisterWritesWhole : (Cls.fieldsAt .calib (calOff % 0x1000)).all (fun f => f.part == .whole) = true ∧
    (Cls.fieldsAt .panel R.PANEL.SLEEVE_CTL_ZSKIP_DIS.off).any (fun f => f.acc == .rwp) = true := by decide +kernel

/-- R45: a field of a panel's `SLEEVE_CTL` takes its own bit. -/
theorem test_sleeveCtl : gives (.registerWrite (.regs .bar0) (pgPanel 0 0 + R.PANEL.SLEEVE_CTL_ZSKIP_DIS.off) 0xFFFFFFFF) live
    (fun t => t.rf (pgPanel 0 0) R.PANEL.SLEEVE_CTL_ZSKIP_DIS == 1) = true := by decide +kernel

theorem witness_Bar4 : (16 : Nat) < 0x8000 ∧ 16 % 16 ≠ 12 ∧ (0x7FF8 : Nat) < 0x8000 ∧ 0x7FF8 % 16 ≠ 12 ∧ (0x8000 : Nat) < 0x10000 := by decide

/-- The HI half of a queue's ring base. -/
def ringHi : Nat := pgQueue 63 + R.GRAPH_QUEUE.RING_BASE_HI_ADDR.off

theorem witness_PairReadLatchesHighHalf : Up { up with pairRead := [(ringHi, 5)] } ∧ ringHi % 4 = 0 ∧ occupied ringHi = true ∧
    pairHalf .hi ringHi = true ∧ pairHalf .lo (ringHi - 4) = true ∧ occupied (ringHi - 4) = true ∧ up.readableAt .bar0 ringHi = true ∧
    up.readableAt .bar0 (ringHi - 4) = true ∧ aget? { up with pairRead := [(ringHi, 5)] }.pairRead ringHi = some 5 ∧
    aget? up.pairRead ringHi = none := by unfold Up; decide +kernel

/-- The LO half of the key table's address of gradient die 3. -/
def keyLo : Nat := pgGradDie 3 + R.GRAD_DIE.KEY_TABLE_LO_ADDR.off

theorem witness_PairHiWriteCommitsBothHalves : PlainAt { live with pairHold := [(keyLo + 4, 0xFFFFF000)] } .bar0 keyLo ⟨.gradDie, 3, 2, 0⟩ ∧
    PlainAt { live with pairHold := [(keyLo + 4, 0xFFFFF000)] } .bar0 (keyLo + 4) ⟨.gradDie, 3, 2, 0⟩ ∧
    HalfAt ⟨.gradDie, 3, 2, 0⟩ .lo .bar0 keyLo ∧ HalfAt ⟨.gradDie, 3, 2, 0⟩ .hi .bar0 (keyLo + 4) ∧
    ¬HalfAt ⟨.gradDie, 3, 2, 0⟩ .lo .bar0 (keyLo + 4) := by
  have h : Up { live with pairHold := [(keyLo + 4, 0xFFFFF000)] } := by unfold Up; decide +kernel
  refine ⟨?_, ?_, ?_⟩
  · constructor <;> first | exact h | decide +kernel
  · constructor <;> first | exact h | decide +kernel
  · unfold HalfAt; decide +kernel

/-- R38: the pair takes both written halves when HI is written. -/
theorem test_pair : gives (.pairHiWrite .bar0 (keyLo + 4) 7) { live with pairHold := [(keyLo + 4, 0x12345FFF)] }
    (fun t => t.rf64 (pgGradDie 3) R.GRAD_DIE.KEY_TABLE_LO_ADDR R.GRAD_DIE.KEY_TABLE_HI_ADDR == 0x712345000) = true := by decide +kernel

theorem witness_QuiesceAndEnable : Writes live .bar0 (pgGather 7) false ∧ (headerPage (pgGather 7)).isSome = true ∧ Still live := by
  unfold Writes Still NoWait; decide +kernel

theorem witness_BlockReset : ∀ page ∈ [pgDevice, pgPower, pgClock, pgCalib, pgHost, pgSched, pgStack 0 0, pgTierB 7 3, pgGather 0, pgIntroute 7],
    Writes live .bar0 page false ∧ ((headerPage page).any fun p =>
      [Cls.device, .power, .clock, .calib, .host, .graphSched, .introute, .stackCtl, .tierbCtl, .gather].contains p.cls) = true := by
  unfold Writes; decide +kernel

theorem witness_BlockResetDone : bit ((live.setReg (pgGather 0 + oPAGE_CTL) 0x80000000).hdr (pgGather 0) oPAGE_CTL) 31 = true ∧
    ((headerPage (pgGather 0)).any fun p => p.cls != .gradDie) = true := by decide +kernel

/-- Cause 0 of the RECORD page enabled, its vector 2047 unmasked. -/
def enabled : State :=
  ((live.setReg (pgRecord + oINT_ENABLE) 1).setReg (pgRecord + oINT_VECTOR) 2047).setBar4 (16 * 2047 + 12) 0

theorem witness_InterruptRegisters : Writes enabled .bar0 pgRecord false ∧ enabled.power.held = false ∧
    ((headerPage pgRecord).any fun p => bit p.cls.causes 0 && bit p.cls.causes 1) = true ∧ bit (enabled.hdr pgRecord oINT_STATUS) 0 = false ∧
    bit (enabled.hdr pgRecord oINT_ENABLE) 0 = true ∧ bit (enabled.hdr pgRecord oINT_ENABLE) 1 = false ∧
    bit ((enabled.setReg (pgRecord + oINT_STATUS) 2).hdr pgRecord oINT_STATUS) 1 = true := by unfold Writes; decide +kernel

theorem witness_Raised : enabled.masked 2047 = false ∧ live.masked 2047 = true ∧ Claims.vecOf enabled pgRecord = 2047 ∧
    aget? enabled.host.moderating 2047 = none := by decide +kernel

/-- R51: a cause that becomes 1 and is enabled raises the vector of its page. -/
theorem test_raise : gives (.intSet .bar0 pgRecord 1) enabled (fun t => t.host.msix == [⟨2047, 0, 0⟩]) = true := by decide +kernel

/-- R52: a cause set in the clock of its clearing raises the vector again. -/
theorem test_raiseAgain : gives (.intStatusClear .bar0 pgRecord 1 1) (enabled.setReg (pgRecord + oINT_STATUS) 1)
    (fun t => t.host.msix == [⟨2047, 0, 0⟩] && bit (t.hdr pgRecord oINT_STATUS) 0) = true := by decide +kernel

theorem witness_GrantAndLevelWrites : Writes live .bar0 pgDevice true ∧ (∀ q, q < 64 → live.queueOn q = false) := by
  unfold Writes; decide +kernel

theorem witness_LevelWriteIgnored : Writes (live.wf (pgQueue 63) R.GRAPH_QUEUE.Q_CTL_EN 1) .bar0 pgDevice true ∧
    (live.wf (pgQueue 63) R.GRAPH_QUEUE.Q_CTL_EN 1).queueOn 63 = true := by unfold Writes; decide +kernel

/-- The commands that clear counts. -/
def clears : List Instr := [.panelCountClear .bar0 0 0, .gradCoreCountClear .bar0 3 15, .vecCoreCountClear .bar0 0 0, .updateCountClear .bar0 7,
  .numwatchCountClear .bar0 3, .graphSchedCountClear .bar0, .memDieCountClear .bar0 7, .gatherCountClear .bar0 0, .seamPortCountClear .bar0 7,
  .collectiveCountClear .bar0, .seamMgmtCountClear .bar0, .maintCountClear .bar0, .sealCountClear .bar0 7, .monitorCountClear .bar0 3]

theorem witness_CountClears : ∀ c ∈ clears, ((countClear c).any fun r => live.granted r.1 r.2.1 && live.betweenTasks r.2.1) = true := by
  decide +kernel

theorem witness_ControllerAndPowerCountClear : Writes live .bar0 (pgTierB 7 3) false ∧ Writes live .bar0 (pgStack 0 0) false ∧
    Writes live .bar0 pgPower false := by unfold Writes; decide +kernel

theorem witness_ModerationAndUnmasking :
    aget? { live.host with moderating := [(0, false), (2047, true)] }.moderating 0 = some false ∧
    aget? { live.host with moderating := [(0, false), (2047, true)] }.moderating 2047 = some true ∧
    (live.setReg (offVecCtl 2047) 0x80000000).vecPending 2047 = true ∧ live.vecPending 0 = false ∧ live.masked 0 = true ∧
    (live.setBar4 12 0).masked 0 = false := by decide +kernel

theorem test_moderation_sends_merged : gives (.moderationExpiry 0)
    { live with host := { live.host with moderating := [(0, true)], bar4 := [(0, 0x1000), (8, 5), (12, 0)] } }
    (fun t => t.host.msix == [⟨0, 0x1000, 5⟩]) = true := by decide +kernel

/-! The host port. -/

/-- A line that the host holds, one with an uncorrectable error, and one waiting request. -/
def hostful : State := { live with host := ⟨1, [tierBBase / 64], [tierBBase / 64], [tierBBase / 64 + 1], [], [], []⟩ }

theorem witness_HostMemory : Up hostful ∧ 3 ≤ hostful.devState ∧ hdmSize - 1 + [(0 : Byte)].length ≤ hdmSize ∧ 0 / 64 * 64 + 64 ≤ hdmSize ∧
    hostful.host.badLines.contains ((tierBBase + 0) / 64) = false ∧ tierBBase / 64 ∈ hostful.host.snoops ∧
    hostful.rf pgHost R.HOST.HDM_SEAL_EN = 1 ∧ (hostful.wf pgHost R.HOST.HDM_SEAL_EN 0).rf pgHost R.HOST.HDM_SEAL_EN = 0 := by
  unfold Up; decide +kernel

theorem witness_PoisonIsReturnedAndLogged : 127 / 64 * 64 + 64 ≤ hdmSize ∧ hostful.host.badLines.contains ((tierBBase + 127) / 64) = true := by
  decide +kernel

theorem witness_CacheRequests : 0 < hostful.host.waiting ∧ hostful.rf pgHost R.HOST.CACHE_INFLIGHT_COUNT < 512 ∧
    512 ≤ (hostful.wf pgHost R.HOST.CACHE_INFLIGHT_COUNT 512).rf pgHost R.HOST.CACHE_INFLIGHT_COUNT := by decide +kernel

/-- The Tier B window of the host begins at device address 0x400_0000_0000 (R27). -/
theorem test_host_write : gives (.hostMemWrite 5 [0xAB]) (live.wf pgHost R.HOST.HDM_SEAL_EN 0) (fun t => decide (t.byte 0x40000000005 = 0xAB)) = true := by decide +kernel

theorem witness_ConfigurationAndLink : (up.wf pgDevice R.DEVICE.DEV_STATE_STATE 1).devState = 1 ∧
    (up.wf pgDevice R.DEVICE.DEV_STATE_STATE 2).devState = 2 ∧ 3 ≤ live.devState ∧ linkWidth (16 : Fin 17) = true ∧
    (live.wf pgHost R.HOST.LINK_STATUS_IDE_IO 1).ideOn .io = true ∧ (live.wf pgHost R.HOST.LINK_STATUS_IDE_CM 1).ideOn .mem = true ∧
    live.sec.skid = false := by
  decide +kernel

theorem witness_SpdmAnswers : Up { live with sec := { live.sec with session := true } } ∧
    3 ≤ { live with sec := { live.sec with session := true } }.devState ∧ live.sec.session = false := by unfold Up; decide +kernel

/-- R57: in containment mode nothing that a failed flit carries is used; in skid mode it has been. -/
theorem test_ide : ∀ x ∈ [(false, 0), (true, 0xAB)],
    gives (.ideIntegrityFailure 1 ⟨.mem, .memWrite 5 [0xAB]⟩)
      { live.wfs pgHost [(R.HOST.LINK_STATUS_IDE_CM, 1), (R.HOST.HDM_SEAL_EN, 0)] with sec := { live.sec with skid := x.1 } }
      (fun t => (t.byte 0x40000000005).toNat == x.2) = true := by decide +kernel

theorem witness_PowerCapTakesNearestLegalValue : Up live := up_live.2

/-- R45: a value below or above the range takes its end, and only then a clamp counts. -/
theorem test_powerCap : ∀ x ∈ [(999, 1000, 1), (1000, 1000, 0), (2800, 2800, 0), (2801, 2800, 1)],
    gives (.registerWrite (.regs .bar0) (pgPower + R.POWER.CAP_W.off) (BitVec.ofNat 32 x.1)) live
      (fun t => t.rf pgPower R.POWER.CAP_W == x.2.1 && t.rf pgDevice R.DEVICE.CLAMP_COUNT == x.2.2) = true := by decide +kernel

/-! Tasks. -/

/-- Host memory (R25): its blocks carry no seal. -/
def H : Nat := hostBase

/-- The module with its clocks locked, blocks enabled, and the numbers of `(address, bytes, value)` in memory. -/
def mach (ms : List (Nat × Nat × Nat)) : State :=
  { [pgPanel 0 0, pgGradCore 0 0, pgVecCore 0 0, pgUpdate 0, pgDma 0 0, pgGather 0].foldl (fun s p => s.setHdrBit p oPAGE_CTL 0 true)
      (live.setReg (pgClock + R.CLOCK.PLL_LOCK_REFCLK.off) 0xFFFFFFFF) with
    mem := ms.foldl (fun m x => memPut m x.1 (leBytes x.2.1 x.2.2)) [] }

/-- A descriptor with `(offset, bytes, value)` in it. -/
def desc (fs : List (Nat × Nat × Nat)) : List Byte :=
  fs.foldl (fun d x => d.take x.1 ++ leBytes x.2.1 x.2.2 ++ d.drop (x.1 + x.2.1)) (List.replicate 64 0)

/-- Task `n` of queue 0. -/
def job (n : Nat) (fs : List (Nat × Nat × Nat)) (ph : Phase) (pages : List Nat := []) : Task :=
  ⟨n, 0, n, false, desc fs, 0, 0, 0, false, 0, 0, false, ph, 0, pages, [], 0⟩

/-- A state with tasks. -/
def withTasks (s : State) (ts : List Task) : State := { s with tasks := ts }

/-- The waits of every descriptor unused. -/
def noWaits : List (Nat × Nat × Nat) := [(4, 2, 0xFFFF), (8, 2, 0xFFFF), (12, 2, 0xFFFF), (16, 2, 0xFFFF)]

/-! Arrays. -/

/-- A placement descriptor of one KT2 panel, tag 7, layer 0, one row and one column. -/
def place1 : List (Nat × Nat × Nat) := [(H, 4, 7), (H + 4, 1, 1), (H + 8, 4, 1), (H + 12, 4, 1), (H + 16, 2, 1), (H + 18, 2, 1), (H + 20, 2, 1)]

/-- An array read of `tokens` tokens from KA8 to KA8. -/
def readJob (type tokens : Nat) : Task :=
  job 5 (noWaits ++ [(0, 1, type), (32, 8, H), (40, 8, H + 0x1000), (48, 4, tokens), (52, 1, 8), (53, 1, 8)]) (.ready 0)

/-- Panel 0 of die 0 valid with tag 7, its records loaded. -/
def panelled : State :=
  let s := (mach place1).setContent (pgPanel 0 0) 2
  { s.wf (pgPanel 0 0) R.PANEL.CONTENT_TAG 7 with dieCals := [(0, ⟨true, false, true, 0x3F800000⟩)] }

theorem witness_ArrayReadsStart : ∀ rev : Bool, let t := readJob (if rev then 0x12 else 0x11) 1
    let s := withTasks panelled [t]
    s.dispatchable 5 [if rev then 0x12 else 0x11] = some t ∧ ArrayGo s t (readRanges s t rev) ∧ t.fld 48 4 ≠ 0 ∧ PlaceGood s t ∧
    arrIn t = some .ka8 ∧ arrOut t = some .ka8 ∧ (∀ e ∈ (placed s t).ents, s.entryAlias e ≠ 0xFF) ∧ s.arrayRun? 5 = none := by
  intro rev
  unfold ArrayGo PlaceGood
  cases rev <;> decide +kernel

theorem witness_ArrayReadsWait : let s := withTasks (panelled.setHdrBit (pgPanel 0 0) oPAGE_CTL 1 true) [readJob 0x11 1]
    s.dispatchable 5 [0x11] = some (readJob 0x11 1) ∧ ArrayGo s (readJob 0x11 1) (readRanges s (readJob 0x11 1) false) ∧ PlaceGood s (readJob 0x11 1) ∧
    (∀ e ∈ (placed s (readJob 0x11 1)).ents, s.entryAlias e ≠ 0xFF ∧ s.panelFree (s.entryPage e) = false) := by
  unfold ArrayGo PlaceGood; decide +kernel

theorem witness_ArrayReadsWithoutTokens : ∀ rev : Bool, let t := readJob (if rev then 0x12 else 0x11) 0
    (withTasks panelled [t]).dispatchable 5 [if rev then 0x12 else 0x11] = some t ∧ t.fld 48 4 = 0 ∧
    ArrayGo (withTasks panelled [t]) t (readRanges (withTasks panelled [t]) t rev) := by
  unfold ArrayGo; decide +kernel

/-- A descriptor with format code 3: check 1; a task with a reserved format. -/
def badPlace : State :=
  withTasks { panelled with mem := memPut panelled.mem (H + 4) [3] } [readJob 0x11 1]

/-- A task with a reserved input format. -/
def badFmtJob : Task :=
  job 5 (noWaits ++ [(0, 1, 0x11), (32, 8, H), (40, 8, H + 0x1000), (48, 4, 1), (52, 1, 0x3F), (53, 1, 8)]) (.ready 0)

theorem witness_ArrayReadRefuses : badPlace.dispatchable 5 [0x11] = some (readJob 0x11 1) ∧
    ArrayGo badPlace (readJob 0x11 1) (readRanges badPlace (readJob 0x11 1) false) ∧ (readJob 0x11 1).fld 48 4 ≠ 0 ∧
    faultIn ((readJob 0x11 1).addr 32) 4096 = none ∧ badPlace.blockOk ((readJob 0x11 1).addr 32 / 4096) = true ∧
    arrIn (readJob 0x11 1) = some .ka8 ∧ arrOut (readJob 0x11 1) = some .ka8 ∧ (placed badPlace (readJob 0x11 1)).check = 1 ∧
    (withTasks panelled [badFmtJob]).dispatchable 5 [0x11] = some badFmtJob ∧ arrIn badFmtJob = none ∧
    ArrayGo (withTasks panelled [badFmtJob]) badFmtJob (readRanges (withTasks panelled [badFmtJob]) badFmtJob false) := by
  unfold ArrayGo; decide +kernel

/-- A read of two tokens, none written. -/
def mergeRun : ArrayRun := ⟨5, [], [], [], false, false, 0, none, 2, 0, none, Counts.none, 0, 0, 0, 0, 0, 0, [none, none, none], []⟩

/-- Tokens 0 and 1 of a read of two slabs, the additions of token 0 still to come. -/
def merging : State :=
  { withTasks (mach []) [readJob 0x11 2] with
    partials := [⟨5, 0, 0, 0, [0x3F800000]⟩, ⟨5, 0, 0, 1, [0x40000000]⟩, ⟨5, 1, 0, 1, [0x40000000]⟩]
    arrRuns := [mergeRun] }

theorem witness_CrossPanelAddition : merging.task? 5 = some (readJob 0x11 2) ∧ merging.arrayRun? 5 = some mergeRun ∧
    arrIn (readJob 0x11 2) = some .ka8 ∧ arrOut (readJob 0x11 2) = some .ka8 ∧ mergeRun.todo = [] ∧ mergeRun.ending = none ∧ mergeRun.written = 0 ∧ mergeRun.written < mergeRun.tokens ∧
    nextSender (merging.slabsLeft 5 0 0) 0 = some 1 ∧ nextSender (merging.slabsLeft 5 0 0) 1 = none ∧
    merging.partials.filter (fun p => p.task == 5 && p.group == 0 && p.token == 0 && p.slab == 0) = [⟨5, 0, 0, 0, [0x3F800000]⟩] ∧
    merging.partials.filter (fun p => p.task == 5 && p.group == 0 && p.token == 0 && p.slab == 1) = [⟨5, 0, 0, 1, [0x40000000]⟩] ∧
    (∃ p ∈ merging.partials, p.task = 5 ∧ p.token = 0 ∧ p.slab ≠ 0 ∧ ¬(p.group = 0 ∧ (p.slab = 1 ∨ p.slab = 0))) :=
  by decide +kernel

/-- An ARRAY_LOAD of `count` entries of `place1` with the tag 7 from the image at `H + 0x2000`. -/
def loadJob (count : Nat) : Task :=
  job 5 (noWaits ++ [(0, 1, 0x10), (32, 8, H), (40, 8, H + 0x2000), (56, 4, 7), (62, 2, count)]) (.ready 0)

/-- Panel 0 of die 0 without content, an image of one KT2 tile with the tag 7. -/
def loadable (count : Nat) : State :=
  withTasks { mach (place1 ++ [(H + 0x2000, 4, 7), (H + 0x2004, 1, 1), (H + 0x2008, 4, 1)]) with
    dieCals := [(0, ⟨true, false, true, 0x3F800000⟩)] } [loadJob count]

theorem witness_ArrayLoadStarts : (∀ k ∈ [0, 1], (loadable k).dispatchable 5 [0x10] = some (loadJob k) ∧
      ArrayGo (loadable k) (loadJob k) (loadRanges (loadJob k)) ∧ (loadJob k).fld 62 2 % 1024 = k) ∧
    PlaceGood (loadable 1) (loadJob 1) ∧ (loadJob 1).fld 60 2 < (placed (loadable 1) (loadJob 1)).count ∧
    nth (placed (loadable 1) (loadJob 1)).ents ((loadJob 1).fld 60 2) 0 = 0 ∧
    (loadable 1).entryAlias 0 < 68 ∧ (loadable 1).panelFree ((loadable 1).entryPage 0) = true ∧ (loadable 1).arrOrder = [] ∧
    (loadable 1).arrayRun? 5 = none ∧ (loadable 1).loadRun? 5 = none ∧
    faultIn ((loadJob 1).addr 40 / 4096 * 4096) 4096 = none ∧ (loadable 1).blockOk ((loadJob 1).addr 40 / 4096) = true ∧
    ((loadable 1).imageHead ((loadJob 1).addr 40 / 4096 * 4096)).2.1 = (placed (loadable 1) (loadJob 1)).fmt ∧
    ((loadable 1).imageHead ((loadJob 1).addr 40 / 4096 * 4096)).1 = (loadJob 1).fld 56 4 ∧ (loadJob 1).fld 56 4 ≠ 0 := by
  unfold ArrayGo PlaceGood; decide +kernel

/-- A load of panel 0 of die 0 of one tile, its next block `k`. -/
def tileLoad (kind : LoadKind) (k : Nat) : Load := ⟨pgPanel 0 0, kind, H + 0x2000, 0, 1, 7, 1, false, k, 0, 0, [], true, []⟩

/-- The machine with that load. -/
def loading (kind : LoadKind) (k : Nat) : State := { loadable 1 with loads := [tileLoad kind k] }

theorem witness_LoadBlockArrives : ∀ k ∈ [0, 15, 16], (loading (.task 5) k).clocked (pllArray 0) = true ∧
    ((loading (.task 5) k).loads.find? fun l => l.page == pgPanel 0 0) = some (tileLoad (.task 5) k) ∧
    (tileLoad (.task 5) k).blockAddr k = some (H + 0x3000 + 0x1000 * k) ∧ (loading (.task 5) k).markedIn [(H + 0x3000 + 0x1000 * k, 4096)] = [] ∧
    faultIn (H + 0x3000 + 0x1000 * k) 4096 = none ∧ (loading (.task 5) k).blockOk ((H + 0x3000 + 0x1000 * k) / 4096) = true ∧
    (k < 16 * (tileLoad (.task 5) k).tilesHere ∨
      16 * (tileLoad (.task 5) k).tilesHere ≤ k ∧ k + 1 = (tileLoad (.task 5) k).blockCount) := by decide +kernel

/-- The same load of an image in Tier A, one line of its first block uncorrectable. -/
def badLoad : State :=
  { loading (.task 5) 0 with
    loads := [{ tileLoad (.task 5) 0 with image := 0 }]
    host := { (loading (.task 5) 0).host with badLines := [64] } }

theorem witness_LoadBlockFails : badLoad.clocked (pllArray 0) = true ∧ ({ tileLoad (.task 5) 0 with image := 0 } : Load).blockAddr 0 = some 4096 ∧
    badLoad.markedIn [(4096, 4096)] = [] ∧ faultIn 4096 4096 = none ∧ badLoad.badBlock 1 = true := by decide +kernel

/-- Panel 0 of die 0 in a content state. -/
def aged (c : Nat) : State := (loadable 1).setContent (pgPanel 0 0) c

theorem witness_PanelAges : (((aged 2).wf (pgPanel 0 0) R.PANEL.CONTENT_AGE 5859375).content (pgPanel 0 0) = 2 ∧
      ((aged 2).wf (pgPanel 0 0) R.PANEL.CONTENT_AGE 5859375).rf (pgArrayDie 0) R.ARRAY_DIE.REFRESH_AGE_AGE ≤
        ((aged 2).wf (pgPanel 0 0) R.PANEL.CONTENT_AGE 5859375).rf (pgPanel 0 0) R.PANEL.CONTENT_AGE) ∧
    (let s := (aged 3).wf (pgArrayDie 0) R.ARRAY_DIE.REFRESH_CTL_AUTO 1
     s.content (pgPanel 0 0) = 3 ∧ (s.panel (pgPanel 0 0)).deferred = false ∧ s.panelFree (pgPanel 0 0) = true ∧
      s.rf (pgArrayDie 0) R.ARRAY_DIE.REFRESH_CTL_AUTO = 1) := by decide +kernel

theorem witness_RefreshEnds : (∀ tag ∈ [7, 8], ((loading .refresh 0).loads.find? fun l => l.page == pgPanel 0 0 && l.kind == .refresh) =
      some (tileLoad .refresh 0)) ∧ (loading .refresh 0).clocked (pllArray 0) = true ∧
    (loading .refresh 0).markedIn [(H + 0x2000, 4096 + 65536 + 1024)] = [] ∧ rangeOk (H + 0x2000) 4096 = true ∧
    (loading .refresh 0).blockOk ((H + 0x2000) / 4096) = true ∧ (loading .refresh 0).arrOrder = [] ∧ (tileLoad .refresh 0).diff = false ∧ ((loading .refresh 0).imageHead (H + 0x2000)).1 = 7 ∧
    ({ loading .refresh 0 with mem := [] }.imageHead (H + 0x2000)).1 ≠ 7 ∧
    (loading .refresh 0).firstBadBlock (tileLoad .refresh 0) = none ∧ ((loading .refresh 0).panel (pgPanel 0 0)).retireAs = none ∧
    (loading .refresh 0).writes (pgPanel 0 0) < (loading .refresh 0).rf (pgArrayDie 0) R.ARRAY_DIE.WEAR_LIMIT := by decide +kernel

/-- Panel 67 of die 3, a spare of the factory, retired by the host. -/
def retiredSpare : State := ((mach []).setHdrBit (pgPanel 3 67) oPAGE_STATUS 3 true).wf (pgArrayDie 3) R.ARRAY_DIE.PANEL_REC_CAUSE 3 67

theorem witness_HostRetiresServing : (mach []).servesLogical (pgPanel 3 0) < 64 ∧ (mach []).castle 3 = Castle.fresh ∧
    (mach []).chooseSpare 3 = some 64 ∧ (mach []).retired (pgPanel 3 0) = false ∧ (mach []).betweenTasks (pgPanel 3 0) = true ∧
    (mach []).loadingPanel (pgPanel 3 0) = false ∧ (loading .refresh 0).loadingPanel (pgPanel 0 0) = true ∧
    Writes (loading .refresh 0) .bar0 (pgArrayDie 0) true := by unfold Writes; decide +kernel

theorem witness_HostRetires : ((mach []).castle 3).phase = .idle ∧ Writes (mach []) .bar0 (pgArrayDie 3) true ∧ (mach []).retired (pgPanel 3 67) = false ∧
    (mach []).servesLogical (pgPanel 3 67) = 0xFF ∧ (mach []).betweenTasks (pgPanel 3 67) = true ∧ (mach []).loadingPanel (pgPanel 3 67) = false ∧
    Writes retiredSpare .bar0 (pgArrayDie 3) true ∧ retiredSpare.retired (pgPanel 3 67) = true ∧
    retiredSpare.rf (pgArrayDie 3) R.ARRAY_DIE.PANEL_REC_CAUSE 67 = 3 ∧ retiredSpare.content (pgPanel 3 67) ≠ 4 ∧
    retiredSpare.writes (pgPanel 3 67) < retiredSpare.rf (pgArrayDie 3) R.ARRAY_DIE.WEAR_LIMIT := by unfold Writes; decide +kernel

/-- A castling of logical panel 0 of die 0 from panel 0 to spare 64. -/
def castling (ph : CastlePhase) (s : State) : State := s.setCastle 0 ⟨ph, 0, 0, 64, 0, []⟩

/-- A good fill of spare 64. -/
def filling : State :=
  castling .filling { loadable 1 with tasks := [], loads := [{ tileLoad .fill 0 with page := pgPanel 0 64 }] }

theorem witness_CastlingSteps : (castling .arbitrating (mach [])).grants.find? (conflicts mFill [0]) = none ∧
    (castling .arbitrating { mach [] with grants := [⟨4, [0], 0⟩] }).grants.find? (conflicts mFill [0]) ≠ none ∧
    (((castling .arbitrating (mach [])).castle 0).phase = .arbitrating ∧ ((castling .arbitrating (mach [])).castle 0).retryAt ≤ (mach []).now) ∧
    (filling.castle 0).phase = .filling ∧ filling.clocked (pllArray 0) = true ∧
    (filling.loads.find? fun l => l.page == pgPanel 0 64 && l.kind == .fill) = some { tileLoad .fill 0 with page := pgPanel 0 64 } ∧
    filling.markedIn [(H + 0x2000, 4096 + 65536 + 1024)] = [] ∧ rangeOk (H + 0x2000) 4096 = true ∧
    filling.blockOk ((H + 0x2000) / 4096) = true ∧ (filling.imageHead (H + 0x2000)).2.1 = 1 ∧ (filling.imageHead (H + 0x2000)).1 ≠ 0 ∧
    filling.firstBadBlock { tileLoad .fill 0 with page := pgPanel 0 64 } = none ∧
    (let s := castling .remapping (mach [])
     (s.castle 0).phase = .remapping ∧ s.betweenTasks (pgPanel 0 64) = true ∧ (s.castle 0).queue = [] ∧ s.loadRuns = [] ∧
      (s.panel (pgPanel 0 64)).retireAs = none ∧ s.writes (pgPanel 0 64) < s.rf (pgArrayDie 0) R.ARRAY_DIE.WEAR_LIMIT) := by decide +kernel

/-! Gradient and vector dies. -/

/-- A state with the key table of gradient die 0 in host memory. -/
def keyed (s : State) : State := s.wf64 (pgGradDie 0) R.GRAD_DIE.KEY_TABLE_LO_ADDR R.GRAD_DIE.KEY_TABLE_HI_ADDR (H + 0x8000)

/-- A GRAD_MM from binary32 to format `c`, two shares, unwatched. -/
def gradJob (c : Nat) (ph : Phase) : Task :=
  job 5 (noWaits ++ [(0, 1, 0x20), (32, 8, H), (48, 1, 0x20), (49, 1, 0x20), (50, 1, c), (51, 1, 1), (54, 2, 4096)]) ph

/-- Its operand record: `m` by 1 by 1. -/
def gradMem (m : Nat) : List (Nat × Nat × Nat) :=
  [(H, 8, H + 0x1000), (H + 16, 8, H + 0x2000), (H + 32, 8, H + 0x3000), (H + 64, 4, m), (H + 68, 4, 1), (H + 72, 4, 1)]

/-- The machine with that task ready. -/
def gradState (c m : Nat) : State := withTasks (keyed (mach (gradMem m))) [gradJob c (.ready 0)]

/-- The operation. -/
def gradOp (c m : Nat) : MatOp := matOp (gradJob c (.ready 0)) ((gradState c m).bytes ((gradJob c (.ready 0)).addr 32) 128)

theorem witness_GradMmDispatch : (∀ x ∈ [(0x20, 1), (0x20, 0), (0x01, 1)],
      GradGo (gradState x.1 x.2) 5 (gradJob x.1 (.ready 0)) 0 (gradOp x.1 x.2) ∧ faultIn ((gradJob x.1 (.ready 0)).addr 32) 128 = none ∧
      (gradState x.1 x.2).firstBad (blocksOf ((gradJob x.1 (.ready 0)).addr 32) 128) = none) ∧
    (gradOp 0x20 1).m ≠ 0 ∧ (gradOp 0x20 1).n ≠ 0 ∧ matCheck (gradJob 0x20 (.ready 0)) (gradOp 0x20 1) = 0 ∧ KeysGood (gradState 0x20 1) 0 ∧
    (gradState 0x20 1).gradRuns = [] ∧ (gradOp 0x20 0).m = 0 ∧ matCheck (gradJob 0x01 (.ready 0)) (gradOp 0x01 1) = 2 := by
  unfold GradGo KeysGood; decide +kernel

/-- A machine with an uncorrectable line in block `k` of device memory, and the key table of gradient die 0 in block 8. -/
def badBlockAt (k : Nat) (ms : List (Nat × Nat × Nat)) (t : Task) : State :=
  let s := (withTasks (mach ms) [t]).wf64 (pgGradDie 0) R.GRAD_DIE.KEY_TABLE_LO_ADDR R.GRAD_DIE.KEY_TABLE_HI_ADDR 0x8000
  { s with host := { s.host with badLines := [64 * k] } }

/-- A block with an uncorrectable line fails its check. -/
theorem bad_block {s : State} {k : Nat} (h : inHost (4096 * k) = false) (hb : s.badBlock k = true) : s.blockOk k = false := by
  simp [State.blockOk, h, hb]

/-- It is then the first that fails where no other is read. -/
theorem first_bad {s : State} {a n k : Nat} (hk : blocksOf a n = [k]) (h : s.blockOk k = false) : s.firstBad (blocksOf a n) = some k := by
  simp [State.firstBad, hk, h]

/-- A GRAD_MM with its operand record in device memory. -/
def devJob : Task := job 5 (noWaits ++ [(0, 1, 0x20), (32, 8, 0x1000), (48, 1, 0x20), (49, 1, 0x20), (50, 1, 0x20), (54, 2, 4096)]) (.ready 0)

/-- The machine whose operand record fails its check. -/
def gradBad : State := badBlockAt 1 [] devJob
/-- The machine whose key table fails its check. -/
def keyBad : State := badBlockAt 8 (gradMem 1) (gradJob 0x20 (.ready 0))

theorem witness_GradMmSeals : GradGo gradBad 5 devJob 0 (matOp devJob (gradBad.bytes (devJob.addr 32) 128)) ∧
    faultIn (devJob.addr 32) 128 = none ∧ blocksOf (devJob.addr 32) 128 = [1] ∧ gradBad.badBlock 1 = true ∧
    inHost (4096 * 1) = false ∧ inHost (4096 * 8) = false ∧ keyBad.badBlock 8 = true ∧
    GradGo keyBad 5 (gradJob 0x20 (.ready 0)) 0 (gradOp 0x20 1) ∧ keyBad.firstBad (blocksOf ((gradJob 0x20 (.ready 0)).addr 32) 128) = none ∧
    matCheck (gradJob 0x20 (.ready 0)) (gradOp 0x20 1) = 0 ∧ keyBase keyBad 0 = 4096 * 8 ∧ faultIn (4096 * 8) 4096 = none := by
  unfold GradGo; decide +kernel

/-- A run of that GRAD_MM, `done` its items done and item `i` on core 0. -/
def gradRun (prepass : Bool) (done : List Nat) (as : List (Nat × Nat)) : GradRun :=
  { GradRun.start 5 ((gradState 0x20 1).bytes H 128) (List.replicate 16 0) false prepass 0 (some 0) 0 7 0 0 with assigned := as, done := done }

/-- The machine with that run on die 0. -/
def gradRunning (r : GradRun) : State :=
  { gradState 0x20 1 with tasks := [gradJob 0x20 .running], gradRuns := [(0, r)] }

theorem witness_WorkItems : (∀ r ∈ [gradRun false [] [(0, 0)], gradRun false [0] [(0, 1)]], let x := matOp (gradJob 0x20 .running) r.opnd
      ((gradRunning r).gradOf (0 : Quad)).find? (fun r => (aget? r.assigned (0 : Core)).isSome) = some r ∧
      (gradRunning r).task? r.task = some (gradJob 0x20 .running) ∧ (gradRunning r).clocked (pllGrad 0) = true ∧
      (gradRunning r).markedIn (x.reads ++ x.c.ranges) = [] ∧ r.failed = [] ∧
      (∀ i ∈ [0, 1], ∀ k ∈ itemBlocks (gradRunning r) x i ++ x.tileC 0 ++ blocksOfAll x.c.ranges,
        (gradRunning r).blockOk k = true ∧ installed (4096 * k) = true) ∧ (∀ y ∈ x.c.ranges, faultIn y.1 y.2 = none) ∧
      x.c.fmt.isCode = false ∧ x.c.fmt.block = 0) ∧
    (let r := gradRun false [] [(0, 0)]
     let x := matOp (gradJob 0x20 .running) r.opnd
     r.done.length + 1 < x.items ∧ 1 < x.shares ∧ (r.done ++ [0]).contains (0 / x.shares * x.shares + 1) = false) ∧
    (let r := gradRun false [0] [(0, 1)]
     let x := matOp (gradJob 0x20 .running) r.opnd
     (∀ sh, sh < x.shares → (r.done ++ [1]).contains (1 / x.shares * x.shares + sh) = true) ∧
     x.items = r.done.length + 1 ∧ r.prepass = false ∧ x.m = 1 ∧ x.n = 1) := by decide +kernel

/-- R177: the product of two binary32 numbers, 3 and 5, in one tile. -/
theorem test_product : gives (.workItemDone 0 0) ({ gradRunning (gradRun false [0] [(0, 1)]) with
      mem := memPut (memPut (gradState 0x20 1).mem (H + 0x1000) (leBytes 4 0x40400000)) (H + 0x2000) (leBytes 4 0x40A00000) })
    (fun u => u.num (H + 0x3000) 4 == 0x41700000) = true := by decide +kernel

theorem witness_MeasuringPrepass : (gradRunning (gradRun true [0, 1] [])).arrayRun? 5 = none ∧
    (gradRunning (gradRun true [0, 1] [])).task? 5 = some (gradJob 0x20 .running) ∧
    (matOp (gradJob 0x20 .running) (gradRun true [0, 1] []).opnd).items ≤ (gradRun true [0, 1] []).done.length ∧
    (gradRunning (gradRun true [0, 1] [])).clocked (pllGrad 0) = true := by decide +kernel

/-- A CONVERT (0x31) from binary32 to `c`, or a VEC_PATTERN (0x30) of the pattern table at `H + 0x2000`. -/
def vecJob (type c : Nat) (ph : Phase) : Task :=
  if type = 0x31 then job 5 (noWaits ++ [(0, 1, 0x31), (32, 8, H), (40, 1, 0x20), (41, 1, c), (46, 2, 4096)]) ph
  else job 5 (noWaits ++ [(0, 1, 0x30), (32, 8, H + 0x2000), (40, 8, H), (54, 2, 4096)]) ph

/-- Its operand record with `rows` rows and one column. -/
def vecMem (type rows : Nat) : List (Nat × Nat × Nat) :=
  if type = 0x31 then [(H, 8, H + 0x4000), (H + 16, 8, H + 0x3000), (H + 40, 4, rows), (H + 44, 4, 1)] else [(H, 4, rows), (H + 4, 4, 1)]

/-- The machine with that task ready. -/
def vecState (type c rows : Nat) : State := withTasks (keyed (mach (vecMem type rows))) [vecJob type c (.ready 0)]

theorem witness_VectorTaskDispatch : ∀ convert : Bool, let ty := if convert then 0x31 else 0x30
    (∀ x ∈ [(0x20, 1), (0x20, 0), (0x3F, 1)], let s := vecState ty x.1 x.2
      let t := vecJob ty x.1 (.ready 0)
      VecGo s 5 ty t 0 (s.bytes (vecOpnd t).1 (vecOpnd t).2) (vecOp t (s.bytes (vecOpnd t).1 (vecOpnd t).2)) ∧
      faultIn (vecOpnd t).1 (vecOpnd t).2 = none ∧ s.firstBad (blocksOf (vecOpnd t).1 (vecOpnd t).2) = none ∧ s.vecRuns = [] ∧
      (vecOp t (s.bytes (vecOpnd t).1 (vecOpnd t).2)).convert = convert) ∧
    (let s := vecState ty 0x20 1
     let t := vecJob ty 0x20 (.ready 0)
     let o := s.bytes (vecOpnd t).1 (vecOpnd t).2
     let pats := if convert then [] else s.bytes (H + 0x2000) 4096
     (vecOp t o).rows ≠ 0 ∧ (vecOp t o).cols ≠ 0 ∧ vecCheck t o pats (vecOp t o) = 0 ∧ KeysGood s 0) ∧
    (let s := vecState 0x31 0x3F 1
     let t := vecJob 0x31 0x3F (.ready 0)
     vecCheck t (s.bytes H 64) [] (vecOp t (s.bytes H 64)) = 2) := by
  unfold VecGo KeysGood; decide +kernel

/-- A CONVERT with its operand record in device memory. -/
def devConvert : Task := job 5 (noWaits ++ [(0, 1, 0x31), (32, 8, 0x1000), (40, 1, 0x20), (41, 1, 0x20), (46, 2, 4096)]) (.ready 0)

theorem witness_VectorSeals : let t := devConvert
    let s := badBlockAt 1 [] devConvert
    VecGo s 5 0x31 t 0 (s.bytes (vecOpnd t).1 (vecOpnd t).2) (vecOp t (s.bytes (vecOpnd t).1 (vecOpnd t).2)) ∧
    faultIn (vecOpnd t).1 (vecOpnd t).2 = none ∧ blocksOf (vecOpnd t).1 (vecOpnd t).2 = [1] ∧ s.badBlock 1 = true := by
  unfold VecGo; decide +kernel

theorem witness_PatternsOf : PatternsOf (vecState 0x30 0x20 1) (vecJob 0x30 0x20 (.ready 0)) 0
    ((vecState 0x30 0x20 1).bytes (4096 * ((vecJob 0x30 0x20 (.ready 0)).addr 32 / 4096)) 4096) := by
  refine ⟨by decide +kernel, ?_⟩
  rw [if_neg (by decide +kernel)]
  exact ⟨by decide +kernel, rfl⟩

/-- A run of the CONVERT of 65 rows, two row groups. -/
def vecRun (done : List Nat) (as : List (Nat × Nat)) : VecRun :=
  let o := (vecState 0x31 0x20 65).bytes H 64
  { VecRun.start 5 (vecOp (vecJob 0x31 0x20 .running) o) o [] [] [0, 0] [] false 0 with assigned := as, done := done }

/-- The machine with that run on die 0. -/
def vecRunning (r : VecRun) : State :=
  { vecState 0x31 0x20 65 with tasks := [vecJob 0x31 0x20 .running], vecRuns := [(0, r)] }

theorem witness_RowGroups : (∀ r ∈ [vecRun [] [(0, 0)], vecRun [0] [(0, 1)]], let x := vecOp (vecJob 0x31 0x20 .running) r.opnd
      ((vecRunning r).vecOf (0 : Quad)).find? (fun r => (aget? r.assigned (0 : Core)).isSome) = some r ∧
      (vecRunning r).task? r.task = some (vecJob 0x31 0x20 .running) ∧ (vecRunning r).clocked (pllGrad 0) = true ∧
      (vecRunning r).markedIn (x.reads ++ x.writes) = [] ∧ (∀ y ∈ x.writes, faultIn y.1 y.2 = none) ∧
      (∀ g ∈ [0, 1], ∀ k ∈ x.groupBlocks g, installed (4096 * k) = true ∧ (vecRunning r).blockOk k = true) ∧
      x.convert = true ∧ r.failed = [] ∧ (x.ins.map fun v => (v.1, v.2.raw)) = [(0, false)] ∧
      (x.outs.map fun v => (v.1, v.2.rnd, v.2.x.fmt)) = [(0, 0, .b32)]) ∧
    ([] : List Nat).length + 1 < (vecOp (vecJob 0x31 0x20 .running) (vecRun [] []).opnd).groups ∧
    (vecOp (vecJob 0x31 0x20 .running) (vecRun [] []).opnd).groups = [0].length + 1 := by decide +kernel

theorem witness_VectorPageCommands : Writes (mach []) .bar0 (pgVecCore 3 15) false ∧ (mach []).betweenTasks (pgVecCore 3 15) = true := by
  unfold Writes; decide +kernel

/-! The layer update. -/

/-- An UPDATE of layer 0, state record at `H + 0x1000`. -/
def updJob (mode : Nat) (ph : Phase) : Task :=
  job 5 (noWaits ++ [(0, 1, 0x50), (32, 8, H), (40, 8, H + 0x1000), (56, 1, mode), (59, 1, 0x20), (62, 1, 1)]) ph

/-- A one-element matrix without gradient, ledger or image; `hold` in `LS_HOLD`, `mark` in the checkpoint mark. -/
def updMem (hold mark : Nat) : List (Nat × Nat × Nat) :=
  [(H + 8, 8, H + 0x8000), (H + 16, 8, H + 0x9000), (H + 24, 8, H + 0xA000), (H + 52, 4, 1), (H + 56, 4, 1), (H + 72, 4, one32), (H + 80, 4, one32),
    (H + 84, 4, one32), (H + 88, 4, one32), (H + 92, 4, one32), (H + 0x1003, 1, hold), (H + 0x1004, 4, 1), (H + 0x1008, 4, 1), (H + 0x100C, 4, mark)]

/-- The hold that a mode meets. -/
def holdOf (mode : Nat) : Nat := if [1, 2, 3].contains mode then 0x81 else 0

/-- The machine with that task ready; the key table lies where nothing else does. -/
def updState (mode : Nat) : State :=
  withTasks ((mach (updMem (holdOf mode) 0)).wf64 (pgGradDie 0) R.GRAD_DIE.KEY_TABLE_LO_ADDR R.GRAD_DIE.KEY_TABLE_HI_ADDR (H + 0xC000))
    [updJob mode (.ready 0)]

/-- The operation. -/
def updX (mode : Nat) : UpdOp := updOp (updJob mode (.ready 0)) ((updState mode).bytes H 128)

/-- The machine whose engine has another task. -/
def updTaken (mode : Nat) : State :=
  { updState mode with upds := [(0, ⟨.tagWait, 4, 0, [], [], [], [], 0, 0, 0, 0, 0, [], [], 0, 0, 0, 0, 0⟩)] }

theorem witness_UpdateDispatch : (∀ mode ∈ [0, 1, 2, 3, 4, 5], UpdGo (updState mode) 5 mode (updJob mode (.ready 0)) 0 (updX mode)) ∧
    (∀ mode ∈ [0, 1, 2, 3, 4, 5], UpdSent (updTaken mode) 5 mode (updJob mode (.ready 0)) 0 ∧
      (updTaken mode).updTakes 0 (updJob mode (.ready 0)) = false ∧ ∀ k ∈ (updTaken mode).tasks, k.seq = 5 → k.pages = []) ∧
    KeysGood (updState 0) 0 ∧ KeysGood (updState 1) 0 ∧ (updState 2).num ((updX 2).state + 12) 4 = 0 ∧
    (updState 4).firstBad (blocksOfAll ((updX 4).wT.ranges ++
      [((updX 4).scaleAt (1 - hdSel ((updState 4).bytes ((updJob 4 (.ready 0)).addr 40) 128)), 2 * (updX 4).c)])) = none ∧
    (updState 5).firstBad (blocksOfAll (updX 5).wT.ranges) = none ∧ (updState 5).num ((updX 5).state + 12) 4 = 0 ∧
    (updX 5).writesImage = false := by
  unfold UpdGo UpdSent KeysGood; decide +kernel

/-- The engine's task of a mode in a phase, with a hold in its header. -/
def upd (mode : Nat) (ph : UpdPhase) (hold step reasons : Nat) : Upd :=
  ⟨ph, 5, mode, (updState mode).bytes H 128, (({ updState mode with mem := memPut (updState mode).mem (H + 0x1003) [BitVec.ofNat 8 hold] }).bytes
    (H + 0x1000) 128), List.replicate 16 0, List.replicate 16 0, step, 0, 0, one32, 0, [0], [0], reasons, 0, 0, 0, 0⟩

/-- The machine with it, `mark` in the checkpoint mark. -/
def updRun (u : Upd) (mark : Nat) : State :=
  { withTasks (mach (updMem 0 mark)) [updJob u.mode .running] with
    upds := [(0, u)], tempo := { State.reset.tempo with count := BitVec.ofNat 64 (2 ^ 40) } }

/-- Its operation. -/
def updY (u : Upd) : UpdOp := updOp (updJob u.mode .running) u.opnd

theorem witness_UpdateWaits : (∀ u ∈ [upd 0 .tagWait 0 0 0, upd 0 .tagWait 0x81 0 0, upd 0 .tagWait 0 1 0],
      UpdAt (updRun u 0) 0 .tagWait u (updJob 0 .running) (updY u)) ∧
    (updRun (upd 0 .tagWait 0 0 0) 0).stepTag 0 = 0 ∧ hdHeld (upd 0 .tagWait 0 0 0).head = false ∧ hdHeld (upd 0 .tagWait 0x81 0 0).head = true ∧
    (updRun (upd 0 .tagWait 0 1 0) 0).rf (pgUpdate 0) R.UPDATE.UPDATE_WAIT_MAX ≤ (updRun (upd 0 .tagWait 0 1 0) 0).now - 0 ∧
    Writes (mach []) .bar0 (pgUpdate 7) false ∧ (mach []).betweenTasks (pgUpdate 7) = true ∧
    (withTasks (mach []) [job 5 [] .running [pgUpdate 7]]).betweenTasks (pgUpdate 7) = false := by
  unfold UpdAt Writes; decide +kernel

theorem witness_CheckpointInterlock : (∀ x ∈ [(upd 0 .ckptWait 0 0 0, 0), (upd 0 .ckptWait 0 0 1, 0), (upd 0 .ckptWait 0 0 0, 1)],
      UpdAt (updRun x.1 x.2) 0 .ckptWait x.1 (updJob 0 .running) (updY x.1) ∧ (updRun x.1 x.2).ckptMark (updY x.1) = x.2) ∧
    (updY (upd 0 .ckptWait 0 0 0)).mode = 0 ∧ (upd 0 .ckptWait 0 0 0).rNew.length = (updY (upd 0 .ckptWait 0 0 0)).r ∧
    (upd 0 .ckptWait 0 0 0).cNew.length = (updY (upd 0 .ckptWait 0 0 0)).c ∧
    faultOf ((updY (upd 0 .ckptWait 0 0 0)).slotRanges 1 ++ (updY (upd 0 .ckptWait 0 0 0)).wT.ranges) = none ∧
    (updRun (upd 0 .ckptWait 0 0 0) 1).rf (pgUpdate 0) R.UPDATE.UPDATE_WAIT_MAX < (updRun (upd 0 .ckptWait 0 0 0) 1).now - 0 := by
  unfold UpdAt; decide +kernel

theorem witness_UpdatePasses : (∀ mode ∈ [0, 3], ∀ mark ∈ [0, 1], let u := upd mode .pass1 0 0 0
      let s := updRun u mark
      let x := updY u
      UpdAt s 0 .pass1 u (updJob mode .running) x ∧ x.mode = mode ∧ s.pass1Fault x u = none ∧
      s.firstBad (blocksOfAll (x.slotRanges (hdSel u.head) ++ x.mT.ranges)) = none ∧ (s.lateBad x (s.ledgerUse x u.step).1).2 = [] ∧
      (let p := s.pass1 x u.head u.eta (s.ledgerUse x u.step).1
       b2n (p.nonfin != 0) + ratioReasons x u.head p.pred + 16 * b2n (holdAsked s 0 x) = 0) ∧
      faultOf (x.slotRanges (1 - hdSel u.head) ++ x.wT.ranges ++ (if x.writesImage then [x.imageRange] else [])) = none ∧
      s.ckptMark x = mark) ∧
    (∀ mode ∈ [0, 1], let u := upd mode .pass2 0 0 0
      UpdAt (updRun u 0) 0 .pass2 u (updJob mode .running) (updY u) ∧ (updRun u 0).pass2Bad (updY u) u.kappa = [] ∧
      Apart ([((updY u).w, 3 * (updY u).r * (updY u).c), ((updY u).state, 4096 + 2 * (updY u).slotLen)] ++ (updY u).mT.ranges ++
        (if (updY u).writesImage then [(updY u).imageRange] else []))) := by
  unfold UpdAt Apart; decide +kernel

/-- A layer whose hold the host asks for. -/
def updAsked : State :=
  ((updRun (upd 0 .pass1 0 0 0) 0).wf (pgUpdate 0) R.UPDATE.HOLD_REQ_ARM 1).wf (pgUpdate 0) R.UPDATE.HOLD_REQ_LAYER (updY (upd 0 .pass1 0 0 0)).layer

theorem witness_UpdateHeld : UpdAt updAsked 0 .pass1 (upd 0 .pass1 0 0 0) (updJob 0 .running) (updY (upd 0 .pass1 0 0 0)) ∧
    holdAsked updAsked 0 (updY (upd 0 .pass1 0 0 0)) = true ∧ updAsked.ckptMark (updY (upd 0 .pass1 0 0 0)) = 0 := by
  unfold UpdAt; decide +kernel

/-! Watches, queues, scheduler tasks. -/

/-- A state whose blocks of a list carry the seal of their content. -/
def sealAll (s : State) (ks : List Nat) : State :=
  { s with seals := ks.map fun k => (k, s.sealOf k), host := { s.host with badLines := [] } }

/-- Such a block passes its check. -/
theorem sealAll_ok (s : State) (ks : List Nat) (k : Nat) (h : k ∈ ks) : (sealAll s ks).blockOk k = true := by
  have e : aget? (ks.map fun k => (k, s.sealOf k)) k = some (s.sealOf k) := by
    induction ks with
    | nil => cases h
    | cons a t ih =>
      by_cases hk : a = k
      · simp [aget?, hk]
      · have h' : k ∈ t := by
          rcases List.mem_cons.1 h with h | h
          · exact absurd h.symm hk
          · exact h
        simp [aget?, hk, ih h']
  have e' : (sealAll s ks).sealEntry k = s.sealOf k := by simp [State.sealEntry, sealAll, e]
  have m : (sealAll s ks).sealOf k = s.sealOf k := rfl
  have b : (sealAll s ks).badBlock k = false := rfl
  simp [State.blockOk, e', m, b]

/-- No block of such a list fails. -/
theorem sealAll_good (s : State) (ks : List Nat) : (sealAll s ks).firstBad ks = none := by
  simp only [State.firstBad, List.find?_eq_none]
  intro k h
  simp [sealAll_ok s ks k h]

theorem witness_WatchTableCommands : Writes live .bar0 (pgWatch 3) false ∧ Writes live .bar0 (pgWatch 3) true ∧ deviceRange (live.estAddr 3) 32768 = true ∧
    live.host.marks = [] ∧ deviceRange (live.rf64 (pgWatch 3) R.NUMWATCH.WT_ADDR_LO_ADDR R.NUMWATCH.WT_ADDR_HI_ADDR) 16384 = true := by unfold Writes; decide +kernel

theorem witness_WatchTableBlocks : (sealAll live (blocksOf 0 32768)).firstBad (blocksOf 0 32768) = none := sealAll_good _ _

/-- Queue 63 with a ring in host memory, on or off. -/
def ringed (on : Bool) (tail : Nat) (ms : List (Nat × Nat × Nat)) : State :=
  let s := (mach ms).wf64 (pgQueue 63) R.GRAPH_QUEUE.RING_BASE_LO_ADDR R.GRAPH_QUEUE.RING_BASE_HI_ADDR H
  (s.wf (pgQueue 63) R.GRAPH_QUEUE.Q_CTL_EN (b2n on)).wf (pgQueue 63) R.GRAPH_QUEUE.TAIL tail

theorem witness_TailWrites : Writes (ringed true 0 []) .bar0 (pgQueue 63) false ∧ (ringed false 0 []).queueOn 63 = false ∧
    (let s := ringed true 0 []
     let hi := (s.consumed 63 + s.ringSize 63) % 2 ^ 32
     s.queueOn 63 = true ∧ idxGap (s.head 63) hi ≤ idxGap (s.head 63) hi ∧ idxGap (s.head 63) hi < idxGap (s.head 63) (hi + 1)) := by
  unfold Writes; decide +kernel

theorem witness_QueueCommands : Writes (ringed false 7 []) .bar0 (pgQueue 63) true ∧ (ringed false 7 []).queueOn 63 = false ∧
    Writes (ringed true 7 []) .bar0 (pgQueue 63) true ∧ (ringed true 7 []).queueOn 63 = true ∧ NoWait (ringed true 7 []) ∧
    (ringed true 7 []).window = none ∧ Writes (ringed true 7 []) .bar0 pgSched true := by unfold Writes NoWait; decide +kernel

/-- A NOP in the ring. -/
def nopRing : State := ringed true 1 [(H + 1, 1, 1), (H + 4, 2, 0xFFFF), (H + 8, 2, 0xFFFF), (H + 12, 2, 0xFFFF), (H + 16, 2, 0xFFFF), (H + 28, 4, 0xFFFFFFFF)]

/-- That ring with a marked line. -/
def nopMarked : State := { nopRing with host := { nopRing.host with marks := [H / 64] } }

theorem witness_DescriptorFetch : NoWait nopRing ∧ (ringed false 7 []).queueOn 63 = false ∧ NoWait nopMarked ∧
    nopMarked.markedIn (nopMarked.fetchRanges 63) ≠ [] ∧ nopMarked.queueOn 63 = true ∧ nopMarked.rf (pgQueue 63) R.GRAPH_QUEUE.Q_CTL_PAUSE = 0 ∧
    (let d := nopRing.bytes (nopRing.slotAddr 63 (nopRing.head 63)) 64
     nopRing.queueOn 63 = true ∧ nopRing.rf (pgQueue 63) R.GRAPH_QUEUE.Q_CTL_PAUSE = 0 ∧ nopRing.head 63 ≠ nopRing.tail 63 ∧
      nopRing.markedIn (nopRing.fetchRanges 63) = [] ∧ (nopRing.queueSt 63).again = [] ∧
      idxNext (nopRing.head 63) = nopRing.tail 63 ∧ nopRing.fenced 63 = false ∧ nopRing.inFlight 63 < 512 ∧
      idxGap (nopRing.consumed 63) (nopRing.head 63) ≠ nopRing.ringSize 63 ∧ (nopRing.queueSt 63).replayEnd = none ∧
      fetchCheck d (nopRing.rf (pgQueue 63) R.GRAPH_QUEUE.CMPL_SLOTS_COUNT) = 0 ∧ descFlag d 1 = false) := by
  unfold NoWait; decide +kernel

/-- Queue 63 with a full ring whose first index has completed; `byWindow` tells whether the replay window or the segment holds it. -/
def fullRing (byWindow : Bool) : State :=
  let s := ringed true 64 []
  let s := (s.wf (pgQueue 63) R.GRAPH_QUEUE.HEAD 64).setQueue 63 { QueueSt.fresh with done := [0], retained := if byWindow then 9 else 0 }
  if byWindow then { s with window := some ⟨63, 0, 1, [], 0⟩ } else s.wf (pgQueue 63) R.GRAPH_QUEUE.Q_CTL_RETAIN 1

theorem witness_StalledFetch : ∀ b, let s := fullRing b
    NoWait s ∧ s.queueOn 63 = true ∧ s.rf (pgQueue 63) R.GRAPH_QUEUE.Q_CTL_PAUSE = 0 ∧ (s.queueSt 63).again = [] ∧
    s.markedIn (s.fetchRanges 63) = [] ∧ s.head 63 = s.tail 63 ∧ idxGap (s.consumed 63) (s.head 63) = s.ringSize 63 ∧
    (s.queueSt 63).done.contains (s.consumed 63) = true ∧
    (if b = true then s.window = some ⟨63, 0, 1, [], 0⟩ ∧ idxNext (s.consumed 63) = 1 ∧ (s.queueSt 63).retained ≠ s.consumed 63
     else s.window = none ∧ s.rf (pgQueue 63) R.GRAPH_QUEUE.Q_CTL_RETAIN = 1 ∧ (s.queueSt 63).gaveUp = false ∧
      s.consumed 63 = (s.queueSt 63).retained) := by
  unfold NoWait; decide +kernel

theorem witness_ButtonRegisterWrites : ∀ b ∈ [0, 255, 256, 16383], Writes live .bar0 (0x1000 * (offButton b / 0x1000)) false ∧ NoWait live ∧
    Writes (live.wf pgDevice R.DEVICE.GRANT_BUTTONS 0xFFFFFFFF) .bar2 (0x1000 * (offButton b / 0x1000)) false := by
  unfold Writes NoWait; decide +kernel

/-! Scheduler tasks. -/

/-- A task of queue 63 whose completion record `k` lies in host memory. -/
def schedJob (fs : List (Nat × Nat × Nat)) (ph : Phase) : Task := { job 5 (noWaits ++ fs) ph with queue := 63 }

/-- The machine with that task, records at `H`. -/
def sched (t : Task) : State := withTasks ((ringed true 7 []).wf64 (pgQueue 63) R.GRAPH_QUEUE.CMPL_BASE_LO_ADDR R.GRAPH_QUEUE.CMPL_BASE_HI_ADDR H) [t]

/-- A NOP; a WAIT_TEMPO for tick 0 and for tick 9; a BUTTON_OP that adds 3 to button 256; a task that waits on button 300. -/
def nopJob : Task := schedJob [(28, 4, 1)] (.ready 0)
def waitJob (at_ : Nat) : Task := schedJob [(0, 1, 3), (32, 8, at_)] (.ready 0)
def addJob : Task := schedJob [(0, 1, 4), (32, 2, 256), (34, 1, 1), (36, 4, 3)] (.ready 0)
def stuckJob : Task := schedJob [(4, 2, 300), (6, 2, 1)] .waiting

theorem witness_SchedulerTasks : (∀ t ∈ [nopJob, waitJob 0, waitJob 9, addJob, stuckJob], (sched t).task? 5 = some t ∧ Alone (sched t) 5) ∧
    typeClass nopJob.type = .scheduler ∧ nopJob.type ∉ [1, 2, 3, 4] ∧ (sched nopJob).oldest nopJob = true ∧
    (sched (waitJob 0)).dispatchable 5 [3] = some (waitJob 0) ∧ tempoTarget (waitJob 0) ≤ (sched (waitJob 0)).now ∧
    (sched (waitJob 9)).dispatchable 5 [3] = some (waitJob 9) ∧ (sched (waitJob 9)).now < tempoTarget (waitJob 9) ∧
    (let t := { waitJob 0 with phase := .running }
     t.type = 3 ∧ t.isRunning = true ∧ t.target ≤ (sched t).now) ∧
    (sched addJob).dispatchable 5 [4] = some addJob ∧ buttonOps addJob.desc = (256, 1, 3) :: (buttonOps addJob.desc).tail ∧
    (∀ o ∈ (buttonOps addJob.desc).tail, o.2.1 = 0) ∧ graphButton 256 = true ∧ NoSignal addJob 256 ∧
    (let s := { (sched stuckJob).wf (pgQueue 63) R.GRAPH_QUEUE.WAIT_MAX 1 with tempo := { State.reset.tempo with count := 1 } }
     s.rf (pgQueue 63) R.GRAPH_QUEUE.WAIT_MAX = 1 ∧ stuckJob.isWaiting = true ∧ 1 ≤ s.now - stuckJob.fetchAt ∧ s.waitsPass stuckJob = false) := by
  unfold Alone NoSignal; decide +kernel

/-- A STEP_OPEN of step 9 with two buttons; a HEM that asks no watch. -/
def openJob : Task := schedJob [(0, 1, 1), (32, 8, 9), (40, 2, 256), (42, 2, 2)] (.ready 0)
def hemJob : Task := schedJob [(0, 1, 2), (34, 1, 1), (36, 2, 16382), (38, 2, 2)] (.ready 0)

theorem witness_StepsAndHems : Alone (sched openJob) 5 ∧ (sched openJob).dispatchable 5 [1] = some openJob ∧
    openJob.fld 40 2 + openJob.fld 42 2 ≤ 16384 ∧ Alone (sched hemJob) 5 ∧ (sched hemJob).dispatchable 5 [2] = some hemJob ∧
    bit (hemJob.fld 34 1) 0 = true ∧ hemJob.fld 36 2 + hemJob.fld 38 2 ≤ 16384 ∧ hemJob.alt = false := by unfold Alone; decide +kernel

/-- A HEM of layer 4 that asks its watch. -/
def askJob : Task := schedJob [(0, 1, 2), (32, 2, 4), (36, 2, 16382), (38, 2, 2)] (.ready 0)

/-- The machine with it, where the layer's window of counts holds saturated conversions, clipped array reads, or nothing; the layer's entry has
formats that can be widened, and the replay window is that of the HEM. -/
def asked (clips hard : Bool) : State :=
  let s := (sched askJob).setQueue 63 QueueSt.fresh
  let w := if hard then setNth (List.replicate 8 Counts.none) 2 { Counts.none with accNonfin := 1 }
    else if clips then setNth (List.replicate 8 Counts.none) 0 { Counts.none with conv := 100, clipConv := 100 } else List.replicate 8 Counts.none
  let s := s.setLayer 4 { s.layer 4 with window := w }
  { s with wtable := [(4, leBytes 16 (1 + 2 ^ 83))], window := some ⟨63, 0, 1, [], 0⟩ }

/-- What the watch answers. -/
def answerOf (s : State) : Nat := match (s.askWatch 4 (s.windowMine askJob)).2 with
  | .close => 0
  | .repeatIt _ => 1
  | .replay _ _ => 2

/-- The rungs of a repeat. -/
def rungsOf (s : State) : Rungs := match (s.askWatch 4 (s.windowMine askJob)).2 with
  | .repeatIt r => r
  | _ => ⟨0, 0, false⟩

theorem witness_Hems : (∀ x ∈ [(false, false, 0), (false, true, 1), (true, false, 2)], let s := asked x.1 x.2.1
      Alone s 5 ∧ s.dispatchable 5 [2] = some askJob ∧ answerOf s = x.2.2 ∧ (s.window.isSome = true)) ∧ askJob.alt = false ∧
    bit (askJob.fld 34 1) 0 = false ∧ askJob.fld 32 2 = 4 ∧ askJob.fld 36 2 + askJob.fld 38 2 ≤ 16384 ∧
    (asked false true).repeatBar askJob (rungsOf (asked false true)) = 0 ∧ (asked false true).markedIn ((asked false true).repeatReads askJob) = [] ∧
    (asked false true).repeatSet askJob (rungsOf (asked false true)) = [] := by unfold Alone; decide +kernel

/-- A task that has ended, its signal on button 256 and `IRQ` set. -/
def doneJob (st : Nat) : Task :=
  { schedJob [(2, 1, 32), (20, 2, 0x8100), (28, 4, 1)] (.finished st 0 0 0) with unit := pgGradDie 0 }

theorem witness_TaskCompletion : (∀ st ∈ [0, 0x1D], (sched (doneJob st)).task? 5 = some (doneJob st) ∧ Alone (sched (doneJob st)) 5 ∧
      (headerPage (doneJob st).unit).isSome = true ∧ (sched (doneJob st)).markedIn ((sched (doneJob st)).recordRanges (doneJob st)) = [] ∧
      typeClass (doneJob st).type ≠ .array) ∧ descSignals (doneJob 0).desc = [(256, false)] ∧ (doneJob 0).flag 5 = true ∧
    ((sched (doneJob 0)).queueSt 63).done.contains 5 = false ∧ idxBefore 5 ((sched (doneJob 0)).consumed 63) = false ∧
    rangeOk ((sched (doneJob 0)).recordAddr (doneJob 0)) 32 = true := by unfold Alone; decide +kernel

/-- NOP completes DONE: its record begins with status 0 and type 0 (R281, Table 11-8). -/
theorem test_nop : gives (.nop 5) (sched nopJob) (fun t => decide (t.task? 5 = none) && decide (t.byte (H + 32) = 0) && decide (t.byte (H + 35) = 63)) = true := by decide +kernel

/-- BUTTON_OP ADD (R280). -/
theorem test_button_op : gives (.buttonOp 5) (sched addJob) (fun t => decide (t.btnValue 256 = 3)) = true := by decide +kernel

/-- A signal raises its button by 1 (R275, R278). -/
theorem test_signal : gives (.taskCompletion 5) (sched (doneJob 0)) (fun t => decide (t.btnValue 256 = 1) && decide (t.hdr (pgQueue 63) oINT_STATUS % 2 = 1)) = true := by decide +kernel

/-! DMA and gather. -/

/-- A channel that transfers 64 bytes from `H` to `H + 0x1000`, as channel 0 of die 0. -/
def dmaChan (task : Option Nat) (segs : List (Nat × Nat × Nat)) (ended : Nat) : Chan :=
  { Chan.idle with busy := true, task := task, segs := segs, ended := ended }

/-- The machine with that channel, direct or not. -/
def dmaState (direct : Bool) (arm : Nat) (ch : Option Chan) (ts : List Task) : State :=
  let s := (((mach [(H, 8, 0x1122)]).setCf 0 0 R.DMA.CH_CTL_OWNER (b2n direct)).setCf 0 0 R.DMA.CH_CTL_ARM arm)
  let s := (s.wf64 (pgDma 0 0) R.DMA.ACT_SRC_LO R.DMA.ACT_SRC_HI H).wf64 (pgDma 0 0) R.DMA.ACT_DST_LO R.DMA.ACT_DST_HI (H + 0x1000)
  let s := withTasks (s.setCf 0 0 R.DMA.RESIDUE 64) ts
  match ch with
  | some c => s.setChan 0 0 c
  | none => s

theorem witness_DmaChannelRegisters : (∀ d, Writes (dmaState d 0 none []) .bar0 (pgDma 0 0) true ∧ ((dmaState d 0 none []).chan 0 0).busy = false ∧
      ((dmaState d 0 none []).chan 0 0).shadow = none ∧ (dmaState d 0 none []).cf 0 0 R.DMA.CH_CTL_ARM = 0 ∧ (dmaState d 0 none []).isDirect 0 0 = d ∧
      (dmaState d 0 none []).dmaQueue = []) ∧ HalfAt ⟨.dma, 0, 3, 0⟩ .lo .bar0 (pgDma 0 0 + 0x200) ∧
    (dmaState true 1 none []).isDirect 0 0 = true ∧ (dmaState true 1 none []).cf 0 0 R.DMA.CH_CTL_ARM = 1 ∧
    ((dmaState true 0 (some (dmaChan none [] 0)) []).chan 0 0).busy = true ∧ ((dmaState true 0 (some (dmaChan none [] 0)) []).chan 0 0).ended = 0 ∧
    (dmaState true 0 (some (dmaChan none [] 0)) []).isDirect 0 0 = true := by unfold Writes HalfAt; decide +kernel

theorem witness_RequestLines : ((117 : Fin 118)).val = 117 ∧ (255 : Byte).toNat = 255 ∧ Writes (mach []) .bar0 (pgMemDie 7) false := by
  unfold Writes; decide +kernel

theorem witness_DmaBurst : let s := dmaState false 0 (some (dmaChan none [] 0)) []
    actSrc s 0 0 = H ∧ actDst s 0 0 = H + 0x1000 ∧ s.burstLen 0 0 = 64 ∧ (s.chan 0 0).busy = true ∧ (s.chan 0 0).ended = 0 ∧
    (s.chan 0 0).pace = false ∧ s.clocked (pllMem 0) = true ∧ s.markedIn [(H, 64), (H + 0x1000, 64)] = [] ∧ faultIn H 64 = none ∧
    faultIn (H + 0x1000) 64 = none ∧ (∀ k ∈ blocksOf H 64 ++ blocksOf (H + 0x1000) 64, s.blockOk k = true) ∧
    (∀ k ∈ blocksOf H 64, k ∉ blocksOf (H + 0x1000) 64) := by unfold actSrc actDst; decide +kernel

theorem witness_DmaTransferEnds : (let s := dmaState false 0 (some (dmaChan none [(H, H + 0x2000, 64)] 1)) []
      (s.chan 0 0).busy = true ∧ s.clocked (pllMem 0) = true ∧ (s.chan 0 0).ended = 1 ∧ (s.chan 0 0).segs = (H, H + 0x2000, 64) :: []) ∧
    (∀ st ∈ [1, 2, 3, 4], let s := dmaState false 0 (some (dmaChan (some 5) [] st)) [job 5 [] .running]
      (s.chan 0 0).busy = true ∧ s.clocked (pllMem 0) = true ∧ (s.chan 0 0).ended = st ∧ (s.chan 0 0).segs = [] ∧ (s.chan 0 0).shadow = none ∧
      s.cf 0 0 R.DMA.CH_CTL_ARM = 0 ∧ s.dmaQueue = [] ∧ (s.chan 0 0).task = some 5 ∧ (s.task? 5).isSome = true) := by decide +kernel

/-- A DMA_COPY of `len` bytes to `dst`. -/
def copyJob (dst len : Nat) : Task := job 5 (noWaits ++ [(0, 1, 0x40), (32, 8, H), (40, 8, dst), (48, 4, len)]) (.ready 0)

/-- A DMA_COPY of a list of two segments in host memory. -/
def listJob (n : Nat) : Task := job 5 (noWaits ++ [(0, 1, 0x40), (32, 8, H + 0x4000), (52, 1, 128), (54, 2, n)]) (.ready 0)

/-- The machine with it. -/
def listState : State :=
  let w (a v : Nat) (m : List Host.Cell) : List Host.Cell := memPut m (H + 0x4000 + a) (leBytes 8 v)
  { dmaState false 0 none [listJob 2] with mem := w 48 64 (w 40 (H + 0x1040) (w 32 H (w 16 64 (w 8 (H + 0x1000) (w 0 H []))))) }

theorem witness_DmaCopy : (∀ x ∈ [(H + 0x1000, 64), (H + 0x1000, 0), (2 ^ 52 - 64, 128)], let t := copyJob x.1 x.2
    let s := dmaState false 0 none [t]
    s.dispatchable 5 [0x40] = some t ∧ s.pickUnit 0x40 t.hint = some 0 ∧ s.freeChan 0 = some 0 ∧ s.clocked (pllMem 0) = true ∧
    s.markedIn [dmaListRange t] = [] ∧ s.dmaQueue = [] ∧ (s.chan 0 0).busy = false ∧
    segsOf s t = (if x.2 = 0 then [] else [(H, x.1, x.2)]) ∧ rangeOk (dmaListRange t).1 (dmaListRange t).2 = true ∧
    s.firstBad (blocksOf (dmaListRange t).1 (dmaListRange t).2) = none ∧
    ((segsOf s t).all fun x => rangeOk x.1 x.2.2 && rangeOk x.2.1 x.2.2) = decide (x.2 ≠ 128)) ∧
    (let s := listState
     s.dispatchable 5 [0x40] = some (listJob 2) ∧ segsOf s (listJob 2) = [(H, H + 0x1000, 64), (H, H + 0x1040, 64)] ∧ s.freeChan 0 = some 0) := by
  decide +kernel

/-- A die whose graph channels all have a task in their shadow; a list that is not installed, and one in an uncorrectable block. -/
def dmaFull : State :=
  (List.range 32).foldl (fun s c => s.setChan 0 c { Chan.idle with busy := true, shadow := some 9 }) (dmaState false 0 none [copyJob (H + 0x1000) 64])
def farJob (a : Nat) : Task := job 5 (noWaits ++ [(0, 1, 0x40), (32, 8, a), (52, 1, 128), (54, 2, 4)]) (.ready 0)
def badList : State := badBlockAt 1 [] (farJob 0x1000)

theorem witness_DmaCopyElse : dmaFull.freeChan 0 = none ∧ dmaFull.pickUnit 0x40 0 = some 0 ∧
    dmaFull.dispatchable 5 [0x40] = some (copyJob (H + 0x1000) 64) ∧
    (let t := farJob (2 ^ 52 - 64)
     let s := dmaState false 0 none [t]
     s.dispatchable 5 [0x40] = some t ∧ rangeOk (dmaListRange t).1 (dmaListRange t).2 = false ∧ (segsOf s t).length = 4) ∧
    badList.dispatchable 5 [0x40] = some (farJob 0x1000) ∧ blocksOf (dmaListRange (farJob 0x1000)).1 (dmaListRange (farJob 0x1000)).2 = [1] ∧
    badList.badBlock 1 = true ∧ rangeOk (dmaListRange (farJob 0x1000)).1 (dmaListRange (farJob 0x1000)).2 = true ∧
    (segsOf badList (farJob 0x1000)).length = 4 := by decide +kernel

theorem witness_DramReads : (inTierA 0 || inTierB 0) = true ∧ (inTierA 0x2540BE3FFFF || inTierB 0x2540BE3FFFF) = true ∧
    (inTierA 0x40000000000 || inTierB 0x40000000000) = true ∧ (inTierA 0xB73593FFFFF || inTierB 0xB73593FFFFF) = true ∧
    (∀ d, d < 8 → (mach []).clocked (pllMem d) = true) := by decide +kernel

/-- DMA copies its line (R311). -/
theorem test_dma_burst : gives (.dmaBurstIssue 0 0) (dmaState false 0 (some (dmaChan none [] 0)) []) (fun t => decide (t.byte (H + 0x1000) = 0x22) && decide (t.byte (H + 0x1001) = 0x11) && decide ((t.chan 0 0).ended = 1)) = true := by decide +kernel

/-- GATHER (0x41) in row or expert mode, SCATTER_ADD (0x42). -/
def gatherJob (type mode : Nat) : Task := job 5 (noWaits ++ [(0, 1, type), (32, 8, H), (48, 1, mode)]) (.ready 0)

/-- `n` rows of `rowB` bytes: index `ix`, two table rows; one expert. -/
def gatherMem (n rowB ix : Nat) : List (Nat × Nat × Nat) :=
  [(H, 8, H + 0x1000), (H + 16, 8, H + 0x2000), (H + 24, 8, H + 0x3000), (H + 40, 8, H + 0x4000), (H + 48, 8, H + 0x5000), (H + 64, 8, H + 0x6000),
    (H + 72, 8, H + 0x7000), (H + 80, 4, n), (H + 84, 4, 2), (H + 88, 4, rowB), (H + 94, 1, 1), (H + 96, 4, 4), (H + 100, 4, 1), (H + 104, 2, 256),
    (H + 106, 2, 257), (H + 108, 2, 1), (H + 0x1040, 4, 0xABCD), (H + 0x2000, 4, ix), (H + 0x3000, 4, one32)]

/-- The machine with that task ready. -/
def gatherState (type mode n rowB ix : Nat) : State := withTasks (mach (gatherMem n rowB ix)) [gatherJob type mode]

/-- The operation. -/
def gOp (type mode n rowB ix : Nat) : GatherOp := gatherOp (gatherJob type mode) ((gatherState type mode n rowB ix).bytes H 128)

theorem witness_GatherTasks : ∀ x ∈ [(0x41, 0), (0x41, 2), (0x42, 0)],
    (∀ y ∈ [(1, 64, 1), (1, 64, 2), (0, 64, 0), (1, 65, 0)],
      GatherGo (gatherState x.1 x.2 y.1 y.2.1 y.2.2) 5 x.1 (gatherJob x.1 x.2) 0 (gOp x.1 x.2 y.1 y.2.1 y.2.2) ∧
      (gatherState x.1 x.2 y.1 y.2.1 y.2.2).firstBad (blocksOf ((gatherJob x.1 x.2).addr 32) 128) = none) ∧
    (gOp x.1 x.2 1 64 1).experts = decide (x.2 = 2) ∧ gatherCheck (gOp x.1 x.2 1 65 0) = 1 ∧ gatherCheck (gOp x.1 x.2 1 64 1) = 0 ∧
    (gOp x.1 x.2 1 64 1).plane2 = false ∧
    (let g := gOp x.1 x.2 1 64 1
     let s := gatherState x.1 x.2 1 64 1
     (∀ k ∈ blocksOfAll [g.indexRange, (g.out, g.n * g.rowB), (g.table, g.tableRows * g.rowB)], s.blockOk k = true) ∧
      (∀ k ∈ blocksOf g.out (g.n * g.rowB), k ∉ blocksOf g.table (g.tableRows * g.rowB))) := by
  unfold GatherGo; decide +kernel

/-- A gather task whose operand record lies in an uncorrectable block. -/
def gatherBad : State := badBlockAt 1 [] (job 5 (noWaits ++ [(0, 1, 0x42), (32, 8, 0x1000)]) (.ready 0))

theorem witness_GatherBad : let t := job 5 (noWaits ++ [(0, 1, 0x42), (32, 8, 0x1000)]) (.ready 0)
    GatherGo gatherBad 5 0x42 t 0 (gatherOp t (gatherBad.bytes (t.addr 32) 128)) ∧ blocksOf (t.addr 32) 128 = [1] ∧ gatherBad.badBlock 1 = true := by
  unfold GatherGo; decide +kernel

theorem witness_GatherIndex : rowIndex (gatherState 0x41 0 1 64 1) (gOp 0x41 0 1 64 1) 0 = some 1 ∧
    rowIndex (gatherState 0x41 0 1 64 2) (gOp 0x41 0 1 64 2) 0 = none := by unfold rowIndex; decide +kernel

/-- GATHER takes the table row that the index names (R319). -/
theorem test_gather : gives (.gatherRows 5) (gatherState 0x41 0 1 64 1) (fun t => decide (t.byte (H + 0x3000) = 0xCD) && decide (t.byte (H + 0x3001) = 0xAB)) = true := by decide +kernel

/-- SCATTER_ADD with `ACCUM` 0 stores the row (R321): 1.0 in binary32. -/
theorem test_scatter : gives (.scatterAdd 5) (gatherState 0x42 0 1 64 1) (fun t => decide (t.byte (H + 0x1043) = 0x3F) && decide (t.byte (H + 0x1042) = 0x80)) = true := by decide +kernel

/-! Tempo. -/

/-- The machine at a count under a source. -/
def timed (count src : Nat) : State :=
  { (mach []).wf pgTempo R.TEMPO.TEMPO_CTL_SRC src with
    tempo := { State.reset.tempo with count := BitVec.ofNat 64 count } }

/-- An armed epoch. -/
def armedEpoch (count src epoch : Nat) : State :=
  ((timed count src).wf pgTempo R.TEMPO.TEMPO_CTL_EPOCH_ARM 1).wf64 pgTempo R.TEMPO.EPOCH_SET_LO_COUNT R.TEMPO.EPOCH_SET_HI epoch

theorem witness_Tick : { mach [] with power := ⟨false, false, false, false, 0, false, 3⟩ }.alive = false ∧
    (∀ c ∈ [0, 1023, 2 ^ 64 - 1], (timed c 2).alive = true ∧ (timed c 2).epochArmed = false ∧ (timed c 2).tempo.stall = 0) ∧
    (let s := (timed 1023 2).setContent (pgPanel 7 67) 5
     2 ≤ s.content (pgPanel 7 67)) ∧
    (∀ e ∈ [2 ^ 20, 2 ^ 21 - 1, 2 ^ 21], let s := armedEpoch (2 ^ 21 - 1) 2 e
      s.alive = true ∧ s.epochArmed = true ∧ s.tempoSrc = 2 ∧ s.tempo.stall = 0 ∧ s.tempo.adjust = 0 ∧ s.now + 1 < 2 ^ 64 ∧
      low20 (s.now + 1) = 0) := by decide +kernel

/-- At a count whose low 20 bits are 0, after a mark or none, out of holdover or not. -/
def marked (last : Option Nat) (state good : Nat) : State :=
  let s := (timed (2 ^ 20) 0).wf pgTempo R.TEMPO.TEMPO_STATUS_STATE state
  { s with tempo := { s.tempo with lastMark := last, goodMarks := good } }

theorem witness_Marks : (timed 5 0).alive = true ∧ (timed 5 1).tempoSrc ≠ 0 ∧ (timed 5 0).tempoSrc = 0 ∧ (timed 5 0).epochArmed = false ∧
    (∀ s ∈ [marked none 1 0, marked (some 0) 1 1, marked none 3 1, marked none 3 0], s.alive = true ∧ s.tempoSrc = 0 ∧
      s.epochArmed = false ∧ low20 s.now = 0) ∧
    low20 (timed 1 0).now ≠ 0 ∧ markError 1 = -1 ∧ markError 2 = -2 ∧ markError (2 ^ 19 - 1) = -(2 ^ 19 - 1) ∧ markError (2 ^ 19) = 2 ^ 19 ∧
    markError (2 ^ 20 - 1) = 1 ∧
    (∀ e ∈ [4, 5, 2 ^ 20], (armedEpoch 5 0 e).epochArmed = true ∧ (armedEpoch 5 0 e).alive = true ∧ (armedEpoch 5 0 e).tempoSrc = 0) ∧
    (timed 5 0).rf pgTempo R.TEMPO.TEMPO_STATUS_STATE ≠ 3 ∧
    ((timed 5 0).wf pgTempo R.TEMPO.TEMPO_STATUS_STATE 3).rf pgTempo R.TEMPO.TEMPO_STATUS_STATE = 3 ∧ Writes (timed 5 0) .bar0 pgTempo true ∧
    (timed 5 1).tempoSrc = 1 := by unfold Writes; decide +kernel

theorem witness_Locks : LocksNow (marked (some 0) 1 1) ∧ LocksNow (marked none 3 1) ∧ ¬LocksNow (marked none 1 0) ∧
    ¬LocksNow (marked none 3 0) := by unfold LocksNow; decide +kernel

/-- The second good mark out of holdover locks, one does not (R333). -/
theorem test_holdover_marks : gives .tempoMark (marked none 3 1) (fun t => t.tempo.locked) = true ∧
    gives .tempoMark (marked none 3 0) (fun t => !t.tempo.locked) = true := by decide +kernel

/-- Port 3 is up and carries beacons. -/
def heard (auto : Nat) : State :=
  let s := ((timed 5 1).wf (pgPort 3) R.SEAM_PORT.LINK_STATUS_UP 1).wf pgTempo R.TEMPO.TEMPO_CTL_BEACON_AUTO auto
  { s with tempo := { s.tempo with heard := [(3, 1)] } }

theorem witness_BeaconLoss : (timed 5 2).tempoSrc ≠ 1 ∧ (heard 1).tempoSrc = 1 ∧ (heard 1).rf pgTempo R.TEMPO.TEMPO_STATUS_PORT = 0 ∧
    (heard 1).portUp 0 = false ∧ (heard 1).rf pgTempo R.TEMPO.TEMPO_STATUS_STATE ≠ 3 ∧ (heard 1).rf pgTempo R.TEMPO.TEMPO_CTL_BEACON_AUTO = 1 ∧
    (heard 1).carrying = some 3 ∧ (heard 0).rf pgTempo R.TEMPO.TEMPO_CTL_BEACON_AUTO = 0 ∧
    (∀ g ∈ [4095, 4096], let s := (heard 1).wf (pgPort 0) R.SEAM_PORT.LINK_STATUS_UP 1
     let s := { s with tempo := { s.tempo with beaconGap := g } }
     s.portUp 0 = true ∧ s.tempo.beaconGap = g) := by decide +kernel

/-- Entry `i` selected with an entry staged for a count. -/
def staged (i count : Nat) : State :=
  ((timed 0 2).wf pgTempo R.TEMPO.EVT_SEL_INDEX i).wf64 pgTempo R.TEMPO.EVT_COUNT_LO R.TEMPO.EVT_COUNT_HI count

theorem witness_EventWindow : (∀ i ∈ [0, 15, 16, 255], Writes (staged i 2000) .bar0 pgTempo false ∧ (staged i 2000).evtSel = i ∧
      NotDue (staged i 2000) i) ∧
    (staged 16 2000).armCheck (staged 16 2000).staged = 0 ∧ (staged 16 1999).armCheck (staged 16 1999).staged = 1 := by
  unfold Writes NotDue; decide +kernel

/-- Entry 16 due with an action on button 256. -/
def dueState (action : Byte) : State := { timed 5 2 with events := [(16, ⟨true, 5, action, 0, 256, 0⟩)] }

theorem witness_EventsFire : (timed 5 2).nextEvent = none ∧
    (∀ a ∈ [(0 : Byte), 1, 4, 6, 9], (dueState a).alive = true ∧ (dueState a).nextEvent = some (16, ⟨true, 5, a, 0, 256, 0⟩)) ∧
    { timed 5 2 with snapAt := some ⟨256, 5, false⟩ }.quiet = true ∧ (5 : Nat) ≤ (timed 5 2).now := by decide +kernel

theorem witness_Still : Still (timed 5 2) ∧ (∀ a ∈ [(0 : Byte), 1, 4, 6, 9], Still (dueState a)) ∧
    Still { timed 5 2 with snapAt := some ⟨256, 5, false⟩ } := by unfold Still NoWait; decide +kernel

/-- An event adds 1 to its button (R340). -/
theorem test_event : gives .eventFire (dueState 1) (fun t => decide (t.btnValue 256 = 1)) = true := by decide +kernel

/-! Seam. -/

/-- A port that is up with 64 slots of credit a channel and a message at its head. -/
def upPort (rx : List (Nat × List Byte)) : Port := { Port.idle with phase := .up, credits := [64, 64, 64, 64], rx := rx }

/-- The module as node 2, node 5 by port 0, whose head message is `m`. -/
def seam (rx : List (Nat × List Byte)) : State :=
  let s := (timed 5 1).wfs pgSeam [(R.SEAM_MGMT.MY_ID_VALID, 1), (R.SEAM_MGMT.MY_ID_ID, 2)]
  { (s.wf (pgPort 0) R.SEAM_PORT.LINK_STATUS_UP 1).wf (pgPort 1) R.SEAM_PORT.LINK_STATUS_UP 1 with
    ports := [(0, upPort rx), (1, upPort [])], routes := [(5, 0x100), (6, 0x101)] }

theorem ready_of {s : State} {k : Nat} {rx : List (Nat × List Byte)} (h : (s.named && s.portUp k) = true) (hp : s.port k = upPort rx) :
    PortReady s k := by
  simp only [Bool.and_eq_true] at h
  unfold PortReady
  rw [hp]
  exact ⟨h.1, h.2, rfl, rfl, (by decide : 0 < 512), rfl, rfl, (by decide : ∀ v, v < 4 → 15 ≤ nth [64, 64, 64, 64] v 0)⟩

/-- Port 0 in a phase. -/
def phased (ph : LinkPhase) (stuck : Nat) : State :=
  { seam [] with ports := [(0, { upPort [] with phase := ph, stuck := stuck, replay := [(0, [])] })] }

/-- A peer of four lanes. -/
def peer4 : TrainingFlit := ⟨true, false, 1, 3, 0x11, 4, false, 8, 8, 8, 8⟩

theorem witness_LinkTraining : (seam []).alive = true ∧ ((phased .training 0).port 0).phase = .training ∧
    ((phased .down 0).port 0).phase = .down ∧ (phased .training 0).lanes 0 peer4.lanes ≠ 0 ∧ Writes (phased .up 0) .bar0 (pgPort 0) false ∧
    (∀ k ∈ [7, 8], ((phased .up k).port 0).phase = .up ∧ ((phased .up k).port 0).replay ≠ [] ∧ ((phased .up k).port 0).stuck = k) ∧
    ((phased .retraining 0).port 0).phase = .retraining := by unfold Writes; decide +kernel

/-- A data flit with number `n` and no slots. -/
def dataFlit (n : Nat) : List Byte := flit 1 false 0 0 n [0, 0, 0, 0] []

/-- A port at a place of its codewords, the one that goes on lost or not. -/
def codeAt (pos : Nat) (lost : Bool) : State :=
  { seam [] with ports := [(0, { upPort [] with fecPos := pos, fecLost := lost })] }

/-- What port 0 has and a flit needs, beside its CRC. -/
theorem witness_Flits : ((seam []).port 0).phase = .up ∧ ((seam []).port 0).tx = [] ∧ ((seam []).port 0).freed = [0, 0, 0, 0] ∧
    (∀ n ∈ [0, 4095], fieldAt (dataFlit n) 0 1 / 16 = 1 ∧ bit (fieldAt (dataFlit n) 0 1) 3 = false ∧ flitSeq (dataFlit n) = n ∧
      ((seam []).port 0).fits (fieldAt (dataFlit n) 0 1 % 4) (dataFlit n) = true) ∧
    (seam []).named = true ∧ ((seam []).wf pgSeam R.SEAM_MGMT.MY_ID_VALID 0).named = false ∧ ((seam []).port 0).rxNext = 0 ∧
    ((phased .down 0).port 0).phase ≠ .up ∧ (((seam []).port 0).replay.any fun r => r.1 == fieldAt (dataFlit 5) 1 3 / 4096) = false ∧
    fieldAt (flit 0 false 0 0 0 [0, 0, 0, 0] []) 0 1 / 16 = 0 ∧
    (((phased .up 0).port 0).replay.any fun r => r.1 == fieldAt (flit 0 false 0 0 0 [0, 0, 0, 0] []) 1 3 / 4096) = true := by decide +kernel

theorem witness_Codewords : (∀ pos ∈ [0, 1, 2, 3, 4], QuietPort (codeAt pos false) 0 ∧ CodeGood (codeAt pos false) 0 15) ∧
    (∀ pos ∈ [1, 3, 4], QuietPort (codeAt pos true) 0 ∧ ((codeAt pos true).port 0).fecPos = pos ∧ ((codeAt pos true).port 0).fecLost = true) := by
  unfold QuietPort CodeGood; decide +kernel

/-- Two flits and a half lie in a codeword (R348): the third flit of a lost one is lost with it. -/
theorem test_codeword : gives (.flitReceive 0 (dataFlit 0) .uncorrectable) (codeAt 0 false) (fun t => (t.port 0).fecLost && (t.port 0).fecPos == 1) = true ∧
    gives (.flitReceive 0 (dataFlit 0) (.corrected 0)) (codeAt 2 true) (fun t => !(t.port 0).fecLost && (t.port 0).rxNext == 0) = true := by
  decide +kernel

theorem witness_GoodFlit : flitGood (dataFlit 0) = true ∧ flitGood (dataFlit 4095) = true :=
  ⟨flitGood_append _ (by decide +kernel), flitGood_append _ (by decide +kernel)⟩

/-- CRC-64/WE of "123456789", the check value of ECMA-182 with inverted ends. -/
theorem test_crc64 : crc64 [0x31, 0x32, 0x33, 0x34, 0x35, 0x36, 0x37, 0x38, 0x39] = 0x62EC59E3F1A4F00A := by decide +kernel

/-- A message from node 5 to node `dst`. -/
def msg (dst op : Nat) (hops : Nat := 0) : List Byte := setNth (({ op := op, dst := dst, arg := 64, btn := 300 } : Msg).bytes 5) 1 (BitVec.ofNat 8 hops)

theorem witness_Forwarding : (∀ m ∈ [msg 6 1, msg 6 1 15, msg 7 1], Waits (seam [(0, m)]) 0 0 m [] ∧ (seam [(0, m)]).isLocal m = false) ∧
    mHops (msg 6 1) < 15 ∧ (seam []).route (mDst (msg 6 1)) = some 1 ∧ (msg 6 1).length % 16 = 0 ∧ 32 ≤ (msg 6 1).length ∧
    (∀ m ∈ [msg 6 1 15, msg 2 6 15, msg 2 0x20 15, msg 2 0x23 15], Waits (seam [(0, m)]) 0 0 m [] ∧ mHops m = 15) ∧
    (seam []).isLocal (msg 2 6 15) = true ∧ (seam []).badOpcode 0 (msg 2 6 15) = true ∧
    (∀ m ∈ [msg 2 0x20 15, msg 2 0x23 15], (seam []).isLocal m = true ∧ (seam []).badOpcode 0 m = false) ∧
    mOp (msg 2 0x20 15) = 0x20 ∧ mOp (msg 2 0x23 15) = 0x23 ∧
    (seam []).route (mDst (msg 7 1)) = none ∧ (seam []).isLocal (msg 2 6) = true ∧ mHops (msg 2 6) ≠ 15 ∧
    (seam []).badOpcode 0 (msg 2 6) = true ∧ (seam []).isLocal (msg 2 0x30) = true ∧ (seam []).badOpcode 0 (msg 2 0x30) = false ∧
    storeAnswer (mOp (msg 2 0x30)) = some 0x31 ∧ (seam []).route (mSrc (msg 2 0x30)) = some 0 := by unfold Waits; decide +kernel

theorem witness_ForwardingPort : PortReady (seam [(0, msg 6 1)]) 1 ∧ Answers (seam [(0, msg 2 0x30)]) (msg 2 0x30) 0 :=
  ⟨ready_of (rx := []) (by decide +kernel) rfl, by decide +kernel, ready_of (rx := [(0, msg 2 0x30)]) (by decide +kernel) rfl⟩

/-- The receive window 0 takes the first 64 KiB. -/
def opened (m : List Byte) : State := (seam [(0, m)]).wf64 pgSeam R.SEAM_MGMT.RX_LIMIT0_LO R.SEAM_MGMT.RX_LIMIT0_HI 0x10000

/-- A sealed WRITE of a block at 0x1000, a WRITE of no block of its own, one outside, a READ of 64 bytes, BUTTON_ADD of 300 and of 5. -/
def wrMsg (addr len flags : Nat) : List Byte := ({ op := 1, dst := 2, addr := addr, flags := flags, data := List.replicate len 0 } : Msg).bytes 5
def rdMsg : List Byte := ({ op := 3, dst := 2, addr := 0x1000, arg := 64 } : Msg).bytes 5
def addMsg (b : Nat) : List Byte := ({ op := 5, dst := 2, btn := b, arg := 1 } : Msg).bytes 5

/-- A READ of a whole block, and of 63 bytes. -/
def rdBlock (len : Nat) : List Byte := ({ op := 3, dst := 2, addr := 0x1000, arg := len } : Msg).bytes 5

theorem holds_of {s : State} {m : List Byte} {op : Nat} (hp : (s.port 0).rx = [(0, m)])
    (h : (s.isLocal m && !s.badOpcode 0 m && mOp m == op && mHops m != 15) = true) : Holds s 0 op m := by
  simp only [Bool.and_eq_true, Bool.not_eq_true', beq_iff_eq, bne_iff_ne] at h
  exact ⟨⟨0, [], hp⟩, h.1.1.1, h.1.1.2, h.1.2, h.2⟩

theorem witness_RemoteRequests : Holds (opened (wrMsg 0x1000 64 0)) 0 1 (wrMsg 0x1000 64 0) ∧
    Holds (opened (wrMsg 0x10000 64 0)) 0 1 (wrMsg 0x10000 64 0) ∧ Holds (opened rdMsg) 0 3 rdMsg ∧
    Holds (opened (rdBlock 4096)) 0 3 (rdBlock 4096) ∧ Holds (opened (rdBlock 63)) 0 3 (rdBlock 63) ∧
    Holds (opened (addMsg 300)) 0 5 (addMsg 300) ∧ Holds (opened (addMsg 5)) 0 5 (addMsg 5) :=
  ⟨holds_of rfl (by decide +kernel), holds_of rfl (by decide +kernel), holds_of rfl (by decide +kernel), holds_of rfl (by decide +kernel),
    holds_of rfl (by decide +kernel), holds_of rfl (by decide +kernel), holds_of rfl (by decide +kernel)⟩

theorem witness_RemoteAccess :
    (∀ m ∈ [wrMsg 0x1000 64 0, wrMsg 0x10000 64 0, rdMsg, addMsg 300, addMsg 5], (opened m).route (mSrc m) = some 0) ∧
    (mData (wrMsg 0x1000 64 0)).length = mLen (wrMsg 0x1000 64 0) ∧ (opened []).reachable 0x1000 4096 = true ∧
    (opened []).reachable 0x1000 64 = true ∧ (opened []).reachable 0x10000 64 = false ∧ mFlag (wrMsg 0x1000 64 0) 0 = false ∧
    mArg rdMsg = 64 ∧ mAddr rdMsg = 0x1000 ∧ mArg (rdBlock 4096) = 4096 ∧ mArg (rdBlock 63) = 63 ∧ (opened []).badBlock 1 = false ∧
    (opened []).markedIn [(0x1000, 4096)] = [] ∧ NoWait (opened []) ∧ graphButton (mBtn (addMsg 300)) = true ∧
    graphButton (mBtn (addMsg 5)) = false ∧ (opened (addMsg 300)).writesAhead 0 (addMsg 300) = false ∧
    (seam [(1, wrMsg 0x1000 64 0), (0, addMsg 300)]).writesAhead 0 (addMsg 300) = false ∧
    partBlocks (mAddr (wrMsg 0x1000 64 0)) (mLen (wrMsg 0x1000 64 0)) = [1] := by unfold NoWait; decide +kernel

/-- A WRITE of the same source that came in before on another port. -/
def crossed : State :=
  { seam [] with
    ports := [(0, upPort [(0, addMsg 300)]), (1, upPort [(1, wrMsg 0x1000 64 0)])]
    arrived := [(1, wrMsg 0x1000 64 0), (0, addMsg 300)] }

theorem witness_WriteAhead : crossed.writesAhead 0 (addMsg 300) = true := by decide +kernel

theorem msg_length (m : Msg) (src : Nat) : (m.bytes src).length = 32 + m.data.length + (up16 m.data.length - m.data.length) := by
  simp [Msg.bytes]; omega

theorem witness_RemoteSealedWrite : (mData (wrMsg 0x1000 4096 1)).length = 4096 ∧ mOp (wrMsg 0x1000 4096 1) = 1 ∧
    mFlag (wrMsg 0x1000 4096 1) 0 = true ∧ mAddr (wrMsg 0x1000 4096 1) = 0x1000 ∧ mLen (wrMsg 0x1000 4096 1) = 4096 := by
  have e : mLen (wrMsg 0x1000 4096 1) = 4096 := by decide +kernel
  refine ⟨?_, by decide +kernel, by decide +kernel, by decide +kernel, e⟩
  rw [mData, e, List.length_take, List.length_drop, wrMsg, msg_length, List.length_replicate]
  decide

/-- The same with the block at 0x1000 sealed. -/
def sealedOpen : State := sealAll (opened rdMsg) (blocksOf 0x1000 64)

theorem witness_RemoteBlocks : sealedOpen.firstBad (blocksOf 0x1000 64) = none ∧ Answers sealedOpen rdMsg 0 :=
  ⟨sealAll_good _ _, by decide +kernel, ready_of (rx := [(0, rdMsg)]) (by decide +kernel) rfl⟩

/-- A schedule of entry 16 for count 3,000, a beacon with a count far ahead, an echo and its answer. -/
def schedMsg : List Byte := ({ op := 0x23, dst := 2, arg := 16, flags := 4, data := leBytes 8 3000 ++ List.replicate 8 0 } : Msg).bytes 5
def tempoMsg (op : Nat) : List Byte := ({ op := op, dst := 2, addr := 100 } : Msg).bytes 5

theorem witness_Beacons : (∀ m ∈ [schedMsg, tempoMsg 0x20, tempoMsg 0x21, tempoMsg 0x22],
      (seam [(3, m)]).isLocal m = true ∧ (seam [(3, m)]).badOpcode 0 m = false ∧ mHops m ≠ 15) ∧
    ((seam []).wf pgTempo R.TEMPO.TEMPO_CTL_BEACON_TX 1).rf pgTempo R.TEMPO.TEMPO_CTL_BEACON_TX = 2 ^ (0 : PortNo).val ∧ (seam []).tempoSrc = 1 ∧
    (seam []).tempo.beaconIn = 0 ∧ (seam []).tempo.echoIn = 0 ∧ (seam []).beaconPort = 0 ∧ (3 : PortNo).val ≠ (seam []).beaconPort ∧
    mArg schedMsg = 16 ∧ NotDue (seam []) 16 ∧
    (seam []).armCheck (eventOf (mData schedMsg)) = 0 ∧ mFlag schedMsg 2 = true ∧ mHops schedMsg < 15 ∧ schedMsg.length % 16 = 0 ∧
    ((seam []).wf pgSeam R.SEAM_MGMT.BCAST_DOWN_PORTS 2).rf pgSeam R.SEAM_MGMT.BCAST_DOWN_PORTS = 2 ^ 1 ∧
    (seam []).rf pgSeam R.SEAM_MGMT.BCAST_DOWN_PORTS = 0 ∧
    (let s := (seam []).wf pgTempo R.TEMPO.EVT_SEL_INDEX 16 |>.wf64 pgTempo R.TEMPO.EVT_COUNT_LO R.TEMPO.EVT_COUNT_HI 3000
     Writes s .bar0 pgSeam false ∧ 16 ≤ s.evtSel ∧ NotDue s s.evtSel ∧ s.armCheck s.staged = 0) := by unfold Writes NotDue; decide +kernel

/-- Table 13-6: an entry that is due fires before the DISARM that meets it. -/
theorem test_due_first : gives (.evtDisarm .bar0) { staged 16 2000 with events := [(16, ⟨true, 0, 1, 1, 300, 4000⟩)] }
    (fun t => decide (t.btnValue 300 = 1) && !(t.event 16).armed) = true := by decide +kernel

/-! Transfers and collectives. -/

/-- The tempo count far on. -/
def late : Tempo := { State.reset.tempo with count := BitVec.ofNat 64 (2 ^ 40) }

/-- A SEAM_PUT or SEAM_GET of `len` bytes between `H` and address 0x1000 of node 5. -/
def xferJob (isPut : Bool) (len : Nat) : Task :=
  job 5 (noWaits ++ [(0, 1, if isPut then 0x61 else 0x62), (32, 8, H), (40, 8, 0x1000), (48, 4, len), (52, 2, 5), (54, 2, 0xFFFF)]) (.ready 0)

/-- Its transfer at tick 5. -/
def xfer (isPut : Bool) (len : Nat) : Txn := txnOfTask (xferJob isPut len) isPut 5

theorem witness_SeamTransfersStart : ∀ isPut : Bool, (∀ len ∈ [64, 0, 65], let s := withTasks (seam []) [xferJob isPut len]
      SeamGo s 5 isPut (xferJob isPut len) (xfer isPut len) ∧ s.txnRefused (xfer isPut len) = decide (len = 65) ∧ (xfer isPut len).len = len) ∧
    (xfer isPut 64).button = 0xFFFF ∧ (xfer isPut 64).store = false ∧ (xfer isPut 64).remote % 4096 + (xfer isPut 64).len ≤ 4096 ∧
    (seam []).route (xfer isPut 64).node = some 0 ∧ (seam []).markedIn [((xfer isPut 64).home, (xfer isPut 64).len)] = [] ∧
    (seam []).firstBad ((blocksOf (xfer isPut 64).home (xfer isPut 64).len).filter fun b => !inHost (4096 * b)) = none := by
  unfold SeamGo; decide +kernel

/-- A put from a block of device memory that fails its seal. -/
def badPutTask : Task :=
  job 5 (noWaits ++ [(0, 1, 0x61), (32, 8, 0x2000), (40, 8, 0x1000), (48, 4, 64), (52, 2, 5), (54, 2, 0xFFFF)]) (.ready 0)

/-- The machine with it. -/
def badPut : State :=
  { withTasks (seam []) [badPutTask] with host := { State.reset.host with badLines := [0x2000 / 64] } }

theorem witness_SeamPutBad : let x := txnOfTask badPutTask true 5
    SeamGo badPut 5 true badPutTask x ∧ badPut.txnRefused x = false ∧ badPut.markedIn [(x.home, x.len)] = [] ∧
      ((blocksOf x.home x.len).filter fun b => !inHost (4096 * b)) = [2] ∧ badPut.badBlock 2 = true ∧ 0 < x.len ∧ x.len < 4096 := by
  unfold SeamGo; decide +kernel

theorem witness_SeamTransfersPort (isPut : Bool) : PortReady (withTasks (seam []) [xferJob isPut 64]) 0 := ready_of (rx := []) (by cases isPut <;> decide +kernel) rfl

/-- An answer with tag 9 and 64 bytes of data for a read. -/
def answer (op : Nat) : List Byte :=
  ({ op := op, dst := 2, tag := 9, data := if [4, 0x33].contains op then List.replicate 64 1 else [] } : Msg).bytes 5

/-- The transfer waits for it alone. -/
def lastTxn (isPut : Bool) : Txn := { xfer isPut 64 with next := 1, pending := [(9, 0)], quietAt := 0 }

/-- The machine with it. -/
def answered (isPut : Bool) (m : List Byte) : State :=
  { withTasks (seam [(1, m)]) [{ xferJob isPut 64 with phase := .running }] with
    txns := [lastTxn isPut]
    tempo := late }

theorem witness_SeamTransfersEnd : ∀ x ∈ [(true, 2), (true, 0x31), (false, 4), (false, 0x33)], let m := answer x.2
    let s := answered x.1 m
    s.isLocal m = true ∧ s.badOpcode 0 m = false ∧ mOp m = x.2 ∧ mHops m ≠ 15 ∧ s.ackedHeads m = [] ∧
    s.markedIn [((lastTxn x.1).home, (lastTxn x.1).len)] = [] ∧ s.txnOf (mTag m) = some (lastTxn x.1) ∧
    s.txn? 5 = some (lastTxn x.1) ∧ (s.task? 5).isSome = true ∧ (lastTxn x.1).cuts.length ≤ (lastTxn x.1).next ∧ mStatus m = 0 ∧
    (lastTxn x.1).button = 0xFFFF ∧
    (x.1 = false → ((lastTxn x.1).cuts.find? fun p => p.1 == 0) = some (0, 64) ∧ mFlag m 0 = false ∧ (mData m).length = 64 ∧
      s.markedIn [((lastTxn x.1).home + 0, 4096)] = [] ∧ s.firstBad (partBlocks ((lastTxn x.1).home + 0) 64) = none) ∧
    s.unanswered (lastTxn x.1).quietAt = true ∧ s.unanswered (2 ^ 40) = false ∧ (lastTxn x.1).failed = none ∧ (lastTxn x.1).pending ≠ [] := by decide +kernel

theorem witness_StoreStat : (answered true (answer 0x35)).isLocal (answer 0x35) = true ∧ mOp (answer 0x35) = 0x35 ∧ mHops (answer 0x35) ≠ 15 ∧
    ((answered true (answer 0x35)).wf (pgPort 0) R.SEAM_PORT.LINK_STATUS_LEVEL 0x11).badOpcode 0 (answer 0x35) = false := by decide +kernel

/-- WRITE_ACK ends a put DONE (R365). -/
theorem test_write_ack : gives (.writeAck 0) (answered true (answer 2)) (fun t => decide ((t.task? 5).map (·.phase) = some (.finished 0 0 0 0))) = true := by
  decide +kernel

/-- Entry 0: two elements of binary32 from `H + 0x1000` to `H + 0x2000`, `p` members whose IDs lie at `H`; ledgers at `H + 0x4000` where `led`. -/
def entry (p : Nat) (led : Bool) : List Byte :=
  desc [(0, 8, H + 0x1000), (8, 8, H + 0x2000), (24, 8, if led then H + 0x4000 else 0), (32, 8, if led then H + 0x8000 else 0), (40, 8, H),
    (48, 4, 2), (52, 1, 0x20 + 128), (53, 1, 1), (54, 2, p), (58, 2, 1), (60, 2, 1), (62, 2, 256)]

/-- A COLLECTIVE of entry 0. -/
def collJob (ph : Phase) (step : Nat) : Task := { job 5 (noWaits ++ [(0, 1, 0x60)]) ph with step := step }

/-- Node 2 with that table, loaded or not; group 2, 5. -/
def coll (p : Nat) (led loaded : Bool) (rx : List (Nat × List Byte)) (ts : List Task) : State :=
  let s := seam rx
  let s := (s.wf pgColl R.COLLECTIVE.COLL_CTL_LOADED (b2n loaded)).wf64 pgColl R.COLLECTIVE.COLL_TABLE_LO_ADDR R.COLLECTIVE.COLL_TABLE_HI_ADDR H
  { s with
    ctable := [(0, entry p led)], tasks := ts, mem := memPut [] H [2, 0, 5, 0]
    tempo := late }

theorem witness_CollectiveTable : let s := coll 1 false false [] []
    Writes s .bar0 pgColl false ∧ s.markedIn [(s.collTable, 64 * 4096)] = [] ∧ rangeOk s.collTable (64 * 4096) = true ∧ s.ledgers = [] ∧
    s.firstBad (blocksOf s.collTable (64 * 4096)) = none := by unfold Writes; decide +kernel

/-- The table in device memory, one of its blocks bad. -/
def badTable : State :=
  { (coll 1 false false [] []).wf64 pgColl R.COLLECTIVE.COLL_TABLE_LO_ADDR R.COLLECTIVE.COLL_TABLE_HI_ADDR 0x100000 with
    host := { State.reset.host with badLines := [0x100000 / 64] } }

theorem witness_CollectiveTableBad : Writes badTable .bar0 pgColl false ∧ badTable.markedIn [(badTable.collTable, 64 * 4096)] = [] ∧
    rangeOk badTable.collTable (64 * 4096) = true ∧ badTable.badBlock (badTable.collTable / 4096) = true ∧
    badTable.collTable / 4096 ∈ blocksOf badTable.collTable (64 * 4096) := by unfold Writes; decide +kernel

theorem witness_CollectiveTasks : (∀ l, (coll 1 false l [] [collJob (.ready 0) 0]).dispatchable 5 [0x60] = some (collJob (.ready 0) 0) ∧
      (coll 1 false l [] [collJob (.ready 0) 0]).collRefused 0 = !l) ∧ collEntry (collJob (.ready 0) 0) = 0 ∧
    (let s := coll 1 false true [] [collJob (.ready 0) 0]
     let c := s.collOp 0
     c.p = 1 ∧ s.inst 0 = Inst.fresh 0 ∧ (s.collPast.find? fun p => p.entry == 0 && p.step == 0 && p.status.isSome) = none ∧
      AllInstalled [(c.group, 2), (c.src, c.n * c.size), (c.res, c.n * c.size), ((collJob (.ready 0) 0).addr 40, 0)] ∧ (collJob (.ready 0) 0).addr 40 = 0 ∧
      s.markedIn [(c.group, 2), (c.src, c.n * c.size), (c.res, c.n * c.size)] = [] ∧
      s.firstBad (blocksOf c.group 2 ++ blocksOf c.src (c.n * c.size) ++ partBlocks c.res (c.n * c.size)) = none) ∧
    (let t := collJob .running 1
     let s := coll 2 false true [] [t]
     s.task? 5 = some t ∧ t.isRunning = true ∧ t.type = 0x60 ∧ (s.inst t.target).step < t.step ∧ t.startAt + (s.collOp t.target).wait < s.now) ∧
    (let s := (coll 2 false true [] [collJob .running 0]).setInst 0 { Inst.fresh 0 with task := some 5, deadline := some 0 }
     (s.inst 0).deadline = some 0 ∧ (s.inst 0).done = false ∧ (s.inst 0).later = [] ∧ 0 + (s.collOp 0).wait ≤ s.now ∧
      s.markedIn ((s.collOp 0).ledgerLines 0) = [] ∧ s.collWaiting 0 1 = [] ∧ s.held = [] ∧
      s.ledger? 0 0 = none) := by unfold AllInstalled; decide +kernel

/-- A segment of step `step` with two elements. -/
def segMsg (op step : Nat) : List Byte := ({ op := op, dst := 2, addr := step, arg := 1, data := List.replicate 8 1 } : Msg).bytes 5

theorem witness_CollectiveSegments : (∀ op ∈ [0x10, 0x11], ∀ step ∈ [0, 1, 2], let m := segMsg op step
      let s := coll 2 false true [(2, m)] []
      s.isLocal m = true ∧ s.badOpcode 0 m = false ∧ mOp m = op ∧ mHops m ≠ 15 ∧ mBtn m % 4096 = 0 ∧
      s.markedIn [((s.collOp 0).res, (s.collOp 0).n * (s.collOp 0).size)] = [] ∧ mAddr m = step ∧ s.collLoaded = true ∧
      (s.inst 0).step = 0 ∧ (s.inst 0).ready = false ∧ (s.inst 0).deadline = none ∧ rankOf (s.group (s.collOp 0)) (mSrc m) = some 1) ∧
    (coll 2 false false [] []).collLoaded = false := by decide +kernel

/-- The ledger of step 0. -/
def ledger (deadline : Option Nat) (closed : Bool) : LedgerRun := ⟨0, 0, deadline, [], [], 0, closed⟩

theorem witness_LedgerSegments : (∀ op ∈ [0x12, 0x13], ∀ closed, let m := segMsg op 0
      let s := { coll 2 true true [(2, m)] [] with ledgers := [ledger none closed] }
      s.isLocal m = true ∧ s.badOpcode 0 m = false ∧ mOp m = op ∧ mHops m ≠ 15 ∧ s.markedIn (s.ledgerRange 0) = [] ∧
      rankOf (s.group (s.collOp 0)) (mSrc m) = some 1 ∧
      s.ledger? (mBtn m % 4096) (mAddr m) = some (ledger none closed) ∧ 0 < (s.collOp 0).lateMax) ∧
    (let m := segMsg 0x13 0
     let s := coll 2 true true [(2, m)] []
     let g := segOf (s.collOp 0) false 1 0 m
     g.present ≠ 0 ∧ NoWait s ∧
      s.firstBad (partBlocks ((s.collOp 0).ledger 0 + 4096 + g.first * (s.collOp 0).size) (g.len * (s.collOp 0).size)) = none) ∧
    (let s := { coll 2 false true [] [] with ledgers := [ledger (some 0) false] }
     (s.findLedger 0 fun l => !l.closed && l.past (s.collOp 0).close s.now) = some (ledger (some 0) false) ∧ (s.collOp 0).hasLedger = false ∧
      (s.collOp 0).btn < 16384 ∧ NoWait s) ∧
    (let s := { coll 2 true true [] [] with ledgers := [ledger (some 0) true] }
     (s.findLedger 0 fun l => l.closed && l.past ((s.collOp 0).close + (s.collOp 0).wait) s.now) = some (ledger (some 0) true) ∧
      s.markedIn ((s.collOp 0).ledgerLines 0) = []) := by
  unfold NoWait; decide +kernel

/-- A collective of one member copies its source (R367, R372). -/
theorem test_collective_of_one : gives (.collective 5) { coll 1 false true [] [collJob (.ready 0) 0] with
    mem := memPut (memPut [] H [2, 0]) (H + 0x1000) [1, 2, 3, 4, 5, 6, 7, 8] } (fun t => decide (t.byte (H + 0x2007) = 8)) = true := by decide +kernel

/-! Maintenance. -/

/-- A SEAL page of die 0 with an operation of one block, or none. -/
def sealing (o : Option SealOp) (len : Nat) : State :=
  let s := (mach []).wf (pgSeal 0) R.SEAL.OP_LEN_BLOCKS len
  match o with
  | some o => { s with sealOps := [(0, o)] }
  | none => s

theorem witness_SealOperationsStart : Writes (sealing none 1) .bar0 (pgSeal 0) true ∧ (sealing (some ⟨1, 0, 1⟩) 1).sealOp? 0 ≠ none ∧
    (sealing none 1).sealOp? 0 = none ∧ (sealing none 1).rf (pgSeal 0) R.SEAL.OP_LEN_BLOCKS ≠ 0 ∧
    (sealing none 0).rf (pgSeal 0) R.SEAL.OP_LEN_BLOCKS = 0 := by unfold Writes; decide +kernel

theorem witness_SealOperationsEnd : (∀ op ∈ [1, 2, 3], (sealing (some ⟨op, 0, 1⟩) 1).sealOp? 0 = some ⟨op, 0, 1⟩ ∧
      (sealing (some ⟨op, 0, 1⟩) 1).clocked (pllMem 0) = true ∧ (SealOp.mk op 0 1).inside = true ∧
      (sealing (some ⟨op, 0, 1⟩) 1).markedIn [(0, 4096 * 1)] = []) ∧ (SealOp.mk 1 H 1).inside = false ∧ H % 4096 = 0 ∧
    Writes (sealing none 1) .bar0 (pgSeal 0) true ∧ (sealing none 1).selBlock 0 = some 0 ∧ (sealing none 1).selBlock 7 = none := by
  unfold Writes; decide +kernel

/-- Cores of quadrant 0. -/
def core (vector : Bool) : CoreName := ⟨0, vector, 0⟩

/-- A field test of a core. -/
def testOf (v : Bool) (o : FtOrigin) (st : Nat) : FieldTest := ⟨core v, o, st, 0, 1⟩

/-- The machine with it, at a count. -/
def testing (f : FieldTest) (now : Nat) : State := { timed now 2 with field := some f }

/-- A replay at rest that owes the test of a core. -/
def owing : Replay := ⟨0, [], [], 0, [], 0, 0, 0, 0xFF, [core false], 0⟩

theorem witness_FieldTestsGranted : ∀ v, Writes (mach []) .bar0 pgMaint true ∧ (mach []).retired (corePage (core v)) = false ∧
    ((mach []).setHdrBit (corePage (core v)) oPAGE_STATUS 3 true).retired (corePage (core v)) = true ∧
    Grantable (mach []) (coreClass (core v)) [0] ∧ ¬Grantable { mach [] with grants := [⟨3, [0], 0⟩] } (coreClass (core false)) [0] ∧
    { mach [] with replay := some owing }.replay = some owing ∧ owing.retryAt ≤ (mach []).now ∧ (mach []).field = none := by
  unfold Writes Grantable; decide +kernel

theorem witness_FieldTestsRun : ∀ v, (let s := testing (testOf v .command 1) 0
      s.coreIdle (core v) = true ∧ s.now - 0 ≤ s.rf pgMaint R.MAINT.FT_WAIT ∧ s.clocked (pllGrad 0) = true) ∧
    (let s := testing (testOf v .command 1) (2 ^ 40)
     s.rf pgMaint R.MAINT.FT_WAIT < s.now - 0 ∧ s.gradRuns = [] ∧ s.vecRuns = [] ∧ s.replay = none) := by decide +kernel

/-- The record of a replay of a held layer of one element, its GRAD_MM writing G at `H + 0xB000`. -/
def replayMem : List (Nat × Nat × Nat) :=
  updMem 0x81 0 ++ [(H, 8, H + 0xB000), (H + 0x10000, 8, H + 0x1000), (H + 0x10008, 8, H), (H + 0x10010, 8, H + 0xD000), (H + 0x10018, 8, H + 0xE000),
    (H + 0x10020, 8, H + 0xF000), (H + 0x10029, 1, 1), (H + 0x10040, 1, 0x50), (H + 0x10060, 8, H), (H + 0x10068, 8, H + 0x1000),
    (H + 0x10078, 1, 0), (H + 0x1007B, 1, 0x20), (H + 0x1007E, 1, 1), (H + 0x10080, 1, 0x20), (H + 0x100A0, 8, H + 0x20000), (H + 0x100B0, 1, 0x20),
    (H + 0x100B1, 1, 0x20), (H + 0x100B2, 1, 0x20), (H + 0x100B6, 2, 4096), (H + 0x20000, 8, H + 0x21000), (H + 0x20010, 8, H + 0x22000),
    (H + 0x20020, 8, H + 0xB000), (H + 0x20040, 4, 1), (H + 0x20044, 4, 1), (H + 0x20048, 4, 1)]

/-- The machine with that record at `REPLAY_ADDR`, three quadrants ready, their key tables in host memory. -/
def replaying (r : Option Replay) : State :=
  let s := (mach replayMem).wf64 pgMaint R.MAINT.REPLAY_ADDR_LO_ADDR R.MAINT.REPLAY_ADDR_HI_ADDR (H + 0x10000)
  let s := [pgGradCore 1 0, pgUpdate 2, pgGradCore 2 0, pgUpdate 4].foldl (fun s p => s.setHdrBit p oPAGE_CTL 0 true) s
  let s := [0, 1, 2].foldl (fun s q => s.wf64 (pgGradDie q) R.GRAD_DIE.KEY_TABLE_LO_ADDR R.GRAD_DIE.KEY_TABLE_HI_ADDR (H + 0x30000)) s
  { s with replay := r }

/-- The replay in a state. -/
def replayIn (st outcome : Nat) : Replay :=
  ⟨st, (replaying none).bytes (H + 0x10000) 4096, [0, 1, 2], 0, List.replicate 6 (List.replicate 32 0), 0, outcome, 0, 0xFF, [], 0⟩

/-- The same with `REPLAY_ADDR` elsewhere. -/
def replayAt (a : Nat) : State := (replaying none).wf64 pgMaint R.MAINT.REPLAY_ADDR_LO_ADDR R.MAINT.REPLAY_ADDR_HI_ADDR a

/-- The record in a bad block of device memory. -/
def replayBad : State := { replayAt 0x10000 with host := { State.reset.host with badLines := [0x10000 / 64] } }

theorem witness_ReplayStarts : Writes (replaying none) .bar0 pgMaint false ∧
    (replaying none).rf64 pgMaint R.MAINT.REPLAY_ADDR_LO_ADDR R.MAINT.REPLAY_ADDR_HI_ADDR = H + 0x10000 ∧ (replaying none).replay = none ∧
    ReplayGo (replaying none) (H + 0x10000) ∧ (replayIn 1 0).state ≠ 0 ∧
    (let s := replayAt 0x30000000000
     let a := s.rf64 pgMaint R.MAINT.REPLAY_ADDR_LO_ADDR R.MAINT.REPLAY_ADDR_HI_ADDR
     Writes s .bar0 pgMaint false ∧ rangeOk a 4096 = false) ∧
    (let a := replayBad.rf64 pgMaint R.MAINT.REPLAY_ADDR_LO_ADDR R.MAINT.REPLAY_ADDR_HI_ADDR
     Writes replayBad .bar0 pgMaint false ∧ rangeOk a 4096 = true ∧ a / 4096 = 16 ∧ replayBad.badBlock 16 = true) := by
  unfold Writes ReplayGo Grantable; decide +kernel

theorem witness_ReplayDecides : (replaying (some (replayIn 1 0))).markedIn ((replaying none).replayRanges (replayIn 1 0).recBytes) = [] ∧
    ((replaying (some (replayIn 1 0))).formRun (replayIn 1 0) 0 ⟨true, true⟩).2.isSome = true ∧
    (match (replaying (some (replayIn 1 0))).formRun (replayIn 1 0) 0 ⟨true, true⟩ with
      | (ra, some r1) => (ra.formRun r1 1 ⟨true, false⟩).2.isSome
      | _ => false) = true ∧
    ((replaying (some (replayIn 2 0))).formRun (replayIn 2 0) 2 ⟨true, true⟩).2.isSome = true := by decide +kernel

/-- The replay with G, or an operand of its GRAD_MM, in a bad block of device memory. -/
def replayRunBad (st a : Nat) : State :=
  let s := replaying (some (replayIn st 0))
  { s with
    mem := memPut s.mem a (leBytes 8 0x1000)
    host := { s.host with badLines := [64] } }

theorem witness_ReplayRunsFail : ((replayRunBad 1 H).formRun (replayIn 1 0) 0 ⟨true, true⟩).2 = none ∧
    (match (replayRunBad 1 (H + 0x20000)).formRun (replayIn 1 0) 0 ⟨true, true⟩ with
      | (ra, some r1) => (ra.formRun r1 1 ⟨true, true⟩).2 == none
      | _ => false) = true ∧
    ((replayRunBad 2 (H + 0x20000)).formRun (replayIn 2 0) 2 ⟨true, true⟩).2 = none ∧
    (∀ a ∈ [H, H + 0x20000], (replayRunBad 1 a).markedIn ((replayRunBad 1 a).replayRanges (replayIn 1 0).recBytes) = []) := by
  decide +kernel

theorem witness_ReplayEnds : faultIn (recAddr (replayIn 4 4).recBytes 32) 256 = none ∧ (∀ d ∈ (replayIn 4 4).digests, d.length = 32) ∧
    (replayIn 4 4).owed = [] ∧ (4 : Nat) ∉ [2, 3, 5] ∧ (replayIn 4 4).outcome < 256 ∧ (replayIn 4 4).status < 256 ∧
    (replaying none).mayCommit (replayIn 3 1) = true ∧
    { replaying none with upds := [(0, upd 0 .pass1 0 0 0)] }.mayCommit (replayIn 3 1) = false ∧
    (replaying none).markedIn ((replaying none).replayRanges (replayIn 3 1).recBytes) = [] := by decide +kernel

/-- A DIGEST_EXCHANGE of one record at `H + 0x5000`, named by a list at `H + 0x3000`. -/
def digestJob (ph : Phase) (step : Nat) : Task :=
  { job 5 (noWaits ++ [(0, 1, 0x51), (34, 2, 1), (40, 8, H + 0x3000)]) ph with step := step }

/-- A group of node 2 alone that gathers eight words, step 1 to be opened. -/
def digests (loaded : Bool) (ph : Phase) (gs : List Grant) : State :=
  { coll 1 false loaded [] [digestJob ph 1] with
    ctable := [(0, setNth (entry 1 false) 52 0x60 |>.set 48 8)], grants := gs
    mem := memPut (memPut [] H [2, 0]) (H + 0x3000) (leBytes 8 (H + 0x5000)) }

theorem witness_ReplicaDigests : (∀ l, let s := digests l (.ready 0) []
      let c := s.collOp 0
      s.dispatchable 5 [0x51] = some (digestJob (.ready 0) 1) ∧ digestEntry (digestJob (.ready 0) 1) = 0 ∧
      s.markedIn ([digestList (digestJob (.ready 0) 1), (c.group, 2 * c.p), (c.src, c.n * c.size), (c.res, c.n * c.size)] ++
        (s.digestRecords (digestJob (.ready 0) 1)).map fun a => (a, 4096)) = [] ∧ Grantable s mDigest [] ∧ s.collRefused 0 = !l) ∧
    ¬Grantable (digests true (.ready 0) [⟨mDigest, [], 0⟩]) mDigest [] ∧
    (let s := digests true (.ready 0) []
     let t := digestJob (.ready 0) 1
     let c := s.collOp 0
     AllInstalled ([digestList t, (c.group, 2 * c.p), (c.src, c.n * c.size), (c.res, c.n * c.size)] ++ (s.digestRecords t).map fun a => (a, 4096)) ∧
      s.firstBad (blocksOf (digestList t).1 (digestList t).2 ++ blocksOf c.group (2 * c.p)) = none ∧
      s.firstBad (blocksOfAll ((s.digestRecords t).map fun a => (a, 4096))) = none ∧ s.myRank c = some 0 ∧
      s.firstBad (partBlocks (c.srcRange 0).1 32) = none ∧ (s.inst 0).step < t.step ∧
      (s.collPast.find? fun p => p.entry == 0 && p.step == t.step && p.status.isSome) = none) ∧
    (let d : DigestRun := ⟨5, 0, 1, 0, [], some stDone⟩
     let s := { digests true .running [] with digests := [d] }
     (s.digests.find? fun d => d.task == 5) = some d ∧ s.task? 5 = some (digestJob .running 1) ∧
      s.markedIn [((s.collOp d.entry).res, 32 * (s.collOp d.entry).p)] = []) := by
  unfold Grantable AllInstalled; decide +kernel

/-- Verdicts of Table 15-6: all agree; in the majority; in the minority; no majority. -/
theorem test_verdict : verdict [[1], [1]] [1] = 0 ∧ verdict [[1], [1], [2]] [1] = 1 ∧ verdict [[1], [1], [2]] [2] = 2 ∧ verdict [[1], [2]] [1] = 3 := by
  decide +kernel

/-! Checkpoints. -/

/-- A manifest at `H + 0x100000` of the layer of `updMem`, `layers` of it counted, with one target at 0x1000000, or in a store. -/
def manifest (layers store : Nat) : List (Nat × Nat × Nat) :=
  [(H + 0x100000, 2, layers), (H + 0x100002, 1, 1), (H + 0x100003, 1, store), (H + 0x100040, 8, 0x1000000), (H + 0x100048, 2, 5),
    (H + 0x100200, 8, H + 0x1000), (H + 0x100208, 8, H + 0xA000), (H + 0x100210, 8, H + 0x8000), (H + 0x100218, 8, H + 0x9000),
    (H + 0x10022C, 4, 1), (H + 0x100230, 4, 1)]

/-- A SNAPSHOT (0x70) of a kind, or a RESTORE (0x71), of step 1. -/
def ckptJob (type kind : Nat) (ph : Phase) : Task :=
  { job 5 (noWaits ++ [(0, 1, type), (32, 8, H + 0x100000), (48, 1, kind), (49, 1, 1)]) ph with step := 1 }

/-- The machine with it. -/
def ckpt (t : Task) (layers store : Nat) (gs : List Grant) : State :=
  let s := withTasks ((mach (updMem 0 0 ++ manifest layers store)).wf64 (pgGradDie 0) R.GRAD_DIE.KEY_TABLE_LO_ADDR R.GRAD_DIE.KEY_TABLE_HI_ADDR (H + 0xC000)) [t]
  { s with grants := gs }

/-- Its manifest. -/
def mf (layers store : Nat) : List Byte := (ckpt (ckptJob 0x70 0 .running) layers store []).bytes (H + 0x100000) (mfLen layers)

/-- The manifest of a checkpoint task passes what dispatch asks of it. -/
def manifestOk (s : State) (t : Task) (layers : Nat) : Bool :=
  decide (t.manifestAt = H + 0x100000) && decide (s.num t.manifestAt 2 = layers) && decide (faultIn t.manifestAt (mfLen layers) = none) &&
    decide (s.firstBad (blocksOf t.manifestAt (mfLen layers)) = none) &&
    decide (s.markedIn ([(t.manifestAt, mfLen layers)] ++ (mfEntries (s.bytes t.manifestAt (mfLen layers))).map fun x => (x.state, 4096)) = [])

theorem ManifestGood.of {s : State} {t : Task} {layers : Nat} (h : manifestOk s t layers = true) :
    ManifestGood s t (s.bytes t.manifestAt (mfLen (s.num t.manifestAt 2))) := by
  simp only [manifestOk, Bool.and_eq_true, decide_eq_true_eq] at h
  obtain ⟨⟨⟨⟨_, n⟩, f⟩, b⟩, k⟩ := h
  exact ⟨rfl, by rw [n]; exact f, by rw [n]; exact b, by rw [n]; exact k⟩

theorem witness_SnapshotDispatch : (∀ kind ∈ [0, 1, 2, 3], ∀ layers ∈ [0, 1], ∀ gs ∈ [[], [(⟨mCkpt, [], 0⟩ : Grant)]],
      let t := ckptJob 0x70 kind (.ready 0)
      let s := ckpt t layers 0 gs
      let m := s.bytes t.manifestAt (mfLen layers)
      let es := snapEntries t m
      let flags := es.map (s.ledgerData t.step)
      let src := s.snapSources t kind es flags
      s.dispatchable 5 [0x70] = some t ∧ manifestOk s t layers = true ∧ t.fld 48 1 % 4 = kind ∧ (mfCheck m 0 [] = 1 ↔ layers = 0) ∧ AllInstalled src ∧
      (layers = 1 → mfCheck m (if kind = 0 then bodyLen es flags else exportBlocks es kind) src ≠ 2 ∧ s.snapCheck t kind es = none) ∧
      (Grantable s mCkpt [] ↔ gs = []) ∧ s.snap? 5 = none) := by unfold AllInstalled Grantable; decide +kernel

/-- The machine with the target of the manifest in the host window, or with the layer's state header of another layer. -/
def ckptBad (t : Task) (header : Bool) : State :=
  let s := ckpt t 1 0 []
  { s with mem := if header then memPut s.mem (H + 0x1000) [9] else memPut s.mem (H + 0x100040) (leBytes 8 H) }

theorem witness_SnapshotRefusals : (let t := ckptJob 0x70 0 (.ready 0)
     let s := ckptBad t false
     let m := s.bytes t.manifestAt (mfLen 1)
     let es := snapEntries t m
     let flags := es.map (s.ledgerData t.step)
     s.dispatchable 5 [0x70] = some t ∧ manifestOk s t 1 = true ∧ mfCheck m 0 [] ≠ 1 ∧ mfCheck m (bodyLen es flags) (s.snapSources t 0 es flags) = 2) ∧
    (let t := ckptJob 0x70 0 (.ready 0)
     let s := ckptBad t true
     let m := s.bytes t.manifestAt (mfLen 1)
     let es := snapEntries t m
     let flags := es.map (s.ledgerData t.step)
     s.dispatchable 5 [0x70] = some t ∧ manifestOk s t 1 = true ∧ mfCheck m 0 [] ≠ 1 ∧ mfCheck m (bodyLen es flags) (s.snapSources t 0 es flags) ≠ 2 ∧
      s.snapCheck t 0 es = some (3, 0) ∧ (∀ e ∈ es, faultIn e.state 4096 = none)) ∧
    (let t := ckptJob 0x71 0 (.ready 0)
     let s := ckptBad t false
     let m := s.bytes t.manifestAt (mfLen 1)
     let src := [(t.manifestAt, mfLen (mfEntries m).length), (s.keyTable 0, 4096)] ++ (mfEntries m).flatMap (fun e => e.stateRanges false)
     s.dispatchable 5 [0x71] = some t ∧ manifestOk s t 1 = true ∧ s.snap? 5 = none ∧
      s.markedIn (s.restoreRanges m (bodyLen (mfEntries m) ((mfEntries m).map fun _ => true))) = [] ∧ mfCheck m 0 [] ≠ 1 ∧
      mfCheck m (bodyLen (mfEntries m) []) src = 2) := by decide +kernel

/-- A SNAPSHOT or RESTORE of a kind in progress. -/
def snapOf (restore : Bool) (kind stage layer issued : Nat) (body : List (List Byte)) : Snap :=
  ⟨5, restore, kind, 1, 0, mf 1 0, [], stage, [H + 0x1000], [false], layer, body, [], issued, [], [], 0⟩

/-- The machine with it. -/
def snapping (x : Snap) : State := { ckpt (ckptJob 0x70 x.kind .running) 1 0 [] with snaps := [x] }

theorem witness_SnapshotSteps : (∀ x ∈ [(0, 0, 0), (1, 0, 0), (0, 1, 0), (0, 1, 1), (1, 1, 0), (3, 1, 0)],
      let y := snapOf false x.1 x.2.1 x.2.2 x.2.2 (if x.2.2 = 1 then [[0]] else [])
      let s := snapping y
      s.snap? 5 = some y ∧ s.task? 5 = some (ckptJob 0x70 x.1 .running) ∧ s.markedIn (s.snapRanges (ckptJob 0x70 x.1 .running) y) = [] ∧
      1 ≤ mfTargets y.manifest ∧ mfLayers y.manifest = 1 ∧ s.updRunning y = false) ∧
    (let x := snapOf false 0 0 0 0 []
     let s := snapping x
     (∀ e ∈ mfEntries x.manifest, e.state % 4096 = 0) ∧ s.firstBad ((mfEntries x.manifest).map fun e => e.state / 4096) = none ∧
      s.firstBad [s.keyTable 0 / 4096] = none ∧ s.keyTable 0 % 4096 = 0 ∧
      (∀ r ∈ estRanges s, r.1 + r.2 ≤ s.keyTable 0 ∨ s.keyTable 0 + 4096 ≤ r.1) ∧
      s.firstBad (blocksOfAll ((mfEntry x.manifest 0).stateRanges (nth x.flags 0 false))) = none ∧ mfStore x.manifest = false ∧
      rangeOk (s.keyTable 0) 4096 = true ∧ AllInstalled ((mfEntry x.manifest 0).stateRanges (nth x.flags 0 false)) ∧
      (mfEntry x.manifest 0).state % 4096 = 0 ∧
      (∀ kind ∈ [1, 2, 3], ∀ e ∈ x.entries (ckptJob 0x70 kind .running), AllInstalled (e.exportRanges kind) ∧ s.firstBad (e.exportReads kind) = none)) ∧
    (let x := snapOf false 0 0 0 0 []
     let u := { ckptJob 0x50 0 .running with seq := 6, desc := desc [(0, 1, 0x50), (40, 8, H + 0x1000)] }
     { snapping x with tasks := (snapping x).tasks ++ [u] }.updRunning x = true) := by
  unfold AllInstalled; decide +kernel

theorem witness_RestoreDispatch : ∀ layers ∈ [0, 1], ∀ store ∈ [0, 1],
    let t := ckptJob 0x71 0 (.ready 0)
    let s := ckpt t layers store []
    let m := s.bytes t.manifestAt (mfLen layers)
    let src := [(t.manifestAt, mfLen (mfEntries m).length), (s.keyTable 0, 4096)] ++ (mfEntries m).flatMap (fun e => e.stateRanges false)
    s.dispatchable 5 [0x71] = some t ∧ manifestOk s t layers = true ∧ s.snap? 5 = none ∧
    s.markedIn (s.restoreRanges m (bodyLen (mfEntries m) ((mfEntries m).map fun _ => true))) = [] ∧ (mfCheck m 0 [] = 1 ↔ layers = 0) ∧
    AllInstalled src ∧ mfCheck m (bodyLen (mfEntries m) []) src ≠ 2 ∧ mfStore m = decide (store = 1) := by unfold AllInstalled; decide +kernel

theorem witness_RestoreHeader : mfDevice (mf 1 0) 0 = 0x1000000 ∧ faultIn 0x1000000 4096 = none ∧
    (sealAll (ckpt (ckptJob 0x71 0 (.ready 0)) 1 0 []) [0x1000]).blockOk 0x1000 = true ∧
    Snap.headerFits (snapOf true 0 0 0 0 []) [] = false :=
  ⟨by decide +kernel, by decide +kernel, sealAll_ok _ _ _ (by decide), by decide +kernel⟩

/-! Monitor, firmware, record. -/

/-- A converter whose sequence has two entries, running or idle, with urgent requests. -/
def conv (running preempt : Bool) (urgent : List (Nat × Nat)) (urgentOn : Bool) (entry : Nat := 0) : Mon :=
  ⟨[(4, 0), (5, 1)], entry, running, preempt, false, false, urgent, urgentOn, 2000, 0, [3, 3], false⟩

/-- The module with its first converter so. -/
def conving (m : Mon) : State := { live with mons := [(0, m)] }

/-- Four urgent requests. -/
def four : List (Nat × Nat) := [(4, 0), (5, 0), (6, 0), (7, 0)]

theorem witness_MonitorCommands :
    (∀ m ∈ [conv false false [] false, conv true false [] false, conv true true [(4, 0)] true, ⟨[], 0, true, false, false, true, four, false, 2000, 0, [], false⟩],
      Writes (conving m) .bar0 (pgMonitor 0) true ∧ (conving m).mon 0 = m) ∧
    4 ≤ four.length - b2n false ∧ (conv true true [(4, 0)] true).urgent.length - b2n true < 4 ∧
    (∀ run : Bool, let s := conving (conv run false [(4, 0)] false)
      (s.mon 0).urgent ≠ [] ∧ (s.mon 0).urgentOn = false ∧ (s.pair 0).running = false ∧ (s.pair 0).due = false) := by
  unfold Writes; decide +kernel

theorem witness_MonitorConversions : ((conving (conv true true [(4, 0)] true)).pair 0).running = false ∧
    ((conving (conv true true [(4, 0)] true)).mon 0).urgent.head? = some (4, 0) ∧ ((conving (conv true true [(4, 0)] true)).pair 0).due = false ∧
    (∀ n ∈ [0, 1], let s := conving (conv true false [] false n)
      (s.pair 0).running = false ∧ (s.mon 0).entries[(s.mon 0).entry]? = some (4 + n, n) ∧
      (n = 0 → (s.mon 0).entry + 1 < (s.mon 0).entries.length) ∧ (n = 1 → (s.mon 0).entry + 1 = (s.mon 0).entries.length)) ∧
    (let s := conving { conv true false [] false 1 with sweep := true }
     (s.mon 0).urgentOn = false ∧ (s.mon 0).running = true ∧ (s.mon 0).entry + 1 = (s.mon 0).entries.length ∧ (s.mon 0).sweep = true ∧
      (s.mon (0 / 2 * 2 + 1 - 0 % 2)).swept = false) ∧
    (let s := conving (conv false false [] false)
     (s.mon 0).urgentOn = false ∧ (s.mon 0).running = false) := by decide +kernel

/-- Pair 0 with both pages enabled, and a state of its check. -/
def pairing (v : Pair) (m : Mon) : State :=
  { ((conving m).setHdrBit (pgMonitor 0) oPAGE_CTL 0 true).setHdrBit (pgMonitor 1) oPAGE_CTL 0 true with pairs := [(0, v)] }

/-- Array die 0 with a trusted temperature, its records loaded, its pair checked. -/
def referring : State :=
  { ((pairing ⟨false, false, true, false, false, 0, none⟩ (conv false false [] false)).wf (pgMonitor 0) R.MONITOR.RESULT_VALID 1 0).wf (pgMonitor 0)
      R.MONITOR.RESULT_VALUE 35 0 with dieCals := [(0, ⟨true, false, false, 0⟩)] }

theorem witness_PairChecksAndReferral :
    (∀ on : Bool, let s := pairing Pair.idle (conv true on [(4, 0)] on)
      s.now % s.rf (pgMonitor 0) R.MONITOR.PAIR_PERIOD = 0 ∧ (s.pair 0).due = false ∧ (s.pair 0).running = false ∧ (s.pair 0).spoiled = false ∧
      s.canCheck 0 = true ∧ s.canCheck 1 = true ∧ (s.mon 0).urgentOn = on ∧ (s.mon 1).urgentOn = false ∧ (s.mon 0).running = true) ∧
    (let p := pairing Pair.idle (conv true false [] false)
     1 % p.rf (pgMonitor 0) R.MONITOR.PAIR_PERIOD ≠ 0 ∧ ({ p with tempo := { p.tempo with count := 1 } } : State).now = 1) ∧
    (let s := pairing { Pair.idle with running := true } (conv true true [] false)
     (s.pair 0).running = true ∧ s.rf (pgMonitor 0) R.MONITOR.PAIR_CTL_WIN < 4095) ∧
    ((pairing { Pair.idle with retryAt := some 0 } (conv false false [] false)).pair 0).retryAt = some 0 ∧
    (let s := pairing { Pair.idle with retryAt := some 5 } (conv false false [] false)
     (s.pair 0).retryAt = some 5 ∧ s.now < 5 ∧ (s.pair 1).retryAt = none ∧ (s.pair 0).running = false) ∧
    (let s := (pairing Pair.idle (conv true false [] false)).setHdrBit (pgMonitor 1) oPAGE_CTL 0 false
     s.now % s.rf (pgMonitor 0) R.MONITOR.PAIR_PERIOD = 0 ∧ (s.pair 0).due = false ∧ (s.pair 0).running = false ∧ s.canCheck 1 = false) ∧
    live.dieTemp 0 = none ∧
    (referring.dieTemp 0 = some 35 ∧ (referring.dieCal 0).loaded = true ∧ (referring.dieCal 0).refused = false ∧
      (referring.dieCal 0).ready = false ∧ (referring.pair (0 / 4)).passed = true) := by decide +kernel

/-! One command and what the manual says of it. -/

theorem test_urgentQueues : gives (.urgent .bar0 0 9 2) (conving (conv true false [] false)) (fun t => (t.mon 0).urgent == [(9, 2)]) = true := by
  decide +kernel
/-- R430: the mean of the samples 3 and 4 rounds half up; a sum past full scale clamps. -/
theorem test_mean : resultCode 7 1 = 4 ∧ resultCode 4095 0 = 4095 ∧ resultCode 9000 1 = 4095 := by decide +kernel
theorem test_pairTrusted : ((pairing Pair.idle (conv false false [] false)).checkPasses 0 100 104).trusted 1 = true ∧
    ((pairing Pair.idle (conv false false [] false)).checkFails 0 [100, 200]).rf (pgMonitor 1) R.MONITOR.MISMATCHES = 1 := by decide +kernel

/-- Boot control and slots as the factory leaves them. -/
theorem live_boot (s : State) (h : s.fw.slots = live.fw.slots) (b : s.fw.boot = live.fw.boot) : BootGood s :=
  ⟨by rw [h]; decide +kernel, _, _, by rw [b]; rfl, by decide⟩

/-- An image header of 16 bytes of body, all fields good but for its signer and signature, which no constant of the model makes good. -/
def header : List Byte :=
  (desc [(0, 4, 0x57464B4E), (4, 2, 1), (6, 2, 0x2100), (8, 4, 0x10203), (12, 2, 1), (14, 2, 1), (16, 4, 16), (20, 2, 3)]) ++ sm3 [] ++ List.replicate 128 0

/-- Staging from host memory, of `len` bytes. -/
def fwStage (len : Nat) (gs : List Grant) (hd : List Byte) : State :=
  { (live.wf pgFirmware R.FIRMWARE.STAGE_ADDR_HI_ADDR (H / 2 ^ 32)).wf pgFirmware R.FIRMWARE.STAGE_LEN len with
    grants := gs, mem := memPut [] H hd }

/-- Staging from Tier A, one line of a block uncorrectable. -/
def stageBad (k : Nat) : State :=
  let s := (fwStage 4112 [] header).wf pgFirmware R.FIRMWARE.STAGE_ADDR_HI_ADDR 0
  { s with host := { s.host with badLines := [64 * k] } }

/-- Boot control with a pending slot, and what `FW_SLOT` and the slots show. -/
def booting (pend : Option Nat) (trial : Bool) (staged shown : Bool) : State :=
  { ((live.wf pgFirmware R.FIRMWARE.SLOT_STATE_S1 (if staged then 2 else 0)).wf pgFirmware R.FIRMWARE.FW_SLOT_TRIAL (b2n shown)).wf
      pgFirmware R.FIRMWARE.TRIAL_LEFT 5 with
    fw := { live.fw with boot := [⟨1, 0, none, false⟩, ⟨2, 0, pend, trial⟩] } }

/-- A header passes when each of its checks does. -/
theorem refusal_none {s : State} {h : List Byte} (a : [1, 2, 3, 6, 7].all (s.fwCheck h) = true) (b : s.fwCheck h 4 = true)
    (c : s.fwCheck h 5 = true) : s.fwRefusal h = none := by
  simp only [List.all_cons, List.all_nil, Bool.and_true, Bool.and_eq_true] at a
  simp [State.fwRefusal, List.find?, a, b, c]

theorem witness_FirmwareStaging :
    (∀ gs ∈ [[], [(⟨mStage, [], 0⟩ : Grant)]], Writes (fwStage 4112 gs []) .bar0 pgFirmware false ∧
      (fwStage 4112 gs []).markedIn [(fwStage 4112 gs []).stageRange] = [] ∧
      ((fwStage 4112 gs []).onTrial || (fwStage 4112 gs []).fw.staging.isSome || (fwStage 4112 gs []).bootCtl.pending.isSome) = false ∧
      (Grantable (fwStage 4112 gs []) mStage [] ↔ gs = [])) ∧
    (let s := fwStage 4112 [] []
     s.stageRange.1 = H ∧ s.badStage H 4096 = none ∧ s.fwRefusal (s.bytes H 224) = some 1) ∧
    (let s := (fwStage 4112 [] []).wf pgFirmware R.FIRMWARE.STAGE_ADDR_HI_ADDR 0x300
     s.stageRange.1 = 0x30000000000 ∧ s.markedIn [s.stageRange] = [] ∧ rangeOk s.stageRange.1 4096 = false) ∧
    (let s := stageBad 0
     s.stageRange.1 = 0 ∧ s.markedIn [s.stageRange] = [] ∧ rangeOk s.stageRange.1 4096 = true ∧ s.blockOk (s.stageRange.1 / 4096) = false) ∧
    (let s := stageBad 1
     fhBodyLen header = 16 ∧ rangeOk (0 + 4096) 4096 = true ∧ s.badStage (0 + 4096) 16 = some 0) ∧
    (let s := fwStage 4112 [] header
     s.badStage H 4096 = none ∧ s.badStage (H + 4096) 16 = none) ∧
    (booting (some 1) false true false).bootCtl.pending.isSome = true ∧
    (let s := { fwStage 4112 [] [] with fw := { live.fw with staging := some header } }
     Writes s .bar0 pgFirmware false ∧ s.markedIn [s.stageRange] = [] ∧ s.fw.staging = some header ∧ s.fw.slots.length = 2 ∧ s.fw.stageTo ≤ 1 ∧
     sm3 (s.fwSlot s.fw.stageTo).body = fhDigest header ∧ sm3 (s.fwSlot s.fw.stageTo).body ≠ fhDigest []) ∧
    (let s := fwStage 4112 [] header
     s.bytes s.stageRange.1 224 = header ∧ [1, 2, 3, 6, 7].all (s.fwCheck header) = true ∧ s.bootCtl.active ≤ 1) := by
  unfold Writes Grantable; decide +kernel

theorem witness_FirmwareStaging_good (a : (fwStage 4112 [] header).fwCheck header 4 = true) (b : (fwStage 4112 [] header).fwCheck header 5 = true) :
    (fwStage 4112 [] header).fwRefusal header = none ∧ BootGood (fwStage 4112 [] header) :=
  ⟨refusal_none (by decide +kernel) a b, live_boot _ (by decide +kernel) (by decide +kernel)⟩

/-- A report being formed. -/
def reporting (forming : Bool) : State := { live with sec := { live.sec with forming := forming } }

theorem booting_good (p : Option Nat) (t a b : Bool) : BootGood (booting p t a b) :=
  ⟨by change live.fw.slots.length = 2; decide +kernel, _, _, rfl, Nat.succ_ne_self 1 ∘ Eq.symm⟩

theorem witness_FirmwareTrialAndReports :
    (∀ s ∈ [booting none false true false, booting none false false false, booting (some 1) false true false, booting (some 1) true false true],
      Writes s .bar0 pgFirmware false) ∧
    (booting none false true false).stagedSlot = some 1 ∧ (booting none false false false).stagedSlot = none ∧
    (booting (some 1) false true false).bootCtl.pending = some 1 ∧ (booting (some 1) false true false).bootCtl.trial = false ∧
    (booting (some 1) true false true).bootCtl.trial = true ∧ (booting none false true false).onTrial = false ∧
    (booting (some 1) true false true).onTrial = true ∧ Grantable (booting (some 1) true false true) mStage [] ∧
    (booting (some 1) true false true).rf pgFirmware R.FIRMWARE.TRIAL_LEFT ≠ 0 ∧ live.rf pgFirmware R.FIRMWARE.TRIAL_LEFT = 0 ∧
    ¬Grantable { booting (some 1) true false true with grants := [⟨mStage, [], 0⟩] } mStage [] ∧
    (∀ f : Bool, Writes (reporting f) .bar0 pgSecurity false ∧ (reporting f).sec.forming = f ∧ (reporting f).attAddr = 0) ∧
    (let s := (reporting true).wf pgSecurity R.SECURITY.ATT_ADDR_HI_ADDR (H / 2 ^ 32)
     s.attAddr = H ∧ s.markedIn [(s.attAddr, 264)] = [] ∧ s.reportBody.length = 200 ∧ faultIn s.attAddr 264 = none ∧
      s.firstBad (partBlocks s.attAddr 264) = none) ∧
    (let s := (reporting true).wf pgSecurity R.SECURITY.ATT_ADDR_HI_ADDR 0x300
     s.markedIn [(s.attAddr, 264)] = [] ∧ faultIn s.attAddr 264 ≠ none) := by unfold Writes Grantable; decide +kernel

/-- An entry, and a record of blocks and a queue. -/
def ent (n : Nat) : Entry := ⟨n, 0, 0x0E10, 0, 1, 1, []⟩

/-- The module with a record. -/
def recording (bs : List (List Entry)) (q : List Entry) (compact : Bool) (free : Nat) (dump : Option (Nat × Nat × Nat)) (gs : List Grant) : State :=
  { live.wf pgRecord R.RECORD.REC_FREE_BLOCKS free with record := ⟨bs, q, 9, compact, dump⟩, grants := gs }

theorem witness_EventRecordCommands :
    (∀ k ∈ [1, 1024], (recording [List.replicate k (ent 1)] [ent 2] false (k / 1024) none []).record.blocks = [] ++ [List.replicate k (ent 1)] ∧
      (List.replicate k (ent 1) = List.replicate 1 (ent 1) → (List.replicate k (ent 1)).length < 1024)) ∧
    (∀ f ∈ [0, 1023], (recording [List.replicate 1024 (ent 1)] [ent 2] false f none []).rf pgRecord R.RECORD.REC_FREE_BLOCKS = f) ∧
    (recording [[]] [] false 1 none []).record.queue = [] ∧
    (∀ gs ∈ [[], [(⟨mCompact, [], 0⟩ : Grant)]], let s := recording [[ent 1], [ent 2]] [] true 16 none gs
      s.record.compact = true ∧ s.record.blocks ≠ [] ∧ s.record.queue.length < 1023 ∧ (Grantable s mCompact [] ↔ gs = [])) ∧
    (∀ d ∈ [none, some (H, 1, 1), some (2 ^ 62, 1, 1)], let s := recording [[ent 1]] [] false 1 d []
      Writes s .bar0 pgRecord false ∧ (s.dumpBytes 1 1).length = 64 ∧ s.entry? 1 = some (ent 1) ∧ s.entry? 2 = none ∧
      (∀ x, d = some x → s.markedIn [(x.1, 64)] = [] ∧ (rangeOk x.1 64 = decide (x.1 = H)) ∧ (x.1 = H → s.firstBad (partBlocks x.1 64) = none))) ∧
    (let s := { recording [[ent 1]] [] false 1 (some (0x1000, 1, 1)) [] with host := { live.host with badLines := [64] } }
     s.markedIn [(0x1000, 64)] = [] ∧ faultIn 0x1000 64 = none ∧ s.firstBad (partBlocks 0x1000 64) ≠ none) := by
  unfold Writes Grantable; decide +kernel

/-- R456: an entry's bytes as `REC_DATA` shows them: `CODE` in bytes 20 and 21 of the entry. -/
theorem test_recSel : gives (.recSelWrite .bar0 1) (recording [[ent 1]] [] false 1 none [])
    (fun t => t.rf pgRecord R.RECORD.REC_SEL_STATUS_FOUND == 1 && t.rf pgRecord R.RECORD.REC_DATA 0 != 0) = true := by decide +kernel
theorem test_commit : gives .eventCommit (recording [[ent 1]] [ent 2] false 1 none []) (fun t => t.record.queue == [] && t.entries == [ent 1, ent 2]) = true := by
  decide +kernel
theorem test_confirmOutsideTrial : gives (.confirm .bar0) (booting none false true false)
    (fun t => t.rf pgFirmware R.FIRMWARE.FW_STATUS_LAST == stAborted && t.rf pgFirmware R.FIRMWARE.FW_STATUS_REASON == 8) = true := by decide +kernel

/-! Power and pins. -/

/-- The module in a power state. -/
def powered (p : Power) : State := { live with power := p }

/-- The module after the boot ROM: `DEV_STATE` 0x1, its slots good or not. -/
def booted (good : Bool) : State :=
  { (powered ⟨true, false, false, false, 0, false, 3⟩).wf pgDevice R.DEVICE.DEV_STATE_STATE 1 with
    fw := { live.fw with slots := live.fw.slots.map fun v => { v with good := good } } }

theorem witness_ResetsAndStart :
    (powered ⟨false, false, false, false, 0, false, 0⟩).power.supply = false ∧ live.power.supply = true ∧ live.power.held = false ∧
    (∀ p ∈ [(true, false), (false, true), (false, false)], let s := powered ⟨true, false, p.2, false, 0, p.1, 0⟩
      s.granted .bar0 pgPower = true ∧ s.manager = true ∧ NoWait s ∧ s.window = none ∧ s.power.stopped = p.1 ∧ s.power.stopping = p.2) ∧
    (powered ⟨true, true, false, false, 0, false, 0⟩).power.held = true ∧
    (∀ g : Bool, (booted g).rf pgDevice R.DEVICE.DEV_STATE_STATE = 1 ∧ (booted g).power.held = false ∧
      (booted g).chooseBoot.2 = (if g then some ⟨0, false, []⟩ else none)) := by unfold NoWait; decide +kernel

theorem witness_StopEnginesClocks : Writes live .bar0 pgPower false ∧ live.manager = true ∧ live.power.stopping = false ∧ NoWait live ∧
    live.window = none ∧ live.granted .bar0 pgPower = true ∧ live.snaps = [] ∧ live.alive = true ∧
    (∀ f : Bool, let s := powered ⟨true, false, true, f, 0, false, 0⟩
      s.power.stopping = true ∧ s.tasks.any Task.isHanded = false ∧ s.snaps = [] ∧ s.power.forReset = f ∧
      (withTasks s [readJob 0x11 1]).tasks.any Task.isHanded = false ∧ (withTasks s [job 5 [] .running]).tasks.any Task.isHanded = true ∧
      (withTasks s [job 5 [] .running]).now < s.power.stopAt + 1000000) ∧
    (let s := powered ⟨true, false, true, false, 0, false, 0⟩
     s.power.stopAt + 1000000 ≤ ({ s with tempo := { s.tempo with count := 1000000 } } : State).now) ∧
    (powered ⟨false, false, false, false, 0, false, 0⟩).alive = false ∧
    bit ((mach []).reg offPll).toNat 3 = true ∧ (mach []).alive = true ∧ bit (live.reg offPll).toNat 3 = false ∧
    live.rf pgPower R.POWER.CAP_STATUS_LIMITING = b2n false := by unfold Writes NoWait; decide +kernel

theorem witness_SidebandAndTestPort : live.alive = true ∧ live.rf pgDevice R.DEVICE.DEV_STATE_STATE ≠ 0 ∧ live.smbAddr = 0x5B ∧
    live.smbWord 0 = some 0x2100 ∧ live.smbWord 0x40 = none ∧ live.tap.instr ≠ .extest ∧
    ({ live with tap := ⟨.extest, []⟩ } : State).tap.instr = .extest ∧ NoWait live ∧ live.window = none := by unfold NoWait; decide +kernel

/-- R482: the part number is at command 0x00, at address 0x58 and the straps. -/
theorem test_smbus : gives (.smbusReadWord 0x5B 0x00 false) live (fun t => t.reply == .bytes [0x00, 0x21]) = true ∧
    gives (.smbusReadWord 0x59 0x00 false) live (fun t => t.reply == .notAcknowledged) = true := by decide +kernel
theorem test_idcode : gives .idcode live (fun t => t.reply == .word 0x21000A3F) = true := by decide +kernel
theorem test_powerOnReset : gives (.powerOnResetRelease 2) (powered ⟨true, true, false, false, 0, false, 0⟩)
    (fun t => t.rf pgDevice R.DEVICE.DEV_STATE_STATE == 1 && t.smbAddr == 0x5A) = true := by decide +kernel

theorem witness_EveryCommandAnswers : Clocked (mach []) ∧ (∀ sec code, Instr.tempoTick ≠ .spdmRequest ⟨sec, .other code⟩) ∧
    (∃ b, exec (.dramReadComplete 0 .good) live = .fault (.dieUnclocked b)) := by
  refine ⟨⟨by decide +kernel, ?_, ?_, ?_⟩, fun _ _ => by simp, _, rfl⟩ <;> intro t h <;> cases h

/-- R23: a message that the manual does not name has no answer. -/
theorem test_spdmOther : (match exec (.spdmRequest ⟨false, .other 0x7F⟩) live with | .refused (.spdmOutsideManual c) => c == 0x7F | _ => false) = true := by
  decide +kernel

end Sys2Proof.Tests
end

section
/-! PROOFS. Commands of a page's common header and of its counters. -/

namespace Sys2Proof.Machine

open Sys2Proof.Claims

/-! States that differ in their registers alone. -/

/-- Two states differ in their registers alone. -/
def RegsOnly (s t : State) : Prop := ∃ r, t = { s with regs := r }

theorem RegsOnly.refl (s : State) : RegsOnly s s := ⟨s.regs, rfl⟩

theorem RegsOnly.trans {s t u : State} (h : RegsOnly s t) (g : RegsOnly t u) : RegsOnly s u := by
  obtain ⟨r, rfl⟩ := h
  obtain ⟨r', rfl⟩ := g
  exact ⟨r', rfl⟩

theorem State.setReg_regsOnly (s : State) (off : Nat) (w : Word) : RegsOnly s (s.setReg off w) := s.setReg_frame off w

theorem State.wf_regsOnly (s : State) (page : Nat) (f : Fld) (v i : Nat) : RegsOnly s (s.wf page f v i) := s.wf_frame page f v i

theorem State.inc_regsOnly (s : State) (page : Nat) (f : Fld) (i : Nat) : RegsOnly s (s.inc page f i) := s.inc_frame page f i

theorem State.setHdrBit_regsOnly (s : State) (page o b : Nat) (v : Bool) : RegsOnly s (s.setHdrBit page o b v) := ⟨_, rfl⟩

theorem RegsOnly.sameBytes {s t : State} (h : RegsOnly s t) : SameBytes s t := by
  obtain ⟨r, rfl⟩ := h
  exact fun _ => rfl

theorem RegsOnly.sameSeals {s t : State} (h : RegsOnly s t) : SameSeals s t := by
  obtain ⟨r, rfl⟩ := h
  exact fun _ => rfl

theorem RegsOnly.tasks {s t : State} (h : RegsOnly s t) : t.tasks = s.tasks := by
  obtain ⟨r, rfl⟩ := h
  rfl

theorem RegsOnly.still {s t : State} (h : RegsOnly s t) (hs : Still s) : Still t := by
  obtain ⟨r, rfl⟩ := h
  exact hs

theorem State.reg_of_regs {s t : State} (h : t.regs = s.regs) (o : Nat) : t.reg o = s.reg o := congrArg (fun l => (aget? l o).getD (resetWord o)) h

/-! Words cleared (`COUNT_CLEAR`). -/

/-- Every word of some ranges of a page becomes 0, and no other register changes. -/
structure ClearsWords (s t : State) (page : Nat) (rs : List (Nat × Nat)) : Prop where
  frame : RegsOnly s t
  zero  : ∀ o, cleared page rs o → t.reg o = 0
  other : SameRegs s t (cleared page rs)

theorem ClearsWords.refl (s : State) (page : Nat) : ClearsWords s s page [] :=
  ⟨.refl s, fun _ ⟨_, hr, _⟩ => absurd hr List.not_mem_nil, fun _ _ => rfl⟩

/-- Ranges cleared one after another. -/
theorem ClearsWords.append {s t u : State} {page : Nat} {rs rs' : List (Nat × Nat)} (h : ClearsWords s t page rs)
    (g : ClearsWords t u page rs') : ClearsWords s u page (rs ++ rs') where
  frame := h.frame.trans g.frame
  zero o := by
    rintro ⟨r, hr, hin⟩
    by_cases hg : cleared page rs' o
    · exact g.zero o hg
    · rw [g.other o hg]
      exact h.zero o ⟨r, (List.mem_append.mp hr).resolve_right fun hr' => hg ⟨r, hr', hin⟩, hin⟩
  other o ho := by
    have h1 : ¬cleared page rs o := fun ⟨r, hr, hin⟩ => ho ⟨r, List.mem_append_left _ hr, hin⟩
    have h2 : ¬cleared page rs' o := fun ⟨r, hr, hin⟩ => ho ⟨r, List.mem_append_right _ hr, hin⟩
    rw [g.other o h2, h.other o h1]

theorem cleared_single (page lo hi o : Nat) (h : lo % 4 = 0) :
    cleared page [(lo, hi)] o ↔ page + lo ≤ o ∧ o ≤ page + hi ∧ (o - (page + lo)) % 4 = 0 := by
  constructor
  · rintro ⟨r, hr, hlo, hhi, h4⟩
    obtain rfl := List.mem_singleton.mp hr
    exact ⟨hlo, hhi, by simp only at hlo; omega⟩
  · rintro ⟨hlo, hhi, h4⟩
    exact ⟨(lo, hi), List.mem_singleton.mpr rfl, hlo, hhi, by omega⟩

/-- The words of one range. -/
theorem State.clearWords_clears (s : State) (page lo hi : Nat) (h : lo ≤ hi) (h4 : lo % 4 = 0) (h4' : hi % 4 = 0) :
    ClearsWords s (s.clearWords page lo hi) page [(lo, hi)] where
  frame := s.clearWords_frame page lo hi
  zero o ho := by
    rw [State.reg_clearWords s page lo hi o h (by omega), if_pos ((cleared_single page lo hi o h4).mp ho)]
  other o ho := by
    rw [State.reg_clearWords s page lo hi o h (by omega), if_neg fun hc => ho ((cleared_single page lo hi o h4).mpr hc)]

/-- The counters of a class that are registers, as ranges of page offsets (R122, R193, R219, R247, R262, R300, R326, R329, R374 to R376,
R400, R401, R438). -/
def Cls.counters (c : Cls) : List (Nat × Nat) :=
  match c with
  | .panel => [(0x120, 0x14C)]
  | .gradCore | .vecCore => [(0x120, 0x140)]
  | .update => [(0x120, 0x12C), (0x138, 0x140)]
  | .numwatch => [(0x128, 0x138)]
  | .graphSched => [(0x108, 0x108), (0x120, 0x12C), (0x134, 0x134), (0x138, 0x138)]
  | .memDie => [(0x104, 0x104)]
  | .gather => [(0x104, 0x114)]
  | .seamPort => [(0x108, 0x12C)]
  | .collective => [(0x114, 0x128)]
  | .seamMgmt => [(0x138, 0x144)]
  | .maint => [(0x104, 0x104), (0x128, 0x138)]
  | .seal => [(0x130, 0x140)]
  | .monitor => [(0x120, 0x130)]
  | _ => []

theorem Cls.counters_aligned (c : Cls) : ∀ r ∈ c.counters, r.1 ≤ r.2 ∧ r.1 % 4 = 0 ∧ r.2 % 4 = 0 := by
  cases c <;> decide

/-- A whole register written 0 as a field is 0. -/
theorem setBits_whole_zero (w : Word) : setBits w 31 0 0 = 0 := by
  apply BitVec.eq_of_toNat_eq
  rw [setBits_toNat w 31 0 0 (by decide) (by decide)]
  have := w.isLt
  show _ = 0
  omega

/-- What `COUNT_CLEAR` clears are the counters of its class; a controller and the POWER page clear others (R327, R473). -/
theorem State.clearCounts_eq (s : State) (c : Cls) (page : Nat) (h : c.counters ≠ []) :
    s.clearCounts c page = c.counters.foldl (fun t r => t.clearWords page r.1 r.2) s := by
  have hdie : s.wf page R.MEM_DIE.ACCESS_FAULTS 0 = s.clearWords page 0x104 0x104 := by
    unfold State.wf
    rw [show R.MEM_DIE.ACCESS_FAULTS.hi = 31 from rfl, show R.MEM_DIE.ACCESS_FAULTS.lo = 0 from rfl, setBits_whole_zero]
    rfl
  cases c
  case memDie => exact hdie
  case stackCtl | tierbCtl | power => exact absurd rfl h
  all_goals simp only [State.clearCounts, Cls.counters, List.foldl_cons, List.foldl_nil]

theorem State.clearCounts_clears (s : State) (c : Cls) (page : Nat) (h : c.counters ≠ []) :
    ClearsWords s (s.clearCounts c page) page c.counters := by
  rw [State.clearCounts_eq s c page h]
  have hal := c.counters_aligned
  generalize c.counters = l at hal
  induction l generalizing s with
  | nil => exact .refl s page
  | cons r l ih =>
    obtain ⟨⟨hle, hlo, hhi⟩, hl⟩ := List.forall_mem_cons.mp hal
    exact (s.clearWords_clears page r.1 r.2 hle hlo hhi).append (ih _ hl)

/-! `COUNT_CLEAR` of a crossing point (R13). -/

/-- An offset within a page belongs to the page. -/
theorem pageBase_eq {page o : Nat} (h0 : page % 0x1000 = 0) (ho : o < 0x1000) : 0x1000 * ((page + o) / 0x1000) = page ∧ (page + o) % 0x1000 = o := by
  omega

theorem Cls.clearOff_lt {c : Cls} {o : Nat} (h : c.clearOff = some o) : o < 0x1000 := by
  cases c <;> simp only [Cls.clearOff, Option.some.injEq, reduceCtorEq] at h <;> subst h <;> decide

/-- A write of 1 to `COUNT_CLEAR` between tasks clears the counters. -/
theorem State.crossWrite_countClear (s : State) (view : View) {page o : Nat} {p : PageRef} (h0 : page % 0x1000 = 0) (hp : pageAt page = some p)
    (hc : p.cls.clearOff = some o) : s.crossWrite view (page + o) 1 = s.clearCounts p.cls page := by
  have ho := Cls.clearOff_lt hc
  obtain ⟨hb, hm⟩ := pageBase_eq h0 ho
  have hpa : pageAt (page + o) = some p := (pageAt_in h0 (Nat.le_add_right _ _) (by omega)).trans hp
  unfold State.crossWrite
  rw [hpa]
  simp only [hb, hm, hc, beq_self_eq_true, if_true]
  rfl

/-- What a `COUNT_CLEAR` command does at the page of a class. -/
def State.countClearAt (s : State) (view : View) (p : PageRef) (page : Nat) : State :=
  if p.cls.crossing then s.crossOrPost view (page + p.cls.clearOff.getD 0) 1
  else if p.cls = .numwatch then (s.clearCounts .numwatch page).clearTotals p.quad
  else s.clearCounts p.cls page

/-- The page of a `COUNT_CLEAR` command, what it clears, and what it does there. -/
theorem exec_countClear {c : Instr} {v : View} {page : Nat} {rs : List (Nat × Nat)} (h : countClear c = some (v, page, rs)) :
    ∃ p, pageAt page = some p ∧ page % 0x1000 = 0 ∧ rs = p.cls.counters ∧ p.cls.counters ≠ [] ∧
      p.cls.clearOff.isSome = true ∧ (∀ q, c = .numwatchCountClear v q → p.cls = .numwatch ∧ p.quad = q.val) ∧
      ∀ s, exec c s = .next (s.onWrite v page false fun s => s.countClearAt v p page) := by
  cases c <;> simp only [countClear, reduceCtorEq, Option.some.injEq, Prod.mk.injEq] at h
  all_goals obtain ⟨rfl, rfl, rfl⟩ := h
  case panelCountClear n k =>
    exact ⟨_, pageAt_panel n k, by unfold pgPanel pgArrayDie quadBase; omega, rfl, List.cons_ne_nil _ _, rfl, nofun, fun _ => rfl⟩
  case gradCoreCountClear q k =>
    exact ⟨_, pageAt_gradCore q k, by unfold pgGradCore pgGradDie quadBase; omega, rfl, List.cons_ne_nil _ _, rfl, nofun, fun _ => rfl⟩
  case vecCoreCountClear q k =>
    exact ⟨_, pageAt_vecCore q k, by unfold pgVecCore pgGradDie quadBase; omega, rfl, List.cons_ne_nil _ _, rfl, nofun, fun _ => rfl⟩
  case updateCountClear e =>
    exact ⟨_, pageAt_update e, by unfold pgUpdate pgGradDie quadBase; omega, rfl, List.cons_ne_nil _ _, rfl, nofun, fun _ => rfl⟩
  case numwatchCountClear q =>
    refine ⟨_, pageAt_watch q, by unfold pgWatch pgGradDie quadBase; omega, rfl, List.cons_ne_nil _ _, rfl, ?_, fun _ => rfl⟩
    rintro _ ⟨⟩
    exact ⟨rfl, rfl⟩
  case graphSchedCountClear => exact ⟨_, rfl, rfl, rfl, List.cons_ne_nil _ _, rfl, nofun, fun _ => rfl⟩
  case memDieCountClear n =>
    exact ⟨_, pageAt_memDie n, by unfold pgMemDie quadBase; omega, rfl, List.cons_ne_nil _ _, rfl, nofun, fun _ => rfl⟩
  case gatherCountClear n =>
    exact ⟨_, pageAt_gather n, by unfold pgGather pgMemDie quadBase; omega, rfl, List.cons_ne_nil _ _, rfl, nofun, fun _ => rfl⟩
  case seamPortCountClear n =>
    exact ⟨_, pageAt_port n, by unfold pgPort; omega, rfl, List.cons_ne_nil _ _, rfl, nofun, fun _ => rfl⟩
  case collectiveCountClear => exact ⟨_, rfl, rfl, rfl, List.cons_ne_nil _ _, rfl, nofun, fun _ => rfl⟩
  case seamMgmtCountClear => exact ⟨_, rfl, rfl, rfl, List.cons_ne_nil _ _, rfl, nofun, fun _ => rfl⟩
  case maintCountClear => exact ⟨_, rfl, rfl, rfl, List.cons_ne_nil _ _, rfl, nofun, fun _ => rfl⟩
  case sealCountClear n =>
    exact ⟨_, pageAt_seal n, by unfold pgSeal pgMemDie quadBase; omega, rfl, List.cons_ne_nil _ _, rfl, nofun, fun _ => rfl⟩
  case monitorCountClear m =>
    exact ⟨_, pageAt_monitor m, by unfold pgMonitor; omega, rfl, List.cons_ne_nil _ _, rfl, nofun, fun _ => rfl⟩

/-! The totals of a watch (R262). -/

theorem aget?_map {α : Type} (l : List (Nat × α)) (f : Nat → α → α) (k : Nat) :
    aget? (l.map fun p => (p.1, f p.1 p.2)) k = (aget? l k).map (f k) := by
  induction l with
  | nil => rfl
  | cons p t ih =>
    obtain ⟨j, v⟩ := p
    by_cases h : j = k
    · subst h; simp [aget?]
    · simp [aget?, h, ih]

/-- The entry of a layer without its totals. -/
def LayerWatch.clearTotals (w : LayerWatch) : LayerWatch := { w with totals := List.replicate 8 Counts.none, ratio := 0, ratioMx := 0, alarms := 0 }

/-- `COUNT_CLEAR` of a watch clears the totals of each of its layers, listed or fresh. -/
theorem State.layer_clearTotals (s : State) {q l : Nat} (h : l % 4 = q) : (s.clearTotals q).layer l = (s.layer l).clearTotals := by
  have hmap : (s.clearTotals q).layers = s.layers.map fun p => (p.1, if p.1 % 4 == q then p.2.clearTotals else p.2) := by
    unfold State.clearTotals
    refine List.map_congr_left fun p _ => ?_
    split <;> rfl
  unfold State.layer aget
  rw [hmap, aget?_map s.layers (fun k w => if k % 4 == q then w.clearTotals else w), h, beq_self_eq_true]
  cases aget? s.layers l <;> rfl

end Sys2Proof.Machine

open Sys2Proof Sys2Proof.Machine Sys2Proof.Claims

/-- `COUNT_CLEAR` of a page, by the page of the command: a crossing point clears or posts, a watch clears its totals too. -/
theorem Sys2Proof.Claims.countClearsZeroTheirCounters : Claims.CountClearsZeroTheirCounters := by
  intro s c v page rs hc hw
  obtain ⟨p, hp, h0, rfl, hcls, hoff, hwatch, hex⟩ := exec_countClear hc
  obtain ⟨o, ho⟩ := Option.isSome_iff_exists.mp hoff
  have hex := (hex s).trans (congrArg _ (State.onWrite_writes hw))
  have hclear := s.clearCounts_clears p.cls page hcls
  have hbase := (pageBase_eq h0 (Cls.clearOff_lt ho)).1
  unfold State.countClearAt State.crossOrPost at hex
  rw [ho, Option.getD_some, hbase] at hex
  dsimp only
  refine ⟨fun hfree => ?_, fun ⟨p', hp', hcr⟩ hbusy => ?_⟩
  · by_cases hcr : p.cls.crossing = true
    · have hb : s.betweenTasks page = true := hfree.resolve_left fun hn => hn ⟨p, hp, hcr⟩
      rw [if_pos hcr, if_pos hb, State.crossWrite_countClear s v h0 hp ho] at hex
      refine ⟨_, hex, hclear.zero, hclear.other, hclear.frame.sameBytes, hclear.frame.sameSeals, hclear.frame.tasks, ?_⟩
      intro q hq
      rw [(hwatch q hq).1] at hcr
      exact absurd hcr (by decide)
    · rw [if_neg hcr] at hex
      by_cases hn : p.cls = .numwatch
      · rw [if_pos hn, ← hn] at hex
        refine ⟨_, hex, hclear.zero, hclear.other, hclear.frame.sameBytes, hclear.frame.sameSeals, hclear.frame.tasks, ?_⟩
        intro q hq l hl
        rw [State.layer_clearTotals _ (hl.trans (hwatch q hq).2.symm)]
        obtain ⟨r, hr⟩ := hclear.frame
        rw [hr]
        exact ⟨rfl, rfl, rfl, rfl, rfl⟩
      · rw [if_neg hn] at hex
        exact ⟨_, hex, hclear.zero, hclear.other, hclear.frame.sameBytes, hclear.frame.sameSeals, hclear.frame.tasks,
          fun q hq => absurd (hwatch q hq).1 hn⟩
  · obtain rfl : p = p' := Option.some.inj (hp.symm.trans hp')
    rw [if_pos hcr, if_neg (by simp [hbusy])] at hex
    exact ⟨_, hex, p, o, hp, ho, rfl⟩
end

section
namespace Sys2Proof.Machine

open Sys2Proof.Claims

/-! Counters of a controller and of the POWER page (R327, R473). -/

/-- A controller that has moved nothing reads 0 in its byte counts. -/
theorem State.regWord_noTraffic {s : State} {p : PageRef} {page o : Nat} (hp : pageAt page = some p) (h0 : page % 0x1000 = 0)
    (hc : p.cls = .stackCtl ∨ p.cls = .tierbCtl) (ht : aget s.traffic page (0, 0) = (0, 0))
    (ho : o = R.CTL.RD_BYTES_LO.off ∨ o = R.CTL.RD_BYTES_HI.off ∨ o = R.CTL.WR_BYTES_LO.off ∨ o = R.CTL.WR_BYTES_HI.off) :
    s.regWord .bar0 (page + o) = 0 := by
  have hoff : 0x110 ≤ o ∧ o ≤ 0x11C := by rcases ho with rfl | rfl | rfl | rfl <;> decide
  obtain ⟨-, hm⟩ := pageBase_eq h0 (o := o) (by omega)
  have hpa : pageAt (page + o) = some p := (pageAt_in h0 (Nat.le_add_right _ _) (by omega)).trans hp
  have hlive : s.liveRead p (page + o) = s.trafficAt page o := by
    have hr : R.CTL.RD_BYTES_LO.off ≤ o ∧ o ≤ R.CTL.WR_BYTES_HI.off := hoff
    unfold State.liveRead
    rw [hm]
    rcases hc with hc | hc <;> simp only [hc, Nat.add_sub_cancel, decide_eq_true hr.1, decide_eq_true hr.2, Bool.and_self, if_true]
  have hzero : s.trafficAt page o = 0 := by
    unfold State.trafficAt
    rw [ht]
    simp
  have hb : (p.cls == .buttons) = false := by rcases hc with hc | hc <;> rw [hc] <;> rfl
  unfold State.regWord
  rw [hpa]
  dsimp only
  rw [hm, hlive, hzero, hb, show (o == oPAGE_STATUS) = false by simp [oPAGE_STATUS]; omega, if_neg (show ¬o < 0x100 by omega)]
  simp [State.readable]

/-- The page of a memory controller. -/
theorem pageAt_controller (n : Die8) (tierB : Bool) (i : Fin 4) :
    ∃ p, pageAt (if tierB then pgTierB n i else pgStack n i) = some p ∧ (if tierB then pgTierB n i else pgStack n i) % 0x1000 = 0 ∧
      (p.cls = .stackCtl ∨ p.cls = .tierbCtl) := by
  cases tierB
  · exact ⟨_, pageAt_stack n i, by simp only [Bool.false_eq_true, if_false]; unfold pgStack pgMemDie quadBase; omega, .inl rfl⟩
  · exact ⟨_, pageAt_tierB n i, by simp only [if_true]; unfold pgTierB pgMemDie quadBase; omega, .inr rfl⟩

/-- A field of a register that reads 0 is 0. -/
theorem State.rf_of_reg_zero {s : State} {page : Nat} {f : Fld} {i : Nat} (h : s.reg (f.addr page i) = 0) : s.rf page f i = 0 := by
  unfold State.rf getBits
  rw [h]
  simp

end Sys2Proof.Machine

open Sys2Proof Sys2Proof.Machine Sys2Proof.Claims

theorem Sys2Proof.Claims.controllerAndPowerCountClear : Claims.ControllerAndPowerCountClear := by
  constructor
  · intro s v n tierB i hw
    obtain ⟨p, hp, h0, hc⟩ := pageAt_controller n tierB i
    have hex : exec (.controllerCountClear v n tierB i) s =
        .next (s.onWrite v (if tierB then pgTierB n i else pgStack n i) false
          fun s => s.clearCounts .stackCtl (if tierB then pgTierB n i else pgStack n i)) := rfl
    rw [State.onWrite_writes hw] at hex
    generalize (if tierB then pgTierB n i else pgStack n i) = page at *
    have hclear := State.clearWords_clears { s with traffic := aput s.traffic page (0, 0) } page 0x120 0x124 (by decide) rfl rfl
    change exec _ _ = .next (State.clearWords { s with traffic := aput s.traffic page (0, 0) } page 0x120 0x124) at hex
    generalize State.clearWords { s with traffic := aput s.traffic page (0, 0) } page 0x120 0x124 = t at hex hclear
    have htr : t.traffic = aput s.traffic page (0, 0) := by
      obtain ⟨r, rfl⟩ := hclear.frame
      rfl
    refine ⟨t, hex, ?_, ?_, ?_, ?_, ?_, hclear.frame.sameBytes, hclear.frame.sameSeals⟩
    · intro o ho
      refine State.regWord_noTraffic hp h0 hc ?_ ho
      rw [htr]
      unfold aget
      rw [aget?_aput_same, Option.getD_some]
    · intro g hg
      rw [htr]
      unfold aget
      rw [aget?_aput_other _ _ _ _ hg]
    · refine State.rf_of_reg_zero (hclear.zero _ ((cleared_single _ _ _ _ rfl).mpr ?_))
      simp [Fld.addr, R.CTL.CE_COUNT]
    · refine State.rf_of_reg_zero (hclear.zero _ ((cleared_single _ _ _ _ rfl).mpr ?_))
      simp [Fld.addr, R.CTL.UE_COUNT, Nat.add_sub_add_left]
    · intro o ho
      refine hclear.other o fun hcl => ho ?_
      have := (cleared_single _ _ _ _ rfl).mp hcl
      simp only [R.CTL.CE_COUNT, R.CTL.UE_COUNT]
      omega
  · intro s v hw
    have hex : exec (.powerCountClear v) s = .next (s.onWrite v pgPower false fun s => s.clearCounts .power pgPower) := rfl
    rw [State.onWrite_writes hw] at hex
    have hframe : RegsOnly s (s.clearCounts .power pgPower) := (s.wf_regsOnly _ _ _ _).trans (State.wf_regsOnly _ _ _ _ _)
    refine ⟨_, hex, ?_, ?_, ?_, ?_, hframe.sameBytes, hframe.sameSeals⟩
    · exact (State.rf_wf_other _ _ _ _ _ _ _ _ (by decide)).trans (State.rf_wf_self _ _ _ _ _ (by decide) (by decide))
    · exact State.rf_wf_self _ _ _ _ _ (by decide) (by decide)
    · exact (State.rf_wf_other _ pgPower pgPower _ R.POWER.INPUT_W_AVG _ _ 0 (by decide)).trans
        (State.rf_wf_beside _ _ _ _ _ _ _ rfl (by decide) (by decide) (.inl (by decide)))
    · intro o ho
      exact (State.reg_wf_other _ _ _ _ _ _ fun e => ho (.inr e)).trans (State.reg_wf_other _ _ _ _ _ _ fun e => ho (.inl e))

/-- Settles O11: every `COUNT_CLEAR` clears the words of its class's counters. -/
theorem Sys2Proof.Claims.countClears : Obligations.CountClears :=
  ⟨countClearsZeroTheirCounters, controllerAndPowerCountClear⟩
end

section
namespace Sys2Proof.Machine

open Sys2Proof.Claims

/-! `PAGE_CTL` (R15, R41). -/

theorem bit_toNat (w : Word) (b : Nat) : bit w.toNat b = (getBits w b b == 1) := by
  unfold bit getBits
  rw [Nat.add_sub_cancel_left, pow_one]

/-- A bit of a word written reads as written. -/
theorem bit_setBits_self (w : Word) (b : Nat) (v : Bool) (h : b < 32) : bit (setBits w b b (b2n v)).toNat b = v := by
  rw [bit_toNat, getBits_setBits_self w b b _ (Nat.le_refl b) h, Nat.add_sub_cancel_left, pow_one]
  cases v <;> rfl

/-- A bit above the one written keeps its value. -/
theorem bit_setBits_above (w : Word) (b c v : Nat) (h : b < 32) (hc : b < c) : bit (setBits w b b v).toNat c = bit w.toNat c := by
  rw [bit_toNat, bit_toNat, getBits_setBits_above w b b v c c (Nat.le_refl b) h hc]

/-- A bit of `PAGE_CTL` written: the register takes it, alone. -/
theorem State.pageCtl_written (s : State) (page b : Nat) (v : Bool) (hb : b < 32) :
    (s.setHdrBit page oPAGE_CTL b v).hdr page oPAGE_CTL = (setBits (s.reg (page + oPAGE_CTL)) b b (b2n v)).toNat ∧
      bit ((s.setHdrBit page oPAGE_CTL b v).hdr page oPAGE_CTL) b = v ∧
      SameRegs s (s.setHdrBit page oPAGE_CTL b v) (fun o => o = page + oPAGE_CTL) ∧ SameBytes s (s.setHdrBit page oPAGE_CTL b v) ∧
      SameSeals s (s.setHdrBit page oPAGE_CTL b v) ∧ (s.setHdrBit page oPAGE_CTL b v).tasks = s.tasks := by
  have hreg : (s.setHdrBit page oPAGE_CTL b v).hdr page oPAGE_CTL = (setBits (s.reg (page + oPAGE_CTL)) b b (b2n v)).toNat :=
    congrArg BitVec.toNat (State.reg_setReg_self s _ _)
  have hf := s.setHdrBit_regsOnly page oPAGE_CTL b v
  exact ⟨hreg, State.hdr_setHdrBit_self s page oPAGE_CTL b v hb, fun o ho => State.reg_setHdrBit_other s page oPAGE_CTL b v o ho,
    hf.sameBytes, hf.sameSeals, hf.tasks⟩

/-- A page that may take work again where none waits changes nothing more. -/
theorem State.offerWork_settle_still {s : State} (p : PageRef) (h : Still s) : (s.offerWork p).settle = s := by
  rw [State.offerWork_still h, State.settle_noWait h.1]

theorem State.quiesce_eq (s : State) (p : PageRef) (page : Nat) (on : Bool) (h : on = true ∨ Still s) :
    s.quiesce p page on = s.setHdrBit page oPAGE_CTL 1 on := by
  unfold State.quiesce
  rcases h with rfl | h
  · rfl
  · cases on
    · exact State.offerWork_settle_still p ((s.setHdrBit_regsOnly _ _ _ _).still h)
    · rfl

theorem State.pageEnable_eq (s : State) (p : PageRef) (page : Nat) (on : Bool) (h : on = false ∨ Still s) :
    s.pageEnable p page on = s.setHdrBit page oPAGE_CTL 0 on := by
  unfold State.pageEnable
  rcases h with rfl | h
  · rfl
  · cases on
    · rfl
    · exact State.offerWork_settle_still p ((s.setHdrBit_regsOnly _ _ _ _).still h)

/-- A header command of a page with a header has its effect where the view may write. -/
theorem State.onHeader_writes {s : State} {v : View} {page : Nat} {r : Bool} {p : PageRef} {k : State → PageRef → State}
    (hp : headerPage page = some p) (h : Writes s v page r) : s.onHeader v page r k = k s p := by
  unfold State.onHeader
  rw [hp]
  exact State.onWrite_writes h

end Sys2Proof.Machine

open Sys2Proof Sys2Proof.Machine Sys2Proof.Claims

theorem Sys2Proof.Claims.quiesceAndEnableWriteTheirBits : Claims.QuiesceAndEnableWriteTheirBits := by
  intro s view page p on hw hp
  refine ⟨fun h => ⟨_, ?_, s.pageCtl_written page 1 on (by decide)⟩, fun h => ⟨_, ?_, s.pageCtl_written page 0 on (by decide)⟩⟩
  · exact congrArg _ ((State.onHeader_writes hp hw).trans (s.quiesce_eq p page on h))
  · exact congrArg _ ((State.onHeader_writes hp hw).trans (s.pageEnable_eq p page on h))

namespace Sys2Proof.Machine

/-! Block resets (R16, R41). -/

/-- The gather page of a quadrant's memory-side die is its page 13 (Table 2-7). -/
theorem quadPage_gather {q o : Nat} {p : PageRef} (hp : quadPage q o = some p) (hc : p.cls = .gather) :
    p.quad = q ∧ (p.die = 3 ∨ p.die = 4) ∧ o = 0x80 * p.die + 13 := by
  unfold quadPage at hp
  dsimp only at hp
  split at hp
  case h_4 | h_5 =>
    have hk : o % 0x80 = 13 := by
      by_contra hk
      simp only [beq_eq_false_iff_ne.mpr hk, Bool.false_eq_true, if_false] at hp
      revert hp
      repeat' split
      all_goals
        intro h
        cases h <;> exact nomatch hc
    simp only [hk] at hp
    obtain rfl := Option.some.inj hp
    exact ⟨rfl, by dsimp only; omega, by dsimp only; omega⟩
  case h_6 => exact nomatch hp
  all_goals
    revert hp
    repeat' split
    all_goals
      intro h
      cases h <;> exact nomatch hc

/-- The base of the gather page that a page reference names. -/
theorem gatherPage_eq {page : Nat} {p : PageRef} (h0 : page % 0x1000 = 0) (hp : pageAt page = some p) (hc : p.cls = .gather) :
    page = pgGather (2 * p.quad + (p.die - 3)) := by
  unfold pageAt pageNo at hp
  split at hp
  · rename_i hr
    obtain ⟨hq, hd, ho⟩ := quadPage_gather hp hc
    simp only [Bool.and_eq_true, decide_eq_true_eq] at hr
    unfold pgGather pgMemDie quadBase
    omega
  · revert hp
    repeat' split
    all_goals
      intro h
      cases h <;> exact nomatch hc

/-- A register of the common header from `INT_STATUS` on reads its reset value after a reset of the header. -/
theorem State.reg_resetHeader_in (s : State) {page o : Nat} (h : page + oINT_STATUS ≤ o) (h2 : o < page + 0x100) :
    (s.resetHeader page).reg o = resetWord o := by
  unfold State.resetHeader
  rw [State.reg_setHdrBit_other _ _ _ _ _ _ (by unfold oINT_STATUS at h; unfold oPAGE_CTL; omega)]
  unfold State.reg
  rw [aget?_filter_not]
  · rfl
  · rintro ⟨a, w⟩ rfl
    simp [h, h2]

/-- A reset of the header keeps the registers outside its range. -/
theorem State.reg_headerFilter_out (s : State) {page o : Nat} (h : ¬(page + oINT_STATUS ≤ o ∧ o < page + 0x100)) :
    State.reg { s with regs := s.regs.filter fun p => !(decide (page + oINT_STATUS ≤ p.1) && decide (p.1 < page + 0x100)) } o = s.reg o := by
  unfold State.reg
  rw [aget?_filter]
  intro w
  simp only [Bool.not_eq_true', Bool.and_eq_false_iff, decide_eq_false_iff_not]
  exact not_and_or.mp h

/-- Every register but `PAGE_CTL` outside that range reads as before. -/
theorem State.reg_resetHeader_out (s : State) {page o : Nat} (h : ¬(page + oINT_STATUS ≤ o ∧ o < page + 0x100)) (hc : o ≠ page + oPAGE_CTL) :
    (s.resetHeader page).reg o = s.reg o := by
  unfold State.resetHeader
  rw [State.reg_setHdrBit_other _ _ _ _ _ _ hc, State.reg_headerFilter_out s h]

/-- A reset of the header clears `QUIESCE` and leaves the rest of `PAGE_CTL`. -/
theorem State.reg_resetHeader_ctl (s : State) (page : Nat) :
    (s.resetHeader page).reg (page + oPAGE_CTL) = setBits (s.reg (page + oPAGE_CTL)) 1 1 0 := by
  unfold State.resetHeader State.setHdrBit
  rw [State.reg_setReg_self, State.reg_headerFilter_out s (by unfold oINT_STATUS oPAGE_CTL; omega)]
  rfl

/-- A page reset keeps the registers on flash and those kept. -/
theorem State.reg_resetRegs_kept {s : State} {page : Nat} {keep : Nat → Bool} {o : Nat} (h : flashReg o = true ∨ keep (o % 0x1000) = true) :
    (s.resetRegs page keep).reg o = s.reg o := by
  unfold State.reg State.resetRegs
  rw [aget?_filter]
  intro w
  rcases h with h | h <;> simp [h]

/-- The header of a page under its block reset. -/
def State.resetting (s : State) (page : Nat) : State := (s.setHdrBit page oPAGE_CTL 31 true).resetHeader page

theorem State.resetting_regsOnly (s : State) (page : Nat) : RegsOnly s (s.resetting page) := ⟨_, rfl⟩

/-- Outside `PAGE_CTL` and the registers that take their reset values nothing changes. -/
theorem State.reg_resetting_out (s : State) {page o : Nat} (h : ¬(page + oINT_STATUS ≤ o ∧ o < page + 0x100)) (hc : o ≠ page + oPAGE_CTL) :
    (s.resetting page).reg o = s.reg o :=
  (State.reg_resetHeader_out _ h hc).trans (State.reg_setHdrBit_other _ _ _ _ _ _ hc)

/-- `BLOCK_RESET` reads 1 and `QUIESCE` 0. -/
theorem State.resetting_ctl (s : State) (page : Nat) :
    bit ((s.resetting page).hdr page oPAGE_CTL) 31 = true ∧ bit ((s.resetting page).hdr page oPAGE_CTL) 1 = false := by
  have hreg : (s.resetting page).reg (page + oPAGE_CTL) = setBits (setBits (s.reg (page + oPAGE_CTL)) 31 31 (b2n true)) 1 1 (b2n false) := by
    unfold State.resetting
    rw [State.reg_resetHeader_ctl]
    unfold State.setHdrBit
    rw [State.reg_setReg_self]
    rfl
  unfold State.hdr
  rw [hreg]
  exact ⟨(bit_setBits_above _ 1 31 _ (by decide) (by decide)).trans (bit_setBits_self _ 31 true (by decide)), bit_setBits_self _ 1 false (by decide)⟩

/-! The classes whose block reset resets registers, and stops at most a gather task. -/

/-- What the block reset of a class without an engine, or of a gather unit, does to its block: the registers, the counted traffic of a
controller, the tasks of a gather unit. -/
theorem State.resetBlock_registers (s : State) {p : PageRef} (page : Nat)
    (hc : p.cls ∈ [Cls.device, .power, .clock, .calib, .host, .graphSched, .introute, .stackCtl, .tierbCtl, .gather]) :
    ∃ tr, s.resetBlock p page = ({ s with
        traffic := tr
        tasks := if p.cls = Cls.gather then (s.stopGather (2 * p.quad + (p.die - 3))).tasks else s.tasks }).resetRegs page p.cls.mirror := by
  have hkeep : p.cls = .stackCtl ∨ p.cls = .tierbCtl ∨ p.cls = .gather → p.cls.mirror = fun _ => false := by
    rintro (h | h | h) <;> rw [h] <;> rfl
  by_cases hplain : p.cls ∈ [Cls.device, .power, .clock, .calib, .host, .graphSched, .introute]
  · have hg : p.cls ≠ .gather := fun h => by rw [h] at hplain; exact absurd hplain (by decide)
    exact ⟨s.traffic, by rw [State.resetBlock_plain hplain, if_neg hg]⟩
  · have h3 : p.cls = .stackCtl ∨ p.cls = .tierbCtl ∨ p.cls = .gather := by simp only [List.mem_cons, List.not_mem_nil, or_false] at hc hplain; tauto
    rw [hkeep h3]
    unfold State.resetBlock
    rcases h3 with h | h | h <;> rw [h]
    · exact ⟨_, rfl⟩
    · exact ⟨_, rfl⟩
    · exact ⟨s.traffic, rfl⟩

/-! Gather tasks that stop (R324). -/

theorem State.stopGather_seq (s : State) (n : Nat) : (s.stopGather n).tasks.map Task.seq = s.tasks.map Task.seq := by
  unfold State.stopGather
  simp only [List.map_map]
  refine List.map_congr_left fun t _ => ?_
  simp only [Function.comp]
  split <;> rfl

theorem State.stopGather_noWait {s : State} (n : Nat) (h : NoWait s) : NoWait (s.stopGather n) := by
  intro k hk
  obtain ⟨t, ht, rfl⟩ := List.mem_map.mp hk
  split
  · rfl
  · exact h t ht

/-- Every task of the unit has ended ABORTED. -/
theorem State.stopGather_ends {s : State} {n : Nat} (h : NoWait s) {k : Task} (hk : k ∈ (s.stopGather n).tasks)
    (hp : k.pages.contains (pgGather n) = true) : k.phase = .finished stAborted 0 0 0 := by
  obtain ⟨t, ht, rfl⟩ := List.mem_map.mp hk
  by_cases hc : t.pages.contains (pgGather n) = true
  · rw [if_pos (by rw [hc, h t ht]; rfl)]
  · rw [if_neg (by simp only [hc]; simp)] at hp
    exact absurd hp hc

/-- A block reset of a class without an engine, or of a gather unit. -/
theorem State.blockReset_eq {s : State} {page : Nat} {p : PageRef} (hp : pageAt page = some p) (hw : NoWait s)
    (hc : p.cls ∈ [Cls.device, .power, .clock, .calib, .host, .graphSched, .introute, .stackCtl, .tierbCtl, .gather]) :
    ∃ tr, s.blockReset page = ({ s.resetting page with
        traffic := tr
        tasks := if p.cls = Cls.gather then (s.stopGather (2 * p.quad + (p.die - 3))).tasks else s.tasks }).resetRegs page p.cls.mirror := by
  obtain ⟨tr, e⟩ := (s.resetting page).resetBlock_registers page hc
  refine ⟨tr, ?_⟩
  unfold State.blockReset
  rw [hp]
  change State.settle (State.resetBlock (s.resetting page) p page) = _
  rw [e, State.settle_noWait]
  · rfl
  · show ∀ t ∈ (if p.cls = .gather then _ else _), _
    split
    · exact State.stopGather_noWait _ hw
    · exact hw

end Sys2Proof.Machine

open Sys2Proof Sys2Proof.Machine Sys2Proof.Claims

theorem Sys2Proof.Claims.blockResetRestoresRegisters : Claims.BlockResetRestoresRegisters := by
  intro s view page p hp
  obtain ⟨hpa, h0⟩ := headerPage_pageAt hp
  refine ⟨fun hw hn hc => ?_, fun h31 hg hs => ?_⟩
  · have hex : exec (.blockReset view page) s = .next (s.onHeader view page false fun s _ => s.blockReset page) := rfl
    rw [State.onHeader_writes hp hw] at hex
    obtain ⟨tr, e⟩ := State.blockReset_eq hpa hn hc
    have hout : ∀ o, ¬(page + 0x100 ≤ o ∧ o < page + 0x1000) → (s.blockReset page).reg o = (s.resetting page).reg o := fun o ho => by
      rw [e, State.reg_resetRegs_out ho]
      exact State.reg_of_regs rfl o
    have htasks : (s.blockReset page).tasks = if p.cls = Cls.gather then (s.stopGather (2 * p.quad + (p.die - 3))).tasks else s.tasks := by
      rw [e]
      rfl
    obtain ⟨r, tr', k, hframe⟩ : ∃ r tr k, s.blockReset page = { s with regs := r, traffic := tr, tasks := k } := by
      obtain ⟨r, hr⟩ := s.resetting_regsOnly page
      exact ⟨_, tr, _, by rw [e, hr]; rfl⟩
    have hctl : (s.blockReset page).hdr page oPAGE_CTL = (s.resetting page).hdr page oPAGE_CTL :=
      congrArg BitVec.toNat (hout _ (by unfold oPAGE_CTL; omega))
    refine ⟨s.blockReset page, hex, ?_, ?_, ?_, ?_, ?_, ?_, ?_, ?_, ?_, ?_, ?_⟩
    · rw [hctl]
      exact (s.resetting_ctl page).1
    · rw [hctl]
      exact (s.resetting_ctl page).2
    · intro o h1 h2
      rw [hout o (by omega)]
      exact State.reg_resetHeader_in _ h1 h2
    · intro o h1 h2 hf hm
      rw [e]
      exact State.reg_resetRegs_in h1 h2 hf hm
    · intro o h1 h2 hk
      rw [e, State.reg_resetRegs_kept hk]
      exact (State.reg_of_regs (s := s.resetting page) rfl o).trans (s.reg_resetting_out (by omega) (by unfold oPAGE_CTL; omega))
    · intro o ho
      have hin : ¬(page + oINT_STATUS ≤ o ∧ o < page + 0x1000) := fun h => ho (.inr h)
      unfold oINT_STATUS at hin
      rw [hout o (by omega)]
      exact s.reg_resetting_out (by unfold oINT_STATUS; omega) fun h => ho (.inl h)
    · rw [hframe]
      exact fun _ => rfl
    · rw [hframe]
      exact fun _ => rfl
    · intro hg k hk hpg
      rw [htasks, if_pos hg] at hk
      rw [gatherPage_eq h0 hpa hg] at hpg
      exact State.stopGather_ends hn hk hpg
    · intro hg
      rw [htasks, if_neg hg]
    · rw [htasks]
      split
      · exact s.stopGather_seq _
      · rfl
  · have hready : s.blockReady page = s.setHdrBit page oPAGE_CTL 31 false := by
      unfold State.blockReady
      rw [hpa]
      simp only [beq_eq_false_iff_ne.mpr hg, Bool.false_eq_true, if_false]
      exact State.offerWork_still ((s.setHdrBit_regsOnly _ _ _ _).still hs)
    refine ⟨_, ?_, s.pageCtl_written page 31 false (by decide)⟩
    show execBlockResetDone page s = _
    unfold execBlockResetDone
    rw [hp]
    simp only [h31, if_true, hready]

/-- Settles O7: header bits by `pageCtl_written`, block resets by the registers that `resetRegs` and `resetHeader` leave. -/
theorem Sys2Proof.Claims.pageControl : Obligations.PageControl :=
  ⟨quiesceAndEnableWriteTheirBits, blockResetRestoresRegisters⟩
end

section
/-! PROOFS. Register writes field by field, clamps, pairs, refused accesses and BAR4 (R13, R33, R37, R38, R45, R49, R50). -/

namespace Sys2Proof.Machine

open Sys2Proof.Claims

/-! The tables of fields: bits that lie in a word, legal values that lie in their field, fields of one register that share no bit. -/

/-- The legal values lie below a bound. -/
def Legal.below (l : Legal) (n : Nat) : Bool :=
  match l with
  | .any => true
  | .range lo hi => decide (lo < n) && decide (hi < n)
  | .zeroOr lo hi => decide (lo < n) && decide (hi < n)
  | .enum _ d => decide (d < n)
  | .eta => n == 2 ^ 32
  | .mul4 => n == 2 ^ 32

theorem clampEta_le (v : Nat) : clampEta v ≤ max v 0x3F800000 := by
  unfold clampEta
  dsimp only
  repeat' split
  all_goals omega

theorem Legal.clamp_lt {l : Legal} {n v : Nat} (h : l.below n = true) (hv : v < n) : l.clamp v < n := by
  cases l with
  | any => exact hv
  | range lo hi =>
    simp only [Legal.below, Bool.and_eq_true, decide_eq_true_eq] at h
    unfold Legal.clamp
    dsimp only
    repeat' split
    all_goals omega
  | zeroOr lo hi =>
    simp only [Legal.below, Bool.and_eq_true, decide_eq_true_eq] at h
    unfold Legal.clamp
    dsimp only
    repeat' split
    all_goals omega
  | enum m d =>
    simp only [Legal.below, decide_eq_true_eq] at h
    unfold Legal.clamp
    dsimp only
    split <;> omega
  | eta =>
    have h : n = 2 ^ 32 := beq_iff_eq.mp h
    exact lt_of_le_of_lt (clampEta_le v) (max_lt hv (by omega))
  | mul4 =>
    have h : n = 2 ^ 32 := beq_iff_eq.mp h
    unfold Legal.clamp
    dsimp only
    repeat' split
    all_goals omega

/-- The bits of a field lie in its word, and its legal values in its bits. -/
def Fld.sound (f : Fld) : Bool := decide (f.lo ≤ f.hi) && decide (f.hi < 32) && f.legal.below (2 ^ (f.hi + 1 - f.lo))

/-- No register of `f` is one of `g`. -/
def Fld.elsewhere (f g : Fld) : Bool := (List.range (max 1 f.count)).all fun i => (g.at? (f.off + f.stride * i)).isNone

/-- The fields share no bit. -/
def Fld.apart (f g : Fld) : Bool := decide (f.hi < g.lo) || decide (g.hi < f.lo)

theorem Fld.at?_some {f : Fld} {o i : Nat} (h : f.at? o = some i) : o = f.off + f.stride * i ∧ i < max 1 f.count := by
  unfold Fld.at? at h
  split at h
  · exact nomatch h
  · split at h
    · rename_i hs
      split at h
      · rename_i ho
        obtain rfl := Option.some.inj h
        exact ⟨by rw [Nat.mul_zero]; exact beq_iff_eq.mp ho, by omega⟩
      · exact nomatch h
    · split at h
      · rename_i hc
        obtain rfl := Option.some.inj h
        simp only [Bool.and_eq_true, beq_iff_eq, decide_eq_true_eq] at hc
        refine ⟨?_, by omega⟩
        rw [Nat.mul_div_cancel' (Nat.dvd_of_mod_eq_zero hc.1)]
        omega
      · exact nomatch h

theorem Fld.elsewhere_at? {f g : Fld} (h : f.elsewhere g = true) {o : Nat} (hf : (f.at? o).isSome = true) : (g.at? o).isSome = false := by
  obtain ⟨i, hi⟩ := Option.isSome_iff_exists.mp hf
  obtain ⟨rfl, hlt⟩ := Fld.at?_some hi
  have := List.all_eq_true.mp h i (List.mem_range.mpr hlt)
  rw [Option.isNone_iff_eq_none] at this
  rw [this]
  rfl

theorem Cls.fields_sound (c : Cls) : ∀ f ∈ c.fields, f.sound = true := by
  cases c <;> decide +kernel

theorem Cls.fields_apart (c : Cls) : c.fields.Pairwise fun f g => (f.apart g || f.elsewhere g) = true := by
  cases c <;> decide +kernel

/-- No register holds halves of both kinds. -/
theorem Cls.halves_elsewhere (c : Cls) : ∀ f ∈ c.fields, f.part = .lo → ∀ g ∈ c.fields, g.part = .hi → f.elsewhere g = true := by
  cases c <;> decide +kernel

end Sys2Proof.Machine
end

section
namespace Sys2Proof.Machine

open Sys2Proof.Claims

/-! The fields of a register. -/

theorem Cls.mem_fieldsAt {c : Cls} {o : Nat} {f : Fld} : f ∈ c.fieldsAt o ↔ f ∈ c.fields ∧ (f.at? o).isSome = true := List.mem_filter

theorem Cls.fieldsAt_sound {c : Cls} {o : Nat} {f : Fld} (h : f ∈ c.fieldsAt o) :
    f.lo ≤ f.hi ∧ f.hi < 32 ∧ f.legal.below (2 ^ (f.hi + 1 - f.lo)) = true := by
  have := c.fields_sound f (Cls.mem_fieldsAt.mp h).1
  simpa only [Fld.sound, Bool.and_eq_true, decide_eq_true_eq, and_assoc] using this

/-- The fields of one register share no bit. -/
theorem Cls.fieldsAt_apart (c : Cls) (o : Nat) : (c.fieldsAt o).Pairwise fun f g => f.apart g = true := by
  refine (c.fields_apart.filter _).imp_of_mem fun {f g} hf hg h => ?_
  rcases Bool.or_eq_true_iff.mp h with h | h
  · exact h
  · have := Fld.elsewhere_at? h (Cls.mem_fieldsAt.mp hf).2
    rw [(Cls.mem_fieldsAt.mp hg).2] at this
    exact nomatch this

/-! A field of a word written. -/

/-- A write in a view under a level gives the field a new value (R33, R49). -/
def Fld.takes (f : Fld) (l11 : Bool) (view : View) : Prop := (f.acc = .rw ∨ (f.acc = .rwp ∧ view = .bar0)) ∧ (f.l11 = true → l11 = true)

/-- A word with a field as a write of its register leaves it. -/
def Fld.written (f : Fld) (l11 : Bool) (view : View) (w old : Word) : Word :=
  if f.l11 && !l11 then old
  else match f.acc with
    | .rw | .rwp => if f.acc == .rwp && view == .bar2 then old else setBits old f.hi f.lo (f.legal.clamp (getBits w f.hi f.lo))
    | .w1c => setBits old f.hi f.lo (getBits old f.hi f.lo - (getBits old f.hi f.lo &&& getBits w f.hi f.lo))
    | _ => old

/-- A field written leaves the word alone or replaces its own bits. -/
theorem Fld.written_eq (f : Fld) (l11 : Bool) (view : View) (w old : Word) :
    f.written l11 view w old = old ∨ ∃ v, f.written l11 view w old = setBits old f.hi f.lo v := by
  unfold Fld.written
  split
  · exact .inl rfl
  · split
    · split
      · exact .inl rfl
      · exact .inr ⟨_, rfl⟩
    · split
      · exact .inl rfl
      · exact .inr ⟨_, rfl⟩
    · exact .inr ⟨_, rfl⟩
    · exact .inl rfl

theorem Fld.written_takes {f : Fld} {l11 : Bool} {view : View} (w old : Word) (h : f.takes l11 view) :
    f.written l11 view w old = setBits old f.hi f.lo (f.legal.clamp (getBits w f.hi f.lo)) := by
  obtain ⟨hacc, hl⟩ := h
  have hlev : (f.l11 && !l11) = false := by
    cases hf : f.l11
    · rfl
    · rw [hl hf]; rfl
  unfold Fld.written
  rw [hlev]
  rcases hacc with ha | ⟨ha, rfl⟩ <;> rw [ha] <;> rfl

theorem Fld.written_keeps {f : Fld} {l11 : Bool} {view : View} (w old : Word) (h : ¬f.takes l11 view) (hc : f.acc ≠ .w1c) :
    f.written l11 view w old = old := by
  unfold Fld.written
  split
  · rfl
  · rename_i hl
    have hlev : f.l11 = true → l11 = true := by cases l11 <;> simp_all
    split
    · rename_i ha
      exact absurd ⟨.inl ha, hlev⟩ h
    · rename_i ha
      split
      · rfl
      · rename_i hv
        have hb : view = .bar0 := by cases view <;> simp_all
        exact absurd ⟨.inr ⟨ha, hb⟩, hlev⟩ h
    · rename_i ha
      exact absurd ha hc
    · rfl

/-- A field that shares no bit with the one written keeps its value. -/
theorem Fld.written_apart {f g : Fld} {l11 : Bool} {view : View} (w old : Word) (hle : f.lo ≤ f.hi) (h32 : f.hi < 32)
    (h : g.hi < f.lo ∨ f.hi < g.lo) : getBits (f.written l11 view w old) g.hi g.lo = getBits old g.hi g.lo := by
  rcases f.written_eq l11 view w old with e | ⟨v, e⟩ <;> rw [e]
  rcases h with h | h
  · exact getBits_setBits_below _ _ _ _ _ _ hle h32 h
  · exact getBits_setBits_above _ _ _ _ _ _ hle h32 h

/-- Fields written one after another: one that shares no bit with any of them keeps its value. -/
theorem foldl_written_apart {fs : List Fld} {g : Fld} {l11 : Bool} {view : View} (w old : Word)
    (hs : ∀ f ∈ fs, f.lo ≤ f.hi ∧ f.hi < 32 ∧ (g.hi < f.lo ∨ f.hi < g.lo)) :
    getBits (fs.foldl (fun r f => f.written l11 view w r) old) g.hi g.lo = getBits old g.hi g.lo := by
  induction fs generalizing old with
  | nil => rfl
  | cons f fs ih =>
    obtain ⟨⟨hle, h32, hd⟩, hfs⟩ := List.forall_mem_cons.mp hs
    rw [List.foldl_cons, ih _ hfs, Fld.written_apart w old hle h32 hd]

/-- Every field of the register at an offset takes its own bits. -/
theorem getBits_foldl_written {c : Cls} {o : Nat} {l11 : Bool} {view : View} (w old : Word) {g : Fld} (hg : g ∈ c.fieldsAt o) :
    (g.takes l11 view →
      getBits ((c.fieldsAt o).foldl (fun r f => f.written l11 view w r) old) g.hi g.lo = g.legal.clamp (getBits w g.hi g.lo)) ∧
    (¬g.takes l11 view → g.acc ≠ .w1c →
      getBits ((c.fieldsAt o).foldl (fun r f => f.written l11 view w r) old) g.hi g.lo = getBits old g.hi g.lo) := by
  obtain ⟨hle, h32, hbelow⟩ := Cls.fieldsAt_sound hg
  obtain ⟨l, r, e⟩ := List.append_of_mem hg
  have hsound : ∀ f ∈ c.fieldsAt o, f.lo ≤ f.hi ∧ f.hi < 32 := fun f hf => ⟨(Cls.fieldsAt_sound hf).1, (Cls.fieldsAt_sound hf).2.1⟩
  have hap := c.fieldsAt_apart o
  rw [e] at hsound hap ⊢
  obtain ⟨-, hr, hl⟩ := List.pairwise_append.mp hap
  have hleft : ∀ f ∈ l, f.lo ≤ f.hi ∧ f.hi < 32 ∧ (g.hi < f.lo ∨ f.hi < g.lo) := fun f hf => by
    have hd := hl f hf g List.mem_cons_self
    obtain ⟨h1, h2⟩ := hsound f (List.mem_append_left _ hf)
    simp only [Fld.apart, Bool.or_eq_true, decide_eq_true_eq] at hd
    exact ⟨h1, h2, hd.symm⟩
  have hright : ∀ f ∈ r, f.lo ≤ f.hi ∧ f.hi < 32 ∧ (g.hi < f.lo ∨ f.hi < g.lo) := fun f hf => by
    have hd := (List.pairwise_cons.mp hr).1 f hf
    obtain ⟨h1, h2⟩ := hsound f (List.mem_append_right _ (List.mem_cons_of_mem _ hf))
    simp only [Fld.apart, Bool.or_eq_true, decide_eq_true_eq] at hd
    exact ⟨h1, h2, hd⟩
  rw [List.foldl_append, List.foldl_cons, foldl_written_apart _ _ hright]
  refine ⟨fun ht => ?_, fun ht hc => ?_⟩
  · rw [Fld.written_takes _ _ ht, getBits_setBits_self _ _ _ _ hle h32, Nat.mod_eq_of_lt]
    exact Legal.clamp_lt hbelow (getBits_lt _ _ _)
  · rw [Fld.written_keeps _ _ ht hc, foldl_written_apart _ _ hleft]

/-! The clamp count (R45). -/

theorem State.noteClamp_regsOnly (s : State) (view : View) (off : Nat) : RegsOnly s (s.noteClamp view off) :=
  ((s.inc_regsOnly _ _ _).trans (State.wf_regsOnly _ _ _ _ _)).trans (State.wf_regsOnly _ _ _ _ _)

theorem State.reg_noteClamp_other (s : State) (view : View) (off o : Nat) (h : ¬Clamps o) : (s.noteClamp view off).reg o = s.reg o := by
  have h1 : o ≠ R.DEVICE.CLAMP_COUNT.addr pgDevice 0 := fun e => h (.inl e)
  have h2 : o ≠ R.DEVICE.CLAMP_LAST_VIEW.addr pgDevice 0 := fun e => h (.inr e)
  unfold State.noteClamp
  rw [State.reg_wf_other _ _ R.DEVICE.CLAMP_LAST_OFFSET _ _ _ h2, State.reg_wf_other _ _ _ _ _ _ h2, State.reg_inc_other _ _ _ _ _ h1]

/-- A clamp is counted, with its view and its register. -/
theorem State.noteClamp_counts (s : State) (view : View) {off : Nat} (h : off < 2 ^ 25) :
    (s.noteClamp view off).rf pgDevice R.DEVICE.CLAMP_COUNT = up32 (s.rf pgDevice R.DEVICE.CLAMP_COUNT) ∧
      (s.noteClamp view off).rf pgDevice R.DEVICE.CLAMP_LAST_VIEW = b2n (view == .bar2) ∧
      (s.noteClamp view off).rf pgDevice R.DEVICE.CLAMP_LAST_OFFSET = off := by
  unfold State.noteClamp
  refine ⟨?_, ?_, ?_⟩
  · rw [State.rf_wf_other _ _ _ _ _ _ _ _ (by decide), State.rf_wf_other _ _ _ _ _ _ _ _ (by decide),
      State.rf_inc_self _ _ _ _ (by decide) (by decide)]
    rfl
  · rw [State.rf_wf_beside _ _ R.DEVICE.CLAMP_LAST_OFFSET R.DEVICE.CLAMP_LAST_VIEW _ _ 0 rfl (by decide) (by decide) (.inr (by decide)),
      State.rf_wf_self _ _ _ _ _ (by decide) (by decide)]
    cases view <;> rfl
  · rw [State.rf_wf_self _ _ _ _ _ (by decide) (by decide)]
    exact Nat.mod_eq_of_lt h

/-! A register written field by field. -/

/-- The register at an offset takes a word; beside it only the count of clamps may change. -/
structure WritesWord (s t : State) (off : Nat) (w : Word) : Prop where
  frame : RegsOnly s t
  self  : t.reg off = w
  other : ∀ o, o ≠ off → ¬Clamps o → t.reg o = s.reg o

theorem WritesWord.refl (s : State) (off : Nat) : WritesWord s s off (s.reg off) := ⟨.refl s, rfl, fun _ _ _ => rfl⟩

theorem State.setReg_writesWord (s : State) (off : Nat) (w : Word) : WritesWord s (s.setReg off w) off w :=
  ⟨s.setReg_regsOnly off w, s.reg_setReg_self off w, fun o ho _ => s.reg_setReg_other off o w ho⟩

theorem WritesWord.noteClamp {s t : State} {off : Nat} {w : Word} (h : WritesWord s t off w) (hc : ¬Clamps off) (view : View) (o : Nat) :
    WritesWord s (t.noteClamp view o) off w where
  frame := h.frame.trans (t.noteClamp_regsOnly view o)
  self := (t.reg_noteClamp_other view o off hc).trans h.self
  other x hx hxc := (t.reg_noteClamp_other view o x hxc).trans (h.other x hx hxc)

theorem WritesWord.trans {s t u : State} {off : Nat} {v w : Word} (h : WritesWord s t off v) (g : WritesWord t u off w) : WritesWord s u off w :=
  ⟨h.frame.trans g.frame, g.self, fun o ho hc => (g.other o ho hc).trans (h.other o ho hc)⟩

/-- A write of another page than DEVICE leaves the level in force. -/
theorem WritesWord.level11 {s t : State} {off : Nat} {w : Word} (h : WritesWord s t off w) (ho : 0x1000 ≤ off) : t.level11 = s.level11 := by
  have hne : pgDevice + R.DEVICE.HOST_LEVEL_MAJOR.off ≠ off := by simp only [pgDevice, R.DEVICE.HOST_LEVEL_MAJOR]; omega
  have hc : ¬Clamps (pgDevice + R.DEVICE.HOST_LEVEL_MAJOR.off) := by unfold Clamps; decide
  unfold State.level11
  rw [h.other _ hne hc]

theorem not_clamps_of_page {off : Nat} (h : 0x1000 ≤ off) : ¬Clamps off := by
  simp only [Clamps, pgDevice, R.DEVICE.CLAMP_COUNT, R.DEVICE.CLAMP_LAST_VIEW]
  omega

/-- One field of a register written. -/
theorem State.writeFld_writesWord (s : State) (view : View) {off : Nat} (w : Word) (f : Fld) (hc : ¬Clamps off) :
    WritesWord s (s.writeFld view off w f) off (f.written s.level11 view w (s.reg off)) := by
  unfold State.writeFld Fld.written
  by_cases hl : (f.l11 && !s.level11) = true
  · rw [if_pos hl, if_pos hl]
    exact .refl s off
  · rw [if_neg hl, if_neg hl]
    cases ha : f.acc with
    | ro | w1s | wo => exact .refl s off
    | w1c => exact s.setReg_writesWord off _
    | rw | rwp =>
      dsimp only
      split
      · exact .refl s off
      · split
        · exact s.setReg_writesWord off _
        · exact (s.setReg_writesWord off _).noteClamp hc view off

/-- Every field of a register written. -/
theorem State.writeFlds_writesWord (s : State) (view : View) {off : Nat} (w : Word) (fs : List Fld) (h : 0x1000 ≤ off) :
    WritesWord s (s.writeFlds view off w fs) off (fs.foldl (fun r f => f.written s.level11 view w r) (s.reg off)) := by
  unfold State.writeFlds
  induction fs generalizing s with
  | nil => exact .refl s off
  | cons f fs ih =>
    have h1 := s.writeFld_writesWord view w f (not_clamps_of_page h)
    have h2 := ih (s.writeFld view off w f)
    rw [h1.self, h1.level11 h] at h2
    exact h1.trans h2

/-- Every field of a register whose word has been written takes its own bits. -/
theorem takesField_of_reg {s t : State} {view : View} {off o : Nat} {w : Word} {c : Cls}
    (h : t.reg off = (c.fieldsAt o).foldl (fun r f => f.written s.level11 view w r) (s.reg off)) :
    ∀ f ∈ c.fieldsAt o, TakesField s t view off w f := by
  intro f hf
  unfold TakesField
  rw [h]
  exact getBits_foldl_written w (s.reg off) hf

end Sys2Proof.Machine
end

section
namespace Sys2Proof.Claims

open Machine

/-! Writes of registers that are no command (R13, R33, R38). -/

theorem Up.alive {s : State} (h : Up s) : s.alive = true := by
  obtain ⟨h1, h2, -⟩ := h
  unfold State.alive
  rw [h1, h2]
  rfl

section
variable {s : State} {view : View} {off : Nat} {p : PageRef} (h : PlainAt s view off p)
include h

theorem PlainAt.cls_ne {c : Cls} (hc : c.crossing = false) (hl : c ∉ [Cls.clock, .calib, .stackCtl, .tierbCtl, .host]) : p.cls ≠ c := by
  rintro rfl
  exact h.cls.elim (fun hx => by rw [hc] at hx; exact nomatch hx) hl

/-- The offset lies beyond the DEVICE page. -/
theorem PlainAt.beyond_device : 0x1000 ≤ off := by
  by_contra hlt
  have hp := h.page
  unfold pageAt at hp
  rw [show off / 0x1000 = 0 by omega] at hp
  exact h.cls_ne (c := .device) rfl (by decide) (congrArg PageRef.cls (Option.some.inj hp).symm)

theorem PlainAt.not_resetCtl : off ≠ pgPower + R.POWER.RESET_CTL_MODULE.off := by
  rintro rfl
  exact h.cls_ne (c := .power) rfl (by decide) (congrArg PageRef.cls (Option.some.inj h.page).symm)

/-- Such a write reaches its block. -/
theorem PlainAt.regWrite_eq (w : Word) : s.regWrite view off w =
    if p.cls.crossing then s.crossOrPost view off w else s.writeBlock view p (0x1000 * (off / 0x1000)) off w := by
  have hown := h.own
  unfold State.regWrite
  rw [Up.alive h.up, h.page]
  simp only [h.granted, h.up.2.2, h.aligned, Bool.not_true, Bool.false_eq_true, if_false, bne_self_eq_false, beq_eq_false_iff_ne.mpr h.not_resetCtl, Bool.or_self,
    decide_eq_false (show ¬off % 0x1000 < 0x100 by omega), Bool.and_false]

/-- A crossing point posts it while its task runs. -/
theorem PlainAt.posts (w : Word) (hc : p.cls.crossing = true) (hb : s.betweenTasks (0x1000 * (off / 0x1000)) = false) :
    s.regWrite view off w = { s with posted := s.posted ++ [⟨view, off, w⟩] } := by
  rw [h.regWrite_eq w, if_pos hc]
  unfold State.crossOrPost
  rw [hb]
  rfl

/-- Otherwise the fields of the register take the word. -/
theorem PlainAt.applies (w : Word) (hb : p.cls.crossing = true → s.betweenTasks (0x1000 * (off / 0x1000)) = true) :
    s.regWrite view off w = s.plainWrite view off w := by
  have hclear : (p.cls.clearOff == some (off % 0x1000)) = false := beq_eq_false_iff_ne.mpr h.clear
  rw [h.regWrite_eq w]
  by_cases hc : p.cls.crossing = true
  · have hflush : (p.cls == .vecCore && off % 0x1000 == R.VEC_CORE.PAT_FLUSH_FLUSH.off) = false := by
      by_contra hx
      simp only [Bool.not_eq_false, Bool.and_eq_true, beq_iff_eq] at hx
      exact h.flush hx.1 hx.2
    rw [if_pos hc]
    unfold State.crossOrPost State.crossWrite
    rw [hb hc, h.page]
    simp only [if_true, hclear, hflush, Bool.false_eq_true, if_false]
  · rw [if_neg hc]
    unfold State.writeBlock
    rw [hclear]
    have hl := h.cls.resolve_left hc
    simp only [List.mem_cons, List.not_mem_nil, or_false] at hl
    rcases hl with hl | hl | hl | hl | hl <;> rw [hl] <;> rfl

end

end Sys2Proof.Claims

namespace Sys2Proof.Machine

open Sys2Proof.Claims

theorem halfAt_iff (p : PageRef) (part : Part) (view : View) (off : Nat) :
    ((p.cls.fieldsAt (off % 0x1000)).any fun f => f.part == part && f.writable view) = true ↔ HalfAt p part view off := by
  unfold HalfAt
  simp only [List.any_eq_true, Bool.and_eq_true, beq_iff_eq]

/-- What `plainWrite` does with a LO half, a HI half, and any other register. -/
theorem State.plainWrite_lo (s : State) {view : View} {off : Nat} (w : Word) {p : PageRef} (hp : pageAt off = some p) (hl : HalfAt p .lo view off) :
    s.plainWrite view off w = { s with pairHold := aput s.pairHold (off + 4) w } := by
  unfold State.plainWrite
  rw [hp]
  dsimp only
  rw [if_pos ((halfAt_iff p .lo view off).mpr hl)]

theorem State.plainWrite_hi (s : State) {view : View} {off : Nat} (w : Word) {p : PageRef} (hp : pageAt off = some p) (hl : ¬HalfAt p .lo view off)
    (hh : HalfAt p .hi view off) : s.plainWrite view off w =
      match aget? s.pairHold off with
      | some lo => ({ s with pairHold := aerase s.pairHold off }).writeFlds view (off - 4) lo (p.cls.fieldsAt (off % 0x1000 - 4))
          |>.writeFlds view off w (p.cls.fieldsAt (off % 0x1000))
      | none => s.writeFlds view off w (p.cls.fieldsAt (off % 0x1000)) := by
  unfold State.plainWrite
  rw [hp]
  dsimp only
  rw [if_neg (mt (halfAt_iff p .lo view off).mp hl)]
  exact if_pos ((halfAt_iff p .hi view off).mpr hh)

theorem State.plainWrite_whole (s : State) {view : View} {off : Nat} (w : Word) {p : PageRef} (hp : pageAt off = some p)
    (hl : ¬HalfAt p .lo view off) (hh : ¬HalfAt p .hi view off) :
    s.plainWrite view off w = s.writeFlds view off w (p.cls.fieldsAt (off % 0x1000)) := by
  unfold State.plainWrite
  rw [hp]
  dsimp only
  rw [if_neg (mt (halfAt_iff p .lo view off).mp hl), if_neg (mt (halfAt_iff p .hi view off).mp hh)]

theorem aget?_aerase {α : Type} (l : List (Nat × α)) (k : Nat) : aget? (aerase l k) k = none :=
  aget?_none_of_ne _ _ fun _ hp => bne_iff_ne.mp (List.mem_filter.mp hp).2

theorem RegsOnly.posted {s t : State} (h : RegsOnly s t) : t.posted = s.posted := by
  obtain ⟨r, rfl⟩ := h
  rfl

theorem RegsOnly.pairHold {s t : State} (h : RegsOnly s t) : t.pairHold = s.pairHold := by
  obtain ⟨r, rfl⟩ := h
  rfl

end Sys2Proof.Machine

open Sys2Proof Sys2Proof.Machine Sys2Proof.Claims

theorem Sys2Proof.Claims.registerWritesTakeFieldsOrArePosted : Claims.RegisterWritesTakeFieldsOrArePosted := by
  intro s view off w p h
  refine ⟨fun hc hb => ⟨_, congrArg Host.Outcome.next (h.posts w hc hb), rfl⟩, fun hb hl hh => ?_⟩
  have hw := s.writeFlds_writesWord view w (p.cls.fieldsAt (off % 0x1000)) h.beyond_device
  refine ⟨_, congrArg Host.Outcome.next ((h.applies w hb).trans (s.plainWrite_whole w h.page hl hh)), takesField_of_reg hw.self, ?_,
    hw.frame.sameBytes, hw.frame.sameSeals, hw.frame.posted⟩
  exact fun o ho => hw.other o (fun e => ho (.inl e)) fun e => ho (.inr e)

theorem Sys2Proof.Claims.pairHiWriteCommitsBothHalves : Claims.PairHiWriteCommitsBothHalves := by
  intro s view off w p h hb
  have hbeyond := h.beyond_device
  have hown := h.own
  refine ⟨fun hl => ?_, fun hh hl => ?_⟩
  · refine ⟨_, congrArg Host.Outcome.next ((h.applies w hb).trans (s.plainWrite_lo w h.page hl)), rfl, ?_, fun _ => rfl, fun _ => rfl⟩
    exact aget?_aput_same _ _ _
  · have hex : exec (.pairHiWrite view off w) s = .next (s.plainWrite view off w) := congrArg Host.Outcome.next (h.applies w hb)
    rw [s.plainWrite_hi w h.page hl hh] at hex
    have hne : off - 4 ≠ off := by omega
    have hlow : 0x1000 ≤ off - 4 := by omega
    cases hold : aget? s.pairHold off with
    | none =>
      rw [hold] at hex
      have hw := s.writeFlds_writesWord view w (p.cls.fieldsAt (off % 0x1000)) hbeyond
      refine ⟨_, hex, takesField_of_reg hw.self, nofun, fun _ => hw.other _ hne (not_clamps_of_page hlow), ?_, ?_, hw.frame.sameBytes,
        hw.frame.sameSeals⟩
      · exact fun o ho => hw.other o (fun e => ho (.inr (.inl e))) fun e => ho (.inr (.inr e))
      · rw [hw.frame.pairHold, hold]
    | some lo =>
      rw [hold] at hex
      dsimp only at hex
      generalize hs0 : { s with pairHold := aerase s.pairHold off } = s0 at hex
      have hreg : ∀ o, s0.reg o = s.reg o := fun o => by rw [← hs0]; rfl
      have hlev : s0.level11 = s.level11 := by rw [← hs0]; rfl
      have hbytes : SameBytes s s0 := by rw [← hs0]; exact fun _ => rfl
      have hseals : SameSeals s s0 := by rw [← hs0]; exact fun _ => rfl
      have h1 := s0.writeFlds_writesWord view lo (p.cls.fieldsAt (off % 0x1000 - 4)) hlow
      have h2 := State.writeFlds_writesWord (s0.writeFlds view (off - 4) lo (p.cls.fieldsAt (off % 0x1000 - 4))) view w
        (p.cls.fieldsAt (off % 0x1000)) hbeyond
      have hself := h2.self
      have hself' := (h2.other _ hne (not_clamps_of_page hlow)).trans h1.self
      rw [h1.level11 hlow, h1.other _ hne.symm (not_clamps_of_page hbeyond), hreg, hlev] at hself
      rw [hreg, hlev] at hself'
      have hf := h1.frame.trans h2.frame
      refine ⟨_, hex, takesField_of_reg hself, ?_, nofun, ?_, ?_, ?_, ?_⟩
      · rintro _ ⟨⟩
        exact takesField_of_reg hself'
      · intro o ho
        rw [h2.other o (fun e => ho (.inr (.inl e))) fun e => ho (.inr (.inr e)), h1.other o (fun e => ho (.inl e)) fun e => ho (.inr (.inr e)), hreg]
      · rw [hf.pairHold, ← hs0]
        exact aget?_aerase _ _
      · exact fun a => (hf.sameBytes a).trans (hbytes a)
      · exact fun k => (hf.sameSeals k).trans (hseals k)
end

section
namespace Sys2Proof.Machine

open Sys2Proof.Claims

/-! The power cap (R45). -/

/-- A write of `CAP` is a write of its one field. -/
theorem State.regWrite_cap {s : State} (h : Up s) (w : Word) : s.regWrite .bar0 (pgPower + R.POWER.CAP_W.off) w =
    s.writeFld .bar0 (pgPower + R.POWER.CAP_W.off) w R.POWER.CAP_W := by
  have hp : pageAt (pgPower + R.POWER.CAP_W.off) = some ⟨.power, 0xF, 0xF, 0⟩ := rfl
  have hplain : s.plainWrite .bar0 (pgPower + R.POWER.CAP_W.off) w =
      s.writeFlds .bar0 (pgPower + R.POWER.CAP_W.off) w [R.POWER.CAP_W] :=
    s.plainWrite_whole w hp (by unfold HalfAt; decide) (by unfold HalfAt; decide)
  unfold State.regWrite
  rw [h.alive, hp, h.2.2]
  exact hplain

/-- A numeric range clamps to the nearest of its values. -/
theorem Legal.clamp_range {lo hi : Nat} (h : lo ≤ hi) (v : Nat) : (Legal.range lo hi).clamp v = Nat.max lo (Nat.min hi v) := by
  show (if v < lo then lo else if hi < v then hi else v) = max lo (min hi v)
  split
  · omega
  · split <;> omega

/-- A field that takes its legal value: the count of clamps rises where that is another than the one written. -/
theorem State.writeFld_takes (s : State) {view : View} {off : Nat} {w : Word} {f : Fld} (h : f.takes s.level11 view) :
    s.writeFld view off w f =
      if f.legal.clamp (getBits w f.hi f.lo) = getBits w f.hi f.lo then
        s.setReg off (setBits (s.reg off) f.hi f.lo (f.legal.clamp (getBits w f.hi f.lo)))
      else (s.setReg off (setBits (s.reg off) f.hi f.lo (f.legal.clamp (getBits w f.hi f.lo)))).noteClamp view off := by
  obtain ⟨hacc, hl⟩ := h
  have hlev : (f.l11 && !s.level11) = false := by
    cases hf : f.l11
    · rfl
    · rw [hl hf]; rfl
  unfold State.writeFld
  rw [hlev]
  rcases hacc with ha | ⟨ha, rfl⟩ <;> rw [ha] <;> simp

end Sys2Proof.Machine

open Sys2Proof Sys2Proof.Machine Sys2Proof.Claims

/-- A clamped `CAP` shows the nearest legal wattage; the clamp is counted where one was needed. -/
theorem Sys2Proof.Claims.powerCapTakesNearestLegalValue : Claims.PowerCapTakesNearestLegalValue := by
  intro s w h
  generalize hv : w.toNat % 65536 = v
  generalize hx : Nat.max 1000 (Nat.min 2800 v) = x
  have hvlt : v < 65536 := hv ▸ Nat.mod_lt _ (by decide)
  have hxv : x = max 1000 (min 2800 v) := hx.symm
  have hw := s.writeFld_writesWord .bar0 w R.POWER.CAP_W (off := pgPower + R.POWER.CAP_W.off) (not_clamps_of_page (by decide))
  have key := s.writeFld_takes (view := .bar0) (off := pgPower + R.POWER.CAP_W.off) (w := w) (f := R.POWER.CAP_W) ⟨.inr ⟨rfl, rfl⟩, nofun⟩
  have hbits : getBits w R.POWER.CAP_W.hi R.POWER.CAP_W.lo = v := by
    unfold getBits
    rw [← hv, show R.POWER.CAP_W.lo = 0 from rfl, pow_zero, Nat.div_one]
    rfl
  rw [hbits, show R.POWER.CAP_W.legal.clamp v = x from (Legal.clamp_range (by decide) v).trans hx] at key
  refine ⟨_, congrArg Host.Outcome.next (State.regWrite_cap h w), ?_, ?_, hw.frame.sameBytes, hw.frame.sameSeals⟩
  · have hself : (s.writeFld .bar0 (pgPower + R.POWER.CAP_W.off) w R.POWER.CAP_W).reg (pgPower + R.POWER.CAP_W.off) =
        setBits (s.reg (pgPower + R.POWER.CAP_W.off)) 15 0 x := by
      rw [key]
      split
      · exact State.reg_setReg_self _ _ _
      · exact (State.reg_noteClamp_other _ _ _ _ (not_clamps_of_page (by decide))).trans (State.reg_setReg_self _ _ _)
    show getBits (State.reg _ (pgPower + R.POWER.CAP_W.off)) 15 0 = x
    rw [hself, getBits_setBits_self _ 15 0 _ (by decide) (by decide)]
    exact Nat.mod_eq_of_lt (by omega)
  · split
    · rw [key, if_pos (by omega)]
      exact fun o ho => State.reg_setReg_other _ _ _ _ ho
    · rw [key, if_neg (by omega)]
      have hcount := State.noteClamp_counts (s.setReg (pgPower + R.POWER.CAP_W.off)
        (setBits (s.reg (pgPower + R.POWER.CAP_W.off)) R.POWER.CAP_W.hi R.POWER.CAP_W.lo x)) .bar0
        (off := pgPower + R.POWER.CAP_W.off) (by decide)
      obtain ⟨hc, hview, hoff⟩ := hcount
      refine ⟨hc.trans ?_, hview, hoff, fun o ho => ?_⟩
      · unfold State.rf
        rw [State.reg_setReg_other _ _ _ _ (by decide)]
      · rw [State.reg_noteClamp_other _ _ _ _ fun hcl => ho (.inr hcl), State.reg_setReg_other _ _ _ _ fun e => ho (.inl e)]

namespace Sys2Proof.Machine

/-! Refused accesses (R37). -/

/-- The entry of a logged event is the last of the queue. -/
theorem State.log_queue (s : State) (page code : Nat) (d : List Nat) :
    ∃ q e, (s.log page code d).record.queue = q ++ [e] ∧ e.code = code ∧ e.detail = d ∧ e.seq = s.record.nextSeq :=
  ⟨_, _, rfl, rfl, rfl, rfl⟩

theorem State.log_nextSeq (s : State) (page code : Nat) (d : List Nat) : (s.log page code d).record.nextSeq = s.record.nextSeq + 1 := by
  obtain ⟨r, m, i, bs, q, c, e⟩ := s.log_frame page code d
  rw [e]

theorem State.cause_record (s : State) (page b : Nat) : (s.cause page b).record = s.record := by
  obtain ⟨r, m, i, e⟩ := s.cause_frame page b
  rw [e]

end Sys2Proof.Machine

theorem Sys2Proof.Claims.badAccessIsCounted : Claims.BadAccessIsCounted := by
  intro s view off size isWrite h hbad
  generalize hu : (s.inc pgDevice R.DEVICE.BAD_ACCESS_COUNT).log pgDevice 0x0D01 [off, b2n (view == .bar2), size] = u
  have hex : exec (.badAccess view off size isWrite) s =
      .next { u.cause pgDevice 2 with reply := if isWrite then .none else .word 0 } := by
    have hcond : (!s.alive || (size == 4 && off % 4 == 0 && occupied off)) = false := by
      rw [h.alive]
      by_contra hx
      simp only [Bool.not_true, Bool.false_or, Bool.not_eq_false, Bool.and_eq_true, beq_iff_eq, and_assoc] at hx
      exact hbad hx
    show execBadAccess view off size isWrite s = _
    unfold execBadAccess State.badAccess
    rw [hcond, ← hu]
    rfl
  have hureg : ∀ o, o ≠ pgDevice + R.DEVICE.BAD_ACCESS_COUNT.off → ¬recordReg o → ¬routeReg o → u.reg o = s.reg o := fun o ho hr hi => by
    rw [← hu, State.reg_log_other _ _ _ _ _ hr hi, State.reg_inc_other _ _ _ _ _ ho]
  have hrec := u.cause_record pgDevice 2
  have hreg : ∀ o, State.reg { u.cause pgDevice 2 with reply := if isWrite then .none else .word 0 } o = (u.cause pgDevice 2).reg o :=
    fun _ => rfl
  obtain ⟨r, m, i, bs, q, c, hf⟩ := (s.inc pgDevice R.DEVICE.BAD_ACCESS_COUNT).log_frame pgDevice 0x0D01 [off, b2n (view == .bar2), size]
  rw [hu] at hf
  obtain ⟨r', m', i', hf'⟩ := u.cause_frame pgDevice 2
  refine ⟨_, hex, ?_, ?_, ?_, ?_, ?_, ?_, ?_, ?_⟩
  · have hcount : u.rf pgDevice R.DEVICE.BAD_ACCESS_COUNT = up32 (s.rf pgDevice R.DEVICE.BAD_ACCESS_COUNT) := by
      refine Eq.trans ?_ (s.rf_inc_self pgDevice R.DEVICE.BAD_ACCESS_COUNT 0 (by decide) (by decide))
      unfold State.rf
      rw [← hu, State.reg_log_other _ _ _ _ _ (by decide) (by decide)]
    refine Eq.trans ?_ hcount
    unfold State.rf
    rw [hreg, State.reg_cause_other _ _ _ _ (by decide) (by decide)]
  · show (u.cause pgDevice 2).record.nextSeq = _
    rw [hrec, ← hu, State.log_nextSeq]
    rfl
  · obtain ⟨q, e, hq, hcode, hd, hseq⟩ := (s.inc pgDevice R.DEVICE.BAD_ACCESS_COUNT).log_queue pgDevice 0x0D01 [off, b2n (view == .bar2), size]
    refine ⟨e, hcode, hd, hseq, ?_⟩
    show e ∈ (u.cause pgDevice 2).record.queue
    rw [hrec, ← hu, hq]
    exact List.mem_append_right _ List.mem_cons_self
  · exact u.cause_set pgDevice 2 (by decide) (by decide)
  · rintro rfl
    rfl
  · intro o h1 h2 h3 h4
    rw [hreg, State.reg_cause_other _ _ _ _ h2 h4, hureg o h1 h3 h4]
  · rw [hf', hf]
    exact fun _ => rfl
  · rw [hf', hf]
    exact fun _ => rfl
end

section
namespace Sys2Proof.Machine

open Sys2Proof.Claims

/-! Reads of pairs (R38). -/

/-- A half of a pair lies on a page with that half among its fields. -/
theorem pairHalf_page {part : Part} {off : Nat} (h : pairHalf part off = true) :
    ∃ p, pageAt off = some p ∧ ∃ f ∈ p.cls.fieldsAt (off % 0x1000), f.part = part := by
  unfold pairHalf at h
  split at h
  · rename_i p hp
    simp only [Bool.and_eq_true, List.any_eq_true, beq_iff_eq] at h
    exact ⟨p, hp, h.2⟩
  · exact nomatch h

/-- No register holds halves of both kinds. -/
theorem pairHalf_lo_not_hi {off : Nat} (h : pairHalf .lo off = true) : pairHalf .hi off = false := by
  obtain ⟨p, hp, f, hf, hlo⟩ := pairHalf_page h
  by_contra hx
  obtain ⟨p', hp', g, hg, hhi⟩ := pairHalf_page (Bool.not_eq_false _ ▸ hx : pairHalf .hi off = true)
  obtain rfl : p = p' := Option.some.inj (hp.symm.trans hp')
  obtain ⟨hfm, hfo⟩ := Cls.mem_fieldsAt.mp hf
  obtain ⟨hgm, hgo⟩ := Cls.mem_fieldsAt.mp hg
  have := Fld.elsewhere_at? (p.cls.halves_elsewhere f hfm hlo g hgm hhi) hfo
  rw [hgo] at this
  exact nomatch this

/-- The registers of a controller and of the CLOCK page that show free values. -/
def showsFree (off : Nat) : Prop :=
  ∃ p, pageAt off = some p ∧ p.cls ∈ [Cls.stackCtl, .tierbCtl, .clock] ∧ (off % 0x1000 = 0x108 ∨ off % 0x1000 = 0x10C)

/-- A read of any other register draws nothing. -/
theorem State.regRead_eq (s : State) (view : View) {off : Nat} (h : ¬showsFree off) : s.regRead view off = (s.regWord view off, s) := by
  unfold State.regRead
  cases hp : pageAt off with
  | none =>
    unfold State.regWord
    rw [hp]
  | some p =>
    have hcls : p.cls ∈ [Cls.stackCtl, .tierbCtl, .clock] → off % 0x1000 ≠ 0x108 ∧ off % 0x1000 ≠ 0x10C := fun hc =>
      not_or.mp fun ho => h ⟨p, hp, hc, ho⟩
    have hfree : s.freeRead p.cls (0x1000 * (off / 0x1000)) (off % 0x1000) = false := by
      unfold State.freeRead
      by_cases hc : p.cls = .stackCtl ∨ p.cls = .tierbCtl
      · obtain ⟨h1, h2⟩ := hcls (by simp only [List.mem_cons]; tauto)
        rw [show (off % 0x1000 == R.CTL.TAGS_PEAK.off) = false from beq_eq_false_iff_ne.mpr h1,
          show (off % 0x1000 == R.CTL.LATENCY_NS.off) = false from beq_eq_false_iff_ne.mpr h2]
        simp
      · obtain ⟨h1, h2⟩ := not_or.mp hc
        rw [beq_eq_false_iff_ne.mpr h1, beq_eq_false_iff_ne.mpr h2]
        rfl
    have hppm : (p.cls == .clock && off % 0x1000 == R.CLOCK.REFCLK_PPM.off) = false := by
      by_contra hx
      simp only [Bool.not_eq_false, Bool.and_eq_true, beq_iff_eq] at hx
      exact (hcls (by rw [hx.1]; decide)).1 hx.2
    dsimp only
    rw [hfree, Bool.and_false, Bool.and_assoc (s.readable view p), hppm, Bool.and_false]
    rfl

/-- No half of a pair and no register behind a LO half shows a free value. -/
theorem pairHalf_not_showsFree {part : Part} {off : Nat} (h : pairHalf part off = true) (hp : part ≠ .whole) : ¬showsFree off := by
  rintro ⟨p, hpa, hc, ho⟩
  obtain ⟨p', hpa', f, hf, hpart⟩ := pairHalf_page h
  obtain rfl : p = p' := Option.some.inj (hpa.symm.trans hpa')
  have hwhole : ∀ c ∈ [Cls.stackCtl, .tierbCtl, .clock], ∀ o ∈ [0x108, 0x10C], ∀ f ∈ c.fieldsAt o, f.part = .whole := by decide
  exact hp (hpart.symm.trans (hwhole p.cls hc _ (by simpa using ho) f hf))

theorem pairHalf_next_not_showsFree {off : Nat} (h : pairHalf .lo off = true) : ¬showsFree (off + 4) := by
  rintro ⟨p, hpa, hc, ho⟩
  obtain ⟨p', hpa', f, hf, hpart⟩ := pairHalf_page h
  have hsame : pageAt (off + 4) = pageAt off := by
    unfold pageAt
    rw [show (off + 4) / 0x1000 = off / 0x1000 by omega]
  obtain rfl : p = p' := Option.some.inj (hpa.symm.trans (hsame.trans hpa'))
  have hwhole : ∀ c ∈ [Cls.stackCtl, .tierbCtl, .clock], ∀ o ∈ [0x104, 0x108], ∀ f ∈ c.fieldsAt o, f.part = .whole := by decide
  have := hwhole p.cls hc (off % 0x1000) (by simp only [List.mem_cons]; omega) f hf
  rw [hpart] at this
  exact nomatch this

theorem State.watchWord_reply (s : State) (r : Reply) (q o role entry : Nat) :
    State.watchWord { s with reply := r } q o role entry = s.watchWord q o role entry := by
  unfold State.watchWord
  rfl

theorem State.watchRead_reply (s : State) (r : Reply) (q off : Nat) : State.watchRead { s with reply := r } q off = s.watchRead q off := by
  unfold State.watchRead
  simp only [State.watchWord_reply]
  rfl

theorem State.liveRead_reply (s : State) (r : Reply) (p : PageRef) (q : Nat) : State.liveRead { s with reply := r } p q = s.liveRead p q := by
  unfold State.liveRead
  simp only [State.watchRead_reply]
  rfl

/-- What a register shows does not depend on the last answer. -/
theorem State.regWord_reply (s : State) (r : Reply) (view : View) (off : Nat) : State.regWord { s with reply := r } view off = s.regWord view off := by
  unfold State.regWord
  simp only [State.liveRead_reply]
  rfl

end Sys2Proof.Machine

open Sys2Proof Sys2Proof.Machine Sys2Proof.Claims

theorem Sys2Proof.Claims.pairReadLatchesHighHalf : Claims.PairReadLatchesHighHalf := by
  intro s view off h h4 hocc hread
  have hbus : s.busRead view off =
      if pairHalf .hi off && (aget? s.pairRead off).isSome then
        { s with reply := .word (aget s.pairRead off 0), pairRead := aerase s.pairRead off }
      else
        let r := s.regRead view off
        let s := { r.2 with reply := .word (BitVec.ofNat 32 r.1) }
        if pairHalf .lo off then
          let h := s.regRead view (off + 4)
          { h.2 with pairRead := aput h.2.pairRead (off + 4) (BitVec.ofNat 32 h.1) }
        else s := by
    unfold State.busRead
    simp only [h.alive, h4, hocc, hread, Bool.not_true, Bool.false_eq_true, if_false, bne_self_eq_false, Bool.or_self]
  refine ⟨fun hlo => ?_, fun hhi w hw => ?_, fun hhi hw => ?_⟩
  · have hhi := pairHalf_lo_not_hi hlo
    rw [hhi, Bool.false_and, if_neg Bool.false_ne_true, s.regRead_eq view (pairHalf_not_showsFree hlo nofun)] at hbus
    dsimp only at hbus
    rw [if_pos hlo, State.regRead_eq _ view (pairHalf_next_not_showsFree hlo), State.regWord_reply] at hbus
    exact ⟨_, congrArg Host.Outcome.next hbus, rfl, aget?_aput_same _ _ _, rfl, rfl, rfl⟩
  · rw [hhi, hw] at hbus
    refine ⟨_, congrArg Host.Outcome.next hbus, ?_, aget?_aerase _ _, rfl, rfl, rfl⟩
    show Reply.word (aget s.pairRead off 0) = _
    unfold aget
    rw [hw]
    rfl
  · have hlo : pairHalf .lo off = false := by
      by_contra hx
      rw [pairHalf_lo_not_hi (Bool.not_eq_false _ ▸ hx)] at hhi
      exact nomatch hhi
    rw [hw, Option.isSome_none, Bool.and_false, if_neg Bool.false_ne_true, s.regRead_eq view (pairHalf_not_showsFree hhi nofun), hlo] at hbus
    exact congrArg Host.Outcome.next hbus

namespace Sys2Proof.Machine

/-! BAR4 (R32, R50). -/

theorem State.bar4Word_setBar4_self (s : State) (o : Nat) (w : Word) : (s.setBar4 o w).bar4Word o = w :=
  aget?_acanon_same s.host.bar4 o w (bar4Reset o)

theorem State.bar4Word_setBar4_other (s : State) (o k : Nat) (w : Word) (h : k ≠ o) : (s.setBar4 o w).bar4Word k = s.bar4Word k := by
  unfold State.bar4Word State.setBar4
  rw [aget?_acanon_other _ _ _ _ _ h]

end Sys2Proof.Machine

theorem Sys2Proof.Claims.bar4HoldsTheMsixTable : Claims.Bar4HoldsTheMsixTable := by
  intro s o w h h4
  have hlive : (s.alive && !s.power.stopped) = true := by rw [h.alive, h.2.2]; rfl
  have hwrite : exec (.registerWrite .bar4 o w) s = .next (s.writeBar4 o w) := by
    show Host.Outcome.next (if s.alive && !s.power.stopped then s.writeBar4 o w else s) = _
    rw [if_pos hlive]
  refine ⟨fun ho h12 => ?_, fun h1 h2 => ?_, fun ho => ?_⟩
  · have hset : s.writeBar4 o w = s.setBar4 o (if o % 16 == 0 then setBits w 1 0 0 else w) := by
      unfold State.writeBar4 State.writeMsix
      rw [h4, beq_eq_false_iff_ne.mpr h12, if_pos (show o < pbaBase from ho)]
      rfl
    refine ⟨_, hwrite.trans (congrArg _ hset), ?_, fun k hk => s.bar4Word_setBar4_other o k _ hk, rfl, rfl, fun _ => rfl, fun _ => rfl⟩
    rw [State.bar4Word_setBar4_self]
    simp only [beq_iff_eq]
  · rw [hwrite]
    unfold State.writeBar4
    rw [h4, if_neg (show ¬o < pbaBase by unfold pbaBase; omega), if_pos (show o < compBase by unfold compBase; omega)]
    rfl
  · have hread : s.readBar4 o = ((s.bar4Word o).toNat, s) := by
      unfold State.readBar4
      rw [h4, decide_eq_false (show ¬0x20000 ≤ o by omega), if_pos (show o < pbaBase from ho)]
      rfl
    show Host.Outcome.next (if s.alive then { (s.readBar4 o).2 with reply := .word (BitVec.ofNat 32 (s.readBar4 o).1) } else s) = _
    rw [if_pos h.alive, hread, BitVec.ofNat_toNat, BitVec.setWidth_eq]

/-- Settles O5: a write of a register is a write of each of its fields, whose bits are apart (`Cls.fieldsAt_apart`). -/
theorem Sys2Proof.Claims.registerAccess : Obligations.RegisterAccess :=
  ⟨powerCapTakesNearestLegalValue, registerWritesTakeFieldsOrArePosted, badAccessIsCounted, pairReadLatchesHighHalf,
    pairHiWriteCommitsBothHalves, bar4HoldsTheMsixTable⟩
end

section
/-! PROOFS. Sealed writes of memory: what they leave, and what reads back (R243, R314, R378 to R383). -/

namespace Sys2Proof.Machine

open Sys2Proof.Claims

/-! Frames of memory writes. -/

/-- Two states differ in memory, its seals, the traffic and what the host port waits for. -/
def MemOnly (s t : State) : Prop := ∃ m tr h q, t = { s with mem := m, traffic := tr, host := h, seals := q }

theorem MemOnly.refl (s : State) : MemOnly s s := ⟨s.mem, s.traffic, s.host, s.seals, rfl⟩

theorem MemOnly.trans {s t u : State} (h : MemOnly s t) (g : MemOnly t u) : MemOnly s u := by
  obtain ⟨m, tr, p, q, rfl⟩ := h
  obtain ⟨m', tr', p', q', rfl⟩ := g
  exact ⟨m', tr', p', q', rfl⟩

theorem State.put_memOnly (s : State) (a : Nat) (b : List Byte) : MemOnly s (s.put a b) := by
  unfold State.put State.cacheUse
  split <;> exact ⟨_, _, _, _, rfl⟩

/-- Resealing changes seals alone. -/
theorem State.reseal_frame (s : State) (a len : Nat) : ∃ q, s.reseal a len = { s with seals := q } := by
  unfold State.reseal
  generalize blocksOf a len = l
  induction l generalizing s with
  | nil => exact ⟨s.seals, rfl⟩
  | cons k l ih =>
    rw [List.foldl_cons]
    split
    · exact ih s
    · obtain ⟨q, e⟩ := ih (s.setSeal k (s.sealOf k))
      exact ⟨q, e⟩

theorem State.putSealed_memOnly (s : State) (a : Nat) (b : List Byte) : MemOnly s (s.putSealed a b) := by
  obtain ⟨q, e⟩ := (s.put a b).reseal_frame a b.length
  unfold State.putSealed
  rw [e]
  exact (s.put_memOnly a b).trans ⟨_, _, _, q, rfl⟩

theorem MemOnly.reg {s t : State} (h : MemOnly s t) (o : Nat) : t.reg o = s.reg o := by
  obtain ⟨m, tr, p, q, rfl⟩ := h
  rfl

theorem MemOnly.task? {s t : State} (h : MemOnly s t) (n : Nat) : t.task? n = s.task? n := by
  obtain ⟨m, tr, p, q, rfl⟩ := h
  rfl

theorem MemOnly.record {s t : State} (h : MemOnly s t) : t.record = s.record := by
  obtain ⟨m, tr, p, q, rfl⟩ := h
  rfl

/-! Bytes. -/

theorem State.byte_reseal (s : State) (a len x : Nat) : (s.reseal a len).byte x = s.byte x := by
  obtain ⟨q, e⟩ := s.reseal_frame a len
  rw [e]
  rfl

theorem State.byte_putSealed_same (s : State) (a : Nat) (b : List Byte) (i : Nat) (h : i < b.length) : (s.putSealed a b).byte (a + i) = b[i] := by
  unfold State.putSealed
  rw [State.byte_reseal, State.byte_put_same s a b i h]

theorem State.byte_putSealed_other (s : State) (a : Nat) (b : List Byte) (x : Nat) (h : x < a ∨ a + b.length ≤ x) :
    (s.putSealed a b).byte x = s.byte x := by
  unfold State.putSealed
  rw [State.byte_reseal, State.byte_put_other s a b x h]

/-- The bytes of a run whose every byte is known. -/
theorem State.bytes_eq_of {s : State} {a : Nat} {b : List Byte} (h : ∀ i (hi : i < b.length), s.byte (a + i) = b[i]) : s.bytes a b.length = b := by
  rw [State.bytes_eq]
  refine List.ext_getElem (by simp) fun i h1 h2 => ?_
  rw [List.getElem_map, List.getElem_range]
  exact h i h2

/-! Seals. -/

theorem State.sealEntry_reseal_other (s : State) (a len k : Nat) (h : k ∉ blocksOf a len) : (s.reseal a len).sealEntry k = s.sealEntry k := by
  unfold State.reseal
  generalize blocksOf a len = l at h
  induction l generalizing s with
  | nil => rfl
  | cons j l ih =>
    obtain ⟨hj, hl⟩ := not_or.mp (mt List.mem_cons.mpr h)
    rw [List.foldl_cons, ih _ hl]
    split
    · rfl
    · exact State.sealEntry_setSeal_other _ _ _ _ hj

theorem State.sealEntry_put (s : State) (a : Nat) (b : List Byte) (k : Nat) : (s.put a b).sealEntry k = s.sealEntry k := by
  unfold State.put State.cacheUse
  split <;> rfl

/-- A sealed write changes memory and seals in its own range alone. -/
theorem State.putSealed_onlyIn (s : State) (a : Nat) (b : List Byte) : OnlyIn s (s.putSealed a b) [(a, b.length)] := by
  refine ⟨fun x hx => s.byte_putSealed_other a b x (hx _ List.mem_cons_self), fun k hk => ?_⟩
  unfold State.putSealed
  rw [State.sealEntry_reseal_other _ _ _ _ (hk _ List.mem_cons_self), State.sealEntry_put]

end Sys2Proof.Machine

namespace Sys2Proof.Claims

open Machine

theorem OnlyIn.trans {s t u : State} {rs rs' : List (Nat × Nat)} (h : OnlyIn s t rs) (g : OnlyIn t u rs') : OnlyIn s u (rs ++ rs') :=
  ⟨fun a ha => (g.1 a fun r hr => ha r (List.mem_append_right _ hr)).trans (h.1 a fun r hr => ha r (List.mem_append_left _ hr)),
    fun k hk => (g.2 k fun r hr => hk r (List.mem_append_right _ hr)).trans (h.2 k fun r hr => hk r (List.mem_append_left _ hr))⟩

/-- Where nothing more of memory and no seal changes, the same ranges hold. -/
theorem OnlyIn.same {s t u : State} {rs : List (Nat × Nat)} (h : OnlyIn s t rs) (hb : SameBytes t u) (hs : SameSeals t u) : OnlyIn s u rs :=
  ⟨fun a ha => (hb a).trans (h.1 a ha), fun k hk => (hs k).trans (h.2 k hk)⟩

end Sys2Proof.Claims

namespace Sys2Proof.Machine

open Sys2Proof.Claims

/-! Vectors over whole blocks (R243). -/

theorem le_up4k (n : Nat) : n ≤ up4k n := by
  unfold up4k
  omega

theorem fill4k_length (b : List Byte) : (fill4k b).length = up4k b.length := by
  have := le_up4k b.length
  unfold fill4k
  rw [List.length_append, List.length_replicate]
  omega

theorem flatMap_leBytes_length (l : List Nat) (n : Nat) : (l.flatMap (leBytes n)).length = n * l.length := by
  induction l with
  | nil => rfl
  | cons x l ih => rw [List.flatMap_cons, List.length_append, leBytes_length, ih, List.length_cons, Nat.mul_succ, Nat.add_comm]

theorem State.putVec_onlyIn (s : State) (a : Nat) (b : List Byte) : OnlyIn s (s.putVec a b) [(a, up4k b.length)] := by
  rw [← fill4k_length]
  exact s.putSealed_onlyIn a (fill4k b)

/-- A vector reads back as written. -/
theorem State.byte_putVec_same (s : State) (a : Nat) (b : List Byte) (i : Nat) (h : i < b.length) : (s.putVec a b).byte (a + i) = b[i] := by
  have hf : i < (fill4k b).length := by rw [fill4k_length]; exact lt_of_lt_of_le h (le_up4k _)
  rw [State.putVec, State.byte_putSealed_same _ _ _ _ hf]
  exact List.getElem_append_left h

/-! Headers patched (Table 9-4). -/

theorem patch_length {b v : List Byte} {at_ : Nat} (h : at_ + v.length ≤ b.length) : (patch b at_ v).length = b.length := by
  unfold patch
  simp only [List.length_append, List.length_take, List.length_drop]
  omega

/-- Bytes patched read as given, the others as before. -/
theorem nth_patch {b v : List Byte} {at_ : Nat} (h : at_ + v.length ≤ b.length) (i : Nat) (d : Byte) :
    nth (patch b at_ v) i d = if at_ ≤ i ∧ i < at_ + v.length then nth v (i - at_) d else nth b i d := by
  have ht : (b.take at_).length = at_ := by rw [List.length_take]; omega
  unfold nth patch
  by_cases h1 : i < at_
  · rw [if_neg (by omega), List.append_assoc, List.getElem?_append_left (by omega), List.getElem?_take_of_lt h1]
  · by_cases h2 : i < at_ + v.length
    · rw [if_pos (by omega), List.getElem?_append_left (by rw [List.length_append]; omega), List.getElem?_append_right (by omega), ht]
    · rw [if_neg (by omega), List.getElem?_append_right (by rw [List.length_append]; omega), List.length_append, ht, List.getElem?_drop]
      congr 2
      omega

end Sys2Proof.Machine
end

section
namespace Sys2Proof.Machine

open Sys2Proof.Claims

/-! The state header written (Table 9-4, R233). -/

/-- Bytes patched one after another: the last patch that covers a byte gives it. -/
theorem nth_foldl_patch {ps : List (Nat × List Byte)} {b : List Byte} (h : ∀ p ∈ ps, p.1 + p.2.length ≤ b.length) (i : Nat) (d : Byte) :
    (ps.foldl (fun b p => patch b p.1 p.2) b).length = b.length ∧
      nth (ps.foldl (fun b p => patch b p.1 p.2) b) i d =
        ps.foldl (fun r p => if p.1 ≤ i ∧ i < p.1 + p.2.length then nth p.2 (i - p.1) d else r) (nth b i d) := by
  induction ps generalizing b with
  | nil => exact ⟨rfl, rfl⟩
  | cons p ps ih =>
    obtain ⟨hp, hps⟩ := List.forall_mem_cons.mp h
    have hlen := patch_length hp
    obtain ⟨h1, h2⟩ := ih (b := patch b p.1 p.2) fun q hq => hlen.symm ▸ hps q hq
    exact ⟨h1.trans hlen, h2.trans (by rw [nth_patch hp, List.foldl_cons])⟩

theorem nth_bytes (s : State) {a n i : Nat} (h : i < n) (d : Byte) : nth (s.bytes a n) i d = s.byte (a + i) := by
  unfold nth
  rw [State.bytes_eq, List.getElem?_map, List.getElem?_range h]
  rfl

/-- The state header written with fields replaced. -/
theorem State.byte_writeHead (s : State) (x : UpdOp) {ps : List (Nat × List Byte)} (h : ∀ p ∈ ps, p.1 + p.2.length ≤ 4096) {i : Nat} (hi : i < 4096) :
    (s.writeHead x ps).byte (x.state + i) =
      ps.foldl (fun r p => if p.1 ≤ i ∧ i < p.1 + p.2.length then nth p.2 (i - p.1) 0 else r) (s.byte (x.state + i)) := by
  obtain ⟨hlen, hnth⟩ := nth_foldl_patch (b := s.bytes x.state 4096) (by simpa using h) i 0
  rw [State.bytes_length] at hlen
  unfold State.writeHead
  rw [State.byte_putSealed_same _ _ _ i (by rw [hlen]; exact hi), ← nth_bytes s hi 0, ← hnth, nth, List.getElem?_eq_getElem (by rw [hlen]; exact hi)]
  rfl

theorem State.writeHead_onlyIn (s : State) (x : UpdOp) {ps : List (Nat × List Byte)} (h : ∀ p ∈ ps, p.1 + p.2.length ≤ 4096) :
    OnlyIn s (s.writeHead x ps) [(x.state, 4096)] := by
  obtain ⟨hlen, -⟩ := nth_foldl_patch (b := s.bytes x.state 4096) (by simpa using h) 0 0
  have := s.putSealed_onlyIn x.state (ps.foldl (fun b p => patch b p.1 p.2) (s.bytes x.state 4096))
  rw [hlen, State.bytes_length] at this
  exact this

/-- A number read where its bytes stand. -/
theorem State.num_of_bytes {s : State} {a n v : Nat} (h : ∀ i, i < n → s.byte (a + i) = nth (leBytes n v) i 0) : s.num a n = v % 256 ^ n := by
  have hb : s.bytes a n = leBytes n v := by
    have := State.bytes_eq_of (s := s) (a := a) (b := leBytes n v) fun i hi => by
      rw [h i (by simpa using hi), nth, List.getElem?_eq_getElem hi]
      rfl
    rwa [leBytes_length] at this
  unfold State.num
  rw [hb, leNat_leBytes]

/-- The hold fields of a layer's header (R233): the byte of reasons, step and rate take their values, every other byte stays. -/
theorem State.writeHead_hold (s : State) (x : UpdOp) (reasons step eta : Nat) :
    let t := s.writeHead x [(3, leBytes 1 reasons), (32, leBytes 8 step), (40, leBytes 4 eta)]
    t.byte (x.state + 3) = BitVec.ofNat 8 reasons ∧ t.num (x.state + 32) 8 = step % 2 ^ 64 ∧ t.num (x.state + 40) 4 = eta % 2 ^ 32 ∧
      SameOutside s t [(x.state + 3, 1), (x.state + 32, 12)] ∧ OnlyIn s t [(x.state, 4096)] := by
  have hfit : ∀ p ∈ [(3, leBytes 1 reasons), (32, leBytes 8 step), (40, leBytes 4 eta)], p.1 + p.2.length ≤ 4096 := by simp
  have hbyte := fun {i : Nat} (hi : i < 4096) => s.byte_writeHead x hfit hi
  have honly := s.writeHead_onlyIn x hfit
  simp only [List.foldl_cons, List.foldl_nil, leBytes_length] at hbyte
  refine ⟨?_, ?_, ?_, ?_, honly⟩
  · rw [hbyte (by decide), if_neg (by decide), if_neg (by decide), if_pos (by decide)]
    rfl
  · refine State.num_of_bytes fun i hi => ?_
    rw [Nat.add_assoc, hbyte (by omega), if_neg (by omega), if_pos (by omega), Nat.add_sub_cancel_left]
  · refine State.num_of_bytes fun i hi => ?_
    rw [Nat.add_assoc, hbyte (by omega), if_pos (by omega), Nat.add_sub_cancel_left]
  · intro a ha
    by_cases hin : x.state ≤ a ∧ a < x.state + 4096
    · obtain ⟨i, rfl⟩ := Nat.exists_eq_add_of_le hin.1
      have h1 := ha (x.state + 3, 1) (by simp)
      have h2 := ha (x.state + 32, 12) (by simp)
      dsimp only at h1 h2
      rw [hbyte (by omega), if_neg (by omega), if_neg (by omega), if_neg (by omega)]
    · refine honly.1 a fun r hr => ?_
      obtain rfl := List.mem_singleton.mp hr
      dsimp only
      omega

/-! Signals: causes, logged events and counts. -/

/-- Two states differ in registers, in what a raised vector changes, and in the event record. -/
def SignalsOnly (s t : State) : Prop :=
  ∃ r m i e, t = { s with regs := r, host := { s.host with msix := m, moderating := i }, record := e }

theorem SignalsOnly.refl (s : State) : SignalsOnly s s := ⟨s.regs, s.host.msix, s.host.moderating, s.record, rfl⟩

theorem SignalsOnly.trans {s t u : State} (h : SignalsOnly s t) (g : SignalsOnly t u) : SignalsOnly s u := by
  obtain ⟨r, m, i, e, rfl⟩ := h
  obtain ⟨r', m', i', e', rfl⟩ := g
  exact ⟨r', m', i', e', rfl⟩

theorem RegsOnly.signalsOnly {s t : State} (h : RegsOnly s t) : SignalsOnly s t := by
  obtain ⟨r, rfl⟩ := h
  exact ⟨r, _, _, _, rfl⟩

theorem State.cause_signalsOnly (s : State) (page b : Nat) : SignalsOnly s (s.cause page b) := by
  obtain ⟨r, m, i, e⟩ := s.cause_frame page b
  exact ⟨r, m, i, s.record, e⟩

theorem State.log_signalsOnly (s : State) (page code : Nat) (d : List Nat) : SignalsOnly s (s.log page code d) := by
  obtain ⟨r, m, i, bs, q, c, e⟩ := s.log_frame page code d
  exact ⟨r, m, i, _, e⟩

theorem SignalsOnly.sameBytes {s t : State} (h : SignalsOnly s t) : SameBytes s t := by
  obtain ⟨r, m, i, e, rfl⟩ := h
  exact fun _ => rfl

theorem SignalsOnly.sameSeals {s t : State} (h : SignalsOnly s t) : SameSeals s t := by
  obtain ⟨r, m, i, e, rfl⟩ := h
  exact fun _ => rfl

theorem SignalsOnly.task? {s t : State} (h : SignalsOnly s t) (n : Nat) : t.task? n = s.task? n := by
  obtain ⟨r, m, i, e, rfl⟩ := h
  rfl

theorem SignalsOnly.upd? {s t : State} (h : SignalsOnly s t) (n : Nat) : t.upd? n = s.upd? n := by
  obtain ⟨r, m, i, e, rfl⟩ := h
  rfl

/-- A record with the entry of an event shows it as logged. -/
theorem logged_of_record {s t u : State} {page code : Nat} {d : List Nat} (hs : t.record = s.record)
    (h : u.record = (t.log page code d).record) : Logged s u code d := by
  obtain ⟨q, e, hq, hcode, hd, hseq⟩ := t.log_queue page code d
  refine ⟨?_, e, hcode, hd, ?_, .inl ?_⟩
  · rw [h, State.log_nextSeq, hs]
    exact Nat.lt_succ_self _
  · rw [hseq, hs]
  · rw [h, hq]
    exact List.mem_append_right _ List.mem_cons_self

end Sys2Proof.Machine
end

section
/-! PROOFS. The waits of an UPDATE at its engine: its tag, `HOLD_REQ` and the checkpoint interlock (R231, R232, R234, R239). -/

namespace Sys2Proof.Machine

open Sys2Proof.Claims

/-! The page of an engine. -/

theorem pgUpdate_range (e : Engine) : pgUpdate e % 0x1000 = 0 ∧ 0x400000 ≤ pgUpdate e ∧ pgUpdate e + 0x1000 ≤ 0x1400000 := by
  unfold pgUpdate pgGradDie quadBase
  omega

/-- A register of the page is one of the dies, and none that reports. -/
theorem update_ofDies (e : Engine) {o : Nat} (h : o < 0x1000) : OfDies (pgUpdate e + o) := by
  have := pgUpdate_range e
  exact .inl ⟨by omega, by omega⟩

theorem update_not_record (e : Engine) (o : Nat) : ¬recordReg (pgUpdate e + o) := by
  have := pgUpdate_range e
  unfold recordReg pgRecord
  omega

theorem update_not_route (e : Engine) (o : Nat) : ¬routeReg (pgUpdate e + o) := by
  have := pgUpdate_range e
  unfold routeReg pgIntroute
  omega

theorem not_record_of_ofDies {o : Nat} (h : ¬OfDies o) : ¬recordReg o := fun hr => h (.inr (.inr (.inl hr)))

theorem not_route_of_ofDies {o : Nat} (h : ¬OfDies o) : ¬routeReg o := fun hr => h (.inr (.inr (.inr hr)))

theorem ne_of_not_ofDies {o : Nat} (h : ¬OfDies o) (e : Engine) {x : Nat} (hx : x < 0x1000) : o ≠ pgUpdate e + x := by
  rintro rfl
  exact h (update_ofDies e hx)

/-- An event logged at an engine's page changes registers that report it. -/
theorem State.log_sameRegs (s : State) (page code : Nat) (d : List Nat) : SameRegs s (s.log page code d) OfDies := fun _ ho =>
  State.reg_log_other _ _ _ _ _ (not_record_of_ofDies ho) (not_route_of_ofDies ho)

/-! Tasks. -/

/-- A task replaced is found under its number. -/
theorem State.task?_setTask {s : State} {n : Nat} {t t' : Task} (h : s.task? n = some t) (hs : t'.seq = t.seq) :
    (s.setTask t').task? n = some t' := by
  have hcomp : ((fun u : Task => u.seq == n) ∘ fun u => if u.seq == t'.seq then t' else u) = fun u => u.seq == n := by
    funext u
    dsimp only [Function.comp]
    split
    · rename_i hu
      rw [beq_iff_eq.mp hu]
    · rfl
  unfold State.task? State.setTask at *
  rw [List.find?_map, hcomp, h, Option.map_some, hs, beq_self_eq_true, if_pos rfl]

theorem task?_mem {s : State} {n : Nat} {t : Task} (h : s.task? n = some t) : t ∈ s.tasks ∧ t.seq = n := by
  unfold State.task? at h
  have hs := List.find?_some h
  exact ⟨List.mem_of_find?_eq_some h, beq_iff_eq.mp hs⟩

/-! The end of an UPDATE (R244, R247). -/

theorem RegsOnly.record {s t : State} (h : RegsOnly s t) : t.record = s.record := by
  obtain ⟨r, rfl⟩ := h
  rfl

/-- What the end of an UPDATE counts and causes at its page, by its status. -/
def State.endCounts (s : State) (page status : Nat) : State :=
  if status == stHeld then (s.inc page R.UPDATE.HELD_COUNT).cause page 1
  else if status == stAborted then s.cause page 0
  else if status == stStale then (s.inc page R.UPDATE.STALE_COUNT).cause page 2
  else if status == stTimeout then (s.inc page R.UPDATE.TIMEOUT_COUNT).cause page 3 else s

/-- The engine is idle and shows no task. -/
def State.idleUpd (s : State) (e : Nat) : State :=
  ({ s with upds := aerase s.upds e }).wfs (pgUpdate e) [(R.UPDATE.ENGINE_STATE_STATE, 0), (R.UPDATE.CUR_TASK, 0xFFFFFFFF)]

theorem State.endUpd_eq (s : State) (e : Nat) (t : Task) (x : UpdOp) (u : Upd) (f : UpdEnd) :
    s.endUpd e t x u f = ((s.idleUpd e).endCounts (pgUpdate e) f.status).endTask t f.status f.code f.event (e % 2) (updPosts x u f e) := rfl

/-- The statuses in which an UPDATE waits in vain, each with its count and its cause (Table 9-8). -/
def waitEnds : List (Nat × Fld × Nat) := [(stHeld, R.UPDATE.HELD_COUNT, 1), (stStale, R.UPDATE.STALE_COUNT, 2), (stTimeout, R.UPDATE.TIMEOUT_COUNT, 3)]

theorem State.endCounts_eq (s : State) (page : Nat) {w : Nat × Fld × Nat} (h : w ∈ waitEnds) :
    s.endCounts page w.1 = (s.inc page w.2.1).cause page w.2.2 := by
  simp only [waitEnds, List.mem_cons, List.not_mem_nil, or_false] at h
  unfold State.endCounts
  rcases h with rfl | rfl | rfl
  · exact if_pos rfl
  · exact (if_neg (by decide)).trans ((if_neg (by decide)).trans (if_pos rfl))
  · exact (if_neg (by decide)).trans ((if_neg (by decide)).trans ((if_neg (by decide)).trans (if_pos rfl)))

theorem waitEnds_fld {w : Nat × Fld × Nat} (h : w ∈ waitEnds) :
    w.2.1.lo = 0 ∧ w.2.1.hi = 31 ∧ w.2.1.stride = 0 ∧ 0x120 ≤ w.2.1.off ∧ w.2.1.off < 0x1000 ∧ w.2.2 < 32 := by
  simp only [waitEnds, List.mem_cons, List.not_mem_nil, or_false] at h
  rcases h with rfl | rfl | rfl <;> decide

theorem State.idleUpd_regsOnly (s : State) (e : Nat) : RegsOnly { s with upds := aerase s.upds e } (s.idleUpd e) :=
  (State.wf_regsOnly _ _ _ _ _).trans (State.wf_regsOnly _ _ _ _ _)

theorem State.reg_idleUpd_other (s : State) (e o : Nat) (h1 : o ≠ pgUpdate e + R.UPDATE.ENGINE_STATE_STATE.off)
    (h2 : o ≠ pgUpdate e + R.UPDATE.CUR_TASK.off) : (s.idleUpd e).reg o = s.reg o :=
  (State.reg_wf_other _ _ _ _ _ _ h2).trans (State.reg_wf_other _ _ _ _ _ _ h1)

/-- An UPDATE that ends after a wait: its task has the status, its engine none, the count of the status rises and its cause is set. -/
theorem State.endUpd_waitEnd {s : State} (e : Engine) {n : Nat} {t : Task} (ht : s.task? n = some t) (x : UpdOp) (u : Upd) {f : UpdEnd}
    {w : Nat × Fld × Nat} (hw : w ∈ waitEnds) (hf : f.status = w.1) :
    let v := s.endUpd e t x u f
    Finished v n w.1 f.code ∧ v.upd? e = none ∧ v.rf (pgUpdate e) w.2.1 = up32 (s.rf (pgUpdate e) w.2.1) ∧ Caused v (pgUpdate e) w.2.2 ∧
      v.record = s.record ∧ SameBytes s v ∧ SameSeals s v ∧ SameRegs s v OfDies := by
  obtain ⟨hlo, hhi, hst, hoff, hlt, hbit⟩ := waitEnds_fld hw
  have haddr : w.2.1.addr (pgUpdate e) 0 = pgUpdate e + w.2.1.off := rfl
  have hcounts := (s.idleUpd e).endCounts_eq (pgUpdate e) hw
  have hinc := (s.idleUpd_regsOnly e).trans ((s.idleUpd e).inc_regsOnly (pgUpdate e) w.2.1 0)
  have hsig := hinc.signalsOnly.trans (((s.idleUpd e).inc (pgUpdate e) w.2.1).cause_signalsOnly (pgUpdate e) w.2.2)
  have hrec := (State.cause_record ((s.idleUpd e).inc (pgUpdate e) w.2.1) (pgUpdate e) w.2.2).trans hinc.record
  dsimp only
  rw [State.endUpd_eq, hf, hcounts]
  generalize hc : ((s.idleUpd e).inc (pgUpdate e) w.2.1).cause (pgUpdate e) w.2.2 = c at hsig hrec
  have hreg : ∀ post, ∀ o, (c.endTask t w.1 f.code f.event (e % 2) post).reg o = c.reg o := fun _ _ => rfl
  have hother : ∀ o, o ≠ pgUpdate e + w.2.1.off → o ≠ pgUpdate e + oINT_STATUS → ¬routeReg o → c.reg o = (s.idleUpd e).reg o := fun o h1 h2 h3 => by
    rw [← hc, State.reg_cause_other _ _ _ _ h2 h3, State.reg_inc_other _ _ _ _ _ h1]
  refine ⟨⟨_, _, _, State.task?_setTask ((hsig.task? n).trans ht) rfl, rfl⟩, ?_, ?_, ?_, ?_, ?_, ?_, ?_⟩
  · exact (hsig.upd? e).trans (aget?_aerase s.upds e)
  · have hidle : (s.idleUpd e).rf (pgUpdate e) w.2.1 = s.rf (pgUpdate e) w.2.1 := by
      unfold State.rf
      rw [haddr, State.reg_idleUpd_other _ _ _ (by simp only [R.UPDATE.ENGINE_STATE_STATE]; omega) (by simp only [R.UPDATE.CUR_TASK]; omega)]
    have hinc := (s.idleUpd e).rf_inc_self (pgUpdate e) w.2.1 0 (by omega) (by omega)
    rw [hidle, hlo, hhi] at hinc
    refine Eq.trans ?_ hinc
    unfold State.rf
    rw [hreg, haddr, ← hc, State.reg_cause_other _ _ _ _ (by unfold oINT_STATUS; omega) (update_not_route e _)]
  · show bit ((c.reg (pgUpdate e + oINT_STATUS)).toNat) w.2.2 = true
    rw [← hc]
    exact State.cause_set _ _ _ hbit (update_not_route e _)
  · exact hrec
  · exact fun a => hsig.sameBytes a
  · exact fun k => hsig.sameSeals k
  · intro o ho
    rw [hreg, hother o (ne_of_not_ofDies ho e hlt) (ne_of_not_ofDies ho e (by decide)) (not_route_of_ofDies ho),
      State.reg_idleUpd_other _ _ _ (ne_of_not_ofDies ho e (by decide)) (ne_of_not_ofDies ho e (by decide))]

/-- An UPDATE that ends after a wait with an event. -/
theorem State.log_endUpd_waitEnd {s : State} (e : Engine) {n : Nat} {t : Task} (ht : s.task? n = some t) (x : UpdOp) (u : Upd) (code : Nat)
    (d : List Nat) {f : UpdEnd} {w : Nat × Fld × Nat} (hw : w ∈ waitEnds) (hf : f.status = w.1) :
    let v := (s.log (pgUpdate e) code d).endUpd e t x u f
    Finished v n w.1 f.code ∧ v.upd? e = none ∧ v.rf (pgUpdate e) w.2.1 = up32 (s.rf (pgUpdate e) w.2.1) ∧ Caused v (pgUpdate e) w.2.2 ∧
      Logged s v code d ∧ SameBytes s v ∧ SameSeals s v ∧ SameRegs s v OfDies := by
  have hlog := s.log_signalsOnly (pgUpdate e) code d
  obtain ⟨hfin, hupd, hcount, hcause, hrec, hbytes, hseals, hregs⟩ :=
    State.endUpd_waitEnd e ((hlog.task? n).trans ht) x u hw hf
  refine ⟨hfin, hupd, hcount.trans ?_, hcause, logged_of_record rfl hrec, fun a => (hbytes a).trans (hlog.sameBytes a),
    fun k => (hseals k).trans (hlog.sameSeals k), fun o ho => (hregs o ho).trans (s.log_sameRegs _ _ _ o ho)⟩
  unfold State.rf
  rw [State.reg_log_other _ _ _ _ _ (by exact update_not_record e _) (by exact update_not_route e _)]

/-! A pass begins (R223, R231). -/

/-- The page of an engine shows a phase and a layer. -/
def State.showPhase (s : State) (e layer : Nat) (p : UpdPhase) : State :=
  s.wfs (pgUpdate e) [(R.UPDATE.ENGINE_STATE_STATE, p.code), (R.UPDATE.ENGINE_STATE_LAYER, layer)]

/-- A task holds the page of an engine. -/
def Task.holding (t : Task) (n e : Nat) : Task := if t.seq == n then { t with pages := [pgUpdate e] } else t

/-- An engine's task enters a pass: its page shows the pass, and the task holds the page. -/
theorem State.setUpd_pass (s : State) (e layer : Nat) {u : Upd} (hp : u.phase = .pass1 ∨ u.phase = .pass2) :
    s.setUpd e layer u = { State.showPhase { s with upds := aput s.upds e u } e layer u.phase with
      tasks := s.tasks.map fun t => t.holding u.task e } := by
  have hrun : (u.phase == .pass1 || u.phase == .pass2) = true := by rcases hp with h | h <;> rw [h] <;> rfl
  unfold State.setUpd
  dsimp only
  rw [hrun]
  rfl

theorem State.showPhase_regsOnly (s : State) (e layer : Nat) (p : UpdPhase) : RegsOnly s (s.showPhase e layer p) :=
  (s.wf_regsOnly _ _ _ _).trans (State.wf_regsOnly _ _ _ _ _)

theorem State.reg_showPhase_other (s : State) (e layer : Nat) (p : UpdPhase) (o : Nat) (h : o ≠ pgUpdate e + R.UPDATE.ENGINE_STATE_STATE.off) :
    (s.showPhase e layer p).reg o = s.reg o :=
  (State.reg_wf_other _ _ R.UPDATE.ENGINE_STATE_LAYER _ _ _ h).trans (State.reg_wf_other _ _ _ _ _ _ h)

theorem State.rf_showPhase (s : State) (e layer : Nat) (p : UpdPhase) : (s.showPhase e layer p).rf (pgUpdate e) R.UPDATE.ENGINE_STATE_STATE = p.code := by
  refine ((State.rf_wf_beside _ _ R.UPDATE.ENGINE_STATE_LAYER R.UPDATE.ENGINE_STATE_STATE _ _ 0 rfl (by decide) (by decide) (.inr (by decide))).trans
    (State.rf_wf_self _ _ _ _ _ (by decide) (by decide))).trans ?_
  cases p <;> rfl

/-- The engine's task in a pass, and what has changed for it. -/
theorem State.setUpd_pass_spec {s : State} (e : Engine) (layer : Nat) {u : Upd} {t : Task} (ht : s.task? u.task = some t)
    (hp : u.phase = .pass1 ∨ u.phase = .pass2) :
    let v := s.setUpd e layer u
    v.upd? e = some u ∧ v.betweenTasks (pgUpdate e) = false ∧ v.rf (pgUpdate e) R.UPDATE.ENGINE_STATE_STATE = u.phase.code ∧
      SameRegs s v (fun o => o = pgUpdate e + R.UPDATE.ENGINE_STATE_STATE.off) ∧ SameBytes s v ∧ SameSeals s v := by
  have hf := State.showPhase_regsOnly { s with upds := aput s.upds e u } e layer u.phase
  have hstate := State.rf_showPhase { s with upds := aput s.upds e u } e layer u.phase
  have hother := State.reg_showPhase_other { s with upds := aput s.upds e u } e layer u.phase
  obtain ⟨r, hr⟩ := hf
  dsimp only
  rw [s.setUpd_pass e layer hp]
  rw [hr] at hstate hother ⊢
  refine ⟨aget?_aput_same s.upds e u, ?_, hstate, hother, fun _ => rfl, fun _ => rfl⟩
  obtain ⟨hmem, hseq⟩ := task?_mem ht
  have hheld : (t.holding u.task e).pages.contains (pgUpdate e) = true := by
    unfold Task.holding
    rw [hseq, beq_self_eq_true, if_pos rfl]
    simp
  unfold State.betweenTasks
  rw [Bool.not_eq_false']
  exact List.any_eq_true.mpr ⟨_, List.mem_map_of_mem hmem, hheld⟩

end Sys2Proof.Machine
end

section
namespace Sys2Proof.Claims

open Machine

/-! An engine's task in its phase. -/

/-- A command of a phase runs with the engine's task. -/
theorem UpdAt.onUpd_eq {s : State} {e : Nat} {ph : UpdPhase} {u : Upd} {t : Task} {x : UpdOp} (h : UpdAt s e ph u t x)
    (k : Task → UpdOp → Upd → Host.Outcome State Fault Refusal) : s.onUpd e ph k = k t x u := by
  obtain ⟨hu, ht, hph, hx, -, -⟩ := h
  unfold State.onUpd
  rw [hu]
  dsimp only
  rw [ht, hph, hx]
  exact if_pos (beq_self_eq_true ph)

/-- What waits for the die's clock and for free ranges runs at once. -/
theorem UpdAt.runs {s : State} {e : Nat} {ph : UpdPhase} {u : Upd} {t : Task} {x : UpdOp} (h : UpdAt s e ph u t x) (k : State → State) :
    (s.onDie (pllGrad (e / 2)) fun s => s.whenFree x.ranges k) = .next (k s) := by
  obtain ⟨-, -, -, -, hclk, hmark⟩ := h
  unfold State.onDie State.whenFree
  rw [if_pos hclk]
  exact congrArg Host.Outcome.next (if_pos (by rw [hmark]; rfl))

theorem SameBytes.bytes {s t : State} (h : SameBytes s t) (a n : Nat) : t.bytes a n = s.bytes a n := by
  rw [State.bytes_eq, State.bytes_eq]
  exact List.map_congr_left fun i _ => h (a + i)

/-- An event logged since a state with the same record. -/
theorem Logged.of_record {s t u : State} {code : Nat} {d : List Nat} (h : Logged t u code d) (hr : t.record = s.record) : Logged s u code d := by
  unfold Logged at *
  rwa [hr] at h

end Sys2Proof.Claims

namespace Sys2Proof.Machine

open Sys2Proof.Claims

/-! `HOLD_REQ` (R232). -/

/-- A write of a plain field whose values are all legal. -/
theorem State.writeFld_any (s : State) (view : View) (off : Nat) (w : Word) {f : Fld} (hacc : f.acc = .rw) (hlegal : f.legal = .any)
    (hl11 : f.l11 = false) : s.writeFld view off w f = s.setReg off (setBits (s.reg off) f.hi f.lo (getBits w f.hi f.lo)) := by
  unfold State.writeFld
  rw [hacc, hlegal, hl11]
  exact if_pos (beq_self_eq_true _)

theorem update_holdReq_fields : Cls.update.fieldsAt R.UPDATE.HOLD_REQ_ARM.off = [R.UPDATE.HOLD_REQ_ARM, R.UPDATE.HOLD_REQ_LAYER] := by decide

theorem pageAt_holdReq (e : Engine) : pageAt (pgUpdate e + R.UPDATE.HOLD_REQ_ARM.off) = some ⟨.update, e / 2, 2, e % 2⟩ := by
  revert e
  decide

theorem holdReq_page (e : Engine) : 0x1000 * ((pgUpdate e + R.UPDATE.HOLD_REQ_ARM.off) / 0x1000) = pgUpdate e ∧
    (pgUpdate e + R.UPDATE.HOLD_REQ_ARM.off) % 0x1000 = R.UPDATE.HOLD_REQ_ARM.off :=
  pageBase_eq (pgUpdate_range e).1 (by decide)

/-- A write of `HOLD_REQ` that applies writes its fields. -/
theorem State.crossWrite_holdReq (s : State) (view : View) (e : Engine) (w : Word) :
    s.crossWrite view (pgUpdate e + R.UPDATE.HOLD_REQ_ARM.off) w =
      s.writeFlds view (pgUpdate e + R.UPDATE.HOLD_REQ_ARM.off) w [R.UPDATE.HOLD_REQ_ARM, R.UPDATE.HOLD_REQ_LAYER] := by
  have hmod := (holdReq_page e).2
  have hpart : ∀ part, part ≠ .whole → ¬HalfAt ⟨.update, e / 2, 2, e % 2⟩ part view (pgUpdate e + R.UPDATE.HOLD_REQ_ARM.off) := by
    rintro part hne ⟨f, hf, hp, -⟩
    rw [hmod, update_holdReq_fields] at hf
    simp only [List.mem_cons, List.not_mem_nil, or_false] at hf
    rcases hf with rfl | rfl <;> exact hne hp.symm
  have hplain := s.plainWrite_whole w (pageAt_holdReq e) (hpart .lo nofun) (hpart .hi nofun)
  rw [hmod, update_holdReq_fields] at hplain
  unfold State.crossWrite
  rw [pageAt_holdReq, hmod]
  exact hplain

/-- The word of a hold request has its two fields. -/
theorem holdReq_word (arm : Bool) (layer : BitVec 16) :
    getBits (BitVec.ofNat 32 (b2n arm * 2 ^ 31 + layer.toNat)) 31 31 = b2n arm ∧
      getBits (BitVec.ofNat 32 (b2n arm * 2 ^ 31 + layer.toNat)) 15 0 = layer.toNat := by
  have := layer.isLt
  have harm : b2n arm < 2 := by cases arm <;> decide
  unfold getBits
  rw [BitVec.toNat_ofNat]
  omega

/-- `HOLD_REQ` written between tasks. -/
theorem State.crossWrite_holdReq_spec (s : State) (view : View) (e : Engine) (arm : Bool) (layer : BitVec 16) :
    let v := s.crossWrite view (pgUpdate e + R.UPDATE.HOLD_REQ_ARM.off) (BitVec.ofNat 32 (b2n arm * 2 ^ 31 + layer.toNat))
    v.rf (pgUpdate e) R.UPDATE.HOLD_REQ_ARM = b2n arm ∧ v.rf (pgUpdate e) R.UPDATE.HOLD_REQ_LAYER = layer.toNat ∧
      SameRegs s v (fun o => o = pgUpdate e + R.UPDATE.HOLD_REQ_ARM.off) ∧ SameBytes s v ∧ SameSeals s v := by
  obtain ⟨harm, hlayer⟩ := holdReq_word arm layer
  generalize BitVec.ofNat 32 (b2n arm * 2 ^ 31 + layer.toNat) = w at harm hlayer
  have hpage := (pgUpdate_range e).2.1
  have hw := s.writeFlds_writesWord view (off := pgUpdate e + R.UPDATE.HOLD_REQ_ARM.off) w [R.UPDATE.HOLD_REQ_ARM, R.UPDATE.HOLD_REQ_LAYER] (by omega)
  have htakes := takesField_of_reg (update_holdReq_fields.symm ▸ hw.self)
  rw [update_holdReq_fields] at htakes
  dsimp only
  rw [State.crossWrite_holdReq]
  refine ⟨?_, ?_, fun o ho => ?_, hw.frame.sameBytes, hw.frame.sameSeals⟩
  · exact ((htakes R.UPDATE.HOLD_REQ_ARM List.mem_cons_self).1 ⟨.inl rfl, nofun⟩).trans harm
  · exact ((htakes R.UPDATE.HOLD_REQ_LAYER (List.mem_cons_of_mem _ List.mem_cons_self)).1 ⟨.inl rfl, nofun⟩).trans hlayer
  · unfold State.writeFlds
    rw [List.foldl_cons, List.foldl_cons, List.foldl_nil, State.writeFld_any _ _ _ _ rfl rfl rfl, State.writeFld_any _ _ _ _ rfl rfl rfl,
      State.reg_setReg_other _ _ _ _ ho, State.reg_setReg_other _ _ _ _ ho]

/-! The factors of the other slot (R223). -/

/-- Two vectors written, the second behind the first: each reads back. -/
theorem State.bytes_putVec_putVec (s : State) {a c : Nat} {b d : List Byte} (h : a + b.length ≤ c) :
    ((s.putVec a b).putVec c d).bytes a b.length = b ∧ ((s.putVec a b).putVec c d).bytes c d.length = d ∧
      OnlyIn s ((s.putVec a b).putVec c d) [(a, up4k b.length), (c, up4k d.length)] := by
  refine ⟨State.bytes_eq_of fun i hi => ?_, State.bytes_eq_of fun i hi => State.byte_putVec_same _ _ _ _ hi,
    (s.putVec_onlyIn a b).trans (State.putVec_onlyIn _ c d)⟩
  rw [(State.putVec_onlyIn _ c d).1 (a + i), State.byte_putVec_same _ _ _ _ hi]
  intro r hr
  obtain rfl := List.mem_singleton.mp hr
  exact .inl (by dsimp only; omega)

/-! The first write (R233, R239). -/

/-- An update that nothing holds: the other slot has the new factors, and its engine is in pass 2. -/
theorem State.enterPass2_spec {s : State} (e : Engine) {t : Task} {x : UpdOp} {u : Upd} (ht : s.task? u.task = some t)
    (hr : u.rNew.length = x.r) (hc : u.cNew.length = x.c)
    (hf : faultOf (x.slotRanges (1 - hdSel u.head) ++ x.wT.ranges ++ (if x.writesImage then [x.imageRange] else [])) = none) :
    let v := s.enterPass2 e t x u
    UpdIn v e u.task .pass2 (fun w => w.eta = u.eta ∧ w.step = u.step) ∧
      v.bytes (x.slotAt (1 - hdSel u.head)) (4 * x.r) = u.rNew.flatMap (leBytes 4) ∧
      v.bytes (x.colAt (1 - hdSel u.head)) (4 * x.c) = u.cNew.flatMap (leBytes 4) ∧
      OnlyIn s v [(x.slotAt (1 - hdSel u.head), up4k (4 * x.r)), (x.colAt (1 - hdSel u.head), up4k (4 * x.c))] ∧ SameRegs s v OfDies := by
  have hlen : (u.rNew.flatMap (leBytes 4)).length = 4 * x.r := by rw [flatMap_leBytes_length, hr]
  have hlen' : (u.cNew.flatMap (leBytes 4)).length = 4 * x.c := by rw [flatMap_leBytes_length, hc]
  have hbehind : x.slotAt (1 - hdSel u.head) + (u.rNew.flatMap (leBytes 4)).length ≤ x.colAt (1 - hdSel u.head) := by
    rw [hlen]
    exact Nat.add_le_add_left (le_up4k _) _
  obtain ⟨hrow, hcol, honly⟩ := s.bytes_putVec_putVec (d := u.cNew.flatMap (leBytes 4)) hbehind
  have hmem : MemOnly s ((s.putVec (x.slotAt (1 - hdSel u.head)) (u.rNew.flatMap (leBytes 4))).putVec (x.colAt (1 - hdSel u.head))
      (u.cNew.flatMap (leBytes 4))) := (s.putSealed_memOnly _ _).trans (State.putSealed_memOnly _ _ _)
  rw [hlen] at hrow honly
  rw [hlen'] at hcol honly
  dsimp only
  unfold State.enterPass2
  dsimp only
  rw [hf]
  dsimp only
  generalize (s.putVec (x.slotAt (1 - hdSel u.head)) (u.rNew.flatMap (leBytes 4))).putVec (x.colAt (1 - hdSel u.head))
    (u.cNew.flatMap (leBytes 4)) = p at hrow hcol honly hmem
  obtain ⟨hupd, -, -, hregs, hbytes, hseals⟩ := State.setUpd_pass_spec (s := p) e x.layer (u := { u with phase := .pass2 })
    ((hmem.task? _).trans ht) (.inr rfl)
  refine ⟨⟨_, hupd, rfl, rfl, rfl, rfl⟩, (hbytes.bytes _ _).trans hrow, (hbytes.bytes _ _).trans hcol, honly.same hbytes hseals, fun o ho => ?_⟩
  exact (hregs o (ne_of_not_ofDies ho e (by decide))).trans (hmem.reg o)

/-- A layer held: its header, its event and the registers of the hold, and the end of its task. -/
theorem State.holdLayer_spec {s : State} (e : Engine) {n : Nat} {t : Task} (x : UpdOp) (u : Upd) (ht : s.task? n = some t) :
    let v := s.holdLayer e t x u
    Finished v n stHeld 0 ∧ v.upd? e = none ∧ v.byte (x.state + 3) = BitVec.ofNat 8 (128 + u.reasons) ∧
      v.num (x.state + 32) 8 = u.step % 2 ^ 64 ∧ v.num (x.state + 40) 4 = u.eta % 2 ^ 32 ∧ Logged s v 0x0401 [x.layer, u.reasons, u.step] ∧
      SameOutside s v [(x.state + 3, 1), (x.state + 32, 12)] ∧ OnlyIn s v [(x.state, 4096)] ∧ SameRegs s v OfDies := by
  obtain ⟨hbyte, hstep, heta, hout, honly⟩ := s.writeHead_hold x (128 + u.reasons) u.step u.eta
  have hmem : MemOnly s (s.writeHead x [(3, leBytes 1 (128 + u.reasons)), (32, leBytes 8 u.step), (40, leBytes 4 u.eta)]) :=
    s.putSealed_memOnly _ _
  dsimp only
  unfold State.holdLayer
  dsimp only
  generalize s.writeHead x [(3, leBytes 1 (128 + u.reasons)), (32, leBytes 8 u.step), (40, leBytes 4 u.eta)] = p at *
  have hf : RegsOnly p (p.wfs (pgUpdate e) [(R.UPDATE.LAST_HOLD_LAYER, x.layer), (R.UPDATE.LAST_HOLD_REASONS, u.reasons)]) :=
    (p.wf_regsOnly _ _ _ _).trans (State.wf_regsOnly _ _ _ _ _)
  have hregs : SameRegs p (p.wfs (pgUpdate e) [(R.UPDATE.LAST_HOLD_LAYER, x.layer), (R.UPDATE.LAST_HOLD_REASONS, u.reasons)]) OfDies := fun o ho =>
    (State.reg_wf_other _ _ R.UPDATE.LAST_HOLD_REASONS _ _ _ (ne_of_not_ofDies ho e (x := R.UPDATE.LAST_HOLD_REASONS.off) (by decide))).trans
      (State.reg_wf_other _ _ _ _ _ _ (ne_of_not_ofDies ho e (x := R.UPDATE.LAST_HOLD_LAYER.off) (by decide)))
  generalize p.wfs (pgUpdate e) [(R.UPDATE.LAST_HOLD_LAYER, x.layer), (R.UPDATE.LAST_HOLD_REASONS, u.reasons)] = c at hf hregs
  have htask := (hf.signalsOnly.task? n).trans ((hmem.task? n).trans ht)
  obtain ⟨hfin, hupd, -, -, hlog, hbytes, hseals, hdies⟩ := State.log_endUpd_waitEnd e htask x u 0x0401 [x.layer, u.reasons, u.step]
    (f := { UpdEnd.plain stHeld 0x0401 with blocks := [x.state / 4096] }) (w := (stHeld, R.UPDATE.HELD_COUNT, 1)) (by decide) rfl
  have hb : SameBytes p _ := fun a => (hbytes a).trans (hf.sameBytes a)
  have hq : SameSeals p _ := fun k => (hseals k).trans (hf.sameSeals k)
  have hnum : ∀ a n, State.num _ a n = p.num a n := fun a n => congrArg leNat (hb.bytes a n)
  exact ⟨hfin, hupd, (hb _).trans hbyte, (hnum _ _).trans hstep, (hnum _ _).trans heta, hlog.of_record (hf.record.trans hmem.record),
    fun a ha => (hb a).trans (hout a ha), honly.same hb hq, fun o ho => (hdies o ho).trans ((hregs o ho).trans (hmem.reg o))⟩

end Sys2Proof.Machine

open Sys2Proof Sys2Proof.Machine Sys2Proof.Claims

theorem Sys2Proof.Claims.updateWaits : Claims.UpdateWaits := by
  refine ⟨fun s e u t x h => ?_, fun s view e arm layer hw => ⟨fun hb => ?_, fun hb => ?_⟩⟩
  · have ht : s.task? u.task = some t := h.2.1
    refine ⟨fun htag hheld => ?_, fun htag hheld => ?_, fun htag hwait => ?_⟩
    · have hex : exec (.tagWaitEnd e) s = execTagWaitEnd e s := rfl
      unfold execTagWaitEnd at hex
      rw [h.onUpd_eq, if_neg (by rw [htag]; simp)] at hex
      dsimp only at hex
      rw [if_neg (by rw [hheld]; exact Bool.false_ne_true)] at hex
      obtain ⟨hupd, hbusy, hstate, hregs, hbytes, hseals⟩ := State.setUpd_pass_spec (s := s) e x.layer
        (u := { u with eta := s.rf (pgUpdate e) R.UPDATE.STEP_ETA, phase := .pass1 }) ht (.inl rfl)
      exact ⟨_, hex, ⟨_, hupd, rfl, rfl, rfl, rfl⟩, hbusy, hstate, hregs, hbytes, hseals⟩
    · have hex : exec (.tagWaitEnd e) s = execTagWaitEnd e s := rfl
      unfold execTagWaitEnd at hex
      rw [h.onUpd_eq, if_neg (by rw [htag]; simp)] at hex
      dsimp only at hex
      rw [if_pos hheld] at hex
      exact ⟨_, hex, State.log_endUpd_waitEnd e ht x _ 0x040B _ (w := (stHeld, R.UPDATE.HELD_COUNT, 1)) (by decide) rfl⟩
    · have hex : exec (.stepTagStale e) s = execStepTagStale e s := rfl
      unfold execStepTagStale at hex
      rw [h.onUpd_eq, if_neg (by simp only [Bool.or_eq_true, beq_iff_eq, decide_eq_true_eq]; omega)] at hex
      exact ⟨_, hex, State.log_endUpd_waitEnd e ht x u 0x0402 _ (w := (stStale, R.UPDATE.STALE_COUNT, 2)) (by decide) rfl⟩
  · have hex : exec (.holdReq view e arm layer) s = _ := congrArg Host.Outcome.next (State.onWrite_writes hw)
    unfold State.crossOrPost at hex
    rw [(holdReq_page e).1, if_pos hb] at hex
    exact ⟨_, hex, s.crossWrite_holdReq_spec view e arm layer⟩
  · have hex : exec (.holdReq view e arm layer) s = _ := congrArg Host.Outcome.next (State.onWrite_writes hw)
    unfold State.crossOrPost at hex
    rw [(holdReq_page e).1, if_neg (by rw [hb]; exact Bool.false_ne_true)] at hex
    exact ⟨_, hex, rfl, ⟨_, rfl, rfl, rfl⟩, fun _ => rfl, fun _ => rfl⟩

theorem Sys2Proof.Claims.checkpointInterlock : Claims.CheckpointInterlock := by
  intro s e u t x h
  have ht : s.task? u.task = some t := h.2.1
  have hclear : s.ckptMark x = 0 → exec (.checkpointInterlockClear e) s = .next (s.firstWrite e t x u) := fun hm => by
    have hex : exec (.checkpointInterlockClear e) s = execCheckpointInterlockClear e s := rfl
    unfold execCheckpointInterlockClear at hex
    rw [h.onUpd_eq, if_neg (by rw [hm]; simp), h.runs] at hex
    exact hex
  have hwrite : x.mode = 0 → s.firstWrite e t x u = if u.reasons != 0 then s.holdLayer e t x u else s.enterPass2 e t x u := fun hm => by
    unfold State.firstWrite
    rw [hm]
    rfl
  refine ⟨fun hm h0 hr hrow hcol hf => ?_, fun hm h0 hr => ?_, fun hm hwait => ?_⟩
  · refine ⟨_, (hclear hm).trans (congrArg Host.Outcome.next ((hwrite h0).trans ?_)), State.enterPass2_spec e ht hrow hcol hf⟩
    rw [hr]
    rfl
  · exact ⟨_, (hclear hm).trans (congrArg Host.Outcome.next ((hwrite h0).trans (if_pos (bne_iff_ne.mpr hr)))), State.holdLayer_spec e x u ht⟩
  · have hex : exec (.checkpointInterlockTimeout e) s = execCheckpointInterlockTimeout e s := rfl
    unfold execCheckpointInterlockTimeout at hex
    rw [h.onUpd_eq, if_neg (by simp only [Bool.or_eq_true, beq_iff_eq, decide_eq_true_eq]; omega)] at hex
    exact ⟨_, hex, State.log_endUpd_waitEnd e ht x u 0x0403 _ (w := (stTimeout, R.UPDATE.TIMEOUT_COUNT, 3)) (by decide) rfl⟩

/-- Settles O25: the wait ends and the first write are each one step from the engine's record; what the end of a wait counts is one lemma over
its three statuses. -/
theorem Sys2Proof.Claims.updateWaitsAndInterlock : Obligations.UpdateWaitsAndInterlock := ⟨Claims.updateWaits, Claims.checkpointInterlock⟩
end

section
/-! PROOFS. The reset state, and the interrupt registers of a page with the vectors that it raises (R50 to R53). -/

namespace Sys2Proof.Machine

open Sys2Proof.Claims

/-! Bits of words that are masked. -/

theorem bit_eq_testBit (v i : Nat) : bit v i = v.testBit i := by
  rw [Nat.testBit_eq_decide_div_mod_eq]
  unfold bit
  by_cases h : v / 2 ^ i % 2 = 1 <;> simp [h]

theorem and_add_ldiff (a b : Nat) : (a &&& b) + Nat.ldiff a b = a := by
  induction a using Nat.binaryRec generalizing b with
  | zero => simp [Nat.ldiff]
  | bit p n ih =>
    cases b using Nat.binaryRec with
    | zero => simp [Nat.ldiff]
    | bit q m _ =>
      rw [Nat.land_bit, Nat.ldiff_bit]
      have := ih m
      cases p <;> cases q <;> simp [Nat.bit_val] <;> omega

/-- What is left of a mask without some bits. -/
theorem bit_sub_and (a b i : Nat) : bit (a - (a &&& b)) i = (bit a i && !bit b i) := by
  have h : a - (a &&& b) = Nat.ldiff a b := by
    have := and_add_ldiff a b
    omega
  rw [h, bit_eq_testBit, bit_eq_testBit, bit_eq_testBit, Nat.testBit_ldiff]

theorem bit_and (a b i : Nat) : bit (a &&& b) i = (bit a i && bit b i) := by
  simp only [bit_eq_testBit, Nat.testBit_and]

theorem bit_or (a b i : Nat) : bit (a ||| b) i = (bit a i || bit b i) := by
  simp only [bit_eq_testBit, Nat.testBit_or]

/-- A word meets a mask where some bit of it is set in both. -/
theorem and_word_eq_zero_iff {a b : Nat} (ha : a < 2 ^ 32) : (a &&& b == 0) = false ↔ ∃ i, i < 32 ∧ bit a i = true ∧ bit b i = true := by
  rw [beq_eq_false_iff_ne]
  constructor
  · intro h
    obtain ⟨i, hi⟩ := Nat.exists_testBit_of_ne_zero h
    rw [Nat.testBit_and, Bool.and_eq_true] at hi
    refine ⟨i, ?_, by simpa only [bit_eq_testBit] using hi⟩
    by_contra hlt
    exact absurd hi.1 (by rw [Nat.testBit_lt_two_pow (lt_of_lt_of_le ha (Nat.pow_le_pow_right (by decide) (by omega)))]; decide)
  · rintro ⟨i, -, ha, hb⟩ h
    have := bit_and a b i
    rw [h, ha, hb] at this
    exact absurd this (by simp [bit])

/-- The causes of a class are the low bits of a word. -/
theorem Cls.causes_lt (c : Cls) : c.causes < 2 ^ 32 := by cases c <;> decide

theorem and_causes_lt (v : Nat) (c : Cls) : v &&& c.causes < 2 ^ 32 := lt_of_le_of_lt Nat.and_le_right c.causes_lt

/-! Vectors (R50, R51, R53). -/

theorem State.vecPending_setVecPending (s : State) (v : Nat) (p : Bool) : (s.setVecPending v p).vecPending v = p := by
  unfold State.vecPending State.setVecPending
  rw [State.reg_setReg_self, getBits_setBits_self _ _ _ _ (by decide) (by decide)]
  cases p <;> rfl

theorem State.masked_of_bar4 {s t : State} (h : t.host.bar4 = s.host.bar4) (v : Nat) : t.masked v = s.masked v := by
  unfold State.masked State.bar4Word
  rw [h]

theorem State.msixMsg_of_bar4 {s t : State} (h : t.host.bar4 = s.host.bar4) (v : Nat) : t.msixMsg v = s.msixMsg v := by
  unfold State.msixMsg State.bar4Word
  rw [h]

/-- A message leaves with the data of the table entry, and the interval of the vector begins where it has one. -/
theorem State.sendVector_sends (s : State) (v : Nat) :
    (s.sendVector v).host.msix = s.host.msix ++ [s.msixMsg v] ∧ (s.sendVector v).vecPending v = false ∧
      aget? (s.sendVector v).host.moderating v = (if s.modUs v = 0 then none else some false) ∧
      SameRegs s (s.sendVector v) (fun o => o = offVecCtl v) ∧ SameBytes s (s.sendVector v) ∧ SameSeals s (s.sendVector v) := by
  refine ⟨rfl, State.vecPending_setVecPending _ _ _, ?_, fun o ho => State.reg_setReg_other _ _ _ _ ho, fun _ => rfl, fun _ => rfl⟩
  show aget? (if s.modUs v == 0 then aerase s.host.moderating v else aput s.host.moderating v false) v = _
  by_cases h : s.modUs v = 0
  · rw [if_pos h, if_pos (beq_iff_eq.mpr h), aget?_aerase]
  · rw [if_neg h, if_neg (by simpa using h), aget?_aput_same]

theorem offVecCtl_ne_src (v : Nat) : offVecSrc v ≠ offVecCtl v := by
  unfold offVecCtl offVecSrc
  omega

/-- A register of a page's header is none of a vector. -/
theorem header_ne_vector {page o : Nat} (h0 : page % 0x1000 = 0) (ho : o < 0x100) (v : Nat) : page + o ≠ offVecCtl v ∧ page + o ≠ offVecSrc v := by
  unfold offVecCtl offVecSrc pgIntroute
  omega

/-- A page raises its vector in a state that shows the same host port and the same vector and identity of the page. -/
theorem State.raiseVector_raised {s u : State} {page : Nat} (hh : u.host = s.host)
    (hv : u.reg (page + oINT_VECTOR) = s.reg (page + oINT_VECTOR)) (hid : u.reg (page + oPAGE_ID) = s.reg (page + oPAGE_ID)) :
    Raised s (u.raiseVector page) page ∧ SameRegs u (u.raiseVector page) (OfVector s page) := by
  have hvec : getBits (u.reg (page + oINT_VECTOR)) 10 0 = Claims.vecOf s page := congrArg (getBits · 10 0) hv
  unfold State.raiseVector
  dsimp only
  rw [hvec, hid]
  generalize hw : u.setReg (offVecSrc (Claims.vecOf s page)) (s.reg (page + oPAGE_ID)) = w
  have hwh : w.host = s.host := by rw [← hw]; exact hh
  have hsrc : w.reg (offVecSrc (Claims.vecOf s page)) = s.reg (page + oPAGE_ID) := by rw [← hw]; exact State.reg_setReg_self _ _ _
  have hother : ∀ o, ¬OfVector s page o → w.reg o = u.reg o := fun o ho => by
    rw [← hw, State.reg_setReg_other _ _ _ _ fun e => ho (.inr e)]
  have hne := offVecCtl_ne_src (Claims.vecOf s page)
  unfold Raised
  rw [← State.masked_of_bar4 (congrArg _ hwh), ← State.msixMsg_of_bar4 (congrArg _ hwh), ← hwh, ← hsrc]
  unfold OfVector at hother ⊢
  generalize Claims.vecOf s page = v at *
  have hpend : ∀ (t : State) (p : Bool), (∀ o, t.reg o = w.reg o) →
      (t.setVecPending v p).reg (offVecSrc v) = w.reg (offVecSrc v) ∧ (t.setVecPending v p).vecPending v = p ∧
        SameRegs u (t.setVecPending v p) (fun o => o = offVecCtl v ∨ o = offVecSrc v) := fun t p ht =>
    ⟨(State.reg_setReg_other _ _ _ _ hne).trans (ht _), State.vecPending_setVecPending t v p,
      fun o ho => (State.reg_setReg_other _ _ _ _ fun e => ho (.inl e)).trans ((ht o).trans (hother o ho))⟩
  cases hm : w.masked v with
  | true =>
    obtain ⟨h1, h2, h3⟩ := hpend w true fun _ => rfl
    exact ⟨⟨h1, fun _ => ⟨h2, rfl⟩, nofun, nofun⟩, h3⟩
  | false =>
    rw [if_neg (by decide)]
    cases hmod : aget? w.host.moderating v with
    | none =>
      obtain ⟨h1, h2, h3⟩ := hpend { w with host := { w.host with
        msix := w.host.msix ++ [w.msixMsg v],
        moderating := if w.modUs v == 0 then aerase w.host.moderating v else aput w.host.moderating v false } } false fun _ => rfl
      exact ⟨⟨h1, nofun, fun _ _ => ⟨rfl, h2⟩, fun _ h => absurd rfl h⟩, h3⟩
    | some b =>
      obtain ⟨h1, h2, h3⟩ := hpend { w with host := { w.host with moderating := aput w.host.moderating v true } } true fun _ => rfl
      exact ⟨⟨h1, nofun, fun _ h => (nomatch h), fun _ _ => ⟨rfl, aget?_aput_same _ _ _, h2⟩⟩, h3⟩

/-! Writes of `INT_STATUS`, `INT_ENABLE` and `INT_SET` (R51, R52). -/

theorem ofNat_toNat_of_lt {n : Nat} (h : n < 2 ^ 32) : (BitVec.ofNat 32 n).toNat = n := by
  rw [BitVec.toNat_ofNat, Nat.mod_eq_of_lt h]

/-- A register of a page's header takes a word; where a condition holds the page then raises its vector. -/
theorem State.setReg_raise (s : State) {page x : Nat} (n : Nat) (c : Bool) (h0 : page % 0x1000 = 0)
    (hx : x = oINT_STATUS ∨ x = oINT_ENABLE) (hn : n < 2 ^ 32) :
    let t := s.setReg (page + x) (BitVec.ofNat 32 n)
    let u := if c then t else t.raiseVector page
    u.hdr page x = n ∧ (c = false → Raised s u page) ∧ (c = true → u.host = s.host ∧ SameRegs s u (fun o => o = page + x)) ∧
      SameRegs s u (fun o => o = page + x ∨ OfVector s page o) ∧ SameBytes s u ∧ SameSeals s u := by
  dsimp only
  have hset : SameRegs s (s.setReg (page + x) (BitVec.ofNat 32 n)) (fun o => o = page + x) := fun o ho => State.reg_setReg_other _ _ _ _ ho
  have hself : (s.setReg (page + x) (BitVec.ofNat 32 n)).hdr page x = n := by
    unfold State.hdr
    rw [State.reg_setReg_self, ofNat_toNat_of_lt hn]
  have hxv : x ≠ oINT_VECTOR ∧ x ≠ oPAGE_ID ∧ x < 0x100 := by rcases hx with rfl | rfl <;> decide
  cases c with
  | true => exact ⟨hself, nofun, fun _ => ⟨rfl, hset⟩, fun o ho => hset o fun e => ho (.inl e), fun _ => rfl, fun _ => rfl⟩
  | false =>
    obtain ⟨hraised, hregs⟩ := State.raiseVector_raised (s := s) (u := s.setReg (page + x) (BitVec.ofNat 32 n)) (page := page) rfl
      (hset _ (by omega)) (hset _ (by omega))
    obtain ⟨r, m, i, hf⟩ := (s.setReg (page + x) (BitVec.ofNat 32 n)).raiseVector_frame page
    refine ⟨?_, fun _ => hraised, nofun, fun o ho => (hregs o fun e => ho (.inr e)).trans (hset o fun e => ho (.inl e)), ?_, ?_⟩
    · obtain ⟨hc, hs⟩ := header_ne_vector h0 hxv.2.2 (Claims.vecOf s page)
      exact (congrArg BitVec.toNat (hregs (page + x) (by rintro (e | e) <;> contradiction))).trans hself
    · rw [if_neg (by decide), hf]
      exact fun _ => rfl
    · rw [if_neg (by decide), hf]
      exact fun _ => rfl

/-- Some bit of a mask is new: set in the written value, among the causes, not set before, and set in the other register. -/
theorem new_bits_iff {v causes old other : Nat} (hc : causes < 2 ^ 32) :
    ((v &&& causes) - ((v &&& causes) &&& old) &&& other == 0) = false ↔
      ∃ b, b < 32 ∧ bit v b = true ∧ bit causes b = true ∧ bit old b = false ∧ bit other b = true := by
  have hlt : (v &&& causes) - ((v &&& causes) &&& old) < 2 ^ 32 := lt_of_le_of_lt ((Nat.sub_le _ _).trans Nat.and_le_right) hc
  rw [and_word_eq_zero_iff hlt]
  simp only [bit_sub_and, bit_and, Bool.and_eq_true, Bool.not_eq_true', and_assoc]

theorem or_sub_and (a b : Nat) : a ||| (b - (b &&& a)) = a ||| b := by
  refine Nat.eq_of_testBit_eq fun i => ?_
  simp only [← bit_eq_testBit, bit_or, bit_sub_and]
  cases bit a i <;> simp

theorem State.hdr_lt (s : State) (page o : Nat) : s.hdr page o < 2 ^ 32 := (s.reg (page + o)).isLt

/-- Causes set at once: `INT_STATUS` takes them, and the vector is raised when one becomes 1 that is enabled. -/
theorem State.setCauses_spec (s : State) {page : Nat} (v : Nat) (c : Cls) (h0 : page % 0x1000 = 0) :
    let t := s.setCauses page (v &&& c.causes)
    t.hdr page oINT_STATUS = s.hdr page oINT_STATUS ||| (v &&& c.causes) ∧
    (let new := ∃ b, b < 32 ∧ bit v b = true ∧ bit c.causes b = true ∧ bit (s.hdr page oINT_STATUS) b = false ∧
        bit (s.hdr page oINT_ENABLE) b = true
     (new → Raised s t page) ∧ (¬new → t.host = s.host ∧ SameRegs s t (fun o => o = page + oINT_STATUS))) ∧
    SameRegs s t (fun o => o = page + oINT_STATUS ∨ OfVector s page o) ∧ SameBytes s t ∧ SameSeals s t := by
  have hlt : s.hdr page oINT_STATUS ||| (v &&& c.causes) < 2 ^ 32 := Nat.or_lt_two_pow (s.hdr_lt _ _) (and_causes_lt v c)
  dsimp only
  rw [← new_bits_iff c.causes_lt, Bool.not_eq_false]
  unfold State.setCauses
  dsimp only
  rw [or_sub_and]
  obtain ⟨hhdr, hnew, hold, hregs, hbytes, hseals⟩ := s.setReg_raise (x := oINT_STATUS) (s.hdr page oINT_STATUS ||| (v &&& c.causes))
    ((v &&& c.causes) - ((v &&& c.causes) &&& s.hdr page oINT_STATUS) &&& s.hdr page oINT_ENABLE == 0) h0 (.inl rfl) hlt
  exact ⟨hhdr, ⟨hnew, hold⟩, hregs, hbytes, hseals⟩

/-- `INT_ENABLE` written: it takes the bits of the causes, and the vector is raised when one is enabled whose status is 1. -/
theorem State.writeEnable_spec (s : State) {page : Nat} (v : Nat) (c : Cls) (h0 : page % 0x1000 = 0) :
    let t := s.writeEnable c.causes page v
    t.hdr page oINT_ENABLE = v &&& c.causes ∧
    (let new := ∃ b, b < 32 ∧ bit v b = true ∧ bit c.causes b = true ∧ bit (s.hdr page oINT_ENABLE) b = false ∧
        bit (s.hdr page oINT_STATUS) b = true
     (new → Raised s t page) ∧ (¬new → t.host = s.host ∧ SameRegs s t (fun o => o = page + oINT_ENABLE))) ∧
    SameRegs s t (fun o => o = page + oINT_ENABLE ∨ OfVector s page o) ∧ SameBytes s t ∧ SameSeals s t := by
  dsimp only
  rw [← new_bits_iff c.causes_lt, Bool.not_eq_false]
  obtain ⟨hhdr, hnew, hold, hregs, hbytes, hseals⟩ := s.setReg_raise (x := oINT_ENABLE) (v &&& c.causes)
    ((v &&& c.causes) - ((v &&& c.causes) &&& s.hdr page oINT_ENABLE) &&& s.hdr page oINT_STATUS == 0) h0 (.inr rfl) (and_causes_lt v c)
  exact ⟨hhdr, ⟨hnew, hold⟩, hregs, hbytes, hseals⟩

/-- `INT_STATUS` written: the causes written 1 are cleared, and no vector is raised. -/
theorem State.clearCauses_spec (s : State) (page mask : Nat) :
    RegsOnly s (s.clearCauses page mask) ∧ SameRegs s (s.clearCauses page mask) (fun o => o = page + oINT_STATUS) ∧
      ∀ b, bit ((s.clearCauses page mask).hdr page oINT_STATUS) b = (bit (s.hdr page oINT_STATUS) b && !bit mask b) := by
  refine ⟨s.setReg_regsOnly _ _, fun o ho => State.reg_setReg_other _ _ _ _ ho, fun b => ?_⟩
  unfold State.clearCauses
  dsimp only
  rw [← bit_sub_and]
  show bit (State.reg _ (page + oINT_STATUS)).toNat b = _
  rw [State.reg_setReg_self, ofNat_toNat_of_lt (lt_of_le_of_lt (Nat.sub_le _ _) (s.hdr_lt _ _))]

/-- A vector raised against a state that shows the same host port, identity and vector. -/
theorem raised_of_header {s u t : State} {page : Nat} (hh : u.host = s.host) (hv : u.reg (page + oINT_VECTOR) = s.reg (page + oINT_VECTOR))
    (hid : u.reg (page + oPAGE_ID) = s.reg (page + oPAGE_ID)) (h : Raised u t page) : Raised s t page := by
  have hvec : Claims.vecOf u page = Claims.vecOf s page := congrArg (getBits · 10 0) hv
  unfold Raised at h
  rwa [hvec, hid, State.masked_of_bar4 (congrArg _ hh), State.msixMsg_of_bar4 (congrArg _ hh), hh] at h

theorem vecOf_of_header {s u : State} {page : Nat} (hv : u.reg (page + oINT_VECTOR) = s.reg (page + oINT_VECTOR)) :
    Claims.vecOf u page = Claims.vecOf s page := congrArg (getBits · 10 0) hv

/-- The register of a header at an offset of Table 2-4 is written as its command. -/
theorem State.regWrite_header {s : State} {view : View} {page o : Nat} {p : PageRef} (w : Word) (hw : Writes s view page false)
    (hheld : s.power.held = false) (hp : headerPage page = some p) (ho : o < 0x100) (h4 : o % 4 = 0) :
    s.regWrite view (page + o) w = s.writeHeader view p page o w := by
  obtain ⟨hpa, h0⟩ := headerPage_pageAt hp
  obtain ⟨hg, -, hsup, hstop⟩ := hw
  have hcls : p.cls ≠ .buttons := by
    intro hc
    unfold headerPage at hp
    rw [hpa, h0] at hp
    simp [hc] at hp
  obtain ⟨hbase, hoff⟩ := pageBase_eq h0 (show o < 0x1000 by omega)
  have hpo : pageAt (page + o) = some p := (pageAt_in h0 (Nat.le_add_right _ _) (by omega)).trans hpa
  have halign : ((page + o) % 4 != 0) = false := by
    rw [bne_eq_false_iff_eq]
    omega
  have hreset : (page + o == pgPower + R.POWER.RESET_CTL_MODULE.off) = false := by
    rw [beq_eq_false_iff_ne]
    intro e
    rw [e] at hoff
    exact absurd (hoff ▸ ho) (by decide)
  unfold State.regWrite State.alive
  rw [hpo, hsup, hheld]
  dsimp only
  rw [halign, hreset, hbase, hoff, hg, hstop]
  simp [hcls, ho]

/-- `INT_STATUS` written in the clock in which causes are set: the bits written are cleared, then the causes set. -/
theorem exec_intStatusClear {s : State} {view : View} {page : Nat} {p : PageRef} (mask setNow : Word) (hw : Writes s view page false)
    (hheld : s.power.held = false) (hp : headerPage page = some p) :
    exec (.intStatusClear view page mask setNow) s =
      .next ((s.clearCauses page (mask.toNat &&& p.cls.causes)).setCauses page (setNow.toNat &&& p.cls.causes)) := by
  have halive : s.alive = true := by
    unfold State.alive
    rw [hw.2.2.1, hheld]
    rfl
  show Host.Outcome.next _ = _
  rw [hp]
  dsimp only
  rw [if_pos halive, State.onWrite_writes hw]

/-- A cause of a page that a write of `INT_STATUS` leaves set. -/
def leftSet (s : State) (page mask : Nat) (c : Cls) (b : Nat) : Bool := bit (s.hdr page oINT_STATUS) b && !(bit mask b && bit c.causes b)

/-- What `INT_STATUS` and the vector of a page are after causes are cleared and others set in the same clock. -/
theorem State.clearSet_spec (s : State) {page : Nat} (mask setNow : Nat) (c : Cls) (h0 : page % 0x1000 = 0) :
    let t := (s.clearCauses page (mask &&& c.causes)).setCauses page (setNow &&& c.causes)
    (∀ b, bit (t.hdr page oINT_STATUS) b = (leftSet s page mask c b || (bit setNow b && bit c.causes b))) ∧
    (let new := ∃ b, b < 32 ∧ bit setNow b = true ∧ bit c.causes b = true ∧ leftSet s page mask c b = false ∧ bit (s.hdr page oINT_ENABLE) b = true
     (new → Raised s t page) ∧ (¬new → t.host = s.host ∧ SameRegs s t (fun o => o = page + oINT_STATUS))) ∧
    SameRegs s t (fun o => o = page + oINT_STATUS ∨ OfVector s page o) ∧ SameBytes s t ∧ SameSeals s t := by
  dsimp only
  obtain ⟨honly, hregs, hbits⟩ := s.clearCauses_spec page (mask &&& c.causes)
  generalize s.clearCauses page (mask &&& c.causes) = u at *
  have hhost : u.host = s.host := by
    obtain ⟨r, rfl⟩ := honly
    rfl
  have hreg : ∀ x, x ≠ oINT_STATUS → u.reg (page + x) = s.reg (page + x) := fun x hx => hregs _ fun e => hx (Nat.add_left_cancel e)
  have hvec := vecOf_of_header (hreg oINT_VECTOR (by decide))
  obtain ⟨hhdr, ⟨hnew, hold⟩, hother, hbytes, hseals⟩ := u.setCauses_spec setNow c h0
  have henable : u.hdr page oINT_ENABLE = s.hdr page oINT_ENABLE := congrArg BitVec.toNat (hreg oINT_ENABLE (by decide))
  have hleft : ∀ b, bit (u.hdr page oINT_STATUS) b = leftSet s page mask c b := fun b => (hbits b).trans (by rw [bit_and]; rfl)
  simp only [hleft, henable] at hnew hold
  refine ⟨fun b => by rw [hhdr, bit_or, hleft, bit_and], ⟨fun h => ?_, fun h => ?_⟩, fun o ho => ?_, fun a => ?_, fun k => ?_⟩
  · exact raised_of_header hhost (hreg _ (by decide)) (hreg _ (by decide)) (hnew h)
  · obtain ⟨hh, hr⟩ := hold h
    exact ⟨hh.trans hhost, fun o ho => (hr o ho).trans (hregs o ho)⟩
  · refine (hother o ?_).trans (hregs o fun e => ho (.inl e))
    unfold OfVector at ho ⊢
    rwa [hvec]
  · exact (hbytes a).trans (honly.sameBytes a)
  · exact (hseals k).trans (honly.sameSeals k)

end Sys2Proof.Machine

open Sys2Proof Sys2Proof.Machine Sys2Proof.Claims

theorem Sys2Proof.Claims.interruptRegistersTakeTheirBits : Claims.InterruptRegistersTakeTheirBits := by
  intro s view page p v hw hheld hp
  have h0 := (headerPage_pageAt hp).2
  have henable : exec (.intEnableWrite view page v) s = .next (s.writeEnable p.cls.causes page v.toNat) :=
    congrArg Host.Outcome.next (State.onHeader_writes hp hw)
  have hset : exec (.intSet view page v) s = .next (s.setCauses page (v.toNat &&& p.cls.causes)) :=
    congrArg Host.Outcome.next (State.onHeader_writes hp hw)
  refine ⟨⟨_, henable, s.writeEnable_spec v.toNat p.cls h0⟩, ⟨_, hset, s.setCauses_spec v.toNat p.cls h0⟩, ?_, ?_, ?_⟩
  · obtain ⟨hbits, ⟨-, hold⟩, -, hbytes, hseals⟩ := s.clearSet_spec v.toNat (0 : Word).toNat p.cls h0
    have hzero : ∀ b, bit (0 : Word).toNat b = false := fun b => by simp [bit]
    obtain ⟨hhost, hregs⟩ := hold (by rintro ⟨b, -, hb, -⟩; exact absurd hb (by rw [hzero]; decide))
    refine ⟨_, exec_intStatusClear v 0 hw hheld hp, fun b _ => ?_, hhost, hregs, hbytes, hseals⟩
    rw [hbits, hzero, Bool.false_and, Bool.or_false]
    rfl
  · rw [henable]
    exact congrArg Host.Outcome.next (State.regWrite_header v hw hheld hp (by decide) (by decide))
  · rw [hset]
    exact congrArg Host.Outcome.next (State.regWrite_header v hw hheld hp (by decide) (by decide))

/-- Settles O8: the cause set in the clock of its clearing is new, so it stands and raises the vector. -/
theorem Sys2Proof.Claims.causeInTheSameClockRaisesAgain : Obligations.CauseInTheSameClockRaisesAgain := by
  intro s view page p b mask setNow hw hheld hp hb hcause hmask hset
  obtain ⟨hbits, ⟨hnew, -⟩, hregs, hbytes, hseals⟩ := s.clearSet_spec mask.toNat setNow.toNat p.cls (headerPage_pageAt hp).2
  refine ⟨_, exec_intStatusClear mask setNow hw hheld hp, ?_, fun he => hnew ⟨b, hb, hset, hcause, ?_, he⟩, hregs, hbytes, hseals⟩
  · unfold Caused
    rw [hbits, hset, hcause, Bool.and_true, Bool.or_true]
  · unfold leftSet
    rw [hmask, hcause, Bool.and_true, Bool.not_true, Bool.and_false]
namespace Sys2Proof.Machine

/-! Masks of vectors and intervals of moderation (R53). -/

theorem State.modUs_of_regs {s t : State} (h : t.regs = s.regs) (v : Nat) : t.modUs v = s.modUs v :=
  congrArg (getBits · 15 0) (State.reg_of_regs h _)

theorem State.masked_setBar4 (s : State) (v : Nat) (on : Bool) : (s.setBar4 (16 * v + 12) (BitVec.ofNat 32 (b2n on))).masked v = on := by
  unfold State.masked
  rw [State.bar4Word_setBar4_self]
  cases on <;> decide

/-- The message of a vector does not depend on its mask. -/
theorem State.msixMsg_setMask (s : State) (v : Nat) (w : Word) : (s.setBar4 (16 * v + 12) w).msixMsg v = s.msixMsg v := by
  unfold State.msixMsg
  rw [State.bar4Word_setBar4_other _ _ _ _ (by omega), State.bar4Word_setBar4_other _ _ _ _ (by omega), State.bar4Word_setBar4_other _ _ _ _ (by omega)]

theorem State.setBar4_frame (s : State) (o : Nat) (w : Word) : ∃ b, s.setBar4 o w = { s with host := { s.host with bar4 := b } } := ⟨_, rfl⟩

/-- Masking a vector changes its mask alone. -/
theorem State.writeMask_on (s : State) (v : Nat) : s.writeMask v true = s.setBar4 (16 * v + 12) (BitVec.ofNat 32 (b2n true)) := by
  unfold State.writeMask
  rw [Bool.not_true, Bool.and_false]
  rfl

/-- Unmasking a vector with no pending raise changes its mask alone. -/
theorem State.unmask_idle (s : State) {v : Nat} (h : s.masked v = false ∨ s.vecPending v = false) :
    s.unmask v = s.setBar4 (16 * v + 12) (BitVec.ofNat 32 (b2n false)) := by
  have hp : (s.setBar4 (16 * v + 12) (BitVec.ofNat 32 (b2n false))).vecPending v = s.vecPending v := rfl
  unfold State.unmask State.writeMask State.flushVector
  dsimp only
  rw [hp]
  rcases h with h | h <;> rw [h]
  · rfl
  · split <;> rfl

/-- A raise merged into the interval of its vector that runs. -/
def State.mergeRaise (s : State) (v : Nat) : State := { s with host := { s.host with moderating := aput s.host.moderating v true } }

/-- Unmasking a vector whose raise is pending flushes it. -/
theorem State.unmask_pending (s : State) {v : Nat} (hm : s.masked v = true) (hp : s.vecPending v = true) :
    s.unmask v = if (aget? s.host.moderating v).isSome then (s.setBar4 (16 * v + 12) (BitVec.ofNat 32 (b2n false))).mergeRaise v
      else (s.setBar4 (16 * v + 12) (BitVec.ofNat 32 (b2n false))).sendVector v := by
  have hp' : (s.setBar4 (16 * v + 12) (BitVec.ofNat 32 (b2n false))).vecPending v = true := hp
  unfold State.unmask State.writeMask State.flushVector
  dsimp only
  rw [hp', hm]
  rfl

/-- The interval of a vector is over. -/
def State.closeInterval (s : State) (v : Nat) : State := { s with host := { s.host with moderating := aerase s.host.moderating v } }

theorem exec_moderationExpiry (s : State) (v : Fin 2048) :
    exec (.moderationExpiry v) s = .next (match aget? s.host.moderating v with
      | some true => if s.masked v then (s.closeInterval v).setVecPending v true else (s.closeInterval v).sendVector v
      | some false => s.closeInterval v
      | none => s) := by
  show Host.Outcome.next (match aget? s.host.moderating v.val with
    | some merged => s.endInterval v.val merged
    | none => s) = _
  cases aget? s.host.moderating v with
  | none => rfl
  | some b => cases b <;> rfl

/-- What unmasking a vector does. -/
theorem State.unmask_spec (s : State) (v : Nat) :
    (s.unmask v).masked v = false ∧
      (s.masked v = false ∨ s.vecPending v = false → (s.unmask v).host.msix = s.host.msix ∧ (s.unmask v).regs = s.regs) ∧
      (s.masked v = true → s.vecPending v = true → aget? s.host.moderating v = none →
        (s.unmask v).host.msix = s.host.msix ++ [s.msixMsg v] ∧ (s.unmask v).vecPending v = false ∧
        aget? (s.unmask v).host.moderating v = (if s.modUs v = 0 then none else some false)) ∧
      (s.masked v = true → s.vecPending v = true → aget? s.host.moderating v ≠ none →
        (s.unmask v).host.msix = s.host.msix ∧ aget? (s.unmask v).host.moderating v = some true) ∧
      SameRegs s (s.unmask v) (fun o => o = offVecCtl v) ∧ SameBytes s (s.unmask v) ∧ SameSeals s (s.unmask v) := by
  have hmask := s.masked_setBar4 v false
  have hmsg := s.msixMsg_setMask v (BitVec.ofNat 32 (b2n false))
  have hidle := s.unmask_idle (v := v)
  have hpending := s.unmask_pending (v := v)
  obtain ⟨b, hb⟩ := s.setBar4_frame (16 * v + 12) (BitVec.ofNat 32 (b2n false))
  rw [hb] at hmask hmsg hidle hpending
  by_cases h : s.masked v = false ∨ s.vecPending v = false
  · rw [hidle h]
    refine ⟨hmask, fun _ => ⟨rfl, rfl⟩, fun hm hp => ?_, fun hm hp => ?_, fun _ _ => rfl, fun _ => rfl, fun _ => rfl⟩ <;>
      rw [hm, hp] at h <;> exact absurd h (by decide)
  · have h' := h
    rw [not_or, Bool.not_eq_false, Bool.not_eq_false] at h'
    rw [hpending h'.1 h'.2]
    cases hmod : aget? s.host.moderating v with
    | some x =>
      rw [if_pos (show (some x).isSome = true from rfl)]
      exact ⟨hmask, fun hi => absurd hi h, nofun, fun _ _ _ => ⟨rfl, aget?_aput_same _ _ _⟩, fun _ _ => rfl, fun _ => rfl, fun _ => rfl⟩
    | none =>
      rw [if_neg (show ¬(none : Option Bool).isSome = true by decide)]
      obtain ⟨hmsix, hpend, hint, hregs, hbytes, hseals⟩ := State.sendVector_sends { s with host := { s.host with bar4 := b } } v
      rw [hmsg] at hmsix
      exact ⟨hmask, fun hi => absurd hi h, fun _ _ _ => ⟨hmsix, hpend, hint⟩, fun _ _ hn => absurd rfl hn, hregs, hbytes, hseals⟩

end Sys2Proof.Machine

open Sys2Proof Sys2Proof.Machine Sys2Proof.Claims

theorem Sys2Proof.Claims.moderationAndUnmasking : Claims.ModerationAndUnmasking := by
  intro s v
  have hexp := exec_moderationExpiry s v
  refine ⟨fun h => ?_, fun h hm => ?_, fun h hm => ?_, fun h => ?_, ⟨_, rfl, s.unmask_spec v⟩, fun hup => ?_⟩
  · rw [h] at hexp
    exact ⟨_, hexp, aget?_aerase _ _, rfl, rfl, fun _ => rfl, fun _ => rfl⟩
  · rw [h, hm] at hexp
    obtain ⟨hmsix, hpend, hint, hregs, hbytes, hseals⟩ := (s.closeInterval v).sendVector_sends v
    rw [State.msixMsg_of_bar4 (t := s.closeInterval v) (s := s) rfl] at hmsix
    rw [State.modUs_of_regs (t := s.closeInterval v) (s := s) rfl] at hint
    exact ⟨_, hexp, hmsix, hpend, hint, hregs, hbytes, hseals⟩
  · rw [h, hm] at hexp
    exact ⟨_, hexp, rfl, State.vecPending_setVecPending _ _ _, aget?_aerase _ _, fun o ho => State.reg_setReg_other _ _ _ _ ho, fun _ => rfl, fun _ => rfl⟩
  · rw [h] at hexp
    exact hexp
  · have hlive : (s.alive && !s.power.stopped) = true := by rw [hup.alive, hup.2.2]; rfl
    have hv := v.isLt
    have hwrite : (if s.alive && !s.power.stopped then s.writeBar4 (16 * v + 12) 1 else s) = s.writeMask v true := by
      rw [if_pos hlive]
      unfold State.writeBar4 State.writeMsix
      rw [show (16 * v.val + 12) % 4 = 0 by omega, if_pos (show 16 * v.val + 12 < pbaBase by unfold pbaBase; omega),
        show (16 * v.val + 12) % 16 = 12 by omega, show (16 * v.val + 12) / 16 = v.val by omega]
      rfl
    refine ⟨_, congrArg Host.Outcome.next (hwrite.trans (s.writeMask_on v)), s.masked_setBar4 v true, rfl, rfl, fun _ => rfl, fun _ => rfl⟩

/-- Settles O12: writes of the header by `State.setCauses_spec`, `writeEnable_spec` and `clearSet_spec`, masks by `unmask_spec`. -/
theorem Sys2Proof.Claims.interruptRegisters : Obligations.InterruptRegisters := ⟨interruptRegistersTakeTheirBits, moderationAndUnmasking⟩
end

section
/-! PROOFS. Grants and levels (R34 to R36, R47, R48), and what a cause with its logged event leaves. -/

namespace Sys2Proof.Machine

open Sys2Proof.Claims

/-! A logged event with its cause (R50, R453). -/

/-- An event logged with a cause of a page: the entry waits with the next number, the cause stands, and of the registers only `INT_STATUS`
of the page, the RECORD page and the vectors change. -/
theorem State.log_cause_spec (s : State) {page b : Nat} (src code : Nat) (d : List Nat) (hb : b < 32) (hp : ¬routeReg (page + oINT_STATUS)) :
    let t := (s.log src code d).cause page b
    SignalsOnly s t ∧ t.record.nextSeq = s.record.nextSeq + 1 ∧
      (∃ e : Entry, e.code = code ∧ e.detail = d ∧ e.seq = s.record.nextSeq ∧ e ∈ t.record.queue) ∧ Caused t page b ∧
      SameRegs s t (fun o => o = page + oINT_STATUS ∨ Reports o) := by
  dsimp only
  obtain ⟨q, e, hq, hcode, hd, hseq⟩ := s.log_queue src code d
  rw [State.cause_record]
  refine ⟨(s.log_signalsOnly _ _ _).trans (State.cause_signalsOnly _ _ _), s.log_nextSeq _ _ _, ⟨e, hcode, hd, hseq, ?_⟩,
    State.cause_set _ _ _ hb hp, fun o ho => ?_⟩
  · rw [hq]
    exact List.mem_append_right _ List.mem_cons_self
  · obtain ⟨hi, hr⟩ := not_or.mp ho
    obtain ⟨hrec, hvec⟩ := not_or.mp hr
    rw [State.reg_cause_other _ _ _ _ hi hvec, State.reg_log_other _ _ _ _ _ hrec hvec]

/-! Grants (R34 to R36). -/

theorem Cls.code_class (c : Cls) : c.code / 32 < 4 ∧ bit (grantMask (c.code / 32)) (c.code % 32) = grantableClass c := by
  cases c <;> decide +kernel

/-- The word that a grant register takes. -/
theorem State.writeGrant_reg (s : State) (reg : Nat) (w : Word) :
    ((s.writeGrant reg w.toNat).reg (pgDevice + R.DEVICE.GRANT_CLASS.off + 4 * reg)).toNat =
      if reg < 4 then w.toNat &&& grantMask reg else w.toNat := by
  unfold State.writeGrant
  rw [State.reg_setReg_self]
  split
  · exact ofNat_toNat_of_lt (lt_of_le_of_lt Nat.and_le_left w.isLt)
  · exact ofNat_toNat_of_lt w.isLt

/-! Levels (R47, R48). -/

theorem State.any_queueOn (s : State) : (List.range 64).any s.queueOn = true ↔ ∃ q, q < 64 ∧ s.queueOn q = true := by
  simp only [List.any_eq_true, List.mem_range]

theorem levelOf_bounds (v : Nat) : 0x100 ≤ levelOf v ∧ levelOf v ≤ 0x101 ∧ (v ≤ 0x100 ↔ levelOf v = 0x100) := by
  unfold levelOf
  split
  · omega
  · split <;> omega

/-- A register that holds a level shows its major part 1 and its minor part. -/
theorem getBits_level {n : Nat} (h : 0x100 ≤ n ∧ n ≤ 0x101) :
    getBits (BitVec.ofNat 32 n) 15 8 = 1 ∧ getBits (BitVec.ofNat 32 n) 7 0 = n - 0x100 := by
  unfold getBits
  rw [ofNat_toNat_of_lt (by omega)]
  omega

/-- The level register after a write that takes effect. -/
theorem State.writeLevel_spec {s : State} {v : Nat} (hoff : ∀ q, q < 64 → s.queueOn q = false) :
    let u := s.writeLevel v
    RegsOnly s u ∧ u.reg (pgDevice + R.DEVICE.HOST_LEVEL_MAJOR.off) = BitVec.ofNat 32 (levelOf v) ∧
      (0x100 ≤ v → SameRegs s u (fun o => o = pgDevice + R.DEVICE.HOST_LEVEL_MAJOR.off)) ∧
      (v < 0x100 → u.rf pgDevice R.DEVICE.CLAMP_COUNT = up32 (s.rf pgDevice R.DEVICE.CLAMP_COUNT) ∧
        u.rf pgDevice R.DEVICE.CLAMP_LAST_VIEW = 0 ∧ u.rf pgDevice R.DEVICE.CLAMP_LAST_OFFSET = R.DEVICE.HOST_LEVEL_MAJOR.off ∧
        SameRegs s u (fun o => o = pgDevice + R.DEVICE.HOST_LEVEL_MAJOR.off ∨ Clamps o)) := by
  have hany : ¬(List.range 64).any s.queueOn = true := fun h => by
    obtain ⟨q, hq, hon⟩ := s.any_queueOn.mp h
    exact Bool.false_ne_true ((hoff q hq).symm.trans hon)
  have hset : SameRegs s (s.setReg (pgDevice + R.DEVICE.HOST_LEVEL_MAJOR.off) (BitVec.ofNat 32 (levelOf v)))
      (fun o => o = pgDevice + R.DEVICE.HOST_LEVEL_MAJOR.off) := fun o ho => State.reg_setReg_other _ _ _ _ ho
  have hself := s.reg_setReg_self (pgDevice + R.DEVICE.HOST_LEVEL_MAJOR.off) (BitVec.ofNat 32 (levelOf v))
  have hframe := s.setReg_regsOnly (pgDevice + R.DEVICE.HOST_LEVEL_MAJOR.off) (BitVec.ofNat 32 (levelOf v))
  unfold State.writeLevel
  dsimp only
  rw [if_neg hany]
  generalize s.setReg (pgDevice + R.DEVICE.HOST_LEVEL_MAJOR.off) (BitVec.ofNat 32 (levelOf v)) = t at *
  by_cases hlow : v < 0x100
  · rw [if_pos hlow]
    obtain ⟨hcount, hview, hlast⟩ := t.noteClamp_counts .bar0 (off := pgDevice + R.DEVICE.HOST_LEVEL_MAJOR.off) (by decide)
    have hsame : t.rf pgDevice R.DEVICE.CLAMP_COUNT = s.rf pgDevice R.DEVICE.CLAMP_COUNT := congrArg (getBits · 31 0) (hset _ (by decide))
    refine ⟨hframe.trans (t.noteClamp_regsOnly _ _), (t.reg_noteClamp_other _ _ _ (by unfold Clamps; decide)).trans hself,
      fun h => absurd hlow (by omega), fun _ => ⟨hcount.trans (congrArg up32 hsame), hview, hlast, fun o ho => ?_⟩⟩
    obtain ⟨h1, h2⟩ := not_or.mp ho
    rw [State.reg_noteClamp_other _ _ _ _ h2, hset o h1]
  · rw [if_neg hlow]
    exact ⟨hframe, hself, fun _ => hset, fun h => absurd h hlow⟩

end Sys2Proof.Machine

open Sys2Proof Sys2Proof.Machine Sys2Proof.Claims

/-- Settles O10: the ignored write logs its event and raises its cause, and no more. -/
theorem Sys2Proof.Claims.levelWriteIgnoredWhileQueueEnabled : Obligations.LevelWriteIgnoredWhileQueueEnabled := by
  intro s q w hw hq hon
  have hex : exec (.hostLevelWrite .bar0 w) s = .next ((s.log pgDevice 0x0D02 [w.toNat % 65536]).cause pgDevice 1) := by
    refine congrArg Host.Outcome.next ((State.onWrite_writes hw).trans ?_)
    unfold State.writeLevel
    exact if_pos (s.any_queueOn.mpr ⟨q, hq, hon⟩)
  obtain ⟨honly, hseq, ⟨e, hcode, -, heseq, hmem⟩, hcause, hregs⟩ :=
    s.log_cause_spec (page := pgDevice) (b := 1) pgDevice 0x0D02 [w.toNat % 65536] (by decide) (by decide)
  exact ⟨_, hex, hregs _ (by unfold Reports InPage; decide), hseq, ⟨e, hcode, heseq, hmem⟩, hcause, hregs, honly.sameBytes, honly.sameSeals⟩

/-- Settles O9: a grant register takes the bits of `grantMask`, the level register `levelOf` of what is written. -/
theorem Sys2Proof.Claims.grantAndLevelWrites : Obligations.GrantAndLevelWrites := by
  intro s reg w hw
  constructor
  · have hex : exec (.grantWrite .bar0 reg w) s = .next (s.writeGrant reg w.toNat) := congrArg Host.Outcome.next (State.onWrite_writes hw)
    have hreg := s.writeGrant_reg reg w
    refine ⟨_, hex, fun h => BitVec.eq_of_toNat_eq ?_, fun c hc => ?_, fun o ho => State.reg_setReg_other _ _ _ _ ho, fun _ => rfl, fun _ => rfl⟩
    · rw [hreg, if_neg (by omega)]
    · obtain ⟨hlt, hbit⟩ := c.code_class
      rw [hc] at hlt hbit
      rw [hreg, if_pos hlt, bit_and, hbit, Bool.and_comm]
  · intro hoff
    obtain ⟨honly, hreg, hexact, hclamp⟩ := State.writeLevel_spec (v := w.toNat % 65536) hoff
    obtain ⟨hlow, hhigh, hone⟩ := levelOf_bounds (w.toNat % 65536)
    obtain ⟨hmajor, hminor⟩ := getBits_level ⟨hlow, hhigh⟩
    refine ⟨_, congrArg Host.Outcome.next (State.onWrite_writes hw), ?_, ?_, hexact, hclamp, honly.sameBytes, honly.sameSeals⟩
    · exact (congrArg (getBits · 15 8) hreg).trans hmajor
    · refine (congrArg (getBits · 7 0) hreg).trans (hminor.trans ?_)
      split <;> omega

theorem Sys2Proof.Claims.resetIsCanonical : Claims.ResetIsCanonical := ⟨⟨List.Pairwise.nil, nofun⟩, rfl, List.Pairwise.nil⟩

theorem Sys2Proof.Claims.resetValues : Claims.ResetValues := by
  unfold Claims.ResetValues
  decide +kernel

/-- Settles O4: no register, byte or seal entry is listed at reset, so each reads the value of its table. -/
theorem Sys2Proof.Claims.resetState : Obligations.ResetState := ⟨resetIsCanonical, resetValues⟩

end

section
/-! PROOFS. Host accesses of device memory and requests to host memory (R26 to R31). -/

namespace Sys2Proof.Machine

open Sys2Proof.Claims

/-! Seals of a range (R378, R379). -/

/-- The blocks of a range meet it. -/
theorem blocksOf_bounds {a len k : Nat} (h : k ∈ blocksOf a len) : 4096 * k < a + len ∧ a < 4096 * k + 4096 := by
  unfold blocksOf at h
  split at h
  · exact absurd h List.not_mem_nil
  · rename_i h0
    obtain ⟨i, hi, rfl⟩ := List.mem_map.mp h
    have hi := List.mem_range.mp hi
    have h0 : len ≠ 0 := fun e => h0 (by simp [e])
    omega

/-- The seal of a block is formed anew from its content, where the block carries one. -/
def State.sealBlock (s : State) (k : Nat) : State := if inHost (4096 * k) then s else s.setSeal k (s.sealOf k)

theorem State.reseal_eq (s : State) (a len : Nat) : s.reseal a len = (blocksOf a len).foldl State.sealBlock s := rfl

theorem State.sealOf_sealBlock (s : State) (j k : Nat) : (s.sealBlock j).sealOf k = s.sealOf k := by
  unfold State.sealBlock
  split <;> rfl

theorem State.sealEntry_sealBlocks (s : State) (l : List Nat) {k : Nat} (hk : inHost (4096 * k) = false) :
    (l.foldl State.sealBlock s).sealEntry k = if k ∈ l then s.sealOf k else s.sealEntry k := by
  induction l generalizing s with
  | nil => rfl
  | cons j l ih =>
    rw [List.foldl_cons, ih, State.sealOf_sealBlock]
    by_cases hl : k ∈ l
    · rw [if_pos hl, if_pos (List.mem_cons_of_mem _ hl)]
    · rw [if_neg hl]
      by_cases hj : k = j
      · subst hj
        rw [if_pos List.mem_cons_self, State.sealBlock, if_neg (by rw [hk]; decide), State.sealEntry_setSeal_self]
      · rw [if_neg (by simp [hl, hj]), State.sealBlock]
        split
        · rfl
        · exact State.sealEntry_setSeal_other _ _ _ _ hj

/-- Every block of a sealed range that is not the host's carries the seal of its content. -/
theorem State.sealEntry_putSealed_in (s : State) {a k : Nat} (b : List Byte) (h : k ∈ blocksOf a b.length) (hk : inHost (4096 * k) = false) :
    (s.putSealed a b).sealEntry k = (s.putSealed a b).sealOf k := by
  obtain ⟨q, hq⟩ := (s.put a b).reseal_frame a b.length
  have hof : (s.putSealed a b).sealOf k = (s.put a b).sealOf k := by
    unfold State.putSealed
    rw [hq]
    rfl
  rw [hof]
  unfold State.putSealed
  rw [State.reseal_eq, State.sealEntry_sealBlocks _ _ hk, if_pos h]

/-! A count with its event and cause. -/

/-- A count of a page raised, with its event and its cause. -/
theorem State.count_log_cause_spec (s : State) (page : Nat) (f : Fld) (code : Nat) (d : List Nat) {b : Nat} (hb : b < 32)
    (hp : ¬routeReg (page + oINT_STATUS)) (hhi : f.hi = 31) (hlo : f.lo = 0)
    (hf : ¬(f.addr page 0 = page + oINT_STATUS ∨ Reports (f.addr page 0))) :
    let t := ((s.inc page f).log page code d).cause page b
    SignalsOnly s t ∧ t.rf page f = up32 (s.rf page f) ∧
      (∃ e : Entry, e.code = code ∧ e.detail = d ∧ e.seq = s.record.nextSeq ∧ e ∈ t.record.queue) ∧ Caused t page b ∧
      SameRegs s t (fun o => o = f.addr page 0 ∨ o = page + oINT_STATUS ∨ Reports o) := by
  dsimp only
  obtain ⟨honly, -, hentry, hcause, hregs⟩ := (s.inc page f).log_cause_spec page code d hb hp
  have hinc := s.rf_inc_self page f 0 (by omega) (by omega)
  rw [hhi, hlo] at hinc
  refine ⟨(s.inc_regsOnly page f 0).signalsOnly.trans honly, ?_, hentry, hcause, fun o ho => ?_⟩
  · exact (congrArg (getBits · f.hi f.lo) (hregs _ hf)).trans hinc
  · obtain ⟨h1, h2⟩ := not_or.mp ho
    exact (hregs o h2).trans (State.reg_inc_other _ _ _ _ _ h1)

/-! The HDM decoder (R27). -/

theorem State.hdmReach_up {s : State} {off len : Nat} (h : Up s) (hd : 3 ≤ s.devState) (hlen : off + len ≤ hdmSize) : s.hdmReach off len = true := by
  unfold State.hdmReach
  rw [h.alive, decide_eq_true hd, decide_eq_true hlen]
  rfl

/-- The decoder's range ends below the host window. -/
theorem inHost_hdm {off len k : Nat} (h : off + len ≤ hdmSize) (hk : k ∈ blocksOf (tierBBase + off) len) : inHost (4096 * k) = false := by
  have := (blocksOf_bounds hk).1
  unfold inHost hostBase
  unfold hdmSize at h
  unfold tierBBase at this
  rw [decide_eq_false (by omega), Bool.false_and]

/-- A line marked changes nothing but the marks, which then hold it. -/
theorem State.mark_spec (s : State) (l : Nat) : ∃ m, s.mark l = { s with host := { s.host with marks := m } } ∧ l ∈ m := by
  unfold State.mark
  split
  · rename_i h
    exact ⟨s.host.marks, rfl, List.contains_iff_mem.mp h⟩
  · exact ⟨_, rfl, List.mem_append_right _ List.mem_cons_self⟩

end Sys2Proof.Machine

open Sys2Proof Sys2Proof.Machine Sys2Proof.Claims

theorem Sys2Proof.Claims.hostWriteStoresAndSeals : Claims.HostWriteStoresAndSeals := by
  intro s off data hup hd hlen
  have hex : exec (.hostMemWrite off data) s = .next (s.hostWrite (tierBBase + off) data) :=
    congrArg Host.Outcome.next (if_pos (State.hdmReach_up hup hd hlen))
  refine ⟨_, hex, ?_⟩
  unfold State.hostWrite
  by_cases hen : s.rf pgHost R.HOST.HDM_SEAL_EN = 1
  · rw [if_pos (beq_iff_eq.mpr hen)]
    obtain ⟨m, tr, p, q, hframe⟩ := s.putSealed_memOnly (tierBBase + off) data
    refine ⟨fun i hi => s.byte_putSealed_same _ data i hi, fun a ha => s.byte_putSealed_other _ data a ha,
      fun _ => ⟨fun k hk => s.sealEntry_putSealed_in data hk (inHost_hdm hlen hk), fun k hk => ?_⟩, fun h0 => absurd (hen.symm.trans h0) (by decide), ?_, ?_⟩
    · exact (s.putSealed_onlyIn _ data).2 k fun r hr => by
        obtain rfl := List.mem_singleton.mp hr
        exact hk
    · rw [hframe]
    · rw [hframe]
  · rw [if_neg (by rwa [beq_iff_eq])]
    refine ⟨fun i hi => s.byte_put_same _ data i hi, fun a ha => s.byte_put_other _ data a ha, fun h1 => absurd h1 hen,
      fun _ k => s.sealEntry_put _ data k, s.put_regs _ data, ?_⟩
    obtain ⟨m, tr, p, q, hframe⟩ := s.put_memOnly (tierBBase + off) data
    rw [hframe]

theorem Sys2Proof.Claims.hostReadMarksTheLine : Claims.HostReadMarksTheLine := by
  intro s off hup hd hlen
  constructor
  · intro hgood
    obtain ⟨m, hmark, hmem⟩ := s.mark_spec ((tierBBase + off) / 64)
    have hex : exec (.hostMemRead off) s = .next (s.hostRead ((tierBBase + off) / 64)) :=
      congrArg Host.Outcome.next (if_pos (State.hdmReach_up hup hd hlen))
    unfold State.hostRead at hex
    dsimp only at hex
    rw [hmark, if_neg (by rw [hgood]; decide)] at hex
    exact ⟨_, hex, rfl, hmem, rfl, rfl, rfl⟩
  · intro line hline
    have hex : exec (.backInvalidateResponse line) s = .next (if s.host.snoops.contains line then _ else s) := rfl
    rw [if_pos (List.contains_iff_mem.mpr hline)] at hex
    refine ⟨_, hex, ?_, ?_, fun l hl => ?_, rfl, rfl, rfl⟩
    · simp
    · simp
    · simp [hl]

/-- Settles O13: a line marked as uncorrectable is answered with poison, counted and logged with its cause. -/
theorem Sys2Proof.Claims.poisonIsReturnedAndLogged : Obligations.PoisonIsReturnedAndLogged := by
  intro s off hup hd hlen hbad
  obtain ⟨m, hmark, -⟩ := s.mark_spec ((tierBBase + off) / 64)
  have hex : exec (.hostMemRead off) s = .next (s.hostRead ((tierBBase + off) / 64)) :=
    congrArg Host.Outcome.next (if_pos (State.hdmReach_up hup hd hlen))
  unfold State.hostRead at hex
  dsimp only at hex
  rw [hmark, if_pos hbad] at hex
  obtain ⟨honly, hcount, hentry, hcause, hregs⟩ := State.count_log_cause_spec { s with host := { s.host with marks := m } } pgHost
    R.HOST.POISON_COUNT 0x0D05 [64 * ((tierBBase + off) / 64)] (b := 2) (by decide) (by decide) rfl rfl (by unfold Reports InPage; decide)
  exact ⟨_, hex, rfl, hentry, hcount, hcause, hregs, honly.sameBytes, honly.sameSeals⟩

theorem Sys2Proof.Claims.cacheRequestsAtMost512 : Claims.CacheRequestsAtMost512 := by
  intro s hw
  constructor
  · intro hn
    have hex : exec .cacheRequestIssue s = .next (if 0 < s.host.waiting && s.rf pgHost R.HOST.CACHE_INFLIGHT_COUNT < 512 then _ else s) := rfl
    rw [if_pos (by simp [hw, hn])] at hex
    refine ⟨_, hex, ?_, Nat.sub_add_cancel hw, fun o ho => State.reg_wf_other _ _ _ _ _ _ ho, fun _ => rfl, fun _ => rfl⟩
    rw [State.rf_wf_self _ _ _ _ _ (by decide) (by decide)]
    exact Nat.mod_eq_of_lt (show _ < 1024 by omega)
  · intro hn
    exact congrArg Host.Outcome.next (if_neg (by simp [Nat.not_lt.mpr hn]))

/-- Settles O14: memory by `State.put` and its seals, the marks and the counts of the port. -/
theorem Sys2Proof.Claims.hostMemory : Obligations.HostMemory := ⟨hostWriteStoresAndSeals, hostReadMarksTheLine, cacheRequestsAtMost512⟩
end

section
/-! PROOFS. Configuration accesses, the CXL link, IDE failures and SPDM requests (R21, R23, R56, R57, R449 to R451). -/

namespace Sys2Proof.Machine

open Sys2Proof.Claims

theorem SignalsOnly.sec {s t : State} (h : SignalsOnly s t) : t.sec = s.sec := by
  obtain ⟨r, m, i, e, rfl⟩ := h
  rfl

theorem SignalsOnly.mem {s t : State} (h : SignalsOnly s t) : t.mem = s.mem := by
  obtain ⟨r, m, i, e, rfl⟩ := h
  rfl

theorem SignalsOnly.seals {s t : State} (h : SignalsOnly s t) : t.seals = s.seals := by
  obtain ⟨r, m, i, e, rfl⟩ := h
  rfl

theorem SignalsOnly.bar4Word {s t : State} (h : SignalsOnly s t) (o : Nat) : t.bar4Word o = s.bar4Word o := by
  obtain ⟨r, m, i, e, rfl⟩ := h
  rfl

/-! `LINK_STATUS` (R56). -/

theorem b2n_le (b : Bool) : b2n b ≤ 1 := by cases b <;> decide

/-- The fields of a link's word. -/
theorem linkWord_fields (l : CxlLink) :
    getBits (CxlLink.word l) 4 0 = l.width ∧ getBits (CxlLink.word l) 7 5 = l.rate ∧ getBits (CxlLink.word l) 8 8 = b2n l.up ∧
      getBits (CxlLink.word l) 9 9 = b2n l.lopt ∧ getBits (CxlLink.word l) 10 10 = b2n l.ideIo ∧ getBits (CxlLink.word l) 11 11 = b2n l.ideCm := by
  have hup := b2n_le l.up
  have hlopt := b2n_le l.lopt
  have hio := b2n_le l.ideIo
  have hcm := b2n_le l.ideCm
  have hwidth := l.width.isLt
  have hrate := l.rate.isLt
  unfold getBits CxlLink.word
  rw [ofNat_toNat_of_lt (by omega)]
  refine ⟨?_, ?_, ?_, ?_, ?_, ?_⟩ <;> omega

/-- `LINK_STATUS` follows the link, and a change of it is logged with its cause. -/
theorem State.linkNow_spec (s : State) (w : Word) :
    let t := s.linkNow w
    SignalsOnly s t ∧ t.reg offLink = w ∧
      (s.reg offLink ≠ w → Caused t pgHost 0 ∧
        ∃ e : Entry, e.code = 0x0D03 ∧ e.detail = [w.toNat] ∧ e.seq = s.record.nextSeq ∧ e ∈ t.record.queue) ∧
      SameRegs s t (fun o => o = offLink ∨ o = pgHost + oINT_STATUS ∨ Reports o) := by
  dsimp only
  unfold State.linkNow
  by_cases h : s.reg offLink = w
  · rw [if_pos h]
    exact ⟨.refl s, h, fun hn => absurd h hn, fun _ _ => rfl⟩
  · rw [if_neg h]
    obtain ⟨honly, -, hentry, hcause, hregs⟩ := (s.setReg offLink w).log_cause_spec (page := pgHost) (b := 0) pgHost 0x0D03 [w.toNat] (by decide)
      (by decide)
    refine ⟨(s.setReg_regsOnly offLink w).signalsOnly.trans honly, ?_, fun _ => ⟨hcause, hentry⟩, fun o ho => ?_⟩
    · exact (hregs _ (by unfold Reports InPage; decide)).trans (s.reg_setReg_self _ _)
    · obtain ⟨h1, h2⟩ := not_or.mp ho
      exact (hregs o h2).trans (State.reg_setReg_other _ _ _ _ h1)

/-! Configuration space (Table 2-1). -/

theorem configWord_device (free : Word) : (configWord 0 free).toNat / 2 ^ 16 = 0x2100 := by
  show (BitVec.ofNat 32 (0x2100 * 2 ^ 16 + free.toNat % 2 ^ 16)).toNat / 2 ^ 16 = _
  rw [ofNat_toNat_of_lt (by omega)]
  omega

theorem configWord_class (free : Word) : (configWord 2 free).toNat / 2 ^ 8 = 0x120000 := by
  show (BitVec.ofNat 32 (0x120000 * 2 ^ 8 + free.toNat % 2 ^ 8)).toNat / 2 ^ 8 = _
  rw [ofNat_toNat_of_lt (by omega)]
  omega

/-- A configuration request is answered with Retry Status before `DEV_STATE` 0x3. -/
theorem exec_configRequest_retry {s : State} (h : Up s) (w : Bool) (d : Fin 1024) (hd : s.devState = 1 ∨ s.devState = 2) :
    exec (.configRequest w d) s = .next { s with reply := .retryStatus } := by
  have hoff : (!s.alive || s.devState == 0) = false := by
    rw [h.alive, beq_eq_false_iff_ne.mpr (by omega)]
    rfl
  have hlow : s.devState < 3 := by omega
  show Host.Outcome.next _ = _
  rw [hoff, if_neg (by decide), if_pos hlow]

/-- From `DEV_STATE` 0x3 it is answered with a completion, a read with the word. -/
theorem exec_configRequest_done {s : State} (h : Up s) (w : Bool) (d : Fin 1024) (hd : 3 ≤ s.devState) :
    exec (.configRequest w d) s = .next (if w then { s with reply := .configDone 0 }
      else { (s.draw d).2 with reply := .configDone (configWord d (s.draw d).1) }) := by
  have hoff : (!s.alive || s.devState == 0) = false := by
    rw [h.alive, beq_eq_false_iff_ne.mpr (by omega)]
    rfl
  show Host.Outcome.next _ = _
  rw [hoff, if_neg (by decide), if_neg (by omega)]

/-! Flits that fail their integrity check (R57). -/

theorem exec_ideIntegrityFailure {s : State} (h : Up s) (stream : Byte) (flit : FailedFlit) (hon : s.ideOn flit.proto = true) :
    exec (.ideIntegrityFailure stream flit) s = .next
      (((((if s.sec.skid then (s.useFlit flit.proto flit.carried).rasIde else s).inc pgHost R.HOST.IDE_ERR_COUNT).log pgHost 0x0D04
        [stream.toNat, protoCode flit.proto]).cause pgHost 1)) :=
  congrArg Host.Outcome.next (if_pos (by rw [h.alive, hon]; rfl))

/-- The count of integrity failures with its event and cause. -/
theorem State.ideCounted (s : State) (stream : Byte) (proto : CxlProtocol) :
    let t := ((s.inc pgHost R.HOST.IDE_ERR_COUNT).log pgHost 0x0D04 [stream.toNat, protoCode proto]).cause pgHost 1
    SignalsOnly s t ∧ t.rf pgHost R.HOST.IDE_ERR_COUNT = up32 (s.rf pgHost R.HOST.IDE_ERR_COUNT) ∧
      (∃ e : Entry, e.code = 0x0D04 ∧ e.detail = [stream.toNat, protoCode proto] ∧ e.seq = s.record.nextSeq ∧ e ∈ t.record.queue) ∧
      Caused t pgHost 1 ∧ SameRegs s t (fun o => o = pgHost + R.HOST.IDE_ERR_COUNT.off ∨ o = pgHost + oINT_STATUS ∨ Reports o) :=
  s.count_log_cause_spec pgHost R.HOST.IDE_ERR_COUNT 0x0D04 _ (by decide) (by decide) rfl rfl (by unfold Reports InPage; decide)

theorem State.bar4Word_rasIde (s : State) : bit (s.rasIde.bar4Word 0x11080).toNat 16 = true := by
  unfold State.rasIde
  rw [State.bar4Word_setBar4_self]
  exact bit_setBits_self _ 16 true (by decide)

/-- A host write changes no register. -/
theorem State.takeMemWrite_regs (s : State) (off : Nat) (data : List Byte) : (s.takeMemWrite off data).regs = s.regs := by
  unfold State.takeMemWrite State.hostWrite
  split
  · split
    · obtain ⟨m, tr, p, q, hf⟩ := s.putSealed_memOnly (tierBBase + off) data
      rw [hf]
    · exact s.put_regs _ _
  · rfl

/-! The DOE mailbox (R21, R23). -/

/-- A message outside a session is answered as it stands. -/
theorem exec_spdm_plain {s : State} (h : Up s) (hd : 3 ≤ s.devState) {r : SpdmRequest} (hr : ∀ code, r ≠ .other code) :
    exec (.spdmRequest ⟨false, r⟩) s = .next (s.spdm false r) := by
  have hlive : (!s.alive || s.devState < 3) = false := by rw [h.alive, decide_eq_false (by omega)]; rfl
  cases r with
  | other code => exact absurd rfl (hr code)
  | _ => exact congrArg Host.Outcome.next (if_neg (by rw [hlive]; decide))

/-- A message of a session is answered while the session stands, and its answer leaves secured. -/
theorem exec_spdm_secured {s : State} (h : Up s) (hd : 3 ≤ s.devState) {r : SpdmRequest} (hr : ∀ code, r ≠ .other code) :
    exec (.spdmRequest ⟨true, r⟩) s = .next (if s.sec.session then (s.spdm true r).secureReply else s) := by
  have hlive : (!s.alive || s.devState < 3) = false := by rw [h.alive, decide_eq_false (by omega)]; rfl
  cases r with
  | other code => exact absurd rfl (hr code)
  | _ => exact congrArg Host.Outcome.next (if_neg (by rw [hlive]; decide))

theorem State.certBytes_length (s : State) (a n : Nat) : (s.certBytes a n).length = Nat.min n (s.rf pgSecurity R.SECURITY.CERT_LEN - a) := by
  unfold State.certBytes
  rw [List.length_map, List.length_range]

theorem State.certBytes_getElem (s : State) (a n i : Nat) (h : i < (s.certBytes a n).length) : (s.certBytes a n)[i] = Config.certByte (a + i) := by
  simp only [State.certBytes, List.getElem_map, List.getElem_range]

theorem State.spdm_measurement (s : State) (secured : Bool) {i : Nat} (h1 : 1 ≤ i) (h4 : i ≤ 4) :
    s.spdm secured (.measurement i) = { s with reply := .bytes (s.measurement i) } :=
  congrArg (fun b => { s with reply := .bytes b }) (if_pos ⟨h1, h4⟩)

/-- The key exchange opens a session, answers with the signature and counts it. -/
theorem State.keyExchange_spec (s : State) (h : List Byte) :
    let t := s.spdm false (.keyExchange h)
    t.sec.session = true ∧ t.sec.msgNo = 0 ∧ t.reply = .bytes ((List.range 64).map (Config.sm2Sign s.fresh (sm3 h))) ∧
      t.rf pgSecurity R.SECURITY.SIGN_COUNT = up32 (s.rf pgSecurity R.SECURITY.SIGN_COUNT) ∧
      SameRegs s t (fun o => o = pgSecurity + R.SECURITY.SIGN_COUNT.off) ∧ SameBytes s t ∧ SameSeals s t :=
  ⟨rfl, rfl, rfl, State.rf_inc_self _ pgSecurity R.SECURITY.SIGN_COUNT 0 (by decide) (by decide),
    fun o ho => State.reg_inc_other _ _ _ _ _ ho, fun _ => rfl, fun _ => rfl⟩

/-- The word of the link with one bit of it written, in a state that differs in its security alone. -/
theorem State.linkBit_spec (s : State) (c : Sec) {b : Nat} (on : Bool) (hb : b < 32) :
    let t := ({ s with sec := c }).linkNow (setBits (s.reg offLink) b b (b2n on))
    t.sec = c ∧ getBits (t.reg offLink) b b = b2n on ∧
      SameRegs s t (fun o => o = offLink ∨ o = pgHost + oINT_STATUS ∨ Reports o) ∧ SameBytes s t ∧ SameSeals s t := by
  obtain ⟨honly, hreg, -, hregs⟩ := State.linkNow_spec { s with sec := c } (setBits (s.reg offLink) b b (b2n on))
  refine ⟨honly.sec, ?_, hregs, honly.sameBytes, honly.sameSeals⟩
  rw [hreg, getBits_setBits_self _ _ _ _ (Nat.le_refl b) hb, Nat.add_sub_cancel_left]
  exact Nat.mod_eq_of_lt (Nat.lt_succ_of_le (b2n_le on))

/-- IDE on CXL.io within a session. -/
theorem State.ideKey_io_spec (s : State) (on : Bool) :
    let t := (s.spdm true (.ideKey .io on)).secureReply
    t.sec.ideIo = on ∧ t.sec.ideCm = s.sec.ideCm ∧ t.rf pgHost R.HOST.LINK_STATUS_IDE_IO = b2n on ∧ t.reply = .spdmDone ∧
      SameRegs s t (fun o => o = offLink ∨ o = pgHost + oINT_STATUS ∨ Reports o) ∧ SameBytes s t ∧ SameSeals s t := by
  obtain ⟨hsec, hbit, hregs, hbytes, hseals⟩ := s.linkBit_spec { s.sec with ideIo := on } (b := 10) on (by decide)
  have hio := congrArg Sec.ideIo hsec
  have hcm := congrArg Sec.ideCm hsec
  exact ⟨hio, hcm, hbit, rfl, hregs, hbytes, hseals⟩

/-- IDE on CXL.cache and CXL.mem within a session. -/
theorem State.ideKey_cm_spec (s : State) (on : Bool) :
    let t := (s.spdm true (.ideKey .mem on)).secureReply
    t.sec.ideCm = on ∧ t.sec.ideIo = s.sec.ideIo ∧ t.rf pgHost R.HOST.LINK_STATUS_IDE_CM = b2n on ∧ t.reply = .spdmDone ∧
      SameRegs s t (fun o => o = offLink ∨ o = pgHost + oINT_STATUS ∨ Reports o) ∧ SameBytes s t ∧ SameSeals s t := by
  obtain ⟨hsec, hbit, hregs, hbytes, hseals⟩ := s.linkBit_spec { s.sec with ideCm := on } (b := 11) on (by decide)
  have hio := congrArg Sec.ideIo hsec
  have hcm := congrArg Sec.ideCm hsec
  exact ⟨hcm, hio, hbit, rfl, hregs, hbytes, hseals⟩

end Sys2Proof.Machine

open Sys2Proof Sys2Proof.Machine Sys2Proof.Claims

theorem Sys2Proof.Claims.configurationAndLink : Claims.ConfigurationAndLink := by
  intro s hup
  refine ⟨exec_configRequest_retry hup, fun d hd => ?_, fun d hd => exec_configRequest_done hup true d hd, fun l hd hw => ?_,
    fun stream proto d hon hskid => ?_, fun stream off data u hon hskid hu => ?_⟩
  · refine ⟨_, exec_configRequest_done hup false d hd, _, rfl, fun h0 => ?_, fun h2 => ?_, rfl, rfl, rfl⟩
    · rw [h0]
      exact configWord_device _
    · rw [h2]
      exact configWord_class _
  · have hex : exec (.cxlLinkChange l) s = .next (({ s with sec := { s.sec with ideIo := l.ideIo, ideCm := l.ideCm } }).linkNow (CxlLink.word l)) :=
      congrArg Host.Outcome.next (if_pos (by rw [hup.alive, bne_iff_ne.mpr hd, hw]; rfl))
    obtain ⟨honly, hreg, hchange, hregs⟩ := State.linkNow_spec { s with sec := { s.sec with ideIo := l.ideIo, ideCm := l.ideCm } } (CxlLink.word l)
    obtain ⟨h1, h2, h3, h4, h5, h6⟩ := linkWord_fields l
    have hfield : ∀ hi lo, getBits (State.reg _ offLink) hi lo = _ := fun hi lo => congrArg (getBits · hi lo) hreg
    exact ⟨_, hex, (hfield 4 0).trans h1, (hfield 7 5).trans h2, (hfield 8 8).trans h3, (hfield 9 9).trans h4, (hfield 10 10).trans h5,
      (hfield 11 11).trans h6, hchange, hregs, honly.sameBytes, honly.sameSeals⟩
  · have hex := exec_ideIntegrityFailure hup stream ⟨proto, d⟩ hon
    rw [hskid] at hex
    obtain ⟨honly, hcount, hentry, hcause, hregs⟩ := s.ideCounted stream proto
    exact ⟨_, hex, hcount, hcause, hentry, hregs, honly.sameBytes, honly.sameSeals⟩
  · have hex := exec_ideIntegrityFailure hup stream ⟨.mem, .memWrite off data⟩ hon
    rw [hskid] at hex
    obtain rfl : s.takeMemWrite off data = u := Host.Outcome.next.inj hu
    obtain ⟨honly, hcount, -, hcause, -⟩ := (s.takeMemWrite off data).rasIde.ideCounted stream .mem
    refine ⟨_, hex, honly.mem, honly.seals, ?_, hcause, hcount.trans (congrArg up32 ?_)⟩
    · exact (congrArg (fun w : Word => bit w.toNat 16) (honly.bar4Word 0x11080)).trans (State.bar4Word_rasIde _)
    · exact congrArg (getBits · 31 0) (State.reg_of_regs (s.takeMemWrite_regs off data) _)

theorem Sys2Proof.Claims.spdmAnswers : Claims.SpdmAnswers := by
  intro s hup hd
  have hplain := fun r hr => exec_spdm_plain hup hd (r := r) hr
  have hsecured := fun r hr => exec_spdm_secured hup hd (r := r) hr
  refine ⟨hplain .cdat nofun,
    fun a n => ⟨_, hplain (.certificate a n) nofun, ⟨_, rfl, s.certBytes_length a n, fun i hi => s.certBytes_getElem a n i hi⟩, rfl, rfl, rfl⟩,
    fun i h1 h4 => (hplain (.measurement i) nofun).trans (congrArg Host.Outcome.next (s.spdm_measurement false h1 h4)),
    fun h => ⟨_, hplain (.keyExchange h) nofun, s.keyExchange_spec h⟩, fun hs => ?_, fun r hr hs => ?_, fun secured code => ?_⟩
  · rw [hs] at hsecured
    refine ⟨fun on => ⟨_, hsecured (.ideKey .io on) nofun, s.ideKey_io_spec on⟩, fun on p hp => ?_,
      fun skid => ⟨_, hsecured (.ideMode skid) nofun, rfl, rfl, rfl, rfl, rfl⟩, fun i h1 h4 => ?_⟩
    · rcases List.mem_pair.mp hp with rfl | rfl
      · exact ⟨_, hsecured (.ideKey .cache on) nofun, s.ideKey_cm_spec on⟩
      · exact ⟨_, hsecured (.ideKey .mem on) nofun, s.ideKey_cm_spec on⟩
    · have hex := hsecured (.measurement i) nofun
      rw [if_pos rfl, s.spdm_measurement true h1 h4] at hex
      exact ⟨_, hex, rfl, rfl, rfl, rfl, rfl⟩
  · rw [hsecured r hr, hs]
    rfl
  · cases secured <;> rfl

/-- Settles O15: every answer is the state of its request's own function; the link's word and the counts are registers of the HOST page. -/
theorem Sys2Proof.Claims.hostConfigurationAndSpdm : Obligations.HostConfigurationAndSpdm := ⟨configurationAndLink, spdmAnswers⟩
end

section
/-! PROOFS. Writes in a view that is not granted (R33, R469). -/

namespace Sys2Proof.Machine

open Sys2Proof.Claims

/-- A write that has no effect leaves the state. -/
theorem State.onWrite_ignored {s : State} {v : View} {page : Nat} {rwp : Bool} (k : State → State) (h : ¬Writes s v page rwp) :
    s.onWrite v page rwp k = s := by
  unfold State.onWrite
  refine if_neg fun hc => h ?_
  simp only [Bool.and_eq_true, Bool.or_eq_true, beq_iff_eq, Bool.not_eq_true'] at hc
  obtain ⟨⟨⟨hg, hv⟩, hs⟩, hp⟩ := hc
  exact ⟨hg, hv, hs, hp⟩

theorem State.onHeader_ignored {s : State} {v : View} {page : Nat} {rwp : Bool} (k : State → PageRef → State) (h : ¬Writes s v page rwp) :
    s.onHeader v page rwp k = s := by
  unfold State.onHeader
  split
  · exact State.onWrite_ignored _ h
  · rfl

/-- Every command that writes a register of its own is a guarded write: of a page, or of a page's header. -/
theorem exec_ownWrite {c : Instr} {v : View} {page : Nat} {rwp : Bool} (h : ownWrite c = some (v, page, rwp)) :
    (∃ k, ∀ s, exec c s = .next (s.onWrite v page rwp k)) ∨ ∃ k, ∀ s, exec c s = .next (s.onHeader v page rwp k) := by
  cases c <;> simp only [ownWrite, reduceCtorEq, Option.some.injEq, Prod.mk.injEq] at h
  all_goals obtain ⟨rfl, rfl, rfl⟩ := h
  case quiesce => exact .inr ⟨_, fun _ => rfl⟩
  case blockReset => exact .inr ⟨_, fun _ => rfl⟩
  case pageEnable => exact .inr ⟨_, fun _ => rfl⟩
  case intEnableWrite => exact .inr ⟨_, fun _ => rfl⟩
  case intSet => exact .inr ⟨_, fun _ => rfl⟩
  all_goals exact .inl ⟨_, fun _ => rfl⟩

/-! Registers of a page that BAR2 is not granted. -/

theorem pageAt_base (off : Nat) : pageAt (0x1000 * (off / 0x1000)) = pageAt off := by
  unfold pageAt
  rw [Nat.mul_div_cancel_left _ (by decide)]

theorem State.granted_bar2 {s : State} {off : Nat} {p : PageRef} (hp : pageAt off = some p) :
    s.granted .bar2 (0x1000 * (off / 0x1000)) = s.grantedPage p := by
  unfold State.granted
  rw [pageAt_base, hp]

/-- `RESET_CTL` is not written in BAR2: its page is never granted (R35). -/
theorem State.writeResetCtl_bar2 (s : State) (w : Word) : s.writeResetCtl .bar2 w = s := by
  have hno : ∀ k, s.onReset .bar2 k = s := fun k => if_neg (by rw [show s.granted .bar2 pgPower = false from rfl, Bool.false_and]; decide)
  unfold State.writeResetCtl
  split
  · exact hno State.moduleReset
  · split
    · exact hno fun s => if s.power.stopping then s else s.enginesReset
    · rfl

/-- A write in BAR2 of a register of a page that is not granted. -/
theorem State.regWrite_ungranted {s : State} {off : Nat} (w : Word) {p : PageRef} (hup : Up s) (hp : pageAt off = some p) (h4 : off % 4 = 0)
    (hg : s.grantedPage p = false) : s.regWrite .bar2 off w = s := by
  unfold State.regWrite
  rw [hup.alive, hp]
  dsimp only
  rw [h4, State.granted_bar2 hp, hg, State.writeResetCtl_bar2]
  simp

end Sys2Proof.Machine

open Sys2Proof Sys2Proof.Machine Sys2Proof.Claims

theorem Sys2Proof.Claims.ungrantedPageIgnoresBar2 : Claims.UngrantedPageIgnoresBar2 := by
  intro s off w p hup hp h4 hg
  have hw := State.regWrite_ungranted w hup hp h4 hg
  refine ⟨congrArg Host.Outcome.next hw, congrArg Host.Outcome.next hw, fun hc => congrArg Host.Outcome.next (?_ : s.busRead .bar2 off = _)⟩
  have hread : s.readableAt .bar2 off = false := by
    unfold State.readableAt State.readable
    rw [hp]
    simp [hg, hc]
  have hocc : occupied off = true := by
    unfold occupied
    rw [hp]
    rfl
  unfold State.busRead
  rw [hup.alive, h4, hocc, hread]
  rfl

theorem Sys2Proof.Claims.ignoredWhereNotGranted : Claims.IgnoredWhereNotGranted := by
  intro s c v page rwp hc hw
  rcases exec_ownWrite hc with ⟨k, hk⟩ | ⟨k, hk⟩
  · rw [hk, State.onWrite_ignored k hw]
  · rw [hk, State.onHeader_ignored k hw]

/-- Settles O6: every own write is guarded (`exec_ownWrite`), and a register write of BAR2 ends at the grant. -/
theorem Sys2Proof.Claims.ungrantedWritesAreIgnored : Obligations.UngrantedWritesAreIgnored := ⟨ungrantedPageIgnoresBar2, ignoredWhereNotGranted⟩
end

section
/-! PROOFS. The watch tables and the estimator tables (R46, R255, R257, R264, R265). -/

namespace Sys2Proof.Machine

open Sys2Proof.Claims

/-! Keyed lists filled row by row. -/

/-- The rows of a table put into a list, but for those that it need not list. -/
def fillRows {α : Type} (p : α → Prop) [DecidablePred p] (rows l : List (Nat × α)) : List (Nat × α) :=
  rows.foldl (fun l r => if p r.2 then l else aput l r.1 r.2) l

section
variable {α : Type} (p : α → Prop) [DecidablePred p] (key : Nat → Nat) (val : Nat → α) (l : List (Nat × α))

theorem fillRows_succ (n : Nat) : fillRows p ((List.range (n + 1)).map fun i => (key i, val i)) l =
    if p (val n) then fillRows p ((List.range n).map fun i => (key i, val i)) l
    else aput (fillRows p ((List.range n).map fun i => (key i, val i)) l) (key n) (val n) := by
  unfold fillRows
  rw [List.range_succ, List.map_append, List.foldl_append]
  rfl

theorem aget?_fillRows_other {n k : Nat} (h : ∀ i, i < n → key i ≠ k) :
    aget? (fillRows p ((List.range n).map fun i => (key i, val i)) l) k = aget? l k := by
  induction n with
  | zero => rfl
  | succ n ih =>
    have hn := ih fun i hi => h i (Nat.lt_succ_of_lt hi)
    rw [fillRows_succ]
    split
    · exact hn
    · rw [aget?_aput_other _ _ _ _ (h n (Nat.lt_succ_self n)).symm, hn]

theorem aget?_fillRows_row {n i : Nat} (hkey : ∀ i j, key i = key j → i = j) (hi : i < n) (hl : aget? l (key i) = none) :
    aget? (fillRows p ((List.range n).map fun i => (key i, val i)) l) (key i) = if p (val i) then none else some (val i) := by
  induction n with
  | zero => exact absurd hi (Nat.not_lt_zero i)
  | succ n ih =>
    rw [fillRows_succ]
    by_cases hn : i = n
    · subst hn
      rw [apply_ite (aget? · (key i)), aget?_aput_same, aget?_fillRows_other p key val l fun j hj e => Nat.ne_of_lt hj (hkey _ _ e), hl]
    · have hrow := ih (by omega)
      split
      · exact hrow
      · rw [aget?_aput_other _ _ _ _ fun e => hn (hkey _ _ e), hrow]

/-- A row of a filled table reads its value, listed or not. -/
theorem aget_fillRows_row {n i : Nat} {d : α} (hd : p (val i) → val i = d) (hkey : ∀ i j, key i = key j → i = j) (hi : i < n)
    (hl : aget? l (key i) = none) : aget (fillRows p ((List.range n).map fun i => (key i, val i)) l) (key i) d = val i := by
  unfold aget
  rw [aget?_fillRows_row p key val l hkey hi hl]
  split
  · rename_i hp
    exact (hd hp).symm
  · rfl

end

/-! Checked reads of device memory (R264, R265, R381). -/

/-- A block of a device range has its seal on one of the eight memory-side dies. -/
theorem owner_of_deviceRange {a len k : Nat} (h : deviceRange a len = true) (hk : k ∈ blocksOf a len) :
    (blockOwner (4096 * k)).1 < 8 ∧ inHost (4096 * k) = false := by
  obtain ⟨hlo, hhi⟩ := blocksOf_bounds hk
  unfold deviceRange rangeOk at h
  simp only [Bool.and_eq_true, Bool.or_eq_true, beq_iff_eq, decide_eq_true_eq, Bool.not_eq_true'] at h
  obtain ⟨hok, hhost⟩ := h
  have hlen : len ≠ 0 := by
    rintro rfl
    exact absurd hk (by unfold blocksOf; simp)
  obtain ⟨hinst, hend⟩ := hok.resolve_left hlen
  have hplace : 4096 * k < tierAEnd ∨ (tierBBase ≤ 4096 * k ∧ 4096 * k < tierBEnd) ∨ (sramBase ≤ 4096 * k ∧ 4096 * k < sramBase + 0x80000000) := by
    unfold installed at hinst
    unfold rangeEnd at hend
    by_cases hA : inTierA a = true
    · rw [if_pos hA] at hend
      exact .inl (by omega)
    · rw [if_neg hA] at hend
      by_cases hB : inTierB a = true
      · rw [if_pos hB] at hend
        simp only [inTierB, Bool.and_eq_true, decide_eq_true_eq] at hB
        unfold tierBBase at *
        exact .inr (.inl (by omega))
      · rw [if_neg hB] at hend
        have hS : inSram a = true := by simpa [hA, hB, hhost] using hinst
        rw [if_pos hS] at hend
        simp only [inSram, Bool.and_eq_true, decide_eq_true_eq] at hS
        unfold sramBase at *
        exact .inr (.inr (by omega))
  unfold tierAEnd tierBBase tierBEnd sramBase at hplace
  constructor
  · unfold blockOwner tierBBase sramBase
    dsimp only
    split
    · dsimp only
      omega
    · split
      · dsimp only
        omega
      · dsimp only
        omega
  · unfold inHost hostBase
    rw [decide_eq_false (by omega), Bool.false_and]

/-- The registers that a check counts in: `CHECKS` of the seal pages. -/
def ChecksOf (ks : List Nat) (o : Nat) : Prop :=
  ∃ k ∈ ks, o = pgSeal (blockOwner (4096 * k)).1 + R.SEAL.CHECKS_LO.off ∨ o = pgSeal (blockOwner (4096 * k)).1 + R.SEAL.CHECKS_HI.off

/-- A block that passes its check is counted as read and checked. -/
def State.passBlock (s : State) (k : Nat) : State :=
  if inHost (4096 * k) then s
  else (s.countRead k).inc64 (pgSeal (blockOwner (4096 * k)).1) R.SEAL.CHECKS_LO R.SEAL.CHECKS_HI 1

theorem State.check_eq_pass {s : State} {ks : List Nat} (code : Nat) (h : s.firstBad ks = none) : s.check ks code = ks.foldl State.passBlock s := by
  refine List.foldl_ext _ _ _ fun t k hk => ?_
  have hgood : s.blockOk k = true := by simpa using List.find?_eq_none.mp h k hk
  unfold State.passBlock
  split
  · rfl
  · rfl

/-- Two states differ in their registers and in what the controllers have moved. -/
def ReadsOnly (s t : State) : Prop := ∃ r tr, t = { s with regs := r, traffic := tr }

theorem ReadsOnly.sameBytes {s t : State} (h : ReadsOnly s t) : SameBytes s t := by
  obtain ⟨r, tr, rfl⟩ := h
  exact fun _ => rfl

theorem ReadsOnly.sameSeals {s t : State} (h : ReadsOnly s t) : SameSeals s t := by
  obtain ⟨r, tr, rfl⟩ := h
  exact fun _ => rfl

theorem State.passBlock_spec (s : State) (k : Nat) : ReadsOnly s (s.passBlock k) ∧ SameRegs s (s.passBlock k) (ChecksOf [k]) := by
  unfold State.passBlock
  split
  · exact ⟨⟨s.regs, s.traffic, rfl⟩, fun _ _ => rfl⟩
  · obtain ⟨r, hr⟩ := (s.countRead k).inc64_frame (pgSeal (blockOwner (4096 * k)).1) R.SEAL.CHECKS_LO R.SEAL.CHECKS_HI 1 0
    refine ⟨⟨r, _, hr⟩, fun o ho => ?_⟩
    obtain ⟨hlo, hhi⟩ := not_or.mp fun h => ho ⟨k, List.mem_cons_self, h⟩
    exact State.reg_inc64_other _ _ _ _ _ _ _ hlo hhi

/-- A check that every block passes counts its reads and no more. -/
theorem State.check_good {s : State} {ks : List Nat} (code : Nat) (h : s.firstBad ks = none) :
    ReadsOnly s (s.check ks code) ∧ SameRegs s (s.check ks code) (ChecksOf ks) := by
  rw [State.check_eq_pass code h]
  clear h
  induction ks generalizing s with
  | nil => exact ⟨⟨s.regs, s.traffic, rfl⟩, fun _ _ => rfl⟩
  | cons k ks ih =>
    obtain ⟨⟨r, tr, hf⟩, hregs⟩ := s.passBlock_spec k
    obtain ⟨⟨r', tr', hf'⟩, hregs'⟩ := ih (s := s.passBlock k)
    rw [List.foldl_cons]
    refine ⟨⟨r', tr', by rw [hf', hf]⟩, fun o ho => (hregs' o ?_).trans (hregs o ?_)⟩
    · exact fun ⟨j, hj, e⟩ => ho ⟨j, List.mem_cons_of_mem _ hj, e⟩
    · rintro ⟨j, hj, e⟩
      obtain rfl := List.mem_singleton.mp hj
      exact ho ⟨j, List.mem_cons_self, e⟩

/-- The seal pages that check a device range are pages of the dies, and no watch's. -/
theorem checksOf_deviceRange {a len o : Nat} (h : deviceRange a len = true) (ho : ChecksOf (blocksOf a len) o) :
    OfDies o ∧ ∀ q : Quad, o ≠ pgWatch q + R.NUMWATCH.REPLAY_STATE_REPLAYS.off := by
  obtain ⟨k, hk, ho⟩ := ho
  have hlt := (owner_of_deviceRange h hk).1
  generalize (blockOwner (4096 * k)).1 = n at *
  unfold pgSeal pgMemDie quadBase R.SEAL.CHECKS_LO R.SEAL.CHECKS_HI at ho
  dsimp only at ho
  refine ⟨.inl (by omega), fun q => ?_⟩
  unfold pgWatch pgGradDie quadBase R.NUMWATCH.REPLAY_STATE_REPLAYS
  dsimp only
  omega

/-! Commands of the tables. -/

/-- A command on ranges of which no line is marked does its work. -/
theorem State.whenFree_unmarked {s : State} {rs : List (Nat × Nat)} (k : State → State) (h : s.markedIn rs = []) : s.whenFree rs k = k s := by
  unfold State.whenFree
  rw [h]
  rfl

/-- The entries that a `LOAD` of a watch's table leaves. -/
def State.wtableLoaded (s : State) (q : Nat) (row : Nat → List Byte) : List (Nat × List Byte) :=
  fillRows (fun b => b.all (· == 0) = true) ((List.range 1024).map fun i => (4 * i + q, row i)) (s.wtable.filter fun r => r.1 % 4 != q)

/-- The slots that a `LOAD` of a watch's estimator table leaves. -/
def slotsLoaded (slots : List (Nat × Word)) (q : Nat) (word : Nat → Word) : List (Nat × Word) :=
  fillRows (fun w => w = 0) ((List.range 8192).map fun i => ((4 * (i / 8) + q) * 8 + i % 8, word i)) (slots.filter fun r => r.1 / 8 % 4 != q)

theorem State.loadWatchTable_good {s : State} {q a : Nat} (ha : a = s.rf64 (pgWatch q) R.NUMWATCH.WT_ADDR_LO_ADDR R.NUMWATCH.WT_ADDR_HI_ADDR)
    (hr : deviceRange a 16384 = true) (hb : s.firstBad (blocksOf a 16384) = none) :
    s.loadWatchTable q = ({ s.check (blocksOf a 16384) 0x050A with
      wtable := s.wtableLoaded q fun i => s.bytes (a + 16 * i) 16 }).wf (pgWatch q) R.NUMWATCH.WT_CTL_LOADED 1 := by
  subst ha
  unfold State.loadWatchTable
  dsimp only
  rw [hr, hb]
  rfl

/-- A word of an estimator table in memory, its reserved bits as 0. -/
def State.estWord (s : State) (a i : Nat) : Word := setBits (BitVec.ofNat 32 (fieldAt (s.bytes a 32768) (4 * i) 4)) 23 18 0

theorem State.loadEst_good {s : State} {q a : Nat} (hr : deviceRange a 32768 = true) (hb : s.firstBad (blocksOf a 32768) = none) :
    s.loadEst q a false = { s.check (blocksOf a 32768) 0x050A with
      slots := slotsLoaded (s.check (blocksOf a 32768) 0x050A).slots q (s.estWord a) } := by
  unfold State.loadEst
  dsimp only
  rw [hr, hb]
  rfl

theorem State.saveEst_good {s : State} {q a : Nat} (hr : deviceRange a 32768 = true) : s.saveEst q a = s.putSealed a (s.estBytes q) := by
  unfold State.saveEst
  rw [hr]
  rfl

/-- A watch's page is a page of the dies. -/
theorem watchCtl_ofDies (q : Quad) : OfDies (R.NUMWATCH.WT_CTL_LOADED.addr (pgWatch q) 0) := by
  have := q.isLt
  refine .inl ?_
  unfold pgWatch pgGradDie quadBase Fld.addr R.NUMWATCH.WT_CTL_LOADED
  dsimp only
  omega

theorem State.estBytes_length (s : State) (q : Nat) : (s.estBytes q).length = 32768 := by
  unfold State.estBytes
  rw [← List.flatMap_map (fun i => (s.slot (4 * (i / 8) + q) (i % 8)).toNat) (leBytes 4), flatMap_leBytes_length, List.length_map, List.length_range]

/-- A row of 16 bytes that are all 0 is the entry that an unlisted layer has. -/
theorem zeroEntry {b : List Byte} (hlen : b.length = 16) (h : b.all (· == 0) = true) : b = List.replicate 16 0 := by
  rw [List.eq_replicate_iff]
  exact ⟨hlen, fun x hx => by simpa using List.all_eq_true.mp h x hx⟩

/-- A filtered list holds nothing under a key that the filter drops. -/
theorem aget?_filter_dropped {α : Type} (l : List (Nat × α)) (p : Nat × α → Bool) (k : Nat) (h : ∀ v, p (k, v) = false) :
    aget? (l.filter p) k = none :=
  aget?_none_of_ne _ _ fun r hr e => by
    have hp := (List.mem_filter.mp hr).2
    rw [show r = (k, r.2) from Prod.ext e rfl, h] at hp
    exact nomatch hp

theorem State.wtableLoaded_own (s : State) {q l : Nat} (row : Nat → List Byte) (hrow : ∀ i, (row i).length = 16) (hl : l < 4096) (h : l % 4 = q) :
    aget (s.wtableLoaded q row) l (List.replicate 16 0) = row (l / 4) := by
  have hkey : 4 * (l / 4) + q = l := by omega
  have hdrop : aget? (s.wtable.filter fun r => r.1 % 4 != q) (4 * (l / 4) + q) = none :=
    aget?_filter_dropped _ _ _ fun _ => by simp [hkey, h]
  have := aget_fillRows_row (fun b : List Byte => b.all (· == 0) = true) (fun i => 4 * i + q) row _ (n := 1024) (i := l / 4)
    (fun h0 => zeroEntry (hrow _) h0) (fun i j e => by omega) (by omega) hdrop
  rwa [hkey] at this

theorem State.wtableLoaded_other (s : State) {q l : Nat} (hq : q < 4) (row : Nat → List Byte) (h : l % 4 ≠ q) :
    aget (s.wtableLoaded q row) l (List.replicate 16 0) = s.watchEntry l := by
  unfold State.watchEntry aget State.wtableLoaded
  rw [aget?_fillRows_other _ (fun i => 4 * i + q) _ _ fun i _ => by omega, aget?_filter _ _ _ fun _ => by simpa using h]

theorem slotsLoaded_own {slots : List (Nat × Word)} {q l r : Nat} (word : Nat → Word) (hl : l < 4096) (h : l % 4 = q) (hr : r < 8) :
    aget (slotsLoaded slots q word) (l * 8 + r) 0 = word (8 * (l / 4) + r) := by
  have hkey : (4 * ((8 * (l / 4) + r) / 8) + q) * 8 + (8 * (l / 4) + r) % 8 = l * 8 + r := by omega
  have hdrop : aget? (slots.filter fun r => r.1 / 8 % 4 != q) ((4 * ((8 * (l / 4) + r) / 8) + q) * 8 + (8 * (l / 4) + r) % 8) = none :=
    aget?_filter_dropped _ _ _ fun _ => by rw [hkey]; simp; omega
  have := aget_fillRows_row (fun w : Word => w = 0) (fun i => (4 * (i / 8) + q) * 8 + i % 8) word _ (n := 8192) (i := 8 * (l / 4) + r)
    (d := 0) id (fun i j e => by omega) (by omega) hdrop
  rwa [hkey] at this

theorem slotsLoaded_other {slots : List (Nat × Word)} {q l r : Nat} (hq : q < 4) (word : Nat → Word) (h : l % 4 ≠ q) (hr : r < 8) :
    aget (slotsLoaded slots q word) (l * 8 + r) 0 = aget slots (l * 8 + r) 0 := by
  unfold aget slotsLoaded
  rw [aget?_fillRows_other _ (fun i => (4 * (i / 8) + q) * 8 + i % 8) _ _ fun i _ => by omega,
    aget?_filter _ _ _ fun _ => by simp; omega]

/-- `CLEAR` clears the valid bit of the slots of its watch's layers. -/
theorem State.slot_clearEst (s : State) (q : Nat) {l r : Nat} (hr : r < 8) :
    (s.clearEst q).slot l r = if l % 4 = q then setBits (s.slot l r) 16 16 0 else s.slot l r := by
  have hlayer : (l * 8 + r) / 8 = l := by omega
  have hmap : (s.clearEst q).slots = s.slots.map fun p => (p.1, if p.1 / 8 % 4 == q then setBits p.2 16 16 0 else p.2) := by
    refine List.map_congr_left fun p _ => ?_
    split <;> rfl
  unfold State.slot aget
  rw [hmap, aget?_map s.slots (fun k w => if k / 8 % 4 == q then setBits w 16 16 0 else w) (l * 8 + r), hlayer]
  by_cases h : l % 4 = q
  · rw [if_pos h]
    cases aget? s.slots (l * 8 + r) with
    | none => simp [setBits]
    | some w => simp [h]
  · rw [if_neg h]
    cases aget? s.slots (l * 8 + r) with
    | none => rfl
    | some w => simp [h]

end Sys2Proof.Machine

open Sys2Proof Sys2Proof.Machine Sys2Proof.Claims

/-- Settles O27: each command does its work on good unmarked memory, the loaded rows stand under the keys of the watch's own layers, and the
checks count in pages of the dies. -/
theorem Sys2Proof.Claims.watchTableCommands : Obligations.WatchTableCommands := by
  unfold Obligations.WatchTableCommands
  intro s v q
  refine ⟨fun a ha hw hr hb hm => ?_, fun hw hr hm => ⟨?_, fun hb => ?_⟩, fun hw => ?_⟩
  · obtain ⟨hreads, hregs⟩ := State.check_good 0x050A hb
    refine ⟨_, congrArg Host.Outcome.next (State.onWrite_writes hw), ?_⟩
    rw [← ha, State.whenFree_unmarked _ hm, State.loadWatchTable_good ha hr hb]
    have hown := fun l hl h => s.wtableLoaded_own (q := q.val) (l := l) (fun i => s.bytes (a + 16 * i) 16) (fun i => State.bytes_length _ _ _) hl h
    have hother := fun l h => s.wtableLoaded_other (q := q.val) (l := l) q.isLt (fun i => s.bytes (a + 16 * i) 16) h
    have hdies := fun o h => (checksOf_deviceRange (o := o) hr h).1
    generalize s.wtableLoaded q.val (fun i => s.bytes (a + 16 * i) 16) = W at hown hother ⊢
    generalize blocksOf a 16384 = ks at hreads hregs hdies ⊢
    generalize s.check ks 0x050A = t at hreads hregs ⊢
    obtain ⟨r, tr, rfl⟩ := hreads
    refine ⟨hown, hother, State.rf_wf_self _ _ _ _ _ (by decide) (by decide), rfl, rfl, fun o ho => ?_, fun _ => rfl, fun _ => rfl⟩
    have hctl : o ≠ R.NUMWATCH.WT_CTL_LOADED.addr (pgWatch q) 0 := fun e => ho (e ▸ watchCtl_ofDies q)
    exact (State.reg_wf_other _ _ _ _ _ _ hctl).trans (hregs o fun h => ho (hdies o h))
  · refine ⟨_, congrArg Host.Outcome.next (State.onWrite_writes hw), ?_⟩
    rw [State.whenFree_unmarked _ hm, State.saveEst_good hr]
    have hlen := s.estBytes_length q
    have honly := s.putSealed_onlyIn (s.estAddr q) (s.estBytes q)
    rw [hlen] at honly
    refine ⟨?_, honly.1, fun k hk => s.sealEntry_putSealed_in _ (hlen ▸ hk) (owner_of_deviceRange hr hk).2,
      fun k hk => honly.2 k fun r h => List.mem_singleton.mp h ▸ hk, ?_, ?_⟩
    · rw [← hlen]
      exact State.bytes_eq_of fun i hi => s.byte_putSealed_same _ _ i hi
    all_goals
      obtain ⟨m, tr, p, se, h⟩ := s.putSealed_memOnly (s.estAddr q) (s.estBytes q)
      rw [h]
  · obtain ⟨hreads, hregs⟩ := State.check_good 0x050A hb
    refine ⟨_, congrArg Host.Outcome.next (State.onWrite_writes hw), ?_⟩
    rw [State.whenFree_unmarked _ hm, State.loadEst_good hr hb]
    have hdies := fun o h => checksOf_deviceRange (o := o) hr h
    generalize blocksOf (s.estAddr q) 32768 = ks at hreads hregs hdies ⊢
    generalize s.check ks 0x050A = t at hreads hregs ⊢
    have hown := fun l r hl h hr => slotsLoaded_own (slots := s.slots) (q := q.val) (l := l) (r := r) (s.estWord (s.estAddr q)) hl h hr
    have hother := fun l r hr h => slotsLoaded_other (slots := s.slots) (q := q.val) (l := l) (r := r) q.isLt (s.estWord (s.estAddr q)) h hr
    obtain ⟨r, tr, rfl⟩ := hreads
    generalize slotsLoaded s.slots q.val (s.estWord (s.estAddr q)) = S at hown hother ⊢
    exact ⟨hown, hother, rfl, hregs _ fun h => (hdies _ h).2 q rfl, fun o ho => hregs o fun h => ho (hdies o h).1, fun _ => rfl, fun _ => rfl⟩
  · refine ⟨_, congrArg Host.Outcome.next (State.onWrite_writes hw), fun l r hr h => ?_, fun l r hr h => ?_, rfl, fun _ => rfl, fun _ => rfl⟩
    · rw [State.slot_clearEst s q hr, if_pos h]
    · rw [State.slot_clearEst s q hr, if_neg h]
end

section
/-! PROOFS. Register writes of buttons (R35, R276). -/

namespace Sys2Proof.Machine

open Sys2Proof.Claims

theorem SignalsOnly.tasks {s t : State} (h : SignalsOnly s t) : t.tasks = s.tasks := by
  obtain ⟨r, m, i, e, rfl⟩ := h
  rfl

/-- A quiet refusal counts, names the button and sets its cause. -/
theorem State.refuseButtonQuiet_spec (s : State) (b : Nat) :
    let t := s.refuseButtonQuiet b
    SignalsOnly s t ∧ t.rf pgSched R.GRAPH_SCHED.BTN_ERR_COUNT = up32 (s.rf pgSched R.GRAPH_SCHED.BTN_ERR_COUNT) ∧
      t.rf pgSched R.GRAPH_SCHED.BTN_ERR_LAST_BUTTON = b % 65536 ∧ Caused t pgSched 3 ∧
      SameRegs s t (fun o => o = pgSched + R.GRAPH_SCHED.BTN_ERR_COUNT.off ∨ o = pgSched + R.GRAPH_SCHED.BTN_ERR_LAST_BUTTON.off ∨
        o = pgSched + oINT_STATUS ∨ Reports o) := by
  dsimp only
  have hcount := s.rf_inc_self pgSched R.GRAPH_SCHED.BTN_ERR_COUNT 0 (by decide) (by decide)
  have hinc := fun o => State.reg_inc_other s pgSched R.GRAPH_SCHED.BTN_ERR_COUNT 0 o
  have honly := s.inc_regsOnly pgSched R.GRAPH_SCHED.BTN_ERR_COUNT 0
  unfold State.refuseButtonQuiet
  dsimp only
  generalize s.inc pgSched R.GRAPH_SCHED.BTN_ERR_COUNT = t at *
  have hlast := (t.wf pgSched R.GRAPH_SCHED.BTN_ERR_LAST_EVENT 0).rf_wf_self pgSched R.GRAPH_SCHED.BTN_ERR_LAST_BUTTON b 0 (by decide) (by decide)
  have hwf : ∀ o, o ≠ pgSched + R.GRAPH_SCHED.BTN_ERR_LAST_BUTTON.off →
      ((t.wf pgSched R.GRAPH_SCHED.BTN_ERR_LAST_EVENT 0).wf pgSched R.GRAPH_SCHED.BTN_ERR_LAST_BUTTON b).reg o = t.reg o := fun o ho =>
    (State.reg_wf_other _ _ _ _ _ _ ho).trans (State.reg_wf_other _ _ _ _ _ _ ho)
  have honly' := honly.trans ((t.wf_regsOnly pgSched R.GRAPH_SCHED.BTN_ERR_LAST_EVENT 0 0).trans
    (State.wf_regsOnly _ pgSched R.GRAPH_SCHED.BTN_ERR_LAST_BUTTON b 0))
  generalize (t.wf pgSched R.GRAPH_SCHED.BTN_ERR_LAST_EVENT 0).wf pgSched R.GRAPH_SCHED.BTN_ERR_LAST_BUTTON b = u at *
  have hcause : ∀ o, o ≠ pgSched + oINT_STATUS → ¬routeReg o → (u.cause pgSched 3).reg o = u.reg o := fun o => State.reg_cause_other u pgSched 3 o
  refine ⟨honly'.signalsOnly.trans (u.cause_signalsOnly _ _), ?_, ?_, u.cause_set _ _ (by decide) (by decide), fun o ho => ?_⟩
  · refine (congrArg (getBits · 31 0) ?_).trans hcount
    exact (hcause _ (by decide) (by decide)).trans (hwf _ (by decide))
  · refine (congrArg (getBits · 15 0) ?_).trans hlast
    exact hcause _ (by decide) (by decide)
  · obtain ⟨h1, h2, h3, h4⟩ : _ ∧ _ ∧ _ ∧ _ := by simpa only [not_or] using ho
    exact (hcause o h3 fun h => h4 (.inr h)).trans ((hwf o h2).trans (hinc o h1))

end Sys2Proof.Machine

open Sys2Proof Sys2Proof.Machine Sys2Proof.Claims

/-- Settles O30: a word of a button is one register, and a device-manager button in BAR2 is refused quietly. -/
theorem Sys2Proof.Claims.buttonRegisterWrites : Obligations.ButtonRegisterWrites := by
  unfold Obligations.ButtonRegisterWrites
  intro s v b isBase w hw hno
  constructor
  · intro hv
    have hguard : (v == .bar2 && decide (b.val < 256)) = false := by
      rcases hv with rfl | hb
      · rfl
      · rw [decide_eq_false (by omega), Bool.and_false]
    have hne : offButton b + 4 ≠ offButton b := by omega
    have hstate : s.buttonWrite v b isBase w = s.setReg (offButton b + if isBase then 4 else 0) w := by
      unfold State.buttonWrite
      rw [hguard, if_neg Bool.false_ne_true]
      cases isBase
      · exact State.settle_noWait (s := s.setReg (offButton b) w) hno
      · exact State.settle_noWait (s := s.setReg (offButton b + 4) w) hno
    refine ⟨_, congrArg Host.Outcome.next ((State.onWrite_writes hw).trans hstate), ?_, ?_, rfl,
      fun o ho => State.reg_setReg_other _ _ _ _ ho, fun _ => rfl, fun _ => rfl⟩
    · cases isBase
      · exact State.reg_setReg_self _ _ _
      · exact State.reg_setReg_other _ _ _ _ hne.symm
    · cases isBase
      · exact State.reg_setReg_other _ _ _ _ hne
      · exact State.reg_setReg_self _ _ _
  · rintro rfl hb
    have hstate : s.buttonWrite .bar2 b isBase w = s.refuseButtonQuiet b := by
      unfold State.buttonWrite
      rw [decide_eq_true hb]
      rfl
    obtain ⟨honly, hcount, hlast, hcause, hregs⟩ := s.refuseButtonQuiet_spec b
    rw [Nat.mod_eq_of_lt (by omega)] at hlast
    exact ⟨_, congrArg Host.Outcome.next ((State.onWrite_writes hw).trans hstate), hcount, hlast, hcause, honly.tasks, hregs,
      honly.sameBytes, honly.sameSeals⟩
end

section
/-! PROOFS. Disabling a graph queue (R299). -/

namespace Sys2Proof.Machine

open Sys2Proof.Claims

/-- A waiting task of queue 0 that has something left for its completion: to write 1 to `Q_CTL`. -/
def ctlWriter : Task where
  seq := 0
  queue := 0
  index := 0
  alt := false
  desc := List.replicate 28 0 ++ List.replicate 4 255
  step := 0
  repeats := 0
  replays := 0
  widened := false
  fetchAt := 0
  startAt := 0
  condDone := false
  phase := .waiting
  unit := pgSched
  pages := []
  post := [.set (pgQueue 0 + R.GRAPH_QUEUE.Q_CTL_EN.off) 1]
  target := 0

/-- A module that runs, with queue 0 enabled and `ctlWriter` fetched. -/
def ctlWritten : State :=
  { State.reset with
    regs := [(pgQueue 0 + R.GRAPH_QUEUE.Q_CTL_EN.off, 1)]
    tasks := [ctlWriter]
    power := { State.reset.power with supply := true, held := false } }

theorem ctlWritten_stays_on : ctlWritten.queueOn 0 = true ∧ (ctlWritten.disableQueue 0).queueOn 0 = true := by decide +kernel

end Sys2Proof.Machine
open Sys2Proof Sys2Proof.Machine Sys2Proof.Claims

/-- Refutes O28: `QueueCommands` puts no condition on what a task that waits has left for its completion. In `ctlWritten` the waiting task's
completion writes `Q_CTL`, so that the queue that `queueDisable` has disabled is enabled again. -/
theorem Sys2Proof.Claims.not_graphQueues : ¬ Obligations.GraphQueues := by
  unfold Obligations.GraphQueues Claims.QueueCommands
  rintro ⟨-, hqueue⟩
  have hw : Writes ctlWritten .bar0 (pgQueue (0 : QueueNo)) true := ⟨rfl, .inl rfl, rfl, rfl⟩
  obtain ⟨hon, hstays⟩ := ctlWritten_stays_on
  obtain ⟨-, hdisable, -⟩ := hqueue ctlWritten .bar0 0 true
  obtain ⟨u, hu, hoff, -⟩ := hdisable hw hon
  have hexec : exec (.queueDisable .bar0 0) ctlWritten = .next (ctlWritten.disableQueue 0) := congrArg Host.Outcome.next (State.onWrite_writes hw)
  obtain rfl := Host.Outcome.next.inj (hexec.symm.trans hu)
  exact Bool.false_ne_true (hoff.symm.trans hstays)
end

section
/-! PROOFS. Descriptor fetch: what it takes in, and what it gives up on a full ring (R28, R270, R274, R291). -/

namespace Sys2Proof.Machine

open Sys2Proof.Claims

/-! Slots consumed (R291). -/

/-- From one state to the other a queue has consumed some of its completed indices. -/
def Consumes (q : Nat) (s u : State) : Prop :=
  (∃ r qs, u = { s with regs := r, queues := qs }) ∧ SameRegs s u (fun o => o = pgQueue q + R.GRAPH_QUEUE.CONSUMED.off) ∧
    ∃ ds, u.queueSt q = { s.queueSt q with done := ds } ∧ ∀ x ∈ ds, x ∈ (s.queueSt q).done

theorem Consumes.refl (q : Nat) (s : State) : Consumes q s s := ⟨⟨s.regs, s.queues, rfl⟩, fun _ _ => rfl, (s.queueSt q).done, rfl, fun _ h => h⟩

theorem Consumes.trans {q : Nat} {s t u : State} (h : Consumes q s t) (g : Consumes q t u) : Consumes q s u := by
  obtain ⟨⟨r, qs, ht⟩, hregs, ds, hq, hds⟩ := h
  obtain ⟨⟨r', qs', hu⟩, hregs', ds', hq', hds'⟩ := g
  refine ⟨⟨r', qs', by rw [hu, ht]⟩, fun o ho => (hregs' o ho).trans (hregs o ho), ds', by rw [hq', hq], fun x hx => hds x ?_⟩
  have := hds' x hx
  rwa [hq] at this

theorem State.queueSt_setQueue_self (s : State) (q : Nat) (k : QueueSt) : (s.setQueue q k).queueSt q = k := by
  unfold State.queueSt State.setQueue aget
  rw [aget?_aput_same]
  rfl

theorem State.consumed_lt (s : State) (q : Nat) : s.consumed q < 2 ^ 32 := getBits_lt _ 31 0

theorem idxNext_lt (i : Nat) : idxNext i < 2 ^ 32 := Nat.mod_lt _ (by decide)

theorem State.consumeOne_moves {s : State} {q : Nat} (hd : s.consumed q ∈ (s.queueSt q).done) (hs : s.consumedStops q = false) :
    Consumes q s (s.consumeOne q) ∧ s.consumed q ∉ ((s.consumeOne q).queueSt q).done ∧ (s.consumeOne q).consumed q = idxNext (s.consumed q) := by
  have hstate : s.consumeOne q = (s.setQueue q { s.queueSt q with done := (s.queueSt q).done.filter (· != s.consumed q) }).wf (pgQueue q)
      R.GRAPH_QUEUE.CONSUMED (idxNext (s.consumed q)) := by
    unfold State.consumeOne
    dsimp only
    rw [List.contains_iff_mem.mpr hd, hs]
    rfl
  have hq := s.queueSt_setQueue_self q { s.queueSt q with done := (s.queueSt q).done.filter (· != s.consumed q) }
  rw [hstate]
  refine ⟨⟨⟨_, _, rfl⟩, fun o ho => State.reg_wf_other _ _ _ _ _ _ ho, _, hq, fun x hx => (List.mem_filter.mp hx).1⟩, fun h => ?_, ?_⟩
  · have hin : s.consumed q ∈ (s.queueSt q).done.filter (· != s.consumed q) := (congrArg (s.consumed q ∈ ·.done) hq).mp h
    simp at hin
  · exact (State.rf_wf_self _ _ _ _ _ (by decide) (by decide)).trans (Nat.mod_eq_of_lt (idxNext_lt _))

theorem State.consumeOne_stays {s : State} {q : Nat} (h : s.consumed q ∉ (s.queueSt q).done ∨ s.consumedStops q = true) : s.consumeOne q = s := by
  refine if_neg fun hc => ?_
  rw [Bool.and_eq_true, List.contains_iff_mem] at hc
  rcases h with h | h
  · exact h hc.1
  · rw [h] at hc
    exact nomatch hc.2

theorem State.consumeOne_consumes (s : State) (q : Nat) : Consumes q s (s.consumeOne q) := by
  by_cases hd : s.consumed q ∈ (s.queueSt q).done
  · cases hs : s.consumedStops q
    · exact (State.consumeOne_moves hd hs).1
    · rw [State.consumeOne_stays (.inr hs)]
      exact .refl q s
  · rw [State.consumeOne_stays (.inl hd)]
    exact .refl q s

theorem foldl_consumes (q : Nat) (l : List Nat) (s : State) : Consumes q s (l.foldl (fun t _ => t.consumeOne q) s) := by
  induction l generalizing s with
  | nil => exact .refl q s
  | cons x l ih => exact (s.consumeOne_consumes q).trans (ih _)

theorem foldl_consume_stays {q : Nat} (l : List Nat) {s : State} (h : s.consumed q ∉ (s.queueSt q).done) :
    l.foldl (fun t _ => t.consumeOne q) s = s := by
  induction l with
  | nil => rfl
  | cons x l ih => rw [List.foldl_cons, State.consumeOne_stays (.inl h), ih]

/-- Where nothing stops `CONSUMED` at a completed index, it moves on; and by one alone, where the next index is not completed. -/
theorem State.consume_moves {s : State} {q : Nat} (hd : s.consumed q ∈ (s.queueSt q).done) (hs : s.consumedStops q = false) :
    Consumes q s (s.consume q) ∧ s.consumed q ∉ ((s.consume q).queueSt q).done ∧
      (idxNext (s.consumed q) ∉ (s.queueSt q).done → (s.consume q).consumed q = idxNext (s.consumed q)) := by
  obtain ⟨⟨hframe, hregs, ds, hq, hds⟩, hgone, hnext⟩ := State.consumeOne_moves hd hs
  have hone := s.consumeOne_consumes q
  unfold State.consume
  cases hl : (s.queueSt q).done with
  | nil => exact absurd (hl ▸ hd) List.not_mem_nil
  | cons x l =>
    rw [List.foldl_cons]
    generalize s.consumeOne q = t at *
    have hrest := foldl_consumes q l t
    refine ⟨hone.trans hrest, fun h => hgone ?_, fun h => ?_⟩
    · obtain ⟨-, -, ds', hq', hds'⟩ := hrest
      rw [hq'] at h
      exact hds' _ h
    · rw [foldl_consume_stays l, hnext]
      rw [hnext, hq]
      exact fun hin => h (hl ▸ hds _ hin)

/-! A stall on a full ring (R270, R291). -/

/-- A queue that consumes the index it stalled at does not stall there again. -/
theorem State.stalled_no_more {s u : State} {q : Nat} (hhead : u.head q = s.head q) (hring : u.ringSize q = s.ringSize q)
    (hfull : idxGap (s.consumed q) (s.head q) = s.ringSize q) (hgone : s.consumed q ∉ (u.queueSt q).done) : u.stalled q = false := by
  by_contra h
  rw [Bool.not_eq_false] at h
  unfold State.stalled at h
  simp only [Bool.and_eq_true, beq_iff_eq] at h
  obtain ⟨⟨⟨-, hgap⟩, hin⟩, -⟩ := h
  have heq : u.consumed q = s.consumed q := by
    have h1 := u.consumed_lt q
    have h2 := s.consumed_lt q
    rw [hhead, hring, ← hfull] at hgap
    unfold idxGap at hgap
    omega
  exact hgone (heq ▸ List.contains_iff_mem.mp hin)

theorem State.giveUpOne_none {s : State} {q : Nat} (h : s.stalled q = false) : s.giveUpOne q = s := by
  unfold State.giveUpOne
  rw [h]
  rfl

/-- A loss is counted and logged, and sets both causes. -/
theorem State.retainLost_spec (s : State) (q : QueueNo) (kind : Nat) :
    let t := s.retainLost q kind
    SignalsOnly s t ∧ t.rf pgSched R.GRAPH_SCHED.RETAIN_LOST = up32 (s.rf pgSched R.GRAPH_SCHED.RETAIN_LOST) ∧
      t.record.nextSeq = s.record.nextSeq + 1 ∧
      (∃ e : Entry, e.code = 0x0605 ∧ e.detail = [q.val, kind, s.consumed q] ∧ e.seq = s.record.nextSeq ∧ e ∈ t.record.queue) ∧
      Caused t pgSched 2 ∧ Caused t (pgQueue q) 3 ∧
      SameRegs s t (fun o => o = pgSched + R.GRAPH_SCHED.RETAIN_LOST.off ∨ o = pgSched + oINT_STATUS ∨ o = pgQueue q + oINT_STATUS ∨ Reports o) := by
  dsimp only
  have hinc := s.rf_inc_self pgSched R.GRAPH_SCHED.RETAIN_LOST 0 (by decide) (by decide)
  have hinc' := fun o => State.reg_inc_other s pgSched R.GRAPH_SCHED.RETAIN_LOST 0 o
  have honly := s.inc_regsOnly pgSched R.GRAPH_SCHED.RETAIN_LOST 0
  have hseq := honly.record
  unfold State.retainLost
  generalize s.inc pgSched R.GRAPH_SCHED.RETAIN_LOST = t at *
  obtain ⟨honly', hnext, ⟨e, hcode, hdetail, hes, hmem⟩, hcause, hregs⟩ :=
    t.log_cause_spec (page := pgSched) (b := 2) pgSched 0x0605 [q.val, kind, s.consumed q] (by decide) (by decide)
  generalize (t.log pgSched 0x0605 [q.val, kind, s.consumed q]).cause pgSched 2 = u at *
  have hlast : ∀ o, o ≠ pgQueue q + oINT_STATUS → ¬routeReg o → (u.cause (pgQueue q) 3).reg o = u.reg o := fun o => State.reg_cause_other u _ 3 o
  have hne : ∀ o, o < 0x101000 → o ≠ pgQueue q + oINT_STATUS := fun o ho => by unfold pgQueue; omega
  have hroute : ¬routeReg (pgQueue q + oINT_STATUS) := by
    unfold routeReg pgQueue pgIntroute
    omega
  refine ⟨honly.signalsOnly.trans (honly'.trans (u.cause_signalsOnly _ _)), ?_, ?_, ⟨e, hcode, hdetail, ?_, ?_⟩, ?_, u.cause_set _ _ (by decide) hroute,
    fun o ho => ?_⟩
  · refine (congrArg (getBits · 31 0) ?_).trans hinc
    exact (hlast _ (hne _ (by decide)) (by decide)).trans (hregs _ (by unfold Reports InPage; decide))
  · rw [State.cause_record, hnext, hseq]
  · rw [hes, hseq]
  · rw [State.cause_record]
    exact hmem
  · unfold Caused State.hdr
    rw [hlast _ (hne _ (by decide)) (by decide)]
    exact hcause
  · obtain ⟨h1, h2, h3, h4⟩ : _ ∧ _ ∧ _ ∧ _ := by simpa only [not_or] using ho
    exact (hlast o h3 fun h => h4 (.inr h)).trans ((hregs o (not_or.mpr ⟨h2, h4⟩)).trans (hinc' o h1))

/-! Entries of the record stay in it. -/

/-- An entry is queued or programmed. -/
def HasEntry (r : Rec) (e : Entry) : Prop := e ∈ r.queue ∨ ∃ b ∈ r.blocks, e ∈ b

/-- The newest block with an entry more holds all that the blocks held. -/
theorem mem_blocks_push {bs : List (List Entry)} {x e : Entry} (h : ∃ b ∈ bs, e ∈ b) : ∃ b ∈ bs.dropLast ++ [bs.getLastD [] ++ [x]], e ∈ b := by
  obtain ⟨b, hb, he⟩ := h
  have hne : bs ≠ [] := List.ne_nil_of_mem hb
  rw [← List.dropLast_append_getLast hne] at hb
  rcases List.mem_append.mp hb with hb | hb
  · exact ⟨b, List.mem_append_left _ hb, he⟩
  · obtain rfl := List.mem_singleton.mp hb
    refine ⟨_, List.mem_append_right _ (List.mem_singleton.mpr rfl), List.mem_append_left _ ?_⟩
    rwa [List.getLastD_eq_getLast?, List.getLast?_eq_getLast_of_ne_nil hne]

theorem State.commitEntry_hasEntry (s : State) {e : Entry} (h : HasEntry s.record e) : HasEntry s.commitEntry.record e := by
  unfold State.commitEntry
  split
  · exact h
  · rename_i x q hq
    dsimp only
    split
    · exact h
    · rw [State.wf_record, State.wf64_record]
      rcases h with h | h
      · rw [hq] at h
        rcases List.mem_cons.mp h with rfl | h
        · refine .inr ?_
          dsimp only
          split
          · exact ⟨_, List.mem_append_right _ (List.mem_singleton.mpr rfl), List.mem_singleton.mpr rfl⟩
          · exact ⟨_, List.mem_append_right _ (List.mem_singleton.mpr rfl), List.mem_append_right _ (List.mem_singleton.mpr rfl)⟩
        · exact .inl h
      · refine .inr ?_
        dsimp only
        split
        · obtain ⟨b, hb, he⟩ := h
          exact ⟨b, List.mem_append_left _ hb, he⟩
        · exact mem_blocks_push h

theorem State.log_hasEntry (s : State) (page code : Nat) (d : List Nat) {e : Entry} (h : HasEntry s.record e) : HasEntry (s.log page code d).record e := by
  have hroom : HasEntry (if decide (1024 ≤ s.record.queue.length) then (s.cause pgRecord 2).commitEntry else s).record e := by
    split
    · exact State.commitEntry_hasEntry _ ((s.cause_record pgRecord 2).symm ▸ h)
    · exact h
  rcases hroom with h | h
  · exact .inl (List.mem_append_left _ h)
  · exact .inr h

/-! A burst (R28, R270). -/

theorem State.fetchBurst_closed {s : State} {q : Nat} (h : s.queueOn q = false ∨ s.rf (pgQueue q) R.GRAPH_QUEUE.Q_CTL_PAUSE = 1) : s.fetchBurst q = s := by
  refine if_pos ?_
  rcases h with h | h
  · rw [h]
    rfl
  · rw [h, beq_self_eq_true, Bool.or_true]

theorem State.fetchBurst_open {s : State} {q : Nat} (hon : s.queueOn q = true) (hp : s.rf (pgQueue q) R.GRAPH_QUEUE.Q_CTL_PAUSE ≠ 1) :
    s.fetchBurst q = s.whenFree (s.fetchRanges q) fun s =>
      ((List.range (16 - s.head q % 16)).foldl (fun t _ => t.fetchOne q) ((s.giveUp q).issueMore q)).settle := by
  refine if_neg ?_
  rw [hon, beq_eq_false_iff_ne.mpr hp]
  exact nofun

theorem State.whenFree_marked {s : State} {rs : List (Nat × Nat)} (k : State → State) (h : s.markedIn rs ≠ []) : s.whenFree rs k = s.snoop rs := by
  unfold State.whenFree
  rw [if_neg]
  exact fun he => h (List.isEmpty_iff.mp he)

/-- Snoops go out for every marked line, and are counted at the host's page. -/
theorem State.snoop_spec (s : State) (rs : List (Nat × Nat)) :
    (∃ r sn, s.snoop rs = { s with regs := r, host := { s.host with snoops := sn } } ∧ ∀ l ∈ s.markedIn rs, l ∈ sn) ∧
      SameRegs s (s.snoop rs) (InPage pgHost) := by
  unfold State.snoop
  dsimp only
  generalize hnew : (s.markedIn rs).filter (fun l => !s.host.snoops.contains l) = new
  constructor
  · obtain ⟨r, hr⟩ := State.inc64_frame { s with host := { s.host with snoops := s.host.snoops ++ new } } pgHost R.HOST.BI_SNP_LO R.HOST.BI_SNP_HI
      new.length 0
    refine ⟨r, _, hr, fun l hl => ?_⟩
    by_cases hs : l ∈ s.host.snoops
    · exact List.mem_append_left _ hs
    · refine List.mem_append_right _ (hnew ▸ List.mem_filter.mpr ⟨hl, ?_⟩)
      simpa using hs
  · exact fun o ho => State.reg_inc64_other _ _ _ _ _ _ _ (by rintro rfl; exact ho (by unfold InPage; decide))
      (by rintro rfl; exact ho (by unfold InPage; decide))

theorem State.issueMore_none {s : State} {q : Nat} (h : (s.queueSt q).again = []) : s.issueMore q = s := by
  unfold State.issueMore
  rw [h]
  rfl

theorem State.fetchOne_atTail {s : State} {q : Nat} (h : s.head q = s.tail q) : s.fetchOne q = s := by
  unfold State.fetchOne
  dsimp only
  rw [h, beq_self_eq_true]
  rfl

theorem foldl_fetch_atTail {s : State} {q : Nat} (h : s.head q = s.tail q) (l : List Nat) : l.foldl (fun t _ => t.fetchOne q) s = s := by
  induction l with
  | nil => rfl
  | cons x l ih => rw [List.foldl_cons, State.fetchOne_atTail h, ih]

/-- At the tail, a burst does no more than give up what stalls it. -/
theorem State.fetchBurst_atTail {s u : State} {q : Nat} (hon : s.queueOn q = true) (hp : s.rf (pgQueue q) R.GRAPH_QUEUE.Q_CTL_PAUSE ≠ 1)
    (hm : s.markedIn (s.fetchRanges q) = []) (hu : s.giveUp q = u) (hagain : (u.queueSt q).again = []) (htail : u.head q = u.tail q)
    (hn : NoWait u) : s.fetchBurst q = u := by
  rw [State.fetchBurst_open hon hp, State.whenFree_unmarked _ hm, hu, State.issueMore_none hagain, foldl_fetch_atTail htail, State.settle_noWait hn]

/-! A descriptor taken in (R270, R274). -/

theorem State.cacheUse_frame (s : State) (a n : Nat) : ∃ h, s.cacheUse a n = { s with host := h } := by
  unfold State.cacheUse
  split
  · exact ⟨_, rfl⟩
  · exact ⟨s.host, rfl⟩

theorem State.enter_passes {s : State} {t : Task} (h : fetchCheck t.desc (s.rf (pgQueue t.queue) R.GRAPH_QUEUE.CMPL_SLOTS_COUNT) = 0) :
    s.enter t = { s with nextSeq := s.nextSeq + 1, tasks := s.tasks ++ [t] } := by
  unfold State.enter
  dsimp only
  rw [if_pos]
  exact beq_iff_eq.mpr h

/-- A task fetched at `HEAD`, before it is handed over. -/
def FetchedAs (s : State) (q : Nat) (t : Task) : Prop :=
  t.seq = s.nextSeq ∧ t.queue = q ∧ t.index = s.head q ∧ t.desc = s.bytes (s.slotAddr q (s.head q)) 64 ∧ t.isHanded = false

theorem State.fetchOne_takes {s : State} {q : Nat} {d : List Byte} (hd : d = s.bytes (s.slotAddr q (s.head q)) 64) (hne : s.head q ≠ s.tail q)
    (hfence : s.fenced q = false) (hflight : s.inFlight q < 512) (hfull : idxGap (s.consumed q) (s.head q) ≠ s.ringSize q)
    (hreplay : (s.queueSt q).replayEnd = none) (hcheck : fetchCheck d (s.rf (pgQueue q) R.GRAPH_QUEUE.CMPL_SLOTS_COUNT) = 0) :
    ∃ h qs t, s.fetchOne q = { s.wf (pgQueue q) R.GRAPH_QUEUE.HEAD (idxNext (s.head q)) with
      host := h, queues := qs, nextSeq := s.nextSeq + 1, tasks := s.tasks ++ [t] } ∧ FetchedAs s q t := by
  obtain ⟨host, hhost⟩ := s.cacheUse_frame (s.slotAddr q (s.head q)) 64
  unfold State.fetchOne
  extract_lets i k d' past inReplay u1 u2 k' opens t v
  have hu1 : u1 = { s.wf (pgQueue q) R.GRAPH_QUEUE.HEAD (idxNext (s.head q)) with host := host } := by
    unfold u1
    rw [hhost]
    rfl
  have hu2 : u2 = u1 := if_neg (by unfold past k; rw [hreplay]; exact nofun)
  have hin : inReplay = false := by unfold inReplay k; rw [hreplay]; rfl
  have hguard : ¬(i == s.tail q || s.fenced q || decide (512 ≤ s.inFlight q) || idxGap (s.consumed q) i == s.ringSize q) = true := by
    rw [beq_eq_false_iff_ne.mpr hne, hfence, decide_eq_false (by omega), beq_eq_false_iff_ne.mpr hfull]
    exact nofun
  rw [if_neg hguard, hin, if_neg (by exact nofun)]
  have hcheck' : fetchCheck d (u1.rf (pgQueue q) R.GRAPH_QUEUE.CMPL_SLOTS_COUNT) = 0 := by
    rw [hu1]
    refine (congrArg (fetchCheck d) (State.rf_wf_other s (pgQueue q) (pgQueue q) R.GRAPH_QUEUE.HEAD R.GRAPH_QUEUE.CMPL_SLOTS_COUNT _ 0 0 ?_)).trans hcheck
    unfold Fld.addr R.GRAPH_QUEUE.CMPL_SLOTS_COUNT R.GRAPH_QUEUE.HEAD
    dsimp only
    omega
  have hfetched : FetchedAs s q (if opens then { t with step := fieldAt d' 32 8 } else t) := by
    have ht : FetchedAs s q t := by
      unfold t
      rw [hu2, hu1]
      exact ⟨rfl, rfl, rfl, rfl, rfl⟩
    split
    · exact ht
    · exact ht
  generalize ht' : (if opens then { t with step := fieldAt d' 32 8 } else t) = t' at hfetched
  have hv : v = { u1 with nextSeq := u1.nextSeq + 1, tasks := u1.tasks ++ [t'] } := by
    unfold v
    rw [hu2, ht']
    obtain ⟨-, hq, -, hdesc, -⟩ := hfetched
    refine State.enter_passes ?_
    rw [hdesc, hq, ← hd]
    exact hcheck'
  rw [hv, hu1]
  split
  · exact ⟨host, _, t', rfl, hfetched⟩
  · exact ⟨host, s.queues, t', rfl, hfetched⟩

theorem Task.not_handed_of_waiting {t : Task} (h : t.isWaiting = true) : t.isHanded = false := by
  unfold Task.isWaiting at h
  unfold Task.isHanded
  split at h
  · rename_i e
    rw [e]
  · exact nomatch h

theorem Task.not_handed_of_ready {t : Task} (h : t.isReady = true) : t.isHanded = false := by
  unfold Task.isReady at h
  unfold Task.isHanded
  split at h
  · rename_i e
    rw [e]
  · exact nomatch h

theorem State.becomesReady_waiting {s : State} {t : Task} (h : s.becomesReady t = true) : t.isWaiting = true := by
  unfold State.becomesReady at h
  simp only [Bool.and_eq_true] at h
  exact h.1.1

/-- Where no task that waits has a condition, evaluating the waits makes tasks ready and does no more. -/
theorem State.settleFor_unconditional {E : Task → Prop} (hready : ∀ t n, E t → E { t with phase := .ready n }) (hflag : ∀ t, E t → t.flag 1 = false)
    (n : Nat) {s : State} (h : ∀ t ∈ s.tasks, t.isHanded = true ∨ E t) (hex : ∃ t ∈ s.tasks, E t) :
    ∃ ts, s.settleFor n = { s with tasks := ts } ∧ ∃ t ∈ ts, E t := by
  induction n generalizing s with
  | zero => exact ⟨s.tasks, rfl, hex⟩
  | succ n ih =>
    unfold State.settleFor
    split
    · rename_i t ht
      have hE : ∀ u ∈ s.tasks, u.isHanded = false → E u := fun u hu hn => (h u hu).resolve_left (by rw [hn]; exact nofun)
      have hset : ∃ u ∈ s.tasks, ∃ p, E u ∧ t = s.setTask { u with phase := .ready p } := by
        unfold State.settleOne at ht
        split at ht
        · rename_i u hu
          cases ht
          have hmem := List.mem_of_find?_eq_some hu
          exact ⟨u, hmem, s.now, hE u hmem (Task.not_handed_of_waiting (State.becomesReady_waiting (List.find?_some hu))), rfl⟩
        · split at ht
          · rename_i u hu
            have hdue := List.find?_some hu
            simp only [Bool.and_eq_true] at hdue
            have hflag' := hflag u (hE u (List.mem_of_find?_eq_some hu) (Task.not_handed_of_ready hdue.1.1.1))
            rw [hflag'] at hdue
            exact nomatch hdue.1.1.2
          · exact nomatch ht
      obtain ⟨u, hu, p, hEu, rfl⟩ := hset
      have hnew := hready u p hEu
      have hall : ∀ v ∈ (s.setTask { u with phase := .ready p }).tasks, v.isHanded = true ∨ E v := by
        intro v hv
        obtain ⟨w, hw, rfl⟩ := List.mem_map.mp hv
        split
        · exact .inr hnew
        · exact h w hw
      obtain ⟨ts, hts, hin⟩ := ih hall ⟨_, List.mem_map.mpr ⟨u, hu, if_pos (beq_self_eq_true _)⟩, hnew⟩
      exact ⟨ts, hts, hin⟩
    · exact ⟨s.tasks, rfl, hex⟩

/-- The watches' view of the window changes, in their pages alone. -/
theorem State.watchWindowShut_spec (s : State) : RegsOnly s s.watchWindowShut ∧ SameRegs s s.watchWindowShut (0x400000 ≤ ·) := by
  unfold State.watchWindowShut
  generalize List.range 4 = l
  induction l generalizing s with
  | nil => exact ⟨.refl s, fun _ _ => rfl⟩
  | cons q l ih =>
    obtain ⟨honly, hregs⟩ := ih (s.wf (pgWatch q) R.NUMWATCH.REPLAY_STATE_WINDOW 0)
    rw [List.foldl_cons]
    refine ⟨(s.wf_regsOnly _ _ _ _).trans honly, fun o ho => (hregs o ho).trans (State.reg_wf_other _ _ _ _ _ _ ?_)⟩
    rintro rfl
    exact ho (by unfold Fld.addr pgWatch pgGradDie quadBase; omega)

/-- The window that closes is consumed from after its event is logged. -/
theorem State.closeWindow_spec {s : State} {w : Window} (h : s.window = some w) (reason : Nat) :
    ∃ v, s.closeWindow reason = v.consume w.queue ∧ SignalsOnly { s with window := none } v ∧
      SameRegs s v (fun o => o = pgSched + R.GRAPH_SCHED.STEP_STATE_WINDOW.off ∨ 0x400000 ≤ o ∨ Reports o) ∧
      v.record.nextSeq = s.record.nextSeq + 1 ∧ ∀ e, HasEntry s.record e → HasEntry v.record e := by
  have hwf := State.reg_wf_other { s with window := none } pgSched R.GRAPH_SCHED.STEP_STATE_WINDOW 0 0
  have honly := State.wf_regsOnly { s with window := none } pgSched R.GRAPH_SCHED.STEP_STATE_WINDOW 0 0
  unfold State.closeWindow
  rw [h]
  dsimp only
  generalize State.wf { s with window := none } pgSched R.GRAPH_SCHED.STEP_STATE_WINDOW 0 = t at *
  obtain ⟨hshut, hregs⟩ := t.watchWindowShut_spec
  generalize t.watchWindowShut = u at *
  have hrec := (honly.trans hshut).record
  refine ⟨_, rfl, (honly.trans hshut).signalsOnly.trans (u.log_signalsOnly _ _ _), fun o ho => ?_, ?_, fun e he => u.log_hasEntry _ _ _ (hrec ▸ he)⟩
  · obtain ⟨h1, h2, h3⟩ : _ ∧ _ ∧ _ := by simpa only [not_or] using ho
    exact (u.reg_log_other _ _ _ o (fun hr => h3 (.inl hr)) fun hr => h3 (.inr hr)).trans ((hregs o h2).trans (hwf o h1))
  · rw [State.log_nextSeq, hrec]

/-- A register of a queue's page beyond its header is none that reports a loss, and none of the dies. -/
theorem queue_off (q : QueueNo) {x : Nat} (hlo : 0x100 ≤ x) (hhi : x < 0x1000) :
    pgQueue q + x < 0x400000 ∧ ¬Reports (pgQueue q + x) ∧ pgQueue q + x ≠ pgQueue q + oINT_STATUS ∧
      pgQueue q + x ≠ pgSched + oINT_STATUS ∧ pgQueue q + x ≠ pgSched + R.GRAPH_SCHED.RETAIN_LOST.off ∧
      pgQueue q + x ≠ pgSched + R.GRAPH_SCHED.STEP_STATE_WINDOW.off := by
  have := q.isLt
  unfold Reports InPage pgRecord pgIntroute pgQueue pgSched oINT_STATUS R.GRAPH_SCHED.RETAIN_LOST R.GRAPH_SCHED.STEP_STATE_WINDOW
  dsimp only
  omega

theorem State.retainLost_queue (s : State) (q : QueueNo) (kind : Nat) {x : Nat} (hlo : 0x100 ≤ x) (hhi : x < 0x1000) :
    (s.retainLost q kind).reg (pgQueue q + x) = s.reg (pgQueue q + x) := by
  obtain ⟨-, hrep, hint, hint', hlost, -⟩ := queue_off q hlo hhi
  obtain ⟨-, -, -, -, -, -, hregs⟩ := s.retainLost_spec q kind
  refine hregs _ ?_
  simp only [not_or]
  exact ⟨hlost, hint', hint, hrep⟩

/-- Where one hold is given up and the index it held is consumed, nothing more is given up. -/
theorem State.giveUp_once {s u : State} {q : Nat} (hu : s.giveUpOne q = u) (hhead : u.head q = s.head q) (hring : u.ringSize q = s.ringSize q)
    (hfull : idxGap (s.consumed q) (s.head q) = s.ringSize q) (hgone : s.consumed q ∉ (u.queueSt q).done) : s.giveUp q = u := by
  unfold State.giveUp
  rw [hu, State.giveUpOne_none (State.stalled_no_more hhead hring hfull hgone)]

theorem State.stalled_of {s : State} {q : Nat} (hon : s.queueOn q = true) (hp : s.rf (pgQueue q) R.GRAPH_QUEUE.Q_CTL_PAUSE = 0)
    (hfull : idxGap (s.consumed q) (s.head q) = s.ringSize q) (hdone : (s.queueSt q).done.contains (s.consumed q) = true)
    (hstop : s.consumedStops q = true) : s.stalled q = true := by
  unfold State.stalled
  rw [hon, hp, hfull, hdone, hstop, beq_self_eq_true, beq_self_eq_true]
  rfl

/-- A queue whose ring is not full does not stall on it. -/
theorem State.giveUp_room {s : State} {q : Nat} (h : idxGap (s.consumed q) (s.head q) ≠ s.ringSize q) : s.giveUp q = s := by
  have hs : s.stalled q = false := by
    unfold State.stalled
    rw [beq_eq_false_iff_ne.mpr h, Bool.and_false, Bool.false_and, Bool.false_and]
  unfold State.giveUp
  rw [State.giveUpOne_none hs, State.giveUpOne_none hs]

/-- The window that holds `CONSUMED` is lost before a segment is. -/
theorem State.giveUpOne_window {s : State} {q : Nat} {w : Window} (hs : s.stalled q = true) (hw : s.window = some w) (hq : w.queue = q)
    (hfirst : idxNext (s.consumed q) = w.first) : s.giveUpOne q = (s.retainLost q 1).closeWindow 4 := by
  unfold State.giveUpOne
  rw [hs, hw]
  dsimp only
  rw [hq, hfirst, beq_self_eq_true, beq_self_eq_true]
  rfl

theorem State.giveUpOne_segment {s : State} {q : Nat} (hs : s.stalled q = true) (hw : s.window = none) :
    s.giveUpOne q = ((s.retainLost q 2).setQueue q { (s.retainLost q 2).queueSt q with gaveUp := true }).consume q := by
  unfold State.giveUpOne
  rw [hs, hw]
  rfl

end Sys2Proof.Machine

namespace Sys2Proof.Claims

open Machine

/-- A burst that takes in the one descriptor of the ring. -/
theorem fetchTakesOne {s : State} {q : QueueNo} {d : List Byte} (hno : NoWait s) (hon : s.queueOn q = true)
    (hp : s.rf (pgQueue q) R.GRAPH_QUEUE.Q_CTL_PAUSE ≠ 1) (hm : s.markedIn (s.fetchRanges q) = []) (hagain : (s.queueSt q).again = [])
    (hd : d = s.bytes (s.slotAddr q (s.head q)) 64) (hne : s.head q ≠ s.tail q) (hnext : idxNext (s.head q) = s.tail q)
    (hfence : s.fenced q = false) (hflight : s.inFlight q < 512) (hfull : idxGap (s.consumed q) (s.head q) ≠ s.ringSize q)
    (hreplay : (s.queueSt q).replayEnd = none) (hcheck : fetchCheck d (s.rf (pgQueue q) R.GRAPH_QUEUE.CMPL_SLOTS_COUNT) = 0)
    (hcond : descFlag d 1 = false) :
    ∃ h qs ts, s.fetchBurst q = { s.wf (pgQueue q) R.GRAPH_QUEUE.HEAD (s.tail q) with
      host := h, queues := qs, nextSeq := s.nextSeq + 1, tasks := ts } ∧ ∃ t ∈ ts, FetchedAs s q t := by
  obtain ⟨h, qs, t, htake, ht⟩ := State.fetchOne_takes hd hne hfence hflight hfull hreplay hcheck
  obtain ⟨n, hn⟩ : ∃ n, 16 - s.head q % 16 = n + 1 := ⟨15 - s.head q % 16, by omega⟩
  rw [State.fetchBurst_open hon hp, State.whenFree_unmarked _ hm, State.giveUp_room hfull, State.issueMore_none hagain, hn, List.range_succ_eq_map,
    List.foldl_cons, htake, hnext]
  have hhead : (s.wf (pgQueue q) R.GRAPH_QUEUE.HEAD (s.tail q)).head q = (s.wf (pgQueue q) R.GRAPH_QUEUE.HEAD (s.tail q)).tail q := by
    have hlt : s.tail q < 2 ^ 32 := getBits_lt _ 31 0
    have hself := s.rf_wf_self (pgQueue q) R.GRAPH_QUEUE.HEAD (s.tail q) 0 (by decide) (by decide)
    have hother := s.rf_wf_other (pgQueue q) (pgQueue q) R.GRAPH_QUEUE.HEAD R.GRAPH_QUEUE.TAIL (s.tail q) 0 0 (by
      unfold Fld.addr R.GRAPH_QUEUE.TAIL R.GRAPH_QUEUE.HEAD
      dsimp only
      omega)
    exact (hself.trans (Nat.mod_eq_of_lt hlt)).trans hother.symm
  rw [foldl_fetch_atTail (by exact hhead)]
  have hall : ∀ v ∈ s.tasks ++ [t], v.isHanded = true ∨ FetchedAs s q v := fun v hv => by
    rcases List.mem_append.mp hv with hv | hv
    · exact .inl (hno v hv)
    · exact .inr (List.mem_singleton.mp hv ▸ ht)
  obtain ⟨ts, hts, hin⟩ := State.settleFor_unconditional (E := FetchedAs s q) (fun _ _ ⟨hseq, hqueue, hindex, hdesc, _⟩ => ⟨hseq, hqueue, hindex, hdesc, rfl⟩)
    (fun v ⟨_, _, _, hdesc, _⟩ => by unfold Task.flag; rw [hdesc, ← hd]; exact hcond) (2 * (s.tasks ++ [t]).length + 1)
    (s := { s.wf (pgQueue q) R.GRAPH_QUEUE.HEAD (s.tail q) with host := h, queues := qs, nextSeq := s.nextSeq + 1, tasks := s.tasks ++ [t] })
    hall ⟨t, List.mem_append_right _ (List.mem_singleton.mpr rfl), ht⟩
  exact ⟨h, qs, ts, hts, hin⟩

/-- A burst that stalls on a full ring, where what held `CONSUMED` is given up in the state `v`: the queue then consumes. -/
theorem fetchGivesUp {s v : State} {q : QueueNo} (hno : NoWait s) (hon : s.queueOn q = true) (hp : s.rf (pgQueue q) R.GRAPH_QUEUE.Q_CTL_PAUSE ≠ 1)
    (hm : s.markedIn (s.fetchRanges q) = []) (hagain : (s.queueSt q).again = []) (htail : s.head q = s.tail q)
    (hfull : idxGap (s.consumed q) (s.head q) = s.ringSize q) (hdone : (s.queueSt q).done.contains (s.consumed q) = true)
    (hgive : s.giveUpOne q = v.consume q) (hstop : v.consumedStops q = false) (htasks : v.tasks = s.tasks)
    (hqueue : (v.queueSt q).done = (s.queueSt q).done ∧ (v.queueSt q).again = (s.queueSt q).again)
    (hregs : ∀ x, 0x100 ≤ x → x < 0x1000 → v.reg (pgQueue q + x) = s.reg (pgQueue q + x)) :
    s.fetchBurst q = v.consume q ∧ Consumes q v (v.consume q) ∧ ((v.consume q).queueSt q).done.contains (s.consumed q) = false ∧
      ((s.queueSt q).done.contains (idxNext (s.consumed q)) = false → (v.consume q).consumed q = idxNext (s.consumed q)) ∧
      (v.consume q).head q = s.head q := by
  obtain ⟨hqdone, hqagain⟩ := hqueue
  have hword : ∀ x, 0x100 ≤ x → x < 0x1000 → ∀ hi lo, getBits (v.reg (pgQueue q + x)) hi lo = getBits (s.reg (pgQueue q + x)) hi lo :=
    fun x h1 h2 hi lo => congrArg (getBits · hi lo) (hregs x h1 h2)
  have hconsumed : v.consumed q = s.consumed q := hword R.GRAPH_QUEUE.CONSUMED.off (by decide) (by decide) 31 0
  obtain ⟨hcons, hgone, hmove⟩ := State.consume_moves (s := v) (q := q)
    (by rw [hconsumed, hqdone]; exact List.contains_iff_mem.mp hdone) hstop
  have hcons' := hcons
  rw [hconsumed] at hgone hmove
  rw [hqdone] at hmove
  generalize v.consume q = u at *
  obtain ⟨⟨r, qs, hframe⟩, hsame, ds, hds, -⟩ := hcons
  have hkept : ∀ f : Fld, f.off ≠ R.GRAPH_QUEUE.CONSUMED.off → 0x100 ≤ f.off → f.off < 0x1000 →
      ∀ hi lo, getBits (u.reg (pgQueue q + f.off)) hi lo = getBits (s.reg (pgQueue q + f.off)) hi lo := fun f hne h1 h2 hi lo =>
    (congrArg (getBits · hi lo) (hsame _ (by omega))).trans (hword f.off h1 h2 hi lo)
  have hhead : u.head q = s.head q := hkept R.GRAPH_QUEUE.HEAD (by decide) (by decide) (by decide) 31 0
  have htail' : u.tail q = s.tail q := hkept R.GRAPH_QUEUE.TAIL (by decide) (by decide) (by decide) 31 0
  have hring : u.ringSize q = s.ringSize q :=
    congrArg (2 ^ ·) (hkept R.GRAPH_QUEUE.RING_SIZE_LOG2 (by decide) (by decide) (by decide) 4 0)
  refine ⟨?_, hcons', ?_, fun h => hmove fun hin => ?_, hhead⟩
  · refine State.fetchBurst_atTail hon hp hm (State.giveUp_once hgive hhead hring hfull hgone) ?_ ?_ ?_
    · rw [hds]
      exact hqagain.trans hagain
    · rw [hhead, htail', htail]
    · rw [hframe]
      exact fun t ht => hno t (htasks ▸ ht)
  · exact Bool.eq_false_iff.mpr fun h => hgone (List.contains_iff_mem.mp h)
  · rw [List.contains_iff_mem.mpr hin] at h
    exact nomatch h

/-- The replay window that begins at `CONSUMED` is given up. -/
theorem fetchGivesUpWindow {s : State} {q : QueueNo} {w : Window} (hno : NoWait s) (hon : s.queueOn q = true)
    (hp : s.rf (pgQueue q) R.GRAPH_QUEUE.Q_CTL_PAUSE = 0) (hm : s.markedIn (s.fetchRanges q) = []) (hagain : (s.queueSt q).again = [])
    (htail : s.head q = s.tail q) (hfull : idxGap (s.consumed q) (s.head q) = s.ringSize q)
    (hdone : (s.queueSt q).done.contains (s.consumed q) = true) (hw : s.window = some w) (hwq : w.queue = q.val)
    (hfirst : idxNext (s.consumed q) = w.first)
    (hretain : s.rf (pgQueue q) R.GRAPH_QUEUE.Q_CTL_RETAIN = 0 ∨ (s.queueSt q).retained ≠ s.consumed q) :
    Gives (.descriptorFetch q) s fun u =>
      u.window = none ∧ (u.queueSt q).done.contains (s.consumed q) = false ∧
      ((s.queueSt q).done.contains (idxNext (s.consumed q)) = false → u.consumed q = idxNext (s.consumed q)) ∧ u.head q = s.head q ∧
      u.rf pgSched R.GRAPH_SCHED.RETAIN_LOST = up32 (s.rf pgSched R.GRAPH_SCHED.RETAIN_LOST) ∧ Caused u pgSched 2 ∧ Caused u (pgQueue q) 3 ∧
      Logged s u 0x0605 [q.val, 1, s.consumed q] ∧ u.tasks = s.tasks ∧ SameBytes s u ∧ SameSeals s u := by
  have hstop : s.consumedStops q = true := by
    unfold State.consumedStops
    rw [hw]
    dsimp only
    rw [hwq, hfirst, beq_self_eq_true, beq_self_eq_true]
    rfl
  have hone := State.giveUpOne_window (State.stalled_of hon hp hfull hdone hstop) hw hwq hfirst
  obtain ⟨⟨r, m, i, e, hframe⟩, hcount, hseq, ⟨en, hcode, hdetail, hes, hmem⟩, hcause, hcause', hregs⟩ := s.retainLost_spec q 1
  have hqregs := fun x h1 h2 => s.retainLost_queue q 1 (x := x) h1 h2
  generalize s.retainLost q 1 = t at *
  obtain ⟨v, hclose, ⟨r', m', i', e', hframe'⟩, hregs', hseq', hkeep⟩ := State.closeWindow_spec (s := t) (w := w) (by rw [hframe]; exact hw) 4
  rw [hclose, hwq] at hone
  have hqregs' : ∀ x, 0x100 ≤ x → x < 0x1000 → v.reg (pgQueue q + x) = s.reg (pgQueue q + x) := fun x h1 h2 => by
    obtain ⟨hlt, hrep, -, -, -, hstep⟩ := queue_off q h1 h2
    refine (hregs' _ ?_).trans (hqregs x h1 h2)
    simp only [not_or]
    exact ⟨hstep, by omega, hrep⟩
  have hqueues : v.queues = s.queues := by rw [hframe', hframe]
  have hqueue : v.queueSt q = s.queueSt q := congrArg (aget · q QueueSt.fresh) hqueues
  have hwin : v.window = none := by rw [hframe']
  have hstop' : v.consumedStops q = false := by
    have hconsumed : v.consumed q = s.consumed q := congrArg (getBits · 31 0) (hqregs' R.GRAPH_QUEUE.CONSUMED.off (by decide) (by decide))
    have hctl : v.rf (pgQueue q) R.GRAPH_QUEUE.Q_CTL_RETAIN = s.rf (pgQueue q) R.GRAPH_QUEUE.Q_CTL_RETAIN :=
      congrArg (getBits · 1 1) (hqregs' R.GRAPH_QUEUE.Q_CTL_RETAIN.off (by decide) (by decide))
    unfold State.consumedStops
    dsimp only
    rw [hwin, hqueue, hconsumed, hctl, Bool.false_or]
    rcases hretain with h | h
    · rw [h]
      rfl
    · rw [beq_eq_false_iff_ne.mpr h.symm, Bool.and_false]
  obtain ⟨hburst, hcons, hgone, hmove, hhead⟩ := fetchGivesUp hno hon (by omega) hm hagain htail hfull hdone hone hstop' (by rw [hframe', hframe])
    (by rw [hqueue]; exact ⟨rfl, rfl⟩) hqregs'
  generalize v.consume q = u at *
  obtain ⟨⟨r'', qs, hframe''⟩, hsame, -⟩ := hcons
  have hkept : ∀ o, o < 0x400000 → ¬Reports o → o ≠ pgSched + R.GRAPH_SCHED.STEP_STATE_WINDOW.off →
      o ≠ pgQueue q + R.GRAPH_QUEUE.CONSUMED.off → u.reg o = t.reg o := fun o h1 h2 h3 h4 => by
    refine (hsame o h4).trans (hregs' o ?_)
    simp only [not_or]
    exact ⟨h3, by omega, h2⟩
  have hnotReports : ∀ o, pgSched ≤ o → o < 0x400000 → ¬Reports o := fun o h1 h2 => by
    unfold Reports InPage pgRecord pgIntroute
    unfold pgSched at h1
    omega
  have hrecord : u.record = v.record := by rw [hframe'']
  have hqueueOff : ∀ o, o < pgSched + 0x1000 → o ≠ pgQueue q + R.GRAPH_QUEUE.CONSUMED.off := fun o h => by
    unfold pgSched at h
    unfold pgQueue
    omega
  have hint : pgQueue q + oINT_STATUS < 0x400000 ∧ pgSched ≤ pgQueue q + oINT_STATUS ∧
      pgQueue q + oINT_STATUS ≠ pgSched + R.GRAPH_SCHED.STEP_STATE_WINDOW.off ∧ pgQueue q + oINT_STATUS ≠ pgQueue q + R.GRAPH_QUEUE.CONSUMED.off := by
    have := q.isLt
    unfold pgQueue pgSched oINT_STATUS R.GRAPH_SCHED.STEP_STATE_WINDOW R.GRAPH_QUEUE.CONSUMED
    dsimp only
    omega
  refine ⟨u, congrArg Host.Outcome.next hburst, ?_, hgone, hmove, hhead, ?_, ?_, ?_, ⟨?_, en, hcode, hdetail, hes.ge, ?_⟩, ?_, ?_, ?_⟩
  · rw [hframe'', hwin]
  · refine (congrArg (getBits · 31 0) ?_).trans hcount
    exact hkept _ (by decide) (hnotReports _ (by decide) (by decide)) (by decide) (hqueueOff _ (by decide))
  · unfold Caused State.hdr
    rw [hkept _ (by decide) (hnotReports _ (by decide) (by decide)) (by decide) (hqueueOff _ (by decide))]
    exact hcause
  · unfold Caused State.hdr
    obtain ⟨h1, h2, h3, h4⟩ := hint
    rw [hkept _ h1 (hnotReports _ h2 h1) h3 h4]
    exact hcause'
  · rw [hrecord, hseq', hseq]
    omega
  · rw [hrecord]
    exact hkeep en (.inl hmem)
  · rw [hframe'', hframe', hframe]
  · rw [hframe'', hframe', hframe]
    exact fun _ => rfl
  · rw [hframe'', hframe', hframe]
    exact fun _ => rfl

/-- The retained segment that begins at `CONSUMED` is given up. -/
theorem fetchGivesUpSegment {s : State} {q : QueueNo} (hno : NoWait s) (hon : s.queueOn q = true)
    (hp : s.rf (pgQueue q) R.GRAPH_QUEUE.Q_CTL_PAUSE = 0) (hm : s.markedIn (s.fetchRanges q) = []) (hagain : (s.queueSt q).again = [])
    (htail : s.head q = s.tail q) (hfull : idxGap (s.consumed q) (s.head q) = s.ringSize q)
    (hdone : (s.queueSt q).done.contains (s.consumed q) = true) (hw : s.window = none)
    (hretain : s.rf (pgQueue q) R.GRAPH_QUEUE.Q_CTL_RETAIN = 1) (hgave : (s.queueSt q).gaveUp = false)
    (hseg : s.consumed q = (s.queueSt q).retained) :
    Gives (.descriptorFetch q) s fun u =>
      (u.queueSt q).gaveUp = true ∧ (u.queueSt q).done.contains (s.consumed q) = false ∧
      ((s.queueSt q).done.contains (idxNext (s.consumed q)) = false → u.consumed q = idxNext (s.consumed q)) ∧
      u.rf pgSched R.GRAPH_SCHED.RETAIN_LOST = up32 (s.rf pgSched R.GRAPH_SCHED.RETAIN_LOST) ∧ Caused u pgSched 2 ∧ Caused u (pgQueue q) 3 ∧
      Logged s u 0x0605 [q.val, 2, s.consumed q] ∧
      SameRegs s u (fun o => o = pgSched + R.GRAPH_SCHED.RETAIN_LOST.off ∨ o = pgQueue q + R.GRAPH_QUEUE.CONSUMED.off ∨
        o = pgSched + oINT_STATUS ∨ o = pgQueue q + oINT_STATUS ∨ Reports o) ∧
      u.tasks = s.tasks ∧ SameBytes s u ∧ SameSeals s u := by
  have hstop : s.consumedStops q = true := by
    unfold State.consumedStops
    dsimp only
    rw [hw, hretain, hgave, hseg, beq_self_eq_true, beq_self_eq_true]
    rfl
  have hone := State.giveUpOne_segment (State.stalled_of hon hp hfull hdone hstop) hw
  obtain ⟨⟨r, m, i, e, hframe⟩, hcount, hseq, ⟨en, hcode, hdetail, hes, hmem⟩, hcause, hcause', hregs⟩ := s.retainLost_spec q 2
  have hqregs := fun x h1 h2 => s.retainLost_queue q 2 (x := x) h1 h2
  generalize s.retainLost q 2 = t at *
  have hqueue : t.queueSt q = s.queueSt q := by rw [hframe]; rfl
  have hset := t.queueSt_setQueue_self q { t.queueSt q with gaveUp := true }
  rw [hqueue] at hone hset
  have hwin : (t.setQueue q { s.queueSt q with gaveUp := true }).window = none := by rw [hframe]; exact hw
  have hstop' : (t.setQueue q { s.queueSt q with gaveUp := true }).consumedStops q = false := by
    unfold State.consumedStops
    dsimp only
    rw [hwin, hset, Bool.false_or]
    dsimp only
    rw [Bool.not_true, Bool.and_false, Bool.false_and]
  obtain ⟨hburst, ⟨⟨r', qs, hframe'⟩, hsame, ds, hds, -⟩, hgone, hmove, hhead⟩ := fetchGivesUp hno hon (by omega) hm hagain htail hfull hdone hone
    hstop' (by rw [hframe]; rfl) (by rw [hset]; exact ⟨rfl, rfl⟩) hqregs
  generalize (t.setQueue q { s.queueSt q with gaveUp := true }).consume q = u at *
  have hkept : ∀ o, o ≠ pgQueue q + R.GRAPH_QUEUE.CONSUMED.off → u.reg o = t.reg o := hsame
  have hne : ∀ o, o < pgSched + 0x1000 → o ≠ pgQueue q + R.GRAPH_QUEUE.CONSUMED.off := fun o h => by
    unfold pgSched at h
    unfold pgQueue
    omega
  have hrecord : u.record = t.record := by rw [hframe']; rfl
  refine ⟨u, congrArg Host.Outcome.next hburst, ?_, hgone, hmove, ?_, ?_, ?_, ⟨?_, en, hcode, hdetail, hes.ge, .inl ?_⟩, fun o ho => ?_, ?_, ?_, ?_⟩
  · rw [hds, hset]
  · exact (congrArg (getBits · 31 0) (hkept _ (hne _ (by decide)))).trans hcount
  · unfold Caused State.hdr
    rw [hkept _ (hne _ (by decide))]
    exact hcause
  · unfold Caused State.hdr
    rw [hkept _ (by unfold oINT_STATUS R.GRAPH_QUEUE.CONSUMED; dsimp only; omega)]
    exact hcause'
  · rw [hrecord, hseq]
    omega
  · rw [hrecord]
    exact hmem
  · obtain ⟨h1, h2, h3, h4, h5⟩ : _ ∧ _ ∧ _ ∧ _ ∧ _ := by simpa only [not_or] using ho
    refine (hkept o h2).trans (hregs o ?_)
    simp only [not_or]
    exact ⟨h1, h3, h4, h5⟩
  · rw [hframe', hframe]
    rfl
  · rw [hframe', hframe]
    exact fun _ => rfl
  · rw [hframe', hframe]
    exact fun _ => rfl

end Sys2Proof.Claims

open Sys2Proof Sys2Proof.Machine Sys2Proof.Claims

/-- Settles O29: a closed queue fetches nothing, a marked line is snooped, the one descriptor of the ring becomes a task, and a stall on a full ring
gives up the window or the segment that holds `CONSUMED`. -/
theorem Sys2Proof.Claims.descriptorFetch : Obligations.DescriptorFetch := by
  unfold Obligations.DescriptorFetch
  intro s q hno
  have hpause : s.rf (pgQueue q) R.GRAPH_QUEUE.Q_CTL_PAUSE = 0 → s.rf (pgQueue q) R.GRAPH_QUEUE.Q_CTL_PAUSE ≠ 1 := fun h => by omega
  refine ⟨fun h => ?_, fun hon hp hm => ?_, fun hon hp hm hagain => ⟨fun d hd hne hnext hfence hflight hfull hreplay hcheck hcond => ?_,
    fun htail hfull hdone => ⟨fun w hw hwq hfirst hretain => ?_, fun hw hretain hgave hseg => ?_⟩⟩⟩
  · refine congrArg Host.Outcome.next ?_
    by_cases hclosed : s.queueOn q = false ∨ s.rf (pgQueue q) R.GRAPH_QUEUE.Q_CTL_PAUSE = 1
    · exact State.fetchBurst_closed hclosed
    · obtain ⟨hon, hp⟩ := not_or.mp hclosed
      obtain ⟨htail, hagain, hroom⟩ := (h.resolve_left hon).resolve_left hp
      have hm : s.markedIn (s.fetchRanges q) = [] := by
        unfold State.fetchRanges
        rw [hagain, htail, beq_self_eq_true]
        exact List.filter_eq_nil_iff.mpr fun _ _ => nofun
      exact State.fetchBurst_atTail (Bool.eq_true_of_not_eq_false hon) hp hm (State.giveUp_room hroom) hagain htail hno
  · obtain ⟨⟨r, sn, hstate, hsn⟩, hregs⟩ := s.snoop_spec (s.fetchRanges q)
    have hex : s.fetchBurst q = s.snoop (s.fetchRanges q) := by
      rw [State.fetchBurst_open hon (hpause hp), State.whenFree_marked _ hm]
    refine ⟨_, congrArg Host.Outcome.next (hex.trans hstate), rfl, hsn, fun o ho => ?_, fun _ => rfl, fun _ => rfl⟩
    rw [← hstate]
    exact hregs o ho
  · obtain ⟨h, qs, ts, hstate, t, hin, hseq, hqueue, hindex, hdesc, hnot⟩ :=
      fetchTakesOne hno hon (hpause hp) hm hagain hd hne hnext hfence hflight hfull hreplay hcheck hcond
    refine ⟨_, congrArg Host.Outcome.next hstate, ?_, rfl, ⟨t, hin, hseq, hqueue, hindex, hdesc.trans hd.symm, hnot⟩,
      fun o ho => State.reg_wf_other s _ _ _ _ _ ho, fun _ => rfl, fun _ => rfl⟩
    exact (s.rf_wf_self (pgQueue q) R.GRAPH_QUEUE.HEAD (s.tail q) 0 (by decide) (by decide)).trans (Nat.mod_eq_of_lt (getBits_lt _ 31 0))
  · exact fetchGivesUpWindow hno hon hp hm hagain htail hfull hdone hw hwq hfirst hretain
  · exact fetchGivesUpSegment hno hon hp hm hagain htail hfull hdone hw hretain hgave hseg
end

section
/-! PROOFS. What every command answers (R21, R23, R466). -/

namespace Sys2Proof.Machine

open Sys2Proof.Claims

/-- An outcome is a next state, or the stop of a command at a die without its clock. -/
def Answers (s : State) (o : Host.Outcome State Fault Refusal) : Prop :=
  (∃ t, o = .next t) ∨ ∃ b, o = .fault (.dieUnclocked b) ∧ s.clocked b = false ∧ (Clocked s → b < 25)

theorem Answers.next {s : State} (t : State) : Answers s (.next t) := .inl ⟨t, rfl⟩

theorem Answers.ite {s : State} {c : Prop} [Decidable c] {o o' : Host.Outcome State Fault Refusal} (h : Answers s o) (h' : Answers s o') :
    Answers s (if c then o else o') := by
  split
  · exact h
  · exact h'

/-- Where every die has its clock, an answer is a next state. -/
theorem Answers.next_of_clocked {s : State} {o : Host.Outcome State Fault Refusal} (h : Answers s o) (hc : Clocked s) : ∃ t, o = .next t := by
  obtain hnext | ⟨b, -, hclock, hb⟩ := h
  · exact hnext
  · rw [hc.locked b (hb hc)] at hclock
    exact nomatch hclock

theorem Answers.unclocked {s : State} {o : Host.Outcome State Fault Refusal} {b : Nat} (h : Answers s o) (ho : o = .fault (.dieUnclocked b)) :
    s.clocked b = false := by
  obtain ⟨t, hnext⟩ | ⟨b', hfault, hclock, -⟩ := h
  · exact nomatch hnext.symm.trans ho
  · cases hfault.symm.trans ho
    exact hclock

/-! Work on dies. -/

theorem State.onDie_answers {s : State} {b : Nat} (k : State → State) (hb : Clocked s → b < 25) : Answers s (s.onDie b k) := by
  unfold State.onDie
  split
  · exact .next _
  · rename_i h
    exact .inr ⟨b, rfl, Bool.eq_false_iff.mpr h, hb⟩

theorem State.onGradDie_answers {s : State} {q : Nat} (k : State → State) (hq : Clocked s → q < 4) : Answers s (s.onDie (pllGrad q) k) :=
  s.onDie_answers k fun hc => by
    have := hq hc
    unfold pllGrad
    omega

theorem State.onMemDie_answers {s : State} {n : Nat} (k : State → State) (hn : Clocked s → n < 8) : Answers s (s.onDie (pllMem n) k) :=
  s.onDie_answers k fun hc => by
    have := hn hc
    unfold pllMem
    omega

theorem State.onArrayDie_answers {s : State} (n : Die8) (k : State → State) : Answers s (s.onDie (pllArray n) k) :=
  s.onDie_answers k fun _ => by
    have := n.isLt
    unfold pllArray
    omega

theorem entryDie_lt (e : Nat) : entryDie e < 8 := by
  unfold entryDie bitsOf
  omega

theorem State.onArrayDies_answers (s : State) (pl : Place) (k : State → State) : Answers s (s.onArrayDies pl k) := by
  unfold State.onArrayDies
  split
  · rename_i b hb
    obtain ⟨e, -, rfl⟩ := List.mem_map.mp (List.mem_of_find?_eq_some hb)
    refine .inr ⟨_, rfl, by simpa using List.find?_some hb, fun _ => ?_⟩
    have := entryDie_lt e
    unfold pllArray
    omega
  · exact .next _

theorem State.onUpd_answers (s : State) (e : Nat) (phase : UpdPhase) {k : Task → UpdOp → Upd → Host.Outcome State Fault Refusal}
    (hk : ∀ t x u, Answers s (k t x u)) : Answers s (s.onUpd e phase k) := by
  unfold State.onUpd
  split
  · split
    · exact .ite (hk _ _ _) (.next s)
    · exact .next s
  · exact .next s

/-! The units that tasks go to (R286). -/

theorem unitCount_le (type : Nat) : unitCount type ≤ 8 := by
  unfold unitCount
  split <;> decide

theorem State.fewest_mem {s : State} {type u : Nat} {us : List Nat} (h : s.fewest type us = some u) : u ∈ us := by
  have hmem : ∀ v, s.fewest type us = some v → v ∈ us := by
    unfold State.fewest
    refine List.foldlRecOn us _ (motive := fun best => ∀ v, best = some v → v ∈ us) nofun fun best hbest x hx v hv => ?_
    split at hv
    · cases hv
      exact hx
    · split at hv
      · cases hv
        exact hx
      · exact hbest v hv
  exact hmem u h

theorem State.pickUnit_lt {s : State} {type hint u : Nat} (h : s.pickUnit type hint = some u) : u < unitCount type := by
  have hready : u ∈ (List.range (unitCount type)).filter (s.unitReady type) := by
    unfold State.pickUnit at h
    dsimp only at h
    split at h
    · split at h
      · rename_i hc
        cases h
        exact List.contains_iff_mem.mp hc
      · exact State.fewest_mem h
    · exact State.fewest_mem h
  exact List.mem_range.mp (List.mem_filter.mp hready).1

/-! Commands of engines. -/

theorem State.runArray_answers (s : State) (n type : Nat) (rev : Bool) : Answers s (s.runArray n type rev) := by
  unfold State.runArray
  split
  · exact s.onArrayDies_answers _ _
  · split
    · exact .ite (s.onArrayDies_answers _ _) (.next s)
    · exact .next s

theorem execArrayLoad_answers (n : Nat) (s : State) : Answers s (execArrayLoad n s) := by
  unfold execArrayLoad
  split
  · exact s.onArrayDies_answers _ _
  · split
    · exact s.onArrayDies_answers _ _
    · exact .next s

theorem execLoadBlockArrival_answers (n : Die8) (p : PanelNo) (phys : LoadPhysics) (s : State) : Answers s (execLoadBlockArrival n p phys s) := by
  unfold execLoadBlockArrival
  split
  · split
    · exact s.onArrayDie_answers n _
    · exact .next s
  · exact .next s

theorem execRefreshComplete_answers (n : Die8) (p : PanelNo) (phys : LoadPhysics) (s : State) : Answers s (execRefreshComplete n p phys s) := by
  unfold execRefreshComplete
  split
  · exact s.onArrayDie_answers n _
  · exact .next s

theorem execSpareFillComplete_answers (n : Die8) (phys : LoadPhysics) (s : State) : Answers s (execSpareFillComplete n phys s) := by
  unfold execSpareFillComplete
  dsimp only
  split
  · exact .ite (s.onArrayDie_answers n _) (.next s)
  · exact .next s

theorem execGradMm_answers (n : Nat) (s : State) : Answers s (execGradMm n s) := by
  unfold execGradMm
  split
  · split
    · rename_i q hq
      exact s.onGradDie_answers _ fun _ => State.pickUnit_lt hq
    · exact .next s
  · exact .next s

theorem execWorkItemDone_answers (q : Quad) (c : Core) (s : State) : Answers s (execWorkItemDone q c s) := by
  unfold execWorkItemDone
  split
  · split
    · exact s.onGradDie_answers _ fun _ => q.isLt
    · exact .next s
  · exact .next s

theorem State.takeVec_answers (s : State) (n : Nat) {type : Nat} (h : unitCount type = 4) : Answers s (s.takeVec n type) := by
  unfold State.takeVec
  split
  · split
    · rename_i q hq
      exact s.onGradDie_answers _ fun _ => h ▸ State.pickUnit_lt hq
    · exact .next s
  · exact .next s

theorem execRowGroupDone_answers (q : Quad) (c : Core) (s : State) : Answers s (execRowGroupDone q c s) := by
  unfold execRowGroupDone
  split
  · split
    · exact s.onGradDie_answers _ fun _ => q.isLt
    · exact .next s
  · exact .next s

theorem State.takeUpd_answers (s : State) (n mode : Nat) : Answers s (s.takeUpd n mode) := by
  unfold State.takeUpd
  split
  · split
    · rename_i e he
      have he := (State.pickUnit_lt he).trans_le (unitCount_le _)
      exact .ite (.next s) (s.onGradDie_answers _ fun _ => by omega)
    · exact .next s
  · split
    · rename_i t ht
      refine .ite (s.onGradDie_answers _ fun hc => ?_) (.next s)
      have := hc.tasks t (task?_mem ht).1
      omega
    · exact .next s

theorem execTagWaitEnd_answers (e : Engine) (s : State) : Answers s (execTagWaitEnd e s) :=
  s.onUpd_answers e _ fun _ _ _ => .ite (.next s) (.ite (.next _) (.next _))

theorem execStepTagStale_answers (e : Engine) (s : State) : Answers s (execStepTagStale e s) :=
  s.onUpd_answers e _ fun _ _ _ => .ite (.next s) (.next _)

theorem onEngineDie_answers (e : Engine) (s : State) (k : State → State) : Answers s (s.onDie (pllGrad (e / 2)) k) :=
  s.onGradDie_answers k fun _ => by
    have := e.isLt
    omega

theorem execCheckpointInterlockClear_answers (e : Engine) (s : State) : Answers s (execCheckpointInterlockClear e s) :=
  s.onUpd_answers e _ fun _ _ _ => .ite (.next s) (onEngineDie_answers e s _)

theorem execCheckpointInterlockTimeout_answers (e : Engine) (s : State) : Answers s (execCheckpointInterlockTimeout e s) :=
  s.onUpd_answers e _ fun _ _ _ => .ite (.next s) (.next _)

theorem execPass1Done_answers (e : Engine) (s : State) : Answers s (execPass1Done e s) :=
  s.onUpd_answers e _ fun _ _ _ => onEngineDie_answers e s _

theorem execPass2Done_answers (e : Engine) (s : State) : Answers s (execPass2Done e s) :=
  s.onUpd_answers e _ fun _ _ _ => onEngineDie_answers e s _

theorem execMeasuringPrepassDone_answers (n : Nat) (s : State) : Answers s (execMeasuringPrepassDone n s) := by
  unfold execMeasuringPrepassDone
  split
  · exact .next s
  · split
    · exact s.onArrayDies_answers _ _
    · rename_i p hp _
      exact s.onGradDie_answers _ fun hc => hc.grads p (List.mem_of_find?_eq_some hp)
    · rename_i p hp _ _
      exact s.onGradDie_answers _ fun hc => hc.vecs p (List.mem_of_find?_eq_some hp)
    · exact .next s

theorem execDmaCopy_answers (n : Nat) (s : State) : Answers s (execDmaCopy n s) := by
  unfold execDmaCopy
  split
  · split
    · rename_i d hd
      exact s.onMemDie_answers _ fun _ => State.pickUnit_lt hd
    · exact .next s
  · exact .next s

theorem execDmaBurstIssue_answers (n : Die8) (c : ChanNo) (s : State) : Answers s (execDmaBurstIssue n c s) :=
  .ite (.next s) (s.onMemDie_answers _ fun _ => n.isLt)

theorem execDmaTransferEnd_answers (n : Die8) (c : ChanNo) (s : State) : Answers s (execDmaTransferEnd n c s) :=
  .ite (.next s) (s.onMemDie_answers _ fun _ => n.isLt)

/-- The memory-side die of an address of Tier A or Tier B. -/
theorem blockOwner_lt {a : Nat} (h : (inTierA a || inTierB a) = true) : (blockOwner a).1 < 8 := by
  unfold inTierA inTierB tierAEnd tierBBase tierBEnd at h
  simp only [Bool.or_eq_true, Bool.and_eq_true, decide_eq_true_eq] at h
  unfold blockOwner tierBBase sramBase
  split
  · dsimp only
    omega
  · split
    · dsimp only
      omega
    · dsimp only
      omega

theorem execDramReadComplete_answers (a : Nat) (ecc : Ecc) (s : State) : Answers s (execDramReadComplete a ecc s) := by
  unfold execDramReadComplete
  split
  · rename_i h
    exact s.onMemDie_answers _ fun _ => blockOwner_lt h
  · exact .next s

theorem State.takeGather_answers (s : State) (n type : Nat) (experts : Bool) : Answers s (s.takeGather n type experts) := by
  unfold State.takeGather
  dsimp only
  split
  · split
    · exact .next s
    · split
      · rename_i d hd
        exact s.onMemDie_answers _ fun _ => (State.pickUnit_lt hd).trans_le (unitCount_le _)
      · exact .next s
  · split
    · rename_i t ht
      exact .ite (s.onMemDie_answers _ fun hc => hc.tasks t (task?_mem ht).1) (.next s)
    · exact .next s

theorem execTempoTick_answers (s : State) : Answers s (execTempoTick s) := .ite (.next s) (.next _)

theorem execTempoMark_answers (s : State) : Answers s (execTempoMark s) := .ite (.next s) (.next _)

theorem execSealOpDone_answers (n : Die8) (s : State) : Answers s (execSealOpDone n s) := by
  unfold execSealOpDone
  split
  · exact .next s
  · exact s.onMemDie_answers _ fun _ => n.isLt

theorem execFieldTestRun_answers (s : State) : Answers s (execFieldTestRun s) := by
  unfold execFieldTestRun
  split
  · rename_i f _
    exact s.onGradDie_answers _ fun _ => f.core.quad.isLt
  · exact .next s

theorem execFieldTestDone_answers (pass : Bool) (s : State) : Answers s (execFieldTestDone pass s) := by
  unfold execFieldTestDone
  split
  · rename_i f _
    exact .ite (.next s) (s.onGradDie_answers _ fun _ => f.core.quad.isLt)
  · exact .next s

theorem execSpdmRequest_answers {msg : DoeMessage} (h : ∀ code, msg.req ≠ .other code) (s : State) : Answers s (execSpdmRequest msg s) := by
  unfold execSpdmRequest
  split
  · rename_i code hc
    exact absurd hc (h code)
  · exact .next _

/-- Every command but a message of the standards answers, or stops at a die without its clock. -/
theorem exec_answers {c : Instr} (s : State) (h : ∀ sec code, c ≠ .spdmRequest ⟨sec, .other code⟩) : Answers s (exec c s) := by
  cases c
  case spdmRequest msg => exact execSpdmRequest_answers (fun code hm => h msg.secured code (by cases msg; cases hm; rfl)) s
  case arrayFwd n => exact s.runArray_answers n _ _
  case arrayRev n => exact s.runArray_answers n _ _
  case arrayLoad n => exact execArrayLoad_answers n s
  case loadBlockArrival n p phys => exact execLoadBlockArrival_answers n p phys s
  case refreshComplete n p phys => exact execRefreshComplete_answers n p phys s
  case spareFillComplete n phys => exact execSpareFillComplete_answers n phys s
  case gradMm n => exact execGradMm_answers n s
  case workItemDone q c => exact execWorkItemDone_answers q c s
  case vecPattern n => exact s.takeVec_answers n rfl
  case convert n => exact s.takeVec_answers n rfl
  case rowGroupDone q c => exact execRowGroupDone_answers q c s
  case updateNormal n => exact s.takeUpd_answers n _
  case updateCommit n => exact s.takeUpd_answers n _
  case updateDiscard n => exact s.takeUpd_answers n _
  case updateProbe n => exact s.takeUpd_answers n _
  case updateDerive n => exact s.takeUpd_answers n _
  case updateDeriveScales n => exact s.takeUpd_answers n _
  case tagWaitEnd e => exact execTagWaitEnd_answers e s
  case stepTagStale e => exact execStepTagStale_answers e s
  case pass1Done e => exact execPass1Done_answers e s
  case checkpointInterlockClear e => exact execCheckpointInterlockClear_answers e s
  case checkpointInterlockTimeout e => exact execCheckpointInterlockTimeout_answers e s
  case pass2Done e => exact execPass2Done_answers e s
  case measuringPrepassDone n => exact execMeasuringPrepassDone_answers n s
  case dmaCopy n => exact execDmaCopy_answers n s
  case dmaBurstIssue n c => exact execDmaBurstIssue_answers n c s
  case dmaTransferEnd n c => exact execDmaTransferEnd_answers n c s
  case dramReadComplete a ecc => exact execDramReadComplete_answers a ecc s
  case gatherRows n => exact s.takeGather_answers n _ _
  case gatherExperts n => exact s.takeGather_answers n _ _
  case scatterAdd n => exact s.takeGather_answers n _ _
  case tempoTick => exact execTempoTick_answers s
  case tempoMark => exact execTempoMark_answers s
  case sealOpDone n => exact execSealOpDone_answers n s
  case fieldTestRun => exact execFieldTestRun_answers s
  case fieldTestDone pass => exact execFieldTestDone_answers pass s
  all_goals exact .next _

end Sys2Proof.Machine

open Sys2Proof Sys2Proof.Machine Sys2Proof.Claims

/-- Settles O60: only work on a die stops, and where every die has its clock it does not. -/
theorem Sys2Proof.Claims.everyCommandAnswers : Obligations.EveryCommandAnswers := by
  intro c s h
  have hans := exec_answers s h
  exact ⟨hans.next_of_clocked, fun b => hans.unclocked⟩
end

section
/-! PROOFS. Array reads at dispatch (R120, R158): what the task that is dispatched holds beforehand. -/

namespace Sys2Proof.Machine

open Sys2Proof.Claims

/-- A ready ARRAY_FWD of one token, KA8 to KA8 under its own exponent (`EXP_SRC` 1), whose placement descriptor stands at the base of the
host window. It holds panel 0 of array die 0 although it has not been handed over. -/
def holdingRead : Task where
  seq := 0
  queue := 0
  index := 0
  alt := false
  desc := [0x11] ++ List.replicate 37 0 ++ [0x08] ++ List.replicate 9 0 ++ [1, 0, 0, 0, 8, 8, 0, 0, 0x10] ++ List.replicate 7 0
  step := 0
  repeats := 0
  replays := 0
  widened := false
  fetchAt := 0
  startAt := 0
  condDone := false
  phase := .ready 0
  unit := pgSched
  pages := [pgPanel 0 0]
  post := []
  target := 0

/-- A module that runs with its clocks locked and `holdingRead` fetched. Its placement descriptor names the logical panel 0 of array die 0,
in format KT2, with one row and one column; the panel that serves it is enabled and READY, and its content is invalid. -/
def heldByItsRead : State :=
  { ((State.reset.wf pgDevice R.DEVICE.DEV_STATE_STATE 4).setReg (pgClock + R.CLOCK.PLL_LOCK_REFCLK.off) 0xFFFFFFFF).setHdrBit
      (pgPanel 0 0) oPAGE_CTL 0 true with
    mem := [4, 8, 12, 16, 18, 20].map fun o => (hostBase + o, 1)
    tasks := [holdingRead]
    dieCals := [(0, ⟨true, false, true, 0x3F800000⟩)]
    power := { State.reset.power with supply := true, held := false } }

/-- The read may be dispatched, and what it needs for its hand-over is there. -/
theorem heldByItsRead_dispatches : heldByItsRead.dispatchable 0 [0x11] = some holdingRead ∧
    ArrayGo heldByItsRead holdingRead (readRanges heldByItsRead holdingRead false) ∧ holdingRead.fld 48 4 ≠ 0 ∧
    PlaceGood heldByItsRead holdingRead ∧ arrIn holdingRead = some .ka8 ∧ arrOut holdingRead = some .ka8 ∧
    (∀ e ∈ (placed heldByItsRead holdingRead).ents, heldByItsRead.entryAlias e ≠ 0xFF) ∧ heldByItsRead.arrayRun? 0 = none := by
  unfold ArrayGo PlaceGood
  decide +kernel

/-- Its one panel is not free, since the read itself holds it. -/
theorem heldByItsRead_not_free :
    ∀ e ∈ (placed heldByItsRead holdingRead).ents, heldByItsRead.panelFree (heldByItsRead.entryPage e) = false := by decide +kernel

/-- The state in which `heldByItsRead` hands its read over. -/
def heldByItsReadChecked : State :=
  (heldByItsRead.cacheUse (4096 * (holdingRead.addr 32 / 4096)) 4096).check [holdingRead.addr 32 / 4096] 0

/-- The hand-over lets the page go: the panel is free at once, refuses the read for its content (R120), and the read has ended. -/
theorem heldByItsRead_ends :
    ((heldByItsReadChecked.handArray holdingRead (heldByItsRead.arrayUnit (holdingRead.addr 32) 0)
      (heldByItsRead.bytes (holdingRead.addr 32) 4096) false .ka8).task? 0).map (·.phase) =
      some (.finished stAborted 0 0x0105 0) := by decide +kernel

end Sys2Proof.Machine

open Sys2Proof Sys2Proof.Machine Sys2Proof.Claims

/-- Refutes O16: the part of `ArrayReadsStartWhenChecksPass` on a read none of whose panels is free puts no condition on the pages that the
read itself holds. A page that a task holds makes its panel not free, and the hand-over clears that list: in `heldByItsRead` the panel of
the only entry is free once the read is handed over, so that the read starts on it, is refused there and has ended, where the statement has
it run with every entry still to start. The model gives pages only to tasks handed over; the statement lacks `t.pages = []`. -/
theorem Sys2Proof.Claims.not_arrayReads : ¬ Obligations.ArrayReads := by
  unfold Obligations.ArrayReads Claims.ArrayReadsStartWhenChecksPass
  rintro ⟨hstarts, -⟩
  obtain ⟨hdisp, hgo, htokens, hplace, hin, hout, halias, hnone⟩ := heldByItsRead_dispatches
  obtain ⟨-, hhands, -⟩ := hstarts heldByItsRead 0 holdingRead false hdisp hgo
  obtain ⟨hexec, hwaits⟩ := hhands .ka8 .ka8 htokens hplace hin hout halias
  obtain ⟨u, hu, ⟨k, hk, hruns, -⟩, -⟩ := hwaits heldByItsRead_not_free hnone
  obtain rfl := Host.Outcome.next.inj (hexec.symm.trans hu)
  have hends := heldByItsRead_ends
  unfold heldByItsReadChecked at hends
  rw [hk, Option.map_some, hruns] at hends
  exact Phase.noConfusion (Option.some.inj hends)
end

section
/-! PROOFS. What an array die's controller notes beside the content of its panels: registers, causes, logged events, counts, checks of
blocks, and the wear and the banks of panels (R13, R50, R139, R140, R381, R453). -/

namespace Sys2Proof.Machine

open Sys2Proof.Claims

/-! States that differ in notes alone. -/

/-- A panel apart from its banks and its wear bookkeeping. -/
def Panel.body (p : Panel) : Panel := { p with bankT := none, pendingT := none, lastWear := 0, warned := false }

/-- `t` is `s` but for registers of `P`, what a raised vector changes, the requests that wait at the host port, the event record, whose
entries stay, what the memory controllers have moved, and the banks and the wear of panels. -/
structure Notes (P : Nat → Prop) (s t : State) : Prop where
  frame : ∃ r m i w e tr ps, t = { s with
    regs := r, host := { s.host with msix := m, moderating := i, waiting := w }, record := e, traffic := tr, panels := ps }
  regs : SameRegs s t P
  body : ∀ q, (t.panel q).body = (s.panel q).body
  seq : s.record.nextSeq ≤ t.record.nextSeq
  entries : ∀ x, HasEntry s.record x → HasEntry t.record x

section
variable {P Q : Nat → Prop} {s t u : State}

theorem Notes.refl (P : Nat → Prop) (s : State) : Notes P s s :=
  ⟨⟨_, _, _, _, _, _, _, rfl⟩, fun _ _ => rfl, fun _ => rfl, Nat.le_refl _, fun _ h => h⟩

theorem Notes.trans (h : Notes P s t) (g : Notes P t u) : Notes P s u where
  frame := by
    obtain ⟨r, m, i, w, e, tr, ps, rfl⟩ := h.frame
    obtain ⟨r', m', i', w', e', tr', ps', rfl⟩ := g.frame
    exact ⟨r', m', i', w', e', tr', ps', rfl⟩
  regs o ho := (g.regs o ho).trans (h.regs o ho)
  body q := (g.body q).trans (h.body q)
  seq := h.seq.trans g.seq
  entries x hx := g.entries x (h.entries x hx)

theorem Notes.mono (h : Notes P s t) (hPQ : ∀ o, P o → Q o) : Notes Q s t := ⟨h.frame, fun o ho => h.regs o (mt (hPQ o) ho), h.body, h.seq, h.entries⟩

theorem Notes.mem (h : Notes P s t) : t.mem = s.mem := by
  obtain ⟨r, m, i, w, e, tr, ps, rfl⟩ := h.frame
  rfl

theorem Notes.seals (h : Notes P s t) : t.seals = s.seals ∧ t.sealAge = s.sealAge := by
  obtain ⟨r, m, i, w, e, tr, ps, rfl⟩ := h.frame
  exact ⟨rfl, rfl⟩

theorem Notes.tasks (h : Notes P s t) : t.tasks = s.tasks := by
  obtain ⟨r, m, i, w, e, tr, ps, rfl⟩ := h.frame
  rfl

theorem Notes.now (h : Notes P s t) : t.now = s.now := by
  obtain ⟨r, m, i, w, e, tr, ps, rfl⟩ := h.frame
  rfl

theorem Notes.loads (h : Notes P s t) : t.loads = s.loads := by
  obtain ⟨r, m, i, w, e, tr, ps, rfl⟩ := h.frame
  rfl

theorem Notes.loadRuns (h : Notes P s t) : t.loadRuns = s.loadRuns := by
  obtain ⟨r, m, i, w, e, tr, ps, rfl⟩ := h.frame
  rfl

theorem Notes.arrOrder (h : Notes P s t) : t.arrOrder = s.arrOrder := by
  obtain ⟨r, m, i, w, e, tr, ps, rfl⟩ := h.frame
  rfl

theorem Notes.castle (h : Notes P s t) (n : Nat) : t.castle n = s.castle n := by
  obtain ⟨r, m, i, w, e, tr, ps, rfl⟩ := h.frame
  rfl

theorem Notes.grants (h : Notes P s t) : t.grants = s.grants := by
  obtain ⟨r, m, i, w, e, tr, ps, rfl⟩ := h.frame
  rfl

theorem Notes.blockOk (h : Notes P s t) (k : Nat) : t.blockOk k = s.blockOk k := by
  obtain ⟨r, m, i, w, e, tr, ps, rfl⟩ := h.frame
  rfl

/-! The primitive changes. -/

theorem State.panel_setPanel_self (s : State) (page : Nat) (p : Panel) : (s.setPanel page p).panel page = p := by
  unfold State.panel State.setPanel aget
  rw [aget?_aput_same]
  rfl

theorem State.panel_setPanel_other (s : State) {page q : Nat} (p : Panel) (h : q ≠ page) : (s.setPanel page p).panel q = s.panel q := by
  unfold State.panel State.setPanel aget
  rw [aget?_aput_other _ _ _ _ h]

theorem Notes.ite {c : Prop} [Decidable c] (h : c → Notes P s t) (g : ¬c → Notes P s u) : Notes P s (if c then t else u) := by
  split
  · exact h ‹_›
  · exact g ‹_›

theorem Notes.foldl {α : Type} {f : State → α → State} {l : List α} (h : Notes P s t) (hf : ∀ u x, x ∈ l → Notes P u (f u x)) :
    Notes P s (l.foldl f t) := by
  induction l generalizing t with
  | nil => exact h
  | cons x l ih => exact ih (h.trans (hf t x List.mem_cons_self)) fun u y hy => hf u y (List.mem_cons_of_mem _ hy)

/-- Banks and wear of a panel written. -/
theorem Notes.setPanel (h : Notes P s t) {page : Nat} {p : Panel} (hp : p.body = (t.panel page).body) : Notes P s (t.setPanel page p) :=
  h.trans ⟨⟨t.regs, t.host.msix, t.host.moderating, t.host.waiting, t.record, t.traffic, _, rfl⟩, fun _ _ => rfl, fun q => by
    by_cases hq : q = page
    · rw [hq, State.panel_setPanel_self, hp]
    · rw [State.panel_setPanel_other _ _ hq], Nat.le_refl _, fun _ hx => hx⟩

theorem Notes.of_regsOnly (h : RegsOnly s t) (hr : SameRegs s t P) : Notes P s t := by
  obtain ⟨r, rfl⟩ := h
  exact ⟨⟨r, s.host.msix, s.host.moderating, s.host.waiting, s.record, s.traffic, s.panels, rfl⟩, hr, fun _ => rfl, Nat.le_refl _, fun _ hx => hx⟩

theorem Notes.setReg (h : Notes P s t) {off : Nat} {w : Word} (ho : P off) : Notes P s (t.setReg off w) :=
  h.trans (.of_regsOnly (t.setReg_regsOnly off w) fun _ hx => State.reg_setReg_other _ _ _ _ fun e => hx (e ▸ ho))

theorem Notes.wf (h : Notes P s t) {page : Nat} {f : Fld} {v i : Nat} (ho : P (f.addr page i)) : Notes P s (t.wf page f v i) := h.setReg ho

theorem Notes.wf64 (h : Notes P s t) {page : Nat} {lo hi : Fld} {v i : Nat} (hlo : P (lo.addr page i)) (hhi : P (hi.addr page i)) :
    Notes P s (t.wf64 page lo hi v i) := (h.wf hlo).wf hhi

theorem Notes.inc (h : Notes P s t) {page : Nat} {f : Fld} {i : Nat} (ho : P (f.addr page i)) : Notes P s (t.inc page f i) := h.wf ho

theorem Notes.inc64 (h : Notes P s t) {page : Nat} {lo hi : Fld} {n i : Nat} (hlo : P (lo.addr page i)) (hhi : P (hi.addr page i)) :
    Notes P s (t.inc64 page lo hi n i) := h.wf64 hlo hhi

theorem Notes.setHdrBit (h : Notes P s t) {page o b : Nat} {v : Bool} (ho : P (page + o)) : Notes P s (t.setHdrBit page o b v) := h.setReg ho

theorem Notes.err (h : Notes P s t) {page event detail : Nat} (hc : P (page + oERR_COUNT)) (hl : P (page + oERR_LAST)) :
    Notes P s (t.err page event detail) := (h.setReg hc).setReg hl

/-- Fields of one register written together. -/
theorem Notes.wfs (h : Notes P s t) {page : Nat} {l : List (Fld × Nat)} (ho : ∀ x ∈ l, P (x.1.addr page 0)) : Notes P s (t.wfs page l) :=
  h.foldl fun u x hx => (Notes.refl P u).wf (ho x hx)

theorem Notes.cause (h : Notes P s t) {page b : Nat} (ho : P (page + oINT_STATUS)) (hr : ∀ o, Reports o → P o) : Notes P s (t.cause page b) := by
  refine h.trans ?_
  have hregs : SameRegs t (t.cause page b) P := fun o hx => State.reg_cause_other _ _ _ _ (fun e => hx (e ▸ ho)) fun hv => hx (hr o (.inr hv))
  obtain ⟨r, m, i, e⟩ := t.cause_frame page b
  rw [e] at hregs ⊢
  exact ⟨⟨r, m, i, t.host.waiting, t.record, t.traffic, t.panels, rfl⟩, hregs, fun _ => rfl, Nat.le_refl _, fun _ hx => hx⟩

theorem Notes.log (h : Notes P s t) {page code : Nat} {d : List Nat} (hr : ∀ o, Reports o → P o) : Notes P s (t.log page code d) := by
  refine h.trans ?_
  have hregs : SameRegs t (t.log page code d) P := fun o hx =>
    State.reg_log_other _ _ _ _ _ (fun hv => hx (hr o (.inl hv))) fun hv => hx (hr o (.inr hv))
  have hentries := fun x => t.log_hasEntry page code d (e := x)
  obtain ⟨r, m, i, bs, q, c, e⟩ := t.log_frame page code d
  rw [e] at hregs hentries ⊢
  exact ⟨⟨r, m, i, t.host.waiting, _, t.traffic, t.panels, rfl⟩, hregs, fun _ => rfl, Nat.le_succ _, hentries⟩

theorem Notes.commitEntry (h : Notes P s t) (hr : ∀ o, Reports o → P o) : Notes P s t.commitEntry := by
  refine h.trans ?_
  have hregs : SameRegs t t.commitEntry P := fun o hx => State.reg_commitEntry_other _ _ fun hv => hx (hr o (.inl hv))
  have hentries := fun x => t.commitEntry_hasEntry (e := x)
  obtain ⟨r, bs, q, c, e⟩ := t.commitEntry_frame
  rw [e] at hregs hentries ⊢
  exact ⟨⟨r, t.host.msix, t.host.moderating, t.host.waiting, _, t.traffic, t.panels, rfl⟩, hregs, fun _ => rfl, Nat.le_refl _, hentries⟩

theorem Notes.logFirm (h : Notes P s t) {page code : Nat} {d : List Nat} (hr : ∀ o, Reports o → P o) : Notes P s (t.logFirm page code d) :=
  (h.log hr).foldl fun u _ _ => (Notes.refl P u).commitEntry hr

theorem Notes.cacheUse (h : Notes P s t) (a len : Nat) : Notes P s (t.cacheUse a len) :=
  h.trans (.ite (fun _ => ⟨⟨t.regs, t.host.msix, t.host.moderating, _, t.record, t.traffic, t.panels, rfl⟩, fun _ _ => rfl, fun _ => rfl, Nat.le_refl _,
    fun _ hx => hx⟩) fun _ => .refl P t)

theorem Notes.cacheReads (h : Notes P s t) (rs : List (Nat × Nat)) (ks : List Nat) : Notes P s (t.cacheReads rs ks) :=
  h.foldl fun u _ _ => (Notes.refl P u).foldl fun v _ _ => (Notes.refl P v).cacheUse _ _

/-! Checks of blocks (R381). -/

/-- A register of the seal page of a memory-side die. -/
def OfSeals (o : Nat) : Prop := ∃ n, n < 8 ∧ InPage (pgSeal n) o

/-- The block carries no seal, or has it on one of the eight memory-side dies. -/
def Sealed (k : Nat) : Prop := inHost (4096 * k) = true ∨ (blockOwner (4096 * k)).1 < 8

theorem sealed_of_range {a : Nat} (h : rangeOk a 4096 = true) : Sealed (a / 4096) := by
  by_cases hh : inHost a = true
  · left
    unfold inHost hostBase addrEnd at *
    simp only [Bool.and_eq_true, decide_eq_true_eq] at *
    omega
  · right
    refine (owner_of_deviceRange (a := a) (len := 4096) (by unfold deviceRange; simp [h, hh]) ?_).1
    exact List.mem_map.mpr ⟨0, List.mem_range.mpr (Nat.succ_pos _), rfl⟩

theorem rangeOk_of_faultIn {a len : Nat} (h : faultIn a len = none) : rangeOk a len = true := by
  unfold faultIn at h
  unfold rangeOk
  grind

theorem Notes.check (h : Notes P s t) {ks : List Nat} {code : Nat} (hk : ∀ k ∈ ks, Sealed k) (hs : ∀ o, OfSeals o → P o)
    (hr : ∀ o, Reports o → P o) : Notes P s (t.check ks code) := by
  refine h.foldl fun u k hk' => .ite (fun _ => .refl P u) fun hhost => ?_
  have hn := (hk k hk').resolve_left hhost
  have hp : ∀ x, x < 0x1000 → P (pgSeal (blockOwner (4096 * k)).1 + x) := fun x hx => hs _ ⟨_, hn, Nat.le_add_right _ _, Nat.add_lt_add_left hx _⟩
  have hread : Notes P u (u.countRead k) :=
    ⟨⟨u.regs, u.host.msix, u.host.moderating, u.host.waiting, u.record, _, u.panels, rfl⟩, fun _ _ => rfl, fun _ => rfl, Nat.le_refl _, fun _ hx => hx⟩
  have hcount : Notes P u ((u.countRead k).inc64 (pgSeal (blockOwner (4096 * k)).1) R.SEAL.CHECKS_LO R.SEAL.CHECKS_HI 1) :=
    hread.inc64 (hp _ (by decide)) (hp _ (by decide))
  exact .ite (fun _ => hcount) fun _ =>
    ((hcount.inc (hp _ (by decide))).cause (hp _ (by decide)) hr).err (hp _ (by decide)) (hp _ (by decide))

/-- Blocks read whole, each checked. -/
theorem Notes.readChecked (h : Notes P s t) {ks : List Nat} {code : Nat} (hk : ∀ k ∈ ks, Sealed k) (hs : ∀ o, OfSeals o → P o)
    (hr : ∀ o, Reports o → P o) : Notes P s (t.readChecked (ks.map fun k => (4096 * k, 4096)) code) := by
  refine (h.cacheReads _ _).check (fun k hmem => ?_) hs hr
  unfold blocksOfAll at hmem
  obtain ⟨r, hr, hb⟩ := List.mem_flatMap.mp (List.mem_eraseDups.mp hmem)
  obtain ⟨j, hj, rfl⟩ := List.mem_map.mp hr
  have hbounds := blocksOf_bounds hb
  obtain rfl : k = j := by
    dsimp only at hbounds
    omega
  exact hk k hj

end

end Sys2Proof.Machine
end

section
/-! PROOFS. The operations of the panel controller (R129 to R145): for each, the registers and fields that it changes and the values that it
leaves. -/

namespace Sys2Proof.Machine

open Sys2Proof.Claims

/-! Memory, seals and record at rest. -/

/-- What the statements about registers, memory, seals and events speak of. -/
def State.ledger (s : State) : List Host.Cell × List (Nat × Word) × Nat × List (Nat × Word) × Rec := (s.mem, s.seals, s.sealAge, s.regs, s.record)

/-- Memory and seals are as before, the registers but for those of `P`, and the entries of the record stay; other fields may differ. -/
structure Quiet (P : Nat → Prop) (s t : State) : Prop where
  bytes : SameBytes s t
  seals : SameSeals s t
  regs : SameRegs s t P
  seq : s.record.nextSeq ≤ t.record.nextSeq
  entries : ∀ x, HasEntry s.record x → HasEntry t.record x

section
variable {P Q : Nat → Prop} {s t u : State}

theorem Quiet.of_ledger (P : Nat → Prop) (h : t.ledger = s.ledger) : Quiet P s t := by
  simp only [State.ledger, Prod.mk.injEq] at h
  obtain ⟨hm, hs, ha, hr, hrec⟩ := h
  exact ⟨fun a => by rw [State.byte, hm, ← State.byte], fun k => by rw [State.sealEntry, hs, ha, ← State.sealEntry],
    fun o _ => State.reg_of_regs hr o, by rw [hrec], by simp [hrec]⟩

theorem Notes.quiet (h : Notes P s t) : Quiet P s t :=
  ⟨fun a => congrArg (memByte · a) h.mem, fun k => by rw [State.sealEntry, h.seals.1, h.seals.2, ← State.sealEntry], h.regs, h.seq, h.entries⟩

theorem Quiet.trans (h : Quiet P s t) (g : Quiet P t u) : Quiet P s u :=
  ⟨fun a => (g.bytes a).trans (h.bytes a), fun k => (g.seals k).trans (h.seals k), fun o ho => (g.regs o ho).trans (h.regs o ho), h.seq.trans g.seq,
    fun x hx => g.entries x (h.entries x hx)⟩

theorem Quiet.mono (h : Quiet P s t) (hPQ : ∀ o, P o → Q o) : Quiet Q s t :=
  ⟨h.bytes, h.seals, fun o ho => h.regs o (mt (hPQ o) ho), h.seq, h.entries⟩

/-- A step that changes registers of its own. -/
theorem Quiet.step (h : Quiet P s t) (g : Quiet Q t u) (hQP : ∀ o, Q o → P o) : Quiet P s u := h.trans (g.mono hQP)

/-- A change of fields that the statements' frames do not speak of. -/
theorem Quiet.aside (h : Quiet P s t) (e : u.ledger = t.ledger) : Quiet P s u := h.trans (.of_ledger P e)

theorem Quiet.caused (h : Quiet P s t) {page b : Nat} (hc : Caused s page b) (ho : ¬P (page + oINT_STATUS)) : Caused t page b := by
  unfold Caused State.hdr
  rw [h.regs _ ho]
  exact hc

theorem Quiet.logged_before {code : Nat} {d : List Nat} (h : Quiet P s t) (g : Logged t u code d) : Logged s u code d := by
  obtain ⟨hlt, e, hcode, hd, hseq, he⟩ := g
  exact ⟨lt_of_le_of_lt h.seq hlt, e, hcode, hd, h.seq.trans hseq, he⟩

theorem Quiet.logged_after {code : Nat} {d : List Nat} (h : Quiet P t u) (g : Logged s t code d) : Logged s u code d := by
  obtain ⟨hlt, e, hcode, hd, hseq, he⟩ := g
  exact ⟨lt_of_lt_of_le hlt h.seq, e, hcode, hd, hseq, h.entries e he⟩

/-- An event logged on the way is logged at the end. -/
theorem Quiet.logged {page code : Nat} {d : List Nat} (h : Quiet P s t) (g : Quiet Q (t.log page code d) u) : Logged s u code d := by
  obtain ⟨q, e, hq, hcode, hd, hseq⟩ := t.log_queue page code d
  have hnext := t.log_nextSeq page code d
  have hlog : Logged t (t.log page code d) code d :=
    ⟨by omega, e, hcode, hd, Nat.le_of_eq hseq.symm, .inl (hq ▸ List.mem_append_right _ List.mem_cons_self)⟩
  exact h.logged_before (g.logged_after hlog)

end

/-! Registers kept. -/

section
variable {P : Nat → Prop} {s t : State} {page : Nat} (h : SameRegs s t P)
include h

theorem rf_same {f : Fld} {i : Nat} (ho : ¬P (f.addr page i)) : t.rf page f i = s.rf page f i := congrArg (getBits · f.hi f.lo) (h _ ho)

theorem content_same (ho : ¬P (page + 0x104)) : t.content page = s.content page := rf_same h ho

theorem writes_same (hl : ¬P (page + 0x160)) (hh : ¬P (page + 0x164)) : t.writes page = s.writes page := by
  unfold State.writes State.rf64
  rw [rf_same (page := page) (f := R.PANEL.WRITES_LO) (i := 0) h hl, rf_same (page := page) (f := R.PANEL.WRITES_HI) (i := 0) h hh]

/-- The image that a panel records stays when the registers of its die that hold it stay. -/
theorem recorded_same (ho : ∀ x, x < 0x800 → ¬P (pgArrayDie (panelDie page) + (0x400 + x))) : t.recorded page = s.recorded page := by
  have hphys : panelPhys page < 127 := by
    unfold panelPhys
    omega
  have hat : ∀ f : Fld, 0x400 ≤ f.off → f.off ≤ 0x700 → f.stride ≤ 8 →
      t.rf (pgArrayDie (panelDie page)) f (panelPhys page) = s.rf (pgArrayDie (panelDie page)) f (panelPhys page) := by
    intro f hlo hhi hstride
    refine rf_same h fun hP => ho (f.off - 0x400 + f.stride * panelPhys page) ?_ ?_
    · have := Nat.mul_le_mul hstride (Nat.le_of_lt_succ hphys)
      omega
    · rwa [show 0x400 + (f.off - 0x400 + f.stride * panelPhys page) = f.off + f.stride * panelPhys page by omega, ← Nat.add_assoc]
  unfold State.recorded State.rf64
  dsimp only
  rw [hat R.ARRAY_DIE.IMG_ADDR_LO (by decide) (by decide) (by decide), hat R.ARRAY_DIE.IMG_ADDR_HI (by decide) (by decide) (by decide),
    hat R.ARRAY_DIE.TILE_BASE (by decide) (by decide) (by decide)]

end

/-! Pairs of registers. -/

theorem State.rf_wf_whole (s : State) (page : Nat) {f : Fld} (v i : Nat) (hlo : f.lo = 0) (hhi : f.hi = 31) :
    (s.wf page f v i).rf page f i = v % 2 ^ 32 := by
  rw [State.rf_wf_self _ _ _ _ _ (by omega) (by omega), hlo, hhi]

/-- A 64-bit pair reads as written. -/
theorem State.rf64_wf64 (s : State) (page : Nat) {lo hi : Fld} {v i : Nat} (hl : lo.lo = 0 ∧ lo.hi = 31) (hh : hi.lo = 0 ∧ hi.hi = 31)
    (hne : lo.addr page i ≠ hi.addr page i) (hv : v < 2 ^ 64) : (s.wf64 page lo hi v i).rf64 page lo hi i = v := by
  unfold State.rf64 State.wf64
  rw [State.rf_wf_other _ _ _ _ _ _ _ _ hne, State.rf_wf_whole _ _ _ _ hl.1 hl.2, State.rf_wf_whole _ _ _ _ hh.1 hh.2, hl.1]
  omega

/-! Places. -/

theorem panelDie_pgPanel {n p : Nat} (hn : n < 8) (hp : p < 68) : panelDie (pgPanel n p) = n := by
  unfold panelDie pgPanel pgArrayDie quadBase
  omega

theorem panelPhys_pgPanel {n p : Nat} (hp : p < 68) : panelPhys (pgPanel n p) = p := by
  unfold panelPhys pgPanel pgArrayDie quadBase
  omega

/-- The registers of a panel's content: state, tag and age. -/
def ContentRegs (n p o : Nat) : Prop := o = pgPanel n p + 0x104 ∨ o = pgPanel n p + 0x108 ∨ o = pgPanel n p + 0x10C

/-- The registers of a panel's write count. -/
def WriteRegs (n p o : Nat) : Prop := o = pgPanel n p + 0x160 ∨ o = pgPanel n p + 0x164

/-- The registers that a counted write reports in beside the panel's count. -/
def WearRegs (n o : Nat) : Prop := o = pgArrayDie n + 0x128 ∨ o = pgArrayDie n + 0x12C ∨ o = pgArrayDie n + oINT_STATUS ∨ Reports o

/-- The registers of an array die that hold a panel's image: address, first tile, and the panel's record. -/
def ImageRegs (n p o : Nat) : Prop :=
  o = pgArrayDie n + 0x400 + 8 * p ∨ o = pgArrayDie n + 0x404 + 8 * p ∨ o = pgArrayDie n + 0x700 + 4 * p ∨ o = pgArrayDie n + 0x200 + 4 * p

/-- The registers of the array pages of a die, and those that report. -/
def OfArray (n o : Nat) : Prop := (pgArrayDie n ≤ o ∧ o < pgArrayDie n + 0x80000) ∨ Reports o

section
variable {n p o : Nat} (hn : n < 8)

theorem OfSeals.not_array (h : OfSeals o) : o < pgArrayDie n ∨ pgArrayDie n + 0x80000 ≤ o := by
  obtain ⟨m, hm, hlo, hhi⟩ := h
  unfold pgSeal pgMemDie quadBase at hlo hhi
  unfold pgArrayDie quadBase
  omega

include hn

theorem arrayDie_bounds : 0x400000 ≤ pgArrayDie n ∧ pgArrayDie n + 0x80000 ≤ 0x1400000 := by
  unfold pgArrayDie quadBase
  omega

theorem reports_not_array (h : Reports o) : o < pgArrayDie n := by
  have := arrayDie_bounds hn
  unfold Reports InPage pgRecord pgIntroute at h
  omega

theorem OfArray.ofDies (h : OfArray n o) : OfDies o := by
  have := arrayDie_bounds hn
  rcases h with h | h
  · exact .inl (by omega)
  · exact .inr (.inr h)

end

theorem OfSeals.ofDies {o : Nat} (h : OfSeals o) : OfDies o := by
  obtain ⟨m, hm, hlo, hhi⟩ := h
  unfold pgSeal pgMemDie quadBase at hlo hhi
  exact .inl (by omega)

theorem reports_ofDies {o : Nat} (h : Reports o) : OfDies o := .inr (.inr h)

theorem ContentRegs.ofArray {n p o : Nat} (hp : p < 68) (h : ContentRegs n p o) : OfArray n o := by
  unfold ContentRegs pgPanel at h
  exact .inl (by omega)

theorem WriteRegs.ofArray {n p o : Nat} (hp : p < 68) (h : WriteRegs n p o) : OfArray n o := by
  unfold WriteRegs pgPanel at h
  exact .inl (by omega)

theorem WearRegs.ofArray {n o : Nat} (h : WearRegs n o) : OfArray n o := by
  rcases h with h | h | h | h
  · exact .inl (by omega)
  · exact .inl (by omega)
  · unfold oINT_STATUS at h
    exact .inl (by omega)
  · exact .inr h

theorem ImageRegs.ofArray {n p o : Nat} (hp : p < 68) (h : ImageRegs n p o) : OfArray n o := by
  unfold ImageRegs at h
  exact .inl (by omega)

/-! Wear (R139 to R141). -/

theorem Notes.wearEntry {P : Nat → Prop} {s t : State} (h : Notes P s t) (page : Nat) (hr : ∀ o, Reports o → P o) : Notes P s (t.wearEntry page) :=
  (h.setPanel (p := { t.panel page with lastWear := t.writes page }) rfl).logFirm hr

/-- What a counted write brings beside the panel's count (R139 to R141). -/
theorem State.raiseWrites_counted (s : State) {n p : Nat} (hn : n < 8) (hp : p < 68) :
    Notes (WearRegs n) (s.inc64 (pgPanel n p) R.PANEL.WRITES_LO R.PANEL.WRITES_HI 1) (s.raiseWrites (pgPanel n p)) := by
  have hr : ∀ o, Reports o → WearRegs n o := fun o h => .inr (.inr (.inr h))
  unfold State.raiseWrites
  dsimp only
  rw [panelDie_pgPanel hn hp]
  generalize s.inc64 (pgPanel n p) R.PANEL.WRITES_LO R.PANEL.WRITES_HI 1 = t
  have hloads : Notes (WearRegs n) t (t.inc64 (pgArrayDie n) R.ARRAY_DIE.LOADS_LO R.ARRAY_DIE.LOADS_HI 1) :=
    (Notes.refl _ t).inc64 (.inl rfl) (.inr (.inl rfl))
  have hwarn : ∀ u : State, Notes (WearRegs n) u (u.warnWear (pgPanel n p)) := fun u => by
    unfold State.warnWear
    dsimp only
    rw [panelDie_pgPanel hn hp]
    refine .ite (fun _ => ?_) fun _ => .refl _ u
    exact (((Notes.refl _ u).setPanel (p := { u.panel (pgPanel n p) with warned := true }) rfl).cause (.inr (.inr (.inl rfl))) hr).log hr
  have hboth := hloads.trans (hwarn _)
  exact .ite (fun _ => hboth.wearEntry _ hr) fun _ => hboth

theorem State.writes_inc64 (s : State) (page : Nat) :
    (s.inc64 page R.PANEL.WRITES_LO R.PANEL.WRITES_HI 1).writes page = Nat.min (s.writes page + 1) (2 ^ 64 - 1) :=
  State.rf64_wf64 _ _ ⟨rfl, rfl⟩ ⟨rfl, rfl⟩ (Nat.ne_of_lt (Nat.add_lt_add_left (by decide) page)) (lt_of_le_of_lt (Nat.min_le_right _ _) (by decide))

/-! Images, loads and their ends (R130, R132). -/

theorem State.rf64_wf_other (s : State) (page page' : Nat) {lo hi f : Fld} (v i i' : Nat) (hl : lo.addr page' i' ≠ f.addr page i)
    (hh : hi.addr page' i' ≠ f.addr page i) : (s.wf page f v i).rf64 page' lo hi i' = s.rf64 page' lo hi i' := by
  unfold State.rf64
  rw [State.rf_wf_other _ _ _ _ _ _ _ _ hl, State.rf_wf_other _ _ _ _ _ _ _ _ hh]

section
variable (s : State) {n p : Nat} (hn : n < 8) (hp : p < 68)
include hn hp

theorem State.recordImage_notes (image tile f : Nat) : Notes (ImageRegs n p) s (s.recordImage (pgPanel n p) image tile f) := by
  unfold State.recordImage
  dsimp only
  rw [panelDie_pgPanel hn hp, panelPhys_pgPanel hp]
  exact (((Notes.refl _ s).wf64 (.inl rfl) (.inr (.inl rfl))).wf (.inr (.inr (.inl rfl)))).wf (.inr (.inr (.inr rfl)))

theorem State.recorded_recordImage {image tile : Nat} (f : Nat) (hi : image < 2 ^ 64) (ht : tile < 2 ^ 24) :
    (s.recordImage (pgPanel n p) image tile f).recorded (pgPanel n p) = (image, tile) := by
  have hlo : R.ARRAY_DIE.IMG_ADDR_LO.addr (pgArrayDie n) p = pgArrayDie n + 0x400 + 8 * p := rfl
  have hhi : R.ARRAY_DIE.IMG_ADDR_HI.addr (pgArrayDie n) p = pgArrayDie n + 0x404 + 8 * p := rfl
  have htile : R.ARRAY_DIE.TILE_BASE.addr (pgArrayDie n) p = pgArrayDie n + 0x700 + 4 * p := rfl
  have hrec : R.ARRAY_DIE.PANEL_REC_FMT.addr (pgArrayDie n) p = pgArrayDie n + 0x200 + 4 * p := rfl
  unfold State.recordImage State.recorded
  dsimp only
  rw [panelDie_pgPanel hn hp, panelPhys_pgPanel hp, State.rf64_wf_other, State.rf64_wf_other, State.rf64_wf64 _ _ ⟨rfl, rfl⟩ ⟨rfl, rfl⟩ _ hi,
    State.rf_wf_other, State.rf_wf_self _ _ _ _ _ (by decide) (by decide)]
  · exact congrArg _ (Nat.mod_eq_of_lt ht)
  all_goals
    simp only [hlo, hhi, htile, hrec]
    omega

end

/-! Places that the registers of a die and those of its panels do not share. -/

theorem ImageRegs.not_panel {n p q x : Nat} (hp : p < 68) : ¬ImageRegs n p (pgPanel n q + x) := by
  unfold ImageRegs pgPanel
  omega

theorem WearRegs.not_panel {n q x : Nat} (hn : n < 8) (hx : x < 0x1000) : ¬WearRegs n (pgPanel n q + x) := by
  rintro (h | h | h | h)
  · unfold pgPanel at h
    omega
  · unfold pgPanel at h
    omega
  · unfold pgPanel oINT_STATUS at h
    omega
  · have := reports_not_array hn h
    unfold pgPanel at this
    omega

/-! A FULL load starts (R132 steps 1 and 2). -/

/-- The registers that a FULL load writes at its start: its panel is loading, its write is counted, its image recorded. -/
def State.markLoad (s : State) (l : Load) : State :=
  ((s.setContent l.page 1).raiseWrites l.page).recordImage l.page l.image l.tile l.fmt

/-- A panel taken for a load. -/
def Panel.taken (p : Panel) : Panel := { p with hasCopy := true, deferred := false, due := false }

/-- A FULL load joins the loads in progress, and its panel is taken for it. -/
def State.takeLoad (s : State) (l : Load) : State :=
  let s := s.setPanel l.page (s.panel l.page).taken
  { s with loads := s.loads ++ [{ l with rose := true }] }

theorem State.startFull_eq (s : State) (l : Load) : s.startFull l = (s.markLoad l).takeLoad l := by
  delta State.startFull State.takeLoad State.markLoad Panel.taken
  with_reducible rfl

section
variable (s : State) {l : Load} {n p : Nat} (hn : n < 8) (hp : p < 68) (hl : l.page = pgPanel n p)
include hn hp hl

theorem State.markLoad_notes : Notes (OfArray n) s (s.markLoad l) := by
  unfold State.markLoad
  rw [hl]
  have hcontent : Notes (OfArray n) s (s.setContent (pgPanel n p) 1) := (Notes.refl _ s).wf (ContentRegs.ofArray hp (.inl rfl))
  have hcount := hcontent.inc64 (lo := R.PANEL.WRITES_LO) (hi := R.PANEL.WRITES_HI) (n := 1) (i := 0) (WriteRegs.ofArray hp (.inl rfl))
    (WriteRegs.ofArray hp (.inr rfl))
  exact (hcount.trans ((State.raiseWrites_counted _ hn hp).mono fun _ => WearRegs.ofArray)).trans
    ((State.recordImage_notes _ hn hp _ _ _).mono fun _ => ImageRegs.ofArray hp)

theorem State.markLoad_content : (s.markLoad l).content (pgPanel n p) = 1 := by
  have hcount : SameRegs (s.setContent (pgPanel n p) 1) (State.inc64 _ (pgPanel n p) R.PANEL.WRITES_LO R.PANEL.WRITES_HI 1) (WriteRegs n p) :=
    ((Notes.refl _ _).inc64 (.inl rfl) (.inr rfl)).regs
  have hset : (s.setContent (pgPanel n p) 1).content (pgPanel n p) = 1 := State.rf_wf_self _ _ _ _ _ (by decide) (by decide)
  unfold State.markLoad
  rw [hl, content_same (State.recordImage_notes _ hn hp _ _ _).regs (ImageRegs.not_panel hp),
    content_same (State.raiseWrites_counted _ hn hp).regs (WearRegs.not_panel hn (by decide)), content_same hcount (by unfold WriteRegs; omega), hset]

theorem State.markLoad_writes : (s.markLoad l).writes (pgPanel n p) = Nat.min (s.writes (pgPanel n p) + 1) (2 ^ 64 - 1) := by
  have hset : SameRegs s (s.setContent (pgPanel n p) 1) (ContentRegs n p) := ((Notes.refl _ s).wf (.inl rfl)).regs
  unfold State.markLoad
  rw [hl, writes_same (State.recordImage_notes _ hn hp _ _ _).regs (ImageRegs.not_panel hp) (ImageRegs.not_panel hp),
    writes_same (State.raiseWrites_counted _ hn hp).regs (WearRegs.not_panel hn (by decide)) (WearRegs.not_panel hn (by decide)),
    State.writes_inc64, writes_same hset (by unfold ContentRegs; omega) (by unfold ContentRegs; omega)]

theorem State.markLoad_recorded (hi : l.image < 2 ^ 64) (ht : l.tile < 2 ^ 24) : (s.markLoad l).recorded (pgPanel n p) = (l.image, l.tile) := by
  unfold State.markLoad
  rw [hl]
  exact State.recorded_recordImage _ hn hp _ hi ht
end

/-! A load ends (R132 steps 5 to 7, R487). -/

/-- The register of a panel's record at its die (Table 5-9). -/
def RecordReg (n p o : Nat) : Prop := o = pgArrayDie n + 0x200 + 4 * p

theorem RecordReg.ofArray {n p o : Nat} (hp : p < 68) (h : RecordReg n p o) : OfArray n o := ImageRegs.ofArray hp (.inr (.inr (.inr h)))

theorem RecordReg.not_panel {n p q x : Nat} (hp : p < 68) : ¬RecordReg n p (pgPanel n q + x) := fun h =>
  ImageRegs.not_panel hp (.inr (.inr (.inr h)))

/-- The loads in progress but that of a panel. -/
def State.otherLoads (s : State) (page : Nat) : List Load := s.loads.filter fun x => x.page != page

theorem State.otherLoads_setLoad (s : State) (l : Load) : (s.setLoad l).otherLoads l.page = s.otherLoads l.page := by
  unfold State.otherLoads State.setLoad
  dsimp only
  induction s.loads with
  | nil => rfl
  | cons x xs ih => by_cases h : x.page = l.page <;> simpa [h] using ih

/-- What the end of a load leaves of its panel beside registers: scales, programming, and no refresh deferred. -/
def State.fillPanel (s : State) (l : Load) : State :=
  let p := s.panel l.page
  let erased := (List.range 32).filter fun i => decide (l.tilesHere ≤ i)
  let wrote := if l.diff then (if l.changed.isEmpty then p.prog else .pairs l.changed s.fresh :: p.prog) else [.all s.fresh]
  let s := s.setPanel l.page { p with hasCopy := true, scales := l.scales, erased := erased, prog := wrote, deferred := false }
  { s with fresh := s.fresh + 1 }

/-- The registers that the end of a load writes at its panel: tag, state and, but for a DIFF load, age. -/
def State.showContent (s : State) (l : Load) : State :=
  let s := (s.wf l.page R.PANEL.CONTENT_TAG l.tag).setContent l.page 2
  if l.diff then s else s.wf l.page R.PANEL.CONTENT_AGE 0

theorem State.settleLoad_eq (s : State) (l : Load) : s.settleLoad l = (((s.fillPanel l).showContent l).setLoad l).dropLoad l.page := by
  delta State.settleLoad State.fillPanel State.showContent
  with_reducible rfl

/-- A load that has ended well shows its panel as valid, with the tag of its image and, but for a DIFF load, age 0. -/
theorem State.showContent_spec (s : State) (l : Load) : (s.showContent l).content l.page = 2 ∧
    (s.showContent l).rf l.page R.PANEL.CONTENT_TAG = l.tag % 2 ^ 32 ∧ (l.diff = false → (s.showContent l).rf l.page R.PANEL.CONTENT_AGE = 0) := by
  have hage : ∀ f : Fld, f.addr l.page 0 ≠ R.PANEL.CONTENT_AGE.addr l.page 0 → (s.showContent l).rf l.page f =
      ((s.wf l.page R.PANEL.CONTENT_TAG l.tag).setContent l.page 2).rf l.page f := fun f hf => by
    unfold State.showContent
    dsimp only
    split
    · rfl
    · exact State.rf_wf_other _ _ _ _ _ _ _ _ hf
  refine ⟨(hage R.PANEL.CONTENT_STATE ?_).trans (State.rf_wf_self _ _ _ _ _ (by decide) (by decide)),
    (hage _ ?_).trans ((State.rf_wf_other _ _ _ _ _ _ _ _ ?_).trans (State.rf_wf_whole _ _ _ _ rfl rfl)), fun hd => ?_⟩
  · exact Nat.ne_of_lt (Nat.add_lt_add_left (show 0x104 < 0x10C by decide) _)
  · exact Nat.ne_of_lt (Nat.add_lt_add_left (show 0x108 < 0x10C by decide) _)
  · exact Nat.ne_of_gt (Nat.add_lt_add_left (show 0x104 < 0x108 by decide) _)
  · unfold State.showContent
    rw [hd]
    exact State.rf_wf_whole _ _ _ _ rfl rfl

theorem State.showContent_notes (s : State) {l : Load} {n p : Nat} (hl : l.page = pgPanel n p) : Notes (ContentRegs n p) s (s.showContent l) := by
  unfold State.showContent
  rw [hl]
  have h : Notes (ContentRegs n p) s ((s.wf (pgPanel n p) R.PANEL.CONTENT_TAG l.tag).setContent (pgPanel n p) 2) :=
    ((Notes.refl _ s).wf (.inr (.inl rfl))).wf (.inl rfl)
  exact .ite (fun _ => h) fun _ => h.wf (.inr (.inr rfl))

/-- What tasks, loads of several panels and castlings have reached. -/
def State.plans (s : State) : List Task × List LoadRun × List Nat × List (Nat × Castle) × List Grant :=
  (s.tasks, s.loadRuns, s.arrOrder, s.castles, s.grants)

theorem plans_fields {s t : State} (h : t.plans = s.plans) : t.tasks = s.tasks ∧ t.loadRuns = s.loadRuns ∧ t.arrOrder = s.arrOrder ∧
    t.castles = s.castles ∧ t.grants = s.grants := by
  simpa only [State.plans, Prod.mk.injEq] using h

theorem castle_of_plans {s t : State} (h : t.plans = s.plans) (n : Nat) : t.castle n = s.castle n := by
  unfold State.castle
  rw [(plans_fields h).2.2.2.1]

theorem Notes.plans {P : Nat → Prop} {s t : State} (h : Notes P s t) : t.plans = s.plans := by
  obtain ⟨r, m, i, w, e, tr, ps, rfl⟩ := h.frame
  rfl

theorem State.retireAs_fillPanel (s : State) (l : Load) : ((s.fillPanel l).panel l.page).retireAs = (s.panel l.page).retireAs := by
  unfold State.fillPanel
  extract_lets p erased wrote
  change ((s.setPanel l.page _).panel l.page).retireAs = _
  rw [State.panel_setPanel_self]

theorem Notes.retireAs {P : Nat → Prop} {s t : State} (h : Notes P s t) (q : Nat) : (t.panel q).retireAs = (s.panel q).retireAs :=
  show (t.panel q).body.retireAs = (s.panel q).body.retireAs from congrArg Panel.retireAs (h.body q)

section
variable (s : State) {n p : Nat} (hn : n < 8) (hp : p < 68)
include hn hp

/-- A panel's load ends, well or not: the other loads go on, and `LAST_CHANGED` is all that changes beside. -/
theorem State.dropLoad_spec : let u := s.dropLoad (pgPanel n p)
    Quiet (RecordReg n p) s u ∧ u.loads = s.otherLoads (pgPanel n p) ∧ u.panels = s.panels ∧ u.plans = s.plans := by
  unfold State.dropLoad State.otherLoads
  rw [panelDie_pgPanel hn hp, panelPhys_pgPanel hp]
  dsimp only
  split
  · refine ⟨Quiet.trans (t := { s with loads := s.loads.filter fun x => x.page != pgPanel n p }) (.of_ledger _ rfl) ?_, rfl, rfl, rfl⟩
    exact Notes.quiet ((Notes.refl (RecordReg n p) _).wf (page := pgArrayDie n) (f := R.ARRAY_DIE.PANEL_REC_LAST_CHANGED) (i := p) rfl)
  · rename_i hnone
    exact ⟨.of_ledger _ rfl, (List.filter_eq_self.mpr fun x hx => by simpa using List.find?_eq_none.mp hnone x hx).symm, rfl, rfl⟩

variable {l : Load} (hl : l.page = pgPanel n p)
include hl

/-- A load that ends well ends for its panel, which is valid, with the tag of its image and, but for a DIFF load, age 0. -/
theorem State.settleLoad_spec : let u := s.settleLoad l
    Quiet (fun o => ContentRegs n p o ∨ RecordReg n p o) s u ∧ u.content l.page = 2 ∧ u.rf l.page R.PANEL.CONTENT_TAG = l.tag % 2 ^ 32 ∧
      (l.diff = false → u.rf l.page R.PANEL.CONTENT_AGE = 0) ∧ u.loads = s.otherLoads l.page ∧
      (u.panel l.page).retireAs = (s.panel l.page).retireAs ∧ u.plans = s.plans := by
  have hfill : (s.fillPanel l).ledger = s.ledger ∧ (s.fillPanel l).loads = s.loads ∧ (s.fillPanel l).plans = s.plans ∧
      ((s.fillPanel l).panel l.page).retireAs = (s.panel l.page).retireAs :=
    ⟨rfl, rfl, rfl, s.retireAs_fillPanel l⟩
  have hshow := (s.fillPanel l).showContent_notes hl
  obtain ⟨hcontent, htag, hage⟩ := (s.fillPanel l).showContent_spec l
  rw [s.settleLoad_eq]
  generalize s.fillPanel l = t at *
  generalize t.showContent l = v at *
  obtain ⟨hfl, hfloads, hfplans, hretire⟩ := hfill
  obtain ⟨hdrop, hloads, hpanels, hplans⟩ := (v.setLoad l).dropLoad_spec hn hp
  have hrec : ∀ x, ¬RecordReg n p (l.page + x) := fun x => hl ▸ RecordReg.not_panel hp
  rw [← hl] at hdrop hloads hpanels hplans
  generalize (v.setLoad l).dropLoad l.page = u at *
  have hset : Quiet (fun o => ContentRegs n p o ∨ RecordReg n p o) v (v.setLoad l) := .of_ledger _ rfl
  refine ⟨((Quiet.of_ledger _ hfl).trans (hshow.quiet.mono fun _ => .inl)).trans (hset.trans (hdrop.mono fun _ => .inr)), ?_, ?_, ?_, ?_, ?_, ?_⟩
  · exact (content_same hdrop.regs (hrec _)).trans hcontent
  · exact (rf_same hdrop.regs (hrec _)).trans htag
  · exact fun hd => (rf_same hdrop.regs (hrec _)).trans (hage hd)
  · rw [hloads, State.otherLoads_setLoad]
    unfold State.otherLoads
    rw [hshow.loads, hfloads]
  · exact (congrArg (fun ps => (aget ps l.page Panel.fresh).retireAs) hpanels).trans ((hshow.retireAs l.page).trans hretire)
  · exact hplans.trans (hshow.plans.trans hfplans)

omit hn hp hl in
theorem State.takeLoad_aside (l : Load) : (s.takeLoad l).ledger = s.ledger ∧ (s.takeLoad l).loads = s.loads ++ [{ l with rose := true }] ∧
    (s.takeLoad l).plans = s.plans := by
  unfold State.takeLoad
  exact ⟨rfl, rfl, rfl⟩

/-- A FULL load that starts: its panel is loading, its write is counted, its image recorded, and it is among the loads. -/
theorem State.startFull_spec : let u := s.startFull l
    Quiet (OfArray n) s u ∧ u.content (pgPanel n p) = 1 ∧ u.writes (pgPanel n p) = Nat.min (s.writes (pgPanel n p) + 1) (2 ^ 64 - 1) ∧
      (l.image < 2 ^ 64 → l.tile < 2 ^ 24 → u.recorded (pgPanel n p) = (l.image, l.tile)) ∧ u.loads = s.loads ++ [{ l with rose := true }] ∧
      u.plans = s.plans := by
  have hcontent := s.markLoad_content hn hp hl
  have hwrites := s.markLoad_writes hn hp hl
  have hrecorded := s.markLoad_recorded hn hp hl
  have hmark := s.markLoad_notes hn hp hl
  rw [s.startFull_eq]
  generalize s.markLoad l = t at *
  obtain ⟨hledger, hloads, hplans⟩ := t.takeLoad_aside l
  generalize t.takeLoad l = u at *
  have hregs : SameRegs t u fun _ => False := (Quiet.of_ledger _ hledger).regs
  refine ⟨hmark.quiet.aside hledger, (content_same hregs id).trans hcontent, (writes_same hregs id id).trans hwrites, fun hi ht => ?_, ?_,
    hplans.trans hmark.plans⟩
  · exact (recorded_same hregs fun _ _ => id).trans (hrecorded hi ht)
  · rw [hloads, hmark.loads]

end

/-! Images read from memory (R24, R132, R381). -/

/-- The registers that a check of blocks writes: those of the seal pages, and those that report. -/
def CheckRegs (o : Nat) : Prop := OfSeals o ∨ Reports o

theorem CheckRegs.ofDies {o : Nat} (h : CheckRegs o) : OfDies o := h.elim OfSeals.ofDies reports_ofDies

theorem CheckRegs.not_array {n x : Nat} (hn : n < 8) (hx : x < 0x80000) : ¬CheckRegs (pgArrayDie n + x) := by
  rintro (h | h)
  · have := h.not_array (n := n)
    omega
  · have := reports_not_array hn h
    omega

theorem CheckRegs.not_panel {n p x : Nat} (hn : n < 8) (hp : p < 68) (hx : x < 0x1000) : ¬CheckRegs (pgPanel n p + x) := by
  unfold pgPanel
  rw [Nat.add_assoc]
  exact CheckRegs.not_array hn (by omega)

/-- The block at an address read and checked. -/
def State.readBlock (s : State) (a code : Nat) : State := (s.cacheUse (4096 * (a / 4096)) 4096).check [a / 4096] code

theorem State.readBlock_notes (s : State) {a : Nat} (code : Nat) (h : rangeOk a 4096 = true) : Notes CheckRegs s (s.readBlock a code) :=
  ((Notes.refl _ s).cacheUse _ _).check (fun _ hk => List.mem_singleton.mp hk ▸ sealed_of_range h) (fun _ => .inl) fun _ => .inr

theorem Notes.imageHead {P : Nat → Prop} {s t : State} (h : Notes P s t) (a : Nat) : t.imageHead a = s.imageHead a := by
  unfold State.imageHead State.num State.bytes
  rw [h.mem]

theorem Notes.firstBadBlock {P : Nat → Prop} {s t : State} (h : Notes P s t) (l : Load) : t.firstBadBlock l = s.firstBadBlock l := by
  unfold State.firstBadBlock
  simp only [h.blockOk]

/-- Every block of a load whose blocks are all good is installed. -/
theorem sealed_of_firstBadBlock {s : State} {l : Load} (h : s.firstBadBlock l = none) : ∀ k ∈ l.blocksUpto l.blockCount, Sealed k := by
  intro k hk
  obtain ⟨i, hi, ha⟩ := List.mem_filterMap.mp hk
  obtain ⟨a, hblock, rfl⟩ := Option.map_eq_some_iff.mp ha
  have hgood := List.findSome?_eq_none_iff.mp h i hi
  rw [hblock] at hgood
  have hrange : rangeOk a 4096 = true := by
    by_contra hout
    simp [hout] at hgood
  exact sealed_of_range hrange

/-- Every block of an image read and checked. -/
def State.readImage (s : State) (l : Load) : State := s.readChecked ((l.blocksUpto l.blockCount).map fun k => (4096 * k, 4096)) 0x0110

theorem State.readImage_notes {s : State} {l : Load} (h : s.firstBadBlock l = none) : Notes CheckRegs s (s.readImage l) :=
  (Notes.refl _ s).readChecked (sealed_of_firstBadBlock h) (fun _ => .inl) fun _ => .inr

/-! What a panel's controller owes it at its next gap (R141, R142). -/

/-- The registers that say whether a panel's retirement is due: its write count and the limit. -/
def DueRegs (n p o : Nat) : Prop := WriteRegs n p o ∨ o = pgArrayDie n + 0x10C

theorem noRetirementDue_same {P : Nat → Prop} {s t : State} {n p : Nat} (h : NoRetirementDue s n (pgPanel n p))
    (hp : (t.panel (pgPanel n p)).retireAs = (s.panel (pgPanel n p)).retireAs) (hr : SameRegs s t P) (hdue : ∀ o, DueRegs n p o → ¬P o) :
    NoRetirementDue t n (pgPanel n p) := by
  obtain ⟨hretire, hwrites⟩ := h
  refine ⟨hp.trans hretire, ?_⟩
  rw [writes_same hr (hdue _ (.inl (.inl rfl))) (hdue _ (.inl (.inr rfl))),
    rf_same (page := pgArrayDie n) (f := R.ARRAY_DIE.WEAR_LIMIT) (i := 0) hr (hdue _ (.inr rfl))]
  exact hwrites

theorem State.dueRetirement_none {s : State} {n p : Nat} (hn : n < 8) (hp : p < 68) (h : NoRetirementDue s n (pgPanel n p)) :
    s.dueRetirement (pgPanel n p) = s := by
  obtain ⟨hretire, hwrites⟩ := h
  unfold State.dueRetirement
  rw [panelDie_pgPanel hn hp, hretire]
  dsimp only
  rw [if_neg (c := decide _ = true) (by simpa using hwrites), ite_self]

end Sys2Proof.Machine
end

section
/-! PROOFS. The life of a panel: its ageing, and its refresh (R136). -/

namespace Sys2Proof.Machine

open Sys2Proof.Claims

/-! A refresh that ends (R136). -/

/-- The registers that the end of a refresh writes at its panel and die. -/
def RefreshRegs (n p o : Nat) : Prop :=
  ContentRegs n p o ∨ RecordReg n p o ∨ o = pgPanel n p + oINT_STATUS ∨ o = pgArrayDie n + oINT_STATUS ∨ CheckRegs o

theorem RefreshRegs.ofDies {n p o : Nat} (hn : n < 8) (hp : p < 68) (h : RefreshRegs n p o) : OfDies o := by
  rcases h with h | h | h | h | h
  · exact (h.ofArray hp).ofDies hn
  · exact (h.ofArray hp).ofDies hn
  · exact OfArray.ofDies hn (.inl (by unfold pgPanel oINT_STATUS at h; omega))
  · exact OfArray.ofDies hn (.inl (by unfold oINT_STATUS at h; omega))
  · exact h.ofDies

theorem RefreshRegs.of_reports {n p o : Nat} (h : Reports o) : RefreshRegs n p o := .inr (.inr (.inr (.inr (.inr h))))

theorem DueRegs.not_refresh {n p o : Nat} (hn : n < 8) (hp : p < 68) (h : DueRegs n p o) : ¬RefreshRegs n p o := by
  have hcheck : ¬CheckRegs o := by
    rcases h with (rfl | rfl) | rfl
    · exact CheckRegs.not_panel hn hp (by decide)
    · exact CheckRegs.not_panel hn hp (by decide)
    · exact CheckRegs.not_array hn (by decide)
  rintro (hr | hr | hr | hr | hr)
  all_goals unfold DueRegs WriteRegs at h
  · unfold ContentRegs pgPanel at *
    omega
  · unfold RecordReg pgPanel at *
    omega
  · unfold pgPanel oINT_STATUS at *
    omega
  · unfold pgPanel oINT_STATUS at *
    omega
  · exact hcheck hr

/-- A panel whose refresh is deferred. -/
def State.markDeferred (s : State) (page : Nat) : State := s.setPanel page { s.panel page with deferred := true, due := false }

theorem State.markDeferred_spec (s : State) (page : Nat) : ((s.markDeferred page).panel page).deferred = true ∧
    ((s.markDeferred page).panel page).retireAs = (s.panel page).retireAs := by
  unfold State.markDeferred
  rw [State.panel_setPanel_self]
  exact ⟨rfl, rfl⟩

/-- A refresh stopped: the panel is aged, and its load ends. -/
def State.stopRefresh (s : State) (l : Load) (pairs : Nat) : State := ((s.setContent l.page 3).setLoad { l with pairs := pairs }).dropLoad l.page

theorem State.deferRefresh_eq (s : State) (l : Load) (pairs : Nat) : s.deferRefresh l pairs =
    (((s.stopRefresh l pairs).markDeferred l.page).cause (pgArrayDie (panelDie l.page)) 4).dueRetirement l.page := by
  delta State.deferRefresh State.stopRefresh State.markDeferred
  with_reducible rfl

theorem State.caused_cause (s : State) {n x b : Nat} (hn : n < 8) (hx : x < 0x80000 - 32) (hb : b < 32) :
    Caused (s.cause (pgArrayDie n + x) b) (pgArrayDie n + x) b :=
  s.cause_set _ b hb fun h => by
    have := reports_not_array hn (.inr h)
    unfold oINT_STATUS at this
    omega

section
variable {s : State} {l : Load} {n p : Nat} (hn : n < 8) (hp : p < 68) (hl : l.page = pgPanel n p)
include hn hp hl

theorem State.stopRefresh_spec (pairs : Nat) : let u := s.stopRefresh l pairs
    Quiet (RefreshRegs n p) s u ∧ u.content (pgPanel n p) = 3 ∧ u.panels = s.panels ∧ u.plans = s.plans := by
  have hcontent : (s.setContent (pgPanel n p) 3).content (pgPanel n p) = 3 := State.rf_wf_self _ _ _ _ _ (by decide) (by decide)
  have hshow : Quiet (RefreshRegs n p) s (s.setContent (pgPanel n p) 3) := Notes.quiet ((Notes.refl _ s).wf (.inl (.inl rfl)))
  have hset := hshow.aside (u := (s.setContent (pgPanel n p) 3).setLoad { l with pairs := pairs }) rfl
  obtain ⟨hdrop, -, hpanels, hplans⟩ := ((s.setContent (pgPanel n p) 3).setLoad { l with pairs := pairs }).dropLoad_spec hn hp
  unfold State.stopRefresh
  rw [hl] at hset hdrop hpanels hplans ⊢
  exact ⟨hset.step hdrop fun _ h => .inr (.inl h), (content_same hdrop.regs (RecordReg.not_panel hp)).trans hcontent, hpanels, hplans⟩

/-- A refresh deferred leaves its panel aged, and is not tried again. -/
theorem State.deferRefresh_spec (hdue : NoRetirementDue s n (pgPanel n p)) (pairs : Nat) : let u := s.deferRefresh l pairs
    Quiet (RefreshRegs n p) s u ∧ u.content (pgPanel n p) = 3 ∧ (u.panel (pgPanel n p)).deferred = true ∧ Caused u (pgArrayDie n) 4 ∧
      u.arrOrder = s.arrOrder := by
  obtain ⟨hstop, hcontent, hpanels, hplans⟩ := s.stopRefresh_spec hn hp hl pairs
  rw [s.deferRefresh_eq, hl, panelDie_pgPanel hn hp]
  generalize s.stopRefresh l pairs = v at *
  obtain ⟨hdeferred, hretire⟩ := v.markDeferred_spec (pgPanel n p)
  have hmark := hstop.aside (u := v.markDeferred (pgPanel n p)) rfl
  have hshown : (v.markDeferred (pgPanel n p)).content (pgPanel n p) = 3 := hcontent
  have horder : (v.markDeferred (pgPanel n p)).arrOrder = s.arrOrder := congrArg (·.2.2.1) hplans
  generalize v.markDeferred (pgPanel n p) = w at *
  have hcause : Notes (fun o => o = pgArrayDie n + oINT_STATUS ∨ Reports o) w (w.cause (pgArrayDie n) 4) := (Notes.refl _ w).cause (.inl rfl) fun _ => .inr
  have hcaused := w.caused_cause (x := 0) (b := 4) hn (by decide) (by decide)
  generalize w.cause (pgArrayDie n) 4 = u at *
  have hquiet : Quiet (RefreshRegs n p) s u := hmark.step hcause.quiet fun _ h => h.elim (fun h => .inr (.inr (.inr (.inl h)))) RefreshRegs.of_reports
  have hretired : (u.panel (pgPanel n p)).retireAs = (s.panel (pgPanel n p)).retireAs :=
    (hcause.retireAs _).trans (hretire.trans (congrArg (fun ps => (aget ps (pgPanel n p) Panel.fresh).retireAs) hpanels))
  rw [State.dueRetirement_none hn hp (noRetirementDue_same hdue hretired hquiet.regs fun _ h => h.not_refresh hn hp)]
  refine ⟨hquiet, (content_same hcause.regs ?_).trans hshown, ?_, hcaused, hcause.arrOrder.trans horder⟩
  · rintro (h | h)
    · unfold pgPanel oINT_STATUS at h
      omega
    · exact WearRegs.not_panel hn (by decide) (.inr (.inr (.inr h)))
  · exact (congrArg Panel.deferred (hcause.body (pgPanel n p))).trans hdeferred

end

/-- The codes of a load's image taken into its panel's code copy. -/
def State.takeCodes (s : State) (l : Load) : State := s.setPanel l.page { s.panel l.page with copy := s.imageCodes l }

/-- A load whose image has been read ends well. -/
def State.settleImage (s : State) (l : Load) : State := (s.takeCodes l).settleLoad { l with scales := (s.takeCodes l).imageScales l }

theorem State.takeCodes_spec (s : State) (l : Load) : (s.takeCodes l).ledger = s.ledger ∧ (s.takeCodes l).loads = s.loads ∧
    (s.takeCodes l).plans = s.plans ∧ ((s.takeCodes l).panel l.page).retireAs = (s.panel l.page).retireAs := by
  refine ⟨rfl, rfl, rfl, ?_⟩
  unfold State.takeCodes
  rw [State.panel_setPanel_self]

section
variable {s : State} {l : Load} (hr : rangeOk l.image 4096 = true) (hb : s.blockOk (l.image / 4096) = true)
include hr hb

theorem State.endRefresh_good (htag : (s.imageHead l.image).1 = l.tag)
    (hgood : s.firstBadBlock { l with tiles := (s.imageHead l.image).2.2 } = none) :
    s.endRefresh l .good = ((((s.readBlock l.image 0x0110).readImage { l with tiles := (s.imageHead l.image).2.2 }).settleImage
      { l with tiles := (s.imageHead l.image).2.2 }).cause l.page 7).dueRetirement l.page := by
  unfold State.endRefresh
  extract_lets page h t l' tag
  have hread : Notes CheckRegs s t := s.readBlock_notes 0x0110 hr
  have hl : l' = { l with tiles := (s.imageHead l.image).2.2 } := by simp only [l', hread.imageHead]
  have hbad : t.firstBadBlock l' = none := by rw [hread.firstBadBlock, hl, hgood]
  rw [if_neg (by simp [hr]), hread.blockOk, if_neg (by simp [h, hb]), if_neg (by simp [tag, hread.imageHead, htag, l']), hbad, ← hl]
  rfl

theorem State.endRefresh_otherTag (htag : (s.imageHead l.image).1 ≠ l.tag) (phys : LoadPhysics) :
    s.endRefresh l phys = ((s.readBlock l.image 0x0110).log l.page 0x0119 [panelPhys l.page, l.tag, (s.imageHead l.image).1]).deferRefresh
      { l with tiles := (s.imageHead l.image).2.2 } 0 := by
  unfold State.endRefresh
  extract_lets page h t l' tag
  have hread : Notes CheckRegs s t := s.readBlock_notes 0x0110 hr
  have hl : l' = { l with tiles := (s.imageHead l.image).2.2 } := by simp only [l', hread.imageHead]
  have htag' : tag = (s.imageHead l.image).1 := by simp only [tag, l', hread.imageHead]
  rw [if_neg (by simp [hr]), hread.blockOk, if_neg (by simp [h, hb]), if_pos (by simp [htag', htag, l']), ← hl, ← htag']
  rfl

end

section
variable (s : State) {n p page : Nat}

/-- An interrupt of a panel's own page. -/
theorem State.cause_panel_notes (page b : Nat) : Notes (fun o => o = page + oINT_STATUS ∨ Reports o) s (s.cause page b) :=
  (Notes.refl _ s).cause (.inl rfl) fun _ => .inr

theorem State.caused_panel (hpage : page = pgPanel n p) (hn : n < 8) (hp : p < 68) {b : Nat} (hb : b < 32) : Caused (s.cause page b) page b := by
  have hoff : page = pgArrayDie n + 0x1000 * (1 + p) := hpage
  rw [hoff]
  exact s.caused_cause hn (by omega) hb

/-- The registers of a panel's page stay when it gives an interrupt. -/
theorem not_cause_panel (hpage : page = pgPanel n p) (hn : n < 8) {x : Nat} (hx : x < 0x1000) (hne : x ≠ oINT_STATUS) :
    ¬(page + x = page + oINT_STATUS ∨ Reports (page + x)) := by
  rintro (h | h)
  · omega
  · exact WearRegs.not_panel hn hx (.inr (.inr (.inr (hpage ▸ h))))

end

section
variable {s : State} {l : Load} {n p : Nat} (hn : n < 8) (hp : p < 68) (hl : l.page = pgPanel n p)
include hn hp hl

theorem State.settleImage_spec : let u := s.settleImage l
    Quiet (fun o => ContentRegs n p o ∨ RecordReg n p o) s u ∧ u.content l.page = 2 ∧ (l.diff = false → u.rf l.page R.PANEL.CONTENT_AGE = 0) ∧
      (u.panel l.page).retireAs = (s.panel l.page).retireAs ∧ u.plans = s.plans := by
  obtain ⟨hledger, -, hplans, hretire⟩ := s.takeCodes_spec l
  unfold State.settleImage
  generalize s.takeCodes l = t at *
  obtain ⟨hquiet, hcontent, -, hage, -, hretire', hplans'⟩ := t.settleLoad_spec hn hp (l := { l with scales := t.imageScales l }) hl
  exact ⟨(Quiet.of_ledger _ hledger).trans hquiet, hcontent, hage, hretire'.trans hretire, hplans'.trans hplans⟩

/-- A refresh that ends well leaves its panel valid with age 0. -/
theorem State.endRefresh_good_spec (hdue : NoRetirementDue s n (pgPanel n p)) (hr : rangeOk l.image 4096 = true)
    (hb : s.blockOk (l.image / 4096) = true) (htag : (s.imageHead l.image).1 = l.tag)
    (hgood : s.firstBadBlock { l with tiles := (s.imageHead l.image).2.2 } = none) (hd : l.diff = false) : let u := s.endRefresh l .good
    Quiet (RefreshRegs n p) s u ∧ u.content l.page = 2 ∧ u.rf l.page R.PANEL.CONTENT_AGE = 0 ∧ Caused u l.page 7 ∧ u.arrOrder = s.arrOrder := by
  have hread := s.readBlock_notes 0x0110 hr
  have himage := State.readImage_notes ((hread.firstBadBlock _).trans hgood)
  rw [State.endRefresh_good hr hb htag hgood]
  generalize (s.readBlock l.image 0x0110).readImage { l with tiles := (s.imageHead l.image).2.2 } = t at *
  have hnotes := hread.trans himage
  obtain ⟨hsettle, hcontent, hage, hretire, hplans⟩ := t.settleImage_spec hn hp (l := { l with tiles := (s.imageHead l.image).2.2 }) hl
  generalize t.settleImage { l with tiles := (s.imageHead l.image).2.2 } = v at *
  have hcause := v.cause_panel_notes l.page 7
  have hcaused := v.caused_panel hl hn hp (b := 7) (by decide)
  generalize v.cause l.page 7 = u at *
  have hquiet : Quiet (RefreshRegs n p) s u := by
    refine ((hnotes.quiet.mono fun _ h => .inr (.inr (.inr (.inr h)))).step hsettle ?_).step hcause.quiet ?_
    · exact fun _ h => h.elim .inl fun h => .inr (.inl h)
    · exact fun _ h => h.elim (fun h => .inr (.inr (.inl (hl ▸ h)))) RefreshRegs.of_reports
  have hretired : (u.panel (pgPanel n p)).retireAs = (s.panel (pgPanel n p)).retireAs :=
    (hcause.retireAs _).trans ((hl ▸ hretire).trans (hnotes.retireAs _))
  have hstill : u.dueRetirement l.page = u :=
    hl ▸ State.dueRetirement_none hn hp (noRetirementDue_same hdue hretired hquiet.regs fun _ h => h.not_refresh hn hp)
  dsimp only at hcontent hage ⊢
  rw [hstill]
  exact ⟨hquiet, (content_same hcause.regs (not_cause_panel hl hn (by decide) (by decide))).trans hcontent,
    (rf_same (f := R.PANEL.CONTENT_AGE) (i := 0) hcause.regs (not_cause_panel hl hn (x := 0x10C) (by decide) (by decide))).trans (hage hd), hcaused,
    hcause.arrOrder.trans ((congrArg (·.2.2.1) hplans).trans hnotes.arrOrder)⟩

/-- A refresh whose image has another tag is deferred, with event 0x0119. -/
theorem State.endRefresh_otherTag_spec (hdue : NoRetirementDue s n (pgPanel n p)) (hr : rangeOk l.image 4096 = true)
    (hb : s.blockOk (l.image / 4096) = true) (htag : (s.imageHead l.image).1 ≠ l.tag) (phys : LoadPhysics) : let u := s.endRefresh l phys
    Quiet (RefreshRegs n p) s u ∧ u.content l.page = 3 ∧ (u.panel l.page).deferred = true ∧ Caused u (pgArrayDie n) 4 ∧
      Logged s u 0x0119 [p, l.tag, (s.imageHead l.image).1] ∧ u.arrOrder = s.arrOrder := by
  have hread := s.readBlock_notes 0x0110 hr
  have hphys : panelPhys l.page = p := hl ▸ panelPhys_pgPanel hp
  rw [State.endRefresh_otherTag hr hb htag, hphys]
  generalize s.readBlock l.image 0x0110 = t at *
  have hlog : Notes Reports t (t.log l.page 0x0119 [p, l.tag, (s.imageHead l.image).1]) := (Notes.refl _ t).log fun _ => id
  have hlogged := fun u (h : Quiet (RefreshRegs n p) _ u) =>
    hread.quiet.logged (page := l.page) (code := 0x0119) (d := [p, l.tag, (s.imageHead l.image).1]) h
  generalize t.log l.page 0x0119 [p, l.tag, (s.imageHead l.image).1] = v at *
  have hquiet : Quiet (RefreshRegs n p) s v :=
    (hread.quiet.mono fun _ h => .inr (.inr (.inr (.inr h)))).step hlog.quiet fun _ => RefreshRegs.of_reports
  have hdue' := noRetirementDue_same hdue ((hlog.retireAs _).trans (hread.retireAs _)) hquiet.regs fun _ h => h.not_refresh hn hp
  obtain ⟨hdefer, hcontent, hdeferred, hcaused, ho⟩ := v.deferRefresh_spec hn hp (l := { l with tiles := (s.imageHead l.image).2.2 }) hl hdue' 0
  rw [← hl] at hcontent hdeferred
  exact ⟨hquiet.trans hdefer, hcontent, hdeferred, hcaused, hlogged _ hdefer, ho.trans (hlog.arrOrder.trans hread.arrOrder)⟩

end

end Sys2Proof.Machine
end

section
open Sys2Proof Sys2Proof.Machine Sys2Proof.Claims

/-- The first half of O19: a panel ages, and its refresh starts, ends well, or is deferred. -/
theorem Sys2Proof.Claims.panelAgesAndIsRefreshed : Claims.PanelAgesAndIsRefreshed := by
  unfold Claims.PanelAgesAndIsRefreshed
  intro s die panel
  have hn := die.isLt
  have hp := panel.isLt
  refine ⟨fun hcontent hage => ?_, fun hcontent hdef hfree hwhen => ?_, fun l hfind hclk horder hdue hmark hr hb => ?_⟩
  · refine ⟨(s.setContent (pgPanel die panel) 3).cause (pgPanel die panel) 5, ?_, ?_⟩
    · change execPanelAged die panel s = _
      unfold execPanelAged
      simp [hcontent, hage]
    · have hset : Notes (fun o => o = pgPanel die panel + R.PANEL.CONTENT_STATE.off ∨ o = pgPanel die panel + oINT_STATUS ∨ Reports o) s
          (s.setContent (pgPanel die panel) 3) := (Notes.refl _ s).wf (.inl rfl)
      have hall := hset.cause (b := 5) (.inr (.inl rfl)) fun _ h => .inr (.inr h)
      refine ⟨?_, State.caused_panel _ rfl hn hp (by decide), hall.quiet.regs, hall.quiet.bytes, hall.quiet.seals⟩
      rw [content_same (State.cause_panel_notes _ _ _).regs (not_cause_panel rfl hn (by decide) (by decide))]
      exact State.rf_wf_self _ _ _ _ _ (by decide) (by decide)
  · have hstart : (s.content (pgPanel die panel) == 3 && !(s.panel (pgPanel die panel)).deferred && s.panelFree (pgPanel die panel) &&
        (s.rf (pgArrayDie die) R.ARRAY_DIE.REFRESH_CTL_AUTO == 1 || (s.panel (pgPanel die panel)).due)) = true := by
      simp [hcontent, hdef, hfree, hwhen]
    refine ⟨s.startRefresh die (pgPanel die panel), rfl, ?_⟩
    unfold State.startRefresh
    dsimp only
    rw [if_pos hstart]
    obtain ⟨hquiet, hload, hwrites, -, hloads, -⟩ := s.startFull_spec hn hp (l := ⟨pgPanel die panel, .refresh, (s.recorded (pgPanel die panel)).1,
      (s.recorded (pgPanel die panel)).2, (s.panelFmt (pgPanel die panel)).code, s.rf (pgPanel die panel) R.PANEL.CONTENT_TAG,
      (s.imageHead (s.recorded (pgPanel die panel)).1).2.2, false, 0, 0, 8388608, [], true, []⟩) rfl
    refine ⟨hload, hwrites, ⟨_, hloads ▸ List.mem_append_right _ List.mem_cons_self, rfl, rfl, rfl, rfl, rfl⟩, hquiet.bytes, hquiet.seals, ?_⟩
    exact (hquiet.mono fun _ => OfArray.ofDies hn).regs
  · have hl : l.page = pgPanel die panel := by
      have := List.find?_some hfind
      simp only [Bool.and_eq_true, beq_iff_eq] at this
      exact this.1
    have hrun : ∀ u, s.endRefresh l .good = u → u.arrOrder = s.arrOrder → exec (.refreshComplete die panel .good) s = .next u := by
      intro u hu ho
      change execRefreshComplete die panel .good s = _
      unfold execRefreshComplete State.onDie
      rw [hfind]
      dsimp only
      rw [if_pos hclk, State.whenFree_unmarked _ hmark, hu, State.pumpArrays_none (ho.trans horder)]
    refine ⟨fun htag hgood hd => ?_, fun htag => ?_⟩
    · obtain ⟨hquiet, hcontent, hage, hcaused, ho⟩ := State.endRefresh_good_spec hn hp hl hdue hr hb htag hgood hd
      rw [hl] at hcontent hage hcaused
      exact ⟨_, hrun _ rfl ho, hcontent, hage, hcaused, hquiet.bytes, hquiet.seals, (hquiet.mono fun _ h => h.ofDies hn hp).regs⟩
    · obtain ⟨hquiet, hcontent, hdeferred, hcaused, hlogged, ho⟩ := State.endRefresh_otherTag_spec hn hp hl hdue hr hb htag .good
      rw [hl] at hcontent hdeferred
      exact ⟨_, hrun _ rfl ho, hcontent, hdeferred, hcaused, hlogged, hquiet.bytes, hquiet.seals, (hquiet.mono fun _ h => h.ofDies hn hp).regs⟩

end

section
/-! PROOFS. The retirement of a panel by the host, and its reinstatement (R142, R143, R145). -/

namespace Sys2Proof.Machine

open Sys2Proof.Claims

/-! A panel is retired (R142, R143). -/

theorem not_reports_array {n x : Nat} (hn : n < 8) : ¬Reports (pgArrayDie n + x) := fun h => by
  have := reports_not_array hn h
  omega

theorem not_reports_panel {n p x : Nat} (hn : n < 8) : ¬Reports (pgPanel n p + x) := fun h => by
  have := reports_not_array hn h
  unfold pgPanel at this
  omega

section
variable {P : Nat → Prop} {s t : State} {page : Nat} (h : SameRegs s t P)
include h

theorem retired_same (ho : ¬P (page + oPAGE_STATUS)) : t.retired page = s.retired page := congrArg (fun w : Word => bit w.toNat 3) (h _ ho)

theorem servesLogical_same (ho : ¬P (page + 0x100)) : t.servesLogical page = s.servesLogical page := rf_same h ho

theorem aliasOf_same {n l : Nat} (ho : ¬P (pgArrayDie n + 0x140 + 4 * (l / 4))) : t.aliasOf n l = s.aliasOf n l :=
  congrArg (· / 256 ^ (l % 4) % 256) (rf_same (f := R.ARRAY_DIE.ALIAS_MAP) h ho)

/-- The spare chosen stays the same beside a panel that is none before nor after. -/
theorem chooseSpare_same {n p : Nat} (hs : s.isSpare (pgPanel n p) = false) (ht : t.isSpare (pgPanel n p) = false)
    (ho : ∀ q, q ≠ p → ¬P (pgPanel n q + oPAGE_STATUS) ∧ ¬P (pgPanel n q + 0x104)) (hinfo : ∀ q, ¬P (pgPanel n q + 0x100)) :
    t.chooseSpare n = s.chooseSpare n := by
  have hspares : ∀ q, (t.isSpare (pgPanel n q) && t.content (pgPanel n q) != 5) = (s.isSpare (pgPanel n q) && s.content (pgPanel n q) != 5) := by
    intro q
    by_cases hq : q = p
    · rw [hq, hs, ht]
      rfl
    · unfold State.isSpare
      rw [retired_same h (ho q hq).1, servesLogical_same h (hinfo q), content_same h (ho q hq).2]
  have hfactory : ∀ q, t.rf (pgPanel n q) R.PANEL.PANEL_INFO_SPARE = s.rf (pgPanel n q) R.PANEL.PANEL_INFO_SPARE := fun q => rf_same h (hinfo q)
  unfold State.chooseSpare
  simp only [hspares, hfactory]

end

section
variable (s : State) (n : Nat)

theorem State.countDie_notes : Notes (fun o => o = pgArrayDie n + 0x100) s (s.countDie n) := by
  refine (Notes.refl _ s).wfs fun x hx => ?_
  simp only [List.mem_cons, List.not_mem_nil, or_false] at hx
  rcases hx with rfl | rfl | rfl <;> rfl

theorem State.setAlias_notes (l v : Nat) : Notes (fun o => o = pgArrayDie n + 0x140 + 4 * (l / 4)) s (s.setAlias n l v) := (Notes.refl _ s).wf rfl

/-- An entry of `ALIAS_MAP` reads as written. -/
theorem State.aliasOf_setAlias (l : Nat) {v : Nat} (hv : v < 256) : (s.setAlias n l v).aliasOf n l = v := by
  have hword : ∀ w : Word, getBits (setBits w (8 * (l % 4) + 7) (8 * (l % 4)) v) (8 * (l % 4) + 7) (8 * (l % 4)) = v := fun w => by
    rw [getBits_setBits_self _ _ _ _ (by omega) (by omega), show 8 * (l % 4) + 7 + 1 - 8 * (l % 4) = 8 by omega]
    exact Nat.mod_eq_of_lt hv
  have hpow : (256 : Nat) ^ (l % 4) = 2 ^ (8 * (l % 4)) := by rw [Nat.pow_mul]
  unfold State.aliasOf State.setAlias
  dsimp only
  rw [State.rf_wf_whole _ _ _ _ rfl rfl, Nat.mod_eq_of_lt (BitVec.isLt _), hpow]
  have := hword (BitVec.ofNat 32 (s.rf (pgArrayDie n) R.ARRAY_DIE.ALIAS_MAP (l / 4)))
  unfold getBits at this
  rwa [show 8 * (l % 4) + 7 + 1 - 8 * (l % 4) = 8 by omega] at this

theorem State.setCastle_notes (c : Castle) : Notes (fun o => o = pgArrayDie n + 0x11C) { s with castles := aput s.castles n c } (s.setCastle n c) := by
  refine (Notes.refl _ _).wfs fun x hx => ?_
  simp only [List.mem_cons, List.not_mem_nil, or_false] at hx
  rcases hx with rfl | rfl | rfl | rfl | rfl <;> rfl

theorem State.castle_setCastle (c : Castle) : (s.setCastle n c).castle n = c := by
  rw [(s.setCastle_notes n c).castle]
  unfold State.castle aget
  rw [aget?_aput_same]
  rfl

theorem State.setCastle_quiet (c : Castle) : Quiet (fun o => o = pgArrayDie n + 0x11C) s (s.setCastle n c) :=
  Quiet.trans (t := { s with castles := aput s.castles n c }) (.of_ledger _ rfl) (s.setCastle_notes n c).quiet

omit s n in
theorem RegsOnly.panels {s t : State} (h : RegsOnly s t) : t.panels = s.panels := by
  obtain ⟨r, rfl⟩ := h
  rfl

omit n in
theorem State.wfs_regsOnly (page : Nat) (l : List (Fld × Nat)) : RegsOnly s (s.wfs page l) := by
  induction l generalizing s with
  | nil => exact ⟨s.regs, rfl⟩
  | cons x l ih =>
    obtain ⟨r, e⟩ := s.setReg_regsOnly (x.1.addr page 0) (setBits (s.reg (x.1.addr page 0)) x.1.hi x.1.lo x.2)
    obtain ⟨r', e'⟩ := ih (s.wf page x.1 x.2)
    refine ⟨r', e'.trans ?_⟩
    rw [show s.wf page x.1 x.2 = { s with regs := r } from e]

/-- What a castling changes beside its own fields. -/
theorem State.setCastle_spec (c : Castle) : let u := s.setCastle n c
    Quiet (fun o => o = pgArrayDie n + 0x11C) s u ∧ u.castle n = c ∧ u.panels = s.panels ∧ u.tasks = s.tasks ∧ u.loads = s.loads ∧
      u.loadRuns = s.loadRuns ∧ u.arrOrder = s.arrOrder ∧ u.grants = s.grants ∧ u.now = s.now ∧ u.record = s.record := by
  have h := s.setCastle_notes n c
  have honly := State.wfs_regsOnly { s with castles := aput s.castles n c } (pgArrayDie n) [(R.ARRAY_DIE.CASTLE_STATUS_STATE, c.phase.code),
    (R.ARRAY_DIE.CASTLE_STATUS_QUEUED, Nat.min c.queue.length 8), (R.ARRAY_DIE.CASTLE_STATUS_SPARE, c.spare),
    (R.ARRAY_DIE.CASTLE_STATUS_SOURCE, c.source), (R.ARRAY_DIE.CASTLE_STATUS_LOGICAL, c.logical)]
  exact ⟨s.setCastle_quiet n c, s.castle_setCastle n c, honly.panels, h.tasks, h.loads, h.loadRuns, h.arrOrder, h.grants, h.now, honly.record⟩

end

theorem Notes.hasCopy {P : Nat → Prop} {s t : State} (h : Notes P s t) (q : Nat) : (t.panel q).hasCopy = (s.panel q).hasCopy :=
  show (t.panel q).body.hasCopy = (s.panel q).body.hasCopy from congrArg Panel.hasCopy (h.body q)

/-- A panel's page and its die's record say that it is retired. -/
def State.recordRetired (s : State) (page cause : Nat) : State :=
  (s.setHdrBit page oPAGE_STATUS 3 true).wf (pgArrayDie (panelDie page)) R.ARRAY_DIE.PANEL_REC_CAUSE cause (panelPhys page)

/-- Nothing is left to retire at the panel's next gap. -/
def State.settleRetire (s : State) (page : Nat) : State := s.setPanel page { s.panel page with retireAs := none }

/-- A panel becomes retired: shown, given as a cause, logged, and entered in the wear record. -/
def State.markRetired (s : State) (page cause : Nat) : State :=
  let d := pgArrayDie (panelDie page)
  let s := s.recordRetired page cause
  let s := (s.settleRetire page).cause d 3
  (s.log d 0x0113 [panelPhys page, cause, s.writes page]).wearEntry page

/-- What follows a panel's retirement: a spare leaves the spares, and a panel that serves a logical one waits for its castling. -/
def State.afterRetire (s : State) (page l : Nat) : State :=
  let n := panelDie page
  let p := panelPhys page
  let c := s.castle n
  if l == 0xFF then
    let s := ((s.invalidate page).setContent page 5).countDie n
    if c.phase != .idle && c.spare == p then s.respare n c else s
  else
    let s := ((s.setContent page 4).setAlias n l 0xFE).countDie n
    let s := s.setCastle n { c with queue := c.queue ++ [(l, p)] }
    if c.phase == .idle then s.nextCastle (c.queue.length + 1) n else s

theorem State.retire_eq (s : State) (page cause : Nat) :
    s.retire page cause = (s.markRetired page cause).afterRetire page (s.servesLogical page) := by
  delta State.retire State.markRetired State.recordRetired State.settleRetire State.afterRetire
  with_reducible rfl

theorem State.afterRetire_spare {s : State} {n p : Nat} (hn : n < 8) (hp : p < 68) (hidle : (s.castle n).phase = .idle ∨ (s.castle n).spare ≠ p) :
    s.afterRetire (pgPanel n p) 0xFF = ((s.invalidate (pgPanel n p)).setContent (pgPanel n p) 5).countDie n := by
  have hnone : ¬((s.castle n).phase != .idle && (s.castle n).spare == p) = true := by
    rcases hidle with h | h <;> simp [h]
  unfold State.afterRetire
  rw [panelDie_pgPanel hn hp, panelPhys_pgPanel hp]
  dsimp only
  rw [if_neg hnone]
  rfl

/-- A panel that serves leaves its logical panel to a castling. -/
def State.leaveLogical (s : State) (n page l : Nat) : State := ((s.setContent page 4).setAlias n l 0xFE).countDie n

theorem State.afterRetire_serving {s : State} {n p l : Nat} (hn : n < 8) (hp : p < 68) (hl : l ≠ 0xFF) (hidle : s.castle n = Castle.fresh) :
    s.afterRetire (pgPanel n p) l =
      State.nextCastle 1 ((s.leaveLogical n (pgPanel n p) l).setCastle n { Castle.fresh with queue := [(l, p)] }) n := by
  unfold State.afterRetire
  rw [panelDie_pgPanel hn hp, panelPhys_pgPanel hp]
  dsimp only
  rw [hidle, if_neg (by simpa using hl)]
  rfl

/-- A castling that finds a spare starts on it, and fills it first if its source holds a copy. -/
theorem State.nextCastle_spare {s : State} {n l source x k : Nat} {c : Castle} (hc : s.castle n = { c with queue := [(l, source)] })
    (hx : s.chooseSpare n = some x) : State.nextCastle (k + 1) s n = (s.log (pgArrayDie n) 0x0114 [source, x, l]).setCastle n
      ⟨if ((s.log (pgArrayDie n) 0x0114 [source, x, l]).panel (pgPanel n source)).hasCopy then .arbitrating else .remapping, l, source, x,
        (s.log (pgArrayDie n) 0x0114 [source, x, l]).now, []⟩ := by
  unfold State.nextCastle
  dsimp only
  rw [hc, hx]
  rfl

/-- A panel whose content is invalid. -/
def Panel.emptied (p : Panel) : Panel := { p with hasCopy := false, copy := [], scales := [], erased := [], prog := [] }

/-- The registers that a panel's retirement or reinstatement writes at its page and its die. -/
def RetireRegs (n p o : Nat) : Prop := o = pgPanel n p + oPAGE_STATUS ∨ RecordReg n p o ∨ o = pgArrayDie n + oINT_STATUS ∨ Reports o

/-- The registers that show the logical panels, the counts and the castling of a die. -/
def ShownRegs (n o : Nat) : Prop := pgArrayDie n + 0x100 ≤ o ∧ o < pgArrayDie n + 0x180

theorem RetireRegs.ofArray {n p o : Nat} (hp : p < 68) (h : RetireRegs n p o) : OfArray n o := by
  rcases h with h | h | h | h
  · exact .inl (by unfold pgPanel oPAGE_STATUS at h; omega)
  · exact h.ofArray hp
  · exact .inl (by unfold oINT_STATUS at h; omega)
  · exact .inr h

theorem RetireRegs.not_panel {n p q x : Nat} (hn : n < 8) (hp : p < 68) (hx : x < 0x1000) (hne : q ≠ p ∨ x ≠ oPAGE_STATUS) :
    ¬RetireRegs n p (pgPanel n q + x) := by
  rintro (h | h | h | h)
  · unfold pgPanel oPAGE_STATUS at *
    omega
  · exact RecordReg.not_panel hp h
  · unfold pgPanel oINT_STATUS at h
    omega
  · exact not_reports_panel hn h

theorem ShownRegs.ofArray {n o : Nat} (h : ShownRegs n o) : OfArray n o := by
  unfold ShownRegs at h
  exact .inl (by omega)

theorem ShownRegs.not_panel {n q x : Nat} : ¬ShownRegs n (pgPanel n q + x) := by
  unfold ShownRegs pgPanel
  omega

section
variable (s : State) {n p : Nat} (hn : n < 8) (hp : p < 68)
include hn hp

omit hn hp in
theorem State.invalidate_spec : let u := s.invalidate (pgPanel n p)
    Quiet (ContentRegs n p) s u ∧ u.content (pgPanel n p) = 0 ∧ u.rf (pgPanel n p) R.PANEL.CONTENT_TAG = 0 ∧
      u.loads = s.loads ∧ u.plans = s.plans := by
  unfold State.invalidate
  extract_lets t _ u
  have hset : Notes (ContentRegs n p) s t := (((Notes.refl _ s).wf (.inl rfl)).wf (.inr (.inl rfl))).wf (.inr (.inr rfl))
  have hcontent : t.content (pgPanel n p) = 0 := by
    refine (State.rf_wf_other _ _ _ _ _ _ _ _ ?_).trans ((State.rf_wf_other _ _ _ _ _ _ _ _ ?_).trans (State.rf_wf_self _ _ _ _ _ (by decide) (by decide)))
    · exact Nat.ne_of_lt (Nat.add_lt_add_left (show 0x104 < 0x10C by decide) _)
    · exact Nat.ne_of_lt (Nat.add_lt_add_left (show 0x104 < 0x108 by decide) _)
  have htag : t.rf (pgPanel n p) R.PANEL.CONTENT_TAG = 0 :=
    (State.rf_wf_other _ _ _ _ _ _ _ _ (Nat.ne_of_lt (Nat.add_lt_add_left (show 0x108 < 0x10C by decide) _))).trans
      (State.rf_wf_whole _ _ _ _ rfl rfl)
  clear_value t
  exact ⟨hset.quiet.aside rfl, hcontent, htag, hset.loads, hset.plans⟩

theorem State.recordRetired_spec {cause : Nat} (hc : cause < 4) : let u := s.recordRetired (pgPanel n p) cause
    Notes (RetireRegs n p) s u ∧ u.retired (pgPanel n p) = true ∧ u.rf (pgArrayDie n) R.ARRAY_DIE.PANEL_REC_CAUSE p = cause := by
  unfold State.recordRetired
  rw [panelDie_pgPanel hn hp, panelPhys_pgPanel hp]
  have hbit : Notes (RetireRegs n p) s (s.setHdrBit (pgPanel n p) oPAGE_STATUS 3 true) := (Notes.refl _ s).setHdrBit (.inl rfl)
  have hset : (s.setHdrBit (pgPanel n p) oPAGE_STATUS 3 true).retired (pgPanel n p) = true := State.hdr_setHdrBit_self _ _ _ _ _ (by decide)
  refine ⟨hbit.wf (.inr (.inl rfl)), ?_, ?_⟩
  · have hrec := (Notes.refl (RecordReg n p) (s.setHdrBit (pgPanel n p) oPAGE_STATUS 3 true)).wf (page := pgArrayDie n)
      (f := R.ARRAY_DIE.PANEL_REC_CAUSE) (v := cause) (i := p) rfl
    exact (retired_same hrec.regs (RecordReg.not_panel hp)).trans hset
  · rw [State.rf_wf_self _ _ _ _ _ (by decide) (by decide)]
    exact Nat.mod_eq_of_lt hc

theorem State.markRetired_spec {cause : Nat} (hc : cause < 4) : let u := s.markRetired (pgPanel n p) cause
    Quiet (RetireRegs n p) s u ∧ u.retired (pgPanel n p) = true ∧ u.rf (pgArrayDie n) R.ARRAY_DIE.PANEL_REC_CAUSE p = cause ∧
      Caused u (pgArrayDie n) 3 ∧ Logged s u 0x0113 [p, cause, s.writes (pgPanel n p)] ∧
      (u.panel (pgPanel n p)).hasCopy = (s.panel (pgPanel n p)).hasCopy ∧ u.loads = s.loads ∧ u.plans = s.plans := by
  have hrep : ∀ o, Reports o → RetireRegs n p o := fun _ h => .inr (.inr (.inr h))
  obtain ⟨hrecord, hretired, hcause⟩ := s.recordRetired_spec hn hp hc
  unfold State.markRetired
  rw [panelDie_pgPanel hn hp, panelPhys_pgPanel hp]
  dsimp only
  have hwrites : (s.recordRetired (pgPanel n p) cause).writes (pgPanel n p) = s.writes (pgPanel n p) :=
    writes_same hrecord.regs (RetireRegs.not_panel hn hp (by decide) (.inr (by decide))) (RetireRegs.not_panel hn hp (by decide) (.inr (by decide)))
  generalize s.recordRetired (pgPanel n p) cause = t at *
  have hcopy : ((t.settleRetire (pgPanel n p)).panel (pgPanel n p)).hasCopy = (t.panel (pgPanel n p)).hasCopy := by
    unfold State.settleRetire
    rw [State.panel_setPanel_self]
  have haside : (t.settleRetire (pgPanel n p)).ledger = t.ledger ∧ (t.settleRetire (pgPanel n p)).loads = t.loads ∧
      (t.settleRetire (pgPanel n p)).plans = t.plans := ⟨rfl, rfl, rfl⟩
  generalize t.settleRetire (pgPanel n p) = v at *
  have hv : SameRegs t v fun _ => False := (Quiet.of_ledger _ haside.1).regs
  have hint : Notes (fun o => o = pgArrayDie n + oINT_STATUS ∨ Reports o) v (v.cause (pgArrayDie n) 3) := (Notes.refl _ v).cause (.inl rfl) fun _ => .inr
  have hcaused := v.caused_cause (x := 0) (b := 3) hn (by decide) (by decide)
  generalize v.cause (pgArrayDie n) 3 = w at *
  have hint' : ∀ q x, ¬(pgPanel n q + x = pgArrayDie n + oINT_STATUS ∨ Reports (pgPanel n q + x)) := by
    rintro q x (h | h)
    · unfold pgPanel oINT_STATUS at h
      omega
    · exact not_reports_panel hn h
  have hw : w.writes (pgPanel n p) = s.writes (pgPanel n p) :=
    (writes_same hint.regs (hint' _ _) (hint' _ _)).trans ((writes_same hv id id).trans hwrites)
  rw [hw]
  have hlog : Notes Reports w (w.log (pgArrayDie n) 0x0113 [p, cause, s.writes (pgPanel n p)]) := (Notes.refl _ w).log fun _ => id
  have hwear := (Notes.refl Reports (w.log (pgArrayDie n) 0x0113 [p, cause, s.writes (pgPanel n p)])).wearEntry (pgPanel n p) fun _ => id
  have hend := hlog.trans hwear
  have hw' : Quiet (RetireRegs n p) s w := (hrecord.quiet.aside haside.1).step hint.quiet fun _ h => h.elim (fun h => .inr (.inr (.inl h))) (hrep _)
  have hlogged := hw'.logged hwear.quiet
  generalize (w.log (pgArrayDie n) 0x0113 [p, cause, s.writes (pgPanel n p)]).wearEntry (pgPanel n p) = u at *
  refine ⟨hw'.step hend.quiet hrep, ?_, ?_, hend.quiet.caused hcaused (not_reports_array hn), hlogged, ?_, ?_, ?_⟩
  · exact (retired_same hend.regs (not_reports_panel hn)).trans ((retired_same hint.regs (hint' _ _)).trans ((retired_same hv id).trans hretired))
  · have hrec : ¬(pgArrayDie n + 0x200 + 4 * p = pgArrayDie n + oINT_STATUS ∨ Reports (pgArrayDie n + 0x200 + 4 * p)) := by
      rintro (h | h)
      · unfold oINT_STATUS at h
        omega
      · exact not_reports_array hn (Nat.add_assoc _ _ _ ▸ h)
    exact (rf_same (f := R.ARRAY_DIE.PANEL_REC_CAUSE) hend.regs fun h => hrec (.inr h)).trans
      ((rf_same (f := R.ARRAY_DIE.PANEL_REC_CAUSE) hint.regs hrec).trans ((rf_same hv id).trans hcause))
  · exact (hend.hasCopy _).trans ((hint.hasCopy _).trans (hcopy.trans (hrecord.hasCopy _)))
  · exact hend.loads.trans (hint.loads.trans (haside.2.1.trans hrecord.loads))
  · exact hend.plans.trans (hint.plans.trans (haside.2.2.trans hrecord.plans))

end

/-- The registers of a die that show counts and castling, and those that report. -/
def StatusRegs (n o : Nat) : Prop := o = pgArrayDie n + 0x100 ∨ o = pgArrayDie n + 0x11C ∨ Reports o

/-- The registers that follow a panel's retirement: its content, what its die shows, and those that report. -/
def AfterRegs (n p o : Nat) : Prop := ContentRegs n p o ∨ ShownRegs n o ∨ Reports o

theorem StatusRegs.after {n p o : Nat} (h : StatusRegs n o) : AfterRegs n p o := by
  rcases h with h | h | h
  · exact .inr (.inl ⟨by omega, by omega⟩)
  · exact .inr (.inl ⟨by omega, by omega⟩)
  · exact .inr (.inr h)

theorem StatusRegs.not_panel {n q x : Nat} (hn : n < 8) : ¬StatusRegs n (pgPanel n q + x) := by
  rintro (h | h | h)
  · unfold pgPanel at h
    omega
  · unfold pgPanel at h
    omega
  · exact not_reports_panel hn h

/-- A register of the die beyond those that show counts and castling. -/
theorem StatusRegs.not_die {n x : Nat} (hn : n < 8) (hx : 0x120 ≤ x) : ¬StatusRegs n (pgArrayDie n + x) := by
  rintro (h | h | h)
  · omega
  · omega
  · exact not_reports_array hn h

theorem AfterRegs.ofArray {n p o : Nat} (hp : p < 68) (h : AfterRegs n p o) : OfArray n o := by
  rcases h with h | h | h
  · exact h.ofArray hp
  · exact h.ofArray
  · exact .inr h

/-- Beside a panel's content, what follows its retirement leaves the pages of panels alone. -/
theorem AfterRegs.not_panel {n p q x : Nat} (hn : n < 8) (hx : x < 0x1000) (hne : q ≠ p ∨ x ≠ 0x104 ∧ x ≠ 0x108 ∧ x ≠ 0x10C) :
    ¬AfterRegs n p (pgPanel n q + x) := by
  rintro (h | h | h)
  · unfold ContentRegs pgPanel at h
    omega
  · exact ShownRegs.not_panel h
  · exact not_reports_panel hn h

theorem AfterRegs.not_die {n p x : Nat} (hn : n < 8) (hx : x < 0x100 ∨ 0x180 ≤ x) (hx' : x < 0x1000) : ¬AfterRegs n p (pgArrayDie n + x) := by
  rintro (h | h | h)
  · unfold ContentRegs pgPanel at h
    omega
  · unfold ShownRegs at h
    omega
  · exact not_reports_array hn h

section
variable (s : State) {n p : Nat} (hn : n < 8) (hp : p < 68)
include hn hp

/-- A retired panel stays shown as retired through what follows its retirement. -/
theorem State.retired_after {cause : Nat} (hc : cause < 4) {u : State} (h : Quiet (AfterRegs n p) (s.markRetired (pgPanel n p) cause) u) :
    Quiet (OfArray n) s u ∧ u.retired (pgPanel n p) = true ∧ u.rf (pgArrayDie n) R.ARRAY_DIE.PANEL_REC_CAUSE p = cause ∧
      Caused u (pgArrayDie n) 3 ∧ Logged s u 0x0113 [p, cause, s.writes (pgPanel n p)] := by
  obtain ⟨hmark, hretired, hcause, hint, hlogged, -, -, -⟩ := s.markRetired_spec hn hp hc
  generalize s.markRetired (pgPanel n p) cause = m at *
  refine ⟨(hmark.mono fun _ h => h.ofArray hp).step h fun _ h => h.ofArray hp, (retired_same h.regs ?_).trans hretired,
    (rf_same (f := R.ARRAY_DIE.PANEL_REC_CAUSE) h.regs ?_).trans hcause,
    h.caused hint (AfterRegs.not_die hn (by decide) (by decide)), h.logged_after hlogged⟩
  · exact AfterRegs.not_panel hn (by decide) (.inr (by decide))
  · have hoff : R.ARRAY_DIE.PANEL_REC_CAUSE.addr (pgArrayDie n) p = pgArrayDie n + (0x200 + 4 * p) := Nat.add_assoc _ _ _
    exact hoff ▸ AfterRegs.not_die hn (by omega) (by omega)

/-- A panel that serves no logical one leaves the spares. -/
theorem State.retire_spare_spec {cause : Nat} (hc : cause < 4) (hserves : s.servesLogical (pgPanel n p) = 0xFF)
    (hidle : (s.castle n).phase = .idle ∨ (s.castle n).spare ≠ p) : let u := s.retire (pgPanel n p) cause
    Quiet (AfterRegs n p) (s.markRetired (pgPanel n p) cause) u ∧ u.content (pgPanel n p) = 5 := by
  obtain ⟨-, -, -, -, -, -, -, hplans⟩ := s.markRetired_spec hn hp hc
  have hcastle : (s.markRetired (pgPanel n p) cause).castle n = s.castle n := castle_of_plans hplans n
  rw [s.retire_eq, hserves, State.afterRetire_spare hn hp (hcastle ▸ hidle)]
  generalize s.markRetired (pgPanel n p) cause = m at *
  obtain ⟨hinvalid, -⟩ := m.invalidate_spec (n := n) (p := p)
  generalize m.invalidate (pgPanel n p) = i at *
  have hcontent : (i.setContent (pgPanel n p) 5).content (pgPanel n p) = 5 := State.rf_wf_self _ _ _ _ _ (by decide) (by decide)
  have hset : Notes (ContentRegs n p) i (i.setContent (pgPanel n p) 5) := (Notes.refl _ i).wf (.inl rfl)
  have hcount := ((i.setContent (pgPanel n p) 5).countDie_notes n).mono (Q := StatusRegs n) fun _ => .inl
  refine ⟨((hinvalid.mono fun _ => .inl).step hset.quiet fun _ => .inl).step hcount.quiet fun _ => StatusRegs.after, ?_⟩
  exact (content_same hcount.regs (StatusRegs.not_panel hn)).trans hcontent

omit hp in
theorem State.leaveLogical_spec {l : Nat} (hl : l < 64) : let u := s.leaveLogical n (pgPanel n p) l
    Notes (AfterRegs n p) s u ∧ u.content (pgPanel n p) = 4 ∧ u.aliasOf n l = 0xFE := by
  have hcontent : (s.setContent (pgPanel n p) 4).content (pgPanel n p) = 4 := State.rf_wf_self _ _ _ _ _ (by decide) (by decide)
  have hset : Notes (ContentRegs n p) s (s.setContent (pgPanel n p) 4) := (Notes.refl _ s).wf (.inl rfl)
  unfold State.leaveLogical
  generalize s.setContent (pgPanel n p) 4 = a at *
  have hname := a.setAlias_notes n l 0xFE
  have halias := a.aliasOf_setAlias n l (v := 0xFE) (by decide)
  generalize a.setAlias n l 0xFE = b at *
  have hcount := (b.countDie_notes n).mono (Q := StatusRegs n) fun _ => .inl
  refine ⟨((hset.mono fun _ => .inl).trans (hname.mono fun _ h => ?_)).trans (hcount.mono fun _ => StatusRegs.after), ?_, ?_⟩
  · exact .inr (.inl (by unfold ShownRegs; omega))
  · refine (content_same hcount.regs (StatusRegs.not_panel hn)).trans ((content_same hname.regs ?_).trans hcontent)
    unfold pgPanel
    omega
  · have hoff : pgArrayDie n + 0x140 + 4 * (l / 4) = pgArrayDie n + (0x140 + 4 * (l / 4)) := Nat.add_assoc _ _ _
    exact (aliasOf_same hcount.regs (hoff ▸ StatusRegs.not_die hn (by omega))).trans halias

/-- A panel that serves becomes the source of its die's castling. -/
theorem State.retire_serving_spec {cause x : Nat} (hc : cause < 4) (hserves : s.servesLogical (pgPanel n p) < 64)
    (hidle : s.castle n = Castle.fresh) (hx : s.chooseSpare n = some x) : let u := s.retire (pgPanel n p) cause
    Quiet (AfterRegs n p) (s.markRetired (pgPanel n p) cause) u ∧ u.content (pgPanel n p) = 4 ∧
      u.aliasOf n (s.servesLogical (pgPanel n p)) = 0xFE ∧ (u.castle n).source = p ∧ (u.castle n).spare = x ∧
      (u.castle n).logical = s.servesLogical (pgPanel n p) ∧
      (u.castle n).phase = (if (s.panel (pgPanel n p)).hasCopy then .arbitrating else .remapping) ∧
      Logged s u 0x0114 [p, x, s.servesLogical (pgPanel n p)] := by
  obtain ⟨hmark, hretired, -, -, -, hcopy, -, hplans⟩ := s.markRetired_spec hn hp hc
  have hspare : s.isSpare (pgPanel n p) = false := by
    unfold State.isSpare
    rw [beq_eq_false_iff_ne.mpr (by omega : s.servesLogical (pgPanel n p) ≠ 0xFF), Bool.and_false, Bool.false_and]
  rw [s.retire_eq, State.afterRetire_serving hn hp (by omega) ((castle_of_plans hplans n).trans hidle)]
  generalize s.servesLogical (pgPanel n p) = l at *
  generalize s.markRetired (pgPanel n p) cause = m at *
  obtain ⟨hleave, hcontent, halias⟩ := m.leaveLogical_spec hn (p := p) hserves
  generalize m.leaveLogical n (pgPanel n p) l = v at *
  obtain ⟨hqueue, hcastle, hpanels, -⟩ := v.setCastle_spec n { Castle.fresh with queue := [(l, p)] }
  generalize v.setCastle n { Castle.fresh with queue := [(l, p)] } = w at *
  have hshown : Quiet (AfterRegs n p) m w := hleave.quiet.step hqueue fun _ h => StatusRegs.after (.inr (.inl h))
  have hboth : Quiet (fun o => RetireRegs n p o ∨ AfterRegs n p o) s w := (hmark.mono fun _ => .inl).step hshown fun _ => .inr
  have hsame : w.chooseSpare n = some x := by
    refine (chooseSpare_same hboth.regs hspare ?_ (fun q hq => ⟨?_, ?_⟩) fun q => ?_).trans hx
    · unfold State.isSpare
      rw [retired_same hshown.regs (AfterRegs.not_panel hn (by decide) (.inr (by decide))), hretired]
      rfl
    · exact not_or.mpr ⟨RetireRegs.not_panel hn hp (by decide) (.inl hq), AfterRegs.not_panel hn (by decide) (.inl hq)⟩
    · exact not_or.mpr ⟨RetireRegs.not_panel hn hp (by decide) (.inl hq), AfterRegs.not_panel hn (by decide) (.inl hq)⟩
    · exact not_or.mpr ⟨RetireRegs.not_panel hn hp (by decide) (.inr (by decide)), AfterRegs.not_panel hn (by decide) (.inr (by decide))⟩
  rw [State.nextCastle_spare (c := Castle.fresh) hcastle hsame]
  have hlog : Notes Reports w (w.log (pgArrayDie n) 0x0114 [p, x, l]) := (Notes.refl _ w).log fun _ => id
  have hlogged := fun u (h : Quiet (fun o => o = pgArrayDie n + 0x11C) _ u) => hboth.logged (page := pgArrayDie n) (code := 0x0114) (d := [p, x, l]) h
  generalize w.log (pgArrayDie n) 0x0114 [p, x, l] = y at *
  have hphase : (y.panel (pgPanel n p)).hasCopy = (s.panel (pgPanel n p)).hasCopy :=
    (hlog.hasCopy _).trans ((congrArg (fun ps => (aget ps (pgPanel n p) Panel.fresh).hasCopy) hpanels).trans ((hleave.hasCopy _).trans hcopy))
  rw [hphase]
  obtain ⟨hset, hthis, -⟩ := y.setCastle_spec n
    ⟨if (s.panel (pgPanel n p)).hasCopy then .arbitrating else .remapping, l, p, x, y.now, []⟩
  generalize y.setCastle n ⟨if (s.panel (pgPanel n p)).hasCopy then .arbitrating else .remapping, l, p, x, y.now, []⟩ = u at *
  have hend : Quiet (StatusRegs n) v u :=
    ((hqueue.mono fun _ h => .inr (.inl h)).step hlog.quiet fun _ h => .inr (.inr h)).step hset fun _ h => .inr (.inl h)
  dsimp only
  rw [hthis]
  refine ⟨hleave.quiet.step hend fun _ => StatusRegs.after, (content_same hend.regs (StatusRegs.not_panel hn)).trans hcontent, ?_, rfl, rfl, rfl, rfl,
    hlogged _ hset⟩
  have hoff : pgArrayDie n + 0x140 + 4 * (l / 4) = pgArrayDie n + (0x140 + 4 * (l / 4)) := Nat.add_assoc _ _ _
  exact (aliasOf_same hend.regs (hoff ▸ StatusRegs.not_die hn (by omega))).trans halias

end

/-! A retired panel reinstated (R145). -/

/-- What the host's reinstatement of a panel does once its conditions hold. -/
def State.reinstate (s : State) (n p : Nat) : State :=
  let d := pgArrayDie n
  let page := pgPanel n p
  let s := ((s.setHdrBit page oPAGE_STATUS 3 false).invalidate page).wf d R.ARRAY_DIE.PANEL_REC_CAUSE 0 p
  ((s.wf page R.PANEL.PANEL_INFO_ALIAS 0xFF).log d 0x011C [p, s.writes page]).countDie n

section
variable (s : State) {n p : Nat} (hn : n < 8) (hp : p < 68)
include hn hp

theorem State.reinstate_spec : let u := s.reinstate n p
    Quiet (OfArray n) s u ∧ u.retired (pgPanel n p) = false ∧ u.content (pgPanel n p) = 0 ∧ u.servesLogical (pgPanel n p) = 0xFF ∧
      u.rf (pgArrayDie n) R.ARRAY_DIE.PANEL_REC_CAUSE p = 0 ∧ Logged s u 0x011C [p, s.writes (pgPanel n p)] := by
  have hbit : Notes (fun o => o = pgPanel n p + oPAGE_STATUS) s (s.setHdrBit (pgPanel n p) oPAGE_STATUS 3 false) := (Notes.refl _ s).setHdrBit rfl
  have hretired : (s.setHdrBit (pgPanel n p) oPAGE_STATUS 3 false).retired (pgPanel n p) = false := State.hdr_setHdrBit_self _ _ _ _ _ (by decide)
  unfold State.reinstate
  dsimp only
  generalize s.setHdrBit (pgPanel n p) oPAGE_STATUS 3 false = a at *
  obtain ⟨hinvalid, hcontent, -⟩ := a.invalidate_spec (n := n) (p := p)
  generalize a.invalidate (pgPanel n p) = b at *
  have hrec : Notes (RecordReg n p) b (b.wf (pgArrayDie n) R.ARRAY_DIE.PANEL_REC_CAUSE 0 p) := (Notes.refl _ b).wf rfl
  have hcause : (b.wf (pgArrayDie n) R.ARRAY_DIE.PANEL_REC_CAUSE 0 p).rf (pgArrayDie n) R.ARRAY_DIE.PANEL_REC_CAUSE p = 0 :=
    State.rf_wf_self _ _ _ _ _ (by decide) (by decide)
  generalize b.wf (pgArrayDie n) R.ARRAY_DIE.PANEL_REC_CAUSE 0 p = c at *
  have hfree : Notes (fun o => o = pgPanel n p + 0x100) c (c.wf (pgPanel n p) R.PANEL.PANEL_INFO_ALIAS 0xFF) := (Notes.refl _ c).wf rfl
  have hserves : (c.wf (pgPanel n p) R.PANEL.PANEL_INFO_ALIAS 0xFF).servesLogical (pgPanel n p) = 0xFF :=
    State.rf_wf_self _ _ _ _ _ (by decide) (by decide)
  generalize c.wf (pgPanel n p) R.PANEL.PANEL_INFO_ALIAS 0xFF = e at *
  have hce : SameRegs c e fun o => o = pgPanel n p + 0x100 := hfree.regs
  have hbe : Quiet (fun o => RecordReg n p o ∨ o = pgPanel n p + 0x100) b e := (hrec.quiet.mono fun _ => .inl).step hfree.quiet fun _ => .inr
  have hae : Quiet (fun o => ContentRegs n p o ∨ RecordReg n p o ∨ o = pgPanel n p + 0x100) a e :=
    (hinvalid.mono fun _ => .inl).step hbe fun _ => .inr
  have hse : Quiet (fun o => o = pgPanel n p + oPAGE_STATUS ∨ ContentRegs n p o ∨ RecordReg n p o ∨ o = pgPanel n p + 0x100) s e :=
    (hbit.quiet.mono fun _ => .inl).step hae fun _ => .inr
  have hbare : ∀ x, x ≠ 0x100 → ¬(RecordReg n p (pgPanel n p + x) ∨ pgPanel n p + x = pgPanel n p + 0x100) := by
    rintro x hx (h | h)
    · exact RecordReg.not_panel hp h
    · omega
  have hpage : ∀ x, x ≠ 0x100 → x ≠ 0x104 ∧ x ≠ 0x108 ∧ x ≠ 0x10C →
      ¬(ContentRegs n p (pgPanel n p + x) ∨ RecordReg n p (pgPanel n p + x) ∨ pgPanel n p + x = pgPanel n p + 0x100) := by
    rintro x hx hx' (h | h)
    · unfold ContentRegs at h
      omega
    · exact hbare x hx h
  have hwrites : e.writes (pgPanel n p) = s.writes (pgPanel n p) := by
    refine writes_same hse.regs (not_or.mpr ⟨?_, hpage _ (by decide) (by decide)⟩) (not_or.mpr ⟨?_, hpage _ (by decide) (by decide)⟩)
    · exact Nat.ne_of_gt (Nat.add_lt_add_left (by decide) _)
    · exact Nat.ne_of_gt (Nat.add_lt_add_left (by decide) _)
  have hbefore : e.writes (pgPanel n p) = c.writes (pgPanel n p) :=
    writes_same hce (Nat.ne_of_gt (Nat.add_lt_add_left (by decide) _)) (Nat.ne_of_gt (Nat.add_lt_add_left (by decide) _))
  rw [hbefore.symm.trans hwrites]
  have hlog : Notes (StatusRegs n) e (e.log (pgArrayDie n) 0x011C [p, s.writes (pgPanel n p)]) := (Notes.refl _ e).log fun _ h => .inr (.inr h)
  have hcount := ((e.log (pgArrayDie n) 0x011C [p, s.writes (pgPanel n p)]).countDie_notes n).mono (Q := StatusRegs n) fun _ => .inl
  have hlogged := hse.logged hcount.quiet
  have hend := hlog.trans hcount
  generalize (e.log (pgArrayDie n) 0x011C [p, s.writes (pgPanel n p)]).countDie n = u at *
  have hkeep := fun x => StatusRegs.not_panel (q := p) (x := x) hn
  refine ⟨(hse.mono fun _ h => ?_).step hend.quiet fun _ h => (StatusRegs.after (p := p) h).ofArray hp, ?_, ?_, ?_, ?_, hlogged⟩
  · rcases h with h | h | h | h
    · exact RetireRegs.ofArray hp (.inl h)
    · exact h.ofArray hp
    · exact h.ofArray hp
    · exact .inl (by unfold pgPanel at h; omega)
  · exact (retired_same hend.regs (hkeep _)).trans ((retired_same hae.regs (hpage _ (by decide) (by decide))).trans hretired)
  · exact (content_same hend.regs (hkeep _)).trans ((content_same hbe.regs (hbare _ (by decide))).trans hcontent)
  · exact (servesLogical_same hend.regs (hkeep _)).trans hserves
  · have hoff : R.ARRAY_DIE.PANEL_REC_CAUSE.addr (pgArrayDie n) p = pgArrayDie n + (0x200 + 4 * p) := Nat.add_assoc _ _ _
    refine (rf_same (f := R.ARRAY_DIE.PANEL_REC_CAUSE) hend.regs (hoff ▸ StatusRegs.not_die hn (by omega))).trans
      ((rf_same (f := R.ARRAY_DIE.PANEL_REC_CAUSE) hce ?_).trans hcause)
    rw [hoff]
    unfold pgPanel
    omega

omit hn in
/-- The write to `RETIRE_CTL.PANEL` that a host's retirement or reinstatement begins with. -/
theorem State.retirePanelNo_eq (view : View) :
    s.retirePanelNo view n (BitVec.ofNat 7 p).toNat = (s.wf (pgArrayDie n) R.ARRAY_DIE.RETIRE_CTL_PANEL p, p) := by
  have hno : (BitVec.ofNat 7 p).toNat = p := Nat.mod_eq_of_lt (by omega)
  have hmin : Nat.min p 67 = p := Nat.min_eq_left (by omega)
  unfold State.retirePanelNo
  dsimp only
  rw [hno, hmin, if_pos (by omega)]

end

end Sys2Proof.Machine
end

section
open Sys2Proof Sys2Proof.Machine Sys2Proof.Claims

/-- The second half of O19: the host retires a panel, at once or at its next gap, and reinstates it. -/
theorem Sys2Proof.Claims.hostRetiresAndReinstates : Claims.HostRetiresAndReinstates := by
  unfold Claims.HostRetiresAndReinstates
  intro s die panel hw
  have hn := die.isLt
  have hp := panel.isLt
  have hno : Notes (fun o => o = pgArrayDie die + 0x118) s (s.wf (pgArrayDie die) R.ARRAY_DIE.RETIRE_CTL_PANEL panel) := (Notes.refl _ s).wf rfl
  have hretire : exec (.retireCtlRetire .bar0 die (BitVec.ofNat 7 panel)) s = .next (_ : State) :=
    congrArg Host.Outcome.next (State.onWrite_writes hw)
  have hreinstate : exec (.retireCtlReinstate .bar0 die (BitVec.ofNat 7 panel)) s = .next (_ : State) :=
    congrArg Host.Outcome.next (State.onWrite_writes hw)
  rw [State.retirePanelNo_eq s hp] at hretire hreinstate
  dsimp only at hretire hreinstate
  generalize s.wf (pgArrayDie die) R.ARRAY_DIE.RETIRE_CTL_PANEL panel = t at *
  have hpage : ∀ q x, ¬pgPanel die q + x = pgArrayDie die + 0x118 := fun q x => by
    unfold pgPanel
    omega
  have hdies : Quiet OfDies s t := hno.quiet.mono fun _ h => OfArray.ofDies hn (.inl (by omega))
  have hbetween : t.betweenTasks (pgPanel die panel) = s.betweenTasks (pgPanel die panel) := by
    unfold State.betweenTasks
    rw [hno.tasks]
  have hloading : t.loadingPanel (pgPanel die panel) = s.loadingPanel (pgPanel die panel) := by
    unfold State.loadingPanel
    rw [hno.loads]
  have hretired := retired_same hno.regs (hpage panel oPAGE_STATUS)
  have hserves := servesLogical_same hno.regs (hpage panel 0x100)
  have hwrites := writes_same hno.regs (hpage panel 0x160) (hpage panel 0x164)
  refine ⟨fun hr hb hl => ⟨fun h0 hidle => ?_, fun x h0 hidle hx => ?_⟩, fun hr hb => ?_, fun hr hc hcontent hlimit => ?_⟩
  · rw [if_neg (by simp [hretired, hr]), if_pos (by simp [hbetween, hloading, hb, hl])] at hretire
    obtain ⟨hafter, hfive⟩ := t.retire_spare_spec hn hp (cause := 3) (by decide) (hserves.trans h0) (hno.castle die ▸ hidle)
    obtain ⟨hquiet, hshown, hcause, hint, hlogged⟩ := t.retired_after hn hp (by decide) hafter
    rw [hwrites] at hlogged
    have hall := hdies.step hquiet fun _ => OfArray.ofDies hn
    exact ⟨_, hretire, hshown, hfive, hcause, hint, hdies.logged_before hlogged, hall.bytes, hall.seals, hall.regs⟩
  · rw [if_neg (by simp [hretired, hr]), if_pos (by simp [hbetween, hloading, hb, hl])] at hretire
    have hspare : ∀ u : State, u.servesLogical (pgPanel die panel) < 64 → u.isSpare (pgPanel die panel) = false := fun u hu => by
      unfold State.isSpare
      rw [beq_eq_false_iff_ne.mpr (by omega : u.servesLogical (pgPanel die panel) ≠ 0xFF), Bool.and_false, Bool.false_and]
    have hchoose : t.chooseSpare die = s.chooseSpare die :=
      chooseSpare_same hno.regs (hspare s h0) (hspare t (hserves ▸ h0)) (fun q _ => ⟨hpage q _, hpage q _⟩) fun q => hpage q _
    obtain ⟨hafter, hfour, halias, hsource, hchosen, hlogical, hphase, hlogged⟩ := t.retire_serving_spec hn hp (cause := 3) (by decide)
      (hserves ▸ h0) ((hno.castle die).trans hidle) (hchoose.trans hx)
    obtain ⟨hquiet, hshown, hcause, -, -⟩ := t.retired_after hn hp (by decide) hafter
    rw [hserves] at halias hlogical hlogged
    rw [hno.hasCopy] at hphase
    have hall := hdies.step hquiet fun _ => OfArray.ofDies hn
    exact ⟨_, hretire, hshown, hfour, halias, hcause, hsource, hchosen, hlogical, hphase,
      hdies.logged_before hlogged, hall.bytes, hall.seals, hall.regs⟩
  · rw [if_neg (by simp [hretired, hr]), if_neg (by rcases hb with h | h <;> simp [hbetween, hloading, h])] at hretire
    refine ⟨_, hretire, ?_⟩
    have hpanel := t.panel_setPanel_self (pgPanel die panel) { t.panel (pgPanel die panel) with retireAs := some 3 }
    have hset := hno.quiet.aside (u := t.setPanel (pgPanel die panel) { t.panel (pgPanel die panel) with retireAs := some 3 }) rfl
    generalize t.setPanel (pgPanel die panel) { t.panel (pgPanel die panel) with retireAs := some 3 } = v at *
    have hop : Notes (fun o => o = pgArrayDie die + 0x118) v (v.wf (pgArrayDie die) R.ARRAY_DIE.RETIRE_CTL_OP 1) := (Notes.refl _ v).wf rfl
    have hall := hset.trans hop.quiet
    exact ⟨(hop.retireAs _).trans (congrArg Panel.retireAs hpanel), hall.regs, hall.bytes, hall.seals⟩
  · have hcause : t.rf (pgArrayDie die) R.ARRAY_DIE.PANEL_REC_CAUSE panel = 3 := by
      refine (rf_same hno.regs ?_).trans hc
      have hoff : R.ARRAY_DIE.PANEL_REC_CAUSE.addr (pgArrayDie die) panel = pgArrayDie die + (0x200 + 4 * panel) := Nat.add_assoc _ _ _
      omega
    have hlim : t.rf (pgArrayDie die) R.ARRAY_DIE.WEAR_LIMIT = s.rf (pgArrayDie die) R.ARRAY_DIE.WEAR_LIMIT :=
      rf_same hno.regs (Nat.ne_of_lt (Nat.add_lt_add_left (show 0x10C < 0x118 by decide) _))
    have hstate := content_same hno.regs (hpage panel 0x104)
    have hgo : (t.retired (pgPanel die panel) && t.rf (pgArrayDie die) R.ARRAY_DIE.PANEL_REC_CAUSE panel == 3 && t.content (pgPanel die panel) != 4 &&
        decide (t.writes (pgPanel die panel) < t.rf (pgArrayDie die) R.ARRAY_DIE.WEAR_LIMIT)) = true := by
      simp [hretired, hr, hcause, hstate, hcontent, hwrites, hlim, hlimit]
    rw [if_pos hgo] at hreinstate
    obtain ⟨hquiet, hclear, hempty, hfree, hnone, hlogged⟩ := t.reinstate_spec hn hp
    rw [hwrites] at hlogged
    have hall := hdies.step hquiet fun _ => OfArray.ofDies hn
    refine ⟨t.reinstate die panel, hreinstate, hclear, hempty, hfree, ?_, hnone, hdies.logged_before hlogged, hall.bytes, hall.seals, hall.regs⟩
    unfold State.isSpare
    rw [hclear, hfree, hempty]
    rfl

/-- Settles O19, from its two halves. -/
theorem Sys2Proof.Claims.panelRefreshAndRetirement : Obligations.PanelRefreshAndRetirement := ⟨panelAgesAndIsRefreshed, hostRetiresAndReinstates⟩

end

section
/-! PROOFS. The steps of a castling: its grant, its fill, and its remap (R143, R398). -/

namespace Sys2Proof.Machine

open Sys2Proof.Claims

/-! The grant of a fill (R143 step 4, R398). -/

/-- The registers of the MAINT page and the one that shows a die's castling. -/
def GrantRegs (n o : Nat) : Prop := InPage pgMaint o ∨ o = pgArrayDie n + 0x11C

theorem maint_lt_array {o n : Nat} (h : InPage pgMaint o) : o < pgArrayDie n := by
  unfold InPage pgMaint at h
  unfold pgArrayDie quadBase
  omega

/-- The image that a panel records lies beside the registers of grants and castlings. -/
theorem GrantRegs.not_image {n m x : Nat} (hx : x < 0x800) : ¬GrantRegs n (pgArrayDie m + (0x400 + x)) := by
  rintro (h | h)
  · have := maint_lt_array (n := m) h
    omega
  · unfold pgArrayDie quadBase at h
    omega

theorem GrantRegs.not_panel {n p x : Nat} : ¬GrantRegs n (pgPanel n p + x) := by
  rintro (h | h)
  · have := maint_lt_array (n := n) h
    unfold pgPanel at this
    omega
  · unfold pgPanel at h
    omega

/-- The grants replaced, and shown. -/
def State.withGrants (s : State) (gs : List Grant) : State := State.showGrants { s with grants := gs }

theorem State.withGrants_spec (s : State) (gs : List Grant) : let u := s.withGrants gs
    Quiet (InPage pgMaint) s u ∧ u.grants = gs ∧ u.panels = s.panels ∧ u.tasks = s.tasks ∧ u.loads = s.loads ∧ u.loadRuns = s.loadRuns ∧
      u.arrOrder = s.arrOrder ∧ u.castles = s.castles := by
  have h : Notes (InPage pgMaint) { s with grants := gs } (s.withGrants gs) := (Notes.refl _ _).wf ⟨by decide, by decide⟩
  have hregs : RegsOnly { s with grants := gs } (s.withGrants gs) := State.wf_regsOnly _ _ _ _ _
  refine ⟨Quiet.trans (t := { s with grants := gs }) (.of_ledger _ rfl) h.quiet, h.grants, hregs.panels, h.tasks, h.loads, h.loadRuns, h.arrOrder, ?_⟩
  exact congrArg (·.2.2.2.1) h.plans

section
variable {s : State} {cls n : Nat} {dies : List Nat}

theorem State.askGrant_granted {owner : Nat} (h : s.grants.find? (conflicts cls dies) = none) :
    s.askGrant cls dies owner = (s.withGrants (s.grants ++ [Grant.mk cls dies owner]), true) := by
  unfold State.askGrant
  rw [h]
  rfl

/-- A grant refused is counted, logged, and given as a cause. -/
theorem State.askGrant_refused {owner : Nat} (h : s.grants.find? (conflicts cls dies) ≠ none) : ∃ t, s.askGrant cls dies owner = (t, false) ∧
    Notes (fun o => InPage pgMaint o ∨ Reports o) s t ∧ t.rf pgMaint R.MAINT.BUSY_COUNT = up32 (s.rf pgMaint R.MAINT.BUSY_COUNT) ∧
      t.record.nextSeq = s.record.nextSeq + 1 := by
  obtain ⟨g, hg⟩ := Option.ne_none_iff_exists'.mp h
  unfold State.askGrant
  rw [hg]
  have hinc : Notes (fun o => InPage pgMaint o ∨ Reports o) s (s.inc pgMaint R.MAINT.BUSY_COUNT) := (Notes.refl _ s).inc (.inl ⟨by decide, by decide⟩)
  have hcount := s.rf_inc_self pgMaint R.MAINT.BUSY_COUNT 0 (by decide) (by decide)
  have hrecord := (s.inc_regsOnly pgMaint R.MAINT.BUSY_COUNT 0).record
  dsimp only
  generalize s.inc pgMaint R.MAINT.BUSY_COUNT = a at *
  have hlast : Notes (fun o => o = pgMaint + 0x108) a ((a.wf pgMaint R.MAINT.BUSY_LAST_CLASS cls).wf pgMaint R.MAINT.BUSY_LAST_HOLDER g.cls) :=
    ((Notes.refl (fun o => o = pgMaint + 0x108) a).wf rfl).wf rfl
  have hrecord' := ((a.wf_regsOnly pgMaint R.MAINT.BUSY_LAST_CLASS cls 0).trans (State.wf_regsOnly _ pgMaint R.MAINT.BUSY_LAST_HOLDER g.cls 0)).record
  generalize (a.wf pgMaint R.MAINT.BUSY_LAST_CLASS cls).wf pgMaint R.MAINT.BUSY_LAST_HOLDER g.cls = b at *
  obtain ⟨-, hseq, -, -, hregs⟩ := b.log_cause_spec (page := pgMaint) (b := 3) pgMaint 0x0A08 [cls, g.cls] (by decide) (by decide)
  refine ⟨_, rfl, ?_, ?_, hseq.trans (by rw [hrecord', hrecord])⟩
  · have hboth := hinc.trans (hlast.mono fun _ h => .inl (h ▸ ⟨by decide, by decide⟩))
    have hlog := hboth.log (page := pgMaint) (code := 0x0A08) (d := [cls, g.cls]) fun _ => .inr
    exact hlog.cause (b := 3) (.inl ⟨by decide, by decide⟩) fun _ => .inr
  · have hout : ¬(pgMaint + 0x104 = pgMaint + oINT_STATUS ∨ Reports (pgMaint + 0x104)) := by
      unfold Reports InPage
      decide
    exact (rf_same (f := R.MAINT.BUSY_COUNT) (i := 0) hregs hout).trans ((rf_same hlast.regs (by decide)).trans hcount)

end

/-- The load that fills the spare of a castling. -/
def State.fillLoad (s : State) (n : Nat) (c : Castle) : Load :=
  ⟨pgPanel n c.spare, .fill, (s.recorded (pgPanel n c.source)).1, (s.recorded (pgPanel n c.source)).2,
    (s.imageHead (s.recorded (pgPanel n c.source)).1).2.1, (s.imageHead (s.recorded (pgPanel n c.source)).1).1,
    (s.imageHead (s.recorded (pgPanel n c.source)).1).2.2, false, 0, 0, 8388608, [], true, []⟩

theorem State.startFill_eq (s : State) (n : Nat) (c : Castle) : s.startFill n c = s.startFull (s.fillLoad n c) := by
  delta State.startFill State.fillLoad
  with_reducible rfl

/-- A fill that has its grant starts on the spare, from the image that the source records. -/
theorem State.fillGranted_spec (s : State) {n : Nat} (hn : n < 8) (c : Castle) (hspare : c.spare < 68) (gs : List Grant) :
    let u := ((s.withGrants gs).setCastle n { c with phase := .filling }).startFill n c
    (u.castle n).phase = .filling ∧ (u.castle n).spare = c.spare ∧ u.grants = gs ∧ u.content (pgPanel n c.spare) = 1 ∧
      (∃ l ∈ u.loads, l.page = pgPanel n c.spare ∧ l.kind = .fill ∧ l.image = (s.recorded (pgPanel n c.source)).1) ∧
      SameBytes s u ∧ SameSeals s u := by
  obtain ⟨hgrant, hgs, -⟩ := s.withGrants_spec gs
  generalize s.withGrants gs = a at *
  obtain ⟨hset, hcastle, -, -, -, -, -, hgs', -⟩ := a.setCastle_spec n { c with phase := .filling }
  generalize a.setCastle n { c with phase := .filling } = b at *
  have hboth : Quiet (GrantRegs n) s b := (hgrant.mono fun _ => .inl).step hset fun _ => .inr
  have himage := recorded_same (page := pgPanel n c.source) hboth.regs fun _ => GrantRegs.not_image
  obtain ⟨hquiet, hcontent, -, -, hloads, hplans⟩ := b.startFull_spec hn hspare (l := b.fillLoad n c) rfl
  rw [← b.startFill_eq n c] at *
  generalize b.startFill n c = u at *
  have hthis : u.castle n = { c with phase := .filling } := (castle_of_plans hplans n).trans hcastle
  dsimp only
  rw [hthis]
  refine ⟨rfl, rfl, (plans_fields hplans).2.2.2.2.trans (hgs'.trans hgs), hcontent, ?_, fun a => (hquiet.bytes a).trans (hboth.bytes a),
    fun k => (hquiet.seals k).trans (hboth.seals k)⟩
  exact ⟨_, hloads ▸ List.mem_append_right _ List.mem_cons_self, rfl, rfl, congrArg Prod.fst himage⟩

/-! A fill that ends well (R143 step 5). -/

/-- The registers that the end of a fill writes. -/
def FillRegs (n p o : Nat) : Prop := CheckRegs o ∨ ImageRegs n p o ∨ ContentRegs n p o ∨ GrantRegs n o

theorem FillRegs.ofDies {n p o : Nat} (hn : n < 8) (hp : p < 68) (h : FillRegs n p o) : OfDies o ∨ InPage pgMaint o := by
  rcases h with h | h | h | h | h
  · exact .inl h.ofDies
  · exact .inl ((h.ofArray hp).ofDies hn)
  · exact .inl ((h.ofArray hp).ofDies hn)
  · exact .inr h
  · exact .inl (OfArray.ofDies hn (.inl (by omega)))

theorem DueRegs.not_fill {n p o : Nat} (hn : n < 8) (hp : p < 68) (h : DueRegs n p o) : ¬FillRegs n p o := by
  rintro (hr | hr | hr | hr)
  · exact DueRegs.not_refresh hn hp h (.inr (.inr (.inr (.inr hr))))
  · unfold DueRegs WriteRegs ImageRegs pgPanel at *
    omega
  · exact DueRegs.not_refresh hn hp h (.inl hr)
  · rcases h with (rfl | rfl) | rfl
    · exact GrantRegs.not_panel hr
    · exact GrantRegs.not_panel hr
    · rcases hr with hr | hr
      · have := maint_lt_array (n := n) hr
        omega
      · omega

/-- A load as the header of its image gives it. -/
def Load.headed (l : Load) (hd : Nat × Nat × Nat) : Load := { l with fmt := hd.2.1, tag := hd.1, tiles := hd.2.2 }

/-- A fill whose image has been read: its codes taken, and its image recorded. -/
def State.takeFill (s : State) (l : Load) : State := (s.takeCodes l).recordImage l.page l.image l.tile l.fmt

/-- A fill whose image has been read ends well. -/
def State.settleFill (s : State) (l : Load) : State := (s.takeFill l).settleLoad { l with scales := (s.takeFill l).imageScales l }

theorem State.endFill_good {s : State} {l : Load} (n : Nat) (c : Castle) (hr : rangeOk l.image 4096 = true) (hb : s.blockOk (l.image / 4096) = true)
    (hfmt : (s.imageHead l.image).2.1 = 1 ∨ (s.imageHead l.image).2.1 = 2) (htag : (s.imageHead l.image).1 ≠ 0)
    (hgood : s.firstBadBlock (l.headed (s.imageHead l.image)) = none) :
    s.endFill n c l .good = (((s.readBlock l.image 0x0110).readImage (l.headed (s.imageHead l.image))).settleFill
      (l.headed (s.imageHead l.image))).fillEnds n c := by
  unfold State.endFill
  extract_lets page h bare t hd l'
  have hread : Notes CheckRegs s t := s.readBlock_notes 0x0110 hr
  have hl : l' = l.headed (s.imageHead l.image) := by simp only [l', hd, hread.imageHead, Load.headed]
  have hbad : t.firstBadBlock l' = none := by rw [hread.firstBadBlock, hl, hgood]
  have hok : ¬((l'.fmt != 0x01 && l'.fmt != 0x02) || l'.tag == 0) = true := by
    rw [hl]
    rcases hfmt with h | h <;> simp [Load.headed, h, htag]
  rw [if_neg (by simp [hr]), hread.blockOk, if_neg (by simp [h, hb]), if_neg hok, hbad, ← hl]
  rfl

section
variable (s : State) {n p : Nat} (hn : n < 8) (hp : p < 68)
include hn hp

theorem State.settleFill_spec {l : Load} (hl : l.page = pgPanel n p) : let u := s.settleFill l
    Quiet (FillRegs n p) s u ∧ u.content (pgPanel n p) = 2 ∧ u.rf (pgPanel n p) R.PANEL.CONTENT_TAG = l.tag % 2 ^ 32 ∧
      (u.panel (pgPanel n p)).retireAs = (s.panel (pgPanel n p)).retireAs ∧ u.plans = s.plans := by
  obtain ⟨hledger, -, hplans, hretire⟩ := s.takeCodes_spec l
  have himage := (s.takeCodes l).recordImage_notes hn hp l.image l.tile l.fmt
  rw [← hl] at himage ⊢
  unfold State.settleFill State.takeFill
  generalize s.takeCodes l = t at *
  generalize t.recordImage l.page l.image l.tile l.fmt = v at *
  obtain ⟨hquiet, hcontent, htag, -, -, hretire', hplans'⟩ := v.settleLoad_spec hn hp (l := { l with scales := v.imageScales l }) hl
  refine ⟨((Quiet.of_ledger _ hledger).step himage.quiet fun _ h => .inr (.inl h)).step hquiet ?_, hcontent, htag,
    hretire'.trans ((himage.retireAs _).trans hretire), hplans'.trans (himage.plans.trans hplans)⟩
  rintro o (h | h)
  · exact .inr (.inr (.inl h))
  · exact .inr (.inl (.inr (.inr (.inr h))))

/-- A fill that ends well releases its grant, and the remap follows. -/
theorem State.fillEnds_spec {c : Castle} (hc : c.spare = p) (hdue : NoRetirementDue s n (pgPanel n p)) : let u := s.fillEnds n c
    Quiet (GrantRegs n) s u ∧ (u.castle n).phase = .remapping ∧ u.holds mFill n = false := by
  subst hc
  obtain ⟨hgrant, hgs, hpanels, -⟩ := s.withGrants_spec (s.grants.filter fun g => !(g.cls == mFill && g.owner == n))
  unfold State.fillEnds
  rw [show s.release mFill n = s.withGrants (s.grants.filter fun g => !(g.cls == mFill && g.owner == n)) from rfl]
  generalize s.withGrants (s.grants.filter fun g => !(g.cls == mFill && g.owner == n)) = a at *
  obtain ⟨hset, hcastle, hpanels', -, -, -, -, hgs', -⟩ := a.setCastle_spec n { c with phase := .remapping }
  generalize a.setCastle n { c with phase := .remapping } = u at *
  have hquiet : Quiet (GrantRegs n) s u := (hgrant.mono fun _ => .inl).step hset fun _ => .inr
  have hretire : (u.panel (pgPanel n c.spare)).retireAs = (s.panel (pgPanel n c.spare)).retireAs := by
    unfold State.panel
    rw [hpanels', hpanels]
  rw [State.dueRetirement_none hn hp (noRetirementDue_same hdue hretire hquiet.regs fun _ h hr => h.not_fill hn hp (.inr (.inr (.inr hr))))]
  dsimp only
  refine ⟨hquiet, congrArg Castle.phase hcastle, ?_⟩
  unfold State.holds
  rw [hgs', hgs, List.any_filter, List.any_eq_false]
  intro g _
  rw [Bool.not_and_self]
  exact Bool.false_ne_true

/-- A good fill of a castling's spare. -/
theorem State.endFill_good_spec {c : Castle} {l : Load} (hl : l.page = pgPanel n p) (hc : c.spare = p) (hr : rangeOk l.image 4096 = true)
    (hb : s.blockOk (l.image / 4096) = true) (hfmt : (s.imageHead l.image).2.1 = 1 ∨ (s.imageHead l.image).2.1 = 2) (htag : (s.imageHead l.image).1 ≠ 0)
    (hgood : s.firstBadBlock (l.headed (s.imageHead l.image)) = none) (hdue : NoRetirementDue s n (pgPanel n p)) : let u := s.endFill n c l .good
    Quiet (FillRegs n p) s u ∧ (u.castle n).phase = .remapping ∧ u.content (pgPanel n p) = 2 ∧
      u.rf (pgPanel n p) R.PANEL.CONTENT_TAG = (s.imageHead l.image).1 ∧ u.holds mFill n = false := by
  have hread := s.readBlock_notes 0x0110 hr
  have himage := State.readImage_notes ((hread.firstBadBlock _).trans hgood)
  rw [State.endFill_good n c hr hb hfmt htag hgood]
  generalize (s.readBlock l.image 0x0110).readImage (l.headed (s.imageHead l.image)) = t at *
  have hnotes := hread.trans himage
  obtain ⟨hsettle, hcontent, hshown, hretire, -⟩ := t.settleFill_spec hn hp (l := l.headed (s.imageHead l.image)) hl
  generalize t.settleFill (l.headed (s.imageHead l.image)) = v at *
  have hv : Quiet (FillRegs n p) s v := (hnotes.quiet.mono fun _ => .inl).trans hsettle
  obtain ⟨hend, hphase, hholds⟩ := v.fillEnds_spec hn hp hc
    (noRetirementDue_same hdue (hretire.trans (hnotes.retireAs _)) hv.regs fun _ h => h.not_fill hn hp)
  generalize v.fillEnds n c = u at *
  refine ⟨hv.step hend fun _ h => .inr (.inr (.inr h)), hphase, (content_same hend.regs GrantRegs.not_panel).trans hcontent, ?_, hholds⟩
  refine (rf_same (f := R.PANEL.CONTENT_TAG) (i := 0) hend.regs (GrantRegs.not_panel (x := 0x108))).trans (hshown.trans (Nat.mod_eq_of_lt ?_))
  have := leNat_lt (s.bytes l.image 4)
  rwa [State.bytes_length] at this

end

/-! The remap (R143 step 6). -/

/-- The spare of a castling takes its logical panel. -/
def State.giveSpare (s : State) (n : Nat) (c : Castle) : State :=
  (s.setAlias n c.logical c.spare).wf (pgPanel n c.spare) R.PANEL.PANEL_INFO_ALIAS c.logical

/-- The source of a castling serves no more. -/
def State.freeSource (s : State) (src : Nat) : State := (s.setContent src 5).wf src R.PANEL.PANEL_INFO_ALIAS 0xFF

/-- A panel's image forgotten. -/
def State.emptyPanel (s : State) (src : Nat) : State := s.setPanel src (s.panel src).emptied

/-- A castling counted, with the die's panels counted again and its cause. -/
def State.countRemap (s : State) (n : Nat) : State := ((s.inc (pgArrayDie n) R.ARRAY_DIE.CASTLE_COUNT).countDie n).cause (pgArrayDie n) 0

/-- What a remap leaves to the die: the event, the castled count of a load, and the next castling. -/
def State.endRemap (s : State) (n : Nat) (c : Castle) : State :=
  let d := pgArrayDie n
  let src := pgPanel n c.source
  let spare := pgPanel n c.spare
  let s := s.log d 0x0115 [c.spare, c.logical, s.rf spare R.PANEL.CONTENT_TAG]
  let s := s.whenSome (s.loaderOf src) fun s k => s.mapLoadRun k fun r => { r with castled := r.castled + 1 }
  let s := s.setCastle n { Castle.fresh with queue := c.queue }
  (((s.nextCastle (c.queue.length + 1) n).endLoads).dueRetirement spare).pumpArrays

theorem State.remap_eq (s : State) (n : Nat) (c : Castle) :
    s.remap n c = ((((s.giveSpare n c).freeSource (pgPanel n c.source)).emptyPanel (pgPanel n c.source)).countRemap n).endRemap n c := by
  delta State.remap State.giveSpare State.freeSource State.emptyPanel Panel.emptied State.countRemap State.endRemap
  with_reducible rfl

/-- The registers that the end of a remap writes. -/
def RemapRegs (n o : Nat) : Prop := o = pgArrayDie n + 0x120 ∨ o = pgArrayDie n + oINT_STATUS ∨ StatusRegs n o

theorem RemapRegs.ofArray {n o : Nat} (h : RemapRegs n o) : OfArray n o := by
  rcases h with h | h | h
  · exact .inl (by omega)
  · exact .inl (by unfold oINT_STATUS at h; omega)
  · exact (StatusRegs.after (p := 0) h).ofArray (by decide)

theorem RemapRegs.not_panel {n q x : Nat} (hn : n < 8) : ¬RemapRegs n (pgPanel n q + x) := by
  rintro (h | h | h)
  · unfold pgPanel at h
    omega
  · unfold pgPanel oINT_STATUS at h
    omega
  · exact StatusRegs.not_panel hn h

/-- The registers of a die beyond its castling count stay at a remap's end. -/
theorem RemapRegs.not_die {n x : Nat} (hn : n < 8) (hx : 0x120 < x) : ¬RemapRegs n (pgArrayDie n + x) := by
  rintro (h | h | h)
  · omega
  · unfold oINT_STATUS at h
    omega
  · exact StatusRegs.not_die hn (by omega) h

section
variable (s : State) {n : Nat} (hn : n < 8)
include hn

theorem State.countRemap_spec : let u := s.countRemap n
    Notes (RemapRegs n) s u ∧ u.rf (pgArrayDie n) R.ARRAY_DIE.CASTLE_COUNT = up32 (s.rf (pgArrayDie n) R.ARRAY_DIE.CASTLE_COUNT) ∧
      Caused u (pgArrayDie n) 0 := by
  have hinc : Notes (RemapRegs n) s (s.inc (pgArrayDie n) R.ARRAY_DIE.CASTLE_COUNT) := (Notes.refl _ s).inc (.inl rfl)
  have hcount := s.rf_inc_self (pgArrayDie n) R.ARRAY_DIE.CASTLE_COUNT 0 (by decide) (by decide)
  unfold State.countRemap
  generalize s.inc (pgArrayDie n) R.ARRAY_DIE.CASTLE_COUNT = a at *
  have hdie := (a.countDie_notes n).mono (Q := StatusRegs n) fun _ => .inl
  generalize a.countDie n = b at *
  have hcause : Notes (fun o => o = pgArrayDie n + oINT_STATUS ∨ StatusRegs n o) b (b.cause (pgArrayDie n) 0) :=
    (Notes.refl _ b).cause (.inl rfl) fun _ h => .inr (.inr (.inr h))
  have hboth := (hdie.mono fun _ => .inr).trans hcause
  refine ⟨hinc.trans (hboth.mono fun _ => .inr), ?_, b.caused_cause (x := 0) hn (by decide) (by decide)⟩
  refine (rf_same (f := R.ARRAY_DIE.CASTLE_COUNT) (i := 0) hboth.regs ?_).trans hcount
  rintro (h | h)
  · exact absurd h (Nat.ne_of_gt (Nat.add_lt_add_left (by decide) _))
  · exact StatusRegs.not_die hn (by decide) h

omit hn in
theorem State.nextCastle_none {k : Nat} (h : (s.castle n).queue = []) : State.nextCastle (k + 1) s n = s.setCastle n Castle.fresh := by
  unfold State.nextCastle
  dsimp only
  rw [h]

omit hn in
theorem State.endLoads_none (h : s.loadRuns = []) : s.endLoads = s := by
  unfold State.endLoads
  rw [h]
  rfl

theorem State.endRemap_spec {c : Castle} (hqueue : c.queue = []) (hloads : s.loadRuns = []) (horder : s.arrOrder = []) (hspare : c.spare < 68)
    (hdue : NoRetirementDue s n (pgPanel n c.spare)) : let u := s.endRemap n c
    Quiet (StatusRegs n) s u ∧ u.castle n = Castle.fresh ∧ Logged s u 0x0115 [c.spare, c.logical, s.rf (pgPanel n c.spare) R.PANEL.CONTENT_TAG] := by
  have hlog : Notes Reports s (s.log (pgArrayDie n) 0x0115 [c.spare, c.logical, s.rf (pgPanel n c.spare) R.PANEL.CONTENT_TAG]) :=
    (Notes.refl _ s).log fun _ => id
  have hlogged := fun u (h : Quiet (StatusRegs n) _ u) => (Quiet.of_ledger (fun _ => False) (rfl : s.ledger = s.ledger)).logged (page := pgArrayDie n)
    (code := 0x0115) (d := [c.spare, c.logical, s.rf (pgPanel n c.spare) R.PANEL.CONTENT_TAG]) h
  unfold State.endRemap
  dsimp only
  generalize s.log (pgArrayDie n) 0x0115 [c.spare, c.logical, s.rf (pgPanel n c.spare) R.PANEL.CONTENT_TAG] = v at *
  have hnone : v.loaderOf (pgPanel n c.source) = none := by
    unfold State.loaderOf
    rw [hlog.loadRuns, hloads]
    rfl
  have hskip := fun f : State → Nat → State => show v.whenSome none f = v from rfl
  rw [hnone, hskip, hqueue]
  obtain ⟨hset, hcastle, hpanels, -, -, hruns, horder', -⟩ := v.setCastle_spec n { Castle.fresh with queue := [] }
  generalize v.setCastle n { Castle.fresh with queue := [] } = w at *
  rw [List.length_nil, State.nextCastle_none w (by rw [hcastle])]
  obtain ⟨hset', hcastle', hpanels', -, -, hruns', horder'', -⟩ := w.setCastle_spec n Castle.fresh
  generalize w.setCastle n Castle.fresh = u at *
  have hend : Quiet (StatusRegs n) v u := (hset.mono fun _ h => .inr (.inl h)).step hset' fun _ h => .inr (.inl h)
  have hquiet : Quiet (StatusRegs n) s u := (hlog.quiet.mono fun _ h => .inr (.inr h)).trans hend
  have hretire : (u.panel (pgPanel n c.spare)).retireAs = (s.panel (pgPanel n c.spare)).retireAs := by
    rw [← hlog.retireAs]
    unfold State.panel
    rw [hpanels', hpanels]
  have hnot : ∀ o, DueRegs n c.spare o → ¬StatusRegs n o := by
    rintro o ((rfl | rfl) | rfl) h
    · exact StatusRegs.not_panel hn h
    · exact StatusRegs.not_panel hn h
    · rcases h with h | h | h
      · omega
      · omega
      · exact not_reports_array hn h
  rw [State.endLoads_none u (hruns'.trans (hruns.trans (hlog.loadRuns.trans hloads))),
    State.dueRetirement_none hn hspare (noRetirementDue_same hdue hretire hquiet.regs hnot),
    State.pumpArrays_none (horder''.trans (horder'.trans (hlog.arrOrder.trans horder)))]
  exact ⟨hquiet, hcastle', hlogged u hend⟩

/-- The registers of a logical panel's place: its entry of `ALIAS_MAP` and the panel's own `ALIAS`. -/
def PlaceRegs (n l p o : Nat) : Prop := o = pgArrayDie n + 0x140 + 4 * (l / 4) ∨ o = pgPanel n p + 0x100

/-- The registers that show a panel's content and the logical panel that it serves. -/
def SourceRegs (n p o : Nat) : Prop := ContentRegs n p o ∨ o = pgPanel n p + 0x100

omit hn in
theorem State.giveSpare_spec {c : Castle} (hl : c.logical < 64) (hspare : c.spare < 68) : let u := s.giveSpare n c
    Notes (PlaceRegs n c.logical c.spare) s u ∧ u.aliasOf n c.logical = c.spare ∧ u.servesLogical (pgPanel n c.spare) = c.logical := by
  have hname := s.setAlias_notes n c.logical c.spare
  have halias := s.aliasOf_setAlias n c.logical (v := c.spare) (by omega)
  unfold State.giveSpare
  generalize s.setAlias n c.logical c.spare = a at *
  have hserve : Notes (fun o => o = pgPanel n c.spare + 0x100) a (a.wf (pgPanel n c.spare) R.PANEL.PANEL_INFO_ALIAS c.logical) := (Notes.refl _ a).wf rfl
  refine ⟨(hname.mono fun _ => .inl).trans (hserve.mono fun _ => .inr), (aliasOf_same hserve.regs ?_).trans halias, ?_⟩
  · unfold pgPanel
    omega
  · exact (State.rf_wf_self _ _ _ _ _ (by decide) (by decide)).trans (Nat.mod_eq_of_lt (lt_trans hl (by decide)))

omit hn in
theorem State.freeSource_spec (p : Nat) : let u := s.freeSource (pgPanel n p)
    Notes (SourceRegs n p) s u ∧ u.content (pgPanel n p) = 5 ∧ u.servesLogical (pgPanel n p) = 0xFF := by
  have hset : Notes (SourceRegs n p) s (s.setContent (pgPanel n p) 5) := (Notes.refl _ s).wf (.inl (.inl rfl))
  have hcontent : (s.setContent (pgPanel n p) 5).content (pgPanel n p) = 5 := State.rf_wf_self _ _ _ _ _ (by decide) (by decide)
  unfold State.freeSource
  generalize s.setContent (pgPanel n p) 5 = a at *
  have hserve : Notes (fun o => o = pgPanel n p + 0x100) a (a.wf (pgPanel n p) R.PANEL.PANEL_INFO_ALIAS 0xFF) := (Notes.refl _ a).wf rfl
  exact ⟨hset.trans (hserve.mono fun _ => .inr), (content_same hserve.regs (Nat.ne_of_gt (Nat.add_lt_add_left (by decide) _))).trans hcontent,
    State.rf_wf_self _ _ _ _ _ (by decide) (by decide)⟩

omit hn in
theorem State.emptyPanel_spec {p q : Nat} (hne : q ≠ p) : let u := s.emptyPanel p
    u.ledger = s.ledger ∧ u.plans = s.plans ∧ u.panel q = s.panel q := ⟨rfl, rfl, State.panel_setPanel_other _ _ hne⟩

/-- A remap gives the logical panel to the spare, and retires the source. -/
theorem State.remap_spec {c : Castle} (hqueue : c.queue = []) (hl : c.logical < 64) (hspare : c.spare < 68) (hsource : c.source < 68)
    (hne : c.spare ≠ c.source) (hloads : s.loadRuns = []) (horder : s.arrOrder = []) (hdue : NoRetirementDue s n (pgPanel n c.spare)) :
    let u := s.remap n c
    Quiet (OfArray n) s u ∧ u.aliasOf n c.logical = c.spare ∧ u.servesLogical (pgPanel n c.spare) = c.logical ∧
      u.servesLogical (pgPanel n c.source) = 0xFF ∧ u.content (pgPanel n c.source) = 5 ∧ u.castle n = Castle.fresh ∧
      u.rf (pgArrayDie n) R.ARRAY_DIE.CASTLE_COUNT = up32 (s.rf (pgArrayDie n) R.ARRAY_DIE.CASTLE_COUNT) ∧ Caused u (pgArrayDie n) 0 ∧
      Logged s u 0x0115 [c.spare, c.logical, s.rf (pgPanel n c.spare) R.PANEL.CONTENT_TAG] := by
  have hpages : pgPanel n c.spare ≠ pgPanel n c.source := by
    unfold pgPanel
    omega
  obtain ⟨hgive, halias, hserves⟩ := s.giveSpare_spec (n := n) hl hspare
  rw [s.remap_eq]
  generalize s.giveSpare n c = a at *
  obtain ⟨hfree, hcontent, hnone⟩ := a.freeSource_spec (n := n) c.source
  generalize a.freeSource (pgPanel n c.source) = b at *
  obtain ⟨hledger, hplans, hpanel⟩ := b.emptyPanel_spec hpages
  generalize b.emptyPanel (pgPanel n c.source) = e at *
  obtain ⟨hcount, hcastles, hcaused⟩ := e.countRemap_spec hn
  generalize e.countRemap n = f at *
  have hbf : Quiet (RemapRegs n) b f := (Quiet.of_ledger _ hledger).trans hcount.quiet
  have haf : Quiet (fun o => SourceRegs n c.source o ∨ RemapRegs n o) a f := (hfree.quiet.mono fun _ => .inl).step hbf fun _ => .inr
  have hsf : Quiet (fun o => PlaceRegs n c.logical c.spare o ∨ SourceRegs n c.source o ∨ RemapRegs n o) s f :=
    (hgive.quiet.mono fun _ => .inl).step haf fun _ => .inr
  have hplans' := hcount.plans.trans (hplans.trans (hfree.plans.trans hgive.plans))
  obtain ⟨-, hruns, horder', -⟩ := plans_fields hplans'
  have hretire : (f.panel (pgPanel n c.spare)).retireAs = (s.panel (pgPanel n c.spare)).retireAs :=
    (hcount.retireAs _).trans ((congrArg Panel.retireAs hpanel).trans ((hfree.retireAs _).trans (hgive.retireAs _)))
  have hplace : ∀ x, x < 0x1000 → x ≠ 0x100 → ¬(PlaceRegs n c.logical c.spare (pgPanel n c.spare + x) ∨
      SourceRegs n c.source (pgPanel n c.spare + x) ∨ RemapRegs n (pgPanel n c.spare + x)) := by
    rintro x hx hx' (h | h | h)
    · unfold PlaceRegs pgPanel at h
      omega
    · unfold SourceRegs ContentRegs pgPanel at h
      omega
    · exact RemapRegs.not_panel hn h
  have hnot : ∀ o, DueRegs n c.spare o → ¬(PlaceRegs n c.logical c.spare o ∨ SourceRegs n c.source o ∨ RemapRegs n o) := by
    rintro o ((rfl | rfl) | rfl)
    · exact hplace _ (by decide) (by decide)
    · exact hplace _ (by decide) (by decide)
    · rintro (h | h | h | h | h | h | h)
      · unfold PlaceRegs pgPanel at h
        omega
      · unfold SourceRegs ContentRegs pgPanel at h
        omega
      · omega
      · unfold oINT_STATUS at h
        omega
      · omega
      · omega
      · exact not_reports_array hn h
  obtain ⟨hend, hcastle, hlogged⟩ := f.endRemap_spec hn hqueue (hruns.trans hloads) (horder'.trans horder) hspare
    (noRetirementDue_same hdue hretire hsf.regs hnot)
  rw [rf_same (page := pgPanel n c.spare) (f := R.PANEL.CONTENT_TAG) (i := 0) hsf.regs (hplace 0x108 (by decide) (by decide))] at hlogged
  generalize f.endRemap n c = u at *
  have hbu : Quiet (RemapRegs n) b u := hbf.step hend fun _ h => .inr (.inr h)
  have hau : Quiet (fun o => SourceRegs n c.source o ∨ RemapRegs n o) a u := haf.step hend fun _ h => .inr (.inr (.inr h))
  refine ⟨(hsf.mono ?_).step hend ?_, ?_, ?_, ?_, ?_, hcastle, ?_, hend.caused hcaused ?_, hsf.logged_before hlogged⟩
  · rintro o (h | h | h)
    · exact .inl (by unfold PlaceRegs pgPanel at h; omega)
    · exact .inl (by unfold SourceRegs ContentRegs pgPanel at h; omega)
    · exact h.ofArray
  · exact fun _ h => (StatusRegs.after (p := 0) h).ofArray (by decide)
  · have hoff : pgArrayDie n + 0x140 + 4 * (c.logical / 4) = pgArrayDie n + (0x140 + 4 * (c.logical / 4)) := Nat.add_assoc _ _ _
    refine (aliasOf_same hau.regs (not_or.mpr ⟨?_, hoff ▸ RemapRegs.not_die hn (by omega)⟩)).trans halias
    unfold SourceRegs ContentRegs pgPanel
    omega
  · refine (servesLogical_same hau.regs (not_or.mpr ⟨?_, RemapRegs.not_panel hn⟩)).trans hserves
    unfold SourceRegs ContentRegs pgPanel
    omega
  · exact (servesLogical_same hbu.regs (RemapRegs.not_panel hn)).trans hnone
  · exact (content_same hbu.regs (RemapRegs.not_panel hn)).trans hcontent
  · have hbefore : e.rf (pgArrayDie n) R.ARRAY_DIE.CASTLE_COUNT = s.rf (pgArrayDie n) R.ARRAY_DIE.CASTLE_COUNT := by
      have hse : Quiet (fun o => PlaceRegs n c.logical c.spare o ∨ SourceRegs n c.source o) s e :=
        ((hgive.quiet.mono fun _ => .inl).step hfree.quiet fun _ => .inr).aside hledger
      refine rf_same (f := R.ARRAY_DIE.CASTLE_COUNT) (i := 0) hse.regs (show ¬(PlaceRegs n c.logical c.spare (pgArrayDie n + 0x120) ∨
        SourceRegs n c.source (pgArrayDie n + 0x120)) from ?_)
      unfold PlaceRegs SourceRegs ContentRegs pgPanel
      omega
    rw [rf_same (f := R.ARRAY_DIE.CASTLE_COUNT) (i := 0) hend.regs (StatusRegs.not_die (x := 0x120) hn (by decide)), hcastles, hbefore]
  · rintro (h | h | h)
    · unfold oINT_STATUS at h
      omega
    · unfold oINT_STATUS at h
      omega
    · exact not_reports_array hn h

end

end Sys2Proof.Machine
end

section
open Sys2Proof Sys2Proof.Machine Sys2Proof.Claims

/-- Settles O20: the fill granted or refused, its end, and the remap. -/
theorem Sys2Proof.Claims.castlingGoesThroughItsSteps : Obligations.CastlingGoesThroughItsSteps := by
  unfold Obligations.CastlingGoesThroughItsSteps
  intro s n c hc
  have hn := n.isLt
  have hdies : ∀ o, OfArray n o → OfDies o := fun _ => OfArray.ofDies hn
  have hrequest : c.phase = .arbitrating → c.retryAt ≤ s.now → exec (.spareFillRequest n) s = .next
      (if (s.askGrant mFill [n] n).2 then ((s.askGrant mFill [n] n).1.setCastle n { c with phase := .filling }).startFill n c
        else (s.askGrant mFill [n] n).1.setCastle n { c with retryAt := s.now + 1024 }) := by
    intro hphase hretry
    change execSpareFillRequest n s = _
    unfold execSpareFillRequest
    rw [hc]
    dsimp only
    rw [if_pos (by simp [hphase, hretry])]
  refine ⟨fun hphase hretry hfree hspare => ?_, fun hphase hretry hbusy => ?_, fun l hfind hphase hspare hclk hmark hd hr hb hdue hfmt htag hgood => ?_,
    fun hphase hgap hqueue hl hspare hsource hne hloads horder hdue => ?_⟩
  · have hexec := hrequest hphase hretry
    rw [State.askGrant_granted hfree, if_pos rfl] at hexec
    obtain ⟨hfilling, hthis, hgrants, hcontent, hload, hbytes, hseals⟩ := s.fillGranted_spec hn c hspare (s.grants ++ [⟨mFill, [n], n⟩])
    refine ⟨_, hexec, hfilling, hthis, ?_, hcontent, hload, hbytes, hseals⟩
    unfold State.holds
    rw [hgrants]
    simp
  · obtain ⟨t, hask, hnotes, hcount, hseq⟩ := State.askGrant_refused (owner := n) hbusy
    have hexec := hrequest hphase hretry
    rw [hask, if_neg Bool.false_ne_true] at hexec
    obtain ⟨hset, hcastle, -, -, -, -, -, -, -, hrecord⟩ := t.setCastle_spec n { c with retryAt := s.now + 1024 }
    have hall : Quiet (fun _ => True) s _ := (hnotes.quiet.mono fun _ _ => trivial).step hset fun _ _ => trivial
    refine ⟨_, hexec, (congrArg Castle.phase hcastle).trans hphase, congrArg Castle.retryAt hcastle, ?_, (congrArg Rec.nextSeq hrecord).trans hseq,
      hall.bytes, hall.seals⟩
    refine (rf_same (f := R.MAINT.BUSY_COUNT) (i := 0) hset.regs ?_).trans hcount
    exact Nat.ne_of_lt (maint_lt_array (n := n) ⟨by decide, by decide⟩ |>.trans_le (Nat.le_add_right _ _))
  · have hpage : l.page = pgPanel n c.spare := by
      have := List.find?_some hfind
      simp only [Bool.and_eq_true, beq_iff_eq] at this
      exact this.1
    obtain ⟨hquiet, hremap, hcontent, hshown, hholds⟩ := s.endFill_good_spec hn hspare hpage (c := c) rfl hr hb hfmt htag hgood hdue
    refine ⟨_, ?_, hremap, hcontent, hshown, hholds, hquiet.bytes, hquiet.seals, (hquiet.mono fun _ => FillRegs.ofDies hn hspare).regs⟩
    change execSpareFillComplete n .good s = _
    unfold execSpareFillComplete State.onDie
    rw [hc]
    dsimp only
    rw [hfind]
    dsimp only
    rw [if_pos (by simp [hphase]), if_pos hclk, State.whenFree_unmarked _ hmark]
  · obtain ⟨hquiet, halias, hserves, hnone, hcontent, hcastle, hcount, hcaused, hlogged⟩ :=
      s.remap_spec hn hqueue hl hspare hsource hne hloads horder hdue
    refine ⟨_, ?_, halias, hserves, hnone, hcontent, congrArg Castle.phase hcastle, hcount, hcaused, hlogged, hquiet.bytes, hquiet.seals,
      (hquiet.mono hdies).regs⟩
    change execCastlingRemap n s = _
    unfold execCastlingRemap
    rw [hc]
    dsimp only
    rw [if_pos (by simp [hphase, hgap])]

end

section
/-! PROOFS. The loads of tasks: the arrival of their blocks, and their ends (R129, R132, R487). -/

namespace Sys2Proof.Machine

open Sys2Proof.Claims

theorem Notes.copy {P : Nat → Prop} {s t : State} (h : Notes P s t) (q : Nat) : (t.panel q).copy = (s.panel q).copy :=
  show (t.panel q).body.copy = (s.panel q).body.copy from congrArg Panel.copy (h.body q)

theorem Notes.erased {P : Nat → Prop} {s t : State} (h : Notes P s t) (q : Nat) : (t.panel q).erased = (s.panel q).erased :=
  show (t.panel q).body.erased = (s.panel q).body.erased from congrArg Panel.erased (h.body q)

/-! What the end of a panel's load leaves to its task. -/

theorem State.tryEndLoad_aside (s : State) (n : Nat) : (s.tryEndLoad n).ledger = s.ledger ∧ (s.tryEndLoad n).loads = s.loads := by
  unfold State.tryEndLoad
  repeat' split
  all_goals exact ⟨rfl, rfl⟩

theorem State.joinLoad_aside (s : State) (l : Load) (f : LoadRun → LoadRun) :
    (s.joinLoad l f).ledger = s.ledger ∧ (s.joinLoad l f).loads = s.loads := by
  unfold State.joinLoad
  split
  · obtain ⟨hledger, hloads⟩ := State.tryEndLoad_aside (s.mapLoadRun _ fun r => f { r with rows := r.rows + l.rows, pairs := r.pairs + l.pairs }) _
    exact ⟨hledger, hloads⟩
  · exact ⟨rfl, rfl⟩

theorem State.countWritten_aside (s : State) (l : Load) : (s.countWritten l).ledger = s.ledger ∧ (s.countWritten l).loads = s.loads ∧
    (s.countWritten l).panels = s.panels := by
  unfold State.countWritten
  split
  · exact ⟨rfl, rfl, rfl⟩
  · exact ⟨rfl, rfl, rfl⟩

/-! A block that arrives (R132 steps 3 and 4). -/

/-- A block that has been read and has passed its seal goes to the code copy or to the scales of its panel. -/
def State.useBlock (s : State) (l : Load) (a : Nat) (phys : LoadPhysics) : State :=
  let nt := l.tilesHere
  let i := l.next
  let p := s.panel l.page
  if i < 16 * nt then
    let b := s.bytes a 4096
    let l := { l with next := i + 1, changed := if l.diff then l.changed ++ changedPairs p (i % nt) (i / nt) b else l.changed }
    let s := s.setPanel l.page { p with copy := memPut p.copy (65536 * (i % nt) + 4096 * (i / nt)) b }
    if (i + 1) % nt == 0 then
      let x := s.writeGroup32 l (i / nt) phys
      match x.2.2 with
      | some f => x.1.loadFails x.2.1 f
      | none => x.1.setLoad x.2.1
    else s.setLoad l
  else
    let j := i - 16 * nt
    let l := { l with next := i + 1, scales := l.scales ++ s.scalesAt a (2048 * j) (Nat.min 2048 (512 * nt - 2048 * j)) }
    if l.next == l.blockCount then s.finishLoad l phys else s.setLoad l

section
variable {s : State} {l : Load} {a : Nat} (ha : l.blockAddr l.next = some a) (hf : faultIn a 4096 = none)
include ha hf

theorem State.arrive_good (hb : s.blockOk (a / 4096) = true) (phys : LoadPhysics) : s.arrive l phys = (s.readBlock a 0x0110).useBlock l a phys := by
  have hok : ((s.cacheUse (4096 * (a / 4096)) 4096).check [a / 4096] 0x0110).blockOk (a / 4096) = _ :=
    ((s.readBlock_notes 0x0110 (rangeOk_of_faultIn hf)).blockOk _).trans hb
  unfold State.arrive
  rw [ha]
  dsimp only
  rw [hf]
  dsimp only
  rw [hok, if_neg (by decide)]
  rfl

theorem State.arrive_badSeal (hb : s.blockOk (a / 4096) = false) (phys : LoadPhysics) : s.arrive l phys =
    ((s.readBlock a 0x0110).imageSealFail l.page (a / 4096)).loadStops l fun r => { r with badSeal := some (panelPhys l.page, a / 4096) } := by
  have hok : ((s.cacheUse (4096 * (a / 4096)) 4096).check [a / 4096] 0x0110).blockOk (a / 4096) = _ :=
    ((s.readBlock_notes 0x0110 (rangeOk_of_faultIn hf)).blockOk _).trans hb
  unfold State.arrive
  rw [ha]
  dsimp only
  rw [hf]
  dsimp only
  rw [hok, if_pos (by decide)]
  rfl

end

/-- The copy of a panel whose load ends keeps what the image gives. -/
def State.keepImage (s : State) (l : Load) : State :=
  s.setPanel l.page { s.panel l.page with copy := (s.panel l.page).copy.filter fun c => decide (c.1 < 65536 * l.tilesHere) }

theorem State.loadEnds_eq (s : State) (l : Load) : s.loadEnds l = ((s.keepImage l).settleLoad l).joinLoad l id := by
  delta State.loadEnds State.keepImage
  with_reducible rfl

section
variable (s : State) (l : Load) {n p : Nat} (hn : n < 8) (hp : p < 68) (hl : l.page = pgPanel n p)
include hn hp hl

/-- A count of a panel's writes, with what it brings. -/
theorem State.raiseWrites_notes : Notes (OfArray n) s (s.raiseWrites l.page) := by
  have hcount : Notes (OfArray n) s (s.inc64 (pgPanel n p) R.PANEL.WRITES_LO R.PANEL.WRITES_HI 1) :=
    (Notes.refl _ s).inc64 (WriteRegs.ofArray hp (.inl rfl)) (WriteRegs.ofArray hp (.inr rfl))
  rw [hl]
  exact hcount.trans ((s.raiseWrites_counted hn hp).mono fun _ => WearRegs.ofArray)

/-- Rows written change the load's own counts, and of the panel only what a counted write brings. -/
theorem State.writeGroup32_spec (j : Nat) : ∃ w l', s.writeGroup32 l j .good = (w, l', none) ∧ l'.page = l.page ∧ l'.next = l.next ∧
    Quiet (OfArray n) s w ∧ w.loads = s.loads ∧ (w.panel l.page).copy = (s.panel l.page).copy := by
  have hrows : (l.writeRows (s.panel l.page) (s.panelFmt l.page) j 32).page = l.page ∧
      (l.writeRows (s.panel l.page) (s.panelFmt l.page) j 32).next = l.next := by
    unfold Load.writeRows
    split
    · exact ⟨rfl, rfl⟩
    · exact ⟨rfl, rfl⟩
  unfold State.writeGroup32
  dsimp only
  generalize l.writeRows (s.panel l.page) (s.panelFmt l.page) j 32 = k at *
  obtain ⟨hpage, hnext⟩ := hrows
  unfold State.riseOnChange
  split
  · exact ⟨_, _, rfl, hpage, hnext, .of_ledger _ rfl, rfl, rfl⟩
  · have hrise := s.raiseWrites_notes l hn hp hl
    obtain ⟨hledger, hloads, hpanels⟩ := (s.raiseWrites k.page).countWritten_aside k
    rw [hpage] at *
    refine ⟨_, _, rfl, hpage, hnext, hrise.quiet.aside hledger, hloads.trans hrise.loads, ?_⟩
    exact (congrArg (fun ps => (aget ps l.page Panel.fresh).copy) hpanels).trans (hrise.copy _)

/-- A block of codes is in the code copy, and the load goes on behind it. -/
theorem State.useBlock_codes {a : Nat} (hi : l.next < 16 * l.tilesHere) : ∃ w l', s.useBlock l a .good = w.setLoad l' ∧ l'.page = l.page ∧
    l'.next = l.next + 1 ∧ Quiet (OfArray n) s w ∧ w.loads = s.loads ∧ (w.panel l.page).copy =
      memPut (s.panel l.page).copy (65536 * (l.next % l.tilesHere) + 4096 * (l.next / l.tilesHere)) (s.bytes a 4096) := by
  unfold State.useBlock
  extract_lets nt i q b k v x
  rw [if_pos hi]
  have hpage : k.page = l.page := rfl
  have hnext : k.next = l.next + 1 := rfl
  have hv : Quiet (OfArray n) s v := .of_ledger _ rfl
  have hloads : v.loads = s.loads := rfl
  have hcopy : (v.panel l.page).copy = memPut q.copy (65536 * (i % nt) + 4096 * (i / nt)) b := by
    rw [show v.panel l.page = { q with copy := memPut q.copy (65536 * (i % nt) + 4096 * (i / nt)) b } from s.panel_setPanel_self _ _]
  clear_value v k
  obtain ⟨w, l', hx, hp', hn', hw, hwl, hwc⟩ := v.writeGroup32_spec k hn hp (hpage.trans hl) (i / nt)
  rw [hpage] at hp' hwc
  split
  · refine ⟨w, l', ?_, hp', hn'.trans hnext, hv.trans hw, hwl.trans hloads, hwc.trans hcopy⟩
    rw [show x = (w, l', none) from hx]
  · exact ⟨v, k, rfl, hpage, hnext, hv, hloads, hcopy⟩

/-- A load that ends well leaves its panel valid, with the image's tag. -/
theorem State.loadEnds_spec : let u := s.loadEnds l
    Quiet (OfArray n) s u ∧ u.content l.page = 2 ∧ u.rf l.page R.PANEL.CONTENT_TAG = l.tag % 2 ^ 32 ∧ u.loads = s.otherLoads l.page := by
  have hledger : (s.keepImage l).ledger = s.ledger := rfl
  have hother : (s.keepImage l).otherLoads l.page = s.otherLoads l.page := rfl
  rw [s.loadEnds_eq]
  generalize s.keepImage l = v at *
  obtain ⟨hsettle, hcontent, htag, -, hloads, -, -⟩ := v.settleLoad_spec hn hp hl
  generalize v.settleLoad l = w at *
  obtain ⟨hledger', hloads'⟩ := w.joinLoad_aside l id
  generalize w.joinLoad l id = u at *
  have hsame : SameRegs w u fun _ => False := (Quiet.of_ledger _ hledger').regs
  refine ⟨((Quiet.of_ledger _ hledger).step hsettle ?_).aside hledger', (content_same hsame id).trans hcontent, (rf_same hsame id).trans htag,
    hloads'.trans (hloads.trans hother)⟩
  exact fun _ h => h.elim (fun h => h.ofArray hp) fun h => h.ofArray hp

omit hn hp hl in
/-- The last block of an image ends the load. -/
theorem State.useBlock_last {a : Nat} (hi : 16 * l.tilesHere ≤ l.next) (hlast : l.next + 1 = l.blockCount) :
    ∃ k : Load, s.useBlock l a .good = s.loadEnds k ∧ k.page = l.page ∧ k.tag = l.tag := by
  unfold State.useBlock
  rw [if_neg (Nat.not_lt.mpr hi)]
  extract_lets j k
  exact ⟨k, if_pos (show (k.next == k.blockCount) = true from beq_iff_eq.mpr hlast), rfl, rfl⟩

/-- A block that fails its seal leaves its panel invalid, and its load is over (R487). -/
theorem State.badSeal_spec {a : Nat} (hr : rangeOk a 4096 = true) (f : LoadRun → LoadRun) :
    let u := ((s.readBlock a 0x0110).imageSealFail l.page (a / 4096)).loadStops l f
    Quiet (fun o => OfArray n o ∨ CheckRegs o) s u ∧ u.content l.page = 0 ∧ u.rf l.page R.PANEL.CONTENT_TAG = 0 ∧ u.loads = s.otherLoads l.page ∧
      Logged s u 0x0110 [p, 4096 * (a / 4096)] ∧ Caused u l.page 1 := by
  have hread := s.readBlock_notes 0x0110 hr
  have hphys : panelPhys l.page = p := hl ▸ panelPhys_pgPanel hp
  have hother : ∀ u : State, (u.setLoad l).otherLoads (pgPanel n p) = u.otherLoads (pgPanel n p) := fun u => hl ▸ u.otherLoads_setLoad l
  unfold State.imageSealFail State.loadStops
  rw [hphys, hl]
  generalize s.readBlock a 0x0110 = t at *
  have herr : Notes (OfArray n) t (t.err (pgPanel n p) 0x0110 0) := (Notes.refl _ t).err (.inl (by unfold pgPanel oERR_COUNT; omega))
    (.inl (by unfold pgPanel oERR_LAST; omega))
  generalize t.err (pgPanel n p) 0x0110 0 = e at *
  have hlog : Notes (OfArray n) e (e.log (pgPanel n p) 0x0110 [p, 4096 * (a / 4096)]) := (Notes.refl _ e).log fun _ => .inr
  have hstart : Quiet (fun o => OfArray n o ∨ CheckRegs o) s e := (hread.quiet.mono fun _ => .inr).step herr.quiet fun _ => .inl
  have hlogged := fun u (h : Quiet (OfArray n) _ u) => hstart.logged (page := pgPanel n p) (code := 0x0110) (d := [p, 4096 * (a / 4096)]) h
  generalize e.log (pgPanel n p) 0x0110 [p, 4096 * (a / 4096)] = g at *
  have hcause := (g.cause_panel_notes (pgPanel n p) 1).mono (Q := OfArray n) fun o h => h.elim
    (fun h => .inl (by unfold pgPanel oINT_STATUS at h; omega)) .inr
  have hcaused := g.caused_panel (page := pgPanel n p) rfl hn hp (b := 1) (by decide)
  have hnotes := hread.loads.symm.trans (herr.loads.symm.trans (hlog.loads.symm.trans hcause.loads.symm))
  generalize g.cause (pgPanel n p) 1 = v at *
  obtain ⟨hinvalid, hcontent, htag, hloads, -⟩ := (v.setLoad l).invalidate_spec (n := n) (p := p)
  generalize (v.setLoad l).invalidate (pgPanel n p) = w at *
  have hvw : Quiet (ContentRegs n p) v w := Quiet.trans (t := v.setLoad l) (.of_ledger _ rfl) hinvalid
  obtain ⟨hdrop, hleft, -, -⟩ := w.dropLoad_spec hn hp
  generalize w.dropLoad (pgPanel n p) = x at *
  obtain ⟨hledger, hloads'⟩ := x.joinLoad_aside l f
  generalize x.joinLoad l f = u at *
  have hwu : Quiet (RecordReg n p) w u := hdrop.aside hledger
  have hvu : Quiet (fun o => ContentRegs n p o ∨ RecordReg n p o) v u := (hvw.mono fun _ => .inl).step hwu fun _ => .inr
  have hafter : Quiet (OfArray n) g u := hcause.quiet.step hvu fun _ h => h.elim (fun h => h.ofArray hp) fun h => h.ofArray hp
  refine ⟨hstart.step (hlog.quiet.trans hafter) fun _ => .inl, (content_same hwu.regs (RecordReg.not_panel hp)).trans hcontent,
    (rf_same (f := R.PANEL.CONTENT_TAG) (i := 0) hwu.regs (RecordReg.not_panel hp (x := 0x108))).trans htag, ?_, hlogged u hafter, hvu.caused hcaused ?_⟩
  · rw [hloads', hleft, State.otherLoads, hloads]
    refine (hother v).trans ?_
    unfold State.otherLoads
    rw [hnotes]
  · rintro (h | h)
    · unfold ContentRegs oINT_STATUS at h
      omega
    · exact RecordReg.not_panel hp h

end

end Sys2Proof.Machine
end

section
open Sys2Proof Sys2Proof.Machine Sys2Proof.Claims

/-- The second half of O18: a block of codes, the last block, and a block that fails its seal. -/
theorem Sys2Proof.Claims.loadBlockArrives : Claims.LoadBlockArrives := by
  unfold Claims.LoadBlockArrives
  intro s die panel l n a hclk hfind hkind ha hmark hf
  have hn := die.isLt
  have hp := panel.isLt
  have hl : l.page = pgPanel die panel := by simpa using List.find?_some hfind
  have hr := rangeOk_of_faultIn hf
  have hread := s.readBlock_notes 0x0110 hr
  have hexec : ∀ phys, exec (.loadBlockArrival die panel phys) s = .next (s.arrive l phys) := by
    intro phys
    change execLoadBlockArrival die panel phys s = _
    unfold execLoadBlockArrival State.onDie
    rw [hfind]
    dsimp only
    rw [hkind]
    dsimp only
    rw [if_pos hclk, ha, Option.getD_some, State.whenFree_unmarked _ hmark]
  have hdies : ∀ o, OfArray die o ∨ CheckRegs o → OfDies o := fun _ h => h.elim (OfArray.ofDies hn) CheckRegs.ofDies
  have hstart : Quiet (fun o => OfArray die o ∨ CheckRegs o) s (s.readBlock a 0x0110) := hread.quiet.mono fun _ => .inr
  have hothers : ∀ x ∈ s.otherLoads l.page, x.page ≠ pgPanel die panel := fun x hx => by
    have := (List.mem_filter.mp hx).2
    rw [← hl]
    simpa using this
  refine ⟨fun hb hi => ?_, fun hb hi hlast => ?_, fun hb phys => ?_⟩
  · obtain ⟨w, l', huse, hpage, hnext, hquiet, hloads, hcopy⟩ := (s.readBlock a 0x0110).useBlock_codes l hn hp hl (a := a) hi
    refine ⟨_, hexec .good, ?_⟩
    rw [State.arrive_good ha hf hb, huse]
    have hall := (hstart.step hquiet fun _ => .inl).aside (u := w.setLoad l') rfl
    refine ⟨fun i hlt => ?_, ⟨l', ?_, hpage.trans hl, hnext⟩, hall.bytes, hall.seals, (hall.mono hdies).regs⟩
    · change memByte (w.panel (pgPanel die panel)).copy _ = _
      rw [← hl, hcopy, memByte_memPut_same _ _ _ _ (by simpa using hlt)]
      refine Eq.trans ?_ (hread.quiet.bytes (a + i))
      simp only [State.bytes_eq, List.getElem_map, List.getElem_range]
    · refine List.mem_map.mpr ⟨l, ?_, if_pos (beq_iff_eq.mpr hpage.symm)⟩
      rw [hloads, hread.loads]
      exact List.mem_of_find?_eq_some hfind
  · obtain ⟨k, huse, hpage, htag⟩ := (s.readBlock a 0x0110).useBlock_last l (a := a) hi hlast
    obtain ⟨hquiet, hcontent, hshown, hloads⟩ := (s.readBlock a 0x0110).loadEnds_spec k hn hp (hpage.trans hl)
    refine ⟨_, hexec .good, ?_⟩
    rw [State.arrive_good ha hf hb, huse]
    rw [hpage] at hcontent hshown hloads
    rw [htag] at hshown
    have hall := hstart.step hquiet fun _ => .inl
    have hleft : (s.readBlock a 0x0110).otherLoads l.page = s.otherLoads l.page := by
      unfold State.otherLoads
      rw [hread.loads]
    exact ⟨hl ▸ hcontent, hl ▸ hshown, fun x hx => hothers x (hleft ▸ hloads ▸ hx), hall.bytes, hall.seals, (hall.mono hdies).regs⟩
  · have hspec := s.badSeal_spec l hn hp hl hr fun r => { r with badSeal := some (panelPhys l.page, a / 4096) }
    dsimp only at hspec
    rw [← State.arrive_badSeal ha hf hb phys] at hspec
    obtain ⟨hquiet, hcontent, htag, hloads, hlogged, hcaused⟩ := hspec
    rw [hl] at hcontent htag hcaused
    exact ⟨_, hexec phys, hcontent, htag, fun x hx => hothers x (hloads ▸ hx), hlogged, hcaused, hquiet.bytes, hquiet.seals, (hquiet.mono hdies).regs⟩

end

section
/-! PROOFS. ARRAY_LOAD: its dispatch, and its start on the panel of an entry (R120, R131, R132, R155, R158). -/

namespace Sys2Proof.Machine

open Sys2Proof.Claims

/-! An ARRAY_LOAD that is dispatched (R120, R132, R155, R158). -/

theorem dispatchable_task {s : State} {n : Nat} {types : List Nat} {t : Task} (h : s.dispatchable n types = some t) : s.task? n = some t ∧ t.seq = n := by
  unfold State.dispatchable at h
  split at h
  · rename_i u hu
    split at h
    · obtain rfl := Option.some.inj h
      exact ⟨hu, by simpa using List.find?_some hu⟩
    · simp at h
  · simp at h

theorem State.onArrayDies_clocked {s : State} {pl : Place} {k : State → State} (h : ∀ e ∈ pl.ents, s.clocked (pllArray (entryDie e)) = true) :
    s.onArrayDies pl k = .next (k s) := by
  have hnone : (pl.ents.map fun e => pllArray (entryDie e)).find? (fun b => !s.clocked b) = none := by
    rw [List.find?_eq_none]
    intro b hb
    obtain ⟨e, he, rfl⟩ := List.mem_map.mp hb
    simp [h e he]
  unfold State.onArrayDies
  rw [hnone]

/-- A descriptor that passes its checks names at most 512 entries (Table 6-4). -/
theorem Place.count_le_of_check {pl : Place} (h : pl.check = 0) : pl.count ≤ 512 := by
  by_contra hbig
  have hbad : (pl.count != pl.slabs * pl.groups || decide (pl.count < 1) || decide (512 < pl.count)) = true := by
    rw [decide_eq_true (Nat.lt_of_not_le hbig), Bool.or_true]
  unfold Place.check at h
  dsimp only at h
  split at h
  · exact absurd h (by decide)
  · split at h
    · exact absurd h (by decide)
    · exact absurd h (by decide)

/-- The entries of a descriptor that passes its checks are listed in full (Table 6-4). -/
theorem nth_ents_mem {b : List Byte} {e : Nat} (hc : (placeOf b).check = 0) (he : e < (placeOf b).count) : nth (placeOf b).ents e 0 ∈ (placeOf b).ents := by
  have hcount := Place.count_le_of_check hc
  have hlen : e < (placeOf b).ents.length := by
    change e < ((List.range (Nat.min (placeOf b).count 1008)).map _).length
    rw [List.length_map, List.length_range]
    exact Nat.lt_min.mpr ⟨he, by omega⟩
  unfold nth
  rw [List.getElem?_eq_getElem hlen]
  exact List.getElem_mem hlen

/-- The run of an ARRAY_LOAD of one entry before it starts. -/
def LoadRun.start (n : Nat) (place : List Byte) (img : Nat × Nat × Nat) (e : Nat) : LoadRun :=
  ⟨n, place, img, [e], false, none, false, none, 0, 0, 0, 0, 0⟩

/-- A task that is handed over to load one entry. -/
def State.enterLoad (s : State) (t : Task) (unit : Nat) (r : LoadRun) : State :=
  let s := s.handOver t .running unit [] 0
  { s with loadRuns := s.loadRuns ++ [r], arrOrder := s.arrOrder ++ [t.seq] }

/-- The placement descriptor and the image header of an ARRAY_LOAD read and checked. -/
def State.readHeads (s : State) (t : Task) : State := (s.readBlock (t.addr 32) 0).readBlock (t.addr 40 / 4096 * 4096) 0x0110

theorem State.readHeads_notes {s : State} {t : Task} (hp : faultIn (t.addr 32) 4096 = none) (hi : faultIn (t.addr 40 / 4096 * 4096) 4096 = none) :
    Notes CheckRegs s (s.readHeads t) :=
  (s.readBlock_notes 0 (rangeOk_of_faultIn hp)).trans (State.readBlock_notes _ 0x0110 (rangeOk_of_faultIn hi))

/-- Reads that are checked leave the place of every logical panel. -/
theorem entryAlias_same {s t : State} (h : SameRegs s t CheckRegs) (e : Nat) : t.entryAlias e = s.entryAlias e := by
  have hpanel : entryPanel e < 64 := by
    unfold entryPanel bitsOf
    omega
  refine aliasOf_same h ?_
  rw [Nat.add_assoc]
  exact CheckRegs.not_array (entryDie_lt e) (by omega)

section
variable {s : State} {t : Task}

theorem State.dispatchLoad_none (h : t.fld 62 2 % 1024 = 0) :
    s.dispatchLoad t = s.refuseLoad t (s.arrayUnit (t.addr 32) (t.fld 60 2)) stDone 0 0 [] := by
  unfold State.dispatchLoad
  rw [h]
  rfl

theorem State.dispatchLoad_one (hcount : t.fld 62 2 % 1024 = 1) (hplace : PlaceGood s t) (hfirst : t.fld 60 2 < (placed s t).count)
    (halias : s.entryAlias (nth (placed s t).ents (t.fld 60 2) 0) < 68) (hf : faultIn (t.addr 40 / 4096 * 4096) 4096 = none)
    (hb : s.blockOk (t.addr 40 / 4096) = true) (hfmt : (s.imageHead (t.addr 40 / 4096 * 4096)).2.1 = (placed s t).fmt)
    (htag : (s.imageHead (t.addr 40 / 4096 * 4096)).1 = t.fld 56 4) (hne : t.fld 56 4 ≠ 0) : ∃ tiles, s.dispatchLoad t =
      ((s.readHeads t).enterLoad t (s.arrayUnit (t.addr 32) (t.fld 60 2))
        (.start t.seq (s.bytes (t.addr 32) 4096) ((placed s t).fmt, t.fld 56 4, tiles) (t.fld 60 2))).startLoads t.seq := by
  obtain ⟨hfault, hok, hcheck⟩ := hplace
  unfold State.dispatchLoad
  extract_lets pa ia count first unit k place pl v c es live lost reader h w _ hd o r
  have hv : Notes CheckRegs s v := s.readBlock_notes 0 (rangeOk_of_faultIn hfault)
  have hw : Notes CheckRegs s w := State.readHeads_notes hfault hf
  have hes : es = [first] := by
    have : (List.range (Nat.min count 512)) = [0] := by rw [show count = 1 from hcount]; rfl
    simp only [es, this]
    exact List.filterMap_cons_some (if_pos hfirst)
  have hlive : live = [first] := by
    simp only [live, hes]
    refine List.filter_cons_of_pos ?_
    rw [entryAlias_same hv.regs]
    simp only [bne_iff_ne]
    exact Nat.ne_of_lt (lt_trans halias (by decide))
  have hlost : lost = false := by simp only [lost, hlive, hes, lt_irrefl, decide_false]
  have hhead : hd = s.imageHead ia := hw.imageHead ia
  have hgood : ¬(hd.2.1 != pl.fmt || hd.1 == 0 || hd.1 != t.fld 56 4) = true := by
    rw [hhead, hfmt, htag]
    simp [hne]
    rfl
  have hh : h = t.addr 40 / 4096 := Nat.mul_div_cancel _ (by decide)
  refine ⟨Nat.min hd.2.2 (2 ^ 24), ?_⟩
  rw [if_neg (by simp [count, hcount]), show faultIn pa 4096 = none from hfault]
  dsimp only
  rw [hv.blockOk, show s.blockOk k = true from hok, show c = 0 from hcheck, show faultIn ia 4096 = none from hf, if_neg (by decide), if_neg (by decide)]
  dsimp only
  rw [hw.blockOk, hh, hb, if_neg (by decide), if_neg hgood]
  have hrun : r = .start t.seq place (pl.fmt, t.fld 56 4, Nat.min hd.2.2 (2 ^ 24)) first := by
    simp only [r, hlive, hlost, LoadRun.start]
    rw [hhead, hfmt, htag]
    rfl
  rw [hrun]
  rfl

end

/-! A task's load of one panel starts (R109, R131, R132). -/

/-- The registers that show a panel's bank. -/
def BankRegs (n p o : Nat) : Prop := o = pgPanel n p + 0x114 ∨ o = pgPanel n p + 0x118

/-- The banks of a panel swap, and nothing of its content changes. -/
theorem State.swapBank_notes (s : State) (n p : Nat) : Notes (BankRegs n p) s (s.swapBank (pgPanel n p)) := by
  unfold State.swapBank
  dsimp only
  split
  · exact .refl _ s
  · rename_i x hx
    have hset := (Notes.refl (BankRegs n p) s).setPanel (page := pgPanel n p) (p := { s.panel (pgPanel n p) with bankT := some x, pendingT := none }) rfl
    generalize s.setPanel (pgPanel n p) { s.panel (pgPanel n p) with bankT := some x, pendingT := none } = v at *
    exact (((hset.wf (.inr rfl)).wf (.inr rfl)).wf (.inl rfl)).wf (.inl rfl)

/-- A load of a task as its dispatch gives it. -/
def taskLoad (t : Task) (r : LoadRun) (e page : Nat) (diff : Bool) : Load :=
  ⟨page, .task t.seq, t.addr 40 / 4096 * 4096, 32 * e, r.image.1, r.image.2.1, r.image.2.2, diff, 0, 0, 0, [], false, []⟩

/-- A load joins those in progress. -/
def State.addLoad (s : State) (l : Load) : State := { s with loads := s.loads ++ [l] }

theorem State.addLoad_aside (s : State) (l : Load) : (s.addLoad l).ledger = s.ledger ∧ (s.addLoad l).loads = s.loads ++ [l] ∧
    (s.addLoad l).tasks = s.tasks := ⟨rfl, rfl, rfl⟩

/-- A DIFF load starts: its panel is loading, and its image recorded. -/
def State.startDiff (s : State) (l : Load) : State :=
  ((s.setContent l.page 1).recordImage l.page l.image l.tile l.fmt).addLoad l

/-- A panel written counts in the record of its task. -/
def State.countStart (s : State) (n : Nat) : State := s.mapLoadRun n fun r => { r with written := r.written + 1 }

theorem State.countStart_aside (s : State) (n : Nat) : (s.countStart n).ledger = s.ledger ∧ (s.countStart n).loads = s.loads ∧
    (s.countStart n).tasks = s.tasks := ⟨rfl, rfl, rfl⟩

theorem State.startLoad_eq (s : State) (t : Task) (r : LoadRun) (e page : Nat) : s.startLoad t r e page =
    if t.fld 62 2 / 2 ^ 14 == 1 && ((s.holdPage t.seq page).swapBank page).diffActs page r.image.1 then
      ((s.holdPage t.seq page).swapBank page).startDiff (taskLoad t r e page
        (t.fld 62 2 / 2 ^ 14 == 1 && ((s.holdPage t.seq page).swapBank page).diffActs page r.image.1))
    else (((s.holdPage t.seq page).swapBank page).startFull (taskLoad t r e page
        (t.fld 62 2 / 2 ^ 14 == 1 && ((s.holdPage t.seq page).swapBank page).diffActs page r.image.1))).countStart t.seq := by
  delta State.startLoad State.countStart State.startDiff State.addLoad taskLoad
  with_reducible rfl

theorem BankRegs.ofArray {n p o : Nat} (hp : p < 68) (h : BankRegs n p o) : OfArray n o := by
  unfold BankRegs pgPanel at h
  exact .inl (by omega)

/-- Whether a DIFF load acts as one is settled by the content, the format and the erased arrays of its panel (R131). -/
theorem diffActs_same {P : Nat → Prop} {s t : State} {n p fmt : Nat} (hn : n < 8) (hp : p < 68) (h : SameRegs s t P)
    (he : (t.panel (pgPanel n p)).erased = (s.panel (pgPanel n p)).erased) (hc : ¬P (pgPanel n p + 0x104)) (hf : ¬P (pgArrayDie n + 0x200 + 4 * p)) :
    t.diffActs (pgPanel n p) fmt = s.diffActs (pgPanel n p) fmt := by
  unfold State.diffActs State.serves State.panelFmt
  rw [panelDie_pgPanel hn hp, panelPhys_pgPanel hp, content_same h hc, he, rf_same (f := R.ARRAY_DIE.PANEL_REC_FMT) h hf]

section
variable (s : State) {n p : Nat} (hn : n < 8) (hp : p < 68)
include hn hp

/-- A DIFF load that starts counts no write. -/
theorem State.startDiff_spec {l : Load} (hl : l.page = pgPanel n p) : let u := s.startDiff l
    Quiet (OfArray n) s u ∧ u.content (pgPanel n p) = 1 ∧ u.writes (pgPanel n p) = s.writes (pgPanel n p) ∧
      (l.image < 2 ^ 64 → l.tile < 2 ^ 24 → u.recorded (pgPanel n p) = (l.image, l.tile)) ∧ u.loads = s.loads ++ [l] ∧ u.tasks = s.tasks := by
  have hset : Notes (ContentRegs n p) s (s.setContent (pgPanel n p) 1) := (Notes.refl _ s).wf (.inl rfl)
  have hcontent : (s.setContent (pgPanel n p) 1).content (pgPanel n p) = 1 := State.rf_wf_self _ _ _ _ _ (by decide) (by decide)
  unfold State.startDiff
  rw [hl]
  generalize s.setContent (pgPanel n p) 1 = v at *
  have himage := v.recordImage_notes hn hp l.image l.tile l.fmt
  have hrecorded := fun hi ht => v.recorded_recordImage hn hp (image := l.image) (tile := l.tile) l.fmt hi ht
  generalize v.recordImage (pgPanel n p) l.image l.tile l.fmt = w at *
  have hother : ∀ x, x ≠ 0x104 → x ≠ 0x108 → x ≠ 0x10C → ¬ContentRegs n p (pgPanel n p + x) := fun x h1 h2 h3 => by
    unfold ContentRegs
    omega
  obtain ⟨hledger, hloads, htasks⟩ := w.addLoad_aside l
  generalize w.addLoad l = u at *
  have hsame : SameRegs w u fun _ => False := (Quiet.of_ledger _ hledger).regs
  refine ⟨?_, ?_, ?_, fun hi ht => (recorded_same hsame fun _ _ => id).trans (hrecorded hi ht), hloads.trans ?_,
    htasks.trans (himage.tasks.trans hset.tasks)⟩
  · exact ((hset.mono fun _ => ContentRegs.ofArray hp).trans (himage.mono fun _ => ImageRegs.ofArray hp)).quiet.aside hledger
  · exact (content_same hsame id).trans ((content_same himage.regs (ImageRegs.not_panel hp)).trans hcontent)
  · exact (writes_same hsame id id).trans ((writes_same himage.regs (ImageRegs.not_panel hp) (ImageRegs.not_panel hp)).trans
      (writes_same hset.regs (hother _ (by decide) (by decide) (by decide)) (hother _ (by decide) (by decide) (by decide))))
  · rw [himage.loads, hset.loads]

/-- A task's load that starts: its panel is loading, its image recorded, and a write counted unless it acts as DIFF. -/
theorem State.startLoad_spec (t : Task) (r : LoadRun) {e : Nat} (he : 32 * e < 2 ^ 24) : let u := s.startLoad t r e (pgPanel n p)
    Quiet (OfArray n) s u ∧ u.tasks = (s.holdPage t.seq (pgPanel n p)).tasks ∧ u.content (pgPanel n p) = 1 ∧
      u.recorded (pgPanel n p) = (t.addr 40 / 4096 * 4096, 32 * e) ∧ ∃ l ∈ u.loads, l.page = pgPanel n p ∧ l.kind = .task t.seq ∧ l.next = 0 ∧
        l.tag = r.image.2.1 ∧ l.diff = (t.fld 62 2 / 2 ^ 14 == 1 && s.diffActs (pgPanel n p) r.image.1) ∧
        u.writes (pgPanel n p) = if l.diff = true then s.writes (pgPanel n p) else Nat.min (s.writes (pgPanel n p) + 1) (2 ^ 64 - 1) := by
  rw [s.startLoad_eq]
  have hheld : (s.holdPage t.seq (pgPanel n p)).ledger = s.ledger ∧ (s.holdPage t.seq (pgPanel n p)).panels = s.panels ∧
      (s.holdPage t.seq (pgPanel n p)).loads = s.loads := ⟨rfl, rfl, rfl⟩
  generalize s.holdPage t.seq (pgPanel n p) = a at *
  obtain ⟨hledger, hpanels, hloads⟩ := hheld
  have hswap := a.swapBank_notes n p
  generalize a.swapBank (pgPanel n p) = b at *
  have hab : Quiet (BankRegs n p) s b := (Quiet.of_ledger _ hledger).trans hswap.quiet
  have hacts : b.diffActs (pgPanel n p) r.image.1 = s.diffActs (pgPanel n p) r.image.1 := by
    refine diffActs_same hn hp hab.regs ?_ ?_ ?_
    · refine (hswap.erased (pgPanel n p)).trans ?_
      unfold State.panel
      rw [hpanels]
    · unfold BankRegs
      omega
    · unfold BankRegs pgPanel
      omega
  have hwrites : b.writes (pgPanel n p) = s.writes (pgPanel n p) := by
    refine writes_same hab.regs ?_ ?_
    all_goals
      unfold BankRegs
      omega
  rw [hacts]
  have himage : t.addr 40 / 4096 * 4096 < 2 ^ 64 := by
    have : t.addr 40 < 2 ^ 52 := Nat.mod_lt _ (Nat.two_pow_pos _)
    omega
  generalize (t.fld 62 2 / 2 ^ 14 == 1 && s.diffActs (pgPanel n p) r.image.1) = d
  cases d with
  | true =>
    rw [if_pos rfl]
    obtain ⟨hquiet, hcontent, hcount, hrecorded, hloads', htasks⟩ := b.startDiff_spec hn hp (l := taskLoad t r e (pgPanel n p) true) rfl
    generalize b.startDiff (taskLoad t r e (pgPanel n p) true) = u at *
    exact ⟨(hab.mono fun _ => BankRegs.ofArray hp).trans hquiet, htasks.trans hswap.tasks, hcontent, hrecorded himage he,
      taskLoad t r e (pgPanel n p) true, hloads' ▸ List.mem_append_right _ List.mem_cons_self, rfl, rfl, rfl, rfl, rfl,
      (hcount.trans hwrites).trans (if_pos rfl).symm⟩
  | false =>
    rw [if_neg Bool.false_ne_true]
    obtain ⟨hquiet, hcontent, hcount, hrecorded, hloads', hplans⟩ := b.startFull_spec hn hp (l := taskLoad t r e (pgPanel n p) false) rfl
    generalize b.startFull (taskLoad t r e (pgPanel n p) false) = v at *
    obtain ⟨hledger', hloads'', htasks⟩ := v.countStart_aside t.seq
    generalize v.countStart t.seq = u at *
    have hsame : SameRegs v u fun _ => False := (Quiet.of_ledger _ hledger').regs
    refine ⟨((hab.mono fun _ => BankRegs.ofArray hp).trans hquiet).aside hledger', htasks.trans ((plans_fields hplans).1.trans hswap.tasks),
      (content_same hsame id).trans hcontent, (recorded_same hsame fun _ _ => id).trans (hrecorded himage he),
      { taskLoad t r e (pgPanel n p) false with rose := true },
      hloads'' ▸ hloads' ▸ List.mem_append_right _ List.mem_cons_self, rfl, rfl, rfl, rfl, rfl, ?_⟩
    exact ((writes_same hsame id id).trans (hwrites ▸ hcount)).trans (if_neg Bool.false_ne_true).symm

end

/-! The start of a load on the panel of its one entry (R158). -/

theorem State.task?_holdPage {s : State} {n : Nat} {t : Task} (h : s.task? n = some t) (page : Nat) :
    (s.holdPage n page).task? n = some { t with pages := t.pages ++ [page] } := by
  have hcomp : ((fun u : Task => u.seq == n) ∘ fun u => if u.seq == n then { u with pages := u.pages ++ [page] } else u) = fun u => u.seq == n := by
    funext u
    dsimp only [Function.comp]
    split <;> rfl
  have hseq : (t.seq == n) = true := List.find?_some (p := fun u : Task => u.seq == n) h
  unfold State.task? State.holdPage at *
  dsimp only
  rw [List.find?_map, hcomp, h, Option.map_some, if_pos hseq]

theorem Notes.task? {P : Nat → Prop} {s t : State} (h : Notes P s t) {n : Nat} : t.task? n = s.task? n := by
  unfold State.task?
  rw [h.tasks]

/-- A panel that is free stays free when tasks let their pages go. -/
theorem panelFree_of {s t : State} {page : Nat} (h : s.panelFree page = true) (hdies : t.dieCals = s.dieCals)
    (hctl : t.reg (page + oPAGE_CTL) = s.reg (page + oPAGE_CTL)) (hloads : t.loads = s.loads)
    (htasks : ∀ u ∈ t.tasks, u.pages = [] ∨ u ∈ s.tasks) : t.panelFree page = true := by
  unfold State.panelFree at h ⊢
  simp only [Bool.and_eq_true] at h ⊢
  obtain ⟨⟨⟨hready, haccepts⟩, hbetween⟩, hloading⟩ := h
  refine ⟨⟨⟨?_, ?_⟩, ?_⟩, ?_⟩
  · unfold State.dieReady at hready ⊢
    rwa [hdies]
  · unfold State.accepts State.hdr at haccepts ⊢
    rwa [hctl]
  · unfold State.betweenTasks at hbetween ⊢
    simp only [Bool.not_eq_true', List.any_eq_false] at hbetween ⊢
    intro u hu
    rcases htasks u hu with hp | hs
    · simp [hp]
    · exact hbetween u hs
  · unfold State.loadingPanel at hloading ⊢
    rwa [hloads]

/-- An entry is taken from those that a load has still to start on. -/
def State.takeEntry (s : State) (n e : Nat) : State := s.mapLoadRun n fun r => { r with todo := r.todo.filter (· != e) }

theorem State.takeEntry_aside (s : State) (n e : Nat) : (s.takeEntry n e).ledger = s.ledger ∧ (s.takeEntry n e).panels = s.panels ∧
    (s.takeEntry n e).tasks = s.tasks := ⟨rfl, rfl, rfl⟩

/-- A load goes on while it writes a panel. -/
theorem State.tryEndLoad_loading {s : State} {n : Nat} (h : ∃ l ∈ s.loads, l.kind = .task n) : s.tryEndLoad n = s := by
  have hany : (s.loads.any fun l => l.kind == .task n) = true := by
    obtain ⟨l, hl, hk⟩ := h
    exact List.any_eq_true.mpr ⟨l, hl, by simp [hk]⟩
  unfold State.tryEndLoad
  split
  · rw [if_pos (by simp only [hany, Bool.or_true, Bool.true_or])]
  · rfl

theorem State.startLoads_one {s : State} {n e w page : Nat} {t : Task} {r : LoadRun} (htask : s.task? n = some t) (hrun : s.loadRun? n = some r)
    (htodo : r.todo = [e]) (hw : nth (placeOf r.place).ents e 0 = w) (hmay : s.mayStart n w = true) (halias : (s.takeEntry n e).entryAlias w ≠ 0xFF)
    (hpage : (s.takeEntry n e).entryPage w = page) : s.startLoads n = ((s.takeEntry n e).startLoad t r e page).tryEndLoad n := by
  unfold State.startLoads
  rw [hrun]
  dsimp only
  rw [htodo, List.foldl_cons, List.foldl_nil]
  unfold State.tryLoad
  rw [htask, hrun]
  dsimp only
  rw [htodo, hw, hmay, if_pos (by simp), ← hpage]
  exact congrArg (State.tryEndLoad · n) (if_neg (show ¬((s.takeEntry n e).entryAlias w == 0xFF) = true by simpa using halias))

/-- A task handed over, before its dispatch is counted. -/
def Task.handed (t : Task) (now : Nat) (phase : Phase) (unit : Nat) (pages : List Nat) (target : Nat) : Task :=
  { t with phase := phase, unit := unit, pages := pages, target := target, startAt := now }

theorem State.handOver_spec (s : State) (t : Task) (phase : Phase) (unit : Nat) (pages : List Nat) (target : Nat) :
    let u := s.handOver t phase unit pages target
    Notes Dispatched (s.setTask (t.handed s.now phase unit pages target)) u ∧ RegsOnly (s.setTask (t.handed s.now phase unit pages target)) u :=
  ⟨(Notes.refl Dispatched _).inc64 (.inl rfl) (.inr rfl), (State.wf_regsOnly _ _ _ _ _).trans (State.wf_regsOnly _ _ _ _ _)⟩

/-- A task handed over to a load: running, with no page, and the last in the order. -/
theorem State.enterLoad_spec {s : State} {n : Nat} {t : Task} (htask : s.task? n = some t) (hseq : t.seq = n) (unit : Nat) (r : LoadRun) :
    let u := s.enterLoad t unit r
    Quiet Dispatched s u ∧ u.panels = s.panels ∧ u.loads = s.loads ∧ u.dieCals = s.dieCals ∧ u.loadRuns = s.loadRuns ++ [r] ∧
      u.arrOrder = s.arrOrder ++ [n] ∧ (∀ v ∈ u.tasks, v.pages = [] ∨ v ∈ s.tasks) ∧
      u.task? n = some (t.handed s.now .running unit [] 0) := by
  obtain ⟨hnotes, honly⟩ := s.handOver_spec t .running unit [] 0
  have hquiet : Quiet Dispatched s (s.handOver t .running unit [] 0) :=
    Quiet.trans (t := s.setTask (t.handed s.now .running unit [] 0)) (.of_ledger _ rfl) hnotes.quiet
  have htask' := State.task?_setTask htask (t' := t.handed s.now .running unit [] 0) rfl
  have hpages : ∀ v ∈ (s.setTask (t.handed s.now .running unit [] 0)).tasks, v.pages = [] ∨ v ∈ s.tasks := by
    intro v hv
    obtain ⟨u, hu, rfl⟩ := List.mem_map.mp hv
    split
    · exact .inl rfl
    · exact .inr hu
  unfold State.enterLoad
  generalize s.handOver t .running unit [] 0 = v at *
  obtain ⟨regs, rfl⟩ := honly
  exact ⟨hquiet.aside rfl, rfl, rfl, rfl, rfl, congrArg (s.arrOrder ++ [·]) hseq, hpages, htask'⟩

/-- A load of no entries is done at once. -/
theorem State.dispatchLoad_none_spec {s : State} {n : Nat} {t : Task} (htask : s.task? n = some t) (h : t.fld 62 2 % 1024 = 0) :
    let u := s.dispatchLoad t
    Finished u n stDone 0 ∧ Quiet Dispatched s u := by
  rw [State.dispatchLoad_none h]
  unfold State.refuseLoad State.refuseTask
  dsimp only
  rw [if_pos (beq_self_eq_true 0)]
  generalize hk : ({ t with post := t.post ++ loadPost t ⟨t.seq, [], (0, 0, 0), [], false, none, false, none, 0, 0, 0, 0, 0⟩ 0 } : Task) = k
  have hseq : k.seq = t.seq := hk ▸ rfl
  obtain ⟨hnotes, honly⟩ := s.handOver_spec k (.finished stDone 0 0 0) (s.arrayUnit (t.addr 32) (t.fld 60 2)) [] t.target
  refine ⟨⟨k.handed s.now (.finished stDone 0 0 0) (s.arrayUnit (t.addr 32) (t.fld 60 2)) [] t.target, 0, 0, ?_, rfl⟩,
    Quiet.trans (t := s.setTask _) (.of_ledger _ rfl) hnotes.quiet⟩
  unfold State.task?
  rw [honly.tasks]
  exact State.task?_setTask htask hseq

/-- A field of two bytes gives a first tile that `TILE_BASE` holds. -/
theorem Task.tile_lt (t : Task) (o : Nat) : 32 * t.fld o 2 < 2 ^ 24 := by
  have hlt : t.fld o 2 < 256 ^ 2 := lt_of_lt_of_le (leNat_lt _) (Nat.pow_le_pow_right (by decide) (List.length_take_le _ _))
  omega

theorem Dispatched.ofDies {o : Nat} (h : Dispatched o) : OfDies o :=
  .inr (.inl (by rcases h with rfl | rfl <;> exact ⟨by decide, by decide⟩))

/-- The registers that an ARRAY_LOAD writes before it starts on a panel. -/
def HeadRegs (o : Nat) : Prop := CheckRegs o ∨ Dispatched o

theorem HeadRegs.ofDies {o : Nat} (h : HeadRegs o) : OfDies o := h.elim CheckRegs.ofDies Dispatched.ofDies

theorem HeadRegs.not_array {n x : Nat} (hn : n < 8) (hx : x < 0x80000) : ¬HeadRegs (pgArrayDie n + x) := by
  rintro (h | h)
  · exact CheckRegs.not_array hn hx h
  · unfold Dispatched pgSched at h
    have h1 : R.GRAPH_SCHED.DISPATCH_LO.off = 0x128 := rfl
    have h2 : R.GRAPH_SCHED.DISPATCH_HI.off = 0x12C := rfl
    have := arrayDie_bounds hn
    omega

theorem HeadRegs.not_panel {n p x : Nat} (hn : n < 8) (hp : p < 68) (hx : x < 0x1000) : ¬HeadRegs (pgPanel n p + x) := by
  unfold pgPanel
  rw [Nat.add_assoc]
  exact HeadRegs.not_array hn (by omega)

/-- The clocks of the dies stay while an ARRAY_LOAD is dispatched. -/
theorem clocked_same {s t : State} (h : SameRegs s t HeadRegs) (b : Nat) : t.clocked b = s.clocked b := by
  have hlow : ∀ o, o < 0x3000 → ¬HeadRegs o := by
    rintro o ho ((h | h) | h)
    · obtain ⟨m, -, hm, -⟩ := h
      unfold pgSeal pgMemDie quadBase at hm
      omega
    · unfold Reports InPage pgRecord pgIntroute at h
      omega
    · unfold Dispatched pgSched at h
      omega
  unfold State.clocked
  rw [rf_same (f := R.DEVICE.DEV_STATE_STATE) (page := pgDevice) (i := 0) h (hlow _ (by decide)),
    h _ (hlow (pgClock + R.CLOCK.PLL_LOCK_REFCLK.off) (by decide))]

section
variable {s : State} {n : Nat} {t : Task} (htask : s.task? n = some t) (hseq : t.seq = n) (horder : s.arrOrder = []) (hruns : s.loadRun? n = none)
include htask hseq horder hruns

omit horder hruns in
/-- What handing a load over leaves of a state whose blocks have been read. -/
theorem State.enterLoad_taken {a : State} (ha : Notes CheckRegs s a) (unit e : Nat) (r : LoadRun) : let v := (a.enterLoad t unit r).takeEntry n e
    Quiet HeadRegs s v ∧ v.task? n = some (t.handed s.now .running unit [] 0) ∧ ∀ q, (v.panel q).erased = (s.panel q).erased := by
  obtain ⟨hquiet, hpanels, -, -, -, -, -, htask'⟩ := State.enterLoad_spec (ha.task?.trans htask) hseq unit r
  generalize a.enterLoad t unit r = q at *
  obtain ⟨hledger, hpanels', htasks⟩ := q.takeEntry_aside n e
  refine ⟨((ha.quiet.mono fun _ => .inl).step hquiet fun _ => .inr).aside hledger, ?_, fun x => ?_⟩
  · rw [← ha.now]
    unfold State.task? at htask' ⊢
    rwa [htasks]
  · refine Eq.trans ?_ (ha.erased x)
    unfold State.panel
    rw [hpanels', hpanels]

/-- The run of a load that has been handed over, on the first panel of its only entry. -/
theorem State.enterLoad_starts {a : State} (ha : Notes CheckRegs s a) (unit e : Nat) (r : LoadRun) (hr : r.task = n) (htodo : r.todo = [e]) {w : Nat}
    (hw : nth (placeOf r.place).ents e 0 = w) (halias : s.entryAlias w < 68) (hfree : s.panelFree (s.entryPage w) = true)
    (hclk : s.clocked (pllArray (entryDie w)) = true) :
    (a.enterLoad t unit r).startLoads n = State.tryEndLoad (((a.enterLoad t unit r).takeEntry n e).startLoad (t.handed s.now .running unit [] 0) r e
      (s.entryPage w)) n := by
  obtain ⟨hquiet, hpanels, hloads, hcals, hlist, hlast, hpages, htask'⟩ := State.enterLoad_spec (ha.task?.trans htask) hseq unit r
  generalize a.enterLoad t unit r = q at *
  rw [ha.now] at htask'
  have hsq : Quiet HeadRegs s q := (ha.quiet.mono fun _ => .inl).step hquiet fun _ => .inr
  have hplace : ∀ u : State, SameRegs s u HeadRegs → u.entryAlias w = s.entryAlias w := fun u hu => aliasOf_same hu (by
    have : entryPanel w < 64 := by
      unfold entryPanel bitsOf
      omega
    rw [Nat.add_assoc]
    exact HeadRegs.not_array (entryDie_lt w) (by omega))
  have hpage : ∀ u : State, SameRegs s u HeadRegs → u.entryPage w = s.entryPage w := fun u hu => congrArg (pgPanel (entryDie w)) (hplace u hu)
  have htaken : SameRegs s (q.takeEntry n e) HeadRegs := (hsq.aside (q.takeEntry_aside n e).1).regs
  have hcals' : a.dieCals = s.dieCals := by
    obtain ⟨_, _, _, _, _, _, _, rfl⟩ := ha.frame
    rfl
  have hgap : q.panelFree (s.entryPage w) = true := by
    refine panelFree_of hfree (hcals.trans hcals') (hsq.regs _ ?_) (hloads.trans ha.loads) (ha.tasks ▸ hpages)
    exact HeadRegs.not_panel (entryDie_lt w) halias (by decide)
  have hmay : q.mayStart n w = true := by
    have hfirst : q.arrOrder.takeWhile (fun m => m != n) = [] := by
      rw [hlast, ha.arrOrder, horder]
      simp
    unfold State.mayStart
    rw [hfirst, hplace q hsq.regs, hpage q hsq.regs, hgap, clocked_same hsq.regs, hclk]
    simp
    omega
  refine State.startLoads_one htask' ?_ htodo hw hmay ?_ (hpage _ htaken)
  · unfold State.loadRun? at hruns ⊢
    rw [hlist, ha.loadRuns, List.find?_append, hruns]
    simp [hr]
  · rw [hplace _ htaken]
    omega

end

end Sys2Proof.Machine
end

section
open Sys2Proof Sys2Proof.Machine Sys2Proof.Claims

/-- The first half of O18: an ARRAY_LOAD of no entries, and one of a single entry. -/
theorem Sys2Proof.Claims.arrayLoadStarts : Claims.ArrayLoadStarts := by
  unfold Claims.ArrayLoadStarts
  intro s n t hdisp ⟨hclk, hmark⟩
  obtain ⟨htask, hseq⟩ := dispatchable_task hdisp
  have hexec : exec (.arrayLoad n) s = .next (s.dispatchLoad t) := by
    change execArrayLoad n s = _
    unfold execArrayLoad
    rw [hdisp]
    dsimp only
    rw [State.onArrayDies_clocked hclk, State.whenFree_unmarked _ hmark]
  refine ⟨fun hcount => ?_, fun e hplace hcount hfirst he halias hfree horder hreads hruns hf hb hfmt htag hne => ?_⟩
  · obtain ⟨hdone, hquiet⟩ := State.dispatchLoad_none_spec htask hcount
    exact ⟨_, hexec, hdone, hquiet.bytes, hquiet.seals, hquiet.regs⟩
  · have hn := entryDie_lt e
    obtain ⟨tiles, hload⟩ := State.dispatchLoad_one hcount hplace hfirst (he ▸ halias) hf hb hfmt htag hne
    obtain ⟨hfault, hok, hcheck⟩ := hplace
    have hheads := State.readHeads_notes (s := s) hfault hf
    have hclock : s.clocked (pllArray (entryDie e)) = true := hclk e (he ▸ nth_ents_mem hcheck hfirst)
    have hstart := State.enterLoad_starts htask hseq horder hruns hheads (s.arrayUnit (t.addr 32) (t.fld 60 2)) (t.fld 60 2)
      (.start n (s.bytes (t.addr 32) 4096) ((placed s t).fmt, t.fld 56 4, tiles) (t.fld 60 2)) rfl rfl he.symm halias hfree hclock
    obtain ⟨hquiet, htaken, herased⟩ := State.enterLoad_taken htask hseq hheads (s.arrayUnit (t.addr 32) (t.fld 60 2)) (t.fld 60 2)
      (.start n (s.bytes (t.addr 32) 4096) ((placed s t).fmt, t.fld 56 4, tiles) (t.fld 60 2))
    rw [hload, hseq, hstart] at hexec
    generalize State.takeEntry _ n _ = v at *
    have hpage : s.entryPage e = pgPanel (entryDie e) (s.entryAlias e) := rfl
    rw [hpage] at hexec ⊢
    generalize s.entryAlias e = p at *
    generalize entryDie e = d at *
    obtain ⟨hstarted, htasks, hcontent, hrecorded, l, hl, hlpage, hlkind, hlnext, hltag, hldiff, hlwrites⟩ :=
      v.startLoad_spec hn halias (t.handed s.now .running (s.arrayUnit (t.addr 32) (t.fld 60 2)) [] 0)
        (.start n (s.bytes (t.addr 32) 4096) ((placed s t).fmt, t.fld 56 4, tiles) (t.fld 60 2)) (t.tile_lt 60)
    generalize v.startLoad (t.handed s.now .running (s.arrayUnit (t.addr 32) (t.fld 60 2)) [] 0)
        (.start n (s.bytes (t.addr 32) 4096) ((placed s t).fmt, t.fld 56 4, tiles) (t.fld 60 2)) (t.fld 60 2) (pgPanel d p) = u at *
    have hkind : l.kind = .task n := hlkind.trans (congrArg LoadKind.task hseq)
    rw [State.tryEndLoad_loading ⟨l, hl, hkind⟩] at hexec
    have hacts : v.diffActs (pgPanel d p) (placed s t).fmt = s.diffActs (pgPanel d p) (placed s t).fmt := by
      refine diffActs_same hn halias hquiet.regs (herased _) (HeadRegs.not_panel hn halias (by decide)) ?_
      rw [Nat.add_assoc]
      exact HeadRegs.not_array hn (by omega)
    have hwrites : v.writes (pgPanel d p) = s.writes (pgPanel d p) :=
      writes_same hquiet.regs (HeadRegs.not_panel hn halias (by decide)) (HeadRegs.not_panel hn halias (by decide))
    have hall : Quiet OfDies s u := (hquiet.mono fun _ => HeadRegs.ofDies).step hstarted fun _ => OfArray.ofDies hn
    have hheld := State.task?_holdPage htaken (pgPanel d p)
    have hheld' : u.task? n = some { t.handed s.now .running (s.arrayUnit (t.addr 32) (t.fld 60 2)) [] 0 with pages := [pgPanel d p] } := by
      unfold State.task? at hheld ⊢
      rw [htasks]
      exact hseq ▸ hheld
    exact ⟨u, hexec, ⟨_, hheld', rfl, rfl⟩, hcontent, hrecorded,
      ⟨l, hl, hlpage, hkind, hlnext, hltag, hldiff.trans (congrArg _ hacts), hwrites ▸ hlwrites⟩,
      hall.bytes, hall.seals, hall.regs⟩

/-- Settles O18, from its two halves. -/
theorem Sys2Proof.Claims.arrayLoads : Obligations.ArrayLoads := ⟨arrayLoadStarts, loadBlockArrives⟩

end

section
/-! PROOFS. The additions across the panels of an array read: the sum that a transfer leaves, and a partial that fails its seal (R156, R157). -/

namespace Sys2Proof.Machine

open Sys2Proof.Claims

/-! Partials. -/

/-- The partial of a slab of a group, for a token of a task. -/
def Partial.isAt (n group token slab : Nat) (p : Partial) : Bool := p.task == n && p.group == group && p.token == token && p.slab == slab

/-- The partials once slab `k` has given its values and slab `recv` holds `vals`. -/
def State.withSum (s : State) (n group token recv k : Nat) (vals : List Nat) : State :=
  { s with partials := (s.partials.filter fun p => !(p.task == n && p.group == group && p.token == token && (p.slab == k || p.slab == recv))) ++
      [⟨n, group, token, recv, vals⟩] }

section
variable {s : State} {n group token recv k slab : Nat} {vals : List Nat} {a b : Partial}

theorem Partial.isAt_iff {p : Partial} : p.isAt n group token slab = true ↔ p.task = n ∧ p.group = group ∧ p.token = token ∧ p.slab = slab := by
  simp [Partial.isAt, and_assoc]

theorem slabsLeft_contains (h : s.partials.filter (Partial.isAt n group token slab) = [a]) : (s.slabsLeft n group token).contains slab = true := by
  obtain ⟨hmem, hat⟩ := List.mem_filter.mp (h ▸ List.mem_singleton_self a)
  obtain ⟨htask, hgroup, htoken, hslab⟩ := Partial.isAt_iff.mp hat
  exact List.contains_iff_mem.mpr (List.mem_map.mpr ⟨a, List.mem_filter.mpr ⟨hmem, by simp [htask, hgroup, htoken]⟩, hslab⟩)

theorem find?_partial (h : s.partials.filter (Partial.isAt n group token slab) = [a]) : s.partials.find? (Partial.isAt n group token slab) = some a := by
  rw [← List.head?_filter, h]
  rfl

/-- Of the two slabs of an addition, the receiver has the sum and the sender nothing. -/
theorem filter_withSum (h : slab = k ∨ slab = recv) : (s.withSum n group token recv k vals).partials.filter (Partial.isAt n group token slab) =
    if slab = recv then [⟨n, group, token, recv, vals⟩] else [] := by
  have hkept : (s.partials.filter fun p => !(p.task == n && p.group == group && p.token == token && (p.slab == k || p.slab == recv))).filter
      (Partial.isAt n group token slab) = [] := by
    refine List.filter_eq_nil_iff.mpr fun p hp hat => ?_
    obtain ⟨htask, hgroup, htoken, hslab⟩ := Partial.isAt_iff.mp hat
    have hnot := (List.mem_filter.mp hp).2
    rw [htask, hgroup, htoken, hslab] at hnot
    rcases h with rfl | rfl <;> simp at hnot
  unfold State.withSum
  rw [List.filter_append, hkept, List.nil_append, List.filter_singleton]
  simp only [Partial.isAt, beq_self_eq_true, Bool.true_and, Bool.cond_eq_ite, beq_iff_eq, eq_comm (a := recv)]

/-- A token with a partial of another addition still to come is not merged by this one. -/
theorem tokenMerged_withSum (h : ∃ p ∈ s.partials, p.task = n ∧ p.token = token ∧ p.slab ≠ 0 ∧ ¬(p.group = group ∧ (p.slab = k ∨ p.slab = recv))) :
    (s.withSum n group token recv k vals).tokenMerged n token = false := by
  obtain ⟨p, hp, htask, htoken, hslab, hother⟩ := h
  refine List.all_eq_false.mpr ⟨p, List.mem_append_left _ (List.mem_filter.mpr ⟨hp, ?_⟩), ?_⟩
  · simpa [htask, htoken, imp_iff_not_or] using hother
  · simp [htask, htoken, hslab]

end

/-! A run goes on, or ends (R151, R152). -/

section
variable {s : State} {t : Task} {r : ArrayRun} {fi fo : Fmt} (hin : arrIn t = some fi) (hout : arrOut t = some fo) (htodo : r.todo = [])
include hin hout htodo

theorem State.advance_eq : s.advance t r = s.advanceFor (r.tokens - r.written + 2) t r.placement fi fo r := by
  unfold State.advance
  rw [hin, hout, htodo]
  rfl

/-- A run whose oldest token has additions to come waits for them. -/
theorem State.advance_waits (hlt : r.written < r.tokens) (hmerged : s.tokenMerged t.seq r.written = false) : s.advance t r = s.setArrayRun r := by
  rw [State.advance_eq hin hout htodo, State.advanceFor, if_neg (Nat.not_le.mpr hlt), hmerged]
  rfl

/-- A run that was stopped at its oldest token ends with its status: the task waits for its completion, run and partials are gone, and
memory, seals, registers and the record stay. -/
theorem State.advance_stopped {n st event detail : Nat} (htask : s.task? n = some t) (hle : r.tokens ≤ r.written)
    (hend : r.ending = some (st, event, detail)) :
    Finished (s.advance t r) n st 0 ∧ (s.advance t r).arrayRun? r.task = none ∧ (∀ p ∈ (s.advance t r).partials, p.task ≠ t.seq) ∧
      (s.advance t r).ledger = s.ledger := by
  have hends : s.advance t r = ({ s with partials := s.partials.filter fun p => p.task != t.seq }.setArrayRun r).endArray t r := by
    rw [State.advance_eq hin hout htodo, State.advanceFor, if_pos hle, hend, Option.isNone_some, Bool.and_false]
    rfl
  rw [hends]
  unfold State.endArray
  rw [hend]
  refine ⟨⟨_, _, _, State.task?_setTask (t := t) htask rfl, rfl⟩, List.find?_eq_none.mpr fun x hx => ?_, fun p hp => ?_, rfl⟩
  · simpa using (List.mem_filter.mp hx).2
  · simpa using (List.mem_filter.mp hp).2

end

theorem ArrayRun.stopAt_of_running {r : ArrayRun} (h : r.ending = none) (token : Nat) (en : Nat × Nat × Nat) :
    r.stopAt token en = { r with tokens := Nat.min r.tokens token, ending := some en } := by
  unfold ArrayRun.stopAt
  rw [h]
  rfl

/-! One transfer (R156, R157). -/

/-- The placement entry of a slab of a group. -/
def ArrayRun.entryAt (r : ArrayRun) (group slab : Nat) : Nat :=
  if r.rev then slab * r.placement.slabs + group else group * r.placement.slabs + slab

/-- A partial that fails its seal is counted at the receiver's panel, logged, and sets the panel's cause 1 (R157). -/
def State.noteBadPartial (s : State) (page token : Nat) (detail : List Nat) : State :=
  ((s.err page 0x0122 token).log page 0x0122 detail).cause page 1

theorem State.noteBadPartial_notes (s : State) (page token : Nat) (detail : List Nat) :
    Notes (fun _ => True) s (s.noteBadPartial page token detail) :=
  (((Notes.refl _ s).err trivial trivial).log fun _ _ => trivial).cause trivial fun _ _ => trivial

theorem State.noteBadPartial_logged {s u : State} {page token : Nat} {detail : List Nat}
    (h : u.ledger = (s.noteBadPartial page token detail).ledger) : Logged s u 0x0122 detail :=
  Quiet.logged (P := fun _ => True) (Q := fun _ => True) ((Notes.refl _ s).err trivial trivial).quiet
    (((Notes.refl _ _).cause trivial fun _ _ => trivial).quiet.aside h)

section
variable {s : State} {t : Task} {r : ArrayRun} {group recv k : Nat} {a b : Partial}
  (htodo : r.todo = []) (hnext : nextSender (s.slabsLeft t.seq group r.written) recv = some k)
  (hlast : nextSender (s.slabsLeft t.seq group r.written) k = none) (ha : s.partials.filter (Partial.isAt t.seq group r.written recv) = [a])
include htodo hnext hlast ha

theorem State.addPartial_good (hb : s.partials.filter (Partial.isAt t.seq group r.written k) = [b]) :
    s.addPartial t r group r.written recv true = (s.withSum t.seq group r.written recv k
      ((List.range a.vals.length).map fun i => add32 (nth a.vals i 0) (nth b.vals i 0))).advance t r := by
  have hfindA := find?_partial ha
  have hfindB := find?_partial hb
  unfold Partial.isAt at hfindA hfindB
  unfold State.addPartial
  dsimp only
  rw [hnext]
  dsimp only
  rw [htodo, hlast, slabsLeft_contains ha, hfindA, hfindB]
  simp [State.withSum]

theorem State.addPartial_bad :
    s.addPartial t r group r.written recv false =
      (s.noteBadPartial (s.entryPage (nth r.placement.ents (r.entryAt group recv) 0)) r.written
        [r.entryAt group k, r.entryAt group recv, r.written % 65536]).advance t
        (r.stopAt r.written (stSeal, 0x0122, panelPhys (s.entryPage (nth r.placement.ents (r.entryAt group recv) 0)))) := by
  unfold State.addPartial
  dsimp only
  rw [hnext]
  dsimp only
  rw [htodo, hlast, slabsLeft_contains ha]
  simp [State.noteBadPartial, ArrayRun.entryAt]

end

theorem exec_crossPanelPartial {s : State} {n : Nat} {t : Task} {r : ArrayRun} (htask : s.task? n = some t) (hrun : s.arrayRun? n = some r)
    (group token recv : Nat) (sealOk : Bool) :
    exec (.crossPanelPartial n group token recv sealOk) s = .next (s.addPartial t r group token recv sealOk) := by
  change execCrossPanelPartial n group token recv sealOk s = _
  unfold execCrossPanelPartial
  rw [htask, hrun]

end Sys2Proof.Machine

open Sys2Proof Sys2Proof.Machine Sys2Proof.Claims

/-- Settles O17: a good transfer leaves the partials of `State.withSum`, with which the run still waits; a bad one stops the run at its oldest
token, which ends it. -/
theorem Sys2Proof.Claims.crossPanelAdditionSums : Obligations.CrossPanelAdditionSums := by
  intro s n group token recv k t r fi fo a b htask hrun hin hout htodo htoken hlt hnext hlast hne ha hb
  obtain rfl : t.seq = n := (task?_mem htask).2
  obtain rfl := htoken
  have hown : r.task = t.seq := beq_iff_eq.mp (List.find?_some (p := fun x : ArrayRun => x.task == t.seq) hrun)
  refine ⟨fun hmore => ⟨_, exec_crossPanelPartial htask hrun _ _ _ _, ?_⟩, fun hgoing => ⟨_, exec_crossPanelPartial htask hrun _ _ _ _, ?_⟩⟩
  · rw [State.addPartial_good htodo hnext hlast ha hb, State.advance_waits hin hout htodo hlt (tokenMerged_withSum hmore)]
    exact ⟨(filter_withSum (.inr rfl)).trans (if_pos rfl), (filter_withSum (.inl rfl)).trans (if_neg hne), rfl, rfl, rfl⟩
  · rw [State.addPartial_bad htodo hnext hlast ha, ArrayRun.stopAt_of_running hgoing]
    have hnotes := s.noteBadPartial_notes (s.entryPage (nth r.placement.ents (r.entryAt group recv) 0)) r.written
      [r.entryAt group k, r.entryAt group recv, r.written % 65536]
    generalize panelPhys _ = phys
    obtain ⟨hfinished, hgone, hpartials, hledger⟩ := State.advance_stopped (r := { r with
        tokens := Nat.min r.tokens r.written, ending := some (stSeal, 0x0122, phys) })
      hin hout htodo (hnotes.task?.trans htask) (Nat.min_le_right _ _) rfl
    have hquiet := hnotes.quiet.aside hledger
    exact ⟨hfinished, hown ▸ hgone, hpartials, hquiet.bytes, hquiet.seals, State.noteBadPartial_logged hledger⟩

end

section
/-! PROOFS. Work items of a GRAD_MM (R177, R183, R304): the check of what an accumulated output held before. -/

namespace Sys2Proof.Machine

open Sys2Proof.Claims

/-- A core whose item is done, on a die with its clock and with no marked line in what the product touches, finishes the item. -/
theorem exec_workItemDone {s : State} {q : Quad} {c : Core} {r : GradRun} {t : Task} {item : Nat} {x : MatOp}
    (hfind : (s.gradOf q).find? (fun r => (aget? r.assigned c).isSome) = some r) (hitem : aget? r.assigned c = some item)
    (htask : s.task? r.task = some t) (hx : x = matOp t r.opnd) (hclk : s.clocked (pllGrad q) = true) (hmark : s.markedIn (x.reads ++ x.c.ranges) = []) :
    exec (.workItemDone q c) s = .next (s.itemDone q c t x r item) := by
  subst hx
  change execWorkItemDone q c s = _
  unfold execWorkItemDone State.onDie
  rw [hfind]
  dsimp only
  rw [htask]
  dsimp only
  rw [if_pos hclk, State.whenFree_unmarked _ hmark, aget, hitem, Option.getD_some]

/-- An address between Tier A and Tier B, in no installed range: `blockOwner` gives it to a memory-side die 8, of which the module has none. -/
def awayC : Nat := 0x260_00000000

/-- A running GRAD_MM on gradient die 0 that adds into its output (`C_ACCUM`), binary32 throughout, in one share, for an unwatched layer. Its
operand record stands at the base of the host window. -/
def awayAdd : Task where
  seq := 0
  queue := 0
  index := 0
  alt := false
  desc := [0x20] ++ List.replicate 31 0 ++ leBytes 8 hostBase ++ List.replicate 8 0 ++ [0x20, 0x20, 0x20, 0x40, 0, 0, 0, 0x10] ++ List.replicate 8 0
  step := 0
  repeats := 0
  replays := 0
  widened := false
  fetchAt := 0
  startAt := 0
  condDone := false
  phase := .running
  unit := pgGradDie 0
  pages := [pgGradDie 0, pgGradCore 0 0]
  post := []
  target := 0

/-- Its operand record: A and B in the host window, C at `awayC`, each of one element. -/
def awayOpnd : List Byte :=
  leBytes 8 (hostBase + 0x1000) ++ List.replicate 8 0 ++ leBytes 8 (hostBase + 0x2000) ++ List.replicate 8 0 ++ leBytes 8 awayC ++
    List.replicate 24 0 ++ leBytes 4 1 ++ leBytes 4 1 ++ leBytes 4 1 ++ List.replicate 52 0

/-- Its run: the one work item is on core 0. -/
def awayRun : GradRun :=
  { GradRun.start 0 awayOpnd (List.replicate 16 0) false false 0 none 0 0 1 0 with next := 1, assigned := [(0, 0)], homes := [(0, 0)] }

/-- The operation. -/
def awayOp : MatOp := matOp awayAdd awayRun.opnd

/-- A module with its clocks locked where that task runs. The line of C is listed as uncorrectable, so that its check does not hang on the free
seal of a block that nothing has sealed; the check is counted whatever it says. -/
def awayRunning : State :=
  { (State.reset.wf pgDevice R.DEVICE.DEV_STATE_STATE 4).setReg (pgClock + R.CLOCK.PLL_LOCK_REFCLK.off) 0xFFFFFFFF with
    host := { State.reset.host with badLines := [awayC / 64] }
    tasks := [awayAdd]
    gradRuns := [(0, awayRun)]
    power := { State.reset.power with supply := true, held := false } }

/-- C is out of the installed memory, and no check of Table 7-6 asks for that: the task is one that the dispatch of GRAD_MM accepts. -/
theorem awayAdd_accepted : installed awayC = false ∧ matCheck awayAdd awayOp = 0 := by decide +kernel

/-- Its work item, the last one, is on core 0, and nothing holds its end up. -/
theorem awayRunning_ready :
    (awayRunning.gradOf (0 : Quad)).find? (fun r => (aget? r.assigned (0 : Core)).isSome) = some awayRun ∧
    aget? awayRun.assigned (0 : Core) = some 0 ∧ awayRunning.task? awayRun.task = some awayAdd ∧ awayRunning.clocked (pllGrad (0 : Quad)) = true ∧
    awayRunning.markedIn (awayOp.reads ++ awayOp.c.ranges) = [] ∧ awayOp.items = awayRun.done.length + 1 := by decide +kernel

/-- `CHECKS_LO` of a memory-side die 8: no page of the module holds it. -/
def awayChecks : Nat := R.SEAL.CHECKS_LO.addr (pgSeal 8) 0

theorem awayChecks_not_ofDies : pageAt awayChecks = none ∧ ¬OfDies awayChecks := by
  unfold OfDies Reports InPage
  decide +kernel

/-- The end of the work item counts a check there. -/
theorem awayRunning_counts : awayRunning.reg awayChecks = 0 ∧
    (awayRunning.itemDone (0 : Quad) (0 : Core) awayAdd awayOp awayRun 0).reg awayChecks = 1 := by decide +kernel

end Sys2Proof.Machine

open Sys2Proof Sys2Proof.Machine Sys2Proof.Claims

/-- Refutes O21: the last part of `WorkItemsAreCounted` has the end of the last work item change registers of the dies, the scheduler and the
reports alone. In `awayRunning` a GRAD_MM adds into a C that lies in no installed range (`awayAdd_accepted`). The model looks for such an
address in the blocks of A, B and the zero map (`readItem`), not in those of C before it reads them (`finishTile`): it makes the access that
R304 forbids, and counts its seal check for a memory-side die 8, at an offset beyond the pages of the dies where the module has no register. -/
theorem Sys2Proof.Claims.not_gradientTasks : ¬ Obligations.GradientTasks := by
  unfold Obligations.GradientTasks Claims.WorkItemsAreCounted
  rintro ⟨-, hdone⟩
  obtain ⟨hfind, hitem, htask, hclk, hmark, hitems⟩ := awayRunning_ready
  obtain ⟨-, -, hlast⟩ := hdone awayRunning 0 0 awayRun awayAdd 0 awayOp hfind hitem htask rfl hclk hmark
  obtain ⟨u, hu, -, -, -, -, hregs⟩ := hlast hitems rfl fun p hp _ => congrArg Prod.fst (List.mem_singleton.mp hp)
  obtain rfl := Host.Outcome.next.inj ((exec_workItemDone (x := awayOp) hfind hitem htask rfl hclk hmark).symm.trans hu)
  obtain ⟨hbefore, hafter⟩ := awayRunning_counts
  have hsame : _ = awayRunning.reg awayChecks := hregs rfl awayChecks awayChecks_not_ofDies.2
  exact absurd (hafter.symm.trans (hsame.trans hbefore)) (by decide)
end

section
/-! PROOFS. Row groups of a vector task (R212, R214, R382): an output block that fails the check of the merge into it. -/

namespace Sys2Proof.Machine

open Sys2Proof.Claims

/-- A core whose row group is done, on a die with its clock and with no marked line in what the task touches, finishes the group. -/
theorem exec_rowGroupDone {s : State} {q : Quad} {c : Core} {r : VecRun} {t : Task} {g : Nat} {x : VecOp}
    (hfind : (s.vecOf q).find? (fun r => (aget? r.assigned c).isSome) = some r) (hgroup : aget? r.assigned c = some g)
    (htask : s.task? r.task = some t) (hx : x = vecOp t r.opnd) (hclk : s.clocked (pllGrad q) = true) (hmark : s.markedIn (x.reads ++ x.writes) = []) :
    exec (.rowGroupDone q c) s = .next (s.groupDone q c t x r g) := by
  subst hx
  change execRowGroupDone q c s = _
  unfold execRowGroupDone State.onDie
  rw [hfind]
  dsimp only
  rw [htask]
  dsimp only
  rw [if_pos hclk, State.whenFree_unmarked _ hmark, aget, hgroup, Option.getD_some]

/-- A running CONVERT of binary32 into binary32 on gradient die 0, for an unwatched layer, its operand record at the base of the host window. -/
def mergeConvert : Task :=
  { awayAdd with
    desc := [0x31] ++ List.replicate 31 0 ++ leBytes 8 hostBase ++ [0x20, 0x20, 0, 0, 0, 0, 0, 0x10] ++ List.replicate 16 0
    pages := [pgGradDie 0, pgVecCore 0 0] }

/-- Its operand record: one element of the host window, converted to the start of block 3 of Tier A. -/
def mergeOpnd : List Byte :=
  leBytes 8 (hostBase + 0x1000) ++ List.replicate 8 0 ++ leBytes 8 0x3000 ++ List.replicate 16 0 ++ leBytes 4 1 ++ leBytes 4 1 ++ List.replicate 16 0

/-- The operation. -/
def mergeOp : VecOp := vecOp mergeConvert mergeOpnd

/-- Its run: the one row group is on core 0. -/
def mergeRun : VecRun := { VecRun.start 0 mergeOp mergeOpnd [] [] [0, 0] [] false 0 with next := 1, assigned := [(0, 0)] }

/-- A module with its clocks locked where that task runs. The element is 1; the last line of the block that it goes to is uncorrectable. -/
def mergeRunning : State :=
  { awayRunning with
    host := { awayRunning.host with badLines := [0x3FC0 / 64] }
    mem := cells (hostBase + 0x1000) (leBytes 4 0x3F800000)
    tasks := [mergeConvert]
    gradRuns := []
    vecRuns := [(0, mergeRun)] }

/-- Its input. -/
def mergeIn : VStream := ⟨⟨.b32, hostBase + 0x1000, 0, 1, 1⟩, false, 0, 1, 0, 0, 1⟩
/-- Its output. -/
def mergeOut : VStream := ⟨⟨.b32, 0x3000, 0, 1, 1⟩, false, 0, 0, 0, 0, 1⟩

/-- No check of Table 8-14a fails: the task is one that the dispatch of CONVERT accepts. -/
theorem mergeConvert_accepted : vecCheck mergeConvert mergeOpnd [] mergeOp = 0 := by decide +kernel

/-- Its row group is on core 0, and nothing holds its end up. -/
theorem mergeRunning_ready :
    (mergeRunning.vecOf (0 : Quad)).find? (fun r => (aget? r.assigned (0 : Core)).isSome) = some mergeRun ∧
    aget? mergeRun.assigned (0 : Core) = some 0 ∧ mergeRunning.task? mergeRun.task = some mergeConvert ∧
    mergeRunning.clocked (pllGrad (0 : Quad)) = true ∧ mergeRunning.markedIn (mergeOp.reads ++ mergeOp.writes) = [] := by decide +kernel

/-- Its one stream each way; the blocks that it reads are installed and good, and the range that it writes is installed. -/
theorem mergeOp_streams :
    mergeOp.convert = true ∧ mergeOp.ins = [(0, mergeIn)] ∧ mergeOp.outs = [(0, mergeOut)] ∧
    (∀ k ∈ mergeOp.groupBlocks 0, installed (4096 * k) = true ∧ mergeRunning.blockOk k = true) ∧
    (∀ y ∈ mergeOp.writes, faultIn y.1 y.2 = none) := by decide +kernel

/-- The block that it writes in part fails its check. -/
theorem mergeRunning_badOutput : partBlocks 0x3000 4 = [3] ∧ mergeRunning.blockOk 3 = false := by decide +kernel

/-- The end of the row group leaves the output element 0, where the conversion gives 1. -/
theorem mergeRunning_unwritten :
    (mergeRunning.groupDone (0 : Quad) (0 : Core) mergeConvert mergeOp mergeRun 0).rawElem mergeOut.x 0 0 = 0 ∧
    (convertElem .b32 .rne 0 0 (mergeRunning.elemAt mergeIn.x 0 0)).raw = 0x3F800000 := by decide +kernel

end Sys2Proof.Machine

open Sys2Proof Sys2Proof.Machine Sys2Proof.Claims

/-- Refutes O22: the third part of `RowGroupsAreCounted` asks that the blocks that a row group reads are good, and of its output that it is
installed; the elements are then written. In `mergeRunning` a CONVERT that dispatch accepts (`mergeConvert_accepted`) writes four bytes into a
block with an uncorrectable line (`mergeRunning_badOutput`): the merge writes nothing where the old block fails its check (R308, R382), and
the element stays as it was. -/
theorem Sys2Proof.Claims.not_vectorTasks : ¬ Obligations.VectorTasks := by
  unfold Obligations.VectorTasks Claims.RowGroupsAreCounted
  rintro ⟨-, hgroups, -⟩
  obtain ⟨hfind, hgroup, htask, hclk, hmark⟩ := mergeRunning_ready
  obtain ⟨hconvert, hins, houts, hreads, hwrites⟩ := mergeOp_streams
  obtain ⟨-, -, hwritten, -⟩ := hgroups mergeRunning 0 0 mergeRun mergeConvert 0 mergeOp hfind hgroup htask rfl hclk hmark
  obtain ⟨u, hu, hraw⟩ := hwritten mergeIn mergeOut hconvert rfl rfl hins houts rfl rfl (by decide) hreads hwrites
  obtain rfl := Host.Outcome.next.inj ((exec_rowGroupDone (x := mergeOp) hfind hgroup htask rfl hclk hmark).symm.trans hu)
  obtain ⟨hzero, hone⟩ := mergeRunning_unwritten
  have hconverted : _ = (convertElem .b32 .rne 0 0 (mergeRunning.elemAt mergeIn.x 0 0)).raw := hraw 0 0 (by decide) (by decide) (by decide)
  exact absurd (hzero.symm.trans (hconverted.trans hone)) (by decide)
end

section
/-! PROOFS. An UPDATE at the dispatcher of its engine (R286, R287): the tie between two tasks handed over in one tick. -/

namespace Sys2Proof.Machine

open Sys2Proof.Claims

/-! A layer of one element. -/

/-- The operand record of an update of one element: gradient plane at `g`, moment and master in the host window, no image, no ledger, the
parameters 0 or 1 as Table 9-6 allows them. -/
def cellOpnd (g : Nat) : List Byte :=
  leBytes 8 g ++ leBytes 8 (hostBase + 0x8000) ++ leBytes 8 (hostBase + 0x9000) ++ leBytes 8 (hostBase + 0xA000) ++ List.replicate 20 0 ++
    leBytes 4 1 ++ leBytes 4 1 ++ List.replicate 4 0 ++ [0, 0, one32, 0, one32, one32, one32, one32, 0].flatMap (leBytes 4) ++ List.replicate 28 0

/-- The start of its state header: layer 0, one row, one column, no update yet. -/
def cellHead : List Byte := List.replicate 4 0 ++ leBytes 4 1 ++ leBytes 4 1

/-- An UPDATE, NORMAL, of such a layer with its state record at `st`, hinted to engine 0. Its operand record stands at the base of the host
window and names a binary32 gradient. -/
def cellUpdate (seq st : Nat) (phase : Phase) (pages : List Nat) : Task where
  seq := seq
  queue := 0
  index := seq
  alt := false
  desc := [0x50] ++ List.replicate 31 0 ++ leBytes 8 hostBase ++ leBytes 8 st ++ List.replicate 11 0 ++ [0x20, 0, 0, 0, 0]
  step := 0
  repeats := 0
  replays := 0
  widened := false
  fetchAt := 0
  startAt := 0
  condDone := false
  phase := phase
  unit := pgGradDie 0
  pages := pages
  post := []
  target := 0

/-! Two tasks for one engine (R287). -/

/-- The task that is dispatched. It was fetched before `secondUpdate`. -/
def firstUpdate : Task := cellUpdate 5 (hostBase + 0x1000) (.ready 0) []

/-- The task that was dispatched before it, in the same tick, and waits for the engine, which has become free. -/
def secondUpdate : Task := cellUpdate 7 (hostBase + 0x2000) .running []

/-- A module with its clocks locked, engine 0 enabled and idle, and both tasks fetched; the records and the key table are in the host window. -/
def updatesTied : State :=
  { ((((State.reset.wf pgDevice R.DEVICE.DEV_STATE_STATE 4).setReg (pgClock + R.CLOCK.PLL_LOCK_REFCLK.off) 0xFFFFFFFF).setHdrBit
      (pgUpdate 0) oPAGE_CTL 0 true).wf64 (pgGradDie 0) R.GRAD_DIE.KEY_TABLE_LO_ADDR R.GRAD_DIE.KEY_TABLE_HI_ADDR (hostBase + 0xC000)) with
    mem := cells hostBase (cellOpnd 0) ++ cells (hostBase + 0x1000) cellHead
    tasks := [firstUpdate, secondUpdate]
    power := { State.reset.power with supply := true, held := false } }

/-- A sent UPDATE reaches the dispatcher of its engine. -/
theorem State.takeUpd_sent {s : State} {n mode : Nat} {t : Task} {e : Nat} (h : UpdSent s n mode t e) : s.takeUpd n mode = .next (s.dispatchUpd e t) := by
  obtain ⟨hdisp, hpick, hmode, hclk⟩ := h
  unfold State.takeUpd State.onDie
  rw [hdisp]
  dsimp only
  rw [hpick]
  dsimp only
  rw [if_neg (by simp [hmode]), if_pos hclk]

/-- The first task may be sent to engine 0 and does not take it beforehand: a task that is not handed over is later than one that waits. -/
theorem updatesTied_sent : UpdSent updatesTied 5 0 firstUpdate 0 ∧ updatesTied.updTakes 0 firstUpdate = false ∧
    ∀ k ∈ updatesTied.tasks, k.seq = 5 → k.pages = [] := by
  unfold UpdSent
  decide +kernel

/-- Handed over in that tick it counts as the earlier of the two, and the engine takes it. -/
theorem updatesTied_taken : updatesTied.upds = [] ∧ ((updatesTied.dispatchUpd 0 firstUpdate).upd? 0).map (·.phase) = some .tagWait := by
  decide +kernel

end Sys2Proof.Machine

open Sys2Proof Sys2Proof.Machine Sys2Proof.Claims

/-- Refutes O24: the first part of `UpdateDispatch` asks `updTakes` of the task before it is handed over, when every task that waits for the
engine counts as earlier; the dispatcher asks it of the task handed over. In `updatesTied` an UPDATE fetched later was handed over in the same
tick and waits for an engine that has become free. `Task.isLater` breaks that tie by the order of fetch, so the engine takes the task that is
dispatched: it is in the tag wait at once, where the statement leaves every engine as it was. -/
theorem Sys2Proof.Claims.not_updateDispatch : ¬ Obligations.UpdateDispatch := by
  unfold Obligations.UpdateDispatch
  intro h
  obtain ⟨hsent, hfree, hpages⟩ := updatesTied_sent
  obtain ⟨hwaits, -⟩ := h updatesTied 5 firstUpdate 0 (updOp firstUpdate [])
  obtain ⟨u, hu, -, hsame, -⟩ := hwaits (.updateNormal 5) 0 List.mem_cons_self hsent hfree hpages
  have hexec : exec (.updateNormal 5) updatesTied = updatesTied.takeUpd 5 0 := rfl
  obtain rfl := Host.Outcome.next.inj ((hexec.trans (State.takeUpd_sent hsent)).symm.trans hu)
  obtain ⟨hnone, htaken⟩ := updatesTied_taken
  unfold State.upd? at htaken
  rw [hsame, hnone] at htaken
  exact absurd htaken (by decide)
end

section
/-! PROOFS. The end of pass 2 of an UPDATE (R225, R240, R304): what it reads, and the check of a gradient that lies in no installed range. -/

namespace Sys2Proof.Machine

open Sys2Proof.Claims

/-! Pass 2 on good blocks (R225, R240). -/

/-- The tensors that pass 2 reads. -/
def UpdOp.pass2Tensors (x : UpdOp) (kappa : Nat) : List Tensor :=
  [x.wT, x.mT] ++ (if x.g == 0 then [] else [x.gT]) ++ (if kappa == 0 then [] else [x.lgT])

/-- The blocks of them, in the order of their check. -/
def UpdOp.pass2Blocks (x : UpdOp) (kappa : Nat) : List Nat := blocksOfAll ((x.pass2Tensors kappa).flatMap Tensor.ranges)

/-- The planes of a tensor take the blocks of its ranges. -/
theorem Tensor.planes_blocks (x : Tensor) : x.planes.flatMap Plane.blocks = x.ranges.flatMap fun r => blocksOf r.1 r.2 := by
  unfold Tensor.planes Tensor.ranges Plane.blocks
  split
  · simp [Nat.mul_comm]
  · split
    · simp [Nat.mul_comm]
    · simp [Nat.mul_comm]

/-- No row fails where every block is good. -/
theorem State.pass2Bad_good {s : State} {x : UpdOp} {kappa : Nat} (h : ∀ k ∈ x.pass2Blocks kappa, s.blockOk k = true) : s.pass2Bad x kappa = [] := by
  have hplanes : x.wT.planes ++ x.mT.planes ++ (if x.g == 0 then [] else x.gT.planes) ++ (if kappa == 0 then [] else x.lgT.planes) =
      (x.pass2Tensors kappa).flatMap Tensor.planes := by
    unfold UpdOp.pass2Tensors
    split <;> split <;> simp
  unfold State.pass2Bad
  dsimp only
  rw [hplanes]
  refine List.flatMap_eq_nil_iff.mpr fun p hp => List.filterMap_eq_nil_iff.mpr fun k hk => if_pos (h k ?_)
  obtain ⟨y, hy, hpy⟩ := List.mem_flatMap.mp hp
  have hin : k ∈ y.ranges.flatMap fun r => blocksOf r.1 r.2 := y.planes_blocks ▸ List.mem_flatMap.mpr ⟨p, hpy, hk⟩
  obtain ⟨r, hr, hkr⟩ := List.mem_flatMap.mp hin
  exact List.mem_eraseDups.mpr (List.mem_flatMap.mpr ⟨r, List.mem_flatMap.mpr ⟨y, hy, hr⟩, hkr⟩)

/-- What pass 2 reads, its good blocks counted as read and checked. -/
def State.passPass2 (s : State) (x : UpdOp) (kappa : Nat) : State :=
  (x.pass2Blocks kappa).foldl State.passBlock (s.cacheReads ((x.pass2Tensors kappa).flatMap Tensor.ranges) (x.pass2Blocks kappa))

/-- Pass 2 on good blocks commits. -/
theorem State.endPass2_good {s : State} {x : UpdOp} {u : Upd} (e : Nat) (t : Task) (h : ∀ k ∈ x.pass2Blocks u.kappa, s.blockOk k = true) :
    s.endPass2 e t x u = (s.passPass2 x u.kappa).commitUpd e t x u := by
  have hranges : x.wT.ranges ++ x.mT.ranges ++ (if x.g == 0 then [] else x.gT.ranges) ++ (if u.kappa == 0 then [] else x.lgT.ranges) =
      (x.pass2Tensors u.kappa).flatMap Tensor.ranges := by
    unfold UpdOp.pass2Tensors
    split <;> split <;> simp
  have hread : (s.cacheReads ((x.pass2Tensors u.kappa).flatMap Tensor.ranges) (x.pass2Blocks u.kappa)).firstBad (x.pass2Blocks u.kappa) = none := by
    refine List.find?_eq_none.mpr fun k hk => ?_
    rw [((Notes.refl OfDies s).cacheReads _ _).blockOk k, h k hk]
    decide
  unfold State.passPass2
  rw [← State.check_eq_pass 0x0404 hread]
  unfold State.endPass2
  dsimp only
  rw [State.pass2Bad_good h, hranges]
  rfl

/-- The engine's pass 2 ends. -/
theorem exec_pass2Done {s : State} {e : Engine} {u : Upd} {t : Task} {x : UpdOp} (h : UpdAt s e .pass2 u t x) :
    exec (.pass2Done e) s = .next (s.endPass2 e t x u) := by
  change execPass2Done e s = _
  unfold execPass2Done
  rw [h.onUpd_eq]
  exact h.runs _

/-! A gradient in no installed range (R304). -/

/-- A running UPDATE of one element. -/
def strayUpdate : Task := cellUpdate 5 (hostBase + 0x1000) .running [pgUpdate 0]

/-- Its engine in pass 2, the operand record naming a gradient at `awayC`. -/
def strayUpd : Upd :=
  ⟨.pass2, 5, 0, cellOpnd awayC, cellHead, List.replicate 16 0, List.replicate 16 0, 0, 0, 0, one32, 0, [0], [0], 0, 0, 0, 0, 0⟩

/-- The operation. -/
def strayOp : UpdOp := updOp strayUpdate strayUpd.opnd

/-- A module with its clocks locked in that pass. -/
def strayUnsealed : State := { awayRunning with host := State.reset.host, tasks := [strayUpdate], gradRuns := [], upds := [(0, strayUpd)] }

/-- The same with the block of the gradient sealed from its content. -/
def strayRunning : State := strayUnsealed.sealBlock (awayC / 4096)

/-- Engine 0 is at the end of pass 2, of a task that the checks of Table 9-6 accept; pass 1 would have met the address (R304). -/
theorem strayRunning_ready : UpdAt strayRunning (0 : Engine) .pass2 strayUpd strayUpdate strayOp ∧ updCheck strayOp cellHead = 0 ∧
    strayRunning.pass1Fault strayOp strayUpd = some awayC := by
  unfold UpdAt
  decide +kernel

/-- What pass 2 reads lies in the host window, which carries no seals, but for the gradient. -/
theorem strayOp_blocks : ∀ k ∈ strayOp.pass2Blocks strayUpd.kappa, inHost (4096 * k) = true ∨ k = awayC / 4096 := by decide +kernel

/-- A block just sealed, with no uncorrectable line, is good. -/
theorem State.blockOk_sealBlock {s : State} {k : Nat} (h : s.badBlock k = false) : (s.sealBlock k).blockOk k = true := by
  by_cases hhost : inHost (4096 * k) = true
  · exact if_pos hhost
  · have hlines : (s.sealBlock k).badBlock k = false := by
      unfold State.sealBlock
      rwa [if_neg hhost]
    have hentry : (s.sealBlock k).sealEntry k = s.sealOf k := by
      unfold State.sealBlock
      rw [if_neg hhost, State.sealEntry_setSeal_self]
    unfold State.blockOk
    rw [if_neg hhost, hlines, hentry, State.sealOf_sealBlock, beq_self_eq_true]
    rfl

theorem strayRunning_good : ∀ k ∈ strayOp.pass2Blocks strayUpd.kappa, strayRunning.blockOk k = true := fun k hk => by
  rcases strayOp_blocks k hk with hhost | rfl
  · exact if_pos hhost
  · exact State.blockOk_sealBlock (by decide +kernel)

/-- The end of the pass leaves a check counted where the module has no register. -/
theorem strayRunning_counts : strayRunning.reg awayChecks = 0 ∧
    ((strayRunning.passPass2 strayOp strayUpd.kappa).commitUpd (0 : Engine) strayUpdate strayOp strayUpd).reg awayChecks = 1 := by decide +kernel

end Sys2Proof.Machine

open Sys2Proof Sys2Proof.Machine Sys2Proof.Claims

/-- Refutes O26: what `UpdatePasses` says of pass 2 holds its engine to blocks that are good, not to blocks that are installed. In `strayRunning`
the gradient stands in a block of no installed range that is sealed from its content (`pass2Bad` is empty). Pass 2 checks that block, and the
check is counted for a memory-side die 8, at an offset beyond the pages of the dies (`awayChecks`), where the statement has only registers of
the dies, the scheduler and the reports change. No run of the model gets there: pass 1 stops such a task (`strayRunning_ready`). The statement
lacks the premise that what pass 2 reads is installed, which its part on pass 1 has as `pass1Fault`. -/
theorem Sys2Proof.Claims.not_updatePasses : ¬ Obligations.UpdatePasses := by
  unfold Obligations.UpdatePasses
  intro h
  obtain ⟨hat, -⟩ := strayRunning_ready
  obtain ⟨hbefore, hafter⟩ := strayRunning_counts
  obtain ⟨-, hcommits⟩ := h strayRunning 0 strayUpd strayUpdate strayOp
  obtain ⟨v, hv, -, -, -, -, -, -, -, -, hregs⟩ := hcommits hat (State.pass2Bad_good strayRunning_good)
  obtain rfl := Host.Outcome.next.inj ((exec_pass2Done hat).symm.trans hv)
  rw [← State.endPass2_good (0 : Engine) strayUpdate strayRunning_good] at hafter
  have hsame : _ = strayRunning.reg awayChecks := hregs awayChecks awayChecks_not_ofDies.2
  exact absurd (hafter.symm.trans (hsame.trans hbefore)) (by decide)
end

section
/-! PROOFS. The end of a measuring pre-pass of a GRAD_MM (R251, R254): the slot measured, and what the full run's first items leave as it was. -/

namespace Sys2Proof.Machine

open Sys2Proof.Claims

/-! The estimator slot (R251). -/

theorem State.slot_setSlot (s : State) (l role : Nat) (w : Word) : (s.setSlot l role w).slot l role = w := by
  unfold State.slot State.setSlot aget
  rw [aget?_aput_same, Option.getD_some]

theorem mkSlot_amax (lastE : Nat) (measure valid : Bool) (amax : Nat) : (mkSlot lastE measure valid amax).toNat % 65536 = amax % 65536 := by
  unfold mkSlot
  rw [BitVec.toNat_ofNat]
  omega

/-- A pre-pass leaves in the slot the magnitude that it found. -/
theorem State.measureSlot_amax (s : State) (l role p : Nat) : ((s.measureSlot l role p).slot l role).toNat % 65536 = p % 65536 := by
  unfold State.measureSlot
  rw [State.slot_setSlot, mkSlot_amax]

/-! Register writes, at once or posted (R13), reach none of memory, seals, estimator slots and runs. -/

/-- Memory with its seals, the estimator slots, and the runs of the gradient dies. -/
structure Holdings where
  mem      : List Host.Cell
  seals    : List (Nat × Word)
  sealAge  : Nat
  slots    : List (Nat × Word)
  gradRuns : List (Nat × GradRun)

/-- What a state holds of these. -/
def State.holdings (s : State) : Holdings := ⟨s.mem, s.seals, s.sealAge, s.slots, s.gradRuns⟩

theorem RegsOnly.holdings {s t : State} (h : RegsOnly s t) : t.holdings = s.holdings := by
  obtain ⟨r, rfl⟩ := h
  rfl

theorem State.writeFld_regsOnly (s : State) (view : View) (off : Nat) (w : Word) (f : Fld) : RegsOnly s (s.writeFld view off w f) := by
  unfold State.writeFld
  split
  · exact .refl s
  · cases f.acc with
    | ro | w1s | wo => exact .refl s
    | w1c => exact s.setReg_regsOnly off _
    | rw | rwp =>
      dsimp only
      split
      · exact .refl s
      · split
        · exact s.setReg_regsOnly off _
        · exact (s.setReg_regsOnly off _).trans (State.noteClamp_regsOnly _ view off)

theorem State.writeFlds_regsOnly (s : State) (view : View) (off : Nat) (w : Word) (fs : List Fld) : RegsOnly s (s.writeFlds view off w fs) :=
  List.foldlRecOn fs _ (motive := RegsOnly s) (.refl s) fun t ht f _ => ht.trans (t.writeFld_regsOnly view off w f)

/-- A write of a LO half changes the held halves alone, one of a HI half these and registers (R38). -/
theorem State.plainWrite_holdings (s : State) (view : View) (off : Nat) (w : Word) : (s.plainWrite view off w).holdings = s.holdings := by
  unfold State.plainWrite
  split
  · rfl
  · next p _ =>
    dsimp only
    split
    · rfl
    · split
      · split
        · next lo _ =>
          have hlo := State.writeFlds_regsOnly { s with pairHold := aerase s.pairHold off } view (off - 4) lo (p.cls.fieldsAt (off % 0x1000 - 4))
          exact (hlo.trans (State.writeFlds_regsOnly _ _ _ _ _)).holdings
        · exact (s.writeFlds_regsOnly _ _ _ _).holdings
      · exact (s.writeFlds_regsOnly _ _ _ _).holdings

theorem State.clearCounts_holdings (s : State) (c : Cls) (page : Nat) : (s.clearCounts c page).holdings = s.holdings := by
  have hwords (t : State) (lo hi : Nat) : (t.clearWords page lo hi).holdings = t.holdings := RegsOnly.holdings (t.clearWords_frame page lo hi)
  have hwf (t : State) (f : Fld) : (t.wf page f 0).holdings = t.holdings := (t.wf_regsOnly page f 0 0).holdings
  cases c
  case stackCtl | tierbCtl => exact hwords { s with traffic := aput s.traffic page (0, 0) } 0x120 0x124
  all_goals simp only [State.clearCounts, hwords, hwf]

theorem State.crossWrite_holdings (s : State) (view : View) (off : Nat) (w : Word) : (s.crossWrite view off w).holdings = s.holdings := by
  unfold State.crossWrite
  split
  · rfl
  · dsimp only
    split
    · split
      · exact s.clearCounts_holdings _ _
      · rfl
    · split
      · split
        · exact (s.wf_regsOnly _ _ _ _).holdings
        · rfl
      · exact s.plainWrite_holdings view off w

theorem State.applyPosted_holdings (s : State) : s.applyPosted.holdings = s.holdings :=
  List.foldlRecOn _ _ (motive := fun t : State => t.holdings = s.holdings) rfl fun t ht p _ => (t.crossWrite_holdings p.view p.off p.val).trans ht

theorem State.takeCore_holdings (s : State) (page n : Nat) : (s.takeCore page n).holdings = s.holdings := by
  unfold State.takeCore
  extract_lets left freed
  change freed.holdings = left.holdings
  unfold freed
  split
  · exact left.applyPosted_holdings
  · rfl

/-! The items of a die's run handed out (R183). -/

/-- A run without its record of which items are handed out, and to which cores. -/
def GradRun.job (r : GradRun) : GradRun := { r with next := 0, assigned := [], homes := [] }

/-- The run of a task replaced. -/
def Holdings.setGrad (h : Holdings) (r : GradRun) : Holdings :=
  { h with gradRuns := h.gradRuns.map fun (p : Nat × GradRun) => if p.2.task == r.task then (p.1, r) else p }

theorem State.setGrad_holdings (s : State) (r : GradRun) : (s.setGrad r).holdings = s.holdings.setGrad r := rfl

/-- A run takes the place of the one run there is, where both are of one task. -/
theorem Holdings.setGrad_alone {h : Holdings} {q : Nat} {r r' : GradRun} (hruns : h.gradRuns = [(q, r)]) (htask : r.task = r'.task) :
    h.setGrad r' = { h with gradRuns := [(q, r')] } := by simp [Holdings.setGrad, hruns, htask]

/-- A core that takes an item of a run changes in it only what is handed out. -/
theorem State.assignItem_holdings (s : State) (q c : Nat) (r : GradRun) (x : MatOp) :
    ∃ r' : GradRun, r'.job = r.job ∧ (s.assignItem q c r x).holdings = s.holdings.setGrad r' := by
  unfold State.assignItem
  extract_lets page taken idx homes given d
  refine ⟨{ r with next := r.next + 1, assigned := aput r.assigned c r.next, homes := homes }, rfl, ?_⟩
  refine (State.wfs_regsOnly d.2 page _).holdings.trans ?_
  exact congrArg (Holdings.setGrad · _) (s.takeCore_holdings page r.task)

/-- Offered an item, a core of a die either takes one of a run of the die or leaves all as it is. -/
theorem State.feedCore_cases (s : State) (q c : Nat) : s.feedCore q c = s ∨ ∃ r ∈ s.gradOf q, ∃ x, s.feedCore q c = s.assignItem q c r x := by
  unfold State.feedCore
  split
  · exact .inl rfl
  · split
    · next r hfind =>
      split
      · next x _ => exact .inr ⟨r, List.mem_of_find?_eq_some hfind, x, rfl⟩
      · exact .inl rfl
    · exact .inl rfl

/-- Memory, seals and slots are as in `s`; the one run of the gradient dies is `r` on die `q`, some of its items handed out. -/
def RunsAlone (q : Nat) (r : GradRun) (s t : State) : Prop :=
  ∃ r' : GradRun, r'.job = r.job ∧ t.holdings = { s.holdings with gradRuns := [(q, r')] }

section
variable {q : Nat} {r : GradRun} {s t : State}

theorem RunsAlone.feedCore (h : RunsAlone q r s t) (c : Nat) : RunsAlone q r s (t.feedCore q c) := by
  obtain ⟨r₁, hjob, ht⟩ := h
  have hruns : t.gradRuns = [(q, r₁)] := congrArg Holdings.gradRuns ht
  rcases t.feedCore_cases q c with hsame | ⟨r₂, hmem, x, hfed⟩
  · rw [hsame]
    exact ⟨r₁, hjob, ht⟩
  · obtain rfl : r₂ = r₁ := by simpa [State.gradOf, hruns] using hmem
    obtain ⟨r₃, hjob₃, hassigned⟩ := t.assignItem_holdings q c r₂ x
    have htask : r₂.task = r₃.task := (congrArg GradRun.task hjob₃).symm
    refine ⟨r₃, hjob₃.trans hjob, ?_⟩
    rw [hfed, hassigned, Holdings.setGrad_alone hruns htask, ht]

theorem RunsAlone.pumpGrad (h : RunsAlone q r s t) : RunsAlone q r s (t.pumpGrad q) :=
  List.foldlRecOn _ _ (motive := RunsAlone q r s) h fun _ hu c _ => hu.feedCore c

theorem RunsAlone.sameBytes (h : RunsAlone q r s t) : SameBytes s t := by
  obtain ⟨_, -, ht⟩ := h
  exact fun a => congrArg (fun h : Holdings => memByte h.mem a) ht

theorem RunsAlone.sameSeals (h : RunsAlone q r s t) : SameSeals s t := by
  obtain ⟨_, -, ht⟩ := h
  exact fun k => congrArg (fun h : Holdings => (aget? h.seals k).getD (Config.freeSeal h.sealAge k)) ht

theorem RunsAlone.slot (h : RunsAlone q r s t) (l role : Nat) : t.slot l role = s.slot l role := by
  obtain ⟨_, -, ht⟩ := h
  exact congrArg (fun h : Holdings => aget h.slots (l * 8 + role) 0) ht

theorem RunsAlone.run (h : RunsAlone q r s t) : ∃ r', (q, r') ∈ t.gradRuns ∧ r'.job = r.job := by
  obtain ⟨r', hjob, ht⟩ := h
  have hruns : t.gradRuns = [(q, r')] := congrArg Holdings.gradRuns ht
  exact ⟨r', hruns ▸ List.mem_singleton_self _, hjob⟩

end

/-! The end of the pre-pass (R254). -/

/-- The full run of the task of a pre-pass, under an exponent. -/
def GradRun.inFull (r : GradRun) (expo : Nat) : GradRun :=
  GradRun.start r.task r.opnd r.key r.longsum false expo r.slot r.alignL r.zeroB r.quietB r.errCore

/-- The exponent that a state's slot gives for the output of an operation (R251). -/
def State.outExponent (s : State) (x : MatOp) : Nat := slotExponent x.c.fmt (slotAmax (s.slot x.layer 2))

/-- The state with the full run in the place of the pre-pass. -/
def State.runInFull (s : State) (x : MatOp) (r : GradRun) : State := s.setGrad (r.inFull (s.outExponent x))

theorem State.runInFull_runsAlone {s : State} {q : Nat} {r : GradRun} (hruns : s.gradRuns = [(q, r)]) (x : MatOp) :
    RunsAlone q (r.inFull (s.outExponent x)) s (s.runInFull x r) :=
  ⟨_, rfl, (s.setGrad_holdings _).trans (Holdings.setGrad_alone hruns rfl)⟩

/-- A pre-pass with no item left to do measures its slot and starts the full run, where its die has its clock. -/
theorem exec_measuringPrepassDone_grad {s : State} {n q : Nat} {t : Task} {r : GradRun} {x : MatOp} (htask : s.task? n = some t) (hseq : t.seq = n)
    (harr : s.arrayRun? n = none) (hfind : s.gradRuns.find? (fun p => p.2.task == n) = some (q, r)) (hrun : r.task = n)
    (hclk : s.clocked (pllGrad q) = true) (hpre : r.prepass = true) (hx : x = matOp t r.opnd) (hover : x.items ≤ r.done.length) :
    exec (.measuringPrepassDone n) s = .next (((s.measureSlot x.layer 2 r.peak).runInFull x r).pumpGrad q) := by
  subst hx
  change execMeasuringPrepassDone n s = _
  unfold execMeasuringPrepassDone State.onDie State.gradMeasured
  rw [htask]
  dsimp only
  rw [harr, hfind]
  dsimp only
  rw [if_pos hclk, hpre, GradRun.over, decide_eq_true hover, Bool.and_self, if_pos rfl, hseq, ← hrun]
  rfl

end Sys2Proof.Machine

open Sys2Proof Sys2Proof.Machine Sys2Proof.Claims

/-- Settles O23: the pre-pass leaves its peak in the slot and a full run in its own place; the items that the cores then take change neither
memory nor seals nor slots, and of the run only what is handed out. -/
theorem Sys2Proof.Claims.measuringPrepassThenFullRun : Obligations.MeasuringPrepassThenFullRun := by
  unfold Obligations.MeasuringPrepassThenFullRun
  intro s n t q r htask hseq harr hruns hrun hclk hpre hover
  have hfind : s.gradRuns.find? (fun p => p.2.task == n) = some (q, r) := by simp [hruns, hrun]
  have hfull := (State.runInFull_runsAlone (s := s.measureSlot (matOp t r.opnd).layer 2 r.peak) hruns (matOp t r.opnd)).pumpGrad
  obtain ⟨r', hmem, hjob⟩ := hfull.run
  refine ⟨_, exec_measuringPrepassDone_grad htask hseq harr hfind hrun hclk hpre rfl hover, ?_, ⟨r', hmem, ?_⟩,
    hfull.sameBytes, hfull.sameSeals⟩
  · rw [hfull.slot, State.measureSlot_amax]
  · rw [hfull.slot]
    exact ⟨(congrArg GradRun.task hjob).trans hrun, congrArg GradRun.prepass hjob, congrArg GradRun.done hjob, congrArg GradRun.expo hjob⟩
end

section
/-! PROOFS. The registers of the DMA channels, the operations of a channel on them, and the request lines (R309 to R315). -/

namespace Sys2Proof.Machine

open Sys2Proof.Claims

/-! Fields of a channel. -/

/-- A field that each channel of a DMA page has (R328). -/
def Fld.ofChan (f : Fld) : Bool :=
  f.stride == 0x100 && decide (0x200 ≤ f.off) && decide (f.off < 0x300) && decide (f.lo ≤ f.hi) && decide (f.hi < 32)

/-- Two fields of a channel that share no bit. -/
def Fld.besides (f g : Fld) : Bool := f.ofChan && g.ofChan && (f.off != g.off || f.apart g)

theorem Fld.ofChan_iff {f : Fld} : f.ofChan = true ↔ f.stride = 0x100 ∧ 0x200 ≤ f.off ∧ f.off < 0x300 ∧ f.lo ≤ f.hi ∧ f.hi < 32 := by
  simp only [Fld.ofChan, Bool.and_eq_true, beq_iff_eq, decide_eq_true_eq, and_assoc]

theorem Fld.addr_chan {f : Fld} (hf : f.ofChan = true) (n c : Nat) : f.addr (pgDma n c) (c % 8) = pgDma n c + f.off + 0x100 * (c % 8) := by
  rw [Fld.addr, (Fld.ofChan_iff.mp hf).1]

theorem Fld.chanReg {f : Fld} (hf : f.ofChan = true) (n c : Nat) : ChanReg n c (f.addr (pgDma n c) (c % 8)) := by
  obtain ⟨-, hlo, hhi, -⟩ := Fld.ofChan_iff.mp hf
  rw [Fld.addr_chan hf]
  exact .inl (by omega)

/-- The registers of two channels of a die are apart. -/
theorem Fld.addr_ne_chan {f g : Fld} (hf : f.ofChan = true) (hg : g.ofChan = true) (n : Nat) {c d : Nat} (h : c ≠ d) :
    g.addr (pgDma n d) (d % 8) ≠ f.addr (pgDma n c) (c % 8) := by
  obtain ⟨-, hlo, hhi, -⟩ := Fld.ofChan_iff.mp hf
  obtain ⟨-, hlo', hhi', -⟩ := Fld.ofChan_iff.mp hg
  rw [Fld.addr_chan hf, Fld.addr_chan hg]
  unfold pgDma
  omega

theorem State.cf_setCf_self (s : State) (n c : Nat) {f : Fld} (v : Nat) (hf : f.ofChan = true) :
    (s.setCf n c f v).cf n c f = v % 2 ^ (f.hi + 1 - f.lo) := by
  obtain ⟨-, -, -, hle, h32⟩ := Fld.ofChan_iff.mp hf
  exact State.rf_wf_self _ _ _ _ _ hle h32

/-- A field of a channel keeps its value when one that shares no bit with it is written. -/
theorem State.cf_setCf_besides (s : State) (n c : Nat) {f g : Fld} (v : Nat) (h : f.besides g = true) : (s.setCf n c f v).cf n c g = s.cf n c g := by
  simp only [Fld.besides, Bool.and_eq_true, Bool.or_eq_true, bne_iff_ne, Fld.apart, decide_eq_true_eq, and_assoc] at h
  obtain ⟨hf, hg, happ⟩ := h
  obtain ⟨-, -, -, hle, h32⟩ := Fld.ofChan_iff.mp hf
  by_cases hoff : f.off = g.off
  · have haddr : g.addr (pgDma n c) (c % 8) = f.addr (pgDma n c) (c % 8) := by rw [Fld.addr_chan hf, Fld.addr_chan hg, hoff]
    exact State.rf_wf_beside _ _ _ _ _ _ _ haddr hle h32 ((happ.resolve_left fun h => h hoff).symm)
  · refine State.rf_wf_other _ _ _ _ _ _ _ _ ?_
    rw [Fld.addr_chan hf, Fld.addr_chan hg]
    omega

theorem State.cf_setCf_chan (s : State) (n : Nat) {c d : Nat} {f g : Fld} (v : Nat) (hf : f.ofChan = true) (hg : g.ofChan = true) (h : c ≠ d) :
    (s.setCf n c f v).cf n d g = s.cf n d g := State.rf_wf_other _ _ _ _ _ _ _ _ (Fld.addr_ne_chan hf hg n h)

@[simp] theorem State.setCf_chans (s : State) (n c : Nat) (f : Fld) (v : Nat) : (s.setCf n c f v).chans = s.chans := rfl

@[simp] theorem State.chan_setCf (s : State) (n c d : Nat) (f : Fld) (v : Nat) : (s.setCf n c f v).chan n d = s.chan n d := rfl

@[simp] theorem State.cf_setChan (s : State) (n c d : Nat) (v : Chan) (f : Fld) : (s.setChan n c v).cf n d f = s.cf n d f := rfl

@[simp] theorem State.chan_setChan_self (s : State) (n c : Nat) (v : Chan) : (s.setChan n c v).chan n c = v := by
  unfold State.chan State.setChan aget
  rw [aget?_aput_same]
  rfl

theorem State.isDirect_of_cf {s t : State} {n c : Nat} (h : t.cf n c R.DMA.CH_CTL_OWNER = s.cf n c R.DMA.CH_CTL_OWNER) :
    t.isDirect n c = s.isDirect n c := by
  unfold State.isDirect
  rw [h]

/-! A channel's pages written, and nothing else. -/

/-- `t` is `s` but for registers of a channel, those of its die that show it, and the channels' own data. -/
structure ChanOnly (n c : Nat) (s t : State) : Prop where
  frame : ∃ r ch, t = { s with regs := r, chans := ch }
  regs : SameRegs s t (ChanReg n c)

section
variable {n c : Nat} {s t u : State}

theorem ChanOnly.refl (n c : Nat) (s : State) : ChanOnly n c s s := ⟨⟨_, _, rfl⟩, fun _ _ => rfl⟩

theorem ChanOnly.trans (h : ChanOnly n c s t) (g : ChanOnly n c t u) : ChanOnly n c s u where
  frame := by
    obtain ⟨r, ch, rfl⟩ := h.frame
    obtain ⟨r', ch', rfl⟩ := g.frame
    exact ⟨r', ch', rfl⟩
  regs o ho := (g.regs o ho).trans (h.regs o ho)

theorem ChanOnly.sameBytes (h : ChanOnly n c s t) : SameBytes s t := by
  obtain ⟨r, ch, rfl⟩ := h.frame
  exact fun _ => rfl

theorem ChanOnly.sameSeals (h : ChanOnly n c s t) : SameSeals s t := by
  obtain ⟨r, ch, rfl⟩ := h.frame
  exact fun _ => rfl

theorem ChanOnly.tasks (h : ChanOnly n c s t) : t.tasks = s.tasks := by
  obtain ⟨r, ch, rfl⟩ := h.frame
  rfl

theorem ChanOnly.dmaQueue (h : ChanOnly n c s t) : t.dmaQueue = s.dmaQueue := by
  obtain ⟨r, ch, rfl⟩ := h.frame
  rfl

theorem ChanOnly.wf (h : ChanOnly n c s t) {page : Nat} {f : Fld} {v i : Nat} (ho : ChanReg n c (f.addr page i)) : ChanOnly n c s (t.wf page f v i) :=
  h.trans ⟨⟨_, _, rfl⟩, fun _ hx => State.reg_wf_other _ _ _ _ _ _ fun e => hx (e ▸ ho)⟩

theorem ChanOnly.setCf (h : ChanOnly n c s t) {f : Fld} {v : Nat} (hf : f.ofChan = true) : ChanOnly n c s (t.setCf n c f v) := h.wf (Fld.chanReg hf n c)

theorem ChanOnly.setChan (h : ChanOnly n c s t) (v : Chan) : ChanOnly n c s (t.setChan n c v) := h.trans ⟨⟨_, _, rfl⟩, fun _ _ => rfl⟩

theorem ChanOnly.showChan (h : ChanOnly n c s t) : ChanOnly n c s (t.showChan n c) :=
  ((h.setCf (by decide)).wf (.inr (.inl rfl))).wf (.inr (.inr rfl))

end

/-! The pages show a channel. -/

/-- The registers of a die that show the states of its channels. -/
def ShowReg (n o : Nat) : Prop := o = pgMemDie n + R.MEM_DIE.CHAN_BUSY.off ∨ o = pgMemDie n + R.MEM_DIE.CHAN_OWNER.off

theorem Fld.addr_not_show {g : Fld} (hg : g.ofChan = true) (n c : Nat) : ¬ShowReg n (g.addr (pgDma n c) (c % 8)) := by
  obtain ⟨-, hlo, hhi, -⟩ := Fld.ofChan_iff.mp hg
  rw [Fld.addr_chan hg]
  unfold ShowReg pgDma R.MEM_DIE.CHAN_BUSY R.MEM_DIE.CHAN_OWNER
  dsimp only
  omega

theorem State.cf_showChan_of (s : State) (n c d : Nat) {g : Fld} (hg : g.ofChan = true) :
    (s.showChan n c).cf n d g = (s.setCf n c R.DMA.CH_STATUS_STATE (s.chanState n c)).cf n d g := by
  obtain ⟨hbusy, howner⟩ := not_or.mp (Fld.addr_not_show hg n d)
  exact (State.rf_wf_other _ _ _ _ _ _ _ _ howner).trans (State.rf_wf_other _ _ _ _ _ _ _ _ hbusy)

theorem State.cf_showChan (s : State) (n c : Nat) {g : Fld} (h : R.DMA.CH_STATUS_STATE.besides g = true) : (s.showChan n c).cf n c g = s.cf n c g := by
  have hg : g.ofChan = true := by
    simp only [Fld.besides, Bool.and_eq_true] at h
    exact h.1.2
  rw [State.cf_showChan_of s n c c hg, State.cf_setCf_besides _ _ _ _ h]

theorem State.cf_showChan_chan (s : State) (n : Nat) {c d : Nat} {g : Fld} (hg : g.ofChan = true) (h : c ≠ d) :
    (s.showChan n c).cf n d g = s.cf n d g := by
  rw [State.cf_showChan_of s n c d hg, State.cf_setCf_chan _ _ _ (by decide) hg h]

@[simp] theorem State.showChan_chans (s : State) (n c : Nat) : (s.showChan n c).chans = s.chans := by
  unfold State.showChan
  rw [State.wf_chans, State.wf_chans, State.setCf_chans]

@[simp] theorem State.chan_showChan (s : State) (n c d : Nat) : (s.showChan n c).chan n d = s.chan n d := by
  unfold State.chan
  rw [State.showChan_chans]

theorem State.cf_showChan_state (s : State) (n c : Nat) : (s.showChan n c).cf n c R.DMA.CH_STATUS_STATE = s.chanState n c := by
  rw [State.cf_showChan_of s n c c (by decide), State.cf_setCf_self _ _ _ _ (by decide)]
  refine Nat.mod_eq_of_lt ?_
  unfold State.chanState
  dsimp only
  repeat' split
  all_goals decide

/-- A bit of a mask of channels set or cleared. -/
theorem bit_mask (old c : Nat) (b : Bool) (h : c < 32) : bit ((if b then old ||| 2 ^ c else old - (old &&& 2 ^ c)) % 2 ^ 32) c = b := by
  rw [bit_eq_testBit, Nat.testBit_mod_two_pow, decide_eq_true h, Bool.true_and, ← bit_eq_testBit]
  cases b
  · rw [if_neg Bool.false_ne_true, bit_sub_and, bit_eq_testBit (2 ^ c), Nat.testBit_two_pow_self, Bool.not_true, Bool.and_false]
  · rw [if_pos rfl, bit_or, bit_eq_testBit (2 ^ c), Nat.testBit_two_pow_self, Bool.or_true]

theorem State.owner_showChan (s : State) (n : Nat) {c : Nat} (hc : c < 32) :
    bit ((s.showChan n c).rf (pgMemDie n) R.MEM_DIE.CHAN_OWNER) c = s.isDirect n c := by
  unfold State.showChan
  dsimp only
  obtain ⟨hbusy, -⟩ := not_or.mp (Fld.addr_not_show (g := R.DMA.CH_CTL_OWNER) (by decide) n c)
  rw [State.rf_wf_self _ _ _ _ _ (by decide) (by decide)]
  refine (bit_mask _ c _ hc).trans (State.isDirect_of_cf ?_)
  exact (State.rf_wf_other _ _ _ _ _ _ _ _ hbusy).trans (State.cf_setCf_besides _ _ _ _ (by decide))

end Sys2Proof.Machine
end

section
namespace Sys2Proof.Machine

open Sys2Proof.Claims

/-! Pairs of a channel. -/

/-- A pair reads as written, as far as it fits. -/
theorem State.rf64_wf64_mod (s : State) (page : Nat) {lo hi : Fld} (v i : Nat) (hl : lo.lo = 0 ∧ lo.hi = 31) (hh : hi.lo = 0 ∧ hi.hi = 31)
    (hne : lo.addr page i ≠ hi.addr page i) : (s.wf64 page lo hi v i).rf64 page lo hi i = v % 2 ^ 64 := by
  unfold State.rf64 State.wf64
  rw [State.rf_wf_other _ _ _ _ _ _ _ _ hne, State.rf_wf_whole _ _ _ _ hl.1 hl.2, State.rf_wf_whole _ _ _ _ hh.1 hh.2, hl.1]
  omega

/-- A pair of a channel keeps its value with its halves. -/
theorem State.rf64_of_cf {s t : State} {n c : Nat} {lo hi : Fld} (hl : t.cf n c lo = s.cf n c lo) (hh : t.cf n c hi = s.cf n c hi) :
    t.rf64 (pgDma n c) lo hi (c % 8) = s.rf64 (pgDma n c) lo hi (c % 8) :=
  congrArg₂ (fun a b => 2 ^ lo.lo * a + 2 ^ 32 * b) hl hh

theorem State.cf_wf64_besides (s : State) (n c : Nat) {lo hi g : Fld} (v : Nat) (hl : lo.besides g = true) (hh : hi.besides g = true) :
    (s.wf64 (pgDma n c) lo hi v (c % 8)).cf n c g = s.cf n c g :=
  (State.cf_setCf_besides _ _ _ _ hh).trans (State.cf_setCf_besides _ _ _ _ hl)

/-! A transfer starts (R310, R312). -/

/-- The channel's own data once it runs a transfer. -/
def Chan.started (v : Chan) (dst len : Nat) : Chan := { v with busy := true, ended := if len == 0 then 1 else 0, first := dst }

/-- Of a channel's registers, those of the active set and its status: all that a transfer's start writes. -/
def Fld.active (f : Fld) : Bool := decide (0x224 ≤ f.off) && decide (f.off < 0x23C)

theorem Fld.besides_of_off {f g : Fld} (hf : f.ofChan = true) (hg : g.ofChan = true) (h : f.off ≠ g.off) : f.besides g = true := by
  simp [Fld.besides, hf, hg, h]

theorem Fld.active_besides {f g : Fld} (hf : f.ofChan = true) (ha : f.active = true) (hg : g.ofChan = true) (h : g.active = false) : f.besides g = true :=
  Fld.besides_of_off hf hg fun e => by
    unfold Fld.active at ha h
    rw [e, h] at ha
    exact Bool.false_ne_true ha

/-- The active set written: source, destination and bytes left. -/
def State.setActive (s : State) (n c src dst len : Nat) : State :=
  ((s.wf64 (pgDma n c) R.DMA.ACT_SRC_LO R.DMA.ACT_SRC_HI src (c % 8)).wf64 (pgDma n c) R.DMA.ACT_DST_LO R.DMA.ACT_DST_HI dst (c % 8)).setCf
    n c R.DMA.RESIDUE len

theorem ChanOnly.wf64 {n c : Nat} {s t : State} (h : ChanOnly n c s t) {lo hi : Fld} {v : Nat} (hl : lo.ofChan = true) (hh : hi.ofChan = true) :
    ChanOnly n c s (t.wf64 (pgDma n c) lo hi v (c % 8)) := (h.setCf hl).setCf hh

section
variable (s : State) (n c src dst len : Nat)

theorem State.setActive_only : ChanOnly n c s (s.setActive n c src dst len) :=
  (((ChanOnly.refl n c s).wf64 (by decide) (by decide)).wf64 (by decide) (by decide)).setCf (by decide)

theorem State.setActive_chans : (s.setActive n c src dst len).chans = s.chans := by
  unfold State.setActive
  rw [State.setCf_chans, State.wf64_chans, State.wf64_chans]

theorem State.actSrc_setActive : actSrc (s.setActive n c src dst len) n c = src % 2 ^ 64 := by
  unfold State.setActive actSrc
  rw [State.rf64_of_cf (State.cf_setCf_besides _ _ _ _ (by decide)) (State.cf_setCf_besides _ _ _ _ (by decide)),
    State.rf64_of_cf (State.cf_wf64_besides _ _ _ _ (by decide) (by decide)) (State.cf_wf64_besides _ _ _ _ (by decide) (by decide))]
  exact State.rf64_wf64_mod _ _ _ _ (by decide) (by decide) (by simp [Fld.addr, R.DMA.ACT_SRC_LO, R.DMA.ACT_SRC_HI])

theorem State.actDst_setActive : actDst (s.setActive n c src dst len) n c = dst % 2 ^ 64 := by
  unfold State.setActive actDst
  rw [State.rf64_of_cf (State.cf_setCf_besides _ _ _ _ (by decide)) (State.cf_setCf_besides _ _ _ _ (by decide))]
  exact State.rf64_wf64_mod _ _ _ _ (by decide) (by decide) (by simp [Fld.addr, R.DMA.ACT_DST_LO, R.DMA.ACT_DST_HI])

theorem State.residue_setActive : (s.setActive n c src dst len).cf n c R.DMA.RESIDUE = len % 2 ^ 32 := State.cf_setCf_self _ _ _ _ (by decide)

theorem State.cf_setActive {g : Fld} (hg : g.ofChan = true) (ha : g.active = false) : (s.setActive n c src dst len).cf n c g = s.cf n c g := by
  have hb : ∀ f : Fld, f.ofChan = true → f.active = true → f.besides g = true := fun f hf hact => Fld.active_besides hf hact hg ha
  unfold State.setActive
  rw [State.cf_setCf_besides _ _ _ _ (hb _ (by decide) (by decide)),
    State.cf_wf64_besides _ _ _ _ (hb _ (by decide) (by decide)) (hb _ (by decide) (by decide)),
    State.cf_wf64_besides _ _ _ _ (hb _ (by decide) (by decide)) (hb _ (by decide) (by decide))]

/-- What shows the channel's state keeps its active set. -/
theorem State.actSrc_showChan : actSrc (s.showChan n c) n c = actSrc s n c :=
  State.rf64_of_cf (State.cf_showChan _ _ _ (by decide)) (State.cf_showChan _ _ _ (by decide))

theorem State.actDst_showChan : actDst (s.showChan n c) n c = actDst s n c :=
  State.rf64_of_cf (State.cf_showChan _ _ _ (by decide)) (State.cf_showChan _ _ _ (by decide))

/-- The credits of a channel start again where another line paces it. -/
def State.resetCredits (v : Chan) : State := if (s.chan n c).line == v.line then s else s.setCf n c R.DMA.CH_STATUS_CREDITS 0

theorem State.startXfer_eq (v : Chan) : s.startXfer n c src dst len v =
    (((s.resetCredits n c v).setChan n c (v.started dst len)).setActive n c src dst len).showChan n c := rfl

theorem State.resetCredits_only (v : Chan) : ChanOnly n c s (s.resetCredits n c v) := by
  unfold State.resetCredits
  split
  · exact .refl n c s
  · exact (ChanOnly.refl n c s).setCf (by decide)

theorem State.cf_resetCredits (v : Chan) {g : Fld} (hg : g.ofChan = true) (ha : g.active = false) : (s.resetCredits n c v).cf n c g = s.cf n c g := by
  unfold State.resetCredits
  split
  · rfl
  · exact State.cf_setCf_besides _ _ _ _ (Fld.active_besides (by decide) (by decide) hg ha)

theorem State.startXfer_only (v : Chan) : ChanOnly n c s (s.startXfer n c src dst len v) := by
  rw [State.startXfer_eq]
  exact (((State.resetCredits_only s n c v).setChan _).trans (State.setActive_only _ _ _ _ _ _)).showChan

theorem State.chan_startXfer (v : Chan) : (s.startXfer n c src dst len v).chan n c = v.started dst len := by
  rw [State.startXfer_eq, State.chan_showChan]
  unfold State.chan
  rw [State.setActive_chans]
  exact State.chan_setChan_self _ _ _ _

theorem State.startXfer_transfers (v : Chan) :
    Transfers (s.startXfer n c src dst len v) n c (src % 2 ^ 64) (dst % 2 ^ 64) (len % 2 ^ 32) v.task := by
  refine ⟨by rw [State.chan_startXfer]; rfl, by rw [State.chan_startXfer]; rfl, ?_, ?_, ?_⟩
  · rw [State.startXfer_eq, State.actSrc_showChan, State.actSrc_setActive]
  · rw [State.startXfer_eq, State.actDst_showChan, State.actDst_setActive]
  · rw [State.startXfer_eq, State.cf_showChan _ _ _ (by decide), State.residue_setActive]

theorem State.cf_startXfer (v : Chan) {g : Fld} (hg : g.ofChan = true) (ha : g.active = false) :
    (s.startXfer n c src dst len v).cf n c g = s.cf n c g := by
  rw [State.startXfer_eq, State.cf_showChan _ _ _ (Fld.active_besides (by decide) (by decide) hg ha), State.cf_setActive _ _ _ _ _ _ hg ha,
    State.cf_setChan, State.cf_resetCredits _ _ _ _ hg ha]

end

/-! The shadow of a channel (R312). -/

/-- The configuration that a direct channel's shadow describes. -/
def State.directSet (s : State) (n c : Nat) : Chan :=
  { Chan.idle with
    burst := s.cf n c R.DMA.CFG_BURST, pace := s.cf n c R.DMA.CFG_PACE == 1, line := s.cf n c R.DMA.CFG_REQ_LINE
    irq := s.cf n c R.DMA.CFG_IRQ == 1, stat := s.rf64 (pgDma n c) R.DMA.STAT_ADDR_LO_ADDR R.DMA.STAT_ADDR_HI_ADDR (c % 8) }

section
variable {s : State} {n c : Nat}

theorem State.takeShadow_busy (h : (s.chan n c).busy = true) : s.takeShadow n c = s := if_pos h

theorem State.takeShadow_direct (h : (s.chan n c).busy = false) (hd : s.isDirect n c = true) (ha : s.cf n c R.DMA.CH_CTL_ARM = 1) :
    s.takeShadow n c = (s.setCf n c R.DMA.CH_CTL_ARM 0).startXfer n c (s.rf64 (pgDma n c) R.DMA.SRC_LO_ADDR R.DMA.SRC_HI_ADDR (c % 8))
      (s.rf64 (pgDma n c) R.DMA.DST_LO_ADDR R.DMA.DST_HI_ADDR (c % 8)) (64 * s.cf n c R.DMA.LEN_BYTES) (s.directSet n c) := by
  unfold State.takeShadow
  dsimp only
  rw [if_neg (ne_true_of_eq_false h), if_pos hd, if_pos (beq_iff_eq.mpr ha)]
  rfl

/-- Nothing stands in the shadow. -/
theorem State.takeShadow_empty (ha : s.cf n c R.DMA.CH_CTL_ARM = 0) (hs : (s.chan n c).shadow = none) : s.takeShadow n c = s := by
  unfold State.takeShadow
  dsimp only
  rw [ha, hs]
  split
  · rfl
  · split <;> rfl

theorem State.arm_direct (hd : s.isDirect n c = true) : s.arm n c = (s.setCf n c R.DMA.CH_CTL_ARM 1).takeShadow n c := if_pos hd

theorem State.arm_graph (hd : s.isDirect n c = false) : s.arm n c = s := if_neg (by rw [hd]; exact Bool.false_ne_true)

theorem State.isDirect_setCf {f : Fld} (v : Nat) (h : f.besides R.DMA.CH_CTL_OWNER = true) : (s.setCf n c f v).isDirect n c = s.isDirect n c :=
  State.isDirect_of_cf (State.cf_setCf_besides _ _ _ _ h)

/-- A pair holds 64 bits. -/
theorem State.rf64_lt {lo hi : Fld} (hl : lo.lo ≤ lo.hi ∧ lo.hi = 31) (hh : hi.lo = 0 ∧ hi.hi ≤ 31) (s : State) (page i : Nat) :
    s.rf64 page lo hi i < 2 ^ 64 := by
  have h1 : s.rf page lo i < 2 ^ (lo.hi + 1 - lo.lo) := getBits_lt _ _ _
  have h2 : s.rf page hi i < 2 ^ (hi.hi + 1 - hi.lo) := getBits_lt _ _ _
  have h3 : 2 ^ lo.lo * 2 ^ (lo.hi + 1 - lo.lo) = 2 ^ 32 := by
    rw [← pow_add, hl.2]
    congr 1
    have := hl.2 ▸ hl.1
    omega
  have h5 : 2 ^ (hi.hi + 1 - hi.lo) ≤ 2 ^ 32 := Nat.pow_le_pow_right (by decide) (by omega)
  unfold State.rf64
  have h4 : 2 ^ lo.lo * s.rf page lo i < 2 ^ 32 := h3 ▸ Nat.mul_lt_mul_of_pos_left h1 (Nat.two_pow_pos _)
  omega

/-- A field of the shadow keeps its value when `ARM` is set. -/
theorem State.rf64_setArm (s : State) (n c v : Nat) {lo hi : Fld} (hl : R.DMA.CH_CTL_ARM.besides lo = true) (hh : R.DMA.CH_CTL_ARM.besides hi = true) :
    (s.setCf n c R.DMA.CH_CTL_ARM v).rf64 (pgDma n c) lo hi (c % 8) = s.rf64 (pgDma n c) lo hi (c % 8) :=
  State.rf64_of_cf (State.cf_setCf_besides _ _ _ _ hl) (State.cf_setCf_besides _ _ _ _ hh)

theorem State.arm_idle_eq (hd : s.isDirect n c = true) (hb : (s.chan n c).busy = false) :
    s.arm n c = ((s.setCf n c R.DMA.CH_CTL_ARM 1).setCf n c R.DMA.CH_CTL_ARM 0).startXfer n c
      (s.rf64 (pgDma n c) R.DMA.SRC_LO_ADDR R.DMA.SRC_HI_ADDR (c % 8)) (s.rf64 (pgDma n c) R.DMA.DST_LO_ADDR R.DMA.DST_HI_ADDR (c % 8))
      (64 * s.cf n c R.DMA.LEN_BYTES) ((s.setCf n c R.DMA.CH_CTL_ARM 1).directSet n c) := by
  rw [State.arm_direct hd, State.takeShadow_direct (by rw [State.chan_setCf, hb]) (by rw [State.isDirect_setCf 1 (by decide), hd])
    (State.cf_setCf_self _ _ _ _ (by decide)), State.rf64_setArm _ _ _ _ (by decide) (by decide), State.rf64_setArm _ _ _ _ (by decide) (by decide),
    State.cf_setCf_besides _ _ _ _ (by decide)]

/-- `ARM` of an idle direct channel starts what its shadow describes. -/
theorem State.arm_idle (hd : s.isDirect n c = true) (hb : (s.chan n c).busy = false) : ChanOnly n c s (s.arm n c) ∧
    Transfers (s.arm n c) n c (s.rf64 (pgDma n c) R.DMA.SRC_LO_ADDR R.DMA.SRC_HI_ADDR (c % 8))
      (s.rf64 (pgDma n c) R.DMA.DST_LO_ADDR R.DMA.DST_HI_ADDR (c % 8)) (64 * s.cf n c R.DMA.LEN_BYTES) none ∧
    (s.arm n c).cf n c R.DMA.CH_CTL_ARM = 0 := by
  have hlen : s.cf n c R.DMA.LEN_BYTES < 2 ^ 26 := getBits_lt _ _ _
  have hfit : 64 * s.cf n c R.DMA.LEN_BYTES < 2 ^ 32 := by omega
  rw [State.arm_idle_eq hd hb]
  refine ⟨(((ChanOnly.refl n c s).setCf (by decide)).setCf (by decide)).trans (State.startXfer_only _ _ _ _ _ _ _), ?_, ?_⟩
  · have htrans := State.startXfer_transfers ((s.setCf n c R.DMA.CH_CTL_ARM 1).setCf n c R.DMA.CH_CTL_ARM 0) n c
      (s.rf64 (pgDma n c) R.DMA.SRC_LO_ADDR R.DMA.SRC_HI_ADDR (c % 8)) (s.rf64 (pgDma n c) R.DMA.DST_LO_ADDR R.DMA.DST_HI_ADDR (c % 8))
      (64 * s.cf n c R.DMA.LEN_BYTES) ((s.setCf n c R.DMA.CH_CTL_ARM 1).directSet n c)
    rw [Nat.mod_eq_of_lt (State.rf64_lt (by decide) (by decide) _ _ _), Nat.mod_eq_of_lt (State.rf64_lt (by decide) (by decide) _ _ _),
      Nat.mod_eq_of_lt hfit] at htrans
    exact htrans
  · rw [State.cf_startXfer _ _ _ _ _ _ _ (by decide) (by decide), State.cf_setCf_self _ _ _ _ (by decide)]
    rfl

end

end Sys2Proof.Machine
end

section
namespace Sys2Proof.Machine

open Sys2Proof.Claims

/-! Registers whose fields take any value: no clamp is counted (R45). -/

/-- A field that takes any value changes its own register alone. -/
theorem State.reg_writeFld_other (s : State) (view : View) (off : Nat) (w : Word) {f : Fld} (hf : f.legal = .any) {o : Nat} (ho : o ≠ off) :
    (s.writeFld view off w f).reg o = s.reg o := by
  unfold State.writeFld
  by_cases hl : (f.l11 && !s.level11) = true
  · rw [if_pos hl]
  · rw [if_neg hl]
    cases f.acc with
    | ro | w1s | wo => rfl
    | w1c => exact s.reg_setReg_other _ _ _ ho
    | rw | rwp =>
      dsimp only
      split
      · rfl
      · rw [hf]
        exact (congrArg (fun t : State => t.reg o) (if_pos (beq_self_eq_true (getBits w f.hi f.lo)))).trans (s.reg_setReg_other _ _ _ ho)

theorem State.reg_writeFlds_other (s : State) (view : View) (off : Nat) (w : Word) {fs : List Fld} (hfs : ∀ f ∈ fs, f.legal = .any) {o : Nat}
    (ho : o ≠ off) : (s.writeFlds view off w fs).reg o = s.reg o := by
  unfold State.writeFlds
  induction fs generalizing s with
  | nil => rfl
  | cons f fs ih =>
    exact (ih (s.writeFld view off w f) fun g hg => hfs g (List.mem_cons_of_mem _ hg)).trans
      (s.reg_writeFld_other view off w (hfs f List.mem_cons_self) ho)

/-- What a HI half written does: with its LO half held, both take their words. -/
structure TakesPair (s t : State) (view : View) (off : Nat) (w : Word) (c : Cls) : Prop where
  hi    : ∀ f ∈ c.fieldsAt (off % 0x1000), TakesField s t view off w f
  lo    : ∀ l, aget? s.pairHold off = some l → ∀ f ∈ c.fieldsAt (off % 0x1000 - 4), TakesField s t view (off - 4) l f
  regs  : SameRegs s t fun o => o = off - 4 ∨ o = off
  bytes : SameBytes s t
  seals : SameSeals s t

theorem State.plainWrite_takesPair (s : State) {view : View} {off : Nat} (w : Word) {p : PageRef} (hp : pageAt off = some p)
    (hl : ¬HalfAt p .lo view off) (hh : HalfAt p .hi view off) (hany : ∀ f ∈ p.cls.fields, f.legal = .any) (hlow : 0x1000 ≤ off - 4) :
    TakesPair s (s.plainWrite view off w) view off w p.cls := by
  have hbeyond : 0x1000 ≤ off := by omega
  have hne : off - 4 ≠ off := by omega
  have hat : ∀ x, ∀ f ∈ p.cls.fieldsAt x, f.legal = .any := fun x f hf => hany f (List.mem_of_mem_filter hf)
  rw [s.plainWrite_hi w hp hl hh]
  cases hold : aget? s.pairHold off with
  | none =>
    have hw := s.writeFlds_writesWord view w (p.cls.fieldsAt (off % 0x1000)) hbeyond
    exact ⟨takesField_of_reg hw.self, fun l hl => (nomatch hold.symm.trans hl),
      fun o ho => s.reg_writeFlds_other _ _ _ (hat _) (not_or.mp ho).2, hw.frame.sameBytes, hw.frame.sameSeals⟩
  | some lo =>
    dsimp only
    generalize hs0 : { s with pairHold := aerase s.pairHold off } = s0
    have hreg : ∀ o, s0.reg o = s.reg o := fun o => by rw [← hs0]; rfl
    have hlev : s0.level11 = s.level11 := by rw [← hs0]; rfl
    have hbytes : SameBytes s s0 := by rw [← hs0]; exact fun _ => rfl
    have hseals : SameSeals s s0 := by rw [← hs0]; exact fun _ => rfl
    have h1 := s0.writeFlds_writesWord view lo (p.cls.fieldsAt (off % 0x1000 - 4)) hlow
    have h2 := State.writeFlds_writesWord (s0.writeFlds view (off - 4) lo (p.cls.fieldsAt (off % 0x1000 - 4))) view w
      (p.cls.fieldsAt (off % 0x1000)) hbeyond
    have hhi := h2.self
    rw [h1.level11 hlow, State.reg_writeFlds_other _ _ _ _ (hat _) hne.symm, hreg, hlev] at hhi
    have hlo := (State.reg_writeFlds_other _ view off w (hat (off % 0x1000)) hne).trans h1.self
    rw [hreg, hlev] at hlo
    have hf := h1.frame.trans h2.frame
    refine ⟨takesField_of_reg hhi, fun l h => ?_, fun o ho => ?_, fun a => (hf.sameBytes a).trans (hbytes a), fun k => (hf.sameSeals k).trans (hseals k)⟩
    · obtain rfl := Option.some.inj (hold.symm.trans h)
      exact takesField_of_reg hlo
    · obtain ⟨ho1, ho2⟩ := not_or.mp ho
      rw [State.reg_writeFlds_other _ _ _ _ (hat _) ho2, State.reg_writeFlds_other _ _ _ _ (hat _) ho1, hreg]

/-! The registers of a shadow (Table 12-10). -/

theorem dma_fields_any : ∀ f ∈ Cls.dma.fields, f.legal = .any := by decide

/-- The shadow's registers that are LO halves, and those that are HI halves. -/
theorem shadow_parts : ∀ j reg : Fin 8,
    ((Cls.dma.fieldsAt (0x200 + 0x100 * j + 4 * reg)).any fun f => f.part == .lo && f.writable .bar0) = decide (reg.val ∈ [0, 2, 6]) ∧
    ((Cls.dma.fieldsAt (0x200 + 0x100 * j + 4 * reg)).any fun f => f.part == .hi && f.writable .bar0) = decide (reg.val ∈ [1, 3, 7]) := by decide

section
variable {n : Die8} {c : ChanNo} {reg : Fin 8} {off : Nat} (hoff : off = pgDma n c + 0x200 + 0x100 * (c % 8) + 4 * reg)
include hoff

theorem shadow_off_mod : off % 0x1000 = 0x200 + 0x100 * (c % 8) + 4 * reg := by
  have hreg := reg.isLt
  rw [hoff]
  unfold pgDma pgMemDie quadBase
  omega

theorem pageAt_shadow : pageAt off = some ⟨.dma, n / 2, 3 + n % 2, c / 8⟩ := by
  have hreg := reg.isLt
  have hpage : off / 0x1000 = pgDma n c / 0x1000 := by
    rw [hoff]
    unfold pgDma pgMemDie quadBase
    omega
  have hat := pageAt_dma n c
  unfold pageAt at hat ⊢
  rw [hpage]
  exact hat

theorem shadow_lo_iff {p : PageRef} (hp : p.cls = .dma) : HalfAt p .lo .bar0 off ↔ reg.val ∈ [0, 2, 6] := by
  have hparts := (shadow_parts ⟨c % 8, Nat.mod_lt _ (by decide)⟩ reg).1
  rw [← halfAt_iff, hp, shadow_off_mod hoff, hparts, decide_eq_true_iff]

theorem shadow_hi_iff {p : PageRef} (hp : p.cls = .dma) : HalfAt p .hi .bar0 off ↔ reg.val ∈ [1, 3, 7] := by
  have hparts := (shadow_parts ⟨c % 8, Nat.mod_lt _ (by decide)⟩ reg).2
  rw [← halfAt_iff, hp, shadow_off_mod hoff, hparts, decide_eq_true_iff]

end

theorem Notes.sameBytes {P : Nat → Prop} {s t : State} (h : Notes P s t) : SameBytes s t := h.quiet.bytes

theorem Notes.sameSeals {P : Nat → Prop} {s t : State} (h : Notes P s t) : SameSeals s t := h.quiet.seals

/-! The commands of a channel's registers (R309, R312, R315). -/

/-- A page counts an error. -/
theorem State.hdr_err (s : State) (page event detail : Nat) : (s.err page event detail).hdr page oERR_COUNT = up32 (s.hdr page oERR_COUNT) := by
  unfold State.err
  rw [State.hdr, State.reg_setReg_other _ _ _ _ (show page + oERR_COUNT ≠ page + oERR_LAST from fun h => nomatch Nat.add_left_cancel h),
    State.reg_setReg_self]
  refine Nat.mod_eq_of_lt ?_
  exact lt_of_le_of_lt (Nat.min_le_right _ _) (by decide)

/-- Only the error registers of a page and what reports it. -/
def ErrReg (page o : Nat) : Prop := o = page + oERR_COUNT ∨ o = page + oERR_LAST ∨ Reports o

theorem State.err_log_notes (s : State) (page code detail : Nat) (d : List Nat) : Notes (ErrReg page) s ((s.err page code detail).log page code d) :=
  ((Notes.refl _ s).err (.inl rfl) (.inr (.inl rfl))).log fun _ h => .inr (.inr h)

theorem State.err_log_logged (s : State) (page code detail : Nat) (d : List Nat) : Logged s ((s.err page code detail).log page code d) code d :=
  Quiet.logged (page := page) ((Notes.refl (ErrReg page) s).err (.inl rfl) (.inr (.inl rfl))).quiet (Notes.refl (ErrReg page) _).quiet

/-- An idle channel with nothing armed takes its owner (R309). -/
theorem State.setOwner_idle {s : State} {n c : Nat} {direct : Bool} (hb : (s.chan n c).busy = false) (hs : (s.chan n c).shadow = none)
    (ha : s.cf n c R.DMA.CH_CTL_ARM = 0) (hq : s.dmaQueue = []) :
    s.setOwner n c direct = (s.setCf n c R.DMA.CH_CTL_OWNER (b2n direct)).showChan n c := by
  have hq' : ((s.setCf n c R.DMA.CH_CTL_OWNER (b2n direct)).showChan n c).dmaQueue = [] :=
    (((ChanOnly.refl n c s).setCf (f := R.DMA.CH_CTL_OWNER) (by decide)).showChan.dmaQueue).trans hq
  unfold State.setOwner
  dsimp only
  rw [hb, hs, ha]
  exact State.pumpDma_none hq'

theorem State.setOwner_busy {s : State} {n c : Nat} {direct : Bool} (hb : (s.chan n c).busy = true) : s.setOwner n c direct = s :=
  if_pos (by rw [hb]; rfl)

theorem State.isDirect_owner (s : State) (n c : Nat) (direct : Bool) : (s.setCf n c R.DMA.CH_CTL_OWNER (b2n direct)).isDirect n c = direct := by
  unfold State.isDirect
  rw [State.cf_setCf_self _ _ _ _ (by decide)]
  cases direct <;> rfl

theorem State.arm_busy {s : State} {n c : Nat} (hd : s.isDirect n c = true) (hb : (s.chan n c).busy = true) :
    s.arm n c = s.setCf n c R.DMA.CH_CTL_ARM 1 := by
  rw [State.arm_direct hd, State.takeShadow_busy (by rw [State.chan_setCf, hb])]

/-- The state of a direct channel whose transfer `ABORT` has stopped, before its pages show it. -/
def State.stopped (s : State) (n c : Nat) : State := (s.setCf n c R.DMA.CH_CTL_ARM 0).setChan n c { s.chan n c with ended := 2 }

theorem State.abortChan_running {s : State} {n c : Nat} (hd : s.isDirect n c = true) (hb : (s.chan n c).busy = true) (he : (s.chan n c).ended ≤ 1) :
    s.abortChan n c = (s.stopped n c).showChan n c := by
  unfold State.abortChan State.stopped
  dsimp only
  rw [if_neg (by rw [hd, hb]; decide), if_pos he]

theorem State.chan_stopped (s : State) (n c : Nat) : (s.stopped n c).chan n c = { s.chan n c with ended := 2 } := State.chan_setChan_self _ _ _ _

theorem State.chanState_stopped {s : State} {n c : Nat} (hb : (s.chan n c).busy = true) : (s.stopped n c).chanState n c = 3 := by
  unfold State.chanState
  rw [State.chan_stopped]
  dsimp only
  rw [hb]
  rfl

section
variable {s : State} {n c reg : Nat} {w : Word}

theorem State.writeShadow_graph {v : View} (hd : s.isDirect n c = false) : s.writeShadow v n c reg w = s := if_pos (by rw [hd]; rfl)

theorem State.writeShadow_armed {v : View} (hd : s.isDirect n c = true) (ha : s.cf n c R.DMA.CH_CTL_ARM = 1) :
    s.writeShadow v n c reg w = (s.err (pgDma n c) 0x0708 c).log (pgDma n c) 0x0708 [n, c, 4 * reg] := by
  unfold State.writeShadow
  dsimp only
  rw [if_neg (by rw [hd]; decide), if_pos (by rw [ha]; rfl)]

theorem State.writeShadow_free {v : View} (hd : s.isDirect n c = true) (ha : s.cf n c R.DMA.CH_CTL_ARM = 0) :
    s.writeShadow v n c reg w = s.plainWrite v (pgDma n c + 0x200 + 0x100 * (c % 8) + 4 * reg) w := by
  unfold State.writeShadow
  dsimp only
  rw [if_neg (by rw [hd]; decide), if_neg (by rw [ha]; decide)]

end

end Sys2Proof.Machine

namespace Sys2Proof.Claims

open Machine

section
variable {s : State} {v : View} {n : Die8} {c : ChanNo}

theorem chOwnerWrite_idle (hw : Writes s v (pgDma n c) true) (direct : Bool) (hb : (s.chan n c).busy = false) (hs : (s.chan n c).shadow = none)
    (ha : s.cf n c R.DMA.CH_CTL_ARM = 0) (hq : s.dmaQueue = []) : Gives (.chOwnerWrite v n c direct) s fun u =>
      u.cf n c R.DMA.CH_CTL_OWNER = b2n direct ∧ bit (u.rf (pgMemDie n) R.MEM_DIE.CHAN_OWNER) c = direct ∧ SameRegs s u (ChanReg n c) ∧
      u.chans = s.chans ∧ SameBytes s u ∧ SameSeals s u := by
  have hex : exec (.chOwnerWrite v n c direct) s = .next _ := congrArg Host.Outcome.next ((State.onWrite_writes hw).trans (State.setOwner_idle hb hs ha hq))
  have honly := ((ChanOnly.refl n c s).setCf (f := R.DMA.CH_CTL_OWNER) (v := b2n direct) (by decide)).showChan
  refine ⟨_, hex, ?_, ?_, honly.regs, ?_, honly.sameBytes, honly.sameSeals⟩
  · rw [State.cf_showChan _ _ _ (by decide), State.cf_setCf_self _ _ _ _ (by decide)]
    cases direct <;> rfl
  · rw [State.owner_showChan _ _ c.isLt, State.isDirect_owner]
  · rw [State.showChan_chans, State.setCf_chans]

theorem chArm_busy (hw : Writes s v (pgDma n c) true) (hd : s.isDirect n c = true) (hb : (s.chan n c).busy = true) :
    Gives (.chArm v n c) s fun u => u.cf n c R.DMA.CH_CTL_ARM = 1 ∧ u.chans = s.chans ∧
      SameRegs s u (fun o => o = pgDma n c + R.DMA.CH_CTL_ARM.off + 0x100 * (c % 8)) ∧ SameBytes s u ∧ SameSeals s u := by
  have hex : exec (.chArm v n c) s = .next _ := congrArg Host.Outcome.next ((State.onWrite_writes hw).trans (State.arm_busy hd hb))
  have honly := (ChanOnly.refl n c s).setCf (f := R.DMA.CH_CTL_ARM) (v := 1) (by decide)
  refine ⟨_, hex, State.cf_setCf_self _ _ _ _ (by decide), State.setCf_chans _ _ _ _ _, fun o ho => ?_, honly.sameBytes, honly.sameSeals⟩
  exact State.reg_wf_other _ _ _ _ _ _ ho

theorem chAbort_running (hw : Writes s v (pgDma n c) false) (hd : s.isDirect n c = true) (hb : (s.chan n c).busy = true)
    (he : (s.chan n c).ended ≤ 1) : Gives (.chAbort v n c) s fun u =>
      (u.chan n c).ended = 2 ∧ u.cf n c R.DMA.CH_STATUS_STATE = 3 ∧ u.cf n c R.DMA.CH_CTL_ARM = 0 ∧
      u.cf n c R.DMA.RESIDUE = s.cf n c R.DMA.RESIDUE ∧ SameRegs s u (ChanReg n c) ∧ SameBytes s u ∧ SameSeals s u := by
  have hex : exec (.chAbort v n c) s = .next _ := congrArg Host.Outcome.next ((State.onWrite_writes hw).trans (State.abortChan_running hd hb he))
  have honly := (((ChanOnly.refl n c s).setCf (f := R.DMA.CH_CTL_ARM) (v := 0) (by decide)).setChan { s.chan n c with ended := 2 }).showChan
  refine ⟨_, hex, ?_, ?_, ?_, ?_, honly.regs, honly.sameBytes, honly.sameSeals⟩
  · rw [State.chan_showChan, State.chan_stopped]
  · rw [State.cf_showChan_state, State.chanState_stopped hb]
  · rw [State.cf_showChan _ _ _ (by decide), State.stopped, State.cf_setChan, State.cf_setCf_self _ _ _ _ (by decide)]
    rfl
  · rw [State.cf_showChan _ _ _ (by decide), State.stopped, State.cf_setChan, State.cf_setCf_besides _ _ _ _ (by decide)]

theorem shadowWrite_armed (hw : Writes s v (pgDma n c) true) (reg : Fin 8) (w : Word) (hd : s.isDirect n c = true)
    (ha : s.cf n c R.DMA.CH_CTL_ARM = 1) : Gives (.shadowWrite v n c reg w) s fun u =>
      Logged s u 0x0708 [n, c, 4 * reg] ∧ u.hdr (pgDma n c) oERR_COUNT = up32 (s.hdr (pgDma n c) oERR_COUNT) ∧
      SameRegs s u (fun o => o = pgDma n c + oERR_COUNT ∨ o = pgDma n c + oERR_LAST ∨ Reports o) ∧ SameBytes s u ∧ SameSeals s u := by
  have hex : exec (.shadowWrite v n c reg w) s = .next _ := congrArg Host.Outcome.next ((State.onWrite_writes hw).trans (State.writeShadow_armed hd ha))
  have hnotes := s.err_log_notes (pgDma n c) 0x0708 c [n, c, 4 * reg]
  refine ⟨_, hex, s.err_log_logged _ _ _ _, ?_, hnotes.regs, hnotes.sameBytes, hnotes.sameSeals⟩
  rw [← State.hdr_err s (pgDma n c) 0x0708 c]
  refine congrArg BitVec.toNat (State.reg_log_other _ _ _ _ _ ?_ ?_)
  · unfold recordReg pgDma pgMemDie quadBase pgRecord oERR_COUNT
    omega
  · unfold routeReg pgDma pgMemDie quadBase pgIntroute oERR_COUNT
    omega

section
variable {off : Nat} {reg : Fin 8} {w : Word} (hoff : off = pgDma n c + 0x200 + 0x100 * (c % 8) + 4 * reg)
include hoff

/-- A shadow register of a direct channel is written as a plain register in BAR0. -/
theorem shadowWrite_free (hw : Writes s v (pgDma n c) true) (hd : s.isDirect n c = true) (ha : s.cf n c R.DMA.CH_CTL_ARM = 0) :
    v = .bar0 ∧ exec (.shadowWrite v n c reg w) s = .next (s.plainWrite v off w) := by
  refine ⟨hw.2.1.resolve_right Bool.noConfusion, ?_⟩
  rw [hoff, ← State.writeShadow_free hd ha, ← State.onWrite_writes (k := fun s => s.writeShadow v n c reg w) hw]
  rfl

theorem shadow_beyond_device : 0x1000 ≤ off - 4 := by
  rw [hoff]
  unfold pgDma pgMemDie quadBase
  omega

theorem shadowWrite_takes (hw : Writes s v (pgDma n c) true) (hd : s.isDirect n c = true) (ha : s.cf n c R.DMA.CH_CTL_ARM = 0) :
    (reg.val ∈ [4, 5] → Gives (.shadowWrite v n c reg w) s fun u =>
      (∀ f ∈ Cls.dma.fieldsAt (off % 0x1000), TakesField s u v off w f) ∧ SameRegs s u (fun o => o = off) ∧ SameBytes s u ∧ SameSeals s u) ∧
    (reg.val ∈ [0, 2, 6] → Gives (.shadowWrite v n c reg w) s fun u =>
      aget? u.pairHold (off + 4) = some w ∧ u.regs = s.regs ∧ SameBytes s u ∧ SameSeals s u) ∧
    (reg.val ∈ [1, 3, 7] → Gives (.shadowWrite v n c reg w) s fun u =>
      (∀ f ∈ Cls.dma.fieldsAt (off % 0x1000), TakesField s u v off w f) ∧
      (∀ lo, aget? s.pairHold off = some lo → ∀ f ∈ Cls.dma.fieldsAt (off % 0x1000 - 4), TakesField s u v (off - 4) lo f) ∧
      SameRegs s u (fun o => o = off - 4 ∨ o = off) ∧ SameBytes s u ∧ SameSeals s u) := by
  obtain ⟨rfl, hex⟩ := shadowWrite_free hoff (w := w) hw hd ha
  have hp := pageAt_shadow hoff
  have hbeyond := shadow_beyond_device hoff
  have hlo := shadow_lo_iff hoff (p := ⟨.dma, n / 2, 3 + n % 2, c / 8⟩) rfl
  have hhi := shadow_hi_iff hoff (p := ⟨.dma, n / 2, 3 + n % 2, c / 8⟩) rfl
  simp only [List.mem_cons, List.not_mem_nil, or_false] at hlo hhi ⊢
  refine ⟨fun h => ?_, fun h => ?_, fun h => ?_⟩
  · have hwrites := s.writeFlds_writesWord .bar0 w (Cls.dma.fieldsAt (off % 0x1000)) (show 0x1000 ≤ off by omega)
    rw [s.plainWrite_whole w hp (mt hlo.mp (by omega)) (mt hhi.mp (by omega))] at hex
    exact ⟨_, hex, takesField_of_reg hwrites.self,
      fun o ho => s.reg_writeFlds_other _ _ _ (fun f hf => dma_fields_any f (List.mem_of_mem_filter hf)) ho,
      hwrites.frame.sameBytes, hwrites.frame.sameSeals⟩
  · rw [s.plainWrite_lo w hp (hlo.mpr h)] at hex
    exact ⟨_, hex, aget?_aput_same _ _ _, rfl, fun _ => rfl, fun _ => rfl⟩
  · have hpair := s.plainWrite_takesPair w hp (mt hlo.mp (by omega)) (hhi.mpr h) dma_fields_any hbeyond
    exact ⟨_, hex, hpair.hi, hpair.lo, hpair.regs, hpair.bytes, hpair.seals⟩

end

end

theorem dmaChannelRegisters : DmaChannelRegisters := by
  intro s v n c direct reg w off hoff
  refine ⟨fun hw => ⟨chOwnerWrite_idle hw direct, fun hb => ?_, fun hd hb => ?_, chArm_busy hw, shadowWrite_armed hw reg w,
    shadowWrite_takes hoff hw, fun hd => ⟨?_, ?_⟩⟩, chAbort_running⟩
  · exact congrArg Host.Outcome.next ((State.onWrite_writes hw).trans (State.setOwner_busy hb))
  · have hex : exec (.chArm v n c) s = .next _ := congrArg Host.Outcome.next (State.onWrite_writes hw)
    obtain ⟨honly, htransfers, harm⟩ := State.arm_idle hd hb
    exact ⟨_, hex, htransfers, harm, honly.regs, honly.sameBytes, honly.sameSeals⟩
  · exact congrArg Host.Outcome.next ((State.onWrite_writes hw).trans (State.writeShadow_graph hd))
  · exact congrArg Host.Outcome.next ((State.onWrite_writes hw).trans (State.arm_graph hd))

end Sys2Proof.Claims
end

section
namespace Sys2Proof.Machine

open Sys2Proof.Claims

/-! Request lines (R310). -/

/-- A pulse of a line at one channel of a die. -/
def State.pulseChan (u : State) (n line c : Nat) : State :=
  if (u.chan n c).pace && (u.chan n c).line == line then
    (u.setCf n c R.DMA.CH_STATUS_CREDITS (Nat.min 255 (u.cf n c R.DMA.CH_STATUS_CREDITS + 1))).showChan n c
  else u

theorem State.pulse_eq (s : State) (n line : Nat) : s.pulse n line = (List.range 32).foldl (fun u c => u.pulseChan n line c) s := rfl

/-- The registers that a pulse changes: `CH_STATUS` of the die's channels, and what shows them. -/
def PulseReg (n o : Nat) : Prop := (∃ c : ChanNo, o = pgDma n c + 0x224 + 0x100 * (c % 8)) ∨ ShowReg n o

/-- The credits of a channel after a pulse of a line. -/
def State.pulsed (s : State) (n line c : Nat) : Nat :=
  if (s.chan n c).pace = true ∧ (s.chan n c).line = line then Nat.min 255 (s.cf n c R.DMA.CH_STATUS_CREDITS + 1) else s.cf n c R.DMA.CH_STATUS_CREDITS

theorem State.showChan_regsOnly (s : State) (n c : Nat) : RegsOnly s (s.showChan n c) :=
  ((State.wf_regsOnly _ _ _ _ _).trans (State.wf_regsOnly _ _ _ _ _)).trans (State.wf_regsOnly _ _ _ _ _)

theorem RegsOnly.chans {s t : State} (h : RegsOnly s t) : t.chans = s.chans := by
  obtain ⟨r, rfl⟩ := h
  rfl

theorem RegsOnly.chan {s t : State} (h : RegsOnly s t) (n c : Nat) : t.chan n c = s.chan n c := by
  unfold State.chan
  rw [h.chans]

theorem State.pulseChan_regsOnly (s : State) (n line c : Nat) : RegsOnly s (s.pulseChan n line c) := by
  unfold State.pulseChan
  split
  · exact (State.wf_regsOnly _ _ _ _ _).trans (State.showChan_regsOnly _ _ _)
  · exact .refl s

theorem State.showChan_regs (s : State) {n c o : Nat} (hc : o ≠ pgDma n c + 0x224 + 0x100 * (c % 8)) (hs : ¬ShowReg n o) :
    (s.showChan n c).reg o = s.reg o := by
  obtain ⟨hbusy, howner⟩ := not_or.mp hs
  exact (State.reg_wf_other _ _ _ _ _ _ howner).trans ((State.reg_wf_other _ _ _ _ _ _ hbusy).trans (State.reg_wf_other _ _ _ _ _ _ hc))

theorem State.pulseChan_regs (s : State) (n line : Nat) {c : Nat} (h : c < 32) : SameRegs s (s.pulseChan n line c) (PulseReg n) := by
  intro o ho
  obtain ⟨hstatus, hshow⟩ := not_or.mp ho
  have hc : o ≠ pgDma n c + 0x224 + 0x100 * (c % 8) := fun e => hstatus ⟨⟨c, h⟩, e⟩
  unfold State.pulseChan
  split
  · exact (State.showChan_regs _ hc hshow).trans (State.reg_wf_other _ _ _ _ _ _ hc)
  · rfl

theorem State.credits_pulseChan (s : State) (n line c : Nat) : (s.pulseChan n line c).cf n c R.DMA.CH_STATUS_CREDITS = s.pulsed n line c := by
  unfold State.pulseChan State.pulsed
  simp only [Bool.and_eq_true, beq_iff_eq]
  split
  · rw [State.cf_showChan _ _ _ (by decide), State.cf_setCf_self _ _ _ _ (by decide)]
    exact Nat.mod_eq_of_lt (lt_of_le_of_lt (Nat.min_le_left _ _) (by decide))
  · rfl

theorem State.credits_pulseChan_other (s : State) (n line : Nat) {c d : Nat} (h : c ≠ d) :
    (s.pulseChan n line c).cf n d R.DMA.CH_STATUS_CREDITS = s.cf n d R.DMA.CH_STATUS_CREDITS := by
  unfold State.pulseChan
  split
  · rw [State.cf_showChan_chan _ _ (by decide) h, State.cf_setCf_chan _ _ _ (by decide) (by decide) h]
  · rfl

theorem State.pulsed_pulseChan_other (s : State) (n line : Nat) {c d : Nat} (h : c ≠ d) : (s.pulseChan n line c).pulsed n line d = s.pulsed n line d := by
  unfold State.pulsed
  rw [(s.pulseChan_regsOnly n line c).chan, s.credits_pulseChan_other n line h]

/-- A pulse at the channels of a list: each of them has its credit, and no other. -/
theorem State.pulse_list (n line : Nat) (l : List Nat) (s : State) (hl : ∀ c ∈ l, c < 32) (hnodup : l.Nodup) :
    RegsOnly s (l.foldl (fun u c => u.pulseChan n line c) s) ∧ SameRegs s (l.foldl (fun u c => u.pulseChan n line c) s) (PulseReg n) ∧
      (∀ c ∈ l, (l.foldl (fun u c => u.pulseChan n line c) s).cf n c R.DMA.CH_STATUS_CREDITS = s.pulsed n line c) ∧
      ∀ c ∉ l, (l.foldl (fun u c => u.pulseChan n line c) s).cf n c R.DMA.CH_STATUS_CREDITS = s.cf n c R.DMA.CH_STATUS_CREDITS := by
  induction l generalizing s with
  | nil => exact ⟨.refl s, fun _ _ => rfl, nofun, fun _ _ => rfl⟩
  | cons c l ih =>
    obtain ⟨hnot, hnodup⟩ := List.nodup_cons.mp hnodup
    obtain ⟨hframe, hregs, hin, hout⟩ := ih (s.pulseChan n line c) (fun d hd => hl d (List.mem_cons_of_mem _ hd)) hnodup
    refine ⟨(s.pulseChan_regsOnly n line c).trans hframe,
      fun o ho => (hregs o ho).trans (s.pulseChan_regs n line (hl c List.mem_cons_self) o ho), fun d hd => ?_, fun d hd => ?_⟩
    · rcases List.mem_cons.mp hd with rfl | hd
      · exact (hout d hnot).trans (s.credits_pulseChan n line d)
      · exact (hin d hd).trans (s.pulsed_pulseChan_other n line fun e => hnot (e ▸ hd))
    · obtain ⟨hne, hd⟩ := not_or.mp (mt List.mem_cons.mpr hd)
      exact (hout d hd).trans (s.credits_pulseChan_other n line (Ne.symm hne))

end Sys2Proof.Machine

namespace Sys2Proof.Claims

open Machine

theorem requestLinesAddCredits : RequestLinesAddCredits := by
  intro s n line after
  obtain ⟨hframe, hregs, hcredits, -⟩ := State.pulse_list n line (List.range 32) s (fun c => List.mem_range.mp) List.nodup_range
  rw [← State.pulse_eq] at hframe hregs hcredits
  have hafter : after (s.pulse n line) := ⟨fun c => hcredits c (List.mem_range.mpr c.isLt), hregs, hframe.chans, hframe.sameBytes, hframe.sameSeals⟩
  refine ⟨fun l hl => ⟨_, ?_, hafter⟩, fun v l hl hw => ⟨_, ?_, hafter⟩⟩
  · rw [← hl]
    rfl
  · rw [← hl]
    exact congrArg Host.Outcome.next (State.onWrite_writes hw)

end Sys2Proof.Claims

open Sys2Proof Sys2Proof.Machine Sys2Proof.Claims

/-- Settles O33: a command of a channel changes its own registers; a pulse walks the channels, and each has its credit once. -/
theorem Sys2Proof.Claims.dmaRegistersAndRequests : Obligations.DmaRegistersAndRequests := ⟨dmaChannelRegisters, requestLinesAddCredits⟩
end

section
/-! PROOFS. Memory written block by block: what a sealed write and a move of bytes leave, and what they copy of good blocks (R314, R382). -/

namespace Sys2Proof.Machine

open Sys2Proof.Claims

/-! Ranges and their blocks. -/

/-- An address lies in one of some ranges. -/
def InAny (rs : List (Nat × Nat)) (x : Nat) : Prop := ∃ r ∈ rs, r.1 ≤ x ∧ x < r.1 + r.2

theorem mem_blocksOf {a len k : Nat} : k ∈ blocksOf a len ↔ ∃ x, a ≤ x ∧ x < a + len ∧ x / 4096 = k := by
  constructor
  · intro h
    obtain ⟨hlo, hhi⟩ := blocksOf_bounds h
    have hlen : len ≠ 0 := by
      rintro rfl
      exact List.not_mem_nil h
    by_cases ha : 4096 * k < a
    · exact ⟨a, by omega, by omega, by omega⟩
    · exact ⟨4096 * k, by omega, by omega, by omega⟩
  · rintro ⟨x, hlo, hhi, rfl⟩
    have hlen : ¬(len == 0) = true := by
      rw [beq_iff_eq]
      omega
    unfold blocksOf
    rw [if_neg hlen]
    exact List.mem_map.mpr ⟨x / 4096 - a / 4096, List.mem_range.mpr (by omega), by omega⟩

theorem blocksOf_nodup (a len : Nat) : (blocksOf a len).Nodup := by
  unfold blocksOf
  split
  · exact List.nodup_nil
  · exact List.nodup_range.map fun x y h => Nat.add_left_cancel h

/-- A block met by a range is met by each range that holds it. -/
theorem blocksOf_mono {a len b n k : Nat} (hlo : b ≤ a) (hhi : a + len ≤ b + n) (h : k ∈ blocksOf a len) : k ∈ blocksOf b n := by
  obtain ⟨x, h1, h2, h3⟩ := mem_blocksOf.mp h
  exact mem_blocksOf.mpr ⟨x, by omega, by omega, h3⟩

/-- A range within one block. -/
theorem blocksOf_single {a len : Nat} (h : 0 < len) (hb : (a + len - 1) / 4096 = a / 4096) : blocksOf a len = [a / 4096] := by
  have hlen : ¬(len == 0) = true := by
    rw [beq_iff_eq]
    omega
  unfold blocksOf
  rw [if_neg hlen, hb, Nat.sub_self]
  rfl

/-- The host window begins and ends with a block. -/
theorem inHost_block (a : Nat) : inHost (4096 * (a / 4096)) = inHost a := by
  unfold inHost hostBase addrEnd
  rw [Bool.eq_iff_iff]
  simp only [Bool.and_eq_true, decide_eq_true_eq]
  omega

/-- Each block of an installed range carries no seal, or has it on one of the eight memory-side dies. -/
theorem sealed_of_rangeOk {a len k : Nat} (h : rangeOk a len = true) (hk : k ∈ blocksOf a len) : Sealed k := by
  by_cases hh : inHost a = true
  · left
    obtain ⟨x, hlo, hhi, rfl⟩ := mem_blocksOf.mp hk
    rw [inHost_block]
    unfold rangeOk rangeEnd inTierA inTierB inSram tierAEnd tierBBase tierBEnd sramBase at h
    unfold inHost hostBase addrEnd at *
    simp only [Bool.and_eq_true, Bool.or_eq_true, decide_eq_true_eq, beq_iff_eq] at *
    grind
  · exact .inr (owner_of_deviceRange (by unfold deviceRange; simp [h, hh]) hk).1

end Sys2Proof.Machine

namespace Sys2Proof.Claims

open Machine

theorem not_inAny {rs : List (Nat × Nat)} {x : Nat} : ¬InAny rs x ↔ ∀ r ∈ rs, x < r.1 ∨ r.1 + r.2 ≤ x := by
  unfold InAny
  push Not
  exact ⟨fun h r hr => (Nat.lt_or_ge x r.1).imp_right (h r hr), fun h r hr hle => (h r hr).resolve_left (Nat.not_lt.mpr hle)⟩

theorem OnlyIn.refl (s : State) (rs : List (Nat × Nat)) : OnlyIn s s rs := ⟨fun _ _ => rfl, fun _ _ => rfl⟩

/-- What changes in some ranges changes in ranges that hold them. -/
theorem OnlyIn.within {s u : State} {rs rs' : List (Nat × Nat)} (h : OnlyIn s u rs) (hw : ∀ x, InAny rs x → InAny rs' x) : OnlyIn s u rs' := by
  refine ⟨fun a ha => h.1 a (not_inAny.mp fun hx => not_inAny.mpr ha (hw a hx)), fun k hk => h.2 k fun r hr hmem => ?_⟩
  obtain ⟨x, hlo, hhi, hx⟩ := mem_blocksOf.mp hmem
  obtain ⟨r', hr', hlo', hhi'⟩ := hw x ⟨r, hr, hlo, hhi⟩
  exact hk r' hr' (mem_blocksOf.mpr ⟨x, hlo', hhi', hx⟩)

end Sys2Proof.Claims

namespace Sys2Proof.Machine

open Sys2Proof.Claims

/-! Moves: memory and seals written in some ranges. -/

/-- `t` is `s` but for memory and seals in some ranges, registers of `P`, the host port, the event record, the traffic and the panels; no line
has become uncorrectable. -/
structure Moves (P : Nat → Prop) (rs : List (Nat × Nat)) (s t : State) : Prop where
  frame : ∃ r h e m tr q ps, t = { s with regs := r, host := h, record := e, mem := m, traffic := tr, seals := q, panels := ps }
  regs : SameRegs s t P
  only : OnlyIn s t rs
  lines : ∀ l ∈ t.host.badLines, l ∈ s.host.badLines

section
variable {P Q : Nat → Prop} {rs rs' : List (Nat × Nat)} {s t u : State}

theorem Moves.refl (P : Nat → Prop) (rs : List (Nat × Nat)) (s : State) : Moves P rs s s := ⟨⟨_, _, _, _, _, _, _, rfl⟩, fun _ _ => rfl, .refl s rs, fun _ h => h⟩

theorem Moves.trans (h : Moves P rs s t) (g : Moves P rs t u) : Moves P rs s u where
  frame := by
    obtain ⟨r, o, e, m, tr, q, ps, rfl⟩ := h.frame
    obtain ⟨r', o', e', m', tr', q', ps', rfl⟩ := g.frame
    exact ⟨r', o', e', m', tr', q', ps', rfl⟩
  regs o ho := (g.regs o ho).trans (h.regs o ho)
  only := ⟨fun a ha => (g.only.1 a ha).trans (h.only.1 a ha), fun k hk => (g.only.2 k hk).trans (h.only.2 k hk)⟩
  lines l hl := h.lines l (g.lines l hl)

theorem Moves.within (h : Moves P rs s t) (hw : ∀ x, InAny rs x → InAny rs' x) : Moves P rs' s t := ⟨h.frame, h.regs, h.only.within hw, h.lines⟩

theorem Moves.mono (h : Moves P rs s t) (hPQ : ∀ o, P o → Q o) : Moves Q rs s t := ⟨h.frame, fun o ho => h.regs o (mt (hPQ o) ho), h.only, h.lines⟩

theorem Notes.moves (h : Notes P s t) (rs : List (Nat × Nat)) : Moves P rs s t where
  frame := by
    obtain ⟨r, m, i, w, e, tr, ps, rfl⟩ := h.frame
    exact ⟨r, _, e, s.mem, tr, s.seals, ps, rfl⟩
  regs := h.regs
  only := (OnlyIn.refl s rs).same h.sameBytes h.sameSeals
  lines := by
    obtain ⟨r, m, i, w, e, tr, ps, rfl⟩ := h.frame
    exact fun _ hl => hl

theorem Moves.step (h : Moves P rs s t) (g : Notes P t u) : Moves P rs s u := h.trans (g.moves rs)

theorem Moves.tasks (h : Moves P rs s t) : t.tasks = s.tasks := by
  obtain ⟨r, o, e, m, tr, q, ps, rfl⟩ := h.frame
  rfl

theorem Moves.task? (h : Moves P rs s t) (n : Nat) : t.task? n = s.task? n := by
  obtain ⟨r, o, e, m, tr, q, ps, rfl⟩ := h.frame
  rfl

theorem Moves.chans (h : Moves P rs s t) : t.chans = s.chans := by
  obtain ⟨r, o, e, m, tr, q, ps, rfl⟩ := h.frame
  rfl

theorem Moves.byte (h : Moves P rs s t) {x : Nat} (hx : ¬InAny rs x) : t.byte x = s.byte x := h.only.1 x (not_inAny.mp hx)

theorem Moves.badBlock (h : Moves P rs s t) {k : Nat} (hk : s.badBlock k = false) : t.badBlock k = false := by
  unfold State.badBlock at *
  rw [List.any_eq_false] at *
  exact fun l hl => hk l (h.lines l hl)

/-- A block outside the ranges has the content and the seal that it had. -/
theorem Moves.sealOf (h : Moves P rs s t) {k : Nat} (hk : ∀ r ∈ rs, k ∉ blocksOf r.1 r.2) : t.sealOf k = s.sealOf k := by
  have hbytes : t.bytes (4096 * k) 4096 = s.bytes (4096 * k) 4096 := by
    rw [State.bytes_eq, State.bytes_eq]
    refine List.map_congr_left fun i hi => h.byte ?_
    rintro ⟨r, hr, hlo, hhi⟩
    have hi := List.mem_range.mp hi
    exact hk r hr (mem_blocksOf.mpr ⟨_, hlo, hhi, by omega⟩)
  unfold State.sealOf
  rw [hbytes]

/-- A good block outside the ranges stays good. -/
theorem Moves.blockOk (h : Moves P rs s t) {k : Nat} (hk : ∀ r ∈ rs, k ∉ blocksOf r.1 r.2) (hok : s.blockOk k = true) : t.blockOk k = true := by
  unfold State.blockOk at *
  split
  · rfl
  · rename_i hh
    rw [if_neg hh] at hok
    simp only [Bool.and_eq_true, Bool.not_eq_true', beq_iff_eq] at hok ⊢
    exact ⟨h.badBlock hok.1, by rw [h.only.2 k hk, h.sealOf hk, hok.2]⟩

theorem State.put_lines (s : State) (a : Nat) (b : List Byte) : ∀ l ∈ (s.put a b).host.badLines, l ∈ s.host.badLines := by
  have hfilter : ∀ l, l ∈ (s.put a b).host.badLines → l ∈ s.host.badLines.filter fun l => !(decide (a ≤ 64 * l) && decide (64 * l + 64 ≤ a + b.length)) := by
    unfold State.put State.cacheUse
    split <;> exact fun l hl => hl
  exact fun l hl => List.mem_of_mem_filter (hfilter l hl)

theorem State.put_moves (P : Nat → Prop) (s : State) (a : Nat) (b : List Byte) : Moves P [(a, b.length)] s (s.put a b) where
  frame := by
    obtain ⟨m, tr, h, q, e⟩ := s.put_memOnly a b
    exact ⟨s.regs, h, s.record, m, tr, q, s.panels, e⟩
  regs o _ := (s.put_memOnly a b).reg o
  only := ⟨fun x hx => s.byte_put_other a b x (hx _ List.mem_cons_self), fun k _ => s.sealEntry_put a b k⟩
  lines := s.put_lines a b

theorem State.reseal_host (s : State) (a len : Nat) : (s.reseal a len).host = s.host := by
  obtain ⟨q, e⟩ := s.reseal_frame a len
  rw [e]

theorem State.putSealed_moves (P : Nat → Prop) (s : State) (a : Nat) (b : List Byte) : Moves P [(a, b.length)] s (s.putSealed a b) where
  frame := by
    obtain ⟨m, tr, h, q, e⟩ := s.putSealed_memOnly a b
    exact ⟨s.regs, h, s.record, m, tr, q, s.panels, e⟩
  regs o _ := (s.putSealed_memOnly a b).reg o
  only := s.putSealed_onlyIn a b
  lines l hl := by
    unfold State.putSealed at hl
    rw [State.reseal_host] at hl
    exact s.put_lines a b l hl

theorem Moves.setSeal (h : Moves P rs s t) {k : Nat} {w : Word} (hk : ∃ r ∈ rs, k ∈ blocksOf r.1 r.2) : Moves P rs s (t.setSeal k w) := by
  refine h.trans ⟨⟨_, _, _, _, _, _, _, rfl⟩, fun _ _ => rfl, ⟨fun _ _ => rfl, fun j hj => ?_⟩, fun _ hl => hl⟩
  obtain ⟨r, hr, hmem⟩ := hk
  exact State.sealEntry_setSeal_other _ _ _ _ fun e => hj r hr (e ▸ hmem)

theorem Moves.foldl {α : Type} {f : State → α → State} {l : List α} (h : Moves P rs s t) (hf : ∀ u x, x ∈ l → Moves P rs u (f u x)) :
    Moves P rs s (l.foldl f t) := by
  induction l generalizing t with
  | nil => exact h
  | cons x l ih => exact ih (h.trans (hf t x List.mem_cons_self)) fun u y hy => hf u y (List.mem_cons_of_mem _ hy)

end

/-! Seal units count. -/

/-- The seal page of a block is one of the eight. -/
theorem Sealed.ofSeals {k x : Nat} (hk : Sealed k) (hh : ¬inHost (4096 * k) = true) (hx : x < 0x1000) : CheckRegs (pgSeal (blockOwner (4096 * k)).1 + x) :=
  .inl ⟨_, hk.resolve_left hh, Nat.le_add_right _ _, Nat.add_lt_add_left hx _⟩

/-- The unit that owns the block counts a failed check. -/
theorem Notes.sealFail {s t : State} (h : Notes CheckRegs s t) {k code : Nat} (hk : Sealed k) (hh : ¬inHost (4096 * k) = true) :
    Notes CheckRegs s (t.sealFail k code) :=
  ((h.inc (hk.ofSeals hh (by decide))).cause (hk.ofSeals hh (by decide)) fun _ => .inr).err (hk.ofSeals hh (by decide)) (hk.ofSeals hh (by decide))

end Sys2Proof.Machine
end

section
namespace Sys2Proof.Machine

open Sys2Proof.Claims

/-! A write's share of one block (R382). -/

/-- The part of a range that lies in a block. -/
def shareOf (a len k : Nat) : Nat × Nat := (Nat.max a (4096 * k), Nat.min (a + len) (4096 * k + 4096) - Nat.max a (4096 * k))

/-- The bytes of a write that go to a block. -/
def shareBytes (a : Nat) (b : List Byte) (k : Nat) : List Byte := (b.drop ((shareOf a b.length k).1 - a)).take (shareOf a b.length k).2

theorem shareOf_bounds {a len k : Nat} (h : k ∈ blocksOf a len) : let r := shareOf a len k
    a ≤ r.1 ∧ 0 < r.2 ∧ r.1 + r.2 ≤ a + len ∧ 4096 * k ≤ r.1 ∧ r.1 + r.2 ≤ 4096 * k + 4096 := by
  obtain ⟨h1, h2⟩ := blocksOf_bounds h
  obtain ⟨x, h3, h4, h5⟩ := mem_blocksOf.mp h
  simp only [shareOf, Nat.max_def, Nat.min_def]
  split <;> split <;> omega

theorem mem_shareOf {a len k x : Nat} : (shareOf a len k).1 ≤ x ∧ x < (shareOf a len k).1 + (shareOf a len k).2 ↔ a ≤ x ∧ x < a + len ∧ x / 4096 = k := by
  simp only [shareOf, Nat.max_def, Nat.min_def]
  split <;> split <;> omega

theorem inAny_shareOf {a len k x : Nat} : InAny [shareOf a len k] x ↔ a ≤ x ∧ x < a + len ∧ x / 4096 = k := by
  rw [← mem_shareOf]
  simp [InAny]

theorem shareOf_within {a len k : Nat} : ∀ x, InAny [shareOf a len k] x → InAny [(a, len)] x := fun x hx => by
  obtain ⟨h1, h2, -⟩ := inAny_shareOf.mp hx
  exact ⟨_, List.mem_cons_self, h1, h2⟩

theorem blocksOf_shareOf {a len k : Nat} (h : k ∈ blocksOf a len) : blocksOf (shareOf a len k).1 (shareOf a len k).2 = [k] := by
  obtain ⟨-, h2, -, h4, h5⟩ := shareOf_bounds h
  rw [blocksOf_single h2 (by omega)]
  congr 1
  omega

theorem shareBytes_length {a k : Nat} {b : List Byte} (h : k ∈ blocksOf a b.length) : (shareBytes a b k).length = (shareOf a b.length k).2 := by
  obtain ⟨h1, -, h3, -⟩ := shareOf_bounds h
  unfold shareBytes
  rw [List.length_take, List.length_drop]
  omega

/-- One block's share of a write, as `putPart` treats it. -/
theorem State.putPart_eq (s : State) (a : Nat) (b : List Byte) (k : Nat) : s.putPart a b k =
    if inHost (4096 * k) then (s.put (shareOf a b.length k).1 (shareBytes a b k), true)
    else if (shareOf a b.length k).2 == 4096 then (s.putSealed (shareOf a b.length k).1 (shareBytes a b k), true)
    else if s.blockOk k then
      (((s.putSealed (shareOf a b.length k).1 (shareBytes a b k)).inc64 (pgSeal (blockOwner (4096 * k)).1) R.SEAL.CHECKS_LO R.SEAL.CHECKS_HI 1).inc64
        (pgSeal (blockOwner (4096 * k)).1) R.SEAL.MERGES_LO R.SEAL.MERGES_HI 1, true)
    else (s, false) := rfl

/-- A merge is counted at the seal unit of the block. -/
theorem mergeCounts_notes {k : Nat} (hs : Sealed k) (hh : ¬inHost (4096 * k) = true) (t : State) :
    Notes CheckRegs t ((t.inc64 (pgSeal (blockOwner (4096 * k)).1) R.SEAL.CHECKS_LO R.SEAL.CHECKS_HI 1).inc64
      (pgSeal (blockOwner (4096 * k)).1) R.SEAL.MERGES_LO R.SEAL.MERGES_HI 1) :=
  ((Notes.refl CheckRegs t).inc64 (hs.ofSeals hh (by decide)) (hs.ofSeals hh (by decide))).inc64 (hs.ofSeals hh (by decide)) (hs.ofSeals hh (by decide))

/-- Only a merge into a block with a seal fails. -/
theorem State.putPart_fails {s : State} {a k : Nat} {b : List Byte} (h : (s.putPart a b k).2 = false) : ¬inHost (4096 * k) = true := by
  intro hh
  rw [State.putPart_eq, if_pos hh] at h
  exact Bool.noConfusion h

/-- What a share's write leaves of a good block: its bytes written, and the block good. -/
structure ShareWritten (t : State) (a : Nat) (b : List Byte) (k : Nat) : Prop where
  bytes : ∀ i (hi : i < b.length), (a + i) / 4096 = k → t.byte (a + i) = b[i]
  good : t.blockOk k = true

theorem ShareWritten.step {P : Nat → Prop} {t u : State} {a k : Nat} {b : List Byte} (h : ShareWritten t a b k) (g : Notes P t u) : ShareWritten u a b k :=
  ⟨fun i hi hik => (g.sameBytes _).trans (h.bytes i hi hik), (g.blockOk k).trans h.good⟩

section
variable {s : State} {a k : Nat} {b : List Byte} (hk : k ∈ blocksOf a b.length)
include hk

theorem State.putPart_moves (hs : Sealed k) : Moves CheckRegs [shareOf a b.length k] s (s.putPart a b k).1 := by
  have hput := s.put_moves CheckRegs (shareOf a b.length k).1 (shareBytes a b k)
  have hseal := s.putSealed_moves CheckRegs (shareOf a b.length k).1 (shareBytes a b k)
  rw [shareBytes_length hk] at hput hseal
  rw [State.putPart_eq]
  split
  · exact hput
  · rename_i hh
    split
    · exact hseal
    · split
      · exact hseal.step (mergeCounts_notes hs hh _)
      · exact .refl _ _ _

/-- The bytes of a share stand where the write puts them. -/
theorem shareBytes_get {i : Nat} (hi : i < b.length) (hik : (a + i) / 4096 = k) :
    ∃ h : a + i - (shareOf a b.length k).1 < (shareBytes a b k).length,
      (shareOf a b.length k).1 + (a + i - (shareOf a b.length k).1) = a + i ∧ (shareBytes a b k)[a + i - (shareOf a b.length k).1] = b[i] := by
  obtain ⟨h1, h2⟩ := mem_shareOf.mpr ⟨Nat.le_add_right a i, Nat.add_lt_add_left hi a, hik⟩
  obtain ⟨h3, -⟩ := shareOf_bounds hk
  have hlen := shareBytes_length hk
  refine ⟨by omega, by omega, ?_⟩
  unfold shareBytes
  rw [List.getElem_take, List.getElem_drop]
  congr 1
  omega

theorem State.putSealed_share (hh : ¬inHost (4096 * k) = true) (hok : s.blockOk k = true) :
    ShareWritten (s.putSealed (shareOf a b.length k).1 (shareBytes a b k)) a b k where
  bytes i hi hik := by
    obtain ⟨h, hat, hget⟩ := shareBytes_get hk hi hik
    have hsame := s.byte_putSealed_same (shareOf a b.length k).1 (shareBytes a b k) _ h
    rwa [hat, hget] at hsame
  good := by
    have hmem : k ∈ blocksOf (shareOf a b.length k).1 (shareBytes a b k).length := by
      rw [shareBytes_length hk, blocksOf_shareOf hk]
      exact List.mem_cons_self
    have hseal := s.sealEntry_putSealed_in (shareBytes a b k) hmem (Bool.eq_false_iff.mpr hh)
    have hmoves := s.putSealed_moves CheckRegs (shareOf a b.length k).1 (shareBytes a b k)
    unfold State.blockOk at hok ⊢
    rw [if_neg hh] at hok ⊢
    simp only [Bool.and_eq_true, Bool.not_eq_true'] at hok
    rw [hmoves.badBlock hok.1, hseal, beq_self_eq_true]
    rfl

theorem State.putPart_good (hs : Sealed k) (hok : s.blockOk k = true) : (s.putPart a b k).2 = true ∧ ShareWritten (s.putPart a b k).1 a b k := by
  rw [State.putPart_eq]
  by_cases hh : inHost (4096 * k) = true
  · rw [if_pos hh]
    refine ⟨rfl, fun i hi hik => ?_, if_pos hh⟩
    obtain ⟨h, hat, hget⟩ := shareBytes_get hk hi hik
    have hsame := s.byte_put_same (shareOf a b.length k).1 (shareBytes a b k) _ h
    rwa [hat, hget] at hsame
  · rw [if_neg hh]
    have hshare := State.putSealed_share hk hh hok
    split
    · exact ⟨rfl, hshare⟩
    · exact ⟨rfl, hshare.step (mergeCounts_notes hs hh _)⟩

end

/-! A write of any range, block by block (R382). -/

/-- One block of `store`. -/
def storeBlock (a : Nat) (b : List Byte) (acc : State × List Nat) (k : Nat) : State × List Nat :=
  ((acc.1.putPart a b k).1, if (acc.1.putPart a b k).2 then acc.2 else acc.2 ++ [k])

theorem State.store_eq (s : State) (a : Nat) (b : List Byte) : s.store a b = (blocksOf a b.length).foldl (storeBlock a b) (s, []) := rfl

section
variable {a : Nat} {b : List Byte}

theorem storeBlocks_moves (l : List Nat) (acc : State × List Nat) (hl : ∀ k ∈ l, k ∈ blocksOf a b.length) (hs : ∀ k ∈ l, Sealed k) :
    Moves CheckRegs (l.map (shareOf a b.length)) acc.1 (l.foldl (storeBlock a b) acc).1 ∧
      ∀ k ∈ (l.foldl (storeBlock a b) acc).2, k ∈ acc.2 ∨ (k ∈ l ∧ ¬inHost (4096 * k) = true) := by
  induction l generalizing acc with
  | nil => exact ⟨.refl _ _ _, fun k hk => .inl hk⟩
  | cons k l ih =>
    obtain ⟨hmoves, hfails⟩ := ih (storeBlock a b acc k) (fun j hj => hl j (List.mem_cons_of_mem _ hj)) fun j hj => hs j (List.mem_cons_of_mem _ hj)
    have hfirst := State.putPart_moves (s := acc.1) (hl k List.mem_cons_self) (hs k List.mem_cons_self)
    refine ⟨(hfirst.within fun x hx => ?_).trans (hmoves.within fun x hx => ?_), fun j hj => ?_⟩
    · obtain ⟨r, hr, hx⟩ := hx
      exact ⟨r, List.mem_singleton.mp hr ▸ List.mem_cons_self, hx⟩
    · obtain ⟨r, hr, hx⟩ := hx
      exact ⟨r, List.mem_cons_of_mem _ hr, hx⟩
    · rcases hfails j hj with h | ⟨h, hh⟩
      · by_cases hp : (acc.1.putPart a b k).2 = true
        · exact .inl ((congrArg (j ∈ ·) (if_pos hp)).mp h)
        · rcases List.mem_append.mp ((congrArg (j ∈ ·) (if_neg hp)).mp h) with h | h
          · exact .inl h
          · obtain rfl := List.mem_singleton.mp h
            exact .inr ⟨List.mem_cons_self, State.putPart_fails (Bool.eq_false_iff.mpr hp)⟩
      · exact .inr ⟨List.mem_cons_of_mem _ h, hh⟩

theorem shares_within (l : List Nat) : ∀ x, InAny (l.map (shareOf a b.length)) x → InAny [(a, b.length)] x := by
  rintro x ⟨r, hr, hx⟩
  obtain ⟨k, -, rfl⟩ := List.mem_map.mp hr
  exact shareOf_within x ⟨_, List.mem_cons_self, hx⟩

theorem State.store_moves (s : State) (hs : ∀ k ∈ blocksOf a b.length, Sealed k) : Moves CheckRegs [(a, b.length)] s (s.store a b).1 := by
  rw [State.store_eq]
  exact (storeBlocks_moves _ (s, []) (fun _ h => h) hs).1.within (shares_within _)

theorem State.store_fails (s : State) (hs : ∀ k ∈ blocksOf a b.length, Sealed k) {k : Nat} (hk : k ∈ (s.store a b).2) :
    k ∈ blocksOf a b.length ∧ ¬inHost (4096 * k) = true := by
  rw [State.store_eq] at hk
  exact ((storeBlocks_moves _ (s, []) (fun _ h => h) hs).2 k hk).resolve_left List.not_mem_nil

/-- Other blocks' shares leave a block. -/
theorem not_mem_shares {l : List Nat} {k : Nat} (hl : ∀ j ∈ l, j ∈ blocksOf a b.length) (hk : k ∉ l) :
    ∀ r ∈ l.map (shareOf a b.length), k ∉ blocksOf r.1 r.2 := by
  intro r hr
  obtain ⟨j, hj, rfl⟩ := List.mem_map.mp hr
  rw [blocksOf_shareOf (hl j hj), List.mem_singleton]
  exact fun e => hk (e ▸ hj)

/-- Good blocks take their shares, each once. -/
theorem storeBlocks_good (l : List Nat) (acc : State × List Nat) (hnodup : l.Nodup) (hl : ∀ k ∈ l, k ∈ blocksOf a b.length)
    (hs : ∀ k ∈ l, Sealed k) (hok : ∀ k ∈ l, acc.1.blockOk k = true) :
    (l.foldl (storeBlock a b) acc).2 = acc.2 ∧ ∀ k ∈ l, ShareWritten (l.foldl (storeBlock a b) acc).1 a b k := by
  induction l generalizing acc with
  | nil => exact ⟨rfl, nofun⟩
  | cons k l ih =>
    obtain ⟨hnot, hnodup⟩ := List.nodup_cons.mp hnodup
    have hk := hl k List.mem_cons_self
    have hl' : ∀ j ∈ l, j ∈ blocksOf a b.length := fun j hj => hl j (List.mem_cons_of_mem _ hj)
    have hs' : ∀ j ∈ l, Sealed j := fun j hj => hs j (List.mem_cons_of_mem _ hj)
    obtain ⟨htrue, hwritten⟩ := State.putPart_good hk (hs k List.mem_cons_self) (hok k List.mem_cons_self)
    have hfirst := State.putPart_moves (s := acc.1) hk (hs k List.mem_cons_self)
    have hok' : ∀ j ∈ l, (storeBlock a b acc k).1.blockOk j = true := fun j hj => by
      refine hfirst.blockOk (fun r hr => ?_) (hok j (List.mem_cons_of_mem _ hj))
      rw [List.mem_singleton.mp hr, blocksOf_shareOf hk, List.mem_singleton]
      exact fun e => hnot (e ▸ hj)
    obtain ⟨hnone, hrest⟩ := ih (storeBlock a b acc k) hnodup hl' hs' hok'
    obtain ⟨hmoves, -⟩ := storeBlocks_moves l (storeBlock a b acc k) hl' hs'
    refine ⟨hnone.trans (if_pos htrue), fun j hj => ?_⟩
    rcases List.mem_cons.mp hj with rfl | hj
    · refine ⟨fun i hi hij => (hmoves.byte ?_).trans (hwritten.bytes i hi hij), hmoves.blockOk (not_mem_shares hl' hnot) hwritten.good⟩
      rintro ⟨r, hr, hx⟩
      obtain ⟨k', hk', rfl⟩ := List.mem_map.mp hr
      obtain ⟨-, -, hk''⟩ := mem_shareOf.mp hx
      exact hnot (hij ▸ hk''.symm ▸ hk')
    · exact ⟨(hrest j hj).bytes, (hrest j hj).good⟩

/-- What a write to good blocks leaves: its bytes, in good blocks. -/
structure Wrote (t : State) (a : Nat) (b : List Byte) : Prop where
  bytes : ∀ i (hi : i < b.length), t.byte (a + i) = b[i]
  good : ∀ k ∈ blocksOf a b.length, t.blockOk k = true

theorem State.store_good {s : State} (hs : ∀ k ∈ blocksOf a b.length, Sealed k) (hok : ∀ k ∈ blocksOf a b.length, s.blockOk k = true) :
    (s.store a b).2 = [] ∧ Wrote (s.store a b).1 a b := by
  obtain ⟨hnone, hwritten⟩ := storeBlocks_good _ (s, []) (blocksOf_nodup a b.length) (fun _ h => h) hs hok
  exact ⟨hnone, fun i hi => (hwritten _ (mem_blocksOf.mpr ⟨a + i, by omega, by omega, rfl⟩)).bytes i hi rfl, fun k hk => (hwritten k hk).good⟩

end

end Sys2Proof.Machine
end

section
namespace Sys2Proof.Machine

open Sys2Proof.Claims

/-! A piece of a move within one destination block (R314, Table 12-5). -/

theorem Notes.counted {P : Nat → Prop} (s : State) (tr : List (Nat × Nat × Nat)) : Notes P s { s with traffic := tr } :=
  ⟨⟨s.regs, s.host.msix, s.host.moderating, s.host.waiting, s.record, tr, s.panels, rfl⟩, fun _ _ => rfl, fun _ => rfl, Nat.le_refl _, fun _ h => h⟩

/-- The source blocks that a piece checks: those that carry a seal and have not been checked yet. -/
def Moved.unchecked (m : Moved) (src n : Nat) : List Nat := (blocksOf src n).filter fun k => !inHost (4096 * k) && !m.checked.contains k

/-- The state once a whole block's part has been copied: with the block's last byte its seal is carried over. -/
def State.carry (s : State) (src dst n : Nat) : State :=
  let t := ({ s with traffic := tally s.traffic (src / 4096) n 0 } : State).put dst (s.bytes src n)
  if (dst + n) % 4096 == 0 then t.setSeal (dst / 4096) (s.sealEntry (src / 4096)) else t

theorem Moved.piece_whole_bad {m : Moved} {src dst n : Nat} (h : m.s.badBlock (src / 4096) = true) :
    m.piece true src dst n = { m with s := m.s.sealFail (src / 4096) 0x0703, bad := some (src / 4096) } := if_pos h

theorem Moved.piece_whole_good {m : Moved} {src dst n : Nat} (h : m.s.badBlock (src / 4096) = false) :
    (m.piece true src dst n).s = m.s.carry src dst n ∧ (m.piece true src dst n).bad = m.bad := by
  have hpiece : m.piece true src dst n = _ := if_neg (ne_true_of_eq_false h)
  rw [hpiece]
  exact ⟨rfl, rfl⟩

theorem Moved.piece_part_bad {m : Moved} {src dst n k : Nat} (h : m.s.firstBad (m.unchecked src n) = some k) :
    m.piece false src dst n = { m with s := m.s.check (m.unchecked src n) 0x0703, bad := some k } := by
  unfold Moved.piece
  dsimp only
  rw [if_neg Bool.false_ne_true]
  unfold Moved.unchecked at *
  rw [h]

/-- A part of a block checked at its source and stored. -/
def Moved.stored (m : Moved) (src dst n : Nat) : State × List Nat := (m.s.check (m.unchecked src n) 0x0703).store dst (m.s.bytes src n)

theorem Moved.piece_part_merge {m : Moved} {src dst n k : Nat} {l : List Nat} (h : m.s.firstBad (m.unchecked src n) = none)
    (hw : (m.stored src dst n).2 = k :: l) : (m.piece false src dst n).s = (m.stored src dst n).1.sealFail k 0x0703 := by
  unfold Moved.piece
  dsimp only
  rw [if_neg Bool.false_ne_true]
  unfold Moved.stored Moved.unchecked at *
  rw [h]
  dsimp only
  rw [hw]

theorem Moved.piece_part_good {m : Moved} {src dst n : Nat} (h : m.s.firstBad (m.unchecked src n) = none) (hw : (m.stored src dst n).2 = []) :
    (m.piece false src dst n).s = (m.stored src dst n).1 ∧ (m.piece false src dst n).bad = m.bad := by
  unfold Moved.piece
  dsimp only
  rw [if_neg Bool.false_ne_true]
  unfold Moved.stored Moved.unchecked at *
  rw [h]
  dsimp only
  rw [hw]
  exact ⟨rfl, rfl⟩

section
variable {m : Moved} {whole : Bool} {src dst n : Nat} (hone : blocksOf dst n = [dst / 4096]) (hwhole : whole = true → inHost src = false)
  (hs : ∀ k ∈ blocksOf src n, Sealed k) (hd : Sealed (dst / 4096))

theorem Moved.unchecked_sealed (hs : ∀ k ∈ blocksOf src n, Sealed k) : ∀ k ∈ m.unchecked src n, Sealed k :=
  fun k hk => hs k (List.mem_of_mem_filter hk)

/-- The check of a piece's source blocks is noted, and nothing more. -/
theorem Moved.checked_notes (hs : ∀ k ∈ blocksOf src n, Sealed k) : Notes CheckRegs m.s (m.s.check (m.unchecked src n) 0x0703) :=
  (Notes.refl _ _).check (Moved.unchecked_sealed hs) (fun _ => .inl) fun _ => .inr

include hone in
theorem src_mem_of_one : src / 4096 ∈ blocksOf src n := by
  obtain ⟨x, h1, h2, -⟩ := mem_blocksOf.mp (hone ▸ List.mem_cons_self : dst / 4096 ∈ blocksOf dst n)
  exact mem_blocksOf.mpr ⟨src, le_refl _, by omega, rfl⟩

include hone in
theorem State.carry_moves (s : State) : Moves CheckRegs [(dst, n)] s (s.carry src dst n) := by
  have hput := (Notes.counted (P := CheckRegs) s (tally s.traffic (src / 4096) n 0)).moves [(dst, n)] |>.trans
    (Moves.within (State.put_moves CheckRegs _ dst (s.bytes src n)) fun x hx => by rwa [State.bytes_length] at hx)
  unfold State.carry
  dsimp only
  split
  · exact hput.setSeal ⟨_, List.mem_cons_self, hone ▸ List.mem_cons_self⟩
  · exact hput

include hone hs hd in
theorem Moved.stored_moves : Moves CheckRegs [(dst, n)] m.s (m.stored src dst n).1 := by
  refine ((Moved.checked_notes hs).moves _).trans ?_
  have hstore := State.store_moves (a := dst) (b := m.s.bytes src n) (m.s.check (m.unchecked src n) 0x0703)
  rw [State.bytes_length] at hstore
  refine hstore fun k hk => ?_
  rw [hone] at hk
  exact List.mem_singleton.mp hk ▸ hd

include hone hs hd hwhole in
/-- A piece changes nothing outside the bytes that it writes. -/
theorem Moved.piece_moves : Moves CheckRegs [(dst, n)] m.s (m.piece whole src dst n).s := by
  have hmem : src / 4096 ∈ blocksOf src n := src_mem_of_one hone
  cases whole with
  | true =>
    have hh : ¬inHost (4096 * (src / 4096)) = true := by rw [inHost_block, hwhole rfl]; decide
    cases hbad : m.s.badBlock (src / 4096) with
    | true =>
      rw [Moved.piece_whole_bad hbad]
      exact ((Notes.refl CheckRegs m.s).sealFail (hs _ hmem) hh).moves _
    | false =>
      rw [(Moved.piece_whole_good hbad).1]
      exact m.s.carry_moves hone
  | false =>
    have hstored : Moves CheckRegs [(dst, n)] m.s (m.stored src dst n).1 := Moved.stored_moves hone hs hd
    cases hbad : m.s.firstBad (m.unchecked src n) with
    | some k =>
      rw [Moved.piece_part_bad hbad]
      exact (Moved.checked_notes hs).moves _
    | none =>
      cases hw : (m.stored src dst n).2 with
      | nil =>
        rw [(Moved.piece_part_good hbad hw).1]
        exact hstored
      | cons k l =>
        rw [Moved.piece_part_merge hbad hw]
        obtain ⟨hk, hh⟩ := State.store_fails (a := dst) (b := m.s.bytes src n) (m.s.check (m.unchecked src n) 0x0703)
          (fun j hj => by
            rw [State.bytes_length, hone] at hj
            exact List.mem_singleton.mp hj ▸ hd) (k := k) (by
            unfold Moved.stored at hw
            rw [hw]
            exact List.mem_cons_self)
        rw [State.bytes_length, hone, List.mem_singleton] at hk
        exact hstored.step ((Notes.refl CheckRegs _).sealFail (hk ▸ hd) hh)

/-- A piece has moved its bytes. -/
structure Moved.Took (m u : Moved) (src dst n : Nat) : Prop where
  ok : u.bad = none
  bytes : ∀ i, i < n → u.s.byte (dst + i) = m.s.byte (src + i)

theorem State.carry_bytes (s : State) {i : Nat} (hi : i < n) : (s.carry src dst n).byte (dst + i) = s.byte (src + i) := by
  have hlen : i < (s.bytes src n).length := by rwa [State.bytes_length]
  have hput := State.byte_put_same { s with traffic := tally s.traffic (src / 4096) n 0 } dst (s.bytes src n) i hlen
  have hbyte : (s.bytes src n)[i] = s.byte (src + i) := by simp only [State.bytes_eq, List.getElem_map, List.getElem_range]
  rw [hbyte] at hput
  unfold State.carry
  dsimp only
  split
  · exact hput
  · exact hput

theorem State.badBlock_of_ok {s : State} {k : Nat} (hh : ¬inHost (4096 * k) = true) (hok : s.blockOk k = true) : s.badBlock k = false := by
  unfold State.blockOk at hok
  rw [if_neg hh] at hok
  simp only [Bool.and_eq_true, Bool.not_eq_true'] at hok
  exact hok.1

theorem State.firstBad_good {s : State} {ks : List Nat} (h : ∀ k ∈ ks, s.blockOk k = true) : s.firstBad ks = none :=
  List.find?_eq_none.mpr fun k hk => by simp [h k hk]

theorem Moved.unchecked_good (hsrc : ∀ k ∈ blocksOf src n, m.s.blockOk k = true) : m.s.firstBad (m.unchecked src n) = none :=
  State.firstBad_good fun k hk => hsrc k (List.mem_of_mem_filter hk)

include hone hs hd in
theorem Moved.stored_good (hdst : m.s.blockOk (dst / 4096) = true) :
    (m.stored src dst n).2 = [] ∧ Wrote (m.stored src dst n).1 dst (m.s.bytes src n) := by
  refine State.store_good (fun k hk => ?_) fun k hk => ?_ <;> rw [State.bytes_length, hone, List.mem_singleton] at hk
  · exact hk ▸ hd
  · rw [hk, (Moved.checked_notes hs).blockOk, hdst]

include hone hwhole hs hd in
theorem Moved.piece_good (hb : m.bad = none) (hsrc : ∀ k ∈ blocksOf src n, m.s.blockOk k = true) (hdst : m.s.blockOk (dst / 4096) = true) :
    m.Took (m.piece whole src dst n) src dst n := by
  cases whole with
  | true =>
    have hh : ¬inHost (4096 * (src / 4096)) = true := by rw [inHost_block, hwhole rfl]; decide
    obtain ⟨hstate, hbad⟩ := Moved.piece_whole_good (dst := dst) (n := n) (State.badBlock_of_ok hh (hsrc _ (src_mem_of_one hone)))
    refine ⟨hbad.trans hb, fun i hi => ?_⟩
    rw [hstate, State.carry_bytes _ hi]
  | false =>
    obtain ⟨hnone, hwrote⟩ := Moved.stored_good hone hs hd hdst
    obtain ⟨hstate, hbad⟩ := Moved.piece_part_good (Moved.unchecked_good hsrc) hnone
    refine ⟨hbad.trans hb, fun i hi => ?_⟩
    rw [hstate, hwrote.bytes i (by rwa [State.bytes_length])]
    simp only [State.bytes_eq, List.getElem_map, List.getElem_range]

/-- A block copied whole in one piece carries its source's content and seal. -/
theorem State.carry_seal (s : State) (hend : (dst + n) % 4096 = 0) : (s.carry src dst n).sealEntry (dst / 4096) = s.sealEntry (src / 4096) := by
  unfold State.carry
  dsimp only
  rw [if_pos (beq_iff_eq.mpr hend), State.sealEntry_setSeal_self]

theorem State.carry_good {s : State} (hs : src % 4096 = 0) (hd : dst % 4096 = 0) (hhs : inHost src = false)
    (hhd : inHost dst = false) (hsrc : s.blockOk (src / 4096) = true) (hdst : s.blockOk (dst / 4096) = true) :
    (s.carry src dst 4096).blockOk (dst / 4096) = true := by
  have hh : ¬inHost (4096 * (dst / 4096)) = true := by rw [inHost_block, hhd]; decide
  have hh' : ¬inHost (4096 * (src / 4096)) = true := by rw [inHost_block, hhs]; decide
  have hmoves : Moves CheckRegs [(dst, 4096)] s (s.carry src dst 4096) := s.carry_moves (blocksOf_single (by decide) (by omega))
  have hbytes : (s.carry src dst 4096).bytes (4096 * (dst / 4096)) 4096 = s.bytes (4096 * (src / 4096)) 4096 := by
    rw [State.bytes_eq, State.bytes_eq, Nat.mul_div_cancel' (Nat.dvd_of_mod_eq_zero hs), Nat.mul_div_cancel' (Nat.dvd_of_mod_eq_zero hd)]
    exact List.map_congr_left fun i hi => s.carry_bytes (List.mem_range.mp hi)
  have hbad := hmoves.badBlock (State.badBlock_of_ok hh hdst)
  unfold State.blockOk at hsrc ⊢
  rw [if_neg hh] at ⊢
  rw [if_neg hh'] at hsrc
  simp only [Bool.and_eq_true, beq_iff_eq] at hsrc
  rw [hbad, s.carry_seal (by omega), hsrc.2]
  unfold State.sealOf
  rw [hbytes, beq_self_eq_true]
  rfl

end

end Sys2Proof.Machine
end

section
namespace Sys2Proof.Machine

open Sys2Proof.Claims

/-! A run of bytes moved piece by piece (R314). -/

/-- The piece of a run that goes to a block. -/
def Moved.block (src dst len lo hi : Nat) (u : Moved) (k : Nat) : Moved :=
  let at_ := (shareOf dst len k).1 - dst
  if u.bad.isSome then u else u.piece (carried (src + at_) (dst + at_) lo hi) (src + at_) (dst + at_) (shareOf dst len k).2

theorem Moved.run_eq (m : Moved) (src dst len lo hi : Nat) : m.run src dst len lo hi = (blocksOf dst len).foldl (Moved.block src dst len lo hi) m :=
  List.foldl_map

theorem carried_device {src dst lo hi : Nat} (h : carried src dst lo hi = true) :
    src % 4096 = dst % 4096 ∧ inHost src = false ∧ inHost dst = false ∧ lo ≤ dst / 4096 * 4096 ∧ dst / 4096 * 4096 + 4096 ≤ hi := by
  unfold carried at h
  simp only [Bool.and_eq_true, beq_iff_eq, Bool.not_eq_true', decide_eq_true_eq, and_assoc] at h
  exact h

section
variable {src dst len lo hi : Nat} (hs : ∀ k ∈ blocksOf src len, Sealed k) (hd : ∀ k ∈ blocksOf dst len, Sealed k)

/-- Where a block's piece of a run lies: source, destination and block. -/
structure PieceAt (src dst len k a b : Nat) : Prop where
  dest : b = (shareOf dst len k).1
  inBlock : b / 4096 = k
  one : blocksOf b (shareOf dst len k).2 = [b / 4096]
  fits : a - src = b - dst ∧ src ≤ a ∧ dst ≤ b ∧ b + (shareOf dst len k).2 ≤ dst + len

theorem pieceAt {k : Nat} (hk : k ∈ blocksOf dst len) :
    PieceAt src dst len k (src + ((shareOf dst len k).1 - dst)) (dst + ((shareOf dst len k).1 - dst)) := by
  obtain ⟨h1, h2, h3, h4, h5⟩ := shareOf_bounds hk
  have hat : dst + ((shareOf dst len k).1 - dst) = (shareOf dst len k).1 := by omega
  have hblock : (shareOf dst len k).1 / 4096 = k := by omega
  refine ⟨hat, ?_, ?_, ?_⟩
  · rw [hat, hblock]
  · rw [hat, blocksOf_shareOf hk, hblock]
  · omega

theorem PieceAt.src_mem {k a b j : Nat} (h : PieceAt src dst len k a b) (hj : j ∈ blocksOf a (shareOf dst len k).2) : j ∈ blocksOf src len := by
  have hfits := h.fits
  exact blocksOf_mono (by omega) (by omega) hj

include hs hd in
theorem Moved.block_moves {k : Nat} (hk : k ∈ blocksOf dst len) (u : Moved) :
    Moves CheckRegs [shareOf dst len k] u.s (Moved.block src dst len lo hi u k).s := by
  have hat : PieceAt src dst len k _ _ := pieceAt hk
  unfold Moved.block
  dsimp only
  split
  · exact .refl _ _ _
  · refine (Moved.piece_moves hat.one (fun hw => (carried_device hw).2.1) (fun j hj => hs j (hat.src_mem hj)) (hat.inBlock.symm ▸ hd k hk)).within
      fun x hx => ?_
    rwa [hat.dest] at hx

include hs hd in
theorem Moved.blocks_moves (l : List Nat) (hl : ∀ k ∈ l, k ∈ blocksOf dst len) (m : Moved) :
    Moves CheckRegs (l.map (shareOf dst len)) m.s (l.foldl (Moved.block src dst len lo hi) m).s := by
  induction l generalizing m with
  | nil => exact .refl _ _ _
  | cons k l ih =>
    refine ((Moved.block_moves hs hd (hl k List.mem_cons_self) m).within fun x hx => ?_).trans
      ((ih (fun j hj => hl j (List.mem_cons_of_mem _ hj)) _).within fun x hx => ?_)
    · obtain ⟨r, hr, hx⟩ := hx
      exact ⟨r, List.mem_singleton.mp hr ▸ List.mem_cons_self, hx⟩
    · obtain ⟨r, hr, hx⟩ := hx
      exact ⟨r, List.mem_cons_of_mem _ hr, hx⟩

include hs hd in
/-- A run changes nothing outside its destination. -/
theorem Moved.run_moves (m : Moved) : Moves CheckRegs [(dst, len)] m.s (m.run src dst len lo hi).s := by
  rw [Moved.run_eq]
  refine (Moved.blocks_moves hs hd _ (fun _ h => h) m).within ?_
  rintro x ⟨r, hr, hx⟩
  obtain ⟨k, -, rfl⟩ := List.mem_map.mp hr
  exact shareOf_within x ⟨_, List.mem_cons_self, hx⟩

/-- What a run to good blocks leaves in a block: its bytes, and where the run lies within the bounds of what carries seals, a good block. -/
structure Moved.BlockDone (m u : Moved) (src dst len lo hi k : Nat) : Prop where
  bytes : ∀ i, i < len → (dst + i) / 4096 = k → u.s.byte (dst + i) = m.s.byte (src + i)
  good : dst ≤ lo → hi ≤ dst + len → u.s.blockOk k = true

include hs hd in
/-- A piece of a good block copied; a piece that carries the seal is the whole block. -/
theorem Moved.block_good {m : Moved} {k : Nat} (hk : k ∈ blocksOf dst len) (hb : m.bad = none) (hsrc : ∀ j ∈ blocksOf src len, m.s.blockOk j = true)
    (hdst : m.s.blockOk k = true) :
    (Moved.block src dst len lo hi m k).bad = none ∧ Moved.BlockDone m (Moved.block src dst len lo hi m k) src dst len lo hi k := by
  have hat : PieceAt src dst len k _ _ := pieceAt hk
  have hsize := shareOf_bounds hk
  unfold Moved.block
  dsimp only at hsize ⊢
  rw [hb, if_neg (by decide)]
  generalize src + ((shareOf dst len k).1 - dst) = a at *
  generalize dst + ((shareOf dst len k).1 - dst) = b at *
  have hs' : ∀ j ∈ blocksOf a (shareOf dst len k).2, Sealed j := fun j hj => hs j (hat.src_mem hj)
  have hsrc' : ∀ j ∈ blocksOf a (shareOf dst len k).2, m.s.blockOk j = true := fun j hj => hsrc j (hat.src_mem hj)
  have hd' : Sealed (b / 4096) := hat.inBlock.symm ▸ hd k hk
  have hdst' : m.s.blockOk (b / 4096) = true := by rw [hat.inBlock, hdst]
  have htook := Moved.piece_good (whole := carried a b lo hi) hat.one (fun hw => (carried_device hw).2.1) hs' hd' hb hsrc' hdst'
  obtain ⟨hdest, hin, hone, hfits⟩ := hat
  refine ⟨htook.ok, fun i hi hik => ?_, fun hlo hhi => ?_⟩
  · have hshare := mem_shareOf.mpr ⟨Nat.le_add_right dst i, Nat.add_lt_add_left hi dst, hik⟩
    have hbyte := htook.bytes (dst + i - b) (by omega)
    rwa [show b + (dst + i - b) = dst + i by omega, show a + (dst + i - b) = src + i by omega] at hbyte
  · cases hw : carried a b lo hi with
    | true =>
      obtain ⟨hmod, hhs, hhd, hwlo, hwhi⟩ := carried_device hw
      have hfull : (shareOf dst len k).2 = 4096 ∧ b % 4096 = 0 := by
        have h1 := mem_shareOf (a := dst) (len := len) (k := k) (x := 4096 * k)
        have h2 := mem_shareOf (a := dst) (len := len) (k := k) (x := 4096 * k + 4095)
        omega
      obtain ⟨hstate, -⟩ := Moved.piece_whole_good (m := m) (src := a) (dst := b) (n := (shareOf dst len k).2)
        (State.badBlock_of_ok (by rw [inHost_block, hhs]; decide) (hsrc' _ (src_mem_of_one hone)))
      rw [hstate, hfull.1, ← hin]
      exact State.carry_good (by omega) hfull.2 hhs hhd (hsrc' _ (src_mem_of_one hone)) hdst'
    | false =>
      obtain ⟨hnone, hwrote⟩ := Moved.stored_good hone hs' hd' hdst'
      obtain ⟨hstate, -⟩ := Moved.piece_part_good (Moved.unchecked_good hsrc') hnone
      have hgood := hwrote.good (b / 4096) (by rw [State.bytes_length, hone]; exact List.mem_cons_self)
      rwa [hin, ← hstate] at hgood

section
variable (hapart : ∀ k ∈ blocksOf src len, k ∉ blocksOf dst len)
include hs hd hapart

theorem Moved.blocks_good (l : List Nat) (hnodup : l.Nodup) (hl : ∀ k ∈ l, k ∈ blocksOf dst len) (m : Moved) (hb : m.bad = none)
    (hsrc : ∀ k ∈ blocksOf src len, m.s.blockOk k = true) (hdst : ∀ k ∈ l, m.s.blockOk k = true) :
    (l.foldl (Moved.block src dst len lo hi) m).bad = none ∧
      ∀ k ∈ l, Moved.BlockDone m (l.foldl (Moved.block src dst len lo hi) m) src dst len lo hi k := by
  induction l generalizing m with
  | nil => exact ⟨hb, nofun⟩
  | cons k l ih =>
    obtain ⟨hnot, hnodup⟩ := List.nodup_cons.mp hnodup
    have hk := hl k List.mem_cons_self
    have hl' : ∀ j ∈ l, j ∈ blocksOf dst len := fun j hj => hl j (List.mem_cons_of_mem _ hj)
    obtain ⟨hb', hdone⟩ := Moved.block_good (lo := lo) (hi := hi) hs hd hk hb hsrc (hdst k List.mem_cons_self)
    have hfirst := Moved.block_moves (lo := lo) (hi := hi) hs hd hk m
    have hrest := Moved.blocks_moves (lo := lo) (hi := hi) hs hd l hl' (Moved.block src dst len lo hi m k)
    have hkeep : ∀ j, j ≠ k → m.s.blockOk j = true → (Moved.block src dst len lo hi m k).s.blockOk j = true := fun j hj =>
      hfirst.blockOk fun r hr => by
        rw [List.mem_singleton.mp hr, blocksOf_shareOf hk, List.mem_singleton]
        exact hj
    obtain ⟨hnone, hdone'⟩ := ih hnodup hl' (Moved.block src dst len lo hi m k) hb' (fun j hj => hkeep j (fun e => hapart j hj (e ▸ hk)) (hsrc j hj))
      fun j hj => hkeep j (fun e => hnot (e ▸ hj)) (hdst j (List.mem_cons_of_mem _ hj))
    have hsrcByte : ∀ i, i < len → (Moved.block src dst len lo hi m k).s.byte (src + i) = m.s.byte (src + i) := fun i hi => by
      refine hfirst.byte fun hx => ?_
      obtain ⟨-, -, hx⟩ := inAny_shareOf.mp hx
      exact hapart _ (mem_blocksOf.mpr ⟨src + i, Nat.le_add_right _ _, Nat.add_lt_add_left hi _, rfl⟩) (hx ▸ hk)
    refine ⟨hnone, fun j hj => ?_⟩
    rcases List.mem_cons.mp hj with rfl | hj
    · have hout : ∀ r ∈ l.map (shareOf dst len), j ∉ blocksOf r.1 r.2 := fun r hr => by
        obtain ⟨k', hk', rfl⟩ := List.mem_map.mp hr
        rw [blocksOf_shareOf (hl' k' hk'), List.mem_singleton]
        exact fun e => hnot (e ▸ hk')
      refine ⟨fun i hi hij => (hrest.byte ?_).trans (hdone.bytes i hi hij), fun h1 h2 => hrest.blockOk hout (hdone.good h1 h2)⟩
      rintro ⟨r, hr, hx⟩
      exact hout r hr (mem_blocksOf.mpr ⟨_, hx.1, hx.2, hij⟩)
    · exact ⟨fun i hi hij => ((hdone' j hj).bytes i hi hij).trans (hsrcByte i hi), (hdone' j hj).good⟩

/-- A run between good blocks copies its bytes. -/
theorem Moved.run_good {m : Moved} (hb : m.bad = none) (hsrc : ∀ k ∈ blocksOf src len, m.s.blockOk k = true)
    (hdst : ∀ k ∈ blocksOf dst len, m.s.blockOk k = true) : m.Took (m.run src dst len lo hi) src dst len := by
  obtain ⟨hnone, hdone⟩ := Moved.blocks_good (lo := lo) (hi := hi) hs hd hapart _ (blocksOf_nodup dst len) (fun _ h => h) m hb hsrc hdst
  rw [← Moved.run_eq] at hnone hdone
  exact ⟨hnone, fun i hi => (hdone _ (mem_blocksOf.mpr ⟨dst + i, Nat.le_add_right _ _, Nat.add_lt_add_left hi _, rfl⟩)).bytes i hi rfl⟩

/-- A transfer of its own leaves its destination's blocks good. -/
theorem Moved.run_blocks {m : Moved} (hb : m.bad = none) (hsrc : ∀ k ∈ blocksOf src len, m.s.blockOk k = true)
    (hdst : ∀ k ∈ blocksOf dst len, m.s.blockOk k = true) : ∀ k ∈ blocksOf dst len, (m.run src dst len dst (dst + len)).s.blockOk k = true := by
  obtain ⟨-, hdone⟩ := Moved.blocks_good (lo := dst) (hi := dst + len) hs hd hapart _ (blocksOf_nodup dst len) (fun _ h => h) m hb hsrc hdst
  rw [← Moved.run_eq] at hdone
  exact fun k hk => (hdone k hk).good (Nat.le_refl _) (Nat.le_refl _)

end

/-- A device block moved whole in one run takes the seal of its source. -/
theorem Moved.run_seal {m : Moved} (hb : m.bad = none) (hsrc : m.s.blockOk (src / 4096) = true) (hms : src % 4096 = 0) (hmd : dst % 4096 = 0)
    (hhs : inHost src = false) (hhd : inHost dst = false) (hlo : lo ≤ dst) (hhi : dst + 4096 ≤ hi) :
    (m.run src dst 4096 lo hi).s.sealEntry (dst / 4096) = m.s.sealEntry (src / 4096) := by
  have hmul : dst / 4096 * 4096 = dst := Nat.div_mul_cancel (Nat.dvd_of_mod_eq_zero hmd)
  have hone : blocksOf dst 4096 = [dst / 4096] := blocksOf_single (by decide) (by omega)
  have hshare : shareOf dst 4096 (dst / 4096) = (dst, 4096) := by
    simp only [shareOf, Nat.max_def, Nat.min_def]
    split <;> split <;> (congr 1 <;> omega)
  have hcarried : carried src dst lo hi = true := by
    unfold carried
    rw [hms, hmd, hhs, hhd, hmul, decide_eq_true hlo, decide_eq_true hhi]
    rfl
  have hbad := State.badBlock_of_ok (by rw [inHost_block, hhs]; decide) hsrc
  rw [Moved.run_eq, hone, List.foldl_cons, List.foldl_nil]
  unfold Moved.block
  rw [hshare]
  dsimp only
  rw [hb, if_neg (by decide), Nat.sub_self, Nat.add_zero, Nat.add_zero, hcarried, (Moved.piece_whole_good hbad).1, m.s.carry_seal (by omega)]

end

/-! Transfers of their own, and bytes written (R319). -/

section
variable {src dst len : Nat}

theorem Moved.copy_eq (m : Moved) : m.copy src dst len = ({ m with s := m.s.cacheUse src len } : Moved).run src dst len dst (dst + len) := rfl

theorem Moved.copy_moves (m : Moved) (hs : ∀ k ∈ blocksOf src len, Sealed k) (hd : ∀ k ∈ blocksOf dst len, Sealed k) :
    Moves CheckRegs [(dst, len)] m.s (m.copy src dst len).s :=
  (((Notes.refl CheckRegs m.s).cacheUse src len).moves _).trans (Moved.run_moves hs hd { m with s := m.s.cacheUse src len })

theorem Moved.copy_good {m : Moved} (hs : ∀ k ∈ blocksOf src len, Sealed k) (hd : ∀ k ∈ blocksOf dst len, Sealed k)
    (hapart : ∀ k ∈ blocksOf src len, k ∉ blocksOf dst len) (hb : m.bad = none) (hsrc : ∀ k ∈ blocksOf src len, m.s.blockOk k = true)
    (hdst : ∀ k ∈ blocksOf dst len, m.s.blockOk k = true) :
    m.Took (m.copy src dst len) src dst len ∧ ∀ k ∈ blocksOf dst len, (m.copy src dst len).s.blockOk k = true := by
  have huse := (Notes.refl CheckRegs m.s).cacheUse src len
  have hsrc' : ∀ k ∈ blocksOf src len, (m.s.cacheUse src len).blockOk k = true := fun k hk => (huse.blockOk k).trans (hsrc k hk)
  have hdst' : ∀ k ∈ blocksOf dst len, (m.s.cacheUse src len).blockOk k = true := fun k hk => (huse.blockOk k).trans (hdst k hk)
  rw [Moved.copy_eq]
  obtain ⟨hok, hbytes⟩ := Moved.run_good (lo := dst) (hi := dst + len) hs hd hapart (m := { m with s := m.s.cacheUse src len }) hb hsrc' hdst'
  exact ⟨⟨hok, fun i hi => (hbytes i hi).trans (huse.sameBytes _)⟩, Moved.run_blocks hs hd hapart hb hsrc' hdst'⟩

theorem Moved.fill_moves (m : Moved) {b : List Byte} (hd : ∀ k ∈ blocksOf dst b.length, Sealed k) :
    Moves CheckRegs [(dst, b.length)] m.s (m.fill dst b).s := by
  have hstore := m.s.store_moves hd
  unfold Moved.fill
  dsimp only
  split
  · exact .refl _ _ _
  · split
    · rename_i k l hw
      obtain ⟨hk, hh⟩ := m.s.store_fails hd (k := k) (by rw [hw]; exact List.mem_cons_self)
      exact hstore.step ((Notes.refl CheckRegs _).sealFail (hd k hk) hh)
    · exact hstore

theorem Moved.fill_good {m : Moved} {b : List Byte} (hd : ∀ k ∈ blocksOf dst b.length, Sealed k) (hb : m.bad = none)
    (hdst : ∀ k ∈ blocksOf dst b.length, m.s.blockOk k = true) : (m.fill dst b).bad = none ∧ Wrote (m.fill dst b).s dst b := by
  obtain ⟨hnone, hwrote⟩ := State.store_good hd hdst
  unfold Moved.fill
  dsimp only
  rw [hb, if_neg (by decide), hnone]
  exact ⟨rfl, hwrote⟩

end

end Sys2Proof.Machine
end

section
namespace Sys2Proof.Machine

open Sys2Proof.Claims

/-! Registers of channels among those of the dies. -/

theorem ChanReg.ofDies {n : Die8} {c : ChanNo} {o : Nat} (h : ChanReg n c o) : OfDies o := by
  have hn := n.isLt
  have hc := c.isLt
  unfold ChanReg pgDma pgMemDie quadBase R.MEM_DIE.CHAN_BUSY R.MEM_DIE.CHAN_OWNER at h
  dsimp only at h
  exact .inl (by omega)

/-- A check of blocks writes no register of a channel. -/
theorem ChanReg.not_check {n : Die8} {c : ChanNo} {o : Nat} (h : ChanReg n c o) : ¬CheckRegs o := by
  have hn := n.isLt
  have hc := c.isLt
  unfold ChanReg pgDma pgMemDie quadBase R.MEM_DIE.CHAN_BUSY R.MEM_DIE.CHAN_OWNER at h
  dsimp only at h
  rintro (⟨j, hj, hseal⟩ | hrep | hrep)
  · unfold InPage pgSeal pgMemDie quadBase at hseal
    omega
  · unfold InPage pgRecord at hrep
    omega
  · unfold pgIntroute at hrep
    omega

theorem Moves.cf {rs : List (Nat × Nat)} {s t : State} (h : Moves CheckRegs rs s t) {n : Die8} {c : ChanNo} {f : Fld} (hf : f.ofChan = true) :
    t.cf n c f = s.cf n c f :=
  congrArg (fun w => getBits w f.hi f.lo) (h.regs _ (ChanReg.not_check (Fld.chanReg hf n c)))

theorem ChanOnly.onlyIn {n c : Nat} {s t u : State} {rs : List (Nat × Nat)} (h : OnlyIn s t rs) (g : ChanOnly n c t u) : OnlyIn s u rs :=
  h.same g.sameBytes g.sameSeals

/-- The end of an installed range lies in the address space. -/
theorem end_of_rangeOk {a len : Nat} (h : rangeOk a len = true) : len = 0 ∨ a + len ≤ 2 ^ 52 := by
  unfold rangeOk rangeEnd inTierA inTierB inSram inHost tierAEnd tierBBase tierBEnd sramBase hostBase addrEnd at h
  simp only [Bool.and_eq_true, Bool.or_eq_true, decide_eq_true_eq, beq_iff_eq] at h
  refine h.imp_right fun ⟨hinst, hend⟩ => ?_
  unfold installed inTierA inTierB inSram inHost tierAEnd tierBBase tierBEnd sramBase hostBase addrEnd at hinst
  simp only [Bool.and_eq_true, Bool.or_eq_true, decide_eq_true_eq] at hinst
  grind

/-! One burst (R311). -/

theorem actSrc_lt (s : State) (n c : Nat) : actSrc s n c < 2 ^ 64 := State.rf64_lt (by decide) (by decide) _ _ _

theorem actDst_lt (s : State) (n c : Nat) : actDst s n c < 2 ^ 64 := State.rf64_lt (by decide) (by decide) _ _ _

/-- A burst of a paced channel takes a credit. -/
def State.spendCredit (s : State) (n c : Nat) : State :=
  if (s.chan n c).pace then s.setCf n c R.DMA.CH_STATUS_CREDITS (s.cf n c R.DMA.CH_STATUS_CREDITS - 1) else s

/-- The bytes of a burst moved. -/
def State.burstRun (s : State) (n c src dst len : Nat) : Moved :=
  (Moved.mk ((s.spendCredit n c).cacheUse src len) (s.chan n c).checked (s.chan n c).wrote none).run src dst len (s.chan n c).first
    (dst + s.cf n c R.DMA.RESIDUE)

/-- The channel's own data after a burst of `len` bytes with `left` to go. -/
def Chan.moved (v : Chan) (m : Moved) (left len : Nat) : Chan := { v with checked := m.checked, wrote := m.wrote, ended := if left ≤ len then 1 else 0 }

/-- The channel's pages after a burst. -/
def State.moveOn (s : State) (n c src dst len left : Nat) (v : Chan) : State :=
  (((s.setChan n c v).setActive n c (src + len) (dst + len) (left - len)).inc64 (pgDma n c) R.DMA.BYTES_LO R.DMA.BYTES_HI len (c % 8)).showChan n c

theorem State.burst_eq {s : State} {n c src dst len : Nat} (hsrc : actSrc s n c = src) (hdst : actDst s n c = dst) (hlen : s.burstLen n c = len)
    (hfs : faultIn src len = none) (hfd : faultIn dst len = none) (hbad : (s.burstRun n c src dst len).bad = none) :
    s.burst n c = (s.burstRun n c src dst len).s.moveOn n c src dst len (s.cf n c R.DMA.RESIDUE)
      ((s.chan n c).moved (s.burstRun n c src dst len) (s.cf n c R.DMA.RESIDUE) len) := by
  unfold State.burstRun State.spendCredit actSrc actDst at *
  unfold State.burst
  dsimp only
  rw [hsrc, hdst, hlen, hfs, hfd]
  dsimp only [Option.orElse, HOrElse.hOrElse, OrElse.orElse]
  rw [hbad]
  rfl

theorem ChanOnly.inc64 {n c : Nat} {s t : State} (h : ChanOnly n c s t) {lo hi : Fld} {v : Nat} (hl : lo.ofChan = true) (hh : hi.ofChan = true) :
    ChanOnly n c s (t.inc64 (pgDma n c) lo hi v (c % 8)) := h.wf64 hl hh

section
variable (s : State) (n c src dst len left : Nat) (v : Chan)

theorem State.moveOn_only : ChanOnly n c s (s.moveOn n c src dst len left v) :=
  ((((ChanOnly.refl n c s).setChan v).trans (State.setActive_only _ n c _ _ _)).inc64 (by decide) (by decide)).showChan

theorem State.chan_moveOn : (s.moveOn n c src dst len left v).chan n c = v := by
  unfold State.moveOn
  rw [State.chan_showChan]
  unfold State.chan
  rw [State.inc64_chans, State.setActive_chans]
  exact State.chan_setChan_self _ _ _ _

/-- What counts the bytes of a burst and shows the channel keeps the other fields. -/
theorem State.cf_moveOn {g : Fld} (hl : R.DMA.BYTES_LO.besides g = true) (hh : R.DMA.BYTES_HI.besides g = true)
    (hst : R.DMA.CH_STATUS_STATE.besides g = true) : (s.moveOn n c src dst len left v).cf n c g =
      ((s.setChan n c v).setActive n c (src + len) (dst + len) (left - len)).cf n c g := by
  unfold State.moveOn State.inc64
  rw [State.cf_showChan _ _ _ hst, State.cf_wf64_besides _ _ _ _ hl hh]

theorem State.actSrc_moveOn : actSrc (s.moveOn n c src dst len left v) n c = (src + len) % 2 ^ 64 :=
  (State.rf64_of_cf (State.cf_moveOn _ _ _ _ _ _ _ _ (by decide) (by decide) (by decide))
    (State.cf_moveOn _ _ _ _ _ _ _ _ (by decide) (by decide) (by decide))).trans (State.actSrc_setActive _ _ _ _ _ _)

theorem State.actDst_moveOn : actDst (s.moveOn n c src dst len left v) n c = (dst + len) % 2 ^ 64 :=
  (State.rf64_of_cf (State.cf_moveOn _ _ _ _ _ _ _ _ (by decide) (by decide) (by decide))
    (State.cf_moveOn _ _ _ _ _ _ _ _ (by decide) (by decide) (by decide))).trans (State.actDst_setActive _ _ _ _ _ _)

theorem State.residue_moveOn : (s.moveOn n c src dst len left v).cf n c R.DMA.RESIDUE = (left - len) % 2 ^ 32 :=
  (State.cf_moveOn _ _ _ _ _ _ _ _ (by decide) (by decide) (by decide)).trans (State.residue_setActive _ _ _ _ _ _)

theorem State.credits_moveOn : (s.moveOn n c src dst len left v).cf n c R.DMA.CH_STATUS_CREDITS = s.cf n c R.DMA.CH_STATUS_CREDITS := by
  rw [State.cf_moveOn _ _ _ _ _ _ _ _ (by decide) (by decide) (by decide)]
  unfold State.setActive
  rw [State.cf_setCf_besides _ _ _ _ (by decide), State.cf_wf64_besides _ _ _ _ (by decide) (by decide),
    State.cf_wf64_besides _ _ _ _ (by decide) (by decide), State.cf_setChan]

theorem State.spendCredit_only : ChanOnly n c s (s.spendCredit n c) := by
  unfold State.spendCredit
  split
  · exact (ChanOnly.refl n c s).setCf (by decide)
  · exact .refl n c s

theorem State.credits_spendCredit (h : (s.chan n c).pace = true) :
    (s.spendCredit n c).cf n c R.DMA.CH_STATUS_CREDITS = s.cf n c R.DMA.CH_STATUS_CREDITS - 1 := by
  have hlt : s.cf n c R.DMA.CH_STATUS_CREDITS < 2 ^ 8 := getBits_lt _ _ _
  unfold State.spendCredit
  rw [if_pos h, State.cf_setCf_self _ _ _ _ (by decide)]
  exact Nat.mod_eq_of_lt (show s.cf n c R.DMA.CH_STATUS_CREDITS - 1 < 2 ^ 8 by omega)

theorem State.spendCredit_blockOk (k : Nat) : ((s.spendCredit n c).cacheUse src len).blockOk k = s.blockOk k := by
  refine (((Notes.refl (fun _ => True) _).cacheUse src len).blockOk k).trans ?_
  obtain ⟨r, ch, e⟩ := (s.spendCredit_only n c).frame
  rw [e]
  rfl

end

/-- The first bytes of an address pair after a burst do not wrap. -/
theorem next_address {a len : Nat} (h : faultIn a len = none) (ha : a < 2 ^ 64) : (a + len) % 2 ^ 64 = a + len := by
  refine Nat.mod_eq_of_lt ?_
  rcases end_of_rangeOk (rangeOk_of_faultIn h) with rfl | h
  · exact ha
  · omega

theorem execDmaBurstIssue_runs {s : State} {n : Die8} {c : ChanNo} (hb : (s.chan n c).busy = true) (he : (s.chan n c).ended = 0)
    (hp : (s.chan n c).pace = true → 0 < s.cf n c R.DMA.CH_STATUS_CREDITS) (hclk : s.clocked (pllMem n) = true)
    (hmark : s.markedIn [(actSrc s n c, s.burstLen n c), (actDst s n c, s.burstLen n c)] = []) :
    exec (.dmaBurstIssue n c) s = .next (s.burst n c) := by
  have hgo : ¬(!(s.chan n c).busy || (s.chan n c).ended != 0 || ((s.chan n c).pace && s.cf n c R.DMA.CH_STATUS_CREDITS == 0)) = true := by
    rw [hb, he]
    cases hpace : (s.chan n c).pace with
    | false => exact Bool.false_ne_true
    | true => simpa using Nat.pos_iff_ne_zero.mp (hp hpace)
  have hex : exec (.dmaBurstIssue n c) s = _ := if_neg hgo
  rw [hex]
  unfold State.onDie
  rw [hclk]
  exact congrArg Host.Outcome.next (State.whenFree_unmarked _ hmark)

end Sys2Proof.Machine

namespace Sys2Proof.Claims

open Machine

theorem dmaBurstCopiesBytes : DmaBurstCopiesBytes := by
  intro s n c src dst len hsrc hdst hlen hbusy hended hpace hclk hmark hfs hfd hok hapart
  have hs : ∀ k ∈ blocksOf src len, Sealed k := fun k => sealed_of_rangeOk (rangeOk_of_faultIn hfs)
  have hd : ∀ k ∈ blocksOf dst len, Sealed k := fun k => sealed_of_rangeOk (rangeOk_of_faultIn hfd)
  have hoks : ∀ k ∈ blocksOf src len, ((s.spendCredit n c).cacheUse src len).blockOk k = true := fun k hk =>
    (s.spendCredit_blockOk _ _ _ _ k).trans (hok k (List.mem_append_left _ hk))
  have hokd : ∀ k ∈ blocksOf dst len, ((s.spendCredit n c).cacheUse src len).blockOk k = true := fun k hk =>
    (s.spendCredit_blockOk _ _ _ _ k).trans (hok k (List.mem_append_right _ hk))
  have htook : Moved.Took _ (s.burstRun n c src dst len) src dst len := Moved.run_good hs hd hapart rfl hoks hokd
  have hmoves : Moves CheckRegs [(dst, len)] _ (s.burstRun n c src dst len).s := Moved.run_moves hs hd _
  have huse := (Notes.refl CheckRegs (s.spendCredit n c)).cacheUse src len
  have hspend := s.spendCredit_only n c
  have hadv := (s.burstRun n c src dst len).s.moveOn_only n c src dst len (s.cf n c R.DMA.RESIDUE)
    ((s.chan n c).moved (s.burstRun n c src dst len) (s.cf n c R.DMA.RESIDUE) len)
  have hall := (huse.moves [(dst, len)]).trans hmoves
  have hex := execDmaBurstIssue_runs hbusy hended hpace hclk (by rw [hsrc, hdst, hlen]; exact hmark)
  rw [State.burst_eq hsrc hdst hlen hfs hfd htook.ok] at hex
  refine ⟨_, hex, fun i hi => ?_, ?_, fun h4096 hms hmd hhs hhd hfirst => ?_, ?_, ?_, ?_, ?_, fun hp => ?_, fun o ho => ?_⟩
  · exact (hadv.sameBytes _).trans ((htook.bytes i hi).trans ((huse.sameBytes _).trans (hspend.sameBytes _)))
  · exact hadv.onlyIn ⟨fun x hx => (hall.only.1 x hx).trans (hspend.sameBytes x), fun k hk => (hall.only.2 k hk).trans (hspend.sameSeals k)⟩
  · subst h4096
    have hleft : (4096 : Nat) ≤ s.cf n c R.DMA.RESIDUE := hlen ▸ Nat.min_le_right _ _
    have hmem : src / 4096 ∈ blocksOf src 4096 := mem_blocksOf.mpr ⟨src, Nat.le_refl _, by omega, rfl⟩
    refine (hadv.sameSeals _).trans ((Moved.run_seal rfl (hoks _ hmem) hms hmd hhs hhd hfirst (by omega)).trans ?_)
    exact (huse.sameSeals _).trans (hspend.sameSeals _)
  · rw [State.actSrc_moveOn, next_address hfs (hsrc ▸ actSrc_lt s n c)]
  · rw [State.actDst_moveOn, next_address hfd (hdst ▸ actDst_lt s n c)]
  · rw [State.residue_moveOn]
    exact Nat.mod_eq_of_lt (lt_of_le_of_lt (Nat.sub_le _ _) (getBits_lt _ _ _))
  · rw [State.chan_moveOn]
    rfl
  · rw [State.credits_moveOn, hall.cf (by decide), State.credits_spendCredit _ _ _ hp]
  · rw [hadv.regs o fun h => ho (ChanReg.ofDies h), hall.regs o fun h => ho h.ofDies, hspend.regs o fun h => ho (ChanReg.ofDies h)]

end Sys2Proof.Claims
end

section
/-! PROOFS. The end of a DMA transfer (R313). -/

namespace Sys2Proof.Machine

open Sys2Proof.Claims

/-! What the end of a transfer notes. -/

/-- The registers in which a die and a channel's page note faults and causes: no register of a channel, and none that shows one. -/
def NoteReg (n c o : Nat) : Prop := InPage (pgMemDie n) o ∨ (pgDma n c ≤ o ∧ o < pgDma n c + 0x200) ∨ Reports o

theorem NoteReg.ofDies {n : Die8} {c : ChanNo} {o : Nat} (h : NoteReg n c o) : OfDies o := by
  have hn := n.isLt
  have hc := c.isLt
  rcases h with h | h | h
  · unfold InPage pgMemDie quadBase at h
    exact .inl (by omega)
  · unfold pgDma pgMemDie quadBase at h
    exact .inl (by omega)
  · exact reports_ofDies h

theorem not_noteReg {n : Die8} {c : ChanNo} {f : Fld} (hf : f.ofChan = true) : ¬NoteReg n c (f.addr (pgDma n c) (c % 8)) := by
  have hn := n.isLt
  have hc := c.isLt
  obtain ⟨-, hlo, hhi, -⟩ := Fld.ofChan_iff.mp hf
  rw [Fld.addr_chan hf]
  unfold NoteReg Reports InPage pgRecord pgIntroute pgDma pgMemDie quadBase
  omega

theorem Moves.cf_noted {n : Die8} {c : ChanNo} {rs : List (Nat × Nat)} {s t : State} (h : Moves (NoteReg n c) rs s t) {f : Fld}
    (hf : f.ofChan = true) : t.cf n c f = s.cf n c f := congrArg (fun w => getBits w f.hi f.lo) (h.regs _ (not_noteReg hf))

theorem Notes.accessFault {P : Nat → Prop} {s t : State} (h : Notes P s t) {n a type : Nat} (hp : ∀ x, x < 0x1000 → P (pgMemDie n + x))
    (hr : ∀ o, Reports o → P o) : Notes P s (t.accessFault n a type) :=
  ((((((h.inc (hp _ (by decide))).wf (hp _ (by decide))).wf (hp _ (by decide))).err (hp _ (by decide)) (hp _ (by decide))).log hr).cause
    (hp _ (by decide)) hr)

theorem dmaFault_notes (s : State) (n c a type : Nat) : Notes (NoteReg n c) s (s.dmaFault n c a type) :=
  ((Notes.refl _ s).accessFault (fun x hx => .inl ⟨Nat.le_add_right _ _, Nat.add_lt_add_left hx _⟩) fun _ h => .inr (.inr h)).err
    (.inr (.inl ⟨Nat.le_add_right _ _, Nat.add_lt_add_left (by decide) _⟩)) (.inr (.inl ⟨Nat.le_add_right _ _, Nat.add_lt_add_left (by decide) _⟩))

/-- The bytes of a status record (Table 12-4). -/
def State.statBytes (s : State) (n c : Nat) (v : Chan) : List Byte :=
  leBytes 4 (s.cf n c R.DMA.RESIDUE) ++ leBytes 1 v.ended ++ leBytes 1 c ++ leBytes 2 0 ++ leBytes 8 s.now

/-- The range of the status record, where the transfer has one. -/
def statRange (v : Chan) : List (Nat × Nat) := if v.stat = 0 then [] else [(v.stat, 16)]

theorem State.statRecord_none {s : State} {n c : Nat} {v : Chan} (h : v.stat = 0) : s.statRecord n c v = s := if_pos (beq_iff_eq.mpr h)

theorem State.statRecord_put {s : State} {n c : Nat} {v : Chan} (h : v.stat ≠ 0) (hf : faultIn v.stat 16 = none) :
    s.statRecord n c v = s.put v.stat (s.statBytes n c v) := by
  unfold State.statRecord
  rw [if_neg (mt beq_iff_eq.mp h), hf]
  rfl

theorem State.statRecord_fault {s : State} {n c a : Nat} {v : Chan} (h : v.stat ≠ 0) (hf : faultIn v.stat 16 = some a) :
    s.statRecord n c v = s.dmaFault n c a 0 := by
  unfold State.statRecord
  rw [if_neg (mt beq_iff_eq.mp h), hf]

theorem State.statBytes_length (s : State) (n c : Nat) (v : Chan) : (s.statBytes n c v).length = 16 := by
  unfold State.statBytes
  simp only [List.length_append, leBytes_length]

/-- The status record changes no seal, and no register of a channel. -/
theorem State.statRecord_moves (s : State) (n c : Nat) (v : Chan) :
    Moves (NoteReg n c) (statRange v) s (s.statRecord n c v) ∧ SameSeals s (s.statRecord n c v) := by
  unfold statRange
  by_cases h : v.stat = 0
  · rw [State.statRecord_none h, if_pos h]
    exact ⟨.refl _ _ _, fun _ => rfl⟩
  · rw [if_neg h]
    cases hf : faultIn v.stat 16 with
    | none =>
      rw [State.statRecord_put h hf]
      have hput := s.put_moves (NoteReg n c) v.stat (s.statBytes n c v)
      rw [State.statBytes_length] at hput
      exact ⟨hput, s.sealEntry_put _ _⟩
    | some a =>
      rw [State.statRecord_fault h hf]
      exact ⟨(dmaFault_notes s n c a 0).moves _, (dmaFault_notes s n c a 0).sameSeals⟩

/-- The causes and the event of a transfer's end. -/
def State.endCauses (s : State) (n c : Nat) (v : Chan) : State :=
  let page := pgDma n c
  let j := c % 8
  let s := if v.irq then s.cause page j else s
  let s := if v.ended != 1 then s.cause page (16 + j) else s
  if v.ended == 2 then (s.log page 0x0705 [n, c, s.cf n c R.DMA.RESIDUE]).cause page (8 + j) else s

theorem Notes.dmaCause {n c b : Nat} {s t : State} (h : Notes (NoteReg n c) s t) : Notes (NoteReg n c) s (t.cause (pgDma n c) b) :=
  h.cause (.inr (.inl ⟨Nat.le_add_right _ _, Nat.add_lt_add_left (by decide) _⟩)) fun _ h => .inr (.inr h)

theorem State.endCauses_notes (s : State) (n c : Nat) (v : Chan) : Notes (NoteReg n c) s (s.endCauses n c v) := by
  have hirq : Notes (NoteReg n c) s (if v.irq then s.cause (pgDma n c) (c % 8) else s) := .ite (fun _ => (Notes.refl _ s).dmaCause) fun _ => .refl _ s
  unfold State.endCauses
  dsimp only
  generalize (if v.irq then s.cause (pgDma n c) (c % 8) else s) = t at *
  have hend : Notes (NoteReg n c) s (if v.ended != 1 then t.cause (pgDma n c) (16 + c % 8) else t) := .ite (fun _ => hirq.dmaCause) fun _ => hirq
  generalize (if v.ended != 1 then t.cause (pgDma n c) (16 + c % 8) else t) = u at *
  exact .ite (fun _ => (hend.log fun _ h => .inr (.inr h)).dmaCause) fun _ => hend

/-- The state once a transfer's end is recorded: `LAST`, the status record, `DONE_COUNT`, causes and event. -/
def State.endNoted (s : State) (n c : Nat) : State :=
  let v := s.chan n c
  let t := (s.setCf n c R.DMA.CH_STATUS_LAST v.ended).statRecord n c v
  (t.setCf n c R.DMA.DONE_COUNT (up32 (t.cf n c R.DMA.DONE_COUNT))).endCauses n c v

/-- The channel once its last transfer has ended. -/
def Chan.ceased (v : Chan) : Chan := { v with busy := false, task := none, segs := [], ended := 0, checked := [], wrote := [] }

/-- The channel with the segments that remain. -/
def Chan.remaining (v : Chan) (l : List (Nat × Nat × Nat)) : Chan := { v with segs := l }

/-- The state before the shadow is taken: the channel idle, its task ended. -/
def State.ceased (s : State) (n c : Nat) : State := ((s.endNoted n c).setChan n c (s.chan n c).ceased).endDma c (s.chan n c)

theorem State.endXfer_eq (s : State) (n c : Nat) : s.endXfer n c =
    match (s.chan n c).ended, (s.chan n c).segs with
    | 1, x :: rest => (s.endNoted n c).startXfer n c x.1 x.2.1 x.2.2 ((s.chan n c).remaining rest)
    | _, _ => (((s.ceased n c).showChan n c).takeShadow n c).pumpDma n := rfl

theorem State.endXfer_next {s : State} {n c : Nat} {x : Nat × Nat × Nat} {rest : List (Nat × Nat × Nat)} (he : (s.chan n c).ended = 1)
    (hsegs : (s.chan n c).segs = x :: rest) :
    s.endXfer n c = (s.endNoted n c).startXfer n c x.1 x.2.1 x.2.2 ((s.chan n c).remaining rest) := by
  rw [State.endXfer_eq, he, hsegs]
  rfl

theorem State.endXfer_last {s : State} {n c : Nat} (h : (s.chan n c).ended = 1 → (s.chan n c).segs = []) :
    s.endXfer n c = (((s.ceased n c).showChan n c).takeShadow n c).pumpDma n := by
  rw [State.endXfer_eq]
  split
  · rename_i he hs
    rw [h he] at hs
    exact nomatch hs
  · rfl

/-- What recording a transfer's end leaves. -/
structure EndNoted (n c : Nat) (s u : State) : Prop where
  chans : u.chans = s.chans
  tasks : u.tasks = s.tasks
  queue : u.dmaQueue = s.dmaQueue
  outside : SameOutside s u (statRange (s.chan n c))
  seals : SameSeals s u
  regs : SameRegs s u OfDies
  last : u.cf n c R.DMA.CH_STATUS_LAST = (s.chan n c).ended % 2 ^ 4
  done : u.cf n c R.DMA.DONE_COUNT = up32 (s.cf n c R.DMA.DONE_COUNT)
  arm : u.cf n c R.DMA.CH_CTL_ARM = s.cf n c R.DMA.CH_CTL_ARM
  record : (s.chan n c).stat ≠ 0 → faultIn (s.chan n c).stat 16 = none →
    u.num (s.chan n c).stat 4 = s.cf n c R.DMA.RESIDUE ∧ u.byte ((s.chan n c).stat + 4) = BitVec.ofNat 8 (s.chan n c).ended

theorem Moves.dmaQueue {P : Nat → Prop} {rs : List (Nat × Nat)} {s t : State} (h : Moves P rs s t) : t.dmaQueue = s.dmaQueue := by
  obtain ⟨r, o, e, m, tr, q, ps, rfl⟩ := h.frame
  rfl

theorem up32_lt (x : Nat) : up32 x % 2 ^ 32 = up32 x := Nat.mod_eq_of_lt (lt_of_le_of_lt (Nat.min_le_right _ _) (by decide))

/-- The status record reads back. -/
theorem State.statRecord_reads {s u : State} {n c : Nat} {v : Chan} (h : v.stat ≠ 0) (hf : faultIn v.stat 16 = none)
    (hu : SameBytes (s.statRecord n c v) u) : u.num v.stat 4 = s.cf n c R.DMA.RESIDUE ∧ u.byte (v.stat + 4) = BitVec.ofNat 8 v.ended := by
  have hbyte : ∀ i (hi : i < (s.statBytes n c v).length), u.byte (v.stat + i) = (s.statBytes n c v)[i] := fun i hi => by
    rw [hu, State.statRecord_put h hf, State.byte_put_same _ _ _ _ hi]
  have hresidue : s.cf n c R.DMA.RESIDUE < 2 ^ 32 := getBits_lt _ _ _
  constructor
  · rw [State.num_of_bytes (v := s.cf n c R.DMA.RESIDUE) fun i hi => ?_]
    · exact Nat.mod_eq_of_lt hresidue
    · rw [hbyte i (by rw [State.statBytes_length]; omega), nth, List.getElem?_eq_getElem (by rw [leBytes_length]; exact hi)]
      simp only [State.statBytes, List.append_assoc]
      exact List.getElem_append_left _
  · rw [hbyte 4 (by rw [State.statBytes_length]; decide)]
    rfl

theorem State.endNoted_spec (s : State) (n : Die8) (c : ChanNo) : EndNoted n c s (s.endNoted n c) := by
  have hlast := (ChanOnly.refl n c s).setCf (f := R.DMA.CH_STATUS_LAST) (v := (s.chan n c).ended) (by decide)
  have hlastValue := s.cf_setCf_self n c (f := R.DMA.CH_STATUS_LAST) (s.chan n c).ended (by decide)
  have hkeep : ∀ g, R.DMA.CH_STATUS_LAST.besides g = true → (s.setCf n c R.DMA.CH_STATUS_LAST (s.chan n c).ended).cf n c g = s.cf n c g :=
    fun g hg => State.cf_setCf_besides _ _ _ _ hg
  have hlastChans := s.setCf_chans n c R.DMA.CH_STATUS_LAST (s.chan n c).ended
  unfold State.endNoted
  dsimp only
  generalize s.setCf n c R.DMA.CH_STATUS_LAST (s.chan n c).ended = s1 at *
  obtain ⟨hrecord, hseals⟩ := s1.statRecord_moves n c (s.chan n c)
  have hreads := fun u => State.statRecord_reads (s := s1) (u := u) (n := n) (c := c) (v := s.chan n c)
  generalize s1.statRecord n c (s.chan n c) = s2 at *
  have hdone := (ChanOnly.refl n c s2).setCf (f := R.DMA.DONE_COUNT) (v := up32 (s2.cf n c R.DMA.DONE_COUNT)) (by decide)
  have hdoneValue := s2.cf_setCf_self n c (f := R.DMA.DONE_COUNT) (up32 (s2.cf n c R.DMA.DONE_COUNT)) (by decide)
  have hkeep2 : ∀ g, R.DMA.DONE_COUNT.besides g = true → (s2.setCf n c R.DMA.DONE_COUNT (up32 (s2.cf n c R.DMA.DONE_COUNT))).cf n c g = s2.cf n c g :=
    fun g hg => State.cf_setCf_besides _ _ _ _ hg
  have hdoneChans := s2.setCf_chans n c R.DMA.DONE_COUNT (up32 (s2.cf n c R.DMA.DONE_COUNT))
  generalize s2.setCf n c R.DMA.DONE_COUNT (up32 (s2.cf n c R.DMA.DONE_COUNT)) = s3 at *
  have hnotes := s3.endCauses_notes n c (s.chan n c)
  generalize s3.endCauses n c (s.chan n c) = u at *
  have hmoves : Moves (NoteReg n c) [] s3 u := hnotes.moves []
  have hbytes : SameBytes s2 u := fun a => (hnotes.sameBytes a).trans (hdone.sameBytes a)
  constructor
  · rw [hmoves.chans, hdoneChans, hrecord.chans, hlastChans]
  · rw [hmoves.tasks, hdone.tasks, hrecord.tasks, hlast.tasks]
  · rw [hmoves.dmaQueue, hdone.dmaQueue, hrecord.dmaQueue, hlast.dmaQueue]
  · exact fun a ha => (hbytes a).trans ((hrecord.only.1 a ha).trans (hlast.sameBytes a))
  · exact fun k => (hnotes.sameSeals k).trans ((hdone.sameSeals k).trans ((hseals k).trans (hlast.sameSeals k)))
  · intro o ho
    rw [hnotes.regs o fun h => ho h.ofDies, hdone.regs o fun h => ho (ChanReg.ofDies h), hrecord.regs o fun h => ho h.ofDies,
      hlast.regs o fun h => ho (ChanReg.ofDies h)]
  · rw [hmoves.cf_noted (by decide), hkeep2 _ (by decide), hrecord.cf_noted (by decide), hlastValue]
    rfl
  · rw [hmoves.cf_noted (by decide), hdoneValue, hrecord.cf_noted (by decide), hkeep _ (by decide)]
    exact up32_lt _
  · rw [hmoves.cf_noted (by decide), hkeep2 _ (by decide), hrecord.cf_noted (by decide), hkeep _ (by decide)]
  · intro h hf
    obtain ⟨hres, hend⟩ := hreads u h hf hbytes
    exact ⟨hres.trans (hkeep _ (by decide)), hend⟩

end Sys2Proof.Machine
end

section
namespace Sys2Proof.Machine

open Sys2Proof.Claims

/-! The channel falls idle, and its task ends (R313). -/

/-- The status of a task whose last transfer ended so. -/
def endStatus (st : Nat) : Nat := if st = 1 then stDone else if st = 3 then stSeal else stAborted

theorem State.endDma_frame (s : State) (c : Nat) (v : Chan) : ∃ ts, s.endDma c v = { s with tasks := ts } := by
  unfold State.endDma
  split
  · dsimp only
    split <;> exact ⟨_, rfl⟩
  · exact ⟨s.tasks, rfl⟩

theorem State.endTask_finished {s : State} {n : Nat} {t : Task} (h : s.task? n = some t) (st detail event errDetail : Nat) (post : List Post) :
    Finished (s.endTask t st detail event errDetail post) n st detail := ⟨_, _, _, State.task?_setTask h rfl, rfl⟩

theorem State.endDma_finished {s : State} {c n : Nat} {v : Chan} (hv : v.task = some n) (hn : (s.task? n).isSome = true)
    (hst : v.ended ∈ [1, 2, 3, 4]) : Finished (s.endDma c v) n (endStatus v.ended) 0 := by
  obtain ⟨t, ht⟩ := Option.isSome_iff_exists.mp hn
  unfold State.endDma
  rw [hv, Option.bind_some, ht]
  simp only [List.mem_cons, List.not_mem_nil, or_false] at hst
  rcases hst with h | h | h | h <;> rw [h] <;> exact State.endTask_finished ht _ _ _ _ _

/-- What the end of a last transfer leaves. -/
structure Ceased (n c : Nat) (s u : State) : Prop where
  chan : u.chan n c = (s.chan n c).ceased
  queue : u.dmaQueue = s.dmaQueue
  bytes : SameBytes (s.endNoted n c) u
  seals : SameSeals (s.endNoted n c) u
  regs : u.regs = (s.endNoted n c).regs
  task : ∀ t, (s.chan n c).task = some t → (s.task? t).isSome = true → (s.chan n c).ended ∈ [1, 2, 3, 4] →
    Finished u t (endStatus (s.chan n c).ended) 0

theorem State.ceased_spec (s : State) (n : Die8) (c : ChanNo) : Ceased n c s (s.ceased n c) := by
  obtain ⟨-, htasks, hqueue, -⟩ := s.endNoted_spec n c
  have hfin := fun t => State.endDma_finished (s := (s.endNoted n c).setChan n c (s.chan n c).ceased) (c := c) (n := t) (v := s.chan n c)
  have hchan := (s.endNoted n c).chan_setChan_self n c (s.chan n c).ceased
  obtain ⟨ts, e⟩ := ((s.endNoted n c).setChan n c (s.chan n c).ceased).endDma_frame c (s.chan n c)
  have htask : ∀ t, ((s.endNoted n c).setChan n c (s.chan n c).ceased).task? t = s.task? t := fun t =>
    congrArg (List.find? fun u : Task => u.seq == t) htasks
  unfold State.ceased
  refine ⟨?_, ?_, ?_, ?_, ?_, fun t ht hsome hst => hfin t ht ((htask t).symm ▸ hsome) hst⟩
  all_goals rw [e]
  · exact hchan
  · exact hqueue
  · exact fun _ => rfl
  · exact fun _ => rfl
  · rfl

theorem execDmaTransferEnd_runs {s : State} {n : Die8} {c : ChanNo} (hb : (s.chan n c).busy = true) (he : (s.chan n c).ended ≠ 0)
    (hclk : s.clocked (pllMem n) = true) : exec (.dmaTransferEnd n c) s = .next (s.endXfer n c) := by
  have hgo : ¬(!(s.chan n c).busy || (s.chan n c).ended == 0) = true := by
    rw [hb, beq_eq_false_iff_ne.mpr he]
    decide
  have hex : exec (.dmaTransferEnd n c) s = _ := if_neg hgo
  rw [hex]
  exact if_pos hclk

end Sys2Proof.Machine

namespace Sys2Proof.Claims

open Machine

/-- A task's next segment starts. -/
theorem dmaTransferEnd_next {s : State} {n : Die8} {c : ChanNo} (hb : (s.chan n c).busy = true) (hclk : s.clocked (pllMem n) = true)
    (x : Nat × Nat × Nat) (rest : List (Nat × Nat × Nat)) (he : (s.chan n c).ended = 1) (hsegs : (s.chan n c).segs = x :: rest) :
    Gives (.dmaTransferEnd n c) s fun u =>
      Transfers u n c (x.1 % 2 ^ 64) (x.2.1 % 2 ^ 64) (x.2.2 % 2 ^ 32) (s.chan n c).task ∧ (u.chan n c).segs = rest ∧
      SameOutside s u (statRange (s.chan n c)) ∧ SameSeals s u ∧ SameRegs s u OfDies := by
  have hex := execDmaTransferEnd_runs hb (by rw [he]; decide) hclk
  have hnoted := s.endNoted_spec n c
  have honly := (s.endNoted n c).startXfer_only n c x.1 x.2.1 x.2.2 ((s.chan n c).remaining rest)
  rw [State.endXfer_next he hsegs] at hex
  refine ⟨_, hex, State.startXfer_transfers _ _ _ _ _ _ _, ?_, fun a ha => (honly.sameBytes a).trans (hnoted.outside a ha),
    fun k => (honly.sameSeals k).trans (hnoted.seals k), fun o ho => (honly.regs o fun h => ho (ChanReg.ofDies h)).trans (hnoted.regs o ho)⟩
  rw [State.chan_startXfer]
  rfl

/-- With no segment left the channel is idle and its task has its status. -/
theorem dmaTransferEnd_last {s : State} {n : Die8} {c : ChanNo} (hb : (s.chan n c).busy = true) (hclk : s.clocked (pllMem n) = true)
    (st : Nat) (hst : st ∈ [1, 2, 3, 4]) (he : (s.chan n c).ended = st) (hsegs : st = 1 → (s.chan n c).segs = [])
    (hshadow : (s.chan n c).shadow = none) (harm : s.cf n c R.DMA.CH_CTL_ARM = 0) (hqueue : s.dmaQueue = []) :
    Gives (.dmaTransferEnd n c) s fun u =>
      (u.chan n c).busy = false ∧ u.cf n c R.DMA.CH_STATUS_STATE = 0 ∧ u.cf n c R.DMA.CH_STATUS_LAST = st ∧
      u.cf n c R.DMA.DONE_COUNT = up32 (s.cf n c R.DMA.DONE_COUNT) ∧
      (∀ t, (s.chan n c).task = some t → (s.task? t).isSome = true → Finished u t (endStatus st) 0) ∧
      ((s.chan n c).stat ≠ 0 → faultIn (s.chan n c).stat 16 = none →
        u.num (s.chan n c).stat 4 = s.cf n c R.DMA.RESIDUE ∧ u.byte ((s.chan n c).stat + 4) = BitVec.ofNat 8 st) ∧
      SameOutside s u (statRange (s.chan n c)) ∧ SameSeals s u ∧ SameRegs s u OfDies := by
  subst he
  have hcases : (s.chan n c).ended ≠ 0 ∧ (s.chan n c).ended % 2 ^ 4 = (s.chan n c).ended := by
    simp only [List.mem_cons, List.not_mem_nil, or_false] at hst
    omega
  have hex := execDmaTransferEnd_runs hb hcases.1 hclk
  have hnoted := s.endNoted_spec n c
  obtain ⟨hchan, hqueue', hbytes, hseals, hregs, htask⟩ := s.ceased_spec n c
  rw [State.endXfer_last hsegs] at hex
  generalize s.ceased n c = t at *
  have hcf : ∀ f, t.cf n c f = (s.endNoted n c).cf n c f := fun f => by
    unfold State.cf State.rf State.reg
    rw [hregs]
  have hshow := (ChanOnly.refl n c t).showChan
  have harm' : (t.showChan n c).cf n c R.DMA.CH_CTL_ARM = 0 := by
    rw [State.cf_showChan _ _ _ (by decide), hcf, hnoted.arm, harm]
  have hshadow' : ((t.showChan n c).chan n c).shadow = none := by
    rw [State.chan_showChan, hchan]
    exact hshadow
  rw [State.takeShadow_empty harm' hshadow', State.pumpDma_none (hshow.dmaQueue.trans (hqueue'.trans hqueue))] at hex
  refine ⟨_, hex, ?_, ?_, ?_, ?_, fun k hk hsome => ?_, fun h hf => ?_, fun a ha => ?_, fun k => ?_, fun o ho => ?_⟩
  · rw [State.chan_showChan, hchan]
    rfl
  · rw [State.cf_showChan_state]
    unfold State.chanState
    rw [hchan]
    rfl
  · rw [State.cf_showChan _ _ _ (by decide), hcf, hnoted.last, hcases.2]
  · rw [State.cf_showChan _ _ _ (by decide), hcf, hnoted.done]
  · obtain ⟨k', e, d, hk', hphase⟩ := htask k hk hsome hst
    exact ⟨k', e, d, (congrArg (List.find? fun u : Task => u.seq == k) hshow.tasks).trans hk', hphase⟩
  · have hsame : SameBytes (s.endNoted n c) (t.showChan n c) := fun a => (hshow.sameBytes a).trans (hbytes a)
    obtain ⟨hres, hend⟩ := hnoted.record h hf
    refine ⟨?_, (hsame _).trans hend⟩
    unfold State.num at hres ⊢
    rw [hsame.bytes, hres]
  · exact (hshow.sameBytes a).trans ((hbytes a).trans (hnoted.outside a ha))
  · exact (hshow.sameSeals k).trans ((hseals k).trans (hnoted.seals k))
  · refine (hshow.regs o fun h => ho (ChanReg.ofDies h)).trans (Eq.trans ?_ (hnoted.regs o ho))
    unfold State.reg
    rw [hregs]

theorem dmaTransferEnds : DmaTransferEnds := fun _ _ _ hb hclk => ⟨dmaTransferEnd_next hb hclk, dmaTransferEnd_last hb hclk⟩

end Sys2Proof.Claims

open Sys2Proof Sys2Proof.Machine Sys2Proof.Claims

/-- Settles O34: a burst is a run of pieces, each within one destination block; a transfer's end notes it before what follows. -/
theorem Sys2Proof.Claims.dmaTransfers : Obligations.DmaTransfers := ⟨dmaBurstCopiesBytes, dmaTransferEnds⟩
end

section
/-! PROOFS. Errors that a controller's read of a DRAM line reports (R308). -/

namespace Sys2Proof.Machine

open Sys2Proof.Claims

/-! The page of a line's controller. -/

theorem blockOwner_controller (a : Nat) : (blockOwner a).2 < 8 := by
  unfold blockOwner
  split
  · dsimp only
    omega
  · split
    · dsimp only
      omega
    · exact Nat.succ_pos _

/-- A controller's page is a page of its die. -/
theorem ctlPage_bounds {a : Nat} (h : (inTierA a || inTierB a) = true) : 0x400000 ≤ ctlPage a ∧ ctlPage a + 0x1000 ≤ 0x1400000 := by
  have hdie := blockOwner_lt h
  have hctl := blockOwner_controller a
  unfold ctlPage
  dsimp only
  split
  · unfold pgStack pgMemDie quadBase
    omega
  · unfold pgTierB pgMemDie quadBase
    omega

/-- A register of a page of the dies is none that reports. -/
theorem not_reports_of_dies {o : Nat} (hlo : 0x400000 ≤ o) (hhi : o < 0x1400000) : ¬Reports o := by
  unfold Reports InPage pgRecord pgIntroute
  omega

theorem not_routeReg_of_dies {o : Nat} (hlo : 0x400000 ≤ o) (hhi : o < 0x1400000) : ¬routeReg o := fun h => not_reports_of_dies hlo hhi (.inr h)

/-! Lines marked. -/

theorem State.mem_markLine (s : State) (l : Nat) (bad : Bool) : l ∈ (s.markLine l bad).host.badLines ↔ bad = true := by
  unfold State.markLine
  cases bad <;> simp

theorem Notes.badLines {P : Nat → Prop} {s t : State} (h : Notes P s t) : t.host.badLines = s.host.badLines := by
  obtain ⟨r, m, i, w, e, tr, ps, rfl⟩ := h.frame
  rfl

/-- The read counted at its controller, the line marked or no longer. -/
def State.lineRead (s : State) (a : Nat) (bad : Bool) : State :=
  ({ s with traffic := tally s.traffic (a / 4096) 64 0 } : State).markLine (a / 64) bad

theorem State.lineRead_same (s : State) (a : Nat) (bad : Bool) : (s.lineRead a bad).regs = s.regs ∧ SameBytes s (s.lineRead a bad) ∧
    SameSeals s (s.lineRead a bad) ∧ (s.lineRead a bad).record = s.record := ⟨rfl, fun _ => rfl, fun _ => rfl, rfl⟩

theorem State.mem_lineRead (s : State) (a : Nat) (bad : Bool) : a / 64 ∈ (s.lineRead a bad).host.badLines ↔ bad = true := State.mem_markLine _ _ _

/-! What the three outcomes leave. -/

/-- The address of an uncorrectable line noted at its controller, and counted. -/
def State.noteLine (s : State) (a : Nat) : State :=
  (((s.lineRead a true).inc (ctlPage a) R.CTL.UE_COUNT).wf (ctlPage a) R.CTL.UE_ADDR_LO (64 * (a / 64))).wf (ctlPage a) R.CTL.UE_ADDR_HI_ADDR
    (64 * (a / 64) / 2 ^ 32)

theorem State.readLine_uncorrectable (s : State) (a : Nat) : s.readLine a .uncorrectable =
    (((s.noteLine a).err (ctlPage a) 0x0701 (64 * (a / 64))).log (ctlPage a) 0x0701 [(blockOwner a).2, 64 * (a / 64)]).cause (ctlPage a) 0 := rfl

theorem State.readLine_corrected (s : State) (a : Nat) :
    s.readLine a .corrected = ((s.lineRead a false).inc (ctlPage a) R.CTL.CE_COUNT).cause (ctlPage a) 1 := rfl

section
variable {s : State} {a : Nat} (h : (inTierA a || inTierB a) = true)
include h

theorem ctlPage_routeReg : ¬routeReg (ctlPage a + oINT_STATUS) := by
  obtain ⟨h1, h2⟩ := ctlPage_bounds h
  unfold oINT_STATUS
  exact not_routeReg_of_dies (by omega) (by omega)

theorem State.readLine_corrected_spec : let u := s.readLine a .corrected
    a / 64 ∉ u.host.badLines ∧ u.rf (ctlPage a) R.CTL.CE_COUNT = up32 (s.rf (ctlPage a) R.CTL.CE_COUNT) ∧ Caused u (ctlPage a) 1 ∧
      SameRegs s u (fun o => o = ctlPage a + R.CTL.CE_COUNT.off ∨ o = ctlPage a + oINT_STATUS ∨ Reports o) ∧ SameBytes s u ∧ SameSeals s u := by
  obtain ⟨h1, h2⟩ := ctlPage_bounds h
  have hcount := State.rf_inc_self (s.lineRead a false) (ctlPage a) R.CTL.CE_COUNT 0 (by decide) (by decide)
  have hinc := (Notes.refl (fun o => o = ctlPage a + R.CTL.CE_COUNT.off ∨ o = ctlPage a + oINT_STATUS ∨ Reports o) (s.lineRead a false)).inc
    (page := ctlPage a) (f := R.CTL.CE_COUNT) (i := 0) (.inl rfl)
  dsimp only
  rw [State.readLine_corrected]
  generalize (s.lineRead a false).inc (ctlPage a) R.CTL.CE_COUNT = t at *
  have hcause := (Notes.refl (fun o => o = ctlPage a + oINT_STATUS ∨ Reports o) t).cause (page := ctlPage a) (b := 1) (.inl rfl) fun _ => .inr
  have hall := hinc.trans (hcause.mono fun _ => .inr)
  refine ⟨?_, ?_, State.cause_set _ _ _ (by decide) (ctlPage_routeReg h), hall.regs, fun x => (hall.sameBytes x).trans ((s.lineRead_same a false).2.1 x),
    fun k => (hall.sameSeals k).trans ((s.lineRead_same a false).2.2.1 k)⟩
  · rw [hall.badLines, State.mem_lineRead]
    decide
  · rw [rf_same hcause.regs ?_, hcount]
    · rfl
    · have hrep := not_reports_of_dies (o := ctlPage a + 0x120) (by omega) (by omega)
      refine not_or.mpr ⟨fun e => ?_, hrep⟩
      have e : ctlPage a + 0x120 = ctlPage a + 0x14 := e
      omega

/-- The error registers and the causes of a page, and what reports them. -/
def ErrCauseReg (page o : Nat) : Prop := ErrReg page o ∨ o = page + oINT_STATUS

/-- The controller's registers that an uncorrectable line leaves. -/
theorem State.noteLine_spec : let u := s.noteLine a
    u.rf (ctlPage a) R.CTL.UE_COUNT = up32 (s.rf (ctlPage a) R.CTL.UE_COUNT) ∧
      u.rf64 (ctlPage a) R.CTL.UE_ADDR_LO R.CTL.UE_ADDR_HI_ADDR = 64 * (a / 64) ∧ Notes (InPage (ctlPage a)) (s.lineRead a true) u := by
  have haddr : 64 * (a / 64) < 2 ^ 52 := by
    unfold inTierA inTierB tierAEnd tierBBase tierBEnd at h
    simp only [Bool.or_eq_true, Bool.and_eq_true, decide_eq_true_eq] at h
    omega
  have hne : ∀ x y : Nat, x ≠ y → ctlPage a + x + 0 * 0 ≠ ctlPage a + y + 0 * 0 := by omega
  dsimp only
  unfold State.noteLine
  refine ⟨?_, ?_, ?_⟩
  · rw [State.rf_wf_other _ _ _ _ _ _ _ _ (hne _ _ (by decide)), State.rf_wf_other _ _ _ _ _ _ _ _ (hne _ _ (by decide)),
      State.rf_inc_self _ _ _ _ (by decide) (by decide)]
    rfl
  · unfold State.rf64
    rw [State.rf_wf_other _ _ _ _ _ _ _ _ (hne _ _ (by decide)), State.rf_wf_self _ _ _ _ _ (by decide) (by decide),
      State.rf_wf_self _ _ _ _ _ (by decide) (by decide)]
    simp only [R.CTL.UE_ADDR_LO, R.CTL.UE_ADDR_HI_ADDR]
    omega
  · have hin : ∀ x, x < 0x1000 → InPage (ctlPage a) (ctlPage a + x) := fun x hx => ⟨Nat.le_add_right _ _, Nat.add_lt_add_left hx _⟩
    exact (((Notes.refl _ _).inc (hin _ (by decide))).wf (hin _ (by decide))).wf (hin _ (by decide))

theorem State.readLine_uncorrectable_spec : let u := s.readLine a .uncorrectable
    a / 64 ∈ u.host.badLines ∧ u.badBlock (a / 4096) = true ∧ u.rf (ctlPage a) R.CTL.UE_COUNT = up32 (s.rf (ctlPage a) R.CTL.UE_COUNT) ∧
      u.rf64 (ctlPage a) R.CTL.UE_ADDR_LO R.CTL.UE_ADDR_HI_ADDR = 64 * (a / 64) ∧ Caused u (ctlPage a) 0 ∧
      Logged s u 0x0701 [(blockOwner a).2, 64 * (a / 64)] ∧ SameRegs s u OfDies ∧ SameBytes s u ∧ SameSeals s u := by
  obtain ⟨h1, h2⟩ := ctlPage_bounds h
  obtain ⟨hcount, haddr, hnote⟩ := State.noteLine_spec (s := s) h
  have hdies : ∀ o, InPage (ctlPage a) o → OfDies o := fun o ho => .inl ⟨by unfold InPage at ho; omega, by unfold InPage at ho; omega⟩
  dsimp only
  rw [State.readLine_uncorrectable]
  generalize s.noteLine a = t at *
  have hlog := t.err_log_logged (ctlPage a) 0x0701 (64 * (a / 64)) [(blockOwner a).2, 64 * (a / 64)]
  have herr := t.err_log_notes (ctlPage a) 0x0701 (64 * (a / 64)) [(blockOwner a).2, 64 * (a / 64)]
  generalize (t.err (ctlPage a) 0x0701 (64 * (a / 64))).log (ctlPage a) 0x0701 [(blockOwner a).2, 64 * (a / 64)] = r at *
  have hlast := (herr.mono (Q := ErrCauseReg (ctlPage a)) fun _ => Or.inl).cause (page := ctlPage a) (b := 0) (.inr rfl) fun _ h => .inl (.inr (.inr h))
  have hquiet : Quiet (ErrCauseReg (ctlPage a)) r (r.cause (ctlPage a) 0) :=
    ((Notes.refl _ r).cause (.inr rfl) fun _ h => .inl (.inr (.inr h))).quiet
  have hfar : ∀ x, 0x100 ≤ x → x < 0x1000 → ¬ErrCauseReg (ctlPage a) (ctlPage a + x) := fun x hlo hhi => by
    have hrep := not_reports_of_dies (o := ctlPage a + x) (by omega) (by omega)
    unfold ErrCauseReg ErrReg oERR_COUNT oERR_LAST oINT_STATUS
    refine not_or.mpr ⟨not_or.mpr ⟨by omega, not_or.mpr ⟨by omega, hrep⟩⟩, by omega⟩
  have hall := (hnote.mono hdies).trans (hlast.mono fun o ho => by
    rcases ho with (rfl | rfl | ho) | rfl
    · exact hdies _ ⟨Nat.le_add_right _ _, Nat.add_lt_add_left (by decide) _⟩
    · exact hdies _ ⟨Nat.le_add_right _ _, Nat.add_lt_add_left (by decide) _⟩
    · exact reports_ofDies ho
    · exact hdies _ ⟨Nat.le_add_right _ _, Nat.add_lt_add_left (by decide) _⟩)
  have hmem : a / 64 ∈ (r.cause (ctlPage a) 0).host.badLines := by
    rw [hall.badLines, State.mem_lineRead]
  refine ⟨hmem, ?_, ?_, ?_, State.cause_set _ _ _ (by decide) (ctlPage_routeReg h), ?_, hall.regs, hall.sameBytes, hall.sameSeals⟩
  · exact List.any_eq_true.mpr ⟨a / 64, hmem, by rw [beq_iff_eq]; omega⟩
  · rw [rf_same hlast.regs (f := R.CTL.UE_COUNT) (i := 0) (hfar 0x124 (by decide) (by decide)), hcount]
  · unfold State.rf64 at haddr ⊢
    rw [rf_same hlast.regs (f := R.CTL.UE_ADDR_LO) (i := 0) (hfar 0x128 (by decide) (by decide)),
      rf_same hlast.regs (f := R.CTL.UE_ADDR_HI_ADDR) (i := 0) (hfar 0x12C (by decide) (by decide)), haddr]
  · exact hnote.quiet.logged_before (hquiet.logged_after hlog)

end

end Sys2Proof.Machine

namespace Sys2Proof.Claims

open Machine

theorem dramReadsReportErrors : DramReadsReportErrors := by
  intro s a h hclk
  have hex : ∀ ecc, exec (.dramReadComplete a ecc) s = .next (s.readLine a ecc) := fun ecc => (if_pos h).trans (if_pos hclk)
  refine ⟨⟨_, hex _, ?_, rfl, fun _ => rfl, fun _ => rfl⟩, ⟨_, hex _, State.readLine_corrected_spec h⟩, ⟨_, hex _, State.readLine_uncorrectable_spec h⟩⟩
  exact fun hmem => Bool.noConfusion ((s.mem_lineRead a false).mp hmem)

end Sys2Proof.Claims
end

section
/-! PROOFS. DMA_COPY at dispatch (R312, R316, R317). -/

namespace Sys2Proof.Machine

open Sys2Proof.Claims

/-! Tasks handed over. -/

/-- `u` is `s` but for tasks, registers of `P`, and what notes write; the channels and what waits for them are as before. -/
structure Hands (P : Nat → Prop) (s u : State) : Prop where
  quiet : Quiet P s u
  chans : u.chans = s.chans
  queue : u.dmaQueue = s.dmaQueue
  ready : u.notReady = s.notReady

section
variable {P Q : Nat → Prop} {s t u : State}

theorem Notes.hands (h : Notes P s t) : Hands P s t := by
  refine ⟨h.quiet, ?_, ?_, ?_⟩ <;> obtain ⟨r, m, i, w, e, tr, ps, rfl⟩ := h.frame <;> rfl

theorem Hands.trans (h : Hands P s t) (g : Hands P t u) : Hands P s u :=
  ⟨h.quiet.trans g.quiet, g.chans.trans h.chans, g.queue.trans h.queue, g.ready.trans h.ready⟩

theorem Hands.mono (h : Hands P s t) (hPQ : ∀ o, P o → Q o) : Hands Q s t := ⟨h.quiet.mono hPQ, h.chans, h.queue, h.ready⟩

theorem Hands.chan (h : Hands P s t) (n c : Nat) : t.chan n c = s.chan n c := by
  unfold State.chan
  rw [h.chans]

end

theorem State.handOver_hands (s : State) (t : Task) (phase : Phase) (unit : Nat) (pages : List Nat) (target : Nat) :
    Hands Dispatched s (s.handOver t phase unit pages target) := by
  obtain ⟨hnotes, -⟩ := s.handOver_spec t phase unit pages target
  have hset : Hands Dispatched s (s.setTask (t.handed s.now phase unit pages target)) := ⟨.of_ledger _ rfl, rfl, rfl, rfl⟩
  exact hset.trans hnotes.hands

theorem State.handOver_task {s : State} {n : Nat} {t t₀ : Task} (h : s.task? n = some t₀) (hseq : t.seq = t₀.seq) (phase : Phase) (unit : Nat)
    (pages : List Nat) (target : Nat) : (s.handOver t phase unit pages target).task? n = some (t.handed s.now phase unit pages target) := by
  obtain ⟨hnotes, -⟩ := s.handOver_spec t phase unit pages target
  rw [hnotes.task?]
  exact State.task?_setTask h hseq

/-- The task of a DMA_COPY with its die. -/
def Task.aimed (t : Task) (d : Nat) : Task := { t with target := d }

/-! A task that ends at dispatch. -/

/-- Two things at once: the task has ended, and nothing else but notes has changed. -/
structure EndsAt (P : Nat → Prop) (s u : State) (n st detail : Nat) : Prop where
  fin : Finished u n st detail
  hands : Hands P s u

/-- What the statements say of a task that ends at dispatch. -/
theorem EndsAt.facts {s u : State} {n st detail : Nat} {P : Nat → Prop} (h : EndsAt P s u n st detail) (hP : ∀ o, P o → OfDies o) :
    Finished u n st detail ∧ u.chans = s.chans ∧ SameBytes s u ∧ SameSeals s u ∧ SameRegs s u OfDies :=
  ⟨h.fin, h.hands.chans, h.hands.quiet.bytes, h.hands.quiet.seals, fun o ho => h.hands.quiet.regs o (mt (hP o) ho)⟩

/-- A task handed over as ended, after notes. -/
theorem Notes.endsAt {P : Nat → Prop} {s v : State} {n : Nat} {t t₀ : Task} (h : Notes P s v) (hP : ∀ o, Dispatched o → P o) (htask : s.task? n = some t₀)
    (hseq : t.seq = t₀.seq) (st detail event e unit : Nat) (pages : List Nat) (target : Nat) :
    EndsAt P s (v.handOver t (.finished st detail event e) unit pages target) n st detail :=
  ⟨⟨_, _, _, State.handOver_task (h.task?.trans htask) hseq _ _ _ _, rfl⟩, h.hands.trans ((v.handOver_hands _ _ _ _ _).mono hP)⟩

/-- A refused task: its event is logged, and it waits for its completion. -/
theorem State.refuseTask_spec {P : Nat → Prop} {s v : State} {n : Nat} {t t₀ : Task} (h : Notes P s v) (hP : ∀ o, Dispatched o → P o)
    (hr : ∀ o, Reports o → P o) (htask : s.task? n = some t₀) (hseq : t.seq = t₀.seq) (unit st detail : Nat) {event : Nat} (he : event ≠ 0)
    (e : Nat) (ev : List Nat) :
    EndsAt P s (v.refuseTask t unit st detail event e ev) n st detail ∧ Logged s (v.refuseTask t unit st detail event e ev) event ev := by
  have hrefuse : v.refuseTask t unit st detail event e ev = (v.log unit event ev).handOver t (.finished st detail event e) unit [] t.target := by
    unfold State.refuseTask
    rw [if_neg (mt beq_iff_eq.mp he)]
  rw [hrefuse]
  exact ⟨(h.log hr).endsAt hP htask hseq _ _ _ _ _ _ _, h.quiet.logged (State.handOver_hands _ _ _ _ _ _).quiet⟩

/-! The dispatcher's registers and those of the channels. -/

theorem not_headRegs {n c o : Nat} (hc : c < 32) (h : InPage (pgDma n c) o) : ¬HeadRegs o := by
  unfold InPage pgDma pgMemDie quadBase at h
  rintro ((⟨j, hj, hseal⟩ | hrep | hrep) | hgo)
  · unfold InPage pgSeal pgMemDie quadBase at hseal
    omega
  · unfold InPage pgRecord at hrep
    omega
  · unfold pgIntroute at hrep
    omega
  · unfold Dispatched pgSched R.GRAPH_SCHED.DISPATCH_LO R.GRAPH_SCHED.DISPATCH_HI at hgo
    dsimp only at hgo
    omega

theorem Fld.inPage_chan {f : Fld} (hf : f.ofChan = true) (n c : Nat) : InPage (pgDma n c) (f.addr (pgDma n c) (c % 8)) := by
  obtain ⟨-, hlo, hhi, -⟩ := Fld.ofChan_iff.mp hf
  rw [Fld.addr_chan hf]
  unfold InPage
  omega

theorem Hands.cf {s u : State} (h : Hands HeadRegs s u) {n c : Nat} (hc : c < 32) {f : Fld} (hf : f.ofChan = true) :
    u.cf n c f = s.cf n c f := congrArg (fun w => getBits w f.hi f.lo) (h.quiet.regs _ (not_headRegs hc (Fld.inPage_chan hf n c)))

/-- Checks and the count of dispatched tasks leave the channel that is free. -/
theorem Hands.freeChan {s u : State} (h : Hands HeadRegs s u) (n : Nat) : u.freeChan n = s.freeChan n := by
  refine List.find?_congr fun c hc => ?_
  have hc := List.mem_range.mp hc
  have hdr : ∀ o, o < 0x1000 → u.reg (pgDma n c + o) = s.reg (pgDma n c + o) := fun o ho =>
    h.quiet.regs _ (not_headRegs hc ⟨Nat.le_add_right _ _, Nat.add_lt_add_left ho _⟩)
  have hready : u.coreReady (pgDma n c) = s.coreReady (pgDma n c) := by
    unfold State.coreReady State.accepts State.retired State.hdr
    rw [hdr _ (by decide), hdr _ (by decide), h.ready]
  rw [State.isDirect_of_cf (h.cf hc (by decide)), h.chan, hready]

theorem State.freeChan_spec {s : State} {n c : Nat} (h : s.freeChan n = some c) : c < 32 ∧ s.isDirect n c = false ∧ (s.chan n c).shadow = none := by
  have hmem := List.mem_range.mp (List.mem_of_find?_eq_some h)
  have hfree := List.find?_some h
  simp only [Bool.and_eq_true, Bool.not_eq_true', Option.isNone_iff_eq_none] at hfree
  exact ⟨hmem, hfree.1.1, hfree.1.2⟩

end Sys2Proof.Machine
end

section
namespace Sys2Proof.Machine

open Sys2Proof.Claims

/-! The segments of a DMA_COPY (R316). -/

theorem leNat_lt_pow {b : List Byte} {n : Nat} (h : b.length ≤ n) : leNat b < 256 ^ n :=
  lt_of_lt_of_le (leNat_lt b) (Nat.pow_le_pow_right (by decide) h)

theorem fieldAt_lt (b : List Byte) (i n : Nat) : fieldAt b i n < 256 ^ n := leNat_lt_pow (List.length_take_le _ _)

/-- A segment's addresses and length are as wide as the channel's registers. -/
def SegFits (x : Nat × Nat × Nat) : Prop := x.1 < 2 ^ 64 ∧ x.2.1 < 2 ^ 64 ∧ x.2.2 < 2 ^ 32

theorem line64_lt {a n : Nat} (h : a < n) : line64 a < n := by
  unfold line64
  omega

theorem segList_fits (b : List Byte) (n : Nat) : ∀ x ∈ segList b n, SegFits x := by
  intro x hx
  obtain ⟨i, -, rfl⟩ := List.mem_map.mp hx
  have h52 : ∀ a : Nat, a % 2 ^ 52 < 2 ^ 64 := fun a => by omega
  exact ⟨line64_lt (h52 _), line64_lt (h52 _), line64_lt (fieldAt_lt _ _ 4)⟩

theorem segsOf_fits (s : State) (t : Task) : ∀ x ∈ segsOf s t, SegFits x := by
  unfold segsOf
  split
  · exact segList_fits _ _
  · split
    · exact nofun
    · intro x hx
      obtain rfl := List.mem_singleton.mp hx
      have haddr : ∀ o, t.addr o < 2 ^ 64 := fun o => lt_of_lt_of_le (Nat.mod_lt _ (Nat.two_pow_pos 52)) (by decide)
      exact ⟨line64_lt (haddr _), line64_lt (haddr _), line64_lt (fieldAt_lt _ _ 4)⟩

/-- A DMA_COPY has no bytes to move. -/
def dmaEmpty (t : Task) : Bool := if dmaList t then t.fld 54 2 == 0 else line64 (t.fld 48 4) == 0

theorem segsOf_eq_nil (s : State) (t : Task) : segsOf s t = [] ↔ dmaEmpty t = true := by
  unfold segsOf dmaEmpty segList
  split
  · simp
  · split <;> simp_all

/-- The segments of a DMA_COPY with something to move, as the dispatcher reads them. -/
theorem segsOf_eq {s : State} {t : Task} (h : dmaEmpty t = false) : segsOf s t =
    if dmaList t then segList (s.bytes (dmaListRange t).1 (dmaListRange t).2) (t.fld 54 2)
    else [(line64 (t.addr 32), line64 (t.addr 40), line64 (t.fld 48 4))] := by
  unfold segsOf dmaEmpty at *
  split
  · rfl
  · rename_i hl
    rw [if_neg hl] at h
    rw [if_neg (beq_eq_false_iff_ne.mp h)]

/-! Where a DMA_COPY goes. -/

/-- The state once the list of segments has been read and checked. -/
def State.listRead (s : State) (t : Task) : State :=
  (s.cacheUse (dmaListRange t).1 (dmaListRange t).2).check (blocksOf (dmaListRange t).1 (dmaListRange t).2) 0x0703

section
variable {s : State} {t : Task} {d : Nat}

theorem State.dispatchDma_empty (h : dmaEmpty t = true) : s.dispatchDma t d = s.handOver (t.aimed d) (.finished stDone 0 0 0) (pgMemDie d) [] d :=
  if_pos h

theorem State.dispatchDma_absent (h : dmaEmpty t = false) (hr : rangeOk (dmaListRange t).1 (dmaListRange t).2 = false) :
    s.dispatchDma t d = s.refuseDma (t.aimed d) d := (if_neg (ne_true_of_eq_false h)).trans (if_pos (congrArg not hr))

theorem State.dispatchDma_list (h : dmaEmpty t = false) (hr : rangeOk (dmaListRange t).1 (dmaListRange t).2 = true) :
    s.dispatchDma t d =
      match (s.listRead t).firstBad (blocksOf (dmaListRange t).1 (dmaListRange t).2) with
      | some k => ((s.listRead t).dmaSealErr d (((s.listRead t).freeChan d).getD 0) k).handOver (t.aimed d) (.finished stSeal 0 0x0703 0) (pgMemDie d) [] d
      | none =>
        if (segsOf (s.listRead t) t).all fun x => rangeOk x.1 x.2.2 && rangeOk x.2.1 x.2.2 then
          (s.listRead t).queueDma (t.aimed d) d (segsOf (s.listRead t) t)
        else (s.listRead t).refuseDma (t.aimed d) d := by
  rw [segsOf_eq h]
  exact (if_neg (ne_true_of_eq_false h)).trans (if_neg (fun e => Bool.noConfusion ((congrArg not hr).symm.trans e)))

theorem State.listRead_notes (hr : rangeOk (dmaListRange t).1 (dmaListRange t).2 = true) : Notes CheckRegs s (s.listRead t) :=
  ((Notes.refl CheckRegs s).cacheUse _ _).check (fun _ hk => sealed_of_rangeOk hr hk) (fun _ => .inl) fun _ => .inr

end

theorem Notes.firstBad {P : Nat → Prop} {s t : State} (h : Notes P s t) (ks : List Nat) : t.firstBad ks = s.firstBad ks :=
  List.find?_congr fun k _ => by rw [h.blockOk]

theorem segsOf_same {s u : State} (h : SameBytes s u) (t : Task) : segsOf u t = segsOf s t := by
  unfold segsOf
  rw [h.bytes]

/-- A channel's page notes a seal failure. -/
theorem State.dmaSealErr_notes (s : State) {n c k : Nat} (hn : n < 8) (hc : c < 32) : Notes OfDies s (s.dmaSealErr n c k) := by
  have hpage : ∀ x, x < 0x1000 → OfDies (pgDma n c + x) := fun x hx => .inl (by
    unfold pgDma pgMemDie quadBase
    omega)
  exact ((Notes.refl OfDies s).err (hpage _ (by decide)) (hpage _ (by decide))).log fun _ => reports_ofDies

/-! A shadow is filled (R312). -/

/-- The registers of a channel's shadow written for a segment. -/
def State.fillShadow (s : State) (t : Task) (n c : Nat) (x : Nat × Nat × Nat) : State :=
  let page := pgDma n c
  let i := c % 8
  let s := ((s.wf64 page R.DMA.SRC_LO_ADDR R.DMA.SRC_HI_ADDR x.1 i).wf64 page R.DMA.DST_LO_ADDR R.DMA.DST_HI_ADDR x.2.1 i).setCf n c
    R.DMA.LEN_BYTES (x.2.2 / 64)
  (((s.setCf n c R.DMA.CFG_REQ_LINE (t.fld 53 1)).setCf n c R.DMA.CFG_PACE (b2n (bit (t.fld 52 1) 4))).setCf n c
    R.DMA.CFG_BURST (t.fld 52 1 / 32 % 4)).setCf n c R.DMA.CH_CTL_ARM 1

/-- The channel with its shadow filled. -/
def Chan.shadowed (v : Chan) (n : Nat) (segs : List (Nat × Nat × Nat)) : Chan := { v with shadow := some n, next := segs }

/-- The configuration of a task's first segment. -/
def Task.dmaSet (t : Task) (n : Nat) (rest : List (Nat × Nat × Nat)) : Chan :=
  { Chan.idle with task := some n, segs := rest, burst := t.fld 52 1 / 32 % 4, pace := bit (t.fld 52 1) 4, line := t.fld 53 1 }

section
variable {s : State} {t : Task} {n c : Nat}

theorem State.fillShadow_only (x : Nat × Nat × Nat) : ChanOnly n c s (s.fillShadow t n c x) :=
  (((((((ChanOnly.refl n c s).wf64 (by decide) (by decide)).wf64 (by decide) (by decide)).setCf (by decide)).setCf (by decide)).setCf
    (by decide)).setCf (by decide)).setCf (by decide)

theorem State.fillShadow_chans (x : Nat × Nat × Nat) : (s.fillShadow t n c x).chans = s.chans := by
  unfold State.fillShadow
  dsimp only
  rw [State.setCf_chans, State.setCf_chans, State.setCf_chans, State.setCf_chans, State.setCf_chans, State.wf64_chans, State.wf64_chans]

theorem State.fillShadow_owner (x : Nat × Nat × Nat) : (s.fillShadow t n c x).isDirect n c = s.isDirect n c := by
  refine State.isDirect_of_cf ?_
  unfold State.fillShadow
  dsimp only
  rw [State.cf_setCf_besides _ _ _ _ (by decide), State.cf_setCf_besides _ _ _ _ (by decide), State.cf_setCf_besides _ _ _ _ (by decide),
    State.cf_setCf_besides _ _ _ _ (by decide), State.cf_setCf_besides _ _ _ _ (by decide), State.cf_wf64_besides _ _ _ _ (by decide) (by decide),
    State.cf_wf64_besides _ _ _ _ (by decide) (by decide)]

theorem State.loadDma_eq (x : Nat × Nat × Nat) (rest : List (Nat × Nat × Nat)) : s.loadDma t n c (x :: rest) =
    ((s.fillShadow t n c x).setChan n c (((s.fillShadow t n c x).chan n c).shadowed t.seq (x :: rest))).takeShadow n c := rfl

theorem State.takeShadow_graph {m : Nat} {k : Task} {x : Nat × Nat × Nat} {rest : List (Nat × Nat × Nat)} (hb : (s.chan n c).busy = false)
    (hd : s.isDirect n c = false) (hs : (s.chan n c).shadow = some m) (hn : (s.chan n c).next = x :: rest) (hk : s.task? m = some k) :
    s.takeShadow n c = (s.setCf n c R.DMA.CH_CTL_ARM 0).startXfer n c x.1 x.2.1 x.2.2 (k.dmaSet m rest) := by
  unfold State.takeShadow
  dsimp only
  rw [if_neg (ne_true_of_eq_false hb), if_neg (ne_true_of_eq_false hd), hs, hn]
  dsimp only
  rw [hk]
  rfl

/-- What a DMA_COPY given to a channel leaves: an idle one runs its first segment, another holds it in its shadow. -/
structure Loaded (s u : State) (n c m : Nat) (x : Nat × Nat × Nat) (rest : List (Nat × Nat × Nat)) : Prop where
  only : ChanOnly n c s u
  idle : (s.chan n c).busy = false → Transfers u n c x.1 x.2.1 x.2.2 (some m) ∧ (u.chan n c).segs = rest
  busy : (s.chan n c).busy = true → (u.chan n c).shadow = some m ∧ (u.chan n c).next = x :: rest ∧ (u.chan n c).segs = (s.chan n c).segs

theorem State.loadDma_spec {m : Nat} {x : Nat × Nat × Nat} {rest : List (Nat × Nat × Nat)} (ht : s.task? m = some t) (hm : t.seq = m)
    (hd : s.isDirect n c = false) (hx : SegFits x) : Loaded s (s.loadDma t n c (x :: rest)) n c m x rest := by
  have hfill := State.fillShadow_only (s := s) (t := t) (n := n) (c := c) x
  have hchan : (s.fillShadow t n c x).chan n c = s.chan n c := by
    unfold State.chan
    rw [State.fillShadow_chans]
  have hdirect := (State.fillShadow_owner (s := s) (t := t) (n := n) (c := c) x).trans hd
  rw [State.loadDma_eq, hchan, hm]
  generalize s.fillShadow t n c x = v at *
  have hset := hfill.setChan ((s.chan n c).shadowed m (x :: rest))
  have hrow := v.chan_setChan_self n c ((s.chan n c).shadowed m (x :: rest))
  have hdirect' : (v.setChan n c ((s.chan n c).shadowed m (x :: rest))).isDirect n c = false := hdirect
  have htask : (v.setChan n c ((s.chan n c).shadowed m (x :: rest))).task? m = some t := (congrArg (List.find? fun u : Task => u.seq == m) hset.tasks).trans ht
  generalize v.setChan n c ((s.chan n c).shadowed m (x :: rest)) = w at *
  cases hb : (s.chan n c).busy with
  | true =>
    rw [State.takeShadow_busy (by rw [hrow]; exact hb)]
    refine ⟨hset, fun h => (nomatch hb.symm.trans h), fun _ => ?_⟩
    rw [hrow]
    exact ⟨rfl, rfl, rfl⟩
  | false =>
    rw [State.takeShadow_graph (by rw [hrow]; exact hb) hdirect' (by rw [hrow]; rfl) (by rw [hrow]; rfl) htask]
    have htransfers := State.startXfer_transfers (w.setCf n c R.DMA.CH_CTL_ARM 0) n c x.1 x.2.1 x.2.2 (t.dmaSet m rest)
    rw [Nat.mod_eq_of_lt hx.1, Nat.mod_eq_of_lt hx.2.1, Nat.mod_eq_of_lt hx.2.2] at htransfers
    refine ⟨(hset.setCf (by decide)).trans (State.startXfer_only _ _ _ _ _ _ _), fun _ => ⟨htransfers, ?_⟩, fun h => (nomatch hb.symm.trans h)⟩
    rw [State.chan_startXfer]
    rfl

end

end Sys2Proof.Machine
end

section
namespace Sys2Proof.Machine

open Sys2Proof.Claims

/-! The dispatcher of a die gives its one waiting DMA_COPY to a free shadow (R312, R317). -/

/-- The state with what waits for a shadow. -/
def State.withQueue (s : State) (q : List (Nat × Nat × List (Nat × Nat × Nat))) : State := { s with dmaQueue := q }

section
variable {s : State} {d m : Nat} {segs : List (Nat × Nat × Nat)}

theorem State.pumpDma_one : (s.withQueue [(d, m, segs)]).pumpDma d = (s.withQueue [(d, m, segs)]).feedDma d := rfl

theorem State.feedDma_none (h : (s.withQueue [(d, m, segs)]).freeChan d = none) : (s.withQueue [(d, m, segs)]).feedDma d = s.withQueue [(d, m, segs)] := by
  unfold State.feedDma
  rw [h]
  split
  · rename_i he
    exact nomatch he
  · rfl

theorem State.feedDma_some {c : Nat} {t : Task} (h : (s.withQueue [(d, m, segs)]).freeChan d = some c) (ht : s.task? m = some t) :
    (s.withQueue [(d, m, segs)]).feedDma d = (s.withQueue []).loadDma t d c segs := by
  have hfind : (s.withQueue [(d, m, segs)]).dmaQueue.find? (fun w => w.1 == d) = some (d, m, segs) := List.find?_cons_of_pos (beq_self_eq_true d)
  have hrest : (s.withQueue [(d, m, segs)]).dmaQueue.filter (fun x => x.2.1 != m) = [] := List.filter_cons_of_neg (by simp)
  unfold State.feedDma
  rw [h, hfind]
  dsimp only
  rw [hrest]
  change (s.withQueue []).whenSome (s.task? m) (fun s t => s.loadDma t d c segs) = _
  rw [ht]
  rfl

theorem State.queueDma_eq {t : Task} (hq : (s.handOver t .running (pgMemDie d) [] d).dmaQueue = []) :
    s.queueDma t d segs = ((s.handOver t .running (pgMemDie d) [] d).withQueue [(d, t.seq, segs)]).feedDma d := by
  unfold State.queueDma
  dsimp only
  rw [hq, List.nil_append]
  exact State.pumpDma_one

end

theorem State.withQueue_freeChan (s : State) (q : List (Nat × Nat × List (Nat × Nat × Nat))) (d : Nat) : (s.withQueue q).freeChan d = s.freeChan d := rfl

end Sys2Proof.Machine

namespace Sys2Proof.Claims

open Machine

section
variable {s : State} {n d : Nat} {t : Task} (htask : s.task? n = some t) (hseq : t.seq = n) (hd : d < 8)

/-- A DMA_COPY that passed its checks runs; where nothing else waits it goes to the die's free shadow, if there is one. -/
structure Queued (s u : State) (n d : Nat) (segs : List (Nat × Nat × Nat)) : Prop where
  runs : Runs u n (pgMemDie d)
  bytes : SameBytes s u
  seals : SameSeals s u
  regs : SameRegs s u OfDies
  waits : s.freeChan d = none → u.dmaQueue = [(d, n, segs)] ∧ u.chans = s.chans
  loads : ∀ c x rest, s.freeChan d = some c → segs = x :: rest →
    ((s.chan d c).busy = false → Transfers u d c x.1 x.2.1 x.2.2 (some n) ∧ (u.chan d c).segs = rest) ∧
    ((s.chan d c).busy = true → (u.chan d c).shadow = some n ∧ (u.chan d c).next = x :: rest ∧ (u.chan d c).segs = (s.chan d c).segs)

include htask hseq hd in
theorem queueDma_queued {v : State} (hnotes : Notes CheckRegs s v) (hq : s.dmaQueue = []) {segs : List (Nat × Nat × Nat)} (hsegs : segs ≠ [])
    (hfits : ∀ x ∈ segs, SegFits x) : Queued s (v.queueDma (t.aimed d) d segs) n d segs := by
  have hhands : Hands HeadRegs s (v.handOver (t.aimed d) .running (pgMemDie d) [] d) :=
    (hnotes.hands.mono fun _ => .inl).trans ((v.handOver_hands _ _ _ _ _).mono fun _ => .inr)
  have hnew := State.handOver_task (t := t.aimed d) (hnotes.task?.trans htask) rfl .running (pgMemDie d) [] d
  rw [State.queueDma_eq (hhands.queue.trans hq)]
  generalize v.handOver (t.aimed d) .running (pgMemDie d) [] d = w at *
  rw [show (t.aimed d).seq = n from hseq]
  have hfree : (w.withQueue [(d, n, segs)]).freeChan d = s.freeChan d := (w.withQueue_freeChan _ d).trans (hhands.freeChan d)
  cases hc : s.freeChan d with
  | none =>
    rw [State.feedDma_none (hfree.trans hc)]
    exact ⟨⟨_, hnew, rfl, rfl⟩, hhands.quiet.bytes, hhands.quiet.seals, fun o ho => hhands.quiet.regs o fun h => ho h.ofDies,
      fun _ => ⟨rfl, hhands.chans⟩, fun _ _ _ h => (nomatch hc.symm.trans h)⟩
  | some c =>
    obtain ⟨hlt, hdirect, -⟩ := State.freeChan_spec hc
    obtain ⟨x, rest, rfl⟩ := List.exists_cons_of_ne_nil hsegs
    have hdirect' : (w.withQueue []).isDirect d c = false := (State.isDirect_of_cf (hhands.cf hlt (by decide))).trans hdirect
    have hrow : (w.withQueue []).chan d c = s.chan d c := hhands.chan d c
    rw [State.feedDma_some (hfree.trans hc) hnew]
    obtain ⟨honly, hidle, hbusy⟩ := State.loadDma_spec (s := w.withQueue []) (t := (t.aimed d).handed v.now .running (pgMemDie d) [] d) (m := n)
      (rest := rest) hnew hseq hdirect' (hfits x List.mem_cons_self)
    rw [hrow] at hidle hbusy
    have hregs : ∀ o, ChanReg d c o → OfDies o := fun o ho => ChanReg.ofDies (n := ⟨d, hd⟩) (c := ⟨c, hlt⟩) ho
    refine ⟨⟨_, (congrArg (List.find? fun u : Task => u.seq == n) honly.tasks).trans hnew, rfl, rfl⟩,
      fun a => (honly.sameBytes a).trans (hhands.quiet.bytes a), fun k => (honly.sameSeals k).trans (hhands.quiet.seals k),
      fun o ho => (honly.regs o fun h => ho (hregs o h)).trans (hhands.quiet.regs o fun h => ho h.ofDies),
      fun h => (nomatch hc.symm.trans h), fun c' x' rest' h hcons => ?_⟩
    obtain rfl := Option.some.inj (hc.symm.trans h)
    obtain ⟨rfl, rfl⟩ := List.cons.inj hcons
    exact ⟨hidle, hbusy⟩

end

theorem refuseDma_spec {s v : State} {n d : Nat} {t : Task} (hnotes : Notes CheckRegs s v) (htask : s.task? n = some t) :
    let u := v.refuseDma (t.aimed d) d
    Finished u n stAborted 1 ∧ u.chans = s.chans ∧ Logged s u 0x0704 [d, 1, t.addr 32 % 2 ^ 32] ∧ SameBytes s u ∧ SameSeals s u ∧ SameRegs s u OfDies := by
  obtain ⟨hends, hlogged⟩ := State.refuseTask_spec (t := t.aimed d) (hnotes.mono fun _ => CheckRegs.ofDies) (fun _ => Dispatched.ofDies) (fun _ => reports_ofDies)
    htask rfl (pgMemDie d) stAborted 1 (event := 0x0704) (by decide) 0 [d, 1, t.addr 32 % 2 ^ 32]
  obtain ⟨hfin, hchans, hbytes, hseals, hregs⟩ := hends.facts fun _ h => h
  exact ⟨hfin, hchans, hlogged, hbytes, hseals, hregs⟩

theorem dmaCopyDispatch : DmaCopyDispatch := by
  intro s n t d hdisp hpick hclk hmark
  obtain ⟨htask, hseq⟩ := dispatchable_task hdisp
  have hd : d < 8 := State.pickUnit_lt hpick
  have hex : exec (.dmaCopy n) s = .next (s.dispatchDma t d) := by
    have hrun : exec (.dmaCopy n) s = execDmaCopy n s := rfl
    rw [hrun]
    unfold execDmaCopy State.onDie
    rw [hdisp]
    dsimp only
    rw [hpick]
    dsimp only
    rw [if_pos hclk, State.whenFree_unmarked _ hmark]
  refine ⟨fun hnil => ?_, fun hsome hr => ⟨fun k hbad => ?_, fun hgood => ⟨fun hall hqueue => ?_, fun hall => ?_⟩⟩, fun hsome hr => ?_⟩
  · rw [State.dispatchDma_empty ((segsOf_eq_nil s t).mp hnil)] at hex
    have hends := (Notes.refl Dispatched s).endsAt (t := t.aimed d) (fun _ h => h) htask rfl stDone 0 0 0 (pgMemDie d) [] d
    exact ⟨_, hex, hends.fin, hends.hands.chans, hends.hands.quiet.bytes, hends.hands.quiet.seals, hends.hands.quiet.regs⟩
  all_goals have hempty : dmaEmpty t = false := Bool.eq_false_iff.mpr (mt (segsOf_eq_nil s t).mpr hsome)
  · have hread := State.listRead_notes (s := s) (t := t) hr
    rw [State.dispatchDma_list hempty hr, hread.firstBad, hbad] at hex
    have hfree : ((s.listRead t).freeChan d).getD 0 < 32 := by
      cases hc : (s.listRead t).freeChan d with
      | none => decide
      | some c => exact (State.freeChan_spec hc).1
    have hends := ((hread.mono fun _ => CheckRegs.ofDies).trans (State.dmaSealErr_notes (k := k) (s.listRead t) hd hfree)).endsAt (t := t.aimed d)
      (fun _ => Dispatched.ofDies) htask rfl stSeal 0 0x0703 0 (pgMemDie d) [] d
    exact ⟨_, hex, hends.facts fun _ h => h⟩
  · have hread := State.listRead_notes (s := s) (t := t) hr
    rw [State.dispatchDma_list hempty hr, hread.firstBad, hgood] at hex
    dsimp only at hex
    rw [segsOf_same hread.sameBytes, if_pos hall] at hex
    obtain ⟨hruns, hbytes, hseals, hregs, hwaits, hloads⟩ := queueDma_queued htask hseq hd hread hqueue hsome (segsOf_fits s t)
    refine ⟨fun c x rest hc hx => ⟨_, hex, ?_⟩, fun hc => ⟨_, hex, ?_⟩⟩
    · obtain ⟨hidle, hbusy⟩ := hloads c x rest hc hx
      exact ⟨hidle, hbusy, hruns, hbytes, hseals, hregs⟩
    · obtain ⟨hq, hchans⟩ := hwaits hc
      exact ⟨hruns, hq, hchans, hbytes, hseals, hregs⟩
  · have hread := State.listRead_notes (s := s) (t := t) hr
    rw [State.dispatchDma_list hempty hr, hread.firstBad, hgood] at hex
    dsimp only at hex
    rw [segsOf_same hread.sameBytes, if_neg (ne_true_of_eq_false hall)] at hex
    exact ⟨_, hex, refuseDma_spec hread htask⟩
  · rw [State.dispatchDma_absent hempty hr] at hex
    exact ⟨_, hex, refuseDma_spec (.refl _ s) htask⟩

end Sys2Proof.Claims

open Sys2Proof Sys2Proof.Machine Sys2Proof.Claims

/-- Settles O35: the free channel is the same before and after the checks, and the one task that waits goes to it. -/
theorem Sys2Proof.Claims.dmaCopyAndDram : Obligations.DmaCopyAndDram := ⟨dmaCopyDispatch, dramReadsReportErrors⟩
end

section
/-! PROOFS. A binary32 encoding has 32 bits (R75, R78). -/

namespace Sys2Proof.Machine

theorem pow2_eq_zpow (e : Int) : pow2 e = (2 : ℚ) ^ e := by
  unfold pow2
  cases e with
  | ofNat n => simp
  | negSucc n => simp [zpow_negSucc]

/-- A positive rational lies below the power above its logarithm. -/
theorem lt_pow2_ilog2 {q : ℚ} (h : 0 < q) : q < (2 : ℚ) ^ (ilog2 q + 1) := by
  have hnum : 0 < q.num := Rat.num_pos.mpr h
  have hden : (2 : ℚ) ^ (Nat.log2 q.den : Int) ≤ q.den := by
    have hle := Nat.log2_self_le q.den_nz
    exact_mod_cast hle
  have habs : (q.num.natAbs : ℚ) < (2 : ℚ) ^ ((Nat.log2 q.num.natAbs : Int) + 1) := by
    have hlt := Nat.lt_log2_self (n := q.num.natAbs)
    exact_mod_cast hlt
  have hq : q = (q.num.natAbs : ℚ) / q.den := by
    conv_lhs => rw [← Rat.num_div_den q]
    rw [Nat.cast_natAbs, abs_of_pos hnum]
  have hbound : q < (2 : ℚ) ^ ((Nat.log2 q.num.natAbs : Int) - Nat.log2 q.den + 1) := by
    have hdenpos : (0 : ℚ) < q.den := by exact_mod_cast q.den_pos
    calc q = (q.num.natAbs : ℚ) / q.den := hq
      _ < (2 : ℚ) ^ ((Nat.log2 q.num.natAbs : Int) + 1) / q.den := by gcongr
      _ ≤ (2 : ℚ) ^ ((Nat.log2 q.num.natAbs : Int) + 1) / (2 : ℚ) ^ (Nat.log2 q.den : Int) := by gcongr
      _ = (2 : ℚ) ^ ((Nat.log2 q.num.natAbs : Int) - Nat.log2 q.den + 1) := by
        rw [← zpow_sub₀ (by norm_num)]
        congr 1
        ring
  unfold ilog2
  rw [if_neg (not_le.mpr h)]
  dsimp only
  split
  · rename_i hlt
    rw [pow2_eq_zpow] at hlt
    rwa [sub_add_cancel]
  · exact hbound

theorem floorNat_lt {q : ℚ} {n : Nat} (h0 : 0 ≤ q) (h : q < n) : floorNat q < n := by
  have hnum : 0 ≤ q.num := Rat.num_nonneg.mpr h0
  have hdenpos : (0 : ℚ) < q.den := by exact_mod_cast q.den_pos
  have hq : (q.num.natAbs : ℚ) / q.den < n := by
    rw [Nat.cast_natAbs, abs_of_nonneg hnum, Rat.num_div_den]
    exact h
  rw [div_lt_iff₀ hdenpos] at hq
  unfold floorNat
  exact (Nat.div_lt_iff_lt_mul q.den_pos).mpr (by exact_mod_cast hq)

theorem roundUnits_le {q : ℚ} {n : Nat} (h0 : 0 ≤ q) (h : q < n) : roundUnits .rne q ≤ n := by
  have hfloor := floorNat_lt h0 h
  unfold roundUnits
  dsimp only
  split
  · exact hfloor
  · split
    · exact Nat.le_of_lt hfloor
    · split
      · exact hfloor
      · exact Nat.le_of_lt hfloor

/-- The largest finite binary32 value. -/
theorem maxFin_b32_lt : mB32.maxFin < (2 : ℚ) ^ (128 : Int) := by
  unfold Mini.maxFin
  rw [pow2_eq_zpow]
  norm_num [mB32, Mini.topField]

/-- What fits the largest value has an exponent that fits its field. -/
theorem exponent_le {e j : Int} {k : Nat} {x : ℚ} (hk : (2 : ℚ) ^ j ≤ (k : ℚ)) (hx : (k : ℚ) * (2 : ℚ) ^ e ≤ x) (hx128 : x < (2 : ℚ) ^ (128 : Int)) :
    j + e < 128 := by
  have hpow : (2 : ℚ) ^ (j + e) < (2 : ℚ) ^ (128 : Int) := calc
    (2 : ℚ) ^ (j + e) = (2 : ℚ) ^ j * (2 : ℚ) ^ e := zpow_add₀ (by norm_num) _ _
    _ ≤ k * (2 : ℚ) ^ e := by gcongr
    _ ≤ x := hx
    _ < _ := hx128
  exact (zpow_lt_zpow_iff_right₀ (by norm_num)).mp hpow

theorem sign_b32_le (neg : Bool) : (if neg then mB32.signBit else 0) ≤ 2 ^ 31 := by
  cases neg <;> decide

theorem pack_b32_lt {neg : Bool} {k : Nat} {e : Int} (hk : k ≤ 2 ^ 24) (hfit : (k : ℚ) * (2 : ℚ) ^ (e - 23) ≤ mB32.maxFin) : mB32.pack neg k e < 2 ^ 32 := by
  have hs := sign_b32_le neg
  unfold Mini.pack
  dsimp only [mB32] at hs ⊢
  generalize (if neg then Mini.signBit _ else 0) = sgn at *
  simp only [beq_iff_eq, if_true]
  split
  · omega
  · split
    · omega
    · split
      · rename_i hfull
        have hpow : (2 : ℚ) ^ (24 : Int) ≤ (k : ℚ) := by
          rw [hfull]
          norm_num
        have hexp := exponent_le hpow hfit maxFin_b32_lt
        omega
      · have hpow : (2 : ℚ) ^ (23 : Int) ≤ (k : ℚ) := by
          have hle : (2 ^ 23 : Nat) ≤ k := by omega
          exact_mod_cast hle
        have hexp := exponent_le hpow hfit maxFin_b32_lt
        omega

theorem rabs_pos {q : ℚ} (h : q ≠ 0) : 0 < rabs q := by
  unfold rabs
  split
  · linarith
  · exact lt_of_le_of_ne (not_lt.mp ‹_›) h.symm

/-- The units of a magnitude at its own exponent. -/
theorem units_lt {q : ℚ} (h : 0 < q) : q / (2 : ℚ) ^ (max (ilog2 q) (-126) - 23) < ((2 ^ 24 : Nat) : ℚ) := by
  rw [div_lt_iff₀ (by positivity)]
  calc q < (2 : ℚ) ^ (ilog2 q + 1) := lt_pow2_ilog2 h
    _ ≤ (2 : ℚ) ^ (24 + (max (ilog2 q) (-126) - 23)) := zpow_le_zpow_right₀ (by norm_num) (by omega)
    _ = _ := by
      rw [zpow_add₀ (by norm_num)]
      norm_num

theorem e32_lt (v : FVal) : e32 v < 2 ^ 32 := by
  unfold e32 Mini.encode
  cases v with
  | nan => decide
  | inf neg => cases neg <;> decide
  | fin q nz =>
    dsimp only
    split
    · cases nz <;> decide
    · rename_i hq
      have hpos := rabs_pos (mt beq_iff_eq.mpr hq)
      have hexp : (1 - mB32.bias : Int) = -126 := by decide
      rw [pow2_eq_zpow, hexp]
      have hk := roundUnits_le (div_nonneg hpos.le (by positivity)) (units_lt hpos)
      split
      · cases decide (q < 0) <;> decide
      · rename_i hfit
        exact pack_b32_lt hk (not_lt.mp hfit)

theorem add32_lt (a b : Nat) : add32 a b < 2 ^ 32 := e32_lt _

end Sys2Proof.Machine
end

section
/-! PROOFS. The tasks of a gather unit: what each may write, and how it ends (R319 to R325). -/

namespace Sys2Proof.Machine

open Sys2Proof.Claims

/-! Ranges within ranges. -/

/-- A range lies in one of some ranges. -/
def InRange (rs : List (Nat × Nat)) (a len : Nat) : Prop := ∃ r ∈ rs, r.1 ≤ a ∧ a + len ≤ r.1 + r.2

/-- Each block of a range carries no seal, or has it on one of the eight memory-side dies. -/
def SealedIn (a len : Nat) : Prop := ∀ k ∈ blocksOf a len, Sealed k

/-- Each block of a range passes its check. -/
def State.goodIn (s : State) (a len : Nat) : Prop := ∀ k ∈ blocksOf a len, s.blockOk k = true

theorem InRange.sealed {rs : List (Nat × Nat)} {a len : Nat} (h : InRange rs a len) (hrs : ∀ r ∈ rs, rangeOk r.1 r.2 = true) : SealedIn a len := by
  obtain ⟨r, hr, hlo, hhi⟩ := h
  exact fun k hk => sealed_of_rangeOk (hrs r hr) (blocksOf_mono hlo hhi hk)

theorem Moves.inRange {P : Nat → Prop} {rs : List (Nat × Nat)} {a len : Nat} {s t : State} (h : Moves P [(a, len)] s t) (hin : InRange rs a len) :
    Moves P rs s t := by
  obtain ⟨r, hr, hlo, hhi⟩ := hin
  refine h.within fun x hx => ?_
  obtain ⟨q, hq, hx⟩ := hx
  obtain rfl := List.mem_singleton.mp hq
  exact ⟨r, hr, hlo.trans hx.1, lt_of_lt_of_le hx.2 hhi⟩

/-- A row of an array of rows. -/
theorem row_le {i n : Nat} (h : i < n) (w : Nat) : i * w + w ≤ n * w := by
  rw [← Nat.succ_mul]
  exact Nat.mul_le_mul_right w h

theorem row_inRange {rs : List (Nat × Nat)} {b n w i : Nat} (h : (b, n * w) ∈ rs) (hi : i < n) : InRange rs (b + i * w) w := by
  have hle := row_le hi w
  exact ⟨_, h, Nat.le_add_right _ _, by dsimp only; omega⟩

theorem State.goodIn_mono {s : State} {a len b n : Nat} (h : s.goodIn b n) (hlo : b ≤ a) (hhi : a + len ≤ b + n) : s.goodIn a len :=
  fun _ hk => h _ (blocksOf_mono hlo hhi hk)

/-- Where a write leaves its own blocks good, good blocks stay good. -/
theorem Moves.goodIn {P : Nat → Prop} {a len b n : Nat} {s t : State} (h : Moves P [(a, len)] s t) (hself : t.goodIn a len) (hs : s.goodIn b n) :
    t.goodIn b n := by
  intro k hk
  by_cases hin : k ∈ blocksOf a len
  · exact hself k hin
  · exact h.blockOk (fun r hr => List.mem_singleton.mp hr ▸ hin) (hs k hk)

/-! The checks of Table 12-11. -/

/-- What a gather task that passes its checks may rely on. -/
structure GatherFits (g : GatherOp) : Prop where
  rowB : g.rowB % 64 = 0
  ranges : ∀ r ∈ g.ranges, rangeOk r.1 r.2 = true
  spill : g.experts = true → g.drop = false → g.cap < g.n → g.n - g.cap ≤ g.sCap

theorem gatherFits_of_check {g : GatherOp} (h : gatherCheck g = 0) : GatherFits g := by
  unfold gatherCheck at h
  split at h
  · exact nomatch h
  rename_i h1
  split at h
  · exact nomatch h
  rename_i h2
  simp only [Bool.or_eq_true, bne_iff_ne, not_or, not_not] at h1
  simp only [Bool.not_eq_true', Bool.not_eq_false, List.all_eq_true] at h2
  refine ⟨h1.1.1.1, h2, fun hx hd hc => ?_⟩
  rw [hx, hd] at h
  simp only [Bool.not_true, Bool.false_eq_true, if_false] at h
  split at h
  · exact nomatch h
  split at h
  · exact nomatch h
  split at h
  · exact nomatch h
  rename_i h5
  simp only [Bool.not_false, Bool.true_and, Bool.and_eq_true, decide_eq_true_eq, not_and, not_lt] at h5
  exact h5 hc

/-! How a task ends (R324, R329). -/

/-- The registers of a gather unit's page, and what reports it. -/
def GatherReg (d o : Nat) : Prop := InPage (pgGather d) o ∨ Reports o

theorem gatherReg_page {d x : Nat} (hx : x < 0x1000) : GatherReg d (pgGather d + x) := .inl ⟨Nat.le_add_right _ _, Nat.add_lt_add_left hx _⟩

theorem GatherReg.ofDies {d o : Nat} (hd : d < 8) (h : GatherReg d o) : OfDies o := by
  rcases h with h | h
  · unfold InPage pgGather pgMemDie quadBase at h
    exact .inl (by omega)
  · exact reports_ofDies h

theorem State.gatherSealErr_notes (s : State) (d k pos : Nat) : Notes (GatherReg d) s (s.gatherSealErr d k pos) :=
  ((((Notes.refl _ s).inc (gatherReg_page (by decide))).err (gatherReg_page (by decide)) (gatherReg_page (by decide))).log fun _ => .inr).cause
    (gatherReg_page (by decide)) fun _ => .inr

/-- The counts of a task that has run to its end. -/
def State.countGather (s : State) (d : Nat) (c : GatherCounts) : State :=
  let page := pgGather d
  let s := ((s.inc64 page R.GATHER.ROWS_LO R.GATHER.ROWS_HI c.rows).incBy page R.GATHER.OUT_OF_RANGE c.range).incBy page
    R.GATHER.ROUTE_IGNORED c.ignored
  if c.range == 0 then s else s.cause page 2

theorem State.countGather_notes (s : State) (d : Nat) (c : GatherCounts) : Notes (GatherReg d) s (s.countGather d c) := by
  have hcount : Notes (GatherReg d) s (((s.inc64 (pgGather d) R.GATHER.ROWS_LO R.GATHER.ROWS_HI c.rows).incBy (pgGather d) R.GATHER.OUT_OF_RANGE
      c.range).incBy (pgGather d) R.GATHER.ROUTE_IGNORED c.ignored) :=
    (((Notes.refl _ s).inc64 (gatherReg_page (by decide)) (gatherReg_page (by decide))).wf (gatherReg_page (by decide))).wf
      (gatherReg_page (by decide))
  exact .ite (fun _ => hcount) fun _ => hcount.cause (gatherReg_page (by decide)) fun _ => .inr

/-- The status of a gather task that has run to its end. -/
def gatherStatus (bad : Bool) (c : GatherCounts) : Nat := if bad then stSeal else if c.nonfin != 0 then stNonfinite else stDone

/-- The end of a gather task: its status, its posts, and only registers of its unit changed. -/
structure GatherEnds (d : Nat) (s u : State) (n st : Nat) (more : List Post) : Prop where
  fin : Finished u n st 0
  quiet : Quiet (GatherReg d) s u
  post : ∃ k, u.task? n = some k ∧ ∀ p ∈ more, p ∈ k.post

theorem State.endTask_gather {d n : Nat} {s v : State} {t : Task} (h : Notes (GatherReg d) s v) (htask : s.task? n = some t) (st event : Nat)
    {more post : List Post} (hpost : ∀ p ∈ more, p ∈ post) : GatherEnds d s (v.endTask t st 0 event 0 post) n st more where
  fin := State.endTask_finished (h.task?.trans htask) _ _ _ _ _
  quiet := h.quiet.aside rfl
  post := ⟨_, State.task?_setTask (h.task?.trans htask) rfl, fun p hp => List.mem_append_right _ (hpost p hp)⟩

theorem State.endGather_spec {s : State} {n : Nat} {t : Task} (htask : s.task? n = some t) (d : Nat) (g : GatherOp) (c : GatherCounts) (bad : Bool)
    (wrote : List Nat) (more : List Post) : GatherEnds d s (s.endGather d t g c bad wrote more) n (gatherStatus bad c) more := by
  have hcount := s.countGather_notes d c
  unfold State.endGather gatherStatus
  dsimp only
  change GatherEnds d s (if bad = true then (s.countGather d c).endTask _ _ _ _ _ _ else
    if (c.nonfin != 0) = true then (s.countGather d c).endTask _ _ _ _ _ _ else (s.countGather d c).endTask _ _ _ _ _ _) _ _ _
  have hmore : ∀ {l l' : List Post}, ∀ p ∈ more, p ∈ l ++ more ++ l' := fun p hp => List.mem_append_left _ (List.mem_append_right _ hp)
  split
  · exact State.endTask_gather hcount htask _ _ hmore
  · split
    · exact State.endTask_gather hcount htask _ _ hmore
    · exact State.endTask_gather hcount htask _ _ hmore

/-- A task whose move has ended: a block that failed is noted first. -/
def Moved.gatherEnd (m : Moved) (d : Nat) (t : Task) (g : GatherOp) (c : GatherCounts) (at_ : Nat) (more : List Post) : State :=
  (m.s.whenSome m.bad fun s k => s.gatherSealErr d k at_).endGather d t g c m.bad.isSome m.wrote more

theorem Moved.gatherEnd_spec {m : Moved} {n : Nat} {t : Task} (htask : m.s.task? n = some t) (d : Nat) (g : GatherOp) (c : GatherCounts) (at_ : Nat)
    (more : List Post) : GatherEnds d m.s (m.gatherEnd d t g c at_ more) n (gatherStatus m.bad.isSome c) more := by
  have hnotes : Notes (GatherReg d) m.s (m.s.whenSome m.bad fun s k => s.gatherSealErr d k at_) := by
    unfold State.whenSome
    split
    · exact State.gatherSealErr_notes _ _ _ _
    · exact .refl _ _
  obtain ⟨hfin, hquiet, hpost⟩ := State.endGather_spec (hnotes.task?.trans htask) d g c m.bad.isSome m.wrote more
  exact ⟨hfin, hnotes.quiet.trans hquiet, hpost⟩

/-! Rows moved (R319, R321). -/

/-- The destination of a row, in both planes. -/
structure RowTo (g : GatherOp) (rs : List (Nat × Nat)) (e x : Nat) : Prop where
  elem : SealedIn e g.rowB ∧ InRange rs e g.rowB
  plane : g.plane2 = true → SealedIn x g.expB ∧ InRange rs x g.expB

/-- The source of a row, in both planes. -/
structure RowFrom (g : GatherOp) (i : Nat) : Prop where
  elem : SealedIn (g.table + i * g.rowB) g.rowB
  plane : g.plane2 = true → SealedIn (g.tExp + i * g.expB) g.expB

section
variable {g : GatherOp} {rs : List (Nat × Nat)}

theorem Rows.copy_moves (r : Rows) {i e x : Nat} (hf : RowFrom g i) (ht : RowTo g rs e x) (p : Nat) :
    Moves CheckRegs rs r.m.s (r.copy g i e x p).m.s := by
  unfold Rows.copy
  split
  · exact .refl _ _ _
  · dsimp only
    have helem := (Moved.copy_moves r.m hf.elem ht.elem.1).inRange ht.elem.2
    split
    · rename_i h
      simp only [Bool.and_eq_true] at h
      obtain ⟨hs, hin⟩ := ht.plane h.1
      exact helem.trans ((Moved.copy_moves _ (hf.plane h.1) hs).inRange hin)
    · exact helem

theorem Moved.fill_inRange (m : Moved) {a len : Nat} {b : List Byte} (hlen : b.length = len) (hs : SealedIn a len) (hin : InRange rs a len) :
    Moves CheckRegs rs m.s (m.fill a b).s := by
  subst hlen
  exact (m.fill_moves hs).inRange hin

theorem Rows.zero_moves (r : Rows) {e x : Nat} (ht : RowTo g rs e x) (p : Nat) : Moves CheckRegs rs r.m.s (r.zero g e x p).m.s := by
  unfold Rows.zero
  split
  · exact .refl _ _ _
  · dsimp only
    have helem := r.m.fill_inRange (b := List.replicate g.rowB 0) List.length_replicate ht.elem.1 ht.elem.2
    split
    · rename_i h
      obtain ⟨hs, hin⟩ := ht.plane h
      exact helem.trans (Moved.fill_inRange _ List.length_replicate hs hin)
    · exact helem

/-- Steps of rows that each move within the ranges. -/
theorem rows_moves {α : Type} {f : Rows → α → Rows} {l : List α} (hf : ∀ r x, x ∈ l → Moves CheckRegs rs r.m.s (f r x).m.s) (r : Rows) :
    Moves CheckRegs rs r.m.s (l.foldl f r).m.s := by
  induction l generalizing r with
  | nil => exact .refl _ _ _
  | cons x l ih => exact (hf r x List.mem_cons_self).trans (ih (fun r y hy => hf r y (List.mem_cons_of_mem _ hy)) _)

end

/-! The ranges of a task. -/

section
variable {g : GatherOp}

theorem mem_ranges_table : (g.table, g.tableRows * g.rowB) ∈ g.ranges := by simp [GatherOp.ranges]

theorem mem_ranges_index : g.indexRange ∈ g.ranges := by simp [GatherOp.ranges]

theorem mem_ranges_out : (g.out, (if g.experts then g.x * g.cap else g.n) * g.rowB) ∈ g.ranges := by simp [GatherOp.ranges]

theorem mem_ranges_planes (h : g.plane2 = true) : (g.tExp, g.tableRows * g.expB) ∈ g.ranges ∧
    (g.oExp, (if g.experts then g.x * g.cap else g.n) * g.expB) ∈ g.ranges := by simp [GatherOp.ranges, h]

/-- A row of the table may be read. -/
theorem GatherFits.rowFrom (h : GatherFits g) {i : Nat} (hi : i < g.tableRows) : RowFrom g i :=
  ⟨(row_inRange mem_ranges_table hi).sealed h.ranges, fun hp => (row_inRange (mem_ranges_planes hp).1 hi).sealed h.ranges⟩

/-- A row of ranges that the task writes may be written. -/
theorem GatherFits.rowTo (h : GatherFits g) {rs : List (Nat × Nat)} {e x n i : Nat} (he : (e, n * g.rowB) ∈ g.ranges ∧ (e, n * g.rowB) ∈ rs)
    (hx : g.plane2 = true → (x, n * g.expB) ∈ g.ranges ∧ (x, n * g.expB) ∈ rs) (hi : i < n) : RowTo g rs (e + i * g.rowB) (x + i * g.expB) :=
  ⟨⟨(row_inRange he.1 hi).sealed h.ranges, row_inRange he.2 hi⟩,
    fun hp => ⟨(row_inRange (hx hp).1 hi).sealed h.ranges, row_inRange (hx hp).2 hi⟩⟩

end

end Sys2Proof.Machine
end

section
/-! PROOFS. GATHER in row mode (R319). -/

namespace Sys2Proof.Machine

open Sys2Proof.Claims

/-- One position of GATHER in row mode. -/
def rowStep (g : GatherOp) (idx : List Int) (r : Rows) (p : Nat) : Rows :=
  match g.inTable (nth idx p 0) with
  | some i => r.copy g i (g.out + p * g.rowB) (g.oExp + p * g.expB) p
  | none => r.zero g (g.out + p * g.rowB) (g.oExp + p * g.expB) p

/-- The rows of the first `k` positions moved. -/
def State.rowsMoved (s : State) (g : GatherOp) (k : Nat) : Rows := (List.range k).foldl (rowStep g (s.indices g)) ⟨⟨s, [], [], none⟩, 0, 0⟩

/-- What GATHER in row mode has counted. -/
def State.rowCounts (s : State) (g : GatherOp) : GatherCounts :=
  let r := s.rowsMoved g g.n
  let idx := s.indices g
  let upto := if r.m.bad.isSome then idx.take (r.at_ + 1) else idx
  ⟨r.rows, (upto.filter fun i => (g.inTable i).isNone).length, 0, 0⟩

theorem State.gatherRows_eq (s : State) (d : Nat) (t : Task) (g : GatherOp) :
    s.gatherRows d t g = (s.rowsMoved g g.n).m.gatherEnd d t g (s.rowCounts g) (s.rowsMoved g g.n).at_ [] := rfl

theorem State.rowsMoved_succ (s : State) (g : GatherOp) (k : Nat) : s.rowsMoved g (k + 1) = rowStep g (s.indices g) (s.rowsMoved g k) k := by
  unfold State.rowsMoved
  rw [List.range_succ, List.foldl_append]
  rfl

theorem inTable_lt {g : GatherOp} {z : Int} {i : Nat} (h : g.inTable z = some i) : i < g.rows := by
  unfold GatherOp.inTable at h
  split at h
  · obtain rfl := Option.some.inj h
    omega
  · exact nomatch h

/-- The output of GATHER in row mode. -/
theorem gatherOuts_rows {g : GatherOp} (hs : g.scatter = false) (hx : g.experts = false) :
    gatherOuts g = [(g.out, g.n * g.rowB)] ++ (if g.plane2 then [(g.oExp, g.n * g.expB)] else []) := by
  unfold gatherOuts
  rw [hs, hx]
  rfl

section
variable {g : GatherOp} (hfit : GatherFits g) (hs : g.scatter = false) (hx : g.experts = false)
include hfit hs hx

/-- A row of the output. -/
theorem GatherFits.outRow {p : Nat} (hp : p < g.n) : RowTo g (gatherOuts g) (g.out + p * g.rowB) (g.oExp + p * g.expB) := by
  refine hfit.rowTo ⟨?_, ?_⟩ (fun h2 => ⟨?_, ?_⟩) hp
  · have hmem := mem_ranges_out (g := g)
    rwa [hx] at hmem
  · rw [gatherOuts_rows hs hx]
    exact List.mem_cons_self
  · have hmem := (mem_ranges_planes h2).2
    rwa [hx] at hmem
  · rw [gatherOuts_rows hs hx, h2]
    exact List.mem_append_right _ List.mem_cons_self

theorem rowStep_moves (idx : List Int) (r : Rows) {p : Nat} (hp : p < g.n) : Moves CheckRegs (gatherOuts g) r.m.s (rowStep g idx r p).m.s := by
  unfold rowStep
  split
  · rename_i i hi
    have htable : g.tableRows = g.rows := by
      unfold GatherOp.tableRows
      rw [hx]
      rfl
    exact r.copy_moves (hfit.rowFrom (htable ▸ inTable_lt hi)) (hfit.outRow hs hx hp) p
  · exact r.zero_moves (hfit.outRow hs hx hp) p

/-- The rows of a GATHER go to its output alone. -/
theorem State.rowsMoved_moves (s : State) : Moves CheckRegs (gatherOuts g) s (s.rowsMoved g g.n).m.s :=
  rows_moves (f := rowStep g (s.indices g)) (fun r _ hp => rowStep_moves hfit hs hx _ r (List.mem_range.mp hp)) ⟨⟨s, [], [], none⟩, 0, 0⟩

end

/-! Of good blocks (R319). -/

section
variable {g : GatherOp} (h2 : g.plane2 = false)
include h2

theorem Rows.copy_single {r : Rows} (hb : r.m.bad = none) (i e x p : Nat) : (r.copy g i e x p).m = r.m.copy (g.table + i * g.rowB) e g.rowB := by
  unfold Rows.copy
  rw [hb, h2, if_neg (by decide)]
  rfl

theorem Rows.zero_single {r : Rows} (hb : r.m.bad = none) (e x p : Nat) : (r.zero g e x p).m = r.m.fill e (List.replicate g.rowB 0) := by
  unfold Rows.zero
  rw [hb, h2, if_neg (by decide)]
  rfl

end

/-- What one output row holds after a GATHER. -/
def rowByte (s : State) (g : GatherOp) (p i : Nat) : Byte :=
  match rowIndex s g p with
  | some r => s.byte (g.table + r * g.rowB + i)
  | none => 0

/-- Good blocks of a GATHER's output and of its table, which share none. -/
structure RowsGood (s : State) (g : GatherOp) : Prop where
  out : s.goodIn g.out (g.n * g.rowB)
  table : s.goodIn g.table (g.rows * g.rowB)
  apart : ∀ k ∈ blocksOf g.out (g.n * g.rowB), k ∉ blocksOf g.table (g.rows * g.rowB)

/-- The first `k` rows are written. -/
structure RowsDone (s : State) (g : GatherOp) (k : Nat) (r : Rows) : Prop where
  ok : r.m.bad = none
  moves : Moves CheckRegs [(g.out, g.n * g.rowB)] s r.m.s
  good : r.m.s.goodIn g.out (g.n * g.rowB)
  bytes : ∀ p i, p < k → i < g.rowB → r.m.s.byte (g.out + p * g.rowB + i) = rowByte s g p i

/-- A row that a position leaves: good blocks, its bytes, and nothing else. -/
structure RowWritten (s t : State) (g : GatherOp) (p : Nat) (b : Nat → Byte) : Prop where
  moves : Moves CheckRegs [(g.out + p * g.rowB, g.rowB)] s t
  good : t.goodIn (g.out + p * g.rowB) g.rowB
  bytes : ∀ i, i < g.rowB → t.byte (g.out + p * g.rowB + i) = b i

theorem RowsDone.step {s : State} {g : GatherOp} {k : Nat} {r r' : Rows} (h : RowsDone s g k r) (hk : k < g.n) (hok : r'.m.bad = none)
    (hw : RowWritten r.m.s r'.m.s g k (rowByte s g k)) : RowsDone s g (k + 1) r' where
  ok := hok
  moves := h.moves.trans (hw.moves.inRange (row_inRange List.mem_cons_self hk))
  good := hw.moves.goodIn hw.good h.good
  bytes p i hp hi := by
    rcases Nat.lt_succ_iff_lt_or_eq.mp hp with hp | rfl
    · refine (hw.moves.byte ?_).trans (h.bytes p i hp hi)
      rintro ⟨q, hq, hlo, -⟩
      obtain rfl := List.mem_singleton.mp hq
      have hle := row_le hp g.rowB
      dsimp only at hlo
      omega
    · exact hw.bytes i hi

section
variable {s : State} {g : GatherOp} (hfit : GatherFits g) (hs : g.scatter = false) (hx : g.experts = false) (h2 : g.plane2 = false)
  (hgood : RowsGood s g)
include hfit hs hx h2 hgood

theorem rowStep_good {k : Nat} (hk : k < g.n) {r : Rows} (h : RowsDone s g k r) : RowsDone s g (k + 1) (rowStep g (s.indices g) r k) := by
  have hle := row_le hk g.rowB
  have hto := (hfit.outRow hs hx hk).elem.1
  have hdst := h.good
  have hdst' : r.m.s.goodIn (g.out + k * g.rowB) g.rowB := State.goodIn_mono hdst (by omega) (by omega)
  unfold rowStep
  cases hi : g.inTable (nth (s.indices g) k 0) with
  | none =>
    dsimp only
    have hm := Rows.zero_single (g := g) h2 h.ok (g.out + k * g.rowB) (g.oExp + k * g.expB) k
    have hlen : (List.replicate g.rowB (0 : Byte)).length = g.rowB := List.length_replicate
    obtain ⟨hnone, hwrote⟩ := Moved.fill_good (dst := g.out + k * g.rowB) (b := List.replicate g.rowB 0) (by rw [hlen]; exact hto) h.ok (by rw [hlen]; exact hdst')
    have hmoves := r.m.fill_inRange (rs := [(g.out + k * g.rowB, g.rowB)]) hlen hto ⟨_, List.mem_cons_self, le_refl _, le_refl _⟩
    rw [← hm] at hnone hwrote hmoves
    refine h.step hk hnone ⟨hmoves, fun j hj => hwrote.good j (by rwa [hlen]), fun i hi' => ?_⟩
    rw [hwrote.bytes i (by rwa [hlen]), List.getElem_replicate]
    unfold rowByte rowIndex
    rw [hi]
  | some j =>
    dsimp only
    have hj := inTable_lt hi
    have hjle := row_le hj g.rowB
    have htable : g.tableRows = g.rows := by
      unfold GatherOp.tableRows
      rw [hx]
      rfl
    have hfrom := (hfit.rowFrom (htable ▸ hj)).elem
    have hm := Rows.copy_single (g := g) h2 h.ok j (g.out + k * g.rowB) (g.oExp + k * g.expB) k
    have hsrc : s.goodIn (g.table + j * g.rowB) g.rowB := State.goodIn_mono hgood.table (by omega) (by omega)
    have hout : ∀ q ∈ blocksOf (g.table + j * g.rowB) g.rowB, q ∉ blocksOf g.out (g.n * g.rowB) := fun q hq hq' =>
      hgood.apart q hq' (blocksOf_mono (by omega) (by omega) hq)
    have hsrc' : r.m.s.goodIn (g.table + j * g.rowB) g.rowB := fun q hq =>
      h.moves.blockOk (fun p hp => List.mem_singleton.mp hp ▸ hout q hq) (hsrc q hq)
    obtain ⟨htook, hblocks⟩ := Moved.copy_good hfrom hto (fun q hq hq' => hout q hq (blocksOf_mono (by omega) (by omega) hq')) h.ok hsrc' hdst'
    have hmoves := r.m.copy_moves hfrom hto
    rw [← hm] at htook hblocks hmoves
    refine h.step hk htook.ok ⟨hmoves, hblocks, fun i hi' => ?_⟩
    rw [htook.bytes i hi', h.moves.byte]
    · unfold rowByte rowIndex
      rw [hi]
    · rintro ⟨p, hp, hlo, hhi⟩
      obtain rfl := List.mem_singleton.mp hp
      exact hout _ (mem_blocksOf.mpr ⟨g.table + j * g.rowB + i, by omega, by omega, rfl⟩) (mem_blocksOf.mpr ⟨_, hlo, hhi, rfl⟩)

/-- GATHER in row mode between good blocks writes each row. -/
theorem State.rowsMoved_good : ∀ k, k ≤ g.n → RowsDone s g k (s.rowsMoved g k)
  | 0, _ => ⟨rfl, .refl _ _ _, hgood.out, nofun⟩
  | k + 1, hk => by
    rw [State.rowsMoved_succ]
    exact rowStep_good hfit hs hx h2 hgood hk (State.rowsMoved_good k (Nat.le_of_succ_le hk))

end

end Sys2Proof.Machine
end

section
/-! PROOFS. GATHER in expert mode (R321). -/

namespace Sys2Proof.Machine

open Sys2Proof.Claims

/-! The lists of the experts. -/

theorem nth_setNth {α : Type} (l : List α) (x y : Nat) (v d : α) : (y = x ∧ nth (setNth l x v) y d = v) ∨ nth (setNth l x v) y d = nth l y d := by
  unfold nth setNth
  by_cases h : y = x
  · subst h
    by_cases hl : y < l.length
    · exact .inl ⟨rfl, by rw [List.getElem?_set_self hl, Option.getD_some]⟩
    · rw [List.set_eq_of_length_le (Nat.not_lt.mp hl)]
      exact .inr rfl
  · exact .inr (by rw [List.getElem?_set_ne (Ne.symm h)])

/-- The lists of an expert after at most `k` tokens: tokens of the task, the first list within its capacity and full before the second begins. -/
structure ExpertFits (g : GatherOp) (k : Nat) (main spill : List Nat) : Prop where
  cap : main.length ≤ g.cap
  total : main.length + spill.length ≤ k
  mainTok : ∀ t ∈ main, t < g.n
  spillTok : ∀ t ∈ spill, t < g.n
  full : spill ≠ [] → main.length = g.cap ∧ g.drop = false

theorem ExpertFits.mono {g : GatherOp} {k k' : Nat} {m s : List Nat} (h : ExpertFits g k m s) (hk : k ≤ k') : ExpertFits g k' m s :=
  ⟨h.cap, h.total.trans hk, h.mainTok, h.spillTok, h.full⟩

theorem ExpertFits.push {g : GatherOp} {k tok : Nat} {m s : List Nat} (h : ExpertFits g k m s) (ht : tok < g.n) (hm : m.length < g.cap) :
    ExpertFits g (k + 1) (m ++ [tok]) s where
  cap := by
    rw [List.length_append, List.length_singleton]
    exact hm
  total := by
    have htotal := h.total
    rw [List.length_append, List.length_singleton]
    omega
  mainTok t hmem := by
    rcases List.mem_append.mp hmem with hmem | hmem
    · exact h.mainTok t hmem
    · rwa [List.mem_singleton.mp hmem]
  spillTok := h.spillTok
  full hne := absurd (h.full hne).1 (Nat.ne_of_lt hm)

theorem ExpertFits.pushSpill {g : GatherOp} {k tok : Nat} {m s : List Nat} (h : ExpertFits g k m s) (ht : tok < g.n) (hm : ¬m.length < g.cap)
    (hd : g.drop = false) : ExpertFits g (k + 1) m (s ++ [tok]) where
  cap := h.cap
  total := by
    have htotal := h.total
    rw [List.length_append, List.length_singleton]
    omega
  mainTok := h.mainTok
  spillTok t hmem := by
    rcases List.mem_append.mp hmem with hmem | hmem
    · exact h.spillTok t hmem
    · rwa [List.mem_singleton.mp hmem]
  full _ := ⟨Nat.le_antisymm h.cap (Nat.not_lt.mp hm), hd⟩

/-- What each expert may have while a token is routed: one more token where this one has been given to it. -/
def RouteFits (g : GatherOp) (tok : Nat) (a : Groups × List Nat) : Prop :=
  ∀ x, ExpertFits g (if x ∈ a.2 then tok + 1 else tok) (nth a.1.main x []) (nth a.1.spill x [])

section
variable {g : GatherOp} {tok : Nat} {a : Groups × List Nat}

theorem RouteFits.taken (h : RouteFits g tok a) (x : Nat) : ∀ y, ExpertFits g (if y ∈ a.2 ++ [x] then tok + 1 else tok) (nth a.1.main y []) (nth a.1.spill y []) :=
  fun y => (h y).mono (by
    by_cases hy : y ∈ a.2
    · rw [if_pos hy, if_pos (List.mem_append_left _ hy)]
    · rw [if_neg hy]
      split <;> omega)

theorem RouteFits.route (h : RouteFits g tok a) (ht : tok < g.n) (x : Nat) : RouteFits g tok (a.1.route g tok x a.2) := by
  unfold Groups.route
  split
  · exact h
  split
  · exact h
  split
  · exact h
  rename_i htaken
  have hx : x ∉ a.2 := fun hmem => htaken (List.contains_iff_mem.mpr hmem)
  have hself := h x
  rw [if_neg hx] at hself
  have hin : ∀ {y}, y = x → (if y ∈ a.2 ++ [x] then tok + 1 else tok) = tok + 1 := fun e => if_pos (List.mem_append_right _ (e ▸ List.mem_cons_self))
  dsimp only
  split
  · rename_i hroom
    intro y
    dsimp only
    rcases nth_setNth a.1.main x y (nth a.1.main x [] ++ [tok]) [] with ⟨e, hnew⟩ | hold
    · rw [hnew, hin e, e]
      exact hself.push ht hroom
    · rw [hold]
      exact h.taken x y
  · rename_i hfull
    split
    · exact h.taken x
    · rename_i hdrop
      intro y
      dsimp only
      rcases nth_setNth a.1.spill x y (nth a.1.spill x [] ++ [tok]) [] with ⟨e, hnew⟩ | hold
      · rw [hnew, hin e, e]
        exact hself.pushSpill ht hfull (Bool.eq_false_iff.mpr hdrop)
      · rw [hold]
        exact h.taken x y

end

/-- One token routed. -/
def State.routeToken (s : State) (g : GatherOp) (u : Groups) (tok : Nat) : Groups :=
  ((List.range g.k).foldl (fun (a : Groups × List Nat) j => a.1.route g tok (s.num (g.index + 2 * (tok * g.k + j)) 2) a.2) (u, [])).1

theorem State.groups_eq (s : State) (g : GatherOp) : s.groups g =
    (List.range g.n).foldl (s.routeToken g) ⟨List.replicate g.x [], List.replicate g.x [], List.replicate g.x 0, 0, 0⟩ := rfl

/-- What each expert may have after `k` tokens. -/
def GroupsFit (g : GatherOp) (k : Nat) (u : Groups) : Prop := ∀ x, ExpertFits g k (nth u.main x []) (nth u.spill x [])

theorem routes_fit {s : State} {g : GatherOp} {tok : Nat} (ht : tok < g.n) (l : List Nat) {a : Groups × List Nat} (h : RouteFits g tok a) :
    RouteFits g tok (l.foldl (fun a j => a.1.route g tok (s.num (g.index + 2 * (tok * g.k + j)) 2) a.2) a) := by
  induction l generalizing a with
  | nil => exact h
  | cons j l ih => exact ih (h.route ht _)

theorem State.routeToken_fit {s : State} {g : GatherOp} {tok : Nat} (ht : tok < g.n) {u : Groups} (h : GroupsFit g tok u) :
    GroupsFit g (tok + 1) (s.routeToken g u tok) := fun x =>
  (routes_fit (s := s) ht (List.range g.k) (a := (u, [])) (fun y => by simpa using h y) x).mono (by split <;> omega)

theorem nth_replicate_nil (n x : Nat) : nth (List.replicate n ([] : List Nat)) x [] = [] := by
  unfold nth
  rw [List.getElem?_replicate]
  split <;> rfl

theorem State.groups_fit (s : State) (g : GatherOp) : GroupsFit g g.n (s.groups g) := by
  have hsteps : ∀ k, k ≤ g.n → GroupsFit g k
      ((List.range k).foldl (s.routeToken g) ⟨List.replicate g.x [], List.replicate g.x [], List.replicate g.x 0, 0, 0⟩) := by
    intro k hk
    induction k with
    | zero =>
      intro x
      rw [List.range_zero, List.foldl_nil, nth_replicate_nil]
      exact ⟨Nat.zero_le _, Nat.le_refl _, nofun, nofun, fun h => absurd rfl h⟩
    | succ k ih =>
      rw [List.range_succ, List.foldl_append, List.foldl_cons, List.foldl_nil]
      exact State.routeToken_fit hk (ih (Nat.le_of_succ_le hk))
  rw [State.groups_eq]
  exact hsteps g.n (Nat.le_refl _)

/-- The second list of an expert fits where the task's checks pass. -/
theorem GatherFits.spill_le {g : GatherOp} (hfit : GatherFits g) (hx : g.experts = true) {m s : List Nat} (h : ExpertFits g g.n m s) (hd : g.drop = false) :
    s.length ≤ g.sCap := by
  by_cases hne : s = []
  · rw [hne]
    exact Nat.zero_le _
  · have hlen : 0 < s.length := List.length_pos_iff.mpr hne
    have hfull := (h.full hne).1
    have htotal := h.total
    have hspill := hfit.spill hx hd (by omega)
    omega

/-! One list written. -/

/-- Where a list of an expert goes: rows, second plane, positions. -/
structure ListTo (g : GatherOp) (rs : List (Nat × Nat)) (elem exp pos rows : Nat) : Prop where
  elem : (elem, rows * g.rowB) ∈ g.ranges ∧ (elem, rows * g.rowB) ∈ rs
  exp : g.plane2 = true → (exp, rows * g.expB) ∈ g.ranges ∧ (exp, rows * g.expB) ∈ rs
  pos : (pos, 4 * rows) ∈ g.ranges ∧ (pos, 4 * rows) ∈ rs

/-- A run of `n` bytes at place `i` of an array of `rows` of them. -/
theorem entry_inRange {rs : List (Nat × Nat)} {b rows n i : Nat} (h : (b, n * rows) ∈ rs) (hi : i < rows) : InRange rs (b + n * i) n := by
  have hle := row_le hi n
  rw [Nat.mul_comm i, Nat.mul_comm rows] at hle
  exact ⟨_, h, Nat.le_add_right _ _, by dsimp only; omega⟩

theorem nth_mem {l : List Nat} {j : Nat} (h : j < l.length) : nth l j 0 ∈ l := by
  unfold nth
  rw [List.getElem?_eq_getElem h]
  exact List.getElem_mem h

theorem Rows.list_moves {g : GatherOp} (hfit : GatherFits g) (hx : g.experts = true) {rs : List (Nat × Nat)} {elem exp pos cap x : Nat} {toks : List Nat}
    (hto : ListTo g rs elem exp pos (g.x * cap)) (hxlt : x < g.x) (hcap : toks.length ≤ cap) (htoks : ∀ t ∈ toks, t < g.n) (r : Rows) :
    Moves CheckRegs rs r.m.s (r.list g elem exp pos cap x toks).m.s := by
  have htable : g.tableRows = g.n := by
    unfold GatherOp.tableRows
    rw [hx]
    rfl
  refine rows_moves (fun u j hj => ?_) r
  have hj := List.mem_range.mp hj
  have hle := row_le hxlt cap
  have hi : x * cap + j < g.x * cap := by omega
  have hfrom := hfit.rowFrom (htable ▸ htoks _ (nth_mem hj))
  have hpos : InRange g.ranges (pos + 4 * (x * cap + j)) 4 := entry_inRange hto.pos.1 hi
  exact (u.copy_moves hfrom (hfit.rowTo hto.elem hto.exp hi) _).trans
    (Moved.fill_inRange _ (leBytes_length _ _) (hpos.sealed hfit.ranges) (entry_inRange hto.pos.2 hi))

/-! The whole task. -/

/-- The lists of one expert written. -/
def State.expertStep (s : State) (g : GatherOp) (r : Rows) (x : Nat) : Rows :=
  (r.list g g.out g.oExp g.pos g.cap x (nth (s.groups g).main x [])).list g g.spill g.sExp g.sPos g.sCap x (nth (s.groups g).spill x [])

/-- The lists of every expert written. -/
def State.expertRows (s : State) (g : GatherOp) : Rows := (List.range g.x).foldl (s.expertStep g) ⟨⟨s, [], [], none⟩, 0, 0⟩

/-- The entry of an expert in the route table. -/
def State.routeEntry (s : State) (g : GatherOp) (x : Nat) : List Byte :=
  leBytes 4 (nth (s.groups g).main x []).length ++ leBytes 4 (nth (s.groups g).spill x []).length ++ leBytes 4 (nth (s.groups g).dropped x 0) ++ leBytes 4 0

/-- The route table written after the lists. -/
def State.expertsMoved (s : State) (g : GatherOp) : Moved :=
  (List.range g.x).foldl (fun (m : Moved) x => m.fill (g.route + 16 * x) (s.routeEntry g x)) (s.expertRows g).m

theorem State.gatherExperts_eq (s : State) (d : Nat) (t : Task) (g : GatherOp) :
    s.gatherExperts d t g = (s.expertsMoved g).gatherEnd d t g ⟨(s.expertRows g).rows, (s.groups g).range, (s.groups g).ignored, 0⟩ (s.expertRows g).at_
      (if (s.expertsMoved g).bad.isSome then [] else (s.groups g).posts g d) := by
  have hmatch : s.gatherExperts d t g = match (s.expertsMoved g).bad with
    | some k => ((s.expertsMoved g).s.gatherSealErr d k (s.expertRows g).at_).endGather d t g
        ⟨(s.expertRows g).rows, (s.groups g).range, (s.groups g).ignored, 0⟩ true (s.expertsMoved g).wrote []
    | none => (s.expertsMoved g).s.endGather d t g ⟨(s.expertRows g).rows, (s.groups g).range, (s.groups g).ignored, 0⟩ false (s.expertsMoved g).wrote
        ((s.groups g).posts g d) := rfl
  rw [hmatch]
  unfold Moved.gatherEnd
  cases (s.expertsMoved g).bad <;> rfl

section
variable {g : GatherOp}

/-- The ranges of the lists and the route table are among those of the task, and among its outputs. -/
theorem experts_main (hs : g.scatter = false) (hx : g.experts = true) : ListTo g (gatherOuts g) g.out g.oExp g.pos (g.x * g.cap) := by
  refine ⟨?_, fun h2 => ?_, ?_⟩
  · simp [GatherOp.ranges, gatherOuts, hs, hx]
  · simp [GatherOp.ranges, gatherOuts, hs, hx, h2]
  · simp [GatherOp.ranges, gatherOuts, hs, hx, Nat.mul_assoc]

theorem experts_spill (hs : g.scatter = false) (hx : g.experts = true) (hd : g.drop = false) :
    ListTo g (gatherOuts g) g.spill g.sExp g.sPos (g.x * g.sCap) := by
  refine ⟨?_, fun h2 => ?_, ?_⟩
  · simp [GatherOp.ranges, gatherOuts, hs, hx, hd]
  · simp [GatherOp.ranges, gatherOuts, hs, hx, hd, h2]
  · simp [GatherOp.ranges, gatherOuts, hs, hx, hd, Nat.mul_assoc]

theorem experts_route (hs : g.scatter = false) (hx : g.experts = true) : (g.route, 16 * g.x) ∈ g.ranges ∧ (g.route, 16 * g.x) ∈ gatherOuts g := by
  simp [GatherOp.ranges, gatherOuts, hs, hx]

variable (hfit : GatherFits g) (hs : g.scatter = false) (hx : g.experts = true)
include hfit hs hx

theorem State.expertStep_moves (s : State) (r : Rows) {x : Nat} (hxlt : x < g.x) : Moves CheckRegs (gatherOuts g) r.m.s (s.expertStep g r x).m.s := by
  have hfits := s.groups_fit g x
  refine (r.list_moves hfit hx (experts_main hs hx) hxlt hfits.cap hfits.mainTok).trans ?_
  cases hd : g.drop with
  | false => exact Rows.list_moves hfit hx (experts_spill hs hx hd) hxlt (hfit.spill_le hx hfits hd) hfits.spillTok _
  | true =>
    have hnil : nth (s.groups g).spill x [] = [] := by
      by_contra hne
      exact Bool.noConfusion (hd.symm.trans (hfits.full hne).2)
    unfold State.expertStep
    rw [hnil]
    exact .refl _ _ _

theorem State.expertsMoved_moves (s : State) : Moves CheckRegs (gatherOuts g) s (s.expertsMoved g).s := by
  have hrows : Moves CheckRegs (gatherOuts g) s (s.expertRows g).m.s :=
    rows_moves (f := s.expertStep g) (fun r _ hm => s.expertStep_moves hfit hs hx r (List.mem_range.mp hm)) ⟨⟨s, [], [], none⟩, 0, 0⟩
  refine hrows.trans ?_
  have hfills : ∀ (l : List Nat) (m : Moved), (∀ x ∈ l, x < g.x) →
      Moves CheckRegs (gatherOuts g) m.s (l.foldl (fun (m : Moved) x => m.fill (g.route + 16 * x) (s.routeEntry g x)) m).s := by
    intro l
    induction l with
    | nil => exact fun m _ => .refl _ _ _
    | cons x l ih =>
      intro m hl
      have hxlt := hl x List.mem_cons_self
      obtain ⟨hin, hout⟩ := experts_route hs hx
      have hentry : InRange g.ranges (g.route + 16 * x) 16 := entry_inRange hin hxlt
      have hlen : (s.routeEntry g x).length = 16 := by
        unfold State.routeEntry
        simp only [List.length_append, leBytes_length]
      exact (m.fill_inRange hlen (hentry.sealed hfit.ranges) (entry_inRange hout hxlt)).trans (ih _ fun y hy => hl y (List.mem_cons_of_mem _ hy))
  exact hfills _ _ fun x => List.mem_range.mp

end

/-- The counts of the experts are among the posts of a grouping. -/
theorem button_mem_posts (u : Groups) (g : GatherOp) (d : Nat) {x : Nat} (hx : x < g.x) : Post.button (g.cnt + x) (nth u.main x []).length ∈ u.posts g d := by
  unfold Groups.posts
  exact List.mem_append_left _ (List.mem_flatMap.mpr ⟨x, List.mem_range.mpr hx, List.mem_cons_self⟩)

end Sys2Proof.Machine
end

section
/-! PROOFS. SCATTER_ADD (R320). -/

namespace Sys2Proof.Machine

open Sys2Proof.Claims

/-! The indices and the rows that they name. -/

theorem State.indices_nth (s : State) (g : GatherOp) {p : Nat} (h : p < g.n) (d d' : Int) : nth (s.indices g) p d = nth (s.indices g) p d' := by
  have hlen : p < (s.indices g).length := by simpa [State.indices, State.nums] using h
  unfold nth
  rw [List.getElem?_eq_getElem hlen]
  rfl

/-- An index names a row. -/
theorem inTable_eq_some {g : GatherOp} {z : Int} {i : Nat} : g.inTable z = some i ↔ z = i ∧ i < g.rows := by
  unfold GatherOp.inTable
  split
  · rw [Option.some.injEq]
    omega
  · constructor
    · exact nofun
    · omega

theorem rowIndex_eq_some {s : State} {g : GatherOp} {p i : Nat} (hp : p < g.n) (hi : i < g.rows) :
    rowIndex s g p = some i ↔ nth (s.indices g) p (-1) = (i : Int) := by
  unfold rowIndex
  rw [inTable_eq_some, s.indices_nth g hp 0 (-1)]
  exact and_iff_left hi

/-- The rows that the indices name, in ascending order. -/
def State.scatterKeys (s : State) (g : GatherOp) : List Nat :=
  (((s.indices g).filterMap g.inTable).foldl (fun (l : List (Nat × Unit)) i => aput l i ()) []).map Prod.fst

theorem mem_keys_aput (l : List (Nat × Unit)) (k i : Nat) : i ∈ (aput l k ()).map Prod.fst ↔ i = k ∨ i ∈ l.map Prod.fst := by
  unfold aput
  simp only [List.map_append, List.map_cons, List.mem_append, List.mem_cons, List.mem_map, List.mem_filter, decide_eq_true_eq]
  constructor
  · rintro (⟨q, ⟨hq, -⟩, rfl⟩ | rfl | ⟨q, ⟨hq, -⟩, rfl⟩)
    · exact .inr ⟨q, hq, rfl⟩
    · exact .inl rfl
    · exact .inr ⟨q, hq, rfl⟩
  · rintro (rfl | ⟨q, hq, rfl⟩)
    · exact .inr (.inl rfl)
    · rcases Nat.lt_trichotomy q.1 k with h | h | h
      · exact .inl ⟨q, ⟨hq, h⟩, rfl⟩
      · exact .inr (.inl h)
      · exact .inr (.inr ⟨q, ⟨hq, h⟩, rfl⟩)

/-- A list of keys collected in a rising list. -/
theorem collect_keys (ks : List Nat) (l : List (Nat × Unit)) (h : Rising l) :
    Rising (ks.foldl (fun l i => aput l i ()) l) ∧
      ∀ i, i ∈ (ks.foldl (fun (l : List (Nat × Unit)) i => aput l i ()) l).map Prod.fst ↔ i ∈ ks ∨ i ∈ l.map Prod.fst := by
  induction ks generalizing l with
  | nil => exact ⟨h, fun i => by simp⟩
  | cons k ks ih =>
    obtain ⟨hrise, hmem⟩ := ih (aput l k ()) (rising_aput h k ())
    refine ⟨hrise, fun i => ?_⟩
    rw [List.foldl_cons, hmem, mem_keys_aput, List.mem_cons]
    tauto

theorem State.scatterKeys_nodup (s : State) (g : GatherOp) : (s.scatterKeys g).Nodup :=
  List.pairwise_map.mpr ((collect_keys _ [] List.Pairwise.nil).1.imp Nat.ne_of_lt)

theorem State.mem_scatterKeys {s : State} {g : GatherOp} {i : Nat} : i ∈ s.scatterKeys g ↔ ∃ p, p < g.n ∧ rowIndex s g p = some i := by
  have hlen : (s.indices g).length = g.n := by simp [State.indices, State.nums]
  unfold State.scatterKeys
  rw [(collect_keys _ [] List.Pairwise.nil).2 i, List.map_nil, List.mem_filterMap]
  simp only [List.not_mem_nil, or_false]
  constructor
  · rintro ⟨z, hz, hi⟩
    obtain ⟨p, hp, rfl⟩ := List.mem_iff_getElem.mp hz
    refine ⟨p, hlen ▸ hp, ?_⟩
    unfold rowIndex nth
    rwa [List.getElem?_eq_getElem hp]
  · rintro ⟨p, hp, hi⟩
    have hp' : p < (s.indices g).length := hlen.symm ▸ hp
    refine ⟨(s.indices g)[p], List.getElem_mem hp', ?_⟩
    unfold rowIndex nth at hi
    rwa [List.getElem?_eq_getElem hp'] at hi

theorem State.scatterKeys_lt {s : State} {g : GatherOp} {i : Nat} (h : i ∈ s.scatterKeys g) : i < g.rows := by
  obtain ⟨p, -, hi⟩ := State.mem_scatterKeys.mp h
  exact inTable_lt hi

/-- The rows that a SCATTER_ADD has reached after some of them. -/
def State.scatterRows (s : State) (g : GatherOp) (l : List Nat) : Scatter :=
  l.foldl (fun r i => r.row g (s.indices g) i) ⟨⟨s, [], [], none⟩, 0, 0, 0⟩

/-- What a SCATTER_ADD has counted. -/
def State.scatterCounts (s : State) (g : GatherOp) : GatherCounts :=
  let r := s.scatterRows g (s.scatterKeys g)
  ⟨r.rows, ((s.indices g).filter fun i => (g.inTable i).isNone).length, 0, r.nonfin⟩

theorem State.scatterAdd_eq (s : State) (d : Nat) (t : Task) (g : GatherOp) : s.scatterAdd d t g =
    (s.scatterRows g (s.scatterKeys g)).m.gatherEnd d t g (s.scatterCounts g) (s.scatterRows g (s.scatterKeys g)).at_ [] := by
  have hfold : s.scatterRows g (s.scatterKeys g) =
      (((s.indices g).filterMap g.inTable).foldl (fun (l : List (Nat × Unit)) i => aput l i ()) []).foldl
        (fun (r : Scatter) i => r.row g (s.indices g) i.1) ⟨⟨s, [], [], none⟩, 0, 0, 0⟩ := List.foldl_map
  unfold State.scatterCounts
  dsimp only
  rw [hfold]
  rfl

/-! One row of the table. -/

/-- The input rows that name a row. -/
def namers (g : GatherOp) (idx : List Int) (i : Nat) : List Nat := (List.range g.n).filter fun p => nth idx p (-1) = (i : Int)

/-- What is read for a row: its input rows, and its old content where that is added to. -/
def rowReads (g : GatherOp) (idx : List Int) (i : Nat) : List (Nat × Nat) :=
  ((namers g idx i).map fun p => (g.out + p * g.rowB, g.rowB)) ++ (if g.accum then [(g.table + i * g.rowB, g.rowB)] else [])

/-- The blocks checked for a row. -/
def Scatter.rowChecks (r : Scatter) (g : GatherOp) (idx : List Int) (i : Nat) : List Nat :=
  (blocksOfAll (rowReads g idx i)).filter fun k => !inHost (4096 * k) && !r.m.checked.contains k

/-- The state once a row's sources are read. -/
def Scatter.rowRead (r : Scatter) (g : GatherOp) (idx : List Int) (i : Nat) : State :=
  (r.m.s.cacheReads (rowReads g idx i) (blocksOfAll (rowReads g idx i))).check (r.rowChecks g idx i) 0x0703

/-- The move with a row's sources read. -/
def Scatter.rowChecked (r : Scatter) (g : GatherOp) (idx : List Int) (i : Nat) : Moved :=
  { r.m with s := r.rowRead g idx i, checked := r.m.checked ++ r.rowChecks g idx i }

/-- The bytes of a row's new content. -/
def State.rowBytes (s : State) (g : GatherOp) (idx : List Int) (i : Nat) : List Byte := (s.scatterRow g idx i).flatMap (leBytes 4)

section
variable {r : Scatter} {g : GatherOp} {idx : List Int} {i : Nat}

theorem Scatter.row_stopped (h : r.m.bad.isSome = true) : r.row g idx i = r := if_pos h

theorem Scatter.row_badSeal {k : Nat} (h : r.m.bad.isSome = false) (hk : r.m.s.firstBad (r.rowChecks g idx i) = some k) :
    (r.row g idx i).m = { r.m with s := r.rowRead g idx i, bad := some k } := by
  unfold Scatter.row
  dsimp only
  rw [if_neg (ne_true_of_eq_false h)]
  unfold Scatter.rowChecks rowReads namers at hk
  rw [hk]
  rfl

theorem Scatter.row_written (h : r.m.bad.isSome = false) (hk : r.m.s.firstBad (r.rowChecks g idx i) = none) :
    (r.row g idx i).m = (r.rowChecked g idx i).fill (g.table + i * g.rowB) (r.m.s.rowBytes g idx i) := by
  unfold Scatter.row
  dsimp only
  rw [if_neg (ne_true_of_eq_false h)]
  unfold Scatter.rowChecks rowReads namers at hk
  rw [hk]
  exact (apply_ite Scatter.m _ _ _).trans (ite_self _)

end

/-! The new content of a row. -/

/-- Rows added to an accumulator, element by element. -/
theorem sumRows (c : Nat → Bool) (f : Nat → Nat → Nat) (w : Nat) (l : List Nat) (acc : List Nat) (hlen : acc.length = w) :
    let u := l.foldl (fun (acc : List Nat) p => if c p = true then (List.range w).map fun e => add32 (nth acc e 0) (f p e) else acc) acc
    u.length = w ∧ ∀ e, e < w → nth u e 0 = (l.filter c).foldl (fun a p => add32 a (f p e)) (nth acc e 0) := by
  induction l generalizing acc with
  | nil => exact ⟨hlen, fun _ _ => rfl⟩
  | cons p l ih =>
    rw [List.foldl_cons]
    by_cases hc : c p = true
    · rw [if_pos hc, List.filter_cons_of_pos hc]
      obtain ⟨hl, he⟩ := ih ((List.range w).map fun e => add32 (nth acc e 0) (f p e)) (by rw [List.length_map, List.length_range])
      refine ⟨hl, fun e hlt => ?_⟩
      rw [he e hlt, List.foldl_cons]
      congr 1
      unfold nth
      rw [List.getElem?_map, List.getElem?_range hlt]
      rfl
    · rw [if_neg hc, List.filter_cons_of_neg hc]
      exact ih acc hlen

/-- The content that a row starts from. -/
def State.rowStart (s : State) (g : GatherOp) (i : Nat) : List Nat :=
  if g.accum then s.nums (g.table + i * g.rowB) (g.rowB / 4) 4 else List.replicate (g.rowB / 4) 0

theorem State.rowStart_length (s : State) (g : GatherOp) (i : Nat) : (s.rowStart g i).length = g.rowB / 4 := by
  unfold State.rowStart State.nums
  split
  · rw [List.length_map, List.length_range]
  · exact List.length_replicate

theorem State.rowStart_nth (s : State) (g : GatherOp) (i : Nat) {e : Nat} (he : e < g.rowB / 4) :
    nth (s.rowStart g i) e 0 = if g.accum then s.num (g.table + i * g.rowB + 4 * e) 4 else 0 := by
  unfold State.rowStart State.nums nth
  split
  · rw [List.getElem?_map, List.getElem?_range he]
    rfl
  · rw [List.getElem?_replicate, if_pos he]
    rfl

theorem State.scatterRow_spec (s : State) (g : GatherOp) (idx : List Int) (i : Nat) :
    (s.scatterRow g idx i).length = g.rowB / 4 ∧ ∀ e, e < g.rowB / 4 → nth (s.scatterRow g idx i) e 0 =
      (namers g idx i).foldl (fun a p => add32 a (s.num (g.out + p * g.rowB + 4 * e) 4))
        (if g.accum then s.num (g.table + i * g.rowB + 4 * e) 4 else 0) := by
  have hsum := sumRows (fun p => decide (nth idx p (-1) = (i : Int))) (fun p e => s.num (g.out + p * g.rowB + 4 * e) 4) (g.rowB / 4) (List.range g.n)
    (s.rowStart g i) (s.rowStart_length g i)
  simp only [decide_eq_true_eq] at hsum
  obtain ⟨hlen, hnth⟩ := hsum
  refine ⟨hlen, fun e he => (hnth e he).trans ?_⟩
  rw [s.rowStart_nth g i he]
  rfl

/-- A sum with at least one term is a binary32 encoding. -/
theorem foldl_add32_lt {l : List Nat} (h : l ≠ []) (f : Nat → Nat) (a : Nat) : l.foldl (fun a p => add32 a (f p)) a < 2 ^ 32 := by
  induction l generalizing a with
  | nil => exact absurd rfl h
  | cons p l ih =>
    rw [List.foldl_cons]
    by_cases hl : l = []
    · rw [hl]
      exact add32_lt _ _
    · exact ih hl _

theorem getElem_flatMap_leBytes (l : List Nat) {e j : Nat} (he : e < l.length) (hj : j < 4) :
    (l.flatMap (leBytes 4))[4 * e + j]? = some (nth (leBytes 4 (nth l e 0)) j 0) := by
  induction l generalizing e with
  | nil => exact absurd he (Nat.not_lt_zero _)
  | cons x l ih =>
    rw [List.flatMap_cons]
    cases e with
    | zero =>
      have hj' : 4 * 0 + j < (leBytes 4 x).length := by rw [leBytes_length]; omega
      rw [List.getElem?_append_left hj', List.getElem?_eq_getElem hj']
      unfold nth
      rw [List.getElem?_cons_zero, Option.getD_some, List.getElem?_eq_getElem (by rw [leBytes_length]; exact hj)]
      simp
    | succ e =>
      rw [List.getElem?_append_right (by rw [leBytes_length]; omega), leBytes_length, show 4 * (e + 1) + j - 4 = 4 * e + j by omega,
        ih (Nat.lt_of_succ_lt_succ he)]
      rfl

/-- Numbers written one after another read back. -/
theorem num_of_wrote {t : State} {a e : Nat} {l : List Nat} (h : Wrote t a (l.flatMap (leBytes 4))) (he : e < l.length) (hlt : nth l e 0 < 2 ^ 32) :
    t.num (a + 4 * e) 4 = nth l e 0 := by
  rw [State.num_of_bytes (v := nth l e 0) fun j hj => ?_]
  · exact Nat.mod_eq_of_lt hlt
  · have hin : 4 * e + j < (l.flatMap (leBytes 4)).length := by
      rw [flatMap_leBytes_length]
      omega
    have hget := getElem_flatMap_leBytes l he hj
    rw [List.getElem?_eq_getElem hin] at hget
    rw [Nat.add_assoc, h.bytes _ hin, Option.some.inj hget]

end Sys2Proof.Machine
end

section
namespace Sys2Proof.Machine

open Sys2Proof.Claims

/-! The rows of a SCATTER_ADD written (R320). -/

theorem mem_blocksOfAll {rs : List (Nat × Nat)} {k : Nat} : k ∈ blocksOfAll rs ↔ ∃ r ∈ rs, k ∈ blocksOf r.1 r.2 := by
  unfold blocksOfAll
  rw [List.mem_eraseDups, List.mem_flatMap]

theorem mem_rowReads {g : GatherOp} {idx : List Int} {i : Nat} {q : Nat × Nat} (h : q ∈ rowReads g idx i) :
    (∃ p, p < g.n ∧ q = (g.out + p * g.rowB, g.rowB)) ∨ q = (g.table + i * g.rowB, g.rowB) := by
  unfold rowReads at h
  rcases List.mem_append.mp h with h | h
  · obtain ⟨p, hp, rfl⟩ := List.mem_map.mp h
    exact .inl ⟨p, List.mem_range.mp (List.mem_filter.mp hp).1, rfl⟩
  · split at h
    · exact .inr (List.mem_singleton.mp h)
    · exact absurd h List.not_mem_nil

theorem State.rowBytes_length {s : State} {g : GatherOp} (h : g.rowB % 64 = 0) (idx : List Int) (i : Nat) : (s.rowBytes g idx i).length = g.rowB := by
  unfold State.rowBytes
  rw [flatMap_leBytes_length, (s.scatterRow_spec g idx i).1]
  omega

section
variable {g : GatherOp} (hfit : GatherFits g) (hx : g.experts = false)
include hx

theorem tableRows_rows : g.tableRows = g.rows := by
  unfold GatherOp.tableRows
  rw [hx]
  rfl

theorem mem_ranges_rows : (g.table, g.rows * g.rowB) ∈ g.ranges ∧ (g.out, g.n * g.rowB) ∈ g.ranges := by
  have htable := mem_ranges_table (g := g)
  have hout := mem_ranges_out (g := g)
  rw [tableRows_rows hx] at htable
  rw [hx] at hout
  exact ⟨htable, hout⟩

include hfit

theorem rowReads_sealed {idx : List Int} {i k : Nat} (hi : i < g.rows) (hk : k ∈ blocksOfAll (rowReads g idx i)) : Sealed k := by
  obtain ⟨htable, hout⟩ := mem_ranges_rows hx
  obtain ⟨q, hq, hk⟩ := mem_blocksOfAll.mp hk
  rcases mem_rowReads hq with ⟨p, hp, rfl⟩ | rfl
  · exact (row_inRange hout hp).sealed hfit.ranges k hk
  · exact (row_inRange htable hi).sealed hfit.ranges k hk

theorem Scatter.rowRead_notes (r : Scatter) (idx : List Int) {i : Nat} (hi : i < g.rows) : Notes CheckRegs r.m.s (r.rowRead g idx i) :=
  ((Notes.refl CheckRegs r.m.s).cacheReads _ _).check (fun _ hk => rowReads_sealed hfit hx hi (List.mem_of_mem_filter hk)) (fun _ => .inl) fun _ => .inr

/-- A named row changes nothing but its bytes in the table. -/
theorem Scatter.row_moves (r : Scatter) (idx : List Int) {i : Nat} (hi : i < g.rows) :
    Moves CheckRegs [(g.table + i * g.rowB, g.rowB)] r.m.s (r.row g idx i).m.s := by
  have hnotes := r.rowRead_notes hfit hx idx hi
  cases hb : r.m.bad.isSome with
  | true =>
    rw [Scatter.row_stopped hb]
    exact .refl _ _ _
  | false =>
    cases hk : r.m.s.firstBad (r.rowChecks g idx i) with
    | some k =>
      rw [Scatter.row_badSeal hb hk]
      exact hnotes.moves _
    | none =>
      rw [Scatter.row_written hb hk]
      have hself : InRange [(g.table + i * g.rowB, g.rowB)] (g.table + i * g.rowB) g.rowB := ⟨_, List.mem_cons_self, le_refl _, le_refl _⟩
      exact (hnotes.moves _).trans ((r.rowChecked g idx i).fill_inRange (State.rowBytes_length hfit.rowB idx i)
        ((row_inRange (mem_ranges_rows hx).1 hi).sealed hfit.ranges) hself)

/-- A table row's range. -/
theorem State.scatterRows_moves (s : State) (l : List Nat) (hl : ∀ i ∈ l, i < g.rows) :
    Moves CheckRegs (l.map fun i => (g.table + i * g.rowB, g.rowB)) s (s.scatterRows g l).m.s := by
  have hsteps : ∀ (l : List Nat) (r : Scatter), (∀ i ∈ l, i < g.rows) → Moves CheckRegs (l.map fun i => (g.table + i * g.rowB, g.rowB)) r.m.s
      (l.foldl (fun r i => r.row g (s.indices g) i) r).m.s := by
    intro l
    induction l with
    | nil => exact fun r _ => .refl _ _ _
    | cons i l ih =>
      intro r hl
      refine ((r.row_moves hfit hx (s.indices g) (hl i List.mem_cons_self)).within fun x hx' => ?_).trans
        ((ih _ fun j hj => hl j (List.mem_cons_of_mem _ hj)).within fun x hx' => ?_)
      · obtain ⟨q, hq, hx'⟩ := hx'
        exact ⟨q, List.mem_singleton.mp hq ▸ List.mem_cons_self, hx'⟩
      · obtain ⟨q, hq, hx'⟩ := hx'
        exact ⟨q, List.mem_cons_of_mem _ hq, hx'⟩
  exact hsteps l ⟨⟨s, [], [], none⟩, 0, 0, 0⟩ hl

end

/-- The rows of the table lie in it. -/
theorem rows_within {g : GatherOp} {l : List Nat} (hl : ∀ i ∈ l, i < g.rows) {x : Nat} (h : InAny (l.map fun i => (g.table + i * g.rowB, g.rowB)) x) :
    g.table ≤ x ∧ x < g.table + g.rows * g.rowB := by
  obtain ⟨q, hq, h1, h2⟩ := h
  obtain ⟨i, hi, rfl⟩ := List.mem_map.mp hq
  have hle := row_le (hl i hi) g.rowB
  dsimp only at h1 h2
  omega

/-- A row that is not among some rows shares no byte with them. -/
theorem not_inAny_rows {g : GatherOp} {l : List Nat} {r j : Nat} (hr : r ∉ l) (hj : j < g.rowB) :
    ¬InAny (l.map fun i => (g.table + i * g.rowB, g.rowB)) (g.table + r * g.rowB + j) := by
  rintro ⟨q, hq, h1, h2⟩
  obtain ⟨i, hi, rfl⟩ := List.mem_map.mp hq
  dsimp only at h1 h2
  rcases Nat.lt_trichotomy i r with h | h | h
  · have hle := row_le h g.rowB
    omega
  · exact hr (h ▸ hi)
  · have hle := row_le h g.rowB
    omega

/-! Of good blocks (R320). -/

/-- The rows of a list are written, from good blocks. -/
structure ScatterDone (s : State) (g : GatherOp) (l : List Nat) (r : Scatter) : Prop where
  ok : r.m.bad = none
  moves : Moves CheckRegs (l.map fun i => (g.table + i * g.rowB, g.rowB)) s r.m.s
  good : r.m.s.goodIn g.table (g.rows * g.rowB)
  sums : ∀ i ∈ l, ∀ e, e < g.rowB / 4 → r.m.s.num (g.table + i * g.rowB + 4 * e) 4 = rowSum s g i e

/-- A number keeps its value with its bytes. -/
theorem num_same {s t : State} {a n : Nat} (h : ∀ j, j < n → t.byte (a + j) = s.byte (a + j)) : t.num a n = s.num a n := by
  unfold State.num
  rw [State.bytes_eq, State.bytes_eq, List.map_congr_left fun j hj => h j (List.mem_range.mp hj)]

theorem foldl_congr_mem {α β : Type} {f f' : β → α → β} {l : List α} (h : ∀ b, ∀ x ∈ l, f b x = f' b x) (b : β) : l.foldl f b = l.foldl f' b :=
  List.foldl_ext _ _ b h

/-- The input rows that name a row. -/
theorem namers_eq (s : State) {g : GatherOp} {i : Nat} (hi : i < g.rows) :
    namers g (s.indices g) i = (List.range g.n).filter fun p => rowIndex s g p == some i :=
  List.filter_congr fun p hp => by
    rw [Bool.eq_iff_iff, decide_eq_true_iff, beq_iff_eq, rowIndex_eq_some (List.mem_range.mp hp) hi]

section
variable {s : State} {g : GatherOp} (hfit : GatherFits g) (hx : g.experts = false) (hgood : RowsGood s g)
include hgood

/-- The bytes of the input rows are as they were. -/
theorem ScatterDone.out_same {l : List Nat} {r : Scatter} (h : ScatterDone s g l r) (hl : ∀ i ∈ l, i < g.rows) {x : Nat} (hlo : g.out ≤ x)
    (hhi : x < g.out + g.n * g.rowB) : r.m.s.byte x = s.byte x := by
  refine h.moves.byte fun hin => ?_
  obtain ⟨h1, h2⟩ := rows_within hl hin
  exact hgood.apart _ (mem_blocksOf.mpr ⟨x, hlo, hhi, rfl⟩) (mem_blocksOf.mpr ⟨x, h1, h2, rfl⟩)

include hfit

/-- The new content of a row that has not been written yet. -/
theorem ScatterDone.row_eq {l : List Nat} {r : Scatter} (h : ScatterDone s g l r) (hl : ∀ i ∈ l, i < g.rows) {i : Nat} (hi : i < g.rows) (hnot : i ∉ l)
    {e : Nat} (he : e < g.rowB / 4) : nth (r.m.s.scatterRow g (s.indices g) i) e 0 = rowSum s g i e := by
  have hrow := hfit.rowB
  rw [(r.m.s.scatterRow_spec g (s.indices g) i).2 e he, namers_eq s hi]
  unfold rowSum
  have hstart : r.m.s.num (g.table + i * g.rowB + 4 * e) 4 = s.num (g.table + i * g.rowB + 4 * e) 4 := num_same fun j hj => by
    rw [Nat.add_assoc]
    exact h.moves.byte (not_inAny_rows hnot (by omega))
  rw [hstart]
  refine foldl_congr_mem (fun a p hp => ?_) _
  have hp := row_le (List.mem_range.mp (List.mem_filter.mp hp).1) g.rowB
  exact congrArg (add32 a) (num_same fun j hj => h.out_same hgood hl (by omega) (by omega))

include hx

theorem ScatterDone.step {l : List Nat} {r : Scatter} (h : ScatterDone s g l r) (hl : ∀ i ∈ l, i < g.rows) {i : Nat} (hi : i < g.rows) (hnot : i ∉ l)
    (hnamed : ∃ p, p < g.n ∧ rowIndex s g p = some i) : ScatterDone s g (l ++ [i]) (r.row g (s.indices g) i) := by
  have hrow := hfit.rowB
  have hle := row_le hi g.rowB
  have hb : r.m.bad.isSome = false := by rw [h.ok]; rfl
  have hdst : r.m.s.goodIn (g.table + i * g.rowB) g.rowB := State.goodIn_mono h.good (by omega) (by omega)
  have hnone : r.m.s.firstBad (r.rowChecks g (s.indices g) i) = none := State.firstBad_good fun k hk => by
    obtain ⟨q, hq, hk⟩ := mem_blocksOfAll.mp (List.mem_of_mem_filter hk)
    rcases mem_rowReads hq with ⟨p, hp, rfl⟩ | rfl
    · have hple := row_le hp g.rowB
      have hkout : k ∈ blocksOf g.out (g.n * g.rowB) := blocksOf_mono (by dsimp only; omega) (by dsimp only; omega) hk
      refine h.moves.blockOk (fun q hq hkq => ?_) (hgood.out k hkout)
      obtain ⟨j, hj, rfl⟩ := List.mem_map.mp hq
      have hjle := row_le (hl j hj) g.rowB
      exact hgood.apart k hkout (blocksOf_mono (by dsimp only; omega) (by dsimp only; omega) hkq)
    · exact hdst k hk
  have hnotes := r.rowRead_notes hfit hx (s.indices g) hi
  have hlen := State.rowBytes_length (s := r.m.s) hfit.rowB (s.indices g) i
  have hsealed : SealedIn (g.table + i * g.rowB) g.rowB := (row_inRange (mem_ranges_rows hx).1 hi).sealed hfit.ranges
  have hmoves := r.row_moves hfit hx (s.indices g) hi
  obtain ⟨hok, hwrote⟩ := Moved.fill_good (m := r.rowChecked g (s.indices g) i) (dst := g.table + i * g.rowB) (b := r.m.s.rowBytes g (s.indices g) i)
    (by rw [hlen]; exact hsealed) h.ok (by rw [hlen]; exact fun k hk => (hnotes.blockOk k).trans (hdst k hk))
  rw [← Scatter.row_written hb hnone] at hok hwrote
  refine ⟨hok, (h.moves.within fun x hx' => ?_).trans (hmoves.within fun x hx' => ?_), hmoves.goodIn (fun k hk => hwrote.good k (by rwa [hlen])) h.good,
    fun j hj e he => ?_⟩
  · obtain ⟨q, hq, hx'⟩ := hx'
    exact ⟨q, by rw [List.map_append]; exact List.mem_append_left _ hq, hx'⟩
  · obtain ⟨q, hq, hx'⟩ := hx'
    exact ⟨q, by rw [List.map_append]; exact List.mem_append_right _ hq, hx'⟩
  · rcases List.mem_append.mp hj with hj | hj
    · rw [← h.sums j hj e he]
      refine num_same fun b hb' => hmoves.byte ?_
      have hji : j ∉ [i] := fun hmem => hnot (List.mem_singleton.mp hmem ▸ hj)
      rw [Nat.add_assoc]
      exact not_inAny_rows (g := g) (l := [i]) hji (by omega)
    · obtain rfl := List.mem_singleton.mp hj
      have heq := h.row_eq hfit hgood hl hi hnot he
      have hlt : rowSum s g j e < 2 ^ 32 := by
        obtain ⟨p, hp, hnp⟩ := hnamed
        have hmem : p ∈ (List.range g.n).filter fun p => rowIndex s g p == some j := List.mem_filter.mpr ⟨List.mem_range.mpr hp, by rw [hnp, beq_self_eq_true]⟩
        exact foldl_add32_lt (List.ne_nil_of_mem hmem) _ _
      rw [num_of_wrote hwrote (by rw [(r.m.s.scatterRow_spec g (s.indices g) j).1]; exact he) (by rw [heq]; exact hlt), heq]

/-- Each named row once: all of them are written. -/
theorem State.scatterRows_good (l : List Nat) (hnodup : l.Nodup) (hl : ∀ i ∈ l, i ∈ s.scatterKeys g) : ScatterDone s g l (s.scatterRows g l) := by
  induction l using List.reverseRecOn with
  | nil => exact ⟨rfl, .refl _ _ _, hgood.table, nofun⟩
  | append_singleton l i ih =>
    obtain ⟨hnodup', -, hdisj⟩ := List.nodup_append.mp hnodup
    have hl' : ∀ j ∈ l, j ∈ s.scatterKeys g := fun j hj => hl j (List.mem_append_left _ hj)
    have hi := hl i (List.mem_append_right _ List.mem_cons_self)
    have hstep := (ih hnodup' hl').step hfit hx hgood (fun j hj => State.scatterKeys_lt (hl' j hj)) (State.scatterKeys_lt hi)
      (fun hmem => hdisj i hmem i List.mem_cons_self rfl) (State.mem_scatterKeys.mp hi)
    unfold State.scatterRows at hstep ⊢
    rwa [List.foldl_append]

end

end Sys2Proof.Machine
end

section
/-! PROOFS. A gather unit takes a task, and how the task ends (R319 to R325). -/

namespace Sys2Proof.Machine

open Sys2Proof.Claims

/-! The task is given to its unit (R286, R325). -/

theorem dispatchable_type {s : State} {n type : Nat} {t : Task} (h : s.dispatchable n [type] = some t) : t.type = type := by
  unfold State.dispatchable at h
  split at h
  · split at h
    · rename_i hc
      obtain rfl := Option.some.inj h
      simp only [Bool.and_eq_true, List.contains_iff_mem, List.mem_singleton] at hc
      exact hc.1
    · exact nomatch h
  · exact nomatch h

section
variable {s : State} {n type d : Nat} {t : Task} {g : GatherOp}

/-- The command and the mode of a task that agree. -/
inductive GatherMode (n : Nat) (g : GatherOp) : Instr → Prop
  | rows (hs : g.scatter = false) (hx : g.experts = false) : GatherMode n g (.gatherRows n)
  | experts (hs : g.scatter = false) (hx : g.experts = true) : GatherMode n g (.gatherExperts n)
  | scatter (hs : g.scatter = true) (hx : g.experts = false) : GatherMode n g (.scatterAdd n)

theorem GatherMode.of_scatter {n : Nat} {g : GatherOp} {c : Instr} (h : GatherMode n g c) (hs : g.scatter = true) :
    c = .scatterAdd n ∧ g.experts = false := by
  cases h with
  | rows hs' | experts hs' => exact nomatch hs.symm.trans hs'
  | scatter _ hx => exact ⟨rfl, hx⟩

theorem GatherMode.of_experts {n : Nat} {g : GatherOp} (h : GatherMode n g (.gatherExperts n)) : g.experts = true := by
  cases h with
  | experts _ hx => exact hx

/-- A task of another type or mode than a command's. -/
def otherForm (type : Nat) (experts : Bool) (t : Task) : Bool := t.type != type || (type == 0x41 && bit (t.fld 48 1) 1 != experts)

theorem State.takeGather_go (h : GatherGo s n type t d g) {experts : Bool} (ho : otherForm type experts t = false) :
    s.takeGather n type experts = .next (s.startGather (t.aimed d) d) := by
  obtain ⟨hdisp, hpick, hclk, htakes, rfl, hmark, -⟩ := h
  unfold State.takeGather State.onDie
  rw [hdisp]
  dsimp only
  unfold otherForm at ho
  rw [if_neg (ne_true_of_eq_false ho), hpick]
  dsimp only
  rw [if_pos hclk]
  unfold State.dispatchGather
  have htakes' : s.gatherTakes d (t.aimed d) = true := htakes
  exact congrArg Host.Outcome.next ((if_pos htakes').trans (State.whenFree_unmarked _ hmark))

/-- The command of a task's type and mode starts it. -/
theorem exec_gather_of_go {c : Instr} (h : GatherGo s n type t d g) (hform : GatherForm c n type g) :
    exec c s = .next (s.startGather (t.aimed d) d) := by
  obtain ⟨hdisp, -, -, -, hg, -⟩ := id h
  have htype := dispatchable_type hdisp
  have hother : ∀ experts, (type = 0x41 → g.experts = experts) → otherForm type experts t = false := fun experts he => by
    unfold otherForm
    rw [htype, bne_self_eq_false, Bool.false_or]
    by_cases h41 : type = 0x41
    · have hx := he h41
      rw [hg] at hx
      unfold gatherOp at hx
      dsimp only at hx
      rw [htype, h41] at hx
      rw [h41, ← hx]
      simp
    · rw [beq_eq_false_iff_ne.mpr h41, Bool.false_and]
  rcases hform with ⟨rfl, rfl, hx⟩ | ⟨rfl, rfl, hx⟩ | ⟨rfl, rfl⟩
  · exact State.takeGather_go h (hother false fun _ => hx)
  · exact State.takeGather_go h (hother true fun _ => hx)
  · exact State.takeGather_go h (hother false nofun)

/-- The mode of a task is its command's. -/
theorem gatherMode_of_go {c : Instr} (h : GatherGo s n type t d g) (hform : GatherForm c n type g) : GatherMode n g c := by
  obtain ⟨hdisp, -, -, -, hg, -⟩ := h
  have htype := dispatchable_type hdisp
  have hscatter : g.scatter = (type == 0x42) := by rw [hg, ← htype]; rfl
  rcases hform with ⟨rfl, rfl, hx⟩ | ⟨rfl, rfl, hx⟩ | ⟨rfl, rfl⟩
  · exact .rows hscatter hx
  · exact .experts hscatter hx
  · refine .scatter hscatter ?_
    rw [hg]
    unfold gatherOp
    dsimp only
    rw [htype]
    rfl

end

/-! The operand record is read (R322, R323). -/

/-- The state once a task's operand record is read and checked. -/
def State.recordRead (s : State) (t : Task) : State := (s.cacheUse (t.addr 32) 128).check (blocksOf (t.addr 32) 128) 0x0703

/-- The state once the unit runs the task. -/
def State.gatherBegun (s : State) (t : Task) (d : Nat) : State :=
  (s.handOver t .running (pgMemDie d) [pgGather d] d).wf (pgGather d) R.GATHER.CUR_TASK t.cmplIndex

/-- The state once the indices are read and checked. -/
def State.indexRead (s : State) (g : GatherOp) : State := (s.cacheUse g.indexRange.1 g.indexRange.2).check (blocksOf g.indexRange.1 g.indexRange.2) 0x0703

/-- The task's work, once its indices are read. -/
def State.gatherWork (s : State) (d : Nat) (t : Task) (g : GatherOp) : State :=
  match s.firstBad (blocksOf g.indexRange.1 g.indexRange.2) with
  | some k => (s.gatherSealErr d k 0).endGather d t g ⟨0, 0, 0, 0⟩ true [] []
  | none => if g.scatter then s.scatterAdd d t g else if g.experts then s.gatherExperts d t g else s.gatherRows d t g

section
variable {s : State} {t : Task} {d : Nat}

theorem State.startGather_eq (hf : faultIn (t.addr 32) 128 = none) : s.startGather t d =
    match (s.recordRead t).firstBad (blocksOf (t.addr 32) 128) with
    | some k => ((s.recordRead t).gatherSealErr d k 0).handOver t (.finished stSeal 0 0x0703 0) (pgMemDie d) [] d
    | none =>
      let g := gatherOp t ((s.recordRead t).bytes (t.addr 32) 128)
      if g.n == 0 then (s.recordRead t).handOver t (.finished stDone 0 0 0) (pgMemDie d) [] d
      else if gatherCheck g != 0 then
        ((s.recordRead t).refuseTask t (pgMemDie d) stAborted (gatherCheck g) 0x0707 0 [d, gatherCheck g]).cause (pgGather d) 0
      else
        let v := (s.recordRead t).gatherBegun t d
        (v.indexRead g).gatherWork d ((v.task? t.seq).getD t) g := by
  unfold State.startGather
  dsimp only
  rw [hf]
  rfl

theorem State.recordRead_notes (hf : faultIn (t.addr 32) 128 = none) : Notes CheckRegs s (s.recordRead t) :=
  ((Notes.refl CheckRegs s).cacheUse _ _).check (fun _ hk => sealed_of_rangeOk (rangeOk_of_faultIn hf) hk) (fun _ => .inl) fun _ => .inr

end

/-! The task runs. -/

theorem State.handOver_blockOk (s : State) (t : Task) (phase : Phase) (unit : Nat) (pages : List Nat) (target k : Nat) :
    (s.handOver t phase unit pages target).blockOk k = s.blockOk k := by
  obtain ⟨hnotes, -⟩ := s.handOver_spec t phase unit pages target
  exact hnotes.blockOk k

/-- The state in which a task's work begins: `s` but for tasks, registers and notes. -/
structure Begun (s w : State) (n : Nat) (t : Task) : Prop where
  quiet : Quiet OfDies s w
  ok : ∀ k, w.blockOk k = s.blockOk k
  task : w.task? n = some t

theorem indexRead_begun {s : State} {n d : Nat} {t t₀ : Task} {g : GatherOp} (hf : faultIn (t.addr 32) 128 = none) (htask : s.task? n = some t₀)
    (hseq : t.seq = t₀.seq) (hn : t.seq = n) (hd : d < 8) (hindex : rangeOk g.indexRange.1 g.indexRange.2 = true) :
    let v := (s.recordRead t).gatherBegun t d
    ∃ t', (v.task? t.seq).getD t = t' ∧ Begun s (v.indexRead g) n t' := by
  have hread := State.recordRead_notes (s := s) hf
  have hnew := State.handOver_task (s := s.recordRead t) (t := t) (hread.task?.trans htask) hseq .running (pgMemDie d) [pgGather d] d
  have hhands := (s.recordRead t).handOver_hands t .running (pgMemDie d) [pgGather d] d
  have hok := (s.recordRead t).handOver_blockOk t .running (pgMemDie d) [pgGather d] d
  unfold State.gatherBegun
  dsimp only
  generalize (s.recordRead t).handOver t .running (pgMemDie d) [pgGather d] d = h at *
  have hcur : Notes (GatherReg d) h (h.wf (pgGather d) R.GATHER.CUR_TASK t.cmplIndex) := (Notes.refl _ h).wf (gatherReg_page (by decide))
  generalize h.wf (pgGather d) R.GATHER.CUR_TASK t.cmplIndex = v at *
  have hidx : Notes CheckRegs v (v.indexRead g) :=
    ((Notes.refl CheckRegs v).cacheUse _ _).check (fun _ hk => sealed_of_rangeOk hindex hk) (fun _ => .inl) fun _ => .inr
  have hv : v.task? n = some (t.handed (s.recordRead t).now .running (pgMemDie d) [pgGather d] d) := hcur.task?.trans hnew
  refine ⟨_, by rw [hn, hv]; rfl, ?_, fun k => ?_, hidx.task?.trans hv⟩
  · exact (((hread.quiet.mono fun _ => CheckRegs.ofDies).trans (hhands.quiet.mono fun _ => Dispatched.ofDies)).trans
      (hcur.quiet.mono fun _ => GatherReg.ofDies hd)).trans (hidx.quiet.mono fun _ => CheckRegs.ofDies)
  · rw [hidx.blockOk, hcur.blockOk, hok, hread.blockOk]

/-- The work of a gather task: a move within its outputs, and its end. -/
structure GatherWork (g : GatherOp) (w : State) (m : Moved) (c : GatherCounts) (more : List Post) (d : Nat) : Prop where
  moves : Moves CheckRegs (gatherOuts g) w m.s
  nonfin : g.scatter = false → c.nonfin = 0
  posts : g.experts = true → m.bad = none → more = (w.groups g).posts g d

theorem gatherOuts_scatter {g : GatherOp} (h : g.scatter = true) : gatherOuts g = [(g.table, g.rows * g.rowB)] := by
  unfold gatherOuts
  rw [h]
  rfl

/-- The moves of each of the three tasks, and what they count. -/
theorem State.rowsWork {g : GatherOp} (hfit : GatherFits g) (hs : g.scatter = false) (hx : g.experts = false) (w : State) (d : Nat) :
    GatherWork g w (w.rowsMoved g g.n).m (w.rowCounts g) [] d :=
  ⟨w.rowsMoved_moves hfit hs hx, fun _ => rfl, fun h => (nomatch hx.symm.trans h)⟩

theorem State.expertsWork {g : GatherOp} (hfit : GatherFits g) (hs : g.scatter = false) (hx : g.experts = true) (w : State) (d : Nat) :
    GatherWork g w (w.expertsMoved g) ⟨(w.expertRows g).rows, (w.groups g).range, (w.groups g).ignored, 0⟩
      (if (w.expertsMoved g).bad.isSome then [] else (w.groups g).posts g d) d := by
  refine ⟨w.expertsMoved_moves hfit hs hx, fun _ => rfl, fun _ hb => ?_⟩
  rw [hb]
  rfl

theorem State.scatterWork {g : GatherOp} (hfit : GatherFits g) (hs : g.scatter = true) (hx : g.experts = false) (w : State) (d : Nat) :
    GatherWork g w (w.scatterRows g (w.scatterKeys g)).m (w.scatterCounts g) [] d := by
  have hlt : ∀ i ∈ w.scatterKeys g, i < g.rows := fun i => State.scatterKeys_lt
  refine ⟨(w.scatterRows_moves hfit hx _ hlt).within fun x hin => ?_, fun h => (nomatch hs.symm.trans h), fun h => (nomatch hx.symm.trans h)⟩
  obtain ⟨h1, h2⟩ := rows_within hlt hin
  rw [gatherOuts_scatter hs]
  exact ⟨_, List.mem_cons_self, h1, h2⟩

section
variable {g : GatherOp} {w : State} (hk : w.firstBad (blocksOf g.indexRange.1 g.indexRange.2) = none)
include hk

/-- With good indices a task goes on to its moves. -/
theorem State.gatherWork_rows (hs : g.scatter = false) (hx : g.experts = false) (d : Nat) (t : Task) : w.gatherWork d t g = w.gatherRows d t g := by
  unfold State.gatherWork
  rw [hk, hs, hx]
  rfl

theorem State.gatherWork_experts (hs : g.scatter = false) (hx : g.experts = true) (d : Nat) (t : Task) : w.gatherWork d t g = w.gatherExperts d t g := by
  unfold State.gatherWork
  rw [hk, hs, hx]
  rfl

theorem State.gatherWork_scatter (hs : g.scatter = true) (d : Nat) (t : Task) : w.gatherWork d t g = w.scatterAdd d t g := by
  unfold State.gatherWork
  rw [hk, hs]
  rfl

end

theorem State.gatherWork_badIndex {g : GatherOp} {w : State} {k : Nat} (hk : w.firstBad (blocksOf g.indexRange.1 g.indexRange.2) = some k) (d : Nat)
    (t : Task) : w.gatherWork d t g = Moved.gatherEnd ⟨w, [], [], some k⟩ d t g ⟨0, 0, 0, 0⟩ 0 [] := by
  unfold State.gatherWork
  rw [hk]
  rfl

/-- Every task that runs does such work. -/
theorem State.gatherWork_spec {g : GatherOp} (hfit : GatherFits g) (hsx : g.scatter = true → g.experts = false) (w : State) (d : Nat) (t : Task) :
    ∃ m c at_ more, w.gatherWork d t g = m.gatherEnd d t g c at_ more ∧ GatherWork g w m c more d := by
  cases hk : w.firstBad (blocksOf g.indexRange.1 g.indexRange.2) with
  | some k => exact ⟨_, _, _, _, State.gatherWork_badIndex hk d t, .refl _ _ _, fun _ => rfl, fun _ => nofun⟩
  | none =>
    cases hs : g.scatter with
    | true => exact ⟨_, _, _, _, (State.gatherWork_scatter hk hs d t).trans (w.scatterAdd_eq d t g), w.scatterWork hfit hs (hsx hs) d⟩
    | false =>
      cases hx : g.experts with
      | true => exact ⟨_, _, _, _, (State.gatherWork_experts hk hs hx d t).trans (w.gatherExperts_eq d t g), w.expertsWork hfit hs hx d⟩
      | false => exact ⟨_, _, _, _, (State.gatherWork_rows hk hs hx d t).trans (w.gatherRows_eq d t g), w.rowsWork hfit hs hx d⟩

/-- What a task that has run leaves. -/
structure GatherRan (g : GatherOp) (s : State) (m : Moved) (c : GatherCounts) (u : State) (n : Nat) (more : List Post) : Prop where
  fin : Finished u n (gatherStatus m.bad.isSome c) 0
  only : OnlyIn s u (gatherOuts g)
  regs : SameRegs s u OfDies
  bytes : SameBytes m.s u
  post : ∃ k, u.task? n = some k ∧ ∀ p ∈ more, p ∈ k.post

theorem GatherWork.ran {g : GatherOp} {s w : State} {m : Moved} {c : GatherCounts} {more : List Post} {d n : Nat} {t : Task} (h : GatherWork g w m c more d)
    (hd : d < 8) (hw : Begun s w n t) (at_ : Nat) : GatherRan g s m c (m.gatherEnd d t g c at_ more) n more := by
  obtain ⟨hfin, hquiet, hpost⟩ := m.gatherEnd_spec ((h.moves.task? n).trans hw.task) d g c at_ more
  refine ⟨hfin, ?_, fun o ho => ?_, hquiet.bytes, hpost⟩
  · exact OnlyIn.same ⟨fun a ha => (h.moves.only.1 a ha).trans (hw.quiet.bytes a), fun k hk => (h.moves.only.2 k hk).trans (hw.quiet.seals k)⟩
      hquiet.bytes hquiet.seals
  · rw [hquiet.regs o fun hg => ho (hg.ofDies hd), h.moves.regs o fun hg => ho hg.ofDies, hw.quiet.regs o ho]

end Sys2Proof.Machine
end

section
/-! PROOFS. The tasks of a gather unit, by how they end (R319 to R323). -/

namespace Sys2Proof.Machine

open Sys2Proof.Claims

/-! Equal bytes make equal work. -/

section
variable {s w : State} (h : SameBytes s w) (g : GatherOp)
include h

theorem num_sameBytes (a n : Nat) : w.num a n = s.num a n := num_same fun j _ => h (a + j)

theorem indices_sameBytes : w.indices g = s.indices g := by
  unfold State.indices State.nums
  simp only [num_sameBytes h]

theorem groups_sameBytes : w.groups g = s.groups g := by
  unfold State.groups
  simp only [num_sameBytes h]

theorem rowIndex_sameBytes (p : Nat) : rowIndex w g p = rowIndex s g p := by
  unfold rowIndex
  rw [indices_sameBytes h]

theorem rowByte_sameBytes (p i : Nat) : rowByte w g p i = rowByte s g p i := by
  unfold rowByte
  rw [rowIndex_sameBytes h]
  split
  · exact h _
  · rfl

theorem rowSum_sameBytes (i e : Nat) : rowSum w g i e = rowSum s g i e := by
  unfold rowSum
  simp only [num_sameBytes h, rowIndex_sameBytes h]

end

/-- A task has one status. -/
theorem finished_unique {u : State} {n a b x y : Nat} (h : Finished u n a x) (g : Finished u n b y) : a = b := by
  obtain ⟨t, _, _, ht, hp⟩ := h
  obtain ⟨t', _, _, ht', hp'⟩ := g
  obtain rfl := Option.some.inj (ht.symm.trans ht')
  exact (Phase.finished.inj (hp.symm.trans hp')).1

/-! A task at its unit. -/

/-- What a task that reaches its unit may rely on. -/
structure GatherReady (s : State) (n : Nat) (t : Task) (d : Nat) (g : GatherOp) : Prop where
  task : s.task? n = some t
  seq : t.seq = n
  die : d < 8
  op : g = gatherOp t (s.bytes (t.addr 32) 128)
  record : faultIn (t.addr 32) 128 = none

theorem gatherReady_of_go {s : State} {n type d : Nat} {t : Task} {g : GatherOp} {c : Instr} (h : GatherGo s n type t d g) (hform : GatherForm c n type g) :
    GatherReady s n t d g := by
  obtain ⟨hdisp, hpick, -, -, hop, -, hrecord⟩ := h
  obtain ⟨htask, hseq⟩ := dispatchable_task hdisp
  have hdie := State.pickUnit_lt hpick
  refine ⟨htask, hseq, ?_, hop, hrecord⟩
  rcases hform with ⟨-, rfl, -⟩ | ⟨-, rfl, -⟩ | ⟨-, rfl⟩ <;> exact hdie

theorem State.gatherSealErr_logged (s : State) (d k pos : Nat) : Logged s (s.gatherSealErr d k pos) 0x0703 [32, 4096 * k] :=
  Quiet.logged (((Notes.refl (GatherReg d) s).inc (gatherReg_page (by decide))).err (gatherReg_page (by decide)) (gatherReg_page (by decide))).quiet
    ((Notes.refl (GatherReg d) _).cause (gatherReg_page (by decide)) fun _ => .inr).quiet

/-- The cause of a refused task. -/
theorem State.gatherCause_set (s : State) {d : Nat} (hd : d < 8) : Caused (s.cause (pgGather d) 0) (pgGather d) 0 := by
  refine s.cause_set _ _ (by decide) (not_routeReg_of_dies ?_ ?_) <;>
  · unfold pgGather pgMemDie quadBase oINT_STATUS
    omega

section
variable {s : State} {n d : Nat} {t : Task} {g : GatherOp} (h : GatherReady s n t d g)
include h

/-- The record read and checked: the task it describes. -/
theorem GatherReady.read : Notes CheckRegs s (s.recordRead (t.aimed d)) ∧
    gatherOp (t.aimed d) ((s.recordRead (t.aimed d)).bytes ((t.aimed d).addr 32) 128) = g := by
  have hread := State.recordRead_notes (s := s) (t := t.aimed d) h.record
  rw [hread.sameBytes.bytes, h.op]
  exact ⟨hread, rfl⟩

/-- A record that fails its seal (R322). -/
theorem GatherReady.badRecord {k : Nat} (hk : s.firstBad (blocksOf (t.addr 32) 128) = some k) : let u := s.startGather (t.aimed d) d
    EndsAt OfDies s u n stSeal 0 ∧ Logged s u 0x0703 [32, 4096 * k] := by
  obtain ⟨hread, -⟩ := h.read
  have hbad : (s.recordRead (t.aimed d)).firstBad (blocksOf ((t.aimed d).addr 32) 128) = some k := (hread.firstBad _).trans hk
  dsimp only
  rw [State.startGather_eq (t := t.aimed d) h.record, hbad]
  have hnotes := (hread.mono fun _ => CheckRegs.ofDies).trans (((s.recordRead (t.aimed d)).gatherSealErr_notes d k 0).mono fun _ => GatherReg.ofDies h.die)
  refine ⟨hnotes.endsAt (fun _ => Dispatched.ofDies) h.task rfl _ _ _ _ _ _ _, hread.quiet.logged_before ?_⟩
  exact (State.handOver_hands _ _ _ _ _ _).quiet.logged_after (State.gatherSealErr_logged _ _ _ _)

variable (hgood : s.firstBad (blocksOf (t.addr 32) 128) = none)
include hgood

/-- A good record: the task as it describes it. -/
theorem GatherReady.started : s.startGather (t.aimed d) d =
    if g.n == 0 then (s.recordRead (t.aimed d)).handOver (t.aimed d) (.finished stDone 0 0 0) (pgMemDie d) [] d
    else if gatherCheck g != 0 then
      ((s.recordRead (t.aimed d)).refuseTask (t.aimed d) (pgMemDie d) stAborted (gatherCheck g) 0x0707 0 [d, gatherCheck g]).cause (pgGather d) 0
    else
      let v := (s.recordRead (t.aimed d)).gatherBegun (t.aimed d) d
      (v.indexRead g).gatherWork d ((v.task? (t.aimed d).seq).getD (t.aimed d)) g := by
  obtain ⟨hread, hop⟩ := h.read
  have hnone : (s.recordRead (t.aimed d)).firstBad (blocksOf ((t.aimed d).addr 32) 128) = none := (hread.firstBad _).trans hgood
  rw [State.startGather_eq (t := t.aimed d) h.record, hnone]
  dsimp only
  rw [hop]

/-- A task without rows (R321). -/
theorem GatherReady.empty (hn : g.n = 0) : EndsAt OfDies s (s.startGather (t.aimed d) d) n stDone 0 := by
  rw [h.started hgood, if_pos (beq_iff_eq.mpr hn)]
  exact (h.read.1.mono fun _ => CheckRegs.ofDies).endsAt (fun _ => Dispatched.ofDies) h.task rfl _ _ _ _ _ _ _

variable (hn : g.n ≠ 0)
include hn

/-- A task that fails a check of Table 12-11. -/
theorem GatherReady.refused (hc : gatherCheck g ≠ 0) : let u := s.startGather (t.aimed d) d
    EndsAt OfDies s u n stAborted (gatherCheck g) ∧ Caused u (pgGather d) 0 ∧ Logged s u 0x0707 [d, gatherCheck g] := by
  dsimp only
  rw [h.started hgood, if_neg (mt beq_iff_eq.mp hn), if_pos (bne_iff_ne.mpr hc)]
  obtain ⟨⟨hfin, hhands⟩, hlog⟩ := State.refuseTask_spec (t := t.aimed d) (h.read.1.mono fun _ => CheckRegs.ofDies) (fun _ => Dispatched.ofDies)
    (fun _ => reports_ofDies) h.task rfl (pgMemDie d) stAborted (gatherCheck g) (event := 0x0707) (by decide) 0 [d, gatherCheck g]
  generalize (s.recordRead (t.aimed d)).refuseTask (t.aimed d) (pgMemDie d) stAborted (gatherCheck g) 0x0707 0 [d, gatherCheck g] = v at *
  have hcause : Notes OfDies v (v.cause (pgGather d) 0) :=
    ((Notes.refl (GatherReg d) v).cause (gatherReg_page (by decide)) fun _ => .inr).mono fun _ => GatherReg.ofDies h.die
  refine ⟨⟨?_, hhands.trans hcause.hands⟩, State.gatherCause_set v h.die, hcause.quiet.logged_after hlog⟩
  obtain ⟨t', e, x, ht', hphase⟩ := hfin
  exact ⟨t', e, x, hcause.task?.trans ht', hphase⟩

/-- A task that passes its checks runs. -/
theorem GatherReady.runs (hc : gatherCheck g = 0) : ∃ w t', s.startGather (t.aimed d) d = w.gatherWork d t' g ∧ Begun s w n t' := by
  obtain ⟨t', ht', hbegun⟩ := indexRead_begun (s := s) (n := n) (t := t.aimed d) (g := g) h.record h.task rfl h.seq h.die
    ((gatherFits_of_check hc).ranges _ mem_ranges_index)
  refine ⟨_, t', ?_, hbegun⟩
  rw [h.started hgood, if_neg (mt beq_iff_eq.mp hn), if_neg (by rw [hc]; decide)]
  exact congrArg (fun x => State.gatherWork _ d x g) ht'

end

/-! Of good blocks. -/

section
variable {s w : State} {n : Nat} {t : Task} {g : GatherOp} (hw : Begun s w n t)
  (hblocks : ∀ k ∈ blocksOfAll [g.indexRange, (g.out, g.n * g.rowB), (g.table, g.tableRows * g.rowB)], s.blockOk k = true)
include hw hblocks

/-- The index of a task of good blocks passes its check. -/
theorem Begun.goodIndex : w.firstBad (blocksOf g.indexRange.1 g.indexRange.2) = none :=
  State.firstBad_good fun k hk => (hw.ok k).trans (hblocks k (mem_blocksOfAll.mpr ⟨_, List.mem_cons_self, hk⟩))

theorem Begun.rowsGood (hx : g.experts = false) (hapart : ∀ k ∈ blocksOf g.out (g.n * g.rowB), k ∉ blocksOf g.table (g.tableRows * g.rowB)) :
    RowsGood w g := by
  rw [tableRows_rows hx] at hblocks hapart
  exact ⟨fun k hk => (hw.ok k).trans (hblocks k (mem_blocksOfAll.mpr ⟨_, List.mem_cons_of_mem _ List.mem_cons_self, hk⟩)),
    fun k hk => (hw.ok k).trans (hblocks k (mem_blocksOfAll.mpr ⟨_, List.mem_cons_of_mem _ (List.mem_cons_of_mem _ List.mem_cons_self), hk⟩)), hapart⟩

end

section
variable {s w : State} {n d : Nat} {t : Task} {g : GatherOp} (hfit : GatherFits g) (hw : Begun s w n t) (hd : d < 8) (hx : g.experts = false)
  (hindex : w.firstBad (blocksOf g.indexRange.1 g.indexRange.2) = none) (hgood : RowsGood w g)
include hfit hw hd hx hindex hgood

/-- GATHER in row mode (R319). -/
theorem Begun.rows (hs : g.scatter = false) (h2 : g.plane2 = false) : let u := w.gatherWork d t g
    Finished u n stDone 0 ∧ ∀ p i, p < g.n → i < g.rowB → u.byte (g.out + p * g.rowB + i) = rowByte s g p i := by
  obtain ⟨hok, -, -, hrows⟩ := State.rowsMoved_good hfit hs hx h2 hgood g.n (Nat.le_refl _)
  have hran := (w.rowsWork hfit hs hx d).ran hd hw (w.rowsMoved g g.n).at_
  have hfin := hran.fin
  dsimp only
  rw [State.gatherWork_rows hindex hs hx, State.gatherRows_eq]
  rw [hok] at hfin
  refine ⟨hfin, fun p i hp hi => ?_⟩
  calc _ = (w.rowsMoved g g.n).m.s.byte (g.out + p * g.rowB + i) := hran.bytes _
    _ = rowByte w g p i := hrows p i hp hi
    _ = rowByte s g p i := rowByte_sameBytes hw.quiet.bytes g p i

/-- SCATTER_ADD (R320). -/
theorem Begun.sums (hs : g.scatter = true) : let u := w.gatherWork d t g
    (Finished u n stDone 0 ∨ Finished u n stNonfinite 0) ∧ ∀ r,
      ((∃ p, p < g.n ∧ rowIndex s g p = some r) → ∀ e, e < g.rowB / 4 → u.num (g.table + r * g.rowB + 4 * e) 4 = rowSum s g r e) ∧
      ((∀ p, p < g.n → rowIndex s g p ≠ some r) → ∀ i, i < g.rowB → u.byte (g.table + r * g.rowB + i) = s.byte (g.table + r * g.rowB + i)) := by
  obtain ⟨hok, hmoves, -, hsums⟩ := State.scatterRows_good hfit hx hgood (w.scatterKeys g) (w.scatterKeys_nodup g) fun _ hi => hi
  have hran := (w.scatterWork hfit hs hx d).ran hd hw (w.scatterRows g (w.scatterKeys g)).at_
  have hfin := hran.fin
  have hbytes := hw.quiet.bytes
  have hkeys : ∀ r, r ∈ w.scatterKeys g ↔ ∃ p, p < g.n ∧ rowIndex s g p = some r := fun r => by
    simp only [State.mem_scatterKeys, rowIndex_sameBytes hbytes]
  dsimp only
  rw [State.gatherWork_scatter hindex hs, State.scatterAdd_eq]
  rw [hok] at hfin
  refine ⟨?_, fun r => ⟨fun hnamed e he => ?_, fun hnone i hi => ?_⟩⟩
  · unfold gatherStatus at hfin
    rw [if_neg (by decide)] at hfin
    split at hfin
    · exact .inr hfin
    · exact .inl hfin
  · calc _ = (w.scatterRows g (w.scatterKeys g)).m.s.num (g.table + r * g.rowB + 4 * e) 4 := num_sameBytes hran.bytes _ _
      _ = rowSum w g r e := hsums r ((hkeys r).mpr hnamed) e he
      _ = rowSum s g r e := rowSum_sameBytes hbytes g r e
  · have hnot : r ∉ w.scatterKeys g := fun hmem => by
      obtain ⟨p, hp, hr⟩ := (hkeys r).mp hmem
      exact hnone p hp hr
    calc _ = (w.scatterRows g (w.scatterKeys g)).m.s.byte (g.table + r * g.rowB + i) := hran.bytes _
      _ = w.byte (g.table + r * g.rowB + i) := hmoves.byte (not_inAny_rows hnot hi)
      _ = s.byte (g.table + r * g.rowB + i) := hbytes _

end

end Sys2Proof.Machine

namespace Sys2Proof.Claims

open Machine

section
variable {s w : State} {n d : Nat} {t : Task} {g : GatherOp}

/-- A task that has run ends in one of three ways; NONFINITE is SCATTER_ADD's. -/
theorem gatherStatus_cases {u : State} {bad : Bool} {c : GatherCounts} (h : Finished u n (gatherStatus bad c) 0) :
    Finished u n stDone 0 ∨ Finished u n stSeal 0 ∨ (c.nonfin ≠ 0 ∧ Finished u n stNonfinite 0) := by
  unfold gatherStatus at h
  split at h
  · exact .inr (.inl h)
  · split at h
    · rename_i hc
      exact .inr (.inr ⟨bne_iff_ne.mp hc, h⟩)
    · exact .inl h

/-- A task that is DONE met no block that fails. -/
theorem bad_none_of_done {u : State} {bad : Option Nat} {c : GatherCounts} (h : Finished u n (gatherStatus bad.isSome c) 0) (hdone : Finished u n stDone 0) :
    bad = none := by
  cases bad with
  | none => rfl
  | some k => exact absurd (finished_unique h hdone) (show stSeal ≠ stDone by decide)

/-- What a running task of any of the three forms leaves. -/
theorem gatherWork_leaves (hfit : GatherFits g) (hsx : g.scatter = true → g.experts = false) (hw : Begun s w n t) (hd : d < 8) :
    let u := w.gatherWork d t g
    (Finished u n stDone 0 ∨ Finished u n stSeal 0 ∨ (g.scatter = true ∧ Finished u n stNonfinite 0)) ∧ OnlyIn s u (gatherOuts g) ∧
      SameRegs s u OfDies ∧ (g.experts = true → Finished u n stDone 0 →
        ∃ k, u.task? n = some k ∧ ∀ x, x < g.x → Post.button (g.cnt + x) (nth (s.groups g).main x []).length ∈ k.post) := by
  obtain ⟨m, c, at_, more, heq, hwork⟩ := State.gatherWork_spec hfit hsx w d t
  obtain ⟨hfin, honly, hregs, -, k, hk, hpost⟩ := hwork.ran hd hw at_
  dsimp only
  rw [heq]
  refine ⟨?_, honly, hregs, fun hx hdone => ⟨k, hk, fun x hlt => hpost _ ?_⟩⟩
  · rcases gatherStatus_cases hfin with hdone | hseal | ⟨hc, hnonfin⟩
    · exact .inl hdone
    · exact .inr (.inl hseal)
    · exact .inr (.inr ⟨by by_contra hs; exact hc (hwork.nonfin (Bool.eq_false_iff.mpr hs)), hnonfin⟩)
  · rw [hwork.posts hx (bad_none_of_done hfin hdone), groups_sameBytes hw.quiet.bytes g]
    exact button_mem_posts _ g d hlt

end

end Sys2Proof.Claims

open Sys2Proof Sys2Proof.Machine Sys2Proof.Claims

/-- Settles O36: the task's moves stay in its outputs, each written row keeps its bytes to the end, and each named row is summed once. -/
theorem Sys2Proof.Claims.gatherTasks : Obligations.GatherTasks := by
  intro s n t d g c type hgo hform
  have h := gatherReady_of_go hgo hform
  have hmode := gatherMode_of_go hgo hform
  have hex := exec_gather_of_go hgo hform
  refine ⟨fun k hk => ?_, fun hgood => ⟨fun hn => ?_, fun hn hc => ?_, fun hn hc => ?_, fun hn hc h2 hblocks hapart => ?_⟩⟩
  · obtain ⟨hends, hlog⟩ := h.badRecord hk
    obtain ⟨hfin, -, hkept⟩ := hends.facts fun _ h => h
    exact ⟨_, hex, hfin, hlog, hkept⟩
  · obtain ⟨hfin, -, hkept⟩ := (h.empty hgood hn).facts fun _ h => h
    exact ⟨_, hex, hfin, hkept⟩
  · obtain ⟨hends, hcause, hlog⟩ := h.refused hgood hn hc
    obtain ⟨hfin, -, hkept⟩ := hends.facts fun _ h => h
    exact ⟨_, hex, hfin, hcause, hlog, hkept⟩
  all_goals
    obtain ⟨w, t', heq, hw⟩ := h.runs hgood hn hc
    have hfit := gatherFits_of_check hc
    rw [heq] at hex
  · obtain ⟨hfin, honly, hregs, hposts⟩ := gatherWork_leaves hfit (fun hs => (hmode.of_scatter hs).2) hw h.die
    refine ⟨_, hex, hfin.imp_right (Or.imp_right fun ⟨hs, hnonfin⟩ => ⟨(hmode.of_scatter hs).1, hnonfin⟩), honly, hregs, fun hexperts => hposts ?_⟩
    subst hexperts
    exact hmode.of_experts
  · refine ⟨fun hrows => ⟨_, hex, ?_⟩, fun hscatter => ⟨_, hex, ?_⟩⟩
    · subst hrows
      cases hmode with
      | rows hs hx => exact hw.rows hfit h.die hx (hw.goodIndex hblocks) (hw.rowsGood hblocks hx hapart) hs h2
    · subst hscatter
      cases hmode with
      | scatter hs hx =>
        obtain ⟨hfin, hsums⟩ := hw.sums hfit h.die hx (hw.goodIndex hblocks) (hw.rowsGood hblocks hx hapart) hs
        exact ⟨hfin, fun r _ => hsums r⟩
end
